-- ==== Sys2Proof/Word.lean ====
section
/-! DEFINITION. The word types of the Cikar module and the plainest helpers on them. -/

namespace Sys2Proof

/-- One byte. -/
abbrev Byte := BitVec 8

/-- A 16-bit value: status codes (R12), plan IDs (R175), weight epochs (R200). -/
abbrev W16 := BitVec 16

/-- A 32-bit value: an element of a vector buffer (R42), a step number (R25). -/
abbrev W32 := BitVec 32

/-- A 64-bit value: a scalar register (R21), a stamp in ns (R253). -/
abbrev W64 := BitVec 64

/-- A stamp: an unsigned 64-bit count of nanoseconds (R253). -/
abbrev Stamp := BitVec 64

/-- A 64-byte ring entry (R299). Byte `i` holds bits `[8i+7:8i]`. -/
abbrev Entry := BitVec 512

/-- A 512-bit tensor descriptor (R32). -/
abbrev Desc := BitVec 512

end Sys2Proof
end

