-- ==== Sys2Proof/Syntax.lean ====
section
/-! DEFINITION. The commands of the Cikar module: one constructor of `Instr` per row of
spec/opcode_table.json, with the operands the row acts on. A slot operation of a bundle carries the
slot's common fields (`Slot`, R30, R31) and its slot's operand fields; a ring command names the ring
whose head entry Chanter takes (R300, R303); an event carries what the outside world brings with it. -/

namespace Sys2Proof

/-! ### Slot operands (02_programming_model.md) -/

/-- What every slot of a bundle has (R30, R31): the partition whose issue sequencer issues it, the
predicate, whether a further slot of the same bundle follows (R22: slots MX, VA, VB, LD, ST, CF, SY in
this order), and the bundle's two immediates. -/
structure Slot where
  /-- The partition, 0-3; 0 also for the full array (R77). -/
  part : Fin 4
  /-- PNEG: the predicate is inverted. -/
  pneg : Bool
  /-- PRED: predicate number. -/
  pred : Fin 16
  /-- A later slot of the same bundle follows; with `false` the bundle retires. -/
  more : Bool
  imm0 : W64
  imm1 : W64
  deriving DecidableEq, Repr

/-- The MX slot's operand fields (R37). -/
structure MxOps where
  ac : Fin 4
  opr : Fin 4
  init : Bool
  last : Bool
  idx : Bool
  tda : Fin 256
  tdb : Fin 256
  tdc : Fin 256
  tde : Fin 256
  tdx : Fin 256
  epi : Fin 4
  ftq : Bool
  deriving DecidableEq, Repr

/-- The VA and VB slots' operand fields (R42). -/
structure VOps where
  /-- The operation stands in VB, not VA. -/
  vb : Bool
  d : Fin 4
  x : Fin 4
  y : Fin 4
  z : Fin 4
  rows : BitVec 13
  cols : BitVec 13
  ss : Fin 64
  ims : Bool
  td : Fin 256
  fn : Fin 16
  acs : Fin 2
  pd : Fin 16
  deriving DecidableEq, Repr

/-- The LD and ST slots' operand fields (R45). -/
structure MvOps where
  td : Fin 256
  v : Fin 4
  rowo : Fin 64
  colo : Fin 64
  rows : BitVec 13
  cols : BitVec 13
  td2 : Fin 256
  ix : Fin 4
  pd : Fin 16
  cfn : Fin 16
  grp : BitVec 12
  deriving DecidableEq, Repr

/-- The CF slot's operand fields (R49). -/
structure CfOps where
  fn : Fin 16
  sd : Fin 64
  sa : Fin 64
  sb : Fin 64
  imb : Bool
  imsel : Bool
  pd : Fin 16
  lc : Fin 8
  tgt : BitVec 20
  td : Fin 256
  deriving DecidableEq, Repr

/-- The SY slot's operand fields (R52). -/
structure SyOps where
  ac : Fin 4
  code : W16
  deriving DecidableEq, Repr

/-! ### What the host brings -/

/-- A function of the PCIe endpoint: the PF, or the VF of a tenant (R298). -/
inductive Fn where
  | pf
  | vf (t : Fin 16)
  deriving DecidableEq, Repr

/-- A firmware image as the ROM reads it from the host region (R293): its header fields, and whether
its digest and its two signatures verify under the pair in force (R339, R340). -/
structure FwImage where
  fwrel : W32
  hwgen : Byte
  nepmin : Byte
  nepmax : Byte
  borever : W32
  bodylen : W32
  feat : BitVec 256
  digest : BitVec 384
  digestOk : Bool
  rsaOk : Bool
  slhOk : Bool
  deriving DecidableEq, Repr

/-- The start-up parameter block (R295). -/
structure StartBlock where
  pver : W32
  hostreg : Byte
  startTai : Stamp
  drvrel : W32
  deriving DecidableEq, Repr

/-- One window entry of a 512-byte tenant record (R333); `rsv` says that a reserved field is not zero. -/
structure WinRec where
  base : BitVec 48
  limit : BitVec 48
  tier : Byte
  grant : W16
  rsv : Bool
  deriving DecidableEq, Repr

/-- A control register without behaviour of its own, named by its place (R298, R315). -/
inductive Reg where
  /-- FEAT_DRV of a function. -/
  | featDrv (f : Fn)
  /-- LOAD_ADDR. -/
  | loadAddr
  /-- LOAD_LEN. -/
  | loadLen
  /-- PARAM_ADDR. -/
  | paramAddr
  /-- ENABLE of an interrupt-controller core block. -/
  | enable (core : Fin 6)
  /-- CPRI of an interrupt-controller core block. -/
  | cpri (core : Fin 6)
  /-- A read-only register or a reserved offset: the write is ignored (R7, R8). -/
  | readOnly (off : W32)
  deriving DecidableEq, Repr

/-! ### What the placer and the hardware bring -/

/-- A memory tier as LAST_UE numbers it (R247): scratchpad, tier 1, tier 2. -/
inductive Tier where
  | sp | t1 | t2
  deriving DecidableEq, Repr

/-- Where a codeword lies (R230-R232): a physical tile and the byte offset in its scratchpad, or a physical
byte address of a tier. -/
inductive MemAt where
  | sp (tile : Fin 68) (off : BitVec 48)
  | t1 (addr : BitVec 48)
  | t2 (addr : BitVec 48)
  deriving DecidableEq, Repr

/-- The rows of the limiter's envelope table, from the top (R323). -/
inductive LimRow where
  | tileTemp | hubTemp | hbmTemp | lpddrTemp | hostTemp | dieCurrent
  | inPower1ms | inPower100us | inCurrent | vin | vislDroop | vislOver
  deriving DecidableEq, Repr

/-- A unit of memory or a clock island with calibration windows (R192). -/
inductive CalUnit where
  | hbmPc (c : Fin 384)
  | dqs (p : Fin 16)
  | zq (p : Fin 16)
  | island (i : Fin 77)
  deriving DecidableEq, Repr

/-- A clock island: physical tiles 0-67, then hub regions H0-H8 (R248). -/
abbrev Island := Fin 77

/-- The cause of a supply fault (R329). -/
inductive SupplyCause where
  | vinLow | holdupLow
  deriving DecidableEq, Repr

/-- What stops a partition's plan with a tenant fault from outside its program (R379). -/
inductive FaultCause where
  /-- A memory-header mismatch (R338): 0x0071. -/
  | isolation
  /-- A plane load chain started early by a defective binding (R70): 0x0021. -/
  | chainOverrun
  /-- A partner fault of a turn-map transfer (R279, R288), with its status: 0x0040 or 0x0043, and CAUSE. -/
  | transfer (status cause : W16)
  deriving DecidableEq, Repr

/-! ### What bore transport brings (13_scale_out_and_collectives.md) -/

/-- The fields of a HELLO body (R269). -/
structure Hello where
  serial : W64
  modnum : W16
  port : Byte
  acked : Bool
  fwrel : W32
  vmin : W16
  vmax : W16
  hwgen : Byte
  nepmax : Byte
  feat : BitVec 256
  tsend : Stamp
  techo : Stamp
  tdwell : W64
  deriving DecidableEq, Repr

/-- The bore header fields that ride on every frame (R272); in HELLO, VER is 0. -/
structure BoreHdr where
  ver : Byte
  nak : Bool
  hostAbsent : Bool
  goingDown : Bool
  portDown : Bool
  ackn : W32
  credit : W16
  deriving DecidableEq, Repr

/-- The packet header of a DATA body (R273). -/
structure PktHdr where
  stamp : Stamp
  tid : BitVec 20
  offset : BitVec 48
  tenant : BitVec 4
  wepoch : W16
  nepoch : Byte
  plan : W16
  step : W32
  last : Bool
  switch : Bool
  nonfinite : Bool
  replay : Bool
  latency : Bool
  mixedOk : Bool
  deriving DecidableEq, Repr

/-- The phase of a ring collective (R273). -/
inductive Phase where
  | reduceScatter | allGather | flag | direct
  deriving DecidableEq, Repr

/-- A DATA frame (R272, R273): packet header with its HCHK, transfer header and payload. `fcsOk` says that the FCS is valid
(R274). The payload is given by elements' bits, in offset order; that of KIND 0x11 by its stream bytes (R288). -/
structure DataFrame where
  hdr : BoreHdr
  psn : W32
  fcsOk : Bool
  pkt : PktHdr
  hchk : W32
  grp : BitVec 12
  srank : W16
  sqn : W32
  kind : Byte
  phase : Phase
  hop : W16
  pfmt : Byte
  mismatch : Bool
  elems : List W32
  stream : List Byte
  deriving DecidableEq, Repr

/-- The hop named by an ACK or RESUME body (R289). -/
structure HopRef where
  grp : BitVec 12
  sqn : W32
  phase : Phase
  hop : W16
  deriving DecidableEq, Repr

/-- The body of an ABORT frame (R279). -/
structure AbortBody where
  grp : BitVec 12
  sqn : W32
  status : W16
  cause : W16
  deriving DecidableEq, Repr

/-- A weight segment (R202): the header is the additional authenticated data of the ciphertext. -/
structure Segment where
  streamid : W32
  seg : W32
  epoch : W16
  aid : W16
  tid : BitVec 20
  offset : BitVec 48
  sflags : W16
  cipher : List Byte
  tag : BitVec 128
  deriving DecidableEq, Repr

/-- A weight segment as it arrives; `sound`: its data stand in the copy without an uncorrectable codeword (R204). -/
structure SegIn where
  seg : Segment
  sound : Bool
  deriving DecidableEq, Repr

/-- A plan's read of a codeword: where it lies, the error that the read adds to the codeword as stored, and whether that
error stands on the cells (R241). -/
structure PlanRead where
  loc : MemAt
  err : BitVec 288
  rest : Bool
  deriving DecidableEq, Repr

/-- A host's read of a codeword: its byte address, and the error as for a plan's read (R241, R243). -/
structure HostRead where
  addr : BitVec 48
  err : BitVec 288
  rest : Bool
  deriving DecidableEq, Repr

/-- A codeword that a die-to-die link brings: the link, and the 35 bytes as they arrive (R237, R239). -/
structure LinkWord where
  link : Fin 8
  raw : List Byte
  deriving DecidableEq, Repr

/-- The errors of a scrub's read: the one that has come to stand on the codeword's cells, and that of this read alone
(R241). -/
structure ScrubErr where
  cells : BitVec 288
  path : BitVec 288
  deriving DecidableEq, Repr

/-- A received HELLO frame: its bore header and its body (R269, R272). -/
structure HelloIn where
  hdr : BoreHdr
  body : Hello
  deriving DecidableEq, Repr

/-- What a port judges of a frame beside its EtherType: FCS and HCHK are valid, and the corrected and uncorrected RS-FEC
codewords that came with it (R266). -/
structure FrameCheck where
  checkOk : Bool
  fec : Nat × Nat
  deriving DecidableEq, Repr

/-- Domain and sequence ID of a PTP message (R260). -/
structure PtpHead where
  domain : Byte
  seqId : W16
  deriving DecidableEq, Repr

/-- The time that a PTP message carries, a Follow_Up's precise origin or a Delay_Resp's time of reception, and its
correction field in ns (R260). -/
structure PtpTime where
  stamp : Stamp
  correction : Int
  deriving DecidableEq, Repr

/-- A PTP Sync as a port takes it (R260): domain, sequence ID, whether it is one-step, so that it needs no Follow_Up, and
for a one-step Sync the master's time of sending and the correction field, in ns. -/
structure PtpSync where
  domain : Byte
  seqId : W16
  oneStep : Bool
  origin : Stamp
  correction : Int
  deriving DecidableEq, Repr

/-- A PTP Announce (R260): its domain, and the fields that the best master clock algorithm compares, in its order. -/
structure PtpAnnounce where
  domain : Byte
  prio1 : Byte
  cclass : Byte
  accuracy : Byte
  variance : W16
  prio2 : Byte
  gm : W64
  stepsRemoved : W16
  sender : W64
  deriving DecidableEq, Repr

/-! ### What the management network brings (17_management_and_hatband.md) -/

/-- Who sends a management item: an IPv6 source address, or the debug port (R368). -/
inductive Requester where
  | addr (a : BitVec 128)
  | debug
  deriving DecidableEq, Repr

/-- A management request's header (R357). -/
structure MReq where
  src : Requester
  ver : Byte
  xid : W32
  deriving DecidableEq, Repr

/-- The value types of the object dictionary (R360). -/
inductive OType where
  | u8 | u16 | u32 | u64 | i32 | f32 | bool | time64 | str | blob
  deriving DecidableEq, Repr

/-- An object: index and sub-index (R7). -/
structure ObjId where
  index : W16
  sub : Byte
  deriving DecidableEq, Repr

/-- A write item (R359): object, TYPE and value bytes. -/
structure WItem where
  obj : ObjId
  type : OType
  value : List Byte
  deriving DecidableEq, Repr

/-- The response to a challenge (R349), as the security block finds it: whether each of its two
signatures verifies over the nonce, serial number and level under the keys of that level. -/
structure ChalVerdict where
  rsaOk : Bool
  slhOk : Bool
  deriving DecidableEq, Repr

/-- A rotation record (R340) as its checks find it: the new index, whether the four signatures over it
verify, and whether the certificate and records it carries verify and match. -/
structure RotRecord where
  newIndex : Byte
  curOk : Bool
  newOk : Bool
  carriedOk : Bool
  matchOk : Bool
  /-- The identity certificate and the signed configuration records that it carries. -/
  cert : List Byte
  records : List (List Byte)
  deriving DecidableEq, Repr

/-- The context image of a SAVE lies in a tenant tensor; RESTORE finds it there. The image has no byte
layout in the manual, so an image is named by the number under which the module wrote it. -/
abbrev ImageTag := Nat

/-- The commands: one constructor per row of spec/opcode_table.json, in its order. -/
inductive Instr where
  -- MX slot
  | pld (sl : Slot) (o : MxOps)
  | mm (sl : Slot) (o : MxOps)
  | ewm (sl : Slot) (o : MxOps)
  | drn (sl : Slot) (o : MxOps)
  | rel (sl : Slot) (o : MxOps)
  -- VA and VB slots
  | vadd (sl : Slot) (o : VOps)
  | vsub (sl : Slot) (o : VOps)
  | vmul (sl : Slot) (o : VOps)
  | vfma (sl : Slot) (o : VOps)
  | vmax (sl : Slot) (o : VOps)
  | vmin (sl : Slot) (o : VOps)
  | vscl (sl : Slot) (o : VOps)
  | vfn (sl : Slot) (o : VOps)
  | vred (sl : Slot) (o : VOps)
  | vcmp (sl : Slot) (o : VOps)
  | vsel (sl : Slot) (o : VOps)
  | vcpr (sl : Slot) (o : VOps)
  | vxpd (sl : Slot) (o : VOps)
  | vcvt (sl : Slot) (o : VOps)
  | vrnd (sl : Slot) (o : VOps)
  | vacc (sl : Slot) (o : VOps)
  | vftq (sl : Slot) (o : VOps)
  | vsamp (sl : Slot) (o : VOps)
  | vstop (sl : Slot) (o : VOps)
  | vopt (sl : Slot) (o : VOps)
  | vget (sl : Slot) (o : VOps)
  | vtst (sl : Slot) (o : VOps)
  | vput (sl : Slot) (o : VOps)
  -- LD slot
  | ldv (sl : Slot) (o : MvOps)
  | gath (sl : Slot) (o : MvOps)
  | copy (sl : Slot) (o : MvOps)
  -- ST slot
  | stv (sl : Slot) (o : MvOps)
  | scat (sl : Slot) (o : MvOps)
  | emit (sl : Slot) (o : MvOps)
  | coll (sl : Slot) (o : MvOps)
  -- CF slot
  | salu (sl : Slot) (o : CfOps)
  | scmp (sl : Slot) (o : CfOps)
  | plog (sl : Slot) (o : CfOps)
  | loop (sl : Slot) (o : CfOps)
  | br (sl : Slot) (o : CfOps)
  | call (sl : Slot) (o : CfOps)
  | ret (sl : Slot) (o : CfOps)
  | step (sl : Slot) (o : CfOps)
  | endp (sl : Slot) (o : CfOps)
  | tdset (sl : Slot) (o : CfOps)
  | param (sl : Slot) (o : CfOps)
  -- SY slot
  | await (sl : Slot) (o : SyOps)
  | trace (sl : Slot) (o : SyOps)
  | event (sl : Slot) (o : SyOps)
  | layer (sl : Slot) (o : SyOps)
  | seed (sl : Slot) (o : SyOps)
  | cmt (sl : Slot) (o : SyOps)
  -- plans: prologue, commit points, binding
  | prologueEnd (p : Fin 4)
  /-- `moved`: the tier-1 bytes moved per pseudo-channel in the interval that ends (R190). -/
  | commitPoint (p : Fin 4) (moved : List (Fin 384 × Nat))
  | commitFillComplete (p : Fin 4)
  | commitSetConfirmed (p : Fin 4)
  | submit (t : Fin 16) (ring : Fin 8)
  /-- `t`: the tenant whose job it completes, the one that the placer works on (R181). -/
  | bindComplete (t : Fin 16)
  | alternateRebindComplete (p : Fin 4)
  -- tenant rings
  | mbatch (t : Fin 16) (ring : Fin 8)
  | admitReq (t : Fin 16) (ring : Fin 8)
  | fetch (t : Fin 16) (ring : Fin 8)
  | weightSegmentReceive (t : Fin 16) (seg : SegIn)
  | switch (t : Fin 16) (ring : Fin 8)
  | retire (t : Fin 16) (ring : Fin 8)
  | group (t : Fin 16) (ring : Fin 8)
  | keyloadAttest (t : Fin 16) (ring : Fin 8)
  | keyloadLoad (t : Fin 16) (ring : Fin 8)
  | keyloadClear (t : Fin 16) (ring : Fin 8)
  | save (t : Fin 16) (ring : Fin 8)
  | restore (t : Fin 16) (ring : Fin 8)
  | release (t : Fin 16) (ring : Fin 8)
  -- the admin ring (PF ring 0)
  | attach
  | detach
  /-- `img`: what the host region holds at the address the entry names (R309). -/
  | activate (img : FwImage)
  | activateCancel
  | firmwareHandover
  /-- `wins`: the 16 window entries of the tenant record at RECADDR (R333). -/
  | tenantSetConfigure (wins : List WinRec)
  | tenantSetDestroy
  | tenantSetGrant (wins : List WinRec)
  | partSet
  | turn
  | unknownOpcode (f : Fn) (ring : Fin 8)
  -- BAR0 and BAR2
  /-- The host has written `entries` at the positions that follow its earlier ones, then the producer
  count `prod` (R299). -/
  | commandDoorbell (f : Fn) (ring : Fin 8) (prod : W32) (entries : List Entry)
  /-- `ring`: 8 completion, 9 event, 10 log, 11 result. -/
  | consumerCountWrite (f : Fn) (ring : Fin 12) (count : W32)
  /-- The fields of RING[r] that the write covers (R298, R299). -/
  | ringConfigWrite (f : Fn) (ring : Fin 12) (base : Option W64) (log2 : Option Byte) (enable : Option Bool)
  /-- `img`, `blk`: what the host region holds at LOAD_ADDR and PARAM_ADDR (R294, R295). -/
  | loadGo (value : W32) (img : FwImage) (blk : StartBlock)
  | imageVerifyComplete
  /-- `bad`: the physical tiles that the start-up self-test finds faulty (R184, R394). -/
  | selftestComplete (bad : List (Fin 68))
  | heartbeatWrite (value : W64)
  | heartbeatLoss
  | modreset (value : W32)
  | pfFunctionLevelReset
  | tenantReset (t : Fin 16)
  | bar2Read (t : Fin 16) (off : BitVec 44) (len : Fin 65)
  | bar2Write (t : Fin 16) (off : BitVec 44) (bytes : List Byte)
  | registerWrite (r : Reg) (value : BitVec 256)
  -- interrupt controller
  | swtrig (n : Fin 128)
  | claim (core : Fin 6)
  | complete (core : Fin 6) (n : Fin 128)
  | coalescedRead
  | errClear (core : Fin 6) (mask : BitVec 2)
  -- faults
  /-- `tiles`: the physical tiles lost in one detection; `det`: the detector's code (R381). -/
  | tileLossDetect (tiles : List (Fin 68)) (det : Byte)
  | interruptionResume (p : Fin 4)
  /-- `copySound`: the copy of the data in the commit set, where they have one there, is sound (R241). -/
  | uncorrectableRead (p : Fin 4) (rd : PlanRead) (copySound : Bool)
  /-- A host read of tier 1 (through BAR2) or tier 2. -/
  | hostUncorrectableRead (t1 : Bool) (rd : HostRead)
  | linkCodewordResend (word : LinkWord)
  /-- `part`: the partition whose traffic the lane carries; none: no running plan's. -/
  | laneLoss (link : Fin 8) (part : Option (Fin 4))
  | tenantFault (p : Fin 4) (cause : FaultCause)
  /-- `unit`: KIND and INDEX of the failed part (R257); `sound`: the commit sets can be restored. -/
  | moduleFault (unit : W16) (sound : Bool)
  -- calibration, scrub, islands
  | hbmRetrainingWindow (c : Fin 384)
  | dqsTrackingWindow (p : Fin 16)
  | zqCalibrationWindow (p : Fin 16)
  /-- `pass`: the cell known-answer test passes (tile islands; R381, R383). -/
  | islandClockCalibration (isl : Island) (pass : Bool)
  /-- `tempMoved`: the unit's temperature has moved by more than 10 °C since its last honoured window. -/
  | guardedModeEnter (u : CalUnit) (tempMoved : Bool)
  | islandDerate (isl : Island)
  /-- `addr`: byte address in tier 1 or tier 2. -/
  | scrubRead (t1 : Bool) (addr : BitVec 48) (err : ScrubErr)
  | droop (isl : Island) (beyond : Bool)
  -- limiter and power
  | limiterWarn (row : LimRow) (unit : Nat)
  /-- `value`: the reading in the row's unit. -/
  | limiterEmergencyEnter (row : LimRow) (unit : Nat) (value : W32)
  | limiterStepDown (row : LimRow) (unit : Nat)
  | limiterEmergencyExit
  | limiterTrip (row : LimRow) (unit : BitVec 12) (value : W32)
  | tripHoldEnd
  | capWWrite (r : MReq) (item : WItem)
  | capSetPointsReady
  | capActiveUpdate
  | supplyFault (cause : SupplyCause) (vin : W32)
  /-- VIN in mV, the slot identity pins, and how long PWR_EN has been low, in ms (R409). -/
  | pwrEnRise (vin : W32) (slotId : BitVec 4) (lowMs : Nat)
  | pwrEnFall
  /-- `us`: how long RST_N is low, in µs (R407). -/
  | rstNAssert (us : Nat)
  | rstNRelease (holdupMj : W32)
  -- bore ports
  | cablePresentChange (p : Fin 16) (present : Bool)
  | phyLinkUp (p : Fin 16)
  | phyLinkDown (p : Fin 16)
  | portEnWrite (r : MReq) (item : WItem)
  | helloSend (p : Fin 16)
  | helloReceive (p : Fin 16) (h : HelloIn)
  | liveSend (p : Fin 16)
  | liveReceive (p : Fin 16) (h : BoreHdr)
  | liveTimeout (p : Fin 16)
  | dataReceive (p : Fin 16) (f : DataFrame)
  | ackReceive (p : Fin 16) (h : BoreHdr) (body : Option HopRef)
  | ackSend (p : Fin 16)
  | resendTimeout (p : Fin 16)
  | abortReceive (p : Fin 16) (h : BoreHdr) (body : AbortBody)
  | resumeReceive (p : Fin 16) (h : BoreHdr) (body : HopRef)
  | progressTimeout (grp : BitVec 12)
  -- PTP
  | ptpSyncReceive (p : Fin 16) (m : PtpSync)
  | ptpDelayReqReceive (p : Fin 16) (h : PtpHead) (source : W64)
  | ptpDelayRespReceive (p : Fin 16) (h : PtpHead) (received : PtpTime)
  | ptpSyncSend (p : Fin 16)
  | ptpMasterLost
  -- management network
  | identify (r : MReq)
  | read (r : MReq) (items : List ObjId)
  | write (r : MReq) (items : List WItem)
  | segread (r : MReq) (obj : ObjId) (offset len : W32)
  | segwrite (r : MReq) (item : WItem) (offset total : W32) (last : Bool)
  | hbread (r : MReq) (area : Byte) (since : W64)
  | mgmtUnknownOp (r : MReq) (op : Byte)
  | mgmtQueueFull (r : MReq)
  | mgmtRetry (r : MReq)
  | responseCacheExpiry
  | segwriteStagingExpiry (src : Requester)
  | heartbeatSend
  | neighbourSolicitation (src : BitVec 128) (target : BitVec 128)
  | echoRequest (src : BitVec 128) (ident seq : W16) (data : List Byte)
  -- the field gate
  | password (r : MReq) (item : WItem)
  | newPassword (r : MReq) (item : WItem)
  | chalLevel (r : MReq) (item : WItem)
  | chalResp (r : MReq) (verdict : ChalVerdict)
  | challengeNonceExpiry
  | close (r : MReq) (item : WItem)
  | levelIdleTimeout (level : Fin 4)
  | lockoutExpiry
  | debugEn (r : MReq) (item : WItem)
  | rotate (r : MReq) (rec : RotRecord)
  -- Hatband
  | hatbandCommit
  -- completions of work begun by an earlier row
  /-- The hold-up energy measured at this start, in mJ (R330). -/
  | moduleResetComplete (holdupMj : W32)
  | activateVerifyComplete
  | saveImageWritten (t : Fin 16)
  | attestReportWritten
  | warnThresholdClear
  | powerTraceSegment (p : Fin 4) (seg : W32)
  | ptpAnnounceReceive (p : Fin 16) (a : PtpAnnounce)
  | ptpFollowUpReceive (p : Fin 16) (h : PtpHead) (origin : PtpTime)
  | ptpPdelayReqReceive (p : Fin 16) (h : PtpHead) (source : W64)
  /-- `turn`: the partner's turn-around in ns. -/
  | ptpPdelayRespReceive (p : Fin 16) (h : PtpHead) (turn : Int)
  | ptpDelayReqSend (p : Fin 16)
  /-- A frame of the bore or PTP EtherType with valid FCS and HCHK is none to discard. -/
  | boreFrameDiscard (p : Fin 16) (etype : W16) (check : FrameCheck)
  | duplicateAddressDetection (dup : Bool)
  | neighbourAdvertisement (src target : BitVec 128)
  /-- `otherPort`: a sound datagram to another UDP port than 4721 (R356). -/
  | mgmtDatagramDiscard (src : BitVec 128) (otherPort : Bool)
  | plcaBeaconSeen
  | plcaBeaconLost
  | supplyLeavesRegulation (good : Bool)
  deriving DecidableEq, Repr

end Sys2Proof
end

