-- ==== Sys2Proof/Config.lean ====
section
/-! DEFINITION. What the manual leaves open, as constants without a body: no proof can see what they
are, so a claim holds whatever they are. Each is named in notes/assumptions. -/

namespace Sys2Proof

/-- R89, R115, R138, R161: the order in which terms join an FP32 sum is a fixed function of the logical
shape, which the manual does not publish. At join `j` of a sum whose shape is `shape` the two partial
sums that join are chosen by this number (FREE VALUE, notes/assumptions/1.md). -/
opaque Config.joinPick (hwgen nepoch : Byte) (shape : List Nat) (j : Nat) : Nat

/-- R114, R138: a function result is the correctly rounded value or one of its two neighbours, fixed by
the numerics epoch: 0 the rounded value, 1 the neighbour below, 2 the one above, modulo 3 (FREE VALUE,
notes/assumptions/2.md). `fn` 0-8 are VFN's functions, 9 is EXP, 10 is LN. -/
opaque Config.neighbour (hwgen nepoch : Byte) (fn : Nat) (input : W32) : Nat

/-- R189, R305, R344, R349: bits from the security block's random source, the `n`-th draw (FREE VALUE,
notes/assumptions/3.md). -/
opaque Config.random (n : Nat) : BitVec 256

/-- R201-R204: AES-256-GCM opening of a weight segment: the plaintext bytes, or none where the tag fails
(FREE VALUE, notes/assumptions/4.md). -/
opaque Config.gcmOpen (key : BitVec 256) (nonce : BitVec 96) (aad cipher : List Byte) (tag : BitVec 128) :
    Option (List Byte)

/-- R347: the RSA-OAEP-3072 opening of a ciphertext under a transport pair: s1, or none (FREE VALUE,
notes/assumptions/4.md). -/
opaque Config.oaepOpen (pair : Nat) (cipher : List Byte) : Option (List Byte)

/-- R347: the ML-KEM-1024 decapsulation under a transport pair: s2, or none (FREE VALUE, notes/assumptions/4.md). -/
opaque Config.kemOpen (pair : Nat) (cipher : List Byte) : Option (List Byte)

/-- R347: HKDF-SHA-384 with a salt, an input and an info, of length 32 (FREE VALUE, notes/assumptions/4.md). -/
opaque Config.hkdf (salt input info : List Byte) : BitVec 256

/-- R345: the modulus and the encapsulation key of a transport pair, bytes 256-2,207 of a report (FREE VALUE,
notes/assumptions/4.md). -/
opaque Config.transportKeys (pair : Nat) : List Byte

/-- R339, R345: the two identity signatures over a digest, bytes 2,256-18,863 of a report (FREE VALUE,
notes/assumptions/4.md). -/
opaque Config.identitySigs (serial : BitVec 64) (digest : BitVec 384) : List Byte

/-- R198, R201: the element format of a fetched tensor that no plan of the tenant declares: neither manifest nor
segment states one (FREE VALUE, notes/assumptions/11.md). -/
opaque Config.copyFormat (tid : BitVec 20) : BitVec 4

/-- R339, R341, R348: SHA-384 (FREE VALUE, notes/assumptions/4.md). -/
opaque Config.sha384 (bytes : List Byte) : BitVec 384

/-- R341: the digest of the ROM (FREE VALUE, notes/assumptions/4.md). -/
opaque Config.romDig : BitVec 384

/-- R392: the bytes of a context image, which have no layout in the manual; `tag` names the image
(FREE VALUE, notes/assumptions/5.md). -/
opaque Config.contextBytes (tag : Nat) : List Byte

/-- R255: which of its binding's tiles records a plan's traces, by place among them (FREE VALUE,
notes/assumptions/79.md). -/
opaque Config.recTile (plan : W16) : Nat

/-- R151, R156, R166: the time in ns from the `n`-th of the starts and ends of a learning step's passes to the next, in a
step that began at `start` (FREE VALUE, notes/assumptions/7.md). -/
opaque Config.passNs (plan : W16) (step : W32) (start : Stamp) (n : Nat) : Nat

/-- R22, R43: what an element of a buffer holds to which one slot writes two values `a` and `b`: VCPR whose D is its
Y, VOPT two of whose D, Y and Z are one buffer (FREE VALUE, notes/assumptions/8.md). -/
opaque Config.unstated (what : Nat) (a b : W32) : W32

/-- R135, R145, R217: what a word of the row of a FREE slot in module tensor 0xF_FF01 reads as, in a step of a plan
(FREE VALUE, notes/assumptions/22.md). -/
opaque Config.freeSlotWord (plan : W16) (step : W32) (slot col : Nat) : W32

/-- R273, R282: the PHASE byte of a broadcast's hops, 0 to 2, modulo 3 (FREE VALUE, notes/assumptions/28.md). -/
opaque Config.castPhase : Nat

/-- R43, R126: whether VCMP's relation `fn` holds of two BF16 values of which one is NaN (FREE VALUE,
notes/assumptions/24.md). -/
opaque Config.cmpNan (fn : Nat) (x y : W16) : Bool

/-- R173: what a turn-map copy without CONVERT writes where the element formats differ, by their widths (FREE VALUE,
notes/assumptions/34.md). -/
opaque Config.formatClash (dst src : Nat) (bits : W32) : W32

/-- R247, R296, R268, R163, R324: the LEVEL, 0 to 4, modulo 5, of the log entries whose LEVEL the manual does not
state: 0 a silent layer, 1 CE_ALERT, 2 a HOSTREG out of range, 3 MISMATCH of a port, 4 a warn crossing (FREE VALUE,
notes/assumptions/64.md). -/
opaque Config.logLevel (what : Nat) : Nat

/-- R190: the tier-1 bytes that pseudo-channel `ch` moved in the commit interval of a partition that ends at a stamp (FREE
VALUE, notes/assumptions/100.md). -/
opaque Config.channelTraffic (part : Nat) (at_ : BitVec 64) (ch : Nat) : Nat

/-- R179, R180: the plan time in ns of a step after step 0 as bound (FREE VALUE, notes/assumptions/102.md). -/
opaque Config.stepNs (plan : W16) (step : W32) : Nat

/-- R211: which of the free slots of the adapter bank the module chooses for a copy, by place among them (FREE VALUE,
notes/assumptions/17.md). -/
opaque Config.bankPick (free : List Nat) : Nat

/-- R66: the tensor ID and offset in the header of a packet of partial results, which are no tensor's elements: plan,
bundle, tile column of the region (FREE VALUE, notes/assumptions/107.md). -/
opaque Config.partialName (plan : W16) (bundle col : Nat) : BitVec 20 × BitVec 48

/-- R242: the commit row to which a partition maps a row of granules of a tier (true: tier 1) (FREE VALUE,
notes/assumptions/108.md). -/
opaque Config.commitRow (part : Nat) (t1 : Bool) (row : Nat) : Nat

/-- R242: where the image of a granule of a tile's scratchpad lies in the tier-1 commit area: pseudo-channel on its die, and
row (FREE VALUE, notes/assumptions/108.md). -/
opaque Config.imagePlace (part tile granule : Nat) : Nat × Nat

/-- R414: whether the placer keeps a working copy of a tensor to which the hints leave the choice (FREE VALUE,
notes/assumptions/18.md). -/
opaque Config.worksAway (plan : W16) (tid : BitVec 20) : Bool

/-- R414: what the host reads in a home of which a running plan keeps a working copy, the `n`-th read (FREE VALUE,
notes/assumptions/18.md). -/
opaque Config.homeByte (n : Nat) (t1 : Bool) (addr : Nat) : Byte

/-- R394: the contents of the memory tiers after a module reset are undefined: `n` tells the resets apart, a byte
is named by its tier (true: tier 1) and address (FREE VALUE, notes/assumptions/12.md). -/
opaque Config.resetBytes (n : Nat) : List ((Bool × Nat) × Byte)

/-- R241, R394: the errors on the cells of codewords after a module reset, by tier and index (FREE VALUE,
notes/assumptions/12.md). -/
opaque Config.resetFlaws (n : Nat) : List ((Bool × Nat) × BitVec 288)

/-- R376: what becomes of the record being committed as power is lost: 0 it is not there, 1 it is torn, 2 it is
whole, modulo 3 (FREE VALUE, notes/assumptions/13.md). -/
opaque Config.tornAtLoss (n : Nat) : Nat

/-- R331, R291: what the sensor or PHY counter behind an object shows at a stamp (FREE VALUE,
notes/assumptions/15.md). -/
opaque Config.sensor (index sub : Nat) (at_ : BitVec 64) : Nat

/-- R318, R411: the highest frequency in MHz that the voltage-frequency table allows at an island's measured
VISL, for the `n`-th set point (FREE VALUE, notes/assumptions/14.md). -/
opaque Config.vfMhz (island n : Nat) : Nat

/-- R260: a bore port's asymmetry correction in ns, what the way in is longer than the mean way. FREE VALUE
(notes/assumptions/109.md): the spec names the correction and gives no value. -/
opaque Config.asymmetry (port : Fin 16) : Int

/-- R262: the frequency correction that the clock servo chooses after an offset, in parts per 10^12, before the
limit of 500 ppm (FREE VALUE, notes/assumptions/16.md). -/
opaque Config.servo (offset : Int) (n : Nat) : Int

/-- R348: the digest under which an operator password is held, salted with the serial number (FREE VALUE,
notes/assumptions/4.md). -/
opaque Config.pwDigest (serial : BitVec 64) (password : List Byte) : BitVec 384

/-- R339, R349: whether the two signatures of a challenge response verify over the nonce, the serial number and
the level (FREE VALUE, notes/assumptions/4.md). -/
opaque Config.chalVerdict (nonce : BitVec 256) (serial : BitVec 64) (level : Byte) (response : List Byte) : Bool × Bool

/-- R340: what a rotation record carries, the new index, the certificate and the configuration records, and whether it
passes every check of R340 (FREE VALUE, notes/assumptions/4.md). -/
opaque Config.rotation (serial : BitVec 64) (keyIndex : Byte) (record : List Byte) :
    (Byte × List Byte × List (List Byte)) × Bool

end Sys2Proof
end

