-- ==== Sys2Proof/Machine/Fp.lean ====
section
/-! DEFINITION. The value of a floating-point element as the manual reasons about it (R88, R90, R101):
an exact dyadic rational with a sign, an infinity, or NaN. Rounding and formats are in Machine/Num.lean. -/

namespace Sys2Proof.Machine

/-- A value before rounding: NaN, an infinity, or `(-1)^neg * m * 2^e` held exactly. A zero keeps its
sign. -/
inductive Fp where
  | nan
  | inf (neg : Bool)
  | fin (neg : Bool) (m : Nat) (e : Int)
  deriving DecidableEq, Repr, Inhabited

end Sys2Proof.Machine
end

