-- ==== Sys2Proof/Machine/State.lean ====
section
/-! DEFINITION. The state of the Cikar module as plain data: everything the manual gives the machine,
the waiting commands, the fault and refusal reasons, and the state right after reset. A field's comment
names the rule that gives it; INVENTORY.md lists every field with its reset value. -/

namespace Sys2Proof.Machine

/-- A sparse array: strictly rising keys, no entry equal to what an unlisted key reads as. -/
abbrev Sparse (α : Type) := List (Nat × α)

/-! ### The logical context of a program (R21) -/

/-- A scalar register: its value and whether it is dynamic (R21, R26). -/
structure Scalar where
  val : W64
  dyn : Bool
  deriving DecidableEq, Repr

/-- A predicate: its value and whether it is dynamic (R21, R26). -/
structure PredReg where
  val : Bool
  dyn : Bool
  deriving DecidableEq, Repr

/-- A loop counter (R21, R50): the iteration index and, while a loop owns the counter, the trips
left, the one in progress included, and its first and last body bundle. -/
structure LoopCtr where
  active : Bool
  index : W32
  count : Nat
  first : Nat
  last : Nat
  deriving DecidableEq, Repr

/-- The four states of an accumulator (R40). -/
inductive AccState where
  | free | opened | ready | draining
  deriving DecidableEq, Repr

/-- A logical accumulator (R21, R39, R40, R87): state, FP32 contents, held winning indices (an unlisted
element holds none), the M, N, OPR and IDX its accumulation was opened with, and the K of each pass. -/
structure Acc where
  state : AccState
  cells : Sparse W32
  winner : Sparse W32
  m : Nat
  n : Nat
  opr : Fin 4
  idx : Bool
  ks : List Nat
  deriving DecidableEq, Repr

/-- An element as stored: its bits and the E8M0 scale byte it is read under (R95); 127 is 2^0. -/
structure Elem where
  bits : W32
  scale : Byte
  deriving DecidableEq, Repr

/-- A stationary plane (R21, R38, R39): K x N elements of one format; `anyFmt` marks the all-zero plane
of the program start, which pairs with every streaming format. `alongK`: block scales along k (R88). -/
structure Plane where
  k : Nat
  n : Nat
  fmt : BitVec 4
  alongK : Bool
  bsm : BitVec 2
  anyFmt : Bool
  cells : Sparse Elem
  deriving DecidableEq, Repr

/-- An entry of the finished-tile queue (R119). -/
structure FtqEntry where
  rows : Nat
  cols : Nat
  fmt : BitVec 4
  cells : Sparse Elem
  deriving DecidableEq, Repr

/-- A vector buffer: 4,096 x 4,096 elements of 32 bits, element (r, c) at key 4096 r + c (R21, R42). -/
abbrev Buf := Sparse W32

/-- The architectural state of a logical program (R21) with the finished-tile queue (R112, R119). -/
structure Ctx where
  s : Vector Scalar 64
  p : Vector PredReg 16
  lc : Vector LoopCtr 8
  /-- The counters of the loops being run, innermost first (R51). -/
  loops : List (Fin 8)
  td : Sparse Desc
  v : Vector Buf 4
  ac : Vector Acc 2
  active : Plane
  /-- The shadow plane: none is EMPTY, some is FULL (R41). -/
  shadow : Option Plane
  seed : BitVec 128
  layer : W16
  pc : Nat
  calls : List Nat
  ftq : List FtqEntry
  /-- The shapes that the queue would hold had every dynamic predicate been true (R120). -/
  ftqAll : List (Nat × Nat)
  deriving DecidableEq, Repr

/-! ### Ring entries (14_chanter_firmware_and_interrupts.md, 10_generation_serving.md) -/

/-- Where a command came from: what its completion copies (R300, R302). -/
structure CmdSrc where
  fn : Fn
  ring : Fin 8
  opc : Byte
  cid : W32
  irq : Bool
  deriving DecidableEq, Repr

/-- The 128-byte bind report (R176). -/
structure BindReport where
  status : W16
  plan : W16
  whereAt : W32
  slot : Byte
  reason : Byte
  part : Byte
  ncol : Byte
  bindUs : W32
  nalt : W16
  nfold : W16
  bpt : W32
  proNs : W64
  step0Ns : W64
  stepMaxNs : W64
  cmtMaxNs : W32
  calNs : W32
  peakW : W16
  avgW : W16
  capW : W16
  kgen : W16
  t1Bytes : W64
  t2Bytes : W64
  cmtBytes : W64
  fmax : W32
  brecLen : W32
  deriving DecidableEq, Repr

/-- A completion (R302): the head entry's fields; a SUBMIT carries its bind report, an ATTACH its
session token. -/
structure Completion where
  stamp : Stamp
  src : CmdSrc
  status : W16
  plan : W16
  val0 : W32
  val1 : W64
  report : Option BindReport
  token : Option (BitVec 128)
  deriving DecidableEq, Repr

/-- An event or log entry (R304). -/
structure EvEntry where
  stamp : Stamp
  src : W32
  code : W16
  level : Byte
  status : W16
  plan : W16
  step : W32
  arg0 : W64
  arg1 : W64
  arg2 : W64
  arg3 : W64
  lost : W32
  deriving DecidableEq, Repr

/-- A result entry (R223). -/
structure ResEntry where
  stamp : Stamp
  tag : W64
  token : W32
  logp : W32
  tidx : W32
  step : W32
  slot : W16
  wepoch : W16
  plan : W16
  status : W16
  aepoch : W16
  nepoch : Byte
  sflags : Byte
  stop : Byte
  rflags : Byte
  deriving DecidableEq, Repr

/-- What a device-produced ring holds. A SUBMIT's two continuation entries belong to its completion. -/
inductive DevEntry where
  | comp (c : Completion)
  | ev (e : EvEntry)
  | res (r : ResEntry)
  deriving DecidableEq, Repr

/-- A ring (R298, R299): configuration, counts, the entries the host wrote by position (command rings),
the entries written and not yet freed, each with its SEQ (device-produced rings), the entries owed while
the ring is disabled or its tenant paused (R299, R307), and the drops since the last entry (R304). -/
structure Ring where
  base : W64
  log2 : Byte
  enable : Bool
  prod : W32
  cons : W32
  slots : Sparse Entry
  out : List (W32 × DevEntry)
  owed : List DevEntry
  lost : W32
  deriving DecidableEq, Repr

/-- Chanter's scan of the command rings (R303): the ring whose turn it is, counted from the PF's ring 0, and the entries
of its turn that are left. -/
structure Scan where
  at_ : Fin 129
  left : Fin 64
  deriving DecidableEq, Repr

/-- A function: its 12 rings, feature masks (R297), the MSI-X vectors it has signalled (R304, newest
first; the model's record of an output), and the completions its taken commands still owe (R302). -/
structure Func where
  rings : Vector Ring 12
  featDrv : BitVec 256
  featAgreed : Option (BitVec 256)
  msix : List (Fin 32)
  owes : Nat
  deriving DecidableEq, Repr

/-! ### Plans (02, 08) -/

/-- The role of a tensor (R54). -/
inductive Role where
  | ordinary | weight | adapter | store | scale
  deriving DecidableEq, Repr

/-- A tensor-table entry (R54). -/
structure TensorEnt where
  tid : BitVec 20
  count : BitVec 48
  fmt : BitVec 4
  tier : BitVec 2
  win : Fin 16
  role : Role
  optrec : BitVec 20
  sslot : Fin 64
  woff : BitVec 48
  deriving DecidableEq, Repr

/-- Where a turn-map entry's source elements lie, as the bind has resolved them (R173, R198, R211, R414):
in a window from a byte offset on, in the CURRENT weight copy, or in the adapter bank. -/
inductive TurnSrc where
  | home (win : Fin 16) (off : Nat)
  | weights (win : Fin 16)
  | bank (win : Fin 16) (size : Nat)
  deriving DecidableEq, Repr

/-- A turn-map entry (R173), with its source resolved. -/
structure TurnEnt where
  dtid : BitVec 20
  stid : BitVec 20
  doff : BitVec 48
  soff : BitVec 48
  count : W64
  kind : Byte
  sten : Fin 16
  grp : BitVec 12
  rank : W16
  convert : Bool
  src : TurnSrc
  sfmt : BitVec 4
  deriving DecidableEq, Repr

/-- A record of the slot table (R152, R301): its first step and the bucket lengths of its slots. -/
structure SlotRec where
  first : W32
  buckets : List Nat
  deriving DecidableEq, Repr

/-- The request table of a generation plan (R215). -/
structure ReqTable where
  nslot : Nat
  pmax : Nat
  ctx : Nat
  admax : Nat
  ptid : BitVec 20
  deriving DecidableEq, Repr

/-- The submit record (R301), as it was read when the SUBMIT was taken. -/
structure SubmitRec where
  itid : BitVec 20
  part : Byte
  switchAt0 : Bool
  clearMon : Bool
  fshare : Byte
  mond : Byte
  ioff : BitVec 48
  tmtid : BitVec 20
  ntm : W32
  brtid : BitVec 20
  montid : BitVec 20
  sttid : BitVec 20
  storeC : W32
  wepoch : W16
  nslot : W16
  admax : W16
  pmax : W32
  ctx : W32
  ptid : BitVec 20
  sparam : Vector W64 16
  astage : List (W16 × W16)
  deriving DecidableEq, Repr

/-- A program image, parsed (R53, R54). -/
structure Image where
  hwgen : Byte
  nepoch : Byte
  tensors : List TensorEnt
  descs : List Desc
  bundles : List (BitVec 1024)
  deriving DecidableEq, Repr

/-- The numerics-monitor counts of one target format (R100, R159). -/
structure Counts where
  exact : Nat
  rounded : Nat
  underflow : Nat
  flush : Nat
  saturate : Nat
  overflow : Nat
  deriving DecidableEq, Repr

/-- A layer of the monitor's table (R160-R162, R166). -/
structure LayerRow where
  layer : W16
  run : Nat
  /-- A silent event has been raised in the current run (R162). -/
  raised : Bool
  fp4 : Counts
  e4m3 : Counts
  e5m2 : Counts
  bf16 : Counts
  /-- The step's terms of SUMD and SUMW, in the order they were formed (R161). -/
  dTerms : List Fp
  wTerms : List Fp
  /-- The shapes of the layer's VOPT regions in the step, in program order (R161). -/
  shapes : List (Nat × Nat)
  counted : Bool
  voptSkipped : Bool
  wdMax : Fp
  deriving DecidableEq, Repr

/-- A request slot that is not FREE (R135, R145, R208, R216, R217). -/
structure ReqSlot where
  tag : W64
  /-- The row of module tensor 0xF_FF01, 64 words. -/
  row : Vector W32 64
  /-- NEW in this step (R216). -/
  fresh : Bool
  plen : W32
  admStep : W32
  pin : Bool
  /-- The weight epoch and adapter epoch the request uses. -/
  wepoch : W16
  aid : W16
  aepoch : W16
  abank : Option (Fin 256)
  /-- Tokens published for the request (R222). -/
  published : W32
  /-- The stop unit has finished it in this step: reason and detail (R146, R147). -/
  finish : Option (Nat × Nat)
  /-- An entry that has FINAL set has been formed in this step (R416). -/
  finalFormed : Bool
  deriving DecidableEq, Repr

/-- A received hop of a ring collective or transfer (R273, R282). -/
structure RxHop where
  srank : W16
  sqn : W32
  kind : Byte
  phase : Phase
  hop : W16
  pfmt : Byte
  nepoch : Byte
  mixedOk : Bool
  nonfinite : Bool
  mismatch : Bool
  elems : List W32
  deriving DecidableEq, Repr

/-- The states of a weight copy or adapter bank slot other than FREE (R206). -/
inductive CopyState where
  | filling | staged | current | retained
  deriving DecidableEq, Repr

/-- A tensor of a copy (R198, R201): its ID, element count, format and element bits. -/
structure CopyTensor where
  tid : BitVec 20
  count : Nat
  fmt : BitVec 4
  cells : Sparse W32
  deriving DecidableEq, Repr

/-- A weight or adapter epoch copy that is not FREE (R206). -/
structure EpochCopy where
  /-- none: weight copy; some: adapter ID and bank slot (R211). -/
  adapter : Option (W16 × Fin 256)
  epoch : W16
  state : CopyState
  win : Fin 16
  tensors : List CopyTensor
  /-- Step boundaries passed while RETAINED (RETAIN_STEPS, R213). -/
  retainedFor : Nat
  deriving DecidableEq, Repr

/-- A pending SWITCH (R207): its weight set or adapter ID, its epoch, and the SWITCHes it replaced, which
complete when it takes effect. `src` is none for SWITCH_WHEN_STAGED and a submit's switch flag. -/
structure PendSwitch where
  aid : Option W16
  epoch : W16
  src : Option CmdSrc
  replaced : List (W16 × Option CmdSrc)
  deriving DecidableEq, Repr

/-- A frame of a hop that a sender keeps until its receiver, a rank, has acknowledged it as committed (R289). -/
structure Retained where
  hop : HopRef
  dst : W16
  frame : DataFrame
  deriving DecidableEq, Repr

/-- A collective group (R281): its record, its SQN, whether it has ended with 0x0040 until it is set
again (R279), and the hops received for its next collective. -/
structure Group where
  grp : BitVec 12
  ten : Fin 16
  peers : List (W16 × W16)
  g : Nat
  rank : Nat
  next : W16
  prev : W16
  sqn : W32
  dead : Bool
  rx : List RxHop
  /-- Hops sent and retained until acknowledged as committed (R289). -/
  retained : List Retained
  /-- When its collective or transfers last consumed a frame or began (R279). -/
  moved : Stamp
  deriving DecidableEq, Repr

/-- A logical context saved by SAVE or kept after a tenant fault (R388, R392). -/
structure Saved where
  tag : ImageTag
  hwgen : Byte
  nepoch : Byte
  image : Image
  plan : W16
  step : W32
  ctx : Ctx
  /-- AT_BOUNDARY. -/
  atBoundary : Bool
  stamp : Stamp
  slots : List (Nat × ReqSlot)
  layers : List LayerRow
  scale : Vector W32 16
  copies : List EpochCopy
  switches : List PendSwitch
  groups : List Group
  deriving DecidableEq, Repr

/-- A physical tile column of a binding: its number, 0 the westmost, and the tile at each of its eight mesh
positions from the north (R13, R77). -/
structure PCol where
  col : Nat
  tiles : List (Fin 68)
  deriving DecidableEq, Repr

/-- The tiles of a binding: its columns from the west, and the idle spares assigned to it (R80, R182). -/
structure Binding where
  cols : List PCol
  spares : List (Fin 68)
  deriving DecidableEq, Repr

/-- An MM pass that a program makes: the bundle, and the tile rows and columns of its logical region (R60). -/
structure Pass where
  bundle : Nat
  rows : Nat
  cols : Nat
  deriving DecidableEq, Repr

/-- A 10 µs segment of a power trace (R178, R195): step, or 0xFFFF_FFFF for the prologue, index, predicted power,
the dies' currents, and the islands' set points. -/
structure TraceSeg where
  step : W32
  seg : W32
  pwr : W16
  idie : Vector W16 4
  fset : Vector W16 77
  deriving DecidableEq, Repr

/-- A planned commit point in the binding record (R178). -/
structure CommitEnt where
  bundle : W32
  step : W32
  at_ : W64
  kind : Fin 4
  deriving DecidableEq, Repr

/-- A planned calibration window in the binding record (R178): kind, unit, plan time. -/
structure CalEnt where
  kind : Fin 4
  unit : W16
  at_ : W64
  deriving DecidableEq, Repr

/-- The stated times and the trace of an alternate, by the tile whose loss it covers (R183, R196). -/
structure AltFig where
  lost : Fin 68
  proNs : W64
  step0Ns : W64
  stepMaxNs : W64
  trace : List TraceSeg
  deriving DecidableEq, Repr

/-- What the placer's schedule states of a plan: times, powers, reserved bytes, whether the plan fits its target
(R197, reason 0x07), and the physical lists of the binding record (R176-R178). -/
structure PlacerFig where
  proNs : W64
  step0Ns : W64
  stepMaxNs : W64
  cmtMaxNs : W32
  calNs : W32
  avgW : W16
  t1Bytes : W64
  t2Bytes : W64
  cmtBytes : W64
  fits : Bool
  commits : List CommitEnt
  windows : List CalEnt
  trace : List TraceSeg
  alts : List AltFig
  deriving DecidableEq, Repr, Inhabited

/-- A plan: what a successful bind makes (R175, R176), from the image and the submit record. -/
structure Plan where
  id : W16
  tenant : Fin 16
  /-- The target partition; none: the full array. -/
  part : Option (Fin 4)
  image : Image
  sub : SubmitRec
  turnMap : List TurnEnt
  slotTable : List SlotRec
  req : Option ReqTable
  /-- EMAX (R226). -/
  emax : Nat
  bpt : Nat
  /-- The weight tensors that were versioned when binding began (R198). -/
  versioned : List (BitVec 20)
  /-- The plan rotates the interleave key at the start of its prologue (R191). -/
  rotate : Bool
  kgen : W16
  report : BindReport
  /-- The binding in force, and the placer's figures for it (R172, R182). -/
  binding : Binding
  fig : PlacerFig
  /-- The MM passes that its steps make (R64). -/
  passes : List Pass
  /-- Every alternate is bound: the plan may start (R18, R182, R184). -/
  altsReady : Bool
  /-- The context a RESTORE loads in place of R21's initial state. -/
  restored : Option Saved
  src : CmdSrc
  deriving DecidableEq, Repr

/-- Why a partition is held at a step boundary. -/
inductive Hold where
  /-- The result ring lacks EMAX + A free entries (R226). -/
  | ringFull
  /-- The driver is absent (R307). -/
  | paused
  /-- A context image is being written (R391). -/
  | saving
  deriving DecidableEq, Repr

/-- Per-step counts of the step summary (R48, R120, R166). -/
structure StepCounts where
  oorRows : Nat
  ftqUnder : Nat
  ftqOver : Nat
  ftqShape : Nat
  /-- A ST.COLL with CFN 0 or 2 ran under a true predicate: a gradient step (R168). -/
  gradient : Bool
  nonfinite : Bool
  /-- The step was replayed after a single fault (R166). -/
  replayed : Bool
  tStart : Stamp
  deriving DecidableEq, Repr

/-- One byte of tenant memory named by tier (true: tier 1) and physical byte address. -/
abbrev PAddr := Bool × Nat

/-- A write to some bits of a byte: FP4 elements share a byte (R414). -/
structure MemWrite where
  addr : PAddr
  mask : Byte
  val : Byte
  deriving DecidableEq, Repr

/-- A log or event entry that a bundle will write when it retires, and the tokens it sends. -/
inductive Effect where
  | log (code : W16) (level : Byte) (a0 a1 a2 a3 : W64)
  /-- A trace record with its bundle's index and the stamp of the bundle's issue (R52, R255). -/
  | trace (code : W16) (bundle : Nat) (stamp : Stamp)
  | ev (code : W16)
  | token (e : ResEntry)
  deriving DecidableEq, Repr

/-- Where control goes when the bundle retires (R50, R51): on from the end of a bundle, or to a bundle. -/
inductive Flow where
  | fall (after : Nat)
  | jump (target : Nat)
  deriving DecidableEq, Repr

/-- What a slot asks of its bundle's retirement. -/
inductive Boundary where
  | none
  /-- CF.STEP (R25, R50). -/
  | step
  /-- CF.END (R25). -/
  | last
  deriving DecidableEq, Repr

/-- The optimizer statistics and conversion counts a bundle adds, by layer, when it retires. -/
inductive MonDelta where
  /-- One conversion: target format code, class index 0-5 in the order of R100, how many. -/
  | conv (layer : W16) (fmt : BitVec 4) (cls : Fin 6) (n : Nat)
  | vopt (layer : W16) (dTerms wTerms : List Fp) (shape : Nat × Nat) (wd : Fp)
  | skipped (layer : W16)
  deriving DecidableEq, Repr

/-- An ST.COLL of several ranks that a bundle holds: it begins once every slot of the bundle has issued (R22, R40). -/
structure CollReq where
  grp : BitVec 12
  cfn : Fin 16
  td : Fin 256
  pd : Fin 16
  deriving DecidableEq, Repr

/-- A packet of the last wavefront of an MM pass over a die edge (R66): the column sub-pass, whether it crosses the
vertical edge, with streaming data, or the horizontal one, with partial results, the tile row or column of the region in
which it travels, and its header. -/
structure EdgePkt where
  sub : Nat
  vertical : Bool
  lane : Nat
  pkt : PktHdr
  deriving DecidableEq, Repr

/-- What an MM pass leaves on its way through the array (R60, R66, R68): its plane's K and N, the streaming tensor, the
offset of the last wavefront's first element in each tile row, whether its partial results in each tile column hold a
non-finite value, and whether the pass before it carried its switch token. -/
structure PassOut where
  k : Nat
  n : Nat
  tid : BitVec 20
  offs : List (BitVec 48)
  bad : List Bool
  token : Bool
  deriving DecidableEq, Repr

/-- A 512 × 512 block of a stationary operand staged in a tile's scratchpad for the tile's load chain (R67): the
logical tile and the physical one. -/
structure StagedBlk where
  row : Nat
  col : Nat
  tile : Fin 68
  deriving DecidableEq, Repr

/-- The writes of a bundle, collected while its slots issue and applied when it retires (R22). -/
structure Build where
  ctx : Ctx
  /-- Writes to tenant memory, in slot order. -/
  mem : List MemWrite
  /-- Words of the tenant's scale state, module tensor 0xF_FF04 (R415). -/
  scale : List (Fin 16 × W32)
  /-- Slots of the request table as the stop unit leaves them. -/
  slots : List (Nat × ReqSlot)
  effects : List Effect
  mon : List MonDelta
  counts : StepCounts
  flow : Flow
  boundary : Boundary
  cmt : Bool
  /-- Place of the last slot that has issued, in the fixed slot order (R22). -/
  pos : Nat
  /-- One of VACC, VFTQ, VSAMP, VSTOP, VOPT stands in the bundle already (R44). -/
  special : Bool
  /-- The bundle's ST.COLL over several ranks. -/
  coll : Option CollReq
  /-- Predicates that slots after ST write: such a write stands over ST.COLL's (R22). -/
  latePreds : List (Fin 16)
  /-- Groups whose SQN the bundle advances as it retires (R281). -/
  sqns : List (BitVec 12)
  /-- The bundle's MM pass and its plane load, for the array's links and load chains (R66, R67). -/
  pass : Option PassOut
  load : Option Plane
  deriving DecidableEq, Repr

/-- Where a commit point stands (R185, R186, R382). -/
inductive CommitStage where
  | filling
  | complete (at_ : Stamp)
  | confirmed
  deriving DecidableEq, Repr

/-- An admitted micro-batch (R154, R157). -/
structure MBatch where
  plan : W16
  step : W32
  slot : Fin 64
  len : Nat
  ext : Nat
  win : Fin 16
  /-- Byte offset of its first element in the window, and element size in bits (R154, R414). -/
  off : Nat
  bits : Nat
  src : CmdSrc
  deriving DecidableEq, Repr

/-- A collective that has begun and waits for hops (R275, R282). -/
structure CollRun where
  grp : BitVec 12
  sqn : W32
  cfn : Fin 16
  td : Fin 256
  pd : Fin 16
  since : Stamp
  mixedOk : Bool
  /-- The rank's own contribution, as it stood when the collective began. -/
  own : List W32
  deriving DecidableEq, Repr

/-- A collective group as a commit point holds it: its SQN, and the hops received and sent by then (R185, R281). -/
structure GroupPt where
  grp : BitVec 12
  sqn : W32
  rx : List RxHop
  sent : List HopRef
  deriving DecidableEq, Repr

/-- What a program works on of its tenant: requests, scale state, monitor counts, copies and micro-batches. A replay of a
step that has ended works on those of its commit point; the tenant's own stand as that boundary left them (R104, R382). -/
structure Past where
  slots : List (Nat × ReqSlot)
  scale : Vector W32 16
  layers : List LayerRow
  copies : List EpochCopy
  mbatches : List MBatch
  used : List Nat
  deriving DecidableEq, Repr

/-- A commit point: the state from which a replay runs (R186), and the bytes of tenant memory that the
plan has overwritten since, newest first, with what they held (R241). -/
structure CommitPt where
  stage : CommitStage
  stamp : Stamp
  step : W32
  ctx : Ctx
  inPrologue : Bool
  /-- It stands at a step boundary (R185). -/
  bound : Bool
  past : Past
  stepEpoch : W16
  /-- A bundle in progress with its collective: a split bundle goes on from here (R185). -/
  build : Option Build
  coll : Option CollRun
  toks : List ResEntry
  counts : StepCounts
  groups : List GroupPt
  undo : List (PAddr × Byte)
  /-- What the boundary that it stands at wrote into the tenant's windows. -/
  redo : List MemWrite
  /-- Bundles that the plan had retired by then. -/
  done : Nat
  deriving DecidableEq, Repr

/-- An uncorrectable read by a plan (R240, R241): tier, unit and byte offset as LAST_UE names them; `inSet`: its commit copy
lies in the commit set; `lost`: that copy is uncorrectable too. -/
structure UeRead where
  tier : Nat
  unit : Nat
  off : Nat
  inSet : Bool
  lost : Bool
  deriving DecidableEq, Repr

/-- An interruption in progress (R384): what failed, when it was detected, where issue stopped, and the uncorrectable
read that caused it. -/
structure Interrupt where
  tDet : Stamp
  det : Byte
  unit : W32
  bidx : W32
  ue : Option UeRead
  deriving DecidableEq, Repr

/-- The report that an uncorrectable read owes until a replay has completed it (R240). -/
structure OwedUe where
  unit : W32
  tDet : Stamp
  deriving DecidableEq, Repr

/-- The payload of a Hatband FAULT record (R395). -/
structure FaultRec where
  kind : Nat
  status : W16
  part : Byte
  ten : Byte
  plan : W16
  step : W32
  unit : W32
  det : Byte
  bidx : W32
  tDet : Stamp
  tSwitch : Stamp
  tResume : Stamp
  tCommit : Stamp
  tRebound : Stamp
  deriving DecidableEq, Repr

/-- A running plan (R16-R18, R25). -/
structure Running where
  plan : Plan
  /-- The prologue has not ended (R18). -/
  inPrologue : Bool
  step : W32
  ctx : Ctx
  build : Option Build
  holds : List Hold
  counts : StepCounts
  /-- Tokens of the step in progress, in emission order (R224). -/
  toks : List ResEntry
  commits : List CommitPt
  coll : Option CollRun
  intr : Option Interrupt
  /-- A TURN has named the plan's target: the incoming plan and the TURN (R20, R300). -/
  turn : Option (W16 × CmdSrc)
  /-- The plan ends at the next boundary with this status: silent-layer halt (R163). -/
  halt : Option W16
  /-- Alternates are bound for the binding in force (R182, R184). -/
  altsReady : Bool
  /-- Idle spares lost whose alternates wait to be rebound (R184). -/
  spareLost : List (Fin 68)
  /-- The step epoch of the step in progress (R209). -/
  stepEpoch : W16
  /-- The partition stands at a step boundary: no bundle of the step has issued. -/
  atBoundary : Bool
  /-- Step boundaries passed, whose results stand, that a replay has still to reach again, oldest first (R382). -/
  crossed : List CommitPt
  /-- What the replay of a step that has ended works on. -/
  past : Option Past
  /-- Writes into the tenant's windows of the boundary in progress. -/
  bwrites : List MemWrite
  /-- The copies that its prologue stages (R205, R206). -/
  staging : List (Option W16 × W16)
  /-- The segment of its power trace in force (R195). -/
  seg : Option TraceSeg
  /-- The packets over the die edges of the last wavefront of the latest MM pass, which its successor's switch token may
  still join, and of the pass before it (R66, R68). -/
  edge : List EdgePkt
  edgeSent : List EdgePkt
  /-- The load-chain registers: the values last shifted in, by the K × N position of their cells (R67). -/
  chain : Plane
  /-- The blocks staged for the load chains (R67). -/
  staged : List StagedBlk
  /-- Bundles that the plan has retired. -/
  done : Nat
  /-- A replay is under way: the bundle at which issue had stopped (R243, R382). -/
  replayTo : Option Nat
  /-- The report of the uncorrectable read that the replay is to complete (R240). -/
  owed : Option OwedUe
  /-- The record of the interruption after which its alternates are being rebound (R395). -/
  faultRec : Option FaultRec
  deriving DecidableEq, Repr

/-- A partition of the array (R77, R79, R80): how many physical columns it has, the dies whose spare is assigned to
it, its running plan, and an incoming plan named by a TURN while no plan ran. -/
structure Part where
  cols : Nat
  spares : List (Fin 4)
  run : Option Running
  waiting : Option (W16 × CmdSrc)
  deriving DecidableEq, Repr

/-! ### What a tenant holds (R332) -/

/-- A memory window (R333): tier (none: unused; true: tier 1), base, limit, grants, and the interleave
key generation it is written under (R191). -/
structure Window where
  tier : Option Bool
  base : BitVec 48
  limit : BitVec 48
  grant : W16
  kgen : W16
  deriving DecidableEq, Repr

/-- FSTATE of a VF (R298). -/
inductive FState where
  | idle | running | paused | faulted
  deriving DecidableEq, Repr

/-- A RETIRE that waits for a boundary (R213); `held`: its copy is CURRENT with a switch pending. -/
structure PendRetire where
  aid : Option W16
  epoch : W16
  src : CmdSrc
  held : Bool
  deriving DecidableEq, Repr

/-- A fetch (R201, R204), oldest first: the front one runs. -/
structure Fetch where
  aid : Option W16
  epoch : W16
  keySlot : Fin 8
  streamid : W32
  grp : BitVec 12
  rank : W16
  /-- Segment indices received (R204). -/
  segs : List W32
  /-- Elements written so far. -/
  written : List (BitVec 20 × Nat × Nat)
  total : Nat
  /-- Bytes of the stream that DATA frames have brought and no segment has taken (R288). -/
  stream : List Byte
  src : CmdSrc
  deriving DecidableEq, Repr

/-- A key slot (R344): EMPTY, ARMED with the number of its transport pair and the ATTEST nonce, or
LOADED with the AES-256 key. -/
inductive KeySlot where
  | empty
  | armed (pair : Nat) (nonce : BitVec 256)
  | loaded (key : BitVec 256)
  deriving DecidableEq, Repr

/-- A pending admission (R218, R219), with the record and prompt as read at acceptance (R217). -/
structure PendAdm where
  tag : W64
  row : Vector W32 64
  prompt : List W32
  aid : W16
  unpin : Bool
  plan : W16
  src : CmdSrc
  deriving DecidableEq, Repr

/-- A SAVE waiting for its boundary or its image (R391). -/
structure PendSave where
  off : Nat
  win : Fin 16
  len : Nat
  endPlan : Bool
  src : CmdSrc
  /-- The context taken, once taken. -/
  taken : Option Saved
  deriving DecidableEq, Repr

/-- A tenant (R332): windows, state, keys, epochs, monitor table, scale state, requests. -/
structure Tenant where
  fstate : FState
  windows : Vector Window 16
  keys : Vector KeySlot 8
  copies : List EpochCopy
  switches : List PendSwitch
  retires : List PendRetire
  fetches : List Fetch
  layers : List LayerRow
  scale : Vector W32 16
  slots : List (Nat × ReqSlot)
  pendAdm : List PendAdm
  mbatches : List MBatch
  saves : List PendSave
  /-- The context that a tenant fault restored, for SAVE (R388). -/
  faulted : Option Saved
  /-- The tenant has taken a tenant fault, and no plan of it has started since (R388). -/
  fault : Bool
  /-- The context images that SAVE has written, with the window and byte offset of each (R391). -/
  images : List (Fin 16 × Nat × Saved)
  /-- The step epoch of the previous step (R209). -/
  prevEpoch : W16
  /-- Request slots that have held a request since the module's reset: the rows of the others hold their defaults (R9, R145). -/
  used : List Nat
  deriving DecidableEq, Repr

/-! ### The module's memory (11_memory_system.md) -/

/-- The stored codewords of the two tiers (R237): their data bytes as far as they differ from zero, and, by codeword index,
the error on the cells of each whose 36 bytes are not the code of its data (R241). -/
structure Mem where
  tier1 : List Host.Cell
  tier2 : List Host.Cell
  flaw1 : Sparse (BitVec 288)
  flaw2 : Sparse (BitVec 288)
  deriving DecidableEq, Repr

/-- A tile's scratchpad (R235, R236): the tenant whose plan used it last, whether it was written with zeros before that
use, and the bytes of the areas that the plan reserves in it. What its locations hold belongs to the logical context of the
plan that uses the tile. -/
structure TileSp where
  last : Option (Fin 16)
  zeroed : Bool
  reserved : Nat
  /-- The tenants whose plan has used the tile since its cells last passed their test (R383). -/
  users : List (Fin 16)
  deriving DecidableEq, Repr

/-- The memory objects (R247) and interleave objects (R190). -/
structure MemObj where
  ceT1 : W64
  ceT2 : W64
  ceSp : W64
  ceLink : W64
  resendLink : W64
  ueT1 : W32
  ueT2 : W32
  ueSp : W32
  ueScrub : W32
  ueFault : W32
  lastUe : W64
  lastUeStamp : Stamp
  lastUeOutcome : W16
  cePc : Sparse W32
  ceCh2 : Sparse W32
  caldefT1 : W32
  caldefDqs : W32
  caldefZq : W32
  guardCount : W32
  scrubSweep : W64
  imb : Byte
  kgen : W16
  rotPending : Bool
  rotCount : W32
  lastRot : Stamp
  imbPeak : Byte
  /-- The interleave key (R188); never readable. -/
  key : BitVec 128
  /-- The key of the generation before, under which windows not yet rewritten lie (R191). -/
  prevKey : BitVec 128
  /-- Corrected codewords of the hour that began at the stamp, by unit: tier-1 pseudo-channel, or 384 + tier-2
  channel (R247, CE_ALERT). -/
  ceHour : Stamp
  ceCounts : Sparse Nat
  /-- The present scrub sweep (R244): the codewords read so far, by unit, and the stamp at which it began. -/
  sweepAt : Sparse Nat
  sweepStart : Stamp
  /-- Tier-1 bytes per pseudo-channel of the last 64 commit intervals, newest first (R190). -/
  moved : List (List (Fin 384 × Nat))
  deriving DecidableEq, Repr

/-- Calibration state of a memory unit or island (R192, R246, R250): last honoured window, trim or delay
generation, and whether it is guarded or derated. -/
structure CalState where
  last : Stamp
  /-- A window has been honoured since reset. -/
  honoured : Bool
  trims : Nat
  limited : Bool
  deriving DecidableEq, Repr

/-! ### Placer -/

/-- What the placer reads when it begins binding (R171, R191, R198). -/
structure BindStart where
  versioned : List (BitVec 20)
  rotate : Bool
  kgen : W16
  capW : W16
  imb : Byte
  /-- When the job began. -/
  since : Stamp
  deriving DecidableEq, Repr

/-- A bind job (R181): the record read, the header judged, and the saved context of a RESTORE. `start`: the
placer has begun it. -/
structure BindJob where
  tenant : Fin 16
  sub : SubmitRec
  image : Option Image
  /-- A fault of the image's layout found while reading it: WHERE (R54). -/
  layoutFault : Option W32
  restore : Option Saved
  start : Option BindStart
  src : CmdSrc
  deriving DecidableEq, Repr

/-- The placer (R175, R181): bind jobs in order, bound plans not started, the next plan ID, and the
partitions whose alternates wait to be rebound, in order of T_DET (R387). -/
structure Placer where
  jobs : List BindJob
  bound : List Plan
  nextId : W16
  rebinds : List (Fin 4)
  deriving DecidableEq, Repr

/-! ### Power, reset, boot, limiter -/

/-- What holds the module. -/
inductive PowerState where
  /-- No supply beyond the hold-up capacitance: PWR_EN low (R405). -/
  | off
  /-- After a supply fault or power loss, until PWR_EN has been low and rises again (R409). -/
  | locked
  /-- Supplies up; RST_N low or a module reset under way. -/
  | inReset
  /-- Running: the ROM is in LOAD_WAIT or later (R406). -/
  | running
  /-- The trip hold of R328. -/
  | tripHold
  /-- Running on hold-up since a supply fault was declared (R329). -/
  | holdup (since : Stamp)
  deriving DecidableEq, Repr

/-- The sideband pins of J2 and J19 (R398-R400) and the tray's levels. -/
structure Pins where
  pwrEn : Bool
  pg : Bool
  rstN : Bool
  alive : Bool
  thermAlertN : Bool
  holdupN : Bool
  prsntN : Bool
  slotId : BitVec 4
  hpePerstN : Bool
  deriving DecidableEq, Repr

/-- BOOT_STATE (R294). -/
inductive BootState where
  | loadWait | verify | selftest | ready | failed
  deriving DecidableEq, Repr

/-- A queued or verifying activation (R309). -/
structure Activation where
  img : FwImage
  src : CmdSrc
  deriving DecidableEq, Repr

/-- Firmware and start (R294-R298, R309-R311, R316). -/
structure Boot where
  state : BootState
  status : W16
  loadAddr : W64
  loadLen : W32
  paramAddr : W64
  /-- The image being verified or running, and the start-up block taken with it. -/
  img : Option FwImage
  drvRel : W32
  fwRel : W32
  verifying : List Activation
  queued : Option FwImage
  /-- An emergency has begun since queueing and its 0x0003 event is owed (R310). -/
  queueRefused : Bool
  lastAct : Stamp
  holdupMj : W32
  /-- Measurements of the chain (R341): FWDIG. -/
  fwDig : BitVec 384
  deriving DecidableEq, Repr

/-- DRV_STATE (R316). -/
inductive DrvState where
  | never | attached | absent | detached
  deriving DecidableEq, Repr

/-- Driver presence (R305-R308, R316). -/
structure Driver where
  state : DrvState
  token : BitVec 128
  heartbeat : W64
  /-- Stamp of the last change of HEARTBEAT. -/
  changed : Stamp
  attachStamp : Stamp
  lossCount : W32
  lastLoss : Stamp
  /-- Frames carry HOST_ABSENT (R278). -/
  hostAbsent : Bool
  deriving DecidableEq, Repr

/-- The limiter's states (R322). -/
inductive LimState where
  | normal | emergency | tripped
  deriving DecidableEq, Repr

/-- The hardware limiter and the power objects (R318-R331). -/
structure Limiter where
  state : LimState
  /-- Rows at or above their limit, with the unit of each (R323). -/
  causes : List (LimRow × Nat)
  /-- Units at or above their warn threshold (R324). -/
  warns : List (LimRow × Nat)
  since : Stamp
  emergCount : W32
  emergNs : W64
  clampCount : W32
  /-- Island frequency set points from the trace, in MHz (R195, R318). -/
  traceSet : Vector Nat 77
  /-- Emergency set points in percent of the trace set point, and step-downs in MHz (R323). -/
  emergPct : Vector Nat 77
  emergDown : Vector Nat 77
  /-- Emergency rates: stacks and packages at half their access rate; the host die at half frequency. -/
  halfHbm : List Nat
  halfLpddr : List Nat
  halfHost : Bool
  capActive : W16
  capApplied : Stamp
  capPending : Bool
  /-- The cap write in progress: new value, stamp of acceptance, set points computed (R327). -/
  capJob : Option (W16 × Stamp × Bool)
  /-- The lowered cap to which running plans' set points have been lowered (R196, R327). -/
  lowered : Option W16
  /-- When the sensors' objects (R331) were last sampled; none since reset: they read 0. -/
  sampled : Option Stamp
  deriving DecidableEq, Repr

/-! ### Faults and interrupts -/

/-- The states of an interrupt source (R313). -/
inductive SrcState where
  | idle
  | pending
  | active (core : Fin 6)
  | activePending (core : Fin 6)
  deriving DecidableEq, Repr

/-- A core's block of the interrupt controller (R315). -/
structure CoreBlk where
  enable : BitVec 128
  cpri : Byte
  err : BitVec 2
  deriving DecidableEq, Repr

/-- The interrupt controller (R312-R315). -/
structure Intc where
  src : Vector SrcState 128
  /-- The stamp of the last latching of each pending bit (R255). -/
  latched : Vector Stamp 128
  coalesced : W32
  cores : Vector CoreBlk 6
  deriving DecidableEq, Repr

/-- Fault objects, tile health and die-to-die links (R184, R379, R395). -/
structure Faults where
  intrCount : W32
  intrMaxNs : W32
  tfaultCount : W32
  tilesOut : List (Fin 68)
  /-- Spare lanes in use and resends of the codeword now failing, per die-to-die link. -/
  spareUsed : Vector Nat 8
  resends : Vector Nat 8
  mfault : Bool
  deriving DecidableEq, Repr

/-! ### Bore ports, groups, Drone -/

/-- The states of a bore port (R268). -/
inductive PortState where
  | disabled | down | hello | up | mismatch
  deriving DecidableEq, Repr

/-- A frame a port has sent (the model's record of an output): HELLO, LIVE, DATA, ACK, ABORT, RESUME
(R272), and PTP messages by type. -/
inductive TxFrame where
  | hello (h : BoreHdr) (x : Hello)
  | live (h : BoreHdr) (modnum : W16) (port : Byte) (stamp : Stamp)
  | data (f : DataFrame)
  | ack (h : BoreHdr) (body : Option HopRef)
  | abort (h : BoreHdr) (body : AbortBody)
  | resume (h : BoreHdr) (body : HopRef)
  | ptpAnnounce (a : PtpAnnounce)
  | ptpSync (seqId : W16) (stamp : Stamp)
  | ptpFollowUp (seqId : W16) (precise : Stamp)
  | ptpDelayReq (seqId : W16) (stamp : Stamp)
  | ptpDelayResp (seqId : W16) (source : W64) (stamp : Stamp)
  | ptpPdelayReq (seqId : W16) (stamp : Stamp)
  | ptpPdelayResp (seqId : W16) (source : W64) (stamp : Stamp)
  deriving DecidableEq, Repr

/-- The PTP role of a port (R260). -/
inductive PtpRole where
  | listening | master | slave
  deriving DecidableEq, Repr

/-- A bore port (R266-R276, R291) with its PTP port state (R260). -/
structure Port where
  state : PortState
  cable : Bool
  peer : Option Hello
  /-- A HELLO of the partner with ACKED has been seen (R269). -/
  ackedSeen : Bool
  helloAt : Stamp
  /-- The stamp at which the next HELLO is due (R269). -/
  helloDue : Stamp
  ver : W16
  lambda : W32
  feat : BitVec 256
  /-- Next PSN to send, frames sent and not acknowledged (oldest first) with the times each was sent. -/
  psn : W32
  unacked : List (DataFrame × Nat)
  /-- Stamp of the last advance of the partner's ACKN. -/
  ackMoved : Stamp
  peerCredit : W16
  /-- Next PSN expected (ACKN), NAK owed, acknowledgements owed. -/
  ackn : W32
  nakOwed : Bool
  gap : Bool
  ackOwed : Bool
  /-- Accepted DATA frames that wait for their collective or transfer, oldest first (R275). -/
  waiting : List DataFrame
  /-- Corrected and uncorrected RS-FEC codewords (R266, R291). -/
  fecCorr : W32
  fecUncorr : W32
  lastLive : Stamp
  /-- The stamp at which the next LIVE is due (R276). -/
  liveDue : Stamp
  lastTx : Stamp
  peerAbsent : Bool
  resend : W32
  discard : W32
  /-- The port was last lost or disabled through PORT_DOWN (R276, R277). -/
  closed : Bool
  loss : W32
  tx : List TxFrame
  ptpRole : PtpRole
  /-- The best Announce received on the port (R260). -/
  announce : Option PtpAnnounce
  ptpSeq : W16
  /-- The two-step Sync whose Follow_Up is awaited: sequence ID, stamp of reception, correction field. -/
  lastSync : Option (W16 × Stamp × Int)
  /-- The last Sync measured: the master's time of sending, and the stamp of its reception. -/
  syncPair : Option (Int × Stamp)
  syncDue : Stamp
  delayReqDue : Stamp
  delaySeq : W16
  /-- Stamp of the last Delay_Req or Pdelay_Req sent. -/
  delayAt : Stamp
  pathDelay : Int
  peerDelay : Bool
  deriving DecidableEq, Repr

/-- Bore counters (R291) and PTP/Drone state (R261, R265). -/
structure Bore where
  mixedOk : W16
  peerLost : W32
  mismatch : W32
  lastPeerLost : W64
  deriving DecidableEq, Repr

/-- The states of Drone (R261). -/
inductive DroneState where
  | free | acquire | locked | holdover
  deriving DecidableEq, Repr

/-- Drone (R253, R254, R261-R265). -/
structure Drone where
  now : Stamp
  /-- The part of a ns that the count has run beyond `now`, in units of 10^−12 ns. -/
  frac : Nat
  /-- Drone counts: the hub supplies are good (R261). -/
  counting : Bool
  state : DroneState
  /-- LOCKED has been reached since reset (R262). -/
  everLocked : Bool
  offset : Int
  freqAdj : Int
  slavePort : Option (Fin 16)
  gmId : W64
  lastStep : Stamp
  stepNs : W64
  holdoverSince : Stamp
  /-- Consecutive Syncs within, and beyond, LOCK_THR (R261). -/
  inRun : Nat
  outRun : Nat
  lastSyncAt : Stamp
  deriving DecidableEq, Repr

/-! ### Management, gate, Hatband, MRAM -/

/-- A response or datagram the agent has sent (the model's record of an output): a response item is the
object, its STATUS, REASON and LEN, the stamp and the value bytes (R359, R361). -/
structure RespItem where
  obj : ObjId
  type : Option OType
  status : W16
  reason : Byte
  len : Nat
  stamp : Stamp
  value : List Byte
  deriving DecidableEq, Repr

/-- A Hatband record (R373), by its fields; CHK is computed from them. -/
structure HbRec where
  stamp : Stamp
  hseq : W64
  boot : W32
  type : W16
  critical : Bool
  origin : W32
  payload : List Byte
  deriving DecidableEq, Repr

/-- A record as stored in an area: the record, whether it is torn, whether its codeword is
uncorrectable (R376, R377). -/
structure HbStored where
  hb : HbRec
  torn : Bool
  bad : Bool
  deriving DecidableEq, Repr

/-- A response message (R357): op, message STATUS, items, and the records of an HBREAD with their
flags. -/
structure Response where
  op : Byte
  xid : W32
  status : W16
  items : List RespItem
  recs : List HbStored
  modnum : W16
  deriving DecidableEq, Repr

/-- What the management port has sent. -/
inductive MgmtTx where
  | response (dst : Requester) (r : Response)
  /-- HEARTBEAT (R367): MODNUM, SERIAL, BOOT, LIM, DRV, DRONE, HFLAGS, CAPA, PIN, HBSEQ, STAMP, HBLAST. -/
  | heartbeat (modnum : W16) (serial : W64) (hbseq : W32) (boot lim drv drone : Byte) (hflags capa pin : W16) (stamp : Stamp) (hblast : W64)
  | advert (dst target : BitVec 128)
  | echoReply (dst : BitVec 128) (ident seq : W16) (data : List Byte)
  | unreachable (dst : BitVec 128)
  deriving DecidableEq, Repr

/-- Staged segments of one object per requester (R366). -/
structure Staging where
  src : Requester
  obj : ObjId
  type : OType
  total : Nat
  bytes : Sparse Byte
  since : Stamp
  deriving DecidableEq, Repr

/-- The state of the management port's address (R356). -/
inductive AddrState where
  | tentative | usable | duplicate
  deriving DecidableEq, Repr

/-- The management agent (R353-R371). -/
structure Mgmt where
  plcaNode : Byte
  plcaState : Bool
  addr : AddrState
  rx : W32
  rxDrop : W32
  refused : W32
  hbseq : W32
  /-- The stamp at which the next heartbeat is due (R367). -/
  hbDue : Stamp
  /-- The last 64 responses, newest first, with requester and stamp (R363). -/
  kept : List (Requester × Response × Stamp)
  staging : List Staging
  neighbours : List (BitVec 128)
  tx : List MgmtTx
  deriving DecidableEq, Repr

/-- An open level: to whom, and the stamp of its last qualifying item (R351, R368). -/
structure OpenLevel where
  who : Requester
  last : Stamp
  deriving DecidableEq, Repr

/-- The field gate (R348-R352). -/
structure Gate where
  operator : Option OpenLevel
  service : Option OpenLevel
  vendor : Option OpenLevel
  debugPort : Bool
  /-- The outstanding challenge: nonce, level, stamp it was drawn (R349). -/
  chal : Option (BitVec 256 × Byte × Stamp)
  chalNonce : BitVec 256
  bar2Miss : W32
  deriving DecidableEq, Repr

/-- Hatband (R372-R378): the queue in H8, the two areas oldest first, the general records dropped since
the last DROPPED record with the stamps of the first and last. -/
structure Hatband where
  queue : List HbRec
  gen : List HbStored
  crit : List HbStored
  nextSeq : W64
  dropsNow : Option (Nat × Stamp × Stamp)
  deriving DecidableEq, Repr

/-- The persisting objects and records in MRAM (R4, R9, R369, R411). -/
structure Mram where
  /-- The ordering code of record 0x01: true LPX-MC64. -/
  mc64 : Bool
  cfgOut : List (Fin 68)
  recordsOk : Bool
  serial : W64
  hwgen : Byte
  macMgmt : BitVec 48
  macBore : BitVec 48
  mfgStamp : Stamp
  idCert : List Byte
  /-- The signed configuration records, in ascending record number (R4, R341). -/
  cfgRecs : List (List Byte)
  capW : W16
  tripCount : W32
  lastTrip : W64
  lastTripStamp : Stamp
  supplyFaults : W32
  silentN : W32
  silentAction : Byte
  silentThr : W32
  decayFloor : Bool
  retainSteps : W32
  portEn : W16
  ethertype : W16
  progressTo : W32
  ptpDomain : Byte
  ptpPorts : W16
  logSync : W32
  lockThr : W32
  moduleNum : W16
  bootCount : W32
  hbTimeout : W32
  logLevel : Byte
  hostRegion : W64
  hostNext : W64
  ceAlert : W32
  ceLifetime : W64
  ueLifetime : W64
  scrubEn : Bool
  imbThr : Byte
  hbMs : W16
  failCount : Byte
  /-- What is left of the 3,600 s, in ns; LOCKOUT_LEFT shows it in s (R350). -/
  lockoutNs : Nat
  pwDigest : BitVec 384
  keyIndex : Byte
  /-- A rotation staged for the next reset (R340): new index, certificate, configuration records. -/
  staged : Option (Byte × List Byte × List (List Byte))
  hbDropped : W32
  hbTorn : W32
  deriving DecidableEq, Repr

/-- The non-persisting operator objects and module-wide monitor objects (R164, R316). -/
structure Objs where
  silentMask : W16
  thrOverride : Vector W64 64
  silentCount : W32
  lastSilent : W64
  lastSilentStamp : Stamp
  nonfiniteCount : W32
  lastNonfinite : W64
  traceGroups : W64
  logLost : W32
  droopTile : Sparse W32
  droopHub : Sparse W32
  islCaldef : W32
  /-- The values in force of the objects that change only at reset (R265, R291). -/
  moduleNumNow : W16
  ethertypeNow : W16
  ptpDomainNow : Byte
  ptpPortsNow : W16
  /-- The values in force of the objects that change at the next Sync (R265). -/
  logSyncNow : W32
  lockThrNow : W32
  deriving DecidableEq, Repr

/-- An ATTEST being served or queued (R344). -/
structure AttestJob where
  tenant : Fin 16
  slot : Fin 8
  win : Fin 16
  off : Nat
  nonce : BitVec 256
  src : CmdSrc
  deriving DecidableEq, Repr

/-- Why the machine stops. -/
inductive Fault where
  /-- An access to a physical byte address that the tier does not have, or to a unit that the tier does
  not have (R230): raised by SCRUB_READ, UNCORRECTABLE_READ and HOST_UNCORRECTABLE_READ. Safe: no such
  access is made by the module. -/
  | noSuchAddress (tier : Tier) (addr : Nat)
  deriving DecidableEq, Repr

/-- Why the model gives a command no meaning. -/
inductive Refusal where
  /-- The command has no meaning in the model yet: raised by the dispatcher only. Safe. -/
  | notModelled (mnemonic : String)
  deriving DecidableEq, Repr

/-- Everything the manual gives the module but the bytes of its two memory tiers. -/
structure Chip where
  /-- The model's own counter: how many free values have been drawn (random bits of the security block). -/
  drawn : Nat
  drone : Drone
  power : PowerState
  pins : Pins
  boot : Boot
  driver : Driver
  pfn : Func
  vfn : Vector Func 16
  tenants : Vector Tenant 16
  /-- The partition set in force, west first (R77): 1, 2 or 4 of these are used. -/
  nparts : Nat
  parts : Vector Part 4
  /-- A PART_SET that waits for its turn of the whole array (R81). -/
  partPending : Option (List Nat × CmdSrc)
  placer : Placer
  scan : Scan
  sp : Vector TileSp 68
  memObj : MemObj
  calPc : Vector CalState 384
  calDqs : Vector CalState 16
  calZq : Vector CalState 16
  calIsl : Vector CalState 77
  limiter : Limiter
  intc : Intc
  faults : Faults
  ports : Vector Port 16
  groups : List Group
  bore : Bore
  attests : List AttestJob
  mgmt : Mgmt
  gate : Gate
  hatband : Hatband
  mram : Mram
  objs : Objs
  /-- What the last BAR2 read, CLAIM or COALESCED read returned to its reader. -/
  readData : List Byte
  deriving DecidableEq, Repr

/-- The state of the module: the waiting commands, first in, first out; the memory tiers; the rest. -/
structure State where
  pending : List Instr
  mem : Mem
  chip : Chip
  deriving DecidableEq, Repr

/-! ### The state right after reset

Every field at the value the manual states for a module that has come out of its first reset with MRAM
as manufactured (R9, R294, R298, R405); values the manual does not state are named in
notes/assumptions. -/

/-- The all-zero plane of a program's start (R21, R39). -/
def Plane.zero : Plane :=
  { k := 4096, n := 4096, fmt := 0, alongK := false, bsm := 0, anyFmt := true, cells := [] }

/-- An accumulator at program start: FREE, contents zero (R21). -/
def Acc.initial : Acc :=
  { state := .free, cells := [], winner := [], m := 0, n := 0, opr := 0, idx := false, ks := [] }

/-- The architectural state at program start (R21), with the image's descriptors in `td`. -/
def Ctx.initial (td : Sparse Desc) : Ctx :=
  { s := Vector.replicate 64 ⟨0, false⟩
    p := (Vector.replicate 16 ⟨false, false⟩).set 0 ⟨true, false⟩
    lc := Vector.replicate 8 ⟨false, 0, 0, 0, 0⟩
    loops := [], td := td
    v := Vector.replicate 4 []
    ac := Vector.replicate 2 Acc.initial
    active := Plane.zero, shadow := none
    seed := 0, layer := 0, pc := 0, calls := [], ftq := [], ftqAll := [] }

/-- A ring after its function's reset (R298, R299). -/
def Ring.reset : Ring :=
  { base := 0, log2 := 0, enable := false, prod := 0, cons := 0, slots := [], out := [], owed := [], lost := 0 }

/-- A function after its reset (R297, R298). -/
def Func.reset : Func :=
  { rings := Vector.replicate 12 Ring.reset, featDrv := 0, featAgreed := none, msix := [], owes := 0 }

/-- The default scale state (R169): SCALE 65,536.0, GOOD 0, INTERVAL 2,000, SMIN 1.0,
SMAX 16,777,216.0, MODE 1, NSKIP 0. -/
def scaleReset : Vector W32 16 :=
  #v[0x47800000, 0, 2000, 0x3F800000, 0x4B800000, 1, 0, 0, 0, 0, 0, 0, 0, 0, 0, 0]

/-- An unused window (R333). -/
def Window.unused : Window := { tier := none, base := 0, limit := 0, grant := 0, kgen := 0 }

/-- A tenant that holds nothing (R332, R394). -/
def Tenant.reset : Tenant :=
  { fstate := .idle, windows := Vector.replicate 16 Window.unused, keys := Vector.replicate 8 .empty
    copies := [], switches := [], retires := [], fetches := [], layers := [], scale := scaleReset
    slots := [], pendAdm := [], mbatches := [], saves := [], faulted := none, fault := false, images := []
    prevEpoch := 0, used := [] }

/-- No step counted yet. -/
def StepCounts.zero (start : Stamp) : StepCounts :=
  { oorRows := 0, ftqUnder := 0, ftqOver := 0, ftqShape := 0, gradient := false, nonfinite := false
    replayed := false, tStart := start }

def Mem.reset : Mem := { tier1 := [], tier2 := [], flaw1 := [], flaw2 := [] }

def MemObj.reset : MemObj :=
  { ceT1 := 0, ceT2 := 0, ceSp := 0, ceLink := 0, resendLink := 0, ueT1 := 0, ueT2 := 0, ueSp := 0
    ueScrub := 0, ueFault := 0, lastUe := 0, lastUeStamp := 0, lastUeOutcome := 0, cePc := [], ceCh2 := []
    caldefT1 := 0, caldefDqs := 0, caldefZq := 0, guardCount := 0, scrubSweep := 0, imb := 0, kgen := 0
    rotPending := false, rotCount := 0, lastRot := 0, imbPeak := 0, key := 0, prevKey := 0, ceHour := 0, ceCounts := []
    sweepAt := [], sweepStart := 0, moved := [] }

def CalState.reset : CalState := { last := 0, honoured := false, trims := 0, limited := false }

def Boot.reset : Boot :=
  { state := .loadWait, status := 0, loadAddr := 0, loadLen := 0, paramAddr := 0, img := none, drvRel := 0
    fwRel := 0, verifying := [], queued := none, queueRefused := false, lastAct := 0, holdupMj := 0
    fwDig := 0 }

def Driver.reset : Driver :=
  { state := .never, token := 0, heartbeat := 0, changed := 0, attachStamp := 0, lossCount := 0
    lastLoss := 0, hostAbsent := false }

def Limiter.reset (cap : W16) : Limiter :=
  { state := .normal, causes := [], warns := [], since := 0, emergCount := 0, emergNs := 0, clampCount := 0
    traceSet := Vector.replicate 77 1100, emergPct := Vector.replicate 77 100
    emergDown := Vector.replicate 77 0, halfHbm := [], halfLpddr := [], halfHost := false
    capActive := cap, capApplied := 0, capPending := false, capJob := none, lowered := none
    sampled := none }

def Intc.reset : Intc :=
  { src := Vector.replicate 128 .idle, latched := Vector.replicate 128 0, coalesced := 0, cores := Vector.replicate 6 ⟨0, 0xFF, 0⟩ }

def Faults.reset : Faults :=
  { intrCount := 0, intrMaxNs := 0, tfaultCount := 0, tilesOut := []
    spareUsed := Vector.replicate 8 0, resends := Vector.replicate 8 0, mfault := false }

def Port.reset : Port :=
  { state := .disabled, cable := false, peer := none, ackedSeen := false, helloAt := 0, helloDue := 0
    ver := 0, lambda := 0, feat := 0, psn := 0, unacked := [], ackMoved := 0, peerCredit := 0, ackn := 0
    nakOwed := false, gap := false, ackOwed := false, waiting := [], fecCorr := 0, fecUncorr := 0, lastLive := 0, liveDue := 0
    lastTx := 0, peerAbsent := false, resend := 0, discard := 0, closed := false, loss := 0, tx := []
    ptpRole := .listening, announce := none, ptpSeq := 0, lastSync := none, syncPair := none, syncDue := 0, delayReqDue := 0
    delaySeq := 0, delayAt := 0, pathDelay := 0, peerDelay := false }

def Drone.reset (start : Stamp) : Drone :=
  { now := start, frac := 0, counting := true, state := .free, everLocked := false, offset := 0, freqAdj := 0
    slavePort := none, gmId := 0, lastStep := 0, stepNs := 0, holdoverSince := 0, inRun := 0, outRun := 0
    lastSyncAt := 0 }

def Mgmt.reset (node : Byte) : Mgmt :=
  { plcaNode := node, plcaState := false, addr := .tentative, rx := 0, rxDrop := 0, refused := 0
    hbseq := 0, hbDue := 0, kept := [], staging := [], neighbours := [], tx := [] }

def Gate.reset : Gate :=
  { operator := none, service := none, vendor := none, debugPort := false, chal := none, chalNonce := 0
    bar2Miss := 0 }

def Hatband.manufacture : Hatband :=
  { queue := [], gen := [], crit := [], nextSeq := 1, dropsNow := none }

/-- MRAM as manufactured: the stated defaults of the persisting objects (R369). -/
def Mram.manufacture : Mram :=
  { mc64 := true, cfgOut := [], recordsOk := true, serial := 0, hwgen := 0, macMgmt := 0, macBore := 0
    mfgStamp := 0, idCert := [], cfgRecs := [], capW := 3600, tripCount := 0, lastTrip := 0, lastTripStamp := 0
    supplyFaults := 0, silentN := 256, silentAction := 1, silentThr := 0x37800000, decayFloor := true
    retainSteps := 0, portEn := 0xFFFF, ethertype := 0x88B5, progressTo := 10000, ptpDomain := 0
    ptpPorts := 0xFFFF, logSync := 0xFFFFFFFB, lockThr := 20, moduleNum := 0xFFFF, bootCount := 0
    hbTimeout := 1000, logLevel := 3, hostRegion := 64000000000, hostNext := 0, ceAlert := 1000
    ceLifetime := 0, ueLifetime := 0, scrubEn := true, imbThr := 25, hbMs := 100, failCount := 0
    lockoutNs := 0, pwDigest := 0, keyIndex := 0, staged := none, hbDropped := 0, hbTorn := 0 }

/-- The non-persisting objects after a reset, with the values in force taken from MRAM (R9, R265). -/
def Objs.reset (m : Mram) : Objs :=
  { silentMask := 0, thrOverride := Vector.replicate 64 0, silentCount := 0, lastSilent := 0
    lastSilentStamp := 0, nonfiniteCount := 0, lastNonfinite := 0, traceGroups := 0, logLost := 0
    droopTile := [], droopHub := [], islCaldef := 0, moduleNumNow := m.moduleNum
    ethertypeNow := m.ethertype, ptpDomainNow := m.ptpDomain, ptpPortsNow := m.ptpPorts
    logSyncNow := m.logSync, lockThrNow := m.lockThr }

/-- Partition 0 takes every physical tile column and every spare; the other three are unused (R77, R80, R371). -/
def partsReset (mc64 : Bool) : Vector Part 4 :=
  (Vector.replicate 4 ⟨0, [], none, none⟩).set 0 ⟨if mc64 then 8 else 7, [0, 1, 2, 3], none, none⟩

/-- The sideband after start (R398, R406): the module runs, no alert, no supply fault. -/
def Pins.running : Pins :=
  { pwrEn := true, pg := true, rstN := true, alive := true, thermAlertN := true, holdupN := true
    prsntN := false, slotId := 1, hpePerstN := true }

/-- The chip right after its first reset: ROM in LOAD_WAIT, nothing configured. -/
def Chip.reset : Chip :=
  { drawn := 0
    drone := Drone.reset 0
    power := .running
    pins := Pins.running
    boot := Boot.reset
    driver := Driver.reset
    pfn := Func.reset
    vfn := Vector.replicate 16 Func.reset
    tenants := Vector.replicate 16 Tenant.reset
    nparts := 1
    parts := partsReset true
    partPending := none
    placer := { jobs := [], bound := [], nextId := 1, rebinds := [] }
    scan := { at_ := 128, left := 0 }
    sp := Vector.replicate 68 ⟨none, false, 0, []⟩
    memObj := MemObj.reset
    calPc := Vector.replicate 384 CalState.reset
    calDqs := Vector.replicate 16 CalState.reset
    calZq := Vector.replicate 16 CalState.reset
    calIsl := Vector.replicate 77 CalState.reset
    limiter := Limiter.reset 3600
    intc := Intc.reset
    faults := Faults.reset
    ports := Vector.replicate 16 Port.reset
    groups := []
    bore := { mixedOk := 0, peerLost := 0, mismatch := 0, lastPeerLost := 0 }
    attests := []
    mgmt := Mgmt.reset 1
    gate := Gate.reset
    hatband := Hatband.manufacture
    mram := Mram.manufacture
    objs := Objs.reset Mram.manufacture
    readData := [] }

/-- The module right after its first reset: no command waits, memory lists nothing. -/
def State.reset : State :=
  { pending := [], mem := Mem.reset, chip := Chip.reset }

end Sys2Proof.Machine
end

