-- ==== Sys2Proof/Machine/Num.lean ====
section
/-! DEFINITION. Element formats, exact arithmetic and rounding (04_accumulation_and_numerics.md, R33,
R86-R102). Values are exact (`Fp`); every rounding is a call of one of the functions here. -/

namespace Sys2Proof.Machine

/-! ### Exact values -/

/-- The number of bits of `m`; 0 for 0. -/
def bitLen (m : Nat) : Nat := if m = 0 then 0 else Nat.log2 m + 1

/-- The signed integer `(-1)^neg * m`. -/
def signed (neg : Bool) (m : Nat) : Int := if neg then -(m : Int) else (m : Int)

def Fp.zero : Fp := .fin false 0 0

def Fp.one : Fp := .fin false 1 0

def Fp.isFinite : Fp → Bool
  | .fin _ _ _ => true
  | _ => false

def Fp.isNan : Fp → Bool
  | .nan => true
  | _ => false

/-- Negation; NaN stays NaN (R90). -/
def Fp.neg : Fp → Fp
  | .nan => .nan
  | .inf s => .inf (!s)
  | .fin s m e => .fin (!s) m e

def Fp.abs : Fp → Fp
  | .nan => .nan
  | .inf _ => .inf false
  | .fin _ m e => .fin false m e

/-- The exact sum: ∞ + finite = ∞, +∞ + (−∞) = NaN (R90); a sum that cancels is +0, and −0 + −0 = −0. -/
def Fp.add : Fp → Fp → Fp
  | .nan, _ => .nan
  | _, .nan => .nan
  | .inf a, .inf b => if a = b then .inf a else .nan
  | .inf a, .fin _ _ _ => .inf a
  | .fin _ _ _, .inf b => .inf b
  | .fin sa ma ea, .fin sb mb eb =>
    let e := min ea eb
    let s := signed sa (ma * 2 ^ (ea - e).toNat) + signed sb (mb * 2 ^ (eb - e).toNat)
    if s = 0 then .fin (sa && sb) 0 e else .fin (decide (s < 0)) s.natAbs e

def Fp.sub (a b : Fp) : Fp := a.add b.neg

/-- The exact product (R88): 0 × ∞ is NaN (R76, R90). -/
def Fp.mul : Fp → Fp → Fp
  | .nan, _ => .nan
  | _, .nan => .nan
  | .inf a, .inf b => .inf (a != b)
  | .inf a, .fin b m _ => if m = 0 then .nan else .inf (a != b)
  | .fin a m _, .inf b => if m = 0 then .nan else .inf (a != b)
  | .fin sa ma ea, .fin sb mb eb => .fin (sa != sb) (ma * mb) (ea + eb)

/-- `v * 2^x`, exactly. -/
def Fp.scale (v : Fp) (x : Int) : Fp :=
  match v with
  | .fin s m e => .fin s m (e + x)
  | w => w

/-- The order of two values that are not NaN; +0 and −0 compare equal (R87). -/
def Fp.cmp : Fp → Fp → Ordering
  | .inf a, .inf b => if a = b then .eq else if a then .lt else .gt
  | .inf a, _ => if a then .lt else .gt
  | _, .inf b => if b then .gt else .lt
  | .fin sa ma ea, .fin sb mb eb =>
    let e := min ea eb
    compare (signed sa (ma * 2 ^ (ea - e).toNat)) (signed sb (mb * 2 ^ (eb - e).toNat))
  | _, _ => .eq

def Fp.lt (a b : Fp) : Bool := !a.isNan && !b.isNan && a.cmp b == .lt
def Fp.le (a b : Fp) : Bool := !a.isNan && !b.isNan && a.cmp b != .gt
def Fp.eq (a b : Fp) : Bool := !a.isNan && !b.isNan && a.cmp b == .eq

/-! ### Formats (R33, R94) -/

/-- The element formats of R33. -/
inductive Fmt where
  | fp4 | e4m3 | e5m2 | bf16 | fp32 | i32 | u8
  deriving DecidableEq, Repr

/-- The format of an FMT code; none for 0x0 and 0x8-0xF (R33). -/
def Fmt.ofCode (c : BitVec 4) : Option Fmt :=
  match c.toNat with
  | 1 => some .fp4
  | 2 => some .e4m3
  | 3 => some .e5m2
  | 4 => some .bf16
  | 5 => some .fp32
  | 6 => some .i32
  | 7 => some .u8
  | _ => none

def Fmt.code : Fmt → BitVec 4
  | .fp4 => 1
  | .e4m3 => 2
  | .e5m2 => 3
  | .bf16 => 4
  | .fp32 => 5
  | .i32 => 6
  | .u8 => 7

/-- Bits per element (R33). -/
def Fmt.bits : Fmt → Nat
  | .fp4 => 4
  | .e4m3 | .e5m2 | .u8 => 8
  | .bf16 => 16
  | .fp32 | .i32 => 32

/-- A floating-point format's shape (R94): fraction bits, exponent bits, bias, and its largest finite
value `maxM * 2^maxE`. -/
structure Shape where
  mbits : Nat
  ebits : Nat
  bias : Nat
  maxM : Nat
  maxE : Int
  deriving DecidableEq, Repr

/-- The shapes of R94; the integer formats have none. -/
def Fmt.shape : Fmt → Option Shape
  | .fp4 => some ⟨1, 2, 1, 3, 1⟩
  | .e4m3 => some ⟨3, 4, 7, 14, 5⟩
  | .e5m2 => some ⟨2, 5, 15, 7, 13⟩
  | .bf16 => some ⟨7, 8, 127, 255, 120⟩
  | .fp32 => some ⟨23, 8, 127, 16777215, 104⟩
  | .i32 | .u8 => none

def Fmt.isFloat (f : Fmt) : Bool := f.shape.isSome

/-- FP4 and FP8: the formats that take block scales (R35). -/
def Fmt.scalable : Fmt → Bool
  | .fp4 | .e4m3 | .e5m2 => true
  | _ => false

/-- The exponent of the last place of the subnormals (R94). -/
def Shape.emin (f : Shape) : Int := 1 - (f.bias : Int) - (f.mbits : Int)

def Shape.maxFin (f : Shape) : Fp := .fin false f.maxM f.maxE

/-- Whether an exponent field of all ones holds ∞ and NaN (E5M2, BF16, FP32); E4M3 holds NaN only in
S.1111.111, FP4 none (R94). -/
def Fmt.ieee : Fmt → Bool
  | .e5m2 | .bf16 | .fp32 => true
  | _ => false

/-- The value of an element's bits in a floating-point format (R94); an integer format's bits read as
the integer. -/
def Fmt.decode (f : Fmt) (bits : W32) : Fp :=
  match f with
  | .i32 => .fin (decide (bits.toInt < 0)) bits.toInt.natAbs 0
  | .u8 => .fin false (bits.toNat % 256) 0
  | _ =>
    match f.shape with
    | none => .nan
    | some sh =>
      let n := bits.toNat % 2 ^ (1 + sh.ebits + sh.mbits)
      let s := decide (n / 2 ^ (sh.ebits + sh.mbits) = 1)
      let ef := n / 2 ^ sh.mbits % 2 ^ sh.ebits
      let fr := n % 2 ^ sh.mbits
      if f.ieee ∧ ef = 2 ^ sh.ebits - 1 then (if fr = 0 then .inf s else .nan)
      else if f = .e4m3 ∧ ef = 15 ∧ fr = 7 then .nan
      else if ef = 0 then .fin s fr sh.emin
      else .fin s (2 ^ sh.mbits + fr) (sh.emin + (ef : Int) - 1)

/-- The exponent of the last place of a rounding of `m * 2^e` to the shape. -/
def Shape.lastPlace (f : Shape) (m : Nat) (e : Int) : Int :=
  max f.emin ((bitLen m : Int) + e - (f.mbits + 1))

/-- The value `m * 2^e` rounded to nearest with ties to even on the shape's grid, with no upper bound
(R86, R97): the significand and exponent of the result. -/
def Shape.rneMag (f : Shape) (m : Nat) (e : Int) : Nat × Int :=
  let q := f.lastPlace m e
  if q ≤ e then (m * 2 ^ (e - q).toNat, q)
  else
    let d := (q - e).toNat
    let a := m / 2 ^ d
    let r := m % 2 ^ d
    let up := 2 ^ d < 2 * r || (2 * r == 2 ^ d && a % 2 == 1)
    (if up then a + 1 else a, q)

/-- The bits of `m * 2^e`, a value on the shape's grid and within its range. -/
def Shape.encodeMag (f : Shape) (neg : Bool) (m : Nat) (e : Int) : W32 :=
  let sgn := if neg then 2 ^ (f.ebits + f.mbits) else 0
  if m = 0 then BitVec.ofNat 32 sgn
  else
    let q := f.lastPlace m e
    let a := if q ≤ e then m * 2 ^ (e - q).toNat else m / 2 ^ (q - e).toNat
    if a < 2 ^ f.mbits then BitVec.ofNat 32 (sgn + a)
    else BitVec.ofNat 32 (sgn + ((q - f.emin).toNat + 1) * 2 ^ f.mbits + (a - 2 ^ f.mbits))

/-- The canonical NaN of a format (R94). -/
def Fmt.nanBits : Fmt → W32
  | .e4m3 | .e5m2 => 0x7F
  | .bf16 => 0x7FC0
  | .fp32 => 0x7FC00000
  | _ => 0

/-- The bits of ±∞ in a format that has it (R94). -/
def Fmt.infBits (f : Fmt) (neg : Bool) : W32 :=
  match f, neg with
  | .e5m2, false => 0x7C
  | .e5m2, true => 0xFC
  | .bf16, false => 0x7F80
  | .bf16, true => 0xFF80
  | .fp32, false => 0x7F800000
  | .fp32, true => 0xFF800000
  | _, _ => 0

/-- The bits of a value that lies on the format's grid, an ∞ or NaN. -/
def Fmt.encode (f : Fmt) (v : Fp) : W32 :=
  match v with
  | .nan => f.nanBits
  | .inf s => f.infBits s
  | .fin s m e =>
    match f.shape with
    | none => 0
    | some sh => sh.encodeMag s m e

/-- RNE into a shape under the rule of accumulation and lane arithmetic (R90, R97, R113): the result is
±∞ only when the rounded magnitude exceeds the largest finite value. -/
def Shape.rne (f : Shape) (v : Fp) : Fp :=
  match v with
  | .fin s m e =>
    let (a, q) := f.rneMag m e
    if (f.maxFin).lt (.fin false a q) then .inf s else .fin s a q
  | w => w

def shape32 : Shape := ⟨23, 8, 127, 16777215, 104⟩
def shapeBf : Shape := ⟨7, 8, 127, 255, 120⟩

/-- RNE32 (R86). -/
def rne32 (v : Fp) : Fp := shape32.rne v

/-- RNE to BF16 (R113). -/
def rneBf (v : Fp) : Fp := shapeBf.rne v

/-- FP32 bits as a value, and back. -/
def ofF32 (b : W32) : Fp := Fmt.fp32.decode b
def toF32 (v : Fp) : W32 := Fmt.fp32.encode (rne32 v)

/-- A BF16 element is read from bits [15:0] of a buffer element, written with upper bits zero (R42,
R113). -/
def ofBf (b : W32) : Fp := Fmt.bf16.decode b
def toBf (v : Fp) : W32 := Fmt.bf16.encode (rneBf v)

/-! ### Conversion (R95-R101) -/

/-- The value scaled by an E8M0 byte: NaN under 0xFF (R95). -/
def underScale (v : Fp) (s : Byte) : Fp :=
  if s = 0xFF then .nan else v.scale ((s.toNat : Int) - 127)

/-- The value of a stored element with its scale (R86, R99). -/
def Elem.value (f : Fmt) (x : Elem) : Fp :=
  if f.scalable then underScale (f.decode x.bits) x.scale else f.decode x.bits

/-- Stochastic rounding of a finite magnitude on the shape's grid with 24 random bits (R101): between
the neighbours lo < v < hi the result is hi when t + r ≥ 2^24. -/
def Shape.srMag (f : Shape) (neg : Bool) (m : Nat) (e : Int) (r : Nat) : Nat × Int :=
  let q := f.lastPlace m e
  if q ≤ e then (m * 2 ^ (e - q).toNat, q)
  else
    let d := (q - e).toNat
    let a := m / 2 ^ d
    let rem := m % 2 ^ d
    if rem = 0 then (a, q)
    else if neg then
      let t := (2 ^ d - rem) * 2 ^ 24 / 2 ^ d
      (if 2 ^ 24 ≤ t + r then a else a + 1, q)
    else
      let t := rem * 2 ^ 24 / 2 ^ d
      (if 2 ^ 24 ≤ t + r then a + 1 else a, q)

/-- The class of a finite conversion that does not overflow (R100): 0 exact, 1 rounded, 2 underflow,
3 flush to zero. -/
def Shape.classOf (f : Shape) (m : Nat) (e : Int) (a : Nat) (q : Int) : Fin 6 :=
  if Fp.eq (.fin false m e) (.fin false a q) then 0
  else if a = 0 then 3
  else if Fp.lt (.fin false a q) (.fin false (2 ^ f.mbits) f.emin) then 2
  else 1

/-- The conversion of one value, after scaling, into a floating-point format (R97, R98, R101): bits and
class (R100). `sr` holds the 24 random bits when the target rounds stochastically. A magnitude beyond
the largest finite value overflows before rounding: class 4 saturates under OVF 0, class 5 is ∞ or NaN. -/
def Fmt.convert (f : Fmt) (ovf : Bool) (sr : Option Nat) (v : Fp) : W32 × Fin 6 :=
  match f.shape with
  | none => (0, 0)
  | some sh =>
    match v with
    | .nan => (f.nanBits, 5)
    | .inf s => if f.ieee then (f.infBits s, 5)
                else (f.nanBits ||| (if s then BitVec.ofNat 32 (2 ^ (sh.ebits + sh.mbits)) else 0), 5)
    | .fin s m e =>
      if sh.maxFin.lt (.fin false m e) then
        if ovf then
          (if f.ieee then f.infBits s
           else f.nanBits ||| (if s then BitVec.ofNat 32 (2 ^ (sh.ebits + sh.mbits)) else 0), 5)
        else (sh.encodeMag s sh.maxM sh.maxE, 4)
      else
        let (a, q) := match sr with
          | none => sh.rneMag m e
          | some r => sh.srMag s m e r
        (sh.encodeMag s a q, sh.classOf m e a q)

/-- Conversion into I32 or U8 (R116): RNE, saturating at the target's range, NaN becomes 0. -/
def toInt (lo hi : Int) (v : Fp) : Int :=
  match v with
  | .nan => 0
  | .inf s => if s then lo else hi
  | .fin s m e =>
    let n : Nat :=
      if 0 ≤ e then m * 2 ^ e.toNat
      else
        let d := (-e).toNat
        let a := m / 2 ^ d
        let r := m % 2 ^ d
        if 2 ^ d < 2 * r || (2 * r == 2 ^ d && a % 2 == 1) then a + 1 else a
    max lo (min hi (signed s n))

/-- The bits of a value converted into a format of R33 (R97, R98, R116) and its class; integer targets
have class 0 and are never counted (R159). -/
def convertTo (f : Fmt) (ovf : Bool) (sr : Option Nat) (v : Fp) : W32 × Fin 6 :=
  match f with
  | .i32 => (BitVec.ofInt 32 (toInt (-2147483648) 2147483647 v), 0)
  | .u8 => (BitVec.ofInt 32 (toInt 0 255 v), 0)
  | _ => f.convert ovf sr v

/-! ### Scales (R95) -/

/-- The largest magnitude among finite values; none when an element is ±∞ or NaN. -/
def amax : List Fp → Option Fp
  | [] => some .zero
  | v :: vs =>
    match v, amax vs with
    | .fin _ m e, some w => some (if w.lt (.fin false m e) then .fin false m e else w)
    | _, _ => none

/-- The smallest integer X with `amax ≤ Fmax * 2^X`, clamped to −127 to 127 (R95). -/
def Shape.scaleExp (f : Shape) (v : Fp) : Int :=
  match v with
  | .fin _ m e =>
    if m = 0 then -127
    else
      let x0 := e + bitLen m - (f.maxE + bitLen f.maxM)
      let x := if Fp.le (.fin false m e) (f.maxFin.scale x0) then x0 else x0 + 1
      max (-127) (min 127 x)
  | _ => -127

/-- The scale byte that the amax pass chooses for a block of values (R95). -/
def Shape.scaleByte (f : Shape) (vs : List Fp) : Byte :=
  match amax vs with
  | none => 0xFF
  | some v => BitVec.ofInt 8 (f.scaleExp v + 127)

/-- One element of a scaled conversion (R95, R98): `v * 2^-X` converted; 0x0 under scale 0xFF. -/
def Fmt.convertScaled (f : Fmt) (s : Byte) (sr : Option Nat) (v : Fp) : W32 × Fin 6 :=
  if s = 0xFF then (0, 5) else f.convert false sr (v.scale (127 - (s.toNat : Int)))

/-! ### Sums in the order of the numerics epoch (R89) -/

/-- The two entries at positions `i` and `j` of a list joined into one by an RNE32 addition, which takes
the place of the first. -/
def joinAt (vs : List Fp) (i j : Nat) : List Fp :=
  (vs.set i (rne32 ((vs.getD i .zero).add (vs.getD j .zero)))).eraseIdx j

/-- What fixes arithmetic besides values and shapes: the hardware generation and the numerics epoch (R89, R106). -/
structure Gen where
  hwgen : Byte
  nepoch : Byte
  deriving DecidableEq, Repr

/-- One partial sum of a list by RNE32 additions in the order that `Config.joinPick` gives for the shape
(R89, R106, R115, R138, R161). Two partial sums join directly; `fuel` is the length. -/
def joinAll (g : Gen) (shape : List Nat) : Nat → List Fp → Fp
  | _, [] => .zero
  | _, [a] => a
  | _, [a, b] => rne32 (a.add b)
  | 0, a :: _ => a
  | fuel + 1, vs =>
    let n := vs.length
    let k := Config.joinPick g.hwgen g.nepoch shape (fuel + 1) % (n * (n - 1))
    let i := k / (n - 1)
    let j0 := k % (n - 1)
    let j := if i ≤ j0 then j0 + 1 else j0
    joinAll g shape fuel (joinAt vs i j)

/-- The sum of terms with a starting value. -/
def sumTerms (g : Gen) (shape : List Nat) (acc : Fp) (terms : List Fp) : Fp :=
  joinAll g shape (terms.length + 1) (acc :: terms)

end Sys2Proof.Machine
end

