-- ==== Sys2Proof/Machine/Rs.lean ====
section
/-! DEFINITION. The stored codeword: RS(34,32) with parity, its encoder and its decoder (R237, R238). -/

namespace Sys2Proof.Machine

/-- x times α in GF(2^8) with x^8 + x^4 + x^3 + x^2 + 1. -/
def gfDouble (x : Byte) : Byte := if x.getLsbD 7 then (x <<< 1) ^^^ 0x1D else x <<< 1

/-- x times α^n. -/
def gfScale (x : Byte) : Nat → Byte
  | 0 => x
  | n + 1 => gfScale (gfDouble x) n

/-- The product of two field elements: bit by bit of the second, from `k` bits on. -/
def gfMulFrom (x y : Byte) : Nat → Byte
  | 0 => 0
  | k + 1 => (if y.getLsbD k then gfScale x k else 0) ^^^ gfMulFrom x y k

def gfMul (x y : Byte) : Byte := gfMulFrom x y 8

/-- c(α^p) of the bytes 0-33, byte 0 the coefficient of x^33 (Horner). -/
def syndrome (p : Nat) (bs : List Byte) : Byte := bs.foldl (fun s b => gfScale s p ^^^ b) 0

def xorAll (bs : List Byte) : Byte := bs.foldl (fun s b => s ^^^ b) 0

/-- What the decoder finds (R238). -/
inductive EccResult where
  | clean
  /-- Corrected; the 36 bytes as they should stand. -/
  | corrected (bytes : List Byte)
  | uncorrectable
  deriving DecidableEq, Repr

/-- The error position j of R238's third row, if there is one. -/
def errorAt (s1 s2 p : Byte) : Option Nat :=
  if gfMul s2 p = gfMul s1 s1 then (List.range 34).find? fun j => gfScale p j = s1 else none

/-- The decoder's table (R238) over the 36 bytes of a codeword. -/
def eccDecode (raw : List Byte) : EccResult :=
  let code := raw.take 34
  let s1 := syndrome 1 code
  let s2 := syndrome 2 code
  let p := xorAll (raw.take 35)
  if s1 = 0 ∧ s2 = 0 then
    if p = 0 then .clean else .corrected (raw.set 34 (raw.getD 34 0 ^^^ p))
  else if p = 0 then .uncorrectable
  else match errorAt s1 s2 p with
    | some j => .corrected (raw.set (33 - j) (raw.getD (33 - j) 0 ^^^ p))
    | none => .uncorrectable

/-- CHK: the remainder of DATA(x)·x^2 by g(x) = x^2 + 6x + 8, as the two bytes of x^1 and x^0 (R238). -/
def rsCheck (data : List Byte) : Byte × Byte :=
  data.foldl (fun r d =>
    let top := r.1 ^^^ d
    (r.2 ^^^ gfMul top 0x06, gfMul top 0x08)) (0, 0)

/-- The codeword of 32 data bytes (R237). -/
def eccEncode (data : List Byte) : List Byte :=
  let (hi, lo) := rsCheck data
  data ++ [hi, lo, xorAll (data ++ [hi, lo]), 0]

/-- The 36 bytes of an error pattern, byte 0 its most significant. -/
def errBytes (e : BitVec 288) : List Byte := (List.range 36).map fun i => e.extractLsb' (8 * (35 - i)) 8

/-- The error pattern of 36 bytes. -/
def errOf (bs : List Byte) : BitVec 288 := BitVec.ofNat 288 (bs.foldl (fun n b => 256 * n + b.toNat) 0)

def xorBytes (xs ys : List Byte) : List Byte := (xs.zip ys).map fun x => x.1 ^^^ x.2

/-- What the decoder finds of a sound codeword with an error on it: by the code's linearity, what it finds of the error
alone. -/
def errVerdict (e : BitVec 288) : EccResult := if e = 0 then .clean else eccDecode (errBytes e)

/-- An error that the decoder cannot correct. -/
def isBad (e : BitVec 288) : Bool :=
  match errVerdict e with
  | .uncorrectable => true
  | _ => false

/-- An error that the decoder corrects. -/
def isCorrected (e : BitVec 288) : Bool :=
  match errVerdict e with
  | .corrected _ => true
  | _ => false

end Sys2Proof.Machine
end

