-- ==== Sys2Proof/Machine/Ops.lean ====
section
/-! DEFINITION. The named operations that the meanings share: sparse arrays, bytes of the memory tiers,
the parts of the chip, source IDs, rings, logs, interrupts and Hatband records. -/

namespace Sys2Proof.Machine

/-! ### Sparse arrays and memory bytes -/

/-- The entry at a key; `d` where none is listed. -/
def spGet {α : Type} (d : α) : List (Nat × α) → Nat → α
  | [], _ => d
  | (j, v) :: m, k => if j = k then v else spGet d m k

/-- The array with `v` at key `k`: of a canonical array a canonical one. -/
def spSet {α : Type} [DecidableEq α] (d : α) (k : Nat) (v : α) (m : List (Nat × α)) : List (Nat × α) :=
  (m.filter fun e => decide (e.1 < k)) ++
    (if v = d then m.filter fun e => decide (k < e.1) else (k, v) :: m.filter fun e => decide (k < e.1))

/-- The canonical form above a key bound: every key at least `lo`, rising, no entry equal to `d`. -/
def spWfFrom {α : Type} [DecidableEq α] (d : α) : Nat → List (Nat × α) → Bool
  | _, [] => true
  | lo, (j, v) :: m => decide (lo ≤ j) && decide (v ≠ d) && spWfFrom d (j + 1) m

/-- The canonical form of a sparse array. -/
def spWf {α : Type} [DecidableEq α] (d : α) (m : List (Nat × α)) : Bool := spWfFrom d 0 m

/-- Several writes, in order. -/
def spSetAll {α : Type} [DecidableEq α] (d : α) (m : List (Nat × α)) (ws : List (Nat × α)) : List (Nat × α) :=
  ws.foldl (fun m w => spSet d w.1 w.2 m) m

/-- What an unlisted address of either tier reads as (DESIGN CHOICE, notes/assumptions/9.md). -/
def unlistedByte : Byte := 0

/-- The byte at a physical address of a tier (R230-R232). -/
def Mem.byte (m : Mem) (a : PAddr) : Byte :=
  if a.1 then spGet unlistedByte m.tier1 a.2 else spGet unlistedByte m.tier2 a.2

/-- The memory with one byte written. -/
def Mem.put (m : Mem) (a : PAddr) (v : Byte) : Mem :=
  if a.1 then { m with tier1 := spSet unlistedByte a.2 v m.tier1 }
  else { m with tier2 := spSet unlistedByte a.2 v m.tier2 }

/-- The memory with several bytes written, in order. -/
def Mem.putAll (m : Mem) (ws : List (PAddr × Byte)) : Mem := ws.foldl (fun m w => m.put w.1 w.2) m

/-- A write to some bits of a byte. -/
def Mem.apply (m : Mem) (w : MemWrite) : Mem :=
  m.put w.addr ((m.byte w.addr &&& ~~~w.mask) ||| (w.val &&& w.mask))

/-- The codeword of a byte (R237): tier and index. -/
def wordOf (a : PAddr) : PAddr := (a.1, a.2 / 32)

/-- Writes that together write all 32 data bytes of a codeword (R241). -/
def wholeWord (ws : List MemWrite) (k : PAddr) : Bool :=
  (List.range 32).all fun i => ws.any fun w => decide (w.addr = (k.1, 32 * k.2 + i)) && decide (w.mask = 0xFF)

/-- The error on the cells of a codeword (R237, R241); zero: its cells hold the code of its data. -/
def Mem.flaw (m : Mem) (k : PAddr) : BitVec 288 := if k.1 then spGet 0 m.flaw1 k.2 else spGet 0 m.flaw2 k.2

/-- The memory with the error on the cells of a codeword set. -/
def Mem.setFlaw (m : Mem) (k : PAddr) (e : BitVec 288) : Mem :=
  if k.1 then { m with flaw1 := spSet 0 k.2 e m.flaw1 } else { m with flaw2 := spSet 0 k.2 e m.flaw2 }

/-- No codeword has an error on its cells. -/
def Mem.sound (m : Mem) : Bool := m.flaw1.isEmpty && m.flaw2.isEmpty

/-- Codewords whose cells hold the code of their data. -/
def Mem.heal (m : Mem) (ks : List PAddr) : Mem :=
  if m.sound then m else ks.foldl (fun m k => m.setFlaw k 0) m

/-- A codeword is uncorrectable at rest (R241). -/
def Mem.bad (m : Mem) (k : PAddr) : Bool := isBad (m.flaw k)

/-- The first of some writes that falls into a part of a codeword that is uncorrectable: the read that the merge needs
is an uncorrectable one (R241). -/
def Mem.stuck (m : Mem) (ws : List MemWrite) : Option MemWrite :=
  if m.sound then none else ws.find? fun w => m.bad (wordOf w.addr) && !wholeWord ws (wordOf w.addr)

/-- The codewords that a write of a part reads and corrects (R241). -/
def Mem.merged (m : Mem) (ws : List MemWrite) : List PAddr :=
  if m.sound then [] else
    ((ws.map fun w => wordOf w.addr).eraseDups).filter fun k => isCorrected (m.flaw k) && !wholeWord ws k

/-- Several such writes, in order. A codeword that is written is encoded afresh; a write of a part of an uncorrectable
one writes nothing into it (R241). -/
def Mem.applyAll (m : Mem) (ws : List MemWrite) : Mem :=
  if m.sound then ws.foldl Mem.apply m
  else
    let ws := ws.filter fun w => !m.bad (wordOf w.addr) || wholeWord ws (wordOf w.addr)
    (ws.foldl Mem.apply m).heal (ws.map fun w => wordOf w.addr)

/-- The canonical form of both tiers and of the errors on their cells. -/
def Mem.wf (m : Mem) : Bool :=
  spWf unlistedByte m.tier1 && spWf unlistedByte m.tier2 && spWf 0 m.flaw1 && spWf 0 m.flaw2

/-- The bytes at `n` addresses from `a` on. -/
def Mem.read (m : Mem) (a : PAddr) (n : Nat) : List Byte :=
  (List.range n).map fun i => m.byte (a.1, a.2 + i)

/-- The 36 stored bytes of a codeword (R237). -/
def Mem.stored (m : Mem) (k : PAddr) : List Byte :=
  xorBytes (eccEncode (m.read (k.1, 32 * k.2) 32)) (errBytes (m.flaw k))

/-- The cells of a codeword written with 36 bytes, whatever they spell: its data are what the decoder delivers, as far as
it delivers any. -/
def Mem.putStored (m : Mem) (k : PAddr) (raw : List Byte) : Mem :=
  match eccDecode raw with
  | .uncorrectable => m.setFlaw k (errOf (xorBytes (eccEncode (m.read (k.1, 32 * k.2) 32)) raw))
  | .clean => (m.putAll ((raw.take 32).zipIdx.map fun x => ((k.1, 32 * k.2 + x.2), x.1))).setFlaw k 0
  | .corrected bs =>
    (m.putAll ((bs.take 32).zipIdx.map fun x => ((k.1, 32 * k.2 + x.2), x.1))).setFlaw k
      (errOf (xorBytes (eccEncode (bs.take 32)) raw))

/-- An error that comes to stand on the cells of a codeword (R241). -/
def Mem.strike (m : Mem) (k : PAddr) (e : BitVec 288) : Mem :=
  if e = 0 then m else m.putStored k (xorBytes (m.stored k) (errBytes e))

/-- The memory with every byte in `[lo, hi)` of a tier written with zero (R334). -/
def Mem.zero (m : Mem) (t1 : Bool) (lo hi : Nat) : Mem :=
  let keep := fun c : Host.Cell => !(decide (lo ≤ c.1) && decide (c.1 < hi))
  let keepWord := fun c : Nat × BitVec 288 => !(decide (lo ≤ 32 * c.1) && decide (32 * c.1 < hi))
  if t1 then { m with tier1 := m.tier1.filter keep, flaw1 := m.flaw1.filter keepWord }
  else { m with tier2 := m.tier2.filter keep, flaw2 := m.flaw2.filter keepWord }

/-! ### Association lists -/

/-- The entry at a key. -/
def alGet {α : Type} (m : List (Nat × α)) (k : Nat) : Option α := (m.find? fun e => e.1 = k).map Prod.snd

/-- The list with a value at a key, keys rising. -/
def alPut {α : Type} (m : List (Nat × α)) (k : Nat) (v : α) : List (Nat × α) :=
  (m.filter fun e => e.1 < k) ++ (k, v) :: m.filter fun e => k < e.1

/-! ### Little-endian fields -/

/-- The number that bytes spell, least significant first. -/
def leNat : List Byte → Nat
  | [] => 0
  | b :: bs => b.toNat + 256 * leNat bs

/-- The `n` bytes of a number, least significant first. -/
def leBytes : Nat → Nat → List Byte
  | 0, _ => []
  | n + 1, v => BitVec.ofNat 8 v :: leBytes n (v / 256)

/-- The number in bytes `[i, i + n)` of a list. -/
def leAt (bs : List Byte) (i n : Nat) : Nat := leNat ((bs.drop i).take n)

/-- The number in bytes `[i, i + n)` of a ring entry (R299). -/
def entryAt (e : Entry) (i n : Nat) : Nat := e.toNat / 2 ^ (8 * i) % 2 ^ (8 * n)

/-! ### Parts of the chip -/

/-- A vector with its element at `i` changed by `f`. -/
def vecMod {α : Type} {n : Nat} (v : Vector α n) (i : Fin n) (f : α → α) : Vector α n := v.set i (f v[i])

/-- A command that acts on the chip alone. -/
def State.on (s : State) (f : Chip → Chip) : State := { s with chip := f s.chip }

def Chip.modTenant (c : Chip) (t : Fin 16) (f : Tenant → Tenant) : Chip :=
  { c with tenants := vecMod c.tenants t f }

def Chip.func (c : Chip) : Fn → Func
  | .pf => c.pfn
  | .vf t => c.vfn[t]

def Chip.modFunc (c : Chip) (f : Fn) (g : Func → Func) : Chip :=
  match f with
  | .pf => { c with pfn := g c.pfn }
  | .vf t => { c with vfn := vecMod c.vfn t g }

def Chip.modRing (c : Chip) (f : Fn) (r : Fin 12) (g : Ring → Ring) : Chip :=
  c.modFunc f fun fn => { fn with rings := vecMod fn.rings r g }

def Chip.modPart (c : Chip) (p : Fin 4) (f : Part → Part) : Chip := { c with parts := vecMod c.parts p f }

/-- The plan running in a partition. -/
def Chip.run (c : Chip) (p : Fin 4) : Option Running := c.parts[p].run

def Chip.setRun (c : Chip) (p : Fin 4) (r : Option Running) : Chip := c.modPart p fun x => { x with run := r }

def Chip.modRun (c : Chip) (p : Fin 4) (f : Running → Running) : Chip :=
  c.modPart p fun x => { x with run := x.run.map f }

/-- The partitions, west to east. -/
def allParts : List (Fin 4) := [0, 1, 2, 3]

def allTenants : List (Fin 16) := [0, 1, 2, 3, 4, 5, 6, 7, 8, 9, 10, 11, 12, 13, 14, 15]

/-- The functions in the order in which Chanter scans them (R303). -/
def allFns : List Fn := .pf :: allTenants.map .vf

/-- The partition that runs a plan of the tenant, the lowest where there are several (DEDUCED,
notes/assumptions/20.md). -/
def Chip.partOf (c : Chip) (t : Fin 16) : Option (Fin 4) :=
  allParts.find? fun p => match c.run p with
    | some r => r.plan.tenant = t
    | none => false

/-- The tenant's running plan (R21). -/
def Chip.runOf (c : Chip) (t : Fin 16) : Option Running := (c.partOf t).bind c.run

/-- The partitions that run a plan of a tenant. -/
def Chip.partsOf (c : Chip) (t : Fin 16) : List (Fin 4) :=
  allParts.filter fun p => match c.run p with
    | some r => decide (r.plan.tenant = t)
    | none => false

/-- A random value of the security block, and the chip that has drawn it (Config.random). -/
def Chip.draw256 (c : Chip) : BitVec 256 × Chip := (Config.random c.drawn, { c with drawn := c.drawn + 1 })

/-- The driver is away: absent or detached after having been attached (R306, R307). -/
def Chip.driverAway (c : Chip) : Bool := c.driver.state = .absent || c.driver.state = .detached

/-! ### Source IDs (R257) -/

/-- The module number in force (R265). -/
def Chip.modNum (c : Chip) : W16 :=
  if c.objs.moduleNumNow = 0xFFFF then c.mram.serial.setWidth 16 else c.objs.moduleNumNow

/-- The source ID of a kind and index (R257). -/
def Chip.srcId (c : Chip) (kind : BitVec 4) (idx : Nat) : W32 := c.modNum ++ kind ++ BitVec.ofNat 12 idx

/-- The index of a function's ring among rings (R257). -/
def ringIdx (f : Fn) (r : Nat) : Nat :=
  match f with
  | .pf => 0x100 + r
  | .vf t => 16 * t.val + r

def Chip.ringSrc (c : Chip) (f : Fn) (r : Nat) : W32 := c.srcId 5 (ringIdx f r)

/-- The monitor area's source ID of a tenant (R167). -/
def Chip.monSrc (c : Chip) (t : Fin 16) : W32 := c.srcId 5 (16 * t.val + 12)

/-- Hub regions and Chanter cores as sources. -/
def Chip.hubSrc (c : Chip) (h : Nat) : W32 := c.srcId 1 h
def Chip.coreSrc (c : Chip) (i : Nat) : W32 := c.srcId 2 i
def Chip.tileSrc (c : Chip) (i : Nat) : W32 := c.srcId 0 i
def Chip.portSrc (c : Chip) (i : Nat) : W32 := c.srcId 3 i

/-! ### Interrupts (R313) -/

/-- A rising edge on a source (R313): a pending bit that it latches takes the stamp (R255). -/
def Intc.edge (i : Intc) (n : Fin 128) (now : Stamp) : Intc :=
  match i.src[n] with
  | .idle => { i with src := i.src.set n .pending, latched := i.latched.set n now }
  | .active c => { i with src := i.src.set n (.activePending c), latched := i.latched.set n now }
  | .pending | .activePending _ => { i with coalesced := i.coalesced + 1 }

def Chip.raise (c : Chip) (n : Fin 128) : Chip := { c with intc := c.intc.edge n c.drone.now }

/-! ### Rings (R299, R302, R304, R307) -/

/-- How many positions an entry takes: a SUBMIT's completion has two continuations (R302). -/
def DevEntry.size : DevEntry → Nat
  | .comp x => if x.report.isSome then 3 else 1
  | _ => 1

/-- Entries the ring can take now: none while the consumer count runs ahead (R299). -/
def Ring.room (r : Ring) : Nat :=
  let used := (r.prod - r.cons).toNat
  let cap := 2 ^ r.log2.toNat
  if used ≤ cap then cap - used else 0

/-- The entry as it is written: an event or log entry carries the drops since the one before (R304). -/
def Ring.stampLost (r : Ring) : DevEntry → DevEntry
  | .ev e => .ev { e with lost := r.lost }
  | e => e

/-- The ring with an entry written: its SEQ is the producer count after it (R225, R299). -/
def Ring.write (r : Ring) (e : DevEntry) : Ring :=
  { r with
    out := r.out ++ [(r.prod + BitVec.ofNat 32 e.size, r.stampLost e)]
    prod := r.prod + BitVec.ofNat 32 e.size
    lost := match e with
      | .ev _ => 0
      | _ => r.lost }

/-- A full event or log ring drops and counts (R304). -/
def DevEntry.droppable : DevEntry → Bool
  | .ev _ => true
  | _ => false

/-- The MSI-X vector that writing an entry signals (R304). A result entry's vector is signalled once per
boundary by its publication. `log`: the entry stands on a log ring. -/
def DevEntry.vector (log : Bool) : DevEntry → Option (Fin 32)
  | .comp x => if x.src.irq then some 0 else none
  | .res _ => none
  | .ev e => if log then (if e.level.toNat ≤ 2 then some 3 else none) else some 2

/-- The ring after owed entries have been written as far as they go, in order, and the entries written. -/
def Ring.pump : Ring → List DevEntry → Ring × List DevEntry
  | r, [] => ({ r with owed := [] }, [])
  | r, e :: es =>
    if e.size ≤ r.room then
      let (r', w) := (r.write e).pump es
      (r', e :: w)
    else if e.droppable then { r with lost := r.lost + 1 }.pump es
    else ({ r with owed := e :: es }, [])

/-- A ring takes entries: it is enabled, and its tenant is not paused unless it is a log ring (R307). -/
def Chip.ringOpen (c : Chip) (f : Fn) (r : Fin 12) : Bool :=
  (c.func f).rings[r].enable &&
    (r = 10 || match f with
      | .pf => true
      | .vf t => c.tenants[t].fstate != .paused)

/-- Every owed entry of a ring written as far as it goes, with the vectors signalled and the log entries
dropped counted (R304, R316). -/
def Chip.pumpRing (c : Chip) (f : Fn) (r : Fin 12) : Chip :=
  if c.ringOpen f r then
    let old := (c.func f).rings[r]
    let (new, written) := old.pump old.owed
    let dropped := old.owed.length - written.length - new.owed.length
    let c := c.modFunc f fun fn =>
      { fn with
        rings := fn.rings.set r new
        owes := if r = 8 then fn.owes - (written.map DevEntry.size).sum else fn.owes
        msix := (written.filterMap (DevEntry.vector (r = 10))).reverse ++ fn.msix }
    if r = 10 then { c with objs := { c.objs with logLost := c.objs.logLost + BitVec.ofNat 32 dropped } } else c
  else c

/-- An entry posted to a ring: written at once, or owed in order behind the others. -/
def Chip.post (c : Chip) (f : Fn) (r : Fin 12) (e : DevEntry) : Chip :=
  (c.modRing f r fun x => { x with owed := x.owed ++ [e] }).pumpRing f r

/-- A vector signalled (R304). -/
def Chip.signal (c : Chip) (f : Fn) (v : Fin 32) : Chip := c.modFunc f fun fn => { fn with msix := v :: fn.msix }

/-- A blank event or log entry with the present stamp. -/
def Chip.entry (c : Chip) (src : W32) : EvEntry :=
  { stamp := c.drone.now, src := src, code := 0, level := 0, status := 0, plan := 0, step := 0
    arg0 := 0, arg1 := 0, arg2 := 0, arg3 := 0, lost := 0 }

def Chip.event (c : Chip) (f : Fn) (e : EvEntry) : Chip := c.post f 9 (.ev e)

/-- A log entry of a level 0-4 is written when the level is at or below LOG_LEVEL; program traces (6)
always; a trace point (5) when the bit of its group is set (R304). -/
def Chip.logs (c : Chip) (e : EvEntry) : Bool :=
  if e.level = 6 then true
  else if e.level = 5 then (c.objs.traceGroups >>> (e.code.toNat / 64)).toNat % 2 = 1
  else e.level.toNat ≤ c.mram.logLevel.toNat

/-- The LEVEL of an entry whose LEVEL the manual does not state (FREE VALUE, notes/assumptions/64.md). -/
def openLevel (what : Nat) : Byte := BitVec.ofNat 8 (Config.logLevel what % 5)

def Chip.log (c : Chip) (f : Fn) (e : EvEntry) : Chip := if c.logs e then c.post f 10 (.ev e) else c

/-- A trace point on the PF's log ring (R304). -/
def Chip.tracePoint (c : Chip) (code : W16) (status : W16) (a0 a1 : W64) : Chip :=
  c.log .pf { c.entry (c.coreSrc 0) with code := code, level := 5, status := status, arg0 := a0, arg1 := a1 }

/-! ### Completions (R302) -/

/-- A completion posted at the present stamp. -/
def Chip.complete (c : Chip) (src : CmdSrc) (status plan : W16) (val0 : W32) (val1 : W64) : Chip :=
  c.post src.fn 8 (.comp { stamp := c.drone.now, src := src, status := status, plan := plan, val0 := val0
                           val1 := val1, report := none, token := none })

/-- A completion owed to the command that a pending change came with, if one did (R204, R207). -/
def Chip.completeFor (c : Chip) (src : Option CmdSrc) (status plan : W16) (val0 : W32) (val1 : W64) : Chip :=
  match src with
  | some s => c.complete s status plan val0 val1
  | none => c

/-- A completion with a status alone. -/
def Chip.done (c : Chip) (src : CmdSrc) (status : W16) : Chip := c.complete src status 0 0 0

/-! ### Hatband (R373-R375) -/

/-- A record formed into the queue: HSEQ at forming; a general record is dropped where 128 are queued, a
critical one waits for room, which the model gives it at once. -/
def Chip.hbForm (c : Chip) (type : W16) (critical : Bool) (origin : W32) (payload : List Byte) : Chip :=
  if !critical && 128 ≤ c.hatband.queue.length then
    { c with
      hatband := { c.hatband with
        dropsNow := match c.hatband.dropsNow with
          | none => some (1, c.drone.now, c.drone.now)
          | some (n, a, _) => some (n + 1, a, c.drone.now) }
      mram := { c.mram with hbDropped := c.mram.hbDropped + 1 } }
  else
    { c with
      hatband := { c.hatband with
        queue := c.hatband.queue ++ [{ stamp := c.drone.now, hseq := c.hatband.nextSeq, boot := c.mram.bootCount
                                       type := type, critical := critical, origin := origin, payload := payload }]
        nextSeq := c.hatband.nextSeq + 1 } }

/-- An AUTH record (R374): kind, tenant, slot or object, requester. -/
def Chip.hbAuth (c : Chip) (kind tenant what : Nat) (who : List Byte) : Chip :=
  c.hbForm 0x0050 true (c.hubSrc 2) (leBytes 2 kind ++ leBytes 2 tenant ++ leBytes 4 what ++ who)

/-! ### Requests of rings taken by Chanter (R300, R302, R303) -/

/-- Entries of a command ring covered by its producer count (R299). -/
def Ring.covered (r : Ring) : Bool := r.prod != r.cons

/-- The entry at the head of a command ring. -/
def Ring.head (r : Ring) : Entry := spGet 0 r.slots (r.cons.toNat % 2 ^ r.log2.toNat)

/-- The source of a command taken from a ring (R300, R302). -/
def cmdSrc (f : Fn) (ring : Fin 8) (e : Entry) : CmdSrc :=
  { fn := f, ring := ring, opc := BitVec.ofNat 8 (entryAt e 0 1), cid := BitVec.ofNat 32 (entryAt e 4 4)
    irq := entryAt e 1 1 % 2 = 1 }

/-- Room in the completion ring for a completion of `n` entries beyond every completion still owed
(R302). -/
def Chip.compRoom (c : Chip) (f : Fn) (n : Nat) : Bool :=
  let fn := c.func f
  decide (fn.owes + n ≤ fn.rings[(8 : Fin 12)].room)

/-! ### Chanter's scan (R303) -/

/-- The place of a command ring in the scan: the PF's ring 0, then each VF's rings 0-7. -/
def ringKey (f : Fn) (ring : Fin 8) : Nat :=
  match f with
  | .pf => ring.val
  | .vf t => 1 + 8 * t.val + ring.val

/-- The ring at a place of the scan. -/
def ringAt (i : Nat) : Fn × Fin 8 := if i = 0 then (.pf, 0) else (.vf (Fin.ofNat 16 ((i - 1) / 8)), Fin.ofNat 8 ((i - 1) % 8))

/-- A pause holds a function's command rings, or the function has no such ring (R298, R307). -/
def Chip.ringHeld (c : Chip) (f : Fn) (ring : Fin 8) : Bool :=
  match f with
  | .pf => decide (ring ≠ 0)
  | .vf t => decide (c.tenants[t].fstate = .paused)

/-- An entry of a command ring can be taken: the ring is enabled and covered, nothing holds it, and the completion ring
has room for the completion of the command at its head (R299, R302). -/
def Chip.ringReady (c : Chip) (f : Fn) (ring : Fin 8) : Bool :=
  let r := (c.func f).rings[(ring.castLE (by decide) : Fin 12)]
  r.enable && r.covered && !c.ringHeld f ring && c.compRoom f (if entryAt r.head 0 1 = 1 then 3 else 1)

/-- The next ring in the scan's order from which an entry can be taken. -/
def Chip.nextRing (c : Chip) : Option Nat :=
  ((List.range 129).map fun i => (c.scan.at_.val + 1 + i) % 129).find? fun i => c.ringReady (ringAt i).1 (ringAt i).2

/-- The scan after the head entry of a ring is taken in its turn, if it is that ring's turn (R303): from each ring at most
64 entries, those covered by the producer count read at the start of its turn. -/
def Chip.scanTurn (c : Chip) (f : Fn) (ring : Fin 8) : Option Scan :=
  let k := ringKey f ring
  let cur := ringAt c.scan.at_.val
  if c.scan.left ≠ 0 ∧ c.ringReady cur.1 cur.2 then
    if c.scan.at_.val = k then some { c.scan with left := c.scan.left - 1 } else none
  else if c.nextRing = some k then
    let r := (c.func f).rings[(ring.castLE (by decide) : Fin 12)]
    some { at_ := Fin.ofNat 129 k, left := Fin.ofNat 64 (min 64 (r.prod - r.cons).toNat - 1) }
  else none

/-- Chanter takes the head entry of a function's command ring in its turn (R302, R303, R307): the module runs, BOOT_STATE is
READY, the ring is enabled and covered, the completion has room, and no pause holds a tenant's rings. The chip has
the entry consumed and `n` completion entries owed; none: nothing is taken. -/
def Chip.take (c : Chip) (f : Fn) (ring : Fin 8) (n : Nat) : Option (Entry × CmdSrc × Chip) :=
  let r := (c.func f).rings[(ring.castLE (by decide) : Fin 12)]
  match c.scanTurn f ring with
  | none => none
  | some sc =>
    if c.power = .running && c.boot.state = .ready && r.enable && r.covered && c.compRoom f n && !c.ringHeld f ring then
      let e := r.head
      some (e, cmdSrc f ring e,
        { c with scan := sc }.modFunc f fun fn =>
          { fn with
            rings := fn.rings.set ring.val { r with cons := r.cons + 1 }
            owes := fn.owes + n })
    else none

/-- A command of a tenant's ring: the row acts where the head entry has its opcode. -/
def Chip.takeOp (c : Chip) (f : Fn) (ring : Fin 8) (opc n : Nat) : Option (Entry × CmdSrc × Chip) :=
  match c.take f ring n with
  | some (e, src, c') => if entryAt e 0 1 = opc then some (e, src, c') else none
  | none => none

/-- A command of PF ring 0. While the driver is away every command but ATTACH and DETACH completes at once
with HOST_ABSENT and does nothing (R307). -/
def Chip.pfOp (c : Chip) (opc : Nat) (k : Entry → CmdSrc → Chip → Chip) : Chip :=
  match c.takeOp .pf 0 opc 1 with
  | none => c
  | some (e, src, c') => if c'.driverAway then c'.done src 0x0041 else k e src c'

/-- A command of a tenant's ring. -/
def Chip.vfOp (c : Chip) (t : Fin 16) (ring : Fin 8) (opc n : Nat) (k : Entry → CmdSrc → Chip → Chip) : Chip :=
  match c.takeOp (.vf t) ring opc n with
  | none => c
  | some (e, src, c') => k e src c'

/-! ### Stamps -/

/-- The time from stamp `a` to the present. -/
def Chip.since (c : Chip) (a : Stamp) : Nat := (c.drone.now - a).toNat

/-- A stamp has come. -/
def Chip.due (c : Chip) (a : Stamp) : Bool := decide (a.toNat ≤ c.drone.now.toNat)

/-- The shutdown on hold-up has run its 2 ms: the hub supplies go off (R329, R401, R409). -/
def Chip.holdupEnd (c : Chip) : Chip :=
  match c.power with
  | .holdup t =>
    if 2000000 ≤ c.since t then
      { c with
        power := .locked, drone := { c.drone with counting := false }
        pins := { c.pins with pg := false, alive := false, thermAlertN := true, holdupN := true, hpePerstN := false } }
    else c
  | _ => c

/-- The count after a nanosecond of the reference oscillator: it runs fast or slow by the frequency correction in force, in
parts per 10^12 (R261, R262, R264, R265). -/
def Drone.advance (d : Drone) : Drone :=
  let n := d.frac + (1000000000000 + d.freqAdj).toNat
  { d with now := d.now + BitVec.ofNat 64 (n / 1000000000000), frac := n % 1000000000000 }

/-- The tick of an idle module (DESIGN CHOICE, notes/assumptions/10.md): one nanosecond of Drone's oscillator and of the
gate's lockout, while the hub has power (R253, R261, R350); the sensors are sampled (R364). -/
def Chip.tick (c : Chip) : Chip :=
  if c.drone.counting then
    Chip.holdupEnd { c with
      drone := c.drone.advance
      limiter := { c.limiter with sampled := some c.drone.advance.now }
      mram := { c.mram with lockoutNs := c.mram.lockoutNs - 1 } }
  else c

end Sys2Proof.Machine
end

