-- ==== Sys2Proof/Machine/Wire.lean ====
section
/-! DEFINITION. What the module sends, as bytes: bore frames (R269, R271-R273, R276, R279, R289) with their check sums,
ring entries (R176, R223, R302, R304), Hatband records (R373) and management messages (R357-R360, R367, R377). -/

namespace Sys2Proof.Machine

/-! ### Check sums -/

/-- A byte through a reflected CRC. -/
def crcByte (poly : W32) (r : W32) (b : Byte) : W32 :=
  (List.range 8).foldl (fun r _ => if r.getLsbD 0 then (r >>> 1) ^^^ poly else r >>> 1) (r ^^^ b.setWidth 32)

/-- A reflected CRC of 32 bits, its initial value and final XOR 0xFFFF_FFFF. -/
def crc32 (poly : W32) (bs : List Byte) : W32 := bs.foldl (crcByte poly) 0xFFFFFFFF ^^^ 0xFFFFFFFF

/-- CRC-32C (R273, R373). -/
def crc32c : List Byte → W32 := crc32 0x82F63B78

/-- The Ethernet FCS (R271). -/
def ethFcs : List Byte → W32 := crc32 0xEDB88320

/-- A number in `n` bytes, most significant first. -/
def beBytes (n v : Nat) : List Byte := (leBytes n v).reverse

/-- Bytes filled up with zeros to a length, and to a multiple of a length. -/
def padTo (n : Nat) (bs : List Byte) : List Byte := bs ++ List.replicate (n - bs.length) 0
def padBlocks (k : Nat) (bs : List Byte) : List Byte := padTo ((bs.length + k - 1) / k * k) bs

/-- A flag at a bit. -/
def flagAt (b : Bool) (i : Nat) : Nat := if b then 2 ^ i else 0

/-! ### Bore frames (R269-R273) -/

end Sys2Proof.Machine

namespace Sys2Proof

open Sys2Proof.Machine

/-- FLAGS of a packet header (R273). -/
def PktHdr.flags (h : PktHdr) : Nat :=
  flagAt h.last 15 + flagAt h.switch 14 + flagAt h.nonfinite 13 + flagAt h.replay 12 + flagAt h.latency 11 +
    flagAt h.mixedOk 10

/-- Bits [255:32] of the packet header, bits [255:248] first (R271, R273). -/
def PktHdr.front (h : PktHdr) : List Byte :=
  beBytes 28 ((h.stamp ++ h.tid ++ h.offset ++ h.tenant ++ h.wepoch ++ h.nepoch ++ h.plan ++ h.step ++
    BitVec.ofNat 16 h.flags : BitVec 224).toNat)

/-- HCHK (R273): the bytes in the order in which they are sent (DEDUCED, notes/assumptions/110.md). -/
def PktHdr.hchk (h : PktHdr) : W32 := crc32c h.front

/-- The framed packet header (R271, R273). -/
def PktHdr.bytes (h : PktHdr) (hchk : W32) : List Byte := h.front ++ beBytes 4 hchk.toNat

/-- A frame with the HCHK of its packet header. -/
def DataFrame.seal (f : DataFrame) : DataFrame := { f with hchk := f.pkt.hchk }

/-- FCS and HCHK are valid (R274). -/
def DataFrame.sound (f : DataFrame) : Bool := f.fcsOk && decide (f.hchk = f.pkt.hchk)

/-- Elements two per byte, low nibble first (R33). -/
def nibbleBytes : List W32 → List Byte
  | [] => []
  | [x] => [BitVec.ofNat 8 (x.toNat % 16)]
  | x :: y :: r => BitVec.ofNat 8 (x.toNat % 16 + 16 * (y.toNat % 16)) :: nibbleBytes r

/-- Elements as the bytes of a payload (R273). -/
def elemBytes (f : Fmt) (xs : List W32) : List Byte :=
  match f with
  | .fp4 => nibbleBytes xs
  | _ => xs.flatMap fun x => leBytes (f.bits / 8) x.toNat

/-- The valid payload bytes of a DATA frame: NVAL counts them (R273, R288). -/
def DataFrame.payload (f : DataFrame) : List Byte :=
  if f.kind = 0x11 then f.stream else elemBytes ((Fmt.ofCode (f.pfmt.setWidth 4)).getD .fp32) f.elems

def Phase.num : Phase → Nat
  | .reduceScatter => 0
  | .allGather => 1
  | .flag => 2
  | .direct => 3

/-- The body of a DATA frame (R273): packet header, transfer header, payload in whole 32-byte blocks. -/
def DataFrame.body (f : DataFrame) : List Byte :=
  f.pkt.bytes f.hchk ++ leBytes 2 f.grp.toNat ++ leBytes 2 f.srank.toNat ++ leBytes 4 f.sqn.toNat ++ [f.kind] ++
    leBytes 1 f.phase.num ++ leBytes 2 f.hop.toNat ++ leBytes 2 f.payload.length ++ [f.pfmt] ++
    leBytes 1 (flagAt f.mismatch 0) ++ padBlocks 32 f.payload

/-- The HELLO body (R269). -/
def Hello.body (h : Hello) : List Byte :=
  leBytes 8 h.serial.toNat ++ leBytes 2 h.modnum.toNat ++ [h.port] ++ leBytes 1 (flagAt h.acked 0) ++
    leBytes 4 h.fwrel.toNat ++ leBytes 2 h.vmin.toNat ++ leBytes 2 h.vmax.toNat ++ [h.hwgen, h.nepmax, 0, 0] ++
    leBytes 32 h.feat.toNat ++ leBytes 8 h.tsend.toNat ++ leBytes 8 h.techo.toNat ++ leBytes 8 h.tdwell.toNat

/-- The body of an ACK or RESUME that names a hop (R289). -/
def HopRef.body (h : HopRef) : List Byte :=
  leBytes 2 h.grp.toNat ++ leBytes 4 h.sqn.toNat ++ leBytes 1 h.phase.num ++ leBytes 2 h.hop.toNat

/-- The body of an ABORT (R279). -/
def AbortBody.body (a : AbortBody) : List Byte :=
  leBytes 2 a.grp.toNat ++ leBytes 4 a.sqn.toNat ++ leBytes 2 a.status.toNat ++ leBytes 2 a.cause.toNat

/-- The bore header (R272) of a frame of a TYPE, with its PSN and BLEN. -/
def BoreHdr.bytes (h : BoreHdr) (type psn blen : Nat) : List Byte :=
  [h.ver] ++ leBytes 1 type ++
    leBytes 2 (flagAt h.nak 0 + flagAt h.hostAbsent 1 + flagAt h.goingDown 2 + flagAt h.portDown 3) ++
    leBytes 4 psn ++ leBytes 4 h.ackn.toNat ++ leBytes 2 h.credit.toNat ++ leBytes 2 blen

/-- TYPE (R360). -/
def OType.code : OType → Byte
  | .u8 => 1
  | .u16 => 2
  | .u32 => 3
  | .u64 => 4
  | .i32 => 5
  | .f32 => 6
  | .bool => 7
  | .time64 => 8
  | .str => 9
  | .blob => 10

end Sys2Proof

namespace Sys2Proof.Machine

/-- TYPE, header, PSN and body of a bore frame; none for a frame of PTP, whose bytes IEEE 1588 gives. -/
def TxFrame.parts : TxFrame → Option (Nat × BoreHdr × Nat × List Byte)
  | .hello h x => some (1, h, 0, x.body)
  | .live h m p st => some (2, h, 0, leBytes 2 m.toNat ++ [p, 0] ++ leBytes 8 st.toNat)
  | .data f => some (3, f.hdr, f.psn.toNat, f.body)
  | .ack h b => some (4, h, 0, (b.map HopRef.body).getD [])
  | .abort h b => some (5, h, 0, b.body)
  | .resume h b => some (6, h, 0, b.body)
  | .ptpAnnounce _ | .ptpSync .. | .ptpFollowUp .. | .ptpDelayReq .. | .ptpDelayResp .. | .ptpPdelayReq ..
  | .ptpPdelayResp .. => none

/-- A bore frame on the wire (R271): to 01-80-C2-00-00-0E, from the port's own address, padded to 64 bytes with its FCS. -/
def Chip.frameBytes (c : Chip) (p : Fin 16) (f : TxFrame) : Option (List Byte) :=
  f.parts.map fun (type, h, psn, body) =>
    let front := [0x01, 0x80, 0xC2, 0x00, 0x00, 0x0E] ++ beBytes 6 (c.mram.macBore.toNat + p.val) ++
      beBytes 2 c.objs.ethertypeNow.toNat ++ h.bytes type psn body.length ++ body
    let front := padTo 60 front
    front ++ leBytes 4 (ethFcs front).toNat

/-! ### Ring entries (R176, R223, R302, R304) -/

/-- An entry's 64 bytes: its first 60, filled up with zeros, and SEQ (R299). -/
def sealEntry (bs : List Byte) (seq : W32) : List Byte := padTo 60 bs ++ leBytes 4 seq.toNat

/-- The bind report (R176). -/
def BindReport.bytes (r : BindReport) : List Byte :=
  padTo 128 (leBytes 2 r.status.toNat ++ leBytes 2 r.plan.toNat ++ leBytes 4 r.whereAt.toNat ++
    [r.slot, r.reason, r.part, r.ncol] ++ leBytes 4 r.bindUs.toNat ++ leBytes 2 r.nalt.toNat ++ leBytes 2 r.nfold.toNat ++
    leBytes 4 r.bpt.toNat ++ leBytes 8 r.proNs.toNat ++ leBytes 8 r.step0Ns.toNat ++ leBytes 8 r.stepMaxNs.toNat ++
    leBytes 4 r.cmtMaxNs.toNat ++ leBytes 4 r.calNs.toNat ++ leBytes 2 r.peakW.toNat ++ leBytes 2 r.avgW.toNat ++
    leBytes 2 r.capW.toNat ++ leBytes 2 r.kgen.toNat ++ leBytes 8 r.t1Bytes.toNat ++ leBytes 8 r.t2Bytes.toNat ++
    leBytes 8 r.cmtBytes.toNat ++ leBytes 4 r.fmax.toNat ++ leBytes 4 r.brecLen.toNat)

/-- The head entry of a completion, and a SUBMIT's two continuations; `seq` is the SEQ of the last (R302). -/
def Completion.bytes (x : Completion) (seq : W32) : List (List Byte) :=
  let rep := (x.report.map BindReport.bytes).getD []
  let data := match x.token with
    | some t => leBytes 16 t.toNat
    | none => rep.take 28
  let n : Nat := if x.report.isSome then 2 else 0
  let head := leBytes 8 x.stamp.toNat ++ leBytes 4 x.src.cid.toNat ++ [x.src.opc] ++ leBytes 1 x.src.ring.val ++
    leBytes 1 n ++ [0] ++ leBytes 2 x.status.toNat ++ leBytes 2 x.plan.toNat ++ leBytes 4 x.val0.toNat ++
    leBytes 8 x.val1.toNat ++ data
  let cont := if x.report.isSome then
      [sealEntry ((rep.drop 28).take 60) (seq - 1), sealEntry (rep.drop 88) seq]
    else []
  sealEntry head (seq - BitVec.ofNat 32 n) :: cont

/-- An event or log entry (R304). -/
def EvEntry.bytes (e : EvEntry) (seq : W32) : List Byte :=
  sealEntry (leBytes 8 e.stamp.toNat ++ leBytes 4 e.src.toNat ++ leBytes 2 e.code.toNat ++ [e.level, 0] ++
    leBytes 2 e.status.toNat ++ leBytes 2 e.plan.toNat ++ leBytes 4 e.step.toNat ++ leBytes 8 e.arg0.toNat ++
    leBytes 8 e.arg1.toNat ++ leBytes 8 e.arg2.toNat ++ leBytes 8 e.arg3.toNat ++ leBytes 4 e.lost.toNat) seq

/-- A result entry (R223). -/
def ResEntry.bytes (e : ResEntry) (seq : W32) : List Byte :=
  sealEntry (leBytes 8 e.stamp.toNat ++ leBytes 8 e.tag.toNat ++ leBytes 4 e.token.toNat ++ leBytes 4 e.logp.toNat ++
    leBytes 4 e.tidx.toNat ++ leBytes 4 e.step.toNat ++ leBytes 2 e.slot.toNat ++ leBytes 2 e.wepoch.toNat ++
    leBytes 2 e.plan.toNat ++ leBytes 2 e.status.toNat ++ leBytes 2 e.aepoch.toNat ++
    [e.nepoch, e.sflags, e.stop, e.rflags]) seq

/-- The 64-byte entries that an entry of a device-produced ring takes there, with its SEQ (R299, R302). -/
def DevEntry.bytes (seq : W32) : DevEntry → List (List Byte)
  | .comp x => x.bytes seq
  | .ev e => [e.bytes seq]
  | .res e => [e.bytes seq]

/-- The entries that a device-produced ring holds, oldest first (R299). -/
def Ring.bytes (r : Ring) : List (List Byte) := r.out.flatMap fun x => x.2.bytes x.1

/-! ### Hatband records (R373) -/

/-- The first 28 bytes, CHK and the payload of a record; CHK is taken over the rest. -/
def HbRec.bytes (x : HbRec) : List Byte :=
  let front := leBytes 8 x.stamp.toNat ++ leBytes 8 x.hseq.toNat ++ leBytes 4 x.boot.toNat ++ leBytes 2 x.type.toNat ++
    leBytes 1 (flagAt x.critical 0) ++ leBytes 1 x.payload.length ++ leBytes 4 x.origin.toNat
  let body := padTo 224 (x.payload.take 224)
  front ++ leBytes 4 (crc32c (front ++ body)).toNat ++ body

/-! ### Management messages (R357-R360, R367, R377) -/

/-- A response item (R359); TYPE of an object that does not exist is given as 0 (PRESUMED, notes/assumptions/91.md). -/
def RespItem.bytes (y : RespItem) : List Byte :=
  leBytes 2 y.obj.index.toNat ++ [y.obj.sub, (y.type.map OType.code).getD 0] ++ leBytes 2 y.status.toNat ++
    [y.reason, 0] ++ leBytes 2 y.len ++ [0, 0, 0, 0, 0, 0] ++ leBytes 8 y.stamp.toNat ++ padBlocks 4 y.value

/-- RFLAGS of an HBREAD: two bits per record (R357, R377). -/
def recFlags (rs : List HbStored) : Nat :=
  (rs.mapIdx fun i x => flagAt x.torn (2 * i) + flagAt x.bad (2 * i + 1)).sum

/-- A message's header (R357). -/
def msgHeader (op : Byte) (mflags : Nat) (xid : W32) (nitem : Nat) (status modnum : W16) (rflags : Nat) : List Byte :=
  [1, op] ++ leBytes 2 mflags ++ leBytes 4 xid.toNat ++ leBytes 2 nitem ++ leBytes 2 status.toNat ++
    leBytes 2 modnum.toNat ++ leBytes 2 rflags

/-- A response message (R357-R359, R377). -/
def Response.bytes (x : Response) : List Byte :=
  msgHeader x.op 1 x.xid (x.items.length + x.recs.length) x.status x.modnum (recFlags x.recs) ++
    x.items.flatMap RespItem.bytes ++ x.recs.flatMap fun y => y.hb.bytes

/-- A heartbeat or a response as the UDP payload it is; the ICMPv6 messages are RFC 4861's and RFC 4443's. -/
def MgmtTx.bytes : MgmtTx → Option (List Byte)
  | .response _ x => some x.bytes
  | .heartbeat modnum serial hbseq boot lim drv drone hflags capa pin stamp hblast =>
    some (msgHeader 7 0 0 0 0 modnum 0 ++ leBytes 8 serial.toNat ++ leBytes 4 hbseq.toNat ++ [boot, lim, drv, drone] ++
      leBytes 2 hflags.toNat ++ leBytes 2 capa.toNat ++ leBytes 2 pin.toNat ++ [0, 0] ++ leBytes 8 stamp.toNat ++
      leBytes 8 hblast.toNat)
  | .advert .. | .echoReply .. | .unreachable _ => none

end Sys2Proof.Machine
end

