-- ==== Sys2Proof/Machine/Bore.lean ====
section
/-! DEFINITION. What the bore ports share (R266-R280): headers, sending and resending, the frames of a
group, and ABORT. -/

namespace Sys2Proof.Machine

def Chip.modPort (c : Chip) (p : Fin 16) (f : Port → Port) : Chip := { c with ports := vecMod c.ports p f }

def Chip.modGroup (c : Chip) (g : BitVec 12) (f : Group → Group) : Chip :=
  { c with groups := c.groups.map fun x => if x.grp = g then f x else x }

/-- The group of a number, if it is set (R281). -/
def Chip.group (c : Chip) (g : BitVec 12) : Option Group := c.groups.find? fun x => x.grp = g

/-- A frame of a group's collective, transfer or fetch has been consumed, or it begins (R279). -/
def Chip.touch (c : Chip) (g : BitVec 12) : Chip := c.modGroup g fun x => { x with moved := c.drone.now }

/-- The ports, in order. -/
def allPorts : List (Fin 16) := [0, 1, 2, 3, 4, 5, 6, 7, 8, 9, 10, 11, 12, 13, 14, 15]

/-- The ports of a mask. -/
def maskPorts (m : W16) : List (Fin 16) := allPorts.filter fun p => m.getLsbD p.val

/-- DATA frames the port can accept beyond ACKN (R272): 64 places, less those that wait. -/
def Port.credit (x : Port) : W16 := BitVec.ofNat 16 (64 - x.waiting.length)

/-- The bore header that a frame of a port carries now (R272, R278). -/
def Chip.header (c : Chip) (p : Fin 16) (goingDown portDown : Bool) : BoreHdr :=
  let x := c.ports[p]
  { ver := x.ver.setWidth 8, nak := x.nakOwed, hostAbsent := c.driver.hostAbsent, goingDown := goingDown
    portDown := portDown, ackn := x.ackn, credit := x.credit }

/-- A frame has left: NAK and acknowledgements ride on it (R274). -/
def Port.sent (x : Port) (now : Stamp) (f : TxFrame) : Port :=
  { x with tx := x.tx ++ [f], nakOwed := false, ackOwed := false, lastTx := now }

/-- A frame sent on an UP port. -/
def Chip.transmit (c : Chip) (p : Fin 16) (mk : BoreHdr → TxFrame) : Chip :=
  if c.ports[p].state = .up then
    let f := mk (c.header p false false)
    c.modPort p fun x => x.sent c.drone.now f
  else c

/-- The header of the frames behind the first: NAK is set once (R274). -/
def nextHdr (h : BoreHdr) : BoreHdr := { h with nak := false }

/-- Frames that are queued and within the partner's credit are sent (R274), each with its stamp and check sum (R273). -/
def sendQueued (hdr : BoreHdr) (now : Stamp) : Nat → List (DataFrame × Nat) → List (DataFrame × Nat) × List TxFrame
  | _, [] => ([], [])
  | 0, fs => (fs, [])
  | k + 1, (f, n) :: fs =>
    if n = 0 then
      let f := DataFrame.seal { f with hdr := hdr, pkt := { f.pkt with stamp := now } }
      let (fs', tx) := sendQueued (nextHdr hdr) now k fs
      ((f, 1) :: fs', .data f :: tx)
    else
      let (fs', tx) := sendQueued hdr now k fs
      ((f, n) :: fs', tx)

/-- The port's queue sent as far as credit goes. -/
def Chip.pumpPort (c : Chip) (p : Fin 16) : Chip :=
  let x := c.ports[p]
  if x.state = .up then
    let (un, tx) := sendQueued (c.header p false false) c.drone.now x.peerCredit.toNat x.unacked
    c.modPort p fun x =>
      { x with
        unacked := un, tx := x.tx ++ tx
        nakOwed := x.nakOwed && tx.isEmpty, ackOwed := x.ackOwed && tx.isEmpty
        lastTx := if tx.isEmpty then x.lastTx else c.drone.now
        ackMoved := if x.unacked.isEmpty || x.unacked.all (fun f => f.2 = 0) then c.drone.now else x.ackMoved }
  else c

/-- A DATA frame queued on a port with its next PSN (R274), and sent when credit allows. -/
def Chip.sendData (c : Chip) (p : Fin 16) (f : DataFrame) : Chip :=
  (c.modPort p fun x =>
    { x with unacked := x.unacked ++ [({ f with psn := x.psn }, 0)], psn := x.psn + 1 }).pumpPort p

/-- Everything sent and not acknowledged is sent again (R274). -/
def Chip.resendPort (c : Chip) (p : Fin 16) : Chip :=
  let hdr := c.header p false false
  let again := (c.ports[p].unacked.take c.ports[p].peerCredit.toNat).filter fun f => f.2 ≠ 0
  c.modPort p fun x =>
    { x with
      unacked := x.unacked.mapIdx fun i f =>
        if i < x.peerCredit.toNat ∧ f.2 ≠ 0 then (f.1, f.2 + 1) else f
      tx := x.tx ++ again.mapIdx fun i f => .data { f.1 with hdr := if i = 0 then hdr else nextHdr hdr }
      resend := x.resend + BitVec.ofNat 32 again.length
      ackMoved := c.drone.now
      nakOwed := x.nakOwed && again.isEmpty
      lastTx := if again.isEmpty then x.lastTx else c.drone.now }

/-- The ports of a group that reach a rank: ring neighbours, then the listed peers (R281, R288). -/
def Group.portsTo (g : Group) (rank : Nat) : List (Fin 16) :=
  if rank = (g.rank + 1) % g.g then maskPorts g.next
  else if rank = (g.rank + g.g - 1) % g.g then maskPorts g.prev
  else match g.peers.find? fun x => x.1.toNat = rank with
    | some x => maskPorts x.2
    | none => []

/-- The frames of a hop sent on one UP port of a list, hop after hop on the next (R282). -/
def Chip.sendHop (c : Chip) (ps : List (Fin 16)) (k : Nat) (fs : List DataFrame) : Chip :=
  let up := ps.filter fun p => c.ports[p].state = .up
  match up[k % up.length]? with
  | some p => fs.foldl (fun c f => c.sendData p f) c
  | none => c

/-- The elements of a payload of at most 8,192 bytes (R273). -/
def perFrame (bits : Nat) : Nat := 8192 * 8 / bits

/-- A list cut into pieces of at most `n`; one empty piece for the empty list (a header-only frame). -/
def chunksOf {α : Type} (n : Nat) : Nat → List α → List (List α)
  | 0, xs => [xs]
  | k + 1, xs => if xs.length ≤ n then [xs] else xs.take n :: chunksOf n k (xs.drop n)

/-- Elements of a payload that are not finite (R91). -/
def payloadNonfinite (f : Fmt) (xs : List W32) : Bool := xs.any fun x => !(f.decode x).isFinite

/-- The frames of one hop: the payload cut to size, each with the offset of its first element (`off` of its
place in the payload); LAST on the final one (R273), NONFINITE where an element of the payload is not finite (R91). -/
def hopFrames (f : DataFrame) (pf : Fmt) (elems : List W32) (off : Nat → Nat) : List DataFrame :=
  let bits := pf.bits
  let ps := chunksOf (perFrame bits) elems.length elems
  ps.mapIdx fun i xs =>
    { f with
      elems := xs
      pkt := { f.pkt with
        last := decide (i + 1 = ps.length)
        nonfinite := f.pkt.nonfinite || payloadNonfinite pf xs
        offset := BitVec.ofNat 48 (off (i * perFrame bits)) } }

/-! ### ABORT (R279, R280) -/

/-- ABORT sent on the ports of a list. -/
def Chip.sendAbort (c : Chip) (ps : List (Fin 16)) (grp : BitVec 12) (sqn : W32) (status cause : W16) : Chip :=
  ps.foldl (fun c p => c.transmit p fun h => .abort h ⟨grp, sqn, status, cause⟩) c

/-- The ring and direct ports of a group, each once. -/
def Group.allPorts (g : Group) : List (Fin 16) :=
  maskPorts (g.next ||| g.prev ||| (g.peers.foldl (fun m x => m ||| x.2) 0))

/-- A group ends its collective locally and tells its partners, apart from the ports of `skip`: what was
received for it goes, and later collectives end at once until the group is set again (R279, R280). -/
def Chip.endGroup (c : Chip) (g : Group) (skip : List (Fin 16)) (status cause : W16) : Chip :=
  let c := c.sendAbort (g.allPorts.filter fun p => !skip.contains p) g.grp g.sqn status cause
  c.modGroup g.grp fun x => { x with dead := true, rx := [], retained := [] }

/-- A collective or transfer has ended with 0x0040 over a port (R291). -/
def Chip.countLost (c : Chip) (q : Option (Fin 16)) (cause : W16) : Chip :=
  let num := ((q.bind fun q => c.ports[q].peer).map fun h => h.modnum).getD 0
  let port : Byte := match q with
    | some q => BitVec.ofNat 8 q.val
    | none => 0
  { c with bore := { c.bore with
      peerLost := c.bore.peerLost + 1
      lastPeerLost := if q.isSome then num ++ port ++ cause ++ (0 : BitVec 24) else c.bore.lastPeerLost } }

/-- The frames that wait at a port's head for a group are dropped with it. -/
def Chip.dropWaiting (c : Chip) (grp : BitVec 12) : Chip :=
  { c with ports := c.ports.map fun x => { x with waiting := x.waiting.filter fun f => f.grp ≠ grp } }

end Sys2Proof.Machine
end

