-- ==== Sys2Proof/Machine/Draw.lean ====
section
/-! DEFINITION. The draw function (R127-R131), written as the manual gives it. -/

namespace Sys2Proof.Machine

/-- Key words K0-K3 and K4 from four words (R127). -/
def keyWords (k0 k1 k2 k3 : W32) : List W32 :=
  [k0, k1, k2, k3, k0 ^^^ k1 ^^^ k2 ^^^ k3 ^^^ 0x5A4EC1F3]

/-- Word `i` of a 128-bit value, bits [32i+31:32i]. -/
def word128 (x : BitVec 128) (i : Nat) : W32 := x.extractLsb' (32 * i) 32

/-- The key of a program's draws (R127): Ki = Si xor Gi. -/
def seedKey (seed : BitVec 128) : List W32 :=
  keyWords (word128 seed 0 ^^^ 0x7A31C6D4) (word128 seed 1 ^^^ 0x2F940B5E)
    (word128 seed 2 ^^^ 0xD15E8A27) (word128 seed 3 ^^^ 0x4B08E39C)

/-- The rotation counts A and B of R129. -/
def rotA (r : Nat) : Nat := [16, 12, 24, 8, 20].getD (r % 5) 0
def rotB (r : Nat) : Nat := [8, 20, 4, 28, 12].getD (r % 5) 0

/-- The four words of a draw in progress. -/
structure Quad where
  x0 : W32
  x1 : W32
  x2 : W32
  x3 : W32
  deriving DecidableEq, Repr

/-- The injection of key words `j` to `j + 3` with the count `j` (R129). -/
def Quad.inject (q : Quad) (k : List W32) (j : Nat) : Quad :=
  { x0 := q.x0 + k.getD (j % 5) 0
    x1 := q.x1 + k.getD ((j + 1) % 5) 0
    x2 := q.x2 + k.getD ((j + 2) % 5) 0
    x3 := q.x3 + k.getD ((j + 3) % 5) 0 + BitVec.ofNat 32 j }

/-- Round `r` of R129: two mixes, then x1 and x3 swap. -/
def Quad.round (q : Quad) (r : Nat) : Quad :=
  let a := q.x0 + q.x1
  let b := q.x1.rotateLeft (rotA r) ^^^ a
  let c := q.x2 + q.x3
  let d := q.x3.rotateLeft (rotB r) ^^^ c
  { x0 := a, x1 := d, x2 := c, x3 := b }

/-- The ten rounds of R129 from counter words C0-C3. -/
def drawWords (k : List W32) (c0 c1 c2 c3 : W32) : Quad :=
  let q : Quad := { x0 := c0 + k.getD 0 0, x1 := c1 + k.getD 1 0, x2 := c2 + k.getD 2 0, x3 := c3 + k.getD 3 0 }
  let q := ([0, 1, 2, 3, 4].foldl Quad.round q).inject k 1
  ([5, 6, 7, 8, 9].foldl Quad.round q).inject k 2

/-- The 128-bit draw D = x3 : x2 : x1 : x0 (R129). -/
def Quad.bits (q : Quad) : BitVec 128 := q.x3 ++ q.x2 ++ q.x1 ++ q.x0

/-- The counter words of R128. -/
structure Counter where
  nonce : W32
  step : W32
  stream : W16
  domain : BitVec 4
  block : BitVec 44
  deriving DecidableEq, Repr

def Counter.words (c : Counter) : BitVec 128 := c.nonce ++ c.step ++ c.stream ++ c.domain ++ c.block

/-- The draw for a key and counter (R129). -/
def draw (k : List W32) (c : Counter) : BitVec 128 :=
  (drawWords k (word128 c.words 0) (word128 c.words 1) (word128 c.words 2) (word128 c.words 3)).bits

/-- The slice of width `w` that element `e` takes of the draw for its block (R130). -/
def slice (d : BitVec 128) (e w : Nat) : Nat := (d.rotateRight (8 * (e % 16))).toNat % 2 ^ w

/-- The slice of element `e` among program draws (DOMAIN 0x0) on a stream in a step (R128, R131). -/
def programSlice (seed : BitVec 128) (step : W32) (stream : W16) (e w : Nat) : Nat :=
  slice (draw (seedKey seed) ⟨0, step, stream, 0, BitVec.ofNat 44 (e / 16)⟩) e w

/-- The 24-bit slice of vocabulary index `v` among sampling draws (DOMAIN 0x1; R131, R138). -/
def samplingSlice (seed : BitVec 128) (nonce tidx : W32) (stream : W16) (v : Nat) : Nat :=
  slice (draw (seedKey seed) ⟨nonce, tidx, stream, 1, BitVec.ofNat 44 (v / 16)⟩) v 24

/-- VRND FN 1: slice * 2^-24 rounded toward zero to BF16 (R131). -/
def uniformBf (s : Nat) : W32 :=
  let q := shapeBf.lastPlace s (-24)
  if q ≤ -24 then shapeBf.encodeMag false s (-24)
  else shapeBf.encodeMag false (s / 2 ^ (q + 24).toNat) q

/-- VRND FN 2: the keep mask with probability `p` (R131). -/
def keepMask (p : Fp) (s : Nat) : W32 :=
  if Fp.le Fp.one p then 1
  else if !(Fp.lt Fp.zero p) then 0
  else
    match p with
    | .fin _ m e =>
      let t := if -24 ≤ e then m * 2 ^ (e + 24).toNat else m / 2 ^ (-24 - e).toNat
      if s < t then 1 else 0
    | _ => 0

end Sys2Proof.Machine
end

