-- ==== Sys2Proof/Machine/Operands.lean ====
section
/-! DEFINITION. Operands: tensor descriptors and their validity (R32-R36, R415), where a tensor's elements
lie (R198, R211, R414), reading elements, converting values into a descriptor (R95-R102), scalars,
predicates and immediates of a slot (R24, R26, R49). -/

namespace Sys2Proof.Machine

/-! ### Descriptors (R32-R36) -/

def Desc.tid (d : Desc) : BitVec 20 := d.extractLsb' 492 20
def Desc.fmtCode (d : Desc) : BitVec 4 := d.extractLsb' 488 4
def Desc.fmt (d : Desc) : Option Fmt := Fmt.ofCode (Desc.fmtCode d)
def Desc.bsm (d : Desc) : BitVec 2 := d.extractLsb' 486 2
def Desc.ovf (d : Desc) : Bool := d.extractLsb' 485 1 = 1
def Desc.sre (d : Desc) : Bool := d.extractLsb' 484 1 = 1
def Desc.rank (d : Desc) : Nat := (d.extractLsb' 481 3).toNat
def Desc.rdim (d : Desc) : Nat := (d.extractLsb' 478 3).toNat
def Desc.tier (d : Desc) : BitVec 2 := d.extractLsb' 476 2
def Desc.strm (d : Desc) : W16 := d.extractLsb' 460 16
def Desc.stid (d : Desc) : BitVec 20 := d.extractLsb' 440 20
def Desc.base (d : Desc) : Nat := (d.extractLsb' 392 48).toNat
def Desc.ext (d : Desc) (k : Nat) : Nat := (d.extractLsb' (360 - 24 * k) 24).toNat
def Desc.stride (d : Desc) (k : Nat) : Nat := (d.extractLsb' (200 - 40 * k) 40).toNat

/-- Columns and rows of the two-dimensional view (R34). -/
def Desc.cols (d : Desc) : Nat := Desc.ext d 0
def Desc.rows (d : Desc) : Nat := ((List.range (Desc.rank d)).drop 1).foldl (fun n k => n * Desc.ext d k) 1

/-- The indices of row `r`, column `c` of the view, dimension 0 first (R34). -/
def Desc.rowIndices (d : Desc) (r : Nat) : Nat → List Nat → List Nat
  | _, [] => []
  | r', k :: ks => (if k + 1 = Desc.rank d then r' else r' % Desc.ext d k) :: Desc.rowIndices d r (r' / Desc.ext d k) ks

def Desc.indices (d : Desc) (r c : Nat) : List Nat :=
  c :: Desc.rowIndices d r r ((List.range (Desc.rank d)).drop 1)

/-- The logical element offset of row `r`, column `c` (R34). -/
def Desc.offset (d : Desc) (r c : Nat) : Nat :=
  ((Desc.indices d r c).zipIdx).foldl (fun n ik => n + ik.1 * Desc.stride d ik.2) (Desc.base d)

/-- The greatest element offset (R35). -/
def Desc.maxOffset (d : Desc) : Nat :=
  (List.range (Desc.rank d)).foldl (fun n k => n + (Desc.ext d k - 1) * Desc.stride d k) (Desc.base d)

/-- The extent of the scale array along dimension `k` (R36). -/
def Desc.scaleExt (d : Desc) (k : Nat) : Nat :=
  if k = Desc.rdim d then (Desc.ext d k + 31) / 32 else Desc.ext d k

/-- How many scale elements R36 places. -/
def Desc.scaleCount (d : Desc) : Nat :=
  if Desc.bsm d = 1 then 1
  else if Desc.bsm d = 2 then (List.range (Desc.rank d)).foldl (fun n k => n * Desc.scaleExt d k) 1
  else 0

/-- The scale element of row `r`, column `c` (R36). -/
def Desc.scaleOffset (d : Desc) (r c : Nat) : Nat :=
  if Desc.bsm d = 2 then
    (((Desc.indices d r c).zipIdx).foldl
      (fun (np : Nat × Nat) ik =>
        (np.1 + (if ik.2 = Desc.rdim d then ik.1 / 32 else ik.1) * np.2, np.2 * Desc.scaleExt d ik.2)) (0, 1)).1
  else 0

/-- What a descriptor declares of its tensor: ID, format and shape (R393). -/
def Desc.declares (d : Desc) : BitVec 20 × BitVec 4 × List Nat :=
  (Desc.tid d, Desc.fmtCode d, (List.range (Desc.rank d)).map (Desc.ext d))

/-- The descriptor's elements are scaled. -/
def Desc.scaled (d : Desc) : Bool := Desc.bsm d = 1 || Desc.bsm d = 2

/-- The conditions of R35 that do not concern the tensor and its scale tensor (R119). -/
def Desc.shapeOk (d : Desc) : Bool :=
  match Desc.fmt d with
  | none => false
  | some f =>
    decide (1 ≤ Desc.rank d) && decide (Desc.rank d ≤ 6) && decide (Desc.rdim d < Desc.rank d) &&
    ((List.range (Desc.rank d)).all fun k => 1 ≤ Desc.ext d k) &&
    decide (Desc.bsm d ≠ 3) && (decide (Desc.bsm d = 0) || f.scalable) &&
    decide (Desc.maxOffset d < 2 ^ 48)

/-! ### What a slot reads (R22) -/

/-- The state as it stands before the bundle: chip, memory, partition, the plan running there. -/
structure View where
  chip : Chip
  mem : Mem
  part : Fin 4
  run : Running

def View.plan (v : View) : Plan := v.run.plan
def View.ten (v : View) : Fin 16 := v.run.plan.tenant

/-- What a program works on of its tenant, as it stands. -/
def Tenant.pastOf (t : Tenant) : Past :=
  { slots := t.slots, scale := t.scale, layers := t.layers, copies := t.copies, mbatches := t.mbatches, used := t.used }

/-- The tenant with what a replay works on in place of its own. -/
def Tenant.over (t : Tenant) (x : Past) : Tenant :=
  { t with slots := x.slots, scale := x.scale, layers := x.layers, copies := x.copies, mbatches := x.mbatches, used := x.used }

/-- The tenant as a running plan's program sees it: as it stands, or as it stood for the step being replayed. -/
def Running.tenant (r : Running) (t : Tenant) : Tenant :=
  match r.past with
  | none => t
  | some x => t.over x

def View.tenant (v : View) : Tenant := v.run.tenant v.chip.tenants[View.ten v]
def View.ctx (v : View) : Ctx := v.run.ctx

/-- The generation and numerics epoch that an image is compiled for (R54, R107). -/
def Image.gen (i : Image) : Gen := ⟨i.hwgen, i.nepoch⟩

def View.gen (v : View) : Gen := v.run.plan.image.gen

/-- The tensor-table entry of a tensor (R54). -/
def Image.tensor (i : Image) (tid : BitVec 20) : Option TensorEnt := i.tensors.find? fun e => e.tid = tid

/-- Bytes that `n` elements of a format take (R414). -/
def Fmt.bytes (f : Fmt) (n : Nat) : Nat := (n * f.bits + 7) / 8

/-- The physical byte address of byte `off` of a tenant's window (R333, R335); none outside it. -/
def Tenant.winAddr (t : Tenant) (w : Fin 16) (off : Nat) : Option PAddr :=
  match t.windows[w].tier with
  | none => none
  | some t1 =>
    if off < t.windows[w].limit.toNat - t.windows[w].base.toNat then some (t1, t.windows[w].base.toNat + off) else none

/-- The region of `n` bytes from `off` lies inside window `w`. -/
def Tenant.inWin (t : Tenant) (w : Fin 16) (off n : Nat) : Bool :=
  t.windows[w].tier.isSome && decide (off + n ≤ t.windows[w].limit.toNat - t.windows[w].base.toNat)

/-- The module tensors of R415. -/
inductive ModTensor where
  | params | epochs | slotsIn | scale | requests
  deriving DecidableEq, Repr

def ModTensor.ofTid (t : BitVec 20) : Option ModTensor :=
  match t.toNat with
  | 0xFFF01 => some .params
  | 0xFFF02 => some .epochs
  | 0xFFF03 => some .slotsIn
  | 0xFFF04 => some .scale
  | 0xFFF05 => some .requests
  | _ => none

/-- Row width of a module tensor (R415). -/
def ModTensor.width : ModTensor → Nat
  | .params => 64
  | .scale => 16
  | _ => 8

/-- Rows of a module tensor for a plan; none where the plan may not name it (R415). -/
def ModTensor.rows (m : ModTensor) (p : Plan) : Option Nat :=
  match m with
  | .params | .epochs | .requests => p.req.map ReqTable.nslot
  | .slotsIn => if p.slotTable = [] then none else some 64
  | .scale => some 1

/-- The element count and format of a tensor that a descriptor of the plan may name (R35, R198, R415). -/
def Plan.tensorSpan (p : Plan) (tid : BitVec 20) : Option (Nat × BitVec 4) :=
  match ModTensor.ofTid tid with
  | some m => (m.rows p).map fun n => (n * m.width, 5)
  | none =>
    match p.image.tensor tid with
    | some e => some (if e.role = .adapter then 256 * e.count.toNat else e.count.toNat, e.fmt)
    | none => none

/-- A descriptor named by a slot is valid (R35, R415). -/
def Plan.descOk (p : Plan) (d : Desc) : Bool :=
  Desc.shapeOk d &&
  (match p.tensorSpan (Desc.tid d) with
   | none => false
   | some (n, _) => decide (Desc.maxOffset d < n)) &&
  (if (ModTensor.ofTid (Desc.tid d)).isSome then
     (decide (Desc.fmtCode d = 5) || decide (Desc.fmtCode d = 6)) && decide (Desc.bsm d = 0)
   else true) &&
  (if Desc.scaled d then
     match p.image.tensor (Desc.stid d) with
     | some e => decide (e.fmt = 7) && decide (Desc.scaleCount d ≤ e.count.toNat)
     | none => false
   else true)

/-! ### Module tensors (R155, R169, R210, R216) -/

/-- The slot is served in the step: the epoch that its request uses, for an unpinned one the CURRENT epoch since the
boundary (R208), is the step epoch (R209). -/
def ReqSlot.served (q : ReqSlot) (stepEpoch : W16) : Bool := decide (q.wepoch = stepEpoch)

/-- The tenant's current weight epoch (R206). -/
def Tenant.curEpoch (t : Tenant) : Option W16 :=
  (t.copies.find? fun c => c.adapter.isNone && decide (c.state = .current)).map EpochCopy.epoch

/-- The current copy of an adapter ID (R206). -/
def Tenant.curAdapter (t : Tenant) (aid : W16) : Option EpochCopy :=
  t.copies.find? fun c => decide (c.adapter.map Prod.fst = some aid) && decide (c.state = .current)

/-- Before the first weight epoch is current the step epoch is 0, and every slot is served (DEDUCED from
R209, notes/assumptions/21.md). -/
def View.served (v : View) (q : ReqSlot) : Bool :=
  decide (v.run.stepEpoch = 0) || q.served v.run.stepEpoch

/-- Row of 0xF_FF02 for a slot (R210). -/
def View.epochWord (v : View) (slot col : Nat) : W32 :=
  match alGet (View.tenant v).slots slot, col with
  | _, 6 => v.run.stepEpoch.setWidth 32
  | none, 3 => 0xFFFFFFFF
  | none, 5 => 0xFFFFFFFF
  | none, _ => 0
  | some q, 0 => if View.served v q then 1 else 0
  | some q, 1 => if q.pin then 1 else 0
  | some q, 2 => q.wepoch.setWidth 32
  | some q, 3 => if q.aid = 0xFFFF then 0xFFFFFFFF else q.aid.setWidth 32
  | some q, 4 => q.aepoch.setWidth 32
  | some q, 5 => match q.abank with
    | some b => BitVec.ofNat 32 b.val
    | none => 0xFFFFFFFF
  | some _, _ => 0

/-- The bucket lengths of a step's slots (R152, R301). -/
def Plan.buckets (p : Plan) (step : W32) : List Nat :=
  (p.slotTable.foldl (fun acc rec => if rec.first.toNat ≤ step.toNat then rec.buckets else acc) [])

/-- The micro-batch of a slot in the step in progress (R154). -/
def View.batch (v : View) (slot : Nat) : Option MBatch :=
  (View.tenant v).mbatches.find? fun b => decide (b.plan = (View.plan v).id) && decide (b.step = v.run.step) &&
    decide (b.slot.val = slot)

/-- Row of 0xF_FF03 (R155). -/
def View.slotWord (v : View) (slot col : Nat) : W32 :=
  match View.batch v slot, col with
  | some _, 0 => 1
  | some b, 1 => BitVec.ofNat 32 b.len
  | some b, 3 => BitVec.ofNat 32 b.ext
  | _, 2 => BitVec.ofNat 32 (((View.plan v).buckets v.run.step).getD slot 0)
  | _, _ => 0

/-- Row of 0xF_FF05 (R216). -/
def View.requestWord (v : View) (slot col : Nat) : W32 :=
  match alGet (View.tenant v).slots slot, col with
  | some q, 0 => if q.fresh then 1 else 2
  | some q, 1 => q.plen
  | some q, 2 => q.admStep
  | _, _ => 0

/-- The default of a column of 0xF_FF01 (R9, R135, R145): NSTOPID, NSEQ, MAXNEW and DEADLINE 0, HIST −1, column 7 zero. -/
def paramDefault (col : Nat) : Option W32 :=
  if [7, 8, 17, 54, 55, 56].contains col then some 0
  else if 57 ≤ col then some 0xFFFFFFFF
  else none

/-- A row of 0xF_FF01 (R135, R145). The row of a FREE slot that no request has held since the module's reset holds the
defaults (R9). What else the row of a FREE slot holds the manual does not state (FREE VALUE, notes/assumptions/22.md). -/
def View.paramWord (v : View) (slot col : Nat) : W32 :=
  match alGet (View.tenant v).slots slot with
  | some q => q.row.toList.getD col 0
  | none =>
    let open_ := Config.freeSlotWord (View.plan v).id v.run.step slot col
    if col = 7 then 0
    else if (View.tenant v).used.contains slot then open_
    else (paramDefault col).getD open_

/-- Word `c` of the scale state; words 7 to 15 are reserved and read zero (R8, R169). -/
def Tenant.scaleWord (t : Tenant) (c : Nat) : W32 := if c < 7 then t.scale.toList.getD c 0 else 0

/-- Words of the scale state written; the reserved ones keep nothing (R8, R169). -/
def scaleWrites (off : Nat) (bits : W32) : List (Fin 16 × W32) := if off < 7 then [(Fin.ofNat 16 off, bits)] else []

/-- Word `off` of a module tensor (R415). -/
def View.modWord (v : View) (m : ModTensor) (off : Nat) : W32 :=
  let r := off / m.width
  let c := off % m.width
  match m with
  | .params => View.paramWord v r c
  | .epochs => View.epochWord v r c
  | .slotsIn => View.slotWord v r c
  | .scale => (View.tenant v).scaleWord c
  | .requests => View.requestWord v r c

/-! ### Where elements lie (R158, R198, R211, R414) -/

/-- The row of an activation-store tensor that an element belongs to, and the rows that carry data in the
step (R153, R158). -/
def View.storeLive (v : View) (e : TensorEnt) (off : Nat) : Bool :=
  let bkt := ((View.plan v).buckets v.run.step).getD e.sslot.val 0
  let width := if bkt = 0 then e.count.toNat else e.count.toNat / bkt
  match View.batch v e.sslot.val with
  | none => false
  | some b => decide (off < b.len * width)

/-- The bits of an element in a tenant's window: format `f`, element 0 at byte `woff` (R414). -/
def Tenant.elemBits (t : Tenant) (m : Mem) (w : Fin 16) (woff : Nat) (f : Fmt) (off : Nat) : W32 :=
  match f with
  | .fp4 =>
    match t.winAddr w (woff + off / 2) with
    | none => 0
    | some a => BitVec.ofNat 32 ((m.byte a).toNat / 16 ^ (off % 2) % 16)
  | _ =>
    let n := f.bits / 8
    match t.winAddr w (woff + n * off + (n - 1)) with
    | none => 0
    | some (t1, a) => BitVec.ofNat 32 (leNat (m.read (t1, a + 1 - n) n))

/-- The writes of an element's bits in a tenant's window (R414). -/
def Tenant.elemWrites (t : Tenant) (w : Fin 16) (woff : Nat) (f : Fmt) (off : Nat) (bits : W32) : List MemWrite :=
  match f with
  | .fp4 =>
    match t.winAddr w (woff + off / 2) with
    | none => []
    | some a =>
      if off % 2 = 0 then [⟨a, 0x0F, BitVec.ofNat 8 (bits.toNat % 16)⟩]
      else [⟨a, 0xF0, BitVec.ofNat 8 (bits.toNat % 16 * 16)⟩]
  | _ =>
    let n := f.bits / 8
    (List.range n).filterMap fun i =>
      (t.winAddr w (woff + n * off + i)).map fun a => ⟨a, 0xFF, BitVec.ofNat 8 (bits.toNat / 256 ^ i)⟩

/-- The copy of a weight epoch that is resolvable: CURRENT or RETAINED (R206). -/
def Tenant.weightCopy (t : Tenant) (epoch : W16) : Option EpochCopy :=
  t.copies.find? fun c => c.adapter.isNone && decide (c.epoch = epoch) &&
    (decide (c.state = .current) || decide (c.state = .retained))

/-- An element of a copy. -/
def EpochCopy.elem (c : EpochCopy) (tid : BitVec 20) (off : Nat) : W32 :=
  match c.tensors.find? fun x => x.tid = tid with
  | none => 0
  | some x => spGet 0 x.cells off

/-- The element of an adapter bank: copy of bank slot ⌊off / SIZE⌋ (R211). -/
def Tenant.bankElem (t : Tenant) (tid : BitVec 20) (size off : Nat) : W32 :=
  match t.copies.find? fun c => match c.adapter with
    | some (_, b) => decide (b.val = off / size) && (decide (c.state = .current) || decide (c.state = .retained))
    | none => false with
  | none => 0
  | some c => c.elem tid (off % size)

/-- The stored bits of an element of a tensor that a plan names. Its place and width are those of the tensor table's
FMT; a descriptor of another FMT decodes them in its own (DESIGN CHOICE, notes/assumptions/95.md). -/
def View.bits (v : View) (tid : BitVec 20) (off : Nat) : W32 :=
  match ModTensor.ofTid tid with
  | some m => View.modWord v m off
  | none =>
    match (View.plan v).image.tensor tid with
    | none => 0
    | some e =>
      let f := (Fmt.ofCode e.fmt).getD .u8
      if e.role = .adapter then (View.tenant v).bankElem tid e.count.toNat off
      else if (View.plan v).versioned.contains tid then
        match (View.tenant v).weightCopy v.run.stepEpoch with
        | some c => c.elem tid off
        | none => 0
      else if e.role = .store && !View.storeLive v e off then 0
      else (View.tenant v).elemBits v.mem e.win e.woff.toNat f off

/-- The scale byte that an element of a descriptor is read under; 127 without scales (R36, R95). -/
def View.scaleByte (v : View) (d : Desc) (r c : Nat) : Byte :=
  if Desc.scaled d then (View.bits v (Desc.stid d) (Desc.scaleOffset d r c)).setWidth 8 else 127

/-- The element at row `r`, column `c` of a descriptor's view. -/
def View.elem (v : View) (d : Desc) (r c : Nat) : Elem :=
  { bits := View.bits v (Desc.tid d) (Desc.offset d r c), scale := View.scaleByte v d r c }

/-- The value of that element, with its scale (R86, R99). -/
def View.value (v : View) (d : Desc) (r c : Nat) : Fp :=
  match Desc.fmt d with
  | none => .nan
  | some f => (View.elem v d r c).value f

/-! ### Writing into a descriptor -/

/-- The positions of a region in row-then-column order, from an origin. -/
def region (r0 c0 rows cols : Nat) : List (Nat × Nat) :=
  (List.range rows).flatMap fun i => (List.range cols).map fun j => (r0 + i, c0 + j)

/-- The writes of one element's bits of a tensor: to its home, or to the scale state (R169, R415). -/
def View.bitWrites (v : View) (tid : BitVec 20) (off : Nat) (bits : W32) :
    List MemWrite × List (Fin 16 × W32) :=
  match ModTensor.ofTid tid with
  | some .scale => ([], scaleWrites off bits)
  | some _ => ([], [])
  | none =>
    match (View.plan v).image.tensor tid with
    | none => ([], [])
    | some e =>
      if e.role = .adapter || (View.plan v).versioned.contains tid then ([], [])
      else if e.role = .store && !View.storeLive v e off then ([], [])
      else ((View.tenant v).elemWrites e.win e.woff.toNat ((Fmt.ofCode e.fmt).getD .u8) off bits, [])

/-- The build with the write of one element's bits. -/
def Build.putBits (b : Build) (v : View) (tid : BitVec 20) (off : Nat) (bits : W32) : Build :=
  let (mw, sw) := View.bitWrites v tid off bits
  { b with mem := b.mem ++ mw, scale := b.scale ++ sw }

/-- The 24 random bits of a conversion into element offset `off` on stream `strm` (R102). -/
def View.sr (v : View) (strm : W16) (off : Nat) : Nat :=
  programSlice (View.ctx v).seed v.run.step strm off 24

/-- One conversion counted by the monitor under the current layer (R100, R159). -/
def Build.countConv (b : Build) (layer : W16) (f : Fmt) (cls : Fin 6) : Build :=
  match f with
  | .fp4 | .e4m3 | .e5m2 | .bf16 => { b with mon := b.mon ++ [.conv layer f.code cls 1] }
  | _ => b

/-- The scale bytes that the amax pass chooses for the values of a descriptor's elements, by scale element
(R36, R95). -/
def amaxScales (d : Desc) (f : Fmt) (vals : List ((Nat × Nat) × Fp)) : List (Nat × Byte) :=
  let offs := (vals.map fun x => Desc.scaleOffset d x.1.1 x.1.2).eraseDups
  match f.shape with
  | none => []
  | some sh =>
    offs.map fun o =>
      (o, sh.scaleByte ((vals.filter fun x => Desc.scaleOffset d x.1.1 x.1.2 = o).map Prod.snd))

/-- One value converted into a descriptor's format (R95-R102): bits and class. `scales` are those of the
amax pass; `off` is the element offset that indexes the draw. -/
def convElem (d : Desc) (f : Fmt) (scales : List (Nat × Byte)) (rand : Nat → Nat) (pos : Nat × Nat) (x : Fp) :
    W32 × Fin 6 :=
  let sr := if Desc.sre d && f.isFloat then some (rand (Desc.offset d pos.1 pos.2)) else none
  if Desc.scaled d then
    let s := (scales.find? fun e => e.1 = Desc.scaleOffset d pos.1 pos.2).map Prod.snd |>.getD 127
    f.convertScaled s sr x
  else convertTo f (Desc.ovf d) sr x

/-- Values converted and written into a descriptor's view, in row-then-column order, the scale tensor
included (R36, R95-R102); each is counted where the conversion narrows (R159). -/
def Build.convertInto (b : Build) (v : View) (d : Desc) (count : Bool) (vals : List ((Nat × Nat) × Fp)) : Build :=
  match Desc.fmt d with
  | none => b
  | some f =>
    let scales := if Desc.scaled d then amaxScales d f vals else []
    let b := scales.foldl (fun b s => b.putBits v (Desc.stid d) s.1 (s.2.setWidth 32)) b
    vals.foldl (fun b x =>
      let (bits, cls) := convElem d f scales (View.sr v (Desc.strm d)) x.1 x.2
      let b := b.putBits v (Desc.tid d) (Desc.offset d x.1.1 x.1.2) bits
      if count then b.countConv (View.ctx v).layer f cls else b) b

/-! ### Scalars, predicates, immediates, buffers -/

/-- A descriptor register (R21). -/
def Ctx.desc (c : Ctx) (i : Fin 256) : Desc := spGet 0 c.td i.val

/-- The write of a scalar: S0 discards it (R21). -/
def Ctx.setS (c : Ctx) (i : Fin 64) (x : Scalar) : Ctx := if i = 0 then c else { c with s := c.s.set i x }

/-- The write of a predicate: P0 discards it (R21). -/
def Ctx.setP (c : Ctx) (i : Fin 16) (x : PredReg) : Ctx := if i = 0 then c else { c with p := c.p.set i x }

/-- The slot's predicate (R24, R30). -/
def Ctx.predOf (c : Ctx) (sl : Slot) : PredReg :=
  { val := c.p[sl.pred].val != sl.pneg, dyn := c.p[sl.pred].dyn }

/-- CF's operand B (R49). -/
def Ctx.opB (c : Ctx) (sl : Slot) (o : CfOps) : Scalar :=
  if o.imb then ⟨if o.imsel then sl.imm1 else sl.imm0, false⟩ else c.s[o.sb]

/-- A vector slot's scalar operand (R42). -/
def Ctx.opS (c : Ctx) (sl : Slot) (o : VOps) : Scalar := if o.ims then ⟨sl.imm0, false⟩ else c.s[o.ss]

/-- The key of a buffer or accumulator element. -/
def cellKey (r c : Nat) : Nat := 4096 * r + c

def Buf.get (b : Buf) (r c : Nat) : W32 := spGet 0 b (cellKey r c)
def Buf.put (b : Buf) (r c : Nat) (x : W32) : Buf := spSet 0 (cellKey r c) x b

/-- A buffer of the context before the bundle. -/
def View.buf (v : View) (i : Fin 4) (r c : Nat) : W32 := Buf.get (View.ctx v).v[i] r c

/-- Buffer elements written, in order. -/
def Build.putBuf (b : Build) (i : Fin 4) (ws : List ((Nat × Nat) × W32)) : Build :=
  { b with ctx := { b.ctx with v := vecMod b.ctx.v i fun x => ws.foldl (fun x w => Buf.put x w.1.1 w.1.2 w.2) x } }

/-- A region of a buffer written with a function of row and column. -/
def Build.fillBuf (b : Build) (i : Fin 4) (rows cols : Nat) (f : Nat → Nat → W32) : Build :=
  b.putBuf i ((region 0 0 rows cols).map fun p => (p, f p.1 p.2))

/-- A signed 32-bit reading of an element. -/
def asI32 (x : W32) : Int := x.toInt

/-! ### Fields of records in tenant memory (R414) -/

/-- A tensor named by a command field: the window, byte offset of its element 0, format and element count.
Window tensors name a whole window as U8; other IDs resolve in an image's tensor table (R414). -/
structure Ref where
  win : Fin 16
  woff : Nat
  fmt : Fmt
  count : Nat
  deriving DecidableEq, Repr

def Tenant.ref (t : Tenant) (img : Option Image) (tid : BitVec 20) : Option Ref :=
  if 0xFFF10 ≤ tid.toNat ∧ tid.toNat ≤ 0xFFF1F then
    let w : Fin 16 := ⟨tid.toNat % 16, by omega⟩
    if t.windows[w].tier.isSome then
      some ⟨w, 0, .u8, t.windows[w].limit.toNat - t.windows[w].base.toNat⟩
    else none
  else
    match img.bind fun i => i.tensor tid with
    | none => none
    | some e => (Fmt.ofCode e.fmt).map fun f => ⟨e.win, e.woff.toNat, f, e.count.toNat⟩

/-- The byte of its window at which element `off` of a tensor begins. -/
def Ref.byteAt (r : Ref) (off : Nat) : Nat := r.woff + off * r.fmt.bits / 8

/-- `n` bytes from element `off` on lie inside the tensor and the tenant's windows. -/
def Tenant.refOk (t : Tenant) (r : Ref) (off n : Nat) : Bool :=
  decide (off * r.fmt.bits / 8 + n ≤ r.fmt.bytes r.count) && t.inWin r.win (r.byteAt off) n

/-- Bytes of a tenant's window; zero outside it. -/
def Tenant.bytes (t : Tenant) (m : Mem) (w : Fin 16) (off n : Nat) : List Byte :=
  (List.range n).map fun i => match t.winAddr w (off + i) with
    | some a => m.byte a
    | none => 0

/-- The writes of bytes into a tenant's window; bytes outside it are dropped. -/
def Tenant.byteWrites (t : Tenant) (w : Fin 16) (off : Nat) (bs : List Byte) : List MemWrite :=
  (bs.zipIdx).filterMap fun x => (t.winAddr w (off + x.2)).map fun a => ⟨a, 0xFF, x.1⟩

end Sys2Proof.Machine
end

