-- ==== Sys2Proof/Machine/Flags.lean ====
section
/-! DEFINITION. Flags and states that a slot judges or leaves: the static and dynamic classes (R26), the
states of an accumulator and of the shadow plane (R40, R41), NONFINITE (R91), the monitor's counts (R100,
R159), and the two ways a slot fails. -/

namespace Sys2Proof.Machine

/-- How a slot fails at issue: accumulator state broken (R40), an MM unlike the one that opened its
accumulation (R39), plane load into a FULL shadow (R41), an operand that a rule forbids, with the reason of R57,
or a collective that ends with a tenant fault, with its status and CAUSE (R279, R286). -/
inductive SlotFail where
  | acc
  | mismatch
  | plane
  | reject (reason : Byte)
  | fault (status cause : W16)
  deriving DecidableEq, Repr

/-- The fixed slot order (R22), as the bind report numbers it (R176). -/
inductive SlotPos where
  | mx | va | vb | ld | st | cf | sy
  deriving DecidableEq, Repr

def SlotPos.num : SlotPos → Nat
  | .mx => 0
  | .va => 1
  | .vb => 2
  | .ld => 3
  | .st => 4
  | .cf => 5
  | .sy => 6

/-- What an operation asks of an accumulator (R40). -/
inductive AccOp where
  | pass (init last : Bool)
  | drain
  | release
  | read
  | await
  | boundary
  deriving DecidableEq, Repr

/-- The accumulator state table (R40); none is the accumulator fault. -/
def AccState.next (op : AccOp) (st : AccState) : Option AccState :=
  match op, st with
  | .pass true last, .free => some (if last then .ready else .opened)
  | .pass false last, .opened => some (if last then .ready else .opened)
  | .pass _ _, _ => none
  | .drain, .ready => some .draining
  | .drain, _ => none
  | .release, .ready => some .free
  | .release, _ => none
  | .read, .ready => some .ready
  | .read, _ => none
  | .await, .draining => some .free
  | .await, x => some x
  | .boundary, .free => some .free
  | .boundary, _ => none

/-- A step boundary may follow: both accumulators are FREE (R40). -/
def Ctx.boundaryOk (c : Ctx) : Bool := decide (c.ac[0].state = .free) && decide (c.ac[1].state = .free)

/-- The class of a scalar or predicate written by a slot: dynamic under a dynamic predicate (R26). -/
def classOf (c : Ctx) (sl : Slot) (dyn : Bool) : Bool := dyn || (c.predOf sl).dyn

/-- A scalar written by a slot (R21, R26). -/
def Build.writeS (b : Build) (v : View) (sl : Slot) (i : Fin 64) (val : W64) (dyn : Bool) : Build :=
  { b with ctx := b.ctx.setS i ⟨val, classOf (View.ctx v) sl dyn⟩ }

/-- A predicate written by a slot (R21, R26). -/
def Build.writeP (b : Build) (v : View) (sl : Slot) (i : Fin 16) (val : Bool) (dyn : Bool) : Build :=
  { b with
    ctx := b.ctx.setP i ⟨val, classOf (View.ctx v) sl dyn⟩
    latePreds := if 4 < b.pos then i :: b.latePreds else b.latePreds }

/-- A value is ±∞ or NaN (R91). -/
def Fp.nonfinite (x : Fp) : Bool := !x.isFinite

/-- Whether a conversion from one format into another narrows: fewer bits per element (R97, R159; DEDUCED,
notes/assumptions/23.md). -/
def narrows (src dst : Fmt) : Bool := decide (dst.bits < src.bits)

def Counts.zero : Counts := { exact := 0, rounded := 0, underflow := 0, flush := 0, saturate := 0, overflow := 0 }

/-- A count with `n` more of a class (R100). -/
def Counts.bump (c : Counts) (cls : Fin 6) (n : Nat) : Counts :=
  match cls with
  | 0 => { c with exact := c.exact + n }
  | 1 => { c with rounded := c.rounded + n }
  | 2 => { c with underflow := c.underflow + n }
  | 3 => { c with flush := c.flush + n }
  | 4 => { c with saturate := c.saturate + n }
  | 5 => { c with overflow := c.overflow + n }

/-- A layer with nothing counted. -/
def LayerRow.blank (layer : W16) : LayerRow :=
  { layer := layer, run := 0, raised := false, fp4 := .zero, e4m3 := .zero, e5m2 := .zero, bf16 := .zero
    dTerms := [], wTerms := [], shapes := [], counted := false, voptSkipped := false, wdMax := .zero }

/-- The layer after one of a bundle's deltas. -/
def LayerRow.add (l : LayerRow) : MonDelta → LayerRow
  | .conv _ fmt cls n =>
    match Fmt.ofCode fmt with
    | some .fp4 => { l with fp4 := l.fp4.bump cls n }
    | some .e4m3 => { l with e4m3 := l.e4m3.bump cls n }
    | some .e5m2 => { l with e5m2 := l.e5m2.bump cls n }
    | some .bf16 => { l with bf16 := l.bf16.bump cls n }
    | _ => l
  | .vopt _ d w shape wd =>
    { l with
      dTerms := l.dTerms ++ d, wTerms := l.wTerms ++ w, shapes := l.shapes ++ [shape], counted := true
      wdMax := if l.wdMax.lt wd.abs then wd.abs else l.wdMax }
  | .skipped _ => { l with voptSkipped := true }

def MonDelta.layer : MonDelta → W16
  | .conv l _ _ _ => l
  | .vopt l _ _ _ _ => l
  | .skipped l => l

/-- A delta applied to the layer table: the layer was entered at bind (R160). -/
def addDelta (rows : List LayerRow) (d : MonDelta) : List LayerRow :=
  rows.map fun l => if l.layer = d.layer then l.add d else l

/-- A layer between steps: the run counter stays, the step's counts go. -/
def LayerRow.fresh (l : LayerRow) : LayerRow := { LayerRow.blank l.layer with run := l.run, raised := l.raised }

/-! ### Checks of a slot's operands (R27, R35, R39, R44, R48, R51, R57) -/

/-- The first broken rule of a list: a finding and the reason of R57. -/
def firstReason : List (Bool × Byte) → Option Byte
  | [] => none
  | (bad, r) :: rest => if bad then some r else firstReason rest

/-- A descriptor as a slot names it. -/
def View.desc (v : View) (i : Fin 256) : Desc := (View.ctx v).desc i

/-- The descriptor is invalid: reason 0x02. -/
def badDesc (v : View) (d : Desc) : Bool × Byte := (!(View.plan v).descOk d, 2)

/-- The tensor is versioned for a plan: by weight epoch, or, with the role adapter, per adapter ID (R198, R211). -/
def Plan.isVersioned (p : Plan) (tid : BitVec 20) : Bool :=
  p.versioned.contains tid || p.image.tensors.any fun e => decide (e.tid = tid) && decide (e.role = .adapter)

/-- No slot may write the tensor: a module tensor other than the scale state (R415), or a versioned tensor (R198). -/
def Plan.readOnly (p : Plan) (tid : BitVec 20) : Bool :=
  match ModTensor.ofTid tid with
  | some .scale => false
  | some _ => true
  | none => p.isVersioned tid

/-- A write into the descriptor would write such a tensor, itself or as its scales (R36). -/
def Plan.bars (p : Plan) (d : Desc) : Bool := p.readOnly (Desc.tid d) || (Desc.scaled d && p.readOnly (Desc.stid d))

/-- The descriptor may not be written: it or its scale tensor is read only, or it is FP4 without scales (R96). -/
def badTarget (v : View) (d : Desc) : Bool × Byte :=
  ((View.plan v).bars d || (decide (Desc.fmt d = some .fp4) && !Desc.scaled d), 5)

/-- A count of rows or columns lies outside 1-4,096 (R42, R48). -/
def badSize (n : BitVec 13) : Bool × Byte := (decide (n.toNat = 0) || decide (4096 < n.toNat), 5)

/-- A format of R93's epilogue operand and of EWM: any floating-point format. -/
def floatFmt (d : Desc) : Bool :=
  match Desc.fmt d with
  | some f => f.isFloat
  | none => false

end Sys2Proof.Machine
end

