-- ==== Sys2Proof/Machine/Image.lean ====
section
/-! DEFINITION. The program image (R53-R55, R414) and the encoding of its bundles (R29-R31, R37, R42, R45,
R49, R52): the slots of a bundle as the operations of `Instr`, with their operand fields. -/

namespace Sys2Proof.Machine

/-! ### Bundles -/

/-- A 128-bit slot of a bundle, MX first (R29); slot 7 is IM. -/
def bundleSlot (b : BitVec 1024) (i : Nat) : BitVec 128 := b.extractLsb' (896 - 128 * i) 128

/-- A field of `n` bits whose lowest is bit `lo`. -/
def fieldAt (w : BitVec 128) (lo n : Nat) : Nat := w.toNat / 2 ^ lo % 2 ^ n

/-- OP (R30). -/
def slotOp (w : BitVec 128) : Nat := fieldAt w 120 8

/-- The common fields of slot `i` of a bundle (R30, R31). `more` is set by the caller. -/
def slotHead (part : Fin 4) (b : BitVec 1024) (i : Nat) (more : Bool) : Slot :=
  let w := bundleSlot b i
  let im := bundleSlot b 7
  { part := part, pneg := fieldAt w 119 1 = 1, pred := Fin.ofNat 16 (fieldAt w 115 4), more := more
    imm0 := BitVec.ofNat 64 (fieldAt im 64 64), imm1 := BitVec.ofNat 64 (fieldAt im 0 64) }

/-- The MX fields (R37). -/
def mxFields (w : BitVec 128) : MxOps :=
  { ac := Fin.ofNat 4 (fieldAt w 113 2), opr := Fin.ofNat 4 (fieldAt w 111 2), init := fieldAt w 110 1 = 1
    last := fieldAt w 109 1 = 1, idx := fieldAt w 108 1 = 1, tda := Fin.ofNat 256 (fieldAt w 100 8)
    tdb := Fin.ofNat 256 (fieldAt w 92 8), tdc := Fin.ofNat 256 (fieldAt w 84 8)
    tde := Fin.ofNat 256 (fieldAt w 76 8), tdx := Fin.ofNat 256 (fieldAt w 68 8)
    epi := Fin.ofNat 4 (fieldAt w 66 2), ftq := fieldAt w 65 1 = 1 }

/-- The VA and VB fields (R42). -/
def vFields (vb : Bool) (w : BitVec 128) : VOps :=
  { vb := vb, d := Fin.ofNat 4 (fieldAt w 113 2), x := Fin.ofNat 4 (fieldAt w 111 2)
    y := Fin.ofNat 4 (fieldAt w 109 2), z := Fin.ofNat 4 (fieldAt w 107 2)
    rows := BitVec.ofNat 13 (fieldAt w 94 13), cols := BitVec.ofNat 13 (fieldAt w 81 13)
    ss := Fin.ofNat 64 (fieldAt w 75 6), ims := fieldAt w 74 1 = 1, td := Fin.ofNat 256 (fieldAt w 66 8)
    fn := Fin.ofNat 16 (fieldAt w 62 4), acs := Fin.ofNat 2 (fieldAt w 61 1)
    pd := Fin.ofNat 16 (fieldAt w 57 4) }

/-- The LD and ST fields (R45). -/
def mvFields (w : BitVec 128) : MvOps :=
  { td := Fin.ofNat 256 (fieldAt w 107 8), v := Fin.ofNat 4 (fieldAt w 105 2)
    rowo := Fin.ofNat 64 (fieldAt w 99 6), colo := Fin.ofNat 64 (fieldAt w 93 6)
    rows := BitVec.ofNat 13 (fieldAt w 80 13), cols := BitVec.ofNat 13 (fieldAt w 67 13)
    td2 := Fin.ofNat 256 (fieldAt w 59 8), ix := Fin.ofNat 4 (fieldAt w 57 2)
    pd := Fin.ofNat 16 (fieldAt w 53 4), cfn := Fin.ofNat 16 (fieldAt w 49 4)
    grp := BitVec.ofNat 12 (fieldAt w 37 12) }

/-- The CF fields (R49). -/
def cfFields (w : BitVec 128) : CfOps :=
  { fn := Fin.ofNat 16 (fieldAt w 111 4), sd := Fin.ofNat 64 (fieldAt w 105 6)
    sa := Fin.ofNat 64 (fieldAt w 99 6), sb := Fin.ofNat 64 (fieldAt w 93 6), imb := fieldAt w 92 1 = 1
    imsel := fieldAt w 91 1 = 1, pd := Fin.ofNat 16 (fieldAt w 87 4), lc := Fin.ofNat 8 (fieldAt w 84 3)
    tgt := BitVec.ofNat 20 (fieldAt w 64 20), td := Fin.ofNat 256 (fieldAt w 56 8) }

/-- The SY fields (R52). -/
def syFields (w : BitVec 128) : SyOps :=
  { ac := Fin.ofNat 4 (fieldAt w 113 2), code := BitVec.ofNat 16 (fieldAt w 97 16) }

/-- The MX opcodes (R38). -/
def mxInstr (sl : Slot) (w : BitVec 128) : Option Instr :=
  let o := mxFields w
  match slotOp w with
  | 1 => some (.pld sl o)
  | 2 => some (.mm sl o)
  | 3 => some (.ewm sl o)
  | 4 => some (.drn sl o)
  | 5 => some (.rel sl o)
  | _ => none

/-- The vector opcodes (R43). -/
def vInstr (vb : Bool) (sl : Slot) (w : BitVec 128) : Option Instr :=
  let o := vFields vb w
  match slotOp w with
  | 0x01 => some (.vadd sl o)
  | 0x02 => some (.vsub sl o)
  | 0x03 => some (.vmul sl o)
  | 0x04 => some (.vfma sl o)
  | 0x05 => some (.vmax sl o)
  | 0x06 => some (.vmin sl o)
  | 0x07 => some (.vscl sl o)
  | 0x08 => some (.vfn sl o)
  | 0x09 => some (.vred sl o)
  | 0x0A => some (.vcmp sl o)
  | 0x0B => some (.vsel sl o)
  | 0x0C => some (.vcpr sl o)
  | 0x0D => some (.vxpd sl o)
  | 0x0E => some (.vcvt sl o)
  | 0x0F => some (.vrnd sl o)
  | 0x10 => some (.vacc sl o)
  | 0x11 => some (.vftq sl o)
  | 0x12 => some (.vsamp sl o)
  | 0x13 => some (.vstop sl o)
  | 0x14 => some (.vopt sl o)
  | 0x15 => some (.vget sl o)
  | 0x16 => some (.vtst sl o)
  | 0x17 => some (.vput sl o)
  | _ => none

/-- The LD opcodes (R46). -/
def ldInstr (sl : Slot) (w : BitVec 128) : Option Instr :=
  let o := mvFields w
  match slotOp w with
  | 1 => some (.ldv sl o)
  | 2 => some (.gath sl o)
  | 3 => some (.copy sl o)
  | _ => none

/-- The ST opcodes (R47). -/
def stInstr (sl : Slot) (w : BitVec 128) : Option Instr :=
  let o := mvFields w
  match slotOp w with
  | 1 => some (.stv sl o)
  | 2 => some (.scat sl o)
  | 3 => some (.emit sl o)
  | 4 => some (.coll sl o)
  | _ => none

/-- The CF opcodes (R50). -/
def cfInstr (sl : Slot) (w : BitVec 128) : Option Instr :=
  let o := cfFields w
  match slotOp w with
  | 0x01 => some (.salu sl o)
  | 0x02 => some (.scmp sl o)
  | 0x03 => some (.plog sl o)
  | 0x04 => some (.loop sl o)
  | 0x05 => some (.br sl o)
  | 0x06 => some (.call sl o)
  | 0x07 => some (.ret sl o)
  | 0x08 => some (.step sl o)
  | 0x09 => some (.endp sl o)
  | 0x0A => some (.tdset sl o)
  | 0x0B => some (.param sl o)
  | _ => none

/-- The SY opcodes (R52). -/
def syInstr (sl : Slot) (w : BitVec 128) : Option Instr :=
  let o := syFields w
  match slotOp w with
  | 1 => some (.await sl o)
  | 2 => some (.trace sl o)
  | 3 => some (.event sl o)
  | 4 => some (.layer sl o)
  | 5 => some (.seed sl o)
  | 6 => some (.cmt sl o)
  | _ => none

/-- The operation in slot `i` of a bundle; none where the opcode is NOP or undefined. -/
def bundleInstr (part : Fin 4) (b : BitVec 1024) (i : Nat) (more : Bool) : Option Instr :=
  let w := bundleSlot b i
  let sl := slotHead part b i more
  match i with
  | 0 => mxInstr sl w
  | 1 => vInstr false sl w
  | 2 => vInstr true sl w
  | 3 => ldInstr sl w
  | 4 => stInstr sl w
  | 5 => cfInstr sl w
  | 6 => syInstr sl w
  | _ => none

/-- A slot's opcode is neither NOP nor listed (R30: reason 0x01). -/
def badOpcode (b : BitVec 1024) (i : Nat) : Bool :=
  decide (slotOp (bundleSlot b i) ≠ 0) && (bundleInstr 0 b i false).isNone

/-- The slots of a bundle that hold an operation, in the fixed order, as the commands that issue them
(R22): the last one has `more` clear. A bundle of NOPs only has none. -/
def bundleOps (part : Fin 4) (b : BitVec 1024) : List (Nat × Instr) :=
  let used := (List.range 7).filter fun i => (bundleInstr part b i false).isSome
  used.filterMap fun i =>
    (bundleInstr part b i (decide (used.getLast? ≠ some i))).map fun x => (i, x)

/-- The loop bodies of the stream: for each CF.LOOP the first and last bundle of its body (R50, R51). -/
def loopBodies (bs : List (BitVec 1024)) : List (Int × Int) :=
  (bs.zipIdx).filterMap fun x =>
    let w := bundleSlot x.1 5
    if slotOp w = 4 then some ((x.2 : Int) + 1, (x.2 : Int) + (cfFields w).tgt.toInt) else none

/-! ### Image layout (R53-R55) -/

/-- The next multiple of 128. -/
def align128 (n : Nat) : Nat := (n + 127) / 128 * 128

/-- The header's counts (R54). -/
structure ImageHead where
  magic : Nat
  fver : Nat
  hwgen : Byte
  nepoch : Byte
  ntensor : Nat
  ndesc : Nat
  nbundle : Nat
  namebytes : Nat
  deriving DecidableEq, Repr

def ImageHead.read (bs : List Byte) : ImageHead :=
  { magic := leAt bs 0 4, fver := leAt bs 4 2, hwgen := BitVec.ofNat 8 (leAt bs 6 1)
    nepoch := BitVec.ofNat 8 (leAt bs 7 1), ntensor := leAt bs 8 4, ndesc := leAt bs 12 2
    nbundle := leAt bs 16 4, namebytes := leAt bs 20 4 }

/-- Where the sections begin (R54). -/
def ImageHead.descAt (h : ImageHead) : Nat := align128 (128 + 32 * h.ntensor)
def ImageHead.bundleAt (h : ImageHead) : Nat := align128 (h.descAt + 64 * h.ndesc)
def ImageHead.nameAt (h : ImageHead) : Nat := align128 (h.bundleAt + 128 * h.nbundle)

/-- The image's length in bytes. -/
def ImageHead.length (h : ImageHead) : Nat := if h.namebytes = 0 then h.nameAt else h.nameAt + h.namebytes

/-- The counts lie within R54 and R55. -/
def ImageHead.countsOk (h : ImageHead) : Bool :=
  decide (1 ≤ h.ntensor) && decide (h.ntensor ≤ 1048319) && decide (h.ndesc ≤ 256) &&
  decide (1 ≤ h.nbundle) && decide (h.nbundle ≤ 1048576)

/-- The role of a ROLE code (R54). -/
def Role.ofCode (c : Nat) : Option Role :=
  match c with
  | 0 => some .ordinary
  | 1 => some .weight
  | 2 => some .adapter
  | 3 => some .store
  | 4 => some .scale
  | _ => none

/-- A tensor-table entry of 32 bytes (R54); a WIN above 15, TIER above 3 or reserved ROLE has none, nor a SSLOT
above 63 where the ROLE is 3, which alone has that field. -/
def TensorEnt.read (bs : List Byte) : Option TensorEnt :=
  match Role.ofCode (leAt bs 15 1) with
  | none => none
  | some role =>
    if leAt bs 13 1 ≤ 3 ∧ leAt bs 14 1 ≤ 15 ∧ leAt bs 12 1 ≤ 15 ∧ (role = .store → leAt bs 20 1 ≤ 63) then
      some { tid := BitVec.ofNat 20 (leAt bs 0 4), count := BitVec.ofNat 48 (leAt bs 4 8)
             fmt := BitVec.ofNat 4 (leAt bs 12 1), tier := BitVec.ofNat 2 (leAt bs 13 1)
             win := Fin.ofNat 16 (leAt bs 14 1), role := role, optrec := BitVec.ofNat 20 (leAt bs 16 4)
             sslot := Fin.ofNat 64 (leAt bs 20 1), woff := BitVec.ofNat 48 (leAt bs 24 8) }
    else none

/-- What a bind finds wrong: bundle index or entry (0xFFFF_FFFF: none), slot (0xFF: none), reason of R57. -/
structure BindErr where
  whereAt : W32
  slot : Byte
  reason : Byte
  deriving DecidableEq, Repr

/-- A fault of the image or submit record as a whole. -/
def wholeErr (reason : Byte) : BindErr := ⟨0xFFFFFFFF, 0xFF, reason⟩

/-- A tensor-table entry that fits its window (R54, R414). -/
def Tenant.entOk (t : Tenant) (e : TensorEnt) : Bool :=
  decide (1 ≤ e.tid.toNat) && decide (e.tid.toNat ≤ 0xFFEFF) && (e.woff.toNat % 256 == 0) &&
  match Fmt.ofCode e.fmt with
  | none => false
  | some f => t.inWin e.win e.woff.toNat (f.bytes e.count.toNat)

/-- The table's entries in order: ascending TIDs, each sound, each OPTREC naming an FP32 tensor of 16
elements in the table (R54). The index of the first entry that is not. -/
def badEntry (t : Tenant) (all : List TensorEnt) : Nat → Nat → List (Option TensorEnt) → Option Nat
  | _, _, [] => none
  | i, _, none :: _ => some i
  | i, last, some e :: es =>
    let optOk := decide (e.role ≠ .weight) || decide (e.optrec = 0) ||
      all.any fun o => decide (o.tid = e.optrec) && decide (o.fmt = 5) && decide (o.count = 16)
    if t.entOk e && decide (last < e.tid.toNat) && optOk then badEntry t all (i + 1) e.tid.toNat es else some i

/-- Consecutive pieces of `n` bytes. -/
def pieces (n : Nat) : Nat → List Byte → List (List Byte)
  | 0, _ => []
  | k + 1, bs => bs.take n :: pieces n k (bs.drop n)

/-- The padding bytes of `[a, b)` are zero (R54). -/
def zeros (bs : List Byte) (a b : Nat) : Bool := ((bs.drop a).take (b - a)).all fun x => x = 0

/-- A continuation byte of UTF-8 in `[lo, hi]`. -/
def utf8Tail (b : Byte) (lo hi : Nat) : Bool := decide (lo ≤ b.toNat) && decide (b.toNat ≤ hi)

/-- The bytes are UTF-8 (R54): no overlong form, no surrogate, nothing above U+10FFFF. -/
def utf8Ok : List Byte → Bool
  | [] => true
  | a :: rest =>
    let x := a.toNat
    if x < 0x80 then utf8Ok rest
    else match rest with
      | [] => false
      | b :: rest =>
        if 0xC2 ≤ x ∧ x ≤ 0xDF then utf8Tail b 0x80 0xBF && utf8Ok rest
        else match rest with
          | [] => false
          | c :: rest =>
            if 0xE0 ≤ x ∧ x ≤ 0xEF then
              utf8Tail b (if x = 0xE0 then 0xA0 else 0x80) (if x = 0xED then 0x9F else 0xBF) &&
                utf8Tail c 0x80 0xBF && utf8Ok rest
            else match rest with
              | [] => false
              | d :: rest =>
                decide (0xF0 ≤ x) && decide (x ≤ 0xF4) &&
                  utf8Tail b (if x = 0xF0 then 0x90 else 0x80) (if x = 0xF4 then 0x8F else 0xBF) &&
                  utf8Tail c 0x80 0xBF && utf8Tail d 0x80 0xBF && utf8Ok rest

/-- The name table is a run of records (R54): head, LEN 1-255, NKIND 0-2, a string of UTF-8, zeros to a multiple
of 4. -/
def namesOk : Nat → List Byte → Bool
  | _, [] => true
  | 0, _ => false
  | fuel + 1, bs =>
    let len := leAt bs 3 1
    let size := 4 + (len + 3) / 4 * 4
    decide (1 ≤ len) && decide (leAt bs 2 1 ≤ 2) && decide (size ≤ bs.length) && utf8Ok ((bs.drop 4).take len) &&
      zeros bs (4 + len) size && namesOk fuel (bs.drop size)

/-- An image read whole from its bytes, with the first fault of its layout (R54). The header's four
version fields are judged before (R56). -/
def Image.parse (t : Tenant) (bs : List Byte) : Except BindErr Image :=
  let h := ImageHead.read bs
  if !h.countsOk || decide (bs.length < h.length) then .error (wholeErr 2)
  else
    let rows := pieces 32 h.ntensor (bs.drop 128)
    let ents := rows.map TensorEnt.read
    let good := ents.filterMap id
    match badEntry t good 0 0 ents with
    | some i => .error ⟨BitVec.ofNat 32 i, 0xFF, 2⟩
    | none =>
      if !zeros bs (128 + 32 * h.ntensor) h.descAt || !zeros bs (h.descAt + 64 * h.ndesc) h.bundleAt ||
          !namesOk h.namebytes ((bs.drop h.nameAt).take h.namebytes) then .error (wholeErr 2)
      else
        .ok { hwgen := h.hwgen, nepoch := h.nepoch, tensors := good
              descs := (pieces 64 h.ndesc (bs.drop h.descAt)).map fun d => BitVec.ofNat 512 (leNat d)
              bundles := (pieces 128 h.nbundle (bs.drop h.bundleAt)).map fun d => BitVec.ofNat 1024 (leNat d) }

/-- The descriptor registers at program start (R21, R54). -/
def Image.startDescs (i : Image) : Sparse Desc :=
  spSetAll 0 [] (i.descs.zipIdx.map fun x => (x.2, x.1))

end Sys2Proof.Machine
end

