-- ==== Sys2Proof/Machine/Place.lean ====
section
/-! DEFINITION. Where plans lie (R13, R59-R61, R64, R77-R80, R171, R172, R178-R184, R195): the physical mesh, the
columns and spares of a partition, a binding's tiles, its alternates and its regions. -/

namespace Sys2Proof.Machine

/-! ### The mesh (R13, R77) -/

/-- The die of a physical tile (R257). -/
def dieOf (t : Fin 68) : Nat := t.val / 17

/-- A physical tile's place on its die: mesh position 4 × row + column, or 16 for the spare (R178; DEDUCED for the number
of the tile on its die, notes/assumptions/105.md). -/
def posOf (t : Fin 68) : Nat := t.val % 17

/-- The tile at row and column of the 8 × 8 mesh, die 0 at the top left (R13). -/
def meshTile (row col : Nat) : Fin 68 :=
  Fin.ofNat 68 (17 * (2 * (row / 4) + col / 4) + 4 * (row % 4) + col % 4)

/-- The spare of a die (R13). -/
def spareTile (d : Fin 4) : Fin 68 := Fin.ofNat 68 (17 * d.val + 16)

/-- A whole column of the mesh. -/
def meshCol (k : Nat) : PCol := ⟨k, (List.range 8).map fun r => meshTile r k⟩

/-- The seven columns of an LPX-MC56 whose tiles out of service do not lie in one column of the mesh, by those tiles
(FREE VALUE, notes/assumptions/105.md). -/
opaque Config.columns56 (out : List (Fin 68)) : List PCol

/-- The physical tile columns that a module has, from the west (R77). -/
def physCols (mc64 : Bool) (cfgOut : List (Fin 68)) : List PCol :=
  let mesh := (List.range 8).map meshCol
  let whole := mesh.filter fun c => c.tiles.all fun t => !cfgOut.contains t
  if mc64 then mesh else if whole.length = 7 then whole else (Config.columns56 cfgOut).take 7

/-! ### Partitions (R77, R80) -/

/-- Consecutive groups of columns. -/
def splitCols : List Nat → List PCol → List (List PCol)
  | [], _ => []
  | n :: ns, cs => cs.take n :: splitCols ns (cs.drop n)

/-- Which of the partitions with a tile on a die takes the die's spare at partition set-up, by place among them (FREE
VALUE, notes/assumptions/105.md). -/
opaque Config.spareOwner (cols : List Nat) (die : Nat) : Nat

/-- The partition to which a die's spare is assigned (R80). -/
def spareOwner (cols : List Nat) (phys : List PCol) (d : Fin 4) : Option Nat :=
  let fit := ((splitCols cols phys).zipIdx.filter fun x => x.1.any fun c => c.tiles.any fun t => decide (dieOf t = d.val)).map
    Prod.snd
  fit[Config.spareOwner cols d.val % fit.length]?

/-- The dies whose spares a partition of a set has (R80). -/
def sparesOf (cols : List Nat) (phys : List PCol) (p : Nat) : List (Fin 4) :=
  (List.finRange 4).filter fun d => decide (spareOwner cols phys d = some p)

/-- The columns of every partition of the set in force, from the west. -/
def Chip.setCols (c : Chip) : List Nat := (c.parts.toList.take c.nparts).map Part.cols

/-- The physical columns of a partition. -/
def Chip.partCols (c : Chip) (p : Fin 4) : List PCol :=
  (splitCols c.setCols (physCols c.mram.mc64 c.mram.cfgOut)).getD p.val []

/-! ### Bindings (R61, R182-R184) -/

/-- The tiles that a binding uses. -/
def Binding.tiles (b : Binding) : List (Fin 68) := b.cols.flatMap PCol.tiles

/-- A binding uses a tile. -/
def Binding.uses (b : Binding) (t : Fin 68) : Bool := b.tiles.contains t

/-- A healthy idle spare on a tile's die (R183). -/
def Binding.spareFor (b : Binding) (out : List (Fin 68)) (t : Fin 68) : Option (Fin 68) :=
  b.spares.find? fun s => decide (dieOf s = dieOf t) && !out.contains s

/-- How an alternate goes without a tile (R183). -/
inductive AltKind where
  | spare (s : Fin 68)
  | column (c : PCol)

/-- The first way that R183 allows, if any. -/
def Binding.altKind (b : Binding) (out : List (Fin 68)) (t : Fin 68) : Option AltKind :=
  match b.spareFor out t with
  | some s => some (.spare s)
  | none => if 2 ≤ b.cols.length then (b.cols.find? fun c => c.tiles.contains t).map AltKind.column else none

/-- A tile's mesh position taken by another. -/
def PCol.swap (c : PCol) (t s : Fin 68) : PCol := { c with tiles := c.tiles.map fun x => if x = t then s else x }

/-- The binding of an alternate. -/
def Binding.take (b : Binding) (t : Fin 68) (k : AltKind) : Binding :=
  match k with
  | .spare s => { cols := b.cols.map fun c => c.swap t s, spares := b.spares.filter fun x => x ≠ s }
  | .column c => { b with cols := b.cols.filter fun x => x.col ≠ c.col }

/-- The alternate without a tile. -/
def Binding.without (b : Binding) (out : List (Fin 68)) (t : Fin 68) : Option Binding := (b.altKind out t).map (b.take t)

/-- The binding goes without a tile that it uses, as R183 has it; without a way it stands. -/
def Binding.avoid (out : List (Fin 68)) (b : Binding) (t : Fin 68) : Binding :=
  if b.uses t then (b.without out t).getD { b with cols := b.cols.filter fun c => !c.tiles.contains t }
  else { b with spares := b.spares.filter fun s => s ≠ t }

/-- Every tile of the binding has its alternate (R182, R183). -/
def Binding.altsOk (b : Binding) (out : List (Fin 68)) : Bool :=
  !b.cols.isEmpty && b.tiles.all fun t => (b.altKind out t).isSome

/-- The binding of a plan on a partition: its columns without the tiles out of service, each replaced or its column
dropped in the way of R183, and the healthy spares assigned to it (R80, R184; DEDUCED, notes/assumptions/105.md). -/
def Chip.bindingOf (c : Chip) (p : Fin 4) : Binding :=
  let out := c.faults.tilesOut
  out.foldl (Binding.avoid out)
    { cols := c.partCols p, spares := (c.parts[p].spares.map spareTile).filter fun s => !out.contains s }

/-! ### Regions (R60, R63, R64, R78, R179) -/

/-- A region of the binding record: tile rows, tile columns, die edges crossed, column sub-pass, F, first bundle. -/
structure RegionEnt where
  a : Nat
  b : Nat
  d : Nat
  sub : Nat
  f : Nat
  bundle : Nat
  deriving DecidableEq

/-- The die edges that a region of `a` rows on some columns crosses (R63, R64). -/
def edgesOf (a : Nat) (cols : List PCol) : Nat :=
  (if 4 < a then 1 else 0) + (if (cols.any fun c => decide (c.col < 4)) && cols.any fun c => decide (4 ≤ c.col) then 1 else 0)

/-- The positions of a region that spares hold: each adds 4 cycles (R183). -/
def sparesIn (a : Nat) (cols : List PCol) : Nat :=
  ((cols.flatMap fun c => c.tiles.take a).filter fun t => decide (posOf t = 16)).length

/-- The sub-pass `s` of a pass: at most as many logical columns as the binding has, on its columns from the west (R64,
R78, R179). -/
def Binding.region (b : Binding) (p : Pass) (s : Nat) : RegionEnt :=
  let w := min b.cols.length (p.cols - s * b.cols.length)
  let cs := b.cols.take w
  let d := edgesOf p.rows cs
  ⟨p.rows, w, d, s, 512 * (p.rows + w) + 4 * d + 4 * sparesIn p.rows cs, p.bundle⟩

/-- The regions of a pass: one for each column sub-pass (R78). -/
def Binding.regionsOf (b : Binding) (p : Pass) : List RegionEnt :=
  if b.cols.isEmpty then []
  else (List.range ((p.cols + b.cols.length - 1) / b.cols.length)).map fun s => b.region p s

/-- Two entries name one region. -/
def RegionEnt.same (x y : RegionEnt) : Bool :=
  decide (x.a = y.a) && decide (x.b = y.b) && decide (x.d = y.d) && decide (x.sub = y.sub) && decide (x.f = y.f)

/-- Every region of a program, each with the least bundle of a pass bound to it. -/
def Binding.regions (b : Binding) (ps : List Pass) : List RegionEnt :=
  (ps.flatMap fun p => b.regionsOf p).foldl (fun xs r =>
    if xs.any (r.same ·) then xs.map fun x => if r.same x then { x with bundle := min x.bundle r.bundle } else x
    else xs ++ [r]) []

/-- FMAX: the largest F (R176). -/
def Binding.fmax (b : Binding) (ps : List Pass) : Nat := (b.regions ps).foldl (fun m r => max m r.f) 0

/-! ### The tile map (R59, R178, R179) -/

/-- The column sub-pass and the physical tile of a logical tile, if the binding has columns. -/
def Binding.tileOf (b : Binding) (l : Nat) : Option (Nat × Fin 68) :=
  let p := b.cols.length
  (b.cols[l % 8 % p]?).bind fun c => (c.tiles[l / 8]?).map fun t => (l % 8 / p, t)

/-! ### The placer's schedule (R171, R172, R179, R195) -/

/-- The inputs from which the placer binds a plan (R171). -/
structure PlacerIn where
  fwrel : W32
  image : Image
  sub : SubmitRec
  target : Option (Fin 4)
  /-- Columns, tiles and spares: the partition set, the tile health map and the spare assignment. -/
  binding : Binding
  turnMap : List TurnEnt
  slotTable : List SlotRec
  cap : W16
  kgen : W16
  imb : Byte
  /-- Stamps of the last calibration windows. -/
  cal : List Stamp
  /-- What other tenants and plans keep resident: the windows, and the tensors of the plans held. -/
  windows : List (Vector Window 16)
  held : List (List TensorEnt)

/-- The placer's schedule: a fixed function of its inputs within one firmware release (R172; FREE VALUE,
notes/assumptions/6.md). -/
opaque Config.placement (x : PlacerIn) : PlacerFig

/-- The stamps of the last calibration windows of every unit (R192). -/
def Chip.calStamps (c : Chip) : List Stamp :=
  c.calPc.toList.map CalState.last ++ c.calDqs.toList.map CalState.last ++ c.calZq.toList.map CalState.last ++
    c.calIsl.toList.map CalState.last

/-- The placer's inputs for a plan under a cap. -/
def Chip.placerIn (c : Chip) (p : Plan) (cap : W16) (imb : Byte) : PlacerIn :=
  { fwrel := c.boot.fwRel, image := p.image, sub := p.sub, target := p.part, binding := p.binding, turnMap := p.turnMap
    slotTable := p.slotTable, cap := cap, kgen := p.kgen, imb := imb, cal := c.calStamps
    windows := c.tenants.toList.map Tenant.windows
    held := (c.placer.bound.filter fun x => x.id ≠ p.id).map (fun x => x.image.tensors) ++
      (c.parts.toList.filterMap Part.run).map fun r => r.plan.image.tensors }

/-- A set point within the limits of R318. -/
def legalMhz (x : W16) : W16 := BitVec.ofNat 16 (max 275 (min 1100 x.toNat))

/-- A trace no segment of which exceeds the cap and whose power changes by at most 120 W from one segment to the next
(R195, R319); `prev`: the power of the segment before. -/
def legalTrace (cap : Nat) : Option Nat → List TraceSeg → List TraceSeg
  | _, [] => []
  | prev, x :: xs =>
    let want := min cap x.pwr.toNat
    let w := match prev with
      | none => want
      | some q => max (q - 120) (min (q + 120) want)
    { x with pwr := BitVec.ofNat 16 w, fset := x.fset.map legalMhz } :: legalTrace cap (some w) xs

/-- Stated times of step 0 and of the longest later step: none below 60 µs (R382). -/
def legalStep (x : W64) : W64 := BitVec.ofNat 64 (max 60000 x.toNat)

/-- A schedule within the bounds of R180, R195 and R382. -/
def PlacerFig.legal (f : PlacerFig) (cap : W16) : PlacerFig :=
  { f with
    step0Ns := legalStep f.step0Ns
    stepMaxNs := legalStep (BitVec.ofNat 64 (max f.step0Ns.toNat f.stepMaxNs.toNat))
    cmtMaxNs := BitVec.ofNat 32 (min 250000 f.cmtMaxNs.toNat)
    trace := legalTrace cap.toNat none f.trace
    alts := f.alts.map fun a => { a with
      step0Ns := legalStep a.step0Ns, stepMaxNs := legalStep (BitVec.ofNat 64 (max a.step0Ns.toNat a.stepMaxNs.toNat)), trace := legalTrace cap.toNat none a.trace } }

/-- The placer's schedule for a plan. -/
def Chip.schedule (c : Chip) (p : Plan) (cap : W16) (imb : Byte) : PlacerFig :=
  (Config.placement (c.placerIn p cap imb)).legal cap

/-- The stated times and trace of the alternate without a tile; those of the base binding where the schedule names
none. -/
def PlacerFig.alt (f : PlacerFig) (t : Fin 68) : AltFig :=
  (f.alts.find? fun a => a.lost = t).getD ⟨t, f.proNs, f.step0Ns, f.stepMaxNs, f.trace⟩

/-- The schedule after a switch to an alternate (R183, R196). -/
def PlacerFig.switch (f : PlacerFig) (t : Fin 68) : PlacerFig :=
  let a := f.alt t
  { f with proNs := a.proNs, step0Ns := a.step0Ns, stepMaxNs := a.stepMaxNs, trace := a.trace, alts := [] }

/-- PEAK_W: the highest segment of a trace (R176). -/
def PlacerFig.peak (f : PlacerFig) : Nat := f.trace.foldl (fun m x => max m x.pwr.toNat) 0

/-- The segment of a plan's trace for a step or the prologue; a later step that is not listed repeats step 0 (R178). -/
def PlacerFig.segment (f : PlacerFig) (step seg : W32) : Option TraceSeg :=
  let at_ := fun (s : W32) => f.trace.find? fun x => decide (x.step = s) && decide (x.seg = seg)
  if (f.trace.any fun x => x.step = step) || step = 0xFFFFFFFF then at_ step else at_ 0

/-! ### Set points (R195, R196, R318, R327) -/

/-- One set point of a segment, clamped to 1.1 GHz and to the voltage-frequency table (R318; FREE VALUE,
notes/assumptions/14.md). -/
def Chip.setPoint (c : Chip) (i : Fin 77) (mhz : Nat) : Chip :=
  let top := if i.val < 68 then min 1100 (Config.vfMhz i.val c.drawn) else 1100
  let l : Limiter := { c.limiter with
    traceSet := c.limiter.traceSet.set i (min mhz top)
    clampCount := if top < mhz then c.limiter.clampCount + 1 else c.limiter.clampCount }
  { c with limiter := l, drawn := c.drawn + 1 }

/-- The islands whose frequency a partition's plan sets: those of its columns and spares, and every island where the
array is not partitioned (R79, R195; DEDUCED, notes/assumptions/86.md). -/
def Chip.planIslands (c : Chip) (p : Fin 4) : List (Fin 77) :=
  (List.finRange 77).filter fun i => c.nparts = 1 ||
    ((c.partCols p).any fun k => k.tiles.any fun t => decide (t.val = i.val)) ||
    c.parts[p].spares.any fun d => decide ((spareTile d).val = i.val)

/-- The set point in MHz to which Chanter lowers an island in a segment whose predicted power exceeds a lowered cap
(R196, R327; FREE VALUE, notes/assumptions/86.md). -/
opaque Config.capMhz (plan : W16) (step seg : W32) (cap : W16) (island : Nat) : Nat

/-- The set point of an island in a segment: as bound, or lowered for the cap in force (R196, R320). -/
def Limiter.target (l : Limiter) (p : Plan) (x : TraceSeg) (i : Fin 77) : Nat :=
  match l.lowered with
  | some w =>
    if w.toNat < x.pwr.toNat then min x.fset[i].toNat (max 275 (Config.capMhz p.id x.step x.seg w i.val))
    else x.fset[i].toNat
  | none => x.fset[i].toNat

/-- The set points of a segment of a plan's trace come into force. -/
def Chip.setSegment (c : Chip) (p : Fin 4) (plan : Plan) (x : TraceSeg) : Chip :=
  (c.planIslands p).foldl (fun c i => c.setPoint i (c.limiter.target plan x i)) c

/-- The segments in force of every running plan set anew (R327). -/
def Chip.resetSegments (c : Chip) : Chip :=
  allParts.foldl (fun c p => match c.run p with
    | some r => match r.seg with
      | some x => c.setSegment p r.plan x
      | none => c
    | none => c) c

/-- A plan bound anew on the partition set in force (R81, R184): its tiles, its schedule, its alternates. -/
def Chip.rebind (c : Chip) (p : Plan) : Plan :=
  let b := c.bindingOf (p.part.getD 0)
  let p := { p with binding := b }
  { p with fig := c.schedule p c.limiter.capActive c.memObj.imb, altsReady := b.altsOk c.faults.tilesOut }

/-- A plan's target is one of the set in force. -/
def Chip.hasTarget (c : Chip) (p : Plan) : Bool :=
  match p.part with
  | none => decide (c.nparts = 1)
  | some q => decide (q.val < c.nparts)

end Sys2Proof.Machine
end

