-- ==== Sys2Proof/Machine/Commit.lean ====
section
/-! DEFINITION. Commit points and replay (R185, R186, R240, R241, R382): taking one, confirming them, the
bytes a plan overwrites since, and restoring the state from which a replay runs. -/

namespace Sys2Proof.Machine

/-- A commit set becomes the replay source 60 µs after it completed (R382). -/
def confirmNs : Nat := 60000

/-- A group as a commit point holds it. -/
def Group.point (g : Group) : GroupPt := { grp := g.grp, sqn := g.sqn, rx := g.rx, sent := g.retained.map Retained.hop }

/-- The commit point of a partition's present state (R186, R392); `bound`: at a step boundary. -/
def Chip.commitOf (c : Chip) (r : Running) (bound : Bool) : CommitPt :=
  { stage := .filling, stamp := c.drone.now, step := r.step, ctx := r.ctx, inPrologue := r.inPrologue, bound := bound
    past := (r.tenant c.tenants[r.plan.tenant]).pastOf, stepEpoch := r.stepEpoch, build := r.build, coll := r.coll
    toks := r.toks, counts := r.counts
    groups := (c.groups.filter fun g => g.ten = r.plan.tenant).map Group.point
    undo := [], redo := r.bwrites, done := r.done }

/-- A fill is complete before the next commit point begins (R186). -/
def CommitPt.fill (now : Stamp) (k : CommitPt) : CommitPt :=
  match k.stage with
  | .filling => { k with stage := .complete now }
  | _ => k

/-- A set that completed 60 µs ago with no detection since is confirmed (R382). -/
def CommitPt.confirm (now : Stamp) (k : CommitPt) : CommitPt :=
  match k.stage with
  | .complete t => if confirmNs ≤ (now - t).toNat then { k with stage := .confirmed } else k
  | _ => k

/-- Commit points older than the newest confirmed one are no longer needed. -/
def trimCommits : List CommitPt → List CommitPt
  | [] => []
  | k :: ks => if k.stage = .confirmed then [k] else k :: trimCommits ks

/-- The commit points of a running plan with those due confirmed. -/
def Running.settle (r : Running) (now : Stamp) : Running :=
  { r with commits := trimCommits (r.commits.map (CommitPt.confirm now)) }

/-! ### The imbalance counter (R190) -/

/-- The bytes on pseudo-channel `ch` over the intervals kept. -/
def channelBytes (moved : List (List (Fin 384 × Nat))) (ch : Nat) : Nat :=
  (moved.map fun l => ((l.filter fun x => x.1.val = ch).map Prod.snd).sum).sum

/-- The imbalance counter after an interval (R190): 64 intervals count; a mean below 64 MiB leaves it. -/
def MemObj.interval (m : MemObj) (moved : List (Fin 384 × Nat)) : MemObj :=
  let all := (moved :: m.moved).take 64
  let bs := (List.range 384).map (channelBytes all)
  let total := bs.sum
  let peak := bs.foldl max 0
  if total < 384 * 2 ^ 26 then { m with moved := all }
  else
    let imb := min 255 (100 * (384 * peak - total) / total)
    { m with moved := all, imb := BitVec.ofNat 8 imb, imbPeak := BitVec.ofNat 8 (max m.imbPeak.toNat imb) }

/-! ### Taking a commit point -/

/-- Lowered set points for a cap are applied at the first commit point after their computation (R196, R327). -/
def Chip.applyCap (c : Chip) : Chip :=
  match c.limiter.capJob with
  | some (w, _, true) =>
    if c.limiter.capPending then
      { c with limiter := { c.limiter with
          capPending := false, capApplied := c.drone.now, lowered := some w } }.resetSegments
    else c
  | _ => c

/-- A commit point of a partition's plan begins (R185, R186), with `moved` the tier-1 bytes of the interval that it ends
(R190). -/
def Chip.commitWith (c : Chip) (p : Fin 4) (bound : Bool) (moved : List (Fin 384 × Nat)) : Chip :=
  let c := c.applyCap
  match c.run p with
  | none => c
  | some r =>
    let filled := { r with commits := r.commits.map (CommitPt.fill c.drone.now) }
    let r' := filled.settle c.drone.now
    { c with memObj := c.memObj.interval moved }.setRun p
      (some { r' with commits := c.commitOf r bound :: r'.commits, bwrites := [] })

/-- The tier-1 bytes of a commit interval that ends at a boundary or an SY.CMT: the traffic is the placer's schedule
(FREE VALUE, notes/assumptions/100.md). -/
def Chip.traffic (c : Chip) (p : Fin 4) : List (Fin 384 × Nat) :=
  (List.range 384).map fun ch => (Fin.ofNat 384 ch, Config.channelTraffic p.val c.drone.now ch)

/-- A commit point at a step boundary (R185). -/
def Chip.commitAt (c : Chip) (p : Fin 4) : Chip := c.commitWith p true (c.traffic p)

/-- A commit point inside a step, from an SY.CMT (R52, R185). -/
def Chip.commit (c : Chip) (p : Fin 4) : Chip := c.commitWith p false (c.traffic p)

/-- A CMT within 60 µs of another commit point is merged into it (R382). -/
def Chip.commitDue (c : Chip) (r : Running) : Bool :=
  match r.commits with
  | [] => true
  | k :: _ => decide (confirmNs ≤ c.since k.stamp)

/-- The bytes that a list of writes overwrites, newest first, with what they held. -/
def undoOf (m : Mem) : List MemWrite → List (PAddr × Byte)
  | [] => []
  | w :: ws => undoOf (m.apply w) ws ++ [(w.addr, m.byte w.addr)]

/-- The newest commit point with a plan's overwritten bytes added (R186). -/
def Running.keepUndo (r : Running) (u : List (PAddr × Byte)) : Running :=
  match r.commits with
  | [] => r
  | k :: ks => { r with commits := { k with undo := u ++ k.undo } :: ks }

/-- Where a replay starts: its commit point, the points that stay, the bytes to put back in order, and the step
boundaries passed since, oldest first. -/
structure ReplaySrc where
  pt : CommitPt
  rest : List CommitPt
  undo : List (PAddr × Byte)
  crossed : List CommitPt

/-- The source of a replay: the newest confirmed commit point, else the oldest held (R382). -/
def replaySource : List CommitPt → Option ReplaySrc
  | [] => none
  | [k] => some ⟨k, [{ k with undo := [] }], k.undo, []⟩
  | k :: ks =>
    if k.stage = .confirmed then some ⟨k, { k with undo := [] } :: ks, k.undo, []⟩
    else (replaySource ks).map fun x =>
      { x with undo := k.undo ++ x.undo, crossed := if k.bound then x.crossed ++ [k] else x.crossed }

/-- A running plan set back to a commit point. Boundaries passed since wait to be reached again; until then the program
works on what the commit point holds of its tenant. -/
def Running.rewind (r : Running) (x : ReplaySrc) : Running :=
  let crossed := x.crossed ++ r.crossed
  { r with
    inPrologue := x.pt.inPrologue, step := x.pt.step, ctx := x.pt.ctx, build := x.pt.build, coll := x.pt.coll
    counts := x.pt.counts, toks := x.pt.toks, commits := x.rest, stepEpoch := x.pt.stepEpoch, atBoundary := x.pt.bound, done := x.pt.done
    crossed := crossed, past := if crossed.isEmpty then none else some x.pt.past, bwrites := [] }

/-- A tenant's part of a commit set, set back. Requests are the serving plan's. -/
def Tenant.rewind (t : Tenant) (serves : Bool) (x : Past) : Tenant :=
  { t with slots := if serves then x.slots else t.slots, scale := x.scale, layers := x.layers }

/-- The state of a tenant from which the step in progress, or the one that a replay comes back to, goes on: that of its
newest boundary where the replay starts before it. -/
def ReplaySrc.live (x : ReplaySrc) (r : Running) : Past :=
  match (x.crossed ++ r.crossed).getLast? with
  | some k => k.past
  | none => x.pt.past

/-- The state set back to the commit point from which a partition replays (R240, R384, R388). -/
def State.restore (s : State) (p : Fin 4) : State :=
  match s.chip.run p with
  | none => s
  | some r =>
    match replaySource r.commits with
    | none => s
    | some x =>
      { s with
        mem := (s.mem.putAll x.undo).heal (x.undo.map fun u => wordOf u.1)
        chip :=
          let c := s.chip.setRun p (some (r.rewind x))
          let c := c.modTenant r.plan.tenant fun t => t.rewind r.plan.req.isSome (x.live r)
          x.pt.groups.foldl (fun c y => c.modGroup y.grp fun g => { g with sqn := y.sqn }) c }

/-- The stamp and step of the commit point from which a partition would replay. -/
def Running.replayPoint (r : Running) : Stamp × W32 :=
  match replaySource r.commits with
  | some x => (x.pt.stamp, x.pt.step)
  | none => (0, r.step)

/-- The codeword's data have been overwritten since the point from which a replay would run: its commit copy is the second
copy in the commit set (R241). -/
def Running.copied (r : Running) (k : PAddr) : Bool :=
  match replaySource r.commits with
  | some x => x.undo.any fun u => decide (wordOf u.1 = k)
  | none => false

/-- A replay has come past the bundle at which issue had stopped: what it owes is reported (R240, R247, R386). -/
def Chip.replayOver (c : Chip) (p : Fin 4) : Chip :=
  match c.run p with
  | none => c
  | some r =>
    let c := c.setRun p (some { r with replayTo := none, owed := none })
    match r.owed with
    | none => c
    | some u =>
      { c with memObj := { c.memObj with lastUeOutcome := 0x0032 } }.event (.vf r.plan.tenant)
        { c.entry (c.coreSrc 0) with
          status := 0x0032, plan := r.plan.id, step := r.step, arg0 := u.unit.setWidth 64, arg1 := u.tDet }

/-- A replay that the plan has gone through is over. -/
def Chip.replayCheck (c : Chip) (p : Fin 4) : Chip :=
  match c.run p with
  | some r => match r.replayTo with
    | some n => if n < r.done then c.replayOver p else c
    | none => c
  | none => c

/-- The step that the tenant's commands see: the one in progress, or the one that a replay comes back to. -/
def Running.liveStep (r : Running) : W32 :=
  match r.crossed.getLast? with
  | some k => k.step
  | none => r.step

/-- The prologue has not ended, as the tenant's commands see it. -/
def Running.livePrologue (r : Running) : Bool := r.inPrologue && r.crossed.isEmpty

end Sys2Proof.Machine
end

