-- ==== Sys2Proof/Machine/Finish.lean ====
section
/-! DEFINITION. How plans end and start: final result entries (R222), lost micro-batches (R158), releasing
copies (R212-R214), tenant faults (R388), the end of a plan (R20), and the start of an incoming plan's
prologue (R18, R191, R206). -/

namespace Sys2Proof.Machine

/-! ### Records and entries -/

def FaultRec.bytes (f : FaultRec) : List Byte :=
  leBytes 2 f.kind ++ leBytes 2 f.status.toNat ++ [f.part, f.ten] ++ leBytes 2 f.plan.toNat ++
  leBytes 4 f.step.toNat ++ leBytes 4 f.unit.toNat ++ [f.det, 0, 0, 0] ++ leBytes 4 f.bidx.toNat ++
  leBytes 8 f.tDet.toNat ++ leBytes 8 f.tSwitch.toNat ++ leBytes 8 f.tResume.toNat ++
  leBytes 8 f.tCommit.toNat ++ leBytes 8 f.tRebound.toNat ++ List.replicate 160 0

/-- The partition byte of a record: 0xFF for the full array (R395). -/
def Plan.partByte (p : Plan) : Byte :=
  match p.part with
  | none => 0xFF
  | some i => BitVec.ofNat 8 i.val

/-- The FAULT record of an interruption as it begins, with the stamp and step of the commit point from which it replays
(R395). -/
def Running.recordOf (r : Running) (i : Interrupt) (commit : Stamp × W32) : FaultRec :=
  { kind := 1, status := 0x0032, part := r.plan.partByte, ten := BitVec.ofNat 8 r.plan.tenant.val, plan := r.plan.id
    step := commit.2, unit := i.unit, det := i.det, bidx := i.bidx, tDet := i.tDet, tSwitch := 0, tResume := 0
    tCommit := commit.1, tRebound := 0 }

/-- FSTATE changes signal vector 6 (R304). -/
def Chip.setFState (c : Chip) (t : Fin 16) (st : FState) : Chip :=
  if c.tenants[t].fstate = st then c
  else (c.modTenant t fun x => { x with fstate := st }).signal (.vf t) 6

/-- A NOTOKEN final entry (R222, R223). -/
def Chip.noToken (c : Chip) (r : Running) (slot : Nat) (q : ReqSlot) (status : W16) (stop : Byte) : ResEntry :=
  { stamp := c.drone.now, tag := q.tag, token := 0xFFFFFFFF, logp := 0x7FC00000, tidx := q.published
    step := r.liveStep, slot := BitVec.ofNat 16 slot, wepoch := q.wepoch
    plan := r.plan.id, status := status, aepoch := q.aepoch, nepoch := r.plan.image.nepoch, sflags := 0
    stop := stop, rflags := 3 }

/-- Result entries published in order, and the result vector signalled once (R224). -/
def Chip.publish (c : Chip) (t : Fin 16) (es : List ResEntry) : Chip :=
  if es.isEmpty then c
  else
    let c := es.foldl (fun c e => c.post (.vf t) 11 (.res e)) c
    if c.ringOpen (.vf t) 11 then c.signal (.vf t) 1 else c

/-- What a boundary publishes (R224): the step's token entries in emission order, and its NOTOKEN final entries by slot. -/
structure StepOut where
  toks : List ResEntry
  finals : List (Nat × ResEntry)

/-- A boundary that publishes nothing. -/
def StepOut.empty : StepOut := ⟨[], []⟩

/-- Entries put into ascending slot order. -/
def bySlot : List (Nat × ResEntry) → List (Nat × ResEntry)
  | [] => []
  | x :: xs => let ys := bySlot xs; (ys.filter fun y => y.1 < x.1) ++ x :: ys.filter fun y => x.1 ≤ y.1

/-- The entries in the order of R224. -/
def StepOut.entries (o : StepOut) : List ResEntry := o.toks ++ (bySlot o.finals).map Prod.snd

/-- Every pending admission of a tenant completes with a status (R222, R300, R388, R391). -/
def Chip.failAdmissions (c : Chip) (t : Fin 16) (status : W16) : Chip :=
  let c' := c.modTenant t fun x => { x with pendAdm := [] }
  c.tenants[t].pendAdm.foldl (fun c a => c.complete a.src status a.plan 0 0) c'

/-- Micro-batches of a plan for steps it never reaches, from step `first` on: one event entry each; every
micro-batch of the plan is released (R158). -/
def Chip.loseBatches (c : Chip) (t : Fin 16) (plan : W16) (first : Nat) (status : W16) : Chip :=
  let mine := c.tenants[t].mbatches.filter fun b => b.plan = plan
  let lost := mine.filter fun b => first ≤ b.step.toNat
  let c := lost.foldl (fun c b => c.event (.vf t)
    { c.entry (c.ringSrc (.vf t) b.src.ring.val) with
      status := status, plan := plan, step := b.step, arg0 := b.src.cid.setWidth 64
      arg1 := BitVec.ofNat 64 b.slot.val }) c
  c.modTenant t fun x => { x with mbatches := x.mbatches.filter fun b => b.plan ≠ plan }

/-! ### Copies (R206, R212, R213) -/

/-- Requests pinned to a copy (R212). -/
def Tenant.refs (t : Tenant) (k : EpochCopy) : Nat :=
  (t.slots.filter fun x => x.2.pin && match k.adapter with
    | none => decide (x.2.wepoch = k.epoch)
    | some (aid, _) => decide (x.2.aid = aid) && decide (x.2.aepoch = k.epoch)).length

/-- The step epochs of a tenant's steps in progress in partitions other than `p`: each holds a reference to its weight copy
(R212). -/
def Chip.busyEpochs (c : Chip) (p : Fin 4) (t : Fin 16) : List W16 :=
  allParts.filterMap fun q => match c.run q with
    | some r => if q ≠ p ∧ r.plan.tenant = t ∧ !r.inPrologue then some r.stepEpoch else none
    | none => none

/-- The copies after those RETAINED without a reference have turned FREE (R212); `busy`: the weight epochs that a step in
progress refers to. -/
def Tenant.freeRetained (t : Tenant) (busy : List W16) : Tenant :=
  { t with copies := t.copies.filter fun k =>
      !(decide (k.state = .retained) && decide (t.refs k = 0) && !(k.adapter.isNone && busy.contains k.epoch)) }

/-- The RETAINED copies of a tenant to which nothing refers turn FREE, at the end of a step of partition `p`. -/
def Chip.freeRetained (c : Chip) (p : Fin 4) (t : Fin 16) : Chip :=
  let busy := c.busyEpochs p t
  c.modTenant t fun x => x.freeRetained busy

/-- The adapter ID of a copy, none for a weight copy. -/
def EpochCopy.aid (k : EpochCopy) : Option W16 := k.adapter.map Prod.fst

/-- The copy of an epoch of the weight set or of an adapter ID, in any state other than FREE. -/
def Tenant.copyOf (t : Tenant) (aid : Option W16) (epoch : W16) : Option EpochCopy :=
  t.copies.find? fun k => decide (k.aid = aid) && decide (k.epoch = epoch)

/-- A copy turns FREE. -/
def Tenant.dropCopy (t : Tenant) (aid : Option W16) (epoch : W16) : Tenant :=
  { t with copies := t.copies.filter fun k => !(decide (k.aid = aid) && decide (k.epoch = epoch)) }

/-- RETIREs whose copy has turned FREE complete (R213). -/
def Chip.settleRetires (c : Chip) (t : Fin 16) : Chip :=
  let gone := fun (x : PendRetire) => (c.tenants[t].copyOf x.aid x.epoch).isNone
  let due := c.tenants[t].retires.filter gone
  let c := c.modTenant t fun x => { x with retires := x.retires.filter fun y => !gone y }
  due.foldl (fun c x => c.complete x.src 0 0 (x.epoch.setWidth 32) 0) c

/-! ### The free partition, the incoming plan -/

/-- A bound plan by its ID. -/
def Placer.plan (pl : Placer) (id : W16) : Option Plan := pl.bound.find? fun x => x.id = id

/-- The interleave key and its generation rotate (R189, R191). -/
def Chip.rotateKey (c : Chip) : Chip :=
  let (bits, c) := c.draw256
  { c with memObj := { c.memObj with
      key := bits.setWidth 128, prevKey := c.memObj.key, kgen := c.memObj.kgen + 1, rotPending := true
      rotCount := c.memObj.rotCount + 1, lastRot := c.drone.now, imbPeak := 0 } }

/-- A bank slot that no adapter copy holds: the module chooses which (R211; FREE VALUE, notes/assumptions/17.md). -/
def Tenant.freeBank (t : Tenant) : Option (Fin 256) :=
  let free := (List.range 256).filter fun b => t.copies.all fun k => match k.adapter with
    | some (_, x) => decide (x.val ≠ b)
    | none => true
  free[Config.bankPick free % free.length]?.map fun b => Fin.ofNat 256 b

/-- The tensors of a copy that a turn map fills: those of the plan's image with the role, whole and zero. -/
def Image.copyTensors (i : Image) (adapter : Bool) (tids : List (BitVec 20)) : List CopyTensor :=
  (i.tensors.filter fun e => tids.contains e.tid &&
    (if adapter then decide (e.role = .adapter) else decide (e.role = .weight) || decide (e.role = .scale))).map
    fun e => { tid := e.tid, count := e.count.toNat, fmt := e.fmt, cells := [] }

/-- The window of the first tensor among those that a copy holds. -/
def Image.copyWin (i : Image) (ts : List CopyTensor) : Fin 16 :=
  ((ts.head?.bind fun x => i.tensor x.tid).map TensorEnt.win).getD 0

/-- The scale tensor of a CONVERT entry's destination: that of the first descriptor of the image that names
it (DEDUCED, notes/assumptions/31.md). -/
def Image.convDesc (i : Image) (tid : BitVec 20) : Option Desc :=
  i.descs.find? fun d => decide (Desc.tid d = tid) && (Desc.fmt d).isSome

/-- The tensors that a turn map writes: each DTID, and the scale tensor of a converted one. -/
def Image.stagedTids (i : Image) (map : List TurnEnt) : List (BitVec 20) :=
  map.flatMap fun e =>
    if e.kind = (3 : Byte) then []
    else e.dtid :: (match i.convDesc e.dtid with
      | some d => if e.convert && Desc.scaled d then [Desc.stid d] else []
      | none => [])

/-- The tensors that a plan's turn map writes. -/
def Plan.stagedTids (p : Plan) : List (BitVec 20) := p.image.stagedTids p.turnMap

/-- A copy that a prologue begins to stage (R205, R206). -/
def Plan.stagedCopy (p : Plan) (adapter : Option (W16 × Fin 256)) (epoch : W16) : EpochCopy :=
  let ts := p.image.copyTensors adapter.isSome p.stagedTids
  { adapter := adapter, epoch := epoch, state := .filling, win := p.image.copyWin ts, tensors := ts, retainedFor := 0 }

/-- Epoch `a` is newer than epoch `b` (R200). -/
def newer (a b : W16) : Bool := let d := (a - b).toNat; decide (1 ≤ d) && decide (d ≤ 32767)

/-- The epochs that a tenant holds of a set (R199, R200, R206). -/
def Tenant.heldEpochs (t : Tenant) (aid : Option W16) : List W16 := (t.copies.filter fun k => k.aid = aid).map EpochCopy.epoch

/-- The epoch rule of R200. -/
def epochOk (held : List W16) (epoch : W16) : Bool := decide (epoch ≠ 0) && held.all fun e => newer epoch e

/-- Bank slots in use (R199, R211). -/
def Tenant.bankUsed (t : Tenant) : Nat := (t.copies.filter fun k => k.adapter.isSome).length

/-- The sets and epochs that a submit stages (R201, R301). -/
def SubmitRec.stages (x : SubmitRec) : List (Option W16 × W16) :=
  (if x.wepoch = 0 then [] else [(none, x.wepoch)]) ++ x.astage.map fun a => (some a.1, a.2)

/-- A copy that a prologue stages turns FILLING; none where an epoch taken since the submit was judged, or a limit, stands
in its way (R199, R200, R206; DESIGN CHOICE, notes/assumptions/33.md). -/
def Tenant.stage (t : Tenant) (p : Plan) (a : Option W16 × W16) : Option Tenant :=
  if !epochOk (t.heldEpochs a.1) a.2 then none
  else match a.1 with
    | none => if 4 ≤ (t.heldEpochs none).length then none else some { t with copies := p.stagedCopy none a.2 :: t.copies }
    | some aid => t.freeBank.map fun b => { t with copies := p.stagedCopy (some (aid, b)) a.2 :: t.copies }

/-- The copies that a submit stages turn FILLING as its prologue begins (R205, R206); those that did. -/
def Chip.beginStaging (c : Chip) (p : Plan) : Chip × List (Option W16 × W16) :=
  p.sub.stages.foldl (fun x a => match x.1.tenants[p.tenant].stage p a with
    | some t => (x.1.modTenant p.tenant fun _ => t, x.2 ++ [a])
    | none => x) (c, [])

/-- A running plan at the start of its prologue (R18, R21). -/
def Plan.run (p : Plan) (now : Stamp) (hold : Bool) : Running :=
  { plan := p, inPrologue := true
    step := match p.restored with
      | some x => x.step
      | none => 0
    ctx := match p.restored with
      | some x => x.ctx
      | none => Ctx.initial p.image.startDescs
    build := none, holds := if hold then [.paused] else [], counts := StepCounts.zero now, toks := [], commits := []
    coll := none, intr := none, turn := none, halt := none, altsReady := p.altsReady, spareLost := []
    stepEpoch := 0, atBoundary := false, crossed := [], past := none, bwrites := [], staging := [], seg := none
    edge := [], edgeSent := [], chain := Plane.zero, staged := [], done := 0, replayTo := none, owed := none, faultRec := none }

/-- A plan's own bundles resume at the saved state of the tenant (R393). -/
def Tenant.reload (t : Tenant) (x : Saved) : Tenant :=
  { t with
    slots := x.slots, used := (x.slots.map Prod.fst) ++ t.used, layers := x.layers, scale := x.scale
    copies := x.copies.filter fun k => decide (k.state ≠ .filling), switches := x.switches }

/-- A tenant's state with a restored context loaded: requests, monitor, scale, copies and groups (R393). -/
def Chip.loadSaved (c : Chip) (t : Fin 16) (x : Option Saved) : Chip :=
  match x with
  | none => c
  | some x =>
    let c := c.modTenant t fun y => y.reload x
    { c with groups := (c.groups.filter fun g => g.ten ≠ t) ++ x.groups }

/-- The first commit point of a plan, confirmed as it is taken: nothing stands before it. -/
def Chip.firstCommit (c : Chip) (p : Fin 4) : Chip :=
  match c.run p with
  | none => c
  | some r => c.setRun p (some { r with commits := [{ c.commitOf r false with stage := .confirmed }] })

/-- The bits of an element of a turn-map entry's source: element `off` of the source tensor of tenant `t`. -/
def Tenant.sourceBits (t : Tenant) (m : Mem) (e : TurnEnt) (off : Nat) : W32 :=
  match e.src with
  | .home w o =>
    match Fmt.ofCode e.sfmt with
    | some f => t.elemBits m w o f off
    | none => 0
  | .weights _ =>
    match t.copies.find? fun k => k.adapter.isNone && decide (k.state = .current) with
    | some k => k.elem e.stid off
    | none => 0
  | .bank _ size => t.bankElem e.stid size off

/-- The frames of a turn map's KIND 3 entries: the i-th one to a rank of a group is transfer i (R173, R288). -/
def transferFrames (t : Tenant) (m : Mem) (p : Plan) (e : TurnEnt) (i : Nat) (rank : Nat) : List DataFrame :=
  match Fmt.ofCode e.sfmt with
  | none => []
  | some f =>
    let bits := (List.range e.count.toNat).map fun k => t.sourceBits m e (e.soff.toNat + k)
    hopFrames
      { hdr := ⟨0, false, false, false, false, 0, 0⟩, psn := 0, fcsOk := true, hchk := 0, stream := []
        pkt := { stamp := 0, tid := e.stid, offset := 0, tenant := BitVec.ofNat 4 p.tenant.val, wepoch := 0
                 nepoch := p.image.nepoch, plan := p.id, step := 0xFFFFFFFF, last := false, switch := false
                 nonfinite := false, replay := false, latency := false, mixedOk := false }
        grp := e.grp, srank := BitVec.ofNat 16 rank, sqn := BitVec.ofNat 32 i, kind := 0x10, phase := .direct
        hop := 0, pfmt := (f.code).setWidth 8, mismatch := false, elems := [] }
      f bits fun k => e.soff.toNat + k

/-- The place of a turn-map entry among those of its kind, group and rank (R288). -/
def transferIdx (map : List TurnEnt) (n : Nat) (e : TurnEnt) : Nat :=
  ((map.take n).filter fun x => decide (x.kind = e.kind) && decide (x.grp = e.grp) && decide (x.rank = e.rank)).length

/-- A prologue's sends (R288). Each stays retained until its receiver has acknowledged it (R289). -/
def State.sendTransfers (s : State) (p : Plan) : State :=
  let t := s.chip.tenants[p.tenant]
  (p.turnMap.zipIdx).foldl (fun s x =>
    match s.chip.group x.1.grp with
    | none => s
    | some g =>
      if x.1.kind = (3 : Byte) ∧ g.ten = p.tenant ∧ !g.dead then
        let i := transferIdx p.turnMap x.2 x.1
        let fs := transferFrames t s.mem p x.1 i g.rank
        s.on fun c => (c.sendHop (g.portsTo x.1.rank.toNat) i fs).modGroup g.grp fun y =>
          { y with retained := y.retained ++ fs.map fun f => ⟨⟨g.grp, f.sqn, .direct, 0⟩, x.1.rank, f⟩ }
      else s) s

/-- A waiting incoming plan may start: no plan runs, the driver is present, no module fault, its alternates are all bound,
and no PART_SET waits for the partitions to end their plans (R18, R81, R182, R307, R389). -/
def Chip.mayStart (c : Chip) (p : Fin 4) : Option (Plan × CmdSrc) :=
  match c.parts[p].waiting, c.run p with
  | some (id, src), none =>
    if c.driverAway || c.faults.mfault || c.partPending.isSome then none
    else match c.placer.plan id with
      | some x => if x.altsReady then some (x, src) else none
      | none => none
  | _, _ => none

/-- A program uses the finished-tile queue (R119). -/
def Image.usesQueue (i : Image) : Bool :=
  i.bundles.any fun b => (bundleOps 0 b).any fun x => match x.2 with
    | .drn _ o => o.ftq
    | .vftq _ _ => true
    | _ => false

/-- Bytes of a tile's scratchpad that a plan reserves for partial sums and for the finished-tile queue (R84, R119, R235). -/
def Plan.spBytes (p : Plan) : Nat := 2 ^ 21 + if p.image.usesQueue then 2 ^ 22 else 0

/-- A plan of a tenant first uses a tile: its scratchpad is written with zeros where another tenant's plan used it last
(R236). -/
def TileSp.use (t : Fin 16) (bytes : Nat) (x : TileSp) : TileSp :=
  { last := some t, zeroed := decide (x.last ≠ some t), reserved := bytes, users := t :: x.users.filter fun y => y ≠ t }

/-- Tiles that a plan comes to use. -/
def Chip.useTiles (c : Chip) (p : Plan) (ts : List (Fin 68)) : Chip :=
  { c with sp := ts.foldl (fun v t => vecMod v t (TileSp.use p.tenant p.spBytes)) c.sp }

/-- The incoming plan that a TURN named starts, if its partition is free: its prologue begins (R17, R18,
R191, R300). -/
def State.startWaiting (s : State) (p : Fin 4) : State :=
  match s.chip.mayStart p with
  | none => s
  | some (plan, src) =>
    let s := s.on fun c =>
      let c := { c with placer := { c.placer with bound := c.placer.bound.filter fun x => x.id ≠ plan.id } }
      let c := if plan.rotate ∧ c.memObj.kgen ≠ plan.kgen then c.rotateKey else c
      let (c, staged) := c.beginStaging plan
      let c := (plan.turnMap.filter fun e => e.kind = 2 || e.kind = 3).foldl (fun c e => c.touch e.grp) c
      let c := c.modPart p fun x => { x with run := some { plan.run c.drone.now false with staging := staged }, waiting := none }
      let c := (c.useTiles plan plan.binding.tiles).modTenant plan.tenant fun t => { t with faulted := none, fault := false }
      let c := (c.setFState plan.tenant .running).firstCommit p
      c.complete src 0 plan.id 0 c.drone.now
    s.sendTransfers plan

/-- A TURN that waits for a plan whose target the partition set in force has not completes with BUSY (R300; DEDUCED,
notes/assumptions/46.md). -/
def Chip.refuseTarget (c : Chip) (p : Fin 4) : Chip :=
  match c.parts[p].waiting with
  | some (id, src) => match c.placer.plan id with
    | some x => if c.hasTarget x then c else (c.modPart p fun y => { y with waiting := none }).complete src 0x0002 id 0 0
    | none => c
  | none => c

/-- A waiting PART_SET takes effect once no partition runs a plan: the columns, the spares, and the bound plans of its
targets bound anew (R80, R81, R300; DEDUCED for the plans bound before, notes/assumptions/46.md). -/
def Chip.applyPartSet (c : Chip) : Chip :=
  match c.partPending with
  | none => c
  | some (cols, src) =>
    if allParts.all fun p => (c.run p).isNone then
      let phys := physCols c.mram.mc64 c.mram.cfgOut
      let c := { c with
        partPending := none, nparts := cols.length
        parts := Vector.ofFn fun i : Fin 4 => { c.parts[i] with cols := cols.getD i.val 0, spares := sparesOf cols phys i.val } }
      let c := { c with placer := { c.placer with
        bound := c.placer.bound.map fun p => if c.hasTarget p then c.rebind p else p } }
      (allParts.foldl Chip.refuseTarget c).done src 0
    else c

/-- Once every running plan is held for the absent driver, every frame carries HOST_ABSENT (R278, R290; DEDUCED
for several partitions, notes/assumptions/41.md). -/
def Chip.settleAbsent (c : Chip) : Chip :=
  if c.driverAway && allParts.all fun p => match c.run p with
    | some r => r.holds.contains .paused
    | none => true
  then { c with driver := { c.driver with hostAbsent := true } } else c

/-- A partition has lost its plan: the TURN it held passes to the partition, a waiting PART_SET is judged,
and the incoming plan starts. -/
def State.freePart (s : State) (p : Fin 4) : State :=
  let s := s.on fun c =>
    let turn := (c.run p).bind Running.turn
    ((c.modPart p fun x => { x with run := none, waiting := if turn.isSome then turn else x.waiting }).applyPartSet).settleAbsent
  allParts.foldl State.startWaiting s

/-! ### Ends -/

/-- The collectives and transfers of a plan that are in progress: the group of its COLL, and during its
prologue those of its turn map (R279, R280). -/
def Chip.busyGroups (c : Chip) (r : Running) : List Group :=
  let names := (match r.coll with
    | some x => [x.grp]
    | none => []) ++
    (if r.inPrologue then (r.plan.turnMap.filter fun e => e.kind = 2 || e.kind = 3).map TurnEnt.grp else [])
  c.groups.filter fun g => names.contains g.grp && !g.dead

/-- A plan's collectives end at once and its partners are told (R280). -/
def Chip.abortBusy (c : Chip) (r : Running) (cause : W16) : Chip :=
  (c.busyGroups r).foldl (fun c g => (c.endGroup g [] 0x0040 cause).countLost none 0) c

/-- The collectives in progress of the plan that a partition runs end at once (R280). -/
def Chip.abortRun (c : Chip) (cause : W16) (p : Fin 4) : Chip :=
  match c.run p with
  | some r => c.abortBusy r cause
  | none => c

/-- The logical context of a running plan with what a context image holds of its tenant (R392). -/
def Chip.saveOf (c : Chip) (r : Running) (atBoundary : Bool) : Saved :=
  let t := r.tenant c.tenants[r.plan.tenant]
  { tag := c.drawn, hwgen := r.plan.image.hwgen, nepoch := r.plan.image.nepoch, image := r.plan.image
    plan := r.plan.id, step := r.step, ctx := r.ctx, atBoundary := atBoundary, stamp := c.drone.now
    slots := t.slots, layers := t.layers, scale := t.scale, copies := t.copies, switches := t.switches
    groups := (c.groups.filter fun g => g.ten = r.plan.tenant).map fun g => { g with rx := [], retained := [] } }

/-- The rebinding of a partition's running plan is no longer due; that of its bound plans is (R184, R387). -/
def Placer.dropRebind (x : Placer) (p : Fin 4) : Placer :=
  if x.bound.any fun b => decide (b.part.getD 0 = p) && !b.altsReady then x
  else { x with rebinds := x.rebinds.filter fun y => y ≠ p }

/-- What a tenant fault reports (R388, R395). -/
structure FaultInfo where
  status : W16
  det : Byte
  unit : W32
  bidx : W32
  slot : Byte
  cause : W64
  tDet : Stamp

/-- Steps 2 to 4 of R388, after the restore, but for the plan itself: its tenant FAULTED. -/
def Chip.faultOut (c : Chip) (p : Fin 4) (r : Running) (lostFrom : Nat) (commit : Stamp × W32) (f : FaultInfo) : Chip :=
  let t := r.plan.tenant
  let saved := c.saveOf r false
  let c := c.modTenant t fun x =>
    { x with
      faulted := some saved, fault := true
      saves := x.saves.map fun v => if v.taken.isNone then { v with taken := some saved } else v }
  let c := { c with drawn := c.drawn + 1 }
  let c := ((c.setFState t .faulted).raise (Fin.ofNat 128 (32 + t.val))).signal (.vf t) 5
  let finals := c.tenants[t].slots.map fun x => c.noToken r x.1 x.2 f.status 0
  let c := c.publish t finals
  let c := (c.modTenant t fun x => { x with slots := [] }).freeRetained p t
  let c := (c.failAdmissions t f.status).settleRetires t
  let c := c.loseBatches t r.plan.id lostFrom f.status
  let c := c.event (.vf t)
    { c.entry (c.coreSrc 0) with
      status := f.status, plan := r.plan.id, step := r.step
      arg0 := BitVec.ofNat 64 (f.bidx.toNat * 2 ^ 32 + f.slot.toNat * 2 ^ 24), arg1 := f.tDet
      arg2 := BitVec.ofNat 64 (f.unit.toNat * 2 ^ 32 + commit.2.toNat), arg3 := f.cause }
  let c := c.hbForm 0x0060 false (c.hubSrc 0)
    (FaultRec.bytes
      { kind := 2, status := f.status, part := r.plan.partByte, ten := BitVec.ofNat 8 t.val, plan := r.plan.id
        step := commit.2, unit := f.unit, det := f.det, bidx := f.bidx, tDet := f.tDet, tSwitch := 0, tResume := 0
        tCommit := commit.1, tRebound := 0 })
  { c with
    faults := { c.faults with tfaultCount := c.faults.tfaultCount + 1 }
    memObj := if f.status = 0x0030 then { c.memObj with ueFault := c.memObj.ueFault + 1 } else c.memObj
    placer := c.placer.dropRebind p }

/-- A tenant fault of a tenant that runs no plan (R383, R388, R389; DEDUCED, notes/assumptions/112.md): nothing stops and
nothing is restored. -/
def Chip.idleFault (c : Chip) (t : Fin 16) (unit : W32) (det : Byte) (cause : W64) : Chip :=
  let c := c.modTenant t fun x => { x with fault := true }
  let c := ((c.setFState t .faulted).raise (Fin.ofNat 128 (32 + t.val))).signal (.vf t) 5
  let c := c.event (.vf t)
    { c.entry (c.coreSrc 0) with
      status := 0x0031, arg0 := 0xFF000000, arg1 := c.drone.now, arg2 := BitVec.ofNat 64 (unit.toNat * 2 ^ 32), arg3 := cause }
  let c := c.hbForm 0x0060 false (c.hubSrc 0)
    (FaultRec.bytes
      { kind := 2, status := 0x0031, part := 0xFF, ten := BitVec.ofNat 8 t.val, plan := 0, step := 0, unit := unit, det := det
        bidx := 0, tDet := c.drone.now, tSwitch := 0, tResume := 0, tCommit := 0, tRebound := 0 })
  { c with faults := { c.faults with tfaultCount := c.faults.tfaultCount + 1 } }

/-- A tenant fault in a partition (R388): the collectives in progress end, the last complete commit set is
restored where `sound`, the tenant is FAULTED, and the plan is gone. -/
def State.tenantFault (s : State) (p : Fin 4) (f : FaultInfo) (sound : Bool) : State :=
  match s.chip.run p with
  | none => s
  | some r =>
    let lostFrom := if r.livePrologue then 0 else r.liveStep.toNat + 1
    let commit := r.replayPoint
    let s := s.on fun c => c.abortBusy r f.status
    let s := if sound then s.restore p else s
    match s.chip.run p with
    | none => s
    | some r' => (s.on fun c => c.faultOut p r' lostFrom commit f).freePart p

/-- The end of a plan at a boundary (R20, R222, R391): the requests still active get final entries with
`reqStatus`, pending admissions complete with it, micro-batches not reached are reported with it, and the
plan is over; the partition is freed by `State.endPlan`. `out`: what the boundary publishes besides. -/
def Chip.endPlan (c : Chip) (p : Fin 4) (r : Running) (firstLost : Nat) (reqStatus : W16) (out : StepOut) : Chip :=
  let t := r.plan.tenant
  let c := if r.plan.req.isSome then
      let finals := c.tenants[t].slots.map fun x => (x.1, c.noToken r x.1 x.2 reqStatus 0)
      ((c.publish t { out with finals := out.finals ++ finals }.entries).modTenant t fun x => { x with slots := [] }).failAdmissions
        t reqStatus
    else c
  let c := (c.freeRetained p t).settleRetires t
  let c := c.loseBatches t r.plan.id firstLost reqStatus
  let c := { c with placer := c.placer.dropRebind p }
  let others := allParts.any fun q => decide (q ≠ p) && match c.run q with
    | some x => decide (x.plan.tenant = t)
    | none => false
  if others then c else c.setFState t (if c.driverAway then .paused else .idle)

/-- A plan ends and its partition is free (R20). -/
def State.endPlan (s : State) (p : Fin 4) (r : Running) (firstLost : Nat) (reqStatus : W16) (out : StepOut) : State :=
  (s.on fun c => c.endPlan p r firstLost reqStatus out).freePart p

/-- The event entry that reports a plan's end with a status (DEDUCED, notes/assumptions/27.md). -/
def Chip.endEvent (c : Chip) (r : Running) (status : W16) (arg0 arg3 : W64) : Chip :=
  c.event (.vf r.plan.tenant)
    { c.entry (c.ringSrc (.vf r.plan.tenant) 9) with
      status := status, plan := r.plan.id, step := r.step, arg0 := arg0, arg3 := arg3 }

/-- A plan whose coming step fails R28's evaluation, or whose bundle breaks a rule at issue, ends with
0x0022 and R57's reason. -/
def State.failPlan (s : State) (p : Fin 4) (r : Running) (firstLost : Nat) (bidx : Nat) (slot reason : Byte) (out : StepOut) : State :=
  (s.on fun c => c.endEvent r 0x0022 (BitVec.ofNat 64 (bidx * 2 ^ 32 + slot.toNat * 2 ^ 24)) (reason.setWidth 64)).endPlan
    p r firstLost 0x0022 out

end Sys2Proof.Machine
end

