-- ==== Sys2Proof/Machine/Coll.lean ====
section
/-! DEFINITION. Collectives (R281-R286): chunks, hops, running status, and the result of ST.COLL as a
function of the rank's own contribution and of the hops it has received. -/

namespace Sys2Proof.Machine

/-! ### What the slot checks -/

/-- The format that a CFN allows (R282). -/
def collFmtOk (cfn : Fin 16) (d : Desc) : Bool :=
  match cfn.val, Desc.fmt d with
  | 0, some f | 2, some f => decide (Desc.bsm d = 0) && (decide (f = .bf16) || decide (f = .fp32))
  | 1, some f => decide (Desc.bsm d = 0) && (decide (f = .bf16) || decide (f = .fp32) || decide (f = .i32))
  | 3, some _ | 4, some _ => true
  | _, _ => false

/-- The tensor may be written by COLL: no versioned tensor and no module tensor but the scale state (R198,
R415). -/
def collTarget (v : View) (d : Desc) : Bool := !v.plan.bars d

def collCheck (v : View) (sl : Slot) (o : MvOps) : Option Byte :=
  let d := v.desc o.td
  firstReason [(decide (4 < o.cfn.val), 5), ((v.ctx.predOf sl).dyn, 3), badDesc v d,
    (!collFmtOk o.cfn d, 5), (!collTarget v d, 5)]

/-! ### Chunks and hops (R282) -/

/-- A collective as one rank sees it. -/
structure CollView where
  cfn : Fin 16
  d : Desc
  fmt : Fmt
  g : Nat
  rank : Nat
  /-- The elements of TD, in row-then-column order: position and bits. -/
  own : List ((Nat × Nat) × W32)
  /-- The hops received for it. -/
  rx : List RxHop
  mixedOk : Bool
  nepoch : Byte

def CollView.n (k : CollView) : Nat := k.own.length

/-- The first element of chunk `c` (R282): the least i with ⌊i·G/n⌋ ≥ c. -/
def CollView.start (k : CollView) (c : Nat) : Nat := (c * k.n + k.g - 1) / k.g

/-- The elements of the rank's own chunk `c`. -/
def CollView.chunk (k : CollView) (c : Nat) : List W32 :=
  ((k.own.drop (k.start c)).take (k.start (c + 1) - k.start c)).map Prod.snd

/-- Chunk numbers run modulo G. -/
def CollView.back (k : CollView) (i : Nat) : Nat := (k.rank + 2 * k.g - i % k.g) % k.g

/-- The elements that a hop brings: its chunk's, all of them in a broadcast, none in the flag phase. -/
def CollView.hopLen (k : CollView) (ph : Phase) (hop : Nat) : Nat :=
  if k.cfn = 4 then k.n
  else match ph with
    | .flag => 0
    | .reduceScatter => (k.chunk (k.back (hop + 2))).length
    | _ => (k.chunk (k.back (hop + 1))).length

/-- A received hop, once it is whole. -/
def CollView.got (k : CollView) (ph : Phase) (hop : Nat) : Option RxHop :=
  k.rx.find? fun x => decide (x.phase = ph) && decide (x.hop.toNat = hop) &&
    decide (x.elems.length = k.hopLen ph hop)

/-- The greater of two elements of a maximum (R283): NaN wins, −0 below +0. -/
def collMax (f : Fmt) (a b : W32) : W32 :=
  let x := f.decode a
  let y := f.decode b
  if x.isNan || y.isNan then f.nanBits
  else match x, y with
    | .fin sx 0 _, .fin _ 0 _ => if sx then b else a
    | _, _ => if x.lt y then b else a

/-- An element on the wire as a value: PFMT gives its format (R273). -/
def wireValue (pfmt : Byte) (x : W32) : Fp := ((Fmt.ofCode (pfmt.setWidth 4)).getD .fp32).decode x

/-- The rank's combination of a received partial with its own chunk, in FP32 for a sum (R283). -/
def CollView.combine (k : CollView) (hop : Nat) : Option (List W32) :=
  (k.got .reduceScatter hop).map fun x =>
    let own := k.chunk (k.back (hop + 2))
    if k.cfn = 1 then (x.elems.zip own).map fun e => collMax k.fmt e.1 e.2
    else (x.elems.zip own).map fun e => toF32 (rne32 ((wireValue x.pfmt e.1).add (k.fmt.decode e.2)))

/-- What a rank sends: phase, hop, payload format, elements and the place of the first in TD. -/
structure HopOut where
  phase : Phase
  hop : Nat
  pfmt : Fmt
  elems : List W32
  first : Nat

/-- The format of the partial sums and maxima after the first hop (R282). -/
def CollView.wide (k : CollView) : Fmt := if k.cfn = 1 then k.fmt else .fp32

/-- The reduce-scatter hop `h` that the rank sends, once it can (R282). -/
def CollView.rsOut (k : CollView) (h : Nat) : Option HopOut :=
  let c := k.back (h + 1)
  match h with
  | 0 => some ⟨.reduceScatter, 0, k.fmt, k.chunk c, k.start c⟩
  | h + 1 => (k.combine h).map fun xs => ⟨.reduceScatter, h + 1, k.wide, xs, k.start c⟩

/-- The all-gather hop `h` that the rank sends, once it can. -/
def CollView.agOut (k : CollView) (h : Nat) : Option HopOut :=
  let c := k.back h
  match h with
  | 0 =>
    if k.cfn = 3 then some ⟨.allGather, 0, k.fmt, k.chunk c, k.start c⟩
    else (k.combine (k.g - 2)).map fun xs => ⟨.allGather, 0, k.wide, xs, k.start c⟩
  | h + 1 => (k.got .allGather h).map fun x =>
      ⟨.allGather, h + 1, if k.cfn = 3 then k.fmt else k.wide, x.elems, k.start c⟩

/-- The flag hop `h` of a reduce-scatter (R285). -/
def CollView.flagOut (k : CollView) (h : Nat) : Option HopOut :=
  match h with
  | 0 => (k.combine (k.g - 2)).map fun _ => ⟨.flag, 0, k.fmt, [], 0⟩
  | h + 1 => (k.got .flag h).map fun _ => ⟨.flag, h + 1, k.fmt, [], 0⟩

/-- The PHASE under which the hops of a broadcast travel, which the manual does not state (R273, R282; FREE VALUE,
notes/assumptions/28.md): one of the three phases of a ring. -/
def castPhase : Phase :=
  match Config.castPhase % 3 with
  | 0 => .reduceScatter
  | 1 => .allGather
  | _ => .flag

/-- A broadcast passes the whole tensor from rank 0 hop by hop, rank r sending hop r (R282). -/
def CollView.castOut (k : CollView) : List HopOut :=
  if k.rank + 1 = k.g then []
  else if k.rank = 0 then [⟨castPhase, 0, k.fmt, k.own.map Prod.snd, 0⟩]
  else match k.got castPhase (k.rank - 1) with
    | some x => [⟨castPhase, k.rank, k.fmt, x.elems, 0⟩]
    | none => []

/-- Every hop that the rank can send by now. -/
def CollView.outs (k : CollView) : List HopOut :=
  let hs := List.range (k.g - 1)
  match k.cfn.val with
  | 0 | 1 => hs.filterMap k.rsOut ++ hs.filterMap k.agOut
  | 2 => hs.filterMap k.rsOut ++ hs.filterMap k.flagOut
  | 3 => hs.filterMap k.agOut
  | _ => k.castOut

/-- The rank has received all it needs (R285). -/
def CollView.done (k : CollView) : Bool :=
  let all := fun ph => (List.range (k.g - 1)).all fun h => (k.got ph h).isSome
  match k.cfn.val with
  | 0 | 1 => all .reduceScatter && all .allGather
  | 2 => all .reduceScatter && all .flag
  | 3 => all .allGather
  | _ => decide (k.rank = 0) || (k.got castPhase (k.rank - 1)).isSome

/-! ### Running status (R285, R286) -/

/-- The NONFINITE flag of the rank's own contribution. -/
def CollView.ownNonfinite (k : CollView) : Bool := k.own.any fun x => (k.fmt.decode x.2).nonfinite

/-- NONFINITE over everything seen so far. -/
def CollView.nonfinite (k : CollView) : Bool :=
  k.ownNonfinite || k.rx.any (fun x => x.nonfinite || payloadNonfinite ((Fmt.ofCode (x.pfmt.setWidth 4)).getD .fp32) x.elems) ||
  (decide (k.cfn.val ≤ 2) && ((List.range (k.g - 1)).any fun h => match k.combine h with
    | some xs => payloadNonfinite k.wide xs
    | none => false))

/-- The epoch check of a received hop (R286). -/
def CollView.epochClash (k : CollView) (x : RxHop) : Bool :=
  (decide (k.cfn = 0) || decide (k.cfn = 2)) && decide (x.nepoch ≠ k.nepoch) && !(x.mixedOk && k.mixedOk)

/-- MISMATCH over everything seen so far. -/
def CollView.mismatch (k : CollView) : Bool := k.rx.any fun x => x.mismatch || k.epochClash x

/-! ### The result (R282, R283) -/

/-- The elements of chunk `c` as this rank ends with them, and their format. -/
def CollView.final (k : CollView) (c : Nat) : List W32 × Fmt :=
  if k.cfn = 4 then
    (if k.rank = 0 then k.own.map Prod.snd else ((k.got castPhase (k.rank - 1)).map RxHop.elems).getD [], k.fmt)
  else if c = k.rank then
    if k.cfn = 3 then (k.chunk c, k.fmt) else ((k.combine (k.g - 2)).getD [], k.wide)
  else
    let h := (k.rank + k.g - 1 - c % k.g) % k.g
    (((k.got .allGather h).map RxHop.elems).getD [], if k.cfn = 3 then k.fmt else k.wide)

/-- TD's new elements: position and value or bits. -/
def CollView.results (k : CollView) : List ((Nat × Nat) × (W32 × Fmt)) :=
  let pos := k.own.map Prod.fst
  if k.cfn = 4 then (pos.zip (k.final 0).1).map fun x => (x.1, x.2, k.fmt)
  else
    let cs := if k.cfn = 2 then [k.rank] else List.range k.g
    cs.flatMap fun c =>
      let r := k.final c
      ((pos.drop (k.start c)).zip r.1).map fun x => (x.1, x.2, r.2)

/-- A sum enters TD's format once, under its OVF and SRE; bits move unchanged otherwise. Not counted
(R159, R283). -/
def Build.collWrite (b : Build) (v : View) (k : CollView) : Build :=
  k.results.foldl (fun b x =>
    let bits := if k.cfn = 0 ∨ k.cfn = 2 then
        (convElem k.d k.fmt [] (v.sr (Desc.strm k.d)) x.1 (x.2.2.decode x.2.1)).1
      else x.2.1
    b.putBits v (Desc.tid k.d) (Desc.offset k.d x.1.1 x.1.2) bits) b

/-- The build once the collective is done: TD, PD and the step's gradient marks (R47, R168, R285). A predicate that
a slot after ST has written keeps that slot's value (R22). -/
def Build.collDone (b : Build) (v : View) (sl : Slot) (pd : Fin 16) (k : CollView) : Build :=
  let b := b.collWrite v k
  if k.cfn = 0 ∨ k.cfn = 2 then
    let b := if b.latePreds.contains pd then b else b.writeP v sl pd k.nonfinite true
    { b with counts := { b.counts with gradient := true, nonfinite := b.counts.nonfinite || k.nonfinite } }
  else b

/-- The collective of a group of one: the rank's own contribution is the result (R168). -/
def soloView (v : View) (o : MvOps) (f : Fmt) : CollView :=
  let d := v.desc o.td
  { cfn := o.cfn, d := d, fmt := f, g := 1, rank := 0
    own := (region 0 0 (Desc.rows d) (Desc.cols d)).map fun p => (p, v.bits (Desc.tid d) (Desc.offset d p.1 p.2))
    rx := [], mixedOk := false, nepoch := v.plan.image.nepoch }

/-- The result of a group of one: every element, converted into TD's own format. -/
def soloBody (v : View) (sl : Slot) (o : MvOps) (b : Build) (f : Fmt) : Build :=
  let k := soloView v o f
  let b := if o.cfn = 0 ∨ o.cfn = 2 then
      k.own.foldl (fun b x =>
        b.putBits v (Desc.tid k.d) (Desc.offset k.d x.1.1 x.1.2)
          (convElem k.d f [] (v.sr (Desc.strm k.d)) x.1 (f.decode x.2)).1) b
    else b
  if o.cfn = 0 ∨ o.cfn = 2 then
    let b := b.writeP v sl o.pd k.ownNonfinite true
    { b with counts := { b.counts with gradient := true, nonfinite := b.counts.nonfinite || k.ownNonfinite } }
  else b

end Sys2Proof.Machine
end

