-- ==== Sys2Proof/Machine/Control.lean ====
section
/-! DEFINITION. The CF and SY slots (R49-R52): what each opcode checks and what it does. STEP and END ask
for a boundary, whose work is in Machine/Boundary.lean. -/

namespace Sys2Proof.Machine

/-! ### SALU, SCMP, PLOG -/

/-- SALU's functions (R50, R51); none for the reserved ones. -/
def saluFn (fn : Fin 16) (a b : W64) : Option W64 :=
  match fn with
  | 0 => some (a + b)
  | 1 => some (a - b)
  | 2 => some (a * b)
  | 3 => some (a &&& b)
  | 4 => some (a ||| b)
  | 5 => some (a ^^^ b)
  | 6 => some (a <<< (b.toNat % 64))
  | 7 => some (a >>> (b.toNat % 64))
  | 8 => some (a.sshiftRight (b.toNat % 64))
  | 9 => some (if a.slt b then a else b)
  | 10 => some (if a.slt b then b else a)
  | 11 => some b
  | _ => none

def saluCheck (_v : View) (_sl : Slot) (o : CfOps) : Option Byte := firstReason [((saluFn o.fn 0 0).isNone, 5)]

/-- SALU (R50, R51); the result's class is that of the values it is computed from (R26). -/
def saluBody (v : View) (sl : Slot) (o : CfOps) (b : Build) : Except SlotFail Build :=
  let x := v.ctx.s[o.sa]
  let y := v.ctx.opB sl o
  match saluFn o.fn x.val y.val with
  | none => .error (.reject 5)
  | some r => .ok (b.writeS v sl o.sd r (y.dyn || (decide (o.fn ≠ 11) && x.dyn)))

/-- SCMP's relations (R50). -/
def scmpFn (fn : Fin 16) (a b : W64) : Option Bool :=
  match fn with
  | 0 => some (a == b)
  | 1 => some (a != b)
  | 2 => some (a.slt b)
  | 3 => some (a.sle b)
  | 4 => some (a.ult b)
  | 5 => some (a.ule b)
  | _ => none

def scmpCheck (_v : View) (_sl : Slot) (o : CfOps) : Option Byte := firstReason [((scmpFn o.fn 0 0).isNone, 5)]

/-- SCMP (R50). -/
def scmpBody (v : View) (sl : Slot) (o : CfOps) (b : Build) : Except SlotFail Build :=
  let x := v.ctx.s[o.sa]
  let y := v.ctx.opB sl o
  match scmpFn o.fn x.val y.val with
  | none => .error (.reject 5)
  | some r => .ok (b.writeP v sl o.pd r (x.dyn || y.dyn))

/-- PLOG's functions (R50). -/
def plogFn (fn : Fin 16) (a b : Bool) : Option Bool :=
  match fn with
  | 0 => some (a && b)
  | 1 => some (a || b)
  | 2 => some (a != b)
  | 3 => some (a && !b)
  | 4 => some (!a)
  | _ => none

def plogCheck (_v : View) (_sl : Slot) (o : CfOps) : Option Byte :=
  firstReason [((plogFn o.fn false false).isNone, 5)]

/-- Pa and Pb are named by the low four bits of SA's and SB's fields (R49). -/
def predA (o : CfOps) : Fin 16 := Fin.ofNat 16 o.sa.val
def predB (o : CfOps) : Fin 16 := Fin.ofNat 16 o.sb.val

/-- PLOG (R50). -/
def plogBody (v : View) (sl : Slot) (o : CfOps) (b : Build) : Except SlotFail Build :=
  let x := v.ctx.p[predA o]
  let y := v.ctx.p[predB o]
  match plogFn o.fn x.val y.val with
  | none => .error (.reject 5)
  | some r => .ok (b.writeP v sl o.pd r (x.dyn || (decide (o.fn ≠ 4) && y.dyn)))

/-! ### Loops, branches, calls -/

/-- Bundles of the plan's program. -/
def View.nbundle (v : View) : Nat := v.plan.image.bundles.length

/-- The bundle at this bundle + TGT. -/
def View.target (v : View) (o : CfOps) : Int := (v.ctx.pc : Int) + o.tgt.toInt

/-- A bundle named by a transfer lies outside the program: reason 0x04 (R51). -/
def outside (v : View) (t : Int) : Bool × Byte := (decide (t < 0) || decide ((v.nbundle : Int) ≤ t), 4)

/-- The slot's predicate is dynamic: reason 0x03 (R27). -/
def dynPred (v : View) (sl : Slot) : Bool × Byte := ((v.ctx.predOf sl).dyn, 3)

/-- The loops that run and whose bodies hold a bundle. -/
def Ctx.around (c : Ctx) (pc : Nat) : List (Fin 8) :=
  c.loops.filter fun l => decide (c.lc[l].first ≤ pc) && decide (pc ≤ c.lc[l].last)

def loopCheck (v : View) (sl : Slot) (o : CfOps) : Option Byte :=
  firstReason
    [ dynPred v sl, ((v.ctx.opB sl o).dyn, 3), (decide (o.tgt.toInt < 1), 4), outside v (v.target o)
    , ((v.ctx.around v.ctx.pc).any fun l => decide ((v.ctx.lc[l].last : Int) < v.target o), 4)
    , (v.ctx.lc[o.lc].active, 4) ]

/-- LOOP (R24, R50): with a false predicate, or B = 0, control continues after the body. -/
def loopBody (v : View) (sl : Slot) (o : CfOps) (b : Build) : Except SlotFail Build :=
  let n := (v.ctx.opB sl o).val.toNat
  let last := (v.target o).toNat
  if !(v.ctx.predOf sl).val || n = 0 then .ok { b with flow := .fall last }
  else
    .ok { b with
      ctx := { b.ctx with
        lc := b.ctx.lc.set o.lc { active := true, index := 0, count := n, first := v.ctx.pc + 1, last := last }
        loops := o.lc :: b.ctx.loops }
      flow := .jump (v.ctx.pc + 1) }

/-- The bundle lies in the loop body. -/
def inBody (x : Int × Int) (t : Int) : Bool := decide (x.1 ≤ t) && decide (t ≤ x.2)

def brCheck (v : View) (sl : Slot) (o : CfOps) : Option Byte :=
  firstReason
    [ dynPred v sl, outside v (v.target o)
    , ((loopBodies v.plan.image.bundles).any fun x => inBody x v.ctx.pc != inBody x (v.target o), 4) ]

/-- BR (R50). -/
def brBody (v : View) (_sl : Slot) (o : CfOps) (b : Build) : Except SlotFail Build :=
  .ok { b with flow := .jump (v.target o).toNat }

def callCheck (v : View) (sl : Slot) (o : CfOps) : Option Byte :=
  firstReason [dynPred v sl, outside v (v.target o), ((v.ctx.predOf sl).val && decide (8 ≤ v.ctx.calls.length), 4)]

/-- CALL (R50). -/
def callBody (v : View) (_sl : Slot) (o : CfOps) (b : Build) : Except SlotFail Build :=
  .ok { b with
    ctx := { b.ctx with calls := (v.ctx.pc + 1) :: b.ctx.calls }
    flow := .jump (v.target o).toNat }

def retCheck (v : View) (sl : Slot) (_o : CfOps) : Option Byte :=
  firstReason [dynPred v sl, ((v.ctx.predOf sl).val && v.ctx.calls.isEmpty, 4)]

/-- RET (R50): control continues as it would have from the end of the calling bundle. A loop that the called
routine began and has not ended stays open, its counter active (DESIGN CHOICE, notes/assumptions/97.md). -/
def retBody (v : View) (_sl : Slot) (_o : CfOps) (b : Build) : Except SlotFail Build :=
  match v.ctx.calls with
  | [] => .error (.reject 4)
  | r :: rest => .ok { b with ctx := { b.ctx with calls := rest }, flow := .fall (r - 1) }

/-! ### STEP, END -/

/-- The boundary ends the program: CF.END, or CF.STEP in the last step that there is (R25). -/
def Boundary.ends (x : Boundary) (step : W32) : Bool :=
  match x with
  | .none => false
  | .step => decide (step = 0xFFFFFFFF)
  | .last => true

/-- STEP and END stand outside every loop body and called routine (R51). -/
def nested (v : View) : Bool × Byte := (!v.ctx.loops.isEmpty || !v.ctx.calls.isEmpty, 4)

def stepCheck (v : View) (sl : Slot) (o : CfOps) : Option Byte :=
  firstReason [dynPred v sl, nested v, outside v (v.target o)]

/-- STEP (R25, R50): always a boundary; the branch under its predicate. -/
def stepBody (v : View) (sl : Slot) (o : CfOps) (b : Build) : Except SlotFail Build :=
  .ok { b with
    boundary := .step
    flow := if (v.ctx.predOf sl).val then .jump (v.target o).toNat else .fall v.ctx.pc }

def endpCheck (v : View) (sl : Slot) (_o : CfOps) : Option Byte :=
  firstReason [(decide (sl.pred ≠ 0) || sl.pneg, 3), nested v]

/-- END (R25, R50). -/
def endpBody (_v : View) (_sl : Slot) (_o : CfOps) (b : Build) : Except SlotFail Build :=
  .ok { b with boundary := .last }

/-! ### TDSET, PARAM -/

/-- The lowest bit and the width of the field that TDSET's FN names (R32, R50). -/
def tdField (fn : Fin 16) : Option (Nat × Nat) :=
  if fn = 0 then some (392, 48)
  else if fn.val ≤ 6 then some (360 - 24 * (fn.val - 1), 24)
  else if fn.val ≤ 12 then some (200 - 40 * (fn.val - 7), 40)
  else none

/-- A descriptor with `n` bits from bit `lo` replaced by the low bits of a value. -/
def Desc.setField (d : Desc) (lo n : Nat) (x : W64) : Desc :=
  let mask : BitVec 512 := BitVec.ofNat 512 (2 ^ n - 1) <<< lo
  (d &&& ~~~mask) ||| ((x.setWidth 512 <<< lo) &&& mask)

/-- A value written under a dynamic predicate is dynamic (R26), so TDSET's predicate is static too. -/
def tdsetCheck (v : View) (sl : Slot) (o : CfOps) : Option Byte :=
  firstReason [((tdField o.fn).isNone, 5), (v.ctx.s[o.sa].dyn, 3), dynPred v sl]

/-- TDSET (R50). -/
def tdsetBody (v : View) (_sl : Slot) (o : CfOps) (b : Build) : Except SlotFail Build :=
  match tdField o.fn with
  | none => .error (.reject 5)
  | some (lo, n) =>
    .ok { b with ctx := { b.ctx with
      td := spSet 0 o.td.val (Desc.setField (b.ctx.desc o.td) lo n v.ctx.s[o.sa].val) b.ctx.td } }

def paramCheck (_v : View) (_sl : Slot) (o : CfOps) : Option Byte := firstReason [(decide (7 < o.fn.val), 5)]

/-- PARAM's value and whether it is dynamic (R26, R50). -/
def paramVal (v : View) (sl : Slot) (o : CfOps) : Scalar :=
  match o.fn.val with
  | 0 => ⟨v.run.step.setWidth 64, false⟩
  | 1 => ⟨v.plan.id.setWidth 64, false⟩
  | 2 => ⟨BitVec.ofNat 64 v.ten.val, false⟩
  | 3 => ⟨v.run.stepEpoch.setWidth 64, true⟩
  | 4 => ⟨v.plan.image.nepoch.setWidth 64, false⟩
  | 5 => ⟨v.chip.drone.now, true⟩
  | 6 =>
    let b := v.ctx.opB sl o
    ⟨v.plan.sub.sparam[Fin.ofNat 16 b.val.toNat], b.dyn⟩
  | _ => ⟨if v.ctx.lc[o.lc].active then v.ctx.lc[o.lc].index.setWidth 64 else 0, false⟩

/-- PARAM (R50). -/
def paramBody (v : View) (sl : Slot) (o : CfOps) (b : Build) : Except SlotFail Build :=
  let x := paramVal v sl o
  .ok (b.writeS v sl o.sd x.val x.dyn)

/-! ### The SY slot -/

/-- AC 2 and 3, which R52's field table leaves undefined, break the operand rule as MX's reserved values do
(DESIGN CHOICE, notes/assumptions/96.md). -/
def awaitCheck (_v : View) (_sl : Slot) (o : SyOps) : Option Byte := firstReason [(decide (2 ≤ o.ac.val), 5)]

/-- AWAIT (R40, R52): judged by the state before the bundle (R22), so it never undoes the DRN of its own
bundle. -/
def awaitBody (v : View) (_sl : Slot) (o : SyOps) (b : Build) : Except SlotFail Build :=
  if h : o.ac.val < 2 then
    let i : Fin 2 := ⟨o.ac.val, h⟩
    match v.ctx.ac[i].state with
    | .draining => .ok { b with ctx := { b.ctx with ac := vecMod b.ctx.ac i fun a => { a with state := .free } } }
    | _ => .ok b
  else .error (.reject 5)

/-- TRACE (R52, R255, R304). -/
def traceBody (v : View) (_sl : Slot) (o : SyOps) (b : Build) : Except SlotFail Build :=
  .ok { b with effects := b.effects ++ [.trace o.code v.ctx.pc v.chip.drone.now] }

/-- EVENT (R52). -/
def eventBody (_v : View) (_sl : Slot) (o : SyOps) (b : Build) : Except SlotFail Build :=
  .ok { b with effects := b.effects ++ [.ev o.code] }

/-- LAYER (R52): conversions of later bundles are counted under it. -/
def layerBody (_v : View) (_sl : Slot) (o : SyOps) (b : Build) : Except SlotFail Build :=
  .ok { b with ctx := { b.ctx with layer := o.code } }

/-- SEED (R52, R134): for draws in later bundles. -/
def seedBody (_v : View) (sl : Slot) (_o : SyOps) (b : Build) : Except SlotFail Build :=
  .ok { b with ctx := { b.ctx with seed := sl.imm0 ++ sl.imm1 } }

/-- CMT (R52, R185): asks for a commit point when the bundle retires. -/
def cmtBody (_v : View) (_sl : Slot) (_o : SyOps) (b : Build) : Except SlotFail Build :=
  .ok { b with cmt := true }

/-! ### Where control goes (R50, R51) -/

/-- The context and the bundle reached from the end of bundle `k`: the innermost loop whose body ends there
goes round again, or ends and leaves its end to the loop around it. -/
def leaveBundle : List (Fin 8) → Ctx → Nat → Ctx × Nat
  | [], c, k => ({ c with loops := [] }, k + 1)
  | l :: ls, c, k =>
    if c.lc[l].last = k then
      if 1 < c.lc[l].count then
        ({ c with
           loops := l :: ls
           lc := vecMod c.lc l fun x => { x with index := x.index + 1, count := x.count - 1 } }, c.lc[l].first)
      else
        leaveBundle ls { c with loops := ls, lc := c.lc.set l ⟨false, 0, 0, 0, 0⟩ } k
    else ({ c with loops := l :: ls }, k + 1)

/-- The context whose program counter is the next bundle. -/
def Ctx.advance (c : Ctx) : Flow → Ctx
  | .jump n => { c with pc := n }
  | .fall k =>
    let (c', n) := leaveBundle c.loops c k
    { c' with pc := n }

/-- The context once the bundles of NOPs only that stand next have been executed (R22): such a bundle has no slot
that issues, so no command stands for it. -/
def Ctx.skipNops (bs : List (BitVec 1024)) : Nat → Ctx → Ctx
  | 0, c => c
  | fuel + 1, c =>
    match bs[c.pc]? with
    | some b => if (bundleOps 0 b).isEmpty then Ctx.skipNops bs fuel (c.advance (.fall c.pc)) else c
    | none => c

/-- A step holds fewer bundles than this: more would outlast the stamp (R253). -/
def stepFuel : Nat := 2 ^ 64

end Sys2Proof.Machine
end

