-- ==== Sys2Proof/Machine/Matrix.lean ====
section
/-! DEFINITION. The MX slot (R37-R41, R59-R61, R86-R93): what each opcode checks and what it does. Times of
the array (R62-R75, R82-R85) are not modelled. -/

namespace Sys2Proof.Machine

/-- The accumulator that the AC field names; none for the reserved values 2 and 3 (R37). -/
def acOf (ac : Fin 4) : Option (Fin 2) := if h : ac.val < 2 then some ⟨ac.val, h⟩ else none

/-- The build with an accumulator replaced. -/
def Build.setAcc (b : Build) (i : Fin 2) (a : Acc) : Build := { b with ctx := { b.ctx with ac := b.ctx.ac.set i a } }

/-- An unlisted element of a plane or queue entry: +0 under scale 1. -/
def zeroElem : Elem := ⟨0, 127⟩

/-- The format of a plane's elements. -/
def Plane.format (p : Plane) : Fmt := (Fmt.ofCode p.fmt).getD .fp32

/-! ### PLD -/

/-- PLD's operand: valid, at most 4,096 by 4,096 (R35, R39). -/
def pldCheck (v : View) (_sl : Slot) (o : MxOps) : Option Byte :=
  let d := View.desc v o.tda
  firstReason [badDesc v d, (decide (4096 < Desc.rows d) || decide (4096 < Desc.cols d), 5)]

/-- The shape of the plane that PLD loads (R38). -/
def planeShape (d : Desc) : Plane :=
  { k := Desc.rows d, n := Desc.cols d, fmt := Desc.fmtCode d
    alongK := decide (Desc.bsm d = 2) && decide (Desc.rank d = 2) && decide (Desc.rdim d = 1)
    bsm := Desc.bsm d, anyFmt := false, cells := [] }

/-- The plane that PLD loads: K rows by N columns of the view (R38). -/
def loadPlane (v : View) (d : Desc) : Plane :=
  { planeShape d with
    cells := spSetAll zeroElem [] ((region 0 0 (Desc.rows d) (Desc.cols d)).map fun p =>
      (cellKey p.1 p.2, View.elem v d p.1 p.2)) }

/-- MX.PLD (R38, R41). -/
def pldBody (v : View) (_sl : Slot) (o : MxOps) (b : Build) : Except SlotFail Build :=
  if (View.ctx v).shadow.isSome then .error .plane
  else
    let p := loadPlane v (View.desc v o.tda)
    .ok { b with ctx := { b.ctx with shadow := some p }, load := some p }

/-! ### MM -/

/-- The plane through which a pass streams: a FULL shadow becomes active (R38). -/
def passPlane (c : Ctx) : Plane := c.shadow.getD c.active

/-- Operand formats pair (R39): FP4 with FP4, FP8 with FP8, BF16 with BF16; the initial all-zero plane
pairs with each of these. -/
def pairs (p : Plane) (f : Fmt) : Bool :=
  match f, p.anyFmt, p.format with
  | .fp4, true, _ | .e4m3, true, _ | .e5m2, true, _ | .bf16, true, _ => true
  | .fp4, false, .fp4 => true
  | .e4m3, false, .e4m3 | .e4m3, false, .e5m2 | .e5m2, false, .e4m3 | .e5m2, false, .e5m2 => true
  | .bf16, false, .bf16 => true
  | _, _, _ => false

/-- The rules for MM's operands that do not concern the plane (R39). -/
def mmRules (v : View) (o : MxOps) : List (Bool × Byte) :=
  let d := View.desc v o.tdb
  [ (decide (2 ≤ o.ac.val), 5)
  , (o.idx && !(decide (o.opr = 1) || decide (o.opr = 2)), 5)
  , badDesc v d
  , (decide (4096 < Desc.rows d), 5)
  , (decide (4096 < Desc.cols d), 5)
  , (decide (o.opr ≠ 0) && decide (Desc.fmt d = some .fp4), 5) ]

/-- The operands of MM apart from the accumulator's (R39). -/
def mmCheck (v : View) (_sl : Slot) (o : MxOps) : Option Byte :=
  let d := View.desc v o.tdb
  let p := passPlane (View.ctx v)
  firstReason (mmRules v o ++
    ([ (decide (Desc.cols d ≠ p.k), 5)
     , (!(match Desc.fmt d with
         | some f => pairs p f
         | none => false), 5) ] : List (Bool × Byte)))

/-- The stationary element W[k, n]; the all-zero plane holds +0. -/
def Plane.at (p : Plane) (k n : Nat) : Elem := spGet zeroElem p.cells (cellKey k n)

/-- Its value, with its scale. -/
def Plane.value (p : Plane) (k n : Nat) : Fp :=
  if p.anyFmt then .zero else (p.at k n).value p.format

/-- The pass sums by blocks of 32 (R88). -/
def byBlocks (d : Desc) (p : Plane) : Bool :=
  (decide (Desc.bsm d = 2) && decide (Desc.rdim d = 0)) || p.alongK

/-- The exact sum of the products of one block without their scales, then scaled (R88). -/
def blockTerm (v : View) (d : Desc) (f : Fmt) (p : Plane) (m n k0 k1 : Nat) : Fp :=
  let ks := (List.range (k1 - k0)).map fun i => k0 + i
  let s := ks.foldl (fun acc k =>
    acc.add ((f.decode (View.elem v d m k).bits).mul
      (if p.anyFmt then .zero else p.format.decode (p.at k n).bits))) .zero
  underScale (underScale s (if f.scalable then (View.elem v d m k0).scale else 127))
    (if p.anyFmt || !p.format.scalable then 127 else (p.at k0 n).scale)

/-- The terms that join the FP32 sum of element (m, n) under OPR 0 and 3 (R86, R88). -/
def sumTermsOf (v : View) (d : Desc) (f : Fmt) (p : Plane) (opr : Fin 4) (m n : Nat) : List Fp :=
  if opr = 3 then
    (List.range p.k).map fun k => rne32 ((View.value v d m k).sub (p.value k n)).abs
  else if byBlocks d p then
    (List.range ((p.k + 31) / 32)).map fun j => blockTerm v d f p m n (32 * j) (min p.k (32 * j + 32))
  else (List.range p.k).map fun k => (View.value v d m k).mul (p.value k n)

/-- A running winner under max-plus or min-plus: value and index, none before the first term (R87). -/
structure Win where
  val : Fp
  idx : Option Nat

/-- The held winner after term `x` of index `i` (R87). -/
def Win.take (w : Win) (maxi : Bool) (x : Fp) (i : Nat) : Win :=
  let better := if maxi then w.val.lt x else x.lt w.val
  let lower := match w.idx with
    | none => true
    | some j => decide (i < j)
  if (x.isNan && (!w.val.isNan || lower)) || (!x.isNan && !w.val.isNan && (better || (w.val.eq x && lower))) then
    ⟨x, some i⟩
  else w

/-- OPR's identity value (R86). -/
def identity (opr : Fin 4) : Fp :=
  match opr with
  | 1 => .inf true
  | 2 => .inf false
  | _ => .zero

/-- The sum of K over the passes made so far (R87). -/
def Acc.kBase (a : Acc) : Nat := a.ks.sum

/-- The element (m, n) of an accumulator after a pass: value, and winning index. -/
def passElem (v : View) (d : Desc) (f : Fmt) (p : Plane) (o : MxOps) (a : Acc) (m n : Nat) : W32 × Option Nat :=
  let held := if o.init then identity o.opr else ofF32 (spGet 0 a.cells (cellKey m n))
  if o.opr = 1 ∨ o.opr = 2 then
    let i0 := if o.init then none else
      if a.idx then some (spGet 0xFFFFFFFF a.winner (cellKey m n)).toNat else some 0
    let base := if o.init then 0 else a.kBase
    let w := (List.range p.k).foldl (fun (w : Win) k =>
      w.take (decide (o.opr = 1)) (rne32 ((View.value v d m k).add (p.value k n))) (base + k)) ⟨held, i0⟩
    (toF32 w.val, w.idx)
  else
    let shape := [0, o.opr.val] ++ (if o.init then [] else a.ks) ++ [p.k]
    (toF32 (sumTerms v.gen shape held (sumTermsOf v d f p o.opr m n)), none)

/-- The accumulator after a pass, apart from its elements (R39, R40): an MM that differs in M, N, OPR or IDX from
the one that opened the accumulation fails as such (R39). -/
def mmAcc (p : Plane) (d : Desc) (o : MxOps) (a : Acc) : Except SlotFail Acc :=
  match AccState.next (.pass o.init o.last) a.state with
  | none => .error .acc
  | some st =>
    let m := Desc.rows d
    if !o.init && (decide (a.m ≠ m) || decide (a.n ≠ p.n) || decide (a.opr ≠ o.opr) || decide (a.idx ≠ o.idx)) then
      .error .mismatch
    else
      .ok { state := st, cells := [], winner := [], m := m, n := p.n, opr := o.opr, idx := o.idx
            ks := (if o.init then [] else a.ks) ++ [p.k] }

/-- Rows of the last wavefront of a pass of `m` rows: under FP4 two rows travel as one (R62). -/
def lastRows (f : Fmt) (m : Nat) : List Nat := if f = .fp4 ∧ m % 2 = 0 then [m - 2, m - 1] else [m - 1]

/-- What a pass leaves on its way (R66, R68, R91). -/
def passOut (d : Desc) (f : Fmt) (p : Plane) (m : Nat) (res : List (Nat × W32)) (token : Bool) : PassOut :=
  let rows := lastRows f m
  { k := p.k, n := p.n, tid := Desc.tid d, token := token
    offs := (List.range ((p.k + 511) / 512)).map fun j => BitVec.ofNat 48 (Desc.offset d (rows.headD 0) (512 * j))
    bad := (List.range ((p.n + 511) / 512)).map fun j => res.any fun x =>
      rows.contains (x.1 / 4096) && decide (x.1 % 4096 / 512 = j) && (ofF32 x.2).nonfinite }

/-- MX.MM (R38-R40, R86-R90). -/
def mmBody (v : View) (_sl : Slot) (o : MxOps) (b : Build) : Except SlotFail Build :=
  match acOf o.ac with
  | none => .error (.reject 5)
  | some i =>
    let d := View.desc v o.tdb
    let p := passPlane (View.ctx v)
    let a := (View.ctx v).ac[i]
    match mmAcc p d o a with
    | .error e => .error e
    | .ok acc =>
      let f := (Desc.fmt d).getD .fp32
      let res := (region 0 0 acc.m p.n).map fun x => (cellKey x.1 x.2, passElem v d f p o a x.1 x.2)
      let b := b.setAcc i
        { acc with
          cells := spSetAll 0 [] (res.map fun x => (x.1, x.2.1))
          winner := if o.idx then
            spSetAll 0xFFFFFFFF [] (res.filterMap fun x => x.2.2.map fun k => (x.1, BitVec.ofNat 32 k)) else [] }
      .ok { b with
        ctx := { b.ctx with active := p, shadow := none }
        pass := some (passOut d f p acc.m (res.map fun x => (x.1, x.2.1)) (View.ctx v).shadow.isSome) }

/-! ### EWM -/

/-- EWM's operands (R39, R93). -/
def ewmCheck (v : View) (_sl : Slot) (o : MxOps) : Option Byte :=
  let x := View.desc v o.tdb
  let e := View.desc v o.tde
  firstReason
    [ (decide (2 ≤ o.ac.val), 5), badDesc v x, badDesc v e, (!floatFmt x, 5), (!floatFmt e, 5)
    , (decide (4096 < Desc.rows x) || decide (4096 < Desc.cols x), 5)
    , (decide (Desc.rows x ≠ Desc.rows e) || decide (Desc.cols x ≠ Desc.cols e), 5) ]

/-- The accumulator after EWM, apart from its elements (R38, R40). -/
def ewmAcc (d : Desc) (a : Acc) : Except SlotFail Acc :=
  match AccState.next (.pass true true) a.state with
  | none => .error .acc
  | some st => .ok { Acc.initial with state := st, m := Desc.rows d, n := Desc.cols d }

/-- MX.EWM (R38, R92): the element-wise product, as an accumulation of one pass. Each product is stored as R92
gives it, so a product of −0 stays −0: it is not joined to the identity +0 of a multiply-add (DESIGN CHOICE,
notes/assumptions/98.md). -/
def ewmBody (v : View) (_sl : Slot) (o : MxOps) (b : Build) : Except SlotFail Build :=
  match acOf o.ac with
  | none => .error (.reject 5)
  | some i =>
    let x := View.desc v o.tdb
    let e := View.desc v o.tde
    match ewmAcc x (View.ctx v).ac[i] with
    | .error f => .error f
    | .ok acc =>
      .ok (b.setAcc i
        { acc with
          cells := spSetAll 0 [] ((region 0 0 (Desc.rows x) (Desc.cols x)).map fun p =>
            (cellKey p.1 p.2, toF32 ((rne32 (View.value v x p.1 p.2)).mul (rne32 (View.value v e p.1 p.2))))) })

/-! ### DRN -/

/-- Formats that DRN writes (R93). -/
def drainFmt (d : Desc) : Bool := floatFmt d

/-- DRN's operands apart from the accumulation's shape (R30, R93, R96, R119, R415). -/
def drnCheck (v : View) (_sl : Slot) (o : MxOps) : Option Byte :=
  let c := View.desc v o.tdc
  let e := View.desc v o.tde
  firstReason
    [ (decide (2 ≤ o.ac.val), 5), (decide (o.epi = 3), 5)
    , if o.ftq then (!Desc.shapeOk c, 2) else badDesc v c
    , (!drainFmt c, 5)
    , if o.ftq then (decide (Desc.fmt c = some .fp4) && !Desc.scaled c, 5) else badTarget v c
    , if o.epi = 0 then (false, 0) else badDesc v e
    , (decide (o.epi ≠ 0) && !floatFmt e, 5) ]

/-- The value of an accumulator element after the epilogue (R92). -/
def drainValue (v : View) (o : MxOps) (a : Acc) (m n : Nat) : Fp :=
  let x := ofF32 (spGet 0 a.cells (cellKey m n))
  let e := rne32 (View.value v (View.desc v o.tde) m n)
  match o.epi with
  | 1 => rne32 (x.add e)
  | 2 => rne32 (x.mul e)
  | _ => x

/-- The queue entry that a DRN with FTQ appends, and the classes of its conversions (R119). -/
def drainEntry (v : View) (d : Desc) (f : Fmt) (m n : Nat) (vals : List ((Nat × Nat) × Fp)) :
    FtqEntry × List (Fin 6) :=
  let scales := if Desc.scaled d then amaxScales d f vals else []
  let cv := vals.map fun x => (x.1, convElem d f scales (View.sr v (Desc.strm d)) x.1 x.2)
  ({ rows := m, cols := n, fmt := f.code
     cells := spSetAll zeroElem [] (cv.map fun x =>
       (cellKey x.1.1 x.1.2,
         (⟨x.2.1, (scales.find? fun s => s.1 = Desc.scaleOffset d x.1.1 x.1.2).map Prod.snd |>.getD 127⟩ : Elem))) },
   cv.map fun x => x.2.2)

/-- The accumulator after DRN, if the drain's tensors have its shape (R39, R40). -/
def drnAcc (v : View) (o : MxOps) (a : Acc) : Except SlotFail Acc :=
  match AccState.next .drain a.state with
  | none => .error .acc
  | some st =>
    let c := View.desc v o.tdc
    let e := View.desc v o.tde
    let x := View.desc v o.tdx
    let badShape := fun d => decide (Desc.rows d ≠ a.m) || decide (Desc.cols d ≠ a.n)
    match firstReason
      [ (badShape c, 5), (decide (o.epi ≠ 0) && badShape e, 5)
      , if a.idx then badDesc v x else (false, 0)
      , if a.idx then badTarget v x else (false, 0)
      , (a.idx && (decide (Desc.fmt x ≠ some .i32) || badShape x), 5) ] with
    | some r => .error (.reject r)
    | none => .ok { a with state := st }

/-- MX.DRN (R38-R40, R92, R93, R119, R120). -/
def drnBody (v : View) (_sl : Slot) (o : MxOps) (b : Build) : Except SlotFail Build :=
  match acOf o.ac with
  | none => .error (.reject 5)
  | some i =>
    let a := (View.ctx v).ac[i]
    match drnAcc v o a with
    | .error e => .error e
    | .ok acc =>
      let c := View.desc v o.tdc
      let x := View.desc v o.tdx
      let pos := region 0 0 a.m a.n
      let vals := pos.map fun p => (p, drainValue v o a p.1 p.2)
      let b := b.setAcc i acc
      let b := if a.idx then
          pos.foldl (fun b p => b.putBits v (Desc.tid x) (Desc.offset x p.1 p.2)
            (spGet 0xFFFFFFFF a.winner (cellKey p.1 p.2))) b
        else b
      if o.ftq then
        let f := (Desc.fmt c).getD .fp32
        let (ent, cls) := drainEntry v c f a.m a.n vals
        let b := cls.foldl (fun b k => b.countConv (View.ctx v).layer f k) b
        if 4 ≤ (View.ctx v).ftq.length then
          .ok { b with counts := { b.counts with ftqOver := b.counts.ftqOver + 1 } }
        else .ok { b with ctx := { b.ctx with ftq := b.ctx.ftq ++ [ent] } }
      else .ok (b.convertInto v c true vals)

/-! ### REL -/

def relCheck (_v : View) (_sl : Slot) (o : MxOps) : Option Byte := firstReason [(decide (2 ≤ o.ac.val), 5)]

/-- The accumulator after REL (R40). -/
def relAcc (a : Acc) : Except SlotFail Acc :=
  match AccState.next .release a.state with
  | none => .error .acc
  | some st => .ok { a with state := st }

/-- MX.REL (R38, R40). -/
def relBody (v : View) (_sl : Slot) (o : MxOps) (b : Build) : Except SlotFail Build :=
  match acOf o.ac with
  | none => .error (.reject 5)
  | some i =>
    match relAcc (View.ctx v).ac[i] with
    | .error e => .error e
    | .ok acc => .ok (b.setAcc i acc)

end Sys2Proof.Machine
end

