-- ==== Sys2Proof/Machine/Move.lean ====
section
/-! DEFINITION. The LD and ST slots but for COLL (R45-R48, R416): what each opcode checks and what it
does. -/

namespace Sys2Proof.Machine

/-! ### Shared checks -/

/-- The row and column origins, from their scalars. -/
def View.rowO (v : View) (o : MvOps) : Nat := (View.ctx v).s[o.rowo].val.toNat
def View.colO (v : View) (o : MvOps) : Nat := (View.ctx v).s[o.colo].val.toNat

/-- An origin must be static (R27). -/
def dynOrigin (v : View) (i : Fin 64) : Bool × Byte := ((View.ctx v).s[i].dyn, 3)

/-- The columns moved lie within EXT0 (R48). -/
def colsFit (v : View) (o : MvOps) (d : Desc) : Bool × Byte :=
  (decide (Desc.cols d < v.colO o + o.cols.toNat), 5)

/-- The rows moved lie within the view (R48). -/
def rowsFit (v : View) (o : MvOps) (d : Desc) : Bool × Byte :=
  (decide (Desc.rows d < v.rowO o + o.rows.toNat), 5)

/-- An element as it is loaded: FP4 and FP8 scaled and widened to BF16, the others unchanged (R46, R99). -/
def View.loaded (v : View) (d : Desc) (r c : Nat) : W32 :=
  match Desc.fmt d with
  | none => 0
  | some f => if f.scalable then toBf (View.value v d r c) else View.bits v (Desc.tid d) (Desc.offset d r c)

/-- A signed row index of the index buffer, inside a view's rows. -/
def View.rowIndex (v : View) (o : MvOps) (d : Desc) (i : Nat) : Option Nat :=
  let x := asI32 (v.buf o.ix i 0)
  if 0 ≤ x ∧ x.toNat < Desc.rows d then some x.toNat else none

/-- The rows of the region whose index lies outside the view (R48). -/
def View.oorRows (v : View) (o : MvOps) (d : Desc) : Nat :=
  ((List.range o.rows.toNat).filter fun i => (v.rowIndex o d i).isNone).length

/-- The build with out-of-range rows counted (R48, R166). -/
def Build.countOor (b : Build) (n : Nat) : Build := { b with counts := { b.counts with oorRows := b.counts.oorRows + n } }

/-! ### LDV, GATH, COPY -/

def ldvCheck (v : View) (_sl : Slot) (o : MvOps) : Option Byte :=
  let d := v.desc o.td
  firstReason [dynOrigin v o.rowo, dynOrigin v o.colo, badSize o.rows, badSize o.cols, badDesc v d,
    rowsFit v o d, colsFit v o d]

/-- LDV (R46). -/
def ldvBody (v : View) (_sl : Slot) (o : MvOps) (b : Build) : Except SlotFail Build :=
  let d := v.desc o.td
  .ok (b.fillBuf o.v o.rows.toNat o.cols.toNat fun i j => v.loaded d (v.rowO o + i) (v.colO o + j))

def gathCheck (v : View) (_sl : Slot) (o : MvOps) : Option Byte :=
  let d := v.desc o.td
  firstReason [dynOrigin v o.colo, badSize o.rows, badSize o.cols, badDesc v d, colsFit v o d]

/-- GATH (R46, R48): a row index outside the view yields zeros. -/
def gathBody (v : View) (_sl : Slot) (o : MvOps) (b : Build) : Except SlotFail Build :=
  let d := v.desc o.td
  let b := b.fillBuf o.v o.rows.toNat o.cols.toNat fun i j =>
    match v.rowIndex o d i with
    | some r => v.loaded d r (v.colO o + j)
    | none => 0
  .ok (b.countOor (v.oorRows o d))

def copyCheck (v : View) (_sl : Slot) (o : MvOps) : Option Byte :=
  let s := v.desc o.td
  let d := v.desc o.td2
  firstReason [badDesc v s, badDesc v d,
    (decide (Desc.rows s ≠ Desc.rows d) || decide (Desc.cols s ≠ Desc.cols d), 5), badTarget v d]

/-- COPY (R46, R95-R102, R159). -/
def copyBody (v : View) (_sl : Slot) (o : MvOps) (b : Build) : Except SlotFail Build :=
  let s := v.desc o.td
  let d := v.desc o.td2
  match Desc.fmt s, Desc.fmt d with
  | some fs, some fd =>
    .ok (b.convertInto v d (narrows fs fd)
      ((region 0 0 (Desc.rows d) (Desc.cols d)).map fun p => (p, v.value s p.1 p.2)))
  | _, _ => .error (.reject 2)

/-! ### STV, SCAT -/

/-- The format as which STV and SCAT read a buffer element (R48). -/
def storeSource (f : Fmt) : Fmt := if f.scalable then .bf16 else f

/-- A buffer element read as the type that matches the target (R48). -/
def View.stored (v : View) (o : MvOps) (f : Fmt) (i j : Nat) : Fp := (storeSource f).decode (v.buf o.v i j)

/-- STV into a block-scaled descriptor takes whole blocks (R48). -/
def wholeBlocks (v : View) (o : MvOps) (d : Desc) : Bool :=
  match Desc.bsm d with
  | 0 => true
  | 2 => decide (Desc.rdim d = 0) && decide (v.colO o % 32 = 0) &&
      (decide (o.cols.toNat % 32 = 0) || decide (v.colO o + o.cols.toNat = Desc.cols d))
  | _ => false

def stvCheck (v : View) (_sl : Slot) (o : MvOps) : Option Byte :=
  let d := v.desc o.td
  firstReason [dynOrigin v o.rowo, dynOrigin v o.colo, badSize o.rows, badSize o.cols, badDesc v d,
    rowsFit v o d, colsFit v o d, badTarget v d, (!wholeBlocks v o d, 5)]

/-- STV (R47, R48). -/
def stvBody (v : View) (_sl : Slot) (o : MvOps) (b : Build) : Except SlotFail Build :=
  let d := v.desc o.td
  match Desc.fmt d with
  | none => .error (.reject 2)
  | some f =>
    .ok (b.convertInto v d (narrows (storeSource f) f)
      ((region 0 0 o.rows.toNat o.cols.toNat).map fun p =>
        ((v.rowO o + p.1, v.colO o + p.2), v.stored o f p.1 p.2)))

/-- SCAT is held to R96 with the other stores (DESIGN CHOICE, notes/assumptions/99.md). -/
def scatCheck (v : View) (_sl : Slot) (o : MvOps) : Option Byte :=
  let d := v.desc o.td
  firstReason [dynOrigin v o.colo, badSize o.rows, badSize o.cols, badDesc v d, colsFit v o d, badTarget v d]

/-- The rows that SCAT writes: of equal indices the greatest i stands (R47). -/
def View.scatRows (v : View) (o : MvOps) (d : Desc) : List (Nat × Nat) :=
  (List.range o.rows.toNat).filterMap fun i =>
    match v.rowIndex o d i with
    | none => none
    | some r =>
      if (List.range o.rows.toNat).any fun k => decide (i < k) && decide (v.rowIndex o d k = some r) then none
      else some (i, r)

/-- SCAT (R47, R48). Its conversions are not counted (DEDUCED, notes/assumptions/25.md). Where two rows of the view
map to one offset the greater i stands; the scale of a block is that of the elements written, and the block's other
elements are read under it from then on (DESIGN CHOICE, notes/assumptions/93.md and 94.md). -/
def scatBody (v : View) (_sl : Slot) (o : MvOps) (b : Build) : Except SlotFail Build :=
  let d := v.desc o.td
  match Desc.fmt d with
  | none => .error (.reject 2)
  | some f =>
    let vals := (v.scatRows o d).flatMap fun ir =>
      (List.range o.cols.toNat).map fun j => ((ir.2, v.colO o + j), v.stored o f ir.1 j)
    .ok ((b.convertInto v d false vals).countOor (v.oorRows o d))

/-! ### EMIT -/

def emitCheck (_v : View) (_sl : Slot) (o : MvOps) : Option Byte := firstReason [badSize o.rows]

/-- The token entry of a row (R149, R223), before its place in the ring. -/
def tokenEntry (v : View) (q : ReqSlot) (slot : Nat) (tok logp : W32) (flags : Byte) : ResEntry :=
  { stamp := v.chip.drone.now, tag := q.tag, token := tok, logp := logp, tidx := q.row.toList.getD 5 0
    step := v.run.step, slot := BitVec.ofNat 16 slot, wepoch := q.wepoch, plan := v.plan.id, status := 0
    aepoch := q.aepoch, nepoch := v.plan.image.nepoch, sflags := flags
    stop := match q.finish with
      | some (r, d) => BitVec.ofNat 8 (16 * r + d)
      | none => 0
    rflags := if q.finish.isSome then 1 else 0 }

/-- What becomes of a row of EMIT (R416): nothing, a token, or a log entry with its cause. -/
inductive EmitOut where
  | nothing
  | token
  | logged (cause : Nat)
  deriving DecidableEq, Repr

/-- R416's table. -/
def emitOut (v : View) (q : Option ReqSlot) (tok : W32) : EmitOut :=
  match q with
  | none => .logged 3
  | some q =>
    if !v.served q then .logged 1
    else if asI32 tok < 0 then .nothing
    else if q.finalFormed then .logged 2
    else .token

/-- The rows of EMIT in ascending order: the requests as they leave them, and the effects. -/
def emitRows (v : View) (o : MvOps) : List Nat → List (Nat × ReqSlot) → List (Nat × ReqSlot) × List Effect
  | [], qs => (qs, [])
  | i :: is, qs =>
    let slot := asI32 (v.buf o.ix i 0)
    if slot < 0 then emitRows v o is qs
    else
      let tok := v.buf o.v i 0
      let lp := v.buf o.v i 1
      let q := alGet qs slot.toNat
      match emitOut v q tok, q with
      | .token, some q =>
        let qs' := if q.finish.isSome then alPut qs slot.toNat { q with finalFormed := true } else qs
        let (qs'', es) := emitRows v o is qs'
        (qs'', .token (tokenEntry v q slot.toNat tok lp ((v.buf o.v i 2).setWidth 8)) :: es)
      | .logged cause, _ =>
        let (qs', es) := emitRows v o is qs
        (qs', .log 0x0060 3 (BitVec.ofNat 64 (v.ctx.pc * 2 ^ 32 + i)) (BitVec.ofInt 64 slot)
          (BitVec.ofNat 64 (tok.toNat * 2 ^ 32 + lp.toNat)) (BitVec.ofNat 64 cause) :: es)
      | _, _ => emitRows v o is qs

/-- The requests as they stand when the bundle retires, as far as its slots have issued. -/
def Build.requests (b : Build) (v : View) : List (Nat × ReqSlot) := b.slots.foldl (fun l x => alPut l x.1 x.2) v.tenant.slots

/-- EMIT (R47, R149, R416): buffers are read as they stood before the bundle (R22); a slot is judged as it stands when the
bundle retires, a VSTOP of the bundle included (notes/assumptions/26.md). -/
def emitBody (v : View) (_sl : Slot) (o : MvOps) (b : Build) : Except SlotFail Build :=
  let (qs, es) := emitRows v o (List.range o.rows.toNat) (b.requests v)
  .ok { b with
    slots := b.slots ++ qs.filter fun x => decide (alGet (b.requests v) x.1 ≠ some x.2)
    effects := b.effects ++ es }

end Sys2Proof.Machine
end

