-- ==== Sys2Proof/Machine/Fn.lean ====
section
/-! DEFINITION. The functions of VFN, EXP and LN (R114, R138): special results as the manual lists them;
otherwise the correctly rounded result, computed here in long fixed point, or one of its two neighbours
as `Config.neighbour` has it. -/

namespace Sys2Proof.Machine

/-- Natural logarithm of 2, times 2^256. -/
def ln2Fix : Nat := 80260960185991308862233904206310070533990667611589946606122867505419956976171

/-- 1/√(2π), times 2^512. -/
def invSqrt2PiFix : Nat := 5348941470755712198646750007682177443835115376392592444138995792460249438482006689649181438381986101946420819632906916886095183257957789698649401813142783

/-- The quotient `n / d * 2^e` with at least 256 significant bits; a sticky last bit stands for the rest,
so that a later rounding to nearest is the rounding of the quotient itself. -/
def ratio (neg : Bool) (n d : Nat) (e : Int) : Fp :=
  if d = 0 then .nan
  else if n = 0 then .fin neg 0 0
  else
    let s := 256 + bitLen d
    let q := n * 2 ^ s / d
    let r := n * 2 ^ s % d
    .fin neg (2 * q + (if r = 0 then 0 else 1)) (e - s - 1)

/-- The integer square root, by Newton steps from above; `fuel` bounds the steps. -/
def isqrtGo (n : Nat) : Nat → Nat → Nat
  | 0, x => x
  | fuel + 1, x =>
    let y := (x + n / x) / 2
    if y < x then isqrtGo n fuel y else x

def isqrt (n : Nat) : Nat := if n = 0 then 0 else isqrtGo n (bitLen n + 2) (2 ^ ((bitLen n + 1) / 2))

/-- The square root of `n / d * 2^e` for a positive quotient, with a sticky last bit. -/
def sqrtRatio (n d : Nat) (e : Int) : Fp :=
  let s : Nat := 2 * (256 + bitLen d) + (e % 2).toNat
  let v := n * 2 ^ s / d
  let q := isqrt v
  .fin false (2 * q + (if q * q * d = n * 2 ^ s then 0 else 1)) ((e - s) / 2 - 1)

/-- e^r for r = x / 2^256 in [0, 1), times 2^256: the sum of \`k\` terms. -/
def expSeries (x : Nat) : Nat → Nat → Nat → Nat → Nat
  | 0, _, _, acc => acc
  | k + 1, i, t, acc =>
    let t' := t * x / 2 ^ 256 / (i + 1)
    expSeries x k (i + 1) t' (acc + t')

/-- e^v for a finite v of moderate size; the result is a positive value with 256 significant bits. -/
def expFin (neg : Bool) (m : Nat) (e : Int) : Fp :=
  let x : Int := signed neg (if -256 ≤ e then m * 2 ^ (e + 256).toNat else m / 2 ^ (-256 - e).toNat)
  let k := x / ln2Fix
  let r := (x - k * ln2Fix).toNat
  if m = 0 then Fp.one else .fin false (expSeries r 60 0 (2 ^ 256) (2 ^ 256)) (k - 256)

/-- Whether |v| > n for a finite v. -/
def beyond (v : Fp) (n : Nat) : Bool := (Fp.fin false n 0).lt v.abs

/-- e^v: ∞ and 0 far outside every format's range. -/
def expFp (v : Fp) : Fp :=
  match v with
  | .nan => .nan
  | .inf s => if s then .zero else .inf false
  | .fin s m e =>
    if beyond v 300 then (if s then .fin false 1 (-400) else .fin false 1 400) else expFin s m e

/-- The sum of z^(2i+1)/(2i+1) for i from 0, z = x / 2^256, times 2^256: atanh z. -/
def atanhSeries (z2 : Nat) : Nat → Nat → Nat → Nat → Nat
  | 0, _, _, acc => acc
  | k + 1, i, p, acc => atanhSeries z2 k (i + 1) (p * z2 / 2 ^ 256) (acc + p / (2 * i + 1))

/-- ln v for a positive finite v. -/
def lnFin (m : Nat) (e : Int) : Fp :=
  let l := bitLen m - 1
  -- m = y * 2^l with 1 ≤ y < 2
  let z := (m - 2 ^ l) * 2 ^ 256 / (m + 2 ^ l)
  let a : Int := 2 * (atanhSeries (z * z / 2 ^ 256) 90 0 z 0 : Nat)
  let t := (e + l) * ln2Fix + a
  .fin (decide (t < 0)) t.natAbs (-256)

def lnFp (v : Fp) : Fp :=
  match v with
  | .nan => .nan
  | .inf s => if s then .nan else .inf false
  | .fin s m e => if m = 0 then .inf true else if s then .nan else lnFin m e

/-- A finite value as a signed fraction with a power of two as denominator. -/
def asRatio (m : Nat) (e : Int) : Nat × Nat :=
  if 0 ≤ e then (m * 2 ^ e.toNat, 1) else (m, 2 ^ (-e).toNat)

/-- 1 / (1 + e^-v). -/
def logisticFp (v : Fp) : Fp :=
  match v with
  | .nan => .nan
  | .inf s => if s then .zero else .one
  | .fin s _ _ =>
    if beyond v 300 then (if s then .fin false 1 (-400) else .one)
    else
      match expFp v.abs with
      | .fin _ t k =>
        let (n, d) := asRatio t k
        if s then ratio false d (n + d) 0 else ratio false n (n + d) 0
      | w => w

/-- tanh v: v itself where the difference is far below every format's last place. -/
def tanhFp (v : Fp) : Fp :=
  match v with
  | .nan => .nan
  | .inf s => .fin s 1 0
  | .fin s m e =>
    if (v.abs).lt (.fin false 1 (-20)) then v
    else if beyond v 100 then .fin s 1 0
    else
      match expFp (.fin false m (e + 1)) with
      | .fin _ t k =>
        let (n, d) := asRatio t k
        ratio s (n - d) (n + d) 0
      | w => w

/-- The alternating series of the normal distribution, x^(2i+1)/(i! 2^i (2i+1)), in units of 2^-512. -/
def phiSeries (x2 : Int) : Nat → Nat → Int → Int → Int
  | 0, _, _, acc => acc
  | k + 1, i, p, acc =>
    phiSeries x2 k (i + 1) (-(p * x2) / (2 ^ 512 * 2 * ((i : Int) + 1))) (acc + p / (2 * i + 1))

/-- v * Φ(v), the erf form of GELU. -/
def geluFp (v : Fp) : Fp :=
  match v with
  | .nan => .nan
  | .inf s => if s then .fin true 0 0 else .inf false
  | .fin s m e =>
    if beyond v 20 then (if s then .fin true 1 (-400) else v)
    else
      let x : Int := signed s (if -512 ≤ e then m * 2 ^ (e + 512).toNat else m / 2 ^ (-512 - e).toNat)
      let t := phiSeries (x * x / 2 ^ 512) 1400 0 x 0
      let p : Int := 2 ^ 511 + t * invSqrt2PiFix / 2 ^ 512
      v.mul (.fin false p.toNat (-512))

/-- The exact function of VFN's FN field (R43), before rounding; specials of R114 excepted. -/
def vfnExact (fn : Nat) (v : Fp) : Fp :=
  match fn, v with
  | 0, v => expFp v
  | 1, v => lnFp v
  | 2, .fin _ m e => let (n, d) := asRatio m e; sqrtRatio d n 0
  | 3, .fin s m e => let (n, d) := asRatio m e; ratio s d n 0
  | 4, v => tanhFp v
  | 5, v => logisticFp v
  | 6, v => geluFp v
  | 7, v => v.mul (logisticFp v)
  | 8, .fin _ m e => if m = 0 then .zero else let (n, d) := asRatio m e; sqrtRatio n d 0
  | _, _ => .nan

/-- The special results of R114; none where the function is computed. -/
def vfnSpecial (fn : Nat) (v : Fp) : Option Fp :=
  match fn, v with
  | _, .nan => some .nan
  | 0, .inf s => some (if s then .zero else .inf false)
  | 1, .inf s => some (if s then .nan else .inf false)
  | 1, .fin s m _ => if m = 0 then some (.inf true) else if s then some .nan else none
  | 2, .inf s => some (if s then .nan else .zero)
  | 2, .fin s m _ => if m = 0 then some (.inf s) else if s then some .nan else none
  | 3, .inf s => some (.fin s 0 0)
  | 3, .fin s m _ => if m = 0 then some (.inf s) else none
  | 4, .inf s => some (.fin s 1 0)
  | 5, .inf s => some (if s then .zero else .one)
  | 6, .inf s => some (if s then .fin true 0 0 else .inf false)
  | 7, .inf s => some (if s then .fin true 0 0 else .inf false)
  | 8, .inf s => some (if s then .nan else .inf false)
  | 8, .fin s m _ => if s then some (if m = 0 then .fin true 0 0 else .nan) else none
  | _, _ => none

/-- A neighbour of a format's bits in the order of values: pick 0 the bits themselves, 1 the value below,
2 the value above; ±∞ has no neighbour beyond it (R114). The sign of a zero that is a neighbour is the free value's too.
`w` is the format's width. -/
def neighbourBits (w : Nat) (infMag : Nat) (bits : W32) (pick : Nat) : W32 :=
  let n := bits.toNat % 2 ^ w
  let mag := n % 2 ^ (w - 1)
  let o : Int := if n = mag then (mag : Int) else -(mag : Int)
  let o' := match pick % 3 with
    | 1 => max (-(infMag : Int)) (o - 1)
    | 2 => min (infMag : Int) (o + 1)
    | _ => o
  if pick % 3 = 0 then bits
  else if o' = 0 then (if pick / 3 % 2 = 0 then 0 else BitVec.ofNat 32 (2 ^ (w - 1)))
  else if o' < 0 then BitVec.ofNat 32 (2 ^ (w - 1) + o'.natAbs) else BitVec.ofNat 32 o'.natAbs

/-- A VFN result (R114). The overflow of exp on a finite input is +∞. -/
def vfnBf (hwgen nepoch : Byte) (fn : Nat) (x : W32) : W32 :=
  let v := ofBf x
  match vfnSpecial fn v with
  | some r => Fmt.bf16.encode r
  | none =>
    let r := rneBf (vfnExact fn v)
    if fn = 0 ∧ r = .inf false then 0x7F80
    else neighbourBits 16 0x7F80 (Fmt.bf16.encode r) (Config.neighbour hwgen nepoch fn (x &&& 0xFFFF))

/-- EXP of an FP32 value (R138), as FP32 bits. -/
def exp32 (hwgen nepoch : Byte) (x : W32) : W32 :=
  match ofF32 x with
  | .nan => 0x7FC00000
  | .inf s => if s then 0 else 0x7F800000
  | v => neighbourBits 32 0x7F800000 (toF32 (expFp v)) (Config.neighbour hwgen nepoch 9 x)

/-- LN of an FP32 value (R138), as FP32 bits. -/
def ln32 (hwgen nepoch : Byte) (x : W32) : W32 :=
  match vfnSpecial 1 (ofF32 x) with
  | some r => Fmt.fp32.encode r
  | none => neighbourBits 32 0x7F800000 (toF32 (lnFp (ofF32 x))) (Config.neighbour hwgen nepoch 10 x)

/-- The noise of a vocabulary entry from its 24-bit slice b (R131, R138): u = (b + 0.5) * 2^-24 exactly,
w = −ln u as FP32, g = −LN(w). -/
def gumbel (hwgen nepoch : Byte) (b : Nat) : Fp :=
  let lnu := neighbourBits 32 0x7F800000 (toF32 (lnFp (.fin false (2 * b + 1) (-25))))
    (Config.neighbour hwgen nepoch 11 (BitVec.ofNat 32 b))
  (ofF32 (ln32 hwgen nepoch (toF32 (ofF32 lnu).neg))).neg

end Sys2Proof.Machine
end

