-- ==== Sys2Proof/Machine/Vector.lean ====
section
/-! DEFINITION. The VA and VB slots but for VSAMP and VSTOP (R42-R44, R110, R113-R124): what each opcode
checks and what it does. Times (R125) are not modelled. -/

namespace Sys2Proof.Machine

/-! ### Shared shapes of vector operations -/

/-- The region's size is allowed (R42). -/
def sizeRules (o : VOps) : List (Bool × Byte) := [badSize o.rows, badSize o.cols]

def sizeCheck (_v : View) (_sl : Slot) (o : VOps) : Option Byte := firstReason (sizeRules o)

/-- A region of the destination written with a function of row and column. -/
def Build.fillD (b : Build) (o : VOps) (f : Nat → Nat → W32) : Build :=
  b.fillBuf o.d o.rows.toNat o.cols.toNat f

/-- A BF16 operation of two sources (R113). -/
def lane2 (v : View) (o : VOps) (b : Build) (f : Fp → Fp → Fp) : Build :=
  b.fillD o fun r c => toBf (f (ofBf (v.buf o.x r c)) (ofBf (v.buf o.y r c)))

/-- TD's region rule: ROWS and COLS lie within the view (R44). -/
def inView (d : Desc) (o : VOps) : Bool × Byte :=
  (decide (Desc.rows d < o.rows.toNat) || decide (Desc.cols d < o.cols.toNat), 5)

/-! ### Element-wise arithmetic -/

/-- VADD (R43). -/
def vaddBody (v : View) (_sl : Slot) (o : VOps) (b : Build) : Except SlotFail Build := .ok (lane2 v o b Fp.add)

/-- VSUB (R43). -/
def vsubBody (v : View) (_sl : Slot) (o : VOps) (b : Build) : Except SlotFail Build := .ok (lane2 v o b Fp.sub)

/-- VMUL (R43). -/
def vmulBody (v : View) (_sl : Slot) (o : VOps) (b : Build) : Except SlotFail Build := .ok (lane2 v o b Fp.mul)

/-- VFMA: one rounding (R43, R113). -/
def vfmaBody (v : View) (_sl : Slot) (o : VOps) (b : Build) : Except SlotFail Build :=
  .ok (b.fillD o fun r c =>
    toBf (((ofBf (v.buf o.x r c)).mul (ofBf (v.buf o.y r c))).add (ofBf (v.buf o.z r c))))

/-- The order of VMAX and VMIN: −0 below +0 (R113). -/
def below (a b : Fp) : Bool :=
  match a, b with
  | .fin sa 0 _, .fin sb 0 _ => sa && !sb
  | _, _ => a.lt b

/-- The greater, or smaller, of two BF16 elements; NaN when either is NaN (R113). -/
def pickBf (maxi : Bool) (x y : W32) : W32 :=
  let a := ofBf x
  let c := ofBf y
  if a.isNan || c.isNan then 0x7FC0
  else if (if maxi then below a c else below c a) then y &&& 0xFFFF else x &&& 0xFFFF

/-- VMAX (R43, R113). -/
def vmaxBody (v : View) (_sl : Slot) (o : VOps) (b : Build) : Except SlotFail Build :=
  .ok (b.fillD o fun r c => pickBf true (v.buf o.x r c) (v.buf o.y r c))

/-- VMIN (R43, R113). -/
def vminBody (v : View) (_sl : Slot) (o : VOps) (b : Build) : Except SlotFail Build :=
  .ok (b.fillD o fun r c => pickBf false (v.buf o.x r c) (v.buf o.y r c))

/-- VSCL: times bits [15:0] of the scalar operand read as BF16 (R43). -/
def vsclBody (v : View) (sl : Slot) (o : VOps) (b : Build) : Except SlotFail Build :=
  let s := ofBf ((v.ctx.opS sl o).val.setWidth 32)
  .ok (b.fillD o fun r c => toBf ((ofBf (v.buf o.x r c)).mul s))

/-- The plan's numerics epoch (R107) and hardware generation. -/
def View.nepoch (v : View) : Byte := v.plan.image.nepoch
def View.hwgen (v : View) : Byte := v.plan.image.hwgen

def vfnCheck (_v : View) (_sl : Slot) (o : VOps) : Option Byte :=
  firstReason ((decide (8 < o.fn.val), 5) :: sizeRules o)

/-- VFN (R43, R114). -/
def vfnBody (v : View) (_sl : Slot) (o : VOps) (b : Build) : Except SlotFail Build :=
  .ok (b.fillD o fun r c => vfnBf v.hwgen v.nepoch o.fn.val (v.buf o.x r c))

/-! ### Reductions, comparisons, selection -/

def vredCheck (_v : View) (_sl : Slot) (o : VOps) : Option Byte :=
  firstReason ((decide (3 < o.fn.val), 5) :: sizeRules o)

/-- The greatest or smallest of a row with its lowest column (R87, R115). -/
def rowWinner (maxi : Bool) (xs : List Fp) : Fp × Nat :=
  match xs with
  | [] => (.nan, 0)
  | x :: rest =>
    ((rest.zipIdx).foldl (fun (w : Fp × Nat) y =>
      if (y.1.isNan && !w.1.isNan) || (if maxi then w.1.lt y.1 else y.1.lt w.1) then (y.1, y.2 + 1) else w) (x, 0))

/-- VRED (R43, R115). A sum has no starting value: its elements join one another, so a row of −0 alone sums to −0 (DESIGN
CHOICE, notes/assumptions/104.md). -/
def vredBody (v : View) (_sl : Slot) (o : VOps) (b : Build) : Except SlotFail Build :=
  let row := fun r => (List.range o.cols.toNat).map fun c => ofBf (v.buf o.x r c)
  .ok (b.putBuf o.d ((List.range o.rows.toNat).flatMap fun r =>
    let xs := row r
    if o.fn = 0 then [((r, 0), toF32 (joinAll v.gen [1, xs.length] xs.length xs))]
    else if o.fn = 3 then
      [((r, 0), toF32 (joinAll v.gen [1, xs.length] xs.length (xs.map fun x => x.mul x)))]
    else
      let (x, c) := rowWinner (decide (o.fn = 1)) xs
      [((r, 0), toF32 x), ((r, 1), BitVec.ofNat 32 c)]))

def vcmpCheck (_v : View) (_sl : Slot) (o : VOps) : Option Byte :=
  firstReason ((decide (5 < o.fn.val), 5) :: sizeRules o)

/-- VCMP's relation of two BF16 values (R43). The manual does not state whether one holds where an operand is NaN:
the answer is then a fixed function of the operands, as R126 has it (FREE VALUE, notes/assumptions/24.md). -/
def cmpHolds (fn : Fin 16) (xb yb : W32) : Bool :=
  let x := ofBf xb
  let y := ofBf yb
  if x.isNan || y.isNan then Config.cmpNan fn.val (xb.setWidth 16) (yb.setWidth 16)
  else match fn with
    | 0 => x.eq y
    | 1 => !x.eq y
    | 2 => x.lt y
    | 3 => x.le y
    | 4 => y.lt x
    | 5 => y.le x
    | _ => false

/-- VCMP (R43). -/
def vcmpBody (v : View) (_sl : Slot) (o : VOps) (b : Build) : Except SlotFail Build :=
  .ok (b.fillD o fun r c => if cmpHolds o.fn (v.buf o.x r c) (v.buf o.y r c) then 1 else 0)

/-- VSEL (R43). -/
def vselBody (v : View) (_sl : Slot) (o : VOps) (b : Build) : Except SlotFail Build :=
  .ok (b.fillD o fun r c => if v.buf o.z r c ≠ 0 then v.buf o.x r c else v.buf o.y r c)

/-! ### Compress and expand (R117) -/

/-- The columns of a row whose mask is set, ascending. -/
def setCols (v : View) (o : VOps) (r : Nat) : List Nat :=
  (List.range o.cols.toNat).filter fun c => decide (v.buf o.z r c ≠ 0)

/-- VCPR (R43, R117): D takes the packed elements, Y their source columns; where D is Y the manual does not say
which of the two stands (Config.unstated). -/
def vcprBody (v : View) (_sl : Slot) (o : VOps) (b : Build) : Except SlotFail Build :=
  let packed := fun r c => (setCols v o r)[c]?
  let xs := fun r c => match packed r c with
    | some k => v.buf o.x r k
    | none => 0
  let ys := fun r c => match packed r c with
    | some k => BitVec.ofNat 32 k
    | none => 0xFFFFFFFF
  if o.d = o.y then .ok (b.fillD o fun r c => Config.unstated 0x0C (xs r c) (ys r c))
  else .ok ((b.fillD o xs).fillBuf o.y o.rows.toNat o.cols.toNat ys)

def vxpdCheck (_v : View) (_sl : Slot) (o : VOps) : Option Byte :=
  firstReason ((decide (o.d = o.x) || decide (o.d = o.y), 5) :: sizeRules o)

/-- VXPD (R43, R117): among equal targets the greater i stands. -/
def vxpdBody (v : View) (_sl : Slot) (o : VOps) (b : Build) : Except SlotFail Build :=
  .ok (b.fillD o fun r c =>
    match (List.range o.cols.toNat).reverse.find? fun i => decide (asI32 (v.buf o.y r i) = (c : Int)) with
    | some i => v.buf o.x r i
    | none => v.buf o.z r c)

/-! ### Conversion and random values -/

/-- VCVT's source reading (R116). -/
def cvtSource (fn : Fin 16) : Option Fmt :=
  match fn with
  | 0 => some .bf16
  | 1 => some .fp32
  | 2 => some .i32
  | _ => none

def vcvtCheck (v : View) (_sl : Slot) (o : VOps) : Option Byte :=
  let d := v.desc o.td
  firstReason ((decide (2 < o.fn.val), 5) :: sizeRules o ++
    [badDesc v d, inView d o, (decide (Desc.fmt d = some .fp4) && !Desc.scaled d, 5)])

/-- VCVT (R43, R95-R102, R116): the result in D; the scales of a scaled TD into its scale tensor (R36). -/
def vcvtBody (v : View) (_sl : Slot) (o : VOps) (b : Build) : Except SlotFail Build :=
  let d := v.desc o.td
  match cvtSource o.fn, Desc.fmt d with
  | some src, some f =>
    let vals := (region 0 0 o.rows.toNat o.cols.toNat).map fun p => (p, src.decode (v.buf o.x p.1 p.2))
    let scales := if Desc.scaled d then amaxScales d f vals else []
    let conv := vals.map fun x => (x.1, convElem d f scales (v.sr (Desc.strm d)) x.1 x.2)
    let b := scales.foldl (fun b s => b.putBits v (Desc.stid d) s.1 (s.2.setWidth 32)) b
    let b := b.putBuf o.d (conv.map fun x => (x.1, x.2.1))
    .ok (if narrows src f then conv.foldl (fun b x => b.countConv v.ctx.layer f x.2.2) b else b)
  | _, _ => .error (.reject 5)

def vrndCheck (v : View) (_sl : Slot) (o : VOps) : Option Byte :=
  let d := v.desc o.td
  firstReason ((decide (2 < o.fn.val), 5) :: sizeRules o ++ [badDesc v d, inView d o])

/-- VRND (R43, R131). -/
def vrndBody (v : View) (sl : Slot) (o : VOps) (b : Build) : Except SlotFail Build :=
  let d := v.desc o.td
  let p := ofBf ((v.ctx.opS sl o).val.setWidth 32)
  .ok (b.fillD o fun r c =>
    let sli := programSlice v.ctx.seed v.run.step (Desc.strm d) (Desc.offset d r c)
    match o.fn with
    | 0 => BitVec.ofNat 32 (sli 32)
    | 1 => uniformBf (sli 24)
    | _ => keepMask p (sli 24))

/-! ### Ways out of the array -/

/-- A bundle holds at most one of VACC, VFTQ, VSAMP, VSTOP and VOPT (R44). -/
def special (b : Build) (k : Build → Except SlotFail Build) : Except SlotFail Build :=
  if b.special then .error (.reject 5) else k { b with special := true }

/-- The class of a narrowing to BF16 without a descriptor (R97, R118). -/
def narrowBf (x : Fp) : W32 × Fin 6 :=
  match x with
  | .fin _ m e =>
    match rneBf x with
    | .fin _ a q => (toBf x, shapeBf.classOf m e a q)
    | _ => (toBf x, 5)
  | _ => (toBf x, 5)

/-- The accumulator as VACC reads it (R40, R118). -/
def vaccAcc (o : VOps) (a : Acc) : Except SlotFail Acc :=
  match AccState.next .read a.state with
  | none => .error .acc
  | some st =>
    if a.m < o.rows.toNat || a.n < o.cols.toNat then .error (.reject 5) else .ok { a with state := st }

/-- VACC (R40, R43, R118). -/
def vaccBody (v : View) (_sl : Slot) (o : VOps) (b : Build) : Except SlotFail Build :=
  special b fun b =>
    match vaccAcc o v.ctx.ac[o.acs] with
    | .error e => .error e
    | .ok a =>
        let conv := (region 0 0 o.rows.toNat o.cols.toNat).map fun p =>
          (p, narrowBf (ofF32 (spGet 0 a.cells (cellKey p.1 p.2))))
        let b := b.putBuf o.d (conv.map fun x => (x.1, x.2.1))
        .ok (conv.foldl (fun b x => b.countConv v.ctx.layer .bf16 x.2.2) b)

/-- A queue entry's element as VFTQ writes it: FP4 and FP8 widened to BF16 (R99, R119). -/
def FtqEntry.word (q : FtqEntry) (r c : Nat) : W32 :=
  if q.rows ≤ r || q.cols ≤ c then 0
  else
    let x := spGet ⟨0, 127⟩ q.cells (cellKey r c)
    match Fmt.ofCode q.fmt with
    | some f => if f.scalable then toBf (x.value f) else x.bits
    | none => 0

/-- VFTQ (R43, R119, R120). -/
def vftqBody (v : View) (_sl : Slot) (o : VOps) (b : Build) : Except SlotFail Build :=
  special b fun b =>
    match v.ctx.ftq with
    | [] =>
      .ok { b.fillD o (fun _ _ => 0) with counts := { b.counts with ftqUnder := b.counts.ftqUnder + 1 } }
    | q :: _ =>
      let b := { b with ctx := { b.ctx with ftq := b.ctx.ftq.drop 1 } }
      let b := b.fillD o q.word
      .ok (if q.rows = o.rows.toNat ∧ q.cols = o.cols.toNat then b
           else { b with counts := { b.counts with ftqShape := b.counts.ftqShape + 1 } })

/-! ### Optimizer updates (R121-R124) -/

/-- The optimizer record of TD's tensor (R54, R121). -/
def View.optrec (v : View) (d : Desc) : Option (BitVec 20) :=
  match v.plan.image.tensor (Desc.tid d) with
  | some e => if e.role = .weight ∧ e.optrec ≠ 0 then some e.optrec else none
  | none => none

def voptCheck (v : View) (_sl : Slot) (o : VOps) : Option Byte :=
  let d := v.desc o.td
  firstReason ((decide (1 < o.fn.val), 5) :: sizeRules o ++ [badDesc v d, ((v.optrec d).isNone, 2), inView d o])

/-- The results of one element: w′, m′, v′ with the classes of the stochastic roundings (R123). -/
structure OptOut where
  w : W32
  m : W32
  v : W32
  cls : List (Fin 6)

/-- 1/d in BF16: a finite d that is not zero and whose reciprocal overflows gives R98's result under TD's OVF (R97, R124). -/
def recipOf (hwgen nepoch : Byte) (ovf : Bool) (d : W32) : W32 :=
  let y := vfnBf hwgen nepoch 3 d
  match ofBf d, ofBf y with
  | .fin _ (_ + 1) _, .inf s => if ovf then y else if s then 0xFF7F else 0x7F7F
  | _, _ => y

/-- R123 for one element. `rec` gives the record's elements; `r` the random bits of SR₀, SR₁, SR₂. -/
def optElem (hwgen nepoch : Byte) (ovf : Bool) (fn : Fin 16) (hp : Nat → Fp) (nesterov : Bool)
    (r : Nat → Nat) (x w m vv : W32) : OptOut :=
  let rne := fun y => (Fmt.bf16.convert ovf none y).1
  let srd := fun i y => Fmt.bf16.convert ovf (some (r i)) y
  let g := ofBf (rne ((ofBf x).mul (hp 9)))
  let wf := ofBf w
  if fn = 0 then
    let (m', k1) := srd 1 (((hp 2).mul (ofBf m)).add g)
    let u := if nesterov then ofBf (rne (g.add ((hp 2).mul (ofBf m')))) else ofBf m'
    let (w', k0) := srd 0 ((wf.sub ((hp 0).mul u)).sub ((hp 1).mul wf))
    { w := w', m := m', v := vv, cls := [k0, k1] }
  else
    let (m', k1) := srd 1 (((hp 2).mul (ofBf m)).add ((hp 3).mul g))
    let q := ofBf (rne (g.mul g))
    let (v', k2) := srd 2 (((hp 4).mul (ofBf vv)).add ((hp 5).mul q))
    let a := rne ((hp 8).mul (ofBf v'))
    let d := rne ((ofBf (vfnBf hwgen nepoch 8 a)).add (hp 6))
    let n := rne ((ofBf m').mul (ofBf (recipOf hwgen nepoch ovf d)))
    let u := ofBf (rne ((hp 7).mul (ofBf n)))
    let (w', k0) := srd 0 ((wf.sub ((hp 0).mul u)).sub ((hp 1).mul wf))
    { w := w', m := m', v := v', cls := [k0, k1, k2] }

/-- The values that VOPT leaves in Y, Z and D; where two of them are one buffer the manual does not say which value
stands (Config.unstated). -/
def OptOut.stored (q : OptOut) (o : VOps) : W32 × W32 × W32 :=
  let two := decide (o.fn = 1)
  let y := if two && decide (o.y = o.z) then Config.unstated 0x14 q.m q.v else q.m
  let z := if decide (o.y = o.z) then y else q.v
  let d := if o.d = o.y then Config.unstated 0x14 q.w y
    else if two && decide (o.d = o.z) then Config.unstated 0x14 q.w z else q.w
  (y, z, d)

/-- VOPT (R43, R121-R124, R159, R161). -/
def voptBody (v : View) (_sl : Slot) (o : VOps) (b : Build) : Except SlotFail Build :=
  special b fun b =>
    let d := v.desc o.td
    match v.optrec d with
    | none => .error (.reject 2)
    | some rt =>
      let hp := fun i => ofF32 (v.bits rt i)
      let nest := (v.bits rt 10).toNat % 2 = 1
      let pos := region 0 0 o.rows.toNat o.cols.toNat
      let res := pos.map fun p =>
        let off := Desc.offset d p.1 p.2
        (p, v.buf o.d p.1 p.2,
          optElem v.hwgen v.nepoch (Desc.ovf d) o.fn hp nest
            (fun i => v.sr (Desc.strm d + BitVec.ofNat 16 i) off)
            (v.buf o.x p.1 p.2) (v.buf o.d p.1 p.2) (v.buf o.y p.1 p.2) (v.buf o.z p.1 p.2))
      let b := b.putBuf o.y (res.map fun x => (x.1, (x.2.2.stored o).1))
      let b := if o.fn = 1 then b.putBuf o.z (res.map fun x => (x.1, (x.2.2.stored o).2.1)) else b
      let b := b.putBuf o.d (res.map fun x => (x.1, (x.2.2.stored o).2.2))
      let b := res.foldl (fun b x => x.2.2.cls.foldl (fun b k => b.countConv v.ctx.layer .bf16 k) b) b
      let sq := fun (y : Fp) => y.mul y
      .ok { b with mon := b.mon ++ [.vopt v.ctx.layer
              (res.map fun x => sq ((ofBf x.2.2.w).sub (ofBf x.2.1))) (res.map fun x => sq (ofBf x.2.1))
              (o.rows.toNat, o.cols.toNat) (hp 1)] }

/-- A VOPT whose predicate is false is marked in its layer's record (R166). -/
def voptSkip (v : View) (b : Build) : Build := { b with mon := b.mon ++ [.skipped v.ctx.layer] }

/-! ### Between buffers and scalars -/

def vgetCheck (_v : View) (_sl : Slot) (_o : VOps) : Option Byte := none

/-- VGET (R43): dynamic. -/
def vgetBody (v : View) (sl : Slot) (o : VOps) (b : Build) : Except SlotFail Build :=
  .ok (b.writeS v sl o.ss ((v.buf o.x 0 0).setWidth 64) true)

/-- VTST (R43): dynamic. -/
def vtstBody (v : View) (sl : Slot) (o : VOps) (b : Build) : Except SlotFail Build :=
  .ok (b.writeP v sl o.pd ((region 0 0 o.rows.toNat o.cols.toNat).any fun p => decide (v.buf o.x p.1 p.2 ≠ 0)) true)

/-- VPUT (R43). -/
def vputBody (v : View) (sl : Slot) (o : VOps) (b : Build) : Except SlotFail Build :=
  .ok (b.fillD o fun _ _ => (v.ctx.opS sl o).val.setWidth 32)

end Sys2Proof.Machine
end

