-- ==== Sys2Proof/Machine/Sample.lean ====
section
/-! DEFINITION. The sampling unit and the stop unit (R135-R150): VSAMP and VSTOP. -/

namespace Sys2Proof.Machine

/-! ### VSAMP -/

/-- VSAMP's operands (R27, R136). -/
def vsampCheck (v : View) (_sl : Slot) (o : VOps) : Option Byte :=
  let s := v.ctx.s[o.ss]
  firstReason ((decide (7 < o.fn.val), 5) :: sizeRules o ++
    [ (s.dyn, 3)
    , (decide (o.fn.val ≤ 3) && decide (262144 < s.val.toNat + o.cols.toNat), 5)
    , (decide (o.d = o.x) || decide (o.d = o.y) || (decide (4 ≤ o.fn.val) && decide (o.d = o.z)), 5) ])

/-- A row's parameters (R135). -/
structure SampParams where
  invt : Fp
  topk : Nat
  topp : Fp
  sstr : W16
  nonce : W32
  tidx : W32
  greedy : Bool
  lpm : Bool

/-- The parameters in columns 0-7 of a row of Y (R135); a TOPK above 256 acts as 256. -/
def sampParams (word : Nat → W32) : SampParams :=
  { invt := ofF32 (word 0), topk := min (word 1).toNat 256, topp := ofF32 (word 2)
    sstr := (word 3).setWidth 16, nonce := word 4, tidx := word 5
    greedy := (word 6).getLsbD 0, lpm := (word 6).getLsbD 1 }

/-- INVT is finite and above 0 (R138). -/
def SampParams.ok (p : SampParams) : Bool := p.invt.isFinite && Fp.zero.lt p.invt

/-- The full-vocabulary path applies (R138). -/
def SampParams.full (p : SampParams) : Bool := decide (p.topk = 0) && Fp.one.le p.topp

/-- The running state of a row in D (R137). -/
structure SampState where
  m : Fp
  sum : Fp
  bkey : Fp
  bidx : W32
  flag : W32
  by_ : Fp
  cand : List (Fp × Nat)

def SampState.init : SampState :=
  { m := .inf true, sum := .zero, bkey := .inf true, bidx := 0xFFFFFFFF, flag := 0, by_ := .inf true, cand := [] }

/-- The state that a row of D holds (R137). -/
def SampState.read (word : Nat → W32) : SampState :=
  { m := ofF32 (word 0), sum := ofF32 (word 1), bkey := ofF32 (word 2), bidx := word 3, flag := word 5
    by_ := ofF32 (word 6)
    cand := (List.range (min (word 4).toNat 256)).map fun i => (ofF32 (word (8 + i)), (word (264 + i)).toNat) }

/-- What becomes of one entry of a chunk (R142). -/
inductive Entry1 where
  | skip
  /-- Excluded, with the bits that FLAG gains. -/
  | flagged (bits : Nat)
  | kept (y : Fp) (v : Nat)

/-- The entry of a score and a vocabulary index (R138, R142). -/
def sampEntry (p : SampParams) (z : Fp) (idx : Int) : Entry1 :=
  let y := rne32 (z.mul p.invt)
  let banned := match z with
    | .inf true => true
    | _ => false
  let nonfinite := !banned && !(z.isFinite && y.isFinite)
  let outside := decide (idx < 0 ∨ 262143 < idx)
  if outside || nonfinite then .flagged ((if outside then 16 else 0) + (if nonfinite then 1 else 0))
  else if banned then .skip
  else .kept y idx.toNat

/-- Rank order: y descending, then v ascending (R138). -/
def ranksBefore (a b : Fp × Nat) : Bool := b.1.lt a.1 || (a.1.eq b.1 && decide (a.2 < b.2))

/-- A candidate inserted in rank order, the 256 highest kept (R138). -/
def insertCand (cs : List (Fp × Nat)) (x : Fp × Nat) : List (Fp × Nat) :=
  (cs.takeWhile (fun c => !ranksBefore x c) ++ x :: cs.dropWhile fun c => !ranksBefore x c).take 256

/-- The noise g_v of a vocabulary entry (R131, R138). -/
def sampNoise (v : View) (p : SampParams) (idx : Nat) : Fp :=
  gumbel v.hwgen v.nepoch (samplingSlice v.ctx.seed p.nonce p.tidx p.sstr idx)

/-- EXP and LN of the numerics epoch (R138). -/
def View.exp (v : View) (x : Fp) : Fp := ofF32 (exp32 v.hwgen v.nepoch (toF32 x))
def View.ln (v : View) (x : Fp) : Fp := ofF32 (ln32 v.hwgen v.nepoch (toF32 x))

/-- One entry on the full-vocabulary path (R138). -/
def SampState.best (s : SampState) (v : View) (p : SampParams) (y : Fp) (idx : Nat) : SampState :=
  let key := if p.greedy then y else rne32 (y.add (sampNoise v p idx))
  if s.bkey.lt key || (s.bkey.eq key && decide ((idx : Int) < asI32 s.bidx)) then
    { s with bkey := key, bidx := BitVec.ofNat 32 idx, by_ := y }
  else s

/-- A chunk folded into a row's state (R138, R142). -/
def SampState.fold (s : SampState) (v : View) (p : SampParams) (cols : Nat) (es : List Entry1) : SampState :=
  let kept := es.filterMap fun e => match e with
    | .kept y i => some (y, i)
    | _ => none
  let flag := es.foldl (fun f e => match e with
    | .flagged b => f ||| BitVec.ofNat 32 b
    | _ => f) s.flag
  let s := { s with flag := flag }
  match kept with
  | [] => s
  | k :: ks =>
    let mc := ks.foldl (fun m x => if m.lt x.1 then x.1 else m) k.1
    let terms := es.map fun e => match e with
      | .kept y _ => v.exp (rne32 (y.sub mc))
      | _ => .zero
    let sc := joinAll v.gen [2, cols] terms.length terms
    let s := match s.m with
      | .inf true => { s with m := mc, sum := sc }
      | m =>
        let m' := if m.lt mc then mc else m
        { s with
          m := m'
          sum := rne32 ((rne32 (s.sum.mul (v.exp (rne32 (m.sub m'))))).add
                        (rne32 (sc.mul (v.exp (rne32 (mc.sub m')))))) }
    let s := { s with cand := kept.foldl insertCand s.cand }
    if p.full then kept.foldl (fun s x => s.best v p x.1 x.2) s else s

/-- The result of a selection: token, log-probability, flags, eligible count (R137). -/
structure SampResult where
  token : W32
  logp : W32
  flags : W32
  count : Nat

/-- The running sums c_0, c_1, … of the candidates' weights (R139). -/
def runningSums (c : Fp) : List Fp → List Fp
  | [] => [c]
  | e :: es => c :: runningSums (rne32 (c.add e)) es

/-- The greatest key, lowest v on ties (R139). -/
def bestKey : List (Fp × Fp × Nat) → Option (Fp × Fp × Nat)
  | [] => none
  | x :: xs =>
    match bestKey xs with
    | none => some x
    | some w => if x.1.lt w.1 || (x.1.eq w.1 && decide (w.2.2 < x.2.2)) then some w else some x

/-- Selection on the last chunk (R139-R142). -/
def SampState.select (s : SampState) (v : View) (p : SampParams) : SampResult :=
  match s.cand with
  | [] => { token := 0xFFFFFFFF, logp := 0x7FC00000, flags := s.flag ||| 2, count := 0 }
  | c0 :: _ =>
    let es := s.cand.map fun c => v.exp (rne32 (c.1.sub s.m))
    let cs := runningSums .zero es
    let lim := rne32 (p.topp.mul s.sum)
    let noP := Fp.one.le p.topp
    let elig := ((s.cand.zip cs).zipIdx).filterMap fun x =>
      if x.2 = 0 || ((decide (x.2 < p.topk) || decide (p.topk = 0)) && (noP || x.1.2.lt lim)) then
        some (x.1.1, x.2) else none
    let trunc := p.topp.lt .one && decide (s.cand.length = 256) && decide (elig.length = 256) &&
      (cs.getD 256 .zero).lt lim
    let flags := if trunc then s.flag ||| 8 else s.flag
    let all := rne32 (s.m.add (v.ln s.sum))
    if p.full then
      { token := s.bidx, logp := toF32 (rne32 (s.by_.sub all)), flags := flags, count := elig.length }
    else
      let keyed := elig.map fun x => (if p.greedy then x.1.1 else rne32 (x.1.1.add (sampNoise v p x.1.2)), x.1)
      let w := if p.greedy then c0 else ((bestKey keyed).map Prod.snd).getD c0
      let se := elig.foldl (fun a x => rne32 (a.add (es.getD x.2 .zero))) .zero
      let den := if p.lpm then rne32 (s.m.add (v.ln se)) else all
      { token := BitVec.ofNat 32 w.2, logp := toF32 (rne32 (w.1.sub den)), flags := flags, count := elig.length }

/-- The words that a row's state writes into columns of D (R137). -/
def SampState.words (s : SampState) : List (Nat × W32) :=
  [(0, toF32 s.m), (1, toF32 s.sum), (2, toF32 s.bkey), (3, s.bidx), (4, BitVec.ofNat 32 s.cand.length),
   (5, s.flag), (6, toF32 s.by_)] ++
  s.cand.mapIdx (fun i c => (8 + i, toF32 c.1)) ++ s.cand.mapIdx (fun i c => (264 + i, BitVec.ofNat 32 c.2))

/-- One row of VSAMP: the words written into D (R136-R142). -/
def sampRow (v : View) (o : VOps) (r : Nat) : List ((Nat × Nat) × W32) :=
  let p := sampParams fun c => v.buf o.y r c
  let kind := o.fn.val % 4
  let s := if kind = 0 ∨ kind = 3 then SampState.init else SampState.read fun c => v.buf o.d r c
  let s := if p.ok then
      s.fold v p o.cols.toNat ((List.range o.cols.toNat).map fun i =>
        let z := ofBf (v.buf o.x r i)
        let base : Int := (v.ctx.s[o.ss].val.toNat : Int)
        if o.fn.val < 4 then sampEntry p z (base + i)
        else
          let zi := v.buf o.z r i
          if zi = 0xFFFFFFFF then .skip else sampEntry p z (base + asI32 zi))
    else { s with flag := s.flag ||| 4 }
  let out := s.words
  let out := if kind = 2 ∨ kind = 3 then
      let q := if p.ok then s.select v p
        else { token := 0xFFFFFFFF, logp := 0x7FC00000, flags := s.flag ||| 2, count := 0 }
      out ++ [(0, q.token), (1, q.logp), (2, q.flags), (3, BitVec.ofNat 32 q.count)]
    else out
  out.map fun x => ((r, x.1), x.2)

/-- VSAMP (R43, R135-R144). -/
def vsampBody (v : View) (_sl : Slot) (o : VOps) (b : Build) : Except SlotFail Build :=
  special b fun b => .ok (b.putBuf o.d ((List.range o.rows.toNat).flatMap (sampRow v o)))

/-! ### VSTOP -/

/-- Word `c` of a request row. -/
def ReqSlot.word (q : ReqSlot) (c : Nat) : W32 := q.row.toList.getD c 0

/-- The newest accepted tokens, `t` first (R146). -/
def ReqSlot.recent (q : ReqSlot) (t : W32) : List W32 := t :: (List.range 7).map fun i => q.word (57 + i)

/-- Sequence `j`, oldest token first (R145). -/
def ReqSlot.stopSeq (q : ReqSlot) (j : Nat) : List W32 :=
  (List.range (q.word (18 + j)).toNat).map fun k => q.word (22 + 8 * j + k)

/-- Why a request finishes with token `t`, TIDX already advanced: reason and detail (R146, R147). -/
def ReqSlot.stopReason (q : ReqSlot) (t : W32) (tidx : Nat) : Option (Nat × Nat) :=
  match (List.range (min (q.word 8).toNat 8)).find? fun j => decide (q.word (9 + j) = t) with
  | some j => some (1, j)
  | none =>
    match (List.range (min (q.word 17).toNat 4)).find? fun j =>
        decide ((q.word (18 + j)).toNat ≤ tidx) &&
        decide (((q.recent t).take (q.word (18 + j)).toNat).reverse = q.stopSeq j) with
    | some j => some (2, j)
    | none => if q.word 54 ≠ 0 ∧ tidx = (q.word 54).toNat then some (3, 0) else none

/-- The request after token `t` (R146). -/
def ReqSlot.accept (q : ReqSlot) (t : W32) : ReqSlot :=
  if asI32 t < 0 then { q with finish := some (4, 0) }
  else
    let tidx := q.word 5 + 1
    let fin := q.stopReason t tidx.toNat
    let row := q.row.mapIdx fun i w =>
      if i = 5 then tidx
      else if i = 57 then t
      else if 58 ≤ i then q.word (i - 1)
      else w
    { q with row := row, finish := fin }

/-- The stop unit takes the rows in ascending order: the requests as it leaves them and D's column 0. -/
def stopRows (v : View) (o : VOps) : List Nat → List (Nat × ReqSlot) → List (Nat × ReqSlot) × List ((Nat × Nat) × W32)
  | [], qs => (qs, [])
  | r :: rs, qs =>
    let slot := asI32 (v.buf o.y r 0)
    let found := if slot < 0 then none else (alGet qs slot.toNat)
    let act := match found with
      | some q => if q.finish.isNone && v.served q then some q else none
      | none => none
    match act with
    | none =>
      let (qs', w) := stopRows v o rs qs
      (qs', ((r, 0), 0) :: w)
    | some q =>
      let q' := q.accept (v.buf o.x r 0)
      let (qs', w) := stopRows v o rs (alPut qs slot.toNat q')
      (qs', ((r, 0), if q'.finish.isSome then 1 else 0) :: w)

/-- VSTOP (R43, R145-R147, R150). -/
def vstopBody (v : View) (_sl : Slot) (o : VOps) (b : Build) : Except SlotFail Build :=
  special b fun b =>
    let (qs, w) := stopRows v o (List.range o.rows.toNat) v.tenant.slots
    .ok { b.putBuf o.d w with slots := b.slots ++ qs.filter fun x => decide (alGet v.tenant.slots x.1 ≠ some x.2) }

end Sys2Proof.Machine
end

