-- ==== Sys2Proof/Machine/Check.lean ====
section
/-! DEFINITION. The checks that the placer makes of a program (R27, R28, R30, R35, R39-R41, R44, R48, R51,
R57, R119, R120, R197): the scan of every bundle, and the run of a step over its static values. -/

namespace Sys2Proof.Machine

/-! ### One slot -/

/-- The check of a slot operation's operands against the state before its bundle; none for commands that
are no slot operation. -/
def slotCheck (v : View) (i : Instr) : Option Byte :=
  match i with
  | .pld sl o => pldCheck v sl o
  | .mm sl o => mmCheck v sl o
  | .ewm sl o => ewmCheck v sl o
  | .drn sl o => drnCheck v sl o
  | .rel sl o => relCheck v sl o
  | .vadd sl o | .vsub sl o | .vmul sl o | .vfma sl o | .vmax sl o | .vmin sl o | .vscl sl o | .vsel sl o
  | .vcpr sl o | .vacc sl o | .vftq sl o | .vstop sl o | .vtst sl o | .vput sl o => sizeCheck v sl o
  | .vfn sl o => vfnCheck v sl o
  | .vred sl o => vredCheck v sl o
  | .vcmp sl o => vcmpCheck v sl o
  | .vxpd sl o => vxpdCheck v sl o
  | .vcvt sl o => vcvtCheck v sl o
  | .vrnd sl o => vrndCheck v sl o
  | .vsamp sl o => vsampCheck v sl o
  | .vopt sl o => voptCheck v sl o
  | .vget sl o => vgetCheck v sl o
  | .ldv sl o => ldvCheck v sl o
  | .gath sl o => gathCheck v sl o
  | .copy sl o => copyCheck v sl o
  | .stv sl o => stvCheck v sl o
  | .scat sl o => scatCheck v sl o
  | .emit sl o => emitCheck v sl o
  | .coll sl o => collCheck v sl o
  | .salu sl o => saluCheck v sl o
  | .scmp sl o => scmpCheck v sl o
  | .plog sl o => plogCheck v sl o
  | .loop sl o => loopCheck v sl o
  | .br sl o => brCheck v sl o
  | .call sl o => callCheck v sl o
  | .ret sl o => retCheck v sl o
  | .step sl o => stepCheck v sl o
  | .endp sl o => endpCheck v sl o
  | .tdset sl o => tdsetCheck v sl o
  | .param sl o => paramCheck v sl o
  | .await sl o => awaitCheck v sl o
  | _ => none

/-- The rules for a slot's operands that do not hang on the course of dynamic predicates: all of them, but for
those of MM that concern the active plane. -/
def operandCheck (v : View) (i : Instr) : Option Byte :=
  match i with
  | .mm _ o => firstReason (mmRules v o)
  | _ => slotCheck v i

/-- The slot fields of a slot operation. -/
def slotOf (i : Instr) : Option Slot :=
  match i with
  | .pld sl _ | .mm sl _ | .ewm sl _ | .drn sl _ | .rel sl _
  | .vadd sl _ | .vsub sl _ | .vmul sl _ | .vfma sl _ | .vmax sl _ | .vmin sl _ | .vscl sl _ | .vfn sl _
  | .vred sl _ | .vcmp sl _ | .vsel sl _ | .vcpr sl _ | .vxpd sl _ | .vcvt sl _ | .vrnd sl _ | .vacc sl _
  | .vftq sl _ | .vsamp sl _ | .vstop sl _ | .vopt sl _ | .vget sl _ | .vtst sl _ | .vput sl _
  | .ldv sl _ | .gath sl _ | .copy sl _ | .stv sl _ | .scat sl _ | .emit sl _ | .coll sl _
  | .salu sl _ | .scmp sl _ | .plog sl _ | .loop sl _ | .br sl _ | .call sl _ | .ret sl _ | .step sl _
  | .endp sl _ | .tdset sl _ | .param sl _
  | .await sl _ | .trace sl _ | .event sl _ | .layer sl _ | .seed sl _ | .cmt sl _ => some sl
  | _ => none

/-- A slot's part of the static state that its predicate cannot change: under a dynamic predicate the class
of what it writes (R26), and the queue's shape under all-true predicates (R120). -/
def taintS (v : View) (sl : Slot) (i : Fin 64) (b : Build) : Build :=
  if (v.ctx.predOf sl).dyn then { b with ctx := b.ctx.setS i { b.ctx.s[i] with dyn := true } } else b

def taintP (v : View) (sl : Slot) (i : Fin 16) (b : Build) : Build :=
  if (v.ctx.predOf sl).dyn then { b with ctx := b.ctx.setP i { b.ctx.p[i] with dyn := true } } else b

/-- The predicate is dynamic, or true: "under all-true predicates" the slot acts (R120). -/
def acts (v : View) (sl : Slot) : Bool := (v.ctx.predOf sl).dyn || (v.ctx.predOf sl).val

def ftqPush (v : View) (sl : Slot) (o : MxOps) (b : Build) : Build :=
  if o.ftq && acts v sl then
    let d := v.desc o.tdc
    { b with ctx := { b.ctx with ftqAll := b.ctx.ftqAll ++ [(Desc.rows d, Desc.cols d)] } }
  else b

def ftqPop (v : View) (sl : Slot) (b : Build) : Build :=
  if acts v sl then { b with ctx := { b.ctx with ftqAll := b.ctx.ftqAll.drop 1 } } else b

/-- What a slot changes of the static state whatever its dynamic predicate. -/
def slotPlanned (v : View) (i : Instr) (b : Build) : Build :=
  match i with
  | .drn sl o => ftqPush v sl o b
  | .vftq sl _ => ftqPop v sl b
  | .vget sl o => taintS v sl o.ss b
  | .vtst sl o => taintP v sl o.pd b
  | .salu sl o | .param sl o => taintS v sl o.sd b
  | .scmp sl o | .plog sl o => taintP v sl o.pd b
  | _ => b

/-- What a slot does to the static state where its predicate is true, or dynamic; STEP, END and LOOP under
any predicate. A collective's flag is dynamic. -/
def slotStatic (v : View) (i : Instr) (b : Build) : Except SlotFail Build :=
  match i with
  | .vget sl o => vgetBody v sl o b
  | .vtst sl o => .ok (b.writeP v sl o.pd false true)
  | .coll sl o => .ok (if o.cfn = 0 ∨ o.cfn = 2 then b.writeP v sl o.pd false true else b)
  | .salu sl o => saluBody v sl o b
  | .scmp sl o => scmpBody v sl o b
  | .plog sl o => plogBody v sl o b
  | .loop sl o => loopBody v sl o b
  | .br sl o => brBody v sl o b
  | .call sl o => callBody v sl o b
  | .ret sl o => retBody v sl o b
  | .step sl o => stepBody v sl o b
  | .endp sl o => endpBody v sl o b
  | .tdset sl o => tdsetBody v sl o b
  | .param sl o => paramBody v sl o b
  | _ => .ok b

/-- LOOP, STEP and END act under a false predicate too (R24). -/
def anyPred (i : Instr) : Bool :=
  match i with
  | .loop _ _ | .step _ _ | .endp _ _ => true
  | _ => false

/-! ### The scan of every bundle -/

/-- A reserved value in an operand field that the opcode uses, or a count of rows or columns out of range
(R30, R42, R48). -/
def reservedOperand (i : Instr) : Bool :=
  let size := fun (o : VOps) => (badSize o.rows).1 || (badSize o.cols).1
  let msize := fun (o : MvOps) => (badSize o.rows).1 || (badSize o.cols).1
  match i with
  | .mm _ o => decide (2 ≤ o.ac.val) || (o.idx && !(decide (o.opr = 1) || decide (o.opr = 2)))
  | .ewm _ o | .rel _ o => decide (2 ≤ o.ac.val)
  | .drn _ o => decide (2 ≤ o.ac.val) || decide (o.epi = 3)
  | .vadd _ o | .vsub _ o | .vmul _ o | .vfma _ o | .vmax _ o | .vmin _ o | .vscl _ o | .vsel _ o
  | .vcpr _ o | .vacc _ o | .vftq _ o | .vstop _ o | .vtst _ o | .vput _ o => size o
  | .vfn _ o => decide (8 < o.fn.val) || size o
  | .vred _ o => decide (3 < o.fn.val) || size o
  | .vcmp _ o => decide (5 < o.fn.val) || size o
  | .vcvt _ o | .vrnd _ o => decide (2 < o.fn.val) || size o
  | .vopt _ o => decide (1 < o.fn.val) || size o
  | .vxpd _ o => decide (o.d = o.x) || decide (o.d = o.y) || size o
  | .vsamp _ o => decide (7 < o.fn.val) || size o || decide (o.d = o.x) || decide (o.d = o.y) ||
      (decide (4 ≤ o.fn.val) && decide (o.d = o.z))
  | .ldv _ o | .gath _ o | .stv _ o | .scat _ o => msize o
  | .emit _ o => (badSize o.rows).1
  | .coll _ o => decide (4 < o.cfn.val)
  | .salu _ o => (saluFn o.fn 0 0).isNone
  | .scmp _ o => (scmpFn o.fn 0 0).isNone
  | .plog _ o => (plogFn o.fn false false).isNone
  | .tdset _ o => (tdField o.fn).isNone
  | .param _ o => decide (7 < o.fn.val)
  | .await _ o => decide (2 ≤ o.ac.val)
  | _ => false

/-- The five opcodes of which a bundle holds at most one (R44). -/
def isSpecial (i : Instr) : Bool :=
  match i with
  | .vacc _ _ | .vftq _ _ | .vsamp _ _ | .vstop _ _ | .vopt _ _ => true
  | _ => false

/-- A loop of the stream: its bundle, the last bundle of its body, its counter. -/
structure LoopAt where
  bundle : Int
  last : Int
  lc : Nat

/-- Every LOOP of the stream. -/
def loopsOf (bs : List (BitVec 1024)) : List LoopAt :=
  (bs.zipIdx).filterMap fun x =>
    let w := bundleSlot x.1 5
    if slotOp w = 4 then some ⟨x.2, (x.2 : Int) + (cfFields w).tgt.toInt, (cfFields w).lc.val⟩ else none

/-- The structural control-flow rules of R51 that a CF slot breaks, whatever path is taken. -/
def badFlow (n : Nat) (loops : List LoopAt) (pc : Nat) (i : Instr) : Bool :=
  let out := fun (t : Int) => decide (t < 0) || decide ((n : Int) ≤ t)
  let holds := fun (l : LoopAt) (t : Int) => decide (l.bundle < t) && decide (t ≤ l.last)
  let inLoop := loops.any fun l => holds l pc
  match i with
  | .loop _ o =>
    let t := (pc : Int) + o.tgt.toInt
    decide (o.tgt.toInt < 1) || out t ||
      loops.any fun l => holds l pc && (decide (l.last < t) || decide (l.lc = o.lc.val))
  | .br _ o =>
    let t := (pc : Int) + o.tgt.toInt
    out t || loops.any fun l => holds l pc != holds l t
  | .call _ o => out ((pc : Int) + o.tgt.toInt)
  | .step _ o => out ((pc : Int) + o.tgt.toInt) || inLoop
  | .endp _ _ => inLoop
  | _ => false

/-- What the scan finds wrong with bundle `pc`. -/
def scanBundle (n : Nat) (loops : List LoopAt) (pc : Nat) (b : BitVec 1024) : List BindErr :=
  let at_ := fun (k : Nat) (r : Byte) => (⟨BitVec.ofNat 32 pc, BitVec.ofNat 8 k, r⟩ : BindErr)
  ((List.range 7).filter (badOpcode b)).map (fun k => at_ k 1) ++
  ((bundleOps 0 b).flatMap fun x =>
    (if reservedOperand x.2 then [at_ x.1 5] else []) ++
    (match x.2 with
      | .endp sl _ => if sl.pred ≠ 0 ∨ sl.pneg then [at_ x.1 3] else []
      | _ => []) ++
    (if badFlow n loops pc x.2 then [at_ x.1 4] else [])) ++
  (if 2 ≤ ((bundleOps 0 b).filter fun x => isSpecial x.2).length then [at_ 2 5] else [])

/-- What the scan finds wrong with a program. -/
def scanImage (bs : List (BitVec 1024)) : List BindErr :=
  let loops := loopsOf bs
  (bs.zipIdx).flatMap fun x => scanBundle bs.length loops x.2 x.1

/-! ### The run of a step over its static values -/

/-- The accumulators and planes, without contents, in one course of the dynamic predicates used so far:
the values assumed for the predicate registers that hold one (R40, R41). -/
structure World where
  ac : Vector Acc 2
  active : Plane
  shadow : Option Plane
  choice : List (Fin 16 × Bool)
  deriving DecidableEq

/-- The run so far: static state, courses, findings, and the sum of EMIT's ROWS (R226). -/
structure DryRun where
  ctx : Ctx
  worlds : List World
  errs : List BindErr
  /-- What breaks the queue's rules under all-true predicates, in whatever step (R120). -/
  queue : List BindErr
  emax : Nat
  /-- The MM passes that it makes (R64). -/
  passes : List Pass
  /-- The step ended with a CF.STEP that another step follows. -/
  goesOn : Bool

/-- An accumulator without its contents. -/
def Acc.hollow (a : Acc) : Acc := { a with cells := [], winner := [] }

def Plane.hollow (p : Plane) : Plane := { p with cells := [] }

/-- The one course at the start of a step. -/
def Ctx.world (c : Ctx) : World :=
  { ac := c.ac.map Acc.hollow, active := c.active.hollow, shadow := c.shadow.map Plane.hollow, choice := [] }

/-- The context as it stands in a course. -/
def World.into (w : World) (c : Ctx) : Ctx := { c with ac := w.ac, active := w.active, shadow := w.shadow }

/-- The view in a course. -/
def View.in (v : View) (w : World) : View := { v with run := { v.run with ctx := w.into v.ctx } }

/-- The operation acts on an accumulator or on the planes. -/
def onArray (i : Instr) : Bool :=
  match i with
  | .pld _ _ | .mm _ _ | .ewm _ _ | .drn _ _ | .rel _ _ | .vacc _ _ | .await _ _ => true
  | _ => false

/-- The courses in which predicate `p` is decided either way. -/
def World.fork (p : Fin 16) (ws : List World) : List World :=
  ws.flatMap fun w =>
    if w.choice.any fun x => x.1 = p then [w]
    else [{ w with choice := (p, true) :: w.choice }, { w with choice := (p, false) :: w.choice }]

/-- Whether a slot acts in a course. -/
def World.on (w : World) (v : View) (sl : Slot) : Bool :=
  let p := v.ctx.predOf sl
  if p.dyn then
    match w.choice.find? fun x => x.1 = sl.pred with
    | some x => x.2 != sl.pneg
    | none => false
  else p.val

/-- The course with an accumulator replaced. -/
def World.setAcc (w : World) (ac : Fin 4) (a : Acc) : World :=
  match acOf ac with
  | some i => { w with ac := w.ac.set i a.hollow }
  | none => w

/-- The accumulator that a slot names before the bundle, if it names one. -/
def accAt (v : View) (ac : Fin 4) : Acc :=
  match acOf ac with
  | some i => v.ctx.ac[i]
  | none => Acc.initial

/-- An accumulator operation's effect in a course. -/
def World.put (w : World) (ac : Fin 4) (r : Except SlotFail Acc) : Except SlotFail World :=
  match r with
  | .ok a => .ok (w.setAcc ac a)
  | .error e => .error e

/-- What a slot does to the accumulators and planes: `v` before the bundle, `w` as far as the bundle has
come (R22). -/
def arrayStep (v : View) (i : Instr) (w : World) : Except SlotFail World :=
  match i with
  | .pld _ o =>
    if v.ctx.shadow.isSome then .error .plane else .ok { w with shadow := some (planeShape (v.desc o.tda)) }
  | .mm _ o =>
    match w.put o.ac (mmAcc (passPlane v.ctx) (v.desc o.tdb) o (accAt v o.ac)) with
    | .ok w => .ok { w with active := (passPlane v.ctx).hollow, shadow := none }
    | .error e => .error e
  | .ewm _ o => w.put o.ac (ewmAcc (v.desc o.tdb) (accAt v o.ac))
  | .drn _ o => w.put o.ac (drnAcc v o (accAt v o.ac))
  | .rel _ o => w.put o.ac (relAcc (accAt v o.ac))
  | .vacc _ o =>
    match vaccAcc o v.ctx.ac[o.acs] with
    | .ok _ => .ok w
    | .error e => .error e
  | .await _ o =>
    if (accAt v o.ac).state = .draining then .ok (w.setAcc o.ac { accAt v o.ac with state := .free }) else .ok w
  | _ => .ok w

/-- The slots of a bundle in one course: the course after it, or the slot that fails and why. -/
def arrayBundle (v : View) (w0 : World) : List (Nat × Instr) → World → Except (Nat × SlotFail) World
  | [], w => .ok w
  | (k, i) :: rest, w =>
    let vw := v.in w0
    if onArray i && (slotOf i).any (w0.on v) then
      match slotCheck vw i with
      | some r => .error (k, .reject r)
      | none =>
        match arrayStep vw i w with
        | .ok w' => arrayBundle v w0 rest w'
        | .error e => .error (k, e)
    else arrayBundle v w0 rest w

/-- The predicate registers that a bundle writes: courses forget what they assumed of them. -/
def writtenPreds (ops : List (Nat × Instr)) : List (Fin 16) :=
  ops.filterMap fun x => match x.2 with
    | .vtst _ o => some o.pd
    | .coll _ o => some o.pd
    | .scmp _ o => some o.pd
    | .plog _ o => some o.pd
    | _ => none

/-- The dynamic predicates under which a bundle acts on the array. -/
def arrayPreds (v : View) (ops : List (Nat × Instr)) : List (Fin 16) :=
  ops.filterMap fun x =>
    if onArray x.2 then (slotOf x.2).bind fun sl => if (v.ctx.predOf sl).dyn then some sl.pred else none
    else none

/-- R57's reasons for the failures of a bundle's courses: a rule for operands, shapes or formats that a slot breaks
in any course in which it acts (R39, R118); where every course fails by the array's state, 0x05 if each is an MM
unlike the one that opened its accumulation (R39), else 0x06 (R40, R41). `all`: every course fails. -/
def courseErrs (all : Bool) (es : List (Nat × SlotFail)) : List (Nat × Byte) :=
  let broken := es.filterMap fun e => match e.2 with
    | .reject r => some (e.1, r)
    | _ => none
  let unlike := es.all fun e => match e.2 with
    | .mismatch => true
    | _ => false
  broken ++
    if all && broken.isEmpty then [(es.foldl (fun k e => min k e.1) 6, if unlike then 5 else 6)] else []

/-- The courses after a bundle, and the findings. -/
def arrayRun (v : View) (ops : List (Nat × Instr)) (ws : List World) : List World × List (Nat × Byte) :=
  if !ops.any fun x => onArray x.2 then (ws, [])
  else
    let forked := (arrayPreds v ops).foldl (fun ws p => World.fork p ws) ws
    let res := forked.map fun w => arrayBundle v w ops w
    let alive := res.filterMap Except.toOption
    let errs := courseErrs alive.isEmpty (res.filterMap fun r => match r with
      | .error e => some e
      | .ok _ => none)
    let gone := writtenPreds ops
    (if alive.isEmpty then ws
     else (alive.map fun w => { w with choice := w.choice.filter fun c => !gone.contains c.1 }).eraseDups, errs)

/-- The findings of a bundle's queue operations under all-true predicates (R120). -/
def ftqFind (v : View) (x : Nat × Instr) : Option (Nat × Byte) :=
  match x.2 with
  | .drn sl o => if o.ftq && acts v sl && decide (4 ≤ v.ctx.ftqAll.length) then some (x.1, 5) else none
  | .vftq sl o =>
    if acts v sl then
      match v.ctx.ftqAll with
      | [] => some (x.1, 5)
      | q :: _ => if q = (o.rows.toNat, o.cols.toNat) then none else some (x.1, 5)
    else none
  | _ => none

/-- The slots of a bundle over the static state: the build, and what they break. The operands of a slot are judged
whatever its predicate, a false static one included, where issue judges only a slot that acts (DESIGN CHOICE,
notes/assumptions/92.md). -/
def staticSlots (v : View) : List (Nat × Instr) → Build → Build × List (Nat × Byte)
  | [], b => (b, [])
  | (k, i) :: rest, b =>
    match operandCheck v i with
    | some r =>
      let (b', es) := staticSlots v rest b
      (b', (k, r) :: es)
    | none =>
      let b := slotPlanned v i b
      let b := match slotOf i with
        | some sl => if anyPred i || acts v sl then (slotStatic v i b).toOption.getD b else b
        | none => b
      staticSlots v rest b

/-- An empty build over a context. -/
def Build.start (c : Ctx) (counts : StepCounts) : Build :=
  { ctx := c, mem := [], scale := [], slots := [], effects := [], mon := [], counts := counts
    flow := .fall c.pc, boundary := .none, cmt := false, pos := 0, special := false, coll := none, latePreds := []
    sqns := [], pass := none, load := none }

/-- The ROWS of a bundle's EMITs (R226). -/
def emitRowsOf (ops : List (Nat × Instr)) : Nat :=
  (ops.map fun x => match x.2 with
    | .emit _ o => o.rows.toNat
    | _ => 0).sum

/-- The MM passes that a bundle can make: the region of the plane that the pass uses, in every course (R60, R64). -/
def passesOf (v : View) (ops : List (Nat × Instr)) (ws : List World) : List Pass :=
  if ops.any fun x => match x.2 with
    | .mm sl _ => acts v sl
    | _ => false
  then (ws.map fun w =>
    let p := passPlane (w.into v.ctx)
    (⟨v.ctx.pc, (p.k + 511) / 512, (p.n + 511) / 512⟩ : Pass)).eraseDups
  else []

/-- One bundle of the run: the run after it, and whether the step goes on. -/
def dryBundle (v0 : View) (b : BitVec 1024) (d : DryRun) : DryRun × Bool :=
  let v : View := { v0 with run := { v0.run with ctx := d.ctx } }
  let ops := bundleOps v0.part b
  let (bd, es) := staticSlots v ops (Build.start d.ctx (StepCounts.zero 0))
  let (ws, broken) := arrayRun v ops d.worlds
  let beyond := match bd.boundary with
    | .none => none
    | _ => if ws.all fun w => !(w.into d.ctx).boundaryOk then some (5, (6 : Byte)) else none
  let ctx := bd.ctx.advance bd.flow
  let ends := bd.boundary.ends v.run.step
  let past := if !ends && decide (v.nbundle ≤ ctx.pc) then some (5, (4 : Byte)) else none
  let at_ := fun (e : Nat × Byte) => (⟨BitVec.ofNat 32 d.ctx.pc, BitVec.ofNat 8 e.1, e.2⟩ : BindErr)
  let queue := (ops.filterMap (ftqFind v)).map at_
  let stop := (match bd.boundary with
      | .none => false
      | _ => true) || past.isSome || es.any fun e => decide (e.1 = 5)
  ({ ctx := ctx, worlds := ws, errs := d.errs ++ (es ++ broken ++ beyond.toList ++ past.toList).map at_
     queue := d.queue ++ queue, emax := d.emax + emitRowsOf ops
     passes := d.passes ++ (passesOf v ops d.worlds).filter fun p => !d.passes.contains p
     goesOn := (match bd.boundary with
       | .step => true
       | _ => false) && !ends && past.isNone }, !stop)

/-- The run of a step: at most `fuel` bundles; a step that takes more never ends (R51). -/
def dryStep (v0 : View) : Nat → DryRun → DryRun
  | 0, d => { d with errs := d.errs ++ [⟨BitVec.ofNat 32 d.ctx.pc, 5, 4⟩] }
  | fuel + 1, d =>
    match v0.plan.image.bundles[d.ctx.pc]? with
    | none => { d with errs := d.errs ++ [⟨BitVec.ofNat 32 d.ctx.pc, 5, 4⟩] }
    | some b =>
      match dryBundle v0 b d with
      | (d', true) => dryStep v0 fuel d'
      | (d', false) => d'

/-- The run of one step from where a run stands. -/
def DryRun.step (d : DryRun) (v : View) : DryRun := dryStep v stepFuel { d with goesOn := false }

/-- The coming step of a running plan, over its static values (R28). -/
def View.dry (v : View) : DryRun :=
  DryRun.step { ctx := v.ctx, worlds := [v.ctx.world], errs := [], queue := [], emax := 0, passes := [], goesOn := false } v

/-- The view in another step. -/
def View.inStep (v : View) (step : W32) : View := { v with run := { v.run with step := step } }

/-- The program reads the step number (PARAM, R50): steps that begin in one static state may still differ. -/
def readsStep (bs : List (BitVec 1024)) : Bool :=
  bs.any fun b => match cfInstr (slotHead 0 b 5 false) (bundleSlot b 5) with
    | some (.param _ o) => decide (o.fn = 0)
    | _ => false

/-- What the run of a program finds: what breaks a rule, EMAX, and the MM passes. -/
structure DryAll where
  errs : List BindErr
  emax : Nat
  passes : List Pass

/-- The findings of one step before those of the steps after it. -/
def DryAll.after (d : DryAll) (e : DryAll) : DryAll :=
  ⟨d.errs ++ e.errs, max d.emax e.emax, d.passes ++ e.passes.filter fun p => !d.passes.contains p⟩

/-- The steps after step `step`, from `d` as that step left it: what breaks the queue's rules in any of them (R120),
the most tokens that one of them can send (R226), and their passes. A step that breaks another rule never issues (R28),
and a step that begins as the one before it began goes as it went. -/
def laterSteps (v : View) : Nat → W32 → DryRun → DryAll
  | 0, _, _ => ⟨[], 0, []⟩
  | fuel + 1, step, d =>
    if !d.goesOn then ⟨[], 0, []⟩
    else
      let d' := DryRun.step { d with errs := [], queue := [], emax := 0, passes := [] } (v.inStep (step + 1))
      if !d'.errs.isEmpty then ⟨[], 0, []⟩
      else
        let here : DryAll := ⟨d'.queue, d'.emax, d'.passes⟩
        if decide (d'.ctx = d.ctx) && !readsStep v.plan.image.bundles then here
        else here.after (laterSteps v fuel (step + 1) d')

/-- The program from the coming step to its end: the findings of the coming step, the queue's findings of every
step, EMAX, and the passes (R28, R64, R120, R226). -/
def View.dryAll (v : View) : DryAll :=
  let d := v.dry
  DryAll.after ⟨d.errs ++ d.queue, d.emax, d.passes⟩ (laterSteps v (2 ^ 32) v.run.step d)

/-- The first of several findings: least bundle, then least slot (R197). -/
def firstErr : List BindErr → Option BindErr
  | [] => none
  | e :: es =>
    match firstErr es with
    | none => some e
    | some x =>
      if x.whereAt.toNat < e.whereAt.toNat || (decide (x.whereAt = e.whereAt) && decide (x.slot.toNat < e.slot.toNat)) then
        some x
      else some e

end Sys2Proof.Machine
end

