-- ==== Sys2Proof/Machine/Boundary.lean ====
section
/-! DEFINITION. A step boundary (R16, R20, R25, R148, R161-R170, R206-R229, R382, R391): what ends a step,
in the order of R214, and what begins the next one. -/

namespace Sys2Proof.Machine

/-! ### Switches (R200, R206, R207) -/

/-- A copy after the switch of its set to an epoch: none once FREE (R206, R207). -/
def EpochCopy.switched (aid : Option W16) (epoch : W16) (k : EpochCopy) : Option EpochCopy :=
  if k.aid ≠ aid then some k
  else if k.epoch = epoch then some { k with state := .current }
  else match k.state with
    | .current => some { k with state := .retained, retainedFor := 0 }
    | .staged => if newer epoch k.epoch then none else some k
    | _ => some k

/-- A tenant after a switch takes effect: a RETIRE held on the copy that was CURRENT goes on (R213). -/
def Tenant.takeSwitch (t : Tenant) (w : PendSwitch) : Tenant :=
  let was := (t.copies.find? fun k => decide (k.aid = w.aid) && decide (k.state = .current)).map EpochCopy.epoch
  { t with
    copies := t.copies.filterMap (EpochCopy.switched w.aid w.epoch)
    switches := t.switches.filter fun x => x.aid ≠ w.aid
    retires := t.retires.map fun x =>
      if x.aid = w.aid ∧ some x.epoch = was then { x with held := false } else x }

/-- A switch takes effect and completes, after those that it replaced. -/
def Chip.takeSwitch (c : Chip) (t : Fin 16) (w : PendSwitch) : Chip :=
  let c := c.modTenant t fun x => x.takeSwitch w
  let now := c.drone.now
  let c := w.replaced.foldl (fun c x => c.completeFor x.2 0x0013 0 (x.1.setWidth 32) now) c
  c.completeFor w.src 0 0 (w.epoch.setWidth 32) now

/-- Every pending switch of a tenant whose copy is STAGED takes effect. -/
def Chip.switchStep (c : Chip) (t : Fin 16) : Chip :=
  let due := c.tenants[t].switches.filter fun w => match c.tenants[t].copyOf w.aid w.epoch with
    | some k => decide (k.state = .staged)
    | none => false
  (due.foldl (fun c w => c.takeSwitch t w) c).settleRetires t

/-- A boundary passes for the copies that stand RETAINED before it (R213). -/
def Chip.ageRetained (c : Chip) (t : Fin 16) : Chip :=
  c.modTenant t fun x =>
    { x with copies := x.copies.map fun k => if k.state = .retained then { k with retainedFor := k.retainedFor + 1 } else k }

/-- The 0x0003 entry that a queued activation owes after an emergency (R310). -/
def Chip.activationEvent (c : Chip) : Chip :=
  if c.boot.queued.isSome && c.boot.queueRefused then
    { c with boot := { c.boot with queueRefused := false } }.event .pf
      { c.entry (c.coreSrc 0) with status := 0x0003 }
  else c

/-! ### The placer's job in progress (R181, R191, R198, R311) -/

/-- Tensors that a copy of the tenant contains: weights and their scales (R198, R201). -/
def Tenant.versionedTids (t : Tenant) : List (BitVec 20) :=
  t.copies.flatMap fun k => if k.adapter.isNone then k.tensors.map CopyTensor.tid else []

/-- What the placer reads as it begins binding. -/
def Chip.bindStart (c : Chip) (t : Fin 16) : BindStart :=
  let rot := decide (c.mram.imbThr.toNat < c.memObj.imb.toNat) && !c.memObj.rotPending
  { versioned := c.tenants[t].versionedTids, rotate := rot
    kgen := if rot then c.memObj.kgen + 1 else c.memObj.kgen, capW := c.limiter.capActive, imb := c.memObj.imb
    since := c.drone.now }

/-- The placer begins the job at the front, if it has not (R181). -/
def Chip.beginJob (c : Chip) : Chip :=
  match c.placer.jobs with
  | [] => c
  | j :: js =>
    if j.start.isSome then c
    else { c with placer := { c.placer with
      jobs := { j with start := some ((c.loadSaved j.tenant j.restore).bindStart j.tenant) } :: js } }

/-- The placer's job in progress starts again (R311). -/
def Chip.restartJob (c : Chip) : Chip :=
  match c.placer.jobs with
  | [] => c
  | j :: js => { c with placer := { c.placer with jobs := { j with start := none } :: js } }.beginJob

/-! ### Firmware activation at a boundary (R310, R311, R341) -/

/-- The handover. -/
def Chip.handover (c : Chip) (i : FwImage) : Chip :=
  let old := c.boot.fwRel
  let c := { c with boot := { c.boot with
    img := some i, fwRel := i.fwrel, fwDig := i.digest, queued := none, queueRefused := false, lastAct := c.drone.now } }
  let c := c.event .pf { c.entry (c.coreSrc 0) with arg0 := i.fwrel.setWidth 64 }
  ((c.hbForm 0x0040 true (c.coreSrc 0) (leBytes 4 old.toNat ++ leBytes 4 i.fwrel.toNat)).tracePoint 0x0040 0
    (i.fwrel.setWidth 64) 1).restartJob

/-- The queued activation takes effect where the limiter has been in NORMAL for 2 s (R310). -/
def Chip.activate (c : Chip) : Chip :=
  match c.boot.queued with
  | none => c
  | some i =>
    if c.limiter.state = .normal ∧ 2000000000 ≤ c.since c.limiter.since then c.handover i else c

/-! ### The monitor (R161-R170) -/

/-- What the monitor forms for a layer of a step. -/
structure LayerStat where
  sumd : Fp
  sumw : Fp
  ratio : Fp
  theta : Fp
  run : Nat
  /-- The layer is silent and its event has not been raised in this run (R162). -/
  silent : Bool

/-- √x for a non-negative value, rounded to FP32 (R161). -/
def sqrt32 (x : Fp) : Fp :=
  match x with
  | .fin _ 0 _ => .zero
  | .fin false m e => rne32 (sqrtRatio m 1 e)
  | .inf false => .inf false
  | _ => .nan

/-- RNE32(a / b) for values that are not negative (R161). -/
def div32 (a b : Fp) : Fp :=
  match a, b with
  | .fin _ m e, .fin _ n f => rne32 (ratio false m n (e - f))
  | .inf _, .fin _ _ _ => .inf false
  | .fin _ _ _, .inf _ => .zero
  | _, _ => .nan

/-- RATIO (R161). -/
def ratioOf (d w : Fp) : Fp :=
  if d.isNan || w.isNan then .nan
  else if w.eq .zero then (if d.eq .zero then .zero else .inf false)
  else sqrt32 (div32 d w)

/-- THR of a layer: its override, else the default (R161, R164). -/
def Chip.layerThr (c : Chip) (t : Fin 16) (layer : W16) : Fp :=
  match c.objs.thrOverride.toList.find? fun x =>
    x.getLsbD 32 && decide (x.extractLsb' 48 16 = layer) && decide (x.extractLsb' 44 4 = BitVec.ofNat 4 t.val) with
  | some x => ofF32 (x.setWidth 32)
  | none => ofF32 c.mram.silentThr

/-- A layer's quantities at the boundary that ends a step (R161, R162). -/
def Chip.layerStat (c : Chip) (g : Gen) (t : Fin 16) (l : LayerRow) : LayerStat :=
  let shape := 2 :: l.shapes.flatMap fun s => [s.1, s.2]
  let d := rne32 (joinAll g shape l.dTerms.length l.dTerms)
  let w := rne32 (joinAll g shape l.wTerms.length l.wTerms)
  let r := ratioOf d w
  let phi := if c.mram.decayFloor then rne32 ((Fp.fin false 1 (-3)).mul (sqrt32 l.wdMax)) else .zero
  let th := rne32 ((c.layerThr t l.layer).add phi)
  let run := if l.counted then (if r.lt th then l.run + 1 else 0) else l.run
  if l.counted then
    { sumd := d, sumw := w, ratio := r, theta := th, run := run
      silent := decide (c.mram.silentN.toNat ≤ run) && (!l.raised || decide (run = 0)) }
  else
    { sumd := .zero, sumw := .zero, ratio := .zero, theta := .zero, run := run
      silent := decide (c.mram.silentN.toNat ≤ run) && !l.raised }

/-- The tenant's silent events are masked (R163). -/
def Chip.masked (c : Chip) (t : Fin 16) : Bool := c.objs.silentMask.getLsbD t.val

/-- A layer after the boundary: its run counter, and whether an event stands raised in the run. -/
def LayerRow.after (l : LayerRow) (x : LayerStat) (masked : Bool) : LayerRow :=
  let r := { l.fresh with run := x.run }
  { r with raised := if x.run = 0 then false else l.raised || (x.silent && !masked) }

/-- An event or log entry of the monitor (R163, R167, R170). -/
def Chip.monEntry (c : Chip) (r : Running) (status : W16) : EvEntry :=
  { c.entry (c.monSrc r.plan.tenant) with status := status, plan := r.plan.id, step := r.step }

/-- The report of a silent layer (R162-R164). -/
def Chip.reportSilent (c : Chip) (p : Fin 4) (r : Running) (layer : W16) : Chip :=
  let t := r.plan.tenant
  let e := { c.monEntry r 0x0051 with arg0 := layer.setWidth 64 }
  let c := { c with objs := { c.objs with
    silentCount := c.objs.silentCount + 1
    lastSilent := layer ++ BitVec.ofNat 4 t.val ++ (0 : BitVec 12) ++ r.step
    lastSilentStamp := c.drone.now } }
  let c : Chip := c.log (.vf t) { e with level := openLevel 0 }
  let c : Chip := if c.mram.silentAction = 0 then c else (c.raise 8).event (.vf t) e
  if c.mram.silentAction = 2 then c.modRun p fun r => { r with halt := some 0x0051 } else c

/-- The report of a non-finite step (R170). -/
def Chip.reportNonfinite (c : Chip) (r : Running) : Chip :=
  let t := r.plan.tenant
  let c := { c with objs := { c.objs with
    nonfiniteCount := c.objs.nonfiniteCount + 1
    lastNonfinite := r.plan.id ++ BitVec.ofNat 4 t.val ++ (0 : BitVec 12) ++ r.step } }
  (c.raise 9).event (.vf t) (c.monEntry r 0x0050)

/-- The loss-scale state after a gradient step (R169). -/
def scaleNext (x : Vector W32 16) (nonfinite : Bool) : Vector W32 16 :=
  if x[5] ≠ 1 then x
  else
    let half := ofF32 (x[0])
    if nonfinite then
      let s := rne32 (half.mul (.fin false 1 (-1)))
      let s := if s.lt (ofF32 x[3]) then ofF32 x[3] else s
      ((x.set 0 (toF32 s)).set 1 0).set 6 (x[6] + 1)
    else if x[1] + 1 = x[2] then
      let s := rne32 (half.mul (.fin false 1 1))
      let s := if (ofF32 x[4]).lt s then ofF32 x[4] else s
      (x.set 0 (toF32 s)).set 1 0
    else x.set 1 (x[1] + 1)

/-- The admitted micro-batches of a step. -/
def Tenant.stepBatches (t : Tenant) (plan : W16) (step : W32) : List MBatch :=
  t.mbatches.filter fun b => decide (b.plan = plan) && decide (b.step = step)

/-- Stamps that rise from `p` by given times, none beyond `e`. -/
def riseTo (e : Nat) : Nat → List Nat → List Nat
  | _, [] => []
  | p, x :: xs => min e (p + x) :: riseTo e (min e (p + x)) xs

/-- The stamps of a learning step's passes in the order of R151: start and end of each slot's forward pass, slots
ascending, then of each slot's backward pass, slots descending. The times between them are the schedule's. -/
def Running.passStamps (r : Running) (now : Stamp) : List Nat :=
  riseTo now.toNat r.counts.tStart.toNat
    ((List.range (4 * (r.plan.buckets r.step).length)).map fun n => Config.passNs r.plan.id r.step r.counts.tStart n)

/-- T_FWD_END and T_BWD_END: the ends of the last forward and of the last backward pass (R151, R166). -/
def Running.phaseEnds (r : Running) (now : Stamp) : Nat × Nat :=
  let xs := r.passStamps now
  let n := (r.plan.buckets r.step).length
  (xs.getD (2 * n - 1) r.counts.tStart.toNat, xs.getD (4 * n - 1) r.counts.tStart.toNat)

/-- t_fwd + t_bwd of slot `j` (R156). -/
def Running.passNs (r : Running) (now : Stamp) (j : Nat) : Nat :=
  let xs := r.passStamps now
  let n := (r.plan.buckets r.step).length
  let at_ := fun k => xs.getD k 0
  (at_ (2 * j + 1) - at_ (2 * j)) + (at_ (2 * n + 2 * (n - 1 - j) + 1) - at_ (2 * n + 2 * (n - 1 - j)))

/-- BUBBLE of a step in ns (R156). -/
def bubbleNs (r : Running) (now : Stamp) (bs : List MBatch) : Nat :=
  let bk := (r.plan.buckets r.step).zipIdx
  let den := bk.foldl (fun n x => n * max 1 x.1) 1
  let num := (bk.map fun x =>
    let len := ((bs.find? fun b => b.slot.val = x.2).map MBatch.len).getD 0
    if x.1 = 0 then 0 else (x.1 - len) * r.passNs now x.2 * (den / x.1)).sum
  num / den

/-- STATUS of the step summary (R166). -/
def stepStatus (r : Running) (silent : Bool) : W16 :=
  if r.counts.gradient && r.counts.nonfinite then 0x0050
  else if silent then 0x0051
  else if r.counts.replayed then 0x0032
  else 0

/-- The low 32 bits that a count shows: it saturates. -/
def sat32 (n : Nat) : Nat := min n (2 ^ 32 - 1)

/-- The plan time of a step as bound: STEP0_NS for step 0, at most STEPMAX_NS for a later one, and never less than 60 µs
(R176, R179, R382). -/
def Plan.statedNs (p : Plan) (step : W32) : Nat :=
  if step = 0 then p.fig.step0Ns.toNat else min p.fig.stepMaxNs.toNat (max 60000 (Config.stepNs p.id step))

/-- STRETCH_NS: the stamped time of a step beyond its plan time, whatever stretched it (R166, R179, R386). -/
def Running.stretch (r : Running) (now : Stamp) : Nat := (now.toNat - r.counts.tStart.toNat) - r.plan.statedNs r.step

/-- The step summary's 256 bytes (R166). -/
def Chip.summaryBytes (c : Chip) (r : Running) (nlayer : Nat) (status : W16) : List Byte :=
  let t := c.tenants[r.plan.tenant]
  let learn := !r.plan.slotTable.isEmpty
  let bs := t.stepBatches r.plan.id r.step
  let (fwd, bwd) := if learn then r.phaseEnds c.drone.now else (0, 0)
  let body :=
    leBytes 4 (r.step.toNat + 1) ++ leBytes 2 r.plan.id.toNat ++ leBytes 2 status.toNat ++ leBytes 4 r.step.toNat ++
    leBytes 2 nlayer ++ leBytes 2 bs.length ++ leBytes 8 r.counts.tStart.toNat ++ leBytes 8 fwd ++
    leBytes 8 bwd ++ leBytes 8 c.drone.now.toNat ++ leBytes 8 (r.plan.buckets r.step).sum ++
    leBytes 8 (bs.map MBatch.len).sum ++ leBytes 8 (if learn then bubbleNs r c.drone.now bs else 0) ++
    leBytes 4 (sat32 (r.stretch c.drone.now)) ++ leBytes 4 r.counts.oorRows ++ leBytes 4 r.counts.ftqUnder ++
    leBytes 4 r.counts.ftqOver ++ leBytes 4 r.counts.ftqShape ++ leBytes 4 (bs.map MBatch.ext).sum ++
    leBytes 4 (if learn then t.scale[0].toNat else 0) ++ leBytes 4 (if learn then t.scale[1].toNat else 0)
  body ++ List.replicate (256 - body.length) 0

/-- Six counters in the order of R100. -/
def Counts.bytes (k : Counts) : List Byte :=
  leBytes 8 k.exact ++ leBytes 8 k.rounded ++ leBytes 8 k.underflow ++ leBytes 8 k.flush ++
  leBytes 8 k.saturate ++ leBytes 8 k.overflow

/-- A layer record's 256 bytes (R166). -/
def layerBytes (l : LayerRow) (x : LayerStat) (masked : Bool) : List Byte :=
  let flags := (if x.silent then 1 else 0) + (if l.counted then 2 else 0) + (if l.voptSkipped then 4 else 0) +
    (if masked then 8 else 0)
  leBytes 2 l.layer.toNat ++ leBytes 2 flags ++ leBytes 4 x.run ++ leBytes 4 (toF32 x.sumd).toNat ++
  leBytes 4 (toF32 x.sumw).toNat ++ leBytes 4 (toF32 x.ratio).toNat ++ leBytes 4 (toF32 x.theta).toNat ++
  List.replicate 8 0 ++ l.fp4.bytes ++ l.e4m3.bytes ++ l.e5m2.bytes ++ l.bf16.bytes ++ List.replicate 32 0

/-- A boundary's writes into the tenant's windows: a replay from before it takes them back, and they are made again as it
is reached again (R158, R186). -/
def State.boundaryWrite (s : State) (p : Fin 4) (ws : List MemWrite) : State :=
  let undo := undoOf s.mem ws
  { s with mem := s.mem.applyAll ws, chip := s.chip.modRun p fun r => { r.keepUndo undo with bwrites := r.bwrites ++ ws } }

/-- The monitor block of a step written to its area (R166); an area too small for its D blocks takes
nothing (DEDUCED, notes/assumptions/29.md). -/
def State.writeBlock (s : State) (p : Fin 4) (r : Running) (bytes : List Byte) : State :=
  let t := s.chip.tenants[r.plan.tenant]
  match t.ref (some r.plan.image) r.plan.sub.montid with
  | none => s
  | some ref =>
    let d := r.plan.sub.mond.toNat
    if t.inWin ref.win ref.woff (d * bytes.length) && decide (d * bytes.length ≤ ref.fmt.bytes ref.count) then
      let ws := t.byteWrites ref.win (ref.woff + r.step.toNat % d * bytes.length) bytes
      (s.boundaryWrite p ws).on fun c => c.signal (.vf r.plan.tenant) 4
    else s

/-- The entry of a step's summary, without a monitor block: stretch, rows out of range and bubble, queue counts, queue
shapes and store extents (R167). -/
def Chip.summaryEntry (c : Chip) (r : Running) (status : W16) : EvEntry :=
  let k := r.counts
  let bs := c.tenants[r.plan.tenant].stepBatches r.plan.id r.step
  let bubble := if r.plan.slotTable.isEmpty then 0 else bubbleNs r c.drone.now bs
  { c.monEntry r status with
    arg0 := BitVec.ofNat 64 (r.stretch c.drone.now)
    arg1 := BitVec.ofNat 64 (k.oorRows * 2 ^ 32 + sat32 bubble)
    arg2 := BitVec.ofNat 64 (k.ftqUnder * 2 ^ 32 + k.ftqOver)
    arg3 := BitVec.ofNat 64 (k.ftqShape * 2 ^ 32 + (bs.map MBatch.ext).sum) }

/-- The step's report where no monitor area is named (R167). -/
def Chip.summaryEvent (c : Chip) (r : Running) (status : W16) : Chip :=
  let k := r.counts
  if status = 0 ∧ r.stretch c.drone.now = 0 ∧ k.oorRows = 0 ∧ k.ftqUnder = 0 ∧ k.ftqOver = 0 ∧ k.ftqShape = 0 then c
  else c.event (.vf r.plan.tenant) (c.summaryEntry r status)

/-- The monitor's work at the boundary that ends a step (R162-R170). -/
def State.monitorStep (s : State) (p : Fin 4) (r : Running) : State :=
  let c := s.chip
  let t := r.plan.tenant
  let masked := c.masked t
  let rows := c.tenants[t].layers
  let stats := rows.map fun l => (l, c.layerStat r.plan.image.gen t l)
  let news := if masked then [] else (stats.filter fun x => x.2.silent).map fun x => x.1.layer
  let nonfinite := r.counts.gradient && r.counts.nonfinite
  let status := stepStatus r !news.isEmpty
  let c := c.modTenant t fun x =>
    { x with
      layers := stats.map fun y => y.1.after y.2 masked
      scale := if r.counts.gradient then scaleNext x.scale nonfinite else x.scale }
  let c := news.foldl (fun c l => c.reportSilent p r l) c
  let c := if nonfinite then c.reportNonfinite r else c
  let s := { s with chip := c }
  if r.plan.sub.mond = 0 then s.on fun c => c.summaryEvent r status
  else s.writeBlock p r
    (c.summaryBytes r rows.length status ++ stats.flatMap fun x => layerBytes x.1 x.2 masked)

/-! ### Requests at the end of a step (R148, R213, R214, R222, R224) -/

/-- DEADLINE of a request (R145). -/
def ReqSlot.deadline (q : ReqSlot) : Nat := q.row[55].toNat + q.row[56].toNat * 2 ^ 32

/-- The deadline of an active request has passed (R148). -/
def ReqSlot.late (q : ReqSlot) (now : Stamp) : Bool := decide (q.deadline ≠ 0) && decide (q.deadline < now.toNat)

/-- A copy that retires at this boundary of partition `p`: a RETIRE names it, or it has been RETAINED for RETAIN_STEPS
boundaries (R213). -/
def Chip.retiring (c : Chip) (p : Fin 4) (t : Fin 16) (k : EpochCopy) : Bool :=
  decide (k.state = .retained) && !((c.busyEpochs p t).contains k.epoch && k.adapter.isNone) &&
  ((c.tenants[t].retires.any fun x => decide (x.aid = k.aid) && decide (x.epoch = k.epoch) && !x.held) ||
   (k.adapter.isNone && decide (c.mram.retainSteps ≠ 0) && decide (c.mram.retainSteps.toNat ≤ k.retainedFor)))

/-- The request is pinned to a copy (R208, R212). -/
def ReqSlot.pinnedTo (q : ReqSlot) (k : EpochCopy) : Bool :=
  q.pin && match k.adapter with
    | none => decide (q.wepoch = k.epoch)
    | some (aid, _) => decide (q.aid = aid) && decide (q.aepoch = k.epoch)

/-- How a request stands at the boundary: STATUS and STOP of a NOTOKEN final entry, or that its final entry
is among the tokens, or that it goes on. -/
inductive ReqEnd where
  | notoken (status : W16) (stop : Byte)
  | done
  | goesOn
  deriving DecidableEq

/-- The end of a request in the order of R214: deadline, then a stop of the step, then retirement. -/
def ReqSlot.atEnd (q : ReqSlot) (now : Stamp) (gone : List EpochCopy) : ReqEnd :=
  if q.late now then .notoken 0x0012 0x50
  else match q.finish with
    | some (r, d) => if q.finalFormed then .done else .notoken 0 (BitVec.ofNat 8 (16 * r + d))
    | none => if gone.any q.pinnedTo then .notoken 0x0013 0 else .goesOn

/-- The tokens of the step that are published: those of a request whose deadline has passed are not. -/
def tokensOut (slots : List (Nat × ReqSlot)) (now : Stamp) (toks : List ResEntry) : List ResEntry :=
  toks.filter fun e => match alGet slots e.slot.toNat with
    | some q => !q.late now
    | none => true

/-- A step's requests become `stay`, and the copies in `gone` and those that nothing refers to any more turn FREE (R148,
R212, R213). -/
def Chip.closeStep (c : Chip) (p : Fin 4) (t : Fin 16) (stay : List (Nat × ReqSlot)) (gone : List EpochCopy) : Chip :=
  let c := c.modTenant t fun x => { x with
    slots := stay
    copies := x.copies.filter fun k => !(gone.any fun g => decide (g.aid = k.aid) && decide (g.epoch = k.epoch)) }
  (c.freeRetained p t).settleRetires t

/-- The copies that retire at this boundary: away from the plan that serves the requests, those that no request is pinned to
(notes/assumptions/101.md). -/
def Chip.goneAt (c : Chip) (p : Fin 4) (r : Running) : List EpochCopy :=
  let t := r.plan.tenant
  c.tenants[t].copies.filter fun k => c.retiring p t k && (r.plan.req.isSome || decide (c.tenants[t].refs k = 0))

/-- Requests, results and copies at a step boundary, and the entries that the boundary publishes; deadlines are judged
where the boundary ends a step (R148). Requests are those of the plan that serves them. -/
def Chip.finishRequests (c : Chip) (p : Fin 4) (r : Running) (ended : Bool) : Chip × StepOut :=
  let t := r.plan.tenant
  let gone := c.goneAt p r
  if r.plan.req.isNone then (c.closeStep p t c.tenants[t].slots gone, .empty)
  else
    let now := if ended then c.drone.now else 0
    let toks := tokensOut c.tenants[t].slots now r.toks
    let slots := c.tenants[t].slots.map fun x =>
      (x.1, { x.2 with published := x.2.published + BitVec.ofNat 32 (toks.filter fun (e : ResEntry) => e.slot.toNat = x.1).length })
    let ends := slots.map fun x => (x.1, x.2, x.2.atEnd now gone)
    let finals := ends.filterMap fun x => match x.2.2 with
      | .notoken st stop => some (x.1, c.noToken r x.1 x.2.1 st stop)
      | _ => none
    let stay := (ends.filter fun x => x.2.2 = .goesOn).map fun x => (x.1, { x.2.1 with fresh := false })
    (c.closeStep p t stay gone, ⟨toks, finals⟩)

/-! ### Beginning a step (R207-R219, R226) -/

/-- An unpinned request follows the current epochs (R208). -/
def ReqSlot.follow (t : Tenant) (q : ReqSlot) : ReqSlot :=
  if q.pin then q
  else
    let q := { q with wepoch := t.curEpoch.getD 0 }
    match t.curAdapter q.aid with
    | some k => { q with aepoch := k.epoch, abank := k.adapter.map Prod.snd }
    | none => q

/-- The lowest free slot of a request table. -/
def freeSlot (nslot : Nat) (slots : List (Nat × ReqSlot)) : Option Nat :=
  (List.range nslot).find? fun i => (alGet slots i).isNone

/-- The request of an admission that takes effect for step `step` (R208, R217, R219). -/
def PendAdm.request (a : PendAdm) (t : Tenant) (step : W32) : ReqSlot :=
  let k := if a.aid = 0xFFFF then none else t.curAdapter a.aid
  { tag := a.tag, row := a.row, fresh := true, plen := BitVec.ofNat 32 a.prompt.length, admStep := step
    pin := !a.unpin, wepoch := t.curEpoch.getD 0, aid := a.aid
    aepoch := (k.map EpochCopy.epoch).getD 0, abank := (k.bind EpochCopy.adapter).map Prod.snd
    published := 0, finish := none, finalFormed := false }

/-- The prompt row of an admitted request (R219). -/
def State.writePrompt (s : State) (p : Fin 4) (r : Running) (rt : ReqTable) (slot : Nat) (prompt : List W32) : State :=
  let t := s.chip.tenants[r.plan.tenant]
  match t.ref (some r.plan.image) rt.ptid with
  | none => s
  | some ref =>
    let row := prompt ++ List.replicate (rt.pmax - prompt.length) 0xFFFFFFFF
    let ws := t.byteWrites ref.win (ref.woff + 4 * (slot * rt.pmax)) (row.flatMap fun w => leBytes 4 w.toNat)
    s.boundaryWrite p ws

/-- DEADLINE of a pending admission (R145). -/
def PendAdm.deadline (a : PendAdm) : Nat := a.row[55].toNat + a.row[56].toNat * 2 ^ 32

/-- Pending admissions in acceptance order, `left` more to admit (R219): one that is refused counts toward no limit. -/
def admitLoop (p : Fin 4) (r : Running) (rt : ReqTable) : Nat → List PendAdm → State → State × List PendAdm
  | _, [], s => (s, [])
  | left, a :: rest, s =>
    let t := r.plan.tenant
    let x := s.chip.tenants[t]
    if a.plan ≠ r.plan.id then
      let (s, ws) := admitLoop p r rt left rest s
      (s, a :: ws)
    else if a.deadline ≠ 0 ∧ a.deadline < s.chip.drone.now.toNat then
      admitLoop p r rt left rest (s.on fun c => c.complete a.src 0x0012 r.plan.id 0 0)
    else if a.aid ≠ 0xFFFF ∧ (x.curAdapter a.aid).isNone then
      admitLoop p r rt left rest (s.on fun c => c.complete a.src 0x0013 r.plan.id 0 0)
    else match left, freeSlot rt.nslot x.slots with
    | n + 1, some i =>
      let s := s.writePrompt p r rt i a.prompt
      let s := s.on fun c =>
        (c.modTenant t fun y => { y with slots := alPut y.slots i (a.request x r.step), used := i :: y.used.filter fun j => j ≠ i }).complete
          a.src 0 r.plan.id (BitVec.ofNat 32 i) c.drone.now
      admitLoop p r rt n rest s
    | n, _ =>
      let (s, ws) := admitLoop p r rt n rest s
      (s, a :: ws)

/-- The plan ends at its next boundary: a TURN has named its target, or a PART_SET turns the whole array (R20,
R81, R300; DEDUCED for PART_SET, notes/assumptions/37.md). -/
def Chip.turned (c : Chip) (r : Running) : Bool := r.turn.isSome || c.partPending.isSome

/-- The admissions of a boundary (R219); none once a TURN has named the plan (R20). -/
def State.admitStep (s : State) (p : Fin 4) (r : Running) : State :=
  match r.plan.req with
  | none => s
  | some rt =>
    if s.chip.turned r then s
    else
      let (s, left) := admitLoop p r rt rt.admax s.chip.tenants[r.plan.tenant].pendAdm s
      s.on fun c => c.modTenant r.plan.tenant fun x => { x with pendAdm := left }

/-- The set L of R209, newest first. -/
def Tenant.stepEpochs (t : Tenant) : List W16 :=
  (t.copies.filter fun k => k.adapter.isNone &&
    (decide (k.state = .current) || (decide (k.state = .retained) && decide (0 < t.refs k)))).foldl
    (fun l k => l.filter (fun e => newer e k.epoch) ++ k.epoch :: l.filter (fun e => !newer e k.epoch)) []

/-- The next step epoch after `prev` (R209); 0 while the tenant has no weight epoch. -/
def Tenant.nextEpoch (t : Tenant) (prev : W16) : W16 :=
  let l := t.stepEpochs
  match l with
  | [] => 0
  | e :: _ =>
    if prev = 0 then e
    else match l.find? fun x => newer prev x with
      | some x => x
      | none => e

/-- The intake of the step's micro-batches: the first L rows of the slot's input tensor (R153). -/
def State.intake (s : State) (p : Fin 4) (r : Running) : State :=
  let t := s.chip.tenants[r.plan.tenant]
  let ws := (t.stepBatches r.plan.id r.step).flatMap fun b =>
    match r.plan.image.tensors.find? fun e => decide (e.role = .store) && decide (e.sslot = b.slot) with
    | none => []
    | some e =>
      let bkt := ((r.plan.buckets r.step).getD b.slot.val 0)
      let f := (Fmt.ofCode e.fmt).getD .u8
      let n := f.bytes (b.len * (if bkt = 0 then 0 else e.count.toNat / bkt))
      t.byteWrites e.win e.woff.toNat (t.bytes s.mem b.win b.off n)
  s.boundaryWrite p ws

/-- Entries that the result ring can still take beyond those owed (R226). -/
def Chip.resultFree (c : Chip) (t : Fin 16) : Nat :=
  let r := (c.func (.vf t)).rings[(11 : Fin 12)]
  r.room - r.owed.length

/-- Whether the coming step must wait for the result ring (R226). -/
def Chip.ringShort (c : Chip) (r : Running) : Bool :=
  r.plan.req.isSome &&
    decide (c.resultFree r.plan.tenant < r.plan.emax + c.tenants[r.plan.tenant].slots.length)

/-- A partition is held at its boundary. -/
def Chip.hold (c : Chip) (p : Fin 4) (h : Hold) : Chip :=
  c.modRun p fun r => if r.holds.contains h then r else { r with holds := h :: r.holds }

/-- The ring hold of R226 with its event entry. -/
def Chip.ringHold (c : Chip) (p : Fin 4) : Chip :=
  match c.run p with
  | none => c
  | some r =>
    if c.ringShort r then
      (c.hold p .ringFull).event (.vf r.plan.tenant)
        { c.entry (c.ringSrc (.vf r.plan.tenant) 11) with status := 0x0002, plan := r.plan.id, step := r.step }
    else c

/-- The pause of R307 at the boundary. -/
def Chip.pauseHold (c : Chip) (p : Fin 4) : Chip :=
  match c.run p with
  | none => c
  | some r => if c.driverAway then ((c.hold p .paused).setFState r.plan.tenant .paused).settleAbsent else c

/-- A hold is lifted; when none is left, the step begins (R226, R308, R391). -/
def Chip.unhold (c : Chip) (p : Fin 4) (h : Hold) : Chip :=
  c.modRun p fun r =>
    let hs := r.holds.filter fun x => x ≠ h
    if r.holds.isEmpty || !hs.isEmpty then { r with holds := hs }
    else
      let k := { r.counts with tStart := c.drone.now }
      { r with
        holds := [], counts := k
        commits := match r.commits with
          | x :: xs => { x with counts := { x.counts with tStart := c.drone.now } } :: xs
          | [] => [] }

/-- The step epoch is chosen and the plan stands at its boundary (R209): the CURRENT epoch for a plan that admits no
requests; for one that does, the next of those that take turns. -/
def Chip.chooseEpoch (c : Chip) (p : Fin 4) (r : Running) : Chip :=
  let t := r.plan.tenant
  let x := c.tenants[t]
  let e := if r.plan.req.isSome then x.nextEpoch x.prevEpoch else x.curEpoch.getD 0
  (c.modTenant t fun x => if r.plan.req.isSome then { x with prevEpoch := e } else x).modRun p fun r =>
    { r with stepEpoch := e, atBoundary := true, counts := { r.counts with tStart := c.drone.now } }

/-- The step named in the running plan begins: epochs and admissions, the step epoch, the intake, holds, and
the boundary's commit point (R185, R209-R219, R226, R307). -/
def State.beginStep (s : State) (p : Fin 4) : State :=
  match s.chip.run p with
  | none => s
  | some r =>
    let t := r.plan.tenant
    let s := if r.plan.req.isSome then
        s.on fun c => c.modTenant t fun x => { x with slots := x.slots.map fun q => (q.1, q.2.follow x) }
      else s
    let s := s.admitStep p r
    let s := s.on fun c => c.chooseEpoch p r
    let s := s.intake p r
    s.on fun c => ((c.ringHold p).pauseHold p).commitAt p

/-! ### Ending a step -/

/-- The view of a partition's running plan. -/
def State.view (s : State) (p : Fin 4) (r : Running) : View := { chip := s.chip, mem := s.mem, part := p, run := r }

/-- A SAVE of a running tenant takes its context at the boundary; END ends the plan (R391). -/
def Chip.takeSaves (c : Chip) (p : Fin 4) (r : Running) : Chip × Bool :=
  let t := r.plan.tenant
  let due := c.tenants[t].saves.filter fun v => v.taken.isNone
  if due.isEmpty then (c, false)
  else
    let x := c.saveOf r true
    let c := c.modTenant t fun y =>
      { y with saves := y.saves.map fun v => if v.taken.isNone then { v with taken := some x } else v }
    let c := { c with drawn := c.drawn + 1 }
    let ends := due.any PendSave.endPlan
    (if ends then c else c.hold p .saving, ends)

/-- Why a plan ends at this boundary: the status of its end (R20, R25, R163, R391), or it goes on. -/
inductive PlanEnd where
  | ends (status : W16)
  | goesOn
  deriving DecidableEq

/-- The end of a plan at a boundary, apart from R28: CF.END, the last step number, a halt, a TURN. -/
def planEndOf (step : W32) (halt : Option W16) (serves turned last active saveEnd : Bool) : PlanEnd :=
  if last || decide (step = 0xFFFFFFFF) then .ends 0x0002
  else match halt with
    | some st => .ends st
    | none =>
      if (turned && !(serves && active)) || saveEnd then .ends 0x0002 else .goesOn

/-- The coming step begins, once its static values have been evaluated; a failed check ends the plan (R28). The entries of
the step that has ended are published (R224). -/
def State.enterStep (s : State) (p : Fin 4) (out : StepOut) : State :=
  match s.chip.run p with
  | none => s
  | some r =>
    match firstErr (s.view p r).dry.errs with
    | none => (s.on fun c => c.publish r.plan.tenant out.entries).beginStep p
    | some e => s.failPlan p r r.step.toNat e.whereAt.toNat e.slot e.reason out

/-- What the module does at a boundary before the plan's own affairs, in the order of R16: switches, the activation that is
due and its 0x0003 entry. -/
def Chip.boundaryEvents (c : Chip) (p : Fin 4) (t : Fin 16) : Chip :=
  ((((c.raise (Fin.ofNat 128 (48 + p.val))).applyCap.ageRetained t).switchStep t).activationEvent).activate

/-- A boundary that the plan has passed before is reached again in a replay (R104, R224, R382): its writes into the
tenant's windows are made again and the step that followed begins as it did; nothing is published, completed or judged
again. -/
def State.recross (s : State) (p : Fin 4) (x : CommitPt) (rest : List CommitPt) : State :=
  let undo := undoOf s.mem x.redo
  let s := { s with mem := s.mem.applyAll x.redo }
  s.on fun c =>
    let c := c.modRun p fun r =>
      { r.keepUndo undo with
        inPrologue := false, step := x.step, ctx := x.ctx, build := none, coll := none, counts := x.counts, toks := x.toks
        stepEpoch := x.stepEpoch, atBoundary := true, done := x.done, crossed := rest
        past := if rest.isEmpty then none else some x.past, bwrites := x.redo }
    ((c.raise (Fin.ofNat 128 (48 + p.val))).pauseHold p).commitAt p

/-- The boundary that ends a step (R25): the running plan's context already stands where the next step
begins; `last`: CF.END. -/
def State.boundary (s : State) (p : Fin 4) (last : Bool) : State :=
  match s.chip.run p with
  | none => s
  | some r0 =>
    match r0.crossed with
    | x :: rest => s.recross p x rest
    | [] =>
      let t := r0.plan.tenant
      let s := s.on fun c => c.boundaryEvents p t
      let s := s.monitorStep p r0
      let (c, out) := s.chip.finishRequests p r0 true
      let s := { s with chip := c.modTenant t fun x =>
        { x with mbatches := x.mbatches.filter fun b => !(decide (b.plan = r0.plan.id) && decide (b.step = r0.step)) } }
      let s := s.on fun c => c.modRun p fun r =>
        { r with step := r.step + 1, toks := [], counts := StepCounts.zero c.drone.now, build := none }
      match s.chip.run p with
      | none => s
      | some r =>
        let (c, saveEnd) := s.chip.takeSaves p r
        let s := { s with chip := c }
        match planEndOf r0.step r0.halt r.plan.req.isSome (s.chip.turned r) last (!s.chip.tenants[t].slots.isEmpty) saveEnd with
        | .ends st =>
          (s.on fun c => if st = 0x0051 then c.endEvent r0 st 0 0 else c).endPlan p r0 (r0.step.toNat + 1) st out
        | .goesOn => s.enterStep p out

end Sys2Proof.Machine
end

