-- ==== Sys2Proof/Machine/Ecc.lean ====
section
/-! DEFINITION. Where a physical byte lies (R188, R191, R230-R233), and its commit copy (R242); the counts of corrected and
uncorrectable codewords (R243, R244, R247). -/

namespace Sys2Proof.Machine

/-! ### Where a byte lies -/

/-- Bytes of the tiers (R230): 576 GB and 1,024 GB. -/
def tier1Bytes : Nat := 576000000000
def tier2Bytes : Nat := 1024000000000

/-- Where the host region begins (R15, R233, R296). -/
def Chip.hostBase (c : Chip) : Nat := tier2Bytes - c.mram.hostRegion.toNat

/-- A physical byte lies in a window. -/
def Window.covers (w : Window) (t1 : Bool) (a : Nat) : Bool :=
  decide (w.tier = some t1) && decide (w.base.toNat ≤ a) && decide (a < w.limit.toNat)

/-- The residues U of R188. -/
def hashUnits : List Nat := (List.range 384).filter fun x => x % 2 = 1 && x % 3 ≠ 0

/-- The pair (a_q, b_q) of a row of granules under a key and its generation (R188). -/
def hashRow (key : BitVec 128) (kgen : W16) (q : Nat) : Nat × Nat :=
  let d := drawWords (keyWords (word128 key 0) (word128 key 1) (word128 key 2) (word128 key 3))
    (BitVec.ofNat 32 q) 0 (kgen.setWidth 32) 0x494C5631
  (hashUnits.getD (d.x0.toNat % 128) 1, d.x1.toNat % 384)

/-- The pseudo-channel and channel offset of a tier-1 byte under a key (R188). -/
def hashPlace (key : BitVec 128) (kgen : W16) (a : Nat) : Nat × Nat :=
  let g := a / 256
  let (x, b) := hashRow key kgen (g / 384)
  ((x * (g % 384) + b) % 384, 256 * (g / 384) + a % 256)

/-- The generation under which a tier-1 byte lies: its window's, or the one in force (R191). -/
def Chip.genOf (c : Chip) (a : Nat) : W16 :=
  match (c.tenants.toList.flatMap fun t => t.windows.toList).find? fun w => w.covers true a with
  | some w => w.kgen
  | none => c.memObj.kgen

/-- The pseudo-channel and channel offset of a tier-1 byte (R188, R191). -/
def Chip.t1Place (c : Chip) (a : Nat) : Nat × Nat :=
  let g := c.genOf a
  hashPlace (if g = c.memObj.kgen then c.memObj.key else c.memObj.prevKey) g a

/-- The tier-2 channel and channel offset of a byte (R232). -/
def t2Place (a : Nat) : Nat × Nat := (a / 256 % 64, 256 * (a / 256 / 64) + a % 256)

/-- Unit and byte offset within the unit, as LAST_UE names them (R247). -/
def Chip.place (c : Chip) (t1 : Bool) (a : Nat) : Nat × Nat := if t1 then c.t1Place a else t2Place a

/-- The source ID of the memory controller of a byte (R257). -/
def Chip.memSrc (c : Chip) (t1 : Bool) (a : Nat) : W32 :=
  c.srcId 4 (if t1 then (c.t1Place a).1 else 0x400 + (t2Place a).1)

/-- LAST_UE and its stamp, with an outcome (R247). -/
def Chip.lastUe (c : Chip) (tier unit off : Nat) (outcome : W16) : Chip :=
  { c with memObj := { c.memObj with
      lastUe := BitVec.ofNat 64 (tier * 2 ^ 60 + unit % 4096 * 2 ^ 48 + off % 2 ^ 48)
      lastUeStamp := c.drone.now, lastUeOutcome := outcome } }

/-- An uncorrectable codeword of a tier found by an access of no plan: source 1, LAST_UE with outcome 0 (R243,
R244). -/
def Chip.foundBad (c : Chip) (t1 : Bool) (a : Nat) : Chip :=
  let (u, o) := c.place t1 a
  let c := (c.raise 1).lastUe (if t1 then 1 else 2) u o 0
  { c with mram := { c.mram with ueLifetime := c.mram.ueLifetime + 1 } }

/-- Key of a unit among those whose corrected codewords are counted by the hour. -/
def ceKey (t1 : Bool) (u : Nat) : Nat := if t1 then u else 384 + u

/-- A corrected codeword counted (R247): by tier, unit and life; the first above CE_ALERT in a unit's hour is logged. -/
def Chip.countCe (c : Chip) (t1 : Bool) (a : Nat) : Chip :=
  let (u, _) := c.place t1 a
  let m := c.memObj
  let fresh := decide (3600000000000 ≤ c.since m.ceHour)
  let counts := if fresh then [] else m.ceCounts
  let n := spGet 0 counts (ceKey t1 u) + 1
  let m := { m with ceHour := if fresh then c.drone.now else m.ceHour, ceCounts := spSet 0 (ceKey t1 u) n counts }
  let m := if t1 then { m with ceT1 := m.ceT1 + 1, cePc := spSet 0 u (spGet 0 m.cePc u + 1) m.cePc }
    else { m with ceT2 := m.ceT2 + 1, ceCh2 := spSet 0 u (spGet 0 m.ceCh2 u + 1) m.ceCh2 }
  let c := { c with memObj := m, mram := { c.mram with ceLifetime := c.mram.ceLifetime + 1 } }
  if c.mram.ceAlert ≠ 0 ∧ n = c.mram.ceAlert.toNat + 1 then
    c.log .pf { c.entry (c.memSrc t1 a) with level := openLevel 1, arg0 := BitVec.ofNat 64 n }
  else c

/-- Corrected codewords counted (R243, R247). -/
def Chip.countCes (c : Chip) (ks : List PAddr) : Chip := ks.foldl (fun c k => c.countCe k.1 (32 * k.2)) c

/-- A corrected codeword of a tile's scratchpad (R247). -/
def Chip.countCeSp (c : Chip) : Chip :=
  { c with memObj := { c.memObj with ceSp := c.memObj.ceSp + 1 }, mram := { c.mram with ceLifetime := c.mram.ceLifetime + 1 } }

/-! ### Commit copies (R233, R242) -/

/-- The pseudo-channel of the diagonally opposite die, of the same numbers (R242). -/
def mirrorPc (c : Nat) : Nat := 96 * (3 - c / 96) + c % 96

/-- The tier-2 channel of the diagonally opposite die (R242). -/
def mirrorCh (h : Nat) : Nat := 16 * (3 - h / 16) + h % 16

/-- The commit row of a partition to which a row of granules is mapped, below the tier's end and the host region: the
placer's choice (R233, R242; FREE VALUE, notes/assumptions/108.md). -/
def Chip.commitRow (c : Chip) (p : Fin 4) (t1 : Bool) (row : Nat) : Nat :=
  Config.commitRow p.val t1 row % max 1 (if t1 then tier1Bytes / 98304 else c.hostBase / 16384)

/-- Tier, unit and byte offset of the commit copy that lies in the commit set: of a byte of a tier its second copy, of a
tile's state its image (R242). -/
def Chip.copyPlace (c : Chip) (p : Fin 4) (u : UeRead) : Nat × Nat × Nat :=
  if u.tier = 2 then (2, mirrorCh u.unit, 256 * c.commitRow p false (u.off / 256) + u.off % 256)
  else if u.tier = 1 then (1, mirrorPc u.unit, 256 * c.commitRow p true (u.off / 256) + u.off % 256)
  else
    let at_ := Config.imagePlace p.val u.unit (u.off / 256)
    (1, 96 * (3 - u.unit / 17) + at_.1 % 96, 256 * (at_.2 % (tier1Bytes / 98304)) + u.off % 256)

end Sys2Proof.Machine
end

