-- ==== Sys2Proof/Machine/Reads.lean ====
section
/-! DEFINITION. What a slot reads of tenant memory, and what becomes of a plan that reads an uncorrectable codeword (R238,
R240, R241, R243, R247). -/

namespace Sys2Proof.Machine

/-! ### The codewords that a slot reads -/

/-- The codewords in which an element of a tensor lies; none for a module tensor, an adapter or versioned tensor, whose
copies the placer places, and a row of the store that carries no data. -/
def View.elemWords (v : View) (tid : BitVec 20) (off : Nat) : List PAddr :=
  if (ModTensor.ofTid tid).isSome then []
  else match (View.plan v).image.tensor tid with
    | none => []
    | some e =>
      if e.role = .adapter || (View.plan v).versioned.contains tid || (e.role = .store && !View.storeLive v e off) then []
      else ((View.tenant v).elemWrites e.win e.woff.toNat ((Fmt.ofCode e.fmt).getD .u8) off 0).map fun w => wordOf w.addr

/-- The codewords of a descriptor's elements at some positions of its view, and of their scales. -/
def View.viewWords (v : View) (d : Desc) (ps : List (Nat × Nat)) : List PAddr :=
  ps.flatMap fun x => v.elemWords (Desc.tid d) (Desc.offset d x.1 x.2) ++
    (if Desc.scaled d then v.elemWords (Desc.stid d) (Desc.scaleOffset d x.1 x.2) else [])

/-- The codewords of a descriptor's whole view. -/
def View.allWords (v : View) (d : Desc) : List PAddr := v.viewWords d (region 0 0 (Desc.rows d) (Desc.cols d))

/-- The codewords that a slot operation reads from tenant memory (R38, R46, R47, R92, R121). -/
def View.slotWords (v : View) (i : Instr) : List PAddr :=
  match i with
  | .pld _ o => v.allWords (v.desc o.tda)
  | .mm _ o => v.allWords (v.desc o.tdb)
  | .ewm _ o => v.allWords (v.desc o.tdb) ++ v.allWords (v.desc o.tde)
  | .drn _ o => if o.epi = 0 then [] else v.allWords (v.desc o.tde)
  | .ldv _ o => v.viewWords (v.desc o.td) (region (v.rowO o) (v.colO o) o.rows.toNat o.cols.toNat)
  | .gath _ o =>
    v.viewWords (v.desc o.td) ((List.range o.rows.toNat).flatMap fun i => match v.rowIndex o (v.desc o.td) i with
      | some r => region r (v.colO o) 1 o.cols.toNat
      | none => [])
  | .copy _ o | .coll _ o => v.allWords (v.desc o.td)
  | .vopt _ o => match v.optrec (v.desc o.td) with
    | some rt => (List.range 11).flatMap fun i => v.elemWords rt i
    | none => []
  | _ => []

/-- The first uncorrectable codeword that a slot reads: its data are delivered to no consumer (R240). -/
def View.badRead (v : View) (i : Instr) : Option PAddr :=
  if v.mem.sound then none else (v.slotWords i).find? fun k => v.mem.bad k

/-- The codewords that a slot reads and the decoder corrects (R243). -/
def View.correctedReads (v : View) (i : Instr) : List PAddr :=
  if v.mem.sound then [] else ((v.slotWords i).eraseDups).filter fun k => isCorrected (v.mem.flaw k)

/-! ### Interruptions and tenant faults from detectors (R240, R384, R388) -/

/-- An interruption begins: issue has stopped (R381, R384). One already in progress keeps its T_DET. -/
def Running.interrupt (r : Running) (now : Stamp) (det : Byte) (unit : W32) (ue : Option UeRead) : Running :=
  { r with
    intr := some
      { tDet := (r.intr.map Interrupt.tDet).getD now, det := det, unit := unit, bidx := BitVec.ofNat 32 r.ctx.pc
        ue := if ue.isSome then ue else r.intr.bind Interrupt.ue } }

/-- A tenant fault of a partition's plan from a detector (R388). -/
def State.detFault (s : State) (p : Fin 4) (status : W16) (det : Byte) (unit : W32) (sound : Bool) : State :=
  match s.chip.run p with
  | none => s
  | some r =>
    s.tenantFault p
      { status := status, det := det, unit := unit, bidx := BitVec.ofNat 32 r.ctx.pc, slot := 0xFF
        cause := det.setWidth 64, tDet := s.chip.drone.now } sound

/-! ### Uncorrectable data (R240, R241, R243, R247) -/

/-- An address that its tier has not: none where it lies in the tier. -/
def absentAt (w : MemAt) : Option (Tier × Nat) :=
  match w with
  | .sp _ off => if off.toNat < 2 ^ 25 then none else some (.sp, off.toNat)
  | .t1 a => if a.toNat < tier1Bytes then none else some (.t1, a.toNat)
  | .t2 a => if a.toNat < tier2Bytes then none else some (.t2, a.toNat)

/-- The codeword of a place in a memory tier; scratchpad is in neither. -/
def wordAt (w : MemAt) : Option PAddr :=
  match w with
  | .sp _ _ => none
  | .t1 a => some (wordOf (true, a.toNat))
  | .t2 a => some (wordOf (false, a.toNat))

/-- LAST_UE's tier, unit and offset, and the source ID of the unit. -/
def Chip.ueAt (c : Chip) (w : MemAt) : Nat × Nat × Nat × W32 :=
  match w with
  | .sp t off => (0, t.val, off.toNat, c.tileSrc t.val)
  | .t1 a => (1, (c.t1Place a.toNat).1, (c.t1Place a.toNat).2, c.memSrc true a.toNat)
  | .t2 a => (2, (t2Place a.toNat).1, (t2Place a.toNat).2, c.memSrc false a.toNat)

/-- The counters of an uncorrectable read by a plan (R247). -/
def Chip.countUe (c : Chip) (tier : Nat) : Chip :=
  let m := c.memObj
  { c with
    memObj := match tier with
      | 0 => { m with ueSp := m.ueSp + 1 }
      | 1 => { m with ueT1 := m.ueT1 + 1 }
      | _ => { m with ueT2 := m.ueT2 + 1 }
    mram := { c.mram with ueLifetime := c.mram.ueLifetime + 1 } }

/-- Data whose commit copy lies in the commit set: tile state, and what the plan has overwritten since the point from which
it would replay (R241). -/
def Running.inSet (r : Running) (w : MemAt) : Bool :=
  match wordAt w with
  | none => true
  | some k => r.copied k

/-- The plan ends with 0x0030 (R240, R388): `sound`: its commit set can be restored. -/
def State.ueFault (s : State) (p : Fin 4) (unit : W32) (sound : Bool) : State :=
  (s.on fun c => { c with memObj := { c.memObj with lastUeOutcome := 0x0030 } }).detFault p 0x0030 0x10 unit sound

/-- A plan's uncorrectable read (R240, R243, R385): the partition is interrupted and replays, unless its alternates are still
being rebound, or a replay has read data again whose commit copy is the region itself. `lost`: the copy in the commit set
is uncorrectable too. -/
def State.dataFault (s : State) (p : Fin 4) (r : Running) (w : MemAt) (lost : Bool) : State :=
  let (tier, unit, off, src) := s.chip.ueAt w
  let inSet := r.inSet w
  let keep := s.chip.memObj.lastUeOutcome
  let s := s.on fun c => ((c.raise 1).countUe tier).lastUe tier unit off keep
  if !r.altsReady || (r.replayTo.isSome && !inSet) then s.ueFault p src !(inSet && lost)
  else s.on fun c => c.setRun p (some (r.interrupt c.drone.now 0x10 src (some ⟨tier, unit, off, inSet, inSet && lost⟩)))

/-- The place of a codeword. -/
def placeOf (k : PAddr) : MemAt := if k.1 then .t1 (BitVec.ofNat 48 (32 * k.2)) else .t2 (BitVec.ofNat 48 (32 * k.2))

/-- A plan reads a codeword that is uncorrectable at rest; its second copy, if it has one, is sound. -/
def State.readsBad (s : State) (p : Fin 4) (r : Running) (k : PAddr) : State := s.dataFault p r (placeOf k) false

end Sys2Proof.Machine
end

