-- ==== Sys2Proof/Machine/Bundle.lean ====
section
/-! DEFINITION. Issue and retirement of a bundle (R22, R24, R40, R51), and the course of a collective and of
a prologue's receives as their hops arrive (R275, R279-R289). -/

namespace Sys2Proof.Machine

/-! ### Faults of a program -/

/-- A tenant fault that a slot of the running bundle causes (R388, R395). -/
def State.slotFault (s : State) (p : Fin 4) (r : Running) (status : W16) (slot : Nat) (cause : W64) : State :=
  s.tenantFault p
    { status := status, det := 0x20, unit := s.chip.hubSrc 0, bidx := BitVec.ofNat 32 r.ctx.pc
      slot := BitVec.ofNat 8 slot, cause := cause, tDet := s.chip.drone.now } true

/-- What a failing slot brings about: the bundle writes nothing. -/
def State.slotFails (s : State) (p : Fin 4) (r : Running) (slot : Nat) (e : SlotFail) : State :=
  match e with
  | .acc | .mismatch => s.slotFault p r 0x0020 slot 0
  | .plane => s.slotFault p r 0x0021 slot 0
  | .reject reason => s.failPlan p r (r.liveStep.toNat + 1) r.ctx.pc (BitVec.ofNat 8 slot) reason .empty
  | .fault st cause => s.slotFault p r st slot (cause.setWidth 64)

/-! ### Retirement -/

/-- The tile that records a trace of a running plan (R255): one of its binding's, which one the placer leaves open
(FREE VALUE, notes/assumptions/79.md). -/
def Running.recTile (r : Running) : Nat :=
  let ts := r.plan.binding.tiles
  ((ts[Config.recTile r.plan.id % ts.length]?).map Fin.val).getD 0

/-- An effect of a bundle on the tenant's rings (R52, R304, R416). A trace record bears its tile's source ID and the
stamp of its bundle's issue (R255, R257). -/
def Chip.effect (c : Chip) (r : Running) (e : Effect) : Chip :=
  let f := Fn.vf r.plan.tenant
  match e with
  | .log code level a0 a1 a2 a3 =>
    c.log f { c.entry (c.ringSrc f 10) with
      code := code, level := level, plan := r.plan.id, step := r.step, arg0 := a0, arg1 := a1, arg2 := a2, arg3 := a3 }
  | .trace code bundle stamp =>
    c.log f { c.entry (c.tileSrc r.recTile) with
      stamp := stamp, code := code, level := 6, plan := r.plan.id, step := r.step, arg0 := BitVec.ofNat 64 bundle }
  | .ev code => c.event f { c.entry (c.ringSrc f 9) with code := code, plan := r.plan.id, step := r.step }
  | .token _ => c

/-- The tokens among a bundle's effects, in order. -/
def tokensOf (es : List Effect) : List ResEntry :=
  es.filterMap fun e => match e with
    | .token t => some t
    | _ => none

/-- A bundle's writes to what its program works on of its tenant. -/
def Past.retire (t : Past) (b : Build) : Past :=
  { t with
    scale := b.scale.foldl (fun x w => x.set w.1 w.2) t.scale
    slots := b.slots.foldl (fun l x => if (alGet l x.1).isSome then alPut l x.1 x.2 else l) t.slots
    layers := b.mon.foldl addDelta t.layers }

/-- The tenant after a bundle; the replay of a step that has ended leaves it as it stands. -/
def Tenant.retire (t : Tenant) (r : Running) (b : Build) : Tenant :=
  match r.past with
  | none => t.over (t.pastOf.retire b)
  | some _ => t

/-- The packets of the last wavefront of a pass over the die edges of its regions (R63, R66, R91). -/
def Running.edgeOf (r : Running) (p : PassOut) (now : Stamp) : List EdgePkt :=
  let a := (p.k + 511) / 512
  (r.plan.binding.regionsOf ⟨r.ctx.pc, a, (p.n + 511) / 512⟩).flatMap fun x =>
    let cs := r.plan.binding.cols.take x.b
    let hdr : PktHdr :=
      { stamp := now, tid := p.tid, offset := 0, tenant := BitVec.ofNat 4 r.plan.tenant.val, wepoch := r.stepEpoch
        nepoch := r.plan.image.nepoch, plan := r.plan.id, step := r.step, last := true, switch := false
        nonfinite := false, replay := r.replayTo.isSome, latency := false, mixedOk := false }
    (if (cs.any fun c => decide (c.col < 4)) && cs.any fun c => decide (4 ≤ c.col) then
      p.offs.mapIdx fun j o => ⟨x.sub, true, j, { hdr with offset := o }⟩ else []) ++
    (if 4 < a then
      (List.range x.b).map fun j =>
        let c := x.sub * r.plan.binding.cols.length + j
        let name := Config.partialName r.plan.id r.ctx.pc c
        ⟨x.sub, false, j, { hdr with tid := name.1, offset := name.2, nonfinite := p.bad.getD c false }⟩ else [])

/-- The tiles that stage the blocks of a plane for their load chains (R67, R78). -/
def Running.blocksOf (r : Running) (p : Plane) : List StagedBlk :=
  (List.range ((p.k + 511) / 512)).flatMap fun i => (List.range ((p.n + 511) / 512)).filterMap fun j =>
    (r.plan.binding.tileOf (8 * i + j)).map fun x => ⟨i, j, x.2⟩

/-- The array's links and load chains after a bundle (R66-R68). -/
def Running.array (r : Running) (b : Build) (now : Stamp) : Running :=
  let r := match b.load with
    | some p => { r with chain := p, staged := r.blocksOf p }
    | none => r
  match b.pass with
  | some p =>
    { r with
      edge := r.edgeOf p now
      edgeSent := r.edge.map fun x => { x with pkt := { x.pkt with switch := p.token } } }
  | none => r

/-- The running plan after a bundle. -/
def Running.retire (r : Running) (b : Build) (ctx : Ctx) (undo : List (PAddr × Byte)) (now : Stamp) : Running :=
  { (r.array b now).keepUndo undo with
    ctx := ctx, build := none, counts := b.counts, atBoundary := false, done := r.done + 1, past := r.past.map fun x => x.retire b
    toks := r.toks ++ (tokensOf b.effects).map fun e => { e with stamp := now } }

/-- The bundle asks for a step boundary. -/
def Build.bound (b : Build) : Bool :=
  match b.boundary with
  | .none => false
  | _ => true

/-- A bundle retires: its writes take effect together (R22); a boundary may not find an accumulator in use
(R40), and control may not run past the program (R51). -/
def State.retire (s : State) (p : Fin 4) (r : Running) (b : Build) : State :=
  let last := b.boundary.ends r.step
  let ctx := b.ctx.advance b.flow
  if b.bound && !b.ctx.boundaryOk then s.slotFault p r 0x0020 5 0
  else if !last && decide (r.plan.image.bundles.length ≤ ctx.pc) then
    s.failPlan p r (r.liveStep.toNat + 1) r.ctx.pc 5 4 .empty
  else match s.mem.stuck b.mem with
  | some w => s.readsBad p r (wordOf w.addr)
  | none =>
    let undo := undoOf s.mem b.mem
    let merged := s.mem.merged b.mem
    let s := { s with mem := s.mem.applyAll b.mem }
    let s := s.on fun c =>
      let c := (c.countCes merged).setRun p (some (r.retire b ctx undo c.drone.now))
      let c := c.modTenant r.plan.tenant fun t => t.retire r b
      let c := b.sqns.foldl (fun c g => c.modGroup g fun y => { y with sqn := y.sqn + 1 }) c
      (b.effects.foldl (fun c e => c.effect r e) c).replayCheck p
    if b.bound then s.boundary p last
    else if b.cmt then
      match s.chip.run p with
      | some r' => if s.chip.commitDue r' then s.on fun c => c.commit p else s
      | none => s
    else s

/-! ### Issue -/

/-- A partition can issue: its plan runs a step, and nothing holds or interrupts it. -/
def Chip.canIssue (c : Chip) (r : Running) : Bool :=
  decide (c.power = .running) && !r.inPrologue && r.holds.isEmpty && r.coll.isNone && r.intr.isNone

/-- The running plan of a slot's partition and the build that the slot joins, when it can issue: slots of a
bundle issue in the fixed order (R22; DESIGN CHOICE, notes/assumptions/30.md). Bundles of NOPs only that stand before
it have been executed by then. -/
def State.slotOpen (s : State) (sl : Slot) (pos : SlotPos) : Option (Running × Build) :=
  match s.chip.run sl.part with
  | none => none
  | some r =>
    if s.chip.canIssue r then
      match r.build with
      | none =>
        let r := { r with ctx := r.ctx.skipNops r.plan.image.bundles stepFuel }
        some (r, Build.start r.ctx r.counts)
      | some b => if b.pos < pos.num then some (r, b) else none
    else none

/-! ### A collective in progress -/

/-- A collective of a group as its rank sees it now. -/
def CollRun.view (k : CollRun) (v : View) (g : Group) : CollView :=
  let d := v.desc k.td
  { cfn := k.cfn, d := d, fmt := (Desc.fmt d).getD .fp32, g := g.g, rank := g.rank
    own := (region 0 0 (Desc.rows d) (Desc.cols d)).zip k.own
    rx := g.rx.filter fun x => decide (x.sqn = k.sqn) && decide (x.kind.toNat ≤ 4)
    mixedOk := k.mixedOk, nepoch := v.plan.image.nepoch }

/-- The frames of one hop (R273, R285). -/
def hopOf (v : View) (k : CollRun) (x : CollView) (rank : Nat) (o : HopOut) : List DataFrame :=
  let elemAt := fun i => match x.own[o.first + i]? with
    | some y => Desc.offset x.d y.1.1 y.1.2
    | none => 0
  hopFrames
    { hdr := ⟨0, false, false, false, false, 0, 0⟩, psn := 0, fcsOk := true, hchk := 0, stream := []
      pkt := { stamp := 0, tid := Desc.tid x.d, offset := 0, tenant := BitVec.ofNat 4 v.ten.val
               wepoch := v.run.stepEpoch, nepoch := x.nepoch, plan := v.plan.id, step := v.run.step, last := false
               switch := false, nonfinite := x.nonfinite, replay := false, latency := false, mixedOk := x.mixedOk }
      grp := k.grp, srank := BitVec.ofNat 16 rank, sqn := k.sqn, kind := BitVec.ofNat 8 k.cfn.val, phase := o.phase
      hop := BitVec.ofNat 16 o.hop, pfmt := (o.pfmt.code).setWidth 8, mismatch := x.mismatch, elems := [] }
    o.pfmt o.elems elemAt

/-- The hops that a rank can send and has not sent (R282). -/
def freshOuts (g : Group) (sqn : W32) (x : CollView) : List HopOut :=
  x.outs.filter fun o => !(g.retained.any fun y =>
    decide (y.hop.sqn = sqn) && decide (y.hop.phase = o.phase) && decide (y.hop.hop.toNat = o.hop) &&
    decide (y.frame.kind.toNat ≤ 4))

/-- A hop sent on the group's NEXT ports and retained (R282, R289). -/
def Chip.sendOut (c : Chip) (g : Group) (k : CollRun) (o : HopOut) (fs : List DataFrame) : Chip :=
  (c.sendHop (maskPorts g.next) o.hop fs).modGroup g.grp fun y =>
    { y with retained := y.retained ++ fs.map fun f =>
      ⟨⟨k.grp, k.sqn, o.phase, BitVec.ofNat 16 o.hop⟩, BitVec.ofNat 16 ((g.rank + 1) % g.g), f⟩ }

/-- A collective of a partition ends on every participant with a tenant fault (R281, R286). -/
def State.collFails (s : State) (p : Fin 4) (g : Group) (skip : List (Fin 16)) (status : W16) : State :=
  let s := s.on fun c =>
    let c := (c.endGroup g skip status status).dropWaiting g.grp
    if status = 0x0042 then { c with bore := { c.bore with mismatch := c.bore.mismatch + 1 } } else c
  match s.chip.run p with
  | none => s
  | some r => s.slotFault p r status 4 (status.setWidth 64)

/-- A collective goes as far as its hops allow: hops are sent, and once all have come TD, PD and the status
are written (R282-R286). -/
def State.collStep (s : State) (p : Fin 4) : State :=
  match s.chip.run p with
  | none => s
  | some r =>
    match r.coll, r.build with
    | some k, some b =>
      match s.chip.group k.grp with
      | none => s
      | some g =>
        let v := s.view p r
        let x := k.view v g
        let s := s.on fun c => (freshOuts g k.sqn x).foldl (fun c o => c.sendOut g k o (hopOf v k x g.rank o)) c
        if x.done then
          if x.mismatch && (decide (k.cfn = 0) || decide (k.cfn = 2)) then s.collFails p g [] 0x0042
          else
            let sl : Slot := { part := p, pneg := false, pred := 0, more := false, imm0 := 0, imm1 := 0 }
            let b := b.collDone v sl k.pd x
            s.retire p { r with coll := none } { b with coll := none, sqns := b.sqns ++ [k.grp] }
        else s
    | _, _ => s

/-! ### Frames taken from the ports (R275, R281, R288) -/

/-- The hop of a frame among those received. -/
def sameHop (f : DataFrame) (x : RxHop) : Bool :=
  decide (x.srank = f.srank) && decide (x.sqn = f.sqn) && decide (x.kind = f.kind) && decide (x.phase = f.phase) &&
  decide (x.hop = f.hop)

/-- A frame's elements added to its hop. -/
def addRx (rx : List RxHop) (f : DataFrame) : List RxHop :=
  if rx.any (sameHop f) then
    rx.map fun x => if sameHop f x then
      { x with
        nonfinite := x.nonfinite || f.pkt.nonfinite, mismatch := x.mismatch || f.mismatch
        elems := x.elems ++ f.elems } else x
  else
    rx ++ [{ srank := f.srank, sqn := f.sqn, kind := f.kind, phase := f.phase, hop := f.hop, pfmt := f.pfmt
             nepoch := f.pkt.nepoch, mixedOk := f.pkt.mixedOk, nonfinite := f.pkt.nonfinite, mismatch := f.mismatch
             elems := f.elems }]

/-- The elements held of a frame's hop. -/
def heldOf (rx : List RxHop) (f : DataFrame) : Nat := ((rx.find? (sameHop f)).map fun x => x.elems.length).getD 0

/-- The head of a port's queue is taken. -/
def Chip.dropHead (c : Chip) (q : Fin 16) : Chip := c.modPort q fun x => { x with waiting := x.waiting.drop 1 }

/-- The partition whose collective is one of a group's. -/
def Chip.collPart (c : Chip) (grp : BitVec 12) : Option (Fin 4) :=
  allParts.find? fun p => match c.run p with
    | some r => match r.coll with
      | some k => decide (k.grp = grp)
      | none => false
    | none => false

/-- A sequence number after another, modulo 2^32. -/
def laterSqn (a b : W32) : Bool := decide (1 ≤ (a - b).toNat) && decide ((a - b).toNat < 2 ^ 31)

/-- A frame of a collective in progress: taken, waited for, or the end of the collective (R275, R281). -/
def State.takeColl (s : State) (p : Fin 4) (q : Fin 16) (g : Group) (f : DataFrame) : Option State :=
  match s.chip.run p with
  | none => none
  | some r =>
    match r.coll with
    | none => none
    | some k =>
      let x := k.view (s.view p r) g
      let len := x.hopLen f.phase f.hop.toNat
      if (g.rx.any fun y => sameHop f y && decide (y.sqn ≠ k.sqn)) then some (s.on fun c => c.dropHead q)
      else if laterSqn f.sqn k.sqn ∧ 1 < (maskPorts g.prev).length then none
      else if f.sqn ≠ k.sqn ∨ f.kind.toNat ≠ k.cfn.val then
        some ((s.on fun c => c.dropHead q).collFails p g [] 0x0043)
      else if g.rx.any (sameHop f) && decide (heldOf g.rx f = len) then some (s.on fun c => c.dropHead q)
      else
        let n := heldOf g.rx f + f.elems.length
        if len < n ∨ (f.pkt.last ∧ n < len) then some ((s.on fun c => c.dropHead q).collFails p g [] 0x0043)
        else
          let s := s.on fun c =>
            ((c.dropHead q).modGroup g.grp fun y => { y with rx := addRx y.rx f }).setRun p
              (some { r with coll := some { k with since := c.drone.now } })
          some (s.collStep p)

/-- The KIND 2 entry that a frame of a transfer fills, if a prologue of the group's tenant has it. -/
def recvEntry (p : Plan) (f : DataFrame) : Option TurnEnt :=
  ((p.turnMap.zipIdx).find? fun x =>
    decide (x.1.kind = 2) && decide (x.1.grp = f.grp) && decide (x.1.rank = f.srank) &&
    decide (transferIdx p.turnMap x.2 x.1 = f.sqn.toNat)).map Prod.fst

/-- A frame of a turn-map transfer (R288). -/
def State.takeTransfer (s : State) (q : Fin 16) (g : Group) (f : DataFrame) : Option State :=
  match allParts.find? fun p => match s.chip.run p with
    | some r => decide (r.plan.tenant = g.ten) && r.inPrologue && (recvEntry r.plan f).isSome
    | none => false with
  | none => none
  | some p =>
    match s.chip.run p with
    | none => none
    | some r =>
      match recvEntry r.plan f with
      | none => none
      | some e =>
        let len := e.count.toNat
        let fmt := (r.plan.image.tensor e.dtid).map TensorEnt.fmt
        if g.rx.any (sameHop f) && decide (heldOf g.rx f = len) then some (s.on fun c => c.dropHead q)
        else
          let n := heldOf g.rx f + f.elems.length
          if len < n ∨ (f.pkt.last ∧ n < len) ∨ (!e.convert ∧ fmt ≠ some (f.pfmt.setWidth 4)) then
            some ((s.on fun c => c.dropHead q).collFails p g [] 0x0043)
          else some (s.on fun c => (c.dropHead q).modGroup g.grp fun y => { y with rx := addRx y.rx f, moved := c.drone.now })

/-- Stream bytes that DATA frames have brought for the fetch at the front (R288). -/
def Tenant.takeStream (t : Tenant) (bs : List Byte) : Tenant :=
  match t.fetches with
  | f :: fs => { t with fetches := { f with stream := f.stream ++ bs } :: fs }
  | [] => t

/-- The plans of a tenant that run, the lowest partition first. -/
def Chip.runsOf (c : Chip) (t : Fin 16) : List Running :=
  allParts.filterMap fun p => match c.run p with
    | some r => if r.plan.tenant = t then some r else none
    | none => none

/-- A tenant's fetches can move data: it runs no plan, or a plan whose submit gives them a share (R204). -/
def Chip.fetchMoves (c : Chip) (t : Fin 16) : Bool :=
  (c.runsOf t).isEmpty || (c.runsOf t).any fun r => decide (r.plan.sub.fshare ≠ 0)

/-- The head of a port's queue, if what it belongs to has begun (R275). -/
def State.takeHead (s : State) (q : Fin 16) : Option State :=
  match s.chip.ports[q].waiting with
  | [] => none
  | f :: _ =>
    match s.chip.group f.grp with
    | none => some (s.on fun c => c.dropHead q)
    | some g =>
      if g.dead then some (s.on fun c => c.dropHead q)
      else if f.kind = 0x11 then
        match s.chip.tenants[g.ten].fetches with
        | [] => none
        | x :: _ => if x.grp = f.grp ∧ x.rank = f.srank then
            if s.chip.fetchMoves g.ten then
              some (s.on fun c => ((c.dropHead q).modTenant g.ten fun y => y.takeStream f.stream).touch g.grp)
            else none
          else none
      else if f.kind = 0x10 then s.takeTransfer q g f
      else match s.chip.collPart f.grp with
        | some p => s.takeColl p q g f
        | none => none

/-- The first port whose head can be taken, taken. -/
def State.takeAny (s : State) : List (Fin 16) → Option State
  | [] => none
  | q :: qs => match s.takeHead q with
    | some s' => some s'
    | none => s.takeAny qs

/-- Waiting frames taken as far as possible. -/
def State.consume : Nat → State → State
  | 0, s => s
  | n + 1, s => match s.takeAny allPorts with
    | some s' => State.consume n s'
    | none => s

/-- Every waiting frame that can be taken: 16 ports hold at most 64 each (R272). -/
def State.consumeAll (s : State) : State := s.consume 1024

/-! ### The end of a bundle -/

/-- A neighbour's frames carry HOST_ABSENT (R278). -/
def Chip.neighbourAbsent (c : Chip) (g : Group) : Bool := (maskPorts (g.next ||| g.prev)).any fun q => c.ports[q].peerAbsent

/-- A collective of several ranks begins (R281, R282), once every slot of its bundle has issued. -/
def State.beginColl (s : State) (p : Fin 4) (q : CollReq) (g : Group) (r : Running) (b : Build) : State :=
  let v := s.view p r
  let d := v.desc q.td
  let k : CollRun :=
    { grp := q.grp, sqn := g.sqn, cfn := q.cfn, td := q.td, pd := q.pd
      since := s.chip.drone.now, mixedOk := s.chip.bore.mixedOk.getLsbD v.ten.val
      own := (region 0 0 (Desc.rows d) (Desc.cols d)).map fun x => v.bits (Desc.tid d) (Desc.offset d x.1 x.2) }
  let s := s.on fun c => c.setRun p (some { r with build := some b, coll := some k, atBoundary := false })
  (s.collStep p).consumeAll

/-- A bundle whose slots have all issued (R22): a boundary that would find an accumulator in use is the bundle's
alias before anything is done (R40); then its collective runs, if it holds one of several ranks, or it retires. -/
def State.finishBundle (s : State) (p : Fin 4) (r : Running) (b : Build) : State :=
  if b.bound && !b.ctx.boundaryOk then s.slotFault p r 0x0020 5 0
  else match b.coll with
    | none => s.retire p r b
    | some q =>
      match s.chip.group q.grp with
      | none => s.slotFault p r 0x0040 4 0x0040
      | some g =>
        if g.dead then s.slotFault p r 0x0040 4 0x0040
        else if s.chip.neighbourAbsent g then
          let s := s.on fun c =>
            let c := (c.endGroup g [] 0x0040 0x0041).dropWaiting g.grp
            c.countLost ((maskPorts (g.next ||| g.prev)).find? fun q => c.ports[q].peerAbsent) 0x0041
          s.slotFault p r 0x0040 4 0x0041
        else s.beginColl p q g r b

/-- The bundle with a slot done: kept for its later slots, or finished. -/
def State.slotDone (s : State) (p : Fin 4) (r : Running) (more : Bool) (b : Build) : State :=
  if more then s.on fun c => c.setRun p (some { r with build := some b, atBoundary := false })
  else s.finishBundle p r b

/-! ### Issue of a slot -/

/-- What a VOPT with a false predicate leaves in the monitor (R166). -/
def skippedMark (v : View) (i : Instr) (b : Build) : Build :=
  match i with
  | .vopt _ _ => voptSkip v b
  | _ => b

/-- A slot operation issues (R22-R24, R28, R40, R41): `body` does what it does under a true predicate. A slot that reads
an uncorrectable codeword delivers nothing (R240). -/
def State.issue (s : State) (i : Instr) (sl : Slot) (pos : SlotPos)
    (body : View → Build → Except SlotFail Build) : State :=
  match s.slotOpen sl pos with
  | none => s
  | some (r, b0) =>
    let v := s.view sl.part r
    let b := { slotPlanned v i b0 with pos := pos.num }
    if anyPred i || (v.ctx.predOf sl).val then
      match slotCheck v i with
      | some reason => s.slotFails sl.part r pos.num (.reject reason)
      | none =>
        match v.badRead i with
        | some k => s.readsBad sl.part r k
        | none =>
          match body v b with
          | .error e => s.slotFails sl.part r pos.num e
          | .ok b => (s.on fun c => c.countCes (v.correctedReads i)).slotDone sl.part r sl.more b
    else s.slotDone sl.part r sl.more (skippedMark v i b)

/-! ### ST.COLL -/

/-- ST.COLL (R47, R168, R279, R281): over a group of one at once; over several ranks once the bundle's slots have
issued; over a group that cannot be used, a fault. -/
def collBody (c : Chip) (v : View) (sl : Slot) (o : MvOps) (b : Build) : Except SlotFail Build :=
  match c.group o.grp, Desc.fmt (v.desc o.td) with
  | some g, some f =>
    if g.ten ≠ v.ten ∨ g.dead then .error (.fault 0x0040 0x0040)
    else if 1 < g.g then .ok { b with coll := some { grp := o.grp, cfn := o.cfn, td := o.td, pd := o.pd } }
    else .ok { soloBody v sl o b f with sqns := b.sqns ++ [o.grp] }
  | _, _ => .error (.fault 0x0040 0x0040)

/-- ST.COLL issues (R47, R278, R281-R286). -/
def State.issueColl (s : State) (sl : Slot) (o : MvOps) : State :=
  s.issue (.coll sl o) sl .st fun v b => collBody s.chip v sl o b

end Sys2Proof.Machine
end

