-- ==== Sys2Proof/Machine/Slots.lean ====
section
/-! DEFINITION. The slot commands (R38, R43, R46, R47, R50, R52): each issues its operation into its bundle;
the checks and effects stand with the slot's family. -/

namespace Sys2Proof.Machine

/-! ### MX slot -/

/-- MX.PLD (R38, R41). -/
def execPld (sl : Slot) (o : MxOps) (s : State) : Host.Outcome State Fault Refusal :=
  .next (s.issue (.pld sl o) sl .mx fun v b => pldBody v sl o b)

/-- MX.MM (R38-R40, R86-R90). -/
def execMm (sl : Slot) (o : MxOps) (s : State) : Host.Outcome State Fault Refusal :=
  .next (s.issue (.mm sl o) sl .mx fun v b => mmBody v sl o b)

/-- MX.EWM (R38, R92). -/
def execEwm (sl : Slot) (o : MxOps) (s : State) : Host.Outcome State Fault Refusal :=
  .next (s.issue (.ewm sl o) sl .mx fun v b => ewmBody v sl o b)

/-- MX.DRN (R38-R40, R92, R93, R119). -/
def execDrn (sl : Slot) (o : MxOps) (s : State) : Host.Outcome State Fault Refusal :=
  .next (s.issue (.drn sl o) sl .mx fun v b => drnBody v sl o b)

/-- MX.REL (R38, R40). -/
def execRel (sl : Slot) (o : MxOps) (s : State) : Host.Outcome State Fault Refusal :=
  .next (s.issue (.rel sl o) sl .mx fun v b => relBody v sl o b)

/-! ### VA and VB slots -/

/-- The place of a vector slot (R22). -/
def vPos (o : VOps) : SlotPos := if o.vb then .vb else .va

/-- VADD (R43, R113). -/
def execVadd (sl : Slot) (o : VOps) (s : State) : Host.Outcome State Fault Refusal :=
  .next (s.issue (.vadd sl o) sl (vPos o) fun v b => vaddBody v sl o b)

/-- VSUB (R43, R113). -/
def execVsub (sl : Slot) (o : VOps) (s : State) : Host.Outcome State Fault Refusal :=
  .next (s.issue (.vsub sl o) sl (vPos o) fun v b => vsubBody v sl o b)

/-- VMUL (R43, R113). -/
def execVmul (sl : Slot) (o : VOps) (s : State) : Host.Outcome State Fault Refusal :=
  .next (s.issue (.vmul sl o) sl (vPos o) fun v b => vmulBody v sl o b)

/-- VFMA (R43, R113). -/
def execVfma (sl : Slot) (o : VOps) (s : State) : Host.Outcome State Fault Refusal :=
  .next (s.issue (.vfma sl o) sl (vPos o) fun v b => vfmaBody v sl o b)

/-- VMAX (R43, R113). -/
def execVmax (sl : Slot) (o : VOps) (s : State) : Host.Outcome State Fault Refusal :=
  .next (s.issue (.vmax sl o) sl (vPos o) fun v b => vmaxBody v sl o b)

/-- VMIN (R43, R113). -/
def execVmin (sl : Slot) (o : VOps) (s : State) : Host.Outcome State Fault Refusal :=
  .next (s.issue (.vmin sl o) sl (vPos o) fun v b => vminBody v sl o b)

/-- VSCL (R43). -/
def execVscl (sl : Slot) (o : VOps) (s : State) : Host.Outcome State Fault Refusal :=
  .next (s.issue (.vscl sl o) sl (vPos o) fun v b => vsclBody v sl o b)

/-- VFN (R43, R114). -/
def execVfn (sl : Slot) (o : VOps) (s : State) : Host.Outcome State Fault Refusal :=
  .next (s.issue (.vfn sl o) sl (vPos o) fun v b => vfnBody v sl o b)

/-- VRED (R43, R115). -/
def execVred (sl : Slot) (o : VOps) (s : State) : Host.Outcome State Fault Refusal :=
  .next (s.issue (.vred sl o) sl (vPos o) fun v b => vredBody v sl o b)

/-- VCMP (R43). -/
def execVcmp (sl : Slot) (o : VOps) (s : State) : Host.Outcome State Fault Refusal :=
  .next (s.issue (.vcmp sl o) sl (vPos o) fun v b => vcmpBody v sl o b)

/-- VSEL (R43). -/
def execVsel (sl : Slot) (o : VOps) (s : State) : Host.Outcome State Fault Refusal :=
  .next (s.issue (.vsel sl o) sl (vPos o) fun v b => vselBody v sl o b)

/-- VCPR (R43, R117). -/
def execVcpr (sl : Slot) (o : VOps) (s : State) : Host.Outcome State Fault Refusal :=
  .next (s.issue (.vcpr sl o) sl (vPos o) fun v b => vcprBody v sl o b)

/-- VXPD (R43, R117). -/
def execVxpd (sl : Slot) (o : VOps) (s : State) : Host.Outcome State Fault Refusal :=
  .next (s.issue (.vxpd sl o) sl (vPos o) fun v b => vxpdBody v sl o b)

/-- VCVT (R43, R95-R102, R116). -/
def execVcvt (sl : Slot) (o : VOps) (s : State) : Host.Outcome State Fault Refusal :=
  .next (s.issue (.vcvt sl o) sl (vPos o) fun v b => vcvtBody v sl o b)

/-- VRND (R43, R131). -/
def execVrnd (sl : Slot) (o : VOps) (s : State) : Host.Outcome State Fault Refusal :=
  .next (s.issue (.vrnd sl o) sl (vPos o) fun v b => vrndBody v sl o b)

/-- VACC (R40, R43, R118). -/
def execVacc (sl : Slot) (o : VOps) (s : State) : Host.Outcome State Fault Refusal :=
  .next (s.issue (.vacc sl o) sl (vPos o) fun v b => vaccBody v sl o b)

/-- VFTQ (R43, R119, R120). -/
def execVftq (sl : Slot) (o : VOps) (s : State) : Host.Outcome State Fault Refusal :=
  .next (s.issue (.vftq sl o) sl (vPos o) fun v b => vftqBody v sl o b)

/-- VSAMP (R43, R135-R143). -/
def execVsamp (sl : Slot) (o : VOps) (s : State) : Host.Outcome State Fault Refusal :=
  .next (s.issue (.vsamp sl o) sl (vPos o) fun v b => vsampBody v sl o b)

/-- VSTOP (R43, R146, R147). -/
def execVstop (sl : Slot) (o : VOps) (s : State) : Host.Outcome State Fault Refusal :=
  .next (s.issue (.vstop sl o) sl (vPos o) fun v b => vstopBody v sl o b)

/-- VOPT (R43, R121-R124). -/
def execVopt (sl : Slot) (o : VOps) (s : State) : Host.Outcome State Fault Refusal :=
  .next (s.issue (.vopt sl o) sl (vPos o) fun v b => voptBody v sl o b)

/-- VGET (R26, R43). -/
def execVget (sl : Slot) (o : VOps) (s : State) : Host.Outcome State Fault Refusal :=
  .next (s.issue (.vget sl o) sl (vPos o) fun v b => vgetBody v sl o b)

/-- VTST (R26, R43). -/
def execVtst (sl : Slot) (o : VOps) (s : State) : Host.Outcome State Fault Refusal :=
  .next (s.issue (.vtst sl o) sl (vPos o) fun v b => vtstBody v sl o b)

/-- VPUT (R43). -/
def execVput (sl : Slot) (o : VOps) (s : State) : Host.Outcome State Fault Refusal :=
  .next (s.issue (.vput sl o) sl (vPos o) fun v b => vputBody v sl o b)

/-! ### LD slot -/

/-- LDV (R46, R48). -/
def execLdv (sl : Slot) (o : MvOps) (s : State) : Host.Outcome State Fault Refusal :=
  .next (s.issue (.ldv sl o) sl .ld fun v b => ldvBody v sl o b)

/-- GATH (R46, R48). -/
def execGath (sl : Slot) (o : MvOps) (s : State) : Host.Outcome State Fault Refusal :=
  .next (s.issue (.gath sl o) sl .ld fun v b => gathBody v sl o b)

/-- COPY (R46). -/
def execCopy (sl : Slot) (o : MvOps) (s : State) : Host.Outcome State Fault Refusal :=
  .next (s.issue (.copy sl o) sl .ld fun v b => copyBody v sl o b)

/-! ### ST slot -/

/-- STV (R47, R48). -/
def execStv (sl : Slot) (o : MvOps) (s : State) : Host.Outcome State Fault Refusal :=
  .next (s.issue (.stv sl o) sl .st fun v b => stvBody v sl o b)

/-- SCAT (R47, R48). -/
def execScat (sl : Slot) (o : MvOps) (s : State) : Host.Outcome State Fault Refusal :=
  .next (s.issue (.scat sl o) sl .st fun v b => scatBody v sl o b)

/-- EMIT (R47, R149, R416). -/
def execEmit (sl : Slot) (o : MvOps) (s : State) : Host.Outcome State Fault Refusal :=
  .next (s.issue (.emit sl o) sl .st fun v b => emitBody v sl o b)

/-- ST.COLL (R47, R168, R281-R286). -/
def execColl (sl : Slot) (o : MvOps) (s : State) : Host.Outcome State Fault Refusal := .next (s.issueColl sl o)

/-! ### CF slot -/

/-- SALU (R50, R51). -/
def execSalu (sl : Slot) (o : CfOps) (s : State) : Host.Outcome State Fault Refusal :=
  .next (s.issue (.salu sl o) sl .cf fun v b => saluBody v sl o b)

/-- SCMP (R50). -/
def execScmp (sl : Slot) (o : CfOps) (s : State) : Host.Outcome State Fault Refusal :=
  .next (s.issue (.scmp sl o) sl .cf fun v b => scmpBody v sl o b)

/-- PLOG (R50). -/
def execPlog (sl : Slot) (o : CfOps) (s : State) : Host.Outcome State Fault Refusal :=
  .next (s.issue (.plog sl o) sl .cf fun v b => plogBody v sl o b)

/-- LOOP (R50, R51). -/
def execLoop (sl : Slot) (o : CfOps) (s : State) : Host.Outcome State Fault Refusal :=
  .next (s.issue (.loop sl o) sl .cf fun v b => loopBody v sl o b)

/-- BR (R50, R51). -/
def execBr (sl : Slot) (o : CfOps) (s : State) : Host.Outcome State Fault Refusal :=
  .next (s.issue (.br sl o) sl .cf fun v b => brBody v sl o b)

/-- CALL (R50, R51). -/
def execCall (sl : Slot) (o : CfOps) (s : State) : Host.Outcome State Fault Refusal :=
  .next (s.issue (.call sl o) sl .cf fun v b => callBody v sl o b)

/-- RET (R50, R51). -/
def execRet (sl : Slot) (o : CfOps) (s : State) : Host.Outcome State Fault Refusal :=
  .next (s.issue (.ret sl o) sl .cf fun v b => retBody v sl o b)

/-- STEP (R25, R50). -/
def execStep (sl : Slot) (o : CfOps) (s : State) : Host.Outcome State Fault Refusal :=
  .next (s.issue (.step sl o) sl .cf fun v b => stepBody v sl o b)

/-- END (R25, R50). -/
def execEndp (sl : Slot) (o : CfOps) (s : State) : Host.Outcome State Fault Refusal :=
  .next (s.issue (.endp sl o) sl .cf fun v b => endpBody v sl o b)

/-- TDSET (R50). -/
def execTdset (sl : Slot) (o : CfOps) (s : State) : Host.Outcome State Fault Refusal :=
  .next (s.issue (.tdset sl o) sl .cf fun v b => tdsetBody v sl o b)

/-- PARAM (R50). -/
def execParam (sl : Slot) (o : CfOps) (s : State) : Host.Outcome State Fault Refusal :=
  .next (s.issue (.param sl o) sl .cf fun v b => paramBody v sl o b)

/-! ### SY slot -/

/-- AWAIT (R40, R52). -/
def execAwait (sl : Slot) (o : SyOps) (s : State) : Host.Outcome State Fault Refusal :=
  .next (s.issue (.await sl o) sl .sy fun v b => awaitBody v sl o b)

/-- TRACE (R52, R304). -/
def execTrace (sl : Slot) (o : SyOps) (s : State) : Host.Outcome State Fault Refusal :=
  .next (s.issue (.trace sl o) sl .sy fun v b => traceBody v sl o b)

/-- EVENT (R52). -/
def execEvent (sl : Slot) (o : SyOps) (s : State) : Host.Outcome State Fault Refusal :=
  .next (s.issue (.event sl o) sl .sy fun v b => eventBody v sl o b)

/-- LAYER (R52). -/
def execLayer (sl : Slot) (o : SyOps) (s : State) : Host.Outcome State Fault Refusal :=
  .next (s.issue (.layer sl o) sl .sy fun v b => layerBody v sl o b)

/-- SEED (R52, R134). -/
def execSeed (sl : Slot) (o : SyOps) (s : State) : Host.Outcome State Fault Refusal :=
  .next (s.issue (.seed sl o) sl .sy fun v b => seedBody v sl o b)

/-- CMT (R52, R185, R382). -/
def execCmt (sl : Slot) (o : SyOps) (s : State) : Host.Outcome State Fault Refusal :=
  .next (s.issue (.cmt sl o) sl .sy fun v b => cmtBody v sl o b)

end Sys2Proof.Machine
end

