-- ==== Sys2Proof/Machine/Bind.lean ====
section
/-! DEFINITION. Binding (R53-R57, R171-R183, R197-R200, R215, R226, R301): the submit record, the turn map,
the slot table, the checks in their order, and the plan and report that a successful bind makes. -/

namespace Sys2Proof.Machine

/-! ### The submit record (R301) -/

def SubmitRec.read (b : List Byte) : SubmitRec :=
  { itid := BitVec.ofNat 20 (leAt b 0 4), part := BitVec.ofNat 8 (leAt b 4 1)
    switchAt0 := leAt b 5 1 % 2 = 1, clearMon := leAt b 5 1 / 2 % 2 = 1
    fshare := BitVec.ofNat 8 (leAt b 6 1), mond := BitVec.ofNat 8 (leAt b 7 1)
    ioff := BitVec.ofNat 48 (leAt b 8 8), tmtid := BitVec.ofNat 20 (leAt b 16 4)
    ntm := BitVec.ofNat 32 (leAt b 20 4), brtid := BitVec.ofNat 20 (leAt b 24 4)
    montid := BitVec.ofNat 20 (leAt b 28 4), sttid := BitVec.ofNat 20 (leAt b 32 4)
    storeC := BitVec.ofNat 32 (leAt b 36 4), wepoch := BitVec.ofNat 16 (leAt b 40 2)
    nslot := BitVec.ofNat 16 (leAt b 48 2), admax := BitVec.ofNat 16 (leAt b 50 2)
    pmax := BitVec.ofNat 32 (leAt b 52 4), ctx := BitVec.ofNat 32 (leAt b 56 4)
    ptid := BitVec.ofNat 20 (leAt b 60 4)
    sparam := Vector.ofFn fun i : Fin 16 => BitVec.ofNat 64 (leAt b (64 + 8 * i.val) 8)
    astage := ((List.range 8).map fun i => leAt b (192 + 4 * i) 4).filterMap fun x =>
      if x = 0 then none else some (BitVec.ofNat 16 (x / 65536), BitVec.ofNat 16 x) }

/-- A tensor that a command names, through the running plan's table or as a window tensor (R414). -/
def Chip.cmdRef (c : Chip) (t : Fin 16) (tid : BitVec 20) : Option Ref :=
  (c.tenants[t]).ref ((c.runOf t).map fun r => r.plan.image) tid

/-- `n` bytes that a command names by tensor and element offset; none outside the tenant's windows. -/
def State.cmdBytes (s : State) (t : Fin 16) (tid : BitVec 20) (off n : Nat) : Option (List Byte) :=
  match s.chip.cmdRef t tid with
  | none => none
  | some r => if s.chip.tenants[t].refOk r off n then some (s.chip.tenants[t].bytes s.mem r.win (r.byteAt off) n) else none

/-- The image's bytes as far as its tensor goes (R301). -/
def State.imageBytes (s : State) (t : Fin 16) (sub : SubmitRec) : Option (List Byte) :=
  match s.chip.cmdRef t sub.itid with
  | none => none
  | some r =>
    let off := sub.ioff.toNat
    if off < r.count then
      let held := r.fmt.bytes r.count - off * r.fmt.bits / 8
      let head := s.chip.tenants[t].bytes s.mem r.win (r.byteAt off) (min held 128)
      some (s.chip.tenants[t].bytes s.mem r.win (r.byteAt off) (min held (max 128 (ImageHead.read head).length)))
    else none

/-- The four header fields that are judged before everything else (R54, R56): the running firmware gives the
numerics epochs (R107, R293). -/
def Chip.headOk (c : Chip) (h : ImageHead) : Bool :=
  decide (h.magic = 0x314C5A49) && decide (h.fver = 1) && decide (h.hwgen = c.mram.hwgen) &&
  match c.boot.img with
  | some f => decide (f.nepmin.toNat ≤ h.nepoch.toNat) && decide (h.nepoch.toNat ≤ f.nepmax.toNat)
  | none => false

/-! ### Reports (R176) -/

/-- The report of a submit that fails; `cap`: the cap in force when its binding began. -/
def failReport (status : W16) (e : BindErr) (part : Byte) (cap : W16) : BindReport :=
  { status := status, plan := 0, whereAt := e.whereAt, slot := e.slot, reason := e.reason, part := part, ncol := 0
    bindUs := 0, nalt := 0, nfold := 0, bpt := 0, proNs := 0, step0Ns := 0, stepMaxNs := 0, cmtMaxNs := 0, calNs := 0
    peakW := 0, avgW := 0, capW := cap, kgen := 0, t1Bytes := 0, t2Bytes := 0, cmtBytes := 0, fmax := 0, brecLen := 0 }

/-- A finding without a place. -/
def noErr : BindErr := ⟨0xFFFFFFFF, 0xFF, 0⟩

/-- The completion of a SUBMIT with its report, or of a RESTORE without (R302). -/
def Chip.bindDone (c : Chip) (src : CmdSrc) (r : BindReport) : Chip :=
  c.post src.fn 8 (.comp { stamp := c.drone.now, src := src, status := r.status, plan := r.plan, val0 := 0, val1 := 0
                           report := if src.opc = 0x01 then some r else none, token := none })

/-! ### The queue of bind jobs (R181, R191, R198) -/

/-- A job at the end of the queue; with 32 waiting behind the one being run, none is taken (R181). -/
def Chip.queueJob (c : Chip) (j : BindJob) : Chip :=
  { c with placer := { c.placer with jobs := c.placer.jobs ++ [j] } }.beginJob

def Chip.placerFull (c : Chip) : Bool := decide (33 ≤ c.placer.jobs.length)

/-- A saved context fits an image (R393): the same bundles and descriptors within a hardware generation; on
another one a context saved at a boundary, with the same tensors and descriptors. Every saved copy's window
is the tenant's. -/
def Saved.fits (x : Saved) (t : Tenant) (hwgen : Byte) (img : Image) : Bool :=
  (if x.hwgen = hwgen then decide (x.image.bundles = img.bundles) && decide (x.image.descs = img.descs)
   else x.atBoundary && decide (x.image.tensors.map (fun e => (e.tid, e.fmt, e.count)) = img.tensors.map fun e => (e.tid, e.fmt, e.count)) &&
     decide (x.image.descs.map Desc.declares = img.descs.map Desc.declares)) &&
  x.copies.all fun k => (t.windows[k.win]).tier.isSome

/-- A submit record taken by Chanter: refused, or queued with what the image's header and layout show (R54,
R56, R181, R301). -/
def State.takeSubmit (s : State) (t : Fin 16) (rec : Option (List Byte)) (restore : Option Saved) (src : CmdSrc) : State :=
  if s.chip.placerFull then s.on fun c => c.bindDone src (failReport 0x0002 noErr 0xFF c.limiter.capActive)
  else match rec with
  | none => s.on fun c => c.bindDone src (failReport 0x0022 (wholeErr 2) 0xFF c.limiter.capActive)
  | some b =>
    let sub := SubmitRec.read b
    match s.imageBytes t sub with
    | none => s.on fun c => c.bindDone src (failReport 0x0022 (wholeErr 2) sub.part c.limiter.capActive)
    | some bytes =>
      if !s.chip.headOk (ImageHead.read bytes) then s.on fun c => c.bindDone src (failReport 0x0043 noErr sub.part c.limiter.capActive)
      else
        let job := fun (img : Option Image) (fault : Option W32) =>
          ({ tenant := t, sub := sub, image := img, layoutFault := fault, restore := restore, start := none, src := src } : BindJob)
        match Image.parse s.chip.tenants[t] bytes with
        | .ok img =>
          if restore.all fun x => x.fits s.chip.tenants[t] s.chip.mram.hwgen img then
            s.on fun c => c.queueJob (job (some img) none)
          else s.on fun c => c.bindDone src (failReport 0x0043 noErr sub.part c.limiter.capActive)
        | .error e => s.on fun c => c.queueJob (job none (some e.whereAt))

/-! ### The turn map (R173, R288) -/

/-- An entry of the turn map as it is read; its source is resolved by `resolveSrc`. -/
def TurnEnt.read (b : List Byte) : TurnEnt :=
  { dtid := BitVec.ofNat 20 (leAt b 0 4), stid := BitVec.ofNat 20 (leAt b 4 4), doff := BitVec.ofNat 48 (leAt b 8 8)
    soff := BitVec.ofNat 48 (leAt b 16 8), count := BitVec.ofNat 64 (leAt b 24 8), kind := BitVec.ofNat 8 (leAt b 32 1)
    sten := Fin.ofNat 16 (leAt b 33 1), grp := BitVec.ofNat 12 (leAt b 34 2), rank := BitVec.ofNat 16 (leAt b 36 2)
    convert := leAt b 38 2 % 2 = 1, src := .home 0 0, sfmt := 0 }

/-- A source tensor of a tenant under an image: where its elements lie, format, count, and its window. -/
structure SrcAt where
  src : TurnSrc
  fmt : BitVec 4
  count : Nat
  win : Fin 16

/-- The source named by a tensor ID in a tenant (R198, R211, R414). -/
def Tenant.source (t : Tenant) (img : Option Image) (tid : BitVec 20) : Option SrcAt :=
  match t.ref img tid with
  | none => none
  | some r =>
    match img.bind fun i => i.tensor tid with
    | none => some ⟨.home r.win r.woff, r.fmt.code, r.count, r.win⟩
    | some e =>
      if e.role = .adapter then some ⟨.bank r.win r.count, r.fmt.code, 256 * r.count, r.win⟩
      else if t.versionedTids.contains tid then some ⟨.weights r.win, r.fmt.code, r.count, r.win⟩
      else some ⟨.home r.win r.woff, r.fmt.code, r.count, r.win⟩

/-- The tenant and image in which an entry's source resolves (R414). -/
def Chip.srcScope (c : Chip) (t : Fin 16) (img : Image) (e : TurnEnt) : Tenant × Option Image :=
  if e.kind = 1 then (c.tenants[e.sten], (c.runOf e.sten).map fun r => r.plan.image) else (c.tenants[t], some img)

/-- The elements `[off, off + n)` of a source lie in its tenant's windows. -/
def Tenant.srcOk (t : Tenant) (x : SrcAt) (off n : Nat) : Bool :=
  decide (off + n ≤ x.count) && match x.src with
    | .home w o =>
      match Fmt.ofCode x.fmt with
      | some f => t.inWin w (o + off * f.bits / 8) (f.bytes n)
      | none => false
    | _ => true

/-- What is wrong with an entry (R173, R197, R288), or the entry with its source resolved. The scale state may be a
destination: so the driver sets its initial values at submit (R169; DEDUCED, notes/assumptions/103.md). -/
def Chip.judgeEntry (c : Chip) (t : Fin 16) (img : Image) (nadapt : Nat) (b : List Byte) : Except Byte TurnEnt :=
  let e := TurnEnt.read b
  let n := e.count.toNat
  let ten := c.tenants[t]
  if 3 < e.kind.toNat ∨ n = 0 ∨ 2 ^ 48 ≤ n ∨ (e.kind = 1 ∧ 16 ≤ leAt b 33 1) then .error 2
  else
    let grpOk := if e.kind = 2 ∨ e.kind = 3 then
        match c.group e.grp with
        | some g => decide (g.ten = t) && decide (e.rank.toNat < g.g) && !(g.portsTo e.rank.toNat).isEmpty
        | none => false
      else true
    let dstErr : Option Byte :=
      if e.kind = 3 then none
      else if e.dtid = 0xFFF04 then
        if 16 < e.doff.toNat + n then some 2 else if e.convert then some 5 else none
      else match ten.ref (some img) e.dtid with
        | none => some 2
        | some r =>
          let adapter : Bool := match img.tensor e.dtid with
            | some x => decide (x.role = .adapter)
            | none => false
          let total := if adapter then r.count * nadapt else r.count
          if total < e.doff.toNat + n then some 2
          else if e.convert then
            match img.convDesc e.dtid with
            | none => if r.fmt = .fp4 then some 5 else none
            | some d =>
              if !Desc.scaled d then (if r.fmt = .fp4 then some 5 else none)
              else match img.tensor (Desc.stid d) with
                | some x => if x.fmt = 7 ∧ Desc.scaleCount d ≤ x.count.toNat then none else some 2
                | none => some 2
          else none
    if !grpOk then .error 2
    else match dstErr with
    | some r => .error r
    | none =>
      if e.kind = 2 then .ok e
      else
        let (st, si) := c.srcScope t img e
        match st.source si e.stid with
        | none => .error 2
        | some x =>
          if !st.srcOk x e.soff.toNat n then .error 2
          else if e.kind = 1 ∧ !(st.windows[x.win].grant.getLsbD t.val) then .error 2
          else .ok { e with src := x.src, sfmt := x.fmt }

/-- The entries judged in order: all of them, or the first that is wrong. -/
def Chip.judgeMap (c : Chip) (t : Fin 16) (img : Image) (nadapt : Nat) : Nat → List (List Byte) → Except BindErr (List TurnEnt)
  | _, [] => .ok []
  | i, b :: bs =>
    match c.judgeEntry t img nadapt b with
    | .error r => .error ⟨BitVec.ofNat 32 i, 0xFE, r⟩
    | .ok e =>
      match c.judgeMap t img nadapt (i + 1) bs with
      | .error x => .error x
      | .ok es => .ok (e :: es)

/-- The turn map of a submit (R173, R301). -/
def State.turnMap (s : State) (t : Fin 16) (img : Image) (sub : SubmitRec) : Except BindErr (List TurnEnt) :=
  let n := sub.ntm.toNat
  if n = 0 then .ok []
  else
    let ten := s.chip.tenants[t]
    match ten.ref (some img) sub.tmtid with
    | none => .error ⟨0xFFFFFFFF, 0xFE, 2⟩
    | some r =>
      if 65536 < n ∨ !ten.refOk r 0 (64 * n) then .error ⟨0xFFFFFFFF, 0xFE, 2⟩
      else s.chip.judgeMap t img sub.astage.length 0 (pieces 64 n (ten.bytes s.mem r.win r.woff (64 * n)))

/-! ### The slot table (R152, R157, R301) -/

/-- A record of 66 words. -/
def SlotRec.read (ws : List Nat) : Option SlotRec :=
  let ns := ws.getD 1 0
  let lam := (ws.drop 2).take ns
  if 1 ≤ ns ∧ ns ≤ 64 ∧ lam.all (fun x => 1 ≤ x && x ≤ 1048576) ∧ (ws.drop (2 + ns)).all (· = 0) then
    some { first := BitVec.ofNat 32 (ws.getD 0 0), buckets := lam }
  else none

/-- FIRST values ascend from 0, and at most 8 distinct bucket lengths are used. -/
def slotTableOk (rs : List SlotRec) : Bool :=
  (match rs with
    | [] => false
    | r :: _ => decide (r.first = 0)) &&
  decide (rs.Pairwise fun a b => a.first.toNat < b.first.toNat) &&
  decide ((rs.flatMap SlotRec.buckets).eraseDups.length ≤ 8)

/-- Consecutive groups of `n` words. -/
def wordRows (n : Nat) : Nat → List Nat → List (List Nat)
  | 0, _ => []
  | k + 1, ws => ws.take n :: wordRows n k (ws.drop n)

/-- The slot table of a learning plan. -/
def State.slotTable (s : State) (t : Fin 16) (img : Image) (sub : SubmitRec) : Except BindErr (List SlotRec) :=
  if sub.sttid = 0 then .ok []
  else
    let ten := s.chip.tenants[t]
    match ten.ref (some img) sub.sttid with
    | none => .error (wholeErr 2)
    | some r =>
      let n := if 0xFFF10 ≤ sub.sttid.toNat then r.count / 4 / 66 else r.count / 66
      if r.fmt.bits ≠ 32 ∧ sub.sttid.toNat < 0xFFF10 then .error (wholeErr 2)
      else
        let ws := (pieces 4 (66 * n) (ten.bytes s.mem r.win r.woff (264 * n))).map leNat
        let rs := (wordRows 66 n ws).map SlotRec.read
        if rs.all Option.isSome && slotTableOk (rs.filterMap id) then .ok (rs.filterMap id) else .error (wholeErr 5)

/-- BPT: the most bytes that a token row takes over a slot's store tensors, in the buckets of step 0 (R157). -/
def bytesPerRow (img : Image) (table : List SlotRec) : Nat :=
  match table with
  | [] => 0
  | r :: _ =>
    (r.buckets.zipIdx.map fun x =>
      let bits := (img.tensors.filter fun e => decide (e.role = .store) && decide (e.sslot.val = x.2)).map fun e =>
        e.count.toNat * ((Fmt.ofCode e.fmt).map Fmt.bits).getD 0
      (bits.sum + 8 * x.1 - 1) / (8 * x.1)).foldl max 0

/-! ### The checks in order -/

/-- The layers that SY.LAYER names, and layer 0 (R160). -/
def Image.layers (i : Image) : List W16 :=
  (0 :: i.bundles.filterMap fun b =>
    let w := bundleSlot b 6
    if slotOp w = 4 then some (syFields w).code else none).eraseDups

/-- The target is one of the partition set in force (R171). -/
def Chip.targetOf (c : Chip) (part : Byte) : Option (Option (Fin 4)) :=
  if part = 0xFF then (if c.nparts = 1 then some none else none)
  else if h : part.toNat < 4 then (if part.toNat < c.nparts then some (some ⟨part.toNat, h⟩) else none)
  else none

/-- The partition that a target runs on. -/
def Plan.home (p : Plan) : Fin 4 := p.part.getD 0

/-- The weight tensors that a plan resolves through epochs: those versioned as binding began, and those that
its own submit stages and switches to (R198, R205, R206). -/
def planVersioned (img : Image) (start : BindStart) (sub : SubmitRec) (map : List TurnEnt) : List (BitVec 20) :=
  let mine := img.tensors.filter fun e => decide (e.role = .weight) || decide (e.role = .scale)
  let staged := if sub.wepoch ≠ 0 ∧ sub.switchAt0 then img.stagedTids map else []
  (mine.filter fun e => start.versioned.contains e.tid || staged.contains e.tid).map TensorEnt.tid

/-- The first entry of the table that is versioned and does not fit the copy it would resolve to (R198,
R206). -/
def Tenant.versionErr (t : Tenant) (img : Image) (sub : SubmitRec) (map : List TurnEnt) (vs : List (BitVec 20)) : Option BindErr :=
  let staged := if sub.wepoch ≠ 0 ∧ sub.switchAt0 then img.stagedTids map else []
  let cur := t.copies.find? fun k => k.adapter.isNone && decide (k.state = .current)
  ((img.tensors.zipIdx).find? fun x =>
    vs.contains x.1.tid && !staged.contains x.1.tid && match cur with
      | none => true
      | some k => !(k.tensors.any fun y => decide (y.tid = x.1.tid) && decide (y.count = x.1.count.toNat) && decide (y.fmt = x.1.fmt))).map
    fun x => ⟨BitVec.ofNat 32 x.2, 0xFF, 2⟩

/-- A destination that no slot may write: a versioned tensor, or one whose scales are, for DRN, STV, SCAT, COPY and COLL
(R198, R211). -/
def versionedWrites (p : Plan) : List BindErr :=
  let bad := fun (td : Fin 256) => match p.image.descs[td.val]? with
    | some d => p.isVersioned (Desc.tid d) || (Desc.scaled d && p.isVersioned (Desc.stid d))
    | none => false
  (p.image.bundles.zipIdx).flatMap fun b =>
    (bundleOps 0 b.1).filterMap fun x =>
      let hit := match x.2 with
        | .drn _ o => !o.ftq && bad o.tdc
        | .copy _ o => bad o.td2
        | .stv _ o | .scat _ o | .coll _ o => bad o.td
        | _ => false
      if hit then some ⟨BitVec.ofNat 32 b.2, BitVec.ofNat 8 x.1, 5⟩ else none

/-- The bytes of a copy's tensors. -/
def copyBytes (ts : List CopyTensor) : Nat :=
  (ts.map fun x => ((Fmt.ofCode x.fmt).getD .u8).bytes x.count).sum

/-- The copies of a window and new ones fit into it (R199). -/
def Tenant.copyFits (t : Tenant) (w : Fin 16) (ts : List CopyTensor) : Bool :=
  t.inWin w 0 (((t.copies.filter fun k => k.win = w).map fun k => copyBytes k.tensors).sum + copyBytes ts)

/-- The copies that a plan will stage, by window: each window takes those that go into it (R199). -/
def Plan.stagesFit (p : Plan) (t : Tenant) : Bool :=
  let ks := p.sub.stages.map fun a => p.stagedCopy (a.1.map fun x => (x, 0)) a.2
  ks.all fun k => t.copyFits k.win ((ks.filter fun x => x.win = k.win).flatMap EpochCopy.tensors)

/-- The judgement of a submit's stagings (R199, R200): 0x0043, 0x0002 or 0. -/
def Tenant.judgeStaging (t : Tenant) (p : Plan) : W16 :=
  let sub := p.sub
  if (sub.stages.any fun a => !epochOk (t.heldEpochs a.1) a.2) ||
      decide ((sub.astage.map Prod.fst).eraseDups.length ≠ sub.astage.length) then 0x0043
  else if (sub.wepoch ≠ 0 && decide (4 ≤ (t.heldEpochs none).length)) ||
      decide (256 < t.bankUsed + sub.astage.length) || !p.stagesFit t then 0x0002
  else 0

/-- The request table of a submit (R215). -/
def reqTableOf (sub : SubmitRec) : Option ReqTable :=
  if sub.nslot = 0 then none
  else some { nslot := sub.nslot.toNat, pmax := sub.pmax.toNat, ctx := sub.ctx.toNat, admax := sub.admax.toNat, ptid := sub.ptid }

/-- The ranges of R215, and the prompt tensor's shape. -/
def Tenant.reqOk (t : Tenant) (img : Image) (q : ReqTable) : Bool :=
  decide (q.nslot ≤ 16384) && decide (1 ≤ q.pmax) && decide (q.pmax ≤ 1048576) &&
  (decide (q.ctx = 0) || (decide (q.pmax < q.ctx) && decide (q.ctx ≤ 16777215))) &&
  decide (1 ≤ q.admax) && decide (q.admax ≤ q.nslot) &&
  match t.ref (some img) q.ptid with
  | none => false
  | some r =>
    if 0xFFF10 ≤ q.ptid.toNat then decide (4 * (q.nslot * q.pmax) ≤ r.count)
    else decide (r.fmt = .i32) && decide (q.nslot * q.pmax ≤ r.count)

/-- A plan of the tenant with a request table is bound or running (R215). -/
def Chip.serves (c : Chip) (t : Fin 16) : Bool :=
  (c.placer.bound.any fun p => decide (p.tenant = t) && p.req.isSome) ||
  allParts.any fun q => match c.run q with
    | some r => decide (r.plan.tenant = t) && r.plan.req.isSome
    | none => false

/-- The entries that the tenant's result ring holds (R226). -/
def Chip.resultSize (c : Chip) (t : Fin 16) : Nat :=
  let n := ((c.func (.vf t)).rings[(11 : Fin 12)]).log2.toNat
  if 6 ≤ n ∧ n ≤ 16 then 2 ^ n else 0

/-- Bytes of the tenant's tier-2 windows. -/
def Tenant.tier2Bytes (t : Tenant) : Nat :=
  (t.windows.toList.map fun w => if w.tier = some false then w.limit.toNat - w.base.toNat else 0).sum

/-- The next plan ID: ascending modulo 2^16, skipping 0 and every ID held (R175). -/
def freeId (held : List W16) : Nat → W16 → W16
  | 0, i => i
  | k + 1, i => if i = 0 ∨ held.contains i then freeId held k (i + 1) else i

def Chip.heldIds (c : Chip) : List W16 :=
  c.placer.bound.map Plan.id ++ allParts.filterMap fun p => (c.run p).map fun r => r.plan.id

def Chip.newId (c : Chip) : W16 := freeId c.heldIds 65536 c.placer.nextId

/-- A plan's MM passes, EMAX and schedule are still to be found. -/
def PlacerFig.none : PlacerFig := default

/-- The plan that a job makes, before the run over its steps. -/
def Chip.draftPlan (c : Chip) (j : BindJob) (st : BindStart) (img : Image) (target : Option (Fin 4)) (map : List TurnEnt)
    (table : List SlotRec) : Plan :=
  let b := c.bindingOf (target.getD 0)
  { id := c.newId, tenant := j.tenant, part := target, image := img, sub := j.sub, turnMap := map, slotTable := table
    req := reqTableOf j.sub, emax := 0, bpt := bytesPerRow img table
    versioned := planVersioned img st j.sub map, rotate := st.rotate, kgen := st.kgen
    report := failReport 0 noErr j.sub.part st.capW, binding := b, fig := .none, passes := []
    altsReady := b.altsOk c.faults.tilesOut, restored := j.restore, src := j.src }

/-- The plan with what the run over its steps finds, and its schedule (R172, R226). -/
def Chip.settlePlan (c : Chip) (st : BindStart) (p : Plan) (d : DryAll) : Plan :=
  let p := { p with emax := d.emax, passes := d.passes }
  { p with fig := c.schedule p st.capW st.imb }

/-- The run of a plan's steps over its static values (R197). -/
def State.dryOf (s : State) (p : Plan) : DryAll :=
  (View.dryAll { chip := s.chip, mem := s.mem, part := p.home, run := p.run s.chip.drone.now false })

/-! ### The binding record (R177, R178) -/

/-- Zeros up to the next multiple of 16. -/
def pad16 (b : List Byte) : List Byte := b ++ List.replicate ((16 - b.length % 16) % 16) 0

/-- A set of tiles as 128 bits, bit n for tile n. -/
def tileBits (ts : List (Fin 68)) : List Byte := leBytes 16 (ts.eraseDups.foldl (fun a t => a + 2 ^ t.val) 0)

/-- The tile map: every logical tile with its sub-pass and its place (R59, R179). -/
def Binding.mapSection (b : Binding) : List (List Byte) :=
  (List.range 64).filterMap fun l => (b.tileOf l).map fun x =>
    leBytes 1 l ++ leBytes 1 x.1 ++ leBytes 1 (dieOf x.2) ++ leBytes 1 (posOf x.2) ++ leBytes 2 x.2.val ++ [0, 0]

/-- The partition entry (R77, R80). -/
def Chip.partSection (c : Chip) (p : Plan) : List (List Byte) :=
  [[p.partByte] ++ leBytes 1 p.binding.cols.length ++ leBytes 1 ((p.binding.cols.head?.map PCol.col).getD 0) ++
    leBytes 1 (c.parts[p.home].spares.foldl (fun a d => a + 2 ^ d.val) 0) ++ List.replicate 12 0 ++
    tileBits c.mram.cfgOut ++ tileBits c.faults.tilesOut]

/-- The regions (R64). -/
def Binding.regionSection (b : Binding) (ps : List Pass) : List (List Byte) :=
  (b.regions ps).map fun r =>
    leBytes 1 r.a ++ leBytes 1 r.b ++ leBytes 1 r.d ++ leBytes 1 r.sub ++ leBytes 4 r.f ++ leBytes 4 r.bundle ++ leBytes 4 0

/-- The commit points (R185). -/
def PlacerFig.commitSection (f : PlacerFig) : List (List Byte) :=
  f.commits.map fun x =>
    leBytes 4 x.bundle.toNat ++ leBytes 4 x.step.toNat ++ leBytes 8 x.at_.toNat ++ leBytes 1 x.kind.val ++ List.replicate 7 0

/-- The length of a calibration window in ns, by kind (R192). -/
def windowNs : Fin 4 → Nat
  | 0 => 1500
  | 1 => 500
  | 2 => 1000
  | 3 => 200

/-- The calibration windows (R192). -/
def PlacerFig.windowSection (f : PlacerFig) : List (List Byte) :=
  f.windows.map fun x =>
    leBytes 1 x.kind.val ++ [0] ++ leBytes 2 x.unit.toNat ++ leBytes 4 (windowNs x.kind) ++ leBytes 8 x.at_.toNat

/-- The power trace (R195). -/
def PlacerFig.traceSection (f : PlacerFig) : List (List Byte) :=
  f.trace.map fun x =>
    leBytes 4 x.step.toNat ++ leBytes 4 x.seg.toNat ++ leBytes 2 x.pwr.toNat ++
      x.idie.toList.flatMap (fun i => leBytes 2 i.toNat) ++ leBytes 4 0 ++ x.fset.toList.flatMap fun m => leBytes 2 m.toNat

/-- The alternates: one for each tile of the binding (R182, R183). -/
def Plan.altSection (p : Plan) (out : List (Fin 68)) : List (List Byte) :=
  p.binding.tiles.filterMap fun t => (p.binding.altKind out t).map fun k =>
    let a := p.fig.alt t
    let how := match k with
      | .spare s => leBytes 1 1 ++ leBytes 1 (dieOf s)
      | .column c => leBytes 1 2 ++ leBytes 1 c.col
    leBytes 2 t.val ++ how ++ leBytes 4 ((p.binding.take t k).fmax p.passes) ++ leBytes 8 a.proNs.toNat ++
      leBytes 8 a.step0Ns.toNat ++ leBytes 8 a.stepMaxNs.toNat

/-- The seven sections of the binding record, in the order of R177. -/
def Chip.recordSections (c : Chip) (p : Plan) : List (List (List Byte)) :=
  [p.binding.mapSection, c.partSection p, p.binding.regionSection p.passes, p.fig.commitSection, p.fig.windowSection,
   p.fig.traceSection, p.altSection c.faults.tilesOut]

/-- The directory of sections that begin at `off`: byte offset and entry count of each. -/
def recordDir : Nat → List (List (List Byte)) → List Byte
  | _, [] => []
  | off, s :: ss => leBytes 4 off ++ leBytes 4 s.length ++ recordDir (off + (pad16 s.flatten).length) ss

/-- The binding record (R178). -/
def Chip.bindingBytes (c : Chip) (p : Plan) : List Byte :=
  let ss := c.recordSections p
  leBytes 4 0x43455242 ++ leBytes 2 1 ++ leBytes 2 p.id.toNat ++ recordDir 64 ss ++ ss.flatMap fun s => pad16 s.flatten

/-! ### The judgement -/

/-- What the bind of a job finds wrong, in the order of the checks: status and finding; or the plan. -/
def State.judgeBind (s : State) (j : BindJob) (st : BindStart) : Except (W16 × BindErr) Plan :=
  let c := s.chip
  let ten := c.tenants[j.tenant]
  match c.targetOf j.sub.part, j.image with
  | none, _ => .error (0x0022, wholeErr 7)
  | some _, none => .error (0x0022, ⟨j.layoutFault.getD 0xFFFFFFFF, 0xFF, 2⟩)
  | some target, some img =>
    match (img.tensors.zipIdx).find? fun x => !ten.entOk x.1 with
    | some x => .error (0x0022, ⟨BitVec.ofNat 32 x.2, 0xFF, 2⟩)
    | none =>
    match s.turnMap j.tenant img j.sub with
    | .error e => .error (0x0022, e)
    | .ok map =>
      let vs := planVersioned img st j.sub map
      match ten.versionErr img j.sub map vs with
      | some e => .error (0x0022, e)
      | none =>
        match s.slotTable j.tenant img j.sub with
        | .error e => .error (0x0022, e)
        | .ok table =>
          let p0 := c.draftPlan j st img target map table
          let d := s.dryOf p0
          let p := c.settlePlan st p0 d
          let layers := if j.sub.clearMon then [] else ten.layers.map LayerRow.layer
          let recOk := match ten.ref (some img) j.sub.brtid with
            | none => some 2
            | some r => if r.fmt.bytes r.count < (c.bindingBytes p).length then some (7 : Byte) else none
          match firstErr (scanImage img.bundles ++ versionedWrites p ++ d.errs) with
          | some e => .error (0x0022, e)
          | none =>
            if 4096 < (layers ++ img.layers).eraseDups.length then .error (0x0022, wholeErr 7)
            else if ten.tier2Bytes < j.sub.storeC.toNat * 2 ^ 21 then .error (0x0022, wholeErr 7)
            else if j.sub.mond = 1 ∨ 64 < j.sub.mond.toNat then .error (0x0022, wholeErr 5)
            else if 100 < j.sub.fshare.toNat then .error (0x0022, wholeErr 5)
            else if j.sub.mond ≠ 0 ∧ (ten.ref (some img) j.sub.montid).isNone then .error (0x0022, wholeErr 2)
            else if recOk.isSome then .error (0x0022, wholeErr (recOk.getD 2))
            else if p.req.any fun q => !ten.reqOk img q then .error (0x0022, wholeErr 5)
            else if p.req.isSome && c.serves j.tenant then .error (0x0002, noErr)
            else if p.req.any fun q => decide (c.resultSize j.tenant < d.emax + q.nslot) then .error (0x0022, wholeErr 7)
            else if !p.fig.fits then .error (0x0022, wholeErr 7)
            else if !p.altsReady then .error (0x0022, wholeErr 8)
            else if ten.judgeStaging p ≠ 0 then .error (ten.judgeStaging p, noErr)
            else .ok p

/-- The alternates of a plan that remove a column (R176). -/
def Binding.folds (b : Binding) (out : List (Fin 68)) : Nat :=
  (b.tiles.filter fun t => match b.altKind out t with
    | some (.column _) => true
    | _ => false).length

/-- The report of a plan (R176); `len`: the length of its binding record. -/
def Chip.bindReport (c : Chip) (p : Plan) (st : BindStart) (len : Nat) : BindReport :=
  let f := p.fig
  { status := 0, plan := p.id, whereAt := 0xFFFFFFFF, slot := 0xFF, reason := 0, part := p.partByte
    ncol := BitVec.ofNat 8 p.binding.cols.length, bindUs := BitVec.ofNat 32 (c.since st.since / 1000)
    nalt := BitVec.ofNat 16 p.binding.tiles.length, nfold := BitVec.ofNat 16 (p.binding.folds c.faults.tilesOut)
    bpt := BitVec.ofNat 32 p.bpt, proNs := f.proNs, step0Ns := f.step0Ns, stepMaxNs := f.stepMaxNs, cmtMaxNs := f.cmtMaxNs
    calNs := f.calNs, peakW := BitVec.ofNat 16 f.peak, avgW := f.avgW, capW := st.capW, kgen := p.kgen, t1Bytes := f.t1Bytes
    t2Bytes := f.t2Bytes, cmtBytes := f.cmtBytes, fmax := BitVec.ofNat 32 (p.binding.fmax p.passes)
    brecLen := BitVec.ofNat 32 len }

/-- The layer table with the plan's layers entered, IDs rising (R160). -/
def enterLayers (rows : List LayerRow) (ls : List W16) : List LayerRow :=
  ls.foldl (fun rows l =>
    if rows.any fun r => r.layer = l then rows
    else (rows.filter fun r => r.layer.toNat < l.toNat) ++ LayerRow.blank l :: rows.filter fun r => l.toNat < r.layer.toNat) rows

/-- A bound plan enters the module: its binding record written, its layers entered, its ID taken (R160, R175,
R177). -/
def State.enterPlan (s : State) (p : Plan) : State :=
  let ten := s.chip.tenants[p.tenant]
  let ws := match ten.ref (some p.image) p.sub.brtid with
    | some r => ten.byteWrites r.win r.woff (s.chip.bindingBytes p)
    | none => []
  let s := { s with mem := s.mem.applyAll ws }
  s.on fun c =>
    let c := c.modTenant p.tenant fun t =>
      { t with layers := enterLayers (if p.sub.clearMon then [] else t.layers) p.image.layers }
    { c with placer := { c.placer with bound := c.placer.bound ++ [p], nextId := p.id + 1 } }

/-- The job at the front finishes (R176, R180, R181). -/
def State.finishBind (s : State) : State :=
  match s.chip.placer.jobs with
  | [] => s
  | j :: js =>
    let s := s.on fun c => { c with placer := { c.placer with jobs := js } }
    let loaded := s.on fun c => c.loadSaved j.tenant j.restore
    let st := j.start.getD (loaded.chip.bindStart j.tenant)
    let s' := match loaded.judgeBind j st with
      | .error (status, e) => s.on fun c => c.bindDone j.src (failReport status e j.sub.part st.capW)
      | .ok p =>
        let rep := loaded.chip.bindReport p st (loaded.chip.bindingBytes p).length
        (loaded.enterPlan { p with report := rep }).on fun c => c.bindDone j.src rep
    s'.on fun c => (c.raise 74).beginJob

end Sys2Proof.Machine
end

