-- ==== Sys2Proof/Machine/Plan.lean ====
section
/-! DEFINITION. Plans as commands (R18, R56, R174, R176, R184-R191, R205, R382, R387): the submit and its bind,
the prologue's movements and its end, and the commit points. -/

namespace Sys2Proof.Machine

/-! ### The prologue's movements (R173, R174, R187) -/

/-- Where an entry writes: a home window, the weight copy being staged, an adapter copy, or nowhere (a copy
that has been retired meanwhile). -/
inductive Dest where
  | home (r : Ref)
  | copy (aid : Option W16) (epoch : W16)
  | nowhere

/-- Where element 0 of a tensor that a prologue writes lies, and how far `off` is into it (R205, R211; the
order of the adapter stagings is a DESIGN CHOICE, notes/assumptions/32.md). `staging`: the copies that it stages. -/
def Plan.dest (p : Plan) (staging : List (Option W16 × W16)) (t : Tenant) (tid : BitVec 20) (off : Nat) : Dest × Nat :=
  let copy := fun (a : Option W16) (e : W16) => if staging.contains (a, e) then Dest.copy a e else .nowhere
  match t.ref (some p.image) tid with
  | none => (.nowhere, off)
  | some r =>
    match p.image.tensor tid with
    | none => (.home r, off)
    | some e =>
      if e.role = .adapter then
        match p.sub.astage[off / r.count]? with
        | some a => (copy (some a.1) a.2, off % r.count)
        | none => (.nowhere, off)
      else if p.sub.wepoch ≠ 0 ∧ (e.role = .weight ∨ e.role = .scale) ∧ p.stagedTids.contains tid then
        (copy none p.sub.wepoch, off)
      else (.home r, off)

/-- Elements of a copy's tensor written. -/
def EpochCopy.putAll (k : EpochCopy) (tid : BitVec 20) (ws : List (Nat × W32)) : EpochCopy :=
  { k with tensors := k.tensors.map fun x => if x.tid = tid then { x with cells := spSetAll 0 x.cells ws } else x }

/-- Elements `[off, off + n)` of a tensor written by a prologue; the commit point keeps what the home
windows held (R186). -/
def State.putElems (s : State) (q : Fin 4) (p : Plan) (tid : BitVec 20) (off : Nat) (xs : List W32) : State :=
  let t := s.chip.tenants[p.tenant]
  let staging := ((s.chip.run q).map Running.staging).getD []
  match p.dest staging t tid off with
  | (.nowhere, _) => s
  | (.copy aid epoch, o) =>
    s.on fun c => c.modTenant p.tenant fun t => { t with
      copies := t.copies.map fun k =>
        if k.aid = aid ∧ k.epoch = epoch then k.putAll tid (xs.zipIdx.map fun x => (o + x.2, x.1)) else k }
  | (.home r, o) =>
    let ws := (xs.zipIdx).flatMap fun x => t.elemWrites r.win r.woff r.fmt (o + x.2) x.1
    let undo := undoOf s.mem ws
    let s := { s with mem := s.mem.applyAll ws }
    s.on fun c => c.modRun q fun r => r.keepUndo undo

/-- The scale element that a descriptor gives the element at an offset of its tensor, if its view holds it (R34, R36). -/
def Desc.scaleAt (d : Desc) (off : Nat) : Option Nat :=
  (((region 0 0 (Desc.rows d) (Desc.cols d)).filter fun x => Desc.offset d x.1 x.2 = off).getLast?).map fun x =>
    Desc.scaleOffset d x.1 x.2

/-- The descriptor under which a CONVERT entry writes the element at an offset of a tensor, and its scale element: the
first of the image that names the tensor and views the element (DEDUCED, notes/assumptions/31.md). -/
def Image.convAt (i : Image) (tid : BitVec 20) (off : Nat) : Option (Desc × Nat) :=
  (i.descs.filter fun d => decide (Desc.tid d = tid) && (Desc.fmt d).isSome).findSome? fun d =>
    if Desc.scaled d then (Desc.scaleAt d off).map fun k => (d, k) else some (d, 0)

/-- An element that a CONVERT entry brings: its offset in DTID, and its value. -/
abbrev ConvVal := Nat × Fp

/-- The scale bytes of a converted tensor of `count` elements, from all that the turn map brings into it: by copy, scale
tensor and scale element (R36, R95, R174). -/
def Image.convScales (i : Image) (f : Fmt) (tid : BitVec 20) (count : Nat) (xs : List ConvVal) :
    List ((Nat × BitVec 20 × Nat) × Byte) :=
  match f.shape with
  | none => []
  | some sh =>
    let keyed := xs.filterMap fun x => (i.convAt tid (x.1 % max 1 count)).bind fun y =>
      if Desc.scaled y.1 then some ((x.1 / max 1 count, Desc.stid y.1, y.2), x.2) else none
    ((keyed.map Prod.fst).eraseDups).map fun k => (k, sh.scaleByte ((keyed.filter fun x => x.1 = k).map Prod.snd))

/-- One element converted into DTID's format under its descriptor's BSM, OVF and SRE; draws are those of step 0xFFFF_FFFF
under the seed zero (R97, R98, R102, R134, R174). An element that no descriptor of a scaled tensor views has no stated
result (FREE VALUE, notes/assumptions/31.md). -/
def Image.convert (i : Image) (f : Fmt) (tid : BitVec 20) (count : Nat) (scales : List ((Nat × BitVec 20 × Nat) × Byte))
    (x : ConvVal) : W32 :=
  let o := x.1 % max 1 count
  match i.convAt tid o with
  | none => if (i.convDesc tid).isSome then Config.formatClash f.bits 32 (toF32 x.2) &&& BitVec.ofNat 32 (2 ^ f.bits - 1)
      else (convertTo f false none x.2).1
  | some (d, k) =>
    let sr := if Desc.sre d && f.isFloat then some (programSlice 0 0xFFFFFFFF (Desc.strm d) o 24) else none
    if Desc.scaled d then
      (f.convertScaled (((scales.find? fun e => e.1 = (x.1 / max 1 count, Desc.stid d, k)).map Prod.snd).getD 127) sr x.2).1
    else (convertTo f (Desc.ovf d) sr x.2).1

/-- What a copy without CONVERT writes: the source bits; where the formats differ the manual states no result
(FREE VALUE, notes/assumptions/34.md). -/
def copyBits (dst src : Fmt) (b : W32) : W32 :=
  if dst = src then b else BitVec.ofNat 32 ((Config.formatClash dst.bits src.bits b).toNat % 2 ^ dst.bits)

/-- The hop that a receive entry is filled from, once it is whole (R288). -/
def Chip.received (c : Chip) (p : Plan) (e : TurnEnt) (n : Nat) : Option RxHop :=
  (c.group e.grp).bind fun g => g.rx.find? fun x =>
    decide (x.kind = 0x10) && decide (x.srank = e.rank) && decide (x.sqn.toNat = transferIdx p.turnMap n e) &&
    decide (x.elems.length = e.count.toNat)

/-- Every receive entry has arrived. -/
def Chip.mapReady (c : Chip) (p : Plan) : Bool :=
  p.turnMap.zipIdx.all fun x => decide (x.1.kind ≠ (2 : Byte)) || (c.received p x.1 x.2).isSome

/-- The elements that an entry moves, as bits of their format; none for a send, or before a receive has come whole
(R173). -/
def State.entryElems (s : State) (p : Plan) (e : TurnEnt) (n : Nat) : Option (Fmt × List W32) :=
  if e.kind = 3 then none
  else if e.kind = 2 then
    (s.chip.received p e n).map fun x => ((Fmt.ofCode (x.pfmt.setWidth 4)).getD .u8, x.elems)
  else
    let t := if e.kind = 1 then s.chip.tenants[e.sten] else s.chip.tenants[p.tenant]
    some ((Fmt.ofCode e.sfmt).getD .u8, (List.range e.count.toNat).map fun i => t.sourceBits s.mem e (e.soff.toNat + i))

/-- The elements that a CONVERT entry brings. -/
def State.entryVals (s : State) (p : Plan) (e : TurnEnt) (n : Nat) : List ConvVal :=
  match s.entryElems p e n with
  | none => []
  | some (f, bits) => bits.zipIdx.map fun x => (e.doff.toNat + x.2, f.decode x.1)

/-- Everything that the CONVERT entries of the turn map bring into a tensor: its scales are taken from all of it (R95,
R174). -/
def State.convVals (s : State) (p : Plan) (tid : BitVec 20) : List ConvVal :=
  p.turnMap.zipIdx.flatMap fun x => if x.1.convert ∧ x.1.dtid = tid then s.entryVals p x.1 x.2 else []

/-- The scale bytes of a converted tensor written into its scale tensor (R36). -/
def State.putScales (s : State) (q : Fin 4) (p : Plan) (scales : List ((Nat × BitVec 20 × Nat) × Byte)) : State :=
  scales.foldl (fun s k => s.putElems q p k.1.2.1 k.1.2.2 [k.2.setWidth 32]) s

/-- The words that an entry writes into the scale state: the values that the driver sets at submit (R169, R415; DEDUCED,
notes/assumptions/103.md). -/
def State.putScaleState (s : State) (p : Plan) (off : Nat) (xs : List W32) : State :=
  s.on fun c => c.modTenant p.tenant fun t =>
    { t with scale := (xs.zipIdx.flatMap fun x => scaleWrites (off + x.2) x.1).foldl (fun v w => v.set w.1 w.2) t.scale }

/-- One entry of the turn map carried out: converted, or copied (R173, R174). -/
def State.moveEntry (s : State) (q : Fin 4) (p : Plan) (e : TurnEnt) (n : Nat) : State :=
  match s.entryElems p e n with
  | none => s
  | some (sfmt, bits) =>
    if e.dtid = 0xFFF04 then s.putScaleState p e.doff.toNat (bits.map (copyBits .i32 sfmt))
    else match s.chip.tenants[p.tenant].ref (some p.image) e.dtid with
    | none => s
    | some r =>
      let off := e.doff.toNat
      if e.convert then
        let scales := p.image.convScales r.fmt e.dtid r.count (s.convVals p e.dtid)
        let vals := s.entryVals p e n
        (s.putScales q p scales).putElems q p e.dtid off (vals.map (p.image.convert r.fmt e.dtid r.count scales))
      else s.putElems q p e.dtid off (bits.map (copyBits r.fmt sfmt))

/-- The turn map carried out, in order (R173). -/
def State.moveAll (s : State) (q : Fin 4) (p : Plan) : State :=
  p.turnMap.zipIdx.foldl (fun s x => s.moveEntry q p x.1 x.2) s

/-! ### The end of the prologue (R18, R191, R205-R207) -/

/-- Tenants that hold a plan, bound or running; with a partition, those whose plan is for it. -/
def Chip.holdsPlan (c : Chip) (t : Fin 16) (q : Option (Fin 4)) : Bool :=
  (c.placer.bound.any fun p => decide (p.tenant = t) && (q.isNone || decide (some p.home = q))) ||
  allParts.any fun x => match c.run x with
    | some r => decide (r.plan.tenant = t) && (q.isNone || decide (some x = q))
    | none => false

/-- The windows that a prologue rewrites under the present key (R191): those of the tenants bound to its partition, and of
tenants that hold no plan, whose own partition's next prologue this may be (DEDUCED, notes/assumptions/106.md). -/
def Chip.rewriteWindows (c : Chip) (q : Fin 4) : Chip :=
  let mine := fun t => c.nparts = 1 || c.holdsPlan t (some q) || !c.holdsPlan t none
  let ts := c.tenants.mapIdx fun i x =>
    if mine (Fin.ofNat 16 i) then { x with windows := x.windows.map fun w => { w with kgen := c.memObj.kgen } } else x
  let left := ts.toList.any fun x => x.windows.toList.any fun w => decide (w.tier = some true) && decide (w.kgen ≠ c.memObj.kgen)
  { c with tenants := ts, memObj := { c.memObj with rotPending := c.memObj.rotPending && left } }

/-- A switch that becomes pending replaces an older one (R207). -/
def Tenant.addSwitch (t : Tenant) (w : PendSwitch) : Tenant :=
  match t.switches.find? fun x => x.aid = w.aid with
  | none => { t with switches := t.switches ++ [w] }
  | some x =>
    { t with switches := (t.switches.filter fun y => y.aid ≠ w.aid) ++
        [{ w with replaced := x.replaced ++ [(x.epoch, x.src)] }] }

/-- A pending switch stands in the way of one to `epoch`: it is as new or newer (R207). -/
def Tenant.switchBlocks (t : Tenant) (aid : Option W16) (epoch : W16) : Bool :=
  match t.switches.find? fun x => x.aid = aid with
  | some x => !newer epoch x.epoch
  | none => false

/-- The copies that the submit staged turn STAGED, with the submit's switch pending (R205). -/
def Tenant.endStaging (t : Tenant) (p : Plan) (mine : List (Option W16 × W16)) : Tenant :=
  let t := { t with copies := t.copies.map fun k =>
    if k.state = .filling ∧ mine.contains (k.aid, k.epoch) then { k with state := .staged } else k }
  if p.sub.switchAt0 then
    mine.foldl (fun t m =>
      match t.copyOf m.1 m.2 with
      | some k =>
        if k.state = .staged ∧ !t.switchBlocks m.1 m.2 then t.addSwitch { aid := m.1, epoch := m.2, src := none, replaced := [] } else t
      | none => t) t
  else t

/-- The step in which a saved context stands goes on (R393; DEDUCED for the step epoch,
notes/assumptions/35.md). -/
def State.resumeStep (s : State) (q : Fin 4) : State :=
  match s.chip.run q with
  | none => s
  | some r =>
    let t := r.plan.tenant
    s.on fun c =>
      let x := c.tenants[t]
      let e := if r.plan.req.isNone then x.curEpoch.getD 0 else if x.prevEpoch = 0 then x.nextEpoch 0 else x.prevEpoch
      let c := (c.modTenant t fun x => if r.plan.req.isSome then { x with prevEpoch := e } else x).modRun q fun r =>
        { r with stepEpoch := e, counts := { r.counts with tStart := c.drone.now } }
      (c.pauseHold q).commit q

/-- A context saved inside a step, which no boundary begins. -/
def Plan.midStep (p : Plan) : Bool :=
  match p.restored with
  | some x => !x.atBoundary
  | none => false

/-- A prologue that has ended: its copies staged, its windows rewritten, and the boundary that begins the first
step, or the step that a saved context stands in (R16, R18, R28, R205, R206, R214). -/
def State.endPrologue (s : State) (q : Fin 4) (p : Plan) : State :=
  let s := s.on fun c =>
    let mine := ((c.run q).map Running.staging).getD []
    ((((c.replayOver q).rewriteWindows q).modTenant p.tenant fun t => t.endStaging p mine).modRun q fun r => { r with inPrologue := false })
  if p.midStep then s.resumeStep q
  else
    let s := s.on fun c => c.boundaryEvents q p.tenant
    match s.chip.run q with
    | none => s
    | some r =>
      let (c, out) := s.chip.finishRequests q r false
      let (c, saveEnd) := c.takeSaves q r
      let s := { s with chip := c }
      match planEndOf 0 r.halt p.req.isSome (s.chip.turned r) false (!s.chip.tenants[p.tenant].slots.isEmpty) saveEnd with
      | .ends st => s.endPlan q r r.step.toNat st out
      | .goesOn => s.enterStep q out

/-- The end of a prologue that has run before is reached again in a replay: the boundary before the first step stands. -/
def State.reachPrologueEnd (s : State) (q : Fin 4) (r : Running) : State :=
  match r.crossed with
  | x :: rest => s.recross q x rest
  | [] => s.endPrologue q r.plan

/-- A plan's prologue can end: it runs, uninterrupted. -/
def Chip.inPrologue (c : Chip) (q : Fin 4) : Option Running :=
  match c.run q with
  | some r => if c.power = .running && r.inPrologue && r.intr.isNone then some r else none
  | none => none

/-- The bytes of its window that a turn-map entry reads (R173); none from a copy, and of a receive. -/
def TurnEnt.sourceSpan (e : TurnEnt) : Option (Fin 16 × Nat × Nat) :=
  match e.src, Fmt.ofCode e.sfmt with
  | .home w o, some f =>
    if e.kind = 2 then none else some (w, o + e.soff.toNat * f.bits / 8, o + f.bytes (e.soff.toNat + e.count.toNat))
  | _, _ => none

/-- A codeword lies in a span of a window's bytes. -/
def Tenant.spanHas (t : Tenant) (x : Fin 16 × Nat × Nat) (k : PAddr) : Bool :=
  let w := t.windows[x.1]
  decide (w.tier = some k.1) && decide (w.base.toNat + x.2.1 < 32 * k.2 + 32) && decide (32 * k.2 < w.base.toNat + x.2.2)

/-- The codewords with an error on their cells. -/
def Mem.flawed (m : Mem) : List PAddr := m.flaw1.map (fun x => (true, x.1)) ++ m.flaw2.map fun x => (false, x.1)

/-- The first uncorrectable codeword that a plan's turn map reads (R240, R243). -/
def State.turnBad (s : State) (p : Plan) : Option PAddr :=
  if s.mem.sound then none
  else s.mem.flawed.find? fun k => s.mem.bad k && p.turnMap.any fun e =>
    let t := if e.kind = 1 then s.chip.tenants[e.sten] else s.chip.tenants[p.tenant]
    match e.sourceSpan with
    | some x => t.spanHas x k
    | none => false

/-- PROLOGUE_END (R18, R173, R174, R187, R191, R205). While a receive has not come whole the prologue goes on. -/
def execPrologueEnd (q : Fin 4) (s : State) : Host.Outcome State Fault Refusal :=
  let s := s.consumeAll
  match s.chip.inPrologue q with
  | none => .next s
  | some r => .next (if s.chip.mapReady r.plan then
      match s.turnBad r.plan with
      | some k => s.readsBad q r k
      | none => (s.moveAll q r.plan).reachPrologueEnd q r
    else s)

/-! ### Commit points (R185, R186, R190, R289, R382) -/

/-- A plan that runs, in its prologue or a step, without interruption. -/
def Chip.active (c : Chip) (q : Fin 4) : Option Running :=
  match c.run q with
  | some r => if c.power = .running && r.intr.isNone then some r else none
  | none => none

/-- COMMIT_POINT (R185, R186, R190). -/
def execCommitPoint (q : Fin 4) (moved : List (Fin 384 × Nat)) (s : State) : Host.Outcome State Fault Refusal :=
  match s.chip.active q with
  | none => .next s
  | some _ => .next (s.on fun c => c.commitWith q false moved)

/-- The hop belongs to a collective or transfer that a commit point stands after. -/
def CommitPt.passed (k : CommitPt) (g : Group) (x : RxHop) : Bool :=
  match k.groups.find? fun y => y.grp = g.grp with
  | some y => if x.kind = 0x10 then !k.inPrologue else decide (x.sqn.toNat < y.sqn.toNat)
  | none => false

/-- The hops of a tenant's groups that a commit point covers: those of collectives finished when it was taken, and those
received by then of the one in progress (R185, R289). -/
def CommitPt.covers (k : CommitPt) (g : Group) (x : RxHop) : Bool :=
  k.passed g x || k.groups.any fun y => decide (y.grp = g.grp) && decide (x.kind ≠ 0x10) && y.rx.contains x

/-- The ports on which a hop's sender is acknowledged. -/
def Group.ackPorts (g : Group) (x : RxHop) : List (Fin 16) :=
  if x.kind = 0x10 then g.portsTo x.srank.toNat else maskPorts g.prev

/-- The acknowledgement of a hop, on the first UP port to its sender (R289). -/
def Chip.ackHop (c : Chip) (g : Group) (x : RxHop) : Chip :=
  match (g.ackPorts x).find? fun p => c.ports[p].state = .up with
  | some p => c.transmit p fun h => .ack h (some ⟨g.grp, x.sqn, x.phase, x.hop⟩)
  | none => c

/-- Every hop that a completed commit point covers is acknowledged. -/
def Chip.ackCovered (c : Chip) (t : Fin 16) (k : CommitPt) : Chip :=
  (c.groups.filter fun g => g.ten = t).foldl (fun c g => (g.rx.filter (k.covers g)).foldl (fun c x => c.ackHop g x) c) c

/-- The newest commit point that is being filled. -/
def Running.fillingPt (r : Running) : Option CommitPt :=
  match r.commits with
  | k :: _ => match k.stage with
    | .filling => some k
    | _ => none
  | [] => none

/-- COMMIT_FILL_COMPLETE (R186, R289, R312). -/
def execCommitFillComplete (q : Fin 4) (s : State) : Host.Outcome State Fault Refusal :=
  match s.chip.active q with
  | none => .next s
  | some r =>
    match r.fillingPt with
    | none => .next s
    | some k => .next (s.on fun c =>
        let c := c.setRun q (some { r with commits := r.commits.map (CommitPt.fill c.drone.now) })
        (c.raise (Fin.ofNat 128 (52 + q.val))).ackCovered r.plan.tenant k)

/-- The hops that no replay can need again are dropped. -/
def Chip.dropCovered (c : Chip) (t : Fin 16) (k : CommitPt) : Chip :=
  { c with groups := c.groups.map fun g =>
      if g.ten = t then { g with rx := g.rx.filter fun x => !k.passed g x } else g }

/-- COMMIT_SET_CONFIRMED (R289, R382): 60 µs after completion the set is the replay source. -/
def execCommitSetConfirmed (q : Fin 4) (s : State) : Host.Outcome State Fault Refusal :=
  match s.chip.active q with
  | none => .next s
  | some r =>
    let r' := r.settle s.chip.drone.now
    .next (s.on fun c =>
      let c := c.setRun q (some r')
      match r'.commits.find? fun k => k.stage = .confirmed with
      | some k => c.dropCovered r.plan.tenant k
      | none => c)

/-! ### SUBMIT and the placer -/

/-- SUBMIT (R54, R56, R181, R300, R301). -/
def execSubmit (t : Fin 16) (ring : Fin 8) (s : State) : Host.Outcome State Fault Refusal :=
  match s.chip.takeOp (.vf t) ring 0x01 3 with
  | none => .next s
  | some (e, src, c) =>
    .next (({ s with chip := c }).takeSubmit t (s.cmdBytes t (BitVec.ofNat 20 (entryAt e 16 4)) (entryAt e 20 8 % 2 ^ 48) 256)
      none src)

/-- The tenant whose job the placer works on: the jobs are taken in order (R181). -/
def Placer.binds (pl : Placer) (t : Fin 16) : Bool := decide (pl.jobs.head?.map BindJob.tenant = some t)

/-- BIND_COMPLETE (R175-R183, R197); a rebinding goes first (R181). -/
def execBindComplete (t : Fin 16) (s : State) : Host.Outcome State Fault Refusal :=
  if s.chip.placer.rebinds.isEmpty && s.chip.placer.binds t then .next s.finishBind else .next s

/-- The record of the interruption whose rebinding ends: that of the one that is over, or what is known of the one in
progress; none after the loss of an idle spare, which is no interruption (R184, R395). -/
def Running.intrRec (r : Running) : Option FaultRec :=
  match r.intr with
  | some i => some (r.recordOf i r.replayPoint)
  | none => r.faultRec

/-- The second record of an interruption, with the rebinding's stamp (R387, R395). -/
def Chip.reboundRec (c : Chip) (r : Running) : Chip :=
  match r.intrRec with
  | some f => c.hbForm 0x0060 false (c.hubSrc 0) (FaultRec.bytes { f with tRebound := c.drone.now })
  | none => c

/-- The alternates of a plan bound for the tiles that it now has (R182, R184): new ones, and whether each tile has one. -/
def Chip.rebindAlts (c : Chip) (p : Plan) : Plan :=
  { p with
    fig := { p.fig with alts := (c.schedule p c.limiter.capActive c.memObj.imb).alts }
    altsReady := p.binding.altsOk c.faults.tilesOut }

/-- The alternates of a partition are bound anew: those of its running plan, and of the plans bound for it. -/
def Chip.rebound (c : Chip) (q : Fin 4) : Chip :=
  let c := { c with placer := { c.placer with
    rebinds := c.placer.rebinds.drop 1
    bound := c.placer.bound.map fun (p : Plan) => if p.part.getD 0 = q ∧ !p.altsReady then c.rebindAlts p else p } }
  let c := match c.run q with
    | some r =>
      if r.altsReady && r.spareLost.isEmpty then c
      else (c.setRun q (some { r with plan := c.rebindAlts r.plan, altsReady := true, spareLost := [], faultRec := none })).reboundRec r
    | none => c
  c.raise 74

/-- ALTERNATE_REBIND_COMPLETE (R184, R385, R387): rebindings finish in their order; a plan that waits for its alternates
starts. -/
def execAlternateRebindComplete (q : Fin 4) (s : State) : Host.Outcome State Fault Refusal :=
  .next (if s.chip.placer.rebinds.head? = some q then (s.on fun c => c.rebound q).startWaiting q else s)

end Sys2Proof.Machine
end

