-- ==== Sys2Proof/Machine/Serve.lean ====
section
/-! DEFINITION. What a tenant's rings bring to its plans: micro-batches (R154, R157) and requests (R217,
R218). -/

namespace Sys2Proof.Machine

/-! ### MBATCH (R154) -/

/-- The learning plan that a micro-batch targets, its current step, and whether that step has begun (R154). -/
def Chip.batchPlan (c : Chip) (t : Fin 16) : Option (Plan × Nat × Bool) :=
  match (c.runsOf t).find? fun r => !r.plan.slotTable.isEmpty with
  | some r => some (r.plan, if r.livePrologue then 0 else r.liveStep.toNat, !r.livePrologue)
  | none =>
    match c.placer.bound.filter fun p => decide (p.tenant = t) && !p.slotTable.isEmpty with
    | [p] => some (p, 0, false)
    | _ => none

/-- The micro-batches of a step of a plan. -/
def Tenant.batchesAt (t : Tenant) (plan : W16) (step : Nat) : List MBatch :=
  t.mbatches.filter fun b => decide (b.plan = plan) && decide (b.step.toNat = step)

/-- The free slot with the smallest bucket of at least `len`, the lowest of equals (R154). -/
def pickSlot (buckets : List Nat) (taken : List Nat) (len : Nat) : Option Nat :=
  let free := buckets.zipIdx.filter fun x => decide (len ≤ x.1) && !taken.contains x.2
  (free.foldl (fun best x => match best with
    | none => some x
    | some b => if x.1 < b.1 then some x else some b) none).map Prod.snd

/-- The extent of a micro-batch in 2 MiB granules (R157). -/
def extentOf (len bpt : Nat) : Nat := (len * bpt + 2 ^ 21 - 1) / 2 ^ 21

/-- The checks 1 to 4 of R154: a status, or the slot. -/
def Tenant.judgeBatch (t : Tenant) (p : Plan) (cur : Nat) (begun : Bool) (step len : Nat) : Except W16 Nat :=
  let buckets := p.buckets (BitVec.ofNat 32 step)
  let there := t.batchesAt p.id step
  if step < cur ∨ (begun ∧ step = cur) ∨ cur + 4 < step then .error 0x0002
  else if len < 1 ∨ 1048576 < len ∨ buckets.foldl max 0 < len then .error 0x0010
  else match pickSlot buckets (there.map fun b => b.slot.val) len with
    | none => .error 0x0002
    | some j =>
      if p.sub.storeC.toNat < (there.map MBatch.ext).sum + extentOf len p.bpt then .error 0x0011 else .ok j

/-- Where a micro-batch's source region begins: window, byte and element size (R154, R414). A tensor that does
not resolve names a region outside the windows. -/
def Tenant.batchSource (t : Tenant) (p : Plan) (tid : BitVec 20) (base : Nat) : Fin 16 × Nat × Nat :=
  match t.ref (some p.image) tid with
  | some r => (r.win, r.byteAt base, r.fmt.bits)
  | none => (0, 2 ^ 48, 8)

/-- MBATCH (R154, R157, R300, R302). -/
def execMbatch (t : Fin 16) (ring : Fin 8) (s : State) : Host.Outcome State Fault Refusal :=
  .next (s.on fun c => c.vfOp t ring 0x02 1 fun e src c =>
    match c.batchPlan t with
    | none => c.done src 0x0002
    | some (p, cur, begun) =>
      let step := entryAt e 16 4
      let len := entryAt e 20 4
      match c.tenants[t].judgeBatch p cur begun step len with
      | .error st => c.complete src st p.id 0 0
      | .ok j =>
        let (win, off, bits) := c.tenants[t].batchSource p (BitVec.ofNat 20 (entryAt e 24 4)) (entryAt e 28 8 % 2 ^ 48)
        (c.modTenant t fun x => { x with
          mbatches := x.mbatches ++ [{ plan := p.id, step := BitVec.ofNat 32 step, slot := Fin.ofNat 64 j, len := len
                                       ext := extentOf len p.bpt, win := win, off := off, bits := bits, src := src }] }).complete
          src 0 p.id (BitVec.ofNat 32 j) 0)

/-! ### ADMIT (R217, R218) -/

/-- The plan that takes a request: bound or running, with a request table, its target named by no TURN. -/
def Chip.servingPlan (c : Chip) (t : Fin 16) : Option Plan :=
  match (c.runsOf t).find? fun r => r.plan.req.isSome && !c.turned r with
  | some r => some r.plan
  | none => c.placer.bound.find? fun p => decide (p.tenant = t) && p.req.isSome

/-- Words of a run of bytes. -/
def wordsOf (n : Nat) (bs : List Byte) : List W32 := (pieces 4 n bs).map fun b => BitVec.ofNat 32 (leNat b)

/-- The row that an admission takes from its record: columns 0-4, 6 and 8-56; TIDX 0 and HIST −1 (R217). -/
def admitRow (ws : List W32) : Vector W32 64 :=
  Vector.ofFn fun i : Fin 64 =>
    if i.val ≤ 4 ∨ i = 6 ∨ (8 ≤ i.val ∧ i.val ≤ 56) then ws.getD i.val 0
    else if 57 ≤ i.val then 0xFFFFFFFF else 0

/-- Check 3 of R218: prompt and stop parameters. -/
def admitFits (q : ReqTable) (plen : Nat) (row : Vector W32 64) : Bool :=
  let nseq := (row[17]).toNat
  let maxnew := (row[54]).toNat
  decide (1 ≤ plen) && decide (plen ≤ q.pmax) && decide ((row[8]).toNat ≤ 8) && decide (nseq ≤ 4) &&
  ((List.range nseq).all fun j =>
    let l := (row.toList.getD (18 + j) 0).toNat
    decide (1 ≤ l) && decide (l ≤ 8)) &&
  (decide (q.ctx = 0) || (decide (maxnew ≠ 0) && decide (plen + maxnew ≤ q.ctx)))

/-- `n` bytes of a tensor that a plan's command names, from an element on (R414). -/
def State.planBytes (s : State) (t : Fin 16) (p : Plan) (tid : BitVec 20) (off n : Nat) : Option (List Byte) :=
  let ten := s.chip.tenants[t]
  match ten.ref (some p.image) tid with
  | none => none
  | some r => if ten.refOk r off n then some (ten.bytes s.mem r.win (r.byteAt off) n) else none

/-- The checks of R218 in their order: a status, or the pending admission. -/
def State.judgeAdmit (s : State) (t : Fin 16) (e : Entry) (src : CmdSrc) : Except W16 PendAdm :=
  let ten := s.chip.tenants[t]
  match s.chip.servingPlan t with
  | none => .error 0x0002
  | some p =>
    match p.req with
    | none => .error 0x0002
    | some q =>
      if 4096 ≤ ten.pendAdm.length then .error 0x0002
      else match s.planBytes t p (BitVec.ofNat 20 (entryAt e 24 4)) (entryAt e 28 8 % 2 ^ 48) 256 with
        | none => .error 0x0071
        | some rec =>
          let row := admitRow (wordsOf 64 rec)
          let plen := entryAt e 48 4
          let aid := BitVec.ofNat 16 (entryAt e 52 2)
          let deadline := (row[55]).toNat + (row[56]).toNat * 2 ^ 32
          if !admitFits q plen row then .error 0x0010
          else match s.planBytes t p (BitVec.ofNat 20 (entryAt e 36 4)) (entryAt e 40 8 % 2 ^ 48) (4 * plen) with
            | none => .error 0x0071
            | some prompt =>
              if aid ≠ 0xFFFF ∧ (ten.curAdapter aid).isNone then .error 0x0013
              else if deadline ≠ 0 ∧ deadline ≤ s.chip.drone.now.toNat then .error 0x0012
              else .ok
                { tag := BitVec.ofNat 64 (entryAt e 16 8), row := row, prompt := wordsOf plen prompt, aid := aid
                  unpin := entryAt e 54 1 % 2 = 1, plan := p.id, src := src }

/-- ADMIT (R217, R218): refused, or pending until a boundary (R219). -/
def execAdmitReq (t : Fin 16) (ring : Fin 8) (s : State) : Host.Outcome State Fault Refusal :=
  .next (match s.chip.takeOp (.vf t) ring 0x03 1 with
    | none => s
    | some (e, src, c) =>
      let s := { s with chip := c }
      match s.judgeAdmit t e src with
      | .error st => s.on fun c => c.done src st
      | .ok a => s.on fun c => c.modTenant t fun x => { x with pendAdm := x.pendAdm ++ [a] })

end Sys2Proof.Machine
end

