-- ==== Sys2Proof/Machine/Epoch.lean ====
section
/-! DEFINITION. Weight and adapter epochs as commands (R198-R213): fetches and their segments, switches and
retirements. -/

namespace Sys2Proof.Machine

/-! ### Copies that end -/

/-- A pending switch whose copy has turned FREE completes, with those it replaced, and RETIREs held on it
complete with BUSY (R207, R213). -/
def Chip.loseSwitch (c : Chip) (t : Fin 16) (aid : Option W16) (epoch : W16) : Chip :=
  match c.tenants[t].switches.find? fun w => decide (w.aid = aid) && decide (w.epoch = epoch) with
  | none => c
  | some w =>
    let held := c.tenants[t].retires.filter fun x => decide (x.aid = aid) && x.held
    let c := c.modTenant t fun x => { x with
      switches := x.switches.filter fun y => y.aid ≠ aid
      retires := x.retires.filter fun y => !(decide (y.aid = aid) && y.held) }
    let c := w.replaced.foldl (fun c x => c.completeFor x.2 0x0013 0 (x.1.setWidth 32) 0) c
    let c := c.completeFor w.src 0x0013 0 (w.epoch.setWidth 32) 0
    held.foldl (fun c x => c.complete x.src 0x0002 0 (x.epoch.setWidth 32) 0) c

/-- A copy turns FREE outside a boundary: a RETIRE or a failed fetch (R204, R206, R213). -/
def Chip.freeCopy (c : Chip) (t : Fin 16) (aid : Option W16) (epoch : W16) : Chip :=
  ((c.modTenant t fun x => x.dropCopy aid epoch).loseSwitch t aid epoch).settleRetires t

/-- A fetch is over: its record goes, and its FETCH completes with a status (R204). -/
def Chip.endFetch (c : Chip) (t : Fin 16) (f : Fetch) (status : W16) : Chip :=
  let c := (c.modTenant t fun x => { x with fetches := x.fetches.filter fun y => !(decide (y.aid = f.aid) && decide (y.epoch = f.epoch)) }).complete
    f.src status 0 (f.epoch.setWidth 32) 0
  match c.tenants[t].fetches with
  | g :: _ => c.touch g.grp
  | [] => c

/-- A fetch fails: its copy turns FREE (R204). -/
def Chip.failFetch (c : Chip) (t : Fin 16) (f : Fetch) (status : W16) : Chip :=
  (c.endFetch t f status).freeCopy t f.aid f.epoch

/-- The server of a fetch can be reached: its group is set, the tenant's, not ended, and lists the rank (R279,
R288). -/
def Chip.serverThere (c : Chip) (t : Fin 16) (grp : BitVec 12) (rank : W16) : Bool :=
  match c.group grp with
  | some g => decide (g.ten = t) && !g.dead && !(g.portsTo rank.toNat).isEmpty
  | none => false

/-- Fetches at the front whose server is lost end, one after the other (R204, R279). -/
def Chip.settleFetches (c : Chip) (t : Fin 16) : Nat → Chip
  | 0 => c
  | n + 1 =>
    match c.tenants[t].fetches with
    | [] => c
    | f :: _ => if c.serverThere t f.grp f.rank then c else (c.failFetch t f 0x0040).settleFetches t n

/-- An authentication failure: a Hatband record and source 12 (R204, R305, R312, R344). -/
def Chip.authFailed (c : Chip) (kind tenant what : Nat) (who : List Byte) : Chip := (c.hbAuth kind tenant what who).raise 12

/-! ### FETCH (R199-R201, R204) -/

/-- The fields that the epoch commands share (R201). -/
def epochField (e : Entry) : W16 := BitVec.ofNat 16 (entryAt e 16 2)

/-- The set that an epoch command names: the weight set, or an adapter ID; none where KIND is reserved. -/
def epochSet (e : Entry) : Option (Option W16) :=
  match entryAt e 20 1 with
  | 0 => some none
  | 1 => some (some (BitVec.ofNat 16 (entryAt e 18 2)))
  | _ => none

/-- The element format of a tensor in the tenant's images: a running plan's, else a bound plan's (R198). -/
def Chip.tensorFmt (c : Chip) (t : Fin 16) (tid : BitVec 20) : BitVec 4 :=
  let imgs := (c.runsOf t).map (fun r => r.plan.image) ++ (c.placer.bound.filter fun p => p.tenant = t).map Plan.image
  ((imgs.findSome? fun i => i.tensor tid).map TensorEnt.fmt).getD (Config.copyFormat tid)

def fmtOf (code : BitVec 4) : Fmt := (Fmt.ofCode code).getD .u8

/-- A manifest's tensors (R201). -/
def Chip.manifest (c : Chip) (t : Fin 16) (bs : List Byte) (n : Nat) : List CopyTensor :=
  (pieces 16 n bs).map fun b =>
    let tid := BitVec.ofNat 20 (leAt b 0 4)
    { tid := tid, count := leAt b 8 8, fmt := c.tensorFmt t tid, cells := [] }

/-- The limits of R199. -/
def Chip.copyRoom (c : Chip) (t : Fin 16) (aid : Option W16) : Bool :=
  match aid with
  | none => decide ((c.tenants[t].heldEpochs none).length < 4)
  | some _ => decide (c.tenants[t].bankUsed < 256)

/-- The manifest that a FETCH names, within the tenant's windows (R201, R414). -/
def State.fetchManifest (s : State) (t : Fin 16) (e : Entry) : Option (List CopyTensor) :=
  let n := entryAt e 36 4
  if n < 1 ∨ 65536 < n then none
  else (s.cmdBytes t (BitVec.ofNat 20 (entryAt e 32 4)) 0 (16 * n)).map fun bs => s.chip.manifest t bs n

/-- The judgement of a FETCH: 0, or the status with which it completes at once (R199, R200, R204; DEDUCED for
what no rule names, notes/assumptions/36.md). -/
def State.judgeFetch (s : State) (t : Fin 16) (e : Entry) : W16 :=
  let c := s.chip
  let ten := c.tenants[t]
  match epochSet e, s.fetchManifest t e with
  | some aid, some ts =>
    if 8 ≤ entryAt e 21 1 ∨ 16 ≤ entryAt e 22 1 then 0x0002
    else match ten.keys[Fin.ofNat 8 (entryAt e 21 1)] with
      | .loaded _ =>
        if !epochOk (c.tenants[t].heldEpochs aid) (epochField e) then 0x0043
        else if !c.copyRoom t aid || !ten.copyFits (Fin.ofNat 16 (entryAt e 22 1)) ts then 0x0002
        else if !c.serverThere t (BitVec.ofNat 12 (entryAt e 28 2)) (BitVec.ofNat 16 (entryAt e 30 2)) then 0x0040
        else 0
      | _ => 0x0071
  | _, _ => 0x0002

/-- A FETCH accepted: its copy is FILLING, and SWITCH_WHEN_STAGED makes a switch pending (R204, R206, R207). -/
def Tenant.beginFetch (t : Tenant) (e : Entry) (src : CmdSrc) (aid : Option W16) (ts : List CopyTensor) : Tenant :=
  let epoch := epochField e
  let k : EpochCopy :=
    { adapter := aid.map fun a => (a, (t.freeBank).getD 0), epoch := epoch, state := .filling
      win := Fin.ofNat 16 (entryAt e 22 1), tensors := ts, retainedFor := 0 }
  let f : Fetch :=
    { aid := aid, epoch := epoch, keySlot := Fin.ofNat 8 (entryAt e 21 1), streamid := BitVec.ofNat 32 (entryAt e 24 4)
      grp := BitVec.ofNat 12 (entryAt e 28 2), rank := BitVec.ofNat 16 (entryAt e 30 2), segs := [], written := []
      total := (ts.map CopyTensor.count).sum, stream := [], src := src }
  let t := { t with copies := k :: t.copies, fetches := t.fetches ++ [f] }
  if entryAt e 23 1 % 2 = 1 ∧ !t.switchBlocks aid epoch then
    t.addSwitch { aid := aid, epoch := epoch, src := none, replaced := [] }
  else t

/-- FETCH (R199-R201, R204, R206, R207). -/
def execFetch (t : Fin 16) (ring : Fin 8) (s : State) : Host.Outcome State Fault Refusal :=
  .next (match s.chip.takeOp (.vf t) ring 0x04 1 with
    | none => s
    | some (e, src, c) =>
      let s := { s with chip := c }
      let st : W16 := s.judgeFetch t e
      if st ≠ 0 then s.on fun c => c.complete src st 0 ((epochField e).setWidth 32) 0
      else
        let ts := (s.fetchManifest t e).getD []
        s.on fun c => (c.modTenant t fun x => x.beginFetch e src ((epochSet e).getD none) ts).touch (BitVec.ofNat 12 (entryAt e 28 2)))

/-! ### Weight segments (R202, R204) -/

/-- The 32-byte header of a segment, its additional authenticated data (R202). -/
def segHeader (x : Segment) : List Byte :=
  leBytes 4 x.streamid.toNat ++ leBytes 4 x.seg.toNat ++ leBytes 2 x.epoch.toNat ++ leBytes 2 x.aid.toNat ++
  leBytes 4 x.tid.toNat ++ leBytes 8 x.offset.toNat ++ leBytes 4 x.cipher.length ++ leBytes 2 x.sflags.toNat ++ [0, 0]

/-- The stream behind a segment whose bytes it begins with: header, ciphertext and tag (R202). A segment that no DATA frame
has brought leaves it (DESIGN CHOICE, notes/assumptions/110.md). -/
def streamAfter (bs : List Byte) (x : Segment) : List Byte :=
  let front := segHeader x ++ x.cipher
  if bs.take front.length = front then bs.drop (front.length + 16) else bs

/-- The 96-bit nonce (R202). -/
def segNonce (x : Segment) : BitVec 96 := x.streamid ++ x.seg ++ x.epoch ++ x.aid

/-- The elements that plaintext bytes hold: FP4 two per byte, low nibble first (R202). -/
def plainElems (f : Fmt) (bs : List Byte) : List W32 :=
  match f with
  | .fp4 => bs.flatMap fun b => [BitVec.ofNat 32 (b.toNat % 16), BitVec.ofNat 32 (b.toNat / 16)]
  | _ => (pieces (f.bits / 8) (bs.length / (f.bits / 8)) bs).map fun b => BitVec.ofNat 32 (leNat b)

/-- The header fields of a segment agree with its fetch, and its elements are new and inside the manifest: the
number of elements (R202, R204). -/
def Fetch.accepts (f : Fetch) (k : EpochCopy) (x : Segment) : Option (Fmt × Nat) :=
  match k.tensors.find? fun y => y.tid = x.tid with
  | none => none
  | some y =>
    let fmt := fmtOf y.fmt
    let n := x.cipher.length * 8 / fmt.bits
    let off := x.offset.toNat
    let clash := f.written.any fun w => decide (w.1 = x.tid) && decide (w.2.1 < off + n) && decide (off < w.2.1 + w.2.2)
    if x.streamid = f.streamid ∧ x.epoch = f.epoch ∧ x.aid = f.aid.getD 0 ∧ !f.segs.contains x.seg ∧
        1 ≤ x.cipher.length ∧ x.cipher.length ≤ 1048576 ∧ x.cipher.length * 8 % fmt.bits = 0 ∧
        off + n ≤ y.count ∧ !clash then some (fmt, n) else none

/-- The plaintext of a segment under the fetch's key slot. -/
def Tenant.openSegment (t : Tenant) (f : Fetch) (x : Segment) : Option (List Byte) :=
  match t.keys[f.keySlot] with
  | .loaded key => Config.gcmOpen key (segNonce x) (segHeader x) x.cipher x.tag
  | _ => none

/-- A verified segment written into its copy (R202, R204). -/
def Tenant.takeSegment (t : Tenant) (f : Fetch) (x : Segment) (fmt : Fmt) (n : Nat) (plain : List Byte) : Tenant :=
  let xs := (plainElems fmt plain).take n
  let ws := xs.zipIdx.map fun y => (x.offset.toNat + y.2, y.1)
  { t with
    copies := t.copies.map fun k => if k.aid = f.aid ∧ k.epoch = f.epoch then k.putAll x.tid ws else k
    fetches := t.fetches.map fun y =>
      if y.aid = f.aid ∧ y.epoch = f.epoch then
        { y with
          segs := x.seg :: y.segs, written := (x.tid, x.offset.toNat, n) :: y.written, stream := streamAfter y.stream x }
      else y }

/-- A copy turns STAGED (R206). -/
def Tenant.stageCopy (t : Tenant) (aid : Option W16) (epoch : W16) : Tenant :=
  { t with copies := t.copies.map fun k =>
      if k.aid = aid ∧ k.epoch = epoch ∧ k.state = .filling then { k with state := .staged } else k }

/-- Every manifest element has been written. -/
def Fetch.whole (f : Fetch) : Bool := decide ((f.written.map fun w => w.2.2).sum = f.total)

/-- A segment for a fetch at the front. -/
def Chip.segment (c : Chip) (t : Fin 16) (f : Fetch) (x : Segment) (sound : Bool) : Chip :=
  let bad := (c.authFailed 1 t.val f.keySlot.val []).failFetch t f 0x0071
  match c.tenants[t].copyOf f.aid f.epoch with
  | none => c
  | some k =>
    match f.accepts k x, c.tenants[t].openSegment f x with
    | some (fmt, n), some plain =>
      let c := (c.modTenant t fun y => y.takeSegment f x fmt n plain).touch f.grp
      if !sound then c.failFetch t f 0x0030 else
      match c.tenants[t].fetches with
      | g :: _ => if g.whole then (c.modTenant t fun y => y.stageCopy f.aid f.epoch).endFetch t g 0 else c
      | [] => c
    | _, _ => bad

/-- WEIGHT_SEGMENT_RECEIVE (R202, R204): fetches run one at a time, the front one, in the slots of the fetch share. -/
def execWeightSegmentReceive (t : Fin 16) (seg : SegIn) (s : State) : Host.Outcome State Fault Refusal :=
  .next (s.on fun c =>
    match c.tenants[t].fetches with
    | [] => c
    | f :: _ => if c.fetchMoves t then (c.segment t f seg.seg seg.sound).settleFetches t 256 else c)

/-! ### SWITCH and RETIRE (R207, R213) -/

/-- SWITCH (R207). -/
def execSwitch (t : Fin 16) (ring : Fin 8) (s : State) : Host.Outcome State Fault Refusal :=
  .next (s.on fun c => c.vfOp t ring 0x05 1 fun e src c =>
    let epoch := epochField e
    let fin := fun (st : W16) => c.complete src st 0 (epoch.setWidth 32) 0
    let ten := c.tenants[t]
    match epochSet e with
    | none => fin 0x0002
    | some aid =>
      match ten.copyOf aid epoch with
      | none => fin 0x0013
      | some k =>
        match k.state with
        | .current => if ten.switches.any fun w => w.aid = aid then fin 0x0043 else fin 0
        | .retained => fin 0x0043
        | _ =>
          if ten.switchBlocks aid epoch then fin 0x0043
          else c.modTenant t fun x => x.addSwitch { aid := aid, epoch := epoch, src := some src, replaced := [] })

/-- The fetch that fills a copy, if one does. -/
def Tenant.fetchOf (t : Tenant) (aid : Option W16) (epoch : W16) : Option Fetch :=
  t.fetches.find? fun f => decide (f.aid = aid) && decide (f.epoch = epoch)

/-- RETIRE (R204, R213). -/
def execRetire (t : Fin 16) (ring : Fin 8) (s : State) : Host.Outcome State Fault Refusal :=
  .next (s.on fun c => c.vfOp t ring 0x06 1 fun e src c =>
    let epoch := epochField e
    let fin := fun (c : Chip) (st : W16) => c.complete src st 0 (epoch.setWidth 32) 0
    let ten := c.tenants[t]
    match epochSet e with
    | none => fin c 0x0002
    | some aid =>
      match ten.copyOf aid epoch with
      | none => fin c 0x0013
      | some k =>
        let wait := fun (held : Bool) => c.modTenant t fun x =>
          { x with retires := x.retires ++ [{ aid := aid, epoch := epoch, src := src, held := held }] }
        match k.state with
        | .filling =>
          match ten.fetchOf aid epoch with
          | some f => fin ((c.failFetch t f 0x0013).settleFetches t 256) 0
          | none => fin (c.freeCopy t aid epoch) 0
        | .staged => fin (c.freeCopy t aid epoch) 0
        | .retained => wait false
        | .current => if ten.switches.any fun w => w.aid = aid then wait true else fin c 0x0002)

end Sys2Proof.Machine
end

