-- ==== Sys2Proof/Machine/Tenant.lean ====
section
/-! DEFINITION. Tenants as commands (R281, R300, R332-R347, R390-R393): groups, keys and attestation, saving
and restoring, releasing a plan, TENANT_SET and the tenant reset. -/

namespace Sys2Proof.Machine

/-! ### GROUP (R281) -/

/-- A group record of 80 bytes (R281). -/
structure GroupRec where
  grp : BitVec 12
  ten : Nat
  npeer : Nat
  g : Nat
  rank : Nat
  next : W16
  prev : W16
  peers : List (W16 × W16)

def GroupRec.read (b : List Byte) : GroupRec :=
  { grp := BitVec.ofNat 12 (leAt b 0 2), ten := leAt b 2 1, npeer := leAt b 3 1, g := leAt b 4 4, rank := leAt b 8 2
    next := BitVec.ofNat 16 (leAt b 10 2), prev := BitVec.ofNat 16 (leAt b 12 2)
    peers := ((List.range (min 16 (leAt b 3 1))).map fun k =>
      (BitVec.ofNat 16 (leAt b (16 + 4 * k) 2), BitVec.ofNat 16 (leAt b (18 + 4 * k) 2))) }

/-- The ports of a mask are UP and their partners share one SERIAL. -/
def Chip.onePartner (c : Chip) (m : W16) : Bool :=
  let ps := maskPorts m
  (ps.all fun p => decide (c.ports[p].state = .up)) &&
  decide ((ps.map fun p => c.ports[p].peer.map fun h => h.serial).eraseDups.length ≤ 1)

/-- The conditions of R281 (DEDUCED for TEN and for shared ports, notes/assumptions/38.md). -/
def Chip.groupOk (c : Chip) (t : Fin 16) (r : GroupRec) : Bool :=
  decide (r.ten = t.val) && decide (r.npeer ≤ 16) && decide (1 ≤ r.g) && decide (r.g ≤ 65536) && decide (r.rank < r.g) &&
  (decide (r.g = 1) || (decide (r.next ≠ 0) && decide (r.prev ≠ 0) && c.onePartner r.next && c.onePartner r.prev &&
    (decide (r.g = 2) || decide (r.next &&& r.prev = 0)))) &&
  (c.groups.all fun g => decide (g.grp ≠ r.grp) || decide (g.ten = t))

/-- A group as its record sets it: SQN 0 (R281). -/
def GroupRec.group (r : GroupRec) (t : Fin 16) : Group :=
  { grp := r.grp, ten := t, peers := r.peers, g := r.g, rank := r.rank, next := r.next, prev := r.prev, sqn := 0
    dead := false, rx := [], retained := [], moved := 0 }

/-- GROUP (R281, R300). -/
def execGroup (t : Fin 16) (ring : Fin 8) (s : State) : Host.Outcome State Fault Refusal :=
  .next (match s.chip.takeOp (.vf t) ring 0x07 1 with
    | none => s
    | some (e, src, c) =>
      let s := { s with chip := c }
      match s.cmdBytes t (BitVec.ofNat 20 (entryAt e 16 4)) (entryAt e 20 8 % 2 ^ 48) 80 with
      | none => s.on fun c => c.done src 0x0002
      | some b =>
        let r := GroupRec.read b
        if c.groupOk t r then
          s.on fun c => ({ c with groups := (c.groups.filter fun (g : Group) => decide (g.grp ≠ r.grp)) ++ [r.group t] }).complete
            src 0 0 (r.grp.setWidth 32) 0
        else s.on fun c => c.complete src 0x0002 0 (r.grp.setWidth 32) 0)

/-! ### KEYLOAD (R343-R347) -/

/-- A command of a tenant's ring that acts only where byte 16 holds its function. -/
def State.keyOp (s : State) (t : Fin 16) (ring : Fin 8) (fn : Nat) (k : Entry → CmdSrc → State → State) : State :=
  match s.chip.takeOp (.vf t) ring 0x08 1 with
  | none => s
  | some (e, src, c) => if entryAt e 16 1 = fn then k e src { s with chip := c } else s

/-- The region of `n` bytes that a KEYLOAD names: window and byte offset (R343, R414). -/
def Chip.cmdRegion (c : Chip) (t : Fin 16) (tid : BitVec 20) (off n : Nat) : Option (Fin 16 × Nat) :=
  match c.cmdRef t tid with
  | none => none
  | some r => if c.tenants[t].refOk r off n then some (r.win, r.byteAt off) else none

def keyTid (e : Entry) : BitVec 20 := BitVec.ofNat 20 (entryAt e 20 4)
def keyOff (e : Entry) : Nat := entryAt e 24 8 % 2 ^ 48

/-- The length of an attestation report (R345). -/
def reportLen : Nat := 18864

/-- KEYLOAD ATTEST (R344): queued, served one at a time. -/
def execKeyloadAttest (t : Fin 16) (ring : Fin 8) (s : State) : Host.Outcome State Fault Refusal :=
  .next (s.keyOp t ring 0 fun e src s =>
    if 8 ≤ entryAt e 17 1 then s.on fun c => c.done src 0x0002
    else
      let slot := Fin.ofNat 8 (entryAt e 17 1)
      match s.chip.tenants[t].keys[slot] with
      | .loaded _ => s.on fun c => c.done src 0x0002
      | _ =>
        match s.chip.cmdRegion t (keyTid e) (keyOff e) reportLen with
        | none => s.on fun c => c.done src 0x0071
        | some (win, off) => s.on fun c => { c with
            attests := c.attests ++ [{ tenant := t, slot := slot, win := win, off := off
                                       nonce := BitVec.ofNat 256 (entryAt e 32 32), src := src }] })

/-- LSTATE (R352). -/
def Chip.lstate (c : Chip) : W16 :=
  BitVec.ofNat 16 ((if c.gate.operator.isSome then 1 else 0) + (if c.gate.service.isSome then 2 else 0) +
    (if c.gate.vendor.isSome then 4 else 0) + (if 5 ≤ c.mram.failCount.toNat then 8 else 0) +
    (if c.gate.debugPort then 16 else 0))

/-- IDDIG (R341). -/
def Chip.idDig (c : Chip) : BitVec 384 := Config.sha384 c.mram.idCert

/-- CFGDIG (R341): over every signed configuration record. -/
def Chip.cfgDig (c : Chip) : BitVec 384 := Config.sha384 c.mram.cfgRecs.flatten

/-- The body of a report, bytes 0-255 (R345). -/
def Chip.reportBody (c : Chip) (j : AttestJob) : List Byte :=
  leBytes 4 1 ++ [BitVec.ofNat 8 j.tenant.val, BitVec.ofNat 8 j.slot.val, c.mram.hwgen, c.mram.keyIndex] ++
  leBytes 8 c.mram.serial.toNat ++ leBytes 4 c.boot.fwRel.toNat ++ leBytes 2 (if c.mram.mc64 then 64 else 56) ++
  leBytes 2 c.lstate.toNat ++ leBytes 8 c.drone.now.toNat ++ leBytes 32 j.nonce.toNat ++
  leBytes 48 c.boot.fwDig.toNat ++ leBytes 48 c.cfgDig.toNat ++ leBytes 48 Config.romDig.toNat ++
  leBytes 48 c.idDig.toNat

/-- A report's bytes under a transport pair (R345): body, transport keys, digest, identity signatures. -/
def Chip.reportBytes (c : Chip) (j : AttestJob) (pair : Nat) : List Byte :=
  let sized := fun (n : Nat) (bs : List Byte) => (List.range n).map fun i => bs.getD i 0
  let front := c.reportBody j ++ sized 1952 (Config.transportKeys pair)
  let digest := Config.sha384 front
  front ++ leBytes 48 digest.toNat ++ sized 16608 (Config.identitySigs c.mram.serial digest)

/-- Bytes written into a tenant's window by Chanter. -/
def State.writeWin (s : State) (t : Fin 16) (w : Fin 16) (off : Nat) (bs : List Byte) : State :=
  { s with mem := s.mem.applyAll (s.chip.tenants[t].byteWrites w off bs) }

def Tenant.setKey (t : Tenant) (i : Fin 8) (k : KeySlot) : Tenant := { t with keys := t.keys.set i k }

/-- The front ATTEST has its report written (R344, R345): a fresh transport pair, the slot ARMED. -/
def execAttestReportWritten (s : State) : Host.Outcome State Fault Refusal :=
  match s.chip.attests with
  | [] => .next s
  | j :: js =>
    let s := s.on fun c => { c with attests := js }
    match s.chip.tenants[j.tenant].keys[j.slot] with
    | .loaded _ => .next (s.on fun c => c.done j.src 0x0002)
    | _ =>
      let pair := s.chip.drawn
      let bytes := s.chip.reportBytes j pair
      .next ((s.writeWin j.tenant j.win j.off bytes).on fun c =>
        (({ c with drawn := c.drawn + 1 }).modTenant j.tenant fun t => t.setKey j.slot (.armed pair j.nonce)).done j.src 0)

/-- A wrap names the slot and the module (R347). -/
def Chip.wrapFits (c : Chip) (t : Fin 16) (slot : Nat) (w : List Byte) : Bool :=
  decide (leAt w 0 4 = 1) && decide (leAt w 4 1 = t.val) && decide (leAt w 5 1 = slot) &&
  decide (leAt w 8 8 = c.mram.serial.toNat)

/-- The key in a wrap (R347): KEK from the report's NONCE, s1, s2 and bytes 0-31; none where any part fails. -/
def unwrapKey (pair : Nat) (nonce : BitVec 256) (w : List Byte) : Option (BitVec 256) :=
  let part := fun (a n : Nat) => (w.drop a).take n
  match Config.oaepOpen pair (part 32 384), Config.kemOpen pair (part 416 1568) with
  | some s1, some s2 =>
    let kek := Config.hkdf (leBytes 32 nonce.toNat) (s1 ++ s2) (part 0 32)
    (Config.gcmOpen kek 0 (part 0 32) (part 1984 32) (BitVec.ofNat 128 (leAt w 2016 16))).map fun k =>
      BitVec.ofNat 256 (leAt k 0 32)
  | _, _ => none

/-- KEYLOAD LOAD (R344, R347). -/
def execKeyloadLoad (t : Fin 16) (ring : Fin 8) (s : State) : Host.Outcome State Fault Refusal :=
  .next (s.keyOp t ring 1 fun e src s =>
    if 8 ≤ entryAt e 17 1 then s.on fun c => c.done src 0x0002
    else
      let slot := Fin.ofNat 8 (entryAt e 17 1)
      match s.chip.tenants[t].keys[slot], s.cmdBytes t (keyTid e) (keyOff e) 2032 with
      | .armed pair nonce, some w =>
        match if s.chip.wrapFits t slot.val w then unwrapKey pair nonce w else none with
        | some key => s.on fun c => (c.modTenant t fun x => x.setKey slot (.loaded key)).done src 0
        | none => s.on fun c =>
            ((c.modTenant t fun x => x.setKey slot .empty).authFailed 3 t.val slot.val []).done src 0x0071
      | _, _ => s.on fun c => c.done src 0x0071)

/-- KEYLOAD CLEAR (R344). -/
def execKeyloadClear (t : Fin 16) (ring : Fin 8) (s : State) : Host.Outcome State Fault Refusal :=
  .next (s.keyOp t ring 2 fun e src s =>
    if 8 ≤ entryAt e 17 1 then s.on fun c => c.done src 0x0002
    else
      let slot := Fin.ofNat 8 (entryAt e 17 1)
      if s.chip.tenants[t].fetches.any fun f => f.keySlot = slot then s.on fun c => c.done src 0x0002
      else s.on fun c => (c.modTenant t fun x => x.setKey slot .empty).done src 0)

/-! ### SAVE and RESTORE (R390-R393) -/

/-- The context image in a run of bytes that this module has not written itself (FREE VALUE,
notes/assumptions/5.md): none where it is no context image. -/
opaque Config.contextOf (bytes : List Byte) : Option Saved

def Tenant.addSave (t : Tenant) (v : PendSave) : Tenant := { t with saves := t.saves ++ [v] }

/-- SAVE (R390, R391). -/
def execSave (t : Fin 16) (ring : Fin 8) (s : State) : Host.Outcome State Fault Refusal :=
  .next (s.on fun c => c.vfOp t ring 0x09 1 fun e src c =>
    let off := entryAt e 20 8 % 2 ^ 48
    match c.cmdRef t (BitVec.ofNat 20 (entryAt e 16 4)) with
    | none => c.done src 0x0002
    | some r =>
      let v : PendSave :=
        { off := r.byteAt off, win := r.win, len := min (entryAt e 28 8) (r.fmt.bytes r.count - off * r.fmt.bits / 8)
          endPlan := entryAt e 48 1 % 2 = 1, src := src, taken := none }
      match c.tenants[t].fstate with
      | .idle => c.done src 0x0002
      | .running => c.modTenant t fun x => x.addSave v
      | .faulted =>
        match c.tenants[t].faulted with
        | some x => c.modTenant t fun y => y.addSave { v with taken := some x }
        | none => c.done src 0x0002
      | .paused =>
        match c.runOf t with
        | some r => (({ c with drawn := c.drawn + 1 }).modTenant t fun y => y.addSave { v with taken := some (c.saveOf r true) })
        | none => c.done src 0x0002)

/-- A SAVE has ended: a partition held for it goes on (R391). -/
def Chip.saveOver (c : Chip) (t : Fin 16) : Chip :=
  if c.tenants[t].saves.any fun v => v.taken.isSome then c
  else (c.partsOf t).foldl (fun c p => c.unhold p .saving) c

/-- SAVE_IMAGE_WRITTEN (R391, R392). -/
def execSaveImageWritten (t : Fin 16) (s : State) : Host.Outcome State Fault Refusal :=
  match s.chip.tenants[t].saves.find? fun v => v.taken.isSome with
  | none => .next s
  | some v =>
    match v.taken with
    | none => .next s
    | some x =>
      let bytes := Config.contextBytes x.tag
      let s := s.on fun c => c.modTenant t fun y => { y with saves := y.saves.erase v }
      if v.len < bytes.length ∨ !s.chip.tenants[t].inWin v.win v.off bytes.length then
        .next (s.on fun c => (c.saveOver t).complete v.src 0x0002 x.plan x.step (BitVec.ofNat 64 bytes.length))
      else
        .next ((s.writeWin t v.win v.off bytes).on fun c =>
          ((c.modTenant t fun y => { y with
            images := (v.win, v.off, x) :: y.images.filter fun z => !(decide (z.1 = v.win) && decide (z.2.1 = v.off)) }).saveOver
              t).complete v.src 0 x.plan x.step (BitVec.ofNat 64 bytes.length))

/-- The context image that stands at a place: one that the module wrote, as far as its bytes still stand
anywhere, or one from elsewhere (R391-R393). -/
def State.contextAt (s : State) (t : Fin 16) (tid : BitVec 20) (off : Nat) : Option Saved :=
  match s.chip.cmdRef t tid with
  | none => none
  | some r =>
    let ten := s.chip.tenants[t]
    let start := r.byteAt off
    let known := s.chip.tenants.toList.flatMap fun x => x.images.map fun z => z.2.2
    match known.find? fun x =>
      let b := Config.contextBytes x.tag
      decide (0 < b.length) && ten.refOk r off b.length && decide (ten.bytes s.mem r.win start b.length = b) with
    | some x => some x
    | none => Config.contextOf (ten.bytes s.mem r.win start (r.fmt.bytes r.count - off * r.fmt.bits / 8))

/-- What a restored context does not keep: a FILLING copy is saved as FREE (R392). -/
def Saved.loaded (x : Saved) : Saved := { x with copies := x.copies.filter fun k => decide (k.state ≠ .filling) }

/-- RESTORE (R390, R393). -/
def execRestore (t : Fin 16) (ring : Fin 8) (s : State) : Host.Outcome State Fault Refusal :=
  .next (match s.chip.takeOp (.vf t) ring 0x0A 1 with
    | none => s
    | some (e, src, c) =>
      let s := { s with chip := c }
      if c.holdsPlan t none || c.placer.jobs.any fun j => j.tenant = t then s.on fun c => c.done src 0x0002
      else match s.contextAt t (BitVec.ofNat 20 (entryAt e 16 4)) (entryAt e 20 8 % 2 ^ 48) with
        | none => s.on fun c => c.done src 0x0043
        | some x =>
          s.takeSubmit t (s.cmdBytes t (BitVec.ofNat 20 (entryAt e 36 4)) (entryAt e 40 8 % 2 ^ 48) 256) (some x.loaded) src)

/-! ### RELEASE (R300) -/

/-- A TURN names the plan. -/
def Chip.turnNames (c : Chip) (id : W16) : Bool :=
  allParts.any fun p =>
    (match c.parts[p].waiting with
      | some x => decide (x.1 = id)
      | none => false) ||
    match c.run p with
    | some r => match r.turn with
      | some x => decide (x.1 = id)
      | none => false
    | none => false

/-- A bound plan goes, with what was admitted for it (R158, R222, R300). -/
def Chip.dropBound (c : Chip) (p : Plan) : Chip :=
  let c := { c with placer := { c.placer with bound := c.placer.bound.filter fun x => x.id ≠ p.id } }
  let c := c.loseBatches p.tenant p.id 0 0x0002
  if p.req.isSome then c.failAdmissions p.tenant 0x0002 else c

/-- RELEASE (R175, R300). -/
def execRelease (t : Fin 16) (ring : Fin 8) (s : State) : Host.Outcome State Fault Refusal :=
  .next (s.on fun c => c.vfOp t ring 0x0B 1 fun e src c =>
    let id := BitVec.ofNat 16 (entryAt e 16 2)
    match c.placer.bound.find? fun p => decide (p.id = id) && decide (p.tenant = t) with
    | none => c.complete src 0x0002 id 0 0
    | some p => if c.turnNames id then c.complete src 0x0002 id 0 0 else (c.dropBound p).complete src 0 id 0 0)

/-! ### TENANT_SET (R333, R334) -/

/-- Memory of the pool that a plan reserves: the placer's choice (FREE VALUE, notes/assumptions/6.md). -/
opaque Config.planReserves (plan : W16) (tier1 : Bool) (base limit : Nat) : Bool

/-- A command of PF ring 0 with the sub-operation of TENANT_SET in byte 17. -/
def Chip.tenantOp (c : Chip) (op : Nat) (k : Entry → CmdSrc → Chip → Chip) : Chip :=
  match c.takeOp .pf 0 0x84 1 with
  | none => c
  | some (e, src, c') =>
    if entryAt e 17 1 ≠ op then c
    else if c'.driverAway then c'.done src 0x0041
    else if 16 ≤ entryAt e 16 1 ∨ entryAt e 18 6 ≠ 0 ∨ entryAt e 32 32 ≠ 0 then c'.done src 0x0002
    else k e src c'

def opTenant (e : Entry) : Fin 16 := Fin.ofNat 16 (entryAt e 16 1)

/-- The tenant record lies in the host region (DEDUCED, notes/assumptions/39.md). -/
def Chip.recordThere (c : Chip) (e : Entry) : Bool :=
  decide (c.hostBase ≤ entryAt e 24 8) && decide (entryAt e 24 8 + 512 ≤ tier2Bytes)

/-- The tenant holds what CONFIGURE and DESTROY may not take away (R334). -/
def Chip.occupied (c : Chip) (t : Fin 16) : Bool :=
  let x := c.tenants[t]
  c.holdsPlan t none || !x.pendAdm.isEmpty || !x.mbatches.isEmpty || !x.copies.isEmpty || !x.fetches.isEmpty ||
  x.keys.any fun k => match k with
    | .loaded _ => true
    | _ => false

/-- A used window entry lies as R333 and R334 ask. -/
def Chip.winOk (c : Chip) (w : WinRec) : Bool :=
  decide (w.base.toNat % 2 ^ 21 = 0) && decide (w.limit.toNat % 2 ^ 21 = 0) && decide (w.base.toNat < w.limit.toNat) &&
  (decide (w.tier = 1) && decide (w.limit.toNat ≤ tier1Bytes) ||
   decide (w.tier = 2) && decide (w.limit.toNat ≤ c.hostBase)) &&
  !((c.placer.bound.map Plan.id ++ allParts.filterMap fun p => (c.run p).map fun r => r.plan.id).any fun id =>
    Config.planReserves id (decide (w.tier = 1)) w.base.toNat w.limit.toNat)

/-- Byte ranges that meet. -/
def meets (a b c d : Nat) : Bool := decide (a < d) && decide (c < b)

def winMeets (a b : WinRec) : Bool :=
  decide (a.tier = b.tier) && meets a.base.toNat a.limit.toNat b.base.toNat b.limit.toNat

/-- A used entry meets a window of another tenant. -/
def winClashes (a : WinRec) (t : Tenant) : Bool :=
  t.windows.toList.any fun w => decide (w.tier = some (decide (a.tier = 1))) &&
    meets a.base.toNat a.limit.toNat w.base.toNat w.limit.toNat

/-- The entries of a record that are used. -/
def usedWins (ws : List WinRec) : List WinRec := ws.filter fun w => w.tier ≠ 0

/-- The conditions of CONFIGURE (R334). -/
def Chip.configOk (c : Chip) (t : Fin 16) (ws : List WinRec) : Bool :=
  let used := usedWins ws
  decide (ws.length = 16) && (ws.all fun w => !w.rsv) && used.all c.winOk &&
  decide (used.Pairwise fun a b => winMeets a b = false) &&
  used.all fun w => allTenants.all fun u => decide (u = t) || !winClashes w c.tenants[u]

/-- A window from its entry; one that stands unchanged keeps the generation that it is written under (R191). -/
def Chip.makeWin (c : Chip) (old : Window) (w : WinRec) : Window :=
  if w.tier = 0 then Window.unused
  else
    let tier := some (decide (w.tier = 1))
    { tier := tier, base := w.base, limit := w.limit, grant := w.grant
      kgen := if old.tier = tier ∧ old.base = w.base ∧ old.limit = w.limit then old.kgen else c.memObj.kgen }

def Chip.makeWins (c : Chip) (t : Fin 16) (ws : List WinRec) : Vector Window 16 :=
  Vector.ofFn fun i : Fin 16 => match ws[i.val]? with
    | some w => c.makeWin c.tenants[t].windows[i] w
    | none => Window.unused

/-- Memory that new windows cover and that none of the old ones covered is zero (R334). -/
def Mem.clearNew (m : Mem) (old new : Vector Window 16) : Mem :=
  let keep := fun (t1 : Bool) (x : Host.Cell) =>
    (old.toList.any fun w => w.covers t1 x.1) || !(new.toList.any fun w => w.covers t1 x.1)
  let keepWord := fun (t1 : Bool) (x : Nat × BitVec 288) => keep t1 (32 * x.1, 0)
  { m with
    tier1 := m.tier1.filter (keep true), tier2 := m.tier2.filter (keep false)
    flaw1 := m.flaw1.filter (keepWord true), flaw2 := m.flaw2.filter (keepWord false) }

/-- TENANT_SET CONFIGURE (R333, R334). -/
def execTenantSetConfigure (wins : List WinRec) (s : State) : Host.Outcome State Fault Refusal :=
  match s.chip.takeOp .pf 0 0x84 1 with
  | none => .next s
  | some (e, _, _) =>
    let t := opTenant e
    let new := s.chip.makeWins t wins
    let ok := s.chip.recordThere e && !s.chip.occupied t && s.chip.configOk t wins
    let went := decide (entryAt e 17 1 = 0) && !s.chip.driverAway && decide (entryAt e 16 1 < 16) &&
      decide (entryAt e 18 6 = 0) && decide (entryAt e 32 32 = 0) && ok
    let s' := s.on fun c => c.tenantOp 0 fun _ src c =>
      if ok then (c.modTenant t fun x => { x with windows := new }).done src 0 else c.done src 0x0002
    .next (if went then { s' with mem := s.mem.clearNew s.chip.tenants[t].windows new } else s')

/-- TENANT_SET DESTROY (R334). -/
def execTenantSetDestroy (s : State) : Host.Outcome State Fault Refusal :=
  .next (s.on fun c => c.tenantOp 1 fun e src c =>
    let t := opTenant e
    if c.occupied t then c.done src 0x0002
    else
      let c := c.modTenant t fun x => { x with
        windows := Vector.replicate 16 Window.unused, layers := [], scale := scaleReset, images := [] }
      (c.setFState t .idle).done src 0)

/-- A plan reads a window of a tenant through a KIND 1 entry. -/
def Plan.reads (p : Plan) (t w : Fin 16) : Bool :=
  p.turnMap.any fun e => decide (e.kind = 1) && decide (e.sten = t) && match e.src with
    | .home x _ => decide (x = w)
    | .weights x => decide (x = w)
    | .bank x _ => decide (x = w)

/-- Every bound or running plan. -/
def Chip.plans (c : Chip) : List Plan :=
  c.placer.bound ++ allParts.filterMap fun p => (c.run p).map fun r => r.plan

/-- A GRANT entry matches the window that stands, and takes no grant from a plan that reads it (R334). -/
def Chip.grantOk (c : Chip) (t w : Fin 16) (n : WinRec) : Bool :=
  let x := c.tenants[t].windows[w]
  match x.tier with
  | none => decide (n.tier = 0)
  | some t1 =>
    decide (n.tier = if t1 then 1 else 2) && decide (n.base = x.base) && decide (n.limit = x.limit) &&
    c.plans.all fun p => !(x.grant.getLsbD p.tenant.val && !n.grant.getLsbD p.tenant.val && p.reads t w)

/-- TENANT_SET GRANT (R333, R334, R336). -/
def execTenantSetGrant (wins : List WinRec) (s : State) : Host.Outcome State Fault Refusal :=
  .next (s.on fun c => c.tenantOp 2 fun e src c =>
    let t := opTenant e
    if c.recordThere e && decide (wins.length = 16) && wins.zipIdx.all fun x => c.grantOk t (Fin.ofNat 16 x.2) x.1 then
      (c.modTenant t fun x => { x with
        windows := Vector.ofFn fun i : Fin 16 => match x.windows[i].tier, wins[i.val]? with
          | some _, some w => { x.windows[i] with grant := w.grant }
          | _, _ => x.windows[i] }).done src 0
    else c.done src 0x0002)

/-! ### The tenant reset (R337) -/

/-- TURNs that name a plan of the tenant complete with BUSY (DEDUCED, notes/assumptions/40.md). -/
def Chip.dropTurns (c : Chip) (ids : List W16) : Chip :=
  allParts.foldl (fun c p =>
    let gone := fun (x : Option (W16 × CmdSrc)) => match x with
      | some y => if ids.contains y.1 then some y else none
      | none => none
    let c := match gone c.parts[p].waiting with
      | some y => (c.modPart p fun x => { x with waiting := none }).complete y.2 0x0002 y.1 0 0
      | none => c
    match (c.run p).bind fun r => gone r.turn with
    | some y => (c.modRun p fun r => { r with turn := none }).complete y.2 0x0002 y.1 0 0
    | none => c) c

/-- The tenant's groups go; partners of a collective in progress are told (R280, R337). -/
def Chip.dropGroups (c : Chip) (t : Fin 16) : Chip :=
  let c := (c.partsOf t).foldl (fun c p => c.abortRun 0x0040 p) c
  let gone := (c.groups.filter fun g => g.ten = t).map Group.grp
  let c := { c with groups := c.groups.filter fun g => g.ten ≠ t }
  gone.foldl Chip.dropWaiting c

/-- TENANT_RESET (R337): a function-level reset of the tenant's VF. -/
def execTenantReset (t : Fin 16) (s : State) : Host.Outcome State Fault Refusal :=
  let ps := s.chip.partsOf t
  let s := s.on fun c =>
    let c := c.dropGroups t
    let ids := (c.placer.bound.filter fun p => p.tenant = t).map Plan.id
    let c := c.dropTurns ids
    let c := { c with
      placer := { c.placer with
        bound := c.placer.bound.filter fun p => p.tenant ≠ t
        jobs := c.placer.jobs.filter fun j => j.tenant ≠ t
        rebinds := c.placer.rebinds.filter fun p => !ps.contains p }
      attests := c.attests.filter fun j => j.tenant ≠ t }
    let c := c.modTenant t fun x => { Tenant.reset with
      windows := x.windows, images := x.images, used := x.used, fstate := if c.driverAway then .paused else .idle }
    (c.modFunc (.vf t) fun _ => Func.reset).beginJob
  .next (ps.foldl State.freePart s)

end Sys2Proof.Machine
end

