-- ==== Sys2Proof/Machine/Reset.lean ====
section
/-! DEFINITION. What every reset shares (R261, R277, R294, R296, R340, R355, R367, R372-R378, R394, R405-R412): the
numbers of the states, HEARTBEAT, Hatband's areas, GOING_DOWN, and the module before and after a reset. -/

namespace Sys2Proof.Machine

/-! ### Numbers of states -/

def BootState.num : BootState → Nat
  | .loadWait => 1
  | .verify => 2
  | .selftest => 3
  | .ready => 4
  | .failed => 5

def LimState.num : LimState → Nat
  | .normal => 0
  | .emergency => 1
  | .tripped => 2

def DrvState.num : DrvState → Nat
  | .never => 0
  | .attached => 1
  | .absent => 2
  | .detached => 3

def DroneState.num : DroneState → Nat
  | .free => 0
  | .acquire => 1
  | .locked => 2
  | .holdover => 3

def PortState.num : PortState → Nat
  | .disabled => 0
  | .down => 1
  | .hello => 2
  | .up => 3
  | .mismatch => 4

/-- A row's place in R323's table, from the top. -/
def limRowNum : LimRow → Nat
  | .tileTemp => 0
  | .hubTemp => 1
  | .hbmTemp => 2
  | .lpddrTemp => 3
  | .hostTemp => 4
  | .dieCurrent => 5
  | .inPower1ms => 6
  | .inPower100us => 7
  | .inCurrent => 8
  | .vin => 9
  | .vislDroop => 10
  | .vislOver => 11

/-- LIM_CAUSE (R331). -/
def Limiter.causeMask (l : Limiter) : W16 :=
  l.causes.foldl (fun m x => m ||| BitVec.ofNat 16 (2 ^ limRowNum x.1)) 0

/-- The module runs: no reset, hold or supply fault is under way. -/
def Chip.up (c : Chip) : Bool := decide (c.power = .running)

/-- BOOT_STATE as it reads: 1 while a reset or a hold is under way (R298, R353). -/
def Chip.bootNow (c : Chip) : BootState := if c.up then c.boot.state else .loadWait

/-- The firmware runs (R353). -/
def Chip.served (c : Chip) : Bool := decide (c.bootNow = .selftest) || decide (c.bootNow = .ready)

/-- The hub die has power: the management agent serves (R353, R405). -/
def Chip.hubPower (c : Chip) : Bool := !(decide (c.power = .off) || decide (c.power = .locked))

/-! ### Hatband's areas (R372, R375-R378) -/

/-- The newest `n` of a list whose newest stands last. -/
def newestOf {α : Type} (n : Nat) (l : List α) : List α := l.drop (l.length - n)

/-- A record enters its area (R372). -/
def Hatband.store (h : Hatband) (x : HbStored) : Hatband :=
  if x.hb.critical then { h with crit := newestOf 16384 (h.crit ++ [x]) }
  else { h with gen := newestOf 163840 (h.gen ++ [x]) }

/-- The record at the front of the queue is committed; the first room after drops forms a DROPPED record (R375). -/
def Chip.hbCommit (c : Chip) : Chip :=
  match c.hatband.queue with
  | [] => c
  | r :: rs =>
    let c := { c with hatband := Hatband.store { c.hatband with queue := rs } ⟨r, false, false⟩ }
    match c.hatband.dropsNow with
    | some (n, a, b) =>
      if rs.length < 128 then
        { c with hatband := { c.hatband with dropsNow := none } }.hbForm 0x00F0 true (c.hubSrc 8)
          (leBytes 4 n ++ leBytes 8 a.toNat ++ leBytes 8 b.toNat)
      else c
    | none => c

/-- The whole queue is committed (R376). -/
def Chip.hbCommitAll (c : Chip) : Chip :=
  (List.range (c.hatband.queue.length + 1)).foldl (fun c _ => c.hbCommit) c

/-- The newest record of an area whose CHK and codeword are sound. -/
def newestSound (l : List HbStored) : Option HbRec := (l.reverse.find? fun x => !x.torn && !x.bad).map HbStored.hb

/-- The newest valid record of both areas. -/
def Hatband.newest (h : Hatband) : Option HbRec :=
  match newestSound h.gen, newestSound h.crit with
  | some a, some b => if a.hseq.toNat < b.hseq.toNat then some b else some a
  | some a, none => some a
  | none, x => x

/-- HB_LAST: the newest HSEQ committed (R378). -/
def Hatband.lastSeq (h : Hatband) : W64 :=
  let top := fun (l : List HbStored) => (l.getLast?.map fun x => x.hb.hseq.toNat).getD 0
  BitVec.ofNat 64 (max (top h.gen) (top h.crit))

/-- The torn records that a start counts: the newest of each area (R378). -/
def Hatband.tornNewest (h : Hatband) : Nat :=
  ([h.gen.getLast?, h.crit.getLast?].filter fun x => match x with
    | some y => y.torn
    | none => false).length

/-- Power lost without warning: the record being committed is whole, torn or not there (FREE VALUE,
notes/assumptions/13.md), and the rest of the queue is lost (R376). -/
def Chip.hbLose (c : Chip) : Chip :=
  let h := { c.hatband with queue := [], dropsNow := none }
  let n := Config.tornAtLoss c.drawn % 3
  let h := match c.hatband.queue with
    | [] => h
    | r :: _ => if n = 0 then h else Hatband.store h ⟨r, n = 1, false⟩
  { c with hatband := h, drawn := c.drawn + 1 }

/-! ### HEARTBEAT (R367) -/

/-- What a sensor's object reads (R331; FREE VALUE, notes/assumptions/15.md): 0 until first sampled after a reset. -/
def Chip.sensor (c : Chip) (index sub : Nat) : Nat :=
  match c.limiter.sampled with
  | none => 0
  | some t => Config.sensor index sub t

/-- HFLAGS. -/
def Chip.hflags (c : Chip) (down : Bool) : W16 :=
  BitVec.ofNat 16 ((if down then 1 else 0) + (if c.pins.alive then 2 else 0) + (if c.pins.thermAlertN then 0 else 4) +
    (if c.gate.operator.isSome || c.gate.service.isSome || c.gate.vendor.isSome then 8 else 0))

/-- A heartbeat sent, once the port has an address. -/
def Chip.heartbeat (c : Chip) (down : Bool) : Chip :=
  if c.mgmt.addr = .usable ∧ c.mgmt.plcaNode ≠ 0 then
    { c with mgmt := { c.mgmt with
        tx := c.mgmt.tx ++ [.heartbeat c.mram.moduleNum c.mram.serial c.mgmt.hbseq (BitVec.ofNat 8 c.bootNow.num) (BitVec.ofNat 8 c.limiter.state.num)
          (BitVec.ofNat 8 c.driver.state.num) (BitVec.ofNat 8 c.drone.state.num) (c.hflags down) c.limiter.capActive
          (BitVec.ofNat 16 (c.sensor 0x2001 0)) c.drone.now c.hatband.lastSeq]
        hbseq := c.mgmt.hbseq + 1, hbDue := c.drone.now + BitVec.ofNat 64 (c.mram.hbMs.toNat * 1000000) } }
  else c

/-! ### GOING_DOWN (R277) -/

/-- Three LIVE frames with GOING_DOWN or PORT_DOWN, 1 µs apart. -/
def Chip.lastLives (c : Chip) (p : Fin 16) (goingDown portDown : Bool) : List TxFrame :=
  [0, 1000, 2000].map fun (d : Stamp) =>
    .live (c.header p goingDown portDown) c.modNum (BitVec.ofNat 8 p.val) (c.drone.now + d)

/-- GOING_DOWN on every UP port, which then sends nothing more; ALIVE released (R277, R406). -/
def Chip.goDown (c : Chip) : Chip :=
  { c with
    ports := Vector.ofFn fun p : Fin 16 =>
      let x := c.ports[p]
      if x.state = .up then { x with tx := x.tx ++ c.lastLives p true false, state := .down } else x
    pins := { c.pins with alive := false } }

/-! ### The module after a reset (R394) -/

/-- MRAM at a reset: a staged rotation takes effect, with the certificate and records that it carries (R340), and with the host die's restart the region recorded
for it (R296). -/
def Mram.atReset (m : Mram) (host : Bool) : Mram :=
  let m := match m.staged with
    | some x => { m with keyIndex := x.1, idCert := x.2.1, cfgRecs := x.2.2, staged := none }
    | none => m
  if host && m.hostNext ≠ 0 then { m with hostRegion := m.hostNext, hostNext := 0 } else m

/-- The stamp from which Drone starts: just after the newest valid Hatband record (R261). -/
def Hatband.restart (h : Hatband) : Stamp :=
  match h.newest with
  | some r => r.stamp + 1
  | none => 0

/-- PLCA_NODE from the slot identity (R355). -/
def nodeOf (slot : BitVec 4) : Byte := if 1 ≤ slot.toNat ∧ slot.toNat ≤ 8 then slot.setWidth 8 else 0

/-- A KEYROT record where a staged rotation takes effect (R374). -/
def Chip.keyrot (c : Chip) : Chip :=
  match c.mram.staged with
  | some x => (c.hbForm 0x0052 true (c.hubSrc 2) [c.mram.keyIndex, x.1]).hbCommitAll
  | none => c

/-- The chip in reset: everything but MRAM, Hatband and the pins is as after its first reset, a new interleave key is
drawn (R189), and the limiter stays TRIPPED until the reset completes (R322, R328). `host`: the host die restarts; `cold`: from no power. -/
def Chip.inReset (c : Chip) (host : Bool) : Chip :=
  let c := c.keyrot
  let m := c.mram.atReset host
  let now := c.hatband.restart
  let cal : CalState := { CalState.reset with last := now }
  { Chip.reset with
    drawn := c.drawn + 1
    drone := Drone.reset now
    power := .inReset
    pins := { c.pins with alive := false, thermAlertN := true, hpePerstN := c.pins.hpePerstN && !host }
    boot := { Boot.reset with holdupMj := c.boot.holdupMj }
    parts := partsReset m.mc64
    memObj := { MemObj.reset with key := (Config.random c.drawn).setWidth 128 }
    calPc := Vector.replicate 384 cal
    calDqs := Vector.replicate 16 cal
    calZq := Vector.replicate 16 cal
    calIsl := Vector.replicate 77 cal
    limiter := { Limiter.reset m.capW with state := if c.limiter.state = LimState.tripped then .tripped else .normal }
    ports := c.ports.map fun x => { Port.reset with tx := x.tx, cable := x.cable }
    mgmt := { Mgmt.reset (nodeOf c.pins.slotId) with tx := c.mgmt.tx }
    hatband := c.hatband
    mram := m
    objs := Objs.reset m }

/-- The memory tiers after a reset: undefined bytes (FREE VALUE, notes/assumptions/12.md), but for the host
region of a host die that runs on (R296, R394). -/
def State.scrambled (s : State) (host : Bool) : Mem :=
  let base := s.chip.hostBase
  let kept := fun (a : PAddr) => !host && !a.1 && decide (base ≤ a.2)
  let there := fun (a : PAddr) => decide (a.2 < if a.1 then tier1Bytes else tier2Bytes)
  let m : Mem :=
    { tier1 := [], tier2 := s.mem.tier2.filter fun x => kept (false, x.1), flaw1 := []
      flaw2 := s.mem.flaw2.filter fun x => kept (false, 32 * x.1) }
  let m := m.putAll ((Config.resetBytes s.chip.drawn).filter fun w => there w.1 && !kept w.1)
  ((Config.resetFlaws s.chip.drawn).filter fun f => there (f.1.1, 32 * f.1.2) && !kept (f.1.1, 32 * f.1.2 + 31)).foldl
    (fun m f => m.strike f.1 f.2) m

/-- The state in reset. -/
def State.inReset (s : State) (host : Bool) : State :=
  { s with mem := s.scrambled host, chip := s.chip.inReset host }

/-- LOCKOUT_LEFT in s (R350). -/
def Mram.lockoutLeft (m : Mram) : Nat := (m.lockoutNs + 999999999) / 1000000000

/-- A LOCK record (R374): LSTATE before and after, FAIL_COUNT, LOCKOUT_LEFT. -/
def Chip.lockRec (c : Chip) (before : W16) : Chip :=
  c.hbForm 0x0051 true (c.hubSrc 2)
    (leBytes 2 before.toNat ++ leBytes 2 c.lstate.toNat ++ [c.mram.failCount] ++ leBytes 4 c.mram.lockoutLeft)

/-- A change of levels or of the debug port: source 12 and a record (R312, R351). -/
def Chip.gateChange (c : Chip) (f : Gate → Gate) : Chip :=
  let before := c.lstate
  ({ c with gate := f c.gate }.raise 12).lockRec before

/-- A module reset closes every open level and the debug port (R351). -/
def Chip.closeGate (c : Chip) : Chip :=
  if c.gate.operator.isSome || c.gate.service.isSome || c.gate.vendor.isSome || c.gate.debugPort then
    c.gateChange fun g => { g with operator := none, service := none, vendor := none, debugPort := false }
  else c

/-- What precedes every reset that the module announces (R277, R351, R367, R376, R394): the levels close, GOING_DOWN, the DOWN heartbeat, the
RESET record and the commit of the whole queue. -/
def Chip.announce (c : Chip) (cause : Nat) : Chip :=
  (((c.closeGate.hbForm 0x0003 true (c.hubSrc 8) (leBytes 2 cause ++ leBytes 8 c.drone.now.toNat)).goDown).heartbeat true).hbCommitAll

/-- A module reset begins (R394). -/
def State.beginReset (s : State) (cause : Nat) (host : Bool) : State :=
  (s.on fun c => c.announce cause).inReset host

/-- A change of BOOT_STATE with its trace point (R304). -/
def Chip.setBoot (c : Chip) (st : BootState) (status : W16) : Chip :=
  { c with boot := { c.boot with state := st, status := status } }.tracePoint 0x0001 status (BitVec.ofNat 64 st.num) 0

/-- A BOOT record (R374). -/
def Chip.bootRec (c : Chip) : Chip :=
  c.hbForm 0x0002 true (c.coreSrc 0)
    (leBytes 2 c.boot.state.num ++ leBytes 2 c.boot.status.toNat ++ leBytes 4 ((c.boot.img.map fun i => i.fwrel.toNat).getD 0))

/-- The ROM enters FAILED (R294). -/
def Chip.bootFail (c : Chip) (status : W16) : Chip := (c.setBoot .failed status).bootRec

/-- The end of a reset, from RST_N high on (R328, R330, R378, R405, R412): the hold-up energy is measured, Hatband's
newest records are checked, the ROM enters LOAD_WAIT or is held in FAILED, ALIVE is driven. -/
def Chip.outOfReset (c : Chip) (holdupMj : W32) : Chip :=
  let c := { c with
    power := .running
    pins := { c.pins with alive := true, rstN := true, pg := true, hpePerstN := true }
    boot := { c.boot with holdupMj := holdupMj }
    mram := { c.mram with hbTorn := c.mram.hbTorn + BitVec.ofNat 32 c.hatband.tornNewest }
    limiter := if c.limiter.state = LimState.tripped then { c.limiter with state := .normal, since := c.drone.now } else c.limiter }
  let c := c.setBoot .loadWait 0
  let c := if holdupMj.toNat < 250 then
      (c.hbForm 0x0023 true (c.hubSrc 1) (leBytes 4 holdupMj.toNat)).log .pf
        { c.entry (c.hubSrc 1) with level := 1, arg0 := holdupMj.setWidth 64 }
    else c
  if c.mram.recordsOk then c else c.bootFail 0x0071

/-- MODULE_RESET_COMPLETE (R328, R394): the end of a reset begun by MODRESET, a PF function-level reset or the end
of a trip hold; with RST_N low it waits (R410). -/
def execModuleResetComplete (holdupMj : W32) (s : State) : Host.Outcome State Fault Refusal :=
  .next (if s.chip.power = .inReset ∧ s.chip.pins.rstN then s.on fun c => c.outOfReset holdupMj else s)

/-- MODRESET (R298, R394). -/
def execModreset (value : W32) (s : State) : Host.Outcome State Fault Refusal :=
  .next (if value = 0x5A5A ∧ s.chip.up then s.beginReset 2 false else s)

/-- A function-level reset of the PF is a module reset (R298, R394). -/
def execPfFunctionLevelReset (s : State) : Host.Outcome State Fault Refusal :=
  .next (if s.chip.up then s.beginReset 3 false else s)

end Sys2Proof.Machine
end

