-- ==== Sys2Proof/Machine/HostIf.lean ====
section
/-! DEFINITION. The host's interface (R294-R311, R334, R335): loading firmware, rings and registers, the BAR2
aperture, driver presence, firmware activation, partition sets and TURN. -/

namespace Sys2Proof.Machine

/-! ### Start (R294-R296, R341) -/

/-- The start-up block read at LOAD_GO (R261, R295, R296). A block of another version than 1 is not read (DEDUCED,
notes/assumptions/42.md). -/
def Chip.startBlock (c : Chip) (b : StartBlock) : Chip :=
  if b.pver ≠ 1 then c
  else
    let u := b.hostreg.toNat
    let c := if 1 ≤ u ∧ u ≤ 8 then
        let bytes : W64 := BitVec.ofNat 64 (16000000000 * u)
        if bytes = c.mram.hostRegion then c else { c with mram := { c.mram with hostNext := bytes } }
      else c.log .pf { c.entry (c.coreSrc 0) with level := openLevel 2, arg0 := b.hostreg.setWidth 64 }
    let c := { c with boot := { c.boot with drvRel := b.drvrel } }
    if c.drone.now.toNat < b.startTai.toNat then
      { c with drone := { c.drone with
          now := b.startTai, lastStep := b.startTai, stepNs := b.startTai - c.drone.now } }
    else c

/-- LOAD_GO (R294, R295, R298, R412): ignored outside LOAD_WAIT and FAILED, and while a configuration record holds
the ROM in FAILED. -/
def execLoadGo (value : W32) (img : FwImage) (blk : StartBlock) (s : State) : Host.Outcome State Fault Refusal :=
  .next (s.on fun c =>
    if value = 1 ∧ c.up ∧ c.mram.recordsOk ∧ (c.boot.state = .loadWait ∨ c.boot.state = .failed) then
      let c := { c with boot := { c.boot with img := some img } }
      ((c.setBoot .verify 0).bootRec).startBlock blk
    else c)

/-- What the checks of an image find: 0, AUTH_FAILED or VERSION_MISMATCH (R294; DEDUCED for their order,
notes/assumptions/43.md). -/
def Chip.judgeImage (c : Chip) (i : FwImage) : W16 :=
  if !(i.digestOk && i.rsaOk && i.slhOk) then 0x0071
  else if i.hwgen ≠ c.mram.hwgen ∨ 16777216 < i.bodylen.toNat then 0x0043
  else 0

/-- The START record (R374). -/
def Chip.startRec (c : Chip) : Chip :=
  c.hbForm 0x0001 true (c.coreSrc 0)
    (leBytes 48 Config.romDig.toNat ++ leBytes 48 c.cfgDig.toNat ++ leBytes 48 c.boot.fwDig.toNat ++
      leBytes 48 c.idDig.toNat ++ leBytes 4 c.boot.drvRel.toNat ++ leBytes 4 c.boot.holdupMj.toNat)

/-- The sources that the firmware enables on a core (R292). -/
def coreSources (k : Nat) (n : Nat) : Bool :=
  match k with
  | 0 | 1 => decide (n ≤ 15) || (decide (32 ≤ n) && decide (n ≤ 47))
  | 2 => decide (48 ≤ n) && decide (n ≤ 55)
  | 3 => (decide (16 ≤ n) && decide (n ≤ 31)) || (decide (56 ≤ n) && decide (n ≤ 74))
  | _ => false

/-- The firmware gives each core its fixed interrupt enables as it starts; CPRI is left to its register writes (R292;
notes/assumptions/111.md). -/
def Intc.roles (i : Intc) : Intc :=
  { i with cores := Vector.ofFn fun k : Fin 6 => { i.cores[k] with
      enable := (List.range 128).foldl (fun m n => if coreSources k.val n then m ||| (1#128 <<< n) else m) 0 } }

/-- IMAGE_VERIFY_COMPLETE (R292, R294, R312, R341). -/
def execImageVerifyComplete (s : State) : Host.Outcome State Fault Refusal :=
  .next (s.on fun c =>
    match c.boot.img with
    | some i =>
      if c.up ∧ c.boot.state = .verify then
        let c := c.raise 13
        let st := c.judgeImage i
        if st ≠ 0 then c.bootFail st
        else
          let c := { c with
            boot := { c.boot with fwRel := i.fwrel, fwDig := i.digest }
            mram := { c.mram with bootCount := c.mram.bootCount + 1 }
            intc := c.intc.roles }
          (c.setBoot .selftest 0).startRec
      else c
    | none => c)

/-- SELFTEST_COMPLETE (R184, R294, R394): tile health is decided anew. -/
def execSelftestComplete (bad : List (Fin 68)) (s : State) : Host.Outcome State Fault Refusal :=
  .next (s.on fun c =>
    if c.up ∧ c.boot.state = .selftest then
      { c with faults := { c.faults with tilesOut := (c.mram.cfgOut ++ bad).eraseDups } }.setBoot .ready 0
    else c)

/-! ### Rings and registers (R297-R304) -/

/-- The rings of a function (R298): the PF has its admin ring and rings 8-10. -/
def ringOf (f : Fn) (r : Nat) : Bool :=
  match f with
  | .pf => r = 0 || (8 ≤ r && r ≤ 10)
  | .vf _ => r < 12

/-- Entries written by the host at the positions from count `k` on (R299). -/
def Ring.hostWrite (r : Ring) : Nat → List Entry → Ring
  | _, [] => r
  | k, e :: es => { r with slots := spSet 0 (k % 2 ^ r.log2.toNat) e r.slots }.hostWrite (k + 1) es

/-- COMMAND_DOORBELL (R299, R303, R312). -/
def execCommandDoorbell (f : Fn) (ring : Fin 8) (prod : W32) (entries : List Entry) (s : State) :
    Host.Outcome State Fault Refusal :=
  .next (s.on fun c =>
    if c.up ∧ ringOf f ring.val then
      let c := c.modRing f (ring.castLE (by decide)) fun r => { (r.hostWrite r.prod.toNat entries) with prod := prod }
      c.raise (match f with
        | .pf => 72
        | .vf t => Fin.ofNat 128 (16 + t.val))
    else c)

/-- The ring hold of a tenant's plans is lifted where the ring now has room (R226). -/
def Chip.recheckRing (c : Chip) (t : Fin 16) : Chip :=
  allParts.foldl (fun c p => match c.run p with
    | some r => if r.plan.tenant = t ∧ r.holds.contains .ringFull ∧ !c.ringShort r then c.unhold p .ringFull else c
    | none => c) c

def Chip.recheck (c : Chip) (f : Fn) : Chip :=
  match f with
  | .pf => c
  | .vf t => c.recheckRing t

/-- A ring after a write of its consumer count: entries up to it are freed, unless it runs ahead (R299). -/
def Ring.consume (r : Ring) (count : W32) : Ring :=
  let left := (r.prod - count).toNat
  if left ≤ 2 ^ r.log2.toNat then
    { r with cons := count, out := r.out.filter fun x => decide ((r.prod - x.1).toNat < left) }
  else { r with cons := count }

/-- CONSUMER_COUNT_WRITE (R226, R299, R302). -/
def execConsumerCountWrite (f : Fn) (ring : Fin 12) (count : W32) (s : State) : Host.Outcome State Fault Refusal :=
  .next (s.on fun c =>
    if c.up ∧ 8 ≤ ring.val ∧ ringOf f ring.val then
      (((c.modRing f ring fun r => r.consume count).pumpRing f ring).recheck f)
    else c)

/-- A ring after a write of its configuration (R298, R299); `may`: the enable bit may be set. -/
def Ring.config (r : Ring) (may : Bool) (base : Option W64) (log2 : Option Byte) (enable : Option Bool) : Ring :=
  let sized := match log2 with
    | some n => if !r.enable ∧ 6 ≤ n.toNat ∧ n.toNat ≤ 16 then n else r.log2
    | none => r.log2
  let based := match base with
    | some b => if r.enable then r.base else b &&& ~~~0x3F
    | none => r.base
  let on := match enable with
    | some false => false
    | some true => r.enable || (may && decide (6 ≤ sized.toNat) && decide (sized.toNat ≤ 16))
    | none => r.enable
  { r with log2 := sized, base := based, enable := on }

/-- FEAT_DEV: the mask of the running release (R297); 0 while no firmware runs (R294). -/
def Chip.featDev (c : Chip) : BitVec 256 := if c.served then (c.boot.img.map FwImage.feat).getD 0 else 0

/-- FEAT_AGREED, computed when a ring of the function is first enabled (R297). -/
def Func.agree (x : Func) (dev : BitVec 256) : Func :=
  if x.featAgreed.isNone && x.rings.toList.any Ring.enable then { x with featAgreed := some (dev &&& x.featDrv) } else x

/-- RING_CONFIG_WRITE (R294, R297-R299). Rings are enabled from READY on (DEDUCED, notes/assumptions/44.md). -/
def execRingConfigWrite (f : Fn) (ring : Fin 12) (base : Option W64) (log2 : Option Byte) (enable : Option Bool)
    (s : State) : Host.Outcome State Fault Refusal :=
  .next (s.on fun c =>
    if c.up ∧ ringOf f ring.val then
      let c := c.modRing f ring fun r => r.config (decide (c.boot.state = .ready)) base log2 enable
      let c := c.modFunc f fun x => x.agree c.featDev
      if 8 ≤ ring.val then (c.pumpRing f ring).recheck f else c
    else c)

/-- REGISTER_WRITE (R297, R298, R315). -/
def execRegisterWrite (r : Reg) (value : BitVec 256) (s : State) : Host.Outcome State Fault Refusal :=
  .next (s.on fun c =>
    if c.up then
      match r with
      | .featDrv f => c.modFunc f fun x => if x.rings.toList.any Ring.enable then x else { x with featDrv := value }
      | .loadAddr => { c with boot := { c.boot with loadAddr := value.setWidth 64 } }
      | .loadLen => { c with boot := { c.boot with loadLen := value.setWidth 32 } }
      | .paramAddr => { c with boot := { c.boot with paramAddr := value.setWidth 64 } }
      | .enable k => { c with intc := { c.intc with
          cores := vecMod c.intc.cores k fun b => { b with enable := value.setWidth 128 } } }
      | .cpri k => { c with intc := { c.intc with
          cores := vecMod c.intc.cores k fun b => { b with cpri := value.setWidth 8 } } }
      | .readOnly _ => c
    else c)

/-! ### BAR2 (R241, R243, R335) -/

/-- The window and byte that an offset of the aperture names. -/
def apertureAt (off : Nat) : Fin 16 × Nat := (Fin.ofNat 16 (off / 2 ^ 40), off % 2 ^ 40)

/-- The physical byte under an offset of a tenant's aperture. -/
def Tenant.aperture (t : Tenant) (off : Nat) : Option PAddr :=
  let (w, o) := apertureAt off
  t.winAddr w o

/-- A byte lies in the home of a tensor (R414). -/
def Tenant.homeHas (t : Tenant) (e : TensorEnt) (k : PAddr) : Bool :=
  let w := t.windows[e.win]
  let at_ := w.base.toNat + e.woff.toNat
  decide (w.tier = some k.1) && decide (at_ ≤ k.2) &&
    decide (k.2 < at_ + ((Fmt.ofCode e.fmt).getD .u8).bytes e.count.toNat)

/-- The tiers that the hints of an image name for a tensor (R32, R54). -/
def Image.hints (i : Image) (e : TensorEnt) : List (BitVec 2) :=
  (e.tier :: (i.descs.filter fun d => decide (Desc.tid d = e.tid) && (Desc.fmt d).isSome).map Desc.tier).filter
    fun h => decide (h ≠ 0)

/-- A plan keeps a working copy of a tensor whose home lies in tier 1 (`t1`) or tier 2: the hints name another tier, or,
without a hint or with hints that differ, the placer has chosen so (R414; FREE VALUE, notes/assumptions/18.md). An
adapter and a versioned tensor resolve to their copies instead (R198, R211). -/
def Plan.worksAway (p : Plan) (t1 : Bool) (e : TensorEnt) : Bool :=
  let home : BitVec 2 := if t1 then 2 else 3
  let hs := p.image.hints e
  if e.role = .adapter || p.versioned.contains e.tid then false
  else if hs.isEmpty then Config.worksAway p.id e.tid
  else if hs.all fun h => decide (h = home) then false
  else if hs.all fun h => decide (h ≠ home) then true
  else Config.worksAway p.id e.tid

/-- A running plan of the tenant keeps a working copy of a tensor whose home holds the byte: the byte is undefined to
the host for the life of the plan (R414). -/
def Chip.away (c : Chip) (t : Fin 16) (k : PAddr) : Bool :=
  allParts.any fun q => match c.run q with
    | some r => decide (r.plan.tenant = t) &&
        r.plan.image.tensors.any fun e => c.tenants[t].homeHas e k && r.plan.worksAway k.1 e
    | none => false

/-- What the host reads of its window's byte: the byte, or a free value in a home that a plan works away from (R414;
FREE VALUE, notes/assumptions/18.md). -/
def State.hostByte (s : State) (t : Fin 16) (k : PAddr) : Byte :=
  if s.chip.away t k then Config.homeByte s.chip.drawn k.1 k.2 else s.mem.byte k

/-- The codewords of some bytes that the decoder corrects. -/
def Mem.correctedAt (m : Mem) (at_ : List (Option PAddr)) : List PAddr :=
  if m.sound then [] else ((at_.filterMap fun a => a.map wordOf).eraseDups).filter fun k => isCorrected (m.flaw k)

/-- BAR2_READ (R243, R335, R414): window data, all ones outside, an error completion without data where a codeword is
uncorrectable. -/
def execBar2Read (t : Fin 16) (off : BitVec 44) (len : Fin 65) (s : State) : Host.Outcome State Fault Refusal :=
  .next (
    if !s.chip.up then s
    else
      let at_ := (List.range len.val).map fun i => s.chip.tenants[t].aperture (off.toNat + i)
      match at_.findSome? fun a => a.bind fun x => if s.mem.bad (wordOf x) then some x else none with
      | some x => s.on fun c => { c.foundBad x.1 x.2 with readData := [] }
      | none => s.on fun c => { c.countCes (s.mem.correctedAt at_) with
          readData := at_.map fun a => match a with
            | some x => s.hostByte t x
            | none => 0xFF
          drawn := if at_.any fun a => a.any (c.away t) then c.drawn + 1 else c.drawn })

/-- BAR2_WRITE (R241, R243, R335, R414): window data; what lies outside is dropped and the write counted. What is
written to a home that a plan works away from is overwritten by the working copy as the plan ends, and the plan
does not see it: memory, which holds the working copy's contents there, stays. -/
def execBar2Write (t : Fin 16) (off : BitVec 44) (bytes : List Byte) (s : State) : Host.Outcome State Fault Refusal :=
  .next (
    if !s.chip.up then s
    else
      let at_ := bytes.zipIdx.map fun x => (s.chip.tenants[t].aperture (off.toNat + x.2), x.1)
      let ws := at_.filterMap fun x => (x.1.filter fun a => !s.chip.away t a).map fun a => (⟨a, 0xFF, x.2⟩ : MemWrite)
      let c := match s.mem.stuck ws with
        | some w => s.chip.foundBad w.addr.1 w.addr.2
        | none => s.chip.countCes (s.mem.merged ws)
      let c := if at_.any fun x => x.1.isNone then { c with gate := { c.gate with bar2Miss := c.gate.bar2Miss + 1 } } else c
      { s with mem := s.mem.applyAll ws, chip := c })

/-! ### Driver presence (R305-R308) -/

/-- HEARTBEAT_WRITE (R306). -/
def execHeartbeatWrite (value : W64) (s : State) : Host.Outcome State Fault Refusal :=
  .next (s.on fun c =>
    if c.up then
      { c with driver := { c.driver with
          heartbeat := value, changed := if value = c.driver.heartbeat then c.driver.changed else c.drone.now } }
    else c)

/-- What the loss of the driver pauses at once: tenants without a running plan, and partitions that are held at a
boundary already (R16, R307). -/
def Chip.pauseAll (c : Chip) : Chip :=
  let c := allTenants.foldl (fun c t => if (c.partOf t).isNone then c.setFState t .paused else c) c
  (allParts.foldl (fun c p => match c.run p with
    | some r => if r.holds.isEmpty then c else c.pauseHold p
    | none => c) c).settleAbsent

/-- The driver is gone (R306, R307): trace point 0x0050, and the pause. -/
def Chip.driverGone (c : Chip) (st : DrvState) : Chip :=
  ({ c with driver := { c.driver with state := st } }.tracePoint 0x0050 0 0 0).pauseAll

/-- HEARTBEAT_LOSS (R306): HEARTBEAT unchanged for HB_TIMEOUT. -/
def execHeartbeatLoss (s : State) : Host.Outcome State Fault Refusal :=
  .next (s.on fun c =>
    if c.up ∧ c.driver.state = .attached ∧ c.mram.hbTimeout.toNat * 1000000 ≤ c.since c.driver.changed then
      ({ c with driver := { c.driver with lossCount := c.driver.lossCount + 1, lastLoss := c.drone.now } }.raise 4).driverGone
        .absent
    else c)

/-- The FSTATE of a tenant whose pause ends (R298, R308, R388). -/
def Chip.resumed (c : Chip) (t : Fin 16) : FState :=
  if (c.partOf t).isSome then .running else if c.tenants[t].fault then .faulted else .idle

/-- The end of the pause for a tenant: its owed entries are written in order (R308). -/
def Chip.resumeTenant (c : Chip) (t : Fin 16) : Chip :=
  let c := if c.tenants[t].fstate = .paused then c.setFState t (c.resumed t) else c
  ((c.pumpRing (.vf t) 8).pumpRing (.vf t) 9).pumpRing (.vf t) 11

/-- The end of the pause for a partition (R226, R308). -/
def Chip.resumePart (c : Chip) (p : Fin 4) : Chip :=
  match c.run p with
  | some r =>
    if r.holds.contains .paused then ((c.ringHold p).recheckRing r.plan.tenant).unhold p .paused else c
  | none => c

/-- An ATTACH that succeeds: its completion carries the session token (R302, R305). -/
def Chip.attached (c : Chip) (src : CmdSrc) : Chip :=
  { c with driver := { c.driver with state := .attached, attachStamp := c.drone.now, changed := c.drone.now } }.post
    .pf 8 (.comp { stamp := c.drone.now, src := src, status := 0, plan := 0, val0 := 0, val1 := 0, report := none
                   token := some c.driver.token })

/-- A reattachment (R308). -/
def State.reattach (s : State) (src : CmdSrc) : State :=
  let s := s.on fun c =>
    let c := (c.attached src).tracePoint 0x0051 0 0 0
    let c := { c with driver := { c.driver with hostAbsent := false } }
    let c := allTenants.foldl Chip.resumeTenant c
    allParts.foldl Chip.resumePart c
  allParts.foldl State.startWaiting s

/-- A wrong token: recorded, and nothing changes (R305). -/
def Chip.wrongToken (c : Chip) (src : CmdSrc) : Chip := (c.authFailed 2 0 0 []).done src 0x0071

/-- ATTACH (R305, R308; DEDUCED for a first token other than zero, notes/assumptions/45.md). -/
def execAttach (s : State) : Host.Outcome State Fault Refusal :=
  .next (match s.chip.takeOp .pf 0 0x81 1 with
    | none => s
    | some (e, src, c) =>
      let token := BitVec.ofNat 128 (entryAt e 16 16)
      let s := { s with chip := c }
      match c.driver.state with
      | .attached => s.on fun c => c.done src 0x0002
      | .never =>
        if token ≠ 0 then s.on fun c => c.wrongToken src
        else s.on fun c =>
          let (r, c) := c.draw256
          { c with driver := { c.driver with token := r.setWidth 128 } }.attached src
      | _ => if token = c.driver.token then s.reattach src else s.on fun c => c.wrongToken src)

/-- DETACH (R306, R307; DEDUCED before the first ATTACH, notes/assumptions/45.md). -/
def execDetach (s : State) : Host.Outcome State Fault Refusal :=
  .next (s.on fun c => match c.takeOp .pf 0 0x82 1 with
    | none => c
    | some (_, src, c) =>
      if c.driver.state = .attached then (c.done src 0).driverGone .detached else c.done src 0)

/-! ### Firmware activation (R309-R311) -/

/-- ACTIVATE without CANCEL (R309): the image is copied and its verification queued. -/
def execActivate (img : FwImage) (s : State) : Host.Outcome State Fault Refusal :=
  .next (s.on fun c => match c.takeOp .pf 0 0x83 1 with
    | none => c
    | some (e, src, c') =>
      if entryAt e 28 1 % 2 = 1 then c
      else if c'.driverAway then c'.done src 0x0041
      else { c' with boot := { c'.boot with verifying := c'.boot.verifying ++ [⟨img, src⟩] } })

/-- ACTIVATE with CANCEL (R309). -/
def execActivateCancel (s : State) : Host.Outcome State Fault Refusal :=
  .next (s.on fun c => match c.takeOp .pf 0 0x83 1 with
    | none => c
    | some (e, src, c') =>
      if entryAt e 28 1 % 2 = 0 then c
      else if c'.driverAway then c'.done src 0x0041
      else { c' with boot := { c'.boot with queued := none, queueRefused := false } }.done src 0)

/-- The release meets the four conditions of R309. -/
def Chip.releaseFits (c : Chip) (i : FwImage) : Bool :=
  (c.plans.all fun p => decide (i.nepmin.toNat ≤ p.image.nepoch.toNat) && decide (p.image.nepoch.toNat ≤ i.nepmax.toNat)) &&
  (allFns.all fun f => match (c.func f).featAgreed with
    | some a => decide (a &&& ~~~i.feat = 0)
    | none => true) &&
  c.ports.toList.all fun x => decide (x.state ≠ .up) ||
    (decide (i.borever.toNat % 65536 ≤ x.ver.toNat) && decide (x.ver.toNat ≤ i.borever.toNat / 65536))

/-- ACTIVATE_VERIFY_COMPLETE (R309, R312). -/
def execActivateVerifyComplete (s : State) : Host.Outcome State Fault Refusal :=
  .next (s.on fun c => match c.boot.verifying with
    | [] => c
    | a :: rest =>
      let c := { c with boot := { c.boot with verifying := rest } }.raise 13
      let st : W16 := c.judgeImage a.img
      if st ≠ 0 then c.done a.src st
      else if !c.releaseFits a.img then c.done a.src 0x0043
      else
        let st : W16 := if c.limiter.state = .normal then 0 else 0x0003
        let c := { c with boot := { c.boot with queued := some a.img, queueRefused := false } }
        (c.tracePoint 0x0040 st (a.img.fwrel.setWidth 64) 0).done a.src st)

/-- A running plan stands at a step boundary, or none runs (R310). A plan held for the absent driver stands at one. -/
def Chip.atSomeBoundary (c : Chip) : Bool :=
  (allParts.all fun p => (c.run p).isNone) || allParts.any fun p => match c.run p with
    | some r => r.atBoundary
    | none => false

/-- FIRMWARE_HANDOVER (R310, R311): the activation takes effect where the boundary that it waited for has not taken it. -/
def execFirmwareHandover (s : State) : Host.Outcome State Fault Refusal :=
  .next (s.on fun c => if c.up && c.atSomeBoundary then c.activate else c)

/-! ### Partition sets and turns (R77, R81, R300) -/

/-- The columns of a PART_SET, if they make a set (R77). -/
def partCols (mc64 : Bool) (e : Entry) : Option (List Nat) :=
  let n := entryAt e 16 1
  let cols := (List.range n).map fun i => entryAt e (17 + i) 1
  if (n = 1 ∨ n = 2 ∨ n = 4) ∧ cols.all (fun x => 1 ≤ x) ∧ cols.sum = (if mc64 then 8 else 7) then some cols else none

/-- PART_SET (R77, R81, R300; DEDUCED while another waits, notes/assumptions/46.md). -/
def execPartSet (s : State) : Host.Outcome State Fault Refusal :=
  .next (allParts.foldl State.startWaiting (s.on fun c => c.pfOp 0x85 fun e src c =>
    match partCols c.mram.mc64 e with
    | none => c.done src 0x0002
    | some cols =>
      if c.partPending.isSome then c.done src 0x0002
      else { c with partPending := some (cols, src) }.applyPartSet))

/-- The partition in which a target's plans run. -/
def Chip.turnTarget (c : Chip) (part : Nat) : Option (Option (Fin 4) × Fin 4) :=
  (c.targetOf (BitVec.ofNat 8 part)).map fun t => (t, t.getD 0)

/-- The TURN can be accepted: a plan bound for the target, none pending there, no module fault (DEDUCED, notes/assumptions/46.md). -/
def Chip.turnOk (c : Chip) (target : Option (Fin 4)) (q : Fin 4) (id : W16) : Bool :=
  (c.placer.bound.any fun p => decide (p.id = id) && decide (p.part = target)) &&
  c.parts[q].waiting.isNone && ((c.run q).all fun r => r.turn.isNone) && !c.faults.mfault

/-- TURN (R300). -/
def execTurn (s : State) : Host.Outcome State Fault Refusal :=
  .next (match s.chip.takeOp .pf 0 0x86 1 with
    | none => s
    | some (e, src, c) =>
      let s := { s with chip := c }
      let id := BitVec.ofNat 16 (entryAt e 18 2)
      if c.driverAway then s.on fun c => c.done src 0x0041
      else match c.turnTarget (entryAt e 16 1) with
        | none => s.on fun c => c.complete src 0x0002 id 0 0
        | some (target, q) =>
          if !c.turnOk target q id then s.on fun c => c.complete src 0x0002 id 0 0
          else match c.run q with
            | some _ => s.on fun c => c.modRun q fun r => { r with turn := some (id, src) }
            | none => (s.on fun c => c.modPart q fun x => { x with waiting := some (id, src) }).startWaiting q)

/-! ### Opcodes that no command has (R300) -/

/-- An opcode, with its function or sub-operation, that the ring serves. -/
def listed (f : Fn) (e : Entry) : Bool :=
  let opc := entryAt e 0 1
  match f with
  | .pf => decide (0x81 ≤ opc) && decide (opc ≤ 0x86) && !(decide (opc = 0x84) && decide (3 ≤ entryAt e 17 1))
  | .vf _ => decide (0x01 ≤ opc) && decide (opc ≤ 0x0B) && !(decide (opc = 0x08) && decide (3 ≤ entryAt e 16 1))

/-- UNKNOWN_OPCODE (R300, R307). -/
def execUnknownOpcode (f : Fn) (ring : Fin 8) (s : State) : Host.Outcome State Fault Refusal :=
  .next (s.on fun c => match c.take f ring 1 with
    | none => c
    | some (e, src, c') =>
      if listed f e then c
      else c'.done src (if decide (f = .pf) && c'.driverAway then 0x0041 else 0x0002))

end Sys2Proof.Machine
end

