-- ==== Sys2Proof/Machine/Fault.lean ====
section
/-! DEFINITION. Faults and recovery (R184, R239-R243, R379-R389, R395): detection, interruptions and replay, tenant
faults from outside a program, and module faults. -/

namespace Sys2Proof.Machine

/-! ### Alternates (R182-R184) -/

/-- The partition whose plan uses a tile. -/
def Chip.tilePart (c : Chip) (t : Fin 68) : Option (Fin 4) :=
  allParts.find? fun p => match c.run p with
    | some r => r.plan.binding.uses t
    | none => false

/-- A rebinding of a partition's alternates is queued, in order of T_DET (R387). -/
def Chip.queueRebind (c : Chip) (p : Fin 4) : Chip :=
  if c.placer.rebinds.contains p then c
  else { c with placer := { c.placer with rebinds := c.placer.rebinds ++ [p] } }

/-- The alternates of a plan name a tile: it uses it, or holds it as an idle spare. -/
def Binding.names (b : Binding) (t : Fin 68) : Bool := b.uses t || b.spares.contains t

/-- A plan bound and not started goes without a tile; its alternates are bound anew before it starts (R18, R182, R184,
R385). -/
def Plan.without (p : Plan) (out : List (Fin 68)) (t : Fin 68) : Plan :=
  if p.binding.names t then
    { p with binding := p.binding.avoid out t, altsReady := false, fig := if p.binding.uses t then p.fig.switch t else p.fig }
  else p

/-- An idle spare of a running plan is lost: the alternates that named it wait to be bound anew (R184). -/
def Running.loseSpare (r : Running) (t : Fin 68) : Running :=
  { r with plan := { r.plan with binding := r.plan.binding.avoid [] t }, spareLost := t :: r.spareLost }

/-- A tile is out of service; bound plans and idle spares go without it (R184). -/
def Chip.tileOut (c : Chip) (t : Fin 68) : Chip :=
  let out := t :: c.faults.tilesOut
  let late := c.placer.bound.filter fun p => p.binding.names t
  let c := { c with
    faults := { c.faults with tilesOut := out }
    placer := { c.placer with bound := c.placer.bound.map fun p => p.without out t } }
  let c := late.foldl (fun c p => c.queueRebind (p.part.getD 0)) c
  allParts.foldl (fun c p => match c.run p with
    | some r => if r.plan.binding.spares.contains t then (c.setRun p (some (r.loseSpare t))).queueRebind p else c
    | none => c) c

/-- A running plan switched to its alternate without a tile (R183, R184, R196). -/
def Running.switchTo (r : Running) (t : Fin 68) (b : Binding) : Running :=
  { r with plan := { r.plan with binding := b, fig := r.plan.fig.switch t }, altsReady := false }

/-! ### Interruptions (R240, R384-R386) -/

/-- The PF's event entry of a tile or lane loss (R386). -/
def Chip.tileEvent (c : Chip) (unit : W32) : Chip :=
  c.event .pf { c.entry (c.hubSrc 0) with status := 0x0031, arg0 := unit.setWidth 64, arg1 := c.drone.now }

/-- TURNs that wait complete with BUSY: a module fault lets no plan start (R389; DEDUCED, notes/assumptions/46.md). -/
def Chip.refuseTurns (c : Chip) : Chip := c.dropTurns (c.placer.bound.map Plan.id)

/-- A function that is a tenant: it holds memory windows, or runs a plan (R332, R333). -/
def Chip.isTenant (c : Chip) (t : Fin 16) : Bool :=
  (c.tenants[t].windows.toList.any fun w => w.tier.isSome) || (c.partOf t).isSome

/-- Tenants take a tenant fault with TILE_FAULT (R383, R388, R389): every plan of each ends; one without a running plan is
FAULTED all the same (DEDUCED, notes/assumptions/112.md). `flags`: what the cause detail carries beside the detector. -/
def State.faultTenants (s : State) (ts : List (Fin 16)) (unit : W32) (det : Byte) (flags : W64) (sound : Bool) : State :=
  let cause : W64 := det.setWidth 64 ||| flags
  ts.foldl (fun s t =>
    match s.chip.partsOf t with
    | [] => s.on fun c => c.idleFault t unit det cause
    | ps => ps.foldl (fun s p => match s.chip.run p with
      | some r => s.tenantFault p
          { status := 0x0031, det := det, unit := unit, bidx := BitVec.ofNat 32 r.ctx.pc, slot := 0xFF, cause := cause
            tDet := s.chip.drone.now } sound
      | none => s) s) s

/-- A module fault (R389). -/
def State.moduleFault (s : State) (unit : W32) (det : Byte) (sound : Bool) : State :=
  if s.chip.faults.mfault then s
  else
    let s := s.on fun c =>
      let c := { c with faults := { c.faults with mfault := true } }.refuseTurns
      let c := c.tileEvent unit
      c.hbForm 0x0060 false (c.hubSrc 0)
        (FaultRec.bytes
          { kind := 3, status := 0x0031, part := 0xFF, ten := 0xFF, plan := 0, step := 0, unit := unit, det := det
            bidx := 0, tDet := c.drone.now, tSwitch := 0, tResume := 0, tCommit := 0, tRebound := 0 })
    s.faultTenants (allTenants.filter fun t => s.chip.isTenant t) unit det (if sound then 0 else 0x80000000) sound

/-- A failed cell known-answer test (R383): the tile goes, and every tenant whose plan used it since it last passed takes a
tenant fault. -/
def State.cellFault (s : State) (t : Fin 68) : State :=
  let unit := s.chip.tileSrc t.val
  let users := s.chip.sp[t].users
  let s := s.on fun c =>
    let c := (c.raise 2).tileOut t
    c.hbForm 0x0060 false (c.hubSrc 0)
      (FaultRec.bytes
        { kind := 4, status := 0x0031, part := 0xFF, ten := 0xFF, plan := 0, step := 0, unit := unit, det := 6
          bidx := 0, tDet := c.drone.now, tSwitch := 0, tResume := 0, tCommit := 0, tRebound := 0 })
  s.faultTenants users unit 6 0 true

/-- The loss of one tile found by detectors 1 to 5 (R184, R384, R385). -/
def State.tileLoss (s : State) (t : Fin 68) (det : Byte) : State :=
  let unit := s.chip.tileSrc t.val
  match s.chip.tilePart t with
  | none => s.on fun c => c.tileOut t
  | some p =>
    let s := s.on fun c => c.tileOut t
    match s.chip.run p with
    | none => s
    | some r =>
      let spareGone := r.spareLost.any fun x => decide (dieOf x = dieOf t)
      match r.plan.binding.without s.chip.faults.tilesOut t with
      | some b =>
        if r.altsReady && !spareGone then
          s.on fun c =>
            let c := c.setRun p (some ((r.interrupt c.drone.now det unit none).switchTo t b))
            ((c.useTiles r.plan (b.tiles.filter fun x => !r.plan.binding.uses x)).tileEvent unit).queueRebind p
        else s.detFault p 0x0031 det unit true
      | none => s.detFault p 0x0031 det unit true

/-- TILE_LOSS_DETECT (R184, R379-R385, R389). -/
def execTileLossDetect (tiles : List (Fin 68)) (det : Byte) (s : State) : Host.Outcome State Fault Refusal :=
  let lost := tiles.eraseDups.filter fun t => !s.chip.faults.tilesOut.contains t
  .next (if !s.chip.up then s
    else match lost with
    | [] => s
    | [t] => if det = 6 then s.cellFault t else (s.on fun c => c.raise 2).tileLoss t det
    | t :: _ =>
      let s := s.on fun c => lost.foldl Chip.tileOut (c.raise 2)
      s.moduleFault (s.chip.tileSrc t.val) det true)

/-! ### Replay across modules (R289) -/

/-- A retained frame lies after a commit point: it had not been sent by then. -/
def CommitPt.after (k : CommitPt) (g : Group) (x : Retained) : Bool :=
  if x.frame.kind = 0x10 then k.inPrologue
  else match k.groups.find? fun y => y.grp = g.grp with
    | some y => decide (y.sqn.toNat ≤ x.frame.sqn.toNat) && !y.sent.contains x.hop
    | none => true

/-- Retained frames sent again with REPLAY: to the port of a transfer's receiver, or the NEXT ports. -/
def Chip.resendFrames (c : Chip) (g : Group) (xs : List Retained) : Chip :=
  xs.foldl (fun c x =>
    let ps := if x.frame.kind = 0x10 then g.portsTo x.dst.toNat else maskPorts g.next
    c.sendHop ps x.hop.hop.toNat [{ x.frame with pkt := { x.frame.pkt with replay := true } }]) c

/-- The hop of a received one. -/
def RxHop.ref (g : Group) (x : RxHop) : HopRef := ⟨g.grp, x.sqn, x.phase, x.hop⟩

/-- RESUME for the first hop that must be received again, sent to its sender (R289). -/
def Chip.sendResume (c : Chip) (g : Group) (x : RxHop) : Chip :=
  match (g.ackPorts x).find? fun p => c.ports[p].state = .up with
  | some p => c.transmit p fun h => .resume h (x.ref g)
  | none => c

/-- A group's part of a replay from a commit point. -/
def Chip.replayGroup (c : Chip) (g : Group) (k : CommitPt) : Chip :=
  let again := g.rx.filter fun x => !k.covers g x
  let c := c.resendFrames g (g.retained.filter fun x => k.after g x)
  let c := c.modGroup g.grp fun y => { y with rx := y.rx.filter fun x => k.covers g x }
  match again with
  | [] => c
  | x :: _ => c.sendResume g x

/-- A tenant's groups at a replay. -/
def Chip.replayGroups (c : Chip) (t : Fin 16) (k : CommitPt) : Chip :=
  (c.groups.filter fun (g : Group) => decide (g.ten = t)).foldl (fun c g => c.replayGroup g k) c

/-- The commit point that a partition has been set back to. -/
def Running.replayed (r : Running) : Option CommitPt := (replaySource r.commits).map ReplaySrc.pt

/-- The time from detection to the end of the switch (R384; FREE VALUE, notes/assumptions/113.md). -/
opaque Config.switchNs (plan : W16) (tDet : Stamp) : Nat

/-- The interruption switches: to an alternate, or to a spare lane (R384). -/
def Interrupt.switches (i : Interrupt) : Bool := decide (i.det.toNat ≤ 5) || decide (i.det = 0x11)

/-- The FAULT record of an interruption that ends (R395). -/
def Running.resumeRec (r : Running) (i : Interrupt) (commit : Stamp × W32) (now : Stamp) : FaultRec :=
  { r.recordOf i commit with
    tResume := now
    tSwitch := if i.switches then BitVec.ofNat 64 (min now.toNat (i.tDet.toNat + Config.switchNs r.plan.id i.tDet)) else 0 }

/-- The reports of an interruption that ends (R240, R386, R395): 0x0032 on the tenant's event ring, for uncorrectable data
once the replay has completed the failing read. -/
def Chip.resumeReports (c : Chip) (r : Running) (i : Interrupt) (commit : Stamp × W32) : Chip :=
  let took := c.since i.tDet
  let c := if i.ue.isSome then c else c.event (.vf r.plan.tenant)
    { c.entry (c.coreSrc 0) with
      status := 0x0032, plan := r.plan.id, step := r.step, arg0 := i.unit.setWidth 64, arg1 := i.tDet }
  let c := c.hbForm 0x0060 false (c.hubSrc 0)
    (r.resumeRec i commit c.drone.now).bytes
  { c with
    faults := { c.faults with
      intrCount := c.faults.intrCount + 1
      intrMaxNs := BitVec.ofNat 32 (min (2 ^ 32 - 1) (max c.faults.intrMaxNs.toNat took)) } }

/-- A replay begins: it is over once the bundle at which issue had stopped has retired (R240, R382). -/
def Running.beginReplay (r : Running) (i : Interrupt) (stopped : Nat) : Running :=
  { r with
    replayTo := some (max stopped (r.replayTo.getD 0))
    owed := match i.ue with
      | some _ => some ⟨i.unit, i.tDet⟩
      | none => r.owed }

/-- The commit copy that a replay needs is uncorrectable (R240, R241): LAST_UE names it, and the plan ends with 0x0030, its
commit set lost. -/
def State.copyLost (s : State) (p : Fin 4) (i : Interrupt) (u : UeRead) : State :=
  let (tier, unit, off) := s.chip.copyPlace p u
  (s.on fun c => ((c.raise 1).countUe tier).lastUe tier unit off 0x0030).ueFault p i.unit false

/-- The step that a fault has interrupted is marked as replayed (R166): the one in progress, or the one that the replay
comes back to. -/
def Running.markReplayed (r : Running) : Running :=
  if r.crossed.isEmpty then { r with counts := { r.counts with replayed := true } }
  else { r with crossed := r.crossed.dropLast ++ (r.crossed.drop (r.crossed.length - 1)).map fun k =>
    { k with counts := { k.counts with replayed := true } } }

/-- INTERRUPTION_RESUME (R240, R289, R384, R386): the commit set is restored, hops are sent again, issue resumes. -/
def execInterruptionResume (p : Fin 4) (s : State) : Host.Outcome State Fault Refusal :=
  .next (match s.chip.run p with
    | none => s
    | some r =>
      match r.intr with
      | none => s
      | some i =>
        if !s.chip.up then s
        else match i.ue.filter UeRead.lost with
        | some u => s.copyLost p i u
        | none =>
          let commit := r.replayPoint
          let point := r.replayed
          let s := (s.restore p).on fun c =>
            let c := match point with
              | some k => c.replayGroups r.plan.tenant k
              | none => c
            let c := c.modRun p fun x => { x.markReplayed.beginReplay i r.done with
              intr := none, faultRec := if i.det.toNat ≤ 5 ∧ !r.altsReady then some (r.resumeRec i commit c.drone.now) else x.faultRec
              coll := x.coll.map fun k => { k with since := c.drone.now } }
            match c.run p with
            | some x => c.resumeReports x i commit
            | none => c
          (s.collStep p).consumeAll)

/-! ### Uncorrectable data (R238, R240, R241, R243, R247) -/

/-- What a plan's read of a codeword with an error on it brings about (R238, R240, R243): `e` is the error that the decoder
meets; `rest`: it stands on the cells. -/
def State.planRead (s : State) (p : Fin 4) (r : Running) (w : MemAt) (err : BitVec 288) (rest lost : Bool) : State :=
  let met := match wordAt w with
    | some k => s.mem.flaw k ^^^ err
    | none => err
  let s := match rest, wordAt w with
    | true, some k => { s with mem := s.mem.strike k err }
    | _, _ => s
  match errVerdict met with
  | .clean => s
  | .corrected _ => s.on fun c => match wordAt w with
    | some k => c.countCe k.1 (32 * k.2)
    | none => c.countCeSp
  | .uncorrectable => s.dataFault p r w lost

/-- UNCORRECTABLE_READ (R238, R240, R241, R243): a plan's read of a codeword with an error on it, on the cells or on the read
path alone; `copySound`: the copy of the data in the commit set, where they have one there, is sound. -/
def execUncorrectableRead (p : Fin 4) (rd : PlanRead) (copySound : Bool) (s : State) : Host.Outcome State Fault Refusal :=
  match absentAt rd.loc with
  | some x => .fault (.noSuchAddress x.1 x.2)
  | none => match s.chip.run p with
    | none => .next s
    | some r => .next (if s.chip.up then s.planRead p r rd.loc rd.err rd.rest !copySound else s)

/-- HOST_UNCORRECTABLE_READ (R238, R243): an error completion, carrying no data; a corrected codeword is counted. -/
def execHostUncorrectableRead (t1 : Bool) (rd : HostRead) (s : State) : Host.Outcome State Fault Refusal :=
  match absentAt (if t1 then .t1 rd.addr else .t2 rd.addr) with
  | some x => .fault (.noSuchAddress x.1 x.2)
  | none => .next (if s.chip.up then
      let k := wordOf (t1, rd.addr.toNat)
      let met := s.mem.flaw k ^^^ rd.err
      let s := if rd.rest then { s with mem := s.mem.strike k rd.err } else s
      match errVerdict met with
      | .clean => s
      | .corrected _ => s.on fun c => c.countCe t1 rd.addr.toNat
      | .uncorrectable => s.on fun c => { c.foundBad t1 rd.addr.toNat with readData := [] }
    else s)

/-! ### Die-to-die links (R239, R379) -/

/-- A codeword that a die-to-die link has brought, as its receiving end decodes it: the 35 bytes that the link carries
(R237-R239). -/
def linkVerdict (raw : List Byte) : EccResult := eccDecode (raw ++ [0])

/-- LINK_CODEWORD_RESEND (R239, R247): a codeword arrives; an uncorrectable one is sent again, up to four times; a fifth
failure is a lane loss. -/
def execLinkCodewordResend (w : LinkWord) (s : State) : Host.Outcome State Fault Refusal :=
  .next (s.on fun c =>
    if !c.up then c
    else match linkVerdict w.raw with
      | .clean => { c with faults := { c.faults with resends := c.faults.resends.set w.link 0 } }
      | .corrected _ =>
        { c with
          faults := { c.faults with resends := c.faults.resends.set w.link 0 }
          memObj := { c.memObj with ceLink := c.memObj.ceLink + 1 }
          mram := { c.mram with ceLifetime := c.mram.ceLifetime + 1 } }
      | .uncorrectable =>
        if c.faults.resends[w.link] < 4 then
          { c with
            faults := { c.faults with resends := vecMod c.faults.resends w.link (· + 1) }
            memObj := { c.memObj with resendLink := c.memObj.resendLink + 1 } }
        else c)

/-- A lane's loss meets the plan whose traffic it carries (R379, R384, R385). -/
def State.laneInterrupt (s : State) (p : Fin 4) : State :=
  let unit := s.chip.hubSrc 0
  match s.chip.run p with
  | none => s
  | some r =>
    if r.altsReady then s.on fun c => (c.setRun p (some (r.interrupt c.drone.now 0x11 unit none))).tileEvent unit
    else s.detFault p 0x0031 0x11 unit true

/-- LANE_LOSS (R239, R379, R384, R389): the fifth failure of one codeword, after its four resends: onto a spare lane, or a
module fault. -/
def execLaneLoss (l : Fin 8) (part : Option (Fin 4)) (s : State) : Host.Outcome State Fault Refusal :=
  .next (if !s.chip.up || decide (s.chip.faults.resends[l] < 4) then s
    else
      let s := s.on fun c => { c with faults := { c.faults with resends := c.faults.resends.set l 0 } }.raise 3
      if s.chip.faults.spareUsed[l] < 2 then
        let s := s.on fun c => { c with faults := { c.faults with spareUsed := vecMod c.faults.spareUsed l (· + 1) } }
        match part with
        | some p => s.laneInterrupt p
        | none => s
      else (s.on fun c => c.raise 2).moduleFault (s.chip.hubSrc 0) 0x11 true)

/-! ### Tenant and module faults as commands -/

/-- The status, cause detail and detector code of a tenant fault from outside a program (R70, R279, R288, R338). -/
def faultOf (cause : FaultCause) : W16 × W64 :=
  match cause with
  | .isolation => (0x0071, 0)
  | .chainOverrun => (0x0021, 0)
  | .transfer status cause => (status, cause.setWidth 64)

/-- TENANT_FAULT (R70, R279, R288, R338, R388). -/
def execTenantFault (p : Fin 4) (cause : FaultCause) (s : State) : Host.Outcome State Fault Refusal :=
  .next (match s.chip.run p with
    | none => s
    | some r =>
      if !s.chip.up then s
      else
        let s := if cause = .isolation then s.on fun c => c.hbAuth 5 r.plan.tenant.val 0 [] else s
        s.tenantFault p
          { status := (faultOf cause).1, det := 0x20, unit := s.chip.hubSrc 0, bidx := BitVec.ofNat 32 r.ctx.pc
            slot := 0xFF, cause := (faultOf cause).2, tDet := s.chip.drone.now } true)

/-- MODULE_FAULT (R264, R379, R389). -/
def execModuleFault (unit : W16) (sound : Bool) (s : State) : Host.Outcome State Fault Refusal :=
  .next (if s.chip.up then (s.on fun c => c.raise 2).moduleFault (s.chip.modNum ++ unit) 0 sound else s)

end Sys2Proof.Machine
end

