-- ==== Sys2Proof/Machine/Cal.lean ====
section
/-! DEFINITION. Calibration windows, guarded and derated units, scrub and droop (R192-R194, R237-R250), and the
entry into a limiter emergency that a droop shares with the limiter's own rows (R322, R323). -/

namespace Sys2Proof.Machine

/-! ### The emergency's set points (R318, R323) -/

/-- The tile islands of a compute die. -/
def dieIslands (d : Nat) : List (Fin 77) := (List.finRange 68 |>.map fun t => t.castLE (by decide)).filter fun i => i.val / 17 = d

/-- Every tile island. -/
def tileIslands : List (Fin 77) := (List.finRange 68).map fun t => t.castLE (by decide)

/-- Islands held to at most a percentage of their set point. -/
def Limiter.scale (l : Limiter) (is : List (Fin 77)) (pct : Nat) : Limiter :=
  { l with emergPct := is.foldl (fun v i => vecMod v i fun x => min x pct) l.emergPct }

/-- The percentage of a cap that a measured power gives, rounded down (R323). -/
def capPct (cap power : Nat) : Nat := if power = 0 then 100 else min 100 (100 * cap / power)

/-- The emergency action of a row for a unit (R323); `value`: the reading in the row's unit. -/
def Limiter.act (l : Limiter) (row : LimRow) (unit : Nat) (value : W32) : Limiter :=
  match row with
  | .tileTemp => l.scale (tileIslands.filter fun i => i.val = unit) 60
  | .hubTemp => l.scale tileIslands 60
  | .hbmTemp => if l.halfHbm.contains unit then l else { l with halfHbm := unit :: l.halfHbm }
  | .lpddrTemp => if l.halfLpddr.contains unit then l else { l with halfLpddr := unit :: l.halfLpddr }
  | .hostTemp => { l with halfHost := true }
  | .dieCurrent => l.scale (dieIslands unit) 75
  | .inPower1ms => l.scale tileIslands (capPct l.capActive.toNat value.toNat)
  | .inPower100us => l.scale tileIslands (capPct 3600 value.toNat)
  | .inCurrent => l.scale tileIslands 50
  | .vin => l.scale tileIslands 50
  | .vislDroop => l.scale (dieIslands unit) 75
  | .vislOver => l

/-- A LIMITER record (R374): state, LIM_CAUSE, the row concerned and its reading. -/
def Chip.limRec (c : Chip) (row unit : Nat) (value : W32) : Chip :=
  c.hbForm 0x0020 true (c.hubSrc 1)
    (leBytes 2 c.limiter.state.num ++ leBytes 2 c.limiter.causeMask.toNat ++ leBytes 2 row ++ leBytes 2 unit ++
      leBytes 4 value.toNat)

/-- A quantity stands at or above its limit (R310, R322-R324): the emergency set points of its row come into force,
and with the first the state EMERGENCY. -/
def Chip.enterEmergency (c : Chip) (row : LimRow) (unit : Nat) (value : W32) : Chip :=
  let l := c.limiter
  let causes := if l.causes.contains (row, unit) then l.causes else (row, unit) :: l.causes
  let l := { l.act row unit value with causes := causes }
  match l.state with
  | .normal =>
    let c := { c with
      limiter := { l with state := .emergency, since := c.drone.now, emergCount := l.emergCount + 1 }
      pins := { c.pins with thermAlertN := false }
      boot := { c.boot with queueRefused := c.boot.queueRefused || c.boot.queued.isSome } }
    (c.raise 6).limRec (limRowNum row) unit value
  | _ => { c with limiter := l }

/-- R323 gives the row a limit. -/
def hasLimit (row : LimRow) : Bool :=
  match row with
  | .vislOver => false
  | _ => true

/-! ### Calibration windows (R192-R194, R245, R246, R250) -/

/-- A window of a unit that the partitions share cannot be honoured: within an interruption, or in an emergency (R194;
DEDUCED for several partitions, notes/assumptions/48.md). -/
def Chip.deferred (c : Chip) : Bool :=
  decide (c.limiter.state ≠ .normal) || allParts.any fun p => match c.run p with
    | some r => r.intr.isSome
    | none => false

/-- The tile of a tile island. -/
def islandTile (i : Fin 77) : Option (Fin 68) := if h : i.val < 68 then some ⟨i.val, h⟩ else none

/-- A window of an island cannot be honoured: that of a tile island within an interruption of a plan whose binding names the
tile, that of a hub region within any (R194; DEDUCED, notes/assumptions/48.md). -/
def Chip.islandDeferred (c : Chip) (i : Fin 77) : Bool :=
  match islandTile i with
  | none => c.deferred
  | some t => decide (c.limiter.state ≠ .normal) || allParts.any fun p => match c.run p with
    | some r => r.intr.isSome && r.plan.binding.names t
    | none => false

/-- A unit's state after an honoured window: within margin again. -/
def CalState.pass (x : CalState) (now : Stamp) : CalState := { last := now, honoured := true, trims := x.trims + 1, limited := false }

/-- 0x0060 CAL_DEFERRED (R194, R246, R304, R312): trace point 0x0030 with the unit and the guarded flag, source 11. -/
def Chip.calEntry (c : Chip) (unit : W32) (guarded : Bool) : Chip :=
  (c.tracePoint 0x0030 0x0060 (unit.setWidth 64) (if guarded then 1 else 0)).raise 11

/-- HBM_RETRAINING_WINDOW (R192, R194, R245). -/
def execHbmRetrainingWindow (u : Fin 384) (s : State) : Host.Outcome State Fault Refusal :=
  .next (s.on fun c =>
    if !c.up then c
    else if c.deferred then
      { c with memObj := { c.memObj with caldefT1 := c.memObj.caldefT1 + 1 } }.calEntry (c.srcId 4 u.val) false
    else { c with calPc := vecMod c.calPc u fun x => x.pass c.drone.now })

/-- DQS_TRACKING_WINDOW (R192, R194, R245). -/
def execDqsTrackingWindow (u : Fin 16) (s : State) : Host.Outcome State Fault Refusal :=
  .next (s.on fun c =>
    if !c.up then c
    else if c.deferred then
      { c with memObj := { c.memObj with caldefDqs := c.memObj.caldefDqs + 1 } }.calEntry (c.srcId 4 (0x400 + 4 * u.val)) false
    else { c with calDqs := vecMod c.calDqs u fun x => x.pass c.drone.now })

/-- ZQ_CALIBRATION_WINDOW (R192, R194, R245). -/
def execZqCalibrationWindow (u : Fin 16) (s : State) : Host.Outcome State Fault Refusal :=
  .next (s.on fun c =>
    if !c.up then c
    else if c.deferred then
      { c with memObj := { c.memObj with caldefZq := c.memObj.caldefZq + 1 } }.calEntry (c.srcId 4 (0x400 + 4 * u.val)) false
    else { c with calZq := vecMod c.calZq u fun x => x.pass c.drone.now })

/-- The source ID of an island (R257). -/
def Chip.islandSrc (c : Chip) (i : Fin 77) : W32 := if i.val < 68 then c.tileSrc i.val else c.hubSrc (i.val - 68)

/-- The cells of a tile have passed their known-answer test: of the tenants that used it, those whose plan uses it now count
on (R383). -/
def Chip.testPassed (c : Chip) (t : Fin 68) : Chip :=
  let users := match (c.tilePart t).bind c.run with
    | some r => [r.plan.tenant]
    | none => []
  { c with sp := vecMod c.sp t fun x => { x with users := users } }

/-- ISLAND_CLOCK_CALIBRATION (R192, R194, R250, R381, R383): a trim, and the known-answer test of a tile's cells. -/
def execIslandClockCalibration (i : Fin 77) (pass : Bool) (s : State) : Host.Outcome State Fault Refusal :=
  .next (if !s.chip.up then s
    else if s.chip.islandDeferred i then s.on fun c =>
      { c with objs := { c.objs with islCaldef := c.objs.islCaldef + 1 } }.calEntry (c.islandSrc i) false
    else
      let s := s.on fun c => { c with calIsl := vecMod c.calIsl i fun x => x.pass c.drone.now }
      match islandTile i with
      | some t =>
        if pass then s.on fun c => c.testPassed t
        else if s.chip.faults.tilesOut.contains t then s else s.cellFault t
      | none => s)

/-- A margin in ms has passed since a unit's last honoured window (R246). -/
def Chip.lapsed (c : Chip) (x : CalState) (ms : Nat) (tempMoved : Bool) : Bool :=
  !x.limited && (tempMoved || decide (ms * 1000000 < c.since x.last))

/-- An entry into guarded mode (R246, R247). -/
def Chip.guarded (c : Chip) (unit : Nat) : Chip :=
  { c with memObj := { c.memObj with guardCount := c.memObj.guardCount + 1 } }.calEntry (c.srcId 4 unit) true

/-- GUARDED_MODE_ENTER (R246): a unit outside its margin. -/
def execGuardedModeEnter (u : CalUnit) (tempMoved : Bool) (s : State) : Host.Outcome State Fault Refusal :=
  .next (s.on fun c =>
    let lim := fun (x : CalState) => { x with limited := true }
    if !c.up then c
    else match u with
      | .hbmPc k =>
        if c.lapsed c.calPc[k] 1000 tempMoved then { c with calPc := vecMod c.calPc k lim }.guarded k.val else c
      | .dqs k =>
        if c.lapsed c.calDqs[k] 100 tempMoved then { c with calDqs := vecMod c.calDqs k lim }.guarded (0x400 + 4 * k.val) else c
      | .zq k =>
        if c.lapsed c.calZq[k] 1000 tempMoved then { c with calZq := vecMod c.calZq k lim }.guarded (0x400 + 4 * k.val) else c
      | .island _ => c)

/-- ISLAND_DERATE (R250): 1 s without an honoured window. -/
def execIslandDerate (i : Fin 77) (s : State) : Host.Outcome State Fault Refusal :=
  .next (s.on fun c =>
    if c.up && c.lapsed c.calIsl[i] 1000 false then { c with calIsl := vecMod c.calIsl i fun x => { x with limited := true } }
    else c)

/-! ### Scrub (R237, R238, R244, R247) -/

/-- The codewords of a memory unit (R230): a pseudo-channel's, a tier-2 channel's. -/
def unitWords (t1 : Bool) : Nat := if t1 then tier1Bytes / 384 / 32 else tier2Bytes / 64 / 32

/-- Every unit of both tiers has been read through in the sweep. -/
def sweepWhole (m : Sparse Nat) : Bool :=
  (List.range 448).all fun u => decide (spGet 0 m u = unitWords (decide (u < 384)))

/-- The scrub reads on in a unit: in ascending channel offset, and a sweep begins with its first codeword and ends with its
last (R244, R247). -/
def Chip.sweepOn (c : Chip) (t1 : Bool) (u : Nat) : Chip :=
  let m := c.memObj
  let start := if m.sweepAt.isEmpty then c.drone.now else m.sweepStart
  let n := spGet 0 m.sweepAt (ceKey t1 u) + 1
  let next := spSet 0 (ceKey t1 u) n m.sweepAt
  if decide (n = unitWords t1) && sweepWhole next then
    { c with memObj := { m with
        scrubSweep := BitVec.ofNat 64 (c.since start), sweepAt := [], sweepStart := c.drone.now } }
  else { c with memObj := { m with sweepAt := next, sweepStart := start } }

/-- A codeword of a unit is the one that the scrub reads next: the sweep reads each unit in ascending channel offset
(R244). -/
def Chip.scrubNext (c : Chip) (t1 : Bool) (u off : Nat) : Bool :=
  decide (off / 32 = spGet 0 c.memObj.sweepAt (ceKey t1 u))

/-- SCRUB_READ (R238, R244): the patrol scrub reads the next codeword of a unit, with an error that has come to
stand on its cells and one of this read alone. A corrected codeword is written back, an uncorrectable one is counted
and left as it is. -/
def execScrubRead (t1 : Bool) (addr : BitVec 48) (err : ScrubErr) (s : State) : Host.Outcome State Fault Refusal :=
  match absentAt (if t1 then .t1 addr else .t2 addr) with
  | some x => .fault (.noSuchAddress x.1 x.2)
  | none =>
    let k := wordOf (t1, addr.toNat)
    let (u, off) := s.chip.place t1 (32 * k.2)
    .next (if !s.chip.up || !s.chip.mram.scrubEn || !s.chip.scrubNext t1 u off then s
      else
        let mem := s.mem.strike k err.cells
        let s := { s with mem := mem, chip := s.chip.sweepOn t1 u }
        match eccDecode (xorBytes (mem.stored k) (errBytes err.path)) with
        | .clean => s
        | .corrected bytes => { s with mem := mem.putStored k bytes, chip := s.chip.countCe t1 (32 * k.2) }
        | .uncorrectable => s.on fun c =>
            { c with memObj := { c.memObj with ueScrub := c.memObj.ueScrub + 1 } }.foundBad t1 (32 * k.2))

/-! ### Droop (R249, R265) -/

/-- A droop counted by island. -/
def Objs.countDroop (o : Objs) (i : Fin 77) : Objs :=
  if i.val < 68 then { o with droopTile := spSet 0 i.val (spGet 0 o.droopTile i.val + 1) o.droopTile }
  else { o with droopHub := spSet 0 (i.val - 68) (spGet 0 o.droopHub (i.val - 68) + 1) o.droopHub }

/-- DROOP (R249, R323): the clock period lengthens and recovers; beyond the detector the limiter acts. -/
def execDroop (i : Fin 77) (beyond : Bool) (s : State) : Host.Outcome State Fault Refusal :=
  .next (s.on fun c =>
    if !c.up then c
    else
      let c := { c with objs := c.objs.countDroop i }
      match islandTile i with
      | some t => if beyond then c.enterEmergency .vislDroop (dieOf t) 0 else c
      | none => c)

end Sys2Proof.Machine
end

