-- ==== Sys2Proof/Machine/Port.lean ====
section
/-! DEFINITION. Bore ports (R266-R280, R289-R291, R338): bring-up, delivery, liveness and loss, ABORT, RESUME
and the no-progress limit. -/

namespace Sys2Proof.Machine

/-! ### States (R268) -/

/-- A port's state changes: trace point 0x0020 with the port and the new state, and the port's source (R268, R304, R312). -/
def Chip.setPort (c : Chip) (p : Fin 16) (st : PortState) (status : W16) : Chip :=
  if c.ports[p].state = st then c
  else ((c.modPort p fun x => { x with state := st }).tracePoint 0x0020 status (BitVec.ofNat 64 p.val)
    (BitVec.ofNat 64 st.num)).raise (Fin.ofNat 128 (56 + p.val))

/-- PORT_EN enables the port. -/
def Chip.portEn (c : Chip) (p : Fin 16) : Bool := c.mram.portEn.getLsbD p.val

/-- The port waits for a PHY link: DOWN, or still as after reset with its PORT_EN bit set (R268; DEDUCED,
notes/assumptions/50.md). -/
def Chip.portIdle (c : Chip) (p : Fin 16) : Bool :=
  decide (c.ports[p].state = .down) || (decide (c.ports[p].state = .disabled) && c.portEn p)

/-- The port's PHY link is up: PTP can run over it. -/
def Chip.linked (c : Chip) (p : Fin 16) : Bool :=
  decide (c.ports[p].state = .hello) || decide (c.ports[p].state = .up) || decide (c.ports[p].state = .mismatch)

/-- A port without what its link had brought: frames not acknowledged stay queued, to be sent anew. -/
def Port.unlinked (x : Port) (closed : Bool) : Port :=
  { x with
    ackedSeen := false, ackn := 0, nakOwed := false, gap := false, ackOwed := false, peerCredit := 0, peerAbsent := false
    closed := closed, unacked := x.unacked.map fun f => (f.1, 0)
    announce := none, ptpRole := .listening, lastSync := none, syncPair := none }

/-- The port leaves its link (R268). -/
def Chip.unlink (c : Chip) (p : Fin 16) (st : PortState) (closed : Bool) : Chip :=
  let c := (c.modPort p fun x => x.unlinked closed).setPort p st 0
  if c.drone.slavePort = some p then { c with drone := { c.drone with slavePort := none } } else c

/-! ### Loss of ports and of partners (R276-R279, R290) -/

/-- The ports of the mask of a group that a port belongs to. -/
def Group.maskOf (g : Group) (p : Fin 16) : List (Fin 16) :=
  match (g.next :: g.prev :: g.peers.map Prod.snd).find? fun m => m.getLsbD p.val with
  | some m => maskPorts m
  | none => []

/-- Where a frame of a lost port goes on: an UP port of the same mask (R290). -/
def Chip.detour (c : Chip) (p : Fin 16) (f : DataFrame) : Option (Fin 16) :=
  (c.group f.grp).bind fun g => (g.maskOf p).find? fun q => decide (q ≠ p) && decide (c.ports[q].state = .up)

/-- The frames not acknowledged on a port move to the remaining ports of the same mask; without one they stay
(R277, R290; DEDUCED, notes/assumptions/51.md). -/
def Chip.moveFrames (c : Chip) (p : Fin 16) : Chip :=
  let fs := c.ports[p].unacked
  let c := c.modPort p fun x => { x with unacked := [] }
  fs.foldl (fun c f => match c.detour p f.1 with
    | some q => c.sendData q f.1
    | none => c.modPort p fun x => { x with unacked := x.unacked ++ [f] }) c

/-- A running plan has a collective or transfer of the group in progress. -/
def Chip.busyWith (c : Chip) (g : Group) (p : Fin 4) : Bool :=
  match c.run p with
  | some r => (c.busyGroups r).any fun x => decide (x.grp = g.grp)
  | none => false

/-- The front fetch of a group's tenant runs over the group. -/
def Chip.fetchOver (c : Chip) (g : Group) : Bool :=
  match c.tenants[g.ten].fetches with
  | f :: _ => decide (f.grp = g.grp)
  | [] => false

/-- The group's ring ports. -/
def Group.ring (g : Group) : List (Fin 16) := maskPorts (g.next ||| g.prev)

/-- The partition of a collective or transfer that ends with PEER_LOST takes a tenant fault (R279). -/
def State.lostFault (s : State) (p : Fin 4) (g : Group) (cause : W16) : State :=
  match s.chip.run p with
  | none => s
  | some r =>
    let slot := match r.coll with
      | some k => if k.grp = g.grp then 4 else 0xFF
      | none => 0xFF
    s.slotFault p r 0x0040 slot (cause.setWidth 64)

/-- The collective or transfers of a group end with 0x0040 (R279): ABORT goes to the ring ports but those of
`skip`, later collectives end at once until the group is set again. An idle group ends without ABORT (DEDUCED,
notes/assumptions/52.md). -/
def State.endLost (s : State) (g : Group) (skip : List (Fin 16)) (q : Option (Fin 16)) (cause : W16) : State :=
  if g.dead then s
  else
    let ps := allParts.filter (s.chip.busyWith g)
    let busy := !ps.isEmpty || s.chip.fetchOver g
    let out := allPorts.filter fun p => skip.contains p || !g.ring.contains p
    let s := s.on fun c =>
      if busy then ((c.endGroup g out 0x0040 cause).dropWaiting g.grp).countLost q cause
      else (c.modGroup g.grp fun x => { x with dead := true, rx := [], retained := [] }).dropWaiting g.grp
    let s := ps.foldl (fun s p => s.lostFault p g cause) s
    s.on fun c => c.settleFetches g.ten 256

/-- The port's partner is the module of a serial number. -/
def Chip.leadsTo (c : Chip) (ser : W64) (q : Fin 16) : Bool :=
  match c.ports[q].peer with
  | some h => decide (h.serial = ser)
  | none => false

/-- Frames of groups that have ended are no longer sent. -/
def Chip.dropDead (c : Chip) : Chip :=
  { c with ports := c.ports.map fun x => { x with
      unacked := x.unacked.filter fun f => !(c.groups.any fun g => decide (g.grp = f.1.grp) && g.dead && decide (f.2 = 0)) } }

/-- A partner module is lost (R276, R279): source 5, and every group that uses a port toward it ends. -/
def State.peerLost (s : State) (ser : W64) (p : Fin 16) : State :=
  let toward := allPorts.filter (s.chip.leadsTo ser)
  let s := s.on fun c => c.raise 5
  let gs := s.chip.groups.filter fun (g : Group) => g.allPorts.any fun q => toward.contains q
  (gs.foldl (fun s g => s.endLost g toward (some p) 0x0040) s).on Chip.dropDead

/-- Why a port is lost. -/
inductive Loss where
  | silent | goingDown | portDown
  deriving DecidableEq, Repr

/-- A port goes: it is counted lost, and its frames move. -/
def Chip.portGone (c : Chip) (p : Fin 16) (closed : Bool) : Chip :=
  ((c.modPort p fun x => { x with loss := x.loss + 1 }).unlink p .down closed).moveFrames p

/-- The partner is lost with the port: no other UP port leads to it, or GOING_DOWN has arrived; ports closed by
PORT_DOWN alone never make it lost (R276). -/
def Chip.partnerGone (c : Chip) (ser : W64) (how : Loss) : Bool :=
  let ps := allPorts.filter (c.leadsTo ser)
  let none_ := ps.all fun q => decide (c.ports[q].state ≠ .up)
  match how with
  | .goingDown => true
  | .silent => none_
  | .portDown => none_ && ps.any fun q => !c.ports[q].closed

/-- A port is lost (R276). GOING_DOWN takes every UP port toward the module with it (DEDUCED,
notes/assumptions/53.md). -/
def State.losePort (s : State) (p : Fin 16) (how : Loss) : State :=
  if s.chip.ports[p].state ≠ .up then s
  else match s.chip.ports[p].peer with
    | none => s.on fun c => c.portGone p false
    | some h =>
      let also := if how = .goingDown then
          allPorts.filter fun q => s.chip.leadsTo h.serial q && decide (s.chip.ports[q].state = .up)
        else [p]
      let s := s.on fun c => also.foldl (fun c q => c.portGone q (decide (how = .portDown))) c
      if s.chip.partnerGone h.serial how then s.peerLost h.serial p else s

/-! ### Headers (R272, R274, R278) -/

/-- Frames below an ACKN that have been sent. -/
def ackedBy (ackn : W32) (f : DataFrame × Nat) : Bool :=
  let d := (ackn - f.1.psn).toNat
  decide (f.2 ≠ 0) && decide (1 ≤ d) && decide (d < 2 ^ 31)

/-- ACKN and CREDIT of a received header. -/
def Chip.takeAck (c : Chip) (p : Fin 16) (h : BoreHdr) : Chip :=
  let rest := c.ports[p].unacked.dropWhile (ackedBy h.ackn)
  (c.modPort p fun x =>
    { x with
      unacked := rest, peerCredit := h.credit, peerAbsent := h.hostAbsent
      ackMoved := if rest.length < x.unacked.length then c.drone.now else x.ackMoved }).pumpPort p

/-- Everything from ACKN is sent again, or the port is lost at the 16th send of a PSN (R274). -/
def State.resend (s : State) (p : Fin 16) : State :=
  if s.chip.ports[p].unacked.any fun f => decide (16 ≤ f.2) then s.losePort p .silent
  else s.on fun c => c.resendPort p

/-- Collectives and transfers in progress of groups whose neighbour carries HOST_ABSENT end (R278, R279). -/
def State.endAbsent (s : State) (p : Fin 16) : State :=
  let gs := s.chip.groups.filter fun (g : Group) => g.ring.contains p && !g.dead &&
    ((allParts.any (s.chip.busyWith g)) || s.chip.fetchOver g)
  gs.foldl (fun s g => s.endLost g (g.maskOf p) (some p) 0x0041) s

/-- A header received on an UP port. -/
def State.takeHeader (s : State) (p : Fin 16) (h : BoreHdr) : State :=
  let s := s.on fun c => c.takeAck p h
  let s := if h.nak then s.resend p else s
  let s := if h.hostAbsent then s.endAbsent p else s
  if h.goingDown then s.losePort p .goingDown else if h.portDown then s.losePort p .portDown else s

/-- The port carries bore traffic. -/
def State.portUp (s : State) (p : Fin 16) : Bool := s.chip.up && decide (s.chip.ports[p].state = .up)

/-! ### Bring-up (R268-R270, R399) -/

/-- CABLE_PRESENT_CHANGE (R268, R399): without a cable the port stays DOWN. -/
def execCablePresentChange (p : Fin 16) (present : Bool) (s : State) : Host.Outcome State Fault Refusal :=
  let s := s.on fun c => c.modPort p fun x => { x with cable := present }
  .next (if present || !s.chip.up then s
    else if s.chip.ports[p].state = .up then s.losePort p .silent
    else if s.chip.linked p then s.on fun c => c.unlink p .down false
    else s)

/-- PHY_LINK_UP (R268). -/
def execPhyLinkUp (p : Fin 16) (s : State) : Host.Outcome State Fault Refusal :=
  .next (s.on fun c =>
    if c.up && c.portIdle p && c.ports[p].cable then
      (c.modPort p fun x => { x with peer := none, ackedSeen := false, helloAt := 0, helloDue := 0 }).setPort p .hello 0
    else c)

/-- PHY_LINK_DOWN (R268): an UP port is lost with its link (DEDUCED, notes/assumptions/54.md). -/
def execPhyLinkDown (p : Fin 16) (s : State) : Host.Outcome State Fault Refusal :=
  .next (if !s.chip.up then s
    else if s.chip.ports[p].state = .up then s.losePort p .silent
    else if s.chip.linked p then s.on fun c => c.unlink p .down false
    else s)

/-- VMIN and VMAX of the running firmware (R291). -/
def Chip.boreVer (c : Chip) : W32 :=
  match c.boot.img with
  | some i => if c.served then i.borever else 0x00010001
  | none => 0x00010001

def Chip.vmin (c : Chip) : W16 := c.boreVer.setWidth 16
def Chip.vmax (c : Chip) : W16 := (c.boreVer >>> 16).setWidth 16

/-- The HELLO that a port sends now (R269). -/
def Chip.hello (c : Chip) (p : Fin 16) : Hello :=
  let x := c.ports[p]
  { serial := c.mram.serial, modnum := c.modNum, port := BitVec.ofNat 8 p.val, acked := x.peer.isSome
    fwrel := c.boot.fwRel, vmin := c.vmin, vmax := c.vmax, hwgen := c.mram.hwgen
    nepmax := (c.boot.img.map fun i => i.nepmax).getD 0, feat := 0, tsend := c.drone.now
    techo := (x.peer.map fun h => h.tsend).getD 0
    tdwell := if x.peer.isSome then c.drone.now - x.helloAt else 0 }

/-- HELLO_SEND (R269): in HELLO, every 100 µs, until the partner's HELLO with ACKED has been seen. -/
def execHelloSend (p : Fin 16) (s : State) : Host.Outcome State Fault Refusal :=
  .next (s.on fun c =>
    if c.up && decide (c.ports[p].state = .hello) && c.due c.ports[p].helloDue then
      c.modPort p fun x =>
        { x with
          tx := x.tx ++ [.hello { c.header p false false with ver := 0 } (c.hello p)]
          helloDue := c.drone.now + 100000, lastTx := c.drone.now }
    else c)

/-- Half of the round trip that a HELLO closes (R270). -/
def Chip.lambdaOf (c : Chip) (h : Hello) : W32 :=
  BitVec.ofNat 32 ((c.drone.now.toNat - h.techo.toNat - h.tdwell.toNat) / 2)

/-- The port as it enters UP (R270, R274), with CREDIT and HOST_ABSENT of the partner's HELLO (R272, R278). -/
def Port.enterUp (x : Port) (now : Stamp) (hdr : BoreHdr) (ver : W16) (lam : W32) (feat : BitVec 256) : Port :=
  { x with
    ver := ver, lambda := lam, feat := feat, ackedSeen := true, psn := BitVec.ofNat 32 x.unacked.length
    unacked := x.unacked.mapIdx fun i f => ({ f.1 with psn := BitVec.ofNat 32 i }, 0)
    ackMoved := now, peerCredit := hdr.credit, ackn := 0, nakOwed := false, gap := false, ackOwed := false
    lastLive := now, liveDue := now, lastTx := now, peerAbsent := hdr.hostAbsent, closed := false }

/-- HELLO_RECEIVE (R269, R270): the version is the lower VMAX; below either VMIN the port enters MISMATCH. -/
def execHelloReceive (p : Fin 16) (x : HelloIn) (s : State) : Host.Outcome State Fault Refusal :=
  .next (s.on fun c =>
    let h := x.body
    if !(c.up && decide (c.ports[p].state = .hello)) then c
    else
      let c := c.modPort p fun x => { x with peer := some h, helloAt := c.drone.now }
      let ver := BitVec.ofNat 16 (min c.vmax.toNat h.vmax.toNat)
      if ver.toNat < c.vmin.toNat ∨ ver.toNat < h.vmin.toNat then
        (c.setPort p .mismatch 0x0043).log .pf
          { c.entry (c.portSrc p.val) with level := openLevel 3, status := 0x0043, arg0 := BitVec.ofNat 64 p.val }
      else if h.acked then
        ((c.modPort p fun y => y.enterUp c.drone.now x.hdr ver (c.lambdaOf h) (0 &&& h.feat)).setPort p .up 0).pumpPort p
      else c)

/-! ### Liveness (R276) -/

/-- LIVE_SEND (R276): every 10 µs. -/
def execLiveSend (p : Fin 16) (s : State) : Host.Outcome State Fault Refusal :=
  .next (if s.portUp p && s.chip.due s.chip.ports[p].liveDue then s.on fun c =>
      let c := c.transmit p fun h => .live h c.modNum (BitVec.ofNat 8 p.val) c.drone.now
      c.modPort p fun x => { x with liveDue := c.drone.now + 10000 }
    else s)

/-- LIVE_RECEIVE (R274, R276-R279). -/
def execLiveReceive (p : Fin 16) (h : BoreHdr) (s : State) : Host.Outcome State Fault Refusal :=
  .next (if s.portUp p then (s.on fun c => c.modPort p fun x => { x with lastLive := c.drone.now }).takeHeader p h else s)

/-- LIVE_TIMEOUT (R276). -/
def execLiveTimeout (p : Fin 16) (s : State) : Host.Outcome State Fault Refusal :=
  .next (if s.portUp p && decide (50000 ≤ s.chip.since s.chip.ports[p].lastLive) then s.losePort p .silent else s)

/-! ### Delivery (R274, R275, R338) -/

/-- The group's record lists the port for the sender's rank (R338). -/
def Group.lists (g : Group) (p : Fin 16) (rank : Nat) : Bool :=
  (decide (rank = (g.rank + 1) % g.g) && g.next.getLsbD p.val) ||
  (decide (rank = (g.rank + g.g - 1) % g.g) && g.prev.getLsbD p.val) ||
  g.peers.any fun x => decide (x.1.toNat = rank) && x.2.getLsbD p.val

/-- A frame is delivered to the owner of its group (R338). -/
def Chip.delivers (c : Chip) (p : Fin 16) (f : DataFrame) : Bool :=
  match c.group f.grp with
  | some g => g.lists p f.srank.toNat
  | none => false

/-- A frame discarded and counted (R291). -/
def Port.discarded (x : Port) : Port := { x with discard := x.discard + 1 }

/-- A DATA frame with valid checks at its port (R274): accepted in PSN order and within credit, else discarded;
NAK at the first gap, and a frame received before is acknowledged again (DEDUCED, notes/assumptions/55.md). -/
def Chip.takeData (c : Chip) (p : Fin 16) (f : DataFrame) : Chip :=
  c.modPort p fun x =>
    if f.psn = x.ackn then
      if x.waiting.length < 64 then
        let x := { x with ackn := x.ackn + 1, gap := false, ackOwed := true }
        if c.delivers p f then { x with waiting := x.waiting ++ [f] } else x.discarded
      else x
    else if (f.psn - x.ackn).toNat < 2 ^ 31 then
      if x.gap then x else { x with gap := true, nakOwed := true }
    else { x with ackOwed := true }

/-- DATA_RECEIVE (R274, R275, R281-R288, R338). -/
def execDataReceive (p : Fin 16) (f : DataFrame) (s : State) : Host.Outcome State Fault Refusal :=
  .next (if !s.portUp p then s
    else if !f.sound then s.on fun c => c.modPort p Port.discarded
    else ((s.takeHeader p f.hdr).on fun c => if c.ports[p].state = .up then c.takeData p f else c).consumeAll)

/-- A retained hop is released by its receiver's acknowledgement (R289). -/
def Group.release (g : Group) (p : Fin 16) (h : HopRef) : Group :=
  { g with retained := g.retained.filter fun x => !(decide (x.hop = h) && g.lists p x.dst.toNat) }

/-- ACK_RECEIVE (R274, R289). -/
def execAckReceive (p : Fin 16) (h : BoreHdr) (body : Option HopRef) (s : State) : Host.Outcome State Fault Refusal :=
  .next (if !s.portUp p then s
    else
      let s := s.takeHeader p h
      match body with
      | some b => s.on fun c => c.modGroup b.grp fun g => g.release p b
      | none => s)

/-- ACK_SEND (R274): 1 µs without an outgoing frame while acknowledgements are owed. -/
def execAckSend (p : Fin 16) (s : State) : Host.Outcome State Fault Refusal :=
  .next (if s.portUp p && (s.chip.ports[p].ackOwed || s.chip.ports[p].nakOwed) &&
      decide (1000 ≤ s.chip.since s.chip.ports[p].lastTx) then s.on fun c => c.transmit p fun h => .ack h none
    else s)

/-- RESEND_TIMEOUT (R274): ACKN has not advanced for 4 µs. -/
def execResendTimeout (p : Fin 16) (s : State) : Host.Outcome State Fault Refusal :=
  .next (if s.portUp p && (s.chip.ports[p].unacked.any fun f => decide (f.2 ≠ 0)) &&
      decide (4000 ≤ s.chip.since s.chip.ports[p].ackMoved) then s.resend p
    else s)

/-! ### ABORT, RESUME, no progress (R279, R280, R289) -/

/-- The collective named by an ABORT has not ended here: its SQN is the group's next one or a later one. -/
def Group.open_ (g : Group) (sqn : W32) : Bool := decide ((sqn - g.sqn).toNat < 2 ^ 31)

/-- ABORT_RECEIVE (R279, R280): ended, and passed on away from its source. -/
def execAbortReceive (p : Fin 16) (h : BoreHdr) (body : AbortBody) (s : State) : Host.Outcome State Fault Refusal :=
  .next (if !s.portUp p then s
    else
      let s := s.takeHeader p h
      match s.chip.group body.grp with
      | none => s
      | some g =>
        if g.dead || !g.allPorts.contains p || !g.open_ body.sqn then s
        else
          let ps := allParts.filter (s.chip.busyWith g)
          let out := allPorts.filter fun q => (g.maskOf p).contains q || !g.ring.contains q
          let s := s.on fun c => ((c.endGroup g out 0x0040 body.cause).dropWaiting g.grp).countLost (some p) body.cause
          let s := ps.foldl (fun s q => s.lostFault q g body.cause) s
          s.on fun c => c.settleFetches g.ten 256)

/-- The retained frames from a hop on, to the rank that a port leads to. -/
def Group.from_ (g : Group) (p : Fin 16) (h : HopRef) : List Retained :=
  (g.retained.filter fun x => g.lists p x.dst.toNat).dropWhile fun x => x.hop ≠ h

/-- RESUME_RECEIVE (R289). -/
def execResumeReceive (p : Fin 16) (h : BoreHdr) (body : HopRef) (s : State) : Host.Outcome State Fault Refusal :=
  .next (if !s.portUp p then s
    else
      let s := s.takeHeader p h
      match s.chip.group body.grp with
      | some g => if g.dead then s else s.on fun c => c.resendFrames g (g.from_ p body)
      | none => s)

/-- PROGRESS_TO in ns (R279, R291). -/
def Chip.progressNs (c : Chip) : Nat := c.mram.progressTo.toNat * 1000000

/-- Receives of a group are outstanding in a plan's prologue. -/
def Chip.awaits (c : Chip) (g : Group) (r : Running) : Bool :=
  r.inPrologue && decide (r.plan.tenant = g.ten) && r.plan.turnMap.zipIdx.any fun x =>
    decide (x.1.kind = (2 : Byte)) && decide (x.1.grp = g.grp) && (c.received r.plan x.1 x.2).isNone

/-- A collective, transfer or fetch of the group has consumed no frame for PROGRESS_TO. -/
def Chip.stalled (c : Chip) (g : Group) : Bool :=
  let late := fun (t : Stamp) => decide (c.progressNs ≤ c.since t)
  ((allParts.any fun p => match c.run p with
    | some r => (match r.coll with
      | some k => decide (k.grp = g.grp) && late k.since
      | none => false) || (c.awaits g r && late g.moved)
    | none => false) || (c.fetchOver g && late g.moved))

/-- PROGRESS_TIMEOUT (R279). -/
def execProgressTimeout (grp : BitVec 12) (s : State) : Host.Outcome State Fault Refusal :=
  .next (match s.chip.group grp with
    | none => s
    | some g => if s.chip.up && s.chip.stalled g then s.endLost g [] none 0x0040 else s)

/-- A counter that stays at its greatest value. -/
def satAdd (x : W32) (n : Nat) : W32 := BitVec.ofNat 32 (min (2 ^ 32 - 1) (x.toNat + n))

/-- The EtherTypes that a port takes: bore's, in force since the reset, and PTP's (R266, R291). -/
def Chip.etypeOk (c : Chip) (e : W16) : Bool := decide (e = c.objs.ethertypeNow) || decide (e = 0x88F7)

/-- BORE_FRAME_DISCARD (R266, R291): a frame of another EtherType, or with an invalid FCS or HCHK; the RS-FEC
codewords that came with it are counted. -/
def execBoreFrameDiscard (p : Fin 16) (etype : W16) (check : FrameCheck) (s : State) : Host.Outcome State Fault Refusal :=
  .next (s.on fun c =>
    if !(c.up && c.linked p) then c
    else
      let c := c.modPort p fun x => { x with fecCorr := satAdd x.fecCorr check.fec.1, fecUncorr := satAdd x.fecUncorr check.fec.2 }
      if c.etypeOk etype && check.checkOk then c else c.modPort p Port.discarded)

/-! ### PORT_EN (R268, R277) -/

/-- A port whose bit is cleared sends PORT_DOWN and enters DISABLED; one whose bit is set enters DOWN. -/
def Chip.portEnable (c : Chip) (p : Fin 16) (en : Bool) : Chip :=
  let x := c.ports[p]
  if en then (if x.state = .disabled then c.setPort p .down 0 else c)
  else if x.state = .disabled then c
  else
    let c := if x.state = .up then c.modPort p fun x => { x with tx := x.tx ++ c.lastLives p false true } else c
    (c.unlink p .disabled true).moveFrames p

/-- PORT_EN takes a value, effective at once (R291). -/
def Chip.setPortEn (c : Chip) (v : W16) : Chip :=
  let c := { c with mram := { c.mram with portEn := v } }
  if c.up then allPorts.foldl (fun c p => c.portEnable p (v.getLsbD p.val)) c else c

end Sys2Proof.Machine
end

