-- ==== Sys2Proof/Machine/Ptp.lean ====
section
/-! DEFINITION. Discipline of Drone by PTP (R260-R264): master selection, Syncs, states, delay measurement. -/

namespace Sys2Proof.Machine

/-- PTP runs on the port (R260, R265): PTP_PORTS as at the last reset. -/
def Chip.ptpOn (c : Chip) (p : Fin 16) : Bool := c.up && c.linked p && c.objs.ptpPortsNow.getLsbD p.val

/-! ### Drone's states (R261) -/

/-- The bytes of a signed number, least significant first. -/
def intBytes (n : Nat) (x : Int) : List Byte := leBytes n (BitVec.ofInt (8 * n) x).toNat

/-- Drone changes its state (R261, R304, R312, R374): trace point 0x0010, a DRONE record, source 10. -/
def Chip.setDrone (c : Chip) (st : DroneState) : Chip :=
  let old := c.drone.state
  if old = st then c
  else
    let d : Drone := { c.drone with
      state := st, inRun := 0, outRun := 0
      everLocked := c.drone.everLocked || decide (st = DroneState.locked)
      holdoverSince := if st = DroneState.holdover then c.drone.now else 0 }
    let c : Chip := { c with drone := d }
    let c := c.tracePoint 0x0010 0 (BitVec.ofNat 64 old.num) (BitVec.ofNat 64 st.num)
    (c.hbForm 0x0030 false (c.hubSrc 1)
      ([BitVec.ofNat 8 old.num, BitVec.ofNat 8 st.num, 0, 0] ++ intBytes 8 c.drone.offset ++
        leBytes 8 c.drone.stepNs.toNat)).raise 10

/-- An offset is within the LOCK_THR in force (R265). -/
def Chip.inThr (c : Chip) (off : Int) : Bool := decide (off.natAbs ≤ c.objs.lockThrNow.toNat)

/-- A Sync: LOG_SYNC and LOCK_THR take effect as they are now written (R265). -/
def Chip.atSync (c : Chip) : Chip :=
  { c with objs := { c.objs with logSyncNow := c.mram.logSync, lockThrNow := c.mram.lockThr } }

/-- Runs of Syncs within and beyond LOCK_THR. -/
def Drone.count (d : Drone) (inside : Bool) : Drone :=
  if inside then { d with inRun := d.inRun + 1, outRun := 0 } else { d with inRun := 0, outRun := d.outRun + 1 }

/-- LOCKED after 16 Syncs within LOCK_THR, ACQUIRE after 16 beyond it (R261). -/
def Chip.judgeRun (c : Chip) : Chip :=
  if c.drone.state = .acquire ∧ 16 ≤ c.drone.inRun then c.setDrone .locked
  else if c.drone.state = .locked ∧ 16 ≤ c.drone.outRun then c.setDrone .acquire
  else c

/-- A correction by slewing: at most 500 ppm, its size the servo's (R262; FREE VALUE, notes/assumptions/16.md). -/
def slewOf (off : Int) (n : Nat) : Int := max (-500000000) (min 500000000 (Config.servo off n))

/-- An offset measured with a Sync corrects Drone (R261, R262): one forward step before the first LOCKED where
Drone is more than 1 ms behind, else a slew. -/
def Chip.correct (c : Chip) (off : Int) : Chip :=
  let c := { c with drone := { c.drone.count (c.inThr off) with offset := off } }
  let c := if !c.drone.everLocked && decide (off < -1000000) then
      let now := c.drone.now + BitVec.ofNat 64 off.natAbs
      { c with drone := { c.drone with now := now, lastStep := now, stepNs := BitVec.ofNat 64 off.natAbs } }
    else { c with drone := { c.drone with freqAdj := slewOf off c.drawn }, drawn := c.drawn + 1 }
  c.judgeRun

/-! ### Master selection (R260) -/

/-- What the best master clock algorithm compares, in its order. -/
def announceKey (a : PtpAnnounce) : List Nat :=
  [a.prio1.toNat, a.cclass.toNat, a.accuracy.toNat, a.variance.toNat, a.prio2.toNat, a.gm.toNat, a.stepsRemoved.toNat,
    a.sender.toNat]

/-- The first list is less, place by place. -/
def keyLess : List Nat → List Nat → Bool
  | a :: as, b :: bs => decide (a < b) || (decide (a = b) && keyLess as bs)
  | _, _ => false

/-- The port with the best Announce, the lowest port among equals. -/
def Chip.bestPort (c : Chip) : Option (Fin 16 × PtpAnnounce) :=
  allPorts.foldl (fun best p => match c.ports[p].announce with
    | none => best
    | some a => if !c.ptpOn p then best
      else match best with
        | none => some (p, a)
        | some b => if keyLess (announceKey a) (announceKey b.2) then some (p, a) else best) none

/-- Roles: the port toward the best master is slave, every other PTP port master; without a master all listen
(R260). -/
def Chip.selectMaster (c : Chip) : Chip :=
  let best := c.bestPort
  let role := fun (p : Fin 16) => match best with
    | none => PtpRole.listening
    | some b => if p = b.1 then .slave else if c.ptpOn p then .master else .listening
  let ps : Vector Port 16 := Vector.ofFn fun p : Fin 16 => { c.ports[p] with ptpRole := role p }
  let d : Drone := { c.drone with slavePort := best.map Prod.fst, gmId := (best.map fun b => b.2.gm).getD 0 }
  let c : Chip := { c with ports := ps, drone := d }
  if c.drone.state = .holdover ∧ best.isSome then c.setDrone .acquire else c

/-- A PTP message of the module's one domain comes on a port that runs PTP (R260). -/
def Chip.ptpTakes (c : Chip) (p : Fin 16) (domain : Byte) : Bool :=
  c.ptpOn p && decide (domain = c.objs.ptpDomainNow)

/-- PTP_ANNOUNCE_RECEIVE (R260, R261). -/
def execPtpAnnounceReceive (p : Fin 16) (a : PtpAnnounce) (s : State) : Host.Outcome State Fault Refusal :=
  .next (s.on fun c =>
    if c.ptpTakes p a.domain then (c.modPort p fun x => { x with announce := some a }).selectMaster else c)

/-! ### Sync (R260-R262) -/

/-- The port leads to the selected master, and the message is of the module's domain. -/
def Chip.slaveOn (c : Chip) (p : Fin 16) (domain : Byte) : Bool :=
  c.ptpTakes p domain && decide (c.drone.slavePort = some p)

/-- A Sync's time of sending is known: the offset is its reception less its sending, the path delay and the port's
asymmetry (R260; IEEE 1588-2019). -/
def Chip.measure (c : Chip) (p : Fin 16) (sent : Int) (received : Stamp) : Chip :=
  let off := (received.toNat : Int) - sent - c.ports[p].pathDelay - Config.asymmetry p
  (c.modPort p fun x => { x with lastSync := none, syncPair := some (sent, received) }).correct off

/-- PTP_SYNC_RECEIVE (R260, R261, R265): a two-step Sync waits for its Follow_Up. -/
def execPtpSyncReceive (p : Fin 16) (m : PtpSync) (s : State) : Host.Outcome State Fault Refusal :=
  .next (s.on fun c =>
    if !c.slaveOn p m.domain then c
    else
      let c := c.atSync
      let c := { c with drone := { c.drone with lastSyncAt := c.drone.now } }
      let c := if c.drone.state = .free ∨ c.drone.state = .holdover then c.setDrone .acquire else c
      if m.oneStep then c.measure p (m.origin.toNat + m.correction) c.drone.now
      else c.modPort p fun x => { x with lastSync := some (m.seqId, c.drone.now, m.correction) })

/-- PTP_FOLLOW_UP_RECEIVE (R260, R261). -/
def execPtpFollowUpReceive (p : Fin 16) (h : PtpHead) (origin : PtpTime) (s : State) : Host.Outcome State Fault Refusal :=
  .next (s.on fun c =>
    if !c.slaveOn p h.domain then c
    else match c.ports[p].lastSync with
      | some (n, received, corr) =>
        if n = h.seqId then c.measure p (origin.stamp.toNat + corr + origin.correction) received else c
      | none => c)

/-- The Sync interval in ns: 2^LOG_SYNC s (R260), LOG_SYNC as it is in force (R265). -/
def Chip.syncNs (c : Chip) : Nat := 1000000000 / 2 ^ (-c.objs.logSyncNow.toInt).toNat

/-- PTP_MASTER_LOST (R261): four Sync intervals missed on every master. -/
def execPtpMasterLost (s : State) : Host.Outcome State Fault Refusal :=
  .next (s.on fun c =>
    if !(c.up && decide (4 * c.syncNs ≤ c.since c.drone.lastSyncAt)) then c
    else
      let ps : Vector Port 16 := c.ports.map fun x => { x with announce := none, lastSync := none }
      let c : Chip := Chip.selectMaster { c with ports := ps }
      if c.drone.state = .locked ∨ (c.drone.state = .acquire ∧ c.drone.everLocked) then c.setDrone .holdover else c)

/-- A frame of PTP sent on a port. -/
def Chip.ptpSend (c : Chip) (p : Fin 16) (f : TxFrame) : Chip := c.modPort p fun x => { x with tx := x.tx ++ [f] }

/-- The module's clock identity: the modified EUI-64 of MAC_BORE (PRESUMED, notes/assumptions/109.md). -/
def Chip.clockId (c : Chip) : W64 :=
  (c.mram.macBore.extractLsb' 24 24 ++ (0xFFFE : W16) ++ c.mram.macBore.extractLsb' 0 24 : W64)

/-- What the module announces as a boundary clock: its grandmaster, one step further (R260). -/
def Chip.announces (c : Chip) : Option PtpAnnounce :=
  c.bestPort.map fun b => { b.2 with
    domain := c.objs.ptpDomainNow, stepsRemoved := b.2.stepsRemoved + 1, sender := c.clockId }

/-- PTP_SYNC_SEND (R260, R265): two-step, from a master port at 2^LOG_SYNC per second, with an Announce (DESIGN CHOICE,
notes/assumptions/109.md). -/
def execPtpSyncSend (p : Fin 16) (s : State) : Host.Outcome State Fault Refusal :=
  .next (s.on fun c =>
    if c.ptpOn p && decide (c.ports[p].ptpRole = .master) && c.due c.ports[p].syncDue then
      let c := c.atSync
      let n := c.ports[p].ptpSeq
      let c := match c.announces with
        | some a => c.ptpSend p (.ptpAnnounce a)
        | none => c
      let c := (c.ptpSend p (.ptpSync n c.drone.now)).ptpSend p (.ptpFollowUp n c.drone.now)
      c.modPort p fun x => { x with ptpSeq := n + 1, syncDue := c.drone.now + BitVec.ofNat 64 c.syncNs }
    else c)

/-! ### Path delay (R260) -/

/-- PTP_DELAY_REQ_RECEIVE (R260): answered on a master port with the stamp of its reception. -/
def execPtpDelayReqReceive (p : Fin 16) (h : PtpHead) (source : W64) (s : State) : Host.Outcome State Fault Refusal :=
  .next (s.on fun c =>
    if c.ptpTakes p h.domain && decide (c.ports[p].ptpRole = .master) then
      c.ptpSend p (.ptpDelayResp h.seqId source c.drone.now)
    else c)

/-- PTP_DELAY_REQ_SEND (R260), at 2^LOG_SYNC per second: Delay_Req on a slave port, Pdelay_Req on a port whose partner offers peer delay. -/
def execPtpDelayReqSend (p : Fin 16) (s : State) : Host.Outcome State Fault Refusal :=
  .next (s.on fun c =>
    if c.ptpOn p && (c.ports[p].peerDelay || decide (c.ports[p].ptpRole = .slave)) && c.due c.ports[p].delayReqDue then
      let n := c.ports[p].delaySeq + 1
      let f := if c.ports[p].peerDelay then TxFrame.ptpPdelayReq n c.drone.now else .ptpDelayReq n c.drone.now
      (c.ptpSend p f).modPort p fun x => { x with
        delaySeq := n, delayAt := c.drone.now, delayReqDue := c.drone.now + BitVec.ofNat 64 c.syncNs }
    else c)

/-- PTP_DELAY_RESP_RECEIVE (R260): half of the way there and the way back; the Sync's way is its reception less its
sending, the Delay_Req's the master's stamp less its own sending (IEEE 1588-2019). -/
def execPtpDelayRespReceive (p : Fin 16) (h : PtpHead) (received : PtpTime) (s : State) : Host.Outcome State Fault Refusal :=
  .next (s.on fun c =>
    if c.slaveOn p h.domain && !c.ports[p].peerDelay && decide (c.ports[p].delaySeq = h.seqId) then
      match c.ports[p].syncPair with
      | some (sent, at_) =>
        let back := (received.stamp.toNat : Int) - received.correction - c.ports[p].delayAt.toNat
        c.modPort p fun x => { x with pathDelay := (((at_.toNat : Int) - sent) + back) / 2 }
      | none => c
    else c)

/-- PTP_PDELAY_REQ_RECEIVE (R260): the partner offers peer delay. -/
def execPtpPdelayReqReceive (p : Fin 16) (h : PtpHead) (source : W64) (s : State) : Host.Outcome State Fault Refusal :=
  .next (s.on fun c =>
    if c.ptpTakes p h.domain then
      (c.modPort p fun x => { x with peerDelay := true }).ptpSend p (.ptpPdelayResp h.seqId source c.drone.now)
    else c)

/-- PTP_PDELAY_RESP_RECEIVE (R260): half of the round trip less the partner's turn-around. -/
def execPtpPdelayRespReceive (p : Fin 16) (h : PtpHead) (turn : Int) (s : State) : Host.Outcome State Fault Refusal :=
  .next (s.on fun c =>
    if c.ptpTakes p h.domain && c.ports[p].peerDelay && decide (c.ports[p].delaySeq = h.seqId) then
      c.modPort p fun x => { x with pathDelay := ((c.since c.ports[p].delayAt : Int) - turn) / 2 }
    else c)

end Sys2Proof.Machine
end

