-- ==== Sys2Proof/Machine/Objects.lean ====
section
/-! DEFINITION. The object dictionary (R360, R371 and the object tables of the other chapters): the objects, their
types, levels, directions and ranges, what a read gives and what a write sets. -/

namespace Sys2Proof.Machine

/-! ### The objects -/

/-- Every object of the dictionary, by its field name. -/
inductive ObjName where
  | serial | orderCode | hwgen | tiles | macMgmt | macBore | mfgStamp | idCert
  | capW | capActive | capApplied | capPending | pIn | vIn | iIn | eIn | pDie | pPart
  | limState | limCause | limSince | emergCount | emergNs | clampCount | tripCount | lastTrip | lastTripStamp
  | tTile | tHbm | tLpddr | tOther | holdupMj | supplyFaults
  | silentN | silentAction | silentThr | silentMask | decayFloor | thrOverride | silentCount | lastSilent
  | lastSilentStamp | nonfiniteCount | lastNonfinite
  | tenState | tenPlan | partSet | intrCount | intrMaxNs | tfaultCount | tilesOut | lanesSpare | mfault
  | curEpoch | liveEpochs | bankUsed | retainSteps
  | portState | portPeer | portLambda | portResend | portDiscard | portFec | portLoss | portEn | ethertype | boreVer
  | mixedOk | progressTo | peerLostCount | mismatchCount | lastPeerLost
  | droneState | offsetNs | freqAdj | ptpDomain | ptpPorts | logSync | slavePort | gmId | lockThr | lastStep | stepNs
  | holdoverSince | moduleNum | droopTile | droopHub | islCaldef | islDerated
  | plcaNode | hbMs | plcaState | mgmtRx | mgmtRxDrop | mgmtRefused | mgmtAddr
  | fwRel | fwQueued | actState | lastAct | bootCount | featPf | drvState | drvRel | attachStamp | hbTimeout
  | hbLossCount | lastHbLoss | logLevel | traceGroups | logLost
  | hbLast | hbFirstGen | hbFirstCrit | hbDropped | hbTorn | hbCapGen | hbCapCrit
  | lstate | failCount | lockoutLeft | bar2Miss | chalLevel | chalNonce | chalResp | password | newPassword | close
  | debugEn | keyIndex | rotate | keySlots
  | t1Total | t2Total | hostRegion | spTotal | hostNext | ceT1 | ceT2 | ceSp | ceLink | resendLink
  | ueT1 | ueT2 | ueSp | ueScrub | ueFault | lastUe | lastUeStamp | lastUeOutcome | ceAlert | ceLifetime | ueLifetime
  | cePc | cePcHi | ceCh2 | imb | imbThr | kgen | rotPending | rotCount | lastRot | imbPeak
  | caldefT1 | caldefDqs | caldefZq | guardT1 | guardT2 | guardCount | oldestCal | scrubEn | scrubSweep
  deriving DecidableEq, Repr

/-- Which directions an object allows. -/
inductive Dir where
  | ro | wo | rw
  deriving DecidableEq, Repr

/-- A row of the dictionary: sub-indices `lo` to `lo + n - 1`; `fw`: the value comes from Chanter firmware (R353;
DEDUCED, notes/assumptions/56.md). -/
structure ObjRow where
  name : ObjName
  index : Nat
  lo : Nat
  n : Nat
  type : OType
  level : Nat
  dir : Dir
  fw : Bool
  deriving DecidableEq, Repr

/-- A public object that is only read, and takes its value from hardware, MRAM or the agent. -/
def pub (name : ObjName) (index lo n : Nat) (type : OType) : ObjRow := ⟨name, index, lo, n, type, 0, .ro, false⟩

/-- A public object that is only read, and takes its value from Chanter firmware. -/
def fwr (name : ObjName) (index lo n : Nat) (type : OType) : ObjRow := ⟨name, index, lo, n, type, 0, .ro, true⟩

/-- An operator object that is read and written. -/
def oper (name : ObjName) (index lo n : Nat) (type : OType) (fw : Bool) : ObjRow := ⟨name, index, lo, n, type, 1, .rw, fw⟩

/-- Identity, power and thermal (R326, R331, R352, R371). -/
def objRows1 : List ObjRow :=
  [pub .serial 0x1000 0 1 .u64, pub .orderCode 0x1000 1 1 .str, pub .hwgen 0x1000 2 1 .u8, pub .tiles 0x1000 3 1 .u16,
   pub .macMgmt 0x1000 4 1 .u64, pub .macBore 0x1000 5 1 .u64, pub .mfgStamp 0x1000 6 1 .time64,
   pub .idCert 0x1010 0 1 .blob,
   oper .capW 0x2000 0 1 .u16 false, pub .capActive 0x2000 1 1 .u16, pub .capApplied 0x2000 2 1 .time64,
   pub .capPending 0x2000 3 1 .bool,
   pub .pIn 0x2001 0 1 .u16, pub .vIn 0x2001 1 1 .u32, pub .iIn 0x2001 2 1 .u32, pub .eIn 0x2001 3 1 .u64,
   pub .pDie 0x2002 0 4 .u16, pub .pPart 0x2002 4 5 .u16,
   pub .limState 0x2010 0 1 .u8, pub .limCause 0x2010 1 1 .u16, pub .limSince 0x2010 2 1 .time64,
   pub .emergCount 0x2010 3 1 .u32, pub .emergNs 0x2010 4 1 .u64, pub .clampCount 0x2010 5 1 .u32,
   pub .tripCount 0x2011 0 1 .u32, pub .lastTrip 0x2011 1 1 .u64, pub .lastTripStamp 0x2011 2 1 .time64,
   pub .tTile 0x2100 0 68 .i32, pub .tHbm 0x2101 0 12 .i32, pub .tLpddr 0x2102 0 16 .i32, pub .tOther 0x2103 0 4 .i32,
   pub .holdupMj 0x2110 0 1 .u32, pub .supplyFaults 0x2110 1 1 .u32]

/-- Numerics monitor, tenants, plans, faults, epochs (R164, R213, R371, R395). -/
def objRows2 : List ObjRow :=
  [oper .silentN 0x3100 0 1 .u32 false, oper .silentAction 0x3100 1 1 .u8 false, oper .silentThr 0x3100 2 1 .f32 false,
   oper .silentMask 0x3100 3 1 .u16 true, oper .decayFloor 0x3100 4 1 .bool false,
   oper .thrOverride 0x3110 0 64 .u64 true,
   fwr .silentCount 0x3120 0 1 .u32, fwr .lastSilent 0x3120 1 1 .u64, fwr .lastSilentStamp 0x3120 2 1 .time64,
   fwr .nonfiniteCount 0x3130 0 1 .u32, fwr .lastNonfinite 0x3130 1 1 .u64,
   fwr .tenState 0x4000 0 16 .u8, fwr .tenPlan 0x4001 0 16 .u16, fwr .partSet 0x4002 0 1 .u32,
   fwr .intrCount 0x4100 0 1 .u32, fwr .intrMaxNs 0x4100 1 1 .u32, fwr .tfaultCount 0x4100 2 1 .u32,
   fwr .tilesOut 0x4100 3 1 .blob, fwr .lanesSpare 0x4100 4 1 .u32, fwr .mfault 0x4100 5 1 .bool,
   fwr .curEpoch 0x4300 0 16 .u16, fwr .liveEpochs 0x4301 0 16 .u64, fwr .bankUsed 0x4302 0 16 .u16,
   oper .retainSteps 0x4310 0 1 .u32 false]

/-- Bore, time, management port (R265, R291, R371). -/
def objRows3 : List ObjRow :=
  [pub .portState 0x5000 0 16 .u8, pub .portPeer 0x5001 0 16 .u64, pub .portLambda 0x5002 0 16 .u32,
   pub .portResend 0x5003 0 16 .u32, pub .portDiscard 0x5004 0 16 .u32, pub .portFec 0x5005 0 16 .u64,
   pub .portLoss 0x5006 0 16 .u32,
   oper .portEn 0x5200 0 1 .u16 false, oper .ethertype 0x5200 1 1 .u16 false, pub .boreVer 0x5200 2 1 .u32,
   oper .mixedOk 0x5210 0 1 .u16 true, oper .progressTo 0x5220 0 1 .u32 false,
   pub .peerLostCount 0x5230 0 1 .u32, pub .mismatchCount 0x5230 1 1 .u32, pub .lastPeerLost 0x5230 2 1 .u64,
   pub .droneState 0x5400 0 1 .u8, pub .offsetNs 0x5400 1 1 .i32, pub .freqAdj 0x5400 2 1 .i32,
   oper .ptpDomain 0x5400 3 1 .u8 false, oper .ptpPorts 0x5400 4 1 .u16 false, oper .logSync 0x5400 5 1 .i32 false,
   pub .slavePort 0x5400 6 1 .u8, pub .gmId 0x5400 7 1 .u64, oper .lockThr 0x5400 8 1 .u32 false,
   pub .lastStep 0x5400 9 1 .time64, pub .stepNs 0x5400 10 1 .u64, pub .holdoverSince 0x5400 11 1 .time64,
   oper .moduleNum 0x5401 0 1 .u16 false, pub .droopTile 0x5402 0 68 .u32, pub .droopHub 0x5403 0 9 .u32,
   pub .islCaldef 0x5404 0 1 .u32, pub .islDerated 0x5404 1 1 .u8,
   pub .plcaNode 0x5500 0 1 .u8, oper .hbMs 0x5500 1 1 .u16 false, pub .plcaState 0x5500 2 1 .u8,
   pub .mgmtRx 0x5500 3 1 .u32, pub .mgmtRxDrop 0x5500 4 1 .u32, pub .mgmtRefused 0x5500 5 1 .u32,
   pub .mgmtAddr 0x5500 6 1 .blob]

/-- Firmware, Hatband, security (R316, R352, R378). -/
def objRows4 : List ObjRow :=
  [fwr .fwRel 0x6000 0 1 .u32, fwr .fwQueued 0x6000 1 1 .u32, fwr .actState 0x6000 2 1 .u8, fwr .lastAct 0x6000 3 1 .time64,
   pub .bootCount 0x6000 4 1 .u32, fwr .featPf 0x6010 0 1 .blob,
   fwr .drvState 0x6020 0 1 .u8, fwr .drvRel 0x6020 1 1 .u32, fwr .attachStamp 0x6020 2 1 .time64,
   oper .hbTimeout 0x6040 0 1 .u32 false, fwr .hbLossCount 0x6040 1 1 .u32, fwr .lastHbLoss 0x6040 2 1 .time64,
   oper .logLevel 0x6050 0 1 .u8 false, oper .traceGroups 0x6050 1 1 .u64 true, fwr .logLost 0x6050 2 1 .u32,
   pub .hbLast 0x7000 0 1 .u64, pub .hbFirstGen 0x7000 1 1 .u64, pub .hbFirstCrit 0x7000 2 1 .u64,
   pub .hbDropped 0x7000 3 1 .u32, pub .hbTorn 0x7000 4 1 .u32, pub .hbCapGen 0x7000 5 1 .u32,
   pub .hbCapCrit 0x7000 6 1 .u32,
   pub .lstate 0x8000 0 1 .u16, pub .failCount 0x8000 1 1 .u8, pub .lockoutLeft 0x8000 2 1 .u32,
   pub .bar2Miss 0x8000 3 1 .u32,
   ⟨.chalLevel, 0x8001, 0, 1, .u8, 0, .wo, false⟩, pub .chalNonce 0x8001 1 1 .blob,
   ⟨.chalResp, 0x8001, 2, 1, .blob, 0, .wo, false⟩, ⟨.password, 0x8002, 0, 1, .blob, 0, .wo, false⟩,
   ⟨.newPassword, 0x8002, 1, 1, .blob, 1, .wo, false⟩, ⟨.close, 0x8003, 0, 1, .u8, 0, .wo, false⟩,
   ⟨.debugEn, 0x8004, 0, 1, .bool, 2, .rw, false⟩, pub .keyIndex 0x8010 0 1 .u8,
   ⟨.rotate, 0x8010, 1, 1, .blob, 3, .wo, false⟩, pub .keySlots 0x8020 0 16 .u8]

/-- Memory and calibration (R190, R247). -/
def objRows5 : List ObjRow :=
  [pub .t1Total 0x9000 0 1 .u64, pub .t2Total 0x9000 1 1 .u64, pub .hostRegion 0x9000 2 1 .u64, pub .spTotal 0x9000 3 1 .u64,
   pub .hostNext 0x9000 4 1 .u64,
   pub .ceT1 0x9100 0 1 .u64, pub .ceT2 0x9100 1 1 .u64, pub .ceSp 0x9100 2 1 .u64, pub .ceLink 0x9100 3 1 .u64,
   pub .resendLink 0x9100 4 1 .u64,
   pub .ueT1 0x9101 0 1 .u32, pub .ueT2 0x9101 1 1 .u32, pub .ueSp 0x9101 2 1 .u32, pub .ueScrub 0x9101 3 1 .u32,
   pub .ueFault 0x9101 4 1 .u32,
   pub .lastUe 0x9102 0 1 .u64, pub .lastUeStamp 0x9102 1 1 .time64, pub .lastUeOutcome 0x9102 2 1 .u16,
   oper .ceAlert 0x9103 0 1 .u32 false, pub .ceLifetime 0x9104 0 1 .u64, pub .ueLifetime 0x9104 1 1 .u64,
   pub .cePc 0x9110 0 256 .u32, pub .cePcHi 0x9111 0 128 .u32, pub .ceCh2 0x9112 0 64 .u32,
   pub .imb 0x9120 0 1 .u8, oper .imbThr 0x9120 1 1 .u8 false, pub .kgen 0x9120 2 1 .u16, pub .rotPending 0x9120 3 1 .bool,
   pub .rotCount 0x9120 4 1 .u32, pub .lastRot 0x9120 5 1 .time64, pub .imbPeak 0x9120 6 1 .u8,
   pub .caldefT1 0x9200 0 1 .u32, pub .caldefDqs 0x9200 1 1 .u32, pub .caldefZq 0x9200 2 1 .u32,
   pub .guardT1 0x9200 3 1 .u16, pub .guardT2 0x9200 4 1 .u8, pub .guardCount 0x9200 5 1 .u32,
   pub .oldestCal 0x9200 6 1 .time64,
   oper .scrubEn 0x9210 0 1 .bool false, pub .scrubSweep 0x9210 1 1 .u64]

def objRows : List ObjRow := objRows1 ++ objRows2 ++ objRows3 ++ objRows4 ++ objRows5

/-- The row of an object, with its place among the row's sub-indices; none: no such object (R371). -/
def objFind (o : ObjId) : Option (ObjRow × Nat) :=
  (objRows.find? fun r => decide (r.index = o.index.toNat) && decide (r.lo ≤ o.sub.toNat) &&
    decide (o.sub.toNat < r.lo + r.n)).map fun r => (r, o.sub.toNat - r.lo)

/-! ### Types (R360) -/

/-- The value bytes of a fixed-size type; none for STR and BLOB. -/
def typeSize : OType → Option Nat
  | .u8 | .bool => some 1
  | .u16 => some 2
  | .u32 | .i32 | .f32 => some 4
  | .u64 | .time64 => some 8
  | .str | .blob => none

/-- A signed number saturated into 32 bits. -/
def sat32i (x : Int) : Nat := (BitVec.ofInt 32 (max (-2147483648) (min 2147483647 x))).toNat

/-! ### Values -/

/-- The element of a vector at a place below its size. -/
def vecAt {α : Type} {n : Nat} (d : α) (v : Vector α n) (i : Nat) : α := if h : i < n then v[i] else d

def boolNat (b : Bool) : Nat := if b then 1 else 0

/-- The management port's link-local address: fe80::/64 with a modified EUI-64 interface ID (R356). -/
def Chip.mgmtAddr (c : Chip) : BitVec 128 :=
  let m := c.mram.macMgmt
  let hi : BitVec 24 := m.extractLsb' 24 24 ^^^ 0x020000
  (0xFE80000000000000 : BitVec 64) ++ hi ++ (0xFFFE : BitVec 16) ++ m.extractLsb' 0 24

/-- EMERG_NS with the emergency in progress (R331). -/
def Chip.emergNs (c : Chip) : Nat :=
  c.limiter.emergNs.toNat + if c.limiter.state = .emergency then c.since c.limiter.since else 0

/-- ACT_STATE (R316). -/
def Chip.actState (c : Chip) : Nat :=
  if c.boot.queued.isNone then 0 else if c.boot.queueRefused || decide (c.limiter.state ≠ .normal) then 2 else 1

/-- LIVE_EPOCHS of a tenant (R213): up to four copies not FREE, the newest in [63:48]. -/
def Tenant.liveEpochs (t : Tenant) : Nat :=
  ((t.copies.filter fun k => k.adapter.isNone).take 4).zipIdx.foldl (fun a x => a + x.1.epoch.toNat * 2 ^ (48 - 16 * x.2)) 0

/-- KEY_SLOTS of a tenant (R352): bit s where slot s is LOADED. -/
def Tenant.keySlots (t : Tenant) : Nat :=
  t.keys.toList.zipIdx.foldl (fun a x => a + match x.1 with
    | .loaded _ => 2 ^ x.2
    | _ => 0) 0

/-- PART_SET (R371). -/
def Chip.partSetVal (c : Chip) : Nat :=
  c.nparts * 2 ^ 24 + c.parts.toList.zipIdx.foldl (fun a x => a + (if x.2 < c.nparts then x.1.cols else 0) * 2 ^ (12 - 4 * x.2)) 0

/-- PORT_PEER (R291). -/
def Port.peerVal (x : Port) : Nat :=
  match x.peer with
  | some h => h.modnum.toNat * 2 ^ 48 + h.port.toNat * 2 ^ 40 + x.ver.toNat * 2 ^ 24
  | none => 0

/-- The oldest last-honoured window of any memory unit and kind (R247). -/
def Chip.oldestCal (c : Chip) : Nat :=
  let all := c.calPc.toList ++ c.calDqs.toList ++ c.calZq.toList
  if all.all CalState.honoured then (all.map fun x => x.last.toNat).foldl min (2 ^ 64 - 1) else 0

/-- The oldest HSEQ of an area. -/
def firstSeq (l : List HbStored) : Nat := (l.head?.map fun x => x.hb.hseq.toNat).getD 0

/-- The value of an object of fixed size, as a number; `k`: its place among the row's sub-indices. -/
def Chip.objVal (c : Chip) (name : ObjName) (k : Nat) : Nat :=
  let m := c.mram
  let l := c.limiter
  let o := c.objs
  let e := c.memObj
  let d := c.drone
  let ten := fun (f : Tenant → Nat) => f (vecAt Tenant.reset c.tenants k)
  let port := fun (f : Port → Nat) => f (vecAt Port.reset c.ports k)
  match name with
  | .serial => m.serial.toNat
  | .hwgen => m.hwgen.toNat
  | .tiles => if m.mc64 then 64 else 56
  | .macMgmt => m.macMgmt.toNat
  | .macBore => m.macBore.toNat
  | .mfgStamp => m.mfgStamp.toNat
  | .capW => m.capW.toNat
  | .capActive => l.capActive.toNat
  | .capApplied => l.capApplied.toNat
  | .capPending => boolNat l.capPending
  | .pIn => c.sensor 0x2001 0
  | .vIn => c.sensor 0x2001 1
  | .iIn => c.sensor 0x2001 2
  | .eIn => c.sensor 0x2001 3
  | .pDie => c.sensor 0x2002 k
  | .pPart => c.sensor 0x2002 (k + 4)
  | .limState => l.state.num
  | .limCause => l.causeMask.toNat
  | .limSince => l.since.toNat
  | .emergCount => l.emergCount.toNat
  | .emergNs => c.emergNs
  | .clampCount => l.clampCount.toNat
  | .tripCount => m.tripCount.toNat
  | .lastTrip => m.lastTrip.toNat
  | .lastTripStamp => m.lastTripStamp.toNat
  | .tTile => c.sensor 0x2100 k
  | .tHbm => c.sensor 0x2101 k
  | .tLpddr => c.sensor 0x2102 k
  | .tOther => c.sensor 0x2103 k
  | .holdupMj => c.boot.holdupMj.toNat
  | .supplyFaults => m.supplyFaults.toNat
  | .silentN => m.silentN.toNat
  | .silentAction => m.silentAction.toNat
  | .silentThr => m.silentThr.toNat
  | .silentMask => o.silentMask.toNat
  | .decayFloor => boolNat m.decayFloor
  | .thrOverride => (vecAt 0 o.thrOverride k).toNat
  | .silentCount => o.silentCount.toNat
  | .lastSilent => o.lastSilent.toNat
  | .lastSilentStamp => o.lastSilentStamp.toNat
  | .nonfiniteCount => o.nonfiniteCount.toNat
  | .lastNonfinite => o.lastNonfinite.toNat
  | .tenState => ten fun t => match t.fstate with
    | .idle => 0
    | .running => 1
    | .paused => 2
    | .faulted => 3
  | .tenPlan => ((c.runOf (Fin.ofNat 16 k)).map fun r => r.plan.id.toNat).getD 0
  | .partSet => c.partSetVal
  | .intrCount => c.faults.intrCount.toNat
  | .intrMaxNs => c.faults.intrMaxNs.toNat
  | .tfaultCount => c.faults.tfaultCount.toNat
  | .lanesSpare => c.faults.spareUsed.toList.sum
  | .mfault => boolNat c.faults.mfault
  | .curEpoch => ten fun t => (t.curEpoch.map fun e => e.toNat).getD 0
  | .liveEpochs => ten Tenant.liveEpochs
  | .bankUsed => ten fun t => (t.copies.filter fun x => x.adapter.isSome).length
  | .retainSteps => m.retainSteps.toNat
  | .portState => port fun x => x.state.num
  | .portPeer => port Port.peerVal
  | .portLambda => port fun x => x.lambda.toNat
  | .portResend => port fun x => x.resend.toNat
  | .portDiscard => port fun x => x.discard.toNat
  | .portFec => port fun x => x.fecUncorr.toNat * 2 ^ 32 + x.fecCorr.toNat
  | .portLoss => port fun x => x.loss.toNat
  | .portEn => m.portEn.toNat
  | .ethertype => m.ethertype.toNat
  | .boreVer => c.boreVer.toNat
  | .mixedOk => c.bore.mixedOk.toNat
  | .progressTo => m.progressTo.toNat
  | .peerLostCount => c.bore.peerLost.toNat
  | .mismatchCount => c.bore.mismatch.toNat
  | .lastPeerLost => c.bore.lastPeerLost.toNat
  | .droneState => d.state.num
  | .offsetNs => sat32i d.offset
  | .freqAdj => sat32i d.freqAdj
  | .ptpDomain => m.ptpDomain.toNat
  | .ptpPorts => m.ptpPorts.toNat
  | .logSync => m.logSync.toNat
  | .slavePort => (d.slavePort.map Fin.val).getD 0xFF
  | .gmId => d.gmId.toNat
  | .lockThr => m.lockThr.toNat
  | .lastStep => d.lastStep.toNat
  | .stepNs => d.stepNs.toNat
  | .holdoverSince => d.holdoverSince.toNat
  | .moduleNum => m.moduleNum.toNat
  | .droopTile => (spGet 0 o.droopTile k).toNat
  | .droopHub => (spGet 0 o.droopHub k).toNat
  | .islCaldef => o.islCaldef.toNat
  | .islDerated => (c.calIsl.toList.filter fun x => x.limited).length
  | .plcaNode => c.mgmt.plcaNode.toNat
  | .hbMs => m.hbMs.toNat
  | .plcaState => boolNat c.mgmt.plcaState
  | .mgmtRx => c.mgmt.rx.toNat
  | .mgmtRxDrop => c.mgmt.rxDrop.toNat
  | .mgmtRefused => c.mgmt.refused.toNat
  | .fwRel => c.boot.fwRel.toNat
  | .fwQueued => (c.boot.queued.map fun i => i.fwrel.toNat).getD 0
  | .actState => c.actState
  | .lastAct => c.boot.lastAct.toNat
  | .bootCount => m.bootCount.toNat
  | .drvState => c.driver.state.num
  | .drvRel => c.boot.drvRel.toNat
  | .attachStamp => c.driver.attachStamp.toNat
  | .hbTimeout => m.hbTimeout.toNat
  | .hbLossCount => c.driver.lossCount.toNat
  | .lastHbLoss => c.driver.lastLoss.toNat
  | .logLevel => m.logLevel.toNat
  | .traceGroups => o.traceGroups.toNat
  | .logLost => o.logLost.toNat
  | .hbLast => c.hatband.lastSeq.toNat
  | .hbFirstGen => firstSeq c.hatband.gen
  | .hbFirstCrit => firstSeq c.hatband.crit
  | .hbDropped => m.hbDropped.toNat
  | .hbTorn => m.hbTorn.toNat
  | .hbCapGen => 163840
  | .hbCapCrit => 16384
  | .lstate => c.lstate.toNat
  | .failCount => m.failCount.toNat
  | .lockoutLeft => m.lockoutLeft
  | .bar2Miss => c.gate.bar2Miss.toNat
  | .debugEn => boolNat c.gate.debugPort
  | .keyIndex => m.keyIndex.toNat
  | .keySlots => ten Tenant.keySlots
  | .t1Total => 576000000000
  | .t2Total => 1024000000000
  | .hostRegion => m.hostRegion.toNat
  | .spTotal => if m.mc64 then 2147483648 else 1879048192
  | .hostNext => m.hostNext.toNat
  | .ceT1 => e.ceT1.toNat
  | .ceT2 => e.ceT2.toNat
  | .ceSp => e.ceSp.toNat
  | .ceLink => e.ceLink.toNat
  | .resendLink => e.resendLink.toNat
  | .ueT1 => e.ueT1.toNat
  | .ueT2 => e.ueT2.toNat
  | .ueSp => e.ueSp.toNat
  | .ueScrub => e.ueScrub.toNat
  | .ueFault => e.ueFault.toNat
  | .lastUe => e.lastUe.toNat
  | .lastUeStamp => e.lastUeStamp.toNat
  | .lastUeOutcome => e.lastUeOutcome.toNat
  | .ceAlert => m.ceAlert.toNat
  | .ceLifetime => m.ceLifetime.toNat
  | .ueLifetime => m.ueLifetime.toNat
  | .cePc => (spGet 0 e.cePc k).toNat
  | .cePcHi => (spGet 0 e.cePc (k + 256)).toNat
  | .ceCh2 => (spGet 0 e.ceCh2 k).toNat
  | .imb => e.imb.toNat
  | .imbThr => m.imbThr.toNat
  | .kgen => e.kgen.toNat
  | .rotPending => boolNat e.rotPending
  | .rotCount => e.rotCount.toNat
  | .lastRot => e.lastRot.toNat
  | .imbPeak => e.imbPeak.toNat
  | .caldefT1 => e.caldefT1.toNat
  | .caldefDqs => e.caldefDqs.toNat
  | .caldefZq => e.caldefZq.toNat
  | .guardT1 => (c.calPc.toList.filter fun x => x.limited).length
  | .guardT2 => ((c.calDqs.toList.zip c.calZq.toList).filter fun x => x.1.limited || x.2.limited).length
  | .guardCount => e.guardCount.toNat
  | .oldestCal => c.oldestCal
  | .scrubEn => boolNat m.scrubEn
  | .scrubSweep => e.scrubSweep.toNat
  | .orderCode | .idCert | .tilesOut | .mgmtAddr | .featPf | .chalNonce => 0
  | .chalLevel | .chalResp | .password | .newPassword | .close | .rotate => 0

/-- The bytes of the objects without a fixed size. -/
def Chip.objBlob (c : Chip) (name : ObjName) : List Byte :=
  match name with
  | .orderCode => if c.mram.mc64 then [0x4C, 0x50, 0x58, 0x2D, 0x4D, 0x43, 0x36, 0x34] else [0x4C, 0x50, 0x58, 0x2D, 0x4D, 0x43, 0x35, 0x36]
  | .idCert => c.mram.idCert
  | .tilesOut => leBytes 16 (c.faults.tilesOut.eraseDups.foldl (fun a t => a + 2 ^ t.val) 0)
  | .mgmtAddr => (leBytes 16 c.mgmtAddr.toNat).reverse
  | .featPf => leBytes 32 (c.pfn.featAgreed.getD 0).toNat
  | .chalNonce => leBytes 32 c.gate.chalNonce.toNat
  | _ => []

/-- What an object reads as by default: what a firmware-supplied one gives until BOOT_STATE reaches SELFTEST
(R353). -/
def Chip.objDefault (c : Chip) (r : ObjRow) : List Byte :=
  match typeSize r.type with
  | some n => leBytes n (if r.name = .partSet then (if c.mram.mc64 then 0x01008000 else 0x01007000) else 0)
  | none => List.replicate (if r.name = .tilesOut then 16 else 32) 0

/-- The value of an object (R353, R360). -/
def Chip.objRead (c : Chip) (r : ObjRow) (k : Nat) : List Byte :=
  if r.fw && !c.served then c.objDefault r
  else match typeSize r.type with
    | some n => leBytes n (c.objVal r.name k)
    | none => c.objBlob r.name

/-! ### Writes -/

/-- The stated range of an object (R360 for BOOL); other values of the type are all allowed. -/
def objRange (name : ObjName) (v : Nat) : Bool :=
  let rng := fun (lo hi : Nat) => decide (lo ≤ v) && decide (v ≤ hi)
  match name with
  | .capW => rng 1200 3600
  | .silentN => rng 1 1000000
  | .silentAction => rng 0 2
  | .decayFloor | .scrubEn | .debugEn => rng 0 1
  | .retainSteps => rng 0 1000000
  | .progressTo => rng 100 600000
  | .logSync => decide (v = 0) || rng (2 ^ 32 - 7) (2 ^ 32 - 1)
  | .lockThr => rng 5 1000
  | .hbMs => rng 10 1000
  | .hbTimeout => rng 200 60000
  | .chalLevel => rng 2 3
  | .close => rng 0 3
  | .imbThr => rng 5 100
  | _ => true

/-- The objects of MRAM that a write sets and nothing else (R369). -/
def Mram.objSet (m : Mram) (name : ObjName) (v : Nat) : Mram :=
  match name with
  | .silentN => { m with silentN := BitVec.ofNat 32 v }
  | .silentAction => { m with silentAction := BitVec.ofNat 8 v }
  | .silentThr => { m with silentThr := BitVec.ofNat 32 v }
  | .decayFloor => { m with decayFloor := decide (v = 1) }
  | .retainSteps => { m with retainSteps := BitVec.ofNat 32 v }
  | .ethertype => { m with ethertype := BitVec.ofNat 16 v }
  | .progressTo => { m with progressTo := BitVec.ofNat 32 v }
  | .ptpDomain => { m with ptpDomain := BitVec.ofNat 8 v }
  | .ptpPorts => { m with ptpPorts := BitVec.ofNat 16 v }
  | .logSync => { m with logSync := BitVec.ofNat 32 v }
  | .lockThr => { m with lockThr := BitVec.ofNat 32 v }
  | .moduleNum => { m with moduleNum := BitVec.ofNat 16 v }
  | .hbMs => { m with hbMs := BitVec.ofNat 16 v }
  | .hbTimeout => { m with hbTimeout := BitVec.ofNat 32 v }
  | .logLevel => { m with logLevel := BitVec.ofNat 8 v }
  | .ceAlert => { m with ceAlert := BitVec.ofNat 32 v }
  | .imbThr => { m with imbThr := BitVec.ofNat 8 v }
  | .scrubEn => { m with scrubEn := decide (v = 1) }
  | _ => m

/-- Bits [43:33] of a THR_OVERRIDE are reserved: a write to them is ignored (R8, R164). -/
def thrWord (v : Nat) : W64 := BitVec.ofNat 64 v &&& 0xFFFFF001FFFFFFFF

/-- A write of an object without behaviour of its own (R365). -/
def Chip.objSet (c : Chip) (name : ObjName) (k v : Nat) : Chip :=
  match name with
  | .silentMask => { c with objs := { c.objs with silentMask := BitVec.ofNat 16 v } }
  | .thrOverride =>
    { c with objs := { c.objs with thrOverride := if h : k < 64 then c.objs.thrOverride.set k (thrWord v) else c.objs.thrOverride } }
  | .traceGroups => { c with objs := { c.objs with traceGroups := BitVec.ofNat 64 v } }
  | .mixedOk => { c with bore := { c.bore with mixedOk := BitVec.ofNat 16 v } }
  | _ => { c with mram := c.mram.objSet name v }

end Sys2Proof.Machine
end

