-- ==== Sys2Proof/Machine/Agent.lean ====
section
/-! DEFINITION. The management agent (R348-R370, R377): access levels, the judgement of items, requests and their
kept responses, the power cap, the field gate. The commands stand in Mgmt and Gate. -/

namespace Sys2Proof.Machine

/-! ### Access levels (R348-R351, R368) -/

/-- The level of a number from 1 to 3. -/
def Gate.level (g : Gate) : Nat → Option OpenLevel
  | 1 => g.operator
  | 2 => g.service
  | 3 => g.vendor
  | _ => none

def Gate.setLevel (g : Gate) (n : Nat) (x : Option OpenLevel) : Gate :=
  match n with
  | 1 => { g with operator := x }
  | 2 => { g with service := x }
  | 3 => { g with vendor := x }
  | _ => g

/-- A level is open to a requester; level 0 always (R348, R368). -/
def Gate.openTo (g : Gate) (n : Nat) (who : Requester) : Bool :=
  if n = 0 then true
  else match g.level n with
    | some x => decide (x.who = who)
    | none => false

/-- The 900 s of a level restart on an item that names an object of that level or above (R351, R368). -/
def Gate.qualify (g : Gate) (n : Nat) (who : Requester) (now : Stamp) : Gate :=
  [1, 2, 3].foldl (fun g k => match g.level k with
    | some x => if k ≤ n ∧ x.who = who then g.setLevel k (some { x with last := now }) else g
    | none => g) g

/-- The gate is closed: five consecutive failures, and the 3,600 s not over (R350). -/
def Chip.gateClosed (c : Chip) : Bool := decide (5 ≤ c.mram.failCount.toNat)

/-- A requester in a record: the debug port, or an address. -/
def requesterBytes : Requester → List Byte
  | .debug => [1] ++ List.replicate 16 0
  | .addr a => [0] ++ leBytes 16 a.toNat

/-- A level and every level below it opens to a requester (R348, R368). -/
def Chip.openLevel (c : Chip) (n : Nat) (who : Requester) : Chip :=
  c.gateChange fun g => [1, 2, 3].foldl (fun g k => if k ≤ n then g.setLevel k (some ⟨who, c.drone.now⟩) else g) g

/-- The levels from `n` up close; 0 closes as 1 does (R351). -/
def Chip.closeFrom (c : Chip) (n : Nat) : Chip :=
  if [1, 2, 3].any fun k => decide (n ≤ k) && (c.gate.level k).isSome then
    c.gateChange fun g => [1, 2, 3].foldl (fun g k => if n ≤ k then g.setLevel k none else g) g
  else c

/-- A failed password or response (R350): counted, recorded, source 12; the fifth closes the gate. -/
def Chip.gateFailure (c : Chip) (obj : Nat) (who : Requester) : Chip :=
  let n := c.mram.failCount + 1
  let m : Mram := { c.mram with
    failCount := n, lockoutNs := if n.toNat = 5 then 3600000000000 else c.mram.lockoutNs }
  { c with mram := m }.authFailed 4 0xFFFF obj (requesterBytes who)

/-- A success clears FAIL_COUNT (R350). -/
def Chip.gateSuccess (c : Chip) : Chip := { c with mram := { c.mram with failCount := 0 } }

/-! ### The power cap (R326, R327) -/

/-- No partition runs a plan. -/
def Chip.noPlan (c : Chip) : Bool := allParts.all fun p => (c.run p).isNone

/-- CAP_W takes a value: a raised cap is active at once, a lowered one is applied at a commit point, or at once
where no plan runs (DEDUCED for CAP_APPLIED then, notes/assumptions/57.md). -/
def Chip.setCap (c : Chip) (w : W16) : Chip :=
  let c := { c with mram := { c.mram with capW := w } }
  let l := c.limiter
  if l.capActive.toNat ≤ w.toNat then
    { c with limiter := { l with
        capActive := w, capJob := none, capPending := false, lowered := l.lowered.map fun x => if x.toNat < w.toNat then w else x } }
  else if c.noPlan then
    { c with limiter := { l with capJob := some (w, c.drone.now, true), capPending := false, capApplied := c.drone.now } }
  else { c with limiter := { l with capJob := some (w, c.drone.now, false), capPending := true } }

/-! ### Items (R359-R361) -/

/-- Why an item is refused: STATUS, REASON and, for SEGMENTED, the object's length. -/
structure Refused where
  status : W16
  reason : Byte
  len : Nat
  deriving DecidableEq, Repr

def busyFor (reason : Byte) : Refused := ⟨0x0002, reason, 0⟩
def lockedItem : Refused := ⟨0x0070, 0, 0⟩
def authRefused : Refused := ⟨0x0071, 0, 0⟩

/-- The objects whose write attempts to open a level (R350). -/
def opensLevel (n : ObjName) : Bool := decide (n = .password) || decide (n = .chalLevel) || decide (n = .chalResp)

/-- Grounds 1 to 3 of R361, with the effects of the level check: a closed gate's attempt is recorded, and a
qualifying item restarts the 900 s. -/
def Chip.access (c : Chip) (who : Requester) (write : Bool) (o : ObjId) : Chip × Except Refused (ObjRow × Nat) :=
  match objFind o with
  | none => (c, .error (busyFor 1))
  | some (r, k) =>
    if !c.gate.openTo r.level who then (c, .error lockedItem)
    else if write && opensLevel r.name && c.gateClosed then (c.lockRec c.lstate, .error lockedItem)
    else
      let c := { c with gate := c.gate.qualify r.level who c.drone.now }
      if (write && decide (r.dir = .ro)) || (!write && decide (r.dir = .wo)) then (c, .error (busyFor 4))
      else (c, .ok (r, k))

/-- The length of the objects that are longer than 64 bytes and only written (R349); 0 where none is stated. -/
def longWrite (n : ObjName) : Option Nat :=
  match n with
  | .chalResp => some 16608
  | .rotate => some 0
  | _ => none

/-- TYPE and LEN fit the object (R360). -/
def typeFits (r : ObjRow) (type : OType) (len : Nat) : Bool :=
  decide (type = r.type) && match typeSize r.type with
    | some n => decide (len = n)
    | none => true

/-- The value lies in the object's range (R352 for the password's length). -/
def valueFits (r : ObjRow) (value : List Byte) : Bool :=
  match typeSize r.type with
  | some _ => objRange r.name (leNat value)
  | none => if r.name = .newPassword then decide (8 ≤ value.length) && decide (value.length ≤ 64) else true

/-- A write is not served: the module runs on hold-up, or the object is the firmware's and it does not run (R353,
R370). -/
def Chip.notServed (c : Chip) (r : ObjRow) : Bool :=
  (match c.power with
    | .holdup _ => true
    | _ => false) || (r.fw && !c.served)

/-- An OBJECT_WRITE record (R369, R374): object, TYPE, level, requester, old and new value. -/
def Chip.writeRec (c : Chip) (o : ObjId) (r : ObjRow) (who : Requester) (old new : List Byte) : Chip :=
  let secret := decide (r.name = .newPassword) || decide (r.name = .rotate)
  let old := if secret then [] else old.take 64
  let new := if secret then [] else new.take 64
  c.hbForm 0x0010 true (c.hubSrc 8)
    (leBytes 2 o.index.toNat ++ [o.sub, BitVec.ofNat 8 (match r.type with
      | .u8 => 1
      | .u16 => 2
      | .u32 => 3
      | .u64 => 4
      | .i32 => 5
      | .f32 => 6
      | .bool => 7
      | .time64 => 8
      | .str => 9
      | .blob => 10), BitVec.ofNat 8 r.level] ++ requesterBytes who ++
      [BitVec.ofNat 8 old.length, BitVec.ofNat 8 new.length] ++ old ++ new)

/-! ### Objects with behaviour of their own -/

/-- PASSWORD (R348, R350). -/
def Chip.tryPassword (c : Chip) (who : Requester) (value : List Byte) : Chip × Option Refused :=
  if Config.pwDigest c.mram.serial value = c.mram.pwDigest then ((c.gateSuccess).openLevel 1 who, none)
  else (c.gateFailure 0x800200 who, some authRefused)

/-- CHAL_LEVEL (R349): a nonce is drawn, and replaces any earlier one. -/
def Chip.challenge (c : Chip) (level : Byte) : Chip :=
  let (n, c) := c.draw256
  { c with gate := { c.gate with chalNonce := n, chal := some (n, level, c.drone.now) } }

/-- A response (R349, R350): it uses up the nonce, which is valid for 60 s; `ok` judges it against nonce and
level. -/
def Chip.respond (c : Chip) (who : Requester) (ok : BitVec 256 → Byte → Bool) : Chip × Option Refused :=
  let chal := c.gate.chal
  let c := { c with gate := { c.gate with chal := none } }
  match chal with
  | some (n, level, t) =>
    if c.since t < 60000000000 ∧ ok n level then ((c.gateSuccess).openLevel level.toNat who, none)
    else (c.gateFailure 0x800102 who, some authRefused)
  | none => (c.gateFailure 0x800102 who, some authRefused)

/-- DEBUG_EN (R351): 1 opens the debug port until reset and clears every key slot; 0 changes nothing (DEDUCED,
notes/assumptions/58.md). -/
def Chip.debugOpen (c : Chip) (v : Nat) : Chip :=
  if v = 1 ∧ !c.gate.debugPort then
    let c := c.gateChange fun g => { g with debugPort := true }
    { c with tenants := c.tenants.map fun t => { t with keys := Vector.replicate 8 KeySlot.empty } }
  else c

/-- ROTATE (R340): an accepted record is staged for the next reset. -/
def Chip.stageRotation (c : Chip) (new : Byte × List Byte × List (List Byte)) (ok : Bool) : Chip × Option Refused :=
  if ok ∧ c.mram.keyIndex.toNat < new.1.toNat ∧ new.1.toNat ≤ 3 then
    ({ c with mram := { c.mram with staged := some new } }, none)
  else (c, some authRefused)

/-- The effect of a write that has passed grounds 1 to 8; a refusal is AUTH_FAILED (R361). -/
def Chip.perform (c : Chip) (who : Requester) (r : ObjRow) (k : Nat) (value : List Byte) : Chip × Option Refused :=
  let v := leNat value
  match r.name with
  | .capW => (c.setCap (BitVec.ofNat 16 v), none)
  | .portEn => (c.setPortEn (BitVec.ofNat 16 v), none)
  | .password => c.tryPassword who value
  | .newPassword => ({ c with mram := { c.mram with pwDigest := Config.pwDigest c.mram.serial value } }, none)
  | .chalLevel => (c.challenge (BitVec.ofNat 8 v), none)
  | .chalResp => c.respond who fun n level =>
      decide (value.length = 16608) && (Config.chalVerdict n c.mram.serial level value).1 &&
        (Config.chalVerdict n c.mram.serial level value).2
  | .close => (c.closeFrom v, none)
  | .debugEn => (c.debugOpen v, none)
  | .rotate =>
    let x := Config.rotation c.mram.serial c.mram.keyIndex value
    c.stageRotation x.1 x.2
  | n => (c.objSet n k v, none)

/-- A whole value written: grounds 7 to 9 of R361, the effect, and the record of an object at operator level or
above (R369). -/
def Chip.commitWrite (c : Chip) (who : Requester) (o : ObjId) (r : ObjRow) (k : Nat) (value : List Byte) :
    Chip × Option Refused :=
  if !valueFits r value then (c, some (busyFor 3))
  else if c.notServed r then (c, some (busyFor 6))
  else
    let old := c.objRead r k
    match c.perform who r k value with
    | (c', none) => (if r.level = 0 then c' else c'.writeRec o r who old value, none)
    | (c', some e) => (c', some e)

/-- A response item (R359), and the refusals counted (R361). -/
def Chip.itemOf (c : Chip) (o : ObjId) (e : Option Refused) (value : List Byte) : Chip × RespItem :=
  let x : RespItem :=
    { obj := o, type := (objFind o).map fun r => r.1.type, status := (e.map Refused.status).getD 0
      reason := (e.map Refused.reason).getD 0, len := (e.map Refused.len).getD value.length, stamp := c.drone.now
      value := value }
  (if e.isSome then { c with mgmt := { c.mgmt with refused := c.mgmt.refused + 1 } } else c, x)

/-- A read item (R358, R361). -/
def Chip.readItem (c : Chip) (who : Requester) (o : ObjId) : Chip × RespItem :=
  match c.access who false o with
  | (c, .error e) => c.itemOf o (some e) []
  | (c, .ok (r, k)) =>
    let v := c.objRead r k
    if 64 < v.length then c.itemOf o (some ⟨0x0002, 5, v.length⟩) [] else c.itemOf o none v

/-- A write item (R358, R361). -/
def Chip.writeItem (c : Chip) (who : Requester) (x : WItem) : Chip × RespItem :=
  match c.access who true x.obj with
  | (c, .error e) => c.itemOf x.obj (some e) []
  | (c, .ok (r, k)) =>
    match longWrite r.name with
    | some n => c.itemOf x.obj (some ⟨0x0002, 5, n⟩) []
    | none =>
      if !typeFits r x.type x.value.length then c.itemOf x.obj (some (busyFor 2)) []
      else
        let (c, e) := c.commitWrite who x.obj r k x.value
        c.itemOf x.obj e []

/-- Items in order, each independently (R362). -/
def Chip.items {α : Type} (c : Chip) (f : Chip → α → Chip × RespItem) : List α → Chip × List RespItem
  | [] => (c, [])
  | x :: xs =>
    let (c, y) := f c x
    let (c, ys) := c.items f xs
    (c, y :: ys)

/-! ### Requests (R356, R357, R362, R363) -/

/-- The agent hears a requester: the hub has power and, for the network, the address is usable and the node not
silent (R353, R355, R356); the debug port must be open. -/
def Chip.hears (c : Chip) (who : Requester) : Bool :=
  c.hubPower && match who with
    | .debug => c.gate.debugPort
    | .addr _ => decide (c.mgmt.addr = .usable) && decide (c.mgmt.plcaNode ≠ 0)

/-- 5 s. -/
def keptNs : Nat := 5000000000

/-- The kept response that a request repeats (R363). -/
def Chip.keptOf (c : Chip) (r : MReq) : Option Response :=
  (c.mgmt.kept.find? fun x => decide (x.1 = r.src) && decide (x.2.1.xid = r.xid) &&
    decide (c.since x.2.2 < keptNs)).map fun x => x.2.1

/-- A response sent. -/
def Chip.sendResp (c : Chip) (dst : Requester) (x : Response) : Chip :=
  { c with mgmt := { c.mgmt with tx := c.mgmt.tx ++ [.response dst x] } }

/-- A response sent and kept among the last 64 (R363). -/
def Chip.reply (c : Chip) (r : MReq) (op : Byte) (status : W16) (items : List RespItem) (recs : List HbStored) : Chip :=
  let x : Response := { op := op, xid := r.xid, status := status, items := items, recs := recs, modnum := c.mram.moduleNum }
  let c := c.sendResp r.src x
  { c with mgmt := { c.mgmt with kept := ((r.src, x, c.drone.now) :: c.mgmt.kept).take 64 } }

/-- A request received: counted, and source 73 (R312, R371). -/
def Chip.received73 (c : Chip) : Chip :=
  { c with mgmt := { c.mgmt with rx := c.mgmt.rx + 1 } }.raise 73

/-- A request as the agent takes it: a repeated one is answered from the kept responses, another VER with 0x0043,
and the rest by `f` (R362, R363). -/
def Chip.serve (c : Chip) (r : MReq) (op : Byte) (f : Chip → Chip × W16 × List RespItem × List HbStored) : Chip :=
  if !c.hears r.src then c
  else
    let c := c.received73
    match c.keptOf r with
    | some x => c.sendResp r.src x
    | none =>
      if r.ver ≠ 1 then c.reply r op 0x0043 [] []
      else
        let (c, st, is, rs) := f c
        c.reply r op st is rs

/-- A WRITE request (R358). -/
def Chip.serveWrite (c : Chip) (r : MReq) (xs : List WItem) : Chip :=
  c.serve r 3 fun c =>
    if xs.isEmpty || decide (32 < xs.length) then (c, 0x0002, [], [])
    else
      let (c, ys) := c.items (fun c x => c.writeItem r.src x) xs
      (c, 0, ys, [])

/-- A WRITE request of one item that names a given object; another item is not this command. -/
def State.writeOne (s : State) (r : MReq) (x : WItem) (n : ObjName) : State :=
  match objFind x.obj with
  | some (row, _) => if row.name = n then s.on fun c => c.serveWrite r [x] else s
  | none => s

/-! ### Segments (R366) -/

/-- The staging of a requester. -/
def Mgmt.stagingOf (m : Mgmt) (who : Requester) : Option Staging := m.staging.find? fun x => x.src = who

def Mgmt.dropStaging (m : Mgmt) (who : Requester) : Mgmt := { m with staging := m.staging.filter fun x => x.src ≠ who }

def Mgmt.putStaging (m : Mgmt) (x : Staging) : Mgmt := { m with staging := x :: (m.dropStaging x.src).staging }

/-- A staging with a segment's bytes; the places listed are those staged. -/
def Staging.place (x : Staging) (off : Nat) (bs : List Byte) : Staging :=
  { x with bytes := bs.zipIdx.foldl (fun m b => alPut m (off + b.2) b.1) x.bytes }

/-- Every byte from 0 to TOTAL − 1 has been staged. -/
def Staging.whole (x : Staging) : Bool := (List.range x.total).all fun i => (alGet x.bytes i).isSome

/-- The staged value. -/
def Staging.value (x : Staging) : List Byte := (List.range x.total).map fun i => (alGet x.bytes i).getD 0

/-- The staging that a segment of an object continues: one of another object is given up (R366). -/
def Chip.stagingFor (c : Chip) (who : Requester) (x : WItem) (total : Nat) : Staging :=
  let fresh : Staging := { src := who, obj := x.obj, type := x.type, total := total, bytes := [], since := c.drone.now }
  match c.mgmt.stagingOf who with
  | some y => if y.obj = x.obj then y else fresh
  | none => fresh

/-- TOTAL fits the object: the stated length of CHAL_RESP, the size of a fixed type. -/
def totalFits (r : ObjRow) (total : Nat) : Bool :=
  match r.name, typeSize r.type with
  | .chalResp, _ => decide (total = 16608)
  | _, some n => decide (total = n)
  | _, none => decide (0 < total)

/-- A SEGWRITE item (R361, R366): staged, or with LAST committed as one write of the whole value. -/
def Chip.segItem (c : Chip) (who : Requester) (x : WItem) (off total : Nat) (last : Bool) : Chip × RespItem :=
  match c.access who true x.obj with
  | (c, .error e) => c.itemOf x.obj (some e) []
  | (c, .ok (r, k)) =>
    let len := x.value.length
    if x.type ≠ r.type then c.itemOf x.obj (some (busyFor 2)) []
    else
      let y := c.stagingFor who x total
      if len = 0 ∨ 960 < len ∨ total < off + len ∨ y.total ≠ total ∨ !totalFits r total then
        c.itemOf x.obj (some (busyFor 7)) []
      else
        let y := { y.place off x.value with since := c.drone.now }
        if !last then
          if c.notServed r then c.itemOf x.obj (some (busyFor 6)) []
          else { c with mgmt := c.mgmt.putStaging y }.itemOf x.obj none []
        else if !y.whole then c.itemOf x.obj (some (busyFor 7)) []
        else
          match c.commitWrite who x.obj r k y.value with
          | (c, none) => { c with mgmt := c.mgmt.dropStaging who }.itemOf x.obj none []
          | (c, some e) =>
            let c := if e = authRefused then { c with mgmt := c.mgmt.dropStaging who } else c
            c.itemOf x.obj (some e) []

end Sys2Proof.Machine
end

