-- ==== Sys2Proof/Machine/Gate.lean ====
section
/-! DEFINITION. The field gate's commands (R340, R348-R352). -/

namespace Sys2Proof.Machine

/-- PASSWORD (R348, R350). -/
def execPassword (r : MReq) (x : WItem) (s : State) : Host.Outcome State Fault Refusal := .next (s.writeOne r x .password)

/-- NEW_PASSWORD (R348, R352). -/
def execNewPassword (r : MReq) (x : WItem) (s : State) : Host.Outcome State Fault Refusal :=
  .next (s.writeOne r x .newPassword)

/-- CHAL_LEVEL (R349). -/
def execChalLevel (r : MReq) (x : WItem) (s : State) : Host.Outcome State Fault Refusal := .next (s.writeOne r x .chalLevel)

/-- CLOSE (R351). -/
def execClose (r : MReq) (x : WItem) (s : State) : Host.Outcome State Fault Refusal := .next (s.writeOne r x .close)

/-- DEBUG_EN (R351). -/
def execDebugEn (r : MReq) (x : WItem) (s : State) : Host.Outcome State Fault Refusal := .next (s.writeOne r x .debugEn)

/-- The SEGWRITE with LAST that commits a long object, once its bytes are judged: the item of R361. -/
def Chip.judgedItem (c : Chip) (who : Requester) (o : ObjId) (f : Chip → ObjRow → Chip × Option Refused) : Chip × RespItem :=
  match c.access who true o with
  | (c, .error e) => c.itemOf o (some e) []
  | (c, .ok (r, _)) =>
    if c.notServed r then c.itemOf o (some (busyFor 6)) []
    else
      let (c, e) := f { c with mgmt := c.mgmt.dropStaging who } r
      c.itemOf o e []

/-- CHAL_RESP (R349, R350): the committing SEGWRITE of a response whose two signatures have the given verdict. -/
def execChalResp (r : MReq) (v : ChalVerdict) (s : State) : Host.Outcome State Fault Refusal :=
  .next (s.on fun c => c.serve r 5 fun c =>
    let (c, y) := c.judgedItem r.src ⟨0x8001, 2⟩ fun c _ => c.respond r.src fun _ _ => v.rsaOk && v.slhOk
    (c, 0, [y], []))

/-- ROTATE (R340): the committing SEGWRITE of a rotation record whose checks have the given results. -/
def execRotate (r : MReq) (rec : RotRecord) (s : State) : Host.Outcome State Fault Refusal :=
  .next (s.on fun c => c.serve r 5 fun c =>
    let (c, y) := c.judgedItem r.src ⟨0x8010, 1⟩ fun c row =>
      match c.stageRotation (rec.newIndex, rec.cert, rec.records) (rec.curOk && rec.newOk && rec.carriedOk && rec.matchOk) with
      | (c, none) => (c.writeRec ⟨0x8010, 1⟩ row r.src [] [], none)
      | (c, some e) => (c, some e)
    (c, 0, [y], []))

/-- CHALLENGE_NONCE_EXPIRY (R349): 60 s after the nonce was drawn. -/
def execChallengeNonceExpiry (s : State) : Host.Outcome State Fault Refusal :=
  .next (s.on fun c => match c.gate.chal with
    | some (_, _, t) => if 60000000000 ≤ c.since t then { c with gate := { c.gate with chal := none } } else c
    | none => c)

/-- LEVEL_IDLE_TIMEOUT (R351): 900 s without a qualifying item. -/
def execLevelIdleTimeout (level : Fin 4) (s : State) : Host.Outcome State Fault Refusal :=
  .next (s.on fun c => match c.gate.level level.val with
    | some x => if 900000000000 ≤ c.since x.last then c.gateChange fun g => g.setLevel level.val none else c
    | none => c)

/-- LOCKOUT_EXPIRY (R350). -/
def execLockoutExpiry (s : State) : Host.Outcome State Fault Refusal :=
  .next (s.on fun c =>
    if c.gateClosed && decide (c.mram.lockoutNs = 0) then { c with mram := { c.mram with failCount := 0 } } else c)

end Sys2Proof.Machine
end

