-- ==== Sys2Proof/Machine/Hatband.lean ====
section
/-! DEFINITION. Hatband's one command (R375). -/

namespace Sys2Proof.Machine

/-- HATBAND_COMMIT (R375): while the hub has power. -/
def execHatbandCommit (s : State) : Host.Outcome State Fault Refusal :=
  .next (s.on fun c => if c.hubPower then c.hbCommit else c)

end Sys2Proof.Machine
end

