-- ==== Sys2Proof/Machine/Intr.lean ====
section
/-! DEFINITION. The interrupt controller (R312-R315). -/

namespace Sys2Proof.Machine

/-- The core holds an ACTIVE source (R313). -/
def Intc.held (i : Intc) (k : Fin 6) : Option (Fin 128) :=
  (List.finRange 128).find? fun n => match i.src[n] with
    | .active c => decide (c = k)
    | .activePending c => decide (c = k)
    | _ => false

/-- The cores, in order. -/
def allCores : List (Fin 6) := [0, 1, 2, 3, 4, 5]

/-- A core can take a source (R314), apart from what the present cycle has assigned. -/
def Intc.eligible (i : Intc) (k : Fin 6) (n : Fin 128) : Bool :=
  i.cores[k].enable.getLsbD n.val && decide (i.cores[k].cpri ≠ 0xFF) && (i.held k).isNone

/-- The core with the lowest CPRI, ties to the lowest number. -/
def Intc.lowest (i : Intc) (ks : List (Fin 6)) : Option (Fin 6) :=
  ks.foldl (fun best k => match best with
    | none => some k
    | some b => if i.cores[k].cpri.toNat < i.cores[b].cpri.toNat then some k else some b) none

/-- The assignments of a routing cycle (R314): PENDING sources in ascending order. -/
def Intc.route (i : Intc) : List (Fin 6 × Fin 128) :=
  ((List.finRange 128).filter fun n => i.src[n] = .pending).foldl (fun asg n =>
    match i.lowest (allCores.filter fun k => i.eligible k n && asg.all fun a => a.1 ≠ k) with
    | some k => asg ++ [(k, n)]
    | none => asg) []

/-- The source assigned to a core. -/
def Intc.assigned (i : Intc) (k : Fin 6) : Option (Fin 128) := (i.route.find? fun a => a.1 = k).map Prod.snd

def Intc.setErr (i : Intc) (k : Fin 6) (bit : BitVec 2) : Intc :=
  { i with cores := vecMod i.cores k fun b => { b with err := b.err ||| bit } }

/-- SWTRIG (R315). -/
def execSwtrig (n : Fin 128) (s : State) : Host.Outcome State Fault Refusal :=
  .next (s.on fun c => if c.up then c.raise n else c)

/-- CLAIM (R313-R315). -/
def execClaim (k : Fin 6) (s : State) : Host.Outcome State Fault Refusal :=
  .next (s.on fun c =>
    if !c.up then c
    else if (c.intc.held k).isSome then { c with intc := c.intc.setErr k 2, readData := [0x80] }
    else match c.intc.assigned k with
      | some n => { c with intc := { c.intc with src := c.intc.src.set n (.active k) }, readData := [BitVec.ofNat 8 n.val] }
      | none => { c with readData := [0x80] })

/-- COMPLETE (R313, R315). -/
def execComplete (k : Fin 6) (n : Fin 128) (s : State) : Host.Outcome State Fault Refusal :=
  .next (s.on fun c =>
    if !c.up then c
    else if c.intc.src[n] = .active k then { c with intc := { c.intc with src := c.intc.src.set n .idle } }
    else if c.intc.src[n] = .activePending k then { c with intc := { c.intc with src := c.intc.src.set n .pending } }
    else { c with intc := c.intc.setErr k 1 })

/-- COALESCED read (R315): it returns the count and clears it. -/
def execCoalescedRead (s : State) : Host.Outcome State Fault Refusal :=
  .next (s.on fun c =>
    if c.up then { c with intc := { c.intc with coalesced := 0 }, readData := leBytes 4 c.intc.coalesced.toNat } else c)

/-- ERR, write 1 to clear (R315). -/
def execErrClear (k : Fin 6) (mask : BitVec 2) (s : State) : Host.Outcome State Fault Refusal :=
  .next (s.on fun c =>
    if c.up then { c with intc := { c.intc with cores := vecMod c.intc.cores k fun b => { b with err := b.err &&& ~~~mask } } }
    else c)

end Sys2Proof.Machine
end

