-- ==== Sys2Proof/Machine/Mgmt.lean ====
section
/-! DEFINITION. The management network's commands (R353-R371, R377): requests, heartbeat, neighbours, PLCA. -/

namespace Sys2Proof.Machine

/-! ### Requests (R358) -/

/-- The objects that IDENTIFY returns, in order (R371). -/
def identifyObjs : List ObjId :=
  [⟨0x1000, 0⟩, ⟨0x5401, 0⟩, ⟨0x5500, 0⟩, ⟨0x1000, 1⟩, ⟨0x1000, 2⟩, ⟨0x6000, 0⟩]

/-- An object as IDENTIFY gives it: whatever its level (DEDUCED, notes/assumptions/59.md). -/
def Chip.identifyItem (c : Chip) (o : ObjId) : Chip × RespItem :=
  match objFind o with
  | some (r, k) => c.itemOf o none (c.objRead r k)
  | none => c.itemOf o (some (busyFor 1)) []

/-- IDENTIFY (R358, R371). -/
def execIdentify (r : MReq) (s : State) : Host.Outcome State Fault Refusal :=
  .next (s.on fun c => c.serve r 1 fun c =>
    let (c, ys) := c.items (fun c o => c.identifyItem o) identifyObjs
    (c, 0, ys, []))

/-- READ (R358-R362). -/
def execRead (r : MReq) (os : List ObjId) (s : State) : Host.Outcome State Fault Refusal :=
  .next (s.on fun c => c.serve r 2 fun c =>
    if os.isEmpty || decide (32 < os.length) then (c, 0x0002, [], [])
    else
      let (c, ys) := c.items (fun c o => c.readItem r.src o) os
      (c, 0, ys, []))

/-- WRITE (R358-R362, R365, R369). -/
def execWrite (r : MReq) (xs : List WItem) (s : State) : Host.Outcome State Fault Refusal :=
  .next (s.on fun c => c.serveWrite r xs)

/-- A SEGREAD item (R361, R366). -/
def Chip.segReadItem (c : Chip) (who : Requester) (o : ObjId) (off len : Nat) : Chip × RespItem :=
  match c.access who false o with
  | (c, .error e) => c.itemOf o (some e) []
  | (c, .ok (r, k)) =>
    let v := c.objRead r k
    if len = 0 ∨ 960 < len ∨ v.length < off + len then c.itemOf o (some (busyFor 7)) []
    else c.itemOf o none ((v.drop off).take len)

/-- SEGREAD (R358, R366). -/
def execSegread (r : MReq) (o : ObjId) (off len : W32) (s : State) : Host.Outcome State Fault Refusal :=
  .next (s.on fun c => c.serve r 4 fun c =>
    let (c, y) := c.segReadItem r.src o off.toNat len.toNat
    (c, 0, [y], []))

/-- SEGWRITE (R358, R366). -/
def execSegwrite (r : MReq) (x : WItem) (off total : W32) (last : Bool) (s : State) : Host.Outcome State Fault Refusal :=
  .next (s.on fun c => c.serve r 5 fun c =>
    let (c, y) := c.segItem r.src x off.toNat total.toNat last
    (c, 0, [y], []))

/-- The records of two areas merged by HSEQ. -/
def mergeSeq : Nat → List HbStored → List HbStored → List HbStored
  | 0, _, _ => []
  | _, [], ys => ys
  | _, xs, [] => xs
  | n + 1, x :: xs, y :: ys =>
    if x.hb.hseq.toNat ≤ y.hb.hseq.toNat then x :: mergeSeq n xs (y :: ys) else y :: mergeSeq n (x :: xs) ys

/-- The records that an HBREAD returns: at most three with HSEQ from `from_` on, in ascending order (R377). -/
def Hatband.read (h : Hatband) (area : Nat) (from_ : Nat) : List HbStored :=
  let keep := fun (l : List HbStored) => l.filter fun x => decide (from_ ≤ x.hb.hseq.toNat)
  let g := keep h.gen
  let k := keep h.crit
  match area with
  | 0 => g.take 3
  | 1 => k.take 3
  | _ => (mergeSeq 4 (g.take 3) (k.take 3)).take 3

/-- HBREAD (R368, R377): operator level; a refused one and an unknown area are answered without records (DEDUCED,
notes/assumptions/60.md). -/
def execHbread (r : MReq) (area : Byte) (since : W64) (s : State) : Host.Outcome State Fault Refusal :=
  .next (s.on fun c => c.serve r 6 fun c =>
    if !c.gate.openTo 1 r.src then (c, 0x0070, [], [])
    else
      let c := { c with gate := c.gate.qualify 1 r.src c.drone.now }
      if 2 < area.toNat then (c, 0x0002, [], [])
      else (c, 0, [], c.hatband.read area.toNat since.toNat))

/-- MGMT_UNKNOWN_OP (R358). -/
def execMgmtUnknownOp (r : MReq) (op : Byte) (s : State) : Host.Outcome State Fault Refusal :=
  .next (s.on fun c => c.serve r op fun c => (c, 0x0002, [], []))

/-- MGMT_QUEUE_FULL (R362): answered at once, and nothing is done. -/
def execMgmtQueueFull (r : MReq) (s : State) : Host.Outcome State Fault Refusal :=
  .next (s.on fun c => if c.hears r.src then c.received73.reply r 0 0x0002 [] [] else c)

/-- MGMT_RETRY (R363). -/
def execMgmtRetry (r : MReq) (s : State) : Host.Outcome State Fault Refusal :=
  .next (s.on fun c =>
    if !c.hears r.src then c
    else match c.keptOf r with
      | some x => c.received73.sendResp r.src x
      | none => c)

/-- RESPONSE_CACHE_EXPIRY (R363). -/
def execResponseCacheExpiry (s : State) : Host.Outcome State Fault Refusal :=
  .next (s.on fun c => { c with mgmt := { c.mgmt with kept := c.mgmt.kept.filter fun x => c.since x.2.2 < keptNs } })

/-- SEGWRITE_STAGING_EXPIRY (R366): 10 s without a segment. -/
def execSegwriteStagingExpiry (who : Requester) (s : State) : Host.Outcome State Fault Refusal :=
  .next (s.on fun c => match c.mgmt.stagingOf who with
    | some x => if 10000000000 ≤ c.since x.since then { c with mgmt := c.mgmt.dropStaging who } else c
    | none => c)

/-- HEARTBEAT_SEND (R367): every HB_MS. -/
def execHeartbeatSend (s : State) : Host.Outcome State Fault Refusal :=
  .next (s.on fun c => if c.hubPower && c.due c.mgmt.hbDue then c.heartbeat false else c)

/-! ### Neighbours, ICMPv6, other frames (R354-R356) -/

/-- The port takes part in the segment: the hub has power and the slot identity names a node (R355). -/
def Chip.onSegment (c : Chip) : Bool := c.hubPower && decide (c.mgmt.plcaNode ≠ 0)

/-- A neighbour known. -/
def Mgmt.know (m : Mgmt) (a : BitVec 128) : Mgmt :=
  if m.neighbours.contains a then m else { m with neighbours := a :: m.neighbours }

/-- An address found duplicate: an ADDR_DUP record (R356, R374). -/
def Chip.addrDup (c : Chip) : Chip :=
  { c with mgmt := { c.mgmt with addr := AddrState.duplicate } }.hbForm 0x0070 false (c.hubSrc 8) (leBytes 16 c.mgmtAddr.toNat)

/-- NEIGHBOUR_SOLICITATION (R356): a duplicate address still answers. -/
def execNeighbourSolicitation (src target : BitVec 128) (s : State) : Host.Outcome State Fault Refusal :=
  .next (s.on fun c =>
    if c.onSegment && decide (target = c.mgmtAddr) && decide (c.mgmt.addr ≠ .tentative) then
      { c with mgmt := { c.mgmt.know src with tx := c.mgmt.tx ++ [.advert src target] } }
    else c)

/-- NEIGHBOUR_ADVERTISEMENT (R356). -/
def execNeighbourAdvertisement (src target : BitVec 128) (s : State) : Host.Outcome State Fault Refusal :=
  .next (s.on fun c =>
    if !c.onSegment then c
    else if c.mgmt.addr = .tentative ∧ target = c.mgmtAddr then c.addrDup
    else { c with mgmt := c.mgmt.know src })

/-- DUPLICATE_ADDRESS_DETECTION (R356, R405): the address is usable and heartbeats begin, or it is duplicate. -/
def execDuplicateAddressDetection (dup : Bool) (s : State) : Host.Outcome State Fault Refusal :=
  .next (s.on fun c =>
    if !(c.onSegment && decide (c.mgmt.addr = .tentative)) then c
    else if dup then c.addrDup
    else Chip.heartbeat { c with mgmt := { c.mgmt with addr := AddrState.usable } } false)

/-- ECHO_REQUEST (R356). -/
def execEchoRequest (src : BitVec 128) (ident seq : W16) (data : List Byte) (s : State) : Host.Outcome State Fault Refusal :=
  .next (s.on fun c =>
    if c.onSegment && decide (c.mgmt.addr = .usable) then
      { c with mgmt := { c.mgmt with tx := c.mgmt.tx ++ [.echoReply src ident seq data] } }
    else c)

/-- MGMT_DATAGRAM_DISCARD (R354, R356, R371). -/
def execMgmtDatagramDiscard (src : BitVec 128) (otherPort : Bool) (s : State) : Host.Outcome State Fault Refusal :=
  .next (s.on fun c =>
    if !c.onSegment then c
    else if otherPort then
      if c.mgmt.addr = .usable then { c with mgmt := { c.mgmt with tx := c.mgmt.tx ++ [.unreachable src] } } else c
    else { c with mgmt := { c.mgmt with rxDrop := c.mgmt.rxDrop + 1 } })

/-- PLCA_BEACON_SEEN (R354). -/
def execPlcaBeaconSeen (s : State) : Host.Outcome State Fault Refusal :=
  .next (s.on fun c => if c.onSegment then { c with mgmt := { c.mgmt with plcaState := true } } else c)

/-- PLCA_BEACON_LOST (R354). -/
def execPlcaBeaconLost (s : State) : Host.Outcome State Fault Refusal :=
  .next (s.on fun c => if c.onSegment then { c with mgmt := { c.mgmt with plcaState := false } } else c)

/-! ### PORT_EN (R277, R291) -/

/-- PORT_EN_WRITE (R268, R277, R291): a WRITE of PORT_EN. -/
def execPortEnWrite (r : MReq) (x : WItem) (s : State) : Host.Outcome State Fault Refusal :=
  .next (s.writeOne r x .portEn)

end Sys2Proof.Machine
end

