-- ==== Sys2Proof/Machine/Power.lean ====
section
/-! DEFINITION. The limiter, the power cap and trace, supplies and the sideband (R195, R196, R317-R331, R396-R410). -/

namespace Sys2Proof.Machine

/-! ### Warnings (R324) -/

/-- The rows of R323 that are temperatures: those with a warn threshold. -/
def isTemp (row : LimRow) : Bool :=
  match row with
  | .tileTemp | .hubTemp | .hbmTemp | .lpddrTemp | .hostTemp => true
  | _ => false

/-- LIMITER_WARN (R323, R324): a log entry, and THERM_ALERT_N asserted. -/
def execLimiterWarn (row : LimRow) (unit : Nat) (s : State) : Host.Outcome State Fault Refusal :=
  .next (s.on fun c =>
    if !(c.hubPower && isTemp row) then c
    else
      let l : Limiter := { c.limiter with
        warns := if c.limiter.warns.contains (row, unit) then c.limiter.warns else (row, unit) :: c.limiter.warns }
      let c : Chip := { c with limiter := l, pins := { c.pins with thermAlertN := false } }
      c.log .pf { c.entry (c.hubSrc 1) with level := openLevel 4, arg0 := BitVec.ofNat 64 (limRowNum row), arg1 := BitVec.ofNat 64 unit })

/-- WARN_THRESHOLD_CLEAR (R324): every temperature is below its warn threshold. -/
def execWarnThresholdClear (s : State) : Host.Outcome State Fault Refusal :=
  .next (s.on fun c =>
    if !c.hubPower then c
    else { c with
      limiter := { c.limiter with warns := [] }
      pins := { c.pins with thermAlertN := c.pins.thermAlertN || decide (c.limiter.state ≠ .emergency) } })

/-! ### Emergencies (R322, R323, R325) -/

/-- LIMITER_EMERGENCY_ENTER (R310, R322, R323): the first cause enters EMERGENCY, each applies its action. -/
def execLimiterEmergencyEnter (row : LimRow) (unit : Nat) (value : W32) (s : State) : Host.Outcome State Fault Refusal :=
  .next (s.on fun c =>
    if c.hubPower && hasLimit row && decide (c.limiter.state ≠ .tripped) then c.enterEmergency row unit value else c)

/-- A further step of 10 % of nominal on a list of islands, down to the floor (R323). -/
def Limiter.lower (l : Limiter) (is : List (Fin 77)) : Limiter :=
  { l with emergDown := is.foldl (fun v i => vecMod v i fun x => min 825 (x + 110)) l.emergDown }

/-- The islands that a row lowers further while its quantity stays at its limit (R323). -/
def stepIslands (row : LimRow) (unit : Nat) : List (Fin 77) :=
  match row with
  | .tileTemp => tileIslands.filter fun i => i.val = unit
  | .hubTemp => tileIslands
  | .dieCurrent => dieIslands unit
  | _ => []

/-- LIMITER_STEP_DOWN (R323). -/
def execLimiterStepDown (row : LimRow) (unit : Nat) (s : State) : Host.Outcome State Fault Refusal :=
  .next (s.on fun c =>
    if decide (c.limiter.state = .emergency) && c.limiter.causes.contains (row, unit) then
      { c with limiter := c.limiter.lower (stepIslands row unit) }
    else c)

/-- The frequency of an island under its trace, a lowering for the cap and the limiter's emergency set point, in MHz
(R318, R320, R323): each only lowers, down to the floor. An island that has had no calibration window for 1 s runs 1 %
lower (R250). -/
def Chip.mhz (c : Chip) (i : Fin 77) : Nat :=
  let l := c.limiter
  let x := min l.traceSet[i] (max 275 (l.traceSet[i] * l.emergPct[i] / 100 - l.emergDown[i]))
  if c.calIsl[i].limited then x * 99 / 100 else x

/-- The limiter with no emergency action in force, its time in EMERGENCY counted. -/
def Limiter.calm (l : Limiter) (ns : Nat) (st : LimState) (now : Stamp) : Limiter :=
  { l with
    state := st, causes := [], since := now, emergNs := l.emergNs + BitVec.ofNat 64 ns
    emergPct := Vector.replicate 77 100, emergDown := Vector.replicate 77 0, halfHbm := [], halfLpddr := []
    halfHost := false }

/-- LIMITER_EMERGENCY_EXIT (R322, R324, R325). -/
def execLimiterEmergencyExit (s : State) : Host.Outcome State Fault Refusal :=
  .next (s.on fun c =>
    if c.limiter.state ≠ .emergency then c
    else
      let c : Chip := { c with
        limiter := c.limiter.calm (c.since c.limiter.since) .normal c.drone.now
        pins := { c.pins with thermAlertN := c.limiter.warns.isEmpty } }
      (c.raise 6).limRec 0xFFFF 0 0)

/-! ### Trip (R323, R328) -/

/-- R323 gives the row a trip. -/
def hasTrip (row : LimRow) : Bool :=
  match row with
  | .inPower1ms | .vislDroop => false
  | _ => true

/-- A record or a log of a trip (R331): LAST_TRIP's word. -/
def tripWord (row : LimRow) (unit : BitVec 12) (value : W32) : W64 :=
  (BitVec.ofNat 16 (limRowNum row)) ++ unit ++ (0 : BitVec 4) ++ value

/-- The trip's counters, state and pins. -/
def Chip.trip (c : Chip) (row : LimRow) (unit : BitVec 12) (value : W32) : Chip :=
  let ns := if c.limiter.state = .emergency then c.since c.limiter.since else 0
  let m : Mram := { c.mram with
    tripCount := c.mram.tripCount + 1, lastTrip := tripWord row unit value, lastTripStamp := c.drone.now }
  { c with
    power := .tripHold
    limiter := { c.limiter.calm ns .tripped c.drone.now with causes := (row, unit.toNat) :: c.limiter.causes }
    pins := { c.pins with pg := false, hpePerstN := false, thermAlertN := c.limiter.warns.isEmpty && !isTemp row }
    mram := m }

/-- A trip ends an EMERGENCY in progress: source 6 and a LIMITER record (R322). -/
def Chip.tripsOut (c : Chip) (row : LimRow) (unit : Nat) (value : W32) : Chip :=
  if c.limiter.state = .emergency then
    let causes := (row, unit) :: c.limiter.causes
    let l := { c.limiter.calm (c.since c.limiter.since) .tripped c.drone.now with causes := causes }
    ({ c with limiter := l }.raise 6).limRec (limRowNum row) unit value
  else c

/-- LIMITER_TRIP (R277, R322, R328, R331, R376): the module is held in reset. -/
def execLimiterTrip (row : LimRow) (unit : BitVec 12) (value : W32) (s : State) : Host.Outcome State Fault Refusal :=
  .next (s.on fun c =>
    if !(hasTrip row && (c.up || decide (c.power = .inReset))) then c
    else
      let c := (c.tripsOut row unit.toNat value).hbForm 0x0021 true (c.hubSrc 1)
        (leBytes 2 (limRowNum row) ++ leBytes 2 unit.toNat ++ leBytes 4 value.toNat)
      ((c.announce 4).raise 0).trip row unit value)

/-- TRIP_HOLD_END (R328, R409): a module reset that restarts every supply. -/
def execTripHoldEnd (s : State) : Host.Outcome State Fault Refusal :=
  .next (if s.chip.power = .tripHold then
      s.inReset true
    else s)

/-! ### The cap (R326, R327) -/

/-- CAP_W_WRITE (R326, R327): a WRITE of CAP_W. -/
def execCapWWrite (r : MReq) (x : WItem) (s : State) : Host.Outcome State Fault Refusal := .next (s.writeOne r x .capW)

/-- CAP_SET_POINTS_READY (R327). -/
def execCapSetPointsReady (s : State) : Host.Outcome State Fault Refusal :=
  .next (s.on fun c => match c.limiter.capJob with
    | some (w, t, false) =>
      if c.up then { c with limiter := { c.limiter with capJob := some (w, t, true) } } else c
    | _ => c)

/-- CAP_ACTIVE_UPDATE (R327): 2 ms after acceptance, whether or not a commit point has come. -/
def execCapActiveUpdate (s : State) : Host.Outcome State Fault Refusal :=
  .next (s.on fun c => match c.limiter.capJob with
    | some (w, t, ready) =>
      if c.hubPower ∧ 2000000 ≤ c.since t then
        { c with limiter := { c.limiter with
            capActive := w, capJob := if c.limiter.capPending then some (w, t, ready) else none } }
      else c
    | none => c)

/-! ### The power trace (R195, R318) -/

/-- POWER_TRACE_SEGMENT (R195, R318): a 10 µs segment of the step or prologue in progress begins. -/
def execPowerTraceSegment (p : Fin 4) (seg : W32) (s : State) : Host.Outcome State Fault Refusal :=
  .next (s.on fun c => match c.run p with
    | none => c
    | some r =>
      if !c.up then c
      else match r.plan.fig.segment (if r.inPrologue then 0xFFFFFFFF else r.step) seg with
        | none => c
        | some x => (c.setRun p (some { r with seg := some x })).setSegment p r.plan x)

/-! ### Supplies (R329, R405-R410) -/

/-- The lines of a module whose hub has no supply (R401). -/
def Pins.released (x : Pins) : Pins :=
  { x with pg := false, alive := false, thermAlertN := true, holdupN := true, hpePerstN := false }

/-- The hub supplies are off: what follows depends on the state entered. -/
def Chip.hubOff (c : Chip) (st : PowerState) : Chip :=
  { c with power := st, drone := { c.drone with counting := false }, pins := c.pins.released }

def supplyNum : SupplyCause → Nat
  | .vinLow => 1
  | .holdupLow => 2

/-- The stamp of the last complete commit point of a partition; 0 without one. -/
def Chip.lastCommit (c : Chip) (p : Fin 4) : Nat := ((c.run p).map fun r => r.replayPoint.1.toNat).getD 0

/-- A SUPPLY record (R374). -/
def Chip.supplyRec (c : Chip) (cause : SupplyCause) (vin : W32) : Chip :=
  c.hbForm 0x0022 true (c.hubSrc 1)
    (leBytes 2 (supplyNum cause) ++ leBytes 4 vin.toNat ++ leBytes 2 c.limiter.state.num ++
      allParts.flatMap fun p => leBytes 8 (c.lastCommit p))

/-- SUPPLY_FAULT (R277, R329, R376, R410): the shutdown on hold-up begins. -/
def execSupplyFault (cause : SupplyCause) (vin : W32) (s : State) : Host.Outcome State Fault Refusal :=
  .next (s.on fun c =>
    if !(c.up || decide (c.power = .inReset) || decide (c.power = .tripHold)) then c
    else
      let c := if c.up then c.announce 5 else c
      let c := (c.supplyRec cause vin).hbCommitAll.raise 7
      { c with
        power := .holdup c.drone.now
        pins := { c.pins with holdupN := false, pg := false, alive := false, hpePerstN := false }
        mram := { c.mram with supplyFaults := c.mram.supplyFaults + 1 } })

/-- SUPPLY_LEAVES_REGULATION (R406): PG follows the supplies; on hold-up the hub supplies go. -/
def execSupplyLeavesRegulation (good : Bool) (s : State) : Host.Outcome State Fault Refusal :=
  .next (s.on fun c => match c.power with
    | .running | .inReset => { c with pins := { c.pins with pg := good } }
    | .holdup _ => if good then c else c.hubOff .locked
    | _ => c)

/-- PWR_EN may start the hub supplies (R402, R405, R409). -/
def Chip.mayPower (c : Chip) (vin : W32) (lowMs : Nat) : Bool :=
  decide (40000 ≤ vin.toNat) && match c.power with
    | .off => true
    | .locked => decide (vin.toNat ≤ 60000) && decide (100 ≤ lowMs)
    | _ => false

/-- PWR_EN_RISE (R355, R402, R405, R409): supplies up, Drone and the agent started, RST_N still low. -/
def execPwrEnRise (vin : W32) (slotId : BitVec 4) (lowMs : Nat) (s : State) : Host.Outcome State Fault Refusal :=
  let go := s.chip.mayPower vin lowMs
  let s := s.on fun c => { c with pins := { c.pins with pwrEn := true } }
  .next (if go then
      let s := s.on fun c => { c with pins := { c.pins with slotId := slotId } }
      (s.inReset true).on fun c => { c with
        limiter := Limiter.reset c.mram.capW
        pins := { c.pins with pg := true, rstN := false, thermAlertN := true, holdupN := true, hpePerstN := false } }
    else s)

/-- PWR_EN_FALL (R376, R408, R410): every supply goes, without warning unless a supply fault is under way. -/
def execPwrEnFall (s : State) : Host.Outcome State Fault Refusal :=
  .next (s.on fun c =>
    let c : Chip := { c with pins := { c.pins with pwrEn := false } }
    match c.power with
    | .running | .inReset => c.hbLose.hubOff .off
    | .tripHold => c.hbLose.hubOff .locked
    | .off | .locked | .holdup _ => c)

/-- RST_N_ASSERT (R401, R407, R410): pulses under 1 µs are filtered; in a shutdown or a trip hold only the level
counts. -/
def execRstNAssert (us : Nat) (s : State) : Host.Outcome State Fault Refusal :=
  .next (if us = 0 ∨ !s.chip.pins.rstN then s
    else
      let go := s.chip.pins.pg && (s.chip.up || decide (s.chip.power = .inReset))
      let s := if go then s.beginReset 1 true else s
      s.on fun c => { c with pins := { c.pins with rstN := false } })

/-- RST_N_RELEASE (R330, R405, R407, R410). -/
def execRstNRelease (holdupMj : W32) (s : State) : Host.Outcome State Fault Refusal :=
  .next (s.on fun c =>
    let c : Chip := { c with pins := { c.pins with rstN := true } }
    if c.power = .inReset then c.outOfReset holdupMj else c)

end Sys2Proof.Machine
end

