-- ==== Sys2Proof/Machine/Dispatch.lean ====
section
/-! DEFINITION. The dispatch of a command to its meaning: one arm per constructor of `Instr`. -/

namespace Sys2Proof.Machine

def exec (i : Instr) (s : State) : Host.Outcome State Fault Refusal :=
  match i with
  | .pld sl o => Sys2Proof.Machine.execPld sl o s
  | .mm sl o => Sys2Proof.Machine.execMm sl o s
  | .ewm sl o => Sys2Proof.Machine.execEwm sl o s
  | .drn sl o => Sys2Proof.Machine.execDrn sl o s
  | .rel sl o => Sys2Proof.Machine.execRel sl o s
  | .vadd sl o => Sys2Proof.Machine.execVadd sl o s
  | .vsub sl o => Sys2Proof.Machine.execVsub sl o s
  | .vmul sl o => Sys2Proof.Machine.execVmul sl o s
  | .vfma sl o => Sys2Proof.Machine.execVfma sl o s
  | .vmax sl o => Sys2Proof.Machine.execVmax sl o s
  | .vmin sl o => Sys2Proof.Machine.execVmin sl o s
  | .vscl sl o => Sys2Proof.Machine.execVscl sl o s
  | .vfn sl o => Sys2Proof.Machine.execVfn sl o s
  | .vred sl o => Sys2Proof.Machine.execVred sl o s
  | .vcmp sl o => Sys2Proof.Machine.execVcmp sl o s
  | .vsel sl o => Sys2Proof.Machine.execVsel sl o s
  | .vcpr sl o => Sys2Proof.Machine.execVcpr sl o s
  | .vxpd sl o => Sys2Proof.Machine.execVxpd sl o s
  | .vcvt sl o => Sys2Proof.Machine.execVcvt sl o s
  | .vrnd sl o => Sys2Proof.Machine.execVrnd sl o s
  | .vacc sl o => Sys2Proof.Machine.execVacc sl o s
  | .vftq sl o => Sys2Proof.Machine.execVftq sl o s
  | .vsamp sl o => Sys2Proof.Machine.execVsamp sl o s
  | .vstop sl o => Sys2Proof.Machine.execVstop sl o s
  | .vopt sl o => Sys2Proof.Machine.execVopt sl o s
  | .vget sl o => Sys2Proof.Machine.execVget sl o s
  | .vtst sl o => Sys2Proof.Machine.execVtst sl o s
  | .vput sl o => Sys2Proof.Machine.execVput sl o s
  | .ldv sl o => Sys2Proof.Machine.execLdv sl o s
  | .gath sl o => Sys2Proof.Machine.execGath sl o s
  | .copy sl o => Sys2Proof.Machine.execCopy sl o s
  | .stv sl o => Sys2Proof.Machine.execStv sl o s
  | .scat sl o => Sys2Proof.Machine.execScat sl o s
  | .emit sl o => Sys2Proof.Machine.execEmit sl o s
  | .coll sl o => Sys2Proof.Machine.execColl sl o s
  | .salu sl o => Sys2Proof.Machine.execSalu sl o s
  | .scmp sl o => Sys2Proof.Machine.execScmp sl o s
  | .plog sl o => Sys2Proof.Machine.execPlog sl o s
  | .loop sl o => Sys2Proof.Machine.execLoop sl o s
  | .br sl o => Sys2Proof.Machine.execBr sl o s
  | .call sl o => Sys2Proof.Machine.execCall sl o s
  | .ret sl o => Sys2Proof.Machine.execRet sl o s
  | .step sl o => Sys2Proof.Machine.execStep sl o s
  | .endp sl o => Sys2Proof.Machine.execEndp sl o s
  | .tdset sl o => Sys2Proof.Machine.execTdset sl o s
  | .param sl o => Sys2Proof.Machine.execParam sl o s
  | .await sl o => Sys2Proof.Machine.execAwait sl o s
  | .trace sl o => Sys2Proof.Machine.execTrace sl o s
  | .event sl o => Sys2Proof.Machine.execEvent sl o s
  | .layer sl o => Sys2Proof.Machine.execLayer sl o s
  | .seed sl o => Sys2Proof.Machine.execSeed sl o s
  | .cmt sl o => Sys2Proof.Machine.execCmt sl o s
  | .prologueEnd p => Sys2Proof.Machine.execPrologueEnd p s
  | .commitPoint p moved => Sys2Proof.Machine.execCommitPoint p moved s
  | .commitFillComplete p => Sys2Proof.Machine.execCommitFillComplete p s
  | .commitSetConfirmed p => Sys2Proof.Machine.execCommitSetConfirmed p s
  | .submit t ring => Sys2Proof.Machine.execSubmit t ring s
  | .bindComplete t => Sys2Proof.Machine.execBindComplete t s
  | .alternateRebindComplete p => Sys2Proof.Machine.execAlternateRebindComplete p s
  | .mbatch t ring => Sys2Proof.Machine.execMbatch t ring s
  | .admitReq t ring => Sys2Proof.Machine.execAdmitReq t ring s
  | .fetch t ring => Sys2Proof.Machine.execFetch t ring s
  | .weightSegmentReceive t seg => Sys2Proof.Machine.execWeightSegmentReceive t seg s
  | .switch t ring => Sys2Proof.Machine.execSwitch t ring s
  | .retire t ring => Sys2Proof.Machine.execRetire t ring s
  | .group t ring => Sys2Proof.Machine.execGroup t ring s
  | .keyloadAttest t ring => Sys2Proof.Machine.execKeyloadAttest t ring s
  | .keyloadLoad t ring => Sys2Proof.Machine.execKeyloadLoad t ring s
  | .keyloadClear t ring => Sys2Proof.Machine.execKeyloadClear t ring s
  | .save t ring => Sys2Proof.Machine.execSave t ring s
  | .restore t ring => Sys2Proof.Machine.execRestore t ring s
  | .release t ring => Sys2Proof.Machine.execRelease t ring s
  | .attach => Sys2Proof.Machine.execAttach s
  | .detach => Sys2Proof.Machine.execDetach s
  | .activate img => Sys2Proof.Machine.execActivate img s
  | .activateCancel => Sys2Proof.Machine.execActivateCancel s
  | .firmwareHandover => Sys2Proof.Machine.execFirmwareHandover s
  | .tenantSetConfigure wins => Sys2Proof.Machine.execTenantSetConfigure wins s
  | .tenantSetDestroy => Sys2Proof.Machine.execTenantSetDestroy s
  | .tenantSetGrant wins => Sys2Proof.Machine.execTenantSetGrant wins s
  | .partSet => Sys2Proof.Machine.execPartSet s
  | .turn => Sys2Proof.Machine.execTurn s
  | .unknownOpcode f ring => Sys2Proof.Machine.execUnknownOpcode f ring s
  | .commandDoorbell f ring prod entries => Sys2Proof.Machine.execCommandDoorbell f ring prod entries s
  | .consumerCountWrite f ring count => Sys2Proof.Machine.execConsumerCountWrite f ring count s
  | .ringConfigWrite f ring base log2 enable => Sys2Proof.Machine.execRingConfigWrite f ring base log2 enable s
  | .loadGo value img blk => Sys2Proof.Machine.execLoadGo value img blk s
  | .imageVerifyComplete => Sys2Proof.Machine.execImageVerifyComplete s
  | .selftestComplete bad => Sys2Proof.Machine.execSelftestComplete bad s
  | .heartbeatWrite value => Sys2Proof.Machine.execHeartbeatWrite value s
  | .heartbeatLoss => Sys2Proof.Machine.execHeartbeatLoss s
  | .modreset value => Sys2Proof.Machine.execModreset value s
  | .pfFunctionLevelReset => Sys2Proof.Machine.execPfFunctionLevelReset s
  | .tenantReset t => Sys2Proof.Machine.execTenantReset t s
  | .bar2Read t off len => Sys2Proof.Machine.execBar2Read t off len s
  | .bar2Write t off bytes => Sys2Proof.Machine.execBar2Write t off bytes s
  | .registerWrite r value => Sys2Proof.Machine.execRegisterWrite r value s
  | .swtrig n => Sys2Proof.Machine.execSwtrig n s
  | .claim core => Sys2Proof.Machine.execClaim core s
  | .complete core n => Sys2Proof.Machine.execComplete core n s
  | .coalescedRead => Sys2Proof.Machine.execCoalescedRead s
  | .errClear core mask => Sys2Proof.Machine.execErrClear core mask s
  | .tileLossDetect tiles det => Sys2Proof.Machine.execTileLossDetect tiles det s
  | .interruptionResume p => Sys2Proof.Machine.execInterruptionResume p s
  | .uncorrectableRead p rd copySound => Sys2Proof.Machine.execUncorrectableRead p rd copySound s
  | .hostUncorrectableRead t1 rd => Sys2Proof.Machine.execHostUncorrectableRead t1 rd s
  | .linkCodewordResend word => Sys2Proof.Machine.execLinkCodewordResend word s
  | .laneLoss link part => Sys2Proof.Machine.execLaneLoss link part s
  | .tenantFault p cause => Sys2Proof.Machine.execTenantFault p cause s
  | .moduleFault unit sound => Sys2Proof.Machine.execModuleFault unit sound s
  | .hbmRetrainingWindow c => Sys2Proof.Machine.execHbmRetrainingWindow c s
  | .dqsTrackingWindow p => Sys2Proof.Machine.execDqsTrackingWindow p s
  | .zqCalibrationWindow p => Sys2Proof.Machine.execZqCalibrationWindow p s
  | .islandClockCalibration isl pass => Sys2Proof.Machine.execIslandClockCalibration isl pass s
  | .guardedModeEnter u tempMoved => Sys2Proof.Machine.execGuardedModeEnter u tempMoved s
  | .islandDerate isl => Sys2Proof.Machine.execIslandDerate isl s
  | .scrubRead t1 addr err => Sys2Proof.Machine.execScrubRead t1 addr err s
  | .droop isl beyond => Sys2Proof.Machine.execDroop isl beyond s
  | .limiterWarn row unit => Sys2Proof.Machine.execLimiterWarn row unit s
  | .limiterEmergencyEnter row unit value => Sys2Proof.Machine.execLimiterEmergencyEnter row unit value s
  | .limiterStepDown row unit => Sys2Proof.Machine.execLimiterStepDown row unit s
  | .limiterEmergencyExit => Sys2Proof.Machine.execLimiterEmergencyExit s
  | .limiterTrip row unit value => Sys2Proof.Machine.execLimiterTrip row unit value s
  | .tripHoldEnd => Sys2Proof.Machine.execTripHoldEnd s
  | .capWWrite r item => Sys2Proof.Machine.execCapWWrite r item s
  | .capSetPointsReady => Sys2Proof.Machine.execCapSetPointsReady s
  | .capActiveUpdate => Sys2Proof.Machine.execCapActiveUpdate s
  | .supplyFault cause vin => Sys2Proof.Machine.execSupplyFault cause vin s
  | .pwrEnRise vin slotId lowMs => Sys2Proof.Machine.execPwrEnRise vin slotId lowMs s
  | .pwrEnFall => Sys2Proof.Machine.execPwrEnFall s
  | .rstNAssert us => Sys2Proof.Machine.execRstNAssert us s
  | .rstNRelease holdupMj => Sys2Proof.Machine.execRstNRelease holdupMj s
  | .cablePresentChange p present => Sys2Proof.Machine.execCablePresentChange p present s
  | .phyLinkUp p => Sys2Proof.Machine.execPhyLinkUp p s
  | .phyLinkDown p => Sys2Proof.Machine.execPhyLinkDown p s
  | .portEnWrite r item => Sys2Proof.Machine.execPortEnWrite r item s
  | .helloSend p => Sys2Proof.Machine.execHelloSend p s
  | .helloReceive p h => Sys2Proof.Machine.execHelloReceive p h s
  | .liveSend p => Sys2Proof.Machine.execLiveSend p s
  | .liveReceive p h => Sys2Proof.Machine.execLiveReceive p h s
  | .liveTimeout p => Sys2Proof.Machine.execLiveTimeout p s
  | .dataReceive p f => Sys2Proof.Machine.execDataReceive p f s
  | .ackReceive p h body => Sys2Proof.Machine.execAckReceive p h body s
  | .ackSend p => Sys2Proof.Machine.execAckSend p s
  | .resendTimeout p => Sys2Proof.Machine.execResendTimeout p s
  | .abortReceive p h body => Sys2Proof.Machine.execAbortReceive p h body s
  | .resumeReceive p h body => Sys2Proof.Machine.execResumeReceive p h body s
  | .progressTimeout grp => Sys2Proof.Machine.execProgressTimeout grp s
  | .ptpSyncReceive p m => Sys2Proof.Machine.execPtpSyncReceive p m s
  | .ptpDelayReqReceive p h source => Sys2Proof.Machine.execPtpDelayReqReceive p h source s
  | .ptpDelayRespReceive p h received => Sys2Proof.Machine.execPtpDelayRespReceive p h received s
  | .ptpSyncSend p => Sys2Proof.Machine.execPtpSyncSend p s
  | .ptpMasterLost => Sys2Proof.Machine.execPtpMasterLost s
  | .identify r => Sys2Proof.Machine.execIdentify r s
  | .read r items => Sys2Proof.Machine.execRead r items s
  | .write r items => Sys2Proof.Machine.execWrite r items s
  | .segread r obj offset len => Sys2Proof.Machine.execSegread r obj offset len s
  | .segwrite r item offset total last => Sys2Proof.Machine.execSegwrite r item offset total last s
  | .hbread r area since => Sys2Proof.Machine.execHbread r area since s
  | .mgmtUnknownOp r op => Sys2Proof.Machine.execMgmtUnknownOp r op s
  | .mgmtQueueFull r => Sys2Proof.Machine.execMgmtQueueFull r s
  | .mgmtRetry r => Sys2Proof.Machine.execMgmtRetry r s
  | .responseCacheExpiry => Sys2Proof.Machine.execResponseCacheExpiry s
  | .segwriteStagingExpiry src => Sys2Proof.Machine.execSegwriteStagingExpiry src s
  | .heartbeatSend => Sys2Proof.Machine.execHeartbeatSend s
  | .neighbourSolicitation src target => Sys2Proof.Machine.execNeighbourSolicitation src target s
  | .echoRequest src ident seq data => Sys2Proof.Machine.execEchoRequest src ident seq data s
  | .password r item => Sys2Proof.Machine.execPassword r item s
  | .newPassword r item => Sys2Proof.Machine.execNewPassword r item s
  | .chalLevel r item => Sys2Proof.Machine.execChalLevel r item s
  | .chalResp r verdict => Sys2Proof.Machine.execChalResp r verdict s
  | .challengeNonceExpiry => Sys2Proof.Machine.execChallengeNonceExpiry s
  | .close r item => Sys2Proof.Machine.execClose r item s
  | .levelIdleTimeout level => Sys2Proof.Machine.execLevelIdleTimeout level s
  | .lockoutExpiry => Sys2Proof.Machine.execLockoutExpiry s
  | .debugEn r item => Sys2Proof.Machine.execDebugEn r item s
  | .rotate r rec => Sys2Proof.Machine.execRotate r rec s
  | .hatbandCommit => Sys2Proof.Machine.execHatbandCommit s
  | .moduleResetComplete holdupMj => Sys2Proof.Machine.execModuleResetComplete holdupMj s
  | .activateVerifyComplete => Sys2Proof.Machine.execActivateVerifyComplete s
  | .saveImageWritten t => Sys2Proof.Machine.execSaveImageWritten t s
  | .attestReportWritten => Sys2Proof.Machine.execAttestReportWritten s
  | .warnThresholdClear => Sys2Proof.Machine.execWarnThresholdClear s
  | .powerTraceSegment p seg => Sys2Proof.Machine.execPowerTraceSegment p seg s
  | .ptpAnnounceReceive p a => Sys2Proof.Machine.execPtpAnnounceReceive p a s
  | .ptpFollowUpReceive p h origin => Sys2Proof.Machine.execPtpFollowUpReceive p h origin s
  | .ptpPdelayReqReceive p h source => Sys2Proof.Machine.execPtpPdelayReqReceive p h source s
  | .ptpPdelayRespReceive p h turn => Sys2Proof.Machine.execPtpPdelayRespReceive p h turn s
  | .ptpDelayReqSend p => Sys2Proof.Machine.execPtpDelayReqSend p s
  | .boreFrameDiscard p etype check => Sys2Proof.Machine.execBoreFrameDiscard p etype check s
  | .duplicateAddressDetection dup => Sys2Proof.Machine.execDuplicateAddressDetection dup s
  | .neighbourAdvertisement src target => Sys2Proof.Machine.execNeighbourAdvertisement src target s
  | .mgmtDatagramDiscard src otherPort => Sys2Proof.Machine.execMgmtDatagramDiscard src otherPort s
  | .plcaBeaconSeen => Sys2Proof.Machine.execPlcaBeaconSeen s
  | .plcaBeaconLost => Sys2Proof.Machine.execPlcaBeaconLost s
  | .supplyLeavesRegulation good => Sys2Proof.Machine.execSupplyLeavesRegulation good s

end Sys2Proof.Machine
end

