-- ==== Sys2Proof/Safety.lean ====
section
/-! DEFINITION. What counts as a safe run, and the terms in which claims speak of slots, bundles and rings. -/

namespace Sys2Proof.Machine

/-- A step is safe when it answers a next state: the module neither makes an access that no tier has nor
meets a command without a meaning. -/
def Safe (s : State) : Prop := ∃ s', step s = .next s'

/-- Both memory tiers are in their canonical form. -/
def MemSound (s : State) : Prop := s.mem.wf = true

/-! ### Slots of a bundle -/

/-- The place of a slot operation in the fixed slot order (R22). -/
def slotPosOf (i : Instr) : Option SlotPos :=
  match i with
  | .pld .. | .mm .. | .ewm .. | .drn .. | .rel .. => some .mx
  | .vadd _ o | .vsub _ o | .vmul _ o | .vfma _ o | .vmax _ o | .vmin _ o | .vscl _ o | .vfn _ o | .vred _ o
  | .vcmp _ o | .vsel _ o | .vcpr _ o | .vxpd _ o | .vcvt _ o | .vrnd _ o | .vacc _ o | .vftq _ o | .vsamp _ o
  | .vstop _ o | .vopt _ o | .vget _ o | .vtst _ o | .vput _ o => some (vPos o)
  | .ldv .. | .gath .. | .copy .. => some .ld
  | .stv .. | .scat .. | .emit .. | .coll .. => some .st
  | .salu .. | .scmp .. | .plog .. | .loop .. | .br .. | .call .. | .ret .. | .step .. | .endp .. | .tdset ..
  | .param .. => some .cf
  | .await .. | .trace .. | .event .. | .layer .. | .seed .. | .cmt .. => some .sy
  | _ => none

/-- A slot's operation acts: its plan runs a step and its bundle, `b` so far, takes the slot (R22); the slot's
predicate holds, or the opcode acts under any (R24); it breaks no rule for its operands (R28, R57); and it reads no
uncorrectable codeword (R240). -/
structure SlotActs (s : State) (i : Instr) (sl : Slot) (pos : SlotPos) (r : Running) (b : Build) : Prop where
  joins : s.slotOpen sl pos = some (r, b)
  acts : anyPred i = true ∨ (r.ctx.predOf sl).val = true
  valid : slotCheck (s.view sl.part r) i = none
  reads : (s.view sl.part r).badRead i = none

/-- The command completes with the bundle standing as `b'`: kept for the bundle's further slots, or retired
with the last of them (R22); codewords that the decoder corrects for its reads are counted (R243). -/
def SlotLeaves (s : State) (i : Instr) (sl : Slot) (r : Running) (b' : Build) : Prop :=
  exec i s = .next
    ((s.on fun c => c.countCes ((s.view sl.part r).correctedReads i)).slotDone sl.part r sl.more b')

/-- A vector operation completes: D's region of ROWS x COLS holds `f` of row and column, the rest of D, the other
buffers and everything else of the bundle stand as they were (R42, R43). -/
def FillsRegion (s : State) (i : Instr) (sl : Slot) (o : VOps) (r : Running) (b : Build) (f : Nat → Nat → W32) : Prop :=
  SlotActs s i sl (vPos o) r b →
  ∃ b', SlotLeaves s i sl r b' ∧
    (∀ row col, col < 4096 → Buf.get b'.ctx.v[o.d] row col =
      if row < o.rows.toNat ∧ col < o.cols.toNat then f row col else Buf.get b.ctx.v[o.d] row col) ∧
    (∀ j, j ≠ o.d → b'.ctx.v[j] = b.ctx.v[j]) ∧
    b' = { b with pos := (vPos o).num, ctx := { b.ctx with v := b'.ctx.v } }

/-- A slot completes and writes scalar `d`: S0 discards the write, every other scalar and everything else of the
bundle stand as they were; the value is dynamic where `dyn` says so or the predicate is dynamic (R21, R26). -/
def WritesScalar (s : State) (i : Instr) (sl : Slot) (pos : SlotPos) (d : Fin 64) (r : Running) (b : Build)
    (val : W64) (dyn : Bool) : Prop :=
  SlotActs s i sl pos r b →
  ∃ b', SlotLeaves s i sl r b' ∧
    (d ≠ 0 → b'.ctx.s[d] = ⟨val, dyn || r.ctx.p[sl.pred].dyn⟩) ∧
    (∀ j, j ≠ d ∨ j = 0 → b'.ctx.s[j] = b.ctx.s[j]) ∧
    b' = { b with pos := pos.num, ctx := { b.ctx with s := b'.ctx.s } }

/-- The same of predicate `d` (R21, R26); the bundle keeps the predicates that it writes after slot ST. -/
def WritesPred (s : State) (i : Instr) (sl : Slot) (pos : SlotPos) (d : Fin 16) (r : Running) (b : Build)
    (val : Bool) (dyn : Bool) : Prop :=
  SlotActs s i sl pos r b →
  ∃ b', SlotLeaves s i sl r b' ∧
    (d ≠ 0 → b'.ctx.p[d] = ⟨val, dyn || r.ctx.p[sl.pred].dyn⟩) ∧
    (∀ j, j ≠ d ∨ j = 0 → b'.ctx.p[j] = b.ctx.p[j]) ∧
    b' = { b with pos := pos.num, ctx := { b.ctx with p := b'.ctx.p }, latePreds := b'.latePreds }

/-! ### Requests of the management network -/

/-- A request that the agent serves: it is heard, of VER 1, and repeats no kept response (R356, R362, R363). -/
structure FreshRequest (c : Chip) (r : MReq) : Prop where
  running : c.power = .running
  heard : c.hears r.src = true
  version : r.ver = 1
  fresh : ∀ x ∈ c.mgmt.kept, x.1 = r.src → x.2.1.xid = r.xid → keptNs ≤ c.since x.2.2

/-- The request is counted and answered with a status, response items and records; nothing else is sent (R357). -/
def Replies (s u : State) (r : MReq) (op : Byte) (status : W16) (xs : List RespItem) (recs : List HbStored) : Prop :=
  u.chip.mgmt.tx = s.chip.mgmt.tx ++ [.response r.src
    { op := op, xid := r.xid, status := status, items := xs, recs := recs, modnum := u.chip.mram.moduleNum }] ∧
  u.chip.mgmt.rx = s.chip.mgmt.rx + 1

/-- A bore header that carries acknowledgement and credit alone. -/
def plainHdr (h : BoreHdr) : Prop :=
  h.nak = false ∧ h.hostAbsent = false ∧ h.goingDown = false ∧ h.portDown = false

end Sys2Proof.Machine
end

