-- ==== Sys2Proof/WellFormed.lean ====
section
/-! DEFINITION. Which commands the manual's words can spell: a row's operands lie in the ranges that the
manual gives them. The meanings are total and do not ask for this; claims and tests do. -/

namespace Sys2Proof

/-- Rows and columns of a vector region are 1 to 4,096 (R42). -/
def VOps.sized (o : VOps) : Bool :=
  decide (1 ≤ o.rows.toNat ∧ o.rows.toNat ≤ 4096 ∧ 1 ≤ o.cols.toNat ∧ o.cols.toNat ≤ 4096)

/-- The units that a row of the envelope table watches (R323): 68 tiles, 12 stacks, 16
packages, four physical dies, 77 clock islands, or one sensor of the module. -/
def LimRow.units : LimRow → Nat
  | .tileTemp => 68

  | .hbmTemp => 12
  | .lpddrTemp => 16
  | .dieCurrent | .vislDroop => 4
  | .vislOver => 77
  | .hubTemp | .hostTemp | .inPower1ms | .inPower100us | .inCurrent | .vin => 1

/-- A command ring of a function: the PF has ring 0 alone (R298). -/
def Fn.commandRing : Fn → Fin 8 → Bool
  | .pf, r => decide (r = 0)
  | .vf _, _ => true

/-- A device-produced ring: completion, event and log rings; a VF also has the result ring (R298). -/
def Fn.deviceRing : Fn → Fin 12 → Bool
  | .pf, r => decide (8 ≤ r.val) && decide (r.val ≤ 10)
  | .vf _, r => decide (8 ≤ r.val)

/-- A ring that a function has. -/
def Fn.hasRing (f : Fn) (r : Fin 12) : Bool :=
  f.deviceRing r || (match f with
    | .pf => decide (r = 0)
    | .vf _ => decide (r.val < 8))

/-- A write item of a row names the row's object (R348-R352, R371). -/
def WItem.names (i : WItem) (index : W16) (sub : Byte) : Bool := decide (i.obj = ⟨index, sub⟩)

/-- A DATA frame's KIND and payload (R273): kinds 0-4 are collectives, 0x10 and 0x11 transfers; a payload of
at most 8,192 bytes holds at most 16,384 elements, of FP4. -/
def DataFrame.sized (f : DataFrame) : Bool :=
  if f.kind = 0x11 then f.elems.isEmpty && decide (1 ≤ f.stream.length ∧ f.stream.length ≤ 8192)
  else (decide (f.kind.toNat ≤ 4) || f.kind == 0x10) && f.stream.isEmpty && decide (f.elems.length ≤ 16384) &&
    (decide (1 ≤ f.elems.length) || decide (f.phase = .flag))

/-- A command is well formed. -/
def Instr.wellFormed : Instr → Bool
  -- MX slot
  | .pld .. | .mm .. | .ewm .. | .drn .. | .rel .. => true
  -- VA and VB slots
  | .vadd _ o | .vsub _ o | .vmul _ o | .vfma _ o | .vmax _ o | .vmin _ o | .vscl _ o | .vfn _ o | .vred _ o
  | .vcmp _ o | .vsel _ o | .vcpr _ o | .vxpd _ o | .vcvt _ o | .vrnd _ o | .vacc _ o | .vftq _ o | .vopt _ o
  | .vtst _ o | .vput _ o => o.sized
  | .vsamp .. | .vstop .. | .vget .. => true
  -- LD and ST slots
  | .ldv .. | .gath .. | .copy .. | .stv .. | .scat .. | .emit .. | .coll .. => true
  -- CF slot
  | .salu .. | .scmp .. | .plog .. | .loop .. | .br .. | .call .. | .ret .. | .step .. | .endp .. | .tdset ..
  | .param .. => true
  -- SY slot
  | .await .. | .trace .. | .event .. | .layer .. | .seed .. | .cmt .. => true
  -- plans
  | .prologueEnd _ | .commitPoint _ _ | .commitFillComplete _ | .commitSetConfirmed _ | .submit _ _
  | .bindComplete _ | .alternateRebindComplete _ => true
  -- tenant rings
  | .mbatch .. | .admitReq .. | .fetch .. | .switch .. | .retire .. | .group .. | .keyloadAttest ..
  | .keyloadLoad .. | .keyloadClear .. | .save .. | .restore .. | .release .. => true
  -- R202: LEN is 1 to 1,048,576
  | .weightSegmentReceive _ g => decide (1 ≤ g.seg.cipher.length ∧ g.seg.cipher.length ≤ 1048576)
  -- admin ring
  | .attach | .detach | .activate _ | .activateCancel | .firmwareHandover | .tenantSetDestroy | .partSet
  | .turn => true
  -- R333: a tenant record has 16 windows
  | .tenantSetConfigure ws | .tenantSetGrant ws => decide (ws.length = 16)
  | .unknownOpcode f r => f.commandRing r
  -- BAR0 and BAR2
  | .commandDoorbell f r _ _ => f.commandRing r
  | .consumerCountWrite f r _ => f.deviceRing r
  | .ringConfigWrite f r _ _ _ => f.hasRing r
  | .loadGo .. | .imageVerifyComplete | .selftestComplete _ | .heartbeatWrite _ | .heartbeatLoss | .modreset _
  | .pfFunctionLevelReset | .tenantReset _ => true
  -- R335: an access of 1 to 64 bytes
  | .bar2Read _ _ n => decide (1 ≤ n.val)
  | .bar2Write _ _ bs => decide (1 ≤ bs.length ∧ bs.length ≤ 64)
  | .registerWrite .. => true
  -- interrupt controller
  | .swtrig _ | .claim _ | .complete .. | .coalescedRead | .errClear .. => true
  -- faults
  | .tileLossDetect ts det => !ts.isEmpty && decide (1 ≤ det.toNat ∧ det.toNat ≤ 6)
  | .interruptionResume _ | .uncorrectableRead .. | .hostUncorrectableRead ..
  | .laneLoss .. | .tenantFault .. | .moduleFault .. => true
  -- calibration, scrub, islands
  | .hbmRetrainingWindow _ | .dqsTrackingWindow _ | .zqCalibrationWindow _ | .islandClockCalibration .. => true
  -- R246: guarded mode is a mode of memory units
  | .guardedModeEnter u _ => match u with
    | .hbmPc _ | .dqs _ | .zq _ => true
    | .island _ => false
  | .islandDerate _ | .droop .. => true
  -- R237: a link carries the first 35 bytes of a codeword
  | .linkCodewordResend w => decide (w.raw.length = 35)
  | .scrubRead .. => true
  -- limiter and power
  | .limiterWarn row u | .limiterEmergencyEnter row u _ | .limiterStepDown row u => decide (u < row.units)
  | .limiterTrip row u _ => decide (u.toNat < row.units)
  | .limiterEmergencyExit | .tripHoldEnd | .capSetPointsReady | .capActiveUpdate | .supplyFault .. | .pwrEnRise ..
  | .pwrEnFall | .rstNAssert _ | .rstNRelease _ => true
  | .capWWrite _ i => i.names 0x2000 0
  -- bore ports
  | .cablePresentChange .. | .phyLinkUp _ | .phyLinkDown _ | .helloSend _ | .helloReceive .. | .liveSend _
  | .liveReceive .. | .liveTimeout _ | .ackReceive .. | .ackSend _ | .resendTimeout _ | .abortReceive ..
  | .resumeReceive .. | .progressTimeout _ => true
  | .portEnWrite _ i => i.names 0x5200 0
  | .dataReceive _ f => f.sized
  -- PTP
  | .ptpSyncReceive .. | .ptpDelayReqReceive .. | .ptpDelayRespReceive .. | .ptpSyncSend _ | .ptpMasterLost => true
  -- management network
  | .identify _ => true
  -- R358: a request carries 1 to 32 items
  | .read _ is => decide (1 ≤ is.length ∧ is.length ≤ 32)
  | .write _ is => decide (1 ≤ is.length ∧ is.length ≤ 32)
  -- R366: a segment carries 1 to 960 bytes
  | .segread _ _ _ len => decide (1 ≤ len.toNat ∧ len.toNat ≤ 960)
  | .segwrite _ i _ _ _ => decide (1 ≤ i.value.length ∧ i.value.length ≤ 960)
  | .hbread _ area _ => decide (area.toNat ≤ 2)
  | .mgmtUnknownOp _ op => !(decide (1 ≤ op.toNat) && decide (op.toNat ≤ 6))
  | .mgmtQueueFull _ | .mgmtRetry _ | .responseCacheExpiry | .segwriteStagingExpiry _ | .heartbeatSend
  | .neighbourSolicitation .. | .echoRequest .. => true
  -- field gate
  | .password _ i => i.names 0x8002 0
  | .newPassword _ i => i.names 0x8002 1
  | .chalLevel _ i => i.names 0x8001 0
  | .close _ i => i.names 0x8003 0
  | .debugEn _ i => i.names 0x8004 0
  | .chalResp .. | .challengeNonceExpiry | .lockoutExpiry | .rotate .. => true
  -- R351: levels 1 to 3 open and close
  | .levelIdleTimeout l => decide (l ≠ 0)
  -- Hatband, completions
  | .hatbandCommit | .moduleResetComplete _ | .activateVerifyComplete | .saveImageWritten _ | .attestReportWritten
  | .warnThresholdClear | .powerTraceSegment .. => true
  | .ptpAnnounceReceive .. | .ptpFollowUpReceive .. | .ptpPdelayReqReceive .. | .ptpPdelayRespReceive ..
  | .ptpDelayReqSend _ => true
  | .boreFrameDiscard .. => true
  | .duplicateAddressDetection _ | .neighbourAdvertisement .. | .mgmtDatagramDiscard .. | .plcaBeaconSeen
  | .plcaBeaconLost | .supplyLeavesRegulation _ => true

end Sys2Proof
end

