-- ==== Sys2Proof/Certificates/Slice0/Obligations.lean ====
section
/-! DEFINITION. The statements for the provers. -/

open Sys2Proof Sys2Proof.Machine

/-! ### The vector slots -/

/-- R43, R113: VADD, VSUB, VMUL, VFMA and VSCL round the exact result to BF16; VMAX and VMIN take the greater and
the smaller, NaN when either is NaN. -/
def Obligations.LaneArithmeticFillsRegion : Prop :=
  ∀ (s : State) (sl : Slot) (o : VOps) (r : Running) (b : Build),
    let x := fun i j => ofBf (Buf.get r.ctx.v[o.x] i j)
    let y := fun i j => ofBf (Buf.get r.ctx.v[o.y] i j)
    let z := fun i j => ofBf (Buf.get r.ctx.v[o.z] i j)
    let k := ofBf ((if o.ims then sl.imm0 else r.ctx.s[o.ss].val).setWidth 32)
    FillsRegion s (.vadd sl o) sl o r b (fun i j => toBf ((x i j).add (y i j))) ∧
    FillsRegion s (.vsub sl o) sl o r b (fun i j => toBf ((x i j).sub (y i j))) ∧
    FillsRegion s (.vmul sl o) sl o r b (fun i j => toBf ((x i j).mul (y i j))) ∧
    FillsRegion s (.vfma sl o) sl o r b (fun i j => toBf (((x i j).mul (y i j)).add (z i j))) ∧
    FillsRegion s (.vscl sl o) sl o r b (fun i j => toBf ((x i j).mul k)) ∧
    FillsRegion s (.vmax sl o) sl o r b (fun i j =>
      if (x i j).isNan ∨ (y i j).isNan then 0x7FC0
      else if below (x i j) (y i j) then Buf.get r.ctx.v[o.y] i j &&& 0xFFFF else Buf.get r.ctx.v[o.x] i j &&& 0xFFFF) ∧
    FillsRegion s (.vmin sl o) sl o r b (fun i j =>
      if (x i j).isNan ∨ (y i j).isNan then 0x7FC0
      else if below (y i j) (x i j) then Buf.get r.ctx.v[o.y] i j &&& 0xFFFF else Buf.get r.ctx.v[o.x] i j &&& 0xFFFF)

/-- R43, R114: VFN applies its function, VCMP its relation, VSEL picks by a non-zero mask element, VPUT fills the
region with bits [31:0] of its scalar operand. Where an operand of VCMP is NaN the manual states no result: it is a fixed
function of FN and the two elements (FREE VALUE, notes/assumptions/24.md). -/
def Obligations.LaneSelectionFillsRegion : Prop :=
  ∀ (s : State) (sl : Slot) (o : VOps) (r : Running) (b : Build),
    let x := fun i j => Buf.get r.ctx.v[o.x] i j
    let y := fun i j => Buf.get r.ctx.v[o.y] i j
    FillsRegion s (.vfn sl o) sl o r b
      (fun i j => vfnBf r.plan.image.hwgen r.plan.image.nepoch o.fn.val (x i j)) ∧
    FillsRegion s (.vcmp sl o) sl o r b (fun i j =>
      if (if (ofBf (x i j)).isNan ∨ (ofBf (y i j)).isNan then
          Config.cmpNan o.fn.val ((x i j).setWidth 16) ((y i j).setWidth 16)
        else match o.fn.val with
        | 0 => (ofBf (x i j)).eq (ofBf (y i j))
        | 1 => !(ofBf (x i j)).eq (ofBf (y i j))
        | 2 => (ofBf (x i j)).lt (ofBf (y i j))
        | 3 => (ofBf (x i j)).le (ofBf (y i j))
        | 4 => (ofBf (y i j)).lt (ofBf (x i j))
        | _ => (ofBf (y i j)).le (ofBf (x i j))) then 1 else 0) ∧
    FillsRegion s (.vsel sl o) sl o r b (fun i j => if Buf.get r.ctx.v[o.z] i j ≠ 0 then x i j else y i j) ∧
    FillsRegion s (.vput sl o) sl o r b (fun _ _ => (if o.ims then sl.imm0 else r.ctx.s[o.ss].val).setWidth 32)

/-- R117: VXPD puts the element of the greatest i whose target column is c at column c, and the background element
where no i targets it. VCPR packs the elements whose mask element is not zero, in column order: element c of a row is
that of the c-th set column, and Y receives that column's index; past the last of them D holds zero and Y −1. Where D
is Y the manual does not say which value stands (notes/assumptions/8.md). -/
def Obligations.ExpandAndCompressPlaceElements : Prop :=
  (∀ (s : State) (sl : Slot) (o : VOps) (r : Running) (b : Build),
      SlotActs s (.vxpd sl o) sl (vPos o) r b →
      ∃ b', SlotLeaves s (.vxpd sl o) sl r b' ∧
        b' = { b with pos := (vPos o).num, ctx := { b.ctx with v := b'.ctx.v } } ∧
        (∀ j, j ≠ o.d → b'.ctx.v[j] = b.ctx.v[j]) ∧
        ∀ row col, row < o.rows.toNat → col < o.cols.toNat →
          (∀ i, i < o.cols.toNat → (Buf.get r.ctx.v[o.y] row i).toInt = (col : Int) →
            (∀ k, i < k → k < o.cols.toNat → (Buf.get r.ctx.v[o.y] row k).toInt ≠ (col : Int)) →
            Buf.get b'.ctx.v[o.d] row col = Buf.get r.ctx.v[o.x] row i) ∧
          ((∀ i, i < o.cols.toNat → (Buf.get r.ctx.v[o.y] row i).toInt ≠ (col : Int)) →
            Buf.get b'.ctx.v[o.d] row col = Buf.get r.ctx.v[o.z] row col)) ∧
    ∀ (s : State) (sl : Slot) (o : VOps) (r : Running) (b : Build),
      SlotActs s (.vcpr sl o) sl (vPos o) r b →
      let mask := fun row k => decide (Buf.get r.ctx.v[o.z] row k ≠ 0)
      ∃ b', SlotLeaves s (.vcpr sl o) sl r b' ∧
        b' = { b with pos := (vPos o).num, ctx := { b.ctx with v := b'.ctx.v } } ∧
        (∀ j, j ≠ o.d → j ≠ o.y → b'.ctx.v[j] = b.ctx.v[j]) ∧
        ∀ row col, row < o.rows.toNat → col < o.cols.toNat → o.d ≠ o.y →
          (∀ i, i < o.cols.toNat → mask row i = true → ((List.range i).filter (mask row)).length = col →
            Buf.get b'.ctx.v[o.d] row col = Buf.get r.ctx.v[o.x] row i ∧
            Buf.get b'.ctx.v[o.y] row col = BitVec.ofNat 32 i) ∧
          (((List.range o.cols.toNat).filter (mask row)).length ≤ col →
            Buf.get b'.ctx.v[o.d] row col = 0 ∧ Buf.get b'.ctx.v[o.y] row col = 0xFFFFFFFF)

/-- R43, R115, R87: VRED writes a row's sum or sum of squares into column 0 of D, or its greatest or smallest value
with the lowest column that holds it into columns 0 and 1, and no other element. The order in which a sum's terms join is a
free function of COLS (notes/assumptions/1.md), and a sum has no starting value (the model's choice,
notes/assumptions/104.md). -/
def Obligations.ReductionWritesRowResult : Prop :=
  ∀ (s : State) (sl : Slot) (o : VOps) (r : Running) (b : Build),
    SlotActs s (.vred sl o) sl (vPos o) r b →
    let x := fun row k => ofBf (Buf.get r.ctx.v[o.x] row k)
    let xs := fun row => (List.range o.cols.toNat).map (x row)
    ∃ b', SlotLeaves s (.vred sl o) sl r b' ∧
      b' = { b with pos := (vPos o).num, ctx := { b.ctx with v := b'.ctx.v } } ∧
      (∀ j, j ≠ o.d → b'.ctx.v[j] = b.ctx.v[j]) ∧
      (∀ row col, col < 4096 → (o.rows.toNat ≤ row ∨ 2 ≤ col ∨ (col = 1 ∧ (o.fn = 0 ∨ o.fn = 3))) →
        Buf.get b'.ctx.v[o.d] row col = Buf.get b.ctx.v[o.d] row col) ∧
      ∀ row, row < o.rows.toNat →
        (o.fn = 0 → Buf.get b'.ctx.v[o.d] row 0 =
          toF32 (joinAll r.plan.image.gen [1, o.cols.toNat] o.cols.toNat (xs row))) ∧
        (o.fn = 3 → Buf.get b'.ctx.v[o.d] row 0 =
          toF32 (joinAll r.plan.image.gen [1, o.cols.toNat] o.cols.toNat ((xs row).map fun y => y.mul y))) ∧
        ((o.fn = 1 ∨ o.fn = 2) → ∃ c, c < o.cols.toNat ∧
          Buf.get b'.ctx.v[o.d] row 0 = toF32 (x row c) ∧ Buf.get b'.ctx.v[o.d] row 1 = BitVec.ofNat 32 c ∧
          ((∀ k, k < o.cols.toNat → (x row k).isNan = false) →
            (o.fn = 1 → ∀ k, k < o.cols.toNat →
              (x row c).lt (x row k) = false ∧ (k < c → (x row k).lt (x row c) = true)) ∧
            (o.fn = 2 → ∀ k, k < o.cols.toNat →
              (x row k).lt (x row c) = false ∧ (k < c → (x row c).lt (x row k) = true))))

/-- R26, R43: VGET writes element (0, 0) of X into its scalar, VTST whether any element of the region is not zero
into its predicate; both values are dynamic. -/
def Obligations.BufferReadsAreDynamic : Prop :=
  ∀ (s : State) (sl : Slot) (o : VOps) (r : Running) (b : Build),
    WritesScalar s (.vget sl o) sl (vPos o) o.ss r b ((Buf.get r.ctx.v[o.x] 0 0).setWidth 64) true ∧
    (∀ any : Bool,
      (any = true ↔ ∃ row col, row < o.rows.toNat ∧ col < o.cols.toNat ∧ Buf.get r.ctx.v[o.x] row col ≠ 0) →
      WritesPred s (.vtst sl o) sl (vPos o) o.pd r b any true)

/-- R43, R116, R131: VCVT without block scales leaves the conversion of each element into TD's format, and VRND the
random slice of each element's offset in TD's view: 32 bits, a uniform value, or a keep mask. -/
def Obligations.ConversionAndDrawFillRegion : Prop :=
  ∀ (s : State) (sl : Slot) (o : VOps) (r : Running) (b : Build),
    let d := r.ctx.desc o.td
    let slice := fun i j => programSlice r.ctx.seed r.step (Desc.strm d) (Desc.offset d i j)
    FillsRegion s (.vrnd sl o) sl o r b (fun i j => match o.fn.val with
      | 0 => BitVec.ofNat 32 (slice i j 32)
      | 1 => uniformBf (slice i j 24)
      | _ => keepMask (ofBf ((if o.ims then sl.imm0 else r.ctx.s[o.ss].val).setWidth 32)) (slice i j 24)) ∧
    (SlotActs s (.vcvt sl o) sl (vPos o) r b → Desc.scaled d = false →
      ∃ src f b', cvtSource o.fn = some src ∧ Desc.fmt d = some f ∧ SlotLeaves s (.vcvt sl o) sl r b' ∧
        (∀ row col, row < o.rows.toNat → col < o.cols.toNat → Buf.get b'.ctx.v[o.d] row col =
          (convertTo f (Desc.ovf d) (if Desc.sre d && f.isFloat then some (slice row col 24) else none)
            (src.decode (Buf.get r.ctx.v[o.x] row col))).1) ∧
        (∀ j, j ≠ o.d → b'.ctx.v[j] = b.ctx.v[j]) ∧
        (narrows src f = false → b'.mon = b.mon) ∧
        b' = { b with pos := (vPos o).num, ctx := { b.ctx with v := b'.ctx.v }, mon := b'.mon })

/-- R40, R118, R119: VACC narrows a READY accumulator into the region and leaves the accumulator as it is; VFTQ takes
the oldest entry of the finished-tile queue, and from an empty queue fills the region with zeros and counts an
underflow. -/
def Obligations.ArrayResultsReachBuffers : Prop :=
  ∀ (s : State) (sl : Slot) (o : VOps) (r : Running) (b : Build), b.special = false →
    (SlotActs s (.vacc sl o) sl (vPos o) r b → r.ctx.ac[o.acs].state = .ready →
      o.rows.toNat ≤ r.ctx.ac[o.acs].m → o.cols.toNat ≤ r.ctx.ac[o.acs].n →
      ∃ b', SlotLeaves s (.vacc sl o) sl r b' ∧
        (∀ row col, row < o.rows.toNat → col < o.cols.toNat → Buf.get b'.ctx.v[o.d] row col =
          toBf (ofF32 (spGet 0 r.ctx.ac[o.acs].cells (4096 * row + col)))) ∧
        (∀ j, j ≠ o.d → b'.ctx.v[j] = b.ctx.v[j]) ∧
        b' = { b with pos := (vPos o).num, special := true, ctx := { b.ctx with v := b'.ctx.v }, mon := b'.mon }) ∧
    (SlotActs s (.vftq sl o) sl (vPos o) r b →
      ∃ b', SlotLeaves s (.vftq sl o) sl r b' ∧
        b'.ctx.ftq = (if r.ctx.ftq = [] then b.ctx.ftq else b.ctx.ftq.drop 1) ∧
        (∀ row col, row < o.rows.toNat → col < o.cols.toNat → Buf.get b'.ctx.v[o.d] row col =
          (match r.ctx.ftq with
            | [] => 0
            | q :: _ => q.word row col)) ∧
        (∀ j, j ≠ o.d → b'.ctx.v[j] = b.ctx.v[j]) ∧
        b'.counts.ftqUnder = b.counts.ftqUnder + (if r.ctx.ftq = [] then 1 else 0) ∧
        b'.mem = b.mem ∧ b'.mon = b.mon ∧ b'.ctx.s = b.ctx.s ∧ b'.ctx.p = b.ctx.p ∧ b'.ctx.ac = b.ctx.ac)

/-- R136-R142, R146, R147: VSAMP folds the chunk's entries into each row's state, taken afresh or from D, and leaves the
state's words in D; a last chunk leaves the selection's token, log-probability, flags and count in columns 0 to 3, and a
row whose INVT is not above 0 selects nothing. VSTOP accepts a row's token into the active request that the row names: a
negative one finishes it with NO_CANDIDATE, any other enters HIST and raises TIDX, and finishes it by the first of its
stop tokens, its stop sequences and MAXNEW that applies. Column 0 of D tells whether the request finishes; a row that
names no active request changes nothing. Both write nothing else. -/
def Obligations.SamplingAndStopWriteTheirBuffer : Prop :=
  ∀ (s : State) (sl : Slot) (o : VOps) (r : Running) (b : Build), b.special = false →
    let v := s.view sl.part r
    let X := fun row c => Buf.get r.ctx.v[o.x] row c
    let Y := fun row c => Buf.get r.ctx.v[o.y] row c
    (SlotActs s (.vsamp sl o) sl (vPos o) r b →
      let base : Int := (r.ctx.s[o.ss].val.toNat : Int)
      let par := fun row => sampParams (Y row)
      let entries := fun row => (List.range o.cols.toNat).map fun i =>
        if o.fn.val < 4 then sampEntry (par row) (ofBf (X row i)) (base + i)
        else if Buf.get r.ctx.v[o.z] row i = 0xFFFFFFFF then .skip
        else sampEntry (par row) (ofBf (X row i)) (base + (Buf.get r.ctx.v[o.z] row i).toInt)
      let old := fun row => if o.fn.val % 4 = 0 ∨ o.fn.val % 4 = 3 then SampState.init
        else SampState.read fun c => Buf.get r.ctx.v[o.d] row c
      let new := fun row => if (par row).ok then (old row).fold v (par row) o.cols.toNat (entries row)
        else { old row with flag := (old row).flag ||| 4 }
      ∃ b', SlotLeaves s (.vsamp sl o) sl r b' ∧
        (∀ j, j ≠ o.d → b'.ctx.v[j] = b.ctx.v[j]) ∧
        (∀ row col, col < 4096 → (o.rows.toNat ≤ row ∨ col = 7 ∨ 520 ≤ col) →
          Buf.get b'.ctx.v[o.d] row col = Buf.get b.ctx.v[o.d] row col) ∧
        (∀ row, row < o.rows.toNat →
          let D := fun c => Buf.get b'.ctx.v[o.d] row c
          D 4 = BitVec.ofNat 32 (new row).cand.length ∧ D 5 = (new row).flag ∧ D 6 = toF32 (new row).by_ ∧
          (∀ i x, (new row).cand[i]? = some x → D (8 + i) = toF32 x.1 ∧ D (264 + i) = BitVec.ofNat 32 x.2) ∧
          (o.fn.val % 4 = 0 ∨ o.fn.val % 4 = 1 →
            D 0 = toF32 (new row).m ∧ D 1 = toF32 (new row).sum ∧ D 2 = toF32 (new row).bkey ∧ D 3 = (new row).bidx) ∧
          (o.fn.val % 4 = 2 ∨ o.fn.val % 4 = 3 →
            ((par row).ok = true →
              let q := (new row).select v (par row)
              D 0 = q.token ∧ D 1 = q.logp ∧ D 2 = q.flags ∧ D 3 = BitVec.ofNat 32 q.count) ∧
            ((par row).ok = false →
              D 0 = 0xFFFFFFFF ∧ D 1 = 0x7FC00000 ∧ D 2 = (new row).flag ||| 2 ∧ D 3 = 0))) ∧
        b' = { b with pos := (vPos o).num, special := true, ctx := { b.ctx with v := b'.ctx.v } }) ∧
    (SlotActs s (.vstop sl o) sl (vPos o) r b →
      ∃ b', SlotLeaves s (.vstop sl o) sl r b' ∧
        (∀ j, j ≠ o.d → b'.ctx.v[j] = b.ctx.v[j]) ∧
        (∀ row col, col < 4096 → (o.rows.toNat ≤ row ∨ col ≠ 0) →
          Buf.get b'.ctx.v[o.d] row col = Buf.get b.ctx.v[o.d] row col) ∧
        (∀ row, row < o.rows.toNat →
          let slot := (Y row 0).toInt
          let t := X row 0
          let D := Buf.get b'.ctx.v[o.d] row 0
          (slot < 0 ∨ alGet v.tenant.slots slot.toNat = none → D = 0) ∧
          (∀ q, 0 ≤ slot → alGet v.tenant.slots slot.toNat = some q →
            (q.finish ≠ none ∨ v.served q = false → D = 0) ∧
            (q.finish = none → v.served q = true → (∀ k, k < row → Y k 0 ≠ Y row 0) →
              ∃ q' : ReqSlot, D = (if q'.finish = none then 0 else 1) ∧
                ((∀ k, row < k → k < o.rows.toNat → Y k 0 ≠ Y row 0) → b.slots = [] →
                  alGet (b'.requests v) slot.toNat = some q') ∧
                (t.toInt < 0 → q' = { q with finish := some (4, 0) }) ∧
                (0 ≤ t.toInt →
                  let tidx := q.word 5 + 1
                  let hit := fun j => (q.word (18 + j)).toNat ≤ tidx.toNat ∧
                    ((q.recent t).take (q.word (18 + j)).toNat).reverse = q.stopSeq j
                  let ids := min (q.word 8).toNat 8
                  let seqs := min (q.word 17).toNat 4
                  q' = { q with row := q'.row, finish := q'.finish } ∧
                  q'.word 5 = tidx ∧ q'.word 57 = t ∧ (∀ i, 57 ≤ i → i < 63 → q'.word (i + 1) = q.word i) ∧
                  (∀ i, i < 57 → i ≠ 5 → q'.word i = q.word i) ∧
                  (∀ j, j < ids → q.word (9 + j) = t → (∀ k, k < j → q.word (9 + k) ≠ t) → q'.finish = some (1, j)) ∧
                  ((∀ j, j < ids → q.word (9 + j) ≠ t) →
                    (∀ j, j < seqs → hit j → (∀ k, k < j → ¬ hit k) → q'.finish = some (2, j)) ∧
                    ((∀ j, j < seqs → ¬ hit j) →
                      q'.finish = if q.word 54 ≠ 0 ∧ q.word 54 = tidx then some (3, 0) else none)))))) ∧
        b' = { b with pos := (vPos o).num, special := true, slots := b'.slots, ctx := { b.ctx with v := b'.ctx.v } })

/-- R121-R124: VOPT updates w in D, the moment in Y and, for FN 1, the second moment in Z, from what these buffers
held, and adds one entry to the monitor's layer after its conversions. -/
def Obligations.OptimizerUpdatesItsBuffers : Prop :=
  ∀ (s : State) (sl : Slot) (o : VOps) (r : Running) (b : Build), b.special = false →
    SlotActs s (.vopt sl o) sl (vPos o) r b →
    let v := s.view sl.part r
    let d := r.ctx.desc o.td
    ∃ rt b', v.optrec d = some rt ∧ SlotLeaves s (.vopt sl o) sl r b' ∧
      (o.d ≠ o.y → (o.fn = 1 → o.d ≠ o.z ∧ o.y ≠ o.z) → ∀ row col, row < o.rows.toNat → col < o.cols.toNat →
        let q := optElem r.plan.image.hwgen r.plan.image.nepoch (Desc.ovf d) o.fn (fun i => ofF32 (v.bits rt i))
          (decide ((v.bits rt 10).toNat % 2 = 1))
          (fun i => programSlice r.ctx.seed r.step (Desc.strm d + BitVec.ofNat 16 i) (Desc.offset d row col) 24)
          (Buf.get r.ctx.v[o.x] row col) (Buf.get r.ctx.v[o.d] row col) (Buf.get r.ctx.v[o.y] row col)
          (Buf.get r.ctx.v[o.z] row col)
        Buf.get b'.ctx.v[o.d] row col = q.w ∧ Buf.get b'.ctx.v[o.y] row col = q.m ∧
        (o.fn = 1 → Buf.get b'.ctx.v[o.z] row col = q.v)) ∧
      (o.fn = 0 → o.z ≠ o.d → o.z ≠ o.y → b'.ctx.v[o.z] = b.ctx.v[o.z]) ∧
      (∀ j, j ≠ o.d → j ≠ o.y → j ≠ o.z → b'.ctx.v[j] = b.ctx.v[j]) ∧
      (∃ ks dt wt, b'.mon = b.mon ++ ks ++ [.vopt r.ctx.layer dt wt (o.rows.toNat, o.cols.toNat) (ofF32 (v.bits rt 1))]) ∧
      b' = { b with pos := (vPos o).num, special := true, mon := b'.mon, ctx := { b.ctx with v := b'.ctx.v } }

/-! ### The MX slot -/

/-- R38-R41, R67: PLD loads TD's view into the EMPTY shadow plane by the load chains; MM streams through a FULL shadow,
which becomes the active plane and leaves the shadow EMPTY, and leaves its accumulator OPEN or READY with the pass's
elements. -/
def Obligations.PlaneLoadAndPassUpdateArray : Prop :=
  ∀ (s : State) (sl : Slot) (o : MxOps) (r : Running) (b : Build),
    let v := s.view sl.part r
    (SlotActs s (.pld sl o) sl .mx r b → r.ctx.shadow = none →
      ∃ b' pl, SlotLeaves s (.pld sl o) sl r b' ∧
        pl.k = Desc.rows (r.ctx.desc o.tda) ∧ pl.n = Desc.cols (r.ctx.desc o.tda) ∧
        pl.fmt = Desc.fmtCode (r.ctx.desc o.tda) ∧ pl.anyFmt = false ∧
        (∀ k n, k < pl.k → n < pl.n → pl.at k n = v.elem (r.ctx.desc o.tda) k n) ∧
        b' = { b with pos := 0, load := some pl, ctx := { b.ctx with shadow := some pl } }) ∧
    (∀ i : Fin 2, o.ac.val = i.val → SlotActs s (.mm sl o) sl .mx r b →
      r.ctx.ac[i].state = (if o.init then .free else .opened) →
      (o.init = false → r.ctx.ac[i].m = Desc.rows (r.ctx.desc o.tdb) ∧ r.ctx.ac[i].n = (passPlane r.ctx).n ∧
        r.ctx.ac[i].opr = o.opr ∧ r.ctx.ac[i].idx = o.idx) →
      ∃ b' f, Desc.fmt (r.ctx.desc o.tdb) = some f ∧ SlotLeaves s (.mm sl o) sl r b' ∧
        b'.ctx.ac[i].state = (if o.last then .ready else .opened) ∧
        b'.ctx.ac[i].m = Desc.rows (r.ctx.desc o.tdb) ∧ b'.ctx.ac[i].n = (passPlane r.ctx).n ∧
        b'.ctx.ac[i].opr = o.opr ∧ b'.ctx.ac[i].idx = o.idx ∧
        b'.ctx.ac[i].ks = (if o.init then [] else r.ctx.ac[i].ks) ++ [(passPlane r.ctx).k] ∧
        ((passPlane r.ctx).n ≤ 4096 → ∀ m n, m < Desc.rows (r.ctx.desc o.tdb) → n < (passPlane r.ctx).n →
          spGet 0 b'.ctx.ac[i].cells (4096 * m + n) =
            (passElem v (r.ctx.desc o.tdb) f (passPlane r.ctx) o r.ctx.ac[i] m n).1) ∧
        (∀ j, j ≠ i → b'.ctx.ac[j] = b.ctx.ac[j]) ∧
        (∃ x, b'.pass = some x ∧ x.k = (passPlane r.ctx).k ∧ x.n = (passPlane r.ctx).n ∧
          x.token = r.ctx.shadow.isSome) ∧
        b' = { b with pos := 0, pass := b'.pass, ctx := { b.ctx with
          ac := b'.ctx.ac, active := r.ctx.shadow.getD r.ctx.active, shadow := none } })

/-- R38, R40, R92: EWM leaves the element-wise product in a FREE accumulator and REL frees a READY one. That a product
of −0 stays −0 is the model's choice (notes/assumptions/98.md). -/
def Obligations.ProductAndReleaseUpdateAccumulator : Prop :=
  ∀ (s : State) (sl : Slot) (o : MxOps) (r : Running) (b : Build) (i : Fin 2), o.ac.val = i.val →
    let v := s.view sl.part r
    let x := r.ctx.desc o.tdb
    let e := r.ctx.desc o.tde
    (SlotActs s (.ewm sl o) sl .mx r b → r.ctx.ac[i].state = .free →
      ∃ b', SlotLeaves s (.ewm sl o) sl r b' ∧
        b'.ctx.ac[i].state = .ready ∧ b'.ctx.ac[i].m = Desc.rows x ∧ b'.ctx.ac[i].n = Desc.cols x ∧
        (∀ m n, m < Desc.rows x → n < Desc.cols x →
          spGet 0 b'.ctx.ac[i].cells (4096 * m + n) = toF32 ((rne32 (v.value x m n)).mul (rne32 (v.value e m n)))) ∧
        (∀ j, j ≠ i → b'.ctx.ac[j] = b.ctx.ac[j]) ∧
        b' = { b with pos := 0, ctx := { b.ctx with ac := b'.ctx.ac } }) ∧
    (SlotActs s (.rel sl o) sl .mx r b → r.ctx.ac[i].state = .ready →
      ∃ b', SlotLeaves s (.rel sl o) sl r b' ∧
        b'.ctx.ac[i] = { r.ctx.ac[i] with state := .free } ∧
        (∀ j, j ≠ i → b'.ctx.ac[j] = b.ctx.ac[j]) ∧
        b' = { b with pos := 0, ctx := { b.ctx with ac := b'.ctx.ac } })

/-- R40, R92, R93, R119: DRN of a READY accumulator leaves it DRAINING; with FTQ it appends the finished tile to the
queue unless that is full; without, it writes the elements of its view, each converted from the accumulator's after the
epilogue, and those of the index descriptor where the accumulation held winners. -/
def Obligations.DrainWritesDescriptorOrQueue : Prop :=
  ∀ (s : State) (sl : Slot) (o : MxOps) (r : Running) (b : Build) (i : Fin 2), o.ac.val = i.val →
    let v := s.view sl.part r
    let a := r.ctx.ac[i]
    let c := r.ctx.desc o.tdc
    let x := r.ctx.desc o.tdx
    SlotActs s (.drn sl o) sl .mx r b → a.state = .ready → Desc.rows c = a.m → Desc.cols c = a.n →
    (o.epi ≠ 0 → Desc.rows (r.ctx.desc o.tde) = a.m ∧ Desc.cols (r.ctx.desc o.tde) = a.n) →
    (a.idx = true → r.plan.descOk x = true ∧ (badTarget v x).1 = false ∧ Desc.fmt x = some .i32 ∧
      Desc.rows x = a.m ∧ Desc.cols x = a.n) →
    ∃ b' f, Desc.fmt c = some f ∧ SlotLeaves s (.drn sl o) sl r b' ∧
      b'.ctx.ac[i] = { a with state := .draining } ∧
      (∀ j, j ≠ i → b'.ctx.ac[j] = b.ctx.ac[j]) ∧
      b'.ctx.s = b.ctx.s ∧ b'.ctx.p = b.ctx.p ∧ b'.ctx.v = b.ctx.v ∧ b'.effects = b.effects ∧
      (o.ftq = true →
        (4 ≤ r.ctx.ftq.length → b'.ctx.ftq = b.ctx.ftq ∧ b'.counts.ftqOver = b.counts.ftqOver + 1) ∧
        (r.ctx.ftq.length < 4 → ∃ q, b'.ctx.ftq = b.ctx.ftq ++ [q] ∧
          q.rows = a.m ∧ q.cols = a.n ∧ q.fmt = Desc.fmtCode c)) ∧
      (o.ftq = false → b'.ctx.ftq = b.ctx.ftq) ∧
      (o.ftq = false → a.idx = false → Desc.scaled c = false →
        b'.mem = b.mem ++ (region 0 0 a.m a.n).flatMap fun p =>
          (v.bitWrites (Desc.tid c) (Desc.offset c p.1 p.2)
            (convElem c f [] (v.sr (Desc.strm c)) p (drainValue v o a p.1 p.2)).1).1) ∧
      ∃ ws, b'.mem = b.mem ++ ws ∧ ∀ w ∈ ws,
        (o.ftq = false ∧ ∃ m n y, m < a.m ∧ n < a.n ∧ w ∈ (v.bitWrites (Desc.tid c) (Desc.offset c m n) y).1) ∨
        (o.ftq = false ∧ Desc.scaled c = true ∧ ∃ k y, w ∈ (v.bitWrites (Desc.stid c) k y).1) ∨
        (a.idx = true ∧ ∃ m n y, m < a.m ∧ n < a.n ∧ w ∈ (v.bitWrites (Desc.tid x) (Desc.offset x m n) y).1)

/-! ### The LD and ST slots -/

/-- R46, R48: LDV fills the buffer's region from the view at its origins, GATH row by row from the rows that the index
buffer names; a row index outside the view gives zeros and counts. Neither stores anything. -/
def Obligations.LoadsFillBuffer : Prop :=
  ∀ (s : State) (sl : Slot) (o : MvOps) (r : Running) (b : Build),
    let v := s.view sl.part r
    let d := r.ctx.desc o.td
    let ro := r.ctx.s[o.rowo].val.toNat
    let co := r.ctx.s[o.colo].val.toNat
    let ix := fun i => (Buf.get r.ctx.v[o.ix] i 0).toInt
    (SlotActs s (.ldv sl o) sl .ld r b →
      ∃ b', SlotLeaves s (.ldv sl o) sl r b' ∧
        (∀ i j, i < o.rows.toNat → j < o.cols.toNat → Buf.get b'.ctx.v[o.v] i j = v.loaded d (ro + i) (co + j)) ∧
        (∀ i j, j < 4096 → ¬(i < o.rows.toNat ∧ j < o.cols.toNat) →
          Buf.get b'.ctx.v[o.v] i j = Buf.get b.ctx.v[o.v] i j) ∧
        (∀ k, k ≠ o.v → b'.ctx.v[k] = b.ctx.v[k]) ∧
        b' = { b with pos := 3, ctx := { b.ctx with v := b'.ctx.v } }) ∧
    (SlotActs s (.gath sl o) sl .ld r b →
      ∃ b', SlotLeaves s (.gath sl o) sl r b' ∧
        (∀ i j, i < o.rows.toNat → j < o.cols.toNat → Buf.get b'.ctx.v[o.v] i j =
          (if 0 ≤ ix i ∧ ix i < (Desc.rows d : Int) then v.loaded d (ix i).toNat (co + j) else 0)) ∧
        (∀ k, k ≠ o.v → b'.ctx.v[k] = b.ctx.v[k]) ∧
        b'.counts.oorRows = b.counts.oorRows +
          ((List.range o.rows.toNat).filter fun i => !decide (0 ≤ ix i ∧ ix i < (Desc.rows d : Int))).length ∧
        b' = { b with pos := 3, ctx := { b.ctx with v := b'.ctx.v },
                      counts := { b.counts with oorRows := b'.counts.oorRows } })

/-- R46-R48: the bytes that COPY, STV and SCAT store are those of the elements of the descriptor they name, COPY of
its whole view, STV of the region at the origins, SCAT of the rows that the index buffer names, and of the scale
tensor of a scaled descriptor; in a descriptor without scales each element receives its value converted. No buffer,
scalar or predicate changes. Of equal indices of SCAT the greatest row of the region stands. -/
def Obligations.StoresWriteOnlyNamedElements : Prop :=
  (∀ (v : View) (o : MvOps) (d : Desc) (i row : Nat),
      (i, row) ∈ v.scatRows o d ↔
        i < o.rows.toNat ∧ (v.buf o.ix i 0).toInt = (row : Int) ∧ row < Desc.rows d ∧
        ∀ k, i < k → k < o.rows.toNat → (v.buf o.ix k 0).toInt ≠ (row : Int)) ∧
  ∀ (s : State) (sl : Slot) (o : MvOps) (r : Running) (b : Build),
    let v := s.view sl.part r
    let ro := r.ctx.s[o.rowo].val.toNat
    let co := r.ctx.s[o.colo].val.toNat
    let stores := fun (i : Instr) (p : SlotPos) (d : Desc) (vals : Fmt → List ((Nat × Nat) × Fp)) =>
      SlotActs s i sl p r b →
      ∃ b' ws f, Desc.fmt d = some f ∧ SlotLeaves s i sl r b' ∧ b'.ctx = b.ctx ∧ b'.effects = b.effects ∧
        b'.slots = b.slots ∧ b'.flow = b.flow ∧ b'.boundary = b.boundary ∧ b'.mem = b.mem ++ ws ∧
        (∀ w ∈ ws, (∃ e ∈ vals f, ∃ x, w ∈ (v.bitWrites (Desc.tid d) (Desc.offset d e.1.1 e.1.2) x).1) ∨
          (Desc.scaled d = true ∧ ∃ k x, w ∈ (v.bitWrites (Desc.stid d) k x).1)) ∧
        (Desc.scaled d = false → ws = (vals f).flatMap fun e =>
          (v.bitWrites (Desc.tid d) (Desc.offset d e.1.1 e.1.2)
            (convElem d f [] (v.sr (Desc.strm d)) e.1 e.2).1).1)
    let d := r.ctx.desc o.td
    let d2 := r.ctx.desc o.td2
    stores (.copy sl o) .ld d2 (fun _ => (region 0 0 (Desc.rows d2) (Desc.cols d2)).map fun p => (p, v.value d p.1 p.2)) ∧
    stores (.stv sl o) .st d (fun f => (region 0 0 o.rows.toNat o.cols.toNat).map fun p =>
      ((ro + p.1, co + p.2), (if f.scalable then Fmt.bf16 else f).decode (Buf.get r.ctx.v[o.v] p.1 p.2))) ∧
    stores (.scat sl o) .st d (fun f => (v.scatRows o d).flatMap fun ir =>
      (List.range o.cols.toNat).map fun j =>
        ((ir.2, co + j), (if f.scalable then Fmt.bf16 else f).decode (Buf.get r.ctx.v[o.v] ir.1 j)))

/-- R414: an element stored at its home in a tenant's window reads back, whatever its format: FP4 elements share a
byte, wider ones lie least significant byte first. -/
def Obligations.StoredElementReadsBack : Prop :=
  ∀ (t : Tenant) (m : Mem) (w : Fin 16) (woff off : Nat) (f : Fmt) (x : W32),
    m.sound = true → x.toNat < 2 ^ f.bits →
    (∀ i, i < (f.bits + 7) / 8 → (t.winAddr w (woff + off * f.bits / 8 + i)).isSome = true) →
    t.elemBits (m.applyAll (t.elemWrites w woff f off x)) w woff f off = x

/-- R47, R149, R416: EMIT sends a token for no row but one whose slot holds a request that the step serves and whose
token is not negative. Of one row: a negative slot emits nothing; a request that is served, without a final token yet,
sends one token entry with its tag, TIDX and, where a VSTOP has finished it, its stop reason; one that is not served, one
whose final token is sent already, and a FREE slot leave a log entry 0x0060 with causes 1, 2 and 3. A slot is judged as the
bundle leaves it. Nothing is stored, no register changes. -/
def Obligations.EmitForwardsTokens : Prop :=
  ∀ (s : State) (sl : Slot) (o : MvOps) (r : Running) (b : Build),
    SlotActs s (.emit sl o) sl .st r b →
    let v := s.view sl.part r
    let slots := b.requests v
    let slot := fun i => (Buf.get r.ctx.v[o.ix] i 0).toInt
    let tok := fun i => Buf.get r.ctx.v[o.v] i 0
    ∃ b' es, SlotLeaves s (.emit sl o) sl r b' ∧
      b' = { b with pos := 4, slots := b'.slots, effects := b.effects ++ es } ∧
      es.length ≤ o.rows.toNat ∧
      (∀ e, Effect.token e ∈ es → ∃ i q, i < o.rows.toNat ∧ 0 ≤ slot i ∧ e.slot = BitVec.ofInt 16 (slot i) ∧
        e.token = tok i ∧ 0 ≤ (tok i).toInt ∧ q.tag = e.tag ∧ v.served q = true) ∧
      (o.rows = 1 → slot 0 < 0 → es = []) ∧
      (o.rows = 1 → 0 ≤ slot 0 →
        let logged := fun (cause : W64) => es = [.log 0x0060 3 (BitVec.ofNat 64 (r.ctx.pc * 2 ^ 32))
          (BitVec.ofInt 64 (slot 0)) (BitVec.ofNat 64 ((tok 0).toNat * 2 ^ 32 + (Buf.get r.ctx.v[o.v] 0 1).toNat)) cause]
        (alGet slots (slot 0).toNat = none → logged 3) ∧
        ∀ q, alGet slots (slot 0).toNat = some q →
          (v.served q = false → logged 1) ∧
          (v.served q = true → (tok 0).toInt < 0 → es = []) ∧
          (v.served q = true → 0 ≤ (tok 0).toInt → q.finalFormed = true → logged 2) ∧
          (v.served q = true → 0 ≤ (tok 0).toInt → q.finalFormed = false →
            (∃ e : ResEntry, es = [.token e] ∧ e.tag = q.tag ∧ e.token = tok 0 ∧ e.logp = Buf.get r.ctx.v[o.v] 0 1 ∧
              e.sflags = (Buf.get r.ctx.v[o.v] 0 2).setWidth 8 ∧ e.tidx = q.word 5 ∧ e.step = r.step ∧ e.plan = r.plan.id ∧
              e.slot = BitVec.ofInt 16 (slot 0) ∧ e.wepoch = q.wepoch ∧ e.nepoch = r.plan.image.nepoch ∧ e.status = 0 ∧
              (q.finish = none → e.stop = 0 ∧ e.rflags = 0) ∧
              (∀ why d, q.finish = some (why, d) → e.stop = BitVec.ofNat 8 (16 * why + d) ∧ e.rflags = 1)) ∧
            (q.finish ≠ none → alGet (b'.requests v) (slot 0).toNat = some { q with finalFormed := true })))

/-- R168, R285: ST.COLL over a group of one is done at once: for a sum it forms NONFINITE over the rank's own elements
into its predicate, dynamic, and marks the step as a gradient step; any other stores nothing. The group is among those
whose SQN rises as the bundle retires. -/
def Obligations.SoloCollectiveFormsNonfinite : Prop :=
  ∀ (s : State) (sl : Slot) (o : MvOps) (r : Running) (b : Build) (g : Group) (f : Fmt),
    SlotActs s (.coll sl o) sl .st r b → s.chip.group o.grp = some g → g.g = 1 → g.ten = r.plan.tenant →
    g.dead = false → Desc.fmt (r.ctx.desc o.td) = some f →
    let v := s.view sl.part r
    let d := r.ctx.desc o.td
    ∃ b', SlotLeaves s (.coll sl o) sl r b' ∧ b'.sqns = b.sqns ++ [o.grp] ∧ b'.coll = b.coll ∧
      (o.cfn ≠ 0 → o.cfn ≠ 2 → b' = { b with pos := 4, sqns := b'.sqns }) ∧
      (o.cfn = 0 ∨ o.cfn = 2 → b'.counts.gradient = true ∧
        (o.pd ≠ 0 → b'.ctx.p[o.pd].dyn = true ∧ (b'.ctx.p[o.pd].val = true ↔
          ∃ i j, i < Desc.rows d ∧ j < Desc.cols d ∧
            (f.decode (v.bits (Desc.tid d) (Desc.offset d i j))).isFinite = false)) ∧
        b'.ctx.s = b.ctx.s ∧ b'.ctx.v = b.ctx.v ∧ b'.effects = b.effects)

/-! ### The CF and SY slots -/

/-- R50, R51, R26: SALU's twelve functions, modulo 2^64 with shift counts modulo 64, and PARAM's eight values go to
scalar SD, SCMP's six relations and PLOG's five functions to predicate PD; TDSET replaces one field of descriptor TD,
the field that FN names, by the low bits of SA, and every other bit of the descriptor and every other descriptor stand. -/
def Obligations.ScalarSlotsWriteOneRegister : Prop :=
  ∀ (s : State) (sl : Slot) (o : CfOps) (r : Running) (b : Build),
    let x := r.ctx.s[o.sa]
    let y := r.ctx.opB sl o
    let p := r.ctx.p[o.sa.val % 16]
    let q := r.ctx.p[o.sb.val % 16]
    WritesScalar s (.salu sl o) sl .cf o.sd r b
      (match o.fn.val with
        | 0 => x.val + y.val
        | 1 => x.val - y.val
        | 2 => x.val * y.val
        | 3 => x.val &&& y.val
        | 4 => x.val ||| y.val
        | 5 => x.val ^^^ y.val
        | 6 => x.val <<< (y.val.toNat % 64)
        | 7 => x.val >>> (y.val.toNat % 64)
        | 8 => x.val.sshiftRight (y.val.toNat % 64)
        | 9 => if x.val.toInt < y.val.toInt then x.val else y.val
        | 10 => if x.val.toInt < y.val.toInt then y.val else x.val
        | _ => y.val)
      (if o.fn.val = 11 then y.dyn else x.dyn || y.dyn) ∧
    WritesPred s (.scmp sl o) sl .cf o.pd r b
      (match o.fn.val with
        | 0 => decide (x.val = y.val)
        | 1 => decide (x.val ≠ y.val)
        | 2 => decide (x.val.toInt < y.val.toInt)
        | 3 => decide (x.val.toInt ≤ y.val.toInt)
        | 4 => decide (x.val.toNat < y.val.toNat)
        | _ => decide (x.val.toNat ≤ y.val.toNat))
      (x.dyn || y.dyn) ∧
    WritesPred s (.plog sl o) sl .cf o.pd r b
      (match o.fn.val with
        | 0 => p.val && q.val
        | 1 => p.val || q.val
        | 2 => p.val != q.val
        | 3 => p.val && !q.val
        | _ => !p.val)
      (if o.fn.val = 4 then p.dyn else p.dyn || q.dyn) ∧
    WritesScalar s (.param sl o) sl .cf o.sd r b
      (match o.fn.val with
        | 0 => r.step.setWidth 64
        | 1 => r.plan.id.setWidth 64
        | 2 => BitVec.ofNat 64 r.plan.tenant.val
        | 3 => r.stepEpoch.setWidth 64
        | 4 => r.plan.image.nepoch.setWidth 64
        | 5 => s.chip.drone.now
        | 6 => r.plan.sub.sparam[y.val.toNat % 16]
        | _ => if r.ctx.lc[o.lc].active then r.ctx.lc[o.lc].index.setWidth 64 else 0)
      (match o.fn.val with
        | 3 => true
        | 5 => true
        | 6 => y.dyn
        | _ => false) ∧
  (SlotActs s (.tdset sl o) sl .cf r b →
      ∃ b' lo n, SlotLeaves s (.tdset sl o) sl r b' ∧
        (lo, n) = (if o.fn.val = 0 then (392, 48)
          else if o.fn.val ≤ 6 then (360 - 24 * (o.fn.val - 1), 24) else (200 - 40 * (o.fn.val - 7), 40)) ∧
        (∀ k, k < n → (b'.ctx.desc o.td).getLsbD (lo + k) = r.ctx.s[o.sa].val.getLsbD k) ∧
        (∀ k, (k < lo ∨ lo + n ≤ k) → (b'.ctx.desc o.td).getLsbD k = (b.ctx.desc o.td).getLsbD k) ∧
        (∀ j : Fin 256, j ≠ o.td → b'.ctx.desc j = b.ctx.desc j) ∧
        b' = { b with pos := 5, ctx := { b.ctx with td := b'.ctx.td } })

/-- R50, R51: where control goes once the bundle retires. LOOP enters its body with the counter at index 0, or passes
it when B is 0 or its predicate is false; BR jumps; CALL pushes the next bundle; RET goes on from the calling bundle;
STEP asks for a boundary always and jumps under its predicate; END asks for the last one. From the end of a bundle
control goes on at the next, except where the innermost running loop's body ends there: with trips left, its first body
bundle comes next and its index rises by one; without, the loop ends. -/
def Obligations.ControlSlotsSetFlow : Prop :=
  (∀ (c : Ctx) (k : Nat) (l : Fin 8) (ls : List (Fin 8)),
      (c.loops = [] → (c.advance (.fall k)).pc = k + 1) ∧
      (c.loops = l :: ls → c.lc[l].last ≠ k → (c.advance (.fall k)).pc = k + 1 ∧ (c.advance (.fall k)).lc = c.lc) ∧
      (c.loops = l :: ls → c.lc[l].last = k → 1 < c.lc[l].count →
        (c.advance (.fall k)).pc = c.lc[l].first ∧
        (c.advance (.fall k)).lc[l].index = c.lc[l].index + 1 ∧
        (c.advance (.fall k)).lc[l].count = c.lc[l].count - 1 ∧
        (c.advance (.fall k)).loops = l :: ls ∧
        ∀ m, m ≠ l → (c.advance (.fall k)).lc[m] = c.lc[m]) ∧
      (c.loops = [l] → c.lc[l].last = k → c.lc[l].count ≤ 1 →
        (c.advance (.fall k)).pc = k + 1 ∧ (c.advance (.fall k)).loops = [] ∧
        (c.advance (.fall k)).lc[l].active = false)) ∧
  ∀ (s : State) (sl : Slot) (o : CfOps) (r : Running) (b : Build),
    let n := (r.ctx.opB sl o).val.toNat
    let go := (r.ctx.predOf sl).val
    let pc := r.ctx.pc
    let target := ((pc : Int) + o.tgt.toInt).toNat
    (SlotActs s (.loop sl o) sl .cf r b → SlotLeaves s (.loop sl o) sl r
      (if go = true ∧ n ≠ 0 then
        { b with
          pos := 5, flow := .jump (pc + 1)
          ctx := { b.ctx with
            lc := b.ctx.lc.set o.lc { active := true, index := 0, count := n, first := pc + 1, last := target }
            loops := o.lc :: b.ctx.loops } }
      else { b with pos := 5, flow := .fall target })) ∧
    (SlotActs s (.br sl o) sl .cf r b → SlotLeaves s (.br sl o) sl r { b with pos := 5, flow := .jump target }) ∧
    (SlotActs s (.call sl o) sl .cf r b → SlotLeaves s (.call sl o) sl r
      { b with pos := 5, flow := .jump target, ctx := { b.ctx with calls := (pc + 1) :: b.ctx.calls } }) ∧
    (SlotActs s (.ret sl o) sl .cf r b → ∃ c cs, r.ctx.calls = c :: cs ∧ SlotLeaves s (.ret sl o) sl r
      { b with pos := 5, flow := .fall (c - 1), ctx := { b.ctx with calls := cs } }) ∧
    (SlotActs s (.step sl o) sl .cf r b → SlotLeaves s (.step sl o) sl r
      { b with pos := 5, boundary := .step, flow := if go then .jump target else .fall pc }) ∧
    (SlotActs s (.endp sl o) sl .cf r b → SlotLeaves s (.endp sl o) sl r { b with pos := 5, boundary := .last })

/-- R40, R52, R134, R185: AWAIT frees its accumulator if it is DRAINING and changes nothing else; TRACE and EVENT leave
an entry with their code; LAYER and SEED set their register for later bundles; CMT asks for a commit point. -/
def Obligations.SystemSlotsActOnBundle : Prop :=
  ∀ (s : State) (sl : Slot) (o : SyOps) (r : Running) (b : Build),
    (∀ i : Fin 2, o.ac.val = i.val → SlotActs s (.await sl o) sl .sy r b →
      ∃ b', SlotLeaves s (.await sl o) sl r b' ∧
        b'.ctx.ac[i] = (if r.ctx.ac[i].state = .draining then { b.ctx.ac[i] with state := .free } else b.ctx.ac[i]) ∧
        (∀ j, j ≠ i → b'.ctx.ac[j] = b.ctx.ac[j]) ∧
        b' = { b with pos := 6, ctx := { b.ctx with ac := b'.ctx.ac } }) ∧
    (SlotActs s (.trace sl o) sl .sy r b → SlotLeaves s (.trace sl o) sl r
      { b with pos := 6, effects := b.effects ++ [.trace o.code r.ctx.pc s.chip.drone.now] }) ∧
    (SlotActs s (.event sl o) sl .sy r b → SlotLeaves s (.event sl o) sl r
      { b with pos := 6, effects := b.effects ++ [.ev o.code] }) ∧
    (SlotActs s (.layer sl o) sl .sy r b → SlotLeaves s (.layer sl o) sl r
      { b with pos := 6, ctx := { b.ctx with layer := o.code } }) ∧
    (SlotActs s (.seed sl o) sl .sy r b → SlotLeaves s (.seed sl o) sl r
      { b with pos := 6, ctx := { b.ctx with seed := sl.imm0 ++ sl.imm1 } }) ∧
    (SlotActs s (.cmt sl o) sl .sy r b → SlotLeaves s (.cmt sl o) sl r { b with pos := 6, cmt := true })

/-! ### Bundles -/

/-- R24: a slot whose predicate is false, any but LOOP, STEP and END, writes no buffer, no memory, no accumulator and
no plane, adds no count to the monitor, emits nothing and makes no collective contribution; it joins its bundle. Of VOPT the
monitor keeps that it was skipped (R166). -/
def Obligations.FalsePredicateHasNoEffect : Prop :=
  ∀ (s : State) (i : Instr) (sl : Slot) (pos : SlotPos) (r : Running) (b : Build),
    slotOf i = some sl → slotPosOf i = some pos →
    s.slotOpen sl pos = some (r, b) → anyPred i = false → (r.ctx.predOf sl).val = false →
    ∃ b', exec i s = .next (s.slotDone sl.part r sl.more b') ∧
      ((∀ o, i ≠ .vopt sl o) → b'.mon = b.mon) ∧ (∀ o, i = .vopt sl o → b'.mon = b.mon ++ [.skipped r.ctx.layer]) ∧
      b'.mem = b.mem ∧ b'.scale = b.scale ∧ b'.slots = b.slots ∧ b'.effects = b.effects ∧ b'.flow = b.flow ∧
      b'.coll = b.coll ∧ b'.sqns = b.sqns ∧ b'.pass = b.pass ∧ b'.load = b.load ∧
      b'.boundary = b.boundary ∧ b'.cmt = b.cmt ∧ b'.counts = b.counts ∧ b'.ctx.v = b.ctx.v ∧ b'.ctx.ac = b.ctx.ac ∧
      b'.ctx.active = b.ctx.active ∧ b'.ctx.shadow = b.ctx.shadow ∧ b'.ctx.td = b.ctx.td ∧ b'.ctx.ftq = b.ctx.ftq ∧
      (∀ k : Fin 64, b'.ctx.s[k].val = b.ctx.s[k].val) ∧ (∀ k : Fin 16, b'.ctx.p[k].val = b.ctx.p[k].val)

/-- R22: a bundle with more slots to come is kept, and nothing else of the module changes; the last slot retires it.
A bundle that ends no step, asks for no commit point, holds no collective of several ranks and stays inside the program
writes together what its slots wrote: the context, control at its next bundle, the SQN of the groups whose collectives were
done at once, and memory, where only the bytes its slots stored to change. -/
def Obligations.BundleWritesTogether : Prop :=
  ∀ (s : State) (p : Fin 4) (r : Running) (b : Build),
    s.slotDone p r true b = s.on (fun c => c.setRun p (some { r with build := some b, atBoundary := false })) ∧
    (b.boundary = .none → b.cmt = false → b.coll = none → r.replayTo = none → s.mem.sound = true →
      (b.ctx.advance b.flow).pc < r.plan.image.bundles.length →
      ∃ r', (s.slotDone p r false b).chip.run p = some r' ∧
        r'.ctx = b.ctx.advance b.flow ∧ r'.build = none ∧ r'.counts = b.counts ∧ r'.step = r.step ∧ r'.plan = r.plan ∧
        (s.slotDone p r false b).mem = s.mem.applyAll b.mem ∧
        (∀ a, (∀ w ∈ b.mem, w.addr ≠ a) → (s.slotDone p r false b).mem.byte a = s.mem.byte a) ∧
        (s.slotDone p r false b).pending = s.pending ∧
        (s.slotDone p r false b).chip.intc = s.chip.intc ∧ (s.slotDone p r false b).chip.mram = s.chip.mram ∧
        (∀ grp g, b.sqns = [grp] → s.chip.group grp = some g →
          (s.slotDone p r false b).chip.group grp = some { g with sqn := g.sqn + 1 }) ∧
        (b.sqns = [] → (s.slotDone p r false b).chip.groups = s.chip.groups) ∧
        (∀ q, q ≠ p → (s.slotDone p r false b).chip.run q = s.chip.run q) ∧
        (∀ t, t ≠ r.plan.tenant → (s.slotDone p r false b).chip.tenants[t] = s.chip.tenants[t]))

/-- R39-R41, R388: a pass that finds its accumulator in the wrong state or opened by another shape, and a PLD that finds
the shadow plane FULL, stop the plan with a tenant fault of their own status: nothing of its bundle is written, the plan is
gone and its tenant FAULTED. -/
def Obligations.ArrayDisciplineIsEnforced : Prop :=
  (∀ (s : State) (p : Fin 4) (r0 r : Running) (status : W16) (slot : Nat) (cause : W64),
    s.chip.run p = some r0 → r0.turn = none → s.chip.partPending = none →
    (∀ q : Fin 4, s.chip.parts[q].waiting = none) →
    let t := s.slotFault p r status slot cause
    (r0.commits = [] → t.mem = s.mem) ∧
    (∀ x, replaySource r0.commits = some x → t.mem = (s.mem.putAll x.undo).heal (x.undo.map fun u => wordOf u.1)) ∧
    t.chip.run p = none ∧ t.chip.tenants[r0.plan.tenant].fault = true ∧
    t.chip.tenants[r0.plan.tenant].fstate = .faulted) ∧
  ∀ (s : State) (sl : Slot) (o : MxOps) (r : Running) (b : Build) (i : Fin 2), o.ac.val = i.val →
    let a := r.ctx.ac[i]
    (SlotActs s (.pld sl o) sl .mx r b → r.ctx.shadow.isSome = true →
      exec (.pld sl o) s = .next (s.slotFault sl.part r 0x0021 0 0)) ∧
    (SlotActs s (.mm sl o) sl .mx r b → a.state ≠ (if o.init then .free else .opened) →
      exec (.mm sl o) s = .next (s.slotFault sl.part r 0x0020 0 0)) ∧
    (SlotActs s (.mm sl o) sl .mx r b → o.init = false → a.state = .opened →
      (a.m ≠ Desc.rows (r.ctx.desc o.tdb) ∨ a.n ≠ (passPlane r.ctx).n ∨ a.opr ≠ o.opr ∨ a.idx ≠ o.idx) →
      exec (.mm sl o) s = .next (s.slotFault sl.part r 0x0020 0 0)) ∧
    (SlotActs s (.ewm sl o) sl .mx r b → a.state ≠ .free →
      exec (.ewm sl o) s = .next (s.slotFault sl.part r 0x0020 0 0)) ∧
    (SlotActs s (.drn sl o) sl .mx r b → a.state ≠ .ready →
      exec (.drn sl o) s = .next (s.slotFault sl.part r 0x0020 0 0)) ∧
    (SlotActs s (.rel sl o) sl .mx r b → a.state ≠ .ready →
      exec (.rel sl o) s = .next (s.slotFault sl.part r 0x0020 0 0))

/-! ### Commands, rings, reset and invariants -/

/-- The command at the front of the queue runs on the state whose queue is the rest. An empty queue leaves queue and
memory alone; the tick of an idle module is the model's choice (notes/assumptions/10.md). -/
def Obligations.FrontCommandRuns : Prop :=
  ∀ (s : State) (c : Instr) (rest : List Instr),
    (s.pending = c :: rest → step s = exec c { s with pending := rest }) ∧
    (s.pending = [] → ∃ t, step s = .next t ∧ t.pending = [] ∧ t.mem = s.mem)

/-- R9, R189, R261, R294, R298, R299, R305, R315, R322, R344: the values that the manual states for the module after
its reset. -/
def Obligations.ResetLeavesStatedValues : Prop :=
  let s := State.reset
  s.pending = [] ∧ MemSound s ∧
  s.chip.boot.state = .loadWait ∧ s.chip.boot.status = 0 ∧ s.chip.driver.state = .never ∧
  s.chip.drone.state = .free ∧ s.chip.memObj.kgen = 0 ∧ s.chip.memObj.rotPending = false ∧
  s.chip.limiter.state = .normal ∧ s.chip.limiter.capActive = 3600 ∧ s.chip.faults.mfault = false ∧
  s.chip.placer.jobs = [] ∧ s.chip.placer.bound = [] ∧ s.chip.groups = [] ∧
  (∀ p : Fin 4, s.chip.run p = none ∧ s.chip.parts[p].waiting = none) ∧
  (∀ f : Fn, ∀ r : Fin 12, (s.chip.func f).rings[r].enable = false ∧ (s.chip.func f).rings[r].prod = 0 ∧
    (s.chip.func f).rings[r].cons = 0) ∧
  (∀ t : Fin 16, s.chip.tenants[t].keys = Vector.replicate 8 .empty ∧ s.chip.tenants[t].slots = [] ∧
    s.chip.tenants[t].copies = [] ∧ s.chip.tenants[t].scale[0] = 0x47800000 ∧ s.chip.tenants[t].scale[2] = 2000) ∧
  (∀ k : Fin 6, s.chip.intc.cores[k].enable = 0 ∧ s.chip.intc.cores[k].cpri = 0xFF ∧ s.chip.intc.cores[k].err = 0) ∧
  (∀ n : Fin 128, s.chip.intc.src[n] = .idle) ∧
  s.chip.gate.operator = none ∧ s.chip.gate.service = none ∧ s.chip.gate.vendor = none ∧ s.chip.gate.debugPort = false

/-- Whatever command runs, each memory tier keeps the one canonical form of its contents, so that equal memories are
equal data. -/
def Obligations.MemoryStaysCanonical : Prop :=
  ∀ s s' : State, MemSound s → step s = .next s' → MemSound s'

/-- R332-R334: no operation of a program gives or takes a window, or changes a key slot, of any tenant, its own
included. -/
def Obligations.SlotCommandsKeepWindows : Prop :=
  ∀ (s t : State) (i : Instr) (sl : Slot), slotOf i = some sl → exec i s = .next t →
    ∀ n : Fin 16, t.chip.tenants[n].windows = s.chip.tenants[n].windows ∧ t.chip.tenants[n].keys = s.chip.tenants[n].keys

/-- R299, R302-R304, R307: when Chanter takes the entry at the head of a command ring, and what it then owes; whose turn
it is: that of the only ring that has one to take, and of the ring whose turn has begun while it has one left; how a
completion is written, with its vector; and that a full event ring drops and counts. -/
def Obligations.RingsGiveAndTake : Prop :=
  (∀ (c : Chip) (t : Fin 16) (k : Fin 8) (n : Nat),
    let r := (c.func (.vf t)).rings[(k.castLE (by decide) : Fin 12)]
    (c.take (.vf t) k n).isSome = true ↔
      c.power = .running ∧ c.boot.state = .ready ∧ r.enable = true ∧ r.prod ≠ r.cons ∧
      (c.func (.vf t)).owes + n ≤ (c.func (.vf t)).rings[8].room ∧ c.tenants[t].fstate ≠ .paused ∧
      (c.scanTurn (.vf t) k).isSome = true) ∧
  (∀ (c : Chip) (t : Fin 16) (k : Fin 8), c.ringReady (.vf t) k = true →
    (c.ringReady .pf 0 = false → (∀ u j, (u, j) ≠ (t, k) → c.ringReady (.vf u) j = false) →
      (c.scanTurn (.vf t) k).isSome = true) ∧
    (c.scan.left ≠ 0 → c.scan.at_.val = 1 + 8 * t.val + k.val →
      c.scanTurn (.vf t) k = some { c.scan with left := c.scan.left - 1 } ∧
      c.scanTurn .pf 0 = none ∧ ∀ u j, (u, j) ≠ (t, k) → c.scanTurn (.vf u) j = none)) ∧
  (∀ (c : Chip) (t : Fin 16) (k : Fin 8) (x : Scan), c.scanTurn (.vf t) k = some x →
    x.at_.val = 1 + 8 * t.val + k.val ∧
    let r := (c.func (.vf t)).rings[(k.castLE (by decide) : Fin 12)]
    (c.scan.left = 0 → x.left.val + 1 = min 64 (r.prod - r.cons).toNat)) ∧
  (∀ (c c' : Chip) (f : Fn) (k : Fin 8) (n : Nat) (e : Entry) (src : CmdSrc), c.take f k n = some (e, src, c') →
    let r := (c.func f).rings[(k.castLE (by decide) : Fin 12)]
    let r' := (c'.func f).rings[(k.castLE (by decide) : Fin 12)]
    e = spGet 0 r.slots (r.cons.toNat % 2 ^ r.log2.toNat) ∧ src.fn = f ∧ src.ring = k ∧
    src.cid = BitVec.ofNat 32 (entryAt e 4 4) ∧ r' = { r with cons := r.cons + 1 } ∧
    (c'.func f).owes = (c.func f).owes + n ∧ c'.tenants = c.tenants ∧ c'.parts = c.parts ∧ c'.placer = c.placer ∧
    some c'.scan = c.scanTurn f k) ∧
  (∀ (c : Chip) (src : CmdSrc) (st plan : W16) (v0 : W32) (v1 : W64), c.ringOpen src.fn 8 = true →
    (c.func src.fn).rings[8].owed = [] → 1 ≤ (c.func src.fn).rings[8].room →
    let r := (c.func src.fn).rings[8]
    let f' := (c.complete src st plan v0 v1).func src.fn
    f'.rings[8].prod = r.prod + 1 ∧ f'.rings[8].owed = [] ∧
    f'.rings[8].out = r.out ++ [(r.prod + 1, .comp { stamp := c.drone.now, src := src, status := st, plan := plan
                                                     val0 := v0, val1 := v1, report := none, token := none })] ∧
    f'.owes = (c.func src.fn).owes - 1 ∧
    f'.msix = (if src.irq then [0] else []) ++ (c.func src.fn).msix) ∧
  (∀ (c : Chip) (f : Fn) (e : EvEntry), c.ringOpen f 9 = true → (c.func f).rings[9].owed = [] →
    (c.func f).rings[9].room = 0 →
    ((c.event f e).func f).rings[9] = { (c.func f).rings[9] with lost := (c.func f).rings[9].lost + 1 })

/-! ### Plans -/

/-- R18, R185, R186, R240, R382: a prologue whose receives have all arrived ends, and step 0 stands at its first bundle,
unless the plan ends at that boundary; while a receive is missing it goes on; a source codeword that is uncorrectable is
a bad read of the plan; in a replay the boundary that had followed is reached again. A commit point keeps the present
context; its fill completes and raises source 52 + p; 60 µs after completion it is the replay source. -/
def Obligations.PrologueAndCommitPoints : Prop :=
  ∀ (s : State) (q : Fin 4) (r : Running),
    (s.chip.inPrologue q = some r → (∀ p : Fin 16, s.chip.ports[p].waiting = []) →
      (s.chip.mapReady r.plan = false → exec (.prologueEnd q) s = .next s) ∧
      (∀ k, s.chip.mapReady r.plan = true → s.turnBad r.plan = some k →
        exec (.prologueEnd q) s = .next (s.readsBad q r k)) ∧
      (s.chip.mapReady r.plan = true → s.turnBad r.plan = none → r.crossed = [] →
        ∃ t, exec (.prologueEnd q) s = .next t ∧ t.pending = s.pending ∧
        ((∃ r', t.chip.run q = some r' ∧ r'.plan = r.plan ∧ r'.inPrologue = false ∧ r'.step = r.step ∧ r'.ctx = r.ctx ∧
            (r.plan.restored = none → r'.atBoundary = true)) ∨
          (r.plan.midStep = false ∧
            ∀ r', t.chip.run q = some r' → ∃ x ∈ s.chip.placer.bound, x.id = r'.plan.id))) ∧
      (∀ x rest, s.chip.mapReady r.plan = true → s.turnBad r.plan = none → r.crossed = x :: rest →
        ∃ t r', exec (.prologueEnd q) s = .next t ∧ t.pending = s.pending ∧ t.chip.run q = some r' ∧ r'.plan = r.plan ∧
          r'.inPrologue = false ∧ r'.step = x.step ∧ r'.ctx = x.ctx ∧ r'.crossed = rest ∧ r'.atBoundary = true)) ∧
    (s.chip.active q = some r →
      (∀ moved, ∃ t r' k ks, exec (.commitPoint q moved) s = .next t ∧ t.chip.run q = some r' ∧
        r'.commits = k :: ks ∧ k.stage = .filling ∧ k.stamp = s.chip.drone.now ∧ k.step = r.step ∧ k.ctx = r.ctx ∧
        k.toks = r.toks ∧ k.past = (r.tenant s.chip.tenants[r.plan.tenant]).pastOf ∧ k.undo = [] ∧
        (∀ x ∈ ks, x.stage ≠ .filling) ∧
        r'.ctx = r.ctx ∧ r'.step = r.step ∧ r'.plan = r.plan ∧ t.mem = s.mem ∧ t.pending = s.pending ∧
        t.chip.tenants = s.chip.tenants ∧ ∀ p, p ≠ q → t.chip.run p = s.chip.run p) ∧
      (∀ k ks, r.commits = k :: ks → k.stage = .filling →
        ∃ t r', exec (.commitFillComplete q) s = .next t ∧ t.chip.run q = some r' ∧
          r' = { r with commits := r'.commits } ∧
          r'.commits.head? = some { k with stage := .complete s.chip.drone.now } ∧
          r'.commits.length = r.commits.length ∧ (∀ x ∈ r'.commits, x.stage ≠ .filling) ∧
          (s.chip.intc.src[52 + q.val] = .idle → t.chip.intc.src[52 + q.val] = .pending) ∧
          t.mem = s.mem ∧ t.pending = s.pending ∧ t.chip.tenants = s.chip.tenants) ∧
      (∀ k ks at_, r.commits = k :: ks → k.stage = .complete at_ → 60000 ≤ (s.chip.drone.now - at_).toNat →
        ∃ t, exec (.commitSetConfirmed q) s = .next t ∧
          t.chip.run q = some { r with commits := [{ k with stage := .confirmed }] } ∧
          t.mem = s.mem ∧ t.pending = s.pending ∧ t.chip.tenants = s.chip.tenants))

/-- R175, R176, R181, R301: a SUBMIT whose record and header stand is queued behind the jobs that wait; a bind that
finds nothing wrong enters its plan among the bound ones and completes with its report and plan ID, one that finds
something leaves no plan and completes with the finding, and the next job begins; a completion for a tenant whose job is not
the front one changes nothing; a rebinding goes before, binds the
alternates of its partition's plans anew, and lets a plan that waits for them start. -/
def Obligations.BindsRunInOrder : Prop :=
  (∀ (s : State) (t : Fin 16) (ring : Fin 8) (e : Entry) (src : CmdSrc) (c : Chip) (b bytes : List Byte) (img : Image),
    s.chip.takeOp (.vf t) ring 0x01 3 = some (e, src, c) → c.placer.jobs.length ≤ 32 →
    s.cmdBytes t (BitVec.ofNat 20 (entryAt e 16 4)) (entryAt e 20 8 % 2 ^ 48) 256 = some b →
    State.imageBytes { s with chip := c } t (SubmitRec.read b) = some bytes → c.headOk (ImageHead.read bytes) = true →
    Image.parse c.tenants[t] bytes = .ok img →
    ∃ j, exec (.submit t ring) s = .next { s with chip := { c with placer := { c.placer with jobs := c.placer.jobs ++ [j] } }.beginJob } ∧
      j.tenant = t ∧ j.sub = SubmitRec.read b ∧ j.image = some img ∧ j.layoutFault = none ∧ j.restore = none ∧
      j.start = none ∧ j.src = src) ∧
  (∀ (s : State) (j : BindJob) (js : List BindJob) (st : BindStart),
    s.chip.placer.rebinds = [] → s.chip.placer.jobs = j :: js → j.start = some st → j.restore = none →
    let s0 := s.on fun c => { c with placer := { c.placer with jobs := js } }
    (∀ t, t ≠ j.tenant → exec (.bindComplete t) s = .next s) ∧
    (∀ p, s0.judgeBind j st = .ok p →
      ∃ u p', exec (.bindComplete j.tenant) s = .next u ∧
        p' = { p with report := s0.chip.bindReport p st (s0.chip.bindingBytes p).length } ∧
        u.chip.placer.bound = s.chip.placer.bound ++ [p'] ∧ u.chip.placer.nextId = p.id + 1 ∧
        u.chip.placer.jobs.map BindJob.src = js.map BindJob.src ∧ u.pending = s.pending ∧
        u.chip = (((s0.enterPlan p').chip.bindDone j.src p'.report).raise 74).beginJob) ∧
    (∀ status err, s0.judgeBind j st = .error (status, err) →
      exec (.bindComplete j.tenant) s =
        .next (s0.on fun c => ((c.bindDone j.src (failReport status err j.sub.part st.capW)).raise 74).beginJob))) ∧
  (∀ (s : State) (q : Fin 4) (qs : List (Fin 4)), s.chip.placer.rebinds = q :: qs →
    (∀ t, exec (.bindComplete t) s = .next s) ∧
    (∀ p, p ≠ q → exec (.alternateRebindComplete p) s = .next s) ∧
    exec (.alternateRebindComplete q) s = .next ((s.on fun c => c.rebound q).startWaiting q) ∧
    (∀ r, s.chip.run q = some r →
      ∃ t r', exec (.alternateRebindComplete q) s = .next t ∧ t.chip.placer.rebinds = qs ∧ t.chip.run q = some r' ∧
        r'.altsReady = true ∧ r'.spareLost = [] ∧ r'.ctx = r.ctx ∧ r'.step = r.step ∧ r'.commits = r.commits ∧
        r'.plan = { r.plan with fig := r'.plan.fig, altsReady := r'.plan.altsReady } ∧
        (r.altsReady = false → r'.plan.altsReady = r.plan.binding.altsOk s.chip.faults.tilesOut) ∧
        (∃ g : Plan → PlacerFig, t.chip.placer.bound = s.chip.placer.bound.map fun (p : Plan) =>
          if p.part.getD 0 = q ∧ p.altsReady = false then
            { p with fig := g p, altsReady := p.binding.altsOk s.chip.faults.tilesOut } else p) ∧
        t.mem = s.mem ∧ t.pending = s.pending ∧ t.chip.tenants = s.chip.tenants ∧
        (s.chip.intc.src[74] = .idle → t.chip.intc.src[74] = .pending) ∧
        ∀ p, p ≠ q → t.chip.run p = s.chip.run p))

/-! ### The tenant's rings -/

/-- R154, R157: MBATCH that passes R154's checks enters a micro-batch for its step and slot and completes with the
slot; one that fails a check completes with the status of the first that it fails and enters nothing. The slot is free,
its bucket holds the batch, and no free slot has a smaller bucket that does. -/
def Obligations.MicroBatchesAreAdmitted : Prop :=
  (∀ (buckets taken : List Nat) (len : Nat),
      (∀ j, pickSlot buckets taken len = some j →
        ∃ b, buckets[j]? = some b ∧ len ≤ b ∧ j ∉ taken ∧
          ∀ k x, buckets[k]? = some x → len ≤ x → k ∉ taken → b ≤ x ∧ (x = b → j ≤ k)) ∧
      (pickSlot buckets taken len = none → ∀ k x, buckets[k]? = some x → len ≤ x → k ∈ taken)) ∧
  ∀ (s : State) (t : Fin 16) (ring : Fin 8) (e : Entry) (src : CmdSrc) (c : Chip),
    s.chip.takeOp (.vf t) ring 0x02 1 = some (e, src, c) →
    let step := entryAt e 16 4
    let len := entryAt e 20 4
    let ten := c.tenants[t]
    (c.batchPlan t = none → exec (.mbatch t ring) s = .next { s with chip := c.done src 0x0002 }) ∧
    ∀ (p : Plan) (cur : Nat) (begun : Bool), c.batchPlan t = some (p, cur, begun) →
    let there := ten.batchesAt p.id step
    let buckets := p.buckets (BitVec.ofNat 32 step)
    let slot := pickSlot buckets (there.map fun b => b.slot.val) len
    let ext := (len * p.bpt + 2097151) / 2097152
    let held := (there.map MBatch.ext).sum
    let inStep := cur ≤ step ∧ (begun = true → step ≠ cur) ∧ step ≤ cur + 4
    let inLen := 1 ≤ len ∧ len ≤ 1048576 ∧ len ≤ buckets.foldl max 0
    let answer := fun (st : W16) => exec (.mbatch t ring) s = .next { s with chip := c.complete src st p.id 0 0 }
    (¬ inStep → answer 0x0002) ∧
    (inStep → ¬ inLen → answer 0x0010) ∧
    (inStep → inLen → slot = none → answer 0x0002) ∧
    (∀ j, inStep → inLen → slot = some j → p.sub.storeC.toNat < held + ext → answer 0x0011) ∧
    (∀ j, inStep → inLen → slot = some j → held + ext ≤ p.sub.storeC.toNat →
      ∃ b, exec (.mbatch t ring) s = .next { s with chip :=
          (c.modTenant t fun x => { x with mbatches := x.mbatches ++ [b] }).complete src 0 p.id (BitVec.ofNat 32 j) 0 } ∧
        b.plan = p.id ∧ b.step = BitVec.ofNat 32 step ∧ b.slot = Fin.ofNat 64 j ∧ b.len = len ∧ b.ext = ext ∧ b.src = src ∧
        (b.win, b.off, b.bits) = ten.batchSource p (BitVec.ofNat 20 (entryAt e 24 4)) (entryAt e 28 8 % 2 ^ 48))

/-- R217, R218: an ADMIT that passes every check of R218 becomes the last pending admission, with the row that its
record gives; the first check that fails gives the status of its completion and nothing becomes pending. -/
def Obligations.AdmissionsBecomePending : Prop :=
  (∀ (q : ReqTable) (plen : Nat) (row : Vector W32 64),
    admitFits q plen row = true ↔
      1 ≤ plen ∧ plen ≤ q.pmax ∧ row[8].toNat ≤ 8 ∧ row[17].toNat ≤ 4 ∧
      (∀ j, j < row[17].toNat → 1 ≤ (row.toList.getD (18 + j) 0).toNat ∧ (row.toList.getD (18 + j) 0).toNat ≤ 8) ∧
      (q.ctx = 0 ∨ (row[54].toNat ≠ 0 ∧ plen + row[54].toNat ≤ q.ctx))) ∧
  ∀ (s : State) (t : Fin 16) (ring : Fin 8) (e : Entry) (src : CmdSrc) (c : Chip),
    s.chip.takeOp (.vf t) ring 0x03 1 = some (e, src, c) →
    let s0 : State := { s with chip := c }
    let plen := entryAt e 48 4
    let aid := BitVec.ofNat 16 (entryAt e 52 2)
    let answer := fun st => exec (.admitReq t ring) s = .next { s with chip := c.done src st }
    (c.servingPlan t = none → answer 0x0002) ∧
    ∀ (p : Plan) (q : ReqTable), c.servingPlan t = some p → p.req = some q →
    (4096 ≤ c.tenants[t].pendAdm.length → answer 0x0002) ∧
    (c.tenants[t].pendAdm.length < 4096 →
      (s0.planBytes t p (BitVec.ofNat 20 (entryAt e 24 4)) (entryAt e 28 8 % 2 ^ 48) 256 = none → answer 0x0071) ∧
      ∀ b, s0.planBytes t p (BitVec.ofNat 20 (entryAt e 24 4)) (entryAt e 28 8 % 2 ^ 48) 256 = some b →
      let row := admitRow (wordsOf 64 b)
      let deadline := row[55].toNat + row[56].toNat * 4294967296
      let read := s0.planBytes t p (BitVec.ofNat 20 (entryAt e 36 4)) (entryAt e 40 8 % 2 ^ 48) (4 * plen)
      (admitFits q plen row = false → answer 0x0010) ∧
      (admitFits q plen row = true → read = none → answer 0x0071) ∧
      (admitFits q plen row = true → ∀ prompt, read = some prompt →
        (aid ≠ 0xFFFF ∧ c.tenants[t].curAdapter aid = none → answer 0x0013) ∧
        (aid = 0xFFFF ∨ c.tenants[t].curAdapter aid ≠ none →
          (deadline ≠ 0 ∧ deadline ≤ c.drone.now.toNat → answer 0x0012) ∧
          (deadline = 0 ∨ c.drone.now.toNat < deadline →
            ∃ a, exec (.admitReq t ring) s = .next { s with chip :=
                (c.modTenant t fun x => { x with pendAdm := x.pendAdm ++ [a] }) } ∧
              a.tag = BitVec.ofNat 64 (entryAt e 16 8) ∧ a.row = row ∧ a.aid = aid ∧ a.plan = p.id ∧ a.src = src ∧
              a.prompt = wordsOf plen prompt ∧ (a.unpin = true ↔ entryAt e 54 1 % 2 = 1)))))

/-- R199-R201, R206, R207: a FETCH that meets R199 and R200 makes its copy FILLING and waits behind the fetches before
it; with SWITCH_WHEN_STAGED a switch to it is pending. -/
def Obligations.FetchBeginsItsCopy : Prop :=
  ∀ (s : State) (t : Fin 16) (ring : Fin 8) (e : Entry) (src : CmdSrc) (c : Chip) (aid : Option W16) (ts : List CopyTensor)
    (key : BitVec 256),
    s.chip.takeOp (.vf t) ring 0x04 1 = some (e, src, c) →
    let s0 : State := { s with chip := c }
    let epoch := BitVec.ofNat 16 (entryAt e 16 2)
    epochSet e = some aid → s0.fetchManifest t e = some ts → entryAt e 21 1 < 8 → entryAt e 22 1 < 16 →
    c.tenants[t].keys[Fin.ofNat 8 (entryAt e 21 1)] = .loaded key →
    epoch ≠ 0 → (∀ x ∈ c.tenants[t].heldEpochs aid, newer epoch x = true) → c.copyRoom t aid = true →
    c.tenants[t].copyFits (Fin.ofNat 16 (entryAt e 22 1)) ts = true →
    c.serverThere t (BitVec.ofNat 12 (entryAt e 28 2)) (BitVec.ofNat 16 (entryAt e 30 2)) = true →
    ∃ u k f, exec (.fetch t ring) s = .next u ∧
      u.chip.tenants[t].copies = k :: c.tenants[t].copies ∧ k.aid = aid ∧ k.epoch = epoch ∧ k.state = .filling ∧
      k.tensors = ts ∧ k.win = Fin.ofNat 16 (entryAt e 22 1) ∧
      u.chip.tenants[t].fetches = c.tenants[t].fetches ++ [f] ∧ f.aid = aid ∧ f.epoch = epoch ∧ f.segs = [] ∧
      f.written = [] ∧ f.stream = [] ∧ f.src = src ∧ f.keySlot = Fin.ofNat 8 (entryAt e 21 1) ∧
      f.streamid = BitVec.ofNat 32 (entryAt e 24 4) ∧
      (entryAt e 23 1 % 2 = 0 → u.chip.tenants[t].switches = c.tenants[t].switches) ∧
      (entryAt e 23 1 % 2 = 1 → (∀ w ∈ c.tenants[t].switches, w.aid ≠ aid) →
        u.chip.tenants[t].switches = c.tenants[t].switches ++ [{ aid := aid, epoch := epoch, src := none, replaced := [] }]) ∧
      u.mem = s.mem ∧ u.pending = s.pending ∧ u.chip.tenants[t].windows = c.tenants[t].windows ∧
      u.chip.tenants[t].keys = c.tenants[t].keys ∧ (∀ x, x ≠ t → u.chip.tenants[x] = c.tenants[x]) ∧
      u.chip = { c with tenants := u.chip.tenants, groups := u.chip.groups }

/-- R202, R204: a segment of the front fetch whose header agrees and whose tag verifies writes its elements into the
copy, and the fetch ends once every element is there; one that fails ends the fetch with 0x0071, one that finds the
copy's memory uncorrectable ends it with 0x0030, and both free the copy. Without a share of the plan's slots the fetch
does not move. -/
def Obligations.SegmentsFillTheirCopy : Prop :=
  ∀ (s : State) (t : Fin 16) (x : Segment) (f : Fetch) (fs : List Fetch) (k : EpochCopy),
    s.chip.tenants[t].fetches = f :: fs → s.chip.tenants[t].copyOf f.aid f.epoch = some k → k.state = .filling →
    (∀ g ∈ f :: fs, s.chip.serverThere t g.grp g.rank = true) →
    (∀ g ∈ fs, ¬ (g.aid = f.aid ∧ g.epoch = f.epoch)) →
    let ended := fun (u : State) => u.chip.tenants[t].copyOf f.aid f.epoch = none ∧
      u.chip.tenants[t].fetches = fs ∧ u.mem = s.mem ∧ u.pending = s.pending ∧
      ∀ y, y ≠ t → u.chip.tenants[y] = s.chip.tenants[y]
    (s.chip.fetchMoves t = false → ∀ sound, exec (.weightSegmentReceive t ⟨x, sound⟩) s = .next s) ∧
    (s.chip.fetchMoves t = true → ∀ fmt n plain, f.accepts k x = some (fmt, n) →
        s.chip.tenants[t].openSegment f x = some plain →
      let total := n + (f.written.map fun w => w.2.2).sum
      (∃ u k', exec (.weightSegmentReceive t ⟨x, true⟩) s = .next u ∧ u.chip.tenants[t].copyOf f.aid f.epoch = some k' ∧
        (∀ i y, i < n → (plainElems fmt plain)[i]? = some y → k'.elem x.tid (x.offset.toNat + i) = y) ∧
        (∀ tid, tid ≠ x.tid → ∀ j, k'.elem tid j = k.elem tid j) ∧
        k'.state = (if total = f.total then .staged else .filling) ∧
        u.chip.tenants[t].fetches = (if total = f.total then fs else
          { f with segs := x.seg :: f.segs, written := (x.tid, x.offset.toNat, n) :: f.written
                   stream := streamAfter f.stream x } :: fs) ∧
        u.mem = s.mem ∧ u.pending = s.pending ∧ u.chip.tenants[t].windows = s.chip.tenants[t].windows ∧
        u.chip.tenants[t].keys = s.chip.tenants[t].keys ∧ ∀ y, y ≠ t → u.chip.tenants[y] = s.chip.tenants[y]) ∧
      ∃ u, exec (.weightSegmentReceive t ⟨x, false⟩) s = .next u ∧ ended u ∧
        u.chip = ((s.chip.modTenant t fun y => y.takeSegment f x fmt n plain).touch f.grp).failFetch t f 0x0030) ∧
    (s.chip.fetchMoves t = true → f.accepts k x = none ∨ s.chip.tenants[t].openSegment f x = none → ∀ sound,
      ∃ u, exec (.weightSegmentReceive t ⟨x, sound⟩) s = .next u ∧ ended u ∧
        u.chip = (s.chip.authFailed 1 t.val f.keySlot.val []).failFetch t f 0x0071 ∧
        (s.chip.intc.src[12] = .idle → u.chip.intc.src[12] = .pending))

/-- R204, R207, R213: SWITCH to a STAGED or FILLING copy is pending; to the CURRENT one it completes at once; to another
it is refused. RETIRE frees a STAGED copy at once, ends the fetch of a FILLING one, lets a RETAINED one wait for a
boundary, and refuses the CURRENT one. -/
def Obligations.SwitchAndRetireActOnCopies : Prop :=
  ∀ (s : State) (t : Fin 16) (ring : Fin 8) (e : Entry) (src : CmdSrc) (c : Chip),
    let epoch := BitVec.ofNat 16 (entryAt e 16 2)
    let ten := c.tenants[t]
    let fin := fun (c : Chip) (st : W16) => ({ s with chip := c.complete src st 0 (epoch.setWidth 32) 0 } : State)
    (s.chip.takeOp (.vf t) ring 0x05 1 = some (e, src, c) →
      (epochSet e = none → exec (.switch t ring) s = .next (fin c 0x0002)) ∧
      ∀ aid, epochSet e = some aid →
      (ten.copyOf aid epoch = none → exec (.switch t ring) s = .next (fin c 0x0013)) ∧
      ∀ k, ten.copyOf aid epoch = some k →
      (k.state = .staged ∨ k.state = .filling → (∀ w ∈ ten.switches, w.aid ≠ aid) →
        exec (.switch t ring) s = .next { s with chip := (c.modTenant t fun x =>
          { x with switches := x.switches ++ [{ aid := aid, epoch := epoch, src := some src, replaced := [] }] }) }) ∧
      (k.state = .current → (∀ w ∈ ten.switches, w.aid ≠ aid) → exec (.switch t ring) s = .next (fin c 0)) ∧
      (k.state = .current → (∃ w ∈ ten.switches, w.aid = aid) → exec (.switch t ring) s = .next (fin c 0x0043)) ∧
      (k.state = .retained → exec (.switch t ring) s = .next (fin c 0x0043))) ∧
    (s.chip.takeOp (.vf t) ring 0x06 1 = some (e, src, c) →
      (epochSet e = none → exec (.retire t ring) s = .next (fin c 0x0002)) ∧
      ∀ aid, epochSet e = some aid →
      (ten.copyOf aid epoch = none → exec (.retire t ring) s = .next (fin c 0x0013)) ∧
      ∀ k, ten.copyOf aid epoch = some k →
      let wait := fun (held : Bool) => ({ s with chip := (c.modTenant t fun x =>
        { x with retires := x.retires ++ [{ aid := aid, epoch := epoch, src := src, held := held }] }) } : State)
      (k.state = .staged → ten.retires = [] → (∀ w ∈ ten.switches, w.aid ≠ aid) →
        exec (.retire t ring) s = .next (fin (c.modTenant t fun x =>
          { x with copies := x.copies.filter fun y => !(decide (y.aid = aid) && decide (y.epoch = epoch)) }) 0)) ∧
      (∀ f, k.state = .filling → ten.fetchOf aid epoch = some f →
        exec (.retire t ring) s = .next (fin ((c.failFetch t f 0x0013).settleFetches t 256) 0)) ∧
      (k.state = .retained → exec (.retire t ring) s = .next (wait false)) ∧
      (k.state = .current → (∃ w ∈ ten.switches, w.aid = aid) → exec (.retire t ring) s = .next (wait true)) ∧
      (k.state = .current → (∀ w ∈ ten.switches, w.aid ≠ aid) → exec (.retire t ring) s = .next (fin c 0x0002)))

/-- R158, R281, R300: GROUP sets the group that its record names, with SQN 0, and completes with its number; a record that
breaks R281 completes with BUSY. RELEASE removes a bound plan that no TURN names, reports its micro-batches, completes
its pending admissions, and completes with its ID. -/
def Obligations.GroupAndReleaseAct : Prop :=
  (∀ (s : State) (t : Fin 16) (ring : Fin 8) (e : Entry) (src : CmdSrc) (c : Chip) (b : List Byte),
    s.chip.takeOp (.vf t) ring 0x07 1 = some (e, src, c) →
    State.cmdBytes { s with chip := c } t (BitVec.ofNat 20 (entryAt e 16 4)) (entryAt e 20 8 % 2 ^ 48) 80 = some b →
    let grp := BitVec.ofNat 12 (leAt b 0 2)
    (c.groupOk t (GroupRec.read b) = true →
      ∃ g, exec (.group t ring) s = .next { s with chip :=
          ({ c with groups := (c.groups.filter fun (x : Group) => decide (x.grp ≠ grp)) ++ [g] }).complete src 0 0 (grp.setWidth 32) 0 } ∧
        g.grp = grp ∧ g.ten = t ∧ g.g = leAt b 4 4 ∧ g.rank = leAt b 8 2 ∧ g.next = BitVec.ofNat 16 (leAt b 10 2) ∧
        g.prev = BitVec.ofNat 16 (leAt b 12 2) ∧ g.peers = (GroupRec.read b).peers ∧ g.sqn = 0 ∧ g.dead = false ∧ g.rx = []) ∧
    (leAt b 4 4 < 1 ∨ 65536 < leAt b 4 4 ∨ leAt b 4 4 ≤ leAt b 8 2 ∨
        (leAt b 4 4 ≠ 1 ∧ (BitVec.ofNat 16 (leAt b 10 2) = 0 ∨ BitVec.ofNat 16 (leAt b 12 2) = 0)) →
      c.groupOk t (GroupRec.read b) = false) ∧
    (c.groupOk t (GroupRec.read b) = false →
      exec (.group t ring) s = .next { s with chip := c.complete src 0x0002 0 (grp.setWidth 32) 0 })) ∧
  (∀ (s : State) (t : Fin 16) (ring : Fin 8) (e : Entry) (src : CmdSrc) (c : Chip),
    s.chip.takeOp (.vf t) ring 0x0B 1 = some (e, src, c) →
    let id := BitVec.ofNat 16 (entryAt e 16 2)
    (∀ p, (c.placer.bound.find? fun p => decide (p.id = id) && decide (p.tenant = t)) = some p →
      let c1 := ({ c with placer := { c.placer with bound := c.placer.bound.filter fun x => x.id ≠ id } }).loseBatches t id 0 0x0002
      (c.turnNames id = false → exec (.release t ring) s = .next { s with chip :=
        (if p.req.isSome then c1.failAdmissions t 0x0002 else c1).complete src 0 id 0 0 }) ∧
      (c.turnNames id = true → exec (.release t ring) s = .next { s with chip := c.complete src 0x0002 id 0 0 })) ∧
    ((∀ p ∈ c.placer.bound, p.id ≠ id ∨ p.tenant ≠ t) →
      exec (.release t ring) s = .next { s with chip := c.complete src 0x0002 id 0 0 }))

/-- R343-R347: ATTEST waits its turn and arms its slot with a fresh transport pair once its report is written; LOAD
into an ARMED slot loads the key of a wrap that opens and empties the slot for one that does not; CLEAR empties it
unless a fetch uses it. A slot number over 7 is BUSY. -/
def Obligations.KeySlotsFollowTheirCommands : Prop :=
  ∀ (s : State) (t : Fin 16) (ring : Fin 8) (e : Entry) (src : CmdSrc) (c : Chip),
    let slot := Fin.ofNat 8 (entryAt e 17 1)
    let tid := BitVec.ofNat 20 (entryAt e 20 4)
    let off := entryAt e 24 8 % 281474976710656
    let set := fun (k : KeySlot) => c.modTenant t fun x => { x with keys := x.keys.set slot k }
    let answer := fun (i : Instr) (st : W16) => exec i s = .next { s with chip := c.done src st }
    (s.chip.takeOp (.vf t) ring 0x08 1 = some (e, src, c) →
      (8 ≤ entryAt e 17 1 →
        (entryAt e 16 1 = 0 → answer (.keyloadAttest t ring) 0x0002) ∧
        (entryAt e 16 1 = 1 → answer (.keyloadLoad t ring) 0x0002) ∧
        (entryAt e 16 1 = 2 → answer (.keyloadClear t ring) 0x0002)) ∧
      (entryAt e 17 1 < 8 →
      (entryAt e 16 1 = 0 →
        (∀ key, c.tenants[t].keys[slot] = .loaded key → answer (.keyloadAttest t ring) 0x0002) ∧
        ((∀ key, c.tenants[t].keys[slot] ≠ .loaded key) →
          (c.cmdRegion t tid off 18864 = none → answer (.keyloadAttest t ring) 0x0071) ∧
          ∀ w o, c.cmdRegion t tid off 18864 = some (w, o) →
            exec (.keyloadAttest t ring) s = .next { s with chip := { c with
              attests := c.attests ++ [{ tenant := t, slot := slot, win := w, off := o, nonce := BitVec.ofNat 256 (entryAt e 32 32),
                                         src := src }] } })) ∧
      (∀ pair nonce w, entryAt e 16 1 = 1 → c.tenants[t].keys[slot] = .armed pair nonce →
        State.cmdBytes { s with chip := c } t tid off 2032 = some w →
        (∀ key, c.wrapFits t slot.val w = true → unwrapKey pair nonce w = some key →
          exec (.keyloadLoad t ring) s = .next { s with chip := (set (.loaded key)).done src 0 }) ∧
        (c.wrapFits t slot.val w = false ∨ unwrapKey pair nonce w = none → ∃ u, exec (.keyloadLoad t ring) s = .next u ∧
          u.chip.tenants[t].keys[slot] = .empty ∧ u.mem = s.mem ∧ u.pending = s.pending ∧
          u.chip = ((set .empty).authFailed 3 t.val slot.val []).done src 0x0071 ∧
          (c.intc.src[12] = .idle → u.chip.intc.src[12] = .pending) ∧
          u.chip.hatband.queue.length = c.hatband.queue.length + 1)) ∧
      (entryAt e 16 1 = 1 → (∀ pair nonce, c.tenants[t].keys[slot] ≠ .armed pair nonce) ∨
          State.cmdBytes { s with chip := c } t tid off 2032 = none → answer (.keyloadLoad t ring) 0x0071) ∧
      (entryAt e 16 1 = 2 → (∀ f ∈ c.tenants[t].fetches, f.keySlot ≠ slot) →
        exec (.keyloadClear t ring) s = .next { s with chip := (set .empty).done src 0 }) ∧
      (entryAt e 16 1 = 2 → (∃ f ∈ c.tenants[t].fetches, f.keySlot = slot) → answer (.keyloadClear t ring) 0x0002))) ∧
    (∀ j js, s.chip.attests = j :: js →
      ((∃ key, s.chip.tenants[j.tenant].keys[j.slot] = .loaded key) →
        exec .attestReportWritten s = .next { s with chip := { s.chip with attests := js }.done j.src 0x0002 }) ∧
      ((∀ key, s.chip.tenants[j.tenant].keys[j.slot] ≠ .loaded key) →
        ∃ (u : State) (c' : Chip), exec .attestReportWritten s = .next u ∧ u.chip = c'.done j.src 0 ∧
          u.chip.attests = js ∧ u.chip.drawn = s.chip.drawn + 1 ∧
          u.chip.tenants[j.tenant] = { s.chip.tenants[j.tenant] with
            keys := s.chip.tenants[j.tenant].keys.set j.slot (.armed s.chip.drawn j.nonce) } ∧
          (∀ y, y ≠ j.tenant → u.chip.tenants[y] = s.chip.tenants[y]) ∧ u.pending = s.pending ∧
          u.mem = s.mem.applyAll (s.chip.tenants[j.tenant].byteWrites j.win j.off (s.chip.reportBytes j s.chip.drawn))))

/-- R307, R390-R393: SAVE of a running tenant waits for the plan's next boundary, that of a faulted one takes the context
that the fault restored; an idle tenant has none, and of a paused one no command is taken. The image's bytes
are written where the SAVE names, and its completion gives plan, step and length; RESTORE is refused while the tenant
holds a plan or binds one, and otherwise queues the bind of its submit record with the context that it finds. -/
def Obligations.SaveAndRestoreContexts : Prop :=
  ∀ (s : State) (t : Fin 16) (ring : Fin 8) (e : Entry) (src : CmdSrc) (c : Chip),
    (s.chip.takeOp (.vf t) ring 0x09 1 = some (e, src, c) →
      (c.cmdRef t (BitVec.ofNat 20 (entryAt e 16 4)) = none → exec (.save t ring) s = .next { s with chip := c.done src 0x0002 }) ∧
      ∀ r, c.cmdRef t (BitVec.ofNat 20 (entryAt e 16 4)) = some r →
      (∀ x, (c.tenants[t].fstate = .running ∧ x = none ∨
          c.tenants[t].fstate = .faulted ∧ c.tenants[t].faulted = x ∧ x.isSome = true) →
        ∃ v, exec (.save t ring) s = .next { s with chip := (c.modTenant t fun y => { y with saves := y.saves ++ [v] }) } ∧
          v.taken = x ∧ v.src = src ∧ v.win = r.win ∧ v.off = r.byteAt (entryAt e 20 8 % 281474976710656) ∧
          v.len ≤ entryAt e 28 8 ∧ (v.endPlan = true ↔ entryAt e 48 1 % 2 = 1)) ∧
      (c.tenants[t].fstate = .idle ∨ c.tenants[t].fstate = .faulted ∧ c.tenants[t].faulted = none →
        exec (.save t ring) s = .next { s with chip := c.done src 0x0002 })) ∧
    (s.chip.tenants[t].fstate = .paused → exec (.save t ring) s = .next s ∧ exec (.restore t ring) s = .next s) ∧
    (∀ v x, (s.chip.tenants[t].saves.find? fun v => v.taken.isSome) = some v → v.taken = some x →
      let bytes := Config.contextBytes x.tag
      let fits := bytes.length ≤ v.len ∧ s.chip.tenants[t].inWin v.win v.off bytes.length = true
      ∃ (u : State) (c' : Chip), exec (.saveImageWritten t) s = .next u ∧ u.pending = s.pending ∧
        u.chip = c'.complete v.src (if fits then 0 else 0x0002) x.plan x.step (BitVec.ofNat 64 bytes.length) ∧
        u.mem = (if fits then s.mem.applyAll (s.chip.tenants[t].byteWrites v.win v.off bytes) else s.mem) ∧
        u.chip.tenants[t].saves = s.chip.tenants[t].saves.erase v ∧
        (fits → (v.win, v.off, x) ∈ u.chip.tenants[t].images) ∧
        (¬ fits → u.chip.tenants[t].images = s.chip.tenants[t].images) ∧
        u.chip.tenants[t].windows = s.chip.tenants[t].windows ∧
        ∀ y, y ≠ t → u.chip.tenants[y] = s.chip.tenants[y]) ∧
    (s.chip.takeOp (.vf t) ring 0x0A 1 = some (e, src, c) →
      (c.holdsPlan t none = true ∨ (∃ j ∈ c.placer.jobs, j.tenant = t) →
        exec (.restore t ring) s = .next { s with chip := c.done src 0x0002 }) ∧
      (c.holdsPlan t none = false → (∀ j ∈ c.placer.jobs, j.tenant ≠ t) →
        let s0 : State := { s with chip := c }
        let found := s0.contextAt t (BitVec.ofNat 20 (entryAt e 16 4)) (entryAt e 20 8 % 2 ^ 48)
        (found = none → exec (.restore t ring) s = .next { s with chip := c.done src 0x0043 }) ∧
        ∀ x b bytes img, found = some x → c.placer.jobs.length ≤ 32 →
          s0.cmdBytes t (BitVec.ofNat 20 (entryAt e 36 4)) (entryAt e 40 8 % 2 ^ 48) 256 = some b →
          s0.imageBytes t (SubmitRec.read b) = some bytes → c.headOk (ImageHead.read bytes) = true →
          Image.parse c.tenants[t] bytes = .ok img → x.loaded.fits c.tenants[t] c.mram.hwgen img = true →
          ∃ j, exec (.restore t ring) s =
              .next { s with chip := { c with placer := { c.placer with jobs := c.placer.jobs ++ [j] } }.beginJob } ∧
            j.tenant = t ∧ j.sub = SubmitRec.read b ∧ j.image = some img ∧ j.restore = some x.loaded ∧ j.src = src))

/-! ### The admin ring and the host's registers -/

/-- R305-R308: the first ATTACH with token zero draws the session's token and attaches; one while attached is BUSY; one
with a wrong token changes no driver state; one with the session's token attaches again and ends every pause. A change of
HEARTBEAT is stamped; unchanged for HB_TIMEOUT it makes the driver ABSENT, counted and on source 4; DETACH makes it
DETACHED. -/
def Obligations.DriverPresenceIsTracked : Prop :=
  ∀ (s : State) (e : Entry) (src : CmdSrc) (c : Chip),
    (s.chip.takeOp .pf 0 0x81 1 = some (e, src, c) →
      let token := BitVec.ofNat 128 (entryAt e 16 16)
      (c.driver.state = .attached → exec .attach s = .next { s with chip := c.done src 0x0002 }) ∧
      (c.driver.state = .never → token = 0 → ∃ u, exec .attach s = .next u ∧
        u.chip.driver = { c.driver with
          state := .attached, attachStamp := c.drone.now, changed := c.drone.now
          token := (Config.random c.drawn).setWidth 128 } ∧
        u.chip.drawn = c.drawn + 1 ∧ u.mem = s.mem ∧ u.pending = s.pending ∧ u.chip.tenants = c.tenants ∧ u.chip.parts = c.parts) ∧
      (c.driver.state = .absent ∨ c.driver.state = .detached → token = c.driver.token →
        ∃ u, exec .attach s = .next u ∧
          u.chip.driver = { c.driver with
            state := .attached, attachStamp := c.drone.now, changed := c.drone.now, hostAbsent := false } ∧
          (∀ t : Fin 16, u.chip.tenants[t].fstate ≠ .paused) ∧ u.mem = s.mem ∧ u.pending = s.pending ∧
          ∀ (p : Fin 4) r, u.chip.run p = some r → .paused ∉ r.holds) ∧
      (c.driver.state = .never ∧ token ≠ 0 ∨
          (c.driver.state = .absent ∨ c.driver.state = .detached) ∧ token ≠ c.driver.token →
        ∃ u, exec .attach s = .next u ∧ u.chip = (c.authFailed 2 0 0 []).done src 0x0071 ∧ u.chip.driver = c.driver ∧
          u.mem = s.mem ∧ u.pending = s.pending ∧ u.chip.tenants = c.tenants ∧ u.chip.parts = c.parts ∧
          (c.intc.src[12] = .idle → u.chip.intc.src[12] = .pending))) ∧
    (s.chip.takeOp .pf 0 0x82 1 = some (e, src, c) →
      (c.driver.state = .attached → ∃ u, exec .detach s = .next u ∧
        u.chip.driver.state = .detached ∧ u.chip.driver.token = c.driver.token ∧ u.mem = s.mem ∧ u.pending = s.pending ∧
        ∀ t : Fin 16, c.partOf t = none → u.chip.tenants[t].fstate = .paused) ∧
      (c.driver.state ≠ .attached → exec .detach s = .next { s with chip := c.done src 0 })) ∧
    (s.chip.power = .running →
      (∀ v, exec (.heartbeatWrite v) s = .next { s with chip := { s.chip with driver := { s.chip.driver with
        heartbeat := v, changed := if v = s.chip.driver.heartbeat then s.chip.driver.changed else s.chip.drone.now } } }) ∧
      (s.chip.driver.state = .attached → s.chip.mram.hbTimeout.toNat * 1000000 ≤ (s.chip.drone.now - s.chip.driver.changed).toNat →
        ∃ u, exec .heartbeatLoss s = .next u ∧ u.chip.driver.state = .absent ∧
          u.chip.driver.lossCount = s.chip.driver.lossCount + 1 ∧ u.chip.driver.lastLoss = s.chip.drone.now ∧
          (s.chip.intc.src[4] = .idle → u.chip.intc.src[4] = .pending) ∧
          (∀ t : Fin 16, s.chip.partOf t = none → u.chip.tenants[t].fstate = .paused) ∧ u.mem = s.mem ∧ u.pending = s.pending))

/-- R307, R309-R311: ACTIVATE keeps the image it names for verification; a verified release that fits what runs is queued
and its ACTIVATE completes, one that does not verify or fit is refused with its status; CANCEL empties the queue; both are
refused while the driver is away; the handover makes it the running release, with an event, a Hatband record, and the
placer's job in progress begun again. -/
def Obligations.ActivationsAreQueuedAndTaken : Prop :=
  ∀ (s : State) (e : Entry) (src : CmdSrc) (c : Chip),
    (s.chip.takeOp .pf 0 0x83 1 = some (e, src, c) →
      (entryAt e 28 1 % 2 = 0 → ∀ img,
        (c.driverAway = false → exec (.activate img) s =
          .next { s with chip := { c with boot := { c.boot with verifying := c.boot.verifying ++ [⟨img, src⟩] } } }) ∧
        (c.driverAway = true → exec (.activate img) s = .next { s with chip := c.done src 0x0041 })) ∧
      (entryAt e 28 1 % 2 = 1 →
        (c.driverAway = false → exec .activateCancel s =
          .next { s with chip := ({ c with boot := { c.boot with queued := none, queueRefused := false } }).done src 0 }) ∧
        (c.driverAway = true → exec .activateCancel s = .next { s with chip := c.done src 0x0041 }))) ∧
    (∀ a rest, s.chip.boot.verifying = a :: rest →
      let c0 := { s.chip with boot := { s.chip.boot with verifying := rest } }.raise 13
      let signed := a.img.digestOk = true ∧ a.img.rsaOk = true ∧ a.img.slhOk = true
      let fits := a.img.hwgen = s.chip.mram.hwgen ∧ a.img.bodylen.toNat ≤ 16777216 ∧ s.chip.releaseFits a.img = true
      (¬ signed → exec .activateVerifyComplete s = .next { s with chip := c0.done a.src 0x0071 }) ∧
      (signed → ¬ fits → exec .activateVerifyComplete s = .next { s with chip := c0.done a.src 0x0043 }) ∧
      (signed → fits → ∃ (u : State) (c' : Chip), exec .activateVerifyComplete s = .next u ∧
          u.chip = c'.done a.src (if s.chip.limiter.state = .normal then 0 else 0x0003) ∧
          u.chip.boot = { s.chip.boot with verifying := rest, queued := some a.img, queueRefused := false } ∧
          (s.chip.intc.src[13] = .idle → u.chip.intc.src[13] = .pending) ∧ u.mem = s.mem ∧ u.pending = s.pending ∧
          u.chip.tenants = s.chip.tenants ∧ u.chip.parts = s.chip.parts)) ∧
    (∀ i, s.chip.boot.queued = some i → s.chip.power = .running → s.chip.limiter.state = .normal →
      2000000000 ≤ (s.chip.drone.now - s.chip.limiter.since).toNat →
      ((∀ p : Fin 4, s.chip.run p = none) ∨ ∃ (p : Fin 4) (r : Running), s.chip.run p = some r ∧ r.atBoundary = true) →
      ∃ u, exec .firmwareHandover s = .next u ∧ u.chip = s.chip.handover i ∧
        u.chip.boot = { s.chip.boot with
          img := some i, fwRel := i.fwrel, fwDig := i.digest, queued := none, queueRefused := false, lastAct := s.chip.drone.now } ∧
        (∀ j js, s.chip.placer.jobs = j :: js → ∃ st : BindStart, st.since = s.chip.drone.now ∧
          u.chip.placer.jobs = { j with start := some st } :: js) ∧
        u.chip.hatband.queue.length = s.chip.hatband.queue.length + 1 ∧ u.mem = s.mem ∧ u.pending = s.pending ∧
        u.chip.tenants = s.chip.tenants ∧ u.chip.parts = s.chip.parts)

/-- R307, R333-R337: CONFIGURE puts the 16 windows of its record in force and zeroes what they newly cover; DESTROY leaves
the tenant no window; GRANT changes grants alone; each is BUSY where its conditions fail. A tenant reset ends plans, keys,
requests and rings of the tenant, keeps its windows, and, unless its end lets another plan start, leaves every other tenant
as it was. -/
def Obligations.TenantsAreSetAndReset : Prop :=
  ∀ (s : State),
    (∀ (e : Entry) (src : CmdSrc) (c : Chip), s.chip.takeOp .pf 0 0x84 1 = some (e, src, c) → c.driverAway = false →
      entryAt e 16 1 < 16 → entryAt e 18 6 = 0 → entryAt e 32 32 = 0 →
      let t := Fin.ofNat 16 (entryAt e 16 1)
      let busy := fun (i : Instr) => exec i s = .next { s with chip := c.done src 0x0002 }
      (∀ wins, entryAt e 17 1 = 0 → c.recordThere e = false ∨ c.occupied t = true ∨ c.configOk t wins = false →
        busy (.tenantSetConfigure wins)) ∧
      (∀ wins, entryAt e 17 1 = 0 → c.recordThere e = true → c.occupied t = false → c.configOk t wins = true →
        ∃ u, exec (.tenantSetConfigure wins) s = .next u ∧ u.pending = s.pending ∧
          (∀ (i : Fin 16) w, wins[i.val]? = some w →
            (w.tier = 0 → u.chip.tenants[t].windows[i] = Window.unused) ∧
            (w.tier ≠ 0 → u.chip.tenants[t].windows[i].tier = some (decide (w.tier = 1)) ∧
              u.chip.tenants[t].windows[i].base = w.base ∧ u.chip.tenants[t].windows[i].limit = w.limit ∧
              u.chip.tenants[t].windows[i].grant = w.grant)) ∧
          (∀ a : PAddr, (∃ i : Fin 16, u.chip.tenants[t].windows[i].covers a.1 a.2 = true) →
            (∀ i : Fin 16, c.tenants[t].windows[i].covers a.1 a.2 = false) → u.mem.byte a = 0) ∧
          (∀ a : PAddr, (∀ i : Fin 16, u.chip.tenants[t].windows[i].covers a.1 a.2 = false) → u.mem.byte a = s.mem.byte a) ∧
          (∀ a : PAddr, (∃ i : Fin 16, c.tenants[t].windows[i].covers a.1 a.2 = true) → u.mem.byte a = s.mem.byte a) ∧
          ∀ x, x ≠ t → u.chip.tenants[x] = c.tenants[x]) ∧
      (entryAt e 17 1 = 1 → c.occupied t = true → busy .tenantSetDestroy) ∧
      (entryAt e 17 1 = 1 → c.occupied t = false → ∃ u, exec .tenantSetDestroy s = .next u ∧ u.pending = s.pending ∧
        u.mem = s.mem ∧ u.chip.tenants[t].windows = Vector.replicate 16 Window.unused ∧ u.chip.tenants[t].fstate = .idle ∧
        u.chip.tenants[t].layers = [] ∧ ∀ x, x ≠ t → u.chip.tenants[x] = c.tenants[x]) ∧
      (∀ wins, entryAt e 17 1 = 2 → wins.length = 16 →
        (c.recordThere e = false ∨ (∃ (i : Fin 16) (w : WinRec), wins[i.val]? = some w ∧ c.grantOk t i w = false) →
          busy (.tenantSetGrant wins)) ∧
        (c.recordThere e = true → (∀ (i : Fin 16) w, wins[i.val]? = some w → c.grantOk t i w = true) →
        ∃ u, exec (.tenantSetGrant wins) s = .next u ∧ u.pending = s.pending ∧ u.mem = s.mem ∧
          (∀ (i : Fin 16) w, wins[i.val]? = some w → u.chip.tenants[t].windows[i] =
            if c.tenants[t].windows[i].tier = none then c.tenants[t].windows[i]
            else { c.tenants[t].windows[i] with grant := w.grant }) ∧
          (∀ x, x ≠ t → u.chip.tenants[x] = c.tenants[x])))) ∧
    (∀ t : Fin 16, ∃ u, exec (.tenantReset t) s = .next u ∧ u.pending = s.pending ∧ u.mem = s.mem ∧
      (∀ (p : Fin 4) r, u.chip.run p = some r → r.plan.tenant ≠ t) ∧
      u.chip.tenants[t].windows = s.chip.tenants[t].windows ∧ u.chip.tenants[t].keys = Vector.replicate 8 .empty ∧
      u.chip.tenants[t].copies = [] ∧ u.chip.tenants[t].fetches = [] ∧ u.chip.tenants[t].slots = [] ∧
      u.chip.tenants[t].pendAdm = [] ∧ u.chip.tenants[t].mbatches = [] ∧ u.chip.tenants[t].layers = [] ∧
      u.chip.tenants[t].scale = scaleReset ∧ (∀ p ∈ u.chip.placer.bound, p.tenant ≠ t) ∧ (∀ g ∈ u.chip.groups, g.ten ≠ t) ∧
      ((∀ (p : Fin 4) r, s.chip.run p = some r → r.plan.tenant ≠ t) →
        u.chip.vfn[t] = Func.reset ∧ ∀ x, x ≠ t → u.chip.tenants[x] = s.chip.tenants[x]) ∧
      ((∀ (p : Fin 4) r, s.chip.run p = some r → r.turn = none) → (∀ p : Fin 4, s.chip.parts[p].waiting = none) →
        s.chip.partPending = none →
        u.chip.vfn[t] = Func.reset ∧ ∀ x, x ≠ t → u.chip.tenants[x] = s.chip.tenants[x]))

/-- R77, R80, R81, R300: PART_SET with no plan running puts its columns and spares in force and completes, the bound plans
bound anew; with a plan running it waits; while one waits, or with columns that make no set, it is BUSY.
TURN names a bound plan: for a target that runs one, that plan ends at its next boundary; for a free one the prologue
begins, or waits for the plan's alternates. An opcode that no command has completes with BUSY. -/
def Obligations.PartitionsAndTurnsAreSet : Prop :=
  ∀ (s : State) (e : Entry) (src : CmdSrc) (c : Chip), c.driverAway = false →
    (s.chip.takeOp .pf 0 0x85 1 = some (e, src, c) → (∀ p : Fin 4, c.parts[p].waiting = none) →
      (partCols c.mram.mc64 e = none → exec .partSet s = .next { s with chip := c.done src 0x0002 }) ∧
      ∀ cols, partCols c.mram.mc64 e = some cols →
      (c.partPending ≠ none → exec .partSet s = .next { s with chip := c.done src 0x0002 }) ∧
      (c.partPending = none → (∃ p : Fin 4, c.run p ≠ none) →
        exec .partSet s = .next { s with chip := { c with partPending := some (cols, src) } }) ∧
      (c.partPending = none → (∀ p : Fin 4, c.run p = none) → ∃ (u : State) (c' : Chip), exec .partSet s = .next u ∧
        u.chip = c'.done src 0 ∧ u.mem = s.mem ∧ u.pending = s.pending ∧ u.chip.tenants = c.tenants ∧
        u.chip.nparts = cols.length ∧ u.chip.partPending = none ∧
        (∀ i : Fin 4, u.chip.parts[i] = { c.parts[i] with
          cols := cols.getD i.val 0, spares := sparesOf cols (physCols c.mram.mc64 c.mram.cfgOut) i.val }) ∧
        ∃ f : Plan → Plan, u.chip.placer.bound = c.placer.bound.map f ∧
          ∀ p ∈ c.placer.bound, (f p).id = p.id ∧ (f p).image = p.image ∧ (f p).sub = p.sub ∧
            (p.part = none → cols.length ≠ 1 → f p = p))) ∧
    (s.chip.takeOp .pf 0 0x86 1 = some (e, src, c) →
      let id := BitVec.ofNat 16 (entryAt e 18 2)
      (c.turnTarget (entryAt e 16 1) = none → exec .turn s = .next { s with chip := c.complete src 0x0002 id 0 0 }) ∧
      ∀ target q, c.turnTarget (entryAt e 16 1) = some (target, q) →
      (c.turnOk target q id = false → exec .turn s = .next { s with chip := c.complete src 0x0002 id 0 0 }) ∧
      (c.turnOk target q id = true →
        (∀ r, c.run q = some r → exec .turn s = .next { s with chip := c.setRun q (some { r with turn := some (id, src) }) }) ∧
        (c.run q = none → ∀ p, (c.placer.bound.find? fun x => x.id = id) = some p →
          (p.altsReady = false ∨ c.partPending ≠ none →
            exec .turn s = .next { s with chip := c.modPart q fun x => { x with waiting := some (id, src) } }) ∧
          (p.altsReady = true → c.partPending = none → p.restored = none → ∃ u r,
            exec .turn s = .next u ∧ u.pending = s.pending ∧ u.mem = s.mem ∧ u.chip.run q = some r ∧ r.plan = p ∧
            r.inPrologue = true ∧ r.step = 0 ∧ r.ctx = Ctx.initial p.image.startDescs ∧
            u.chip.placer.bound = c.placer.bound.filter fun x => x.id ≠ id)))) ∧
    (∀ f ring, s.chip.take f ring 1 = some (e, src, c) → listed f e = false →
      exec (.unknownOpcode f ring) s = .next { s with chip := c.done src 0x0002 })

/-- R297-R299, R303, R315: a doorbell gives the ring its entries and producer count and raises the function's source;
a consumer count frees the entries up to it; base and size change on a disabled ring alone, and the enable bit needs a
size of 6 to 16; plain registers take what is written. -/
def Obligations.RingRegistersActOnRings : Prop :=
  ∀ (s : State), s.chip.power = .running →
    (∀ (f : Fn) (k : Fin 8) (prod : W32) (e : Entry),
      (ringOf f k.val = false → exec (.commandDoorbell f k prod [e]) s = .next s) ∧
      (ringOf f k.val = true → ∃ u, exec (.commandDoorbell f k prod [e]) s = .next u ∧
      let r := (s.chip.func f).rings[(k.castLE (by decide) : Fin 12)]
      let r' := (u.chip.func f).rings[(k.castLE (by decide) : Fin 12)]
      spGet 0 r'.slots (r.prod.toNat % 2 ^ r.log2.toNat) = e ∧
      (∀ i, i ≠ r.prod.toNat % 2 ^ r.log2.toNat → spGet 0 r'.slots i = spGet 0 r.slots i) ∧
      r' = { r with slots := r'.slots, prod := prod } ∧
      (∀ n : Fin 128, n.val = (match f with
          | .pf => 72
          | .vf t => 16 + t.val) → s.chip.intc.src[n] = .idle → u.chip.intc.src[n] = .pending) ∧
      u.mem = s.mem ∧ u.pending = s.pending ∧ u.chip.tenants = s.chip.tenants ∧
      ∀ j : Fin 12, j ≠ k.castLE (by decide) → (u.chip.func f).rings[j] = (s.chip.func f).rings[j])) ∧
    (∀ (f : Fn) (j : Fin 12) (count : W32), 8 ≤ j.val → ringOf f j.val = true → (s.chip.func f).rings[j].owed = [] →
      ((s.chip.func f).rings[j].prod - count).toNat ≤ 2 ^ (s.chip.func f).rings[j].log2.toNat →
      ∃ u, exec (.consumerCountWrite f j count) s = .next u ∧
        let r := (s.chip.func f).rings[j]
        (u.chip.func f).rings[j] = { r with
          cons := count
          out := r.out.filter fun x => decide ((r.prod - x.1).toNat < (r.prod - count).toNat) } ∧
        u.mem = s.mem ∧ u.pending = s.pending ∧ u.chip.tenants = s.chip.tenants ∧
        ∀ i, i ≠ j → (u.chip.func f).rings[i] = (s.chip.func f).rings[i]) ∧
    (∀ (f : Fn) (i : Fin 12) (base : W64) (n : Byte), s.chip.boot.state = .ready → ringOf f i.val = true →
      let r := (s.chip.func f).rings[i]
      r.owed = [] →
      (r.enable = false → 6 ≤ n.toNat → n.toNat ≤ 16 → ∃ u,
        exec (.ringConfigWrite f i (some base) (some n) (some true)) s = .next u ∧
        (u.chip.func f).rings[i] = { r with base := base &&& ~~~0x3F, log2 := n, enable := true } ∧
        (u.chip.func f).featAgreed.isSome = true ∧ u.mem = s.mem ∧ u.pending = s.pending ∧
        u.chip.tenants = s.chip.tenants) ∧
      (r.enable = false → n.toNat < 6 → r.log2.toNat < 6 → ∃ u,
        exec (.ringConfigWrite f i none (some n) (some true)) s = .next u ∧
        (u.chip.func f).rings[i].enable = false) ∧
      (r.enable = true → ∃ u, exec (.ringConfigWrite f i (some base) (some n) none) s = .next u ∧
        (u.chip.func f).rings[i] = r)) ∧
    (∀ v : BitVec 256,
      exec (.registerWrite .loadAddr v) s = .next { s with chip := { s.chip with boot := { s.chip.boot with loadAddr := v.setWidth 64 } } } ∧
      exec (.registerWrite .loadLen v) s = .next { s with chip := { s.chip with boot := { s.chip.boot with loadLen := v.setWidth 32 } } } ∧
      exec (.registerWrite .paramAddr v) s = .next { s with chip := { s.chip with boot := { s.chip.boot with paramAddr := v.setWidth 64 } } } ∧
      (∀ off, exec (.registerWrite (.readOnly off) v) s = .next s) ∧
      (∀ f : Fn, ∃ u, exec (.registerWrite (.featDrv f) v) s = .next u ∧
        ((∀ i : Fin 12, (s.chip.func f).rings[i].enable = false) → u.chip.func f = { s.chip.func f with featDrv := v }) ∧
        ((∃ i : Fin 12, (s.chip.func f).rings[i].enable = true) → u.chip.func f = s.chip.func f) ∧
        u.mem = s.mem ∧ u.pending = s.pending ∧ u.chip.tenants = s.chip.tenants) ∧
      ∀ k : Fin 6,
        (∃ u, exec (.registerWrite (.cpri k) v) s = .next u ∧
          u.chip.intc.cores[k] = { s.chip.intc.cores[k] with cpri := v.setWidth 8 } ∧
          u.chip.intc.src = s.chip.intc.src ∧ ∀ j, j ≠ k → u.chip.intc.cores[j] = s.chip.intc.cores[j]) ∧
        ∃ u, exec (.registerWrite (.enable k) v) s = .next u ∧
          u.chip.intc.cores[k] = { s.chip.intc.cores[k] with enable := v.setWidth 128 } ∧
          u.chip.intc.src = s.chip.intc.src ∧ ∀ j, j ≠ k → u.chip.intc.cores[j] = s.chip.intc.cores[j])

/-! ### Starts, resets and the aperture -/

/-- R294-R296, R298, R394, R406: LOAD_GO starts verification; a verified image runs the self-test and a refused one
leaves the ROM in FAILED with its status; the self-test decides tile health and leaves READY. MODRESET and the PF's
function-level reset lose plans, tenants, rings and keys; the end of a reset leaves LOAD_WAIT, or FAILED where a
configuration record does not verify, and drives ALIVE; with RST_N low it waits. -/
def Obligations.StartsAndResetsRun : Prop :=
  ∀ (s : State),
    (∀ img blk, s.chip.power = .running → s.chip.mram.recordsOk = true →
      (s.chip.boot.state = .loadWait ∨ s.chip.boot.state = .failed) → ∃ u, exec (.loadGo 1 img blk) s = .next u ∧
        u.chip.boot.state = .verify ∧ u.chip.boot.img = some img ∧ u.chip.boot.status = 0 ∧
        (blk.pver = 1 → u.chip.boot.drvRel = blk.drvrel ∧
          u.chip.drone.now = (if s.chip.drone.now.toNat < blk.startTai.toNat then blk.startTai else s.chip.drone.now) ∧
          (1 ≤ blk.hostreg.toNat → blk.hostreg.toNat ≤ 8 →
            BitVec.ofNat 64 (16000000000 * blk.hostreg.toNat) ≠ s.chip.mram.hostRegion →
            u.chip.mram.hostNext = BitVec.ofNat 64 (16000000000 * blk.hostreg.toNat))) ∧
        u.chip.mram.hostRegion = s.chip.mram.hostRegion ∧ u.mem = s.mem ∧ u.pending = s.pending ∧
        u.chip.tenants = s.chip.tenants) ∧
    (∀ v img blk, v ≠ 1 ∨ s.chip.power ≠ .running ∨ s.chip.mram.recordsOk = false ∨
        (s.chip.boot.state ≠ .loadWait ∧ s.chip.boot.state ≠ .failed) → exec (.loadGo v img blk) s = .next s) ∧
    (∀ i, s.chip.boot.img = some i → s.chip.power = .running → s.chip.boot.state = .verify →
      ∃ u, exec .imageVerifyComplete s = .next u ∧ u.mem = s.mem ∧ u.pending = s.pending ∧
        (s.chip.intc.src[13] = .idle → u.chip.intc.src[13] = .pending) ∧
        (i.digestOk = false ∨ i.rsaOk = false ∨ i.slhOk = false →
          u.chip.boot.state = .failed ∧ u.chip.boot.status = 0x0071 ∧ u.chip.mram = s.chip.mram) ∧
        (i.digestOk = true → i.rsaOk = true → i.slhOk = true → i.hwgen ≠ s.chip.mram.hwgen ∨ 16777216 < i.bodylen.toNat →
          u.chip.boot.state = .failed ∧ u.chip.boot.status = 0x0043 ∧ u.chip.mram = s.chip.mram) ∧
        (i.digestOk = true → i.rsaOk = true → i.slhOk = true → i.hwgen = s.chip.mram.hwgen → i.bodylen.toNat ≤ 16777216 →
          u.chip.boot.state = .selftest ∧ u.chip.boot.fwRel = i.fwrel ∧ u.chip.boot.fwDig = i.digest ∧
          u.chip.mram.bootCount = s.chip.mram.bootCount + 1)) ∧
    (∀ bad, s.chip.power = .running → s.chip.boot.state = .selftest → ∃ u, exec (.selftestComplete bad) s = .next u ∧
      u.chip.boot = { s.chip.boot with state := .ready, status := 0 } ∧ u.mem = s.mem ∧ u.pending = s.pending ∧
      (∀ t, t ∈ u.chip.faults.tilesOut ↔ t ∈ s.chip.mram.cfgOut ∨ t ∈ bad)) ∧
    (∀ mj, s.chip.power = .inReset →
      (s.chip.pins.rstN = false → exec (.moduleResetComplete mj) s = .next s) ∧
      (s.chip.pins.rstN = true → ∃ u, exec (.moduleResetComplete mj) s = .next u ∧
        u.chip.power = .running ∧ u.chip.pins.alive = true ∧ u.chip.boot.holdupMj = mj ∧
        u.chip.boot.state = (if s.chip.mram.recordsOk then .loadWait else .failed) ∧ u.mem = s.mem ∧ u.pending = s.pending)) ∧
    (s.chip.power = .running → ∀ c, c = Instr.modreset 0x5A5A ∨ c = Instr.pfFunctionLevelReset →
      ∃ u, exec c s = .next u ∧ u.chip.power = .inReset ∧ u.chip.pins.alive = false ∧ u.pending = s.pending ∧
        u.chip.tenants = Vector.replicate 16 Tenant.reset ∧ u.chip.vfn = Vector.replicate 16 Func.reset ∧
        u.chip.pfn = Func.reset ∧ u.chip.placer.bound = [] ∧ u.chip.placer.jobs = [] ∧ (∀ p : Fin 4, u.chip.run p = none) ∧
        u.chip.driver.state = .never ∧ u.chip.faults.tilesOut = [] ∧ u.chip.memObj.kgen = 0 ∧
        u.chip.mram.hostRegion = s.chip.mram.hostRegion ∧
        (∀ a, s.chip.hostBase ≤ a → u.mem.byte (false, a) = s.mem.byte (false, a)) ∧
        (s.chip.hatband.queue = [] → s.chip.hatband.dropsNow = none → s.chip.mram.staged = none →
          ∃ x, u.chip.hatband.crit.getLast? = some x ∧ x.hb.type = 0x0003 ∧ x.hb.stamp = s.chip.drone.now)) ∧
    (∀ v, v ≠ 0x5A5A ∨ s.chip.power ≠ .running → exec (.modreset v) s = .next s)

/-- R335: byte o of window w lies at offset w·2^40 + o, for o below LIMIT − BASE. A read through the aperture returns window
data, and ones outside every window; a write stores inside the tenant's windows, drops what lies outside and counts it.
R414: where a running plan keeps a working copy, what the host reads of the home is open, and what it writes there does not
reach the plan's tensor. R241, R243: a read of an uncorrectable codeword carries no data and raises source 1. -/
def Obligations.ApertureReachesWindows : Prop :=
  ∀ (s : State) (t : Fin 16) (off : BitVec 44), s.chip.power = .running →
    let ten := s.chip.tenants[t]
    let at_ := fun i => ten.aperture (off.toNat + i)
    (∀ (w : Fin 16) (t1 : Bool) (o : Nat), ten.windows[w].tier = some t1 →
      o < ten.windows[w].limit.toNat - ten.windows[w].base.toNat → o < 2 ^ 40 →
      ten.aperture (w.val * 2 ^ 40 + o) = some (t1, ten.windows[w].base.toNat + o)) ∧
    (∀ (w : Fin 16) (o : Nat), o < 2 ^ 40 →
      (ten.windows[w].tier = none ∨ ten.windows[w].limit.toNat - ten.windows[w].base.toNat ≤ o) →
      ten.aperture (w.val * 2 ^ 40 + o) = none) ∧
    (∀ (len : Fin 65), (∀ i a, i < len.val → at_ i = some a → s.mem.bad (wordOf a) = false) →
      ∃ u, exec (.bar2Read t off len) s = .next u ∧ u.chip.readData.length = len.val ∧ u.mem = s.mem ∧ u.pending = s.pending ∧
        u.chip.tenants = s.chip.tenants ∧ u.chip.parts = s.chip.parts ∧
        (∀ i, i < len.val → at_ i = none → u.chip.readData[i]? = some 0xFF) ∧
        (∀ i a, i < len.val → at_ i = some a → s.chip.away t a = false →
          u.chip.readData[i]? = some (s.mem.byte a)) ∧
        (s.mem.sound = true → (∀ i a, i < len.val → at_ i = some a → s.chip.away t a = false) →
          u.chip = { s.chip with readData := u.chip.readData })) ∧
    (∀ (len : Fin 65) i a, i < len.val → at_ i = some a → s.mem.bad (wordOf a) = true →
      ∃ u, exec (.bar2Read t off len) s = .next u ∧ u.chip.readData = [] ∧ u.mem = s.mem ∧ u.pending = s.pending ∧
        (s.chip.intc.src[1] = .idle → u.chip.intc.src[1] = .pending)) ∧
    (∀ bytes : List Byte, ∃ u, exec (.bar2Write t off bytes) s = .next u ∧ u.pending = s.pending ∧
        u.chip.tenants = s.chip.tenants ∧ u.chip.parts = s.chip.parts ∧
        u.chip.gate.bar2Miss = (if ∃ i, i < bytes.length ∧ at_ i = none then s.chip.gate.bar2Miss + 1 else s.chip.gate.bar2Miss) ∧
        (s.mem.sound = true →
          (∀ a, (∀ i, i < bytes.length → at_ i ≠ some a) → u.mem.byte a = s.mem.byte a) ∧
          (∀ a, s.chip.away t a = true → u.mem.byte a = s.mem.byte a) ∧
          ((∀ i j a, i < bytes.length → j < bytes.length → at_ i = some a → at_ j = some a → i = j) →
            ∀ i b a, bytes[i]? = some b → at_ i = some a → s.chip.away t a = false → u.mem.byte a = b) ∧
          u.chip = { s.chip with gate := { s.chip.gate with bar2Miss := u.chip.gate.bar2Miss } }))

/-- R313-R315: a trigger makes an IDLE source PENDING and an ACTIVE one ACTIVE_PENDING, with its stamp, and is counted on a
source that is PENDING already; a claim makes the core's source
ACTIVE and returns its number, 0x80 where there is none, and an error while one is held; a completion by the core that
holds the source makes it IDLE, or PENDING again, and any other is an error. COALESCED clears when read; ERR bits clear
where 1 is written. A core is assigned only a PENDING source that it has enabled. -/
def Obligations.InterruptSourcesMoveByRule : Prop :=
  ∀ (s : State), s.chip.power = .running →
    let latch := fun (n : Fin 128) (x : SrcState) => ({ s with chip := { s.chip with
      intc := { s.chip.intc with src := s.chip.intc.src.set n x, latched := s.chip.intc.latched.set n s.chip.drone.now } } } : State)
    (∀ n : Fin 128,
      (s.chip.intc.src[n] = .idle → exec (.swtrig n) s = .next (latch n .pending)) ∧
      (s.chip.intc.src[n] = .pending → exec (.swtrig n) s = .next { s with chip := { s.chip with
        intc := { s.chip.intc with coalesced := s.chip.intc.coalesced + 1 } } }) ∧
      ∀ k : Fin 6,
        (s.chip.intc.src[n] = .active k → exec (.swtrig n) s = .next (latch n (.activePending k))) ∧
        (s.chip.intc.src[n] = .activePending k → exec (.swtrig n) s = .next { s with chip := { s.chip with
          intc := { s.chip.intc with coalesced := s.chip.intc.coalesced + 1 } } })) ∧
    (∀ k : Fin 6,
      (∀ n : Fin 128, s.chip.intc.src[n] = .active k ∨ s.chip.intc.src[n] = .activePending k → ∃ u, exec (.claim k) s = .next u ∧
        u.chip.readData = [0x80] ∧ u.chip.intc.src = s.chip.intc.src ∧
        u.chip.intc.cores[k].err = s.chip.intc.cores[k].err ||| 2 ∧ u.mem = s.mem ∧ u.pending = s.pending) ∧
      ((∀ n : Fin 128, s.chip.intc.src[n] ≠ .active k ∧ s.chip.intc.src[n] ≠ .activePending k) →
        (∀ n, s.chip.intc.assigned k = some n → exec (.claim k) s = .next { s with chip := { s.chip with
          intc := { s.chip.intc with src := s.chip.intc.src.set n (.active k) }, readData := [BitVec.ofNat 8 n.val] } }) ∧
        (s.chip.intc.assigned k = none → exec (.claim k) s = .next { s with chip := { s.chip with readData := [0x80] } })) ∧
      (∀ n, s.chip.intc.assigned k = some n → s.chip.intc.src[n] = .pending ∧
        s.chip.intc.cores[k].enable.getLsbD n.val = true ∧ s.chip.intc.cores[k].cpri ≠ 0xFF) ∧
      (∀ n : Fin 128,
        (s.chip.intc.src[n] = .active k → exec (.complete k n) s = .next { s with chip := { s.chip with
          intc := { s.chip.intc with src := s.chip.intc.src.set n .idle } } }) ∧
        (s.chip.intc.src[n] = .activePending k → exec (.complete k n) s = .next { s with chip := { s.chip with
          intc := { s.chip.intc with src := s.chip.intc.src.set n .pending } } }) ∧
        (s.chip.intc.src[n] ≠ .active k → s.chip.intc.src[n] ≠ .activePending k → ∃ u, exec (.complete k n) s = .next u ∧
          u.chip.intc.src = s.chip.intc.src ∧ u.chip.intc.cores[k].err = s.chip.intc.cores[k].err ||| 1)) ∧
      (∀ m, ∃ u, exec (.errClear k m) s = .next u ∧
        u.chip.intc.cores[k] = { s.chip.intc.cores[k] with err := s.chip.intc.cores[k].err &&& ~~~m } ∧
        u.chip.intc.src = s.chip.intc.src ∧ ∀ j, j ≠ k → u.chip.intc.cores[j] = s.chip.intc.cores[j])) ∧
    exec .coalescedRead s = .next { s with chip := { s.chip with
      intc := { s.chip.intc with coalesced := 0 }, readData := leBytes 4 s.chip.intc.coalesced.toNat } }

/-! ### Faults -/

/-- No plan waits to start, none is named by a TURN, and no PART_SET waits: the end of a plan starts no other. -/
def NothingWaits (c : Chip) : Prop :=
  c.partPending = none ∧ (∀ q : Fin 4, c.parts[q].waiting = none) ∧
  ∀ (q : Fin 4) (r : Running), c.run q = some r → r.turn = none

/-- R182-R184, R239, R379-R386: a lost tile goes out of service and raises source 2; an idle spare is lost to the plan that
holds it; a plan that uses the tile, with its alternates bound, is interrupted on the alternate without it, and ends
with a tenant fault where it has none; more than one tile at a time is a module fault. The resume puts back the commit set
and its memory; without a sound copy the plan ends. A codeword of a link is sent again at most four times; the fifth failure
takes a spare lane, or is a module fault without one. -/
def Obligations.LossesInterruptAndReplay : Prop :=
  ∀ (s : State), s.chip.power = .running →
    (∀ (t : Fin 68) (det : Byte), t ∉ s.chip.faults.tilesOut → det ≠ 6 →
      (s.chip.tilePart t = none → ∃ u, exec (.tileLossDetect [t] det) s = .next u ∧ u.mem = s.mem ∧ u.pending = s.pending ∧
        u.chip.faults.tilesOut = t :: s.chip.faults.tilesOut ∧ u.chip.tenants = s.chip.tenants ∧
        (∀ p : Fin 4, u.chip.run p = (s.chip.run p).map fun r =>
          if r.plan.binding.spares.contains t then r.loseSpare t else r) ∧
        (∀ (p : Fin 4) r, s.chip.run p = some r → r.plan.binding.spares.contains t = true → p ∈ u.chip.placer.rebinds) ∧
        (s.chip.intc.src[2] = .idle → u.chip.intc.src[2] = .pending)) ∧
      (∀ p r, s.chip.tilePart t = some p → s.chip.run p = some r →
        (∀ (q : Fin 4) x, s.chip.run q = some x → t ∉ x.plan.binding.spares) →
        let alternate := r.plan.binding.without (t :: s.chip.faults.tilesOut) t
        let bound := r.altsReady = true ∧ ∀ x ∈ r.spareLost, dieOf x ≠ dieOf t
        (∀ b, bound → alternate = some b →
          ∃ u, exec (.tileLossDetect [t] det) s = .next u ∧
            u.chip.run p = some ((r.interrupt s.chip.drone.now det (s.chip.tileSrc t.val) none).switchTo t b) ∧
            u.mem = s.mem ∧ u.pending = s.pending ∧ p ∈ u.chip.placer.rebinds ∧
            u.chip.faults.tilesOut = t :: s.chip.faults.tilesOut ∧ u.chip.tenants = s.chip.tenants ∧
            (s.chip.intc.src[2] = .idle → u.chip.intc.src[2] = .pending) ∧
            ∀ q, q ≠ p → u.chip.run q = s.chip.run q) ∧
        (NothingWaits s.chip → ¬ bound ∨ alternate = none →
          ∃ u, exec (.tileLossDetect [t] det) s = .next u ∧ u.pending = s.pending ∧ u.chip.run p = none ∧
            u.chip.tenants[r.plan.tenant].fault = true ∧ u.chip.faults.tilesOut = t :: s.chip.faults.tilesOut))) ∧
    (∀ (p : Fin 4) r i, s.chip.run p = some r → r.intr = some i →
      (∀ x, (i.ue.filter UeRead.lost) = none → replaySource r.commits = some x → x.pt.coll = none →
        (∀ q : Fin 16, s.chip.ports[q].waiting = []) →
        ∃ u y, exec (.interruptionResume p) s = .next u ∧ u.chip.run p = some y ∧ y.intr = none ∧ y.ctx = x.pt.ctx ∧
          y.step = x.pt.step ∧ y.inPrologue = x.pt.inPrologue ∧ y.build = x.pt.build ∧ y.plan = r.plan ∧ y.commits = x.rest ∧
          u.mem = (s.mem.putAll x.undo).heal (x.undo.map fun u => wordOf u.1) ∧
          u.pending = s.pending ∧
          u.chip.tenants[r.plan.tenant] = s.chip.tenants[r.plan.tenant].rewind r.plan.req.isSome (x.live r) ∧
          u.chip.faults.intrCount = s.chip.faults.intrCount + 1) ∧
      (∀ x, i.ue = some x → x.lost = true → NothingWaits s.chip →
        ∃ u, exec (.interruptionResume p) s = .next u ∧ u.pending = s.pending ∧ u.chip.run p = none ∧
          u.chip.tenants[r.plan.tenant].fault = true ∧ u.chip.memObj.lastUeOutcome = 0x0030)) ∧
    (∀ (l : Fin 8) (raw : List Byte),
      let known := { s.chip.faults with resends := s.chip.faults.resends.set l 0 }
      (linkVerdict raw = .clean → exec (.linkCodewordResend ⟨l, raw⟩) s = .next { s with chip := { s.chip with faults := known } }) ∧
      (∀ x, linkVerdict raw = .corrected x → exec (.linkCodewordResend ⟨l, raw⟩) s = .next { s with chip := { s.chip with
        faults := known
        memObj := { s.chip.memObj with ceLink := s.chip.memObj.ceLink + 1 }
        mram := { s.chip.mram with ceLifetime := s.chip.mram.ceLifetime + 1 } } }) ∧
      (linkVerdict raw = .uncorrectable → s.chip.faults.resends[l] < 4 →
        exec (.linkCodewordResend ⟨l, raw⟩) s = .next { s with chip := { s.chip with
          faults := { s.chip.faults with resends := s.chip.faults.resends.set l (s.chip.faults.resends[l] + 1) }
          memObj := { s.chip.memObj with resendLink := s.chip.memObj.resendLink + 1 } } }) ∧
      (linkVerdict raw = .uncorrectable → 4 ≤ s.chip.faults.resends[l] → exec (.linkCodewordResend ⟨l, raw⟩) s = .next s)) ∧
    (∀ (l : Fin 8),
      (s.chip.faults.resends[l] < 4 → ∀ q, exec (.laneLoss l q) s = .next s) ∧
      (4 ≤ s.chip.faults.resends[l] →
        (s.chip.faults.spareUsed[l] < 2 → ∃ u, exec (.laneLoss l none) s = .next u ∧
          u.chip.faults.spareUsed[l] = s.chip.faults.spareUsed[l] + 1 ∧ u.chip.faults.resends[l] = 0 ∧
          (s.chip.intc.src[3] = .idle → u.chip.intc.src[3] = .pending) ∧ u.mem = s.mem ∧ u.pending = s.pending ∧
          u.chip.parts = s.chip.parts ∧ u.chip.tenants = s.chip.tenants) ∧
        (∀ p r, s.chip.faults.spareUsed[l] < 2 → s.chip.run p = some r → r.altsReady = true →
          ∃ u r', exec (.laneLoss l (some p)) s = .next u ∧ u.chip.run p = some r' ∧ r'.intr.isSome = true ∧
            r' = { r with intr := r'.intr } ∧ u.chip.faults.spareUsed[l] = s.chip.faults.spareUsed[l] + 1 ∧
            u.chip.faults.resends[l] = 0 ∧ u.mem = s.mem ∧ u.pending = s.pending) ∧
        (2 ≤ s.chip.faults.spareUsed[l] → ∀ q, ∃ u, exec (.laneLoss l q) s = .next u ∧ u.chip.faults.mfault = true))) ∧
    (∀ t t' det, t ≠ t' → t ∉ s.chip.faults.tilesOut → t' ∉ s.chip.faults.tilesOut →
      ∃ u, exec (.tileLossDetect [t, t'] det) s = .next u ∧ u.chip.faults.mfault = true)

/-- R230, R238, R240-R243, R388, R389: a plan's read of an uncorrectable codeword raises source 1 and is counted, and
interrupts the plan unless its alternates are being rebound or it replays; a corrected one is counted and the plan goes
on. A host's uncorrectable read carries no data. An address that no tier has is no access of the module's. A tenant
fault ends the plan, puts back its commit set and leaves its tenant FAULTED; a module fault leaves no plan running and
every tenant FAULTED. -/
def Obligations.UncorrectableReadsAndFaultsStopPlans : Prop :=
  ∀ (s : State),
    (∀ (p : Fin 4) (w : MemAt) (err : BitVec 288) (rest sound : Bool),
      let run := exec (.uncorrectableRead p ⟨w, err, rest⟩ sound) s
      let met := match wordAt w with
        | some k => s.mem.flaw k ^^^ err
        | none => err
      let mem := match rest, wordAt w with
        | true, some k => s.mem.strike k err
        | _, _ => s.mem
      (∀ x, absentAt w = some x → run = .fault (.noSuchAddress x.1 x.2)) ∧
      (∀ r, s.chip.power = .running → absentAt w = none → s.chip.run p = some r →
        (errVerdict met = .clean → run = .next { s with mem := mem }) ∧
        (∀ x, errVerdict met = .corrected x → ∃ u, run = .next u ∧ u.mem = mem ∧ u.pending = s.pending ∧
          u.chip.parts = s.chip.parts ∧ u.chip.tenants = s.chip.tenants ∧
          u.chip.mram.ceLifetime = s.chip.mram.ceLifetime + 1) ∧
        (errVerdict met = .uncorrectable → r.altsReady = true → r.replayTo = none →
          ∃ u r', run = .next u ∧ u.chip.run p = some r' ∧ r'.intr.isSome = true ∧
            r' = { r with intr := r'.intr } ∧ u.mem = mem ∧ u.pending = s.pending ∧
            (s.chip.intc.src[1] = .idle → u.chip.intc.src[1] = .pending) ∧
            u.chip.mram.ueLifetime = s.chip.mram.ueLifetime + 1 ∧ u.chip.tenants = s.chip.tenants ∧
            ∀ q, q ≠ p → u.chip.run q = s.chip.run q) ∧
        (errVerdict met = .uncorrectable → r.altsReady = false → NothingWaits s.chip →
          ∃ u, run = .next u ∧ u.chip.run p = none ∧ u.pending = s.pending ∧
            u.chip.tenants[r.plan.tenant].fault = true ∧ u.chip.memObj.lastUeOutcome = 0x0030))) ∧
    (∀ (t1 : Bool) (addr : BitVec 48) (err : BitVec 288) (rest : Bool),
      let run := exec (.hostUncorrectableRead t1 ⟨addr, err, rest⟩) s
      let k := wordOf (t1, addr.toNat)
      let mem := if rest then s.mem.strike k err else s.mem
      (addr.toNat < (if t1 then 576000000000 else 1024000000000) → s.chip.power = .running →
        (errVerdict (s.mem.flaw k ^^^ err) = .clean → run = .next { s with mem := mem }) ∧
        (∀ x, errVerdict (s.mem.flaw k ^^^ err) = .corrected x → ∃ u, run = .next u ∧ u.mem = mem ∧ u.pending = s.pending ∧
          u.chip.mram.ceLifetime = s.chip.mram.ceLifetime + 1 ∧ u.chip.parts = s.chip.parts ∧ u.chip.tenants = s.chip.tenants) ∧
        (errVerdict (s.mem.flaw k ^^^ err) = .uncorrectable → ∃ u, run = .next u ∧ u.chip.readData = [] ∧ u.mem = mem ∧
          u.pending = s.pending ∧ (s.chip.intc.src[1] = .idle → u.chip.intc.src[1] = .pending) ∧
          u.chip.mram.ueLifetime = s.chip.mram.ueLifetime + 1 ∧ u.chip.parts = s.chip.parts ∧ u.chip.tenants = s.chip.tenants)) ∧
      ((if t1 then 576000000000 else 1024000000000) ≤ addr.toNat →
        run = .fault (.noSuchAddress (if t1 then .t1 else .t2) addr.toNat))) ∧
    (∀ (p : Fin 4) cause r, s.chip.power = .running → s.chip.run p = some r → NothingWaits s.chip →
      ∃ u, exec (.tenantFault p cause) s = .next u ∧ u.chip.run p = none ∧ u.pending = s.pending ∧
        u.mem = (match replaySource r.commits with
          | some x => (s.mem.putAll x.undo).heal (x.undo.map fun u => wordOf u.1)
          | none => s.mem) ∧
        u.chip.tenants[r.plan.tenant].fstate = .faulted ∧ u.chip.tenants[r.plan.tenant].faulted.isSome = true ∧
        u.chip.tenants[r.plan.tenant].fault = true ∧
        u.chip.tenants[r.plan.tenant].slots = [] ∧ u.chip.faults.tfaultCount = s.chip.faults.tfaultCount + 1 ∧
        (s.chip.intc.src[32 + r.plan.tenant.val] = .idle → u.chip.intc.src[32 + r.plan.tenant.val] = .pending) ∧
        (∀ q, q ≠ p → u.chip.run q = s.chip.run q) ∧
        ∀ t, t ≠ r.plan.tenant → u.chip.tenants[t] = s.chip.tenants[t]) ∧
    (∀ unit sound, s.chip.power = .running →
      (s.chip.faults.mfault = true → exec (.moduleFault unit sound) s = .next (s.on fun c => c.raise 2)) ∧
      (s.chip.faults.mfault = false → ∃ u, exec (.moduleFault unit sound) s = .next u ∧
        u.chip.faults.mfault = true ∧ (∀ p : Fin 4, u.chip.run p = none) ∧ u.pending = s.pending ∧
        (∀ t : Fin 16, s.chip.isTenant t = true → u.chip.tenants[t].fault = true) ∧
        (s.chip.intc.src[2] = .idle → u.chip.intc.src[2] = .pending)))

/-! ### Calibration, scrub and droop -/

/-- R192, R194, R245, R246, R250, R383: a calibration window trims its unit and puts it back within margin; one within an
interruption or an emergency is deferred, counted, and raises source 11. A tile whose cells fail their test goes out of
service. A unit outside its margin is guarded or derated until its next window. -/
def Obligations.CalibrationWindowsTrim : Prop :=
  ∀ (s : State), s.chip.power = .running →
    let good := fun (x : CalState) =>
      ({ last := s.chip.drone.now, honoured := true, trims := x.trims + 1, limited := false } : CalState)
    (s.chip.deferred = false →
      (∀ k, exec (.hbmRetrainingWindow k) s = .next { s with chip := { s.chip with
        calPc := s.chip.calPc.set k (good s.chip.calPc[k]) } }) ∧
      (∀ k, exec (.dqsTrackingWindow k) s = .next { s with chip := { s.chip with
        calDqs := s.chip.calDqs.set k (good s.chip.calDqs[k]) } }) ∧
      (∀ k, exec (.zqCalibrationWindow k) s = .next { s with chip := { s.chip with
        calZq := s.chip.calZq.set k (good s.chip.calZq[k]) } })) ∧
    (∀ (i : Fin 77), s.chip.islandDeferred i = false →
      let trimmed := s.on fun c => { c with calIsl := c.calIsl.set i (good c.calIsl[i]) }
      (68 ≤ i.val → ∀ pass, exec (.islandClockCalibration i pass) s = .next trimmed) ∧
      (∀ t : Fin 68, t.val = i.val →
        exec (.islandClockCalibration i true) s = .next (trimmed.on fun c => c.testPassed t) ∧
        (t ∈ s.chip.faults.tilesOut → exec (.islandClockCalibration i false) s = .next trimmed) ∧
        (t ∉ s.chip.faults.tilesOut →
          ∃ u, exec (.islandClockCalibration i false) s = .next u ∧ t ∈ u.chip.faults.tilesOut ∧ u.pending = s.pending ∧
            (NothingWaits s.chip → ∀ x ∈ s.chip.sp[t].users, u.chip.tenants[x].fault = true)))) ∧
    (s.chip.deferred = true → ∀ (k : Fin 384) (p : Fin 16),
      ∃ a b c, exec (.hbmRetrainingWindow k) s = .next a ∧ exec (.dqsTrackingWindow p) s = .next b ∧
        exec (.zqCalibrationWindow p) s = .next c ∧
        a.chip.calPc = s.chip.calPc ∧ a.chip.memObj.caldefT1 = s.chip.memObj.caldefT1 + 1 ∧
        b.chip.calDqs = s.chip.calDqs ∧ b.chip.memObj.caldefDqs = s.chip.memObj.caldefDqs + 1 ∧
        c.chip.calZq = s.chip.calZq ∧ c.chip.memObj.caldefZq = s.chip.memObj.caldefZq + 1 ∧
        ∀ u ∈ [a, b, c], u.mem = s.mem ∧ u.pending = s.pending ∧ u.chip.parts = s.chip.parts ∧
          (s.chip.intc.src[11] = .idle → u.chip.intc.src[11] = .pending)) ∧
    (∀ (i : Fin 77) (pass : Bool), s.chip.islandDeferred i = true →
      ∃ d, exec (.islandClockCalibration i pass) s = .next d ∧
        d.chip.calIsl = s.chip.calIsl ∧ d.chip.objs.islCaldef = s.chip.objs.islCaldef + 1 ∧
        d.mem = s.mem ∧ d.pending = s.pending ∧ d.chip.parts = s.chip.parts ∧
        (s.chip.intc.src[11] = .idle → d.chip.intc.src[11] = .pending)) ∧
    (∀ (k : Fin 384) (moved : Bool), s.chip.calPc[k].limited = false →
      (moved = true ∨ 1000000000 < (s.chip.drone.now - s.chip.calPc[k].last).toNat) →
      ∃ u, exec (.guardedModeEnter (.hbmPc k) moved) s = .next u ∧
        u.chip.calPc = s.chip.calPc.set k { s.chip.calPc[k] with limited := true } ∧
        u.chip.memObj.guardCount = s.chip.memObj.guardCount + 1 ∧ u.mem = s.mem ∧ u.chip.parts = s.chip.parts) ∧
    (∀ (p : Fin 16) (moved : Bool), s.chip.calDqs[p].limited = false →
      (moved = true ∨ 100000000 < (s.chip.drone.now - s.chip.calDqs[p].last).toNat) →
      ∃ u, exec (.guardedModeEnter (.dqs p) moved) s = .next u ∧
        u.chip.calDqs = s.chip.calDqs.set p { s.chip.calDqs[p] with limited := true } ∧
        u.chip.memObj.guardCount = s.chip.memObj.guardCount + 1 ∧ u.mem = s.mem ∧ u.chip.parts = s.chip.parts) ∧
    (∀ (p : Fin 16) (moved : Bool), s.chip.calZq[p].limited = false →
      (moved = true ∨ 1000000000 < (s.chip.drone.now - s.chip.calZq[p].last).toNat) →
      ∃ u, exec (.guardedModeEnter (.zq p) moved) s = .next u ∧
        u.chip.calZq = s.chip.calZq.set p { s.chip.calZq[p] with limited := true } ∧
        u.chip.memObj.guardCount = s.chip.memObj.guardCount + 1 ∧ u.mem = s.mem ∧ u.chip.parts = s.chip.parts) ∧
    (∀ i : Fin 77, s.chip.calIsl[i].limited = false → 1000000000 < (s.chip.drone.now - s.chip.calIsl[i].last).toNat →
      ∃ u, exec (.islandDerate i) s = .next u ∧
        u = { s with chip := { s.chip with calIsl := s.chip.calIsl.set i { s.chip.calIsl[i] with limited := true } } } ∧
        u.chip.mhz i = s.chip.mhz i * 99 / 100)

/-- R237, R238, R244: a scrub of a clean codeword leaves memory; of a corrected one writes it back as corrected and
counts it; of an uncorrectable one leaves it and raises source 1. No scrub changes a byte of another codeword. A codeword as
it is encoded decodes as clean. -/
def Obligations.ScrubRepairsCodewords : Prop :=
  (∀ data : List Byte, data.length = 32 → eccDecode (eccEncode data) = .clean) ∧
  ∀ (s : State) (t1 : Bool) (addr : BitVec 48) (cells path : BitVec 288),
    ((if t1 then 576000000000 else 1024000000000) ≤ addr.toNat →
      exec (.scrubRead t1 addr ⟨cells, path⟩) s = .fault (.noSuchAddress (if t1 then .t1 else .t2) addr.toNat)) ∧
    (addr.toNat < (if t1 then 576000000000 else 1024000000000) → s.chip.power = .running →
      let k := wordOf (t1, addr.toNat)
      let at_ := s.chip.place t1 (32 * k.2)
      let mem := s.mem.strike k cells
      let seen := eccDecode (xorBytes (mem.stored k) (errBytes path))
      (s.chip.mram.scrubEn = false ∨ s.chip.scrubNext t1 at_.1 at_.2 = false →
        exec (.scrubRead t1 addr ⟨cells, path⟩) s = .next s) ∧
      (s.chip.mram.scrubEn = true → s.chip.scrubNext t1 at_.1 at_.2 = true →
        ∃ u, exec (.scrubRead t1 addr ⟨cells, path⟩) s = .next u ∧ u.pending = s.pending ∧ u.chip.parts = s.chip.parts ∧
          u.chip.tenants = s.chip.tenants ∧ (∀ a : PAddr, wordOf a ≠ k → u.mem.byte a = s.mem.byte a) ∧
          (seen = .clean → u.mem = mem ∧ u.chip.mram.ceLifetime = s.chip.mram.ceLifetime) ∧
          (∀ bytes, seen = .corrected bytes → u.chip.mram.ceLifetime = s.chip.mram.ceLifetime + 1 ∧
            u.mem = mem.putStored k bytes ∧
            (eccDecode bytes = .clean → u.mem.flaw k = 0 ∧
              ∀ i b, i < 32 → bytes[i]? = some b → u.mem.byte (k.1, 32 * k.2 + i) = b)) ∧
          (seen = .uncorrectable → u.mem = mem ∧ u.chip.memObj.ueScrub = s.chip.memObj.ueScrub + 1 ∧
            (s.chip.intc.src[1] = .idle → u.chip.intc.src[1] = .pending))))

/-! ### Limiter and power -/

/-- R249, R322-R325: the first quantity at its limit enters EMERGENCY, is counted, asserts THERM_ALERT_N and raises
source 6; each brings its row's set points into force; a step lowers the row's islands further; the exit lifts every
emergency set point. A warning asserts THERM_ALERT_N, and the end of every warning releases it outside EMERGENCY. A droop is
counted by island. -/
def Obligations.LimiterActsByRow : Prop :=
  ∀ (s : State), s.chip.power = .running →
    let pct := s.chip.limiter.emergPct
    let down := s.chip.limiter.emergDown
    (∀ row unit (value : W32), hasLimit row = true → s.chip.limiter.state ≠ .tripped →
      ∃ u, exec (.limiterEmergencyEnter row unit value) s = .next u ∧ u.chip.limiter.state = .emergency ∧
        (row, unit) ∈ u.chip.limiter.causes ∧
        (s.chip.limiter.state = .normal → u.chip.limiter.emergCount = s.chip.limiter.emergCount + 1 ∧
          u.chip.limiter.since = s.chip.drone.now ∧ u.chip.pins.thermAlertN = false ∧
          (s.chip.intc.src[6] = .idle → u.chip.intc.src[6] = .pending)) ∧
        (s.chip.limiter.state = .emergency → u.chip.limiter.emergCount = s.chip.limiter.emergCount ∧
          u.chip.limiter.since = s.chip.limiter.since) ∧
        (∀ i : Fin 77, 68 ≤ i.val → u.chip.limiter.emergPct[i] = pct[i]) ∧
        (∀ i : Fin 77, i.val < 68 → u.chip.limiter.emergPct[i] = (match row with
          | .tileTemp => if i.val = unit then min pct[i] 60 else pct[i]
          | .hubTemp => min pct[i] 60
          | .dieCurrent | .vislDroop => if i.val / 17 = unit then min pct[i] 75 else pct[i]
          | .inPower1ms => min pct[i] (capPct s.chip.limiter.capActive.toNat value.toNat)
          | .inPower100us => min pct[i] (capPct 3600 value.toNat)
          | .inCurrent | .vin => min pct[i] 50
          | .hbmTemp | .lpddrTemp | .hostTemp | .vislOver => pct[i])) ∧
        (row = .hbmTemp → unit ∈ u.chip.limiter.halfHbm) ∧ (row = .lpddrTemp → unit ∈ u.chip.limiter.halfLpddr) ∧
        (row = .hostTemp → u.chip.limiter.halfHost = true) ∧ u.mem = s.mem ∧ u.pending = s.pending ∧
        u.chip.parts = s.chip.parts ∧ u.chip.tenants = s.chip.tenants) ∧
    (∀ row unit, s.chip.limiter.state = .emergency → (row, unit) ∈ s.chip.limiter.causes →
      ∃ u, exec (.limiterStepDown row unit) s = .next u ∧ u.mem = s.mem ∧ u.pending = s.pending ∧
        u.chip = { s.chip with limiter := { s.chip.limiter with emergDown := u.chip.limiter.emergDown } } ∧
        ∀ i : Fin 77, u.chip.limiter.emergDown[i] =
          if i.val < 68 ∧ (row = .hubTemp ∨ row = .tileTemp ∧ i.val = unit ∨ row = .dieCurrent ∧ i.val / 17 = unit)
          then min 825 (down[i] + 110) else down[i]) ∧
    (s.chip.limiter.state = .emergency → ∃ u, exec .limiterEmergencyExit s = .next u ∧ u.chip.limiter.state = .normal ∧
      u.chip.limiter.causes = [] ∧ u.chip.limiter.emergPct = Vector.replicate 77 100 ∧
      u.chip.limiter.emergDown = Vector.replicate 77 0 ∧ u.chip.limiter.halfHbm = [] ∧ u.chip.limiter.halfLpddr = [] ∧
      u.chip.limiter.halfHost = false ∧ u.chip.limiter.since = s.chip.drone.now ∧
      u.chip.limiter.emergNs = s.chip.limiter.emergNs + BitVec.ofNat 64 (s.chip.drone.now - s.chip.limiter.since).toNat ∧
      (s.chip.intc.src[6] = .idle → u.chip.intc.src[6] = .pending) ∧
      (u.chip.pins.thermAlertN = true ↔ s.chip.limiter.warns = []) ∧ u.mem = s.mem ∧ u.chip.parts = s.chip.parts) ∧
    (∀ row unit, isTemp row = true → ∃ u, exec (.limiterWarn row unit) s = .next u ∧ (row, unit) ∈ u.chip.limiter.warns ∧
      u.chip.pins.thermAlertN = false ∧ u.chip.limiter.state = s.chip.limiter.state ∧ u.mem = s.mem ∧ u.chip.parts = s.chip.parts) ∧
    (∃ u, exec .warnThresholdClear s = .next u ∧ u.chip.limiter = { s.chip.limiter with warns := [] } ∧
      (s.chip.limiter.state ≠ .emergency → u.chip.pins.thermAlertN = true) ∧
      (s.chip.limiter.state = .emergency → u.chip.pins.thermAlertN = s.chip.pins.thermAlertN) ∧ u.mem = s.mem) ∧
    (∀ (i : Fin 77) (beyond : Bool), ∃ u, exec (.droop i beyond) s = .next u ∧ u.mem = s.mem ∧ u.pending = s.pending ∧
      (i.val < 68 → spGet 0 u.chip.objs.droopTile i.val = spGet 0 s.chip.objs.droopTile i.val + 1) ∧
      (68 ≤ i.val → spGet 0 u.chip.objs.droopHub (i.val - 68) = spGet 0 s.chip.objs.droopHub (i.val - 68) + 1) ∧
      (beyond = false ∨ 68 ≤ i.val → u.chip = { s.chip with objs := u.chip.objs }) ∧
      (beyond = true → i.val < 68 → s.chip.limiter.state = .normal → u.chip.limiter.state = .emergency))

/-- R328-R331, R402, R405-R410: a trip holds the module, counts, and takes PG and ALIVE down; the hold's end and PWR_EN's
rise start a reset, RST_N low begins one and its release ends it in LOAD_WAIT, or FAILED where a configuration record does
not verify; a supply fault runs the module on hold-up and PWR_EN's fall takes the hub's supply. -/
def Obligations.TripsSuppliesAndPinsAct : Prop :=
  ∀ (s : State),
    (∀ row unit value, hasTrip row = true → s.chip.power = .running ∨ s.chip.power = .inReset →
      ∃ u, exec (.limiterTrip row unit value) s = .next u ∧
      u.chip.power = .tripHold ∧ u.chip.limiter.state = .tripped ∧ u.chip.pins.pg = false ∧ u.chip.pins.alive = false ∧
      u.chip.mram.tripCount = s.chip.mram.tripCount + 1 ∧ u.chip.mram.lastTripStamp = s.chip.drone.now ∧
      (s.chip.intc.src[0] = .idle → u.chip.intc.src[0] = .pending) ∧ u.mem = s.mem ∧ u.pending = s.pending) ∧
    (s.chip.power = .tripHold → ∃ u, exec .tripHoldEnd s = .next u ∧ u.chip.power = .inReset ∧ u.pending = s.pending ∧
      (s.chip.limiter.state = .tripped → u.chip.limiter.state = .tripped) ∧
      u.chip.tenants = Vector.replicate 16 Tenant.reset ∧ (∀ p : Fin 4, u.chip.run p = none)) ∧
    (∀ cause vin, s.chip.power = .running → ∃ u, exec (.supplyFault cause vin) s = .next u ∧
      u.chip.power = .holdup s.chip.drone.now ∧ u.chip.pins.holdupN = false ∧ u.chip.pins.pg = false ∧
      u.chip.pins.alive = false ∧ u.chip.mram.supplyFaults = s.chip.mram.supplyFaults + 1 ∧ u.mem = s.mem ∧
      (s.chip.intc.src[7] = .idle → u.chip.intc.src[7] = .pending) ∧ u.pending = s.pending) ∧
    (∀ good, s.chip.power = .running ∨ s.chip.power = .inReset → exec (.supplyLeavesRegulation good) s =
      .next { s with chip := { s.chip with pins := { s.chip.pins with pg := good } } }) ∧
    (∀ t, s.chip.power = .holdup t → exec (.supplyLeavesRegulation true) s = .next s ∧
      ∃ u, exec (.supplyLeavesRegulation false) s = .next u ∧ u.chip.power = .locked ∧
      u.chip.pins.pg = false ∧ u.chip.pins.alive = false ∧ u.mem = s.mem) ∧
    (∀ vin slot low, 40000 ≤ vin.toNat →
      s.chip.power = .off ∨ s.chip.power = .locked ∧ vin.toNat ≤ 60000 ∧ 100 ≤ low →
      ∃ u, exec (.pwrEnRise vin slot low) s = .next u ∧
      u.chip.power = .inReset ∧ u.chip.pins.pwrEn = true ∧ u.chip.pins.pg = true ∧ u.chip.pins.rstN = false ∧
      u.chip.pins.slotId = slot ∧ u.pending = s.pending ∧ u.chip.tenants = Vector.replicate 16 Tenant.reset) ∧
    (∀ vin slot low, vin.toNat < 40000 → exec (.pwrEnRise vin slot low) s =
      .next { s with chip := { s.chip with pins := { s.chip.pins with pwrEn := true } } }) ∧
    (s.chip.power = .running → ∃ u, exec .pwrEnFall s = .next u ∧ u.chip.power = .off ∧ u.chip.pins.pwrEn = false ∧
      u.chip.pins.pg = false ∧ u.chip.pins.alive = false ∧ u.chip.hatband.queue = [] ∧ u.mem = s.mem) ∧
    (∀ us, 0 < us → s.chip.pins.rstN = true → s.chip.pins.pg = true → s.chip.power = .running →
      ∃ u, exec (.rstNAssert us) s = .next u ∧ u.chip.power = .inReset ∧ u.chip.pins.rstN = false ∧
        u.chip.pins.alive = false ∧ u.chip.tenants = Vector.replicate 16 Tenant.reset ∧ u.pending = s.pending) ∧
    (exec (.rstNAssert 0) s = .next s) ∧
    (∀ mj, s.chip.power = .inReset → ∃ u, exec (.rstNRelease mj) s = .next u ∧
      u.chip.power = .running ∧ u.chip.pins.rstN = true ∧ u.chip.pins.alive = true ∧
      u.chip.boot.state = (if s.chip.mram.recordsOk then .loadWait else .failed) ∧
      u.mem = s.mem ∧ u.pending = s.pending)

/-- R195, R196, R318, R326, R327: a cap in range written at operator level is kept and recorded, one out of range or without
the level is refused; a raised one is active at once, a lowered one is applied at once where no plan runs, else waits for
its set points, and is active 2 ms after acceptance. A trace segment that the plan holds sets the island set points of the
plan's islands, never above the segment's and never above 1.1 GHz; a segment that it does not hold changes nothing. -/
def Obligations.PowerCapTakesEffect : Prop :=
  ∀ (s : State), s.chip.power = .running →
    (∀ (r : MReq) (v : Nat), FreshRequest s.chip r → v < 65536 →
      let item : WItem := ⟨⟨0x2000, 0⟩, .u16, leBytes 2 v⟩
      let l := s.chip.limiter
      (s.chip.gate.openTo 1 r.src = true → 1200 ≤ v → v ≤ 3600 → ∃ u x, exec (.capWWrite r item) s = .next u ∧
        Replies s u r 3 0 [x] [] ∧ x.status = 0 ∧ u.chip.mram = { s.chip.mram with capW := BitVec.ofNat 16 v } ∧
        u.chip.hatband.queue.length = s.chip.hatband.queue.length + 1 ∧
        (l.capActive.toNat ≤ v → u.chip.limiter.capActive = BitVec.ofNat 16 v ∧ u.chip.limiter.capJob = none ∧
          u.chip.limiter.capPending = false) ∧
        (v < l.capActive.toNat → (∀ p : Fin 4, s.chip.run p = none) →
          u.chip.limiter = { l with
            capJob := some (BitVec.ofNat 16 v, s.chip.drone.now, true), capPending := false, capApplied := s.chip.drone.now }) ∧
        (v < l.capActive.toNat → (∃ p : Fin 4, s.chip.run p ≠ none) →
          u.chip.limiter = { l with capJob := some (BitVec.ofNat 16 v, s.chip.drone.now, false), capPending := true }) ∧
        u.chip.limiter.traceSet = l.traceSet ∧
        u.mem = s.mem ∧ u.pending = s.pending ∧ u.chip.parts = s.chip.parts ∧ u.chip.tenants = s.chip.tenants) ∧
      (s.chip.gate.openTo 1 r.src = true → (v < 1200 ∨ 3600 < v) → ∃ u x, exec (.capWWrite r item) s = .next u ∧
        Replies s u r 3 0 [x] [] ∧ x.status = 0x0002 ∧ x.reason = 3 ∧ u.chip.mram = s.chip.mram ∧ u.chip.limiter = l) ∧
      (s.chip.gate.openTo 1 r.src = false → ∃ u x, exec (.capWWrite r item) s = .next u ∧ Replies s u r 3 0 [x] [] ∧
        x.status = 0x0070 ∧ u.chip.mram = s.chip.mram ∧ u.chip.limiter = l)) ∧
    (∀ w t, s.chip.limiter.capJob = some (w, t, false) → exec .capSetPointsReady s =
      .next { s with chip := { s.chip with limiter := { s.chip.limiter with capJob := some (w, t, true) } } }) ∧
    (∀ w t ready, s.chip.limiter.capJob = some (w, t, ready) →
      (2000000 ≤ (s.chip.drone.now - t).toNat → ∃ u, exec .capActiveUpdate s = .next u ∧ u.chip.limiter.capActive = w ∧
        u.chip = { s.chip with limiter := u.chip.limiter } ∧ u.mem = s.mem ∧ u.pending = s.pending) ∧
      ((s.chip.drone.now - t).toNat < 2000000 → exec .capActiveUpdate s = .next s)) ∧
    (∀ (p : Fin 4) (seg : W32) (r : Running), s.chip.run p = some r →
      let entry := r.plan.fig.segment (if r.inPrologue then 0xFFFFFFFF else r.step) seg
      (entry = none → exec (.powerTraceSegment p seg) s = .next s) ∧
      (∀ x, entry = some x → ∃ u, exec (.powerTraceSegment p seg) s = .next u ∧
        u.chip.run p = some { r with seg := some x } ∧ (∀ q, q ≠ p → u.chip.run q = s.chip.run q) ∧
        (∀ i ∈ s.chip.planIslands p, u.chip.limiter.traceSet[i] ≤ x.fset[i].toNat ∧ u.chip.limiter.traceSet[i] ≤ 1100 ∧
          (68 ≤ i.val → s.chip.limiter.lowered = none → u.chip.limiter.traceSet[i] = min x.fset[i].toNat 1100)) ∧
        (∀ i, i ∉ s.chip.planIslands p → u.chip.limiter.traceSet[i] = s.chip.limiter.traceSet[i]) ∧
        u.mem = s.mem ∧ u.pending = s.pending ∧ u.chip.tenants = s.chip.tenants))

/-! ### Bore ports -/

/-- R268-R270, R276-R278: a link takes an idle port with a cable to HELLO, and its end takes a port in HELLO or MISMATCH to
DOWN; a HELLO is sent when due, with ACKED once the partner's was seen, and one received with ACKED at a common version
takes the port to UP, none common to MISMATCH; LIVE is sent when due and keeps a port UP, 50 µs without it or GOING_DOWN
lose the port; PORT_EN disables and enables. -/
def Obligations.PortsComeUpAndGo : Prop :=
  ∀ (s : State) (p : Fin 16), s.chip.power = .running →
    let x := s.chip.ports[p]
    let now := s.chip.drone.now
    (exec (.cablePresentChange p true) s = .next { s with chip := s.chip.modPort p fun y => { y with cable := true } }) ∧
    (x.state = .hello ∨ x.state = .mismatch → ∃ u v, exec (.cablePresentChange p false) s = .next u ∧
      exec (.phyLinkDown p) s = .next v ∧ u.chip.ports[p].state = .down ∧ u.chip.ports[p].cable = false ∧
      v.chip.ports[p].state = .down ∧ v.chip.ports[p].cable = x.cable ∧ u.mem = s.mem ∧ v.mem = s.mem ∧
      (∀ q, q ≠ p → u.chip.ports[q] = s.chip.ports[q] ∧ v.chip.ports[q] = s.chip.ports[q])) ∧
    (x.state = .down → x.cable = true → ∃ u, exec (.phyLinkUp p) s = .next u ∧ u.chip.ports[p].state = .hello ∧
      u.chip.ports[p].peer = none ∧ u.mem = s.mem ∧ u.pending = s.pending ∧
      (s.chip.intc.src[56 + p.val] = .idle → u.chip.intc.src[56 + p.val] = .pending) ∧
      ∀ q, q ≠ p → u.chip.ports[q] = s.chip.ports[q]) ∧
    (x.state = .hello →
      (x.helloDue.toNat ≤ now.toNat → ∃ hdr h, exec (.helloSend p) s = .next { s with chip := (s.chip.modPort p fun y =>
          { y with tx := y.tx ++ [.hello hdr h], helloDue := now + 100000, lastTx := now }) } ∧
        hdr.ver = 0 ∧ hdr.hostAbsent = s.chip.driver.hostAbsent ∧ hdr.goingDown = false ∧ hdr.portDown = false ∧
        h.serial = s.chip.mram.serial ∧ h.modnum = s.chip.modNum ∧ h.port.toNat = p.val ∧ h.acked = x.peer.isSome ∧
        h.vmin = s.chip.vmin ∧ h.vmax = s.chip.vmax ∧ h.hwgen = s.chip.mram.hwgen ∧ h.tsend = now) ∧
      (now.toNat < x.helloDue.toNat → exec (.helloSend p) s = .next s) ∧
      ∀ (hdr : BoreHdr) (h : Hello), ∃ u, exec (.helloReceive p ⟨hdr, h⟩) s = .next u ∧ u.chip.ports[p].peer = some h ∧
        (∀ ver, ver = min s.chip.vmax.toNat h.vmax.toNat →
          (ver < s.chip.vmin.toNat ∨ ver < h.vmin.toNat → u.chip.ports[p].state = .mismatch) ∧
          (s.chip.vmin.toNat ≤ ver → h.vmin.toNat ≤ ver →
            (h.acked = true → u.chip.ports[p].state = .up ∧ u.chip.ports[p].ver = BitVec.ofNat 16 ver ∧
              u.chip.ports[p].ackn = 0 ∧ u.chip.ports[p].peerCredit = hdr.credit ∧
              u.chip.ports[p].peerAbsent = hdr.hostAbsent ∧ u.chip.ports[p].lastLive = now) ∧
            (h.acked = false → u.chip.ports[p].state = .hello))) ∧
        u.mem = s.mem ∧ u.pending = s.pending ∧ ∀ q, q ≠ p → u.chip.ports[q] = s.chip.ports[q]) ∧
    (x.state = .up →
      (x.liveDue.toNat ≤ now.toNat → ∃ h, exec (.liveSend p) s = .next { s with chip := (s.chip.modPort p fun y =>
          { y with
            tx := y.tx ++ [.live h s.chip.modNum (BitVec.ofNat 8 p.val) now], nakOwed := false, ackOwed := false
            lastTx := now, liveDue := now + 10000 }) } ∧
        h.ackn = x.ackn ∧ h.nak = x.nakOwed ∧ h.credit = x.credit ∧ h.hostAbsent = s.chip.driver.hostAbsent ∧
        h.goingDown = false ∧ h.portDown = false) ∧
      (now.toNat < x.liveDue.toNat → exec (.liveSend p) s = .next s) ∧
      (∀ h, plainHdr h → ∃ u, exec (.liveReceive p h) s = .next u ∧ u.chip.ports[p].state = .up ∧
        u.chip.ports[p].lastLive = now ∧ u.chip.ports[p].peerCredit = h.credit ∧ u.mem = s.mem ∧
        u.pending = s.pending ∧ ∀ q, q ≠ p → u.chip.ports[q] = s.chip.ports[q]) ∧
      (∀ h : BoreHdr, h.nak = false → h.hostAbsent = false → h.goingDown = true → s.chip.groups = [] →
        ∃ u, exec (.liveReceive p h) s = .next u ∧ u.chip.ports[p].state = .down ∧ u.pending = s.pending) ∧
      (50000 ≤ (now - x.lastLive).toNat → s.chip.groups = [] → ∃ u, exec (.liveTimeout p) s = .next u ∧
        u.chip.ports[p].state = .down ∧ u.chip.ports[p].loss = x.loss + 1 ∧ u.pending = s.pending) ∧
      ((now - x.lastLive).toNat < 50000 → exec (.liveTimeout p) s = .next s)) ∧
    (∀ (r : MReq) (v : W16), FreshRequest s.chip r → s.chip.gate.openTo 1 r.src = true →
      ∃ u y, exec (.portEnWrite r ⟨⟨0x5200, 0⟩, .u16, leBytes 2 v.toNat⟩) s = .next u ∧ Replies s u r 3 0 [y] [] ∧
        y.status = 0 ∧ u.chip.mram.portEn = v ∧ u.mem = s.mem ∧ u.pending = s.pending ∧
        ∀ q : Fin 16, (v.getLsbD q.val = false → u.chip.ports[q].state = .disabled) ∧
          (v.getLsbD q.val = true → s.chip.ports[q].state = .disabled → u.chip.ports[q].state = .down) ∧
          (v.getLsbD q.val = true → s.chip.ports[q].state ≠ .disabled → u.chip.ports[q].state = s.chip.ports[q].state))

/-- R273-R275, R279, R289, R291: DATA is accepted in PSN order; a frame with bad check sums is discarded and counted, a gap
owes one NAK; acknowledgements are sent when owed and release retained hops; what is not acknowledged for 4 µs is sent
again, and after the 16th send the port is lost; an ABORT of a group of whose collectives none is in progress here marks it
ended; no progress limit acts before it is due; RESUME sends a retained frame again with REPLAY. -/
def Obligations.PortsDeliverInOrder : Prop :=
  ∀ (s : State) (p : Fin 16), s.chip.power = .running → s.chip.ports[p].state = .up →
    let x := s.chip.ports[p]
    let now := s.chip.drone.now
    (∀ f : DataFrame, f.sound = true ↔ f.fcsOk = true ∧ f.hchk = crc32c f.pkt.front) ∧
    (∀ f : DataFrame, f.sound = false →
      exec (.dataReceive p f) s = .next { s with chip := s.chip.modPort p fun y => { y with discard := y.discard + 1 } }) ∧
    (∀ f : DataFrame, f.sound = true → plainHdr f.hdr →
      (f.psn = x.ackn → x.waiting.length < 64 → ∃ s1 : State, exec (.dataReceive p f) s = .next s1.consumeAll ∧
        s1.chip.ports[p].ackn = x.ackn + 1 ∧ s1.chip.ports[p].ackOwed = true ∧ s1.mem = s.mem ∧ s1.pending = s.pending ∧
        (s.chip.delivers p f = true → s1.chip.ports[p].waiting = x.waiting ++ [f]) ∧
        (s.chip.delivers p f = false → s1.chip.ports[p].waiting = x.waiting ∧ s1.chip.ports[p].discard = x.discard + 1) ∧
        ∀ q, q ≠ p → s1.chip.ports[q] = s.chip.ports[q]) ∧
      (f.psn ≠ x.ackn → (f.psn - x.ackn).toNat < 2147483648 → x.gap = false → (∀ q : Fin 16, s.chip.ports[q].waiting = []) →
        ∃ u, exec (.dataReceive p f) s = .next u ∧ u.chip.ports[p].ackn = x.ackn ∧ u.chip.ports[p].nakOwed = true ∧
          u.chip.ports[p].gap = true ∧ u.mem = s.mem ∧ u.pending = s.pending ∧
          ∀ q, q ≠ p → u.chip.ports[q] = s.chip.ports[q])) ∧
    (∀ h, plainHdr h → ∀ b : HopRef, ∃ u, exec (.ackReceive p h (some b)) s = .next u ∧ u.mem = s.mem ∧
      u.pending = s.pending ∧ u.chip.ports[p].peerCredit = h.credit ∧
      u.chip.groups = s.chip.groups.map (fun g => if g.grp = b.grp then
        { g with retained := g.retained.filter fun y => !(decide (y.hop = b) && g.lists p y.dst.toNat) } else g) ∧
      ∀ q, q ≠ p → u.chip.ports[q] = s.chip.ports[q]) ∧
    (∀ h f, plainHdr h → x.unacked = [(f, 1)] → h.ackn = f.psn + 1 → ∃ u, exec (.ackReceive p h none) s = .next u ∧
      u.chip.ports[p].unacked = [] ∧ u.mem = s.mem ∧ u.chip.groups = s.chip.groups) ∧
    (x.ackOwed = true ∨ x.nakOwed = true → 1000 ≤ (now - x.lastTx).toNat → ∃ h, exec (.ackSend p) s =
        .next { s with chip := (s.chip.modPort p fun y =>
          { y with tx := y.tx ++ [.ack h none], nakOwed := false, ackOwed := false, lastTx := now }) } ∧
      h.ackn = x.ackn ∧ h.nak = x.nakOwed) ∧
    (∀ f n, x.unacked = [(f, n)] → 1 ≤ n → 1 ≤ x.peerCredit.toNat → 4000 ≤ (now - x.ackMoved).toNat →
      (n < 16 → ∃ u, exec (.resendTimeout p) s = .next u ∧ u.chip.ports[p].unacked = [(f, n + 1)] ∧
        u.chip.ports[p].resend = x.resend + 1 ∧ u.chip.ports[p].tx.length = x.tx.length + 1 ∧ u.mem = s.mem ∧
        u.pending = s.pending ∧ ∀ q, q ≠ p → u.chip.ports[q] = s.chip.ports[q]) ∧
      (16 ≤ n → s.chip.groups = [] → ∃ u, exec (.resendTimeout p) s = .next u ∧ u.chip.ports[p].state = .down ∧
        u.chip.ports[p].loss = x.loss + 1 ∧ u.pending = s.pending)) ∧
    (∀ h b g, plainHdr h → s.chip.group b.grp = some g → g.dead = false → p ∈ g.allPorts →
      (b.sqn - g.sqn).toNat < 2147483648 → (∀ q, s.chip.busyWith g q = false) → s.chip.tenants[g.ten].fetches = [] →
      ∃ u g', exec (.abortReceive p h b) s = .next u ∧ u.chip.group b.grp = some g' ∧ g'.dead = true ∧ u.mem = s.mem ∧
        u.pending = s.pending ∧ u.chip.parts = s.chip.parts ∧ u.chip.bore.peerLost = s.chip.bore.peerLost + 1) ∧
    (∀ h b g y q, plainHdr h → s.chip.group b.grp = some g → g.dead = false → g.retained = [y] → y.hop = b →
      g.lists p y.dst.toNat = true → (if y.frame.kind = 0x10 then g.portsTo y.dst.toNat else maskPorts g.next) = [q] →
      s.chip.ports[q].state = .up →
      ∃ u f, exec (.resumeReceive p h b) s = .next u ∧ u.chip.ports[q].unacked.getLast? = some f ∧
        f.1.pkt.replay = true ∧ f.1.elems = y.frame.elems ∧ u.mem = s.mem ∧ u.pending = s.pending ∧
        u.chip.groups = s.chip.groups) ∧
    (∀ grp g, s.chip.group grp = some g → s.chip.stalled g = false → exec (.progressTimeout grp) s = .next s) ∧
    (∀ e k fec, ∃ u, exec (.boreFrameDiscard p e ⟨k, fec⟩) s = .next u ∧ u.chip.ports[p] =
        { x with
          fecCorr := satAdd x.fecCorr fec.1, fecUncorr := satAdd x.fecUncorr fec.2
          discard := if (e = s.chip.objs.ethertypeNow ∨ e = 0x88F7) ∧ k = true then x.discard else x.discard + 1 } ∧
      (∀ q, q ≠ p → u.chip.ports[q] = s.chip.ports[q]) ∧ u.mem = s.mem ∧ u.pending = s.pending)

/-- R276, R279, R280: an ABORT, PROGRESS_TO without a frame for a group in use, and the loss of the last UP port toward a
partner mark every group concerned as ended; where a running plan has a collective or transfer of the group in progress, its
plan ends with a tenant fault. -/
def Obligations.LostPartnersEndGroups : Prop :=
  ∀ (s : State), s.chip.power = .running →
    let ended := fun (u : State) (grp : BitVec 12) => ∃ g', u.chip.group grp = some g' ∧ g'.dead = true
    let faulted := fun (u : State) (g : Group) => NothingWaits s.chip → ∀ q r, s.chip.run q = some r →
      s.chip.busyWith g q = true → u.chip.run q = none ∧ u.chip.tenants[r.plan.tenant].fault = true
    (∀ (p : Fin 16) h b g, s.chip.ports[p].state = .up → plainHdr h → s.chip.group b.grp = some g →
      g.dead = false → p ∈ g.allPorts → (b.sqn - g.sqn).toNat < 2147483648 →
      ∃ u, exec (.abortReceive p h b) s = .next u ∧ ended u b.grp ∧ faulted u g ∧ u.pending = s.pending) ∧
    (∀ grp g, s.chip.group grp = some g → s.chip.stalled g = true →
      ∃ u, exec (.progressTimeout grp) s = .next u ∧ ended u grp ∧ (g.dead = false → faulted u g) ∧ u.pending = s.pending) ∧
    (∀ (p : Fin 16) (h : Hello) grp g, s.chip.ports[p].state = .up → s.chip.ports[p].peer = some h →
      50000 ≤ (s.chip.drone.now - s.chip.ports[p].lastLive).toNat → s.chip.group grp = some g → p ∈ g.allPorts →
      (∀ q, q ≠ p → s.chip.leadsTo h.serial q = true → s.chip.ports[q].state ≠ .up) →
      ∃ u, exec (.liveTimeout p) s = .next u ∧ ended u grp ∧ u.chip.ports[p].state = .down ∧ u.pending = s.pending)

/-! ### Time -/

/-- R260-R262, R265: a Sync of the selected master in the module's domain takes a FREE or HOLDOVER Drone to ACQUIRE; a
one-step Sync corrects it at once, a two-step one with its Follow_Up; before the first LOCKED an offset beyond 1 ms behind
the master is one forward step, recorded, and every other correction at most 500 ppm. The 16th Sync in a row within the
LOCK_THR in force locks, the 16th beyond it leaves LOCKED; four missed intervals of a locked Drone leave HOLDOVER. The best
Announce selects the slave port; Syncs and delay messages are sent when due, delay requests answered, answers taken. A
port's asymmetry is free (notes/assumptions/109.md). -/
def Obligations.DroneFollowsItsMaster : Prop :=
  ∀ (s : State) (p : Fin 16), s.chip.ptpOn p = true →
    let x := s.chip.ports[p]
    let now := s.chip.drone.now
    let d := s.chip.drone
    let dom := s.chip.objs.ptpDomainNow
    let off := fun (received : Stamp) (sent : Int) => (received.toNat : Int) - sent - x.pathDelay - Config.asymmetry p
    let steps := fun (o : Int) => d.everLocked = false ∧ o < -1000000
    let corrected := fun (o : Int) (u : State) => u.chip.drone.offset = o ∧ u.mem = s.mem ∧ u.pending = s.pending ∧
      u.chip.parts = s.chip.parts ∧
      (steps o → u.chip.drone.now = now + BitVec.ofNat 64 o.natAbs ∧ u.chip.drone.lastStep = u.chip.drone.now ∧
        u.chip.drone.stepNs = BitVec.ofNat 64 o.natAbs) ∧
      (¬ steps o → u.chip.drone.now = now ∧ u.chip.drone.stepNs = d.stepNs ∧
        -500000000 ≤ u.chip.drone.freqAdj ∧ u.chip.drone.freqAdj ≤ 500000000)
    (d.slavePort = some p →
      (∀ m : PtpSync, m.domain = dom →
        (m.oneStep = false → ∃ u, exec (.ptpSyncReceive p m) s = .next u ∧
          (d.state = .free ∨ d.state = .holdover → u.chip.drone.state = .acquire ∧
            (s.chip.intc.src[10] = .idle → u.chip.intc.src[10] = .pending)) ∧
          (d.state = .acquire ∨ d.state = .locked → u.chip.drone.state = d.state) ∧
          u.chip.ports[p].lastSync = some (m.seqId, now, m.correction) ∧ u.chip.drone.lastSyncAt = now ∧
          u.chip.objs.lockThrNow = s.chip.mram.lockThr ∧ u.chip.objs.logSyncNow = s.chip.mram.logSync ∧
          u.chip.drone.now = now ∧ u.mem = s.mem ∧ u.pending = s.pending) ∧
        (m.oneStep = true → ∃ u, exec (.ptpSyncReceive p m) s = .next u ∧
          corrected (off now (m.origin.toNat + m.correction)) u ∧ u.chip.ports[p].lastSync = none)) ∧
      (∀ (m : PtpSync), m.domain ≠ dom → exec (.ptpSyncReceive p m) s = .next s) ∧
      (∀ seq received corr (origin : Stamp) (more : Int), x.lastSync = some (seq, received, corr) →
        let o := off received (origin.toNat + corr + more)
        ∃ u, exec (.ptpFollowUpReceive p ⟨dom, seq⟩ ⟨origin, more⟩) s = .next u ∧ corrected o u ∧
          u.chip.ports[p].lastSync = none ∧ u.chip.ports[p].syncPair = some (origin.toNat + corr + more, received) ∧
          (d.state = .acquire → o.natAbs ≤ s.chip.objs.lockThrNow.toNat → 15 ≤ d.inRun → u.chip.drone.state = .locked) ∧
          (d.state = .locked → s.chip.objs.lockThrNow.toNat < o.natAbs → 15 ≤ d.outRun →
            u.chip.drone.state = .acquire)) ∧
      (∀ seq received corr, x.peerDelay = false → x.delaySeq = seq →
        (∀ sent at_, x.syncPair = some (sent, at_) → exec (.ptpDelayRespReceive p ⟨dom, seq⟩ ⟨received, corr⟩) s =
          .next { s with chip := s.chip.modPort p fun y => { y with
            pathDelay := (((at_.toNat : Int) - sent) + ((received.toNat : Int) - corr - x.delayAt.toNat)) / 2 } }) ∧
        (x.syncPair = none → exec (.ptpDelayRespReceive p ⟨dom, seq⟩ ⟨received, corr⟩) s = .next s))) ∧
    (x.ptpRole = .master →
      (∀ seq src, exec (.ptpDelayReqReceive p ⟨dom, seq⟩ src) s = .next { s with chip := s.chip.modPort p fun y =>
        { y with tx := y.tx ++ [.ptpDelayResp seq src now] } }) ∧
      (x.syncDue.toNat ≤ now.toNat → ∃ u, exec (.ptpSyncSend p) s = .next u ∧
        u.chip.ports[p].tx = x.tx ++ (s.chip.announces.map TxFrame.ptpAnnounce).toList ++
          [.ptpSync x.ptpSeq now, .ptpFollowUp x.ptpSeq now] ∧
        u.chip.ports[p].ptpSeq = x.ptpSeq + 1 ∧ u.mem = s.mem ∧ u.pending = s.pending ∧
        ∀ q, q ≠ p → u.chip.ports[q] = s.chip.ports[q]) ∧
      (now.toNat < x.syncDue.toNat → exec (.ptpSyncSend p) s = .next s)) ∧
    (x.ptpRole = .slave ∨ x.peerDelay = true → x.delayReqDue.toNat ≤ now.toNat →
      ∃ u, exec (.ptpDelayReqSend p) s = .next u ∧
        u.chip.ports[p].tx = x.tx ++
          [if x.peerDelay then .ptpPdelayReq (x.delaySeq + 1) now else .ptpDelayReq (x.delaySeq + 1) now] ∧
        u.chip.ports[p].delaySeq = x.delaySeq + 1 ∧ u.chip.ports[p].delayAt = now ∧ u.mem = s.mem ∧ u.pending = s.pending) ∧
    (∀ seq src, exec (.ptpPdelayReqReceive p ⟨dom, seq⟩ src) s = .next { s with chip := s.chip.modPort p fun y =>
      { y with peerDelay := true, tx := y.tx ++ [.ptpPdelayResp seq src now] } }) ∧
    (∀ seq turn, x.peerDelay = true → x.delaySeq = seq → exec (.ptpPdelayRespReceive p ⟨dom, seq⟩ turn) s =
      .next { s with chip := s.chip.modPort p fun y =>
        { y with pathDelay := (((now - x.delayAt).toNat : Int) - turn) / 2 } }) ∧
    (∀ a : PtpAnnounce, a.domain ≠ dom → exec (.ptpAnnounceReceive p a) s = .next s) ∧
    (∀ a : PtpAnnounce, a.domain = dom →
      ((∀ q, q ≠ p → s.chip.ports[q].announce = none) → ∃ u, exec (.ptpAnnounceReceive p a) s = .next u ∧
        u.chip.drone.slavePort = some p ∧ u.chip.drone.gmId = a.gm ∧ u.chip.ports[p].ptpRole = .slave ∧
        u.chip.ports[p].announce = some a ∧ (d.state = .holdover → u.chip.drone.state = .acquire) ∧
        (∀ q, q ≠ p → s.chip.ptpOn q = true → u.chip.ports[q].ptpRole = .master) ∧ u.mem = s.mem ∧ u.pending = s.pending) ∧
      (∀ q b, q ≠ p → s.chip.ptpOn q = true → s.chip.ports[q].announce = some b →
        (∀ o, o ≠ p → o ≠ q → s.chip.ports[o].announce = none) → ∃ u, exec (.ptpAnnounceReceive p a) s = .next u ∧
          (keyLess (announceKey a) (announceKey b) = true → u.chip.drone.slavePort = some p) ∧
          (keyLess (announceKey b) (announceKey a) = true → u.chip.drone.slavePort = some q))) ∧
    (4 * s.chip.syncNs ≤ (now - d.lastSyncAt).toNat → ∃ u, exec .ptpMasterLost s = .next u ∧
      u.chip.drone.slavePort = none ∧ (∀ q : Fin 16, u.chip.ports[q].ptpRole = .listening) ∧
      (d.state = .locked → u.chip.drone.state = .holdover ∧ u.chip.drone.holdoverSince = now) ∧
      (d.state = .free → u.chip.drone.state = .free) ∧ u.mem = s.mem ∧ u.pending = s.pending)

/-! ### The management network -/

/-- R357-R371: IDENTIFY answers with its six objects; a READ with the object's value, or the first ground of refusal that
applies; a WRITE sets its object and is recorded; SEGREAD gives a part of a value, SEGWRITE stages one; HBREAD returns at
most three records at operator level; an unknown OP is refused. -/
def Obligations.RequestsAreServed : Prop :=
  ∀ (s : State) (r : MReq), FreshRequest s.chip r →
    let counted := s.chip.received73
    (∃ u xs, exec (.identify r) s = .next u ∧ Replies s u r 1 0 xs [] ∧
      xs.map RespItem.obj = [⟨0x1000, 0⟩, ⟨0x5401, 0⟩, ⟨0x5500, 0⟩, ⟨0x1000, 1⟩, ⟨0x1000, 2⟩, ⟨0x6000, 0⟩] ∧
      (∀ x ∈ xs, x.status = 0) ∧ xs.map RespItem.value = xs.map (fun x =>
        match objFind x.obj with
        | some (row, k) => counted.objRead row k
        | none => []) ∧ u.mem = s.mem ∧ u.pending = s.pending ∧ u.chip.mram = s.chip.mram) ∧
    (∀ o, ∃ u x, exec (.read r [o]) s = .next u ∧ Replies s u r 2 0 [x] [] ∧ x.obj = o ∧ u.mem = s.mem ∧
      u.pending = s.pending ∧ u.chip.mram = s.chip.mram ∧ u.chip.tenants = s.chip.tenants ∧
      (objFind o = none → x.status = 0x0002 ∧ x.reason = 1) ∧
      (∀ row k, objFind o = some (row, k) →
        (s.chip.gate.openTo row.level r.src = false → x.status = 0x0070) ∧
        (s.chip.gate.openTo row.level r.src = true →
          (row.dir = .wo → x.status = 0x0002 ∧ x.reason = 4) ∧
          (row.dir ≠ .wo → (counted.objRead row k).length ≤ 64 → x.status = 0 ∧ x.value = counted.objRead row k) ∧
          (row.dir ≠ .wo → 64 < (counted.objRead row k).length →
            x.status = 0x0002 ∧ x.reason = 5 ∧ x.len = (counted.objRead row k).length)))) ∧
    (∀ v : W16, s.chip.gate.openTo 1 r.src = true → ∃ u x, exec (.write r [⟨⟨0x5401, 0⟩, .u16, leBytes 2 v.toNat⟩]) s = .next u ∧
      Replies s u r 3 0 [x] [] ∧ x.status = 0 ∧ u.chip.mram = { s.chip.mram with moduleNum := v } ∧
      u.chip.objs.moduleNumNow = s.chip.objs.moduleNumNow ∧
      u.chip.hatband.queue.length = s.chip.hatband.queue.length + 1 ∧ u.mem = s.mem ∧ u.pending = s.pending) ∧
    (∀ (off len : W32), 1 ≤ len.toNat → len.toNat ≤ 960 → off.toNat + len.toNat ≤ s.chip.mram.idCert.length →
      ∃ u x, exec (.segread r ⟨0x1010, 0⟩ off len) s = .next u ∧ Replies s u r 4 0 [x] [] ∧ x.status = 0 ∧
        x.value = (s.chip.mram.idCert.drop off.toNat).take len.toNat ∧ u.mem = s.mem ∧ u.pending = s.pending) ∧
    (∀ bs : List Byte, 1 ≤ bs.length → bs.length ≤ 960 → s.chip.gateClosed = false → s.chip.mgmt.stagingOf r.src = none →
      ∃ u x st, exec (.segwrite r ⟨⟨0x8001, 2⟩, .blob, bs⟩ 0 16608 false) s = .next u ∧ Replies s u r 5 0 [x] [] ∧
        x.status = 0 ∧ u.chip.mgmt.stagingOf r.src = some st ∧ st.total = 16608 ∧
        (∀ i b, bs[i]? = some b → alGet st.bytes i = some b) ∧ u.mem = s.mem ∧ u.pending = s.pending ∧
        u.chip.mram = s.chip.mram) ∧
    (∀ (area : Byte) (since : W64),
      (s.chip.gate.openTo 1 r.src = false → ∃ u, exec (.hbread r area since) s = .next u ∧ Replies s u r 6 0x0070 [] []) ∧
      (s.chip.gate.openTo 1 r.src = true → area.toNat ≤ 2 → ∃ u recs, exec (.hbread r area since) s = .next u ∧
        Replies s u r 6 0 [] recs ∧ recs.length ≤ 3 ∧
        (∀ x ∈ recs, since.toNat ≤ x.hb.hseq.toNat ∧
          ((area ≠ 1 ∧ x ∈ s.chip.hatband.gen) ∨ (area ≠ 0 ∧ x ∈ s.chip.hatband.crit))) ∧
        u.chip.hatband = s.chip.hatband ∧ u.mem = s.mem ∧ u.pending = s.pending)) ∧
    (∀ op : Byte, (∀ k : Nat, 1 ≤ k → k ≤ 6 → op ≠ BitVec.ofNat 8 k) → ∃ u, exec (.mgmtUnknownOp r op) s = .next u ∧
      Replies s u r op 0x0002 [] [] ∧ u.mem = s.mem ∧ u.pending = s.pending ∧ u.chip.mram = s.chip.mram)

/-- R354-R356, R362, R363, R366, R367, R371: a full queue and a repeated request are answered without doing anything
again; kept responses and stagings expire; a heartbeat is numbered and sent; solicitations, echo requests and the
duplicate test are answered by RFC; PLCA's state follows the beacon; what is discarded is counted. -/
def Obligations.AgentAnswersTheSegment : Prop :=
  ∀ (s : State), s.chip.power = .running →
    (∀ r : MReq, s.chip.hears r.src = true →
      (∃ u, exec (.mgmtQueueFull r) s = .next u ∧ Replies s u r 0 0x0002 [] [] ∧ u.chip.mram = s.chip.mram ∧ u.mem = s.mem ∧
        u.pending = s.pending ∧ u.chip.tenants = s.chip.tenants) ∧
      (∀ x, s.chip.keptOf r = some x → ∃ u, exec (.mgmtRetry r) s = .next u ∧
        u.chip.mgmt.tx = s.chip.mgmt.tx ++ [.response r.src x] ∧ u.chip.mgmt.kept = s.chip.mgmt.kept ∧
        u.chip.mram = s.chip.mram ∧ u.mem = s.mem ∧ u.pending = s.pending)) ∧
    (∃ u, exec .responseCacheExpiry s = .next u ∧ u.mem = s.mem ∧ u.pending = s.pending ∧
      u.chip = { s.chip with mgmt := { s.chip.mgmt with kept := u.chip.mgmt.kept } } ∧
      ∀ x, x ∈ u.chip.mgmt.kept ↔ x ∈ s.chip.mgmt.kept ∧ (s.chip.drone.now - x.2.2).toNat < 5000000000) ∧
    (∀ who st, s.chip.mgmt.stagingOf who = some st →
      (10000000000 ≤ (s.chip.drone.now - st.since).toNat → ∃ u, exec (.segwriteStagingExpiry who) s = .next u ∧
        u.chip.mgmt.stagingOf who = none ∧ u.mem = s.mem ∧ u.pending = s.pending) ∧
      ((s.chip.drone.now - st.since).toNat < 10000000000 → exec (.segwriteStagingExpiry who) s = .next s)) ∧
    (s.chip.mgmt.plcaNode ≠ 0 →
      (s.chip.mgmt.addr = .usable → s.chip.mgmt.hbDue.toNat ≤ s.chip.drone.now.toNat →
        ∃ u h, exec .heartbeatSend s = .next u ∧ u.chip.mgmt.tx = s.chip.mgmt.tx ++ [h] ∧
        u.chip.mgmt.hbseq = s.chip.mgmt.hbseq + 1 ∧
        u.chip.mgmt.hbDue = s.chip.drone.now + BitVec.ofNat 64 (s.chip.mram.hbMs.toNat * 1000000) ∧ u.mem = s.mem ∧
        u.pending = s.pending ∧ u.chip = { s.chip with mgmt := u.chip.mgmt }) ∧
      (s.chip.mgmt.addr = .usable → ∀ src id seq data, exec (.echoRequest src id seq data) s = .next { s with chip := { s.chip with
        mgmt := { s.chip.mgmt with tx := s.chip.mgmt.tx ++ [.echoReply src id seq data] } } }) ∧
      (s.chip.mgmt.addr = .usable → ∀ src, exec (.mgmtDatagramDiscard src true) s = .next { s with chip := { s.chip with
        mgmt := { s.chip.mgmt with tx := s.chip.mgmt.tx ++ [.unreachable src] } } }) ∧
      (∀ src, exec (.mgmtDatagramDiscard src false) s = .next { s with chip := { s.chip with
        mgmt := { s.chip.mgmt with rxDrop := s.chip.mgmt.rxDrop + 1 } } }) ∧
      (s.chip.mgmt.addr ≠ .tentative → ∀ src, ∃ u, exec (.neighbourSolicitation src s.chip.mgmtAddr) s = .next u ∧
        u.chip.mgmt.tx = s.chip.mgmt.tx ++ [.advert src s.chip.mgmtAddr] ∧ src ∈ u.chip.mgmt.neighbours ∧ u.mem = s.mem ∧
        u.pending = s.pending) ∧
      (s.chip.mgmt.addr = .tentative →
        (∃ u, exec (.duplicateAddressDetection false) s = .next u ∧ u.chip.mgmt.addr = .usable ∧
          u.chip.mgmt.hbseq = s.chip.mgmt.hbseq + 1 ∧ u.mem = s.mem ∧ u.pending = s.pending) ∧
        (∃ u, exec (.duplicateAddressDetection true) s = .next u ∧ u.chip.mgmt.addr = .duplicate ∧
          u.chip.mgmt.tx = s.chip.mgmt.tx ∧ u.mem = s.mem) ∧
        ∀ src, ∃ u, exec (.neighbourAdvertisement src s.chip.mgmtAddr) s = .next u ∧ u.chip.mgmt.addr = .duplicate ∧
          u.mem = s.mem) ∧
      (s.chip.mgmt.addr = .usable → ∀ src target, ∃ u, exec (.neighbourAdvertisement src target) s = .next u ∧
        src ∈ u.chip.mgmt.neighbours ∧ u.chip.mgmt.addr = .usable ∧ u.mem = s.mem) ∧
      exec .plcaBeaconSeen s = .next { s with chip := { s.chip with mgmt := { s.chip.mgmt with plcaState := true } } } ∧
      exec .plcaBeaconLost s = .next { s with chip := { s.chip with mgmt := { s.chip.mgmt with plcaState := false } } })

/-- R340, R348-R352, R375: the right password opens operator level to its requester and clears FAIL_COUNT, a wrong one
adds 1, and the fifth in a row closes the gate; a challenge's nonce is used up by its response, valid for 60 s; CLOSE and
900 s without an item close levels; DEBUG_EN clears every key slot; an accepted rotation is staged. A commit moves
Hatband's oldest queued record into its area. -/
def Obligations.GateOpensAndCloses : Prop :=
  ∀ (s : State), s.chip.power = .running →
    (∀ r : MReq, FreshRequest s.chip r →
      (s.chip.mram.failCount.toNat < 5 →
        (∀ pw : List Byte, Config.pwDigest s.chip.mram.serial pw = s.chip.mram.pwDigest →
          ∃ u x, exec (.password r ⟨⟨0x8002, 0⟩, .blob, pw⟩) s = .next u ∧ Replies s u r 3 0 [x] [] ∧ x.status = 0 ∧
            u.chip.gate.operator = some ⟨r.src, s.chip.drone.now⟩ ∧ u.chip.mram.failCount = 0 ∧
            (s.chip.intc.src[12] = .idle → u.chip.intc.src[12] = .pending) ∧ u.mem = s.mem ∧ u.pending = s.pending) ∧
        (∀ pw : List Byte, Config.pwDigest s.chip.mram.serial pw ≠ s.chip.mram.pwDigest →
          ∃ u x, exec (.password r ⟨⟨0x8002, 0⟩, .blob, pw⟩) s = .next u ∧ Replies s u r 3 0 [x] [] ∧ x.status = 0x0071 ∧
            u.chip.mram.failCount = s.chip.mram.failCount + 1 ∧
            (s.chip.mram.failCount = 4 → u.chip.gateClosed = true ∧ u.chip.mram.lockoutNs = 3600000000000) ∧
            u.chip.gate.operator = s.chip.gate.operator ∧ u.mem = s.mem ∧ u.pending = s.pending) ∧
        (∀ level : Byte, level = 2 ∨ level = 3 → ∃ u x, exec (.chalLevel r ⟨⟨0x8001, 0⟩, .u8, [level]⟩) s = .next u ∧
          Replies s u r 3 0 [x] [] ∧ x.status = 0 ∧
          u.chip.gate.chal = some (Config.random s.chip.drawn, level, s.chip.drone.now) ∧ u.mem = s.mem ∧
          u.pending = s.pending ∧ u.chip.mram = s.chip.mram) ∧
        (∀ n level t v, s.chip.gate.chal = some (n, level, t) → level = 2 ∨ level = 3 →
          ∃ u x, exec (.chalResp r v) s = .next u ∧ Replies s u r 5 0 [x] [] ∧ u.chip.gate.chal = none ∧ u.mem = s.mem ∧
            u.pending = s.pending ∧
            ((s.chip.drone.now - t).toNat < 60000000000 → v.rsaOk = true → v.slhOk = true → x.status = 0 ∧
              u.chip.gate.service = some ⟨r.src, s.chip.drone.now⟩ ∧ u.chip.mram.failCount = 0 ∧
              (level = 3 → u.chip.gate.vendor = some ⟨r.src, s.chip.drone.now⟩)) ∧
            (60000000000 ≤ (s.chip.drone.now - t).toNat ∨ v.rsaOk = false ∨ v.slhOk = false → x.status = 0x0071 ∧
              u.chip.mram.failCount = s.chip.mram.failCount + 1))) ∧
      (5 ≤ s.chip.mram.failCount.toNat → ∀ pw : List Byte, ∃ u x, exec (.password r ⟨⟨0x8002, 0⟩, .blob, pw⟩) s = .next u ∧
        Replies s u r 3 0 [x] [] ∧ x.status = 0x0070 ∧ u.chip.gate = s.chip.gate ∧ u.chip.mram = s.chip.mram) ∧
      (∀ pw : List Byte, s.chip.gate.openTo 1 r.src = true → 8 ≤ pw.length → pw.length ≤ 64 →
        ∃ u x, exec (.newPassword r ⟨⟨0x8002, 1⟩, .blob, pw⟩) s = .next u ∧ Replies s u r 3 0 [x] [] ∧ x.status = 0 ∧
          u.chip.mram = { s.chip.mram with pwDigest := Config.pwDigest s.chip.mram.serial pw } ∧ u.mem = s.mem ∧
          u.pending = s.pending) ∧
      (∃ u x, exec (.close r ⟨⟨0x8003, 0⟩, .u8, [0]⟩) s = .next u ∧ Replies s u r 3 0 [x] [] ∧ x.status = 0 ∧
        u.chip.gate.operator = none ∧ u.chip.gate.service = none ∧ u.chip.gate.vendor = none ∧ u.mem = s.mem ∧
        u.pending = s.pending) ∧
      (s.chip.gate.openTo 2 r.src = true → s.chip.gate.debugPort = false →
        ∃ u x, exec (.debugEn r ⟨⟨0x8004, 0⟩, .bool, [1]⟩) s = .next u ∧ Replies s u r 3 0 [x] [] ∧ x.status = 0 ∧
          u.chip.gate.debugPort = true ∧ (∀ t : Fin 16, u.chip.tenants[t].keys = Vector.replicate 8 .empty ∧
            u.chip.tenants[t].windows = s.chip.tenants[t].windows) ∧ u.mem = s.mem ∧ u.pending = s.pending) ∧
      (∀ rec : RotRecord, s.chip.gate.openTo 3 r.src = true →
        (rec.curOk = true → rec.newOk = true → rec.carriedOk = true → rec.matchOk = true →
          s.chip.mram.keyIndex.toNat < rec.newIndex.toNat → rec.newIndex.toNat ≤ 3 → ∃ u x, exec (.rotate r rec) s = .next u ∧
            Replies s u r 5 0 [x] [] ∧ x.status = 0 ∧ u.chip.mram = { s.chip.mram with staged := some (rec.newIndex, rec.cert, rec.records) } ∧
            u.mem = s.mem ∧ u.pending = s.pending) ∧
        (rec.curOk = false ∨ rec.newOk = false ∨ rec.carriedOk = false ∨ rec.matchOk = false ∨
            rec.newIndex.toNat ≤ s.chip.mram.keyIndex.toNat ∨ 3 < rec.newIndex.toNat → ∃ u x, exec (.rotate r rec) s = .next u ∧
          Replies s u r 5 0 [x] [] ∧ x.status = 0x0071 ∧ u.chip.mram = s.chip.mram))) ∧
    (∀ n level t, s.chip.gate.chal = some (n, level, t) → 60000000000 ≤ (s.chip.drone.now - t).toNat →
      exec .challengeNonceExpiry s = .next { s with chip := { s.chip with gate := { s.chip.gate with chal := none } } }) ∧
    (∀ x, s.chip.gate.service = some x → 900000000000 ≤ (s.chip.drone.now - x.last).toNat →
      ∃ u, exec (.levelIdleTimeout 2) s = .next u ∧ u.chip.gate = { s.chip.gate with service := none } ∧
        (s.chip.intc.src[12] = .idle → u.chip.intc.src[12] = .pending) ∧ u.mem = s.mem ∧ u.pending = s.pending) ∧
    (5 ≤ s.chip.mram.failCount.toNat → s.chip.mram.lockoutNs = 0 → exec .lockoutExpiry s =
      .next { s with chip := { s.chip with mram := { s.chip.mram with failCount := 0 } } }) ∧
    (∀ x rest, s.chip.hatband.queue = x :: rest → s.chip.hatband.dropsNow = none →
      ∃ u, exec .hatbandCommit s = .next u ∧ u.chip.hatband.queue = rest ∧ u.mem = s.mem ∧ u.pending = s.pending ∧
        u.chip = { s.chip with hatband := u.chip.hatband } ∧
        (x.critical = true → u.chip.hatband.crit.getLast? = some ⟨x, false, false⟩ ∧ u.chip.hatband.gen = s.chip.hatband.gen) ∧
        (x.critical = false → u.chip.hatband.gen.getLast? = some ⟨x, false, false⟩ ∧
          u.chip.hatband.crit = s.chip.hatband.crit))
end

