-- ==== Sys2Proof/Laws/Memory.lean ====
section
/-! SUPPORT. Laws of sparse arrays and of the memory tiers: a read after a write, and that every operation on
the tiers keeps their canonical form. -/

namespace Sys2Proof.Machine

variable {α : Type}

theorem spGet_append {d : α} {k : Nat} : ∀ {m n : List (Nat × α)}, (∀ e ∈ m, e.1 ≠ k) → spGet d (m ++ n) k = spGet d n k
  | [], _, _ => rfl
  | (j, v) :: m, n, h => by
    have : j ≠ k := h (j, v) List.mem_cons_self
    simp [spGet, this, spGet_append fun e he => h e (List.mem_cons_of_mem _ he)]

theorem spGet_absent {d : α} {k : Nat} {m : List (Nat × α)} (h : ∀ e ∈ m, e.1 ≠ k) : spGet d m k = d := by
  have := spGet_append (d := d) (n := []) h
  simpa [spGet] using this

/-- A read of the key written gives the value written. -/
theorem spGet_spSet_same [DecidableEq α] {d : α} {k : Nat} {v : α} {m : List (Nat × α)} : spGet d (spSet d k v m) k = v := by
  unfold spSet
  rw [spGet_append (by intro e he; simp at he; omega)]
  split
  · next hv => rw [hv, spGet_absent (by intro e he; simp at he; omega)]
  · simp [spGet]

theorem spGet_filter {d : α} {k : Nat} {f : Nat × α → Bool} (hf : ∀ v, f (k, v) = true) : ∀ {m : List (Nat × α)},
    spGet d (m.filter f) k = spGet d m k
  | [] => rfl
  | (j, v) :: m => by
    by_cases hj : j = k
    · subst hj; simp [hf, spGet]
    · by_cases h : f (j, v) = true <;> simp [h, spGet, hj, spGet_filter hf]

/-- A write leaves every other key as it was. -/
theorem spGet_spSet_ne [DecidableEq α] {d : α} {k i : Nat} {v : α} (hi : i ≠ k) {m : List (Nat × α)} :
    spGet d (spSet d k v m) i = spGet d m i := by
  have key : ∀ n : List (Nat × α), spGet d (if v = d then n else (k, v) :: n) i = spGet d n i := by
    intro n; split
    · rfl
    · simp [spGet, hi.symm]
  by_cases h : i < k
  · have h2 : spGet d (m.filter fun e => decide (k < e.1)) i = d :=
      spGet_absent (by intro e he; simp at he; omega)
    have h1 := spGet_filter (d := d) (k := i) (f := fun e => decide (e.1 < k)) (fun _ => by simpa using h) (m := m)
    rw [← h1]
    have app : ∀ a n : List (Nat × α), spGet d n i = d → spGet d (a ++ n) i = spGet d a i := by
      intro a n hn
      induction a with
      | nil => simpa [spGet] using hn
      | cons x a ih => obtain ⟨j, w⟩ := x; simp only [List.cons_append, spGet, ih]
    unfold spSet
    exact app _ _ ((key _).trans h2)
  · unfold spSet
    rw [spGet_append (by intro e he; simp at he; omega), key,
      spGet_filter (by intro v; simp; omega)]

theorem spWfFrom_mono [DecidableEq α] {d : α} : ∀ {m : List (Nat × α)} {lo lo' : Nat}, lo' ≤ lo → spWfFrom d lo m = true → spWfFrom d lo' m = true
  | [], _, _, _, _ => rfl
  | (j, v) :: m, lo, lo', h, hm => by
    simp only [spWfFrom, Bool.and_eq_true, decide_eq_true_eq] at hm ⊢
    exact ⟨⟨by omega, hm.1.2⟩, hm.2⟩

theorem spWfFrom_filter [DecidableEq α] {d : α} {f : Nat × α → Bool} : ∀ {m : List (Nat × α)} {lo : Nat}, spWfFrom d lo m = true →
    spWfFrom d lo (m.filter f) = true
  | [], _, _ => rfl
  | (j, v) :: m, lo, h => by
    simp only [spWfFrom, Bool.and_eq_true, decide_eq_true_eq] at h
    obtain ⟨⟨h1, h2⟩, h3⟩ := h
    by_cases hf : f (j, v) = true
    · simp only [List.filter_cons, hf, if_true, spWfFrom, Bool.and_eq_true, decide_eq_true_eq]
      exact ⟨⟨h1, h2⟩, spWfFrom_filter h3⟩
    · simp only [List.filter_cons, hf]
      exact spWfFrom_filter (spWfFrom_mono (by omega) h3)

theorem spWfFrom_raise [DecidableEq α] {d : α} : ∀ {m : List (Nat × α)} {lo lo' : Nat}, (∀ e ∈ m, lo' ≤ e.1) → spWfFrom d lo m = true →
    spWfFrom d lo' m = true
  | [], _, _, _, _ => rfl
  | (j, v) :: m, lo, lo', h, hm => by
    simp only [spWfFrom, Bool.and_eq_true, decide_eq_true_eq] at hm ⊢
    exact ⟨⟨h (j, v) List.mem_cons_self, hm.1.2⟩, hm.2⟩

theorem spWfFrom_append [DecidableEq α] {d : α} {k : Nat} {n : List (Nat × α)} (hn : spWfFrom d k n = true) : ∀ {m : List (Nat × α)} {lo : Nat},
    (∀ e ∈ m, e.1 < k) → lo ≤ k → spWfFrom d lo m = true → spWfFrom d lo (m ++ n) = true
  | [], _, _, hlo, _ => spWfFrom_mono hlo hn
  | (j, v) :: m, lo, h, _, hm => by
    simp only [List.cons_append, spWfFrom, Bool.and_eq_true, decide_eq_true_eq] at hm ⊢
    have := h (j, v) List.mem_cons_self
    exact ⟨hm.1, spWfFrom_append hn (fun e he => h e (List.mem_cons_of_mem _ he)) this hm.2⟩

/-- A write keeps the canonical form. -/
theorem spWf_spSet [DecidableEq α] {d : α} {k : Nat} {v : α} {m : List (Nat × α)} (h : spWf d m = true) :
    spWf d (spSet d k v m) = true := by
  have hi : spWfFrom d (k + 1) (m.filter fun e => decide (k < e.1)) = true :=
    spWfFrom_raise (by intro e he; simp at he; omega) (spWfFrom_filter h)
  unfold spWf spSet
  refine spWfFrom_append (k := k) ?_ (by intro e he; simp at he; omega) (Nat.zero_le k) (spWfFrom_filter h)
  split
  · exact spWfFrom_mono (Nat.le_succ k) hi
  · next hv => simp only [spWfFrom, Bool.and_eq_true, decide_eq_true_eq]; exact ⟨⟨le_refl k, hv⟩, hi⟩

/-! ### The tiers -/

theorem Mem.wf_iff {m : Mem} : m.wf = true ↔
    spWf unlistedByte m.tier1 = true ∧ spWf unlistedByte m.tier2 = true ∧ spWf 0 m.flaw1 = true ∧ spWf 0 m.flaw2 = true := by
  simp [Mem.wf, and_assoc]

theorem Mem.wf_put {m : Mem} {a : PAddr} {v : Byte} (h : m.wf = true) : (m.put a v).wf = true := by
  rw [Mem.wf_iff] at h ⊢
  unfold Mem.put
  split
  · exact ⟨spWf_spSet h.1, h.2⟩
  · exact ⟨h.1, spWf_spSet h.2.1, h.2.2⟩

theorem Mem.wf_setFlaw {m : Mem} {k : PAddr} {e : BitVec 288} (h : m.wf = true) : (m.setFlaw k e).wf = true := by
  rw [Mem.wf_iff] at h ⊢
  unfold Mem.setFlaw
  split
  · exact ⟨h.1, h.2.1, spWf_spSet h.2.2.1, h.2.2.2⟩
  · exact ⟨h.1, h.2.1, h.2.2.1, spWf_spSet h.2.2.2⟩

@[simp] theorem Mem.byte_put_same {m : Mem} {a : PAddr} {v : Byte} : (m.put a v).byte a = v := by
  unfold Mem.put Mem.byte
  by_cases ha : a.1 = true <;> simp [ha, spGet_spSet_same]

theorem Mem.byte_put_ne {m : Mem} {a b : PAddr} {v : Byte} (hab : b ≠ a) : (m.put a v).byte b = m.byte b := by
  unfold Mem.put Mem.byte
  by_cases ha : a.1 = true <;> by_cases hb : b.1 = true
  · have : b.2 ≠ a.2 := fun e => hab (Prod.ext (by rw [ha, hb]) e)
    simp [ha, hb, spGet_spSet_ne this]
  · simp [ha, hb]
  · simp [ha, hb]
  · have : b.2 ≠ a.2 := fun e => hab (Prod.ext (by simp_all) e)
    simp [ha, hb, spGet_spSet_ne this]

@[simp] theorem Mem.byte_setFlaw {m : Mem} {k a : PAddr} {e : BitVec 288} : (m.setFlaw k e).byte a = m.byte a := by
  unfold Mem.setFlaw Mem.byte; (repeat' split) <;> rfl

@[simp] theorem Mem.flaw_put {m : Mem} {a k : PAddr} {v : Byte} : (m.put a v).flaw k = m.flaw k := by
  unfold Mem.put Mem.flaw; (repeat' split) <;> rfl

@[simp] theorem Mem.flaw_setFlaw_same {m : Mem} {k : PAddr} {e : BitVec 288} : (m.setFlaw k e).flaw k = e := by
  unfold Mem.setFlaw Mem.flaw
  by_cases hk : k.1 = true <;> simp [hk, spGet_spSet_same]

@[simp] theorem Mem.sound_put {m : Mem} {a : PAddr} {v : Byte} : (m.put a v).sound = m.sound := by
  unfold Mem.put Mem.sound; split <;> rfl

theorem Mem.wf_foldl {β : Type} {f : Mem → β → Mem} (hf : ∀ m x, m.wf = true → (f m x).wf = true) :
    ∀ (l : List β) (m : Mem), m.wf = true → (l.foldl f m).wf = true
  | [], _, h => h
  | x :: l, m, h => Mem.wf_foldl hf l (f m x) (hf m x h)

theorem Mem.wf_putAll {m : Mem} {ws : List (PAddr × Byte)} (h : m.wf = true) : (m.putAll ws).wf = true :=
  Mem.wf_foldl (fun _ _ hm => Mem.wf_put hm) ws m h

theorem Mem.wf_apply {m : Mem} {w : MemWrite} (h : m.wf = true) : (m.apply w).wf = true := Mem.wf_put h

theorem Mem.wf_heal {m : Mem} {ks : List PAddr} (h : m.wf = true) : (m.heal ks).wf = true := by
  unfold Mem.heal
  split
  · exact h
  · exact Mem.wf_foldl (fun _ _ hm => Mem.wf_setFlaw hm) ks m h

theorem Mem.wf_applyAll {m : Mem} {ws : List MemWrite} (h : m.wf = true) : (m.applyAll ws).wf = true := by
  unfold Mem.applyAll
  split
  · exact Mem.wf_foldl (fun _ _ hm => Mem.wf_apply hm) ws m h
  · exact Mem.wf_heal (Mem.wf_foldl (fun _ _ hm => Mem.wf_apply hm) _ _ h)

theorem Mem.wf_putStored {m : Mem} {k : PAddr} {raw : List Byte} (h : m.wf = true) : (m.putStored k raw).wf = true := by
  unfold Mem.putStored
  split
  · exact Mem.wf_setFlaw h
  · exact Mem.wf_setFlaw (Mem.wf_putAll h)
  · exact Mem.wf_setFlaw (Mem.wf_putAll h)

theorem Mem.wf_strike {m : Mem} {k : PAddr} {e : BitVec 288} (h : m.wf = true) : (m.strike k e).wf = true := by
  unfold Mem.strike
  split
  · exact h
  · exact Mem.wf_putStored h

theorem Mem.wf_zero {m : Mem} {t1 : Bool} {lo hi : Nat} (h : m.wf = true) : (m.zero t1 lo hi).wf = true := by
  rw [Mem.wf_iff] at h ⊢
  unfold Mem.zero
  split
  · exact ⟨spWfFrom_filter h.1, h.2.1, spWfFrom_filter h.2.2.1, h.2.2.2⟩
  · exact ⟨h.1, spWfFrom_filter h.2.1, h.2.2.1, spWfFrom_filter h.2.2.2⟩

/-- Writes leave every byte outside them as it was. -/
theorem Mem.byte_foldl_apply {b : PAddr} : ∀ (ws : List MemWrite) (m : Mem), (∀ w ∈ ws, w.addr ≠ b) →
    (ws.foldl Mem.apply m).byte b = m.byte b
  | [], _, _ => rfl
  | w :: ws, m, h => by
    rw [List.foldl_cons, Mem.byte_foldl_apply ws _ fun x hx => h x (List.mem_cons_of_mem _ hx)]
    exact Mem.byte_put_ne fun e => h w List.mem_cons_self e.symm

@[simp] theorem Mem.byte_heal {m : Mem} {ks : List PAddr} {a : PAddr} : (m.heal ks).byte a = m.byte a := by
  unfold Mem.heal
  split
  · rfl
  · have : ∀ (l : List PAddr) (m : Mem), (l.foldl (fun m k => m.setFlaw k 0) m).byte a = m.byte a := by
      intro l
      induction l with
      | nil => intro m; rfl
      | cons x xs ih => intro m; rw [List.foldl_cons, ih]; simp
    exact this ks m

theorem Mem.byte_applyAll_outside {m : Mem} {ws : List MemWrite} {b : PAddr} (h : ∀ w ∈ ws, w.addr ≠ b) :
    (m.applyAll ws).byte b = m.byte b := by
  unfold Mem.applyAll
  split
  · exact Mem.byte_foldl_apply ws m h
  · dsimp only
    rw [Mem.byte_heal, Mem.byte_foldl_apply _ _ fun w hw => h w (List.mem_of_mem_filter hw)]

/-- Where no codeword has an error, none of the reads that a write needs is stuck or corrected. -/
@[simp] theorem Mem.stuck_sound {m : Mem} {ws : List MemWrite} (h : m.sound = true) : m.stuck ws = none := by simp [Mem.stuck, h]
@[simp] theorem Mem.merged_sound {m : Mem} {ws : List MemWrite} (h : m.sound = true) : m.merged ws = [] := by simp [Mem.merged, h]
@[simp] theorem Mem.flaw_sound {m : Mem} {k : PAddr} (h : m.sound = true) : m.flaw k = 0 := by
  simp only [Mem.sound, Bool.and_eq_true, List.isEmpty_iff] at h
  simp [Mem.flaw, h.1, h.2, spGet]

/-- The memory right after reset is in canonical form. -/
theorem Mem.wf_reset : Mem.reset.wf = true := rfl

end Sys2Proof.Machine
end

