-- ==== Sys2Proof/Laws/Buffers.lean ====
section
/-! SUPPORT. Laws of the vector buffers, scalars and predicates of a program: what a write changes and what it
leaves. -/

namespace Sys2Proof.Machine

theorem cellKey_inj {r c r' c' : Nat} (hc : c < 4096) (hc' : c' < 4096) (h : cellKey r c = cellKey r' c') : r = r' ∧ c = c' := by
  unfold cellKey at h; omega

theorem Buf.get_put_same {b : Buf} {r c : Nat} {x : W32} : (b.put r c x).get r c = x := spGet_spSet_same

theorem Buf.get_put_ne {b : Buf} {r c r' c' : Nat} {x : W32} (hc : c < 4096) (hc' : c' < 4096) (h : (r, c) ≠ (r', c')) :
    (b.put r' c' x).get r c = b.get r c :=
  spGet_spSet_ne fun e => h (by obtain ⟨h1, h2⟩ := cellKey_inj hc hc' e; rw [h1, h2])

/-- Writes whose value is a function of their place: each place written holds its value, every other place what
it held. -/
theorem Buf.get_foldl_put {f : Nat → Nat → W32} {r c : Nat} (hc : c < 4096) (b : Buf) (l : List (Nat × Nat))
    (hl : ∀ p ∈ l, p.2 < 4096) :
    Buf.get ((l.map fun p => (p, f p.1 p.2)).foldl (fun (x : Buf) w => x.put w.1.1 w.1.2 w.2) b) r c =
      if (r, c) ∈ l then f r c else b.get r c := by
  induction l using List.reverseRecOn with
  | nil => simp
  | append_singleton l p ih =>
    have ih := ih fun q hq => hl q (List.mem_append_left _ hq)
    rw [List.map_append, List.foldl_append]
    simp only [List.map_cons, List.map_nil, List.foldl_cons, List.foldl_nil]
    by_cases h : (r, c) = p
    · subst h; simp [Buf.get_put_same]
    · have := Buf.get_put_ne (b := (l.map fun p => (p, f p.1 p.2)).foldl (fun (x : Buf) w => x.put w.1.1 w.1.2 w.2) b)
        (r' := p.1) (c' := p.2) (x := f p.1 p.2) hc (hl p (by simp)) (by simpa using h)
      rw [this, ih]
      simp [h]

theorem mem_region {r0 c0 rows cols : Nat} {p : Nat × Nat} :
    p ∈ region r0 c0 rows cols ↔ r0 ≤ p.1 ∧ p.1 < r0 + rows ∧ c0 ≤ p.2 ∧ p.2 < c0 + cols := by
  obtain ⟨r, c⟩ := p
  simp only [region, List.mem_flatMap, List.mem_range, List.mem_map, Prod.mk.injEq]
  constructor
  · rintro ⟨i, hi, j, hj, h1, h2⟩; omega
  · rintro ⟨h1, h2, h3, h4⟩; exact ⟨r - r0, by omega, c - c0, by omega, by omega, by omega⟩

/-- A filled region holds the function's values; the rest of the buffer what it held. -/
theorem Build.get_fillBuf {b : Build} {i : Fin 4} {rows cols : Nat} {f : Nat → Nat → W32} {r c : Nat} (hc : c < 4096)
    (hcols : cols ≤ 4096) :
    Buf.get (b.fillBuf i rows cols f).ctx.v[i] r c = if r < rows ∧ c < cols then f r c else Buf.get b.ctx.v[i] r c := by
  have h := Buf.get_foldl_put (f := f) (r := r) hc b.ctx.v[i] (region 0 0 rows cols)
    (by intro p hp; rw [mem_region] at hp; omega)
  simp only [mem_region, Nat.zero_le, Nat.zero_add, true_and] at h
  simpa [Build.fillBuf, Build.putBuf, vecMod] using h

theorem Build.fillBuf_other {b : Build} {i j : Fin 4} {rows cols : Nat} {f : Nat → Nat → W32} (h : j ≠ i) :
    (b.fillBuf i rows cols f).ctx.v[j] = b.ctx.v[j] := by
  have : i.val ≠ j.val := fun e => h (Fin.ext e.symm)
  simp [Build.fillBuf, Build.putBuf, vecMod, this]

/-- S0 holds what it held, every other scalar the value written (R21). -/
theorem Ctx.setS_get {c : Ctx} {i : Fin 64} {x : Scalar} : (c.setS i x).s[i] = if i = 0 then c.s[i] else x := by
  unfold Ctx.setS; split <;> simp

theorem Ctx.setS_other {c : Ctx} {i j : Fin 64} {x : Scalar} (h : j ≠ i) : (c.setS i x).s[j] = c.s[j] := by
  have : i.val ≠ j.val := fun e => h (Fin.ext e.symm)
  unfold Ctx.setS; split <;> simp [this]

/-- P0 holds what it held, every other predicate the value written (R21). -/
theorem Ctx.setP_get {c : Ctx} {i : Fin 16} {x : PredReg} : (c.setP i x).p[i] = if i = 0 then c.p[i] else x := by
  unfold Ctx.setP; split <;> simp

theorem Ctx.setP_other {c : Ctx} {i j : Fin 16} {x : PredReg} (h : j ≠ i) : (c.setP i x).p[j] = c.p[j] := by
  have : i.val ≠ j.val := fun e => h (Fin.ext e.symm)
  unfold Ctx.setP; split <;> simp [this]

end Sys2Proof.Machine
end

