-- ==== Sys2Proof/Laws/State.lean ====
section
/-! SUPPORT. Laws of the record updates that the meanings share: what each update changes and what it leaves,
field by field, so that no proof unfolds a record update. -/

namespace Sys2Proof.Machine

section StateUpdates
variable (s : State) (f g : Chip → Chip)

@[simp] theorem State.on_pending : (s.on f).pending = s.pending := rfl
@[simp] theorem State.on_mem : (s.on f).mem = s.mem := rfl
@[simp] theorem State.on_chip : (s.on f).chip = f s.chip := rfl
@[simp] theorem State.on_on : (s.on f).on g = s.on (fun c => g (f c)) := rfl

end StateUpdates

/-! ### Vectors -/

@[simp] theorem vecMod_same {α : Type} {n : Nat} (v : Vector α n) (i : Fin n) (f : α → α) : (vecMod v i f)[i.val] = f v[i.val] := by
  simp [vecMod]

theorem vecMod_ne {α : Type} {n : Nat} (v : Vector α n) {i j : Fin n} (f : α → α) (h : j ≠ i) : (vecMod v i f)[j.val] = v[j.val] := by
  have : i.val ≠ j.val := fun e => h (Fin.ext e.symm)
  simp [vecMod, this]

/-! ### A tenant, a partition, a running plan -/

section modTenantUpdates
variable (c : Chip) (t : Fin 16) (f : Tenant → Tenant)

@[simp] theorem Chip.modTenant_drawn : (c.modTenant t f).drawn = c.drawn := rfl
@[simp] theorem Chip.modTenant_drone : (c.modTenant t f).drone = c.drone := rfl
@[simp] theorem Chip.modTenant_power : (c.modTenant t f).power = c.power := rfl
@[simp] theorem Chip.modTenant_pins : (c.modTenant t f).pins = c.pins := rfl
@[simp] theorem Chip.modTenant_boot : (c.modTenant t f).boot = c.boot := rfl
@[simp] theorem Chip.modTenant_driver : (c.modTenant t f).driver = c.driver := rfl
@[simp] theorem Chip.modTenant_pfn : (c.modTenant t f).pfn = c.pfn := rfl
@[simp] theorem Chip.modTenant_vfn : (c.modTenant t f).vfn = c.vfn := rfl
@[simp] theorem Chip.modTenant_nparts : (c.modTenant t f).nparts = c.nparts := rfl
@[simp] theorem Chip.modTenant_parts : (c.modTenant t f).parts = c.parts := rfl
@[simp] theorem Chip.modTenant_partPending : (c.modTenant t f).partPending = c.partPending := rfl
@[simp] theorem Chip.modTenant_placer : (c.modTenant t f).placer = c.placer := rfl
@[simp] theorem Chip.modTenant_scan : (c.modTenant t f).scan = c.scan := rfl
@[simp] theorem Chip.modTenant_sp : (c.modTenant t f).sp = c.sp := rfl
@[simp] theorem Chip.modTenant_memObj : (c.modTenant t f).memObj = c.memObj := rfl
@[simp] theorem Chip.modTenant_calPc : (c.modTenant t f).calPc = c.calPc := rfl
@[simp] theorem Chip.modTenant_calDqs : (c.modTenant t f).calDqs = c.calDqs := rfl
@[simp] theorem Chip.modTenant_calZq : (c.modTenant t f).calZq = c.calZq := rfl
@[simp] theorem Chip.modTenant_calIsl : (c.modTenant t f).calIsl = c.calIsl := rfl
@[simp] theorem Chip.modTenant_limiter : (c.modTenant t f).limiter = c.limiter := rfl
@[simp] theorem Chip.modTenant_intc : (c.modTenant t f).intc = c.intc := rfl
@[simp] theorem Chip.modTenant_faults : (c.modTenant t f).faults = c.faults := rfl
@[simp] theorem Chip.modTenant_ports : (c.modTenant t f).ports = c.ports := rfl
@[simp] theorem Chip.modTenant_groups : (c.modTenant t f).groups = c.groups := rfl
@[simp] theorem Chip.modTenant_bore : (c.modTenant t f).bore = c.bore := rfl
@[simp] theorem Chip.modTenant_attests : (c.modTenant t f).attests = c.attests := rfl
@[simp] theorem Chip.modTenant_mgmt : (c.modTenant t f).mgmt = c.mgmt := rfl
@[simp] theorem Chip.modTenant_gate : (c.modTenant t f).gate = c.gate := rfl
@[simp] theorem Chip.modTenant_hatband : (c.modTenant t f).hatband = c.hatband := rfl
@[simp] theorem Chip.modTenant_mram : (c.modTenant t f).mram = c.mram := rfl
@[simp] theorem Chip.modTenant_objs : (c.modTenant t f).objs = c.objs := rfl
@[simp] theorem Chip.modTenant_readData : (c.modTenant t f).readData = c.readData := rfl

@[simp] theorem Chip.modTenant_tenants : (c.modTenant t f).tenants = vecMod c.tenants t f := rfl
@[simp] theorem Chip.modTenant_func (fn : Fn) : (c.modTenant t f).func fn = c.func fn := by cases fn <;> rfl
@[simp] theorem Chip.modTenant_run (p : Fin 4) : (c.modTenant t f).run p = c.run p := rfl

end modTenantUpdates

section modPartUpdates
variable (c : Chip) (p : Fin 4) (f : Part → Part)

@[simp] theorem Chip.modPart_drawn : (c.modPart p f).drawn = c.drawn := rfl
@[simp] theorem Chip.modPart_drone : (c.modPart p f).drone = c.drone := rfl
@[simp] theorem Chip.modPart_power : (c.modPart p f).power = c.power := rfl
@[simp] theorem Chip.modPart_pins : (c.modPart p f).pins = c.pins := rfl
@[simp] theorem Chip.modPart_boot : (c.modPart p f).boot = c.boot := rfl
@[simp] theorem Chip.modPart_driver : (c.modPart p f).driver = c.driver := rfl
@[simp] theorem Chip.modPart_pfn : (c.modPart p f).pfn = c.pfn := rfl
@[simp] theorem Chip.modPart_vfn : (c.modPart p f).vfn = c.vfn := rfl
@[simp] theorem Chip.modPart_tenants : (c.modPart p f).tenants = c.tenants := rfl
@[simp] theorem Chip.modPart_nparts : (c.modPart p f).nparts = c.nparts := rfl
@[simp] theorem Chip.modPart_partPending : (c.modPart p f).partPending = c.partPending := rfl
@[simp] theorem Chip.modPart_placer : (c.modPart p f).placer = c.placer := rfl
@[simp] theorem Chip.modPart_scan : (c.modPart p f).scan = c.scan := rfl
@[simp] theorem Chip.modPart_sp : (c.modPart p f).sp = c.sp := rfl
@[simp] theorem Chip.modPart_memObj : (c.modPart p f).memObj = c.memObj := rfl
@[simp] theorem Chip.modPart_calPc : (c.modPart p f).calPc = c.calPc := rfl
@[simp] theorem Chip.modPart_calDqs : (c.modPart p f).calDqs = c.calDqs := rfl
@[simp] theorem Chip.modPart_calZq : (c.modPart p f).calZq = c.calZq := rfl
@[simp] theorem Chip.modPart_calIsl : (c.modPart p f).calIsl = c.calIsl := rfl
@[simp] theorem Chip.modPart_limiter : (c.modPart p f).limiter = c.limiter := rfl
@[simp] theorem Chip.modPart_intc : (c.modPart p f).intc = c.intc := rfl
@[simp] theorem Chip.modPart_faults : (c.modPart p f).faults = c.faults := rfl
@[simp] theorem Chip.modPart_ports : (c.modPart p f).ports = c.ports := rfl
@[simp] theorem Chip.modPart_groups : (c.modPart p f).groups = c.groups := rfl
@[simp] theorem Chip.modPart_bore : (c.modPart p f).bore = c.bore := rfl
@[simp] theorem Chip.modPart_attests : (c.modPart p f).attests = c.attests := rfl
@[simp] theorem Chip.modPart_mgmt : (c.modPart p f).mgmt = c.mgmt := rfl
@[simp] theorem Chip.modPart_gate : (c.modPart p f).gate = c.gate := rfl
@[simp] theorem Chip.modPart_hatband : (c.modPart p f).hatband = c.hatband := rfl
@[simp] theorem Chip.modPart_mram : (c.modPart p f).mram = c.mram := rfl
@[simp] theorem Chip.modPart_objs : (c.modPart p f).objs = c.objs := rfl
@[simp] theorem Chip.modPart_readData : (c.modPart p f).readData = c.readData := rfl

@[simp] theorem Chip.modPart_parts : (c.modPart p f).parts = vecMod c.parts p f := rfl

end modPartUpdates

section setRunUpdates
variable (c : Chip) (p : Fin 4) (r : Option Running)

@[simp] theorem Chip.setRun_drawn : (c.setRun p r).drawn = c.drawn := rfl
@[simp] theorem Chip.setRun_drone : (c.setRun p r).drone = c.drone := rfl
@[simp] theorem Chip.setRun_power : (c.setRun p r).power = c.power := rfl
@[simp] theorem Chip.setRun_pins : (c.setRun p r).pins = c.pins := rfl
@[simp] theorem Chip.setRun_boot : (c.setRun p r).boot = c.boot := rfl
@[simp] theorem Chip.setRun_driver : (c.setRun p r).driver = c.driver := rfl
@[simp] theorem Chip.setRun_pfn : (c.setRun p r).pfn = c.pfn := rfl
@[simp] theorem Chip.setRun_vfn : (c.setRun p r).vfn = c.vfn := rfl
@[simp] theorem Chip.setRun_tenants : (c.setRun p r).tenants = c.tenants := rfl
@[simp] theorem Chip.setRun_nparts : (c.setRun p r).nparts = c.nparts := rfl
@[simp] theorem Chip.setRun_partPending : (c.setRun p r).partPending = c.partPending := rfl
@[simp] theorem Chip.setRun_placer : (c.setRun p r).placer = c.placer := rfl
@[simp] theorem Chip.setRun_scan : (c.setRun p r).scan = c.scan := rfl
@[simp] theorem Chip.setRun_sp : (c.setRun p r).sp = c.sp := rfl
@[simp] theorem Chip.setRun_memObj : (c.setRun p r).memObj = c.memObj := rfl
@[simp] theorem Chip.setRun_calPc : (c.setRun p r).calPc = c.calPc := rfl
@[simp] theorem Chip.setRun_calDqs : (c.setRun p r).calDqs = c.calDqs := rfl
@[simp] theorem Chip.setRun_calZq : (c.setRun p r).calZq = c.calZq := rfl
@[simp] theorem Chip.setRun_calIsl : (c.setRun p r).calIsl = c.calIsl := rfl
@[simp] theorem Chip.setRun_limiter : (c.setRun p r).limiter = c.limiter := rfl
@[simp] theorem Chip.setRun_intc : (c.setRun p r).intc = c.intc := rfl
@[simp] theorem Chip.setRun_faults : (c.setRun p r).faults = c.faults := rfl
@[simp] theorem Chip.setRun_ports : (c.setRun p r).ports = c.ports := rfl
@[simp] theorem Chip.setRun_groups : (c.setRun p r).groups = c.groups := rfl
@[simp] theorem Chip.setRun_bore : (c.setRun p r).bore = c.bore := rfl
@[simp] theorem Chip.setRun_attests : (c.setRun p r).attests = c.attests := rfl
@[simp] theorem Chip.setRun_mgmt : (c.setRun p r).mgmt = c.mgmt := rfl
@[simp] theorem Chip.setRun_gate : (c.setRun p r).gate = c.gate := rfl
@[simp] theorem Chip.setRun_hatband : (c.setRun p r).hatband = c.hatband := rfl
@[simp] theorem Chip.setRun_mram : (c.setRun p r).mram = c.mram := rfl
@[simp] theorem Chip.setRun_objs : (c.setRun p r).objs = c.objs := rfl
@[simp] theorem Chip.setRun_readData : (c.setRun p r).readData = c.readData := rfl

@[simp] theorem Chip.setRun_run : (c.setRun p r).run p = r := by simp [Chip.setRun, Chip.run]
theorem Chip.setRun_run_ne {q : Fin 4} (h : q ≠ p) : (c.setRun p r).run q = c.run q := by
  simp [Chip.setRun, Chip.run, vecMod_ne _ _ h]
@[simp] theorem Chip.setRun_func (fn : Fn) : (c.setRun p r).func fn = c.func fn := by cases fn <;> rfl

end setRunUpdates

section modRunUpdates
variable (c : Chip) (p : Fin 4) (f : Running → Running)

@[simp] theorem Chip.modRun_drawn : (c.modRun p f).drawn = c.drawn := rfl
@[simp] theorem Chip.modRun_drone : (c.modRun p f).drone = c.drone := rfl
@[simp] theorem Chip.modRun_power : (c.modRun p f).power = c.power := rfl
@[simp] theorem Chip.modRun_pins : (c.modRun p f).pins = c.pins := rfl
@[simp] theorem Chip.modRun_boot : (c.modRun p f).boot = c.boot := rfl
@[simp] theorem Chip.modRun_driver : (c.modRun p f).driver = c.driver := rfl
@[simp] theorem Chip.modRun_pfn : (c.modRun p f).pfn = c.pfn := rfl
@[simp] theorem Chip.modRun_vfn : (c.modRun p f).vfn = c.vfn := rfl
@[simp] theorem Chip.modRun_tenants : (c.modRun p f).tenants = c.tenants := rfl
@[simp] theorem Chip.modRun_nparts : (c.modRun p f).nparts = c.nparts := rfl
@[simp] theorem Chip.modRun_partPending : (c.modRun p f).partPending = c.partPending := rfl
@[simp] theorem Chip.modRun_placer : (c.modRun p f).placer = c.placer := rfl
@[simp] theorem Chip.modRun_scan : (c.modRun p f).scan = c.scan := rfl
@[simp] theorem Chip.modRun_sp : (c.modRun p f).sp = c.sp := rfl
@[simp] theorem Chip.modRun_memObj : (c.modRun p f).memObj = c.memObj := rfl
@[simp] theorem Chip.modRun_calPc : (c.modRun p f).calPc = c.calPc := rfl
@[simp] theorem Chip.modRun_calDqs : (c.modRun p f).calDqs = c.calDqs := rfl
@[simp] theorem Chip.modRun_calZq : (c.modRun p f).calZq = c.calZq := rfl
@[simp] theorem Chip.modRun_calIsl : (c.modRun p f).calIsl = c.calIsl := rfl
@[simp] theorem Chip.modRun_limiter : (c.modRun p f).limiter = c.limiter := rfl
@[simp] theorem Chip.modRun_intc : (c.modRun p f).intc = c.intc := rfl
@[simp] theorem Chip.modRun_faults : (c.modRun p f).faults = c.faults := rfl
@[simp] theorem Chip.modRun_ports : (c.modRun p f).ports = c.ports := rfl
@[simp] theorem Chip.modRun_groups : (c.modRun p f).groups = c.groups := rfl
@[simp] theorem Chip.modRun_bore : (c.modRun p f).bore = c.bore := rfl
@[simp] theorem Chip.modRun_attests : (c.modRun p f).attests = c.attests := rfl
@[simp] theorem Chip.modRun_mgmt : (c.modRun p f).mgmt = c.mgmt := rfl
@[simp] theorem Chip.modRun_gate : (c.modRun p f).gate = c.gate := rfl
@[simp] theorem Chip.modRun_hatband : (c.modRun p f).hatband = c.hatband := rfl
@[simp] theorem Chip.modRun_mram : (c.modRun p f).mram = c.mram := rfl
@[simp] theorem Chip.modRun_objs : (c.modRun p f).objs = c.objs := rfl
@[simp] theorem Chip.modRun_readData : (c.modRun p f).readData = c.readData := rfl

@[simp] theorem Chip.modRun_run : (c.modRun p f).run p = (c.run p).map f := by simp [Chip.modRun, Chip.run]
theorem Chip.modRun_run_ne {q : Fin 4} (h : q ≠ p) : (c.modRun p f).run q = c.run q := by
  simp [Chip.modRun, Chip.run, vecMod_ne _ _ h]

end modRunUpdates

/-! ### An interrupt source, a Hatband record -/

section raiseUpdates
variable (c : Chip) (n : Fin 128)

@[simp] theorem Chip.raise_drawn : (c.raise n).drawn = c.drawn := rfl
@[simp] theorem Chip.raise_drone : (c.raise n).drone = c.drone := rfl
@[simp] theorem Chip.raise_power : (c.raise n).power = c.power := rfl
@[simp] theorem Chip.raise_pins : (c.raise n).pins = c.pins := rfl
@[simp] theorem Chip.raise_boot : (c.raise n).boot = c.boot := rfl
@[simp] theorem Chip.raise_driver : (c.raise n).driver = c.driver := rfl
@[simp] theorem Chip.raise_pfn : (c.raise n).pfn = c.pfn := rfl
@[simp] theorem Chip.raise_vfn : (c.raise n).vfn = c.vfn := rfl
@[simp] theorem Chip.raise_tenants : (c.raise n).tenants = c.tenants := rfl
@[simp] theorem Chip.raise_nparts : (c.raise n).nparts = c.nparts := rfl
@[simp] theorem Chip.raise_parts : (c.raise n).parts = c.parts := rfl
@[simp] theorem Chip.raise_partPending : (c.raise n).partPending = c.partPending := rfl
@[simp] theorem Chip.raise_placer : (c.raise n).placer = c.placer := rfl
@[simp] theorem Chip.raise_scan : (c.raise n).scan = c.scan := rfl
@[simp] theorem Chip.raise_sp : (c.raise n).sp = c.sp := rfl
@[simp] theorem Chip.raise_memObj : (c.raise n).memObj = c.memObj := rfl
@[simp] theorem Chip.raise_calPc : (c.raise n).calPc = c.calPc := rfl
@[simp] theorem Chip.raise_calDqs : (c.raise n).calDqs = c.calDqs := rfl
@[simp] theorem Chip.raise_calZq : (c.raise n).calZq = c.calZq := rfl
@[simp] theorem Chip.raise_calIsl : (c.raise n).calIsl = c.calIsl := rfl
@[simp] theorem Chip.raise_limiter : (c.raise n).limiter = c.limiter := rfl
@[simp] theorem Chip.raise_faults : (c.raise n).faults = c.faults := rfl
@[simp] theorem Chip.raise_ports : (c.raise n).ports = c.ports := rfl
@[simp] theorem Chip.raise_groups : (c.raise n).groups = c.groups := rfl
@[simp] theorem Chip.raise_bore : (c.raise n).bore = c.bore := rfl
@[simp] theorem Chip.raise_attests : (c.raise n).attests = c.attests := rfl
@[simp] theorem Chip.raise_mgmt : (c.raise n).mgmt = c.mgmt := rfl
@[simp] theorem Chip.raise_gate : (c.raise n).gate = c.gate := rfl
@[simp] theorem Chip.raise_hatband : (c.raise n).hatband = c.hatband := rfl
@[simp] theorem Chip.raise_mram : (c.raise n).mram = c.mram := rfl
@[simp] theorem Chip.raise_objs : (c.raise n).objs = c.objs := rfl
@[simp] theorem Chip.raise_readData : (c.raise n).readData = c.readData := rfl

@[simp] theorem Chip.raise_intc : (c.raise n).intc = c.intc.edge n c.drone.now := rfl
@[simp] theorem Chip.raise_func (fn : Fn) : (c.raise n).func fn = c.func fn := by cases fn <;> rfl
@[simp] theorem Chip.raise_run (p : Fin 4) : (c.raise n).run p = c.run p := rfl

end raiseUpdates

section hbFormUpdates
variable (c : Chip) (ty : W16) (cr : Bool) (o : W32) (pl : List Byte)

@[simp] theorem Chip.hbForm_drawn : (c.hbForm ty cr o pl).drawn = c.drawn := by unfold Chip.hbForm; split <;> rfl
@[simp] theorem Chip.hbForm_drone : (c.hbForm ty cr o pl).drone = c.drone := by unfold Chip.hbForm; split <;> rfl
@[simp] theorem Chip.hbForm_power : (c.hbForm ty cr o pl).power = c.power := by unfold Chip.hbForm; split <;> rfl
@[simp] theorem Chip.hbForm_pins : (c.hbForm ty cr o pl).pins = c.pins := by unfold Chip.hbForm; split <;> rfl
@[simp] theorem Chip.hbForm_boot : (c.hbForm ty cr o pl).boot = c.boot := by unfold Chip.hbForm; split <;> rfl
@[simp] theorem Chip.hbForm_driver : (c.hbForm ty cr o pl).driver = c.driver := by unfold Chip.hbForm; split <;> rfl
@[simp] theorem Chip.hbForm_pfn : (c.hbForm ty cr o pl).pfn = c.pfn := by unfold Chip.hbForm; split <;> rfl
@[simp] theorem Chip.hbForm_vfn : (c.hbForm ty cr o pl).vfn = c.vfn := by unfold Chip.hbForm; split <;> rfl
@[simp] theorem Chip.hbForm_tenants : (c.hbForm ty cr o pl).tenants = c.tenants := by unfold Chip.hbForm; split <;> rfl
@[simp] theorem Chip.hbForm_nparts : (c.hbForm ty cr o pl).nparts = c.nparts := by unfold Chip.hbForm; split <;> rfl
@[simp] theorem Chip.hbForm_parts : (c.hbForm ty cr o pl).parts = c.parts := by unfold Chip.hbForm; split <;> rfl
@[simp] theorem Chip.hbForm_partPending : (c.hbForm ty cr o pl).partPending = c.partPending := by unfold Chip.hbForm; split <;> rfl
@[simp] theorem Chip.hbForm_placer : (c.hbForm ty cr o pl).placer = c.placer := by unfold Chip.hbForm; split <;> rfl
@[simp] theorem Chip.hbForm_scan : (c.hbForm ty cr o pl).scan = c.scan := by unfold Chip.hbForm; split <;> rfl
@[simp] theorem Chip.hbForm_sp : (c.hbForm ty cr o pl).sp = c.sp := by unfold Chip.hbForm; split <;> rfl
@[simp] theorem Chip.hbForm_memObj : (c.hbForm ty cr o pl).memObj = c.memObj := by unfold Chip.hbForm; split <;> rfl
@[simp] theorem Chip.hbForm_calPc : (c.hbForm ty cr o pl).calPc = c.calPc := by unfold Chip.hbForm; split <;> rfl
@[simp] theorem Chip.hbForm_calDqs : (c.hbForm ty cr o pl).calDqs = c.calDqs := by unfold Chip.hbForm; split <;> rfl
@[simp] theorem Chip.hbForm_calZq : (c.hbForm ty cr o pl).calZq = c.calZq := by unfold Chip.hbForm; split <;> rfl
@[simp] theorem Chip.hbForm_calIsl : (c.hbForm ty cr o pl).calIsl = c.calIsl := by unfold Chip.hbForm; split <;> rfl
@[simp] theorem Chip.hbForm_limiter : (c.hbForm ty cr o pl).limiter = c.limiter := by unfold Chip.hbForm; split <;> rfl
@[simp] theorem Chip.hbForm_intc : (c.hbForm ty cr o pl).intc = c.intc := by unfold Chip.hbForm; split <;> rfl
@[simp] theorem Chip.hbForm_faults : (c.hbForm ty cr o pl).faults = c.faults := by unfold Chip.hbForm; split <;> rfl
@[simp] theorem Chip.hbForm_ports : (c.hbForm ty cr o pl).ports = c.ports := by unfold Chip.hbForm; split <;> rfl
@[simp] theorem Chip.hbForm_groups : (c.hbForm ty cr o pl).groups = c.groups := by unfold Chip.hbForm; split <;> rfl
@[simp] theorem Chip.hbForm_bore : (c.hbForm ty cr o pl).bore = c.bore := by unfold Chip.hbForm; split <;> rfl
@[simp] theorem Chip.hbForm_attests : (c.hbForm ty cr o pl).attests = c.attests := by unfold Chip.hbForm; split <;> rfl
@[simp] theorem Chip.hbForm_mgmt : (c.hbForm ty cr o pl).mgmt = c.mgmt := by unfold Chip.hbForm; split <;> rfl
@[simp] theorem Chip.hbForm_gate : (c.hbForm ty cr o pl).gate = c.gate := by unfold Chip.hbForm; split <;> rfl
@[simp] theorem Chip.hbForm_objs : (c.hbForm ty cr o pl).objs = c.objs := by unfold Chip.hbForm; split <;> rfl
@[simp] theorem Chip.hbForm_readData : (c.hbForm ty cr o pl).readData = c.readData := by unfold Chip.hbForm; split <;> rfl

end hbFormUpdates

/-! ### Functions, rings, entries -/

section modFuncUpdates
variable (c : Chip) (fn : Fn) (f : Func → Func)

@[simp] theorem Chip.modFunc_drawn : (c.modFunc fn f).drawn = c.drawn := by cases fn <;> rfl
@[simp] theorem Chip.modFunc_drone : (c.modFunc fn f).drone = c.drone := by cases fn <;> rfl
@[simp] theorem Chip.modFunc_power : (c.modFunc fn f).power = c.power := by cases fn <;> rfl
@[simp] theorem Chip.modFunc_pins : (c.modFunc fn f).pins = c.pins := by cases fn <;> rfl
@[simp] theorem Chip.modFunc_boot : (c.modFunc fn f).boot = c.boot := by cases fn <;> rfl
@[simp] theorem Chip.modFunc_driver : (c.modFunc fn f).driver = c.driver := by cases fn <;> rfl
@[simp] theorem Chip.modFunc_tenants : (c.modFunc fn f).tenants = c.tenants := by cases fn <;> rfl
@[simp] theorem Chip.modFunc_nparts : (c.modFunc fn f).nparts = c.nparts := by cases fn <;> rfl
@[simp] theorem Chip.modFunc_parts : (c.modFunc fn f).parts = c.parts := by cases fn <;> rfl
@[simp] theorem Chip.modFunc_partPending : (c.modFunc fn f).partPending = c.partPending := by cases fn <;> rfl
@[simp] theorem Chip.modFunc_placer : (c.modFunc fn f).placer = c.placer := by cases fn <;> rfl
@[simp] theorem Chip.modFunc_scan : (c.modFunc fn f).scan = c.scan := by cases fn <;> rfl
@[simp] theorem Chip.modFunc_sp : (c.modFunc fn f).sp = c.sp := by cases fn <;> rfl
@[simp] theorem Chip.modFunc_memObj : (c.modFunc fn f).memObj = c.memObj := by cases fn <;> rfl
@[simp] theorem Chip.modFunc_calPc : (c.modFunc fn f).calPc = c.calPc := by cases fn <;> rfl
@[simp] theorem Chip.modFunc_calDqs : (c.modFunc fn f).calDqs = c.calDqs := by cases fn <;> rfl
@[simp] theorem Chip.modFunc_calZq : (c.modFunc fn f).calZq = c.calZq := by cases fn <;> rfl
@[simp] theorem Chip.modFunc_calIsl : (c.modFunc fn f).calIsl = c.calIsl := by cases fn <;> rfl
@[simp] theorem Chip.modFunc_limiter : (c.modFunc fn f).limiter = c.limiter := by cases fn <;> rfl
@[simp] theorem Chip.modFunc_intc : (c.modFunc fn f).intc = c.intc := by cases fn <;> rfl
@[simp] theorem Chip.modFunc_faults : (c.modFunc fn f).faults = c.faults := by cases fn <;> rfl
@[simp] theorem Chip.modFunc_ports : (c.modFunc fn f).ports = c.ports := by cases fn <;> rfl
@[simp] theorem Chip.modFunc_groups : (c.modFunc fn f).groups = c.groups := by cases fn <;> rfl
@[simp] theorem Chip.modFunc_bore : (c.modFunc fn f).bore = c.bore := by cases fn <;> rfl
@[simp] theorem Chip.modFunc_attests : (c.modFunc fn f).attests = c.attests := by cases fn <;> rfl
@[simp] theorem Chip.modFunc_mgmt : (c.modFunc fn f).mgmt = c.mgmt := by cases fn <;> rfl
@[simp] theorem Chip.modFunc_gate : (c.modFunc fn f).gate = c.gate := by cases fn <;> rfl
@[simp] theorem Chip.modFunc_hatband : (c.modFunc fn f).hatband = c.hatband := by cases fn <;> rfl
@[simp] theorem Chip.modFunc_mram : (c.modFunc fn f).mram = c.mram := by cases fn <;> rfl
@[simp] theorem Chip.modFunc_objs : (c.modFunc fn f).objs = c.objs := by cases fn <;> rfl
@[simp] theorem Chip.modFunc_readData : (c.modFunc fn f).readData = c.readData := by cases fn <;> rfl

@[simp] theorem Chip.modFunc_func : (c.modFunc fn f).func fn = f (c.func fn) := by
  cases fn <;> simp [Chip.modFunc, Chip.func]

end modFuncUpdates

section pumpRingUpdates
variable (c : Chip) (fn : Fn) (r : Fin 12)

@[simp] theorem Chip.pumpRing_drawn : (c.pumpRing fn r).drawn = c.drawn := by
  unfold Chip.pumpRing; split
  · dsimp only; split <;> cases fn <;> rfl
  · rfl
@[simp] theorem Chip.pumpRing_drone : (c.pumpRing fn r).drone = c.drone := by
  unfold Chip.pumpRing; split
  · dsimp only; split <;> cases fn <;> rfl
  · rfl
@[simp] theorem Chip.pumpRing_power : (c.pumpRing fn r).power = c.power := by
  unfold Chip.pumpRing; split
  · dsimp only; split <;> cases fn <;> rfl
  · rfl
@[simp] theorem Chip.pumpRing_pins : (c.pumpRing fn r).pins = c.pins := by
  unfold Chip.pumpRing; split
  · dsimp only; split <;> cases fn <;> rfl
  · rfl
@[simp] theorem Chip.pumpRing_boot : (c.pumpRing fn r).boot = c.boot := by
  unfold Chip.pumpRing; split
  · dsimp only; split <;> cases fn <;> rfl
  · rfl
@[simp] theorem Chip.pumpRing_driver : (c.pumpRing fn r).driver = c.driver := by
  unfold Chip.pumpRing; split
  · dsimp only; split <;> cases fn <;> rfl
  · rfl
@[simp] theorem Chip.pumpRing_tenants : (c.pumpRing fn r).tenants = c.tenants := by
  unfold Chip.pumpRing; split
  · dsimp only; split <;> cases fn <;> rfl
  · rfl
@[simp] theorem Chip.pumpRing_nparts : (c.pumpRing fn r).nparts = c.nparts := by
  unfold Chip.pumpRing; split
  · dsimp only; split <;> cases fn <;> rfl
  · rfl
@[simp] theorem Chip.pumpRing_parts : (c.pumpRing fn r).parts = c.parts := by
  unfold Chip.pumpRing; split
  · dsimp only; split <;> cases fn <;> rfl
  · rfl
@[simp] theorem Chip.pumpRing_partPending : (c.pumpRing fn r).partPending = c.partPending := by
  unfold Chip.pumpRing; split
  · dsimp only; split <;> cases fn <;> rfl
  · rfl
@[simp] theorem Chip.pumpRing_placer : (c.pumpRing fn r).placer = c.placer := by
  unfold Chip.pumpRing; split
  · dsimp only; split <;> cases fn <;> rfl
  · rfl
@[simp] theorem Chip.pumpRing_scan : (c.pumpRing fn r).scan = c.scan := by
  unfold Chip.pumpRing; split
  · dsimp only; split <;> cases fn <;> rfl
  · rfl
@[simp] theorem Chip.pumpRing_sp : (c.pumpRing fn r).sp = c.sp := by
  unfold Chip.pumpRing; split
  · dsimp only; split <;> cases fn <;> rfl
  · rfl
@[simp] theorem Chip.pumpRing_memObj : (c.pumpRing fn r).memObj = c.memObj := by
  unfold Chip.pumpRing; split
  · dsimp only; split <;> cases fn <;> rfl
  · rfl
@[simp] theorem Chip.pumpRing_calPc : (c.pumpRing fn r).calPc = c.calPc := by
  unfold Chip.pumpRing; split
  · dsimp only; split <;> cases fn <;> rfl
  · rfl
@[simp] theorem Chip.pumpRing_calDqs : (c.pumpRing fn r).calDqs = c.calDqs := by
  unfold Chip.pumpRing; split
  · dsimp only; split <;> cases fn <;> rfl
  · rfl
@[simp] theorem Chip.pumpRing_calZq : (c.pumpRing fn r).calZq = c.calZq := by
  unfold Chip.pumpRing; split
  · dsimp only; split <;> cases fn <;> rfl
  · rfl
@[simp] theorem Chip.pumpRing_calIsl : (c.pumpRing fn r).calIsl = c.calIsl := by
  unfold Chip.pumpRing; split
  · dsimp only; split <;> cases fn <;> rfl
  · rfl
@[simp] theorem Chip.pumpRing_limiter : (c.pumpRing fn r).limiter = c.limiter := by
  unfold Chip.pumpRing; split
  · dsimp only; split <;> cases fn <;> rfl
  · rfl
@[simp] theorem Chip.pumpRing_intc : (c.pumpRing fn r).intc = c.intc := by
  unfold Chip.pumpRing; split
  · dsimp only; split <;> cases fn <;> rfl
  · rfl
@[simp] theorem Chip.pumpRing_faults : (c.pumpRing fn r).faults = c.faults := by
  unfold Chip.pumpRing; split
  · dsimp only; split <;> cases fn <;> rfl
  · rfl
@[simp] theorem Chip.pumpRing_ports : (c.pumpRing fn r).ports = c.ports := by
  unfold Chip.pumpRing; split
  · dsimp only; split <;> cases fn <;> rfl
  · rfl
@[simp] theorem Chip.pumpRing_groups : (c.pumpRing fn r).groups = c.groups := by
  unfold Chip.pumpRing; split
  · dsimp only; split <;> cases fn <;> rfl
  · rfl
@[simp] theorem Chip.pumpRing_bore : (c.pumpRing fn r).bore = c.bore := by
  unfold Chip.pumpRing; split
  · dsimp only; split <;> cases fn <;> rfl
  · rfl
@[simp] theorem Chip.pumpRing_attests : (c.pumpRing fn r).attests = c.attests := by
  unfold Chip.pumpRing; split
  · dsimp only; split <;> cases fn <;> rfl
  · rfl
@[simp] theorem Chip.pumpRing_mgmt : (c.pumpRing fn r).mgmt = c.mgmt := by
  unfold Chip.pumpRing; split
  · dsimp only; split <;> cases fn <;> rfl
  · rfl
@[simp] theorem Chip.pumpRing_gate : (c.pumpRing fn r).gate = c.gate := by
  unfold Chip.pumpRing; split
  · dsimp only; split <;> cases fn <;> rfl
  · rfl
@[simp] theorem Chip.pumpRing_hatband : (c.pumpRing fn r).hatband = c.hatband := by
  unfold Chip.pumpRing; split
  · dsimp only; split <;> cases fn <;> rfl
  · rfl
@[simp] theorem Chip.pumpRing_mram : (c.pumpRing fn r).mram = c.mram := by
  unfold Chip.pumpRing; split
  · dsimp only; split <;> cases fn <;> rfl
  · rfl
@[simp] theorem Chip.pumpRing_readData : (c.pumpRing fn r).readData = c.readData := by
  unfold Chip.pumpRing; split
  · dsimp only; split <;> cases fn <;> rfl
  · rfl

end pumpRingUpdates

section postUpdates
variable (c : Chip) (fn : Fn) (r : Fin 12) (e : DevEntry)

@[simp] theorem Chip.post_drawn : (c.post fn r e).drawn = c.drawn := by simp [Chip.post, Chip.modRing]
@[simp] theorem Chip.post_drone : (c.post fn r e).drone = c.drone := by simp [Chip.post, Chip.modRing]
@[simp] theorem Chip.post_power : (c.post fn r e).power = c.power := by simp [Chip.post, Chip.modRing]
@[simp] theorem Chip.post_pins : (c.post fn r e).pins = c.pins := by simp [Chip.post, Chip.modRing]
@[simp] theorem Chip.post_boot : (c.post fn r e).boot = c.boot := by simp [Chip.post, Chip.modRing]
@[simp] theorem Chip.post_driver : (c.post fn r e).driver = c.driver := by simp [Chip.post, Chip.modRing]
@[simp] theorem Chip.post_tenants : (c.post fn r e).tenants = c.tenants := by simp [Chip.post, Chip.modRing]
@[simp] theorem Chip.post_nparts : (c.post fn r e).nparts = c.nparts := by simp [Chip.post, Chip.modRing]
@[simp] theorem Chip.post_parts : (c.post fn r e).parts = c.parts := by simp [Chip.post, Chip.modRing]
@[simp] theorem Chip.post_partPending : (c.post fn r e).partPending = c.partPending := by simp [Chip.post, Chip.modRing]
@[simp] theorem Chip.post_placer : (c.post fn r e).placer = c.placer := by simp [Chip.post, Chip.modRing]
@[simp] theorem Chip.post_scan : (c.post fn r e).scan = c.scan := by simp [Chip.post, Chip.modRing]
@[simp] theorem Chip.post_sp : (c.post fn r e).sp = c.sp := by simp [Chip.post, Chip.modRing]
@[simp] theorem Chip.post_memObj : (c.post fn r e).memObj = c.memObj := by simp [Chip.post, Chip.modRing]
@[simp] theorem Chip.post_calPc : (c.post fn r e).calPc = c.calPc := by simp [Chip.post, Chip.modRing]
@[simp] theorem Chip.post_calDqs : (c.post fn r e).calDqs = c.calDqs := by simp [Chip.post, Chip.modRing]
@[simp] theorem Chip.post_calZq : (c.post fn r e).calZq = c.calZq := by simp [Chip.post, Chip.modRing]
@[simp] theorem Chip.post_calIsl : (c.post fn r e).calIsl = c.calIsl := by simp [Chip.post, Chip.modRing]
@[simp] theorem Chip.post_limiter : (c.post fn r e).limiter = c.limiter := by simp [Chip.post, Chip.modRing]
@[simp] theorem Chip.post_intc : (c.post fn r e).intc = c.intc := by simp [Chip.post, Chip.modRing]
@[simp] theorem Chip.post_faults : (c.post fn r e).faults = c.faults := by simp [Chip.post, Chip.modRing]
@[simp] theorem Chip.post_ports : (c.post fn r e).ports = c.ports := by simp [Chip.post, Chip.modRing]
@[simp] theorem Chip.post_groups : (c.post fn r e).groups = c.groups := by simp [Chip.post, Chip.modRing]
@[simp] theorem Chip.post_bore : (c.post fn r e).bore = c.bore := by simp [Chip.post, Chip.modRing]
@[simp] theorem Chip.post_attests : (c.post fn r e).attests = c.attests := by simp [Chip.post, Chip.modRing]
@[simp] theorem Chip.post_mgmt : (c.post fn r e).mgmt = c.mgmt := by simp [Chip.post, Chip.modRing]
@[simp] theorem Chip.post_gate : (c.post fn r e).gate = c.gate := by simp [Chip.post, Chip.modRing]
@[simp] theorem Chip.post_hatband : (c.post fn r e).hatband = c.hatband := by simp [Chip.post, Chip.modRing]
@[simp] theorem Chip.post_mram : (c.post fn r e).mram = c.mram := by simp [Chip.post, Chip.modRing]
@[simp] theorem Chip.post_readData : (c.post fn r e).readData = c.readData := by simp [Chip.post, Chip.modRing]

@[simp] theorem Chip.post_run (p : Fin 4) : (c.post fn r e).run p = c.run p := by simp [Chip.run]

end postUpdates

section eventUpdates
variable (c : Chip) (fn : Fn) (e : EvEntry)

@[simp] theorem Chip.event_drawn : (c.event fn e).drawn = c.drawn := Chip.post_drawn ..
@[simp] theorem Chip.event_drone : (c.event fn e).drone = c.drone := Chip.post_drone ..
@[simp] theorem Chip.event_power : (c.event fn e).power = c.power := Chip.post_power ..
@[simp] theorem Chip.event_pins : (c.event fn e).pins = c.pins := Chip.post_pins ..
@[simp] theorem Chip.event_boot : (c.event fn e).boot = c.boot := Chip.post_boot ..
@[simp] theorem Chip.event_driver : (c.event fn e).driver = c.driver := Chip.post_driver ..
@[simp] theorem Chip.event_tenants : (c.event fn e).tenants = c.tenants := Chip.post_tenants ..
@[simp] theorem Chip.event_nparts : (c.event fn e).nparts = c.nparts := Chip.post_nparts ..
@[simp] theorem Chip.event_parts : (c.event fn e).parts = c.parts := Chip.post_parts ..
@[simp] theorem Chip.event_partPending : (c.event fn e).partPending = c.partPending := Chip.post_partPending ..
@[simp] theorem Chip.event_placer : (c.event fn e).placer = c.placer := Chip.post_placer ..
@[simp] theorem Chip.event_scan : (c.event fn e).scan = c.scan := Chip.post_scan ..
@[simp] theorem Chip.event_sp : (c.event fn e).sp = c.sp := Chip.post_sp ..
@[simp] theorem Chip.event_memObj : (c.event fn e).memObj = c.memObj := Chip.post_memObj ..
@[simp] theorem Chip.event_calPc : (c.event fn e).calPc = c.calPc := Chip.post_calPc ..
@[simp] theorem Chip.event_calDqs : (c.event fn e).calDqs = c.calDqs := Chip.post_calDqs ..
@[simp] theorem Chip.event_calZq : (c.event fn e).calZq = c.calZq := Chip.post_calZq ..
@[simp] theorem Chip.event_calIsl : (c.event fn e).calIsl = c.calIsl := Chip.post_calIsl ..
@[simp] theorem Chip.event_limiter : (c.event fn e).limiter = c.limiter := Chip.post_limiter ..
@[simp] theorem Chip.event_intc : (c.event fn e).intc = c.intc := Chip.post_intc ..
@[simp] theorem Chip.event_faults : (c.event fn e).faults = c.faults := Chip.post_faults ..
@[simp] theorem Chip.event_ports : (c.event fn e).ports = c.ports := Chip.post_ports ..
@[simp] theorem Chip.event_groups : (c.event fn e).groups = c.groups := Chip.post_groups ..
@[simp] theorem Chip.event_bore : (c.event fn e).bore = c.bore := Chip.post_bore ..
@[simp] theorem Chip.event_attests : (c.event fn e).attests = c.attests := Chip.post_attests ..
@[simp] theorem Chip.event_mgmt : (c.event fn e).mgmt = c.mgmt := Chip.post_mgmt ..
@[simp] theorem Chip.event_gate : (c.event fn e).gate = c.gate := Chip.post_gate ..
@[simp] theorem Chip.event_hatband : (c.event fn e).hatband = c.hatband := Chip.post_hatband ..
@[simp] theorem Chip.event_mram : (c.event fn e).mram = c.mram := Chip.post_mram ..
@[simp] theorem Chip.event_readData : (c.event fn e).readData = c.readData := Chip.post_readData ..

end eventUpdates

section logUpdates
variable (c : Chip) (fn : Fn) (e : EvEntry)

@[simp] theorem Chip.log_drawn : (c.log fn e).drawn = c.drawn := by unfold Chip.log; split <;> simp
@[simp] theorem Chip.log_drone : (c.log fn e).drone = c.drone := by unfold Chip.log; split <;> simp
@[simp] theorem Chip.log_power : (c.log fn e).power = c.power := by unfold Chip.log; split <;> simp
@[simp] theorem Chip.log_pins : (c.log fn e).pins = c.pins := by unfold Chip.log; split <;> simp
@[simp] theorem Chip.log_boot : (c.log fn e).boot = c.boot := by unfold Chip.log; split <;> simp
@[simp] theorem Chip.log_driver : (c.log fn e).driver = c.driver := by unfold Chip.log; split <;> simp
@[simp] theorem Chip.log_tenants : (c.log fn e).tenants = c.tenants := by unfold Chip.log; split <;> simp
@[simp] theorem Chip.log_nparts : (c.log fn e).nparts = c.nparts := by unfold Chip.log; split <;> simp
@[simp] theorem Chip.log_parts : (c.log fn e).parts = c.parts := by unfold Chip.log; split <;> simp
@[simp] theorem Chip.log_partPending : (c.log fn e).partPending = c.partPending := by unfold Chip.log; split <;> simp
@[simp] theorem Chip.log_placer : (c.log fn e).placer = c.placer := by unfold Chip.log; split <;> simp
@[simp] theorem Chip.log_scan : (c.log fn e).scan = c.scan := by unfold Chip.log; split <;> simp
@[simp] theorem Chip.log_sp : (c.log fn e).sp = c.sp := by unfold Chip.log; split <;> simp
@[simp] theorem Chip.log_memObj : (c.log fn e).memObj = c.memObj := by unfold Chip.log; split <;> simp
@[simp] theorem Chip.log_calPc : (c.log fn e).calPc = c.calPc := by unfold Chip.log; split <;> simp
@[simp] theorem Chip.log_calDqs : (c.log fn e).calDqs = c.calDqs := by unfold Chip.log; split <;> simp
@[simp] theorem Chip.log_calZq : (c.log fn e).calZq = c.calZq := by unfold Chip.log; split <;> simp
@[simp] theorem Chip.log_calIsl : (c.log fn e).calIsl = c.calIsl := by unfold Chip.log; split <;> simp
@[simp] theorem Chip.log_limiter : (c.log fn e).limiter = c.limiter := by unfold Chip.log; split <;> simp
@[simp] theorem Chip.log_intc : (c.log fn e).intc = c.intc := by unfold Chip.log; split <;> simp
@[simp] theorem Chip.log_faults : (c.log fn e).faults = c.faults := by unfold Chip.log; split <;> simp
@[simp] theorem Chip.log_ports : (c.log fn e).ports = c.ports := by unfold Chip.log; split <;> simp
@[simp] theorem Chip.log_groups : (c.log fn e).groups = c.groups := by unfold Chip.log; split <;> simp
@[simp] theorem Chip.log_bore : (c.log fn e).bore = c.bore := by unfold Chip.log; split <;> simp
@[simp] theorem Chip.log_attests : (c.log fn e).attests = c.attests := by unfold Chip.log; split <;> simp
@[simp] theorem Chip.log_mgmt : (c.log fn e).mgmt = c.mgmt := by unfold Chip.log; split <;> simp
@[simp] theorem Chip.log_gate : (c.log fn e).gate = c.gate := by unfold Chip.log; split <;> simp
@[simp] theorem Chip.log_hatband : (c.log fn e).hatband = c.hatband := by unfold Chip.log; split <;> simp
@[simp] theorem Chip.log_mram : (c.log fn e).mram = c.mram := by unfold Chip.log; split <;> simp
@[simp] theorem Chip.log_readData : (c.log fn e).readData = c.readData := by unfold Chip.log; split <;> simp

end logUpdates

section completeUpdates
variable (c : Chip) (src : CmdSrc) (st pl : W16) (v0 : W32) (v1 : W64)

@[simp] theorem Chip.complete_drawn : (c.complete src st pl v0 v1).drawn = c.drawn := Chip.post_drawn ..
@[simp] theorem Chip.complete_drone : (c.complete src st pl v0 v1).drone = c.drone := Chip.post_drone ..
@[simp] theorem Chip.complete_power : (c.complete src st pl v0 v1).power = c.power := Chip.post_power ..
@[simp] theorem Chip.complete_pins : (c.complete src st pl v0 v1).pins = c.pins := Chip.post_pins ..
@[simp] theorem Chip.complete_boot : (c.complete src st pl v0 v1).boot = c.boot := Chip.post_boot ..
@[simp] theorem Chip.complete_driver : (c.complete src st pl v0 v1).driver = c.driver := Chip.post_driver ..
@[simp] theorem Chip.complete_tenants : (c.complete src st pl v0 v1).tenants = c.tenants := Chip.post_tenants ..
@[simp] theorem Chip.complete_nparts : (c.complete src st pl v0 v1).nparts = c.nparts := Chip.post_nparts ..
@[simp] theorem Chip.complete_parts : (c.complete src st pl v0 v1).parts = c.parts := Chip.post_parts ..
@[simp] theorem Chip.complete_partPending : (c.complete src st pl v0 v1).partPending = c.partPending := Chip.post_partPending ..
@[simp] theorem Chip.complete_placer : (c.complete src st pl v0 v1).placer = c.placer := Chip.post_placer ..
@[simp] theorem Chip.complete_scan : (c.complete src st pl v0 v1).scan = c.scan := Chip.post_scan ..
@[simp] theorem Chip.complete_sp : (c.complete src st pl v0 v1).sp = c.sp := Chip.post_sp ..
@[simp] theorem Chip.complete_memObj : (c.complete src st pl v0 v1).memObj = c.memObj := Chip.post_memObj ..
@[simp] theorem Chip.complete_calPc : (c.complete src st pl v0 v1).calPc = c.calPc := Chip.post_calPc ..
@[simp] theorem Chip.complete_calDqs : (c.complete src st pl v0 v1).calDqs = c.calDqs := Chip.post_calDqs ..
@[simp] theorem Chip.complete_calZq : (c.complete src st pl v0 v1).calZq = c.calZq := Chip.post_calZq ..
@[simp] theorem Chip.complete_calIsl : (c.complete src st pl v0 v1).calIsl = c.calIsl := Chip.post_calIsl ..
@[simp] theorem Chip.complete_limiter : (c.complete src st pl v0 v1).limiter = c.limiter := Chip.post_limiter ..
@[simp] theorem Chip.complete_intc : (c.complete src st pl v0 v1).intc = c.intc := Chip.post_intc ..
@[simp] theorem Chip.complete_faults : (c.complete src st pl v0 v1).faults = c.faults := Chip.post_faults ..
@[simp] theorem Chip.complete_ports : (c.complete src st pl v0 v1).ports = c.ports := Chip.post_ports ..
@[simp] theorem Chip.complete_groups : (c.complete src st pl v0 v1).groups = c.groups := Chip.post_groups ..
@[simp] theorem Chip.complete_bore : (c.complete src st pl v0 v1).bore = c.bore := Chip.post_bore ..
@[simp] theorem Chip.complete_attests : (c.complete src st pl v0 v1).attests = c.attests := Chip.post_attests ..
@[simp] theorem Chip.complete_mgmt : (c.complete src st pl v0 v1).mgmt = c.mgmt := Chip.post_mgmt ..
@[simp] theorem Chip.complete_gate : (c.complete src st pl v0 v1).gate = c.gate := Chip.post_gate ..
@[simp] theorem Chip.complete_hatband : (c.complete src st pl v0 v1).hatband = c.hatband := Chip.post_hatband ..
@[simp] theorem Chip.complete_mram : (c.complete src st pl v0 v1).mram = c.mram := Chip.post_mram ..
@[simp] theorem Chip.complete_readData : (c.complete src st pl v0 v1).readData = c.readData := Chip.post_readData ..

end completeUpdates

section completeForUpdates
variable (c : Chip) (src : Option CmdSrc) (st pl : W16) (v0 : W32) (v1 : W64)

@[simp] theorem Chip.completeFor_drawn : (c.completeFor src st pl v0 v1).drawn = c.drawn := by unfold Chip.completeFor; split <;> simp
@[simp] theorem Chip.completeFor_drone : (c.completeFor src st pl v0 v1).drone = c.drone := by unfold Chip.completeFor; split <;> simp
@[simp] theorem Chip.completeFor_power : (c.completeFor src st pl v0 v1).power = c.power := by unfold Chip.completeFor; split <;> simp
@[simp] theorem Chip.completeFor_pins : (c.completeFor src st pl v0 v1).pins = c.pins := by unfold Chip.completeFor; split <;> simp
@[simp] theorem Chip.completeFor_boot : (c.completeFor src st pl v0 v1).boot = c.boot := by unfold Chip.completeFor; split <;> simp
@[simp] theorem Chip.completeFor_driver : (c.completeFor src st pl v0 v1).driver = c.driver := by unfold Chip.completeFor; split <;> simp
@[simp] theorem Chip.completeFor_tenants : (c.completeFor src st pl v0 v1).tenants = c.tenants := by unfold Chip.completeFor; split <;> simp
@[simp] theorem Chip.completeFor_nparts : (c.completeFor src st pl v0 v1).nparts = c.nparts := by unfold Chip.completeFor; split <;> simp
@[simp] theorem Chip.completeFor_parts : (c.completeFor src st pl v0 v1).parts = c.parts := by unfold Chip.completeFor; split <;> simp
@[simp] theorem Chip.completeFor_partPending : (c.completeFor src st pl v0 v1).partPending = c.partPending := by unfold Chip.completeFor; split <;> simp
@[simp] theorem Chip.completeFor_placer : (c.completeFor src st pl v0 v1).placer = c.placer := by unfold Chip.completeFor; split <;> simp
@[simp] theorem Chip.completeFor_scan : (c.completeFor src st pl v0 v1).scan = c.scan := by unfold Chip.completeFor; split <;> simp
@[simp] theorem Chip.completeFor_sp : (c.completeFor src st pl v0 v1).sp = c.sp := by unfold Chip.completeFor; split <;> simp
@[simp] theorem Chip.completeFor_memObj : (c.completeFor src st pl v0 v1).memObj = c.memObj := by unfold Chip.completeFor; split <;> simp
@[simp] theorem Chip.completeFor_calPc : (c.completeFor src st pl v0 v1).calPc = c.calPc := by unfold Chip.completeFor; split <;> simp
@[simp] theorem Chip.completeFor_calDqs : (c.completeFor src st pl v0 v1).calDqs = c.calDqs := by unfold Chip.completeFor; split <;> simp
@[simp] theorem Chip.completeFor_calZq : (c.completeFor src st pl v0 v1).calZq = c.calZq := by unfold Chip.completeFor; split <;> simp
@[simp] theorem Chip.completeFor_calIsl : (c.completeFor src st pl v0 v1).calIsl = c.calIsl := by unfold Chip.completeFor; split <;> simp
@[simp] theorem Chip.completeFor_limiter : (c.completeFor src st pl v0 v1).limiter = c.limiter := by unfold Chip.completeFor; split <;> simp
@[simp] theorem Chip.completeFor_intc : (c.completeFor src st pl v0 v1).intc = c.intc := by unfold Chip.completeFor; split <;> simp
@[simp] theorem Chip.completeFor_faults : (c.completeFor src st pl v0 v1).faults = c.faults := by unfold Chip.completeFor; split <;> simp
@[simp] theorem Chip.completeFor_ports : (c.completeFor src st pl v0 v1).ports = c.ports := by unfold Chip.completeFor; split <;> simp
@[simp] theorem Chip.completeFor_groups : (c.completeFor src st pl v0 v1).groups = c.groups := by unfold Chip.completeFor; split <;> simp
@[simp] theorem Chip.completeFor_bore : (c.completeFor src st pl v0 v1).bore = c.bore := by unfold Chip.completeFor; split <;> simp
@[simp] theorem Chip.completeFor_attests : (c.completeFor src st pl v0 v1).attests = c.attests := by unfold Chip.completeFor; split <;> simp
@[simp] theorem Chip.completeFor_mgmt : (c.completeFor src st pl v0 v1).mgmt = c.mgmt := by unfold Chip.completeFor; split <;> simp
@[simp] theorem Chip.completeFor_gate : (c.completeFor src st pl v0 v1).gate = c.gate := by unfold Chip.completeFor; split <;> simp
@[simp] theorem Chip.completeFor_hatband : (c.completeFor src st pl v0 v1).hatband = c.hatband := by unfold Chip.completeFor; split <;> simp
@[simp] theorem Chip.completeFor_mram : (c.completeFor src st pl v0 v1).mram = c.mram := by unfold Chip.completeFor; split <;> simp
@[simp] theorem Chip.completeFor_readData : (c.completeFor src st pl v0 v1).readData = c.readData := by unfold Chip.completeFor; split <;> simp

end completeForUpdates

section doneUpdates
variable (c : Chip) (src : CmdSrc) (st : W16)

@[simp] theorem Chip.done_drawn : (c.done src st).drawn = c.drawn := Chip.complete_drawn ..
@[simp] theorem Chip.done_drone : (c.done src st).drone = c.drone := Chip.complete_drone ..
@[simp] theorem Chip.done_power : (c.done src st).power = c.power := Chip.complete_power ..
@[simp] theorem Chip.done_pins : (c.done src st).pins = c.pins := Chip.complete_pins ..
@[simp] theorem Chip.done_boot : (c.done src st).boot = c.boot := Chip.complete_boot ..
@[simp] theorem Chip.done_driver : (c.done src st).driver = c.driver := Chip.complete_driver ..
@[simp] theorem Chip.done_tenants : (c.done src st).tenants = c.tenants := Chip.complete_tenants ..
@[simp] theorem Chip.done_nparts : (c.done src st).nparts = c.nparts := Chip.complete_nparts ..
@[simp] theorem Chip.done_parts : (c.done src st).parts = c.parts := Chip.complete_parts ..
@[simp] theorem Chip.done_partPending : (c.done src st).partPending = c.partPending := Chip.complete_partPending ..
@[simp] theorem Chip.done_placer : (c.done src st).placer = c.placer := Chip.complete_placer ..
@[simp] theorem Chip.done_scan : (c.done src st).scan = c.scan := Chip.complete_scan ..
@[simp] theorem Chip.done_sp : (c.done src st).sp = c.sp := Chip.complete_sp ..
@[simp] theorem Chip.done_memObj : (c.done src st).memObj = c.memObj := Chip.complete_memObj ..
@[simp] theorem Chip.done_calPc : (c.done src st).calPc = c.calPc := Chip.complete_calPc ..
@[simp] theorem Chip.done_calDqs : (c.done src st).calDqs = c.calDqs := Chip.complete_calDqs ..
@[simp] theorem Chip.done_calZq : (c.done src st).calZq = c.calZq := Chip.complete_calZq ..
@[simp] theorem Chip.done_calIsl : (c.done src st).calIsl = c.calIsl := Chip.complete_calIsl ..
@[simp] theorem Chip.done_limiter : (c.done src st).limiter = c.limiter := Chip.complete_limiter ..
@[simp] theorem Chip.done_intc : (c.done src st).intc = c.intc := Chip.complete_intc ..
@[simp] theorem Chip.done_faults : (c.done src st).faults = c.faults := Chip.complete_faults ..
@[simp] theorem Chip.done_ports : (c.done src st).ports = c.ports := Chip.complete_ports ..
@[simp] theorem Chip.done_groups : (c.done src st).groups = c.groups := Chip.complete_groups ..
@[simp] theorem Chip.done_bore : (c.done src st).bore = c.bore := Chip.complete_bore ..
@[simp] theorem Chip.done_attests : (c.done src st).attests = c.attests := Chip.complete_attests ..
@[simp] theorem Chip.done_mgmt : (c.done src st).mgmt = c.mgmt := Chip.complete_mgmt ..
@[simp] theorem Chip.done_gate : (c.done src st).gate = c.gate := Chip.complete_gate ..
@[simp] theorem Chip.done_hatband : (c.done src st).hatband = c.hatband := Chip.complete_hatband ..
@[simp] theorem Chip.done_mram : (c.done src st).mram = c.mram := Chip.complete_mram ..
@[simp] theorem Chip.done_readData : (c.done src st).readData = c.readData := Chip.complete_readData ..

end doneUpdates

end Sys2Proof.Machine
end

