-- ==== Sys2Proof/Laws/Bundle.lean ====
section
/-! SUPPORT. Laws of a bundle's slots: what an issue that acts, fails or is not open answers, and what the writes of
a build change. -/

namespace Sys2Proof.Machine

@[simp] theorem State.view_run (s : State) (p : Fin 4) (r : Running) : (s.view p r).run = r := rfl
@[simp] theorem State.view_ctx (s : State) (p : Fin 4) (r : Running) : (s.view p r).ctx = r.ctx := rfl
@[simp] theorem State.view_chip (s : State) (p : Fin 4) (r : Running) : (s.view p r).chip = s.chip := rfl
@[simp] theorem State.view_mem (s : State) (p : Fin 4) (r : Running) : (s.view p r).mem = s.mem := rfl
@[simp] theorem State.view_plan (s : State) (p : Fin 4) (r : Running) : (s.view p r).plan = r.plan := rfl
@[simp] theorem State.view_buf (s : State) (p : Fin 4) (r : Running) (i : Fin 4) (row col : Nat) :
    (s.view p r).buf i row col = Buf.get r.ctx.v[i] row col := rfl

/-- A slot that is not open changes nothing. -/
theorem State.issue_closed {s : State} {i : Instr} {sl : Slot} {pos : SlotPos} {body : View → Build → Except SlotFail Build}
    (h : s.slotOpen sl pos = none) : s.issue i sl pos body = s := by simp [State.issue, h]

/-- An acting slot whose operation succeeds leaves its bundle as the operation leaves it. -/
theorem State.issue_acts {s : State} {i : Instr} {sl : Slot} {pos : SlotPos} {r : Running} {b b' : Build}
    {body : View → Build → Except SlotFail Build} (h : SlotActs s i sl pos r b)
    (hb : body (s.view sl.part r) { slotPlanned (s.view sl.part r) i b with pos := pos.num } = .ok b') :
    s.issue i sl pos body =
      (s.on fun c => c.countCes ((s.view sl.part r).correctedReads i)).slotDone sl.part r sl.more b' := by
  have ha : (anyPred i || ((s.view sl.part r).ctx.predOf sl).val) = true := by
    rcases h.acts with h | h <;> simp [h]
  simp only [State.issue, h.joins, ha, if_true, h.valid, h.reads, hb]

/-- An acting slot whose operation fails. -/
theorem State.issue_fails {s : State} {i : Instr} {sl : Slot} {pos : SlotPos} {r : Running} {b : Build} {e : SlotFail}
    {body : View → Build → Except SlotFail Build} (h : SlotActs s i sl pos r b)
    (hb : body (s.view sl.part r) { slotPlanned (s.view sl.part r) i b with pos := pos.num } = .error e) :
    s.issue i sl pos body = s.slotFails sl.part r pos.num e := by
  have ha : (anyPred i || ((s.view sl.part r).ctx.predOf sl).val) = true := by
    rcases h.acts with h | h <;> simp [h]
  simp only [State.issue, h.joins, ha, if_true, h.valid, h.reads, hb]

end Sys2Proof.Machine
end

