-- ==== Sys2Proof/Laws/Frames.lean ====
section
/-! SUPPORT. What each shared operation of the chip leaves as it was: its fields, and, where it leaves the running plans,
what runs in each partition. -/

set_option linter.unusedSimpArgs false

namespace Sys2Proof.Machine

/-- A function of the chip that every step of a fold keeps is kept by the fold. -/
theorem foldl_keeps {α β : Type} {g : Chip → β} {f : Chip → α → Chip} (h : ∀ c x, g (f c x) = g c) (l : List α) (c : Chip) :
    g (l.foldl f c) = g c := by
  induction l generalizing c with
  | nil => rfl
  | cons x xs ih => rw [List.foldl_cons, ih, h]

@[simp] theorem ite_drawn {p : Prop} [Decidable p] {a b : Chip} : (if p then a else b).drawn = if p then a.drawn else b.drawn := by split <;> rfl
@[simp] theorem foldl_drawn {α : Type} {f : Chip → α → Chip} (h : ∀ c x, (f c x).drawn = c.drawn) (l : List α) (c : Chip) :
    (l.foldl f c).drawn = c.drawn := foldl_keeps (g := Chip.drawn) h l c
@[simp] theorem ite_drone {p : Prop} [Decidable p] {a b : Chip} : (if p then a else b).drone = if p then a.drone else b.drone := by split <;> rfl
@[simp] theorem foldl_drone {α : Type} {f : Chip → α → Chip} (h : ∀ c x, (f c x).drone = c.drone) (l : List α) (c : Chip) :
    (l.foldl f c).drone = c.drone := foldl_keeps (g := Chip.drone) h l c
@[simp] theorem ite_power {p : Prop} [Decidable p] {a b : Chip} : (if p then a else b).power = if p then a.power else b.power := by split <;> rfl
@[simp] theorem foldl_power {α : Type} {f : Chip → α → Chip} (h : ∀ c x, (f c x).power = c.power) (l : List α) (c : Chip) :
    (l.foldl f c).power = c.power := foldl_keeps (g := Chip.power) h l c
@[simp] theorem ite_pins {p : Prop} [Decidable p] {a b : Chip} : (if p then a else b).pins = if p then a.pins else b.pins := by split <;> rfl
@[simp] theorem foldl_pins {α : Type} {f : Chip → α → Chip} (h : ∀ c x, (f c x).pins = c.pins) (l : List α) (c : Chip) :
    (l.foldl f c).pins = c.pins := foldl_keeps (g := Chip.pins) h l c
@[simp] theorem ite_boot {p : Prop} [Decidable p] {a b : Chip} : (if p then a else b).boot = if p then a.boot else b.boot := by split <;> rfl
@[simp] theorem foldl_boot {α : Type} {f : Chip → α → Chip} (h : ∀ c x, (f c x).boot = c.boot) (l : List α) (c : Chip) :
    (l.foldl f c).boot = c.boot := foldl_keeps (g := Chip.boot) h l c
@[simp] theorem ite_driver {p : Prop} [Decidable p] {a b : Chip} : (if p then a else b).driver = if p then a.driver else b.driver := by split <;> rfl
@[simp] theorem foldl_driver {α : Type} {f : Chip → α → Chip} (h : ∀ c x, (f c x).driver = c.driver) (l : List α) (c : Chip) :
    (l.foldl f c).driver = c.driver := foldl_keeps (g := Chip.driver) h l c
@[simp] theorem ite_pfn {p : Prop} [Decidable p] {a b : Chip} : (if p then a else b).pfn = if p then a.pfn else b.pfn := by split <;> rfl
@[simp] theorem foldl_pfn {α : Type} {f : Chip → α → Chip} (h : ∀ c x, (f c x).pfn = c.pfn) (l : List α) (c : Chip) :
    (l.foldl f c).pfn = c.pfn := foldl_keeps (g := Chip.pfn) h l c
@[simp] theorem ite_vfn {p : Prop} [Decidable p] {a b : Chip} : (if p then a else b).vfn = if p then a.vfn else b.vfn := by split <;> rfl
@[simp] theorem foldl_vfn {α : Type} {f : Chip → α → Chip} (h : ∀ c x, (f c x).vfn = c.vfn) (l : List α) (c : Chip) :
    (l.foldl f c).vfn = c.vfn := foldl_keeps (g := Chip.vfn) h l c
@[simp] theorem ite_tenants {p : Prop} [Decidable p] {a b : Chip} : (if p then a else b).tenants = if p then a.tenants else b.tenants := by split <;> rfl
@[simp] theorem foldl_tenants {α : Type} {f : Chip → α → Chip} (h : ∀ c x, (f c x).tenants = c.tenants) (l : List α) (c : Chip) :
    (l.foldl f c).tenants = c.tenants := foldl_keeps (g := Chip.tenants) h l c
@[simp] theorem ite_nparts {p : Prop} [Decidable p] {a b : Chip} : (if p then a else b).nparts = if p then a.nparts else b.nparts := by split <;> rfl
@[simp] theorem foldl_nparts {α : Type} {f : Chip → α → Chip} (h : ∀ c x, (f c x).nparts = c.nparts) (l : List α) (c : Chip) :
    (l.foldl f c).nparts = c.nparts := foldl_keeps (g := Chip.nparts) h l c
@[simp] theorem ite_parts {p : Prop} [Decidable p] {a b : Chip} : (if p then a else b).parts = if p then a.parts else b.parts := by split <;> rfl
@[simp] theorem foldl_parts {α : Type} {f : Chip → α → Chip} (h : ∀ c x, (f c x).parts = c.parts) (l : List α) (c : Chip) :
    (l.foldl f c).parts = c.parts := foldl_keeps (g := Chip.parts) h l c
@[simp] theorem ite_partPending {p : Prop} [Decidable p] {a b : Chip} : (if p then a else b).partPending = if p then a.partPending else b.partPending := by split <;> rfl
@[simp] theorem foldl_partPending {α : Type} {f : Chip → α → Chip} (h : ∀ c x, (f c x).partPending = c.partPending) (l : List α) (c : Chip) :
    (l.foldl f c).partPending = c.partPending := foldl_keeps (g := Chip.partPending) h l c
@[simp] theorem ite_placer {p : Prop} [Decidable p] {a b : Chip} : (if p then a else b).placer = if p then a.placer else b.placer := by split <;> rfl
@[simp] theorem foldl_placer {α : Type} {f : Chip → α → Chip} (h : ∀ c x, (f c x).placer = c.placer) (l : List α) (c : Chip) :
    (l.foldl f c).placer = c.placer := foldl_keeps (g := Chip.placer) h l c
@[simp] theorem ite_scan {p : Prop} [Decidable p] {a b : Chip} : (if p then a else b).scan = if p then a.scan else b.scan := by split <;> rfl
@[simp] theorem foldl_scan {α : Type} {f : Chip → α → Chip} (h : ∀ c x, (f c x).scan = c.scan) (l : List α) (c : Chip) :
    (l.foldl f c).scan = c.scan := foldl_keeps (g := Chip.scan) h l c
@[simp] theorem ite_sp {p : Prop} [Decidable p] {a b : Chip} : (if p then a else b).sp = if p then a.sp else b.sp := by split <;> rfl
@[simp] theorem foldl_sp {α : Type} {f : Chip → α → Chip} (h : ∀ c x, (f c x).sp = c.sp) (l : List α) (c : Chip) :
    (l.foldl f c).sp = c.sp := foldl_keeps (g := Chip.sp) h l c
@[simp] theorem ite_memObj {p : Prop} [Decidable p] {a b : Chip} : (if p then a else b).memObj = if p then a.memObj else b.memObj := by split <;> rfl
@[simp] theorem foldl_memObj {α : Type} {f : Chip → α → Chip} (h : ∀ c x, (f c x).memObj = c.memObj) (l : List α) (c : Chip) :
    (l.foldl f c).memObj = c.memObj := foldl_keeps (g := Chip.memObj) h l c
@[simp] theorem ite_calPc {p : Prop} [Decidable p] {a b : Chip} : (if p then a else b).calPc = if p then a.calPc else b.calPc := by split <;> rfl
@[simp] theorem foldl_calPc {α : Type} {f : Chip → α → Chip} (h : ∀ c x, (f c x).calPc = c.calPc) (l : List α) (c : Chip) :
    (l.foldl f c).calPc = c.calPc := foldl_keeps (g := Chip.calPc) h l c
@[simp] theorem ite_calDqs {p : Prop} [Decidable p] {a b : Chip} : (if p then a else b).calDqs = if p then a.calDqs else b.calDqs := by split <;> rfl
@[simp] theorem foldl_calDqs {α : Type} {f : Chip → α → Chip} (h : ∀ c x, (f c x).calDqs = c.calDqs) (l : List α) (c : Chip) :
    (l.foldl f c).calDqs = c.calDqs := foldl_keeps (g := Chip.calDqs) h l c
@[simp] theorem ite_calZq {p : Prop} [Decidable p] {a b : Chip} : (if p then a else b).calZq = if p then a.calZq else b.calZq := by split <;> rfl
@[simp] theorem foldl_calZq {α : Type} {f : Chip → α → Chip} (h : ∀ c x, (f c x).calZq = c.calZq) (l : List α) (c : Chip) :
    (l.foldl f c).calZq = c.calZq := foldl_keeps (g := Chip.calZq) h l c
@[simp] theorem ite_calIsl {p : Prop} [Decidable p] {a b : Chip} : (if p then a else b).calIsl = if p then a.calIsl else b.calIsl := by split <;> rfl
@[simp] theorem foldl_calIsl {α : Type} {f : Chip → α → Chip} (h : ∀ c x, (f c x).calIsl = c.calIsl) (l : List α) (c : Chip) :
    (l.foldl f c).calIsl = c.calIsl := foldl_keeps (g := Chip.calIsl) h l c
@[simp] theorem ite_limiter {p : Prop} [Decidable p] {a b : Chip} : (if p then a else b).limiter = if p then a.limiter else b.limiter := by split <;> rfl
@[simp] theorem foldl_limiter {α : Type} {f : Chip → α → Chip} (h : ∀ c x, (f c x).limiter = c.limiter) (l : List α) (c : Chip) :
    (l.foldl f c).limiter = c.limiter := foldl_keeps (g := Chip.limiter) h l c
@[simp] theorem ite_intc {p : Prop} [Decidable p] {a b : Chip} : (if p then a else b).intc = if p then a.intc else b.intc := by split <;> rfl
@[simp] theorem foldl_intc {α : Type} {f : Chip → α → Chip} (h : ∀ c x, (f c x).intc = c.intc) (l : List α) (c : Chip) :
    (l.foldl f c).intc = c.intc := foldl_keeps (g := Chip.intc) h l c
@[simp] theorem ite_faults {p : Prop} [Decidable p] {a b : Chip} : (if p then a else b).faults = if p then a.faults else b.faults := by split <;> rfl
@[simp] theorem foldl_faults {α : Type} {f : Chip → α → Chip} (h : ∀ c x, (f c x).faults = c.faults) (l : List α) (c : Chip) :
    (l.foldl f c).faults = c.faults := foldl_keeps (g := Chip.faults) h l c
@[simp] theorem ite_ports {p : Prop} [Decidable p] {a b : Chip} : (if p then a else b).ports = if p then a.ports else b.ports := by split <;> rfl
@[simp] theorem foldl_ports {α : Type} {f : Chip → α → Chip} (h : ∀ c x, (f c x).ports = c.ports) (l : List α) (c : Chip) :
    (l.foldl f c).ports = c.ports := foldl_keeps (g := Chip.ports) h l c
@[simp] theorem ite_groups {p : Prop} [Decidable p] {a b : Chip} : (if p then a else b).groups = if p then a.groups else b.groups := by split <;> rfl
@[simp] theorem foldl_groups {α : Type} {f : Chip → α → Chip} (h : ∀ c x, (f c x).groups = c.groups) (l : List α) (c : Chip) :
    (l.foldl f c).groups = c.groups := foldl_keeps (g := Chip.groups) h l c
@[simp] theorem ite_bore {p : Prop} [Decidable p] {a b : Chip} : (if p then a else b).bore = if p then a.bore else b.bore := by split <;> rfl
@[simp] theorem foldl_bore {α : Type} {f : Chip → α → Chip} (h : ∀ c x, (f c x).bore = c.bore) (l : List α) (c : Chip) :
    (l.foldl f c).bore = c.bore := foldl_keeps (g := Chip.bore) h l c
@[simp] theorem ite_attests {p : Prop} [Decidable p] {a b : Chip} : (if p then a else b).attests = if p then a.attests else b.attests := by split <;> rfl
@[simp] theorem foldl_attests {α : Type} {f : Chip → α → Chip} (h : ∀ c x, (f c x).attests = c.attests) (l : List α) (c : Chip) :
    (l.foldl f c).attests = c.attests := foldl_keeps (g := Chip.attests) h l c
@[simp] theorem ite_mgmt {p : Prop} [Decidable p] {a b : Chip} : (if p then a else b).mgmt = if p then a.mgmt else b.mgmt := by split <;> rfl
@[simp] theorem foldl_mgmt {α : Type} {f : Chip → α → Chip} (h : ∀ c x, (f c x).mgmt = c.mgmt) (l : List α) (c : Chip) :
    (l.foldl f c).mgmt = c.mgmt := foldl_keeps (g := Chip.mgmt) h l c
@[simp] theorem ite_gate {p : Prop} [Decidable p] {a b : Chip} : (if p then a else b).gate = if p then a.gate else b.gate := by split <;> rfl
@[simp] theorem foldl_gate {α : Type} {f : Chip → α → Chip} (h : ∀ c x, (f c x).gate = c.gate) (l : List α) (c : Chip) :
    (l.foldl f c).gate = c.gate := foldl_keeps (g := Chip.gate) h l c
@[simp] theorem ite_hatband {p : Prop} [Decidable p] {a b : Chip} : (if p then a else b).hatband = if p then a.hatband else b.hatband := by split <;> rfl
@[simp] theorem foldl_hatband {α : Type} {f : Chip → α → Chip} (h : ∀ c x, (f c x).hatband = c.hatband) (l : List α) (c : Chip) :
    (l.foldl f c).hatband = c.hatband := foldl_keeps (g := Chip.hatband) h l c
@[simp] theorem ite_mram {p : Prop} [Decidable p] {a b : Chip} : (if p then a else b).mram = if p then a.mram else b.mram := by split <;> rfl
@[simp] theorem foldl_mram {α : Type} {f : Chip → α → Chip} (h : ∀ c x, (f c x).mram = c.mram) (l : List α) (c : Chip) :
    (l.foldl f c).mram = c.mram := foldl_keeps (g := Chip.mram) h l c
@[simp] theorem ite_objs {p : Prop} [Decidable p] {a b : Chip} : (if p then a else b).objs = if p then a.objs else b.objs := by split <;> rfl
@[simp] theorem foldl_objs {α : Type} {f : Chip → α → Chip} (h : ∀ c x, (f c x).objs = c.objs) (l : List α) (c : Chip) :
    (l.foldl f c).objs = c.objs := foldl_keeps (g := Chip.objs) h l c
@[simp] theorem ite_readData {p : Prop} [Decidable p] {a b : Chip} : (if p then a else b).readData = if p then a.readData else b.readData := by split <;> rfl
@[simp] theorem foldl_readData {α : Type} {f : Chip → α → Chip} (h : ∀ c x, (f c x).readData = c.readData) (l : List α) (c : Chip) :
    (l.foldl f c).readData = c.readData := foldl_keeps (g := Chip.readData) h l c
@[simp] theorem foldl_run {α : Type} {f : Chip → α → Chip} {i : Fin 4} (h : ∀ c x, (f c x).run i = c.run i) (l : List α) (c : Chip) :
    (l.foldl f c).run i = c.run i := foldl_keeps (g := fun c => c.run i) h l c

@[simp] theorem Chip.modRing_keeps (c : Chip) (f : Fn) (r : Fin 12) (g : Ring → Ring) :
    (c.modRing f r g).drawn = c.drawn ∧ (c.modRing f r g).drone = c.drone ∧ (c.modRing f r g).power = c.power ∧
    (c.modRing f r g).pins = c.pins ∧ (c.modRing f r g).boot = c.boot ∧ (c.modRing f r g).driver = c.driver ∧
    (c.modRing f r g).tenants = c.tenants ∧ (c.modRing f r g).nparts = c.nparts ∧ (c.modRing f r g).parts = c.parts ∧
    (c.modRing f r g).partPending = c.partPending ∧ (c.modRing f r g).placer = c.placer ∧ (c.modRing f r g).scan = c.scan ∧
    (c.modRing f r g).sp = c.sp ∧ (c.modRing f r g).memObj = c.memObj ∧ (c.modRing f r g).calPc = c.calPc ∧
    (c.modRing f r g).calDqs = c.calDqs ∧ (c.modRing f r g).calZq = c.calZq ∧ (c.modRing f r g).calIsl = c.calIsl ∧
    (c.modRing f r g).limiter = c.limiter ∧ (c.modRing f r g).intc = c.intc ∧ (c.modRing f r g).faults = c.faults ∧
    (c.modRing f r g).ports = c.ports ∧ (c.modRing f r g).groups = c.groups ∧ (c.modRing f r g).bore = c.bore ∧
    (c.modRing f r g).attests = c.attests ∧ (c.modRing f r g).mgmt = c.mgmt ∧ (c.modRing f r g).gate = c.gate ∧
    (c.modRing f r g).hatband = c.hatband ∧ (c.modRing f r g).mram = c.mram ∧ (c.modRing f r g).objs = c.objs ∧
    (c.modRing f r g).readData = c.readData ∧ (∀ pp : Fin 4, (c.modRing f r g).run pp = c.run pp) := by
  unfold Chip.modRing
  first
    | (simp [Chip.run]; done)
    | ((try dsimp only) <;> (repeat' split) <;> simp [Chip.run])

@[simp] theorem Chip.signal_keeps (c : Chip) (f : Fn) (v : Fin 32) :
    (c.signal f v).drawn = c.drawn ∧ (c.signal f v).drone = c.drone ∧ (c.signal f v).power = c.power ∧
    (c.signal f v).pins = c.pins ∧ (c.signal f v).boot = c.boot ∧ (c.signal f v).driver = c.driver ∧
    (c.signal f v).tenants = c.tenants ∧ (c.signal f v).nparts = c.nparts ∧ (c.signal f v).parts = c.parts ∧
    (c.signal f v).partPending = c.partPending ∧ (c.signal f v).placer = c.placer ∧ (c.signal f v).scan = c.scan ∧
    (c.signal f v).sp = c.sp ∧ (c.signal f v).memObj = c.memObj ∧ (c.signal f v).calPc = c.calPc ∧
    (c.signal f v).calDqs = c.calDqs ∧ (c.signal f v).calZq = c.calZq ∧ (c.signal f v).calIsl = c.calIsl ∧
    (c.signal f v).limiter = c.limiter ∧ (c.signal f v).intc = c.intc ∧ (c.signal f v).faults = c.faults ∧
    (c.signal f v).ports = c.ports ∧ (c.signal f v).groups = c.groups ∧ (c.signal f v).bore = c.bore ∧
    (c.signal f v).attests = c.attests ∧ (c.signal f v).mgmt = c.mgmt ∧ (c.signal f v).gate = c.gate ∧
    (c.signal f v).hatband = c.hatband ∧ (c.signal f v).mram = c.mram ∧ (c.signal f v).objs = c.objs ∧
    (c.signal f v).readData = c.readData ∧ (∀ pp : Fin 4, (c.signal f v).run pp = c.run pp) := by
  unfold Chip.signal
  first
    | (simp [Chip.run]; done)
    | ((try dsimp only) <;> (repeat' split) <;> simp [Chip.run])

@[simp] theorem Chip.tracePoint_keeps (c : Chip) (code : W16) (status : W16) (a0 a1 : W64) :
    (c.tracePoint code status a0 a1).drawn = c.drawn ∧ (c.tracePoint code status a0 a1).drone = c.drone ∧ (c.tracePoint code status a0 a1).power = c.power ∧
    (c.tracePoint code status a0 a1).pins = c.pins ∧ (c.tracePoint code status a0 a1).boot = c.boot ∧ (c.tracePoint code status a0 a1).driver = c.driver ∧
    (c.tracePoint code status a0 a1).tenants = c.tenants ∧ (c.tracePoint code status a0 a1).nparts = c.nparts ∧ (c.tracePoint code status a0 a1).parts = c.parts ∧
    (c.tracePoint code status a0 a1).partPending = c.partPending ∧ (c.tracePoint code status a0 a1).placer = c.placer ∧ (c.tracePoint code status a0 a1).scan = c.scan ∧
    (c.tracePoint code status a0 a1).sp = c.sp ∧ (c.tracePoint code status a0 a1).memObj = c.memObj ∧ (c.tracePoint code status a0 a1).calPc = c.calPc ∧
    (c.tracePoint code status a0 a1).calDqs = c.calDqs ∧ (c.tracePoint code status a0 a1).calZq = c.calZq ∧ (c.tracePoint code status a0 a1).calIsl = c.calIsl ∧
    (c.tracePoint code status a0 a1).limiter = c.limiter ∧ (c.tracePoint code status a0 a1).intc = c.intc ∧ (c.tracePoint code status a0 a1).faults = c.faults ∧
    (c.tracePoint code status a0 a1).ports = c.ports ∧ (c.tracePoint code status a0 a1).groups = c.groups ∧ (c.tracePoint code status a0 a1).bore = c.bore ∧
    (c.tracePoint code status a0 a1).attests = c.attests ∧ (c.tracePoint code status a0 a1).mgmt = c.mgmt ∧ (c.tracePoint code status a0 a1).gate = c.gate ∧
    (c.tracePoint code status a0 a1).hatband = c.hatband ∧ (c.tracePoint code status a0 a1).mram = c.mram ∧ (c.tracePoint code status a0 a1).readData = c.readData ∧
    (∀ pp : Fin 4, (c.tracePoint code status a0 a1).run pp = c.run pp) := by
  unfold Chip.tracePoint
  first
    | (simp [Chip.run]; done)
    | ((try dsimp only) <;> (repeat' split) <;> simp [Chip.run])

@[simp] theorem Chip.hbAuth_keeps (c : Chip) (kind tenant what : Nat) (who : List Byte) :
    (c.hbAuth kind tenant what who).drawn = c.drawn ∧ (c.hbAuth kind tenant what who).drone = c.drone ∧ (c.hbAuth kind tenant what who).power = c.power ∧
    (c.hbAuth kind tenant what who).pins = c.pins ∧ (c.hbAuth kind tenant what who).boot = c.boot ∧ (c.hbAuth kind tenant what who).driver = c.driver ∧
    (c.hbAuth kind tenant what who).pfn = c.pfn ∧ (c.hbAuth kind tenant what who).vfn = c.vfn ∧ (c.hbAuth kind tenant what who).tenants = c.tenants ∧
    (c.hbAuth kind tenant what who).nparts = c.nparts ∧ (c.hbAuth kind tenant what who).parts = c.parts ∧ (c.hbAuth kind tenant what who).partPending = c.partPending ∧
    (c.hbAuth kind tenant what who).placer = c.placer ∧ (c.hbAuth kind tenant what who).scan = c.scan ∧ (c.hbAuth kind tenant what who).sp = c.sp ∧
    (c.hbAuth kind tenant what who).memObj = c.memObj ∧ (c.hbAuth kind tenant what who).calPc = c.calPc ∧ (c.hbAuth kind tenant what who).calDqs = c.calDqs ∧
    (c.hbAuth kind tenant what who).calZq = c.calZq ∧ (c.hbAuth kind tenant what who).calIsl = c.calIsl ∧ (c.hbAuth kind tenant what who).limiter = c.limiter ∧
    (c.hbAuth kind tenant what who).intc = c.intc ∧ (c.hbAuth kind tenant what who).faults = c.faults ∧ (c.hbAuth kind tenant what who).ports = c.ports ∧
    (c.hbAuth kind tenant what who).groups = c.groups ∧ (c.hbAuth kind tenant what who).bore = c.bore ∧ (c.hbAuth kind tenant what who).attests = c.attests ∧
    (c.hbAuth kind tenant what who).mgmt = c.mgmt ∧ (c.hbAuth kind tenant what who).gate = c.gate ∧ (c.hbAuth kind tenant what who).objs = c.objs ∧
    (c.hbAuth kind tenant what who).readData = c.readData ∧ (∀ pp : Fin 4, (c.hbAuth kind tenant what who).run pp = c.run pp) := by
  unfold Chip.hbAuth
  first
    | (simp [Chip.run]; done)
    | ((try dsimp only) <;> (repeat' split) <;> simp [Chip.run])

@[simp] theorem Chip.holdupEnd_keeps (c : Chip) :
    (c.holdupEnd).drawn = c.drawn ∧ (c.holdupEnd).boot = c.boot ∧ (c.holdupEnd).driver = c.driver ∧
    (c.holdupEnd).pfn = c.pfn ∧ (c.holdupEnd).vfn = c.vfn ∧ (c.holdupEnd).tenants = c.tenants ∧
    (c.holdupEnd).nparts = c.nparts ∧ (c.holdupEnd).parts = c.parts ∧ (c.holdupEnd).partPending = c.partPending ∧
    (c.holdupEnd).placer = c.placer ∧ (c.holdupEnd).scan = c.scan ∧ (c.holdupEnd).sp = c.sp ∧
    (c.holdupEnd).memObj = c.memObj ∧ (c.holdupEnd).calPc = c.calPc ∧ (c.holdupEnd).calDqs = c.calDqs ∧
    (c.holdupEnd).calZq = c.calZq ∧ (c.holdupEnd).calIsl = c.calIsl ∧ (c.holdupEnd).limiter = c.limiter ∧
    (c.holdupEnd).intc = c.intc ∧ (c.holdupEnd).faults = c.faults ∧ (c.holdupEnd).ports = c.ports ∧
    (c.holdupEnd).groups = c.groups ∧ (c.holdupEnd).bore = c.bore ∧ (c.holdupEnd).attests = c.attests ∧
    (c.holdupEnd).mgmt = c.mgmt ∧ (c.holdupEnd).gate = c.gate ∧ (c.holdupEnd).hatband = c.hatband ∧
    (c.holdupEnd).mram = c.mram ∧ (c.holdupEnd).objs = c.objs ∧ (c.holdupEnd).readData = c.readData ∧
    (∀ pp : Fin 4, (c.holdupEnd).run pp = c.run pp) := by
  unfold Chip.holdupEnd
  first
    | (simp [Chip.run]; done)
    | ((try dsimp only) <;> (repeat' split) <;> simp [Chip.run])

@[simp] theorem Chip.tick_keeps (c : Chip) :
    (c.tick).drawn = c.drawn ∧ (c.tick).boot = c.boot ∧ (c.tick).driver = c.driver ∧
    (c.tick).pfn = c.pfn ∧ (c.tick).vfn = c.vfn ∧ (c.tick).tenants = c.tenants ∧
    (c.tick).nparts = c.nparts ∧ (c.tick).parts = c.parts ∧ (c.tick).partPending = c.partPending ∧
    (c.tick).placer = c.placer ∧ (c.tick).scan = c.scan ∧ (c.tick).sp = c.sp ∧
    (c.tick).memObj = c.memObj ∧ (c.tick).calPc = c.calPc ∧ (c.tick).calDqs = c.calDqs ∧
    (c.tick).calZq = c.calZq ∧ (c.tick).calIsl = c.calIsl ∧ (c.tick).intc = c.intc ∧
    (c.tick).faults = c.faults ∧ (c.tick).ports = c.ports ∧ (c.tick).groups = c.groups ∧
    (c.tick).bore = c.bore ∧ (c.tick).attests = c.attests ∧ (c.tick).mgmt = c.mgmt ∧
    (c.tick).gate = c.gate ∧ (c.tick).hatband = c.hatband ∧ (c.tick).objs = c.objs ∧
    (c.tick).readData = c.readData ∧ (∀ pp : Fin 4, (c.tick).run pp = c.run pp) := by
  unfold Chip.tick
  first
    | (simp [Chip.run]; done)
    | ((try dsimp only) <;> (repeat' split) <;> simp [Chip.run])

@[simp] theorem Chip.modPort_keeps (c : Chip) (p : Fin 16) (f : Port → Port) :
    (c.modPort p f).drawn = c.drawn ∧ (c.modPort p f).drone = c.drone ∧ (c.modPort p f).power = c.power ∧
    (c.modPort p f).pins = c.pins ∧ (c.modPort p f).boot = c.boot ∧ (c.modPort p f).driver = c.driver ∧
    (c.modPort p f).pfn = c.pfn ∧ (c.modPort p f).vfn = c.vfn ∧ (c.modPort p f).tenants = c.tenants ∧
    (c.modPort p f).nparts = c.nparts ∧ (c.modPort p f).parts = c.parts ∧ (c.modPort p f).partPending = c.partPending ∧
    (c.modPort p f).placer = c.placer ∧ (c.modPort p f).scan = c.scan ∧ (c.modPort p f).sp = c.sp ∧
    (c.modPort p f).memObj = c.memObj ∧ (c.modPort p f).calPc = c.calPc ∧ (c.modPort p f).calDqs = c.calDqs ∧
    (c.modPort p f).calZq = c.calZq ∧ (c.modPort p f).calIsl = c.calIsl ∧ (c.modPort p f).limiter = c.limiter ∧
    (c.modPort p f).intc = c.intc ∧ (c.modPort p f).faults = c.faults ∧ (c.modPort p f).groups = c.groups ∧
    (c.modPort p f).bore = c.bore ∧ (c.modPort p f).attests = c.attests ∧ (c.modPort p f).mgmt = c.mgmt ∧
    (c.modPort p f).gate = c.gate ∧ (c.modPort p f).hatband = c.hatband ∧ (c.modPort p f).mram = c.mram ∧
    (c.modPort p f).objs = c.objs ∧ (c.modPort p f).readData = c.readData ∧ (∀ pp : Fin 4, (c.modPort p f).run pp = c.run pp) := by
  unfold Chip.modPort
  first
    | (simp [Chip.run]; done)
    | ((try dsimp only) <;> (repeat' split) <;> simp [Chip.run])

@[simp] theorem Chip.modGroup_keeps (c : Chip) (g : BitVec 12) (f : Group → Group) :
    (c.modGroup g f).drawn = c.drawn ∧ (c.modGroup g f).drone = c.drone ∧ (c.modGroup g f).power = c.power ∧
    (c.modGroup g f).pins = c.pins ∧ (c.modGroup g f).boot = c.boot ∧ (c.modGroup g f).driver = c.driver ∧
    (c.modGroup g f).pfn = c.pfn ∧ (c.modGroup g f).vfn = c.vfn ∧ (c.modGroup g f).tenants = c.tenants ∧
    (c.modGroup g f).nparts = c.nparts ∧ (c.modGroup g f).parts = c.parts ∧ (c.modGroup g f).partPending = c.partPending ∧
    (c.modGroup g f).placer = c.placer ∧ (c.modGroup g f).scan = c.scan ∧ (c.modGroup g f).sp = c.sp ∧
    (c.modGroup g f).memObj = c.memObj ∧ (c.modGroup g f).calPc = c.calPc ∧ (c.modGroup g f).calDqs = c.calDqs ∧
    (c.modGroup g f).calZq = c.calZq ∧ (c.modGroup g f).calIsl = c.calIsl ∧ (c.modGroup g f).limiter = c.limiter ∧
    (c.modGroup g f).intc = c.intc ∧ (c.modGroup g f).faults = c.faults ∧ (c.modGroup g f).ports = c.ports ∧
    (c.modGroup g f).bore = c.bore ∧ (c.modGroup g f).attests = c.attests ∧ (c.modGroup g f).mgmt = c.mgmt ∧
    (c.modGroup g f).gate = c.gate ∧ (c.modGroup g f).hatband = c.hatband ∧ (c.modGroup g f).mram = c.mram ∧
    (c.modGroup g f).objs = c.objs ∧ (c.modGroup g f).readData = c.readData ∧ (∀ pp : Fin 4, (c.modGroup g f).run pp = c.run pp) := by
  unfold Chip.modGroup
  first
    | (simp [Chip.run]; done)
    | ((try dsimp only) <;> (repeat' split) <;> simp [Chip.run])

@[simp] theorem Chip.touch_keeps (c : Chip) (g : BitVec 12) :
    (c.touch g).drawn = c.drawn ∧ (c.touch g).drone = c.drone ∧ (c.touch g).power = c.power ∧
    (c.touch g).pins = c.pins ∧ (c.touch g).boot = c.boot ∧ (c.touch g).driver = c.driver ∧
    (c.touch g).pfn = c.pfn ∧ (c.touch g).vfn = c.vfn ∧ (c.touch g).tenants = c.tenants ∧
    (c.touch g).nparts = c.nparts ∧ (c.touch g).parts = c.parts ∧ (c.touch g).partPending = c.partPending ∧
    (c.touch g).placer = c.placer ∧ (c.touch g).scan = c.scan ∧ (c.touch g).sp = c.sp ∧
    (c.touch g).memObj = c.memObj ∧ (c.touch g).calPc = c.calPc ∧ (c.touch g).calDqs = c.calDqs ∧
    (c.touch g).calZq = c.calZq ∧ (c.touch g).calIsl = c.calIsl ∧ (c.touch g).limiter = c.limiter ∧
    (c.touch g).intc = c.intc ∧ (c.touch g).faults = c.faults ∧ (c.touch g).ports = c.ports ∧
    (c.touch g).bore = c.bore ∧ (c.touch g).attests = c.attests ∧ (c.touch g).mgmt = c.mgmt ∧
    (c.touch g).gate = c.gate ∧ (c.touch g).hatband = c.hatband ∧ (c.touch g).mram = c.mram ∧
    (c.touch g).objs = c.objs ∧ (c.touch g).readData = c.readData ∧ (∀ pp : Fin 4, (c.touch g).run pp = c.run pp) := by
  unfold Chip.touch
  first
    | (simp [Chip.run]; done)
    | ((try dsimp only) <;> (repeat' split) <;> simp [Chip.run])

@[simp] theorem Chip.transmit_keeps (c : Chip) (p : Fin 16) (mk : BoreHdr → TxFrame) :
    (c.transmit p mk).drawn = c.drawn ∧ (c.transmit p mk).drone = c.drone ∧ (c.transmit p mk).power = c.power ∧
    (c.transmit p mk).pins = c.pins ∧ (c.transmit p mk).boot = c.boot ∧ (c.transmit p mk).driver = c.driver ∧
    (c.transmit p mk).pfn = c.pfn ∧ (c.transmit p mk).vfn = c.vfn ∧ (c.transmit p mk).tenants = c.tenants ∧
    (c.transmit p mk).nparts = c.nparts ∧ (c.transmit p mk).parts = c.parts ∧ (c.transmit p mk).partPending = c.partPending ∧
    (c.transmit p mk).placer = c.placer ∧ (c.transmit p mk).scan = c.scan ∧ (c.transmit p mk).sp = c.sp ∧
    (c.transmit p mk).memObj = c.memObj ∧ (c.transmit p mk).calPc = c.calPc ∧ (c.transmit p mk).calDqs = c.calDqs ∧
    (c.transmit p mk).calZq = c.calZq ∧ (c.transmit p mk).calIsl = c.calIsl ∧ (c.transmit p mk).limiter = c.limiter ∧
    (c.transmit p mk).intc = c.intc ∧ (c.transmit p mk).faults = c.faults ∧ (c.transmit p mk).groups = c.groups ∧
    (c.transmit p mk).bore = c.bore ∧ (c.transmit p mk).attests = c.attests ∧ (c.transmit p mk).mgmt = c.mgmt ∧
    (c.transmit p mk).gate = c.gate ∧ (c.transmit p mk).hatband = c.hatband ∧ (c.transmit p mk).mram = c.mram ∧
    (c.transmit p mk).objs = c.objs ∧ (c.transmit p mk).readData = c.readData ∧ (∀ pp : Fin 4, (c.transmit p mk).run pp = c.run pp) := by
  unfold Chip.transmit
  first
    | (simp [Chip.run]; done)
    | ((try dsimp only) <;> (repeat' split) <;> simp [Chip.run])

@[simp] theorem Chip.pumpPort_keeps (c : Chip) (p : Fin 16) :
    (c.pumpPort p).drawn = c.drawn ∧ (c.pumpPort p).drone = c.drone ∧ (c.pumpPort p).power = c.power ∧
    (c.pumpPort p).pins = c.pins ∧ (c.pumpPort p).boot = c.boot ∧ (c.pumpPort p).driver = c.driver ∧
    (c.pumpPort p).pfn = c.pfn ∧ (c.pumpPort p).vfn = c.vfn ∧ (c.pumpPort p).tenants = c.tenants ∧
    (c.pumpPort p).nparts = c.nparts ∧ (c.pumpPort p).parts = c.parts ∧ (c.pumpPort p).partPending = c.partPending ∧
    (c.pumpPort p).placer = c.placer ∧ (c.pumpPort p).scan = c.scan ∧ (c.pumpPort p).sp = c.sp ∧
    (c.pumpPort p).memObj = c.memObj ∧ (c.pumpPort p).calPc = c.calPc ∧ (c.pumpPort p).calDqs = c.calDqs ∧
    (c.pumpPort p).calZq = c.calZq ∧ (c.pumpPort p).calIsl = c.calIsl ∧ (c.pumpPort p).limiter = c.limiter ∧
    (c.pumpPort p).intc = c.intc ∧ (c.pumpPort p).faults = c.faults ∧ (c.pumpPort p).groups = c.groups ∧
    (c.pumpPort p).bore = c.bore ∧ (c.pumpPort p).attests = c.attests ∧ (c.pumpPort p).mgmt = c.mgmt ∧
    (c.pumpPort p).gate = c.gate ∧ (c.pumpPort p).hatband = c.hatband ∧ (c.pumpPort p).mram = c.mram ∧
    (c.pumpPort p).objs = c.objs ∧ (c.pumpPort p).readData = c.readData ∧ (∀ pp : Fin 4, (c.pumpPort p).run pp = c.run pp) := by
  unfold Chip.pumpPort
  first
    | (simp [Chip.run]; done)
    | ((try dsimp only) <;> (repeat' split) <;> simp [Chip.run])

@[simp] theorem Chip.sendData_keeps (c : Chip) (p : Fin 16) (f : DataFrame) :
    (c.sendData p f).drawn = c.drawn ∧ (c.sendData p f).drone = c.drone ∧ (c.sendData p f).power = c.power ∧
    (c.sendData p f).pins = c.pins ∧ (c.sendData p f).boot = c.boot ∧ (c.sendData p f).driver = c.driver ∧
    (c.sendData p f).pfn = c.pfn ∧ (c.sendData p f).vfn = c.vfn ∧ (c.sendData p f).tenants = c.tenants ∧
    (c.sendData p f).nparts = c.nparts ∧ (c.sendData p f).parts = c.parts ∧ (c.sendData p f).partPending = c.partPending ∧
    (c.sendData p f).placer = c.placer ∧ (c.sendData p f).scan = c.scan ∧ (c.sendData p f).sp = c.sp ∧
    (c.sendData p f).memObj = c.memObj ∧ (c.sendData p f).calPc = c.calPc ∧ (c.sendData p f).calDqs = c.calDqs ∧
    (c.sendData p f).calZq = c.calZq ∧ (c.sendData p f).calIsl = c.calIsl ∧ (c.sendData p f).limiter = c.limiter ∧
    (c.sendData p f).intc = c.intc ∧ (c.sendData p f).faults = c.faults ∧ (c.sendData p f).groups = c.groups ∧
    (c.sendData p f).bore = c.bore ∧ (c.sendData p f).attests = c.attests ∧ (c.sendData p f).mgmt = c.mgmt ∧
    (c.sendData p f).gate = c.gate ∧ (c.sendData p f).hatband = c.hatband ∧ (c.sendData p f).mram = c.mram ∧
    (c.sendData p f).objs = c.objs ∧ (c.sendData p f).readData = c.readData ∧ (∀ pp : Fin 4, (c.sendData p f).run pp = c.run pp) := by
  unfold Chip.sendData
  first
    | (simp [Chip.run]; done)
    | ((try dsimp only) <;> (repeat' split) <;> simp [Chip.run])

@[simp] theorem Chip.resendPort_keeps (c : Chip) (p : Fin 16) :
    (c.resendPort p).drawn = c.drawn ∧ (c.resendPort p).drone = c.drone ∧ (c.resendPort p).power = c.power ∧
    (c.resendPort p).pins = c.pins ∧ (c.resendPort p).boot = c.boot ∧ (c.resendPort p).driver = c.driver ∧
    (c.resendPort p).pfn = c.pfn ∧ (c.resendPort p).vfn = c.vfn ∧ (c.resendPort p).tenants = c.tenants ∧
    (c.resendPort p).nparts = c.nparts ∧ (c.resendPort p).parts = c.parts ∧ (c.resendPort p).partPending = c.partPending ∧
    (c.resendPort p).placer = c.placer ∧ (c.resendPort p).sp = c.sp ∧ (c.resendPort p).memObj = c.memObj ∧
    (c.resendPort p).calPc = c.calPc ∧ (c.resendPort p).calDqs = c.calDqs ∧ (c.resendPort p).calZq = c.calZq ∧
    (c.resendPort p).calIsl = c.calIsl ∧ (c.resendPort p).limiter = c.limiter ∧ (c.resendPort p).intc = c.intc ∧
    (c.resendPort p).faults = c.faults ∧ (c.resendPort p).groups = c.groups ∧ (c.resendPort p).bore = c.bore ∧
    (c.resendPort p).attests = c.attests ∧ (c.resendPort p).mgmt = c.mgmt ∧ (c.resendPort p).gate = c.gate ∧
    (c.resendPort p).hatband = c.hatband ∧ (c.resendPort p).mram = c.mram ∧ (c.resendPort p).objs = c.objs ∧
    (c.resendPort p).readData = c.readData ∧ (∀ pp : Fin 4, (c.resendPort p).run pp = c.run pp) := by
  unfold Chip.resendPort
  first
    | (simp [Chip.run]; done)
    | ((try dsimp only) <;> (repeat' split) <;> simp [Chip.run])

@[simp] theorem Chip.sendHop_keeps (c : Chip) (ps : List (Fin 16)) (k : Nat) (fs : List DataFrame) :
    (c.sendHop ps k fs).drawn = c.drawn ∧ (c.sendHop ps k fs).drone = c.drone ∧ (c.sendHop ps k fs).power = c.power ∧
    (c.sendHop ps k fs).pins = c.pins ∧ (c.sendHop ps k fs).boot = c.boot ∧ (c.sendHop ps k fs).driver = c.driver ∧
    (c.sendHop ps k fs).pfn = c.pfn ∧ (c.sendHop ps k fs).vfn = c.vfn ∧ (c.sendHop ps k fs).tenants = c.tenants ∧
    (c.sendHop ps k fs).nparts = c.nparts ∧ (c.sendHop ps k fs).parts = c.parts ∧ (c.sendHop ps k fs).partPending = c.partPending ∧
    (c.sendHop ps k fs).placer = c.placer ∧ (c.sendHop ps k fs).scan = c.scan ∧ (c.sendHop ps k fs).sp = c.sp ∧
    (c.sendHop ps k fs).memObj = c.memObj ∧ (c.sendHop ps k fs).calPc = c.calPc ∧ (c.sendHop ps k fs).calDqs = c.calDqs ∧
    (c.sendHop ps k fs).calZq = c.calZq ∧ (c.sendHop ps k fs).calIsl = c.calIsl ∧ (c.sendHop ps k fs).limiter = c.limiter ∧
    (c.sendHop ps k fs).intc = c.intc ∧ (c.sendHop ps k fs).faults = c.faults ∧ (c.sendHop ps k fs).groups = c.groups ∧
    (c.sendHop ps k fs).bore = c.bore ∧ (c.sendHop ps k fs).attests = c.attests ∧ (c.sendHop ps k fs).mgmt = c.mgmt ∧
    (c.sendHop ps k fs).gate = c.gate ∧ (c.sendHop ps k fs).hatband = c.hatband ∧ (c.sendHop ps k fs).mram = c.mram ∧
    (c.sendHop ps k fs).objs = c.objs ∧ (c.sendHop ps k fs).readData = c.readData ∧ (∀ pp : Fin 4, (c.sendHop ps k fs).run pp = c.run pp) := by
  unfold Chip.sendHop
  first
    | (simp [Chip.run]; done)
    | ((try dsimp only) <;> (repeat' split) <;> simp [Chip.run])

@[simp] theorem Chip.sendAbort_keeps (c : Chip) (ps : List (Fin 16)) (grp : BitVec 12) (sqn : W32) (status cause : W16) :
    (c.sendAbort ps grp sqn status cause).drawn = c.drawn ∧ (c.sendAbort ps grp sqn status cause).drone = c.drone ∧ (c.sendAbort ps grp sqn status cause).power = c.power ∧
    (c.sendAbort ps grp sqn status cause).pins = c.pins ∧ (c.sendAbort ps grp sqn status cause).boot = c.boot ∧ (c.sendAbort ps grp sqn status cause).driver = c.driver ∧
    (c.sendAbort ps grp sqn status cause).pfn = c.pfn ∧ (c.sendAbort ps grp sqn status cause).vfn = c.vfn ∧ (c.sendAbort ps grp sqn status cause).tenants = c.tenants ∧
    (c.sendAbort ps grp sqn status cause).nparts = c.nparts ∧ (c.sendAbort ps grp sqn status cause).parts = c.parts ∧ (c.sendAbort ps grp sqn status cause).partPending = c.partPending ∧
    (c.sendAbort ps grp sqn status cause).placer = c.placer ∧ (c.sendAbort ps grp sqn status cause).scan = c.scan ∧ (c.sendAbort ps grp sqn status cause).sp = c.sp ∧
    (c.sendAbort ps grp sqn status cause).memObj = c.memObj ∧ (c.sendAbort ps grp sqn status cause).calPc = c.calPc ∧ (c.sendAbort ps grp sqn status cause).calDqs = c.calDqs ∧
    (c.sendAbort ps grp sqn status cause).calZq = c.calZq ∧ (c.sendAbort ps grp sqn status cause).calIsl = c.calIsl ∧ (c.sendAbort ps grp sqn status cause).limiter = c.limiter ∧
    (c.sendAbort ps grp sqn status cause).intc = c.intc ∧ (c.sendAbort ps grp sqn status cause).faults = c.faults ∧ (c.sendAbort ps grp sqn status cause).groups = c.groups ∧
    (c.sendAbort ps grp sqn status cause).bore = c.bore ∧ (c.sendAbort ps grp sqn status cause).attests = c.attests ∧ (c.sendAbort ps grp sqn status cause).mgmt = c.mgmt ∧
    (c.sendAbort ps grp sqn status cause).gate = c.gate ∧ (c.sendAbort ps grp sqn status cause).hatband = c.hatband ∧ (c.sendAbort ps grp sqn status cause).mram = c.mram ∧
    (c.sendAbort ps grp sqn status cause).objs = c.objs ∧ (c.sendAbort ps grp sqn status cause).readData = c.readData ∧ (∀ pp : Fin 4, (c.sendAbort ps grp sqn status cause).run pp = c.run pp) := by
  unfold Chip.sendAbort
  first
    | (simp [Chip.run]; done)
    | ((try dsimp only) <;> (repeat' split) <;> simp [Chip.run])

@[simp] theorem Chip.endGroup_keeps (c : Chip) (g : Group) (skip : List (Fin 16)) (status cause : W16) :
    (c.endGroup g skip status cause).drawn = c.drawn ∧ (c.endGroup g skip status cause).drone = c.drone ∧ (c.endGroup g skip status cause).power = c.power ∧
    (c.endGroup g skip status cause).pins = c.pins ∧ (c.endGroup g skip status cause).boot = c.boot ∧ (c.endGroup g skip status cause).driver = c.driver ∧
    (c.endGroup g skip status cause).pfn = c.pfn ∧ (c.endGroup g skip status cause).vfn = c.vfn ∧ (c.endGroup g skip status cause).tenants = c.tenants ∧
    (c.endGroup g skip status cause).nparts = c.nparts ∧ (c.endGroup g skip status cause).parts = c.parts ∧ (c.endGroup g skip status cause).partPending = c.partPending ∧
    (c.endGroup g skip status cause).placer = c.placer ∧ (c.endGroup g skip status cause).scan = c.scan ∧ (c.endGroup g skip status cause).sp = c.sp ∧
    (c.endGroup g skip status cause).memObj = c.memObj ∧ (c.endGroup g skip status cause).calPc = c.calPc ∧ (c.endGroup g skip status cause).calDqs = c.calDqs ∧
    (c.endGroup g skip status cause).calZq = c.calZq ∧ (c.endGroup g skip status cause).calIsl = c.calIsl ∧ (c.endGroup g skip status cause).limiter = c.limiter ∧
    (c.endGroup g skip status cause).intc = c.intc ∧ (c.endGroup g skip status cause).faults = c.faults ∧ (c.endGroup g skip status cause).bore = c.bore ∧
    (c.endGroup g skip status cause).attests = c.attests ∧ (c.endGroup g skip status cause).mgmt = c.mgmt ∧ (c.endGroup g skip status cause).gate = c.gate ∧
    (c.endGroup g skip status cause).hatband = c.hatband ∧ (c.endGroup g skip status cause).mram = c.mram ∧ (c.endGroup g skip status cause).objs = c.objs ∧
    (c.endGroup g skip status cause).readData = c.readData ∧ (∀ pp : Fin 4, (c.endGroup g skip status cause).run pp = c.run pp) := by
  unfold Chip.endGroup
  first
    | (simp [Chip.run]; done)
    | ((try dsimp only) <;> (repeat' split) <;> simp [Chip.run])

@[simp] theorem Chip.countLost_keeps (c : Chip) (q : Option (Fin 16)) (cause : W16) :
    (c.countLost q cause).drawn = c.drawn ∧ (c.countLost q cause).drone = c.drone ∧ (c.countLost q cause).power = c.power ∧
    (c.countLost q cause).pins = c.pins ∧ (c.countLost q cause).boot = c.boot ∧ (c.countLost q cause).driver = c.driver ∧
    (c.countLost q cause).pfn = c.pfn ∧ (c.countLost q cause).vfn = c.vfn ∧ (c.countLost q cause).tenants = c.tenants ∧
    (c.countLost q cause).nparts = c.nparts ∧ (c.countLost q cause).parts = c.parts ∧ (c.countLost q cause).partPending = c.partPending ∧
    (c.countLost q cause).placer = c.placer ∧ (c.countLost q cause).scan = c.scan ∧ (c.countLost q cause).sp = c.sp ∧
    (c.countLost q cause).memObj = c.memObj ∧ (c.countLost q cause).calPc = c.calPc ∧ (c.countLost q cause).calDqs = c.calDqs ∧
    (c.countLost q cause).calZq = c.calZq ∧ (c.countLost q cause).calIsl = c.calIsl ∧ (c.countLost q cause).limiter = c.limiter ∧
    (c.countLost q cause).intc = c.intc ∧ (c.countLost q cause).faults = c.faults ∧ (c.countLost q cause).ports = c.ports ∧
    (c.countLost q cause).groups = c.groups ∧ (c.countLost q cause).attests = c.attests ∧ (c.countLost q cause).mgmt = c.mgmt ∧
    (c.countLost q cause).gate = c.gate ∧ (c.countLost q cause).hatband = c.hatband ∧ (c.countLost q cause).mram = c.mram ∧
    (c.countLost q cause).objs = c.objs ∧ (c.countLost q cause).readData = c.readData ∧ (∀ pp : Fin 4, (c.countLost q cause).run pp = c.run pp) := by
  unfold Chip.countLost
  first
    | (simp [Chip.run]; done)
    | ((try dsimp only) <;> (repeat' split) <;> simp [Chip.run])

@[simp] theorem Chip.dropWaiting_keeps (c : Chip) (grp : BitVec 12) :
    (c.dropWaiting grp).drawn = c.drawn ∧ (c.dropWaiting grp).drone = c.drone ∧ (c.dropWaiting grp).power = c.power ∧
    (c.dropWaiting grp).pins = c.pins ∧ (c.dropWaiting grp).boot = c.boot ∧ (c.dropWaiting grp).driver = c.driver ∧
    (c.dropWaiting grp).pfn = c.pfn ∧ (c.dropWaiting grp).vfn = c.vfn ∧ (c.dropWaiting grp).tenants = c.tenants ∧
    (c.dropWaiting grp).nparts = c.nparts ∧ (c.dropWaiting grp).parts = c.parts ∧ (c.dropWaiting grp).partPending = c.partPending ∧
    (c.dropWaiting grp).placer = c.placer ∧ (c.dropWaiting grp).scan = c.scan ∧ (c.dropWaiting grp).sp = c.sp ∧
    (c.dropWaiting grp).memObj = c.memObj ∧ (c.dropWaiting grp).calPc = c.calPc ∧ (c.dropWaiting grp).calDqs = c.calDqs ∧
    (c.dropWaiting grp).calZq = c.calZq ∧ (c.dropWaiting grp).calIsl = c.calIsl ∧ (c.dropWaiting grp).limiter = c.limiter ∧
    (c.dropWaiting grp).intc = c.intc ∧ (c.dropWaiting grp).faults = c.faults ∧ (c.dropWaiting grp).groups = c.groups ∧
    (c.dropWaiting grp).bore = c.bore ∧ (c.dropWaiting grp).attests = c.attests ∧ (c.dropWaiting grp).mgmt = c.mgmt ∧
    (c.dropWaiting grp).gate = c.gate ∧ (c.dropWaiting grp).hatband = c.hatband ∧ (c.dropWaiting grp).mram = c.mram ∧
    (c.dropWaiting grp).objs = c.objs ∧ (c.dropWaiting grp).readData = c.readData ∧ (∀ pp : Fin 4, (c.dropWaiting grp).run pp = c.run pp) := by
  unfold Chip.dropWaiting
  first
    | (simp [Chip.run]; done)
    | ((try dsimp only) <;> (repeat' split) <;> simp [Chip.run])

@[simp] theorem Chip.setPoint_keeps (c : Chip) (i : Fin 77) (mhz : Nat) :
    (c.setPoint i mhz).drone = c.drone ∧ (c.setPoint i mhz).power = c.power ∧ (c.setPoint i mhz).pins = c.pins ∧
    (c.setPoint i mhz).boot = c.boot ∧ (c.setPoint i mhz).driver = c.driver ∧ (c.setPoint i mhz).pfn = c.pfn ∧
    (c.setPoint i mhz).vfn = c.vfn ∧ (c.setPoint i mhz).tenants = c.tenants ∧ (c.setPoint i mhz).nparts = c.nparts ∧
    (c.setPoint i mhz).parts = c.parts ∧ (c.setPoint i mhz).partPending = c.partPending ∧ (c.setPoint i mhz).placer = c.placer ∧
    (c.setPoint i mhz).scan = c.scan ∧ (c.setPoint i mhz).sp = c.sp ∧ (c.setPoint i mhz).memObj = c.memObj ∧
    (c.setPoint i mhz).calPc = c.calPc ∧ (c.setPoint i mhz).calDqs = c.calDqs ∧ (c.setPoint i mhz).calZq = c.calZq ∧
    (c.setPoint i mhz).calIsl = c.calIsl ∧ (c.setPoint i mhz).intc = c.intc ∧ (c.setPoint i mhz).faults = c.faults ∧
    (c.setPoint i mhz).ports = c.ports ∧ (c.setPoint i mhz).groups = c.groups ∧ (c.setPoint i mhz).bore = c.bore ∧
    (c.setPoint i mhz).attests = c.attests ∧ (c.setPoint i mhz).mgmt = c.mgmt ∧ (c.setPoint i mhz).gate = c.gate ∧
    (c.setPoint i mhz).hatband = c.hatband ∧ (c.setPoint i mhz).mram = c.mram ∧ (c.setPoint i mhz).objs = c.objs ∧
    (c.setPoint i mhz).readData = c.readData ∧ (∀ pp : Fin 4, (c.setPoint i mhz).run pp = c.run pp) := by
  unfold Chip.setPoint
  first
    | (simp [Chip.run]; done)
    | ((try dsimp only) <;> (repeat' split) <;> simp [Chip.run])

@[simp] theorem Chip.setSegment_keeps (c : Chip) (p : Fin 4) (plan : Plan) (x : TraceSeg) :
    (c.setSegment p plan x).drone = c.drone ∧ (c.setSegment p plan x).power = c.power ∧ (c.setSegment p plan x).pins = c.pins ∧
    (c.setSegment p plan x).boot = c.boot ∧ (c.setSegment p plan x).driver = c.driver ∧ (c.setSegment p plan x).pfn = c.pfn ∧
    (c.setSegment p plan x).vfn = c.vfn ∧ (c.setSegment p plan x).tenants = c.tenants ∧ (c.setSegment p plan x).nparts = c.nparts ∧
    (c.setSegment p plan x).parts = c.parts ∧ (c.setSegment p plan x).partPending = c.partPending ∧ (c.setSegment p plan x).placer = c.placer ∧
    (c.setSegment p plan x).scan = c.scan ∧ (c.setSegment p plan x).sp = c.sp ∧ (c.setSegment p plan x).memObj = c.memObj ∧
    (c.setSegment p plan x).calPc = c.calPc ∧ (c.setSegment p plan x).calDqs = c.calDqs ∧ (c.setSegment p plan x).calZq = c.calZq ∧
    (c.setSegment p plan x).calIsl = c.calIsl ∧ (c.setSegment p plan x).intc = c.intc ∧ (c.setSegment p plan x).faults = c.faults ∧
    (c.setSegment p plan x).ports = c.ports ∧ (c.setSegment p plan x).groups = c.groups ∧ (c.setSegment p plan x).bore = c.bore ∧
    (c.setSegment p plan x).attests = c.attests ∧ (c.setSegment p plan x).mgmt = c.mgmt ∧ (c.setSegment p plan x).gate = c.gate ∧
    (c.setSegment p plan x).hatband = c.hatband ∧ (c.setSegment p plan x).mram = c.mram ∧ (c.setSegment p plan x).objs = c.objs ∧
    (c.setSegment p plan x).readData = c.readData ∧ (∀ pp : Fin 4, (c.setSegment p plan x).run pp = c.run pp) := by
  unfold Chip.setSegment
  first
    | (simp [Chip.run]; done)
    | ((try dsimp only) <;> (repeat' split) <;> simp [Chip.run])

@[simp] theorem Chip.resetSegments_keeps (c : Chip) :
    (c.resetSegments).drone = c.drone ∧ (c.resetSegments).power = c.power ∧ (c.resetSegments).pins = c.pins ∧
    (c.resetSegments).boot = c.boot ∧ (c.resetSegments).driver = c.driver ∧ (c.resetSegments).pfn = c.pfn ∧
    (c.resetSegments).vfn = c.vfn ∧ (c.resetSegments).tenants = c.tenants ∧ (c.resetSegments).nparts = c.nparts ∧
    (c.resetSegments).parts = c.parts ∧ (c.resetSegments).partPending = c.partPending ∧ (c.resetSegments).placer = c.placer ∧
    (c.resetSegments).scan = c.scan ∧ (c.resetSegments).sp = c.sp ∧ (c.resetSegments).memObj = c.memObj ∧
    (c.resetSegments).calPc = c.calPc ∧ (c.resetSegments).calDqs = c.calDqs ∧ (c.resetSegments).calZq = c.calZq ∧
    (c.resetSegments).calIsl = c.calIsl ∧ (c.resetSegments).intc = c.intc ∧ (c.resetSegments).faults = c.faults ∧
    (c.resetSegments).ports = c.ports ∧ (c.resetSegments).groups = c.groups ∧ (c.resetSegments).bore = c.bore ∧
    (c.resetSegments).attests = c.attests ∧ (c.resetSegments).mgmt = c.mgmt ∧ (c.resetSegments).gate = c.gate ∧
    (c.resetSegments).hatband = c.hatband ∧ (c.resetSegments).mram = c.mram ∧ (c.resetSegments).objs = c.objs ∧
    (c.resetSegments).readData = c.readData ∧ (∀ pp : Fin 4, (c.resetSegments).run pp = c.run pp) := by
  unfold Chip.resetSegments
  (try dsimp only [Chip.draw256]); and_intros
  · repeat' (first | (simp [Chip.run, Chip.draw256]; done) | intro _ | with_reducible refine (foldl_drone ?_ _ _).trans ?_ | simp | split)
  · repeat' (first | (simp [Chip.run, Chip.draw256]; done) | intro _ | with_reducible refine (foldl_power ?_ _ _).trans ?_ | simp | split)
  · repeat' (first | (simp [Chip.run, Chip.draw256]; done) | intro _ | with_reducible refine (foldl_pins ?_ _ _).trans ?_ | simp | split)
  · repeat' (first | (simp [Chip.run, Chip.draw256]; done) | intro _ | with_reducible refine (foldl_boot ?_ _ _).trans ?_ | simp | split)
  · repeat' (first | (simp [Chip.run, Chip.draw256]; done) | intro _ | with_reducible refine (foldl_driver ?_ _ _).trans ?_ | simp | split)
  · repeat' (first | (simp [Chip.run, Chip.draw256]; done) | intro _ | with_reducible refine (foldl_pfn ?_ _ _).trans ?_ | simp | split)
  · repeat' (first | (simp [Chip.run, Chip.draw256]; done) | intro _ | with_reducible refine (foldl_vfn ?_ _ _).trans ?_ | simp | split)
  · repeat' (first | (simp [Chip.run, Chip.draw256]; done) | intro _ | with_reducible refine (foldl_tenants ?_ _ _).trans ?_ | simp | split)
  · repeat' (first | (simp [Chip.run, Chip.draw256]; done) | intro _ | with_reducible refine (foldl_nparts ?_ _ _).trans ?_ | simp | split)
  · repeat' (first | (simp [Chip.run, Chip.draw256]; done) | intro _ | with_reducible refine (foldl_parts ?_ _ _).trans ?_ | simp | split)
  · repeat' (first | (simp [Chip.run, Chip.draw256]; done) | intro _ | with_reducible refine (foldl_partPending ?_ _ _).trans ?_ | simp | split)
  · repeat' (first | (simp [Chip.run, Chip.draw256]; done) | intro _ | with_reducible refine (foldl_placer ?_ _ _).trans ?_ | simp | split)
  · repeat' (first | (simp [Chip.run, Chip.draw256]; done) | intro _ | with_reducible refine (foldl_scan ?_ _ _).trans ?_ | simp | split)
  · repeat' (first | (simp [Chip.run, Chip.draw256]; done) | intro _ | with_reducible refine (foldl_sp ?_ _ _).trans ?_ | simp | split)
  · repeat' (first | (simp [Chip.run, Chip.draw256]; done) | intro _ | with_reducible refine (foldl_memObj ?_ _ _).trans ?_ | simp | split)
  · repeat' (first | (simp [Chip.run, Chip.draw256]; done) | intro _ | with_reducible refine (foldl_calPc ?_ _ _).trans ?_ | simp | split)
  · repeat' (first | (simp [Chip.run, Chip.draw256]; done) | intro _ | with_reducible refine (foldl_calDqs ?_ _ _).trans ?_ | simp | split)
  · repeat' (first | (simp [Chip.run, Chip.draw256]; done) | intro _ | with_reducible refine (foldl_calZq ?_ _ _).trans ?_ | simp | split)
  · repeat' (first | (simp [Chip.run, Chip.draw256]; done) | intro _ | with_reducible refine (foldl_calIsl ?_ _ _).trans ?_ | simp | split)
  · repeat' (first | (simp [Chip.run, Chip.draw256]; done) | intro _ | with_reducible refine (foldl_intc ?_ _ _).trans ?_ | simp | split)
  · repeat' (first | (simp [Chip.run, Chip.draw256]; done) | intro _ | with_reducible refine (foldl_faults ?_ _ _).trans ?_ | simp | split)
  · repeat' (first | (simp [Chip.run, Chip.draw256]; done) | intro _ | with_reducible refine (foldl_ports ?_ _ _).trans ?_ | simp | split)
  · repeat' (first | (simp [Chip.run, Chip.draw256]; done) | intro _ | with_reducible refine (foldl_groups ?_ _ _).trans ?_ | simp | split)
  · repeat' (first | (simp [Chip.run, Chip.draw256]; done) | intro _ | with_reducible refine (foldl_bore ?_ _ _).trans ?_ | simp | split)
  · repeat' (first | (simp [Chip.run, Chip.draw256]; done) | intro _ | with_reducible refine (foldl_attests ?_ _ _).trans ?_ | simp | split)
  · repeat' (first | (simp [Chip.run, Chip.draw256]; done) | intro _ | with_reducible refine (foldl_mgmt ?_ _ _).trans ?_ | simp | split)
  · repeat' (first | (simp [Chip.run, Chip.draw256]; done) | intro _ | with_reducible refine (foldl_gate ?_ _ _).trans ?_ | simp | split)
  · repeat' (first | (simp [Chip.run, Chip.draw256]; done) | intro _ | with_reducible refine (foldl_hatband ?_ _ _).trans ?_ | simp | split)
  · repeat' (first | (simp [Chip.run, Chip.draw256]; done) | intro _ | with_reducible refine (foldl_mram ?_ _ _).trans ?_ | simp | split)
  · repeat' (first | (simp [Chip.run, Chip.draw256]; done) | intro _ | with_reducible refine (foldl_objs ?_ _ _).trans ?_ | simp | split)
  · repeat' (first | (simp [Chip.run, Chip.draw256]; done) | intro _ | with_reducible refine (foldl_readData ?_ _ _).trans ?_ | simp | split)
  · intro pp; refine congrArg (fun v : Vector Part 4 => v[pp].run) ?_; repeat' (first | (simp [Chip.run, Chip.draw256]; done) | intro _ | with_reducible refine (foldl_parts ?_ _ _).trans ?_ | simp | split)

@[simp] theorem Chip.applyCap_keeps (c : Chip) :
    (c.applyCap).drone = c.drone ∧ (c.applyCap).power = c.power ∧ (c.applyCap).pins = c.pins ∧
    (c.applyCap).boot = c.boot ∧ (c.applyCap).driver = c.driver ∧ (c.applyCap).pfn = c.pfn ∧
    (c.applyCap).vfn = c.vfn ∧ (c.applyCap).tenants = c.tenants ∧ (c.applyCap).nparts = c.nparts ∧
    (c.applyCap).parts = c.parts ∧ (c.applyCap).partPending = c.partPending ∧ (c.applyCap).placer = c.placer ∧
    (c.applyCap).scan = c.scan ∧ (c.applyCap).sp = c.sp ∧ (c.applyCap).memObj = c.memObj ∧
    (c.applyCap).calPc = c.calPc ∧ (c.applyCap).calDqs = c.calDqs ∧ (c.applyCap).calZq = c.calZq ∧
    (c.applyCap).calIsl = c.calIsl ∧ (c.applyCap).intc = c.intc ∧ (c.applyCap).faults = c.faults ∧
    (c.applyCap).ports = c.ports ∧ (c.applyCap).groups = c.groups ∧ (c.applyCap).bore = c.bore ∧
    (c.applyCap).attests = c.attests ∧ (c.applyCap).mgmt = c.mgmt ∧ (c.applyCap).gate = c.gate ∧
    (c.applyCap).hatband = c.hatband ∧ (c.applyCap).mram = c.mram ∧ (c.applyCap).objs = c.objs ∧
    (c.applyCap).readData = c.readData ∧ (∀ pp : Fin 4, (c.applyCap).run pp = c.run pp) := by
  unfold Chip.applyCap
  (try dsimp only [Chip.draw256]); and_intros
  · repeat' (first | (simp [Chip.run, Chip.draw256]; done) | intro _ | with_reducible refine (foldl_drone ?_ _ _).trans ?_ | simp | split)
  · repeat' (first | (simp [Chip.run, Chip.draw256]; done) | intro _ | with_reducible refine (foldl_power ?_ _ _).trans ?_ | simp | split)
  · repeat' (first | (simp [Chip.run, Chip.draw256]; done) | intro _ | with_reducible refine (foldl_pins ?_ _ _).trans ?_ | simp | split)
  · repeat' (first | (simp [Chip.run, Chip.draw256]; done) | intro _ | with_reducible refine (foldl_boot ?_ _ _).trans ?_ | simp | split)
  · repeat' (first | (simp [Chip.run, Chip.draw256]; done) | intro _ | with_reducible refine (foldl_driver ?_ _ _).trans ?_ | simp | split)
  · repeat' (first | (simp [Chip.run, Chip.draw256]; done) | intro _ | with_reducible refine (foldl_pfn ?_ _ _).trans ?_ | simp | split)
  · repeat' (first | (simp [Chip.run, Chip.draw256]; done) | intro _ | with_reducible refine (foldl_vfn ?_ _ _).trans ?_ | simp | split)
  · repeat' (first | (simp [Chip.run, Chip.draw256]; done) | intro _ | with_reducible refine (foldl_tenants ?_ _ _).trans ?_ | simp | split)
  · repeat' (first | (simp [Chip.run, Chip.draw256]; done) | intro _ | with_reducible refine (foldl_nparts ?_ _ _).trans ?_ | simp | split)
  · repeat' (first | (simp [Chip.run, Chip.draw256]; done) | intro _ | with_reducible refine (foldl_parts ?_ _ _).trans ?_ | simp | split)
  · repeat' (first | (simp [Chip.run, Chip.draw256]; done) | intro _ | with_reducible refine (foldl_partPending ?_ _ _).trans ?_ | simp | split)
  · repeat' (first | (simp [Chip.run, Chip.draw256]; done) | intro _ | with_reducible refine (foldl_placer ?_ _ _).trans ?_ | simp | split)
  · repeat' (first | (simp [Chip.run, Chip.draw256]; done) | intro _ | with_reducible refine (foldl_scan ?_ _ _).trans ?_ | simp | split)
  · repeat' (first | (simp [Chip.run, Chip.draw256]; done) | intro _ | with_reducible refine (foldl_sp ?_ _ _).trans ?_ | simp | split)
  · repeat' (first | (simp [Chip.run, Chip.draw256]; done) | intro _ | with_reducible refine (foldl_memObj ?_ _ _).trans ?_ | simp | split)
  · repeat' (first | (simp [Chip.run, Chip.draw256]; done) | intro _ | with_reducible refine (foldl_calPc ?_ _ _).trans ?_ | simp | split)
  · repeat' (first | (simp [Chip.run, Chip.draw256]; done) | intro _ | with_reducible refine (foldl_calDqs ?_ _ _).trans ?_ | simp | split)
  · repeat' (first | (simp [Chip.run, Chip.draw256]; done) | intro _ | with_reducible refine (foldl_calZq ?_ _ _).trans ?_ | simp | split)
  · repeat' (first | (simp [Chip.run, Chip.draw256]; done) | intro _ | with_reducible refine (foldl_calIsl ?_ _ _).trans ?_ | simp | split)
  · repeat' (first | (simp [Chip.run, Chip.draw256]; done) | intro _ | with_reducible refine (foldl_intc ?_ _ _).trans ?_ | simp | split)
  · repeat' (first | (simp [Chip.run, Chip.draw256]; done) | intro _ | with_reducible refine (foldl_faults ?_ _ _).trans ?_ | simp | split)
  · repeat' (first | (simp [Chip.run, Chip.draw256]; done) | intro _ | with_reducible refine (foldl_ports ?_ _ _).trans ?_ | simp | split)
  · repeat' (first | (simp [Chip.run, Chip.draw256]; done) | intro _ | with_reducible refine (foldl_groups ?_ _ _).trans ?_ | simp | split)
  · repeat' (first | (simp [Chip.run, Chip.draw256]; done) | intro _ | with_reducible refine (foldl_bore ?_ _ _).trans ?_ | simp | split)
  · repeat' (first | (simp [Chip.run, Chip.draw256]; done) | intro _ | with_reducible refine (foldl_attests ?_ _ _).trans ?_ | simp | split)
  · repeat' (first | (simp [Chip.run, Chip.draw256]; done) | intro _ | with_reducible refine (foldl_mgmt ?_ _ _).trans ?_ | simp | split)
  · repeat' (first | (simp [Chip.run, Chip.draw256]; done) | intro _ | with_reducible refine (foldl_gate ?_ _ _).trans ?_ | simp | split)
  · repeat' (first | (simp [Chip.run, Chip.draw256]; done) | intro _ | with_reducible refine (foldl_hatband ?_ _ _).trans ?_ | simp | split)
  · repeat' (first | (simp [Chip.run, Chip.draw256]; done) | intro _ | with_reducible refine (foldl_mram ?_ _ _).trans ?_ | simp | split)
  · repeat' (first | (simp [Chip.run, Chip.draw256]; done) | intro _ | with_reducible refine (foldl_objs ?_ _ _).trans ?_ | simp | split)
  · repeat' (first | (simp [Chip.run, Chip.draw256]; done) | intro _ | with_reducible refine (foldl_readData ?_ _ _).trans ?_ | simp | split)
  · intro pp; refine congrArg (fun v : Vector Part 4 => v[pp].run) ?_; repeat' (first | (simp [Chip.run, Chip.draw256]; done) | intro _ | with_reducible refine (foldl_parts ?_ _ _).trans ?_ | simp | split)

@[simp] theorem Chip.commitWith_keeps (c : Chip) (p : Fin 4) (bound : Bool) (moved : List (Fin 384 × Nat)) :
    (c.commitWith p bound moved).drone = c.drone ∧ (c.commitWith p bound moved).power = c.power ∧ (c.commitWith p bound moved).pins = c.pins ∧
    (c.commitWith p bound moved).boot = c.boot ∧ (c.commitWith p bound moved).driver = c.driver ∧ (c.commitWith p bound moved).pfn = c.pfn ∧
    (c.commitWith p bound moved).vfn = c.vfn ∧ (c.commitWith p bound moved).tenants = c.tenants ∧ (c.commitWith p bound moved).nparts = c.nparts ∧
    (c.commitWith p bound moved).partPending = c.partPending ∧ (c.commitWith p bound moved).placer = c.placer ∧ (c.commitWith p bound moved).scan = c.scan ∧
    (c.commitWith p bound moved).sp = c.sp ∧ (c.commitWith p bound moved).calPc = c.calPc ∧ (c.commitWith p bound moved).calDqs = c.calDqs ∧
    (c.commitWith p bound moved).calZq = c.calZq ∧ (c.commitWith p bound moved).calIsl = c.calIsl ∧ (c.commitWith p bound moved).intc = c.intc ∧
    (c.commitWith p bound moved).faults = c.faults ∧ (c.commitWith p bound moved).ports = c.ports ∧ (c.commitWith p bound moved).groups = c.groups ∧
    (c.commitWith p bound moved).bore = c.bore ∧ (c.commitWith p bound moved).attests = c.attests ∧ (c.commitWith p bound moved).mgmt = c.mgmt ∧
    (c.commitWith p bound moved).gate = c.gate ∧ (c.commitWith p bound moved).hatband = c.hatband ∧ (c.commitWith p bound moved).mram = c.mram ∧
    (c.commitWith p bound moved).objs = c.objs ∧ (c.commitWith p bound moved).readData = c.readData := by
  unfold Chip.commitWith
  (try dsimp only [Chip.draw256]); and_intros
  · repeat' (first | (simp [Chip.run, Chip.draw256]; done) | intro _ | with_reducible refine (foldl_drone ?_ _ _).trans ?_ | simp | split)
  · repeat' (first | (simp [Chip.run, Chip.draw256]; done) | intro _ | with_reducible refine (foldl_power ?_ _ _).trans ?_ | simp | split)
  · repeat' (first | (simp [Chip.run, Chip.draw256]; done) | intro _ | with_reducible refine (foldl_pins ?_ _ _).trans ?_ | simp | split)
  · repeat' (first | (simp [Chip.run, Chip.draw256]; done) | intro _ | with_reducible refine (foldl_boot ?_ _ _).trans ?_ | simp | split)
  · repeat' (first | (simp [Chip.run, Chip.draw256]; done) | intro _ | with_reducible refine (foldl_driver ?_ _ _).trans ?_ | simp | split)
  · repeat' (first | (simp [Chip.run, Chip.draw256]; done) | intro _ | with_reducible refine (foldl_pfn ?_ _ _).trans ?_ | simp | split)
  · repeat' (first | (simp [Chip.run, Chip.draw256]; done) | intro _ | with_reducible refine (foldl_vfn ?_ _ _).trans ?_ | simp | split)
  · repeat' (first | (simp [Chip.run, Chip.draw256]; done) | intro _ | with_reducible refine (foldl_tenants ?_ _ _).trans ?_ | simp | split)
  · repeat' (first | (simp [Chip.run, Chip.draw256]; done) | intro _ | with_reducible refine (foldl_nparts ?_ _ _).trans ?_ | simp | split)
  · repeat' (first | (simp [Chip.run, Chip.draw256]; done) | intro _ | with_reducible refine (foldl_partPending ?_ _ _).trans ?_ | simp | split)
  · repeat' (first | (simp [Chip.run, Chip.draw256]; done) | intro _ | with_reducible refine (foldl_placer ?_ _ _).trans ?_ | simp | split)
  · repeat' (first | (simp [Chip.run, Chip.draw256]; done) | intro _ | with_reducible refine (foldl_scan ?_ _ _).trans ?_ | simp | split)
  · repeat' (first | (simp [Chip.run, Chip.draw256]; done) | intro _ | with_reducible refine (foldl_sp ?_ _ _).trans ?_ | simp | split)
  · repeat' (first | (simp [Chip.run, Chip.draw256]; done) | intro _ | with_reducible refine (foldl_calPc ?_ _ _).trans ?_ | simp | split)
  · repeat' (first | (simp [Chip.run, Chip.draw256]; done) | intro _ | with_reducible refine (foldl_calDqs ?_ _ _).trans ?_ | simp | split)
  · repeat' (first | (simp [Chip.run, Chip.draw256]; done) | intro _ | with_reducible refine (foldl_calZq ?_ _ _).trans ?_ | simp | split)
  · repeat' (first | (simp [Chip.run, Chip.draw256]; done) | intro _ | with_reducible refine (foldl_calIsl ?_ _ _).trans ?_ | simp | split)
  · repeat' (first | (simp [Chip.run, Chip.draw256]; done) | intro _ | with_reducible refine (foldl_intc ?_ _ _).trans ?_ | simp | split)
  · repeat' (first | (simp [Chip.run, Chip.draw256]; done) | intro _ | with_reducible refine (foldl_faults ?_ _ _).trans ?_ | simp | split)
  · repeat' (first | (simp [Chip.run, Chip.draw256]; done) | intro _ | with_reducible refine (foldl_ports ?_ _ _).trans ?_ | simp | split)
  · repeat' (first | (simp [Chip.run, Chip.draw256]; done) | intro _ | with_reducible refine (foldl_groups ?_ _ _).trans ?_ | simp | split)
  · repeat' (first | (simp [Chip.run, Chip.draw256]; done) | intro _ | with_reducible refine (foldl_bore ?_ _ _).trans ?_ | simp | split)
  · repeat' (first | (simp [Chip.run, Chip.draw256]; done) | intro _ | with_reducible refine (foldl_attests ?_ _ _).trans ?_ | simp | split)
  · repeat' (first | (simp [Chip.run, Chip.draw256]; done) | intro _ | with_reducible refine (foldl_mgmt ?_ _ _).trans ?_ | simp | split)
  · repeat' (first | (simp [Chip.run, Chip.draw256]; done) | intro _ | with_reducible refine (foldl_gate ?_ _ _).trans ?_ | simp | split)
  · repeat' (first | (simp [Chip.run, Chip.draw256]; done) | intro _ | with_reducible refine (foldl_hatband ?_ _ _).trans ?_ | simp | split)
  · repeat' (first | (simp [Chip.run, Chip.draw256]; done) | intro _ | with_reducible refine (foldl_mram ?_ _ _).trans ?_ | simp | split)
  · repeat' (first | (simp [Chip.run, Chip.draw256]; done) | intro _ | with_reducible refine (foldl_objs ?_ _ _).trans ?_ | simp | split)
  · repeat' (first | (simp [Chip.run, Chip.draw256]; done) | intro _ | with_reducible refine (foldl_readData ?_ _ _).trans ?_ | simp | split)

@[simp] theorem Chip.commitAt_keeps (c : Chip) (p : Fin 4) :
    (c.commitAt p).drone = c.drone ∧ (c.commitAt p).power = c.power ∧ (c.commitAt p).pins = c.pins ∧
    (c.commitAt p).boot = c.boot ∧ (c.commitAt p).driver = c.driver ∧ (c.commitAt p).pfn = c.pfn ∧
    (c.commitAt p).vfn = c.vfn ∧ (c.commitAt p).tenants = c.tenants ∧ (c.commitAt p).nparts = c.nparts ∧
    (c.commitAt p).partPending = c.partPending ∧ (c.commitAt p).placer = c.placer ∧ (c.commitAt p).scan = c.scan ∧
    (c.commitAt p).sp = c.sp ∧ (c.commitAt p).calPc = c.calPc ∧ (c.commitAt p).calDqs = c.calDqs ∧
    (c.commitAt p).calZq = c.calZq ∧ (c.commitAt p).calIsl = c.calIsl ∧ (c.commitAt p).intc = c.intc ∧
    (c.commitAt p).faults = c.faults ∧ (c.commitAt p).ports = c.ports ∧ (c.commitAt p).groups = c.groups ∧
    (c.commitAt p).bore = c.bore ∧ (c.commitAt p).attests = c.attests ∧ (c.commitAt p).mgmt = c.mgmt ∧
    (c.commitAt p).gate = c.gate ∧ (c.commitAt p).hatband = c.hatband ∧ (c.commitAt p).mram = c.mram ∧
    (c.commitAt p).objs = c.objs ∧ (c.commitAt p).readData = c.readData := by
  unfold Chip.commitAt
  (try dsimp only [Chip.draw256]); and_intros
  · repeat' (first | (simp [Chip.run, Chip.draw256]; done) | intro _ | with_reducible refine (foldl_drone ?_ _ _).trans ?_ | simp | split)
  · repeat' (first | (simp [Chip.run, Chip.draw256]; done) | intro _ | with_reducible refine (foldl_power ?_ _ _).trans ?_ | simp | split)
  · repeat' (first | (simp [Chip.run, Chip.draw256]; done) | intro _ | with_reducible refine (foldl_pins ?_ _ _).trans ?_ | simp | split)
  · repeat' (first | (simp [Chip.run, Chip.draw256]; done) | intro _ | with_reducible refine (foldl_boot ?_ _ _).trans ?_ | simp | split)
  · repeat' (first | (simp [Chip.run, Chip.draw256]; done) | intro _ | with_reducible refine (foldl_driver ?_ _ _).trans ?_ | simp | split)
  · repeat' (first | (simp [Chip.run, Chip.draw256]; done) | intro _ | with_reducible refine (foldl_pfn ?_ _ _).trans ?_ | simp | split)
  · repeat' (first | (simp [Chip.run, Chip.draw256]; done) | intro _ | with_reducible refine (foldl_vfn ?_ _ _).trans ?_ | simp | split)
  · repeat' (first | (simp [Chip.run, Chip.draw256]; done) | intro _ | with_reducible refine (foldl_tenants ?_ _ _).trans ?_ | simp | split)
  · repeat' (first | (simp [Chip.run, Chip.draw256]; done) | intro _ | with_reducible refine (foldl_nparts ?_ _ _).trans ?_ | simp | split)
  · repeat' (first | (simp [Chip.run, Chip.draw256]; done) | intro _ | with_reducible refine (foldl_partPending ?_ _ _).trans ?_ | simp | split)
  · repeat' (first | (simp [Chip.run, Chip.draw256]; done) | intro _ | with_reducible refine (foldl_placer ?_ _ _).trans ?_ | simp | split)
  · repeat' (first | (simp [Chip.run, Chip.draw256]; done) | intro _ | with_reducible refine (foldl_scan ?_ _ _).trans ?_ | simp | split)
  · repeat' (first | (simp [Chip.run, Chip.draw256]; done) | intro _ | with_reducible refine (foldl_sp ?_ _ _).trans ?_ | simp | split)
  · repeat' (first | (simp [Chip.run, Chip.draw256]; done) | intro _ | with_reducible refine (foldl_calPc ?_ _ _).trans ?_ | simp | split)
  · repeat' (first | (simp [Chip.run, Chip.draw256]; done) | intro _ | with_reducible refine (foldl_calDqs ?_ _ _).trans ?_ | simp | split)
  · repeat' (first | (simp [Chip.run, Chip.draw256]; done) | intro _ | with_reducible refine (foldl_calZq ?_ _ _).trans ?_ | simp | split)
  · repeat' (first | (simp [Chip.run, Chip.draw256]; done) | intro _ | with_reducible refine (foldl_calIsl ?_ _ _).trans ?_ | simp | split)
  · repeat' (first | (simp [Chip.run, Chip.draw256]; done) | intro _ | with_reducible refine (foldl_intc ?_ _ _).trans ?_ | simp | split)
  · repeat' (first | (simp [Chip.run, Chip.draw256]; done) | intro _ | with_reducible refine (foldl_faults ?_ _ _).trans ?_ | simp | split)
  · repeat' (first | (simp [Chip.run, Chip.draw256]; done) | intro _ | with_reducible refine (foldl_ports ?_ _ _).trans ?_ | simp | split)
  · repeat' (first | (simp [Chip.run, Chip.draw256]; done) | intro _ | with_reducible refine (foldl_groups ?_ _ _).trans ?_ | simp | split)
  · repeat' (first | (simp [Chip.run, Chip.draw256]; done) | intro _ | with_reducible refine (foldl_bore ?_ _ _).trans ?_ | simp | split)
  · repeat' (first | (simp [Chip.run, Chip.draw256]; done) | intro _ | with_reducible refine (foldl_attests ?_ _ _).trans ?_ | simp | split)
  · repeat' (first | (simp [Chip.run, Chip.draw256]; done) | intro _ | with_reducible refine (foldl_mgmt ?_ _ _).trans ?_ | simp | split)
  · repeat' (first | (simp [Chip.run, Chip.draw256]; done) | intro _ | with_reducible refine (foldl_gate ?_ _ _).trans ?_ | simp | split)
  · repeat' (first | (simp [Chip.run, Chip.draw256]; done) | intro _ | with_reducible refine (foldl_hatband ?_ _ _).trans ?_ | simp | split)
  · repeat' (first | (simp [Chip.run, Chip.draw256]; done) | intro _ | with_reducible refine (foldl_mram ?_ _ _).trans ?_ | simp | split)
  · repeat' (first | (simp [Chip.run, Chip.draw256]; done) | intro _ | with_reducible refine (foldl_objs ?_ _ _).trans ?_ | simp | split)
  · repeat' (first | (simp [Chip.run, Chip.draw256]; done) | intro _ | with_reducible refine (foldl_readData ?_ _ _).trans ?_ | simp | split)

@[simp] theorem Chip.commit_keeps (c : Chip) (p : Fin 4) :
    (c.commit p).drone = c.drone ∧ (c.commit p).power = c.power ∧ (c.commit p).pins = c.pins ∧
    (c.commit p).boot = c.boot ∧ (c.commit p).driver = c.driver ∧ (c.commit p).pfn = c.pfn ∧
    (c.commit p).vfn = c.vfn ∧ (c.commit p).tenants = c.tenants ∧ (c.commit p).nparts = c.nparts ∧
    (c.commit p).partPending = c.partPending ∧ (c.commit p).placer = c.placer ∧ (c.commit p).scan = c.scan ∧
    (c.commit p).sp = c.sp ∧ (c.commit p).calPc = c.calPc ∧ (c.commit p).calDqs = c.calDqs ∧
    (c.commit p).calZq = c.calZq ∧ (c.commit p).calIsl = c.calIsl ∧ (c.commit p).intc = c.intc ∧
    (c.commit p).faults = c.faults ∧ (c.commit p).ports = c.ports ∧ (c.commit p).groups = c.groups ∧
    (c.commit p).bore = c.bore ∧ (c.commit p).attests = c.attests ∧ (c.commit p).mgmt = c.mgmt ∧
    (c.commit p).gate = c.gate ∧ (c.commit p).hatband = c.hatband ∧ (c.commit p).mram = c.mram ∧
    (c.commit p).objs = c.objs ∧ (c.commit p).readData = c.readData := by
  unfold Chip.commit
  (try dsimp only [Chip.draw256]); and_intros
  · repeat' (first | (simp [Chip.run, Chip.draw256]; done) | intro _ | with_reducible refine (foldl_drone ?_ _ _).trans ?_ | simp | split)
  · repeat' (first | (simp [Chip.run, Chip.draw256]; done) | intro _ | with_reducible refine (foldl_power ?_ _ _).trans ?_ | simp | split)
  · repeat' (first | (simp [Chip.run, Chip.draw256]; done) | intro _ | with_reducible refine (foldl_pins ?_ _ _).trans ?_ | simp | split)
  · repeat' (first | (simp [Chip.run, Chip.draw256]; done) | intro _ | with_reducible refine (foldl_boot ?_ _ _).trans ?_ | simp | split)
  · repeat' (first | (simp [Chip.run, Chip.draw256]; done) | intro _ | with_reducible refine (foldl_driver ?_ _ _).trans ?_ | simp | split)
  · repeat' (first | (simp [Chip.run, Chip.draw256]; done) | intro _ | with_reducible refine (foldl_pfn ?_ _ _).trans ?_ | simp | split)
  · repeat' (first | (simp [Chip.run, Chip.draw256]; done) | intro _ | with_reducible refine (foldl_vfn ?_ _ _).trans ?_ | simp | split)
  · repeat' (first | (simp [Chip.run, Chip.draw256]; done) | intro _ | with_reducible refine (foldl_tenants ?_ _ _).trans ?_ | simp | split)
  · repeat' (first | (simp [Chip.run, Chip.draw256]; done) | intro _ | with_reducible refine (foldl_nparts ?_ _ _).trans ?_ | simp | split)
  · repeat' (first | (simp [Chip.run, Chip.draw256]; done) | intro _ | with_reducible refine (foldl_partPending ?_ _ _).trans ?_ | simp | split)
  · repeat' (first | (simp [Chip.run, Chip.draw256]; done) | intro _ | with_reducible refine (foldl_placer ?_ _ _).trans ?_ | simp | split)
  · repeat' (first | (simp [Chip.run, Chip.draw256]; done) | intro _ | with_reducible refine (foldl_scan ?_ _ _).trans ?_ | simp | split)
  · repeat' (first | (simp [Chip.run, Chip.draw256]; done) | intro _ | with_reducible refine (foldl_sp ?_ _ _).trans ?_ | simp | split)
  · repeat' (first | (simp [Chip.run, Chip.draw256]; done) | intro _ | with_reducible refine (foldl_calPc ?_ _ _).trans ?_ | simp | split)
  · repeat' (first | (simp [Chip.run, Chip.draw256]; done) | intro _ | with_reducible refine (foldl_calDqs ?_ _ _).trans ?_ | simp | split)
  · repeat' (first | (simp [Chip.run, Chip.draw256]; done) | intro _ | with_reducible refine (foldl_calZq ?_ _ _).trans ?_ | simp | split)
  · repeat' (first | (simp [Chip.run, Chip.draw256]; done) | intro _ | with_reducible refine (foldl_calIsl ?_ _ _).trans ?_ | simp | split)
  · repeat' (first | (simp [Chip.run, Chip.draw256]; done) | intro _ | with_reducible refine (foldl_intc ?_ _ _).trans ?_ | simp | split)
  · repeat' (first | (simp [Chip.run, Chip.draw256]; done) | intro _ | with_reducible refine (foldl_faults ?_ _ _).trans ?_ | simp | split)
  · repeat' (first | (simp [Chip.run, Chip.draw256]; done) | intro _ | with_reducible refine (foldl_ports ?_ _ _).trans ?_ | simp | split)
  · repeat' (first | (simp [Chip.run, Chip.draw256]; done) | intro _ | with_reducible refine (foldl_groups ?_ _ _).trans ?_ | simp | split)
  · repeat' (first | (simp [Chip.run, Chip.draw256]; done) | intro _ | with_reducible refine (foldl_bore ?_ _ _).trans ?_ | simp | split)
  · repeat' (first | (simp [Chip.run, Chip.draw256]; done) | intro _ | with_reducible refine (foldl_attests ?_ _ _).trans ?_ | simp | split)
  · repeat' (first | (simp [Chip.run, Chip.draw256]; done) | intro _ | with_reducible refine (foldl_mgmt ?_ _ _).trans ?_ | simp | split)
  · repeat' (first | (simp [Chip.run, Chip.draw256]; done) | intro _ | with_reducible refine (foldl_gate ?_ _ _).trans ?_ | simp | split)
  · repeat' (first | (simp [Chip.run, Chip.draw256]; done) | intro _ | with_reducible refine (foldl_hatband ?_ _ _).trans ?_ | simp | split)
  · repeat' (first | (simp [Chip.run, Chip.draw256]; done) | intro _ | with_reducible refine (foldl_mram ?_ _ _).trans ?_ | simp | split)
  · repeat' (first | (simp [Chip.run, Chip.draw256]; done) | intro _ | with_reducible refine (foldl_objs ?_ _ _).trans ?_ | simp | split)
  · repeat' (first | (simp [Chip.run, Chip.draw256]; done) | intro _ | with_reducible refine (foldl_readData ?_ _ _).trans ?_ | simp | split)

@[simp] theorem Chip.replayOver_keeps (c : Chip) (p : Fin 4) :
    (c.replayOver p).drawn = c.drawn ∧ (c.replayOver p).drone = c.drone ∧ (c.replayOver p).power = c.power ∧
    (c.replayOver p).pins = c.pins ∧ (c.replayOver p).boot = c.boot ∧ (c.replayOver p).driver = c.driver ∧
    (c.replayOver p).tenants = c.tenants ∧ (c.replayOver p).nparts = c.nparts ∧ (c.replayOver p).partPending = c.partPending ∧
    (c.replayOver p).placer = c.placer ∧ (c.replayOver p).scan = c.scan ∧ (c.replayOver p).sp = c.sp ∧
    (c.replayOver p).calPc = c.calPc ∧ (c.replayOver p).calDqs = c.calDqs ∧ (c.replayOver p).calZq = c.calZq ∧
    (c.replayOver p).calIsl = c.calIsl ∧ (c.replayOver p).limiter = c.limiter ∧ (c.replayOver p).intc = c.intc ∧
    (c.replayOver p).faults = c.faults ∧ (c.replayOver p).ports = c.ports ∧ (c.replayOver p).groups = c.groups ∧
    (c.replayOver p).bore = c.bore ∧ (c.replayOver p).attests = c.attests ∧ (c.replayOver p).mgmt = c.mgmt ∧
    (c.replayOver p).gate = c.gate ∧ (c.replayOver p).hatband = c.hatband ∧ (c.replayOver p).mram = c.mram ∧
    (c.replayOver p).readData = c.readData := by
  unfold Chip.replayOver
  first
    | (simp [Chip.run]; done)
    | ((try dsimp only) <;> (repeat' split) <;> simp [Chip.run])

@[simp] theorem Chip.replayCheck_keeps (c : Chip) (p : Fin 4) :
    (c.replayCheck p).drawn = c.drawn ∧ (c.replayCheck p).drone = c.drone ∧ (c.replayCheck p).power = c.power ∧
    (c.replayCheck p).pins = c.pins ∧ (c.replayCheck p).boot = c.boot ∧ (c.replayCheck p).driver = c.driver ∧
    (c.replayCheck p).tenants = c.tenants ∧ (c.replayCheck p).nparts = c.nparts ∧ (c.replayCheck p).partPending = c.partPending ∧
    (c.replayCheck p).placer = c.placer ∧ (c.replayCheck p).scan = c.scan ∧ (c.replayCheck p).sp = c.sp ∧
    (c.replayCheck p).calPc = c.calPc ∧ (c.replayCheck p).calDqs = c.calDqs ∧ (c.replayCheck p).calZq = c.calZq ∧
    (c.replayCheck p).calIsl = c.calIsl ∧ (c.replayCheck p).limiter = c.limiter ∧ (c.replayCheck p).intc = c.intc ∧
    (c.replayCheck p).faults = c.faults ∧ (c.replayCheck p).ports = c.ports ∧ (c.replayCheck p).groups = c.groups ∧
    (c.replayCheck p).bore = c.bore ∧ (c.replayCheck p).attests = c.attests ∧ (c.replayCheck p).mgmt = c.mgmt ∧
    (c.replayCheck p).gate = c.gate ∧ (c.replayCheck p).hatband = c.hatband ∧ (c.replayCheck p).mram = c.mram ∧
    (c.replayCheck p).readData = c.readData := by
  unfold Chip.replayCheck
  first
    | (simp [Chip.run]; done)
    | ((try dsimp only) <;> (repeat' split) <;> simp [Chip.run])

@[simp] theorem Chip.setFState_keeps (c : Chip) (t : Fin 16) (st : FState) :
    (c.setFState t st).drawn = c.drawn ∧ (c.setFState t st).drone = c.drone ∧ (c.setFState t st).power = c.power ∧
    (c.setFState t st).pins = c.pins ∧ (c.setFState t st).boot = c.boot ∧ (c.setFState t st).driver = c.driver ∧
    (c.setFState t st).nparts = c.nparts ∧ (c.setFState t st).parts = c.parts ∧ (c.setFState t st).partPending = c.partPending ∧
    (c.setFState t st).placer = c.placer ∧ (c.setFState t st).scan = c.scan ∧ (c.setFState t st).sp = c.sp ∧
    (c.setFState t st).memObj = c.memObj ∧ (c.setFState t st).calPc = c.calPc ∧ (c.setFState t st).calDqs = c.calDqs ∧
    (c.setFState t st).calZq = c.calZq ∧ (c.setFState t st).calIsl = c.calIsl ∧ (c.setFState t st).limiter = c.limiter ∧
    (c.setFState t st).intc = c.intc ∧ (c.setFState t st).faults = c.faults ∧ (c.setFState t st).ports = c.ports ∧
    (c.setFState t st).groups = c.groups ∧ (c.setFState t st).bore = c.bore ∧ (c.setFState t st).attests = c.attests ∧
    (c.setFState t st).mgmt = c.mgmt ∧ (c.setFState t st).gate = c.gate ∧ (c.setFState t st).hatband = c.hatband ∧
    (c.setFState t st).mram = c.mram ∧ (c.setFState t st).objs = c.objs ∧ (c.setFState t st).readData = c.readData ∧
    (∀ pp : Fin 4, (c.setFState t st).run pp = c.run pp) := by
  unfold Chip.setFState
  first
    | (simp [Chip.run]; done)
    | ((try dsimp only) <;> (repeat' split) <;> simp [Chip.run])

@[simp] theorem Chip.publish_keeps (c : Chip) (t : Fin 16) (es : List ResEntry) :
    (c.publish t es).drawn = c.drawn ∧ (c.publish t es).drone = c.drone ∧ (c.publish t es).power = c.power ∧
    (c.publish t es).pins = c.pins ∧ (c.publish t es).boot = c.boot ∧ (c.publish t es).driver = c.driver ∧
    (c.publish t es).tenants = c.tenants ∧ (c.publish t es).nparts = c.nparts ∧ (c.publish t es).parts = c.parts ∧
    (c.publish t es).partPending = c.partPending ∧ (c.publish t es).placer = c.placer ∧ (c.publish t es).scan = c.scan ∧
    (c.publish t es).sp = c.sp ∧ (c.publish t es).memObj = c.memObj ∧ (c.publish t es).calPc = c.calPc ∧
    (c.publish t es).calDqs = c.calDqs ∧ (c.publish t es).calZq = c.calZq ∧ (c.publish t es).calIsl = c.calIsl ∧
    (c.publish t es).limiter = c.limiter ∧ (c.publish t es).intc = c.intc ∧ (c.publish t es).faults = c.faults ∧
    (c.publish t es).ports = c.ports ∧ (c.publish t es).groups = c.groups ∧ (c.publish t es).bore = c.bore ∧
    (c.publish t es).attests = c.attests ∧ (c.publish t es).mgmt = c.mgmt ∧ (c.publish t es).gate = c.gate ∧
    (c.publish t es).hatband = c.hatband ∧ (c.publish t es).mram = c.mram ∧ (c.publish t es).readData = c.readData ∧
    (∀ pp : Fin 4, (c.publish t es).run pp = c.run pp) := by
  unfold Chip.publish
  first
    | (simp [Chip.run]; done)
    | ((try dsimp only) <;> (repeat' split) <;> simp [Chip.run])

@[simp] theorem Chip.failAdmissions_keeps (c : Chip) (t : Fin 16) (status : W16) :
    (c.failAdmissions t status).drawn = c.drawn ∧ (c.failAdmissions t status).drone = c.drone ∧ (c.failAdmissions t status).power = c.power ∧
    (c.failAdmissions t status).pins = c.pins ∧ (c.failAdmissions t status).boot = c.boot ∧ (c.failAdmissions t status).driver = c.driver ∧
    (c.failAdmissions t status).nparts = c.nparts ∧ (c.failAdmissions t status).parts = c.parts ∧ (c.failAdmissions t status).partPending = c.partPending ∧
    (c.failAdmissions t status).placer = c.placer ∧ (c.failAdmissions t status).scan = c.scan ∧ (c.failAdmissions t status).sp = c.sp ∧
    (c.failAdmissions t status).memObj = c.memObj ∧ (c.failAdmissions t status).calPc = c.calPc ∧ (c.failAdmissions t status).calDqs = c.calDqs ∧
    (c.failAdmissions t status).calZq = c.calZq ∧ (c.failAdmissions t status).calIsl = c.calIsl ∧ (c.failAdmissions t status).limiter = c.limiter ∧
    (c.failAdmissions t status).intc = c.intc ∧ (c.failAdmissions t status).faults = c.faults ∧ (c.failAdmissions t status).ports = c.ports ∧
    (c.failAdmissions t status).groups = c.groups ∧ (c.failAdmissions t status).bore = c.bore ∧ (c.failAdmissions t status).attests = c.attests ∧
    (c.failAdmissions t status).mgmt = c.mgmt ∧ (c.failAdmissions t status).gate = c.gate ∧ (c.failAdmissions t status).hatband = c.hatband ∧
    (c.failAdmissions t status).mram = c.mram ∧ (c.failAdmissions t status).readData = c.readData ∧ (∀ pp : Fin 4, (c.failAdmissions t status).run pp = c.run pp) := by
  unfold Chip.failAdmissions
  first
    | (simp [Chip.run]; done)
    | ((try dsimp only) <;> (repeat' split) <;> simp [Chip.run])

@[simp] theorem Chip.loseBatches_keeps (c : Chip) (t : Fin 16) (plan : W16) (first : Nat) (status : W16) :
    (c.loseBatches t plan first status).drawn = c.drawn ∧ (c.loseBatches t plan first status).drone = c.drone ∧ (c.loseBatches t plan first status).power = c.power ∧
    (c.loseBatches t plan first status).pins = c.pins ∧ (c.loseBatches t plan first status).boot = c.boot ∧ (c.loseBatches t plan first status).driver = c.driver ∧
    (c.loseBatches t plan first status).nparts = c.nparts ∧ (c.loseBatches t plan first status).parts = c.parts ∧ (c.loseBatches t plan first status).partPending = c.partPending ∧
    (c.loseBatches t plan first status).placer = c.placer ∧ (c.loseBatches t plan first status).scan = c.scan ∧ (c.loseBatches t plan first status).sp = c.sp ∧
    (c.loseBatches t plan first status).memObj = c.memObj ∧ (c.loseBatches t plan first status).calPc = c.calPc ∧ (c.loseBatches t plan first status).calDqs = c.calDqs ∧
    (c.loseBatches t plan first status).calZq = c.calZq ∧ (c.loseBatches t plan first status).calIsl = c.calIsl ∧ (c.loseBatches t plan first status).limiter = c.limiter ∧
    (c.loseBatches t plan first status).intc = c.intc ∧ (c.loseBatches t plan first status).faults = c.faults ∧ (c.loseBatches t plan first status).ports = c.ports ∧
    (c.loseBatches t plan first status).groups = c.groups ∧ (c.loseBatches t plan first status).bore = c.bore ∧ (c.loseBatches t plan first status).attests = c.attests ∧
    (c.loseBatches t plan first status).mgmt = c.mgmt ∧ (c.loseBatches t plan first status).gate = c.gate ∧ (c.loseBatches t plan first status).hatband = c.hatband ∧
    (c.loseBatches t plan first status).mram = c.mram ∧ (c.loseBatches t plan first status).readData = c.readData ∧ (∀ pp : Fin 4, (c.loseBatches t plan first status).run pp = c.run pp) := by
  unfold Chip.loseBatches
  first
    | (simp [Chip.run]; done)
    | ((try dsimp only) <;> (repeat' split) <;> simp [Chip.run])

@[simp] theorem Chip.freeRetained_keeps (c : Chip) (p : Fin 4) (t : Fin 16) :
    (c.freeRetained p t).drawn = c.drawn ∧ (c.freeRetained p t).drone = c.drone ∧ (c.freeRetained p t).power = c.power ∧
    (c.freeRetained p t).pins = c.pins ∧ (c.freeRetained p t).boot = c.boot ∧ (c.freeRetained p t).driver = c.driver ∧
    (c.freeRetained p t).pfn = c.pfn ∧ (c.freeRetained p t).vfn = c.vfn ∧ (c.freeRetained p t).nparts = c.nparts ∧
    (c.freeRetained p t).parts = c.parts ∧ (c.freeRetained p t).partPending = c.partPending ∧ (c.freeRetained p t).placer = c.placer ∧
    (c.freeRetained p t).scan = c.scan ∧ (c.freeRetained p t).sp = c.sp ∧ (c.freeRetained p t).memObj = c.memObj ∧
    (c.freeRetained p t).calPc = c.calPc ∧ (c.freeRetained p t).calDqs = c.calDqs ∧ (c.freeRetained p t).calZq = c.calZq ∧
    (c.freeRetained p t).calIsl = c.calIsl ∧ (c.freeRetained p t).limiter = c.limiter ∧ (c.freeRetained p t).intc = c.intc ∧
    (c.freeRetained p t).faults = c.faults ∧ (c.freeRetained p t).ports = c.ports ∧ (c.freeRetained p t).groups = c.groups ∧
    (c.freeRetained p t).bore = c.bore ∧ (c.freeRetained p t).attests = c.attests ∧ (c.freeRetained p t).mgmt = c.mgmt ∧
    (c.freeRetained p t).gate = c.gate ∧ (c.freeRetained p t).hatband = c.hatband ∧ (c.freeRetained p t).mram = c.mram ∧
    (c.freeRetained p t).objs = c.objs ∧ (c.freeRetained p t).readData = c.readData ∧ (∀ pp : Fin 4, (c.freeRetained p t).run pp = c.run pp) := by
  unfold Chip.freeRetained
  first
    | (simp [Chip.run]; done)
    | ((try dsimp only) <;> (repeat' split) <;> simp [Chip.run])

@[simp] theorem Chip.settleRetires_keeps (c : Chip) (t : Fin 16) :
    (c.settleRetires t).drawn = c.drawn ∧ (c.settleRetires t).drone = c.drone ∧ (c.settleRetires t).power = c.power ∧
    (c.settleRetires t).pins = c.pins ∧ (c.settleRetires t).boot = c.boot ∧ (c.settleRetires t).driver = c.driver ∧
    (c.settleRetires t).nparts = c.nparts ∧ (c.settleRetires t).parts = c.parts ∧ (c.settleRetires t).partPending = c.partPending ∧
    (c.settleRetires t).placer = c.placer ∧ (c.settleRetires t).scan = c.scan ∧ (c.settleRetires t).sp = c.sp ∧
    (c.settleRetires t).memObj = c.memObj ∧ (c.settleRetires t).calPc = c.calPc ∧ (c.settleRetires t).calDqs = c.calDqs ∧
    (c.settleRetires t).calZq = c.calZq ∧ (c.settleRetires t).calIsl = c.calIsl ∧ (c.settleRetires t).limiter = c.limiter ∧
    (c.settleRetires t).intc = c.intc ∧ (c.settleRetires t).faults = c.faults ∧ (c.settleRetires t).ports = c.ports ∧
    (c.settleRetires t).groups = c.groups ∧ (c.settleRetires t).bore = c.bore ∧ (c.settleRetires t).attests = c.attests ∧
    (c.settleRetires t).mgmt = c.mgmt ∧ (c.settleRetires t).gate = c.gate ∧ (c.settleRetires t).hatband = c.hatband ∧
    (c.settleRetires t).mram = c.mram ∧ (c.settleRetires t).readData = c.readData ∧ (∀ pp : Fin 4, (c.settleRetires t).run pp = c.run pp) := by
  unfold Chip.settleRetires
  first
    | (simp [Chip.run]; done)
    | ((try dsimp only) <;> (repeat' split) <;> simp [Chip.run])

@[simp] theorem Chip.rotateKey_keeps (c : Chip) :
    (c.rotateKey).drone = c.drone ∧ (c.rotateKey).power = c.power ∧ (c.rotateKey).pins = c.pins ∧
    (c.rotateKey).boot = c.boot ∧ (c.rotateKey).driver = c.driver ∧ (c.rotateKey).pfn = c.pfn ∧
    (c.rotateKey).vfn = c.vfn ∧ (c.rotateKey).tenants = c.tenants ∧ (c.rotateKey).nparts = c.nparts ∧
    (c.rotateKey).parts = c.parts ∧ (c.rotateKey).partPending = c.partPending ∧ (c.rotateKey).placer = c.placer ∧
    (c.rotateKey).scan = c.scan ∧ (c.rotateKey).sp = c.sp ∧ (c.rotateKey).calPc = c.calPc ∧
    (c.rotateKey).calDqs = c.calDqs ∧ (c.rotateKey).calZq = c.calZq ∧ (c.rotateKey).calIsl = c.calIsl ∧
    (c.rotateKey).limiter = c.limiter ∧ (c.rotateKey).intc = c.intc ∧ (c.rotateKey).faults = c.faults ∧
    (c.rotateKey).ports = c.ports ∧ (c.rotateKey).groups = c.groups ∧ (c.rotateKey).bore = c.bore ∧
    (c.rotateKey).attests = c.attests ∧ (c.rotateKey).mgmt = c.mgmt ∧ (c.rotateKey).gate = c.gate ∧
    (c.rotateKey).hatband = c.hatband ∧ (c.rotateKey).mram = c.mram ∧ (c.rotateKey).objs = c.objs ∧
    (c.rotateKey).readData = c.readData ∧ (∀ pp : Fin 4, (c.rotateKey).run pp = c.run pp) := by
  unfold Chip.rotateKey
  (try dsimp only [Chip.draw256]); and_intros
  · repeat' (first | (simp [Chip.run, Chip.draw256]; done) | intro _ | with_reducible refine (foldl_drone ?_ _ _).trans ?_ | simp | split)
  · repeat' (first | (simp [Chip.run, Chip.draw256]; done) | intro _ | with_reducible refine (foldl_power ?_ _ _).trans ?_ | simp | split)
  · repeat' (first | (simp [Chip.run, Chip.draw256]; done) | intro _ | with_reducible refine (foldl_pins ?_ _ _).trans ?_ | simp | split)
  · repeat' (first | (simp [Chip.run, Chip.draw256]; done) | intro _ | with_reducible refine (foldl_boot ?_ _ _).trans ?_ | simp | split)
  · repeat' (first | (simp [Chip.run, Chip.draw256]; done) | intro _ | with_reducible refine (foldl_driver ?_ _ _).trans ?_ | simp | split)
  · repeat' (first | (simp [Chip.run, Chip.draw256]; done) | intro _ | with_reducible refine (foldl_pfn ?_ _ _).trans ?_ | simp | split)
  · repeat' (first | (simp [Chip.run, Chip.draw256]; done) | intro _ | with_reducible refine (foldl_vfn ?_ _ _).trans ?_ | simp | split)
  · repeat' (first | (simp [Chip.run, Chip.draw256]; done) | intro _ | with_reducible refine (foldl_tenants ?_ _ _).trans ?_ | simp | split)
  · repeat' (first | (simp [Chip.run, Chip.draw256]; done) | intro _ | with_reducible refine (foldl_nparts ?_ _ _).trans ?_ | simp | split)
  · repeat' (first | (simp [Chip.run, Chip.draw256]; done) | intro _ | with_reducible refine (foldl_parts ?_ _ _).trans ?_ | simp | split)
  · repeat' (first | (simp [Chip.run, Chip.draw256]; done) | intro _ | with_reducible refine (foldl_partPending ?_ _ _).trans ?_ | simp | split)
  · repeat' (first | (simp [Chip.run, Chip.draw256]; done) | intro _ | with_reducible refine (foldl_placer ?_ _ _).trans ?_ | simp | split)
  · repeat' (first | (simp [Chip.run, Chip.draw256]; done) | intro _ | with_reducible refine (foldl_scan ?_ _ _).trans ?_ | simp | split)
  · repeat' (first | (simp [Chip.run, Chip.draw256]; done) | intro _ | with_reducible refine (foldl_sp ?_ _ _).trans ?_ | simp | split)
  · repeat' (first | (simp [Chip.run, Chip.draw256]; done) | intro _ | with_reducible refine (foldl_calPc ?_ _ _).trans ?_ | simp | split)
  · repeat' (first | (simp [Chip.run, Chip.draw256]; done) | intro _ | with_reducible refine (foldl_calDqs ?_ _ _).trans ?_ | simp | split)
  · repeat' (first | (simp [Chip.run, Chip.draw256]; done) | intro _ | with_reducible refine (foldl_calZq ?_ _ _).trans ?_ | simp | split)
  · repeat' (first | (simp [Chip.run, Chip.draw256]; done) | intro _ | with_reducible refine (foldl_calIsl ?_ _ _).trans ?_ | simp | split)
  · repeat' (first | (simp [Chip.run, Chip.draw256]; done) | intro _ | with_reducible refine (foldl_limiter ?_ _ _).trans ?_ | simp | split)
  · repeat' (first | (simp [Chip.run, Chip.draw256]; done) | intro _ | with_reducible refine (foldl_intc ?_ _ _).trans ?_ | simp | split)
  · repeat' (first | (simp [Chip.run, Chip.draw256]; done) | intro _ | with_reducible refine (foldl_faults ?_ _ _).trans ?_ | simp | split)
  · repeat' (first | (simp [Chip.run, Chip.draw256]; done) | intro _ | with_reducible refine (foldl_ports ?_ _ _).trans ?_ | simp | split)
  · repeat' (first | (simp [Chip.run, Chip.draw256]; done) | intro _ | with_reducible refine (foldl_groups ?_ _ _).trans ?_ | simp | split)
  · repeat' (first | (simp [Chip.run, Chip.draw256]; done) | intro _ | with_reducible refine (foldl_bore ?_ _ _).trans ?_ | simp | split)
  · repeat' (first | (simp [Chip.run, Chip.draw256]; done) | intro _ | with_reducible refine (foldl_attests ?_ _ _).trans ?_ | simp | split)
  · repeat' (first | (simp [Chip.run, Chip.draw256]; done) | intro _ | with_reducible refine (foldl_mgmt ?_ _ _).trans ?_ | simp | split)
  · repeat' (first | (simp [Chip.run, Chip.draw256]; done) | intro _ | with_reducible refine (foldl_gate ?_ _ _).trans ?_ | simp | split)
  · repeat' (first | (simp [Chip.run, Chip.draw256]; done) | intro _ | with_reducible refine (foldl_hatband ?_ _ _).trans ?_ | simp | split)
  · repeat' (first | (simp [Chip.run, Chip.draw256]; done) | intro _ | with_reducible refine (foldl_mram ?_ _ _).trans ?_ | simp | split)
  · repeat' (first | (simp [Chip.run, Chip.draw256]; done) | intro _ | with_reducible refine (foldl_objs ?_ _ _).trans ?_ | simp | split)
  · repeat' (first | (simp [Chip.run, Chip.draw256]; done) | intro _ | with_reducible refine (foldl_readData ?_ _ _).trans ?_ | simp | split)
  · intro pp; refine congrArg (fun v : Vector Part 4 => v[pp].run) ?_; repeat' (first | (simp [Chip.run, Chip.draw256]; done) | intro _ | with_reducible refine (foldl_parts ?_ _ _).trans ?_ | simp | split)

@[simp] theorem Chip.loadSaved_keeps (c : Chip) (t : Fin 16) (x : Option Saved) :
    (c.loadSaved t x).drawn = c.drawn ∧ (c.loadSaved t x).drone = c.drone ∧ (c.loadSaved t x).power = c.power ∧
    (c.loadSaved t x).pins = c.pins ∧ (c.loadSaved t x).boot = c.boot ∧ (c.loadSaved t x).driver = c.driver ∧
    (c.loadSaved t x).pfn = c.pfn ∧ (c.loadSaved t x).vfn = c.vfn ∧ (c.loadSaved t x).nparts = c.nparts ∧
    (c.loadSaved t x).parts = c.parts ∧ (c.loadSaved t x).partPending = c.partPending ∧ (c.loadSaved t x).placer = c.placer ∧
    (c.loadSaved t x).scan = c.scan ∧ (c.loadSaved t x).sp = c.sp ∧ (c.loadSaved t x).memObj = c.memObj ∧
    (c.loadSaved t x).calPc = c.calPc ∧ (c.loadSaved t x).calDqs = c.calDqs ∧ (c.loadSaved t x).calZq = c.calZq ∧
    (c.loadSaved t x).calIsl = c.calIsl ∧ (c.loadSaved t x).limiter = c.limiter ∧ (c.loadSaved t x).intc = c.intc ∧
    (c.loadSaved t x).faults = c.faults ∧ (c.loadSaved t x).ports = c.ports ∧ (c.loadSaved t x).bore = c.bore ∧
    (c.loadSaved t x).attests = c.attests ∧ (c.loadSaved t x).mgmt = c.mgmt ∧ (c.loadSaved t x).gate = c.gate ∧
    (c.loadSaved t x).hatband = c.hatband ∧ (c.loadSaved t x).mram = c.mram ∧ (c.loadSaved t x).objs = c.objs ∧
    (c.loadSaved t x).readData = c.readData ∧ (∀ pp : Fin 4, (c.loadSaved t x).run pp = c.run pp) := by
  unfold Chip.loadSaved
  first
    | (simp [Chip.run]; done)
    | ((try dsimp only) <;> (repeat' split) <;> simp [Chip.run])

@[simp] theorem Chip.firstCommit_keeps (c : Chip) (p : Fin 4) :
    (c.firstCommit p).drawn = c.drawn ∧ (c.firstCommit p).drone = c.drone ∧ (c.firstCommit p).power = c.power ∧
    (c.firstCommit p).pins = c.pins ∧ (c.firstCommit p).boot = c.boot ∧ (c.firstCommit p).driver = c.driver ∧
    (c.firstCommit p).pfn = c.pfn ∧ (c.firstCommit p).vfn = c.vfn ∧ (c.firstCommit p).tenants = c.tenants ∧
    (c.firstCommit p).nparts = c.nparts ∧ (c.firstCommit p).partPending = c.partPending ∧ (c.firstCommit p).placer = c.placer ∧
    (c.firstCommit p).scan = c.scan ∧ (c.firstCommit p).sp = c.sp ∧ (c.firstCommit p).memObj = c.memObj ∧
    (c.firstCommit p).calPc = c.calPc ∧ (c.firstCommit p).calDqs = c.calDqs ∧ (c.firstCommit p).calZq = c.calZq ∧
    (c.firstCommit p).calIsl = c.calIsl ∧ (c.firstCommit p).limiter = c.limiter ∧ (c.firstCommit p).intc = c.intc ∧
    (c.firstCommit p).faults = c.faults ∧ (c.firstCommit p).ports = c.ports ∧ (c.firstCommit p).groups = c.groups ∧
    (c.firstCommit p).bore = c.bore ∧ (c.firstCommit p).attests = c.attests ∧ (c.firstCommit p).mgmt = c.mgmt ∧
    (c.firstCommit p).gate = c.gate ∧ (c.firstCommit p).hatband = c.hatband ∧ (c.firstCommit p).mram = c.mram ∧
    (c.firstCommit p).objs = c.objs ∧ (c.firstCommit p).readData = c.readData := by
  unfold Chip.firstCommit
  first
    | (simp [Chip.run]; done)
    | ((try dsimp only) <;> (repeat' split) <;> simp [Chip.run])

@[simp] theorem Chip.useTiles_keeps (c : Chip) (p : Plan) (ts : List (Fin 68)) :
    (c.useTiles p ts).drawn = c.drawn ∧ (c.useTiles p ts).drone = c.drone ∧ (c.useTiles p ts).power = c.power ∧
    (c.useTiles p ts).pins = c.pins ∧ (c.useTiles p ts).boot = c.boot ∧ (c.useTiles p ts).driver = c.driver ∧
    (c.useTiles p ts).pfn = c.pfn ∧ (c.useTiles p ts).vfn = c.vfn ∧ (c.useTiles p ts).tenants = c.tenants ∧
    (c.useTiles p ts).nparts = c.nparts ∧ (c.useTiles p ts).parts = c.parts ∧ (c.useTiles p ts).partPending = c.partPending ∧
    (c.useTiles p ts).placer = c.placer ∧ (c.useTiles p ts).scan = c.scan ∧ (c.useTiles p ts).memObj = c.memObj ∧
    (c.useTiles p ts).calPc = c.calPc ∧ (c.useTiles p ts).calDqs = c.calDqs ∧ (c.useTiles p ts).calZq = c.calZq ∧
    (c.useTiles p ts).calIsl = c.calIsl ∧ (c.useTiles p ts).limiter = c.limiter ∧ (c.useTiles p ts).intc = c.intc ∧
    (c.useTiles p ts).faults = c.faults ∧ (c.useTiles p ts).ports = c.ports ∧ (c.useTiles p ts).groups = c.groups ∧
    (c.useTiles p ts).bore = c.bore ∧ (c.useTiles p ts).attests = c.attests ∧ (c.useTiles p ts).mgmt = c.mgmt ∧
    (c.useTiles p ts).gate = c.gate ∧ (c.useTiles p ts).hatband = c.hatband ∧ (c.useTiles p ts).mram = c.mram ∧
    (c.useTiles p ts).objs = c.objs ∧ (c.useTiles p ts).readData = c.readData ∧ (∀ pp : Fin 4, (c.useTiles p ts).run pp = c.run pp) := by
  unfold Chip.useTiles
  first
    | (simp [Chip.run]; done)
    | ((try dsimp only) <;> (repeat' split) <;> simp [Chip.run])

@[simp] theorem Chip.refuseTarget_keeps (c : Chip) (p : Fin 4) :
    (c.refuseTarget p).drawn = c.drawn ∧ (c.refuseTarget p).drone = c.drone ∧ (c.refuseTarget p).power = c.power ∧
    (c.refuseTarget p).pins = c.pins ∧ (c.refuseTarget p).boot = c.boot ∧ (c.refuseTarget p).driver = c.driver ∧
    (c.refuseTarget p).tenants = c.tenants ∧ (c.refuseTarget p).nparts = c.nparts ∧ (c.refuseTarget p).partPending = c.partPending ∧
    (c.refuseTarget p).placer = c.placer ∧ (c.refuseTarget p).scan = c.scan ∧ (c.refuseTarget p).sp = c.sp ∧
    (c.refuseTarget p).memObj = c.memObj ∧ (c.refuseTarget p).calPc = c.calPc ∧ (c.refuseTarget p).calDqs = c.calDqs ∧
    (c.refuseTarget p).calZq = c.calZq ∧ (c.refuseTarget p).calIsl = c.calIsl ∧ (c.refuseTarget p).limiter = c.limiter ∧
    (c.refuseTarget p).intc = c.intc ∧ (c.refuseTarget p).faults = c.faults ∧ (c.refuseTarget p).ports = c.ports ∧
    (c.refuseTarget p).groups = c.groups ∧ (c.refuseTarget p).bore = c.bore ∧ (c.refuseTarget p).attests = c.attests ∧
    (c.refuseTarget p).mgmt = c.mgmt ∧ (c.refuseTarget p).gate = c.gate ∧ (c.refuseTarget p).hatband = c.hatband ∧
    (c.refuseTarget p).mram = c.mram ∧ (c.refuseTarget p).readData = c.readData := by
  unfold Chip.refuseTarget
  first
    | (simp [Chip.run]; done)
    | ((try dsimp only) <;> (repeat' split) <;> simp [Chip.run])

@[simp] theorem Chip.applyPartSet_keeps (c : Chip) :
    (c.applyPartSet).drawn = c.drawn ∧ (c.applyPartSet).drone = c.drone ∧ (c.applyPartSet).power = c.power ∧
    (c.applyPartSet).pins = c.pins ∧ (c.applyPartSet).boot = c.boot ∧ (c.applyPartSet).driver = c.driver ∧
    (c.applyPartSet).tenants = c.tenants ∧ (c.applyPartSet).scan = c.scan ∧ (c.applyPartSet).sp = c.sp ∧
    (c.applyPartSet).memObj = c.memObj ∧ (c.applyPartSet).calPc = c.calPc ∧ (c.applyPartSet).calDqs = c.calDqs ∧
    (c.applyPartSet).calZq = c.calZq ∧ (c.applyPartSet).calIsl = c.calIsl ∧ (c.applyPartSet).limiter = c.limiter ∧
    (c.applyPartSet).intc = c.intc ∧ (c.applyPartSet).faults = c.faults ∧ (c.applyPartSet).ports = c.ports ∧
    (c.applyPartSet).groups = c.groups ∧ (c.applyPartSet).bore = c.bore ∧ (c.applyPartSet).attests = c.attests ∧
    (c.applyPartSet).mgmt = c.mgmt ∧ (c.applyPartSet).gate = c.gate ∧ (c.applyPartSet).hatband = c.hatband ∧
    (c.applyPartSet).mram = c.mram ∧ (c.applyPartSet).readData = c.readData := by
  unfold Chip.applyPartSet
  first
    | (simp [Chip.run]; done)
    | ((try dsimp only) <;> (repeat' split) <;> simp [Chip.run])

@[simp] theorem Chip.settleAbsent_keeps (c : Chip) :
    (c.settleAbsent).drawn = c.drawn ∧ (c.settleAbsent).drone = c.drone ∧ (c.settleAbsent).power = c.power ∧
    (c.settleAbsent).pins = c.pins ∧ (c.settleAbsent).boot = c.boot ∧ (c.settleAbsent).pfn = c.pfn ∧
    (c.settleAbsent).vfn = c.vfn ∧ (c.settleAbsent).tenants = c.tenants ∧ (c.settleAbsent).nparts = c.nparts ∧
    (c.settleAbsent).parts = c.parts ∧ (c.settleAbsent).partPending = c.partPending ∧ (c.settleAbsent).placer = c.placer ∧
    (c.settleAbsent).scan = c.scan ∧ (c.settleAbsent).sp = c.sp ∧ (c.settleAbsent).memObj = c.memObj ∧
    (c.settleAbsent).calPc = c.calPc ∧ (c.settleAbsent).calDqs = c.calDqs ∧ (c.settleAbsent).calZq = c.calZq ∧
    (c.settleAbsent).calIsl = c.calIsl ∧ (c.settleAbsent).limiter = c.limiter ∧ (c.settleAbsent).intc = c.intc ∧
    (c.settleAbsent).faults = c.faults ∧ (c.settleAbsent).ports = c.ports ∧ (c.settleAbsent).groups = c.groups ∧
    (c.settleAbsent).bore = c.bore ∧ (c.settleAbsent).attests = c.attests ∧ (c.settleAbsent).mgmt = c.mgmt ∧
    (c.settleAbsent).gate = c.gate ∧ (c.settleAbsent).hatband = c.hatband ∧ (c.settleAbsent).mram = c.mram ∧
    (c.settleAbsent).objs = c.objs ∧ (c.settleAbsent).readData = c.readData ∧ (∀ pp : Fin 4, (c.settleAbsent).run pp = c.run pp) := by
  unfold Chip.settleAbsent
  first
    | (simp [Chip.run]; done)
    | ((try dsimp only) <;> (repeat' split) <;> simp [Chip.run])

@[simp] theorem Chip.abortBusy_keeps (c : Chip) (r : Running) (cause : W16) :
    (c.abortBusy r cause).drawn = c.drawn ∧ (c.abortBusy r cause).drone = c.drone ∧ (c.abortBusy r cause).power = c.power ∧
    (c.abortBusy r cause).pins = c.pins ∧ (c.abortBusy r cause).boot = c.boot ∧ (c.abortBusy r cause).driver = c.driver ∧
    (c.abortBusy r cause).pfn = c.pfn ∧ (c.abortBusy r cause).vfn = c.vfn ∧ (c.abortBusy r cause).tenants = c.tenants ∧
    (c.abortBusy r cause).nparts = c.nparts ∧ (c.abortBusy r cause).parts = c.parts ∧ (c.abortBusy r cause).partPending = c.partPending ∧
    (c.abortBusy r cause).placer = c.placer ∧ (c.abortBusy r cause).scan = c.scan ∧ (c.abortBusy r cause).sp = c.sp ∧
    (c.abortBusy r cause).memObj = c.memObj ∧ (c.abortBusy r cause).calPc = c.calPc ∧ (c.abortBusy r cause).calDqs = c.calDqs ∧
    (c.abortBusy r cause).calZq = c.calZq ∧ (c.abortBusy r cause).calIsl = c.calIsl ∧ (c.abortBusy r cause).limiter = c.limiter ∧
    (c.abortBusy r cause).intc = c.intc ∧ (c.abortBusy r cause).faults = c.faults ∧ (c.abortBusy r cause).attests = c.attests ∧
    (c.abortBusy r cause).mgmt = c.mgmt ∧ (c.abortBusy r cause).gate = c.gate ∧ (c.abortBusy r cause).hatband = c.hatband ∧
    (c.abortBusy r cause).mram = c.mram ∧ (c.abortBusy r cause).objs = c.objs ∧ (c.abortBusy r cause).readData = c.readData ∧
    (∀ pp : Fin 4, (c.abortBusy r cause).run pp = c.run pp) := by
  unfold Chip.abortBusy
  first
    | (simp [Chip.run]; done)
    | ((try dsimp only) <;> (repeat' split) <;> simp [Chip.run])

@[simp] theorem Chip.abortRun_keeps (c : Chip) (cause : W16) (p : Fin 4) :
    (c.abortRun cause p).drawn = c.drawn ∧ (c.abortRun cause p).drone = c.drone ∧ (c.abortRun cause p).power = c.power ∧
    (c.abortRun cause p).pins = c.pins ∧ (c.abortRun cause p).boot = c.boot ∧ (c.abortRun cause p).driver = c.driver ∧
    (c.abortRun cause p).pfn = c.pfn ∧ (c.abortRun cause p).vfn = c.vfn ∧ (c.abortRun cause p).tenants = c.tenants ∧
    (c.abortRun cause p).nparts = c.nparts ∧ (c.abortRun cause p).parts = c.parts ∧ (c.abortRun cause p).partPending = c.partPending ∧
    (c.abortRun cause p).placer = c.placer ∧ (c.abortRun cause p).scan = c.scan ∧ (c.abortRun cause p).sp = c.sp ∧
    (c.abortRun cause p).memObj = c.memObj ∧ (c.abortRun cause p).calPc = c.calPc ∧ (c.abortRun cause p).calDqs = c.calDqs ∧
    (c.abortRun cause p).calZq = c.calZq ∧ (c.abortRun cause p).calIsl = c.calIsl ∧ (c.abortRun cause p).limiter = c.limiter ∧
    (c.abortRun cause p).intc = c.intc ∧ (c.abortRun cause p).faults = c.faults ∧ (c.abortRun cause p).attests = c.attests ∧
    (c.abortRun cause p).mgmt = c.mgmt ∧ (c.abortRun cause p).gate = c.gate ∧ (c.abortRun cause p).hatband = c.hatband ∧
    (c.abortRun cause p).mram = c.mram ∧ (c.abortRun cause p).objs = c.objs ∧ (c.abortRun cause p).readData = c.readData ∧
    (∀ pp : Fin 4, (c.abortRun cause p).run pp = c.run pp) := by
  unfold Chip.abortRun; split <;> simp

@[simp] theorem Chip.faultOut_keeps (c : Chip) (p : Fin 4) (r : Running) (lostFrom : Nat) (commit : Stamp × W32) (f : FaultInfo) :
    (c.faultOut p r lostFrom commit f).drone = c.drone ∧ (c.faultOut p r lostFrom commit f).power = c.power ∧ (c.faultOut p r lostFrom commit f).pins = c.pins ∧
    (c.faultOut p r lostFrom commit f).boot = c.boot ∧ (c.faultOut p r lostFrom commit f).driver = c.driver ∧ (c.faultOut p r lostFrom commit f).nparts = c.nparts ∧
    (c.faultOut p r lostFrom commit f).parts = c.parts ∧ (c.faultOut p r lostFrom commit f).partPending = c.partPending ∧ (c.faultOut p r lostFrom commit f).scan = c.scan ∧
    (c.faultOut p r lostFrom commit f).sp = c.sp ∧ (c.faultOut p r lostFrom commit f).calPc = c.calPc ∧ (c.faultOut p r lostFrom commit f).calDqs = c.calDqs ∧
    (c.faultOut p r lostFrom commit f).calZq = c.calZq ∧ (c.faultOut p r lostFrom commit f).calIsl = c.calIsl ∧ (c.faultOut p r lostFrom commit f).limiter = c.limiter ∧
    (c.faultOut p r lostFrom commit f).ports = c.ports ∧ (c.faultOut p r lostFrom commit f).groups = c.groups ∧ (c.faultOut p r lostFrom commit f).bore = c.bore ∧
    (c.faultOut p r lostFrom commit f).attests = c.attests ∧ (c.faultOut p r lostFrom commit f).mgmt = c.mgmt ∧ (c.faultOut p r lostFrom commit f).gate = c.gate ∧
    (c.faultOut p r lostFrom commit f).readData = c.readData ∧ (∀ pp : Fin 4, (c.faultOut p r lostFrom commit f).run pp = c.run pp) := by
  unfold Chip.faultOut
  first
    | (simp [Chip.run]; done)
    | ((try dsimp only) <;> (repeat' split) <;> simp [Chip.run])

@[simp] theorem Chip.idleFault_keeps (c : Chip) (t : Fin 16) (unit : W32) (det : Byte) (cause : W64) :
    (c.idleFault t unit det cause).drawn = c.drawn ∧ (c.idleFault t unit det cause).drone = c.drone ∧ (c.idleFault t unit det cause).power = c.power ∧
    (c.idleFault t unit det cause).pins = c.pins ∧ (c.idleFault t unit det cause).driver = c.driver ∧ (c.idleFault t unit det cause).nparts = c.nparts ∧
    (c.idleFault t unit det cause).parts = c.parts ∧ (c.idleFault t unit det cause).partPending = c.partPending ∧ (c.idleFault t unit det cause).placer = c.placer ∧
    (c.idleFault t unit det cause).scan = c.scan ∧ (c.idleFault t unit det cause).sp = c.sp ∧ (c.idleFault t unit det cause).memObj = c.memObj ∧
    (c.idleFault t unit det cause).calPc = c.calPc ∧ (c.idleFault t unit det cause).calDqs = c.calDqs ∧ (c.idleFault t unit det cause).calZq = c.calZq ∧
    (c.idleFault t unit det cause).calIsl = c.calIsl ∧ (c.idleFault t unit det cause).limiter = c.limiter ∧ (c.idleFault t unit det cause).ports = c.ports ∧
    (c.idleFault t unit det cause).groups = c.groups ∧ (c.idleFault t unit det cause).bore = c.bore ∧ (c.idleFault t unit det cause).attests = c.attests ∧
    (c.idleFault t unit det cause).mgmt = c.mgmt ∧ (c.idleFault t unit det cause).gate = c.gate ∧ (c.idleFault t unit det cause).readData = c.readData ∧
    (∀ pp : Fin 4, (c.idleFault t unit det cause).run pp = c.run pp) := by
  unfold Chip.idleFault
  first
    | (simp [Chip.run]; done)
    | ((try dsimp only) <;> (repeat' split) <;> simp [Chip.run])

@[simp] theorem Chip.endPlan_keeps (c : Chip) (p : Fin 4) (r : Running) (firstLost : Nat) (reqStatus : W16) (out : StepOut) :
    (c.endPlan p r firstLost reqStatus out).drawn = c.drawn ∧ (c.endPlan p r firstLost reqStatus out).drone = c.drone ∧ (c.endPlan p r firstLost reqStatus out).power = c.power ∧
    (c.endPlan p r firstLost reqStatus out).pins = c.pins ∧ (c.endPlan p r firstLost reqStatus out).boot = c.boot ∧ (c.endPlan p r firstLost reqStatus out).driver = c.driver ∧
    (c.endPlan p r firstLost reqStatus out).nparts = c.nparts ∧ (c.endPlan p r firstLost reqStatus out).parts = c.parts ∧ (c.endPlan p r firstLost reqStatus out).partPending = c.partPending ∧
    (c.endPlan p r firstLost reqStatus out).scan = c.scan ∧ (c.endPlan p r firstLost reqStatus out).sp = c.sp ∧ (c.endPlan p r firstLost reqStatus out).memObj = c.memObj ∧
    (c.endPlan p r firstLost reqStatus out).calPc = c.calPc ∧ (c.endPlan p r firstLost reqStatus out).calDqs = c.calDqs ∧ (c.endPlan p r firstLost reqStatus out).calZq = c.calZq ∧
    (c.endPlan p r firstLost reqStatus out).calIsl = c.calIsl ∧ (c.endPlan p r firstLost reqStatus out).limiter = c.limiter ∧ (c.endPlan p r firstLost reqStatus out).intc = c.intc ∧
    (c.endPlan p r firstLost reqStatus out).faults = c.faults ∧ (c.endPlan p r firstLost reqStatus out).ports = c.ports ∧ (c.endPlan p r firstLost reqStatus out).groups = c.groups ∧
    (c.endPlan p r firstLost reqStatus out).bore = c.bore ∧ (c.endPlan p r firstLost reqStatus out).attests = c.attests ∧ (c.endPlan p r firstLost reqStatus out).mgmt = c.mgmt ∧
    (c.endPlan p r firstLost reqStatus out).gate = c.gate ∧ (c.endPlan p r firstLost reqStatus out).hatband = c.hatband ∧ (c.endPlan p r firstLost reqStatus out).mram = c.mram ∧
    (c.endPlan p r firstLost reqStatus out).readData = c.readData ∧ (∀ pp : Fin 4, (c.endPlan p r firstLost reqStatus out).run pp = c.run pp) := by
  unfold Chip.endPlan
  first
    | (simp [Chip.run]; done)
    | ((try dsimp only) <;> (repeat' split) <;> simp [Chip.run])

@[simp] theorem Chip.endEvent_keeps (c : Chip) (r : Running) (status : W16) (arg0 arg3 : W64) :
    (c.endEvent r status arg0 arg3).drawn = c.drawn ∧ (c.endEvent r status arg0 arg3).drone = c.drone ∧ (c.endEvent r status arg0 arg3).power = c.power ∧
    (c.endEvent r status arg0 arg3).pins = c.pins ∧ (c.endEvent r status arg0 arg3).boot = c.boot ∧ (c.endEvent r status arg0 arg3).driver = c.driver ∧
    (c.endEvent r status arg0 arg3).tenants = c.tenants ∧ (c.endEvent r status arg0 arg3).nparts = c.nparts ∧ (c.endEvent r status arg0 arg3).parts = c.parts ∧
    (c.endEvent r status arg0 arg3).partPending = c.partPending ∧ (c.endEvent r status arg0 arg3).placer = c.placer ∧ (c.endEvent r status arg0 arg3).scan = c.scan ∧
    (c.endEvent r status arg0 arg3).sp = c.sp ∧ (c.endEvent r status arg0 arg3).memObj = c.memObj ∧ (c.endEvent r status arg0 arg3).calPc = c.calPc ∧
    (c.endEvent r status arg0 arg3).calDqs = c.calDqs ∧ (c.endEvent r status arg0 arg3).calZq = c.calZq ∧ (c.endEvent r status arg0 arg3).calIsl = c.calIsl ∧
    (c.endEvent r status arg0 arg3).limiter = c.limiter ∧ (c.endEvent r status arg0 arg3).intc = c.intc ∧ (c.endEvent r status arg0 arg3).faults = c.faults ∧
    (c.endEvent r status arg0 arg3).ports = c.ports ∧ (c.endEvent r status arg0 arg3).groups = c.groups ∧ (c.endEvent r status arg0 arg3).bore = c.bore ∧
    (c.endEvent r status arg0 arg3).attests = c.attests ∧ (c.endEvent r status arg0 arg3).mgmt = c.mgmt ∧ (c.endEvent r status arg0 arg3).gate = c.gate ∧
    (c.endEvent r status arg0 arg3).hatband = c.hatband ∧ (c.endEvent r status arg0 arg3).mram = c.mram ∧ (c.endEvent r status arg0 arg3).readData = c.readData ∧
    (∀ pp : Fin 4, (c.endEvent r status arg0 arg3).run pp = c.run pp) := by
  unfold Chip.endEvent
  first
    | (simp [Chip.run]; done)
    | ((try dsimp only) <;> (repeat' split) <;> simp [Chip.run])

@[simp] theorem Chip.takeSwitch_keeps (c : Chip) (t : Fin 16) (w : PendSwitch) :
    (c.takeSwitch t w).drawn = c.drawn ∧ (c.takeSwitch t w).drone = c.drone ∧ (c.takeSwitch t w).power = c.power ∧
    (c.takeSwitch t w).pins = c.pins ∧ (c.takeSwitch t w).boot = c.boot ∧ (c.takeSwitch t w).driver = c.driver ∧
    (c.takeSwitch t w).nparts = c.nparts ∧ (c.takeSwitch t w).parts = c.parts ∧ (c.takeSwitch t w).partPending = c.partPending ∧
    (c.takeSwitch t w).placer = c.placer ∧ (c.takeSwitch t w).scan = c.scan ∧ (c.takeSwitch t w).sp = c.sp ∧
    (c.takeSwitch t w).memObj = c.memObj ∧ (c.takeSwitch t w).calPc = c.calPc ∧ (c.takeSwitch t w).calDqs = c.calDqs ∧
    (c.takeSwitch t w).calZq = c.calZq ∧ (c.takeSwitch t w).calIsl = c.calIsl ∧ (c.takeSwitch t w).limiter = c.limiter ∧
    (c.takeSwitch t w).intc = c.intc ∧ (c.takeSwitch t w).faults = c.faults ∧ (c.takeSwitch t w).ports = c.ports ∧
    (c.takeSwitch t w).groups = c.groups ∧ (c.takeSwitch t w).bore = c.bore ∧ (c.takeSwitch t w).attests = c.attests ∧
    (c.takeSwitch t w).mgmt = c.mgmt ∧ (c.takeSwitch t w).gate = c.gate ∧ (c.takeSwitch t w).hatband = c.hatband ∧
    (c.takeSwitch t w).mram = c.mram ∧ (c.takeSwitch t w).readData = c.readData ∧ (∀ pp : Fin 4, (c.takeSwitch t w).run pp = c.run pp) := by
  unfold Chip.takeSwitch
  first
    | (simp [Chip.run]; done)
    | ((try dsimp only) <;> (repeat' split) <;> simp [Chip.run])

@[simp] theorem Chip.switchStep_keeps (c : Chip) (t : Fin 16) :
    (c.switchStep t).drawn = c.drawn ∧ (c.switchStep t).drone = c.drone ∧ (c.switchStep t).power = c.power ∧
    (c.switchStep t).pins = c.pins ∧ (c.switchStep t).boot = c.boot ∧ (c.switchStep t).driver = c.driver ∧
    (c.switchStep t).nparts = c.nparts ∧ (c.switchStep t).parts = c.parts ∧ (c.switchStep t).partPending = c.partPending ∧
    (c.switchStep t).placer = c.placer ∧ (c.switchStep t).scan = c.scan ∧ (c.switchStep t).sp = c.sp ∧
    (c.switchStep t).memObj = c.memObj ∧ (c.switchStep t).calPc = c.calPc ∧ (c.switchStep t).calDqs = c.calDqs ∧
    (c.switchStep t).calZq = c.calZq ∧ (c.switchStep t).calIsl = c.calIsl ∧ (c.switchStep t).limiter = c.limiter ∧
    (c.switchStep t).intc = c.intc ∧ (c.switchStep t).faults = c.faults ∧ (c.switchStep t).ports = c.ports ∧
    (c.switchStep t).groups = c.groups ∧ (c.switchStep t).bore = c.bore ∧ (c.switchStep t).attests = c.attests ∧
    (c.switchStep t).mgmt = c.mgmt ∧ (c.switchStep t).gate = c.gate ∧ (c.switchStep t).hatband = c.hatband ∧
    (c.switchStep t).mram = c.mram ∧ (c.switchStep t).readData = c.readData ∧ (∀ pp : Fin 4, (c.switchStep t).run pp = c.run pp) := by
  unfold Chip.switchStep
  (try dsimp only [Chip.draw256]); and_intros
  · repeat' (first | (simp [Chip.run, Chip.draw256]; done) | intro _ | with_reducible refine (foldl_drawn ?_ _ _).trans ?_ | simp | split)
  · repeat' (first | (simp [Chip.run, Chip.draw256]; done) | intro _ | with_reducible refine (foldl_drone ?_ _ _).trans ?_ | simp | split)
  · repeat' (first | (simp [Chip.run, Chip.draw256]; done) | intro _ | with_reducible refine (foldl_power ?_ _ _).trans ?_ | simp | split)
  · repeat' (first | (simp [Chip.run, Chip.draw256]; done) | intro _ | with_reducible refine (foldl_pins ?_ _ _).trans ?_ | simp | split)
  · repeat' (first | (simp [Chip.run, Chip.draw256]; done) | intro _ | with_reducible refine (foldl_boot ?_ _ _).trans ?_ | simp | split)
  · repeat' (first | (simp [Chip.run, Chip.draw256]; done) | intro _ | with_reducible refine (foldl_driver ?_ _ _).trans ?_ | simp | split)
  · repeat' (first | (simp [Chip.run, Chip.draw256]; done) | intro _ | with_reducible refine (foldl_nparts ?_ _ _).trans ?_ | simp | split)
  · repeat' (first | (simp [Chip.run, Chip.draw256]; done) | intro _ | with_reducible refine (foldl_parts ?_ _ _).trans ?_ | simp | split)
  · repeat' (first | (simp [Chip.run, Chip.draw256]; done) | intro _ | with_reducible refine (foldl_partPending ?_ _ _).trans ?_ | simp | split)
  · repeat' (first | (simp [Chip.run, Chip.draw256]; done) | intro _ | with_reducible refine (foldl_placer ?_ _ _).trans ?_ | simp | split)
  · repeat' (first | (simp [Chip.run, Chip.draw256]; done) | intro _ | with_reducible refine (foldl_scan ?_ _ _).trans ?_ | simp | split)
  · repeat' (first | (simp [Chip.run, Chip.draw256]; done) | intro _ | with_reducible refine (foldl_sp ?_ _ _).trans ?_ | simp | split)
  · repeat' (first | (simp [Chip.run, Chip.draw256]; done) | intro _ | with_reducible refine (foldl_memObj ?_ _ _).trans ?_ | simp | split)
  · repeat' (first | (simp [Chip.run, Chip.draw256]; done) | intro _ | with_reducible refine (foldl_calPc ?_ _ _).trans ?_ | simp | split)
  · repeat' (first | (simp [Chip.run, Chip.draw256]; done) | intro _ | with_reducible refine (foldl_calDqs ?_ _ _).trans ?_ | simp | split)
  · repeat' (first | (simp [Chip.run, Chip.draw256]; done) | intro _ | with_reducible refine (foldl_calZq ?_ _ _).trans ?_ | simp | split)
  · repeat' (first | (simp [Chip.run, Chip.draw256]; done) | intro _ | with_reducible refine (foldl_calIsl ?_ _ _).trans ?_ | simp | split)
  · repeat' (first | (simp [Chip.run, Chip.draw256]; done) | intro _ | with_reducible refine (foldl_limiter ?_ _ _).trans ?_ | simp | split)
  · repeat' (first | (simp [Chip.run, Chip.draw256]; done) | intro _ | with_reducible refine (foldl_intc ?_ _ _).trans ?_ | simp | split)
  · repeat' (first | (simp [Chip.run, Chip.draw256]; done) | intro _ | with_reducible refine (foldl_faults ?_ _ _).trans ?_ | simp | split)
  · repeat' (first | (simp [Chip.run, Chip.draw256]; done) | intro _ | with_reducible refine (foldl_ports ?_ _ _).trans ?_ | simp | split)
  · repeat' (first | (simp [Chip.run, Chip.draw256]; done) | intro _ | with_reducible refine (foldl_groups ?_ _ _).trans ?_ | simp | split)
  · repeat' (first | (simp [Chip.run, Chip.draw256]; done) | intro _ | with_reducible refine (foldl_bore ?_ _ _).trans ?_ | simp | split)
  · repeat' (first | (simp [Chip.run, Chip.draw256]; done) | intro _ | with_reducible refine (foldl_attests ?_ _ _).trans ?_ | simp | split)
  · repeat' (first | (simp [Chip.run, Chip.draw256]; done) | intro _ | with_reducible refine (foldl_mgmt ?_ _ _).trans ?_ | simp | split)
  · repeat' (first | (simp [Chip.run, Chip.draw256]; done) | intro _ | with_reducible refine (foldl_gate ?_ _ _).trans ?_ | simp | split)
  · repeat' (first | (simp [Chip.run, Chip.draw256]; done) | intro _ | with_reducible refine (foldl_hatband ?_ _ _).trans ?_ | simp | split)
  · repeat' (first | (simp [Chip.run, Chip.draw256]; done) | intro _ | with_reducible refine (foldl_mram ?_ _ _).trans ?_ | simp | split)
  · repeat' (first | (simp [Chip.run, Chip.draw256]; done) | intro _ | with_reducible refine (foldl_readData ?_ _ _).trans ?_ | simp | split)
  · intro pp; refine congrArg (fun v : Vector Part 4 => v[pp].run) ?_; repeat' (first | (simp [Chip.run, Chip.draw256]; done) | intro _ | with_reducible refine (foldl_parts ?_ _ _).trans ?_ | simp | split)

@[simp] theorem Chip.ageRetained_keeps (c : Chip) (t : Fin 16) :
    (c.ageRetained t).drawn = c.drawn ∧ (c.ageRetained t).drone = c.drone ∧ (c.ageRetained t).power = c.power ∧
    (c.ageRetained t).pins = c.pins ∧ (c.ageRetained t).boot = c.boot ∧ (c.ageRetained t).driver = c.driver ∧
    (c.ageRetained t).pfn = c.pfn ∧ (c.ageRetained t).vfn = c.vfn ∧ (c.ageRetained t).nparts = c.nparts ∧
    (c.ageRetained t).parts = c.parts ∧ (c.ageRetained t).partPending = c.partPending ∧ (c.ageRetained t).placer = c.placer ∧
    (c.ageRetained t).scan = c.scan ∧ (c.ageRetained t).sp = c.sp ∧ (c.ageRetained t).memObj = c.memObj ∧
    (c.ageRetained t).calPc = c.calPc ∧ (c.ageRetained t).calDqs = c.calDqs ∧ (c.ageRetained t).calZq = c.calZq ∧
    (c.ageRetained t).calIsl = c.calIsl ∧ (c.ageRetained t).limiter = c.limiter ∧ (c.ageRetained t).intc = c.intc ∧
    (c.ageRetained t).faults = c.faults ∧ (c.ageRetained t).ports = c.ports ∧ (c.ageRetained t).groups = c.groups ∧
    (c.ageRetained t).bore = c.bore ∧ (c.ageRetained t).attests = c.attests ∧ (c.ageRetained t).mgmt = c.mgmt ∧
    (c.ageRetained t).gate = c.gate ∧ (c.ageRetained t).hatband = c.hatband ∧ (c.ageRetained t).mram = c.mram ∧
    (c.ageRetained t).objs = c.objs ∧ (c.ageRetained t).readData = c.readData ∧ (∀ pp : Fin 4, (c.ageRetained t).run pp = c.run pp) := by
  unfold Chip.ageRetained
  first
    | (simp [Chip.run]; done)
    | ((try dsimp only) <;> (repeat' split) <;> simp [Chip.run])

@[simp] theorem Chip.activationEvent_keeps (c : Chip) :
    (c.activationEvent).drawn = c.drawn ∧ (c.activationEvent).drone = c.drone ∧ (c.activationEvent).power = c.power ∧
    (c.activationEvent).pins = c.pins ∧ (c.activationEvent).driver = c.driver ∧ (c.activationEvent).tenants = c.tenants ∧
    (c.activationEvent).nparts = c.nparts ∧ (c.activationEvent).parts = c.parts ∧ (c.activationEvent).partPending = c.partPending ∧
    (c.activationEvent).placer = c.placer ∧ (c.activationEvent).scan = c.scan ∧ (c.activationEvent).sp = c.sp ∧
    (c.activationEvent).memObj = c.memObj ∧ (c.activationEvent).calPc = c.calPc ∧ (c.activationEvent).calDqs = c.calDqs ∧
    (c.activationEvent).calZq = c.calZq ∧ (c.activationEvent).calIsl = c.calIsl ∧ (c.activationEvent).limiter = c.limiter ∧
    (c.activationEvent).intc = c.intc ∧ (c.activationEvent).faults = c.faults ∧ (c.activationEvent).ports = c.ports ∧
    (c.activationEvent).groups = c.groups ∧ (c.activationEvent).bore = c.bore ∧ (c.activationEvent).attests = c.attests ∧
    (c.activationEvent).mgmt = c.mgmt ∧ (c.activationEvent).gate = c.gate ∧ (c.activationEvent).hatband = c.hatband ∧
    (c.activationEvent).mram = c.mram ∧ (c.activationEvent).readData = c.readData ∧ (∀ pp : Fin 4, (c.activationEvent).run pp = c.run pp) := by
  unfold Chip.activationEvent
  first
    | (simp [Chip.run]; done)
    | ((try dsimp only) <;> (repeat' split) <;> simp [Chip.run])

@[simp] theorem Chip.beginJob_keeps (c : Chip) :
    (c.beginJob).drawn = c.drawn ∧ (c.beginJob).drone = c.drone ∧ (c.beginJob).power = c.power ∧
    (c.beginJob).pins = c.pins ∧ (c.beginJob).boot = c.boot ∧ (c.beginJob).driver = c.driver ∧
    (c.beginJob).pfn = c.pfn ∧ (c.beginJob).vfn = c.vfn ∧ (c.beginJob).nparts = c.nparts ∧
    (c.beginJob).parts = c.parts ∧ (c.beginJob).partPending = c.partPending ∧ (c.beginJob).scan = c.scan ∧
    (c.beginJob).sp = c.sp ∧ (c.beginJob).memObj = c.memObj ∧ (c.beginJob).calPc = c.calPc ∧
    (c.beginJob).calDqs = c.calDqs ∧ (c.beginJob).calZq = c.calZq ∧ (c.beginJob).calIsl = c.calIsl ∧
    (c.beginJob).limiter = c.limiter ∧ (c.beginJob).intc = c.intc ∧ (c.beginJob).faults = c.faults ∧
    (c.beginJob).ports = c.ports ∧ (c.beginJob).bore = c.bore ∧ (c.beginJob).attests = c.attests ∧
    (c.beginJob).mgmt = c.mgmt ∧ (c.beginJob).gate = c.gate ∧ (c.beginJob).hatband = c.hatband ∧
    (c.beginJob).mram = c.mram ∧ (c.beginJob).objs = c.objs ∧ (c.beginJob).readData = c.readData ∧
    (∀ pp : Fin 4, (c.beginJob).run pp = c.run pp) := by
  unfold Chip.beginJob
  first
    | (simp [Chip.run]; done)
    | ((try dsimp only) <;> (repeat' split) <;> simp [Chip.run])

@[simp] theorem Chip.restartJob_keeps (c : Chip) :
    (c.restartJob).drawn = c.drawn ∧ (c.restartJob).drone = c.drone ∧ (c.restartJob).power = c.power ∧
    (c.restartJob).pins = c.pins ∧ (c.restartJob).boot = c.boot ∧ (c.restartJob).driver = c.driver ∧
    (c.restartJob).pfn = c.pfn ∧ (c.restartJob).vfn = c.vfn ∧ (c.restartJob).nparts = c.nparts ∧
    (c.restartJob).parts = c.parts ∧ (c.restartJob).partPending = c.partPending ∧ (c.restartJob).scan = c.scan ∧
    (c.restartJob).sp = c.sp ∧ (c.restartJob).memObj = c.memObj ∧ (c.restartJob).calPc = c.calPc ∧
    (c.restartJob).calDqs = c.calDqs ∧ (c.restartJob).calZq = c.calZq ∧ (c.restartJob).calIsl = c.calIsl ∧
    (c.restartJob).limiter = c.limiter ∧ (c.restartJob).intc = c.intc ∧ (c.restartJob).faults = c.faults ∧
    (c.restartJob).ports = c.ports ∧ (c.restartJob).bore = c.bore ∧ (c.restartJob).attests = c.attests ∧
    (c.restartJob).mgmt = c.mgmt ∧ (c.restartJob).gate = c.gate ∧ (c.restartJob).hatband = c.hatband ∧
    (c.restartJob).mram = c.mram ∧ (c.restartJob).objs = c.objs ∧ (c.restartJob).readData = c.readData ∧
    (∀ pp : Fin 4, (c.restartJob).run pp = c.run pp) := by
  unfold Chip.restartJob
  first
    | (simp [Chip.run]; done)
    | ((try dsimp only) <;> (repeat' split) <;> simp [Chip.run])

@[simp] theorem Chip.handover_keeps (c : Chip) (i : FwImage) :
    (c.handover i).drawn = c.drawn ∧ (c.handover i).drone = c.drone ∧ (c.handover i).power = c.power ∧
    (c.handover i).pins = c.pins ∧ (c.handover i).driver = c.driver ∧ (c.handover i).nparts = c.nparts ∧
    (c.handover i).parts = c.parts ∧ (c.handover i).partPending = c.partPending ∧ (c.handover i).scan = c.scan ∧
    (c.handover i).sp = c.sp ∧ (c.handover i).memObj = c.memObj ∧ (c.handover i).calPc = c.calPc ∧
    (c.handover i).calDqs = c.calDqs ∧ (c.handover i).calZq = c.calZq ∧ (c.handover i).calIsl = c.calIsl ∧
    (c.handover i).limiter = c.limiter ∧ (c.handover i).intc = c.intc ∧ (c.handover i).faults = c.faults ∧
    (c.handover i).ports = c.ports ∧ (c.handover i).bore = c.bore ∧ (c.handover i).attests = c.attests ∧
    (c.handover i).mgmt = c.mgmt ∧ (c.handover i).gate = c.gate ∧ (c.handover i).readData = c.readData ∧
    (∀ pp : Fin 4, (c.handover i).run pp = c.run pp) := by
  unfold Chip.handover
  first
    | (simp [Chip.run]; done)
    | ((try dsimp only) <;> (repeat' split) <;> simp [Chip.run])

@[simp] theorem Chip.activate_keeps (c : Chip) :
    (c.activate).drawn = c.drawn ∧ (c.activate).drone = c.drone ∧ (c.activate).power = c.power ∧
    (c.activate).pins = c.pins ∧ (c.activate).driver = c.driver ∧ (c.activate).nparts = c.nparts ∧
    (c.activate).parts = c.parts ∧ (c.activate).partPending = c.partPending ∧ (c.activate).scan = c.scan ∧
    (c.activate).sp = c.sp ∧ (c.activate).memObj = c.memObj ∧ (c.activate).calPc = c.calPc ∧
    (c.activate).calDqs = c.calDqs ∧ (c.activate).calZq = c.calZq ∧ (c.activate).calIsl = c.calIsl ∧
    (c.activate).limiter = c.limiter ∧ (c.activate).intc = c.intc ∧ (c.activate).faults = c.faults ∧
    (c.activate).ports = c.ports ∧ (c.activate).bore = c.bore ∧ (c.activate).attests = c.attests ∧
    (c.activate).mgmt = c.mgmt ∧ (c.activate).gate = c.gate ∧ (c.activate).readData = c.readData ∧
    (∀ pp : Fin 4, (c.activate).run pp = c.run pp) := by
  unfold Chip.activate
  first
    | (simp [Chip.run]; done)
    | ((try dsimp only) <;> (repeat' split) <;> simp [Chip.run])

@[simp] theorem Chip.reportSilent_keeps (c : Chip) (p : Fin 4) (r : Running) (layer : W16) :
    (c.reportSilent p r layer).drawn = c.drawn ∧ (c.reportSilent p r layer).drone = c.drone ∧ (c.reportSilent p r layer).power = c.power ∧
    (c.reportSilent p r layer).pins = c.pins ∧ (c.reportSilent p r layer).boot = c.boot ∧ (c.reportSilent p r layer).driver = c.driver ∧
    (c.reportSilent p r layer).tenants = c.tenants ∧ (c.reportSilent p r layer).nparts = c.nparts ∧ (c.reportSilent p r layer).partPending = c.partPending ∧
    (c.reportSilent p r layer).placer = c.placer ∧ (c.reportSilent p r layer).scan = c.scan ∧ (c.reportSilent p r layer).sp = c.sp ∧
    (c.reportSilent p r layer).memObj = c.memObj ∧ (c.reportSilent p r layer).calPc = c.calPc ∧ (c.reportSilent p r layer).calDqs = c.calDqs ∧
    (c.reportSilent p r layer).calZq = c.calZq ∧ (c.reportSilent p r layer).calIsl = c.calIsl ∧ (c.reportSilent p r layer).limiter = c.limiter ∧
    (c.reportSilent p r layer).faults = c.faults ∧ (c.reportSilent p r layer).ports = c.ports ∧ (c.reportSilent p r layer).groups = c.groups ∧
    (c.reportSilent p r layer).bore = c.bore ∧ (c.reportSilent p r layer).attests = c.attests ∧ (c.reportSilent p r layer).mgmt = c.mgmt ∧
    (c.reportSilent p r layer).gate = c.gate ∧ (c.reportSilent p r layer).hatband = c.hatband ∧ (c.reportSilent p r layer).mram = c.mram ∧
    (c.reportSilent p r layer).readData = c.readData := by
  unfold Chip.reportSilent
  first
    | (simp [Chip.run]; done)
    | ((try dsimp only) <;> (repeat' split) <;> simp [Chip.run])

@[simp] theorem Chip.reportNonfinite_keeps (c : Chip) (r : Running) :
    (c.reportNonfinite r).drawn = c.drawn ∧ (c.reportNonfinite r).drone = c.drone ∧ (c.reportNonfinite r).power = c.power ∧
    (c.reportNonfinite r).pins = c.pins ∧ (c.reportNonfinite r).boot = c.boot ∧ (c.reportNonfinite r).driver = c.driver ∧
    (c.reportNonfinite r).tenants = c.tenants ∧ (c.reportNonfinite r).nparts = c.nparts ∧ (c.reportNonfinite r).parts = c.parts ∧
    (c.reportNonfinite r).partPending = c.partPending ∧ (c.reportNonfinite r).placer = c.placer ∧ (c.reportNonfinite r).scan = c.scan ∧
    (c.reportNonfinite r).sp = c.sp ∧ (c.reportNonfinite r).memObj = c.memObj ∧ (c.reportNonfinite r).calPc = c.calPc ∧
    (c.reportNonfinite r).calDqs = c.calDqs ∧ (c.reportNonfinite r).calZq = c.calZq ∧ (c.reportNonfinite r).calIsl = c.calIsl ∧
    (c.reportNonfinite r).limiter = c.limiter ∧ (c.reportNonfinite r).faults = c.faults ∧ (c.reportNonfinite r).ports = c.ports ∧
    (c.reportNonfinite r).groups = c.groups ∧ (c.reportNonfinite r).bore = c.bore ∧ (c.reportNonfinite r).attests = c.attests ∧
    (c.reportNonfinite r).mgmt = c.mgmt ∧ (c.reportNonfinite r).gate = c.gate ∧ (c.reportNonfinite r).hatband = c.hatband ∧
    (c.reportNonfinite r).mram = c.mram ∧ (c.reportNonfinite r).readData = c.readData ∧ (∀ pp : Fin 4, (c.reportNonfinite r).run pp = c.run pp) := by
  unfold Chip.reportNonfinite
  first
    | (simp [Chip.run]; done)
    | ((try dsimp only) <;> (repeat' split) <;> simp [Chip.run])

@[simp] theorem Chip.summaryEvent_keeps (c : Chip) (r : Running) (status : W16) :
    (c.summaryEvent r status).drawn = c.drawn ∧ (c.summaryEvent r status).drone = c.drone ∧ (c.summaryEvent r status).power = c.power ∧
    (c.summaryEvent r status).pins = c.pins ∧ (c.summaryEvent r status).boot = c.boot ∧ (c.summaryEvent r status).driver = c.driver ∧
    (c.summaryEvent r status).tenants = c.tenants ∧ (c.summaryEvent r status).nparts = c.nparts ∧ (c.summaryEvent r status).parts = c.parts ∧
    (c.summaryEvent r status).partPending = c.partPending ∧ (c.summaryEvent r status).placer = c.placer ∧ (c.summaryEvent r status).scan = c.scan ∧
    (c.summaryEvent r status).sp = c.sp ∧ (c.summaryEvent r status).memObj = c.memObj ∧ (c.summaryEvent r status).calPc = c.calPc ∧
    (c.summaryEvent r status).calDqs = c.calDqs ∧ (c.summaryEvent r status).calZq = c.calZq ∧ (c.summaryEvent r status).calIsl = c.calIsl ∧
    (c.summaryEvent r status).limiter = c.limiter ∧ (c.summaryEvent r status).intc = c.intc ∧ (c.summaryEvent r status).faults = c.faults ∧
    (c.summaryEvent r status).ports = c.ports ∧ (c.summaryEvent r status).groups = c.groups ∧ (c.summaryEvent r status).bore = c.bore ∧
    (c.summaryEvent r status).attests = c.attests ∧ (c.summaryEvent r status).mgmt = c.mgmt ∧ (c.summaryEvent r status).gate = c.gate ∧
    (c.summaryEvent r status).hatband = c.hatband ∧ (c.summaryEvent r status).mram = c.mram ∧ (c.summaryEvent r status).readData = c.readData ∧
    (∀ pp : Fin 4, (c.summaryEvent r status).run pp = c.run pp) := by
  unfold Chip.summaryEvent
  first
    | (simp [Chip.run]; done)
    | ((try dsimp only) <;> (repeat' split) <;> simp [Chip.run])

@[simp] theorem Chip.closeStep_keeps (c : Chip) (p : Fin 4) (t : Fin 16) (stay : List (Nat × ReqSlot)) (gone : List EpochCopy) :
    (c.closeStep p t stay gone).drawn = c.drawn ∧ (c.closeStep p t stay gone).drone = c.drone ∧ (c.closeStep p t stay gone).power = c.power ∧
    (c.closeStep p t stay gone).pins = c.pins ∧ (c.closeStep p t stay gone).boot = c.boot ∧ (c.closeStep p t stay gone).driver = c.driver ∧
    (c.closeStep p t stay gone).nparts = c.nparts ∧ (c.closeStep p t stay gone).parts = c.parts ∧ (c.closeStep p t stay gone).partPending = c.partPending ∧
    (c.closeStep p t stay gone).placer = c.placer ∧ (c.closeStep p t stay gone).scan = c.scan ∧ (c.closeStep p t stay gone).sp = c.sp ∧
    (c.closeStep p t stay gone).memObj = c.memObj ∧ (c.closeStep p t stay gone).calPc = c.calPc ∧ (c.closeStep p t stay gone).calDqs = c.calDqs ∧
    (c.closeStep p t stay gone).calZq = c.calZq ∧ (c.closeStep p t stay gone).calIsl = c.calIsl ∧ (c.closeStep p t stay gone).limiter = c.limiter ∧
    (c.closeStep p t stay gone).intc = c.intc ∧ (c.closeStep p t stay gone).faults = c.faults ∧ (c.closeStep p t stay gone).ports = c.ports ∧
    (c.closeStep p t stay gone).groups = c.groups ∧ (c.closeStep p t stay gone).bore = c.bore ∧ (c.closeStep p t stay gone).attests = c.attests ∧
    (c.closeStep p t stay gone).mgmt = c.mgmt ∧ (c.closeStep p t stay gone).gate = c.gate ∧ (c.closeStep p t stay gone).hatband = c.hatband ∧
    (c.closeStep p t stay gone).mram = c.mram ∧ (c.closeStep p t stay gone).readData = c.readData ∧ (∀ pp : Fin 4, (c.closeStep p t stay gone).run pp = c.run pp) := by
  unfold Chip.closeStep
  first
    | (simp [Chip.run]; done)
    | ((try dsimp only) <;> (repeat' split) <;> simp [Chip.run])

@[simp] theorem Chip.hold_keeps (c : Chip) (p : Fin 4) (h : Hold) :
    (c.hold p h).drawn = c.drawn ∧ (c.hold p h).drone = c.drone ∧ (c.hold p h).power = c.power ∧
    (c.hold p h).pins = c.pins ∧ (c.hold p h).boot = c.boot ∧ (c.hold p h).driver = c.driver ∧
    (c.hold p h).pfn = c.pfn ∧ (c.hold p h).vfn = c.vfn ∧ (c.hold p h).tenants = c.tenants ∧
    (c.hold p h).nparts = c.nparts ∧ (c.hold p h).partPending = c.partPending ∧ (c.hold p h).placer = c.placer ∧
    (c.hold p h).scan = c.scan ∧ (c.hold p h).sp = c.sp ∧ (c.hold p h).memObj = c.memObj ∧
    (c.hold p h).calPc = c.calPc ∧ (c.hold p h).calDqs = c.calDqs ∧ (c.hold p h).calZq = c.calZq ∧
    (c.hold p h).calIsl = c.calIsl ∧ (c.hold p h).limiter = c.limiter ∧ (c.hold p h).intc = c.intc ∧
    (c.hold p h).faults = c.faults ∧ (c.hold p h).ports = c.ports ∧ (c.hold p h).groups = c.groups ∧
    (c.hold p h).bore = c.bore ∧ (c.hold p h).attests = c.attests ∧ (c.hold p h).mgmt = c.mgmt ∧
    (c.hold p h).gate = c.gate ∧ (c.hold p h).hatband = c.hatband ∧ (c.hold p h).mram = c.mram ∧
    (c.hold p h).objs = c.objs ∧ (c.hold p h).readData = c.readData := by
  unfold Chip.hold
  first
    | (simp [Chip.run]; done)
    | ((try dsimp only) <;> (repeat' split) <;> simp [Chip.run])

@[simp] theorem Chip.ringHold_keeps (c : Chip) (p : Fin 4) :
    (c.ringHold p).drawn = c.drawn ∧ (c.ringHold p).drone = c.drone ∧ (c.ringHold p).power = c.power ∧
    (c.ringHold p).pins = c.pins ∧ (c.ringHold p).boot = c.boot ∧ (c.ringHold p).driver = c.driver ∧
    (c.ringHold p).tenants = c.tenants ∧ (c.ringHold p).nparts = c.nparts ∧ (c.ringHold p).partPending = c.partPending ∧
    (c.ringHold p).placer = c.placer ∧ (c.ringHold p).scan = c.scan ∧ (c.ringHold p).sp = c.sp ∧
    (c.ringHold p).memObj = c.memObj ∧ (c.ringHold p).calPc = c.calPc ∧ (c.ringHold p).calDqs = c.calDqs ∧
    (c.ringHold p).calZq = c.calZq ∧ (c.ringHold p).calIsl = c.calIsl ∧ (c.ringHold p).limiter = c.limiter ∧
    (c.ringHold p).intc = c.intc ∧ (c.ringHold p).faults = c.faults ∧ (c.ringHold p).ports = c.ports ∧
    (c.ringHold p).groups = c.groups ∧ (c.ringHold p).bore = c.bore ∧ (c.ringHold p).attests = c.attests ∧
    (c.ringHold p).mgmt = c.mgmt ∧ (c.ringHold p).gate = c.gate ∧ (c.ringHold p).hatband = c.hatband ∧
    (c.ringHold p).mram = c.mram ∧ (c.ringHold p).readData = c.readData := by
  unfold Chip.ringHold
  first
    | (simp [Chip.run]; done)
    | ((try dsimp only) <;> (repeat' split) <;> simp [Chip.run])

@[simp] theorem Chip.pauseHold_keeps (c : Chip) (p : Fin 4) :
    (c.pauseHold p).drawn = c.drawn ∧ (c.pauseHold p).drone = c.drone ∧ (c.pauseHold p).power = c.power ∧
    (c.pauseHold p).pins = c.pins ∧ (c.pauseHold p).boot = c.boot ∧ (c.pauseHold p).nparts = c.nparts ∧
    (c.pauseHold p).partPending = c.partPending ∧ (c.pauseHold p).placer = c.placer ∧ (c.pauseHold p).scan = c.scan ∧
    (c.pauseHold p).sp = c.sp ∧ (c.pauseHold p).memObj = c.memObj ∧ (c.pauseHold p).calPc = c.calPc ∧
    (c.pauseHold p).calDqs = c.calDqs ∧ (c.pauseHold p).calZq = c.calZq ∧ (c.pauseHold p).calIsl = c.calIsl ∧
    (c.pauseHold p).limiter = c.limiter ∧ (c.pauseHold p).intc = c.intc ∧ (c.pauseHold p).faults = c.faults ∧
    (c.pauseHold p).ports = c.ports ∧ (c.pauseHold p).groups = c.groups ∧ (c.pauseHold p).bore = c.bore ∧
    (c.pauseHold p).attests = c.attests ∧ (c.pauseHold p).mgmt = c.mgmt ∧ (c.pauseHold p).gate = c.gate ∧
    (c.pauseHold p).hatband = c.hatband ∧ (c.pauseHold p).mram = c.mram ∧ (c.pauseHold p).objs = c.objs ∧
    (c.pauseHold p).readData = c.readData := by
  unfold Chip.pauseHold
  first
    | (simp [Chip.run]; done)
    | ((try dsimp only) <;> (repeat' split) <;> simp [Chip.run])

@[simp] theorem Chip.unhold_keeps (c : Chip) (p : Fin 4) (h : Hold) :
    (c.unhold p h).drawn = c.drawn ∧ (c.unhold p h).drone = c.drone ∧ (c.unhold p h).power = c.power ∧
    (c.unhold p h).pins = c.pins ∧ (c.unhold p h).boot = c.boot ∧ (c.unhold p h).driver = c.driver ∧
    (c.unhold p h).pfn = c.pfn ∧ (c.unhold p h).vfn = c.vfn ∧ (c.unhold p h).tenants = c.tenants ∧
    (c.unhold p h).nparts = c.nparts ∧ (c.unhold p h).partPending = c.partPending ∧ (c.unhold p h).placer = c.placer ∧
    (c.unhold p h).scan = c.scan ∧ (c.unhold p h).sp = c.sp ∧ (c.unhold p h).memObj = c.memObj ∧
    (c.unhold p h).calPc = c.calPc ∧ (c.unhold p h).calDqs = c.calDqs ∧ (c.unhold p h).calZq = c.calZq ∧
    (c.unhold p h).calIsl = c.calIsl ∧ (c.unhold p h).limiter = c.limiter ∧ (c.unhold p h).intc = c.intc ∧
    (c.unhold p h).faults = c.faults ∧ (c.unhold p h).ports = c.ports ∧ (c.unhold p h).groups = c.groups ∧
    (c.unhold p h).bore = c.bore ∧ (c.unhold p h).attests = c.attests ∧ (c.unhold p h).mgmt = c.mgmt ∧
    (c.unhold p h).gate = c.gate ∧ (c.unhold p h).hatband = c.hatband ∧ (c.unhold p h).mram = c.mram ∧
    (c.unhold p h).objs = c.objs ∧ (c.unhold p h).readData = c.readData := by
  unfold Chip.unhold
  first
    | (simp [Chip.run]; done)
    | ((try dsimp only) <;> (repeat' split) <;> simp [Chip.run])

@[simp] theorem Chip.chooseEpoch_keeps (c : Chip) (p : Fin 4) (r : Running) :
    (c.chooseEpoch p r).drawn = c.drawn ∧ (c.chooseEpoch p r).drone = c.drone ∧ (c.chooseEpoch p r).power = c.power ∧
    (c.chooseEpoch p r).pins = c.pins ∧ (c.chooseEpoch p r).boot = c.boot ∧ (c.chooseEpoch p r).driver = c.driver ∧
    (c.chooseEpoch p r).pfn = c.pfn ∧ (c.chooseEpoch p r).vfn = c.vfn ∧ (c.chooseEpoch p r).nparts = c.nparts ∧
    (c.chooseEpoch p r).partPending = c.partPending ∧ (c.chooseEpoch p r).placer = c.placer ∧ (c.chooseEpoch p r).scan = c.scan ∧
    (c.chooseEpoch p r).sp = c.sp ∧ (c.chooseEpoch p r).memObj = c.memObj ∧ (c.chooseEpoch p r).calPc = c.calPc ∧
    (c.chooseEpoch p r).calDqs = c.calDqs ∧ (c.chooseEpoch p r).calZq = c.calZq ∧ (c.chooseEpoch p r).calIsl = c.calIsl ∧
    (c.chooseEpoch p r).limiter = c.limiter ∧ (c.chooseEpoch p r).intc = c.intc ∧ (c.chooseEpoch p r).faults = c.faults ∧
    (c.chooseEpoch p r).ports = c.ports ∧ (c.chooseEpoch p r).groups = c.groups ∧ (c.chooseEpoch p r).bore = c.bore ∧
    (c.chooseEpoch p r).attests = c.attests ∧ (c.chooseEpoch p r).mgmt = c.mgmt ∧ (c.chooseEpoch p r).gate = c.gate ∧
    (c.chooseEpoch p r).hatband = c.hatband ∧ (c.chooseEpoch p r).mram = c.mram ∧ (c.chooseEpoch p r).objs = c.objs ∧
    (c.chooseEpoch p r).readData = c.readData := by
  unfold Chip.chooseEpoch
  first
    | (simp [Chip.run]; done)
    | ((try dsimp only) <;> (repeat' split) <;> simp [Chip.run])

@[simp] theorem Chip.boundaryEvents_keeps (c : Chip) (p : Fin 4) (t : Fin 16) :
    (c.boundaryEvents p t).drone = c.drone ∧ (c.boundaryEvents p t).power = c.power ∧ (c.boundaryEvents p t).pins = c.pins ∧
    (c.boundaryEvents p t).driver = c.driver ∧ (c.boundaryEvents p t).nparts = c.nparts ∧ (c.boundaryEvents p t).parts = c.parts ∧
    (c.boundaryEvents p t).partPending = c.partPending ∧ (c.boundaryEvents p t).scan = c.scan ∧ (c.boundaryEvents p t).sp = c.sp ∧
    (c.boundaryEvents p t).memObj = c.memObj ∧ (c.boundaryEvents p t).calPc = c.calPc ∧ (c.boundaryEvents p t).calDqs = c.calDqs ∧
    (c.boundaryEvents p t).calZq = c.calZq ∧ (c.boundaryEvents p t).calIsl = c.calIsl ∧ (c.boundaryEvents p t).faults = c.faults ∧
    (c.boundaryEvents p t).ports = c.ports ∧ (c.boundaryEvents p t).bore = c.bore ∧ (c.boundaryEvents p t).attests = c.attests ∧
    (c.boundaryEvents p t).mgmt = c.mgmt ∧ (c.boundaryEvents p t).gate = c.gate ∧ (c.boundaryEvents p t).readData = c.readData ∧
    (∀ pp : Fin 4, (c.boundaryEvents p t).run pp = c.run pp) := by
  unfold Chip.boundaryEvents
  (try dsimp only [Chip.draw256]); and_intros
  · repeat' (first | (simp [Chip.run, Chip.draw256]; done) | intro _ | with_reducible refine (foldl_drone ?_ _ _).trans ?_ | simp | split)
  · repeat' (first | (simp [Chip.run, Chip.draw256]; done) | intro _ | with_reducible refine (foldl_power ?_ _ _).trans ?_ | simp | split)
  · repeat' (first | (simp [Chip.run, Chip.draw256]; done) | intro _ | with_reducible refine (foldl_pins ?_ _ _).trans ?_ | simp | split)
  · repeat' (first | (simp [Chip.run, Chip.draw256]; done) | intro _ | with_reducible refine (foldl_driver ?_ _ _).trans ?_ | simp | split)
  · repeat' (first | (simp [Chip.run, Chip.draw256]; done) | intro _ | with_reducible refine (foldl_nparts ?_ _ _).trans ?_ | simp | split)
  · repeat' (first | (simp [Chip.run, Chip.draw256]; done) | intro _ | with_reducible refine (foldl_parts ?_ _ _).trans ?_ | simp | split)
  · repeat' (first | (simp [Chip.run, Chip.draw256]; done) | intro _ | with_reducible refine (foldl_partPending ?_ _ _).trans ?_ | simp | split)
  · repeat' (first | (simp [Chip.run, Chip.draw256]; done) | intro _ | with_reducible refine (foldl_scan ?_ _ _).trans ?_ | simp | split)
  · repeat' (first | (simp [Chip.run, Chip.draw256]; done) | intro _ | with_reducible refine (foldl_sp ?_ _ _).trans ?_ | simp | split)
  · repeat' (first | (simp [Chip.run, Chip.draw256]; done) | intro _ | with_reducible refine (foldl_memObj ?_ _ _).trans ?_ | simp | split)
  · repeat' (first | (simp [Chip.run, Chip.draw256]; done) | intro _ | with_reducible refine (foldl_calPc ?_ _ _).trans ?_ | simp | split)
  · repeat' (first | (simp [Chip.run, Chip.draw256]; done) | intro _ | with_reducible refine (foldl_calDqs ?_ _ _).trans ?_ | simp | split)
  · repeat' (first | (simp [Chip.run, Chip.draw256]; done) | intro _ | with_reducible refine (foldl_calZq ?_ _ _).trans ?_ | simp | split)
  · repeat' (first | (simp [Chip.run, Chip.draw256]; done) | intro _ | with_reducible refine (foldl_calIsl ?_ _ _).trans ?_ | simp | split)
  · repeat' (first | (simp [Chip.run, Chip.draw256]; done) | intro _ | with_reducible refine (foldl_faults ?_ _ _).trans ?_ | simp | split)
  · repeat' (first | (simp [Chip.run, Chip.draw256]; done) | intro _ | with_reducible refine (foldl_ports ?_ _ _).trans ?_ | simp | split)
  · repeat' (first | (simp [Chip.run, Chip.draw256]; done) | intro _ | with_reducible refine (foldl_bore ?_ _ _).trans ?_ | simp | split)
  · repeat' (first | (simp [Chip.run, Chip.draw256]; done) | intro _ | with_reducible refine (foldl_attests ?_ _ _).trans ?_ | simp | split)
  · repeat' (first | (simp [Chip.run, Chip.draw256]; done) | intro _ | with_reducible refine (foldl_mgmt ?_ _ _).trans ?_ | simp | split)
  · repeat' (first | (simp [Chip.run, Chip.draw256]; done) | intro _ | with_reducible refine (foldl_gate ?_ _ _).trans ?_ | simp | split)
  · repeat' (first | (simp [Chip.run, Chip.draw256]; done) | intro _ | with_reducible refine (foldl_readData ?_ _ _).trans ?_ | simp | split)
  · intro pp; refine congrArg (fun v : Vector Part 4 => v[pp].run) ?_; repeat' (first | (simp [Chip.run, Chip.draw256]; done) | intro _ | with_reducible refine (foldl_parts ?_ _ _).trans ?_ | simp | split)

@[simp] theorem Chip.lastUe_keeps (c : Chip) (tier unit off : Nat) (outcome : W16) :
    (c.lastUe tier unit off outcome).drawn = c.drawn ∧ (c.lastUe tier unit off outcome).drone = c.drone ∧ (c.lastUe tier unit off outcome).power = c.power ∧
    (c.lastUe tier unit off outcome).pins = c.pins ∧ (c.lastUe tier unit off outcome).boot = c.boot ∧ (c.lastUe tier unit off outcome).driver = c.driver ∧
    (c.lastUe tier unit off outcome).pfn = c.pfn ∧ (c.lastUe tier unit off outcome).vfn = c.vfn ∧ (c.lastUe tier unit off outcome).tenants = c.tenants ∧
    (c.lastUe tier unit off outcome).nparts = c.nparts ∧ (c.lastUe tier unit off outcome).parts = c.parts ∧ (c.lastUe tier unit off outcome).partPending = c.partPending ∧
    (c.lastUe tier unit off outcome).placer = c.placer ∧ (c.lastUe tier unit off outcome).scan = c.scan ∧ (c.lastUe tier unit off outcome).sp = c.sp ∧
    (c.lastUe tier unit off outcome).calPc = c.calPc ∧ (c.lastUe tier unit off outcome).calDqs = c.calDqs ∧ (c.lastUe tier unit off outcome).calZq = c.calZq ∧
    (c.lastUe tier unit off outcome).calIsl = c.calIsl ∧ (c.lastUe tier unit off outcome).limiter = c.limiter ∧ (c.lastUe tier unit off outcome).intc = c.intc ∧
    (c.lastUe tier unit off outcome).faults = c.faults ∧ (c.lastUe tier unit off outcome).ports = c.ports ∧ (c.lastUe tier unit off outcome).groups = c.groups ∧
    (c.lastUe tier unit off outcome).bore = c.bore ∧ (c.lastUe tier unit off outcome).attests = c.attests ∧ (c.lastUe tier unit off outcome).mgmt = c.mgmt ∧
    (c.lastUe tier unit off outcome).gate = c.gate ∧ (c.lastUe tier unit off outcome).hatband = c.hatband ∧ (c.lastUe tier unit off outcome).mram = c.mram ∧
    (c.lastUe tier unit off outcome).objs = c.objs ∧ (c.lastUe tier unit off outcome).readData = c.readData ∧ (∀ pp : Fin 4, (c.lastUe tier unit off outcome).run pp = c.run pp) := by
  unfold Chip.lastUe
  first
    | (simp [Chip.run]; done)
    | ((try dsimp only) <;> (repeat' split) <;> simp [Chip.run])

@[simp] theorem Chip.foundBad_keeps (c : Chip) (t1 : Bool) (a : Nat) :
    (c.foundBad t1 a).drawn = c.drawn ∧ (c.foundBad t1 a).drone = c.drone ∧ (c.foundBad t1 a).power = c.power ∧
    (c.foundBad t1 a).pins = c.pins ∧ (c.foundBad t1 a).boot = c.boot ∧ (c.foundBad t1 a).driver = c.driver ∧
    (c.foundBad t1 a).pfn = c.pfn ∧ (c.foundBad t1 a).vfn = c.vfn ∧ (c.foundBad t1 a).tenants = c.tenants ∧
    (c.foundBad t1 a).nparts = c.nparts ∧ (c.foundBad t1 a).parts = c.parts ∧ (c.foundBad t1 a).partPending = c.partPending ∧
    (c.foundBad t1 a).placer = c.placer ∧ (c.foundBad t1 a).scan = c.scan ∧ (c.foundBad t1 a).sp = c.sp ∧
    (c.foundBad t1 a).calPc = c.calPc ∧ (c.foundBad t1 a).calDqs = c.calDqs ∧ (c.foundBad t1 a).calZq = c.calZq ∧
    (c.foundBad t1 a).calIsl = c.calIsl ∧ (c.foundBad t1 a).limiter = c.limiter ∧ (c.foundBad t1 a).faults = c.faults ∧
    (c.foundBad t1 a).ports = c.ports ∧ (c.foundBad t1 a).groups = c.groups ∧ (c.foundBad t1 a).bore = c.bore ∧
    (c.foundBad t1 a).attests = c.attests ∧ (c.foundBad t1 a).mgmt = c.mgmt ∧ (c.foundBad t1 a).gate = c.gate ∧
    (c.foundBad t1 a).hatband = c.hatband ∧ (c.foundBad t1 a).objs = c.objs ∧ (c.foundBad t1 a).readData = c.readData ∧
    (∀ pp : Fin 4, (c.foundBad t1 a).run pp = c.run pp) := by
  unfold Chip.foundBad
  first
    | (simp [Chip.run]; done)
    | ((try dsimp only) <;> (repeat' split) <;> simp [Chip.run])

@[simp] theorem Chip.countCe_keeps (c : Chip) (t1 : Bool) (a : Nat) :
    (c.countCe t1 a).drawn = c.drawn ∧ (c.countCe t1 a).drone = c.drone ∧ (c.countCe t1 a).power = c.power ∧
    (c.countCe t1 a).pins = c.pins ∧ (c.countCe t1 a).boot = c.boot ∧ (c.countCe t1 a).driver = c.driver ∧
    (c.countCe t1 a).tenants = c.tenants ∧ (c.countCe t1 a).nparts = c.nparts ∧ (c.countCe t1 a).parts = c.parts ∧
    (c.countCe t1 a).partPending = c.partPending ∧ (c.countCe t1 a).placer = c.placer ∧ (c.countCe t1 a).scan = c.scan ∧
    (c.countCe t1 a).sp = c.sp ∧ (c.countCe t1 a).calPc = c.calPc ∧ (c.countCe t1 a).calDqs = c.calDqs ∧
    (c.countCe t1 a).calZq = c.calZq ∧ (c.countCe t1 a).calIsl = c.calIsl ∧ (c.countCe t1 a).limiter = c.limiter ∧
    (c.countCe t1 a).intc = c.intc ∧ (c.countCe t1 a).faults = c.faults ∧ (c.countCe t1 a).ports = c.ports ∧
    (c.countCe t1 a).groups = c.groups ∧ (c.countCe t1 a).bore = c.bore ∧ (c.countCe t1 a).attests = c.attests ∧
    (c.countCe t1 a).mgmt = c.mgmt ∧ (c.countCe t1 a).gate = c.gate ∧ (c.countCe t1 a).hatband = c.hatband ∧
    (c.countCe t1 a).readData = c.readData ∧ (∀ pp : Fin 4, (c.countCe t1 a).run pp = c.run pp) := by
  unfold Chip.countCe
  first
    | (simp [Chip.run]; done)
    | ((try dsimp only) <;> (repeat' split) <;> simp [Chip.run])

@[simp] theorem Chip.countCes_keeps (c : Chip) (ks : List PAddr) :
    (c.countCes ks).drawn = c.drawn ∧ (c.countCes ks).drone = c.drone ∧ (c.countCes ks).power = c.power ∧
    (c.countCes ks).pins = c.pins ∧ (c.countCes ks).driver = c.driver ∧ (c.countCes ks).tenants = c.tenants ∧
    (c.countCes ks).nparts = c.nparts ∧ (c.countCes ks).parts = c.parts ∧ (c.countCes ks).partPending = c.partPending ∧
    (c.countCes ks).placer = c.placer ∧ (c.countCes ks).scan = c.scan ∧ (c.countCes ks).sp = c.sp ∧
    (c.countCes ks).calPc = c.calPc ∧ (c.countCes ks).calDqs = c.calDqs ∧ (c.countCes ks).calZq = c.calZq ∧
    (c.countCes ks).calIsl = c.calIsl ∧ (c.countCes ks).limiter = c.limiter ∧ (c.countCes ks).faults = c.faults ∧
    (c.countCes ks).ports = c.ports ∧ (c.countCes ks).groups = c.groups ∧ (c.countCes ks).bore = c.bore ∧
    (c.countCes ks).attests = c.attests ∧ (c.countCes ks).mgmt = c.mgmt ∧ (c.countCes ks).readData = c.readData ∧
    (∀ pp : Fin 4, (c.countCes ks).run pp = c.run pp) := by
  unfold Chip.countCes
  first
    | (simp [Chip.run]; done)
    | ((try dsimp only) <;> (repeat' split) <;> simp [Chip.run])

@[simp] theorem Chip.countCeSp_keeps (c : Chip) :
    (c.countCeSp).drawn = c.drawn ∧ (c.countCeSp).drone = c.drone ∧ (c.countCeSp).power = c.power ∧
    (c.countCeSp).pins = c.pins ∧ (c.countCeSp).boot = c.boot ∧ (c.countCeSp).driver = c.driver ∧
    (c.countCeSp).pfn = c.pfn ∧ (c.countCeSp).vfn = c.vfn ∧ (c.countCeSp).tenants = c.tenants ∧
    (c.countCeSp).nparts = c.nparts ∧ (c.countCeSp).parts = c.parts ∧ (c.countCeSp).partPending = c.partPending ∧
    (c.countCeSp).placer = c.placer ∧ (c.countCeSp).scan = c.scan ∧ (c.countCeSp).sp = c.sp ∧
    (c.countCeSp).calPc = c.calPc ∧ (c.countCeSp).calDqs = c.calDqs ∧ (c.countCeSp).calZq = c.calZq ∧
    (c.countCeSp).calIsl = c.calIsl ∧ (c.countCeSp).limiter = c.limiter ∧ (c.countCeSp).intc = c.intc ∧
    (c.countCeSp).faults = c.faults ∧ (c.countCeSp).ports = c.ports ∧ (c.countCeSp).groups = c.groups ∧
    (c.countCeSp).bore = c.bore ∧ (c.countCeSp).attests = c.attests ∧ (c.countCeSp).mgmt = c.mgmt ∧
    (c.countCeSp).gate = c.gate ∧ (c.countCeSp).hatband = c.hatband ∧ (c.countCeSp).objs = c.objs ∧
    (c.countCeSp).readData = c.readData ∧ (∀ pp : Fin 4, (c.countCeSp).run pp = c.run pp) := by
  unfold Chip.countCeSp
  first
    | (simp [Chip.run]; done)
    | ((try dsimp only) <;> (repeat' split) <;> simp [Chip.run])

@[simp] theorem Chip.countUe_keeps (c : Chip) (tier : Nat) :
    (c.countUe tier).drawn = c.drawn ∧ (c.countUe tier).drone = c.drone ∧ (c.countUe tier).power = c.power ∧
    (c.countUe tier).pins = c.pins ∧ (c.countUe tier).boot = c.boot ∧ (c.countUe tier).driver = c.driver ∧
    (c.countUe tier).pfn = c.pfn ∧ (c.countUe tier).vfn = c.vfn ∧ (c.countUe tier).tenants = c.tenants ∧
    (c.countUe tier).nparts = c.nparts ∧ (c.countUe tier).parts = c.parts ∧ (c.countUe tier).partPending = c.partPending ∧
    (c.countUe tier).placer = c.placer ∧ (c.countUe tier).scan = c.scan ∧ (c.countUe tier).sp = c.sp ∧
    (c.countUe tier).calPc = c.calPc ∧ (c.countUe tier).calDqs = c.calDqs ∧ (c.countUe tier).calZq = c.calZq ∧
    (c.countUe tier).calIsl = c.calIsl ∧ (c.countUe tier).limiter = c.limiter ∧ (c.countUe tier).intc = c.intc ∧
    (c.countUe tier).faults = c.faults ∧ (c.countUe tier).ports = c.ports ∧ (c.countUe tier).groups = c.groups ∧
    (c.countUe tier).bore = c.bore ∧ (c.countUe tier).attests = c.attests ∧ (c.countUe tier).mgmt = c.mgmt ∧
    (c.countUe tier).gate = c.gate ∧ (c.countUe tier).hatband = c.hatband ∧ (c.countUe tier).objs = c.objs ∧
    (c.countUe tier).readData = c.readData ∧ (∀ pp : Fin 4, (c.countUe tier).run pp = c.run pp) := by
  unfold Chip.countUe
  first
    | (simp [Chip.run]; done)
    | ((try dsimp only) <;> (repeat' split) <;> simp [Chip.run])

@[simp] theorem Chip.effect_keeps (c : Chip) (r : Running) (e : Effect) :
    (c.effect r e).drawn = c.drawn ∧ (c.effect r e).drone = c.drone ∧ (c.effect r e).power = c.power ∧
    (c.effect r e).pins = c.pins ∧ (c.effect r e).boot = c.boot ∧ (c.effect r e).driver = c.driver ∧
    (c.effect r e).tenants = c.tenants ∧ (c.effect r e).nparts = c.nparts ∧ (c.effect r e).parts = c.parts ∧
    (c.effect r e).partPending = c.partPending ∧ (c.effect r e).placer = c.placer ∧ (c.effect r e).scan = c.scan ∧
    (c.effect r e).sp = c.sp ∧ (c.effect r e).memObj = c.memObj ∧ (c.effect r e).calPc = c.calPc ∧
    (c.effect r e).calDqs = c.calDqs ∧ (c.effect r e).calZq = c.calZq ∧ (c.effect r e).calIsl = c.calIsl ∧
    (c.effect r e).limiter = c.limiter ∧ (c.effect r e).intc = c.intc ∧ (c.effect r e).faults = c.faults ∧
    (c.effect r e).ports = c.ports ∧ (c.effect r e).groups = c.groups ∧ (c.effect r e).bore = c.bore ∧
    (c.effect r e).attests = c.attests ∧ (c.effect r e).mgmt = c.mgmt ∧ (c.effect r e).gate = c.gate ∧
    (c.effect r e).hatband = c.hatband ∧ (c.effect r e).mram = c.mram ∧ (c.effect r e).readData = c.readData ∧
    (∀ pp : Fin 4, (c.effect r e).run pp = c.run pp) := by
  unfold Chip.effect
  first
    | (simp [Chip.run]; done)
    | ((try dsimp only) <;> (repeat' split) <;> simp [Chip.run])

@[simp] theorem Chip.sendOut_keeps (c : Chip) (g : Group) (k : CollRun) (o : HopOut) (fs : List DataFrame) :
    (c.sendOut g k o fs).drawn = c.drawn ∧ (c.sendOut g k o fs).drone = c.drone ∧ (c.sendOut g k o fs).power = c.power ∧
    (c.sendOut g k o fs).pins = c.pins ∧ (c.sendOut g k o fs).boot = c.boot ∧ (c.sendOut g k o fs).driver = c.driver ∧
    (c.sendOut g k o fs).pfn = c.pfn ∧ (c.sendOut g k o fs).vfn = c.vfn ∧ (c.sendOut g k o fs).tenants = c.tenants ∧
    (c.sendOut g k o fs).nparts = c.nparts ∧ (c.sendOut g k o fs).parts = c.parts ∧ (c.sendOut g k o fs).partPending = c.partPending ∧
    (c.sendOut g k o fs).placer = c.placer ∧ (c.sendOut g k o fs).scan = c.scan ∧ (c.sendOut g k o fs).sp = c.sp ∧
    (c.sendOut g k o fs).memObj = c.memObj ∧ (c.sendOut g k o fs).calPc = c.calPc ∧ (c.sendOut g k o fs).calDqs = c.calDqs ∧
    (c.sendOut g k o fs).calZq = c.calZq ∧ (c.sendOut g k o fs).calIsl = c.calIsl ∧ (c.sendOut g k o fs).limiter = c.limiter ∧
    (c.sendOut g k o fs).intc = c.intc ∧ (c.sendOut g k o fs).faults = c.faults ∧ (c.sendOut g k o fs).bore = c.bore ∧
    (c.sendOut g k o fs).attests = c.attests ∧ (c.sendOut g k o fs).mgmt = c.mgmt ∧ (c.sendOut g k o fs).gate = c.gate ∧
    (c.sendOut g k o fs).hatband = c.hatband ∧ (c.sendOut g k o fs).mram = c.mram ∧ (c.sendOut g k o fs).objs = c.objs ∧
    (c.sendOut g k o fs).readData = c.readData ∧ (∀ pp : Fin 4, (c.sendOut g k o fs).run pp = c.run pp) := by
  unfold Chip.sendOut
  first
    | (simp [Chip.run]; done)
    | ((try dsimp only) <;> (repeat' split) <;> simp [Chip.run])

@[simp] theorem Chip.dropHead_keeps (c : Chip) (q : Fin 16) :
    (c.dropHead q).drawn = c.drawn ∧ (c.dropHead q).drone = c.drone ∧ (c.dropHead q).power = c.power ∧
    (c.dropHead q).pins = c.pins ∧ (c.dropHead q).boot = c.boot ∧ (c.dropHead q).driver = c.driver ∧
    (c.dropHead q).pfn = c.pfn ∧ (c.dropHead q).vfn = c.vfn ∧ (c.dropHead q).tenants = c.tenants ∧
    (c.dropHead q).nparts = c.nparts ∧ (c.dropHead q).parts = c.parts ∧ (c.dropHead q).partPending = c.partPending ∧
    (c.dropHead q).placer = c.placer ∧ (c.dropHead q).scan = c.scan ∧ (c.dropHead q).sp = c.sp ∧
    (c.dropHead q).memObj = c.memObj ∧ (c.dropHead q).calPc = c.calPc ∧ (c.dropHead q).calDqs = c.calDqs ∧
    (c.dropHead q).calZq = c.calZq ∧ (c.dropHead q).calIsl = c.calIsl ∧ (c.dropHead q).limiter = c.limiter ∧
    (c.dropHead q).intc = c.intc ∧ (c.dropHead q).faults = c.faults ∧ (c.dropHead q).groups = c.groups ∧
    (c.dropHead q).bore = c.bore ∧ (c.dropHead q).attests = c.attests ∧ (c.dropHead q).mgmt = c.mgmt ∧
    (c.dropHead q).gate = c.gate ∧ (c.dropHead q).hatband = c.hatband ∧ (c.dropHead q).mram = c.mram ∧
    (c.dropHead q).objs = c.objs ∧ (c.dropHead q).readData = c.readData ∧ (∀ pp : Fin 4, (c.dropHead q).run pp = c.run pp) := by
  unfold Chip.dropHead
  first
    | (simp [Chip.run]; done)
    | ((try dsimp only) <;> (repeat' split) <;> simp [Chip.run])

@[simp] theorem Chip.bindDone_keeps (c : Chip) (src : CmdSrc) (r : BindReport) :
    (c.bindDone src r).drawn = c.drawn ∧ (c.bindDone src r).drone = c.drone ∧ (c.bindDone src r).power = c.power ∧
    (c.bindDone src r).pins = c.pins ∧ (c.bindDone src r).boot = c.boot ∧ (c.bindDone src r).driver = c.driver ∧
    (c.bindDone src r).tenants = c.tenants ∧ (c.bindDone src r).nparts = c.nparts ∧ (c.bindDone src r).parts = c.parts ∧
    (c.bindDone src r).partPending = c.partPending ∧ (c.bindDone src r).placer = c.placer ∧ (c.bindDone src r).scan = c.scan ∧
    (c.bindDone src r).sp = c.sp ∧ (c.bindDone src r).memObj = c.memObj ∧ (c.bindDone src r).calPc = c.calPc ∧
    (c.bindDone src r).calDqs = c.calDqs ∧ (c.bindDone src r).calZq = c.calZq ∧ (c.bindDone src r).calIsl = c.calIsl ∧
    (c.bindDone src r).limiter = c.limiter ∧ (c.bindDone src r).intc = c.intc ∧ (c.bindDone src r).faults = c.faults ∧
    (c.bindDone src r).ports = c.ports ∧ (c.bindDone src r).groups = c.groups ∧ (c.bindDone src r).bore = c.bore ∧
    (c.bindDone src r).attests = c.attests ∧ (c.bindDone src r).mgmt = c.mgmt ∧ (c.bindDone src r).gate = c.gate ∧
    (c.bindDone src r).hatband = c.hatband ∧ (c.bindDone src r).mram = c.mram ∧ (c.bindDone src r).readData = c.readData ∧
    (∀ pp : Fin 4, (c.bindDone src r).run pp = c.run pp) := by
  unfold Chip.bindDone
  first
    | (simp [Chip.run]; done)
    | ((try dsimp only) <;> (repeat' split) <;> simp [Chip.run])

@[simp] theorem Chip.queueJob_keeps (c : Chip) (j : BindJob) :
    (c.queueJob j).drawn = c.drawn ∧ (c.queueJob j).drone = c.drone ∧ (c.queueJob j).power = c.power ∧
    (c.queueJob j).pins = c.pins ∧ (c.queueJob j).boot = c.boot ∧ (c.queueJob j).driver = c.driver ∧
    (c.queueJob j).pfn = c.pfn ∧ (c.queueJob j).vfn = c.vfn ∧ (c.queueJob j).nparts = c.nparts ∧
    (c.queueJob j).parts = c.parts ∧ (c.queueJob j).partPending = c.partPending ∧ (c.queueJob j).scan = c.scan ∧
    (c.queueJob j).sp = c.sp ∧ (c.queueJob j).memObj = c.memObj ∧ (c.queueJob j).calPc = c.calPc ∧
    (c.queueJob j).calDqs = c.calDqs ∧ (c.queueJob j).calZq = c.calZq ∧ (c.queueJob j).calIsl = c.calIsl ∧
    (c.queueJob j).limiter = c.limiter ∧ (c.queueJob j).intc = c.intc ∧ (c.queueJob j).faults = c.faults ∧
    (c.queueJob j).ports = c.ports ∧ (c.queueJob j).bore = c.bore ∧ (c.queueJob j).attests = c.attests ∧
    (c.queueJob j).mgmt = c.mgmt ∧ (c.queueJob j).gate = c.gate ∧ (c.queueJob j).hatband = c.hatband ∧
    (c.queueJob j).mram = c.mram ∧ (c.queueJob j).objs = c.objs ∧ (c.queueJob j).readData = c.readData ∧
    (∀ pp : Fin 4, (c.queueJob j).run pp = c.run pp) := by
  unfold Chip.queueJob
  first
    | (simp [Chip.run]; done)
    | ((try dsimp only) <;> (repeat' split) <;> simp [Chip.run])

@[simp] theorem Chip.rewriteWindows_keeps (c : Chip) (q : Fin 4) :
    (c.rewriteWindows q).drawn = c.drawn ∧ (c.rewriteWindows q).drone = c.drone ∧ (c.rewriteWindows q).power = c.power ∧
    (c.rewriteWindows q).pins = c.pins ∧ (c.rewriteWindows q).boot = c.boot ∧ (c.rewriteWindows q).driver = c.driver ∧
    (c.rewriteWindows q).pfn = c.pfn ∧ (c.rewriteWindows q).vfn = c.vfn ∧ (c.rewriteWindows q).nparts = c.nparts ∧
    (c.rewriteWindows q).parts = c.parts ∧ (c.rewriteWindows q).partPending = c.partPending ∧ (c.rewriteWindows q).placer = c.placer ∧
    (c.rewriteWindows q).scan = c.scan ∧ (c.rewriteWindows q).sp = c.sp ∧ (c.rewriteWindows q).calPc = c.calPc ∧
    (c.rewriteWindows q).calDqs = c.calDqs ∧ (c.rewriteWindows q).calZq = c.calZq ∧ (c.rewriteWindows q).calIsl = c.calIsl ∧
    (c.rewriteWindows q).limiter = c.limiter ∧ (c.rewriteWindows q).intc = c.intc ∧ (c.rewriteWindows q).faults = c.faults ∧
    (c.rewriteWindows q).ports = c.ports ∧ (c.rewriteWindows q).groups = c.groups ∧ (c.rewriteWindows q).bore = c.bore ∧
    (c.rewriteWindows q).attests = c.attests ∧ (c.rewriteWindows q).mgmt = c.mgmt ∧ (c.rewriteWindows q).gate = c.gate ∧
    (c.rewriteWindows q).hatband = c.hatband ∧ (c.rewriteWindows q).mram = c.mram ∧ (c.rewriteWindows q).objs = c.objs ∧
    (c.rewriteWindows q).readData = c.readData ∧ (∀ pp : Fin 4, (c.rewriteWindows q).run pp = c.run pp) := by
  unfold Chip.rewriteWindows
  first
    | (simp [Chip.run]; done)
    | ((try dsimp only) <;> (repeat' split) <;> simp [Chip.run])

@[simp] theorem Chip.ackHop_keeps (c : Chip) (g : Group) (x : RxHop) :
    (c.ackHop g x).drawn = c.drawn ∧ (c.ackHop g x).drone = c.drone ∧ (c.ackHop g x).power = c.power ∧
    (c.ackHop g x).pins = c.pins ∧ (c.ackHop g x).boot = c.boot ∧ (c.ackHop g x).driver = c.driver ∧
    (c.ackHop g x).pfn = c.pfn ∧ (c.ackHop g x).vfn = c.vfn ∧ (c.ackHop g x).tenants = c.tenants ∧
    (c.ackHop g x).nparts = c.nparts ∧ (c.ackHop g x).parts = c.parts ∧ (c.ackHop g x).partPending = c.partPending ∧
    (c.ackHop g x).placer = c.placer ∧ (c.ackHop g x).scan = c.scan ∧ (c.ackHop g x).sp = c.sp ∧
    (c.ackHop g x).memObj = c.memObj ∧ (c.ackHop g x).calPc = c.calPc ∧ (c.ackHop g x).calDqs = c.calDqs ∧
    (c.ackHop g x).calZq = c.calZq ∧ (c.ackHop g x).calIsl = c.calIsl ∧ (c.ackHop g x).limiter = c.limiter ∧
    (c.ackHop g x).intc = c.intc ∧ (c.ackHop g x).faults = c.faults ∧ (c.ackHop g x).groups = c.groups ∧
    (c.ackHop g x).bore = c.bore ∧ (c.ackHop g x).attests = c.attests ∧ (c.ackHop g x).mgmt = c.mgmt ∧
    (c.ackHop g x).gate = c.gate ∧ (c.ackHop g x).hatband = c.hatband ∧ (c.ackHop g x).mram = c.mram ∧
    (c.ackHop g x).objs = c.objs ∧ (c.ackHop g x).readData = c.readData ∧ (∀ pp : Fin 4, (c.ackHop g x).run pp = c.run pp) := by
  unfold Chip.ackHop
  first
    | (simp [Chip.run]; done)
    | ((try dsimp only) <;> (repeat' split) <;> simp [Chip.run])

@[simp] theorem Chip.ackCovered_keeps (c : Chip) (t : Fin 16) (k : CommitPt) :
    (c.ackCovered t k).drawn = c.drawn ∧ (c.ackCovered t k).drone = c.drone ∧ (c.ackCovered t k).power = c.power ∧
    (c.ackCovered t k).pins = c.pins ∧ (c.ackCovered t k).boot = c.boot ∧ (c.ackCovered t k).driver = c.driver ∧
    (c.ackCovered t k).pfn = c.pfn ∧ (c.ackCovered t k).vfn = c.vfn ∧ (c.ackCovered t k).tenants = c.tenants ∧
    (c.ackCovered t k).nparts = c.nparts ∧ (c.ackCovered t k).parts = c.parts ∧ (c.ackCovered t k).partPending = c.partPending ∧
    (c.ackCovered t k).placer = c.placer ∧ (c.ackCovered t k).scan = c.scan ∧ (c.ackCovered t k).sp = c.sp ∧
    (c.ackCovered t k).memObj = c.memObj ∧ (c.ackCovered t k).calPc = c.calPc ∧ (c.ackCovered t k).calDqs = c.calDqs ∧
    (c.ackCovered t k).calZq = c.calZq ∧ (c.ackCovered t k).calIsl = c.calIsl ∧ (c.ackCovered t k).limiter = c.limiter ∧
    (c.ackCovered t k).intc = c.intc ∧ (c.ackCovered t k).faults = c.faults ∧ (c.ackCovered t k).groups = c.groups ∧
    (c.ackCovered t k).bore = c.bore ∧ (c.ackCovered t k).attests = c.attests ∧ (c.ackCovered t k).mgmt = c.mgmt ∧
    (c.ackCovered t k).gate = c.gate ∧ (c.ackCovered t k).hatband = c.hatband ∧ (c.ackCovered t k).mram = c.mram ∧
    (c.ackCovered t k).objs = c.objs ∧ (c.ackCovered t k).readData = c.readData ∧ (∀ pp : Fin 4, (c.ackCovered t k).run pp = c.run pp) := by
  unfold Chip.ackCovered
  first
    | (simp [Chip.run]; done)
    | ((try dsimp only) <;> (repeat' split) <;> simp [Chip.run])

@[simp] theorem Chip.dropCovered_keeps (c : Chip) (t : Fin 16) (k : CommitPt) :
    (c.dropCovered t k).drawn = c.drawn ∧ (c.dropCovered t k).drone = c.drone ∧ (c.dropCovered t k).power = c.power ∧
    (c.dropCovered t k).pins = c.pins ∧ (c.dropCovered t k).boot = c.boot ∧ (c.dropCovered t k).driver = c.driver ∧
    (c.dropCovered t k).pfn = c.pfn ∧ (c.dropCovered t k).vfn = c.vfn ∧ (c.dropCovered t k).tenants = c.tenants ∧
    (c.dropCovered t k).nparts = c.nparts ∧ (c.dropCovered t k).parts = c.parts ∧ (c.dropCovered t k).partPending = c.partPending ∧
    (c.dropCovered t k).placer = c.placer ∧ (c.dropCovered t k).scan = c.scan ∧ (c.dropCovered t k).sp = c.sp ∧
    (c.dropCovered t k).memObj = c.memObj ∧ (c.dropCovered t k).calPc = c.calPc ∧ (c.dropCovered t k).calDqs = c.calDqs ∧
    (c.dropCovered t k).calZq = c.calZq ∧ (c.dropCovered t k).calIsl = c.calIsl ∧ (c.dropCovered t k).limiter = c.limiter ∧
    (c.dropCovered t k).intc = c.intc ∧ (c.dropCovered t k).faults = c.faults ∧ (c.dropCovered t k).ports = c.ports ∧
    (c.dropCovered t k).bore = c.bore ∧ (c.dropCovered t k).attests = c.attests ∧ (c.dropCovered t k).mgmt = c.mgmt ∧
    (c.dropCovered t k).gate = c.gate ∧ (c.dropCovered t k).hatband = c.hatband ∧ (c.dropCovered t k).mram = c.mram ∧
    (c.dropCovered t k).objs = c.objs ∧ (c.dropCovered t k).readData = c.readData ∧ (∀ pp : Fin 4, (c.dropCovered t k).run pp = c.run pp) := by
  unfold Chip.dropCovered
  first
    | (simp [Chip.run]; done)
    | ((try dsimp only) <;> (repeat' split) <;> simp [Chip.run])

@[simp] theorem Chip.reboundRec_keeps (c : Chip) (r : Running) :
    (c.reboundRec r).drawn = c.drawn ∧ (c.reboundRec r).drone = c.drone ∧ (c.reboundRec r).power = c.power ∧
    (c.reboundRec r).pins = c.pins ∧ (c.reboundRec r).boot = c.boot ∧ (c.reboundRec r).driver = c.driver ∧
    (c.reboundRec r).pfn = c.pfn ∧ (c.reboundRec r).vfn = c.vfn ∧ (c.reboundRec r).tenants = c.tenants ∧
    (c.reboundRec r).nparts = c.nparts ∧ (c.reboundRec r).parts = c.parts ∧ (c.reboundRec r).partPending = c.partPending ∧
    (c.reboundRec r).placer = c.placer ∧ (c.reboundRec r).scan = c.scan ∧ (c.reboundRec r).sp = c.sp ∧
    (c.reboundRec r).memObj = c.memObj ∧ (c.reboundRec r).calPc = c.calPc ∧ (c.reboundRec r).calDqs = c.calDqs ∧
    (c.reboundRec r).calZq = c.calZq ∧ (c.reboundRec r).calIsl = c.calIsl ∧ (c.reboundRec r).limiter = c.limiter ∧
    (c.reboundRec r).intc = c.intc ∧ (c.reboundRec r).faults = c.faults ∧ (c.reboundRec r).ports = c.ports ∧
    (c.reboundRec r).groups = c.groups ∧ (c.reboundRec r).bore = c.bore ∧ (c.reboundRec r).attests = c.attests ∧
    (c.reboundRec r).mgmt = c.mgmt ∧ (c.reboundRec r).gate = c.gate ∧ (c.reboundRec r).objs = c.objs ∧
    (c.reboundRec r).readData = c.readData ∧ (∀ pp : Fin 4, (c.reboundRec r).run pp = c.run pp) := by
  unfold Chip.reboundRec
  first
    | (simp [Chip.run]; done)
    | ((try dsimp only) <;> (repeat' split) <;> simp [Chip.run])

@[simp] theorem Chip.rebound_keeps (c : Chip) (q : Fin 4) :
    (c.rebound q).drawn = c.drawn ∧ (c.rebound q).drone = c.drone ∧ (c.rebound q).power = c.power ∧
    (c.rebound q).pins = c.pins ∧ (c.rebound q).driver = c.driver ∧ (c.rebound q).pfn = c.pfn ∧
    (c.rebound q).vfn = c.vfn ∧ (c.rebound q).tenants = c.tenants ∧ (c.rebound q).nparts = c.nparts ∧
    (c.rebound q).partPending = c.partPending ∧ (c.rebound q).scan = c.scan ∧ (c.rebound q).sp = c.sp ∧
    (c.rebound q).memObj = c.memObj ∧ (c.rebound q).calPc = c.calPc ∧ (c.rebound q).calDqs = c.calDqs ∧
    (c.rebound q).calZq = c.calZq ∧ (c.rebound q).calIsl = c.calIsl ∧ (c.rebound q).limiter = c.limiter ∧
    (c.rebound q).faults = c.faults ∧ (c.rebound q).ports = c.ports ∧ (c.rebound q).groups = c.groups ∧
    (c.rebound q).bore = c.bore ∧ (c.rebound q).attests = c.attests ∧ (c.rebound q).mgmt = c.mgmt ∧
    (c.rebound q).gate = c.gate ∧ (c.rebound q).objs = c.objs ∧ (c.rebound q).readData = c.readData := by
  unfold Chip.rebound
  first
    | (simp [Chip.run]; done)
    | ((try dsimp only) <;> (repeat' split) <;> simp [Chip.run])

@[simp] theorem Chip.loseSwitch_keeps (c : Chip) (t : Fin 16) (aid : Option W16) (epoch : W16) :
    (c.loseSwitch t aid epoch).drawn = c.drawn ∧ (c.loseSwitch t aid epoch).drone = c.drone ∧ (c.loseSwitch t aid epoch).power = c.power ∧
    (c.loseSwitch t aid epoch).pins = c.pins ∧ (c.loseSwitch t aid epoch).boot = c.boot ∧ (c.loseSwitch t aid epoch).driver = c.driver ∧
    (c.loseSwitch t aid epoch).nparts = c.nparts ∧ (c.loseSwitch t aid epoch).parts = c.parts ∧ (c.loseSwitch t aid epoch).partPending = c.partPending ∧
    (c.loseSwitch t aid epoch).placer = c.placer ∧ (c.loseSwitch t aid epoch).scan = c.scan ∧ (c.loseSwitch t aid epoch).sp = c.sp ∧
    (c.loseSwitch t aid epoch).memObj = c.memObj ∧ (c.loseSwitch t aid epoch).calPc = c.calPc ∧ (c.loseSwitch t aid epoch).calDqs = c.calDqs ∧
    (c.loseSwitch t aid epoch).calZq = c.calZq ∧ (c.loseSwitch t aid epoch).calIsl = c.calIsl ∧ (c.loseSwitch t aid epoch).limiter = c.limiter ∧
    (c.loseSwitch t aid epoch).intc = c.intc ∧ (c.loseSwitch t aid epoch).faults = c.faults ∧ (c.loseSwitch t aid epoch).ports = c.ports ∧
    (c.loseSwitch t aid epoch).groups = c.groups ∧ (c.loseSwitch t aid epoch).bore = c.bore ∧ (c.loseSwitch t aid epoch).attests = c.attests ∧
    (c.loseSwitch t aid epoch).mgmt = c.mgmt ∧ (c.loseSwitch t aid epoch).gate = c.gate ∧ (c.loseSwitch t aid epoch).hatband = c.hatband ∧
    (c.loseSwitch t aid epoch).mram = c.mram ∧ (c.loseSwitch t aid epoch).readData = c.readData ∧ (∀ pp : Fin 4, (c.loseSwitch t aid epoch).run pp = c.run pp) := by
  unfold Chip.loseSwitch
  first
    | (simp [Chip.run]; done)
    | ((try dsimp only) <;> (repeat' split) <;> simp [Chip.run])

@[simp] theorem Chip.freeCopy_keeps (c : Chip) (t : Fin 16) (aid : Option W16) (epoch : W16) :
    (c.freeCopy t aid epoch).drawn = c.drawn ∧ (c.freeCopy t aid epoch).drone = c.drone ∧ (c.freeCopy t aid epoch).power = c.power ∧
    (c.freeCopy t aid epoch).pins = c.pins ∧ (c.freeCopy t aid epoch).boot = c.boot ∧ (c.freeCopy t aid epoch).driver = c.driver ∧
    (c.freeCopy t aid epoch).nparts = c.nparts ∧ (c.freeCopy t aid epoch).parts = c.parts ∧ (c.freeCopy t aid epoch).partPending = c.partPending ∧
    (c.freeCopy t aid epoch).placer = c.placer ∧ (c.freeCopy t aid epoch).scan = c.scan ∧ (c.freeCopy t aid epoch).sp = c.sp ∧
    (c.freeCopy t aid epoch).memObj = c.memObj ∧ (c.freeCopy t aid epoch).calPc = c.calPc ∧ (c.freeCopy t aid epoch).calDqs = c.calDqs ∧
    (c.freeCopy t aid epoch).calZq = c.calZq ∧ (c.freeCopy t aid epoch).calIsl = c.calIsl ∧ (c.freeCopy t aid epoch).limiter = c.limiter ∧
    (c.freeCopy t aid epoch).intc = c.intc ∧ (c.freeCopy t aid epoch).faults = c.faults ∧ (c.freeCopy t aid epoch).ports = c.ports ∧
    (c.freeCopy t aid epoch).groups = c.groups ∧ (c.freeCopy t aid epoch).bore = c.bore ∧ (c.freeCopy t aid epoch).attests = c.attests ∧
    (c.freeCopy t aid epoch).mgmt = c.mgmt ∧ (c.freeCopy t aid epoch).gate = c.gate ∧ (c.freeCopy t aid epoch).hatband = c.hatband ∧
    (c.freeCopy t aid epoch).mram = c.mram ∧ (c.freeCopy t aid epoch).readData = c.readData ∧ (∀ pp : Fin 4, (c.freeCopy t aid epoch).run pp = c.run pp) := by
  unfold Chip.freeCopy
  (try dsimp only [Chip.draw256]); and_intros
  · repeat' (first | (simp [Chip.run, Chip.draw256]; done) | intro _ | with_reducible refine (foldl_drawn ?_ _ _).trans ?_ | simp | split)
  · repeat' (first | (simp [Chip.run, Chip.draw256]; done) | intro _ | with_reducible refine (foldl_drone ?_ _ _).trans ?_ | simp | split)
  · repeat' (first | (simp [Chip.run, Chip.draw256]; done) | intro _ | with_reducible refine (foldl_power ?_ _ _).trans ?_ | simp | split)
  · repeat' (first | (simp [Chip.run, Chip.draw256]; done) | intro _ | with_reducible refine (foldl_pins ?_ _ _).trans ?_ | simp | split)
  · repeat' (first | (simp [Chip.run, Chip.draw256]; done) | intro _ | with_reducible refine (foldl_boot ?_ _ _).trans ?_ | simp | split)
  · repeat' (first | (simp [Chip.run, Chip.draw256]; done) | intro _ | with_reducible refine (foldl_driver ?_ _ _).trans ?_ | simp | split)
  · repeat' (first | (simp [Chip.run, Chip.draw256]; done) | intro _ | with_reducible refine (foldl_nparts ?_ _ _).trans ?_ | simp | split)
  · repeat' (first | (simp [Chip.run, Chip.draw256]; done) | intro _ | with_reducible refine (foldl_parts ?_ _ _).trans ?_ | simp | split)
  · repeat' (first | (simp [Chip.run, Chip.draw256]; done) | intro _ | with_reducible refine (foldl_partPending ?_ _ _).trans ?_ | simp | split)
  · repeat' (first | (simp [Chip.run, Chip.draw256]; done) | intro _ | with_reducible refine (foldl_placer ?_ _ _).trans ?_ | simp | split)
  · repeat' (first | (simp [Chip.run, Chip.draw256]; done) | intro _ | with_reducible refine (foldl_scan ?_ _ _).trans ?_ | simp | split)
  · repeat' (first | (simp [Chip.run, Chip.draw256]; done) | intro _ | with_reducible refine (foldl_sp ?_ _ _).trans ?_ | simp | split)
  · repeat' (first | (simp [Chip.run, Chip.draw256]; done) | intro _ | with_reducible refine (foldl_memObj ?_ _ _).trans ?_ | simp | split)
  · repeat' (first | (simp [Chip.run, Chip.draw256]; done) | intro _ | with_reducible refine (foldl_calPc ?_ _ _).trans ?_ | simp | split)
  · repeat' (first | (simp [Chip.run, Chip.draw256]; done) | intro _ | with_reducible refine (foldl_calDqs ?_ _ _).trans ?_ | simp | split)
  · repeat' (first | (simp [Chip.run, Chip.draw256]; done) | intro _ | with_reducible refine (foldl_calZq ?_ _ _).trans ?_ | simp | split)
  · repeat' (first | (simp [Chip.run, Chip.draw256]; done) | intro _ | with_reducible refine (foldl_calIsl ?_ _ _).trans ?_ | simp | split)
  · repeat' (first | (simp [Chip.run, Chip.draw256]; done) | intro _ | with_reducible refine (foldl_limiter ?_ _ _).trans ?_ | simp | split)
  · repeat' (first | (simp [Chip.run, Chip.draw256]; done) | intro _ | with_reducible refine (foldl_intc ?_ _ _).trans ?_ | simp | split)
  · repeat' (first | (simp [Chip.run, Chip.draw256]; done) | intro _ | with_reducible refine (foldl_faults ?_ _ _).trans ?_ | simp | split)
  · repeat' (first | (simp [Chip.run, Chip.draw256]; done) | intro _ | with_reducible refine (foldl_ports ?_ _ _).trans ?_ | simp | split)
  · repeat' (first | (simp [Chip.run, Chip.draw256]; done) | intro _ | with_reducible refine (foldl_groups ?_ _ _).trans ?_ | simp | split)
  · repeat' (first | (simp [Chip.run, Chip.draw256]; done) | intro _ | with_reducible refine (foldl_bore ?_ _ _).trans ?_ | simp | split)
  · repeat' (first | (simp [Chip.run, Chip.draw256]; done) | intro _ | with_reducible refine (foldl_attests ?_ _ _).trans ?_ | simp | split)
  · repeat' (first | (simp [Chip.run, Chip.draw256]; done) | intro _ | with_reducible refine (foldl_mgmt ?_ _ _).trans ?_ | simp | split)
  · repeat' (first | (simp [Chip.run, Chip.draw256]; done) | intro _ | with_reducible refine (foldl_gate ?_ _ _).trans ?_ | simp | split)
  · repeat' (first | (simp [Chip.run, Chip.draw256]; done) | intro _ | with_reducible refine (foldl_hatband ?_ _ _).trans ?_ | simp | split)
  · repeat' (first | (simp [Chip.run, Chip.draw256]; done) | intro _ | with_reducible refine (foldl_mram ?_ _ _).trans ?_ | simp | split)
  · repeat' (first | (simp [Chip.run, Chip.draw256]; done) | intro _ | with_reducible refine (foldl_readData ?_ _ _).trans ?_ | simp | split)
  · intro pp; refine congrArg (fun v : Vector Part 4 => v[pp].run) ?_; repeat' (first | (simp [Chip.run, Chip.draw256]; done) | intro _ | with_reducible refine (foldl_parts ?_ _ _).trans ?_ | simp | split)

@[simp] theorem Chip.endFetch_keeps (c : Chip) (t : Fin 16) (f : Fetch) (status : W16) :
    (c.endFetch t f status).drawn = c.drawn ∧ (c.endFetch t f status).drone = c.drone ∧ (c.endFetch t f status).power = c.power ∧
    (c.endFetch t f status).pins = c.pins ∧ (c.endFetch t f status).boot = c.boot ∧ (c.endFetch t f status).driver = c.driver ∧
    (c.endFetch t f status).nparts = c.nparts ∧ (c.endFetch t f status).parts = c.parts ∧ (c.endFetch t f status).partPending = c.partPending ∧
    (c.endFetch t f status).placer = c.placer ∧ (c.endFetch t f status).scan = c.scan ∧ (c.endFetch t f status).sp = c.sp ∧
    (c.endFetch t f status).memObj = c.memObj ∧ (c.endFetch t f status).calPc = c.calPc ∧ (c.endFetch t f status).calDqs = c.calDqs ∧
    (c.endFetch t f status).calZq = c.calZq ∧ (c.endFetch t f status).calIsl = c.calIsl ∧ (c.endFetch t f status).limiter = c.limiter ∧
    (c.endFetch t f status).intc = c.intc ∧ (c.endFetch t f status).faults = c.faults ∧ (c.endFetch t f status).ports = c.ports ∧
    (c.endFetch t f status).bore = c.bore ∧ (c.endFetch t f status).attests = c.attests ∧ (c.endFetch t f status).mgmt = c.mgmt ∧
    (c.endFetch t f status).gate = c.gate ∧ (c.endFetch t f status).hatband = c.hatband ∧ (c.endFetch t f status).mram = c.mram ∧
    (c.endFetch t f status).readData = c.readData ∧ (∀ pp : Fin 4, (c.endFetch t f status).run pp = c.run pp) := by
  unfold Chip.endFetch
  first
    | (simp [Chip.run]; done)
    | ((try dsimp only) <;> (repeat' split) <;> simp [Chip.run])

@[simp] theorem Chip.failFetch_keeps (c : Chip) (t : Fin 16) (f : Fetch) (status : W16) :
    (c.failFetch t f status).drawn = c.drawn ∧ (c.failFetch t f status).drone = c.drone ∧ (c.failFetch t f status).power = c.power ∧
    (c.failFetch t f status).pins = c.pins ∧ (c.failFetch t f status).boot = c.boot ∧ (c.failFetch t f status).driver = c.driver ∧
    (c.failFetch t f status).nparts = c.nparts ∧ (c.failFetch t f status).parts = c.parts ∧ (c.failFetch t f status).partPending = c.partPending ∧
    (c.failFetch t f status).placer = c.placer ∧ (c.failFetch t f status).scan = c.scan ∧ (c.failFetch t f status).sp = c.sp ∧
    (c.failFetch t f status).memObj = c.memObj ∧ (c.failFetch t f status).calPc = c.calPc ∧ (c.failFetch t f status).calDqs = c.calDqs ∧
    (c.failFetch t f status).calZq = c.calZq ∧ (c.failFetch t f status).calIsl = c.calIsl ∧ (c.failFetch t f status).limiter = c.limiter ∧
    (c.failFetch t f status).intc = c.intc ∧ (c.failFetch t f status).faults = c.faults ∧ (c.failFetch t f status).ports = c.ports ∧
    (c.failFetch t f status).bore = c.bore ∧ (c.failFetch t f status).attests = c.attests ∧ (c.failFetch t f status).mgmt = c.mgmt ∧
    (c.failFetch t f status).gate = c.gate ∧ (c.failFetch t f status).hatband = c.hatband ∧ (c.failFetch t f status).mram = c.mram ∧
    (c.failFetch t f status).readData = c.readData ∧ (∀ pp : Fin 4, (c.failFetch t f status).run pp = c.run pp) := by
  unfold Chip.failFetch
  (try dsimp only [Chip.draw256]); and_intros
  · repeat' (first | (simp [Chip.run, Chip.draw256]; done) | intro _ | with_reducible refine (foldl_drawn ?_ _ _).trans ?_ | simp | split)
  · repeat' (first | (simp [Chip.run, Chip.draw256]; done) | intro _ | with_reducible refine (foldl_drone ?_ _ _).trans ?_ | simp | split)
  · repeat' (first | (simp [Chip.run, Chip.draw256]; done) | intro _ | with_reducible refine (foldl_power ?_ _ _).trans ?_ | simp | split)
  · repeat' (first | (simp [Chip.run, Chip.draw256]; done) | intro _ | with_reducible refine (foldl_pins ?_ _ _).trans ?_ | simp | split)
  · repeat' (first | (simp [Chip.run, Chip.draw256]; done) | intro _ | with_reducible refine (foldl_boot ?_ _ _).trans ?_ | simp | split)
  · repeat' (first | (simp [Chip.run, Chip.draw256]; done) | intro _ | with_reducible refine (foldl_driver ?_ _ _).trans ?_ | simp | split)
  · repeat' (first | (simp [Chip.run, Chip.draw256]; done) | intro _ | with_reducible refine (foldl_nparts ?_ _ _).trans ?_ | simp | split)
  · repeat' (first | (simp [Chip.run, Chip.draw256]; done) | intro _ | with_reducible refine (foldl_parts ?_ _ _).trans ?_ | simp | split)
  · repeat' (first | (simp [Chip.run, Chip.draw256]; done) | intro _ | with_reducible refine (foldl_partPending ?_ _ _).trans ?_ | simp | split)
  · repeat' (first | (simp [Chip.run, Chip.draw256]; done) | intro _ | with_reducible refine (foldl_placer ?_ _ _).trans ?_ | simp | split)
  · repeat' (first | (simp [Chip.run, Chip.draw256]; done) | intro _ | with_reducible refine (foldl_scan ?_ _ _).trans ?_ | simp | split)
  · repeat' (first | (simp [Chip.run, Chip.draw256]; done) | intro _ | with_reducible refine (foldl_sp ?_ _ _).trans ?_ | simp | split)
  · repeat' (first | (simp [Chip.run, Chip.draw256]; done) | intro _ | with_reducible refine (foldl_memObj ?_ _ _).trans ?_ | simp | split)
  · repeat' (first | (simp [Chip.run, Chip.draw256]; done) | intro _ | with_reducible refine (foldl_calPc ?_ _ _).trans ?_ | simp | split)
  · repeat' (first | (simp [Chip.run, Chip.draw256]; done) | intro _ | with_reducible refine (foldl_calDqs ?_ _ _).trans ?_ | simp | split)
  · repeat' (first | (simp [Chip.run, Chip.draw256]; done) | intro _ | with_reducible refine (foldl_calZq ?_ _ _).trans ?_ | simp | split)
  · repeat' (first | (simp [Chip.run, Chip.draw256]; done) | intro _ | with_reducible refine (foldl_calIsl ?_ _ _).trans ?_ | simp | split)
  · repeat' (first | (simp [Chip.run, Chip.draw256]; done) | intro _ | with_reducible refine (foldl_limiter ?_ _ _).trans ?_ | simp | split)
  · repeat' (first | (simp [Chip.run, Chip.draw256]; done) | intro _ | with_reducible refine (foldl_intc ?_ _ _).trans ?_ | simp | split)
  · repeat' (first | (simp [Chip.run, Chip.draw256]; done) | intro _ | with_reducible refine (foldl_faults ?_ _ _).trans ?_ | simp | split)
  · repeat' (first | (simp [Chip.run, Chip.draw256]; done) | intro _ | with_reducible refine (foldl_ports ?_ _ _).trans ?_ | simp | split)
  · repeat' (first | (simp [Chip.run, Chip.draw256]; done) | intro _ | with_reducible refine (foldl_bore ?_ _ _).trans ?_ | simp | split)
  · repeat' (first | (simp [Chip.run, Chip.draw256]; done) | intro _ | with_reducible refine (foldl_attests ?_ _ _).trans ?_ | simp | split)
  · repeat' (first | (simp [Chip.run, Chip.draw256]; done) | intro _ | with_reducible refine (foldl_mgmt ?_ _ _).trans ?_ | simp | split)
  · repeat' (first | (simp [Chip.run, Chip.draw256]; done) | intro _ | with_reducible refine (foldl_gate ?_ _ _).trans ?_ | simp | split)
  · repeat' (first | (simp [Chip.run, Chip.draw256]; done) | intro _ | with_reducible refine (foldl_hatband ?_ _ _).trans ?_ | simp | split)
  · repeat' (first | (simp [Chip.run, Chip.draw256]; done) | intro _ | with_reducible refine (foldl_mram ?_ _ _).trans ?_ | simp | split)
  · repeat' (first | (simp [Chip.run, Chip.draw256]; done) | intro _ | with_reducible refine (foldl_readData ?_ _ _).trans ?_ | simp | split)
  · intro pp; refine congrArg (fun v : Vector Part 4 => v[pp].run) ?_; repeat' (first | (simp [Chip.run, Chip.draw256]; done) | intro _ | with_reducible refine (foldl_parts ?_ _ _).trans ?_ | simp | split)

@[simp] theorem Chip.authFailed_keeps (c : Chip) (kind tenant what : Nat) (who : List Byte) :
    (c.authFailed kind tenant what who).drawn = c.drawn ∧ (c.authFailed kind tenant what who).drone = c.drone ∧ (c.authFailed kind tenant what who).power = c.power ∧
    (c.authFailed kind tenant what who).pins = c.pins ∧ (c.authFailed kind tenant what who).boot = c.boot ∧ (c.authFailed kind tenant what who).driver = c.driver ∧
    (c.authFailed kind tenant what who).pfn = c.pfn ∧ (c.authFailed kind tenant what who).vfn = c.vfn ∧ (c.authFailed kind tenant what who).tenants = c.tenants ∧
    (c.authFailed kind tenant what who).nparts = c.nparts ∧ (c.authFailed kind tenant what who).parts = c.parts ∧ (c.authFailed kind tenant what who).partPending = c.partPending ∧
    (c.authFailed kind tenant what who).placer = c.placer ∧ (c.authFailed kind tenant what who).scan = c.scan ∧ (c.authFailed kind tenant what who).sp = c.sp ∧
    (c.authFailed kind tenant what who).memObj = c.memObj ∧ (c.authFailed kind tenant what who).calPc = c.calPc ∧ (c.authFailed kind tenant what who).calDqs = c.calDqs ∧
    (c.authFailed kind tenant what who).calZq = c.calZq ∧ (c.authFailed kind tenant what who).calIsl = c.calIsl ∧ (c.authFailed kind tenant what who).limiter = c.limiter ∧
    (c.authFailed kind tenant what who).faults = c.faults ∧ (c.authFailed kind tenant what who).ports = c.ports ∧ (c.authFailed kind tenant what who).groups = c.groups ∧
    (c.authFailed kind tenant what who).bore = c.bore ∧ (c.authFailed kind tenant what who).attests = c.attests ∧ (c.authFailed kind tenant what who).mgmt = c.mgmt ∧
    (c.authFailed kind tenant what who).gate = c.gate ∧ (c.authFailed kind tenant what who).objs = c.objs ∧ (c.authFailed kind tenant what who).readData = c.readData ∧
    (∀ pp : Fin 4, (c.authFailed kind tenant what who).run pp = c.run pp) := by
  unfold Chip.authFailed
  first
    | (simp [Chip.run]; done)
    | ((try dsimp only) <;> (repeat' split) <;> simp [Chip.run])

@[simp] theorem Chip.segment_keeps (c : Chip) (t : Fin 16) (f : Fetch) (x : Segment) (sound : Bool) :
    (c.segment t f x sound).drawn = c.drawn ∧ (c.segment t f x sound).drone = c.drone ∧ (c.segment t f x sound).power = c.power ∧
    (c.segment t f x sound).pins = c.pins ∧ (c.segment t f x sound).driver = c.driver ∧ (c.segment t f x sound).nparts = c.nparts ∧
    (c.segment t f x sound).parts = c.parts ∧ (c.segment t f x sound).partPending = c.partPending ∧ (c.segment t f x sound).placer = c.placer ∧
    (c.segment t f x sound).scan = c.scan ∧ (c.segment t f x sound).sp = c.sp ∧ (c.segment t f x sound).memObj = c.memObj ∧
    (c.segment t f x sound).calPc = c.calPc ∧ (c.segment t f x sound).calDqs = c.calDqs ∧ (c.segment t f x sound).calZq = c.calZq ∧
    (c.segment t f x sound).calIsl = c.calIsl ∧ (c.segment t f x sound).limiter = c.limiter ∧ (c.segment t f x sound).faults = c.faults ∧
    (c.segment t f x sound).ports = c.ports ∧ (c.segment t f x sound).bore = c.bore ∧ (c.segment t f x sound).attests = c.attests ∧
    (c.segment t f x sound).mgmt = c.mgmt ∧ (c.segment t f x sound).gate = c.gate ∧ (c.segment t f x sound).readData = c.readData ∧
    (∀ pp : Fin 4, (c.segment t f x sound).run pp = c.run pp) := by
  unfold Chip.segment
  (try dsimp only [Chip.draw256]); and_intros
  · repeat' (first | (simp [Chip.run, Chip.draw256]; done) | intro _ | with_reducible refine (foldl_drawn ?_ _ _).trans ?_ | simp | split)
  · repeat' (first | (simp [Chip.run, Chip.draw256]; done) | intro _ | with_reducible refine (foldl_drone ?_ _ _).trans ?_ | simp | split)
  · repeat' (first | (simp [Chip.run, Chip.draw256]; done) | intro _ | with_reducible refine (foldl_power ?_ _ _).trans ?_ | simp | split)
  · repeat' (first | (simp [Chip.run, Chip.draw256]; done) | intro _ | with_reducible refine (foldl_pins ?_ _ _).trans ?_ | simp | split)
  · repeat' (first | (simp [Chip.run, Chip.draw256]; done) | intro _ | with_reducible refine (foldl_driver ?_ _ _).trans ?_ | simp | split)
  · repeat' (first | (simp [Chip.run, Chip.draw256]; done) | intro _ | with_reducible refine (foldl_nparts ?_ _ _).trans ?_ | simp | split)
  · repeat' (first | (simp [Chip.run, Chip.draw256]; done) | intro _ | with_reducible refine (foldl_parts ?_ _ _).trans ?_ | simp | split)
  · repeat' (first | (simp [Chip.run, Chip.draw256]; done) | intro _ | with_reducible refine (foldl_partPending ?_ _ _).trans ?_ | simp | split)
  · repeat' (first | (simp [Chip.run, Chip.draw256]; done) | intro _ | with_reducible refine (foldl_placer ?_ _ _).trans ?_ | simp | split)
  · repeat' (first | (simp [Chip.run, Chip.draw256]; done) | intro _ | with_reducible refine (foldl_scan ?_ _ _).trans ?_ | simp | split)
  · repeat' (first | (simp [Chip.run, Chip.draw256]; done) | intro _ | with_reducible refine (foldl_sp ?_ _ _).trans ?_ | simp | split)
  · repeat' (first | (simp [Chip.run, Chip.draw256]; done) | intro _ | with_reducible refine (foldl_memObj ?_ _ _).trans ?_ | simp | split)
  · repeat' (first | (simp [Chip.run, Chip.draw256]; done) | intro _ | with_reducible refine (foldl_calPc ?_ _ _).trans ?_ | simp | split)
  · repeat' (first | (simp [Chip.run, Chip.draw256]; done) | intro _ | with_reducible refine (foldl_calDqs ?_ _ _).trans ?_ | simp | split)
  · repeat' (first | (simp [Chip.run, Chip.draw256]; done) | intro _ | with_reducible refine (foldl_calZq ?_ _ _).trans ?_ | simp | split)
  · repeat' (first | (simp [Chip.run, Chip.draw256]; done) | intro _ | with_reducible refine (foldl_calIsl ?_ _ _).trans ?_ | simp | split)
  · repeat' (first | (simp [Chip.run, Chip.draw256]; done) | intro _ | with_reducible refine (foldl_limiter ?_ _ _).trans ?_ | simp | split)
  · repeat' (first | (simp [Chip.run, Chip.draw256]; done) | intro _ | with_reducible refine (foldl_faults ?_ _ _).trans ?_ | simp | split)
  · repeat' (first | (simp [Chip.run, Chip.draw256]; done) | intro _ | with_reducible refine (foldl_ports ?_ _ _).trans ?_ | simp | split)
  · repeat' (first | (simp [Chip.run, Chip.draw256]; done) | intro _ | with_reducible refine (foldl_bore ?_ _ _).trans ?_ | simp | split)
  · repeat' (first | (simp [Chip.run, Chip.draw256]; done) | intro _ | with_reducible refine (foldl_attests ?_ _ _).trans ?_ | simp | split)
  · repeat' (first | (simp [Chip.run, Chip.draw256]; done) | intro _ | with_reducible refine (foldl_mgmt ?_ _ _).trans ?_ | simp | split)
  · repeat' (first | (simp [Chip.run, Chip.draw256]; done) | intro _ | with_reducible refine (foldl_gate ?_ _ _).trans ?_ | simp | split)
  · repeat' (first | (simp [Chip.run, Chip.draw256]; done) | intro _ | with_reducible refine (foldl_readData ?_ _ _).trans ?_ | simp | split)
  · intro pp; refine congrArg (fun v : Vector Part 4 => v[pp].run) ?_; repeat' (first | (simp [Chip.run, Chip.draw256]; done) | intro _ | with_reducible refine (foldl_parts ?_ _ _).trans ?_ | simp | split)

@[simp] theorem Chip.saveOver_keeps (c : Chip) (t : Fin 16) :
    (c.saveOver t).drawn = c.drawn ∧ (c.saveOver t).drone = c.drone ∧ (c.saveOver t).power = c.power ∧
    (c.saveOver t).pins = c.pins ∧ (c.saveOver t).boot = c.boot ∧ (c.saveOver t).driver = c.driver ∧
    (c.saveOver t).pfn = c.pfn ∧ (c.saveOver t).vfn = c.vfn ∧ (c.saveOver t).tenants = c.tenants ∧
    (c.saveOver t).nparts = c.nparts ∧ (c.saveOver t).partPending = c.partPending ∧ (c.saveOver t).placer = c.placer ∧
    (c.saveOver t).scan = c.scan ∧ (c.saveOver t).sp = c.sp ∧ (c.saveOver t).memObj = c.memObj ∧
    (c.saveOver t).calPc = c.calPc ∧ (c.saveOver t).calDqs = c.calDqs ∧ (c.saveOver t).calZq = c.calZq ∧
    (c.saveOver t).calIsl = c.calIsl ∧ (c.saveOver t).limiter = c.limiter ∧ (c.saveOver t).intc = c.intc ∧
    (c.saveOver t).faults = c.faults ∧ (c.saveOver t).ports = c.ports ∧ (c.saveOver t).groups = c.groups ∧
    (c.saveOver t).bore = c.bore ∧ (c.saveOver t).attests = c.attests ∧ (c.saveOver t).mgmt = c.mgmt ∧
    (c.saveOver t).gate = c.gate ∧ (c.saveOver t).hatband = c.hatband ∧ (c.saveOver t).mram = c.mram ∧
    (c.saveOver t).objs = c.objs ∧ (c.saveOver t).readData = c.readData := by
  unfold Chip.saveOver
  first
    | (simp [Chip.run]; done)
    | ((try dsimp only) <;> (repeat' split) <;> simp [Chip.run])

@[simp] theorem Chip.dropBound_keeps (c : Chip) (p : Plan) :
    (c.dropBound p).drawn = c.drawn ∧ (c.dropBound p).drone = c.drone ∧ (c.dropBound p).power = c.power ∧
    (c.dropBound p).pins = c.pins ∧ (c.dropBound p).boot = c.boot ∧ (c.dropBound p).driver = c.driver ∧
    (c.dropBound p).nparts = c.nparts ∧ (c.dropBound p).parts = c.parts ∧ (c.dropBound p).partPending = c.partPending ∧
    (c.dropBound p).scan = c.scan ∧ (c.dropBound p).sp = c.sp ∧ (c.dropBound p).memObj = c.memObj ∧
    (c.dropBound p).calPc = c.calPc ∧ (c.dropBound p).calDqs = c.calDqs ∧ (c.dropBound p).calZq = c.calZq ∧
    (c.dropBound p).calIsl = c.calIsl ∧ (c.dropBound p).limiter = c.limiter ∧ (c.dropBound p).intc = c.intc ∧
    (c.dropBound p).faults = c.faults ∧ (c.dropBound p).ports = c.ports ∧ (c.dropBound p).groups = c.groups ∧
    (c.dropBound p).bore = c.bore ∧ (c.dropBound p).attests = c.attests ∧ (c.dropBound p).mgmt = c.mgmt ∧
    (c.dropBound p).gate = c.gate ∧ (c.dropBound p).hatband = c.hatband ∧ (c.dropBound p).mram = c.mram ∧
    (c.dropBound p).readData = c.readData ∧ (∀ pp : Fin 4, (c.dropBound p).run pp = c.run pp) := by
  unfold Chip.dropBound
  first
    | (simp [Chip.run]; done)
    | ((try dsimp only) <;> (repeat' split) <;> simp [Chip.run])

@[simp] theorem Chip.dropTurns_keeps (c : Chip) (ids : List W16) :
    (c.dropTurns ids).drawn = c.drawn ∧ (c.dropTurns ids).drone = c.drone ∧ (c.dropTurns ids).power = c.power ∧
    (c.dropTurns ids).pins = c.pins ∧ (c.dropTurns ids).boot = c.boot ∧ (c.dropTurns ids).driver = c.driver ∧
    (c.dropTurns ids).tenants = c.tenants ∧ (c.dropTurns ids).nparts = c.nparts ∧ (c.dropTurns ids).partPending = c.partPending ∧
    (c.dropTurns ids).placer = c.placer ∧ (c.dropTurns ids).scan = c.scan ∧ (c.dropTurns ids).sp = c.sp ∧
    (c.dropTurns ids).memObj = c.memObj ∧ (c.dropTurns ids).calPc = c.calPc ∧ (c.dropTurns ids).calDqs = c.calDqs ∧
    (c.dropTurns ids).calZq = c.calZq ∧ (c.dropTurns ids).calIsl = c.calIsl ∧ (c.dropTurns ids).limiter = c.limiter ∧
    (c.dropTurns ids).intc = c.intc ∧ (c.dropTurns ids).faults = c.faults ∧ (c.dropTurns ids).ports = c.ports ∧
    (c.dropTurns ids).groups = c.groups ∧ (c.dropTurns ids).bore = c.bore ∧ (c.dropTurns ids).attests = c.attests ∧
    (c.dropTurns ids).mgmt = c.mgmt ∧ (c.dropTurns ids).gate = c.gate ∧ (c.dropTurns ids).hatband = c.hatband ∧
    (c.dropTurns ids).mram = c.mram ∧ (c.dropTurns ids).readData = c.readData := by
  unfold Chip.dropTurns
  (try dsimp only [Chip.draw256]); and_intros
  · repeat' (first | (simp [Chip.run, Chip.draw256]; done) | intro _ | with_reducible refine (foldl_drawn ?_ _ _).trans ?_ | simp | split)
  · repeat' (first | (simp [Chip.run, Chip.draw256]; done) | intro _ | with_reducible refine (foldl_drone ?_ _ _).trans ?_ | simp | split)
  · repeat' (first | (simp [Chip.run, Chip.draw256]; done) | intro _ | with_reducible refine (foldl_power ?_ _ _).trans ?_ | simp | split)
  · repeat' (first | (simp [Chip.run, Chip.draw256]; done) | intro _ | with_reducible refine (foldl_pins ?_ _ _).trans ?_ | simp | split)
  · repeat' (first | (simp [Chip.run, Chip.draw256]; done) | intro _ | with_reducible refine (foldl_boot ?_ _ _).trans ?_ | simp | split)
  · repeat' (first | (simp [Chip.run, Chip.draw256]; done) | intro _ | with_reducible refine (foldl_driver ?_ _ _).trans ?_ | simp | split)
  · repeat' (first | (simp [Chip.run, Chip.draw256]; done) | intro _ | with_reducible refine (foldl_tenants ?_ _ _).trans ?_ | simp | split)
  · repeat' (first | (simp [Chip.run, Chip.draw256]; done) | intro _ | with_reducible refine (foldl_nparts ?_ _ _).trans ?_ | simp | split)
  · repeat' (first | (simp [Chip.run, Chip.draw256]; done) | intro _ | with_reducible refine (foldl_partPending ?_ _ _).trans ?_ | simp | split)
  · repeat' (first | (simp [Chip.run, Chip.draw256]; done) | intro _ | with_reducible refine (foldl_placer ?_ _ _).trans ?_ | simp | split)
  · repeat' (first | (simp [Chip.run, Chip.draw256]; done) | intro _ | with_reducible refine (foldl_scan ?_ _ _).trans ?_ | simp | split)
  · repeat' (first | (simp [Chip.run, Chip.draw256]; done) | intro _ | with_reducible refine (foldl_sp ?_ _ _).trans ?_ | simp | split)
  · repeat' (first | (simp [Chip.run, Chip.draw256]; done) | intro _ | with_reducible refine (foldl_memObj ?_ _ _).trans ?_ | simp | split)
  · repeat' (first | (simp [Chip.run, Chip.draw256]; done) | intro _ | with_reducible refine (foldl_calPc ?_ _ _).trans ?_ | simp | split)
  · repeat' (first | (simp [Chip.run, Chip.draw256]; done) | intro _ | with_reducible refine (foldl_calDqs ?_ _ _).trans ?_ | simp | split)
  · repeat' (first | (simp [Chip.run, Chip.draw256]; done) | intro _ | with_reducible refine (foldl_calZq ?_ _ _).trans ?_ | simp | split)
  · repeat' (first | (simp [Chip.run, Chip.draw256]; done) | intro _ | with_reducible refine (foldl_calIsl ?_ _ _).trans ?_ | simp | split)
  · repeat' (first | (simp [Chip.run, Chip.draw256]; done) | intro _ | with_reducible refine (foldl_limiter ?_ _ _).trans ?_ | simp | split)
  · repeat' (first | (simp [Chip.run, Chip.draw256]; done) | intro _ | with_reducible refine (foldl_intc ?_ _ _).trans ?_ | simp | split)
  · repeat' (first | (simp [Chip.run, Chip.draw256]; done) | intro _ | with_reducible refine (foldl_faults ?_ _ _).trans ?_ | simp | split)
  · repeat' (first | (simp [Chip.run, Chip.draw256]; done) | intro _ | with_reducible refine (foldl_ports ?_ _ _).trans ?_ | simp | split)
  · repeat' (first | (simp [Chip.run, Chip.draw256]; done) | intro _ | with_reducible refine (foldl_groups ?_ _ _).trans ?_ | simp | split)
  · repeat' (first | (simp [Chip.run, Chip.draw256]; done) | intro _ | with_reducible refine (foldl_bore ?_ _ _).trans ?_ | simp | split)
  · repeat' (first | (simp [Chip.run, Chip.draw256]; done) | intro _ | with_reducible refine (foldl_attests ?_ _ _).trans ?_ | simp | split)
  · repeat' (first | (simp [Chip.run, Chip.draw256]; done) | intro _ | with_reducible refine (foldl_mgmt ?_ _ _).trans ?_ | simp | split)
  · repeat' (first | (simp [Chip.run, Chip.draw256]; done) | intro _ | with_reducible refine (foldl_gate ?_ _ _).trans ?_ | simp | split)
  · repeat' (first | (simp [Chip.run, Chip.draw256]; done) | intro _ | with_reducible refine (foldl_hatband ?_ _ _).trans ?_ | simp | split)
  · repeat' (first | (simp [Chip.run, Chip.draw256]; done) | intro _ | with_reducible refine (foldl_mram ?_ _ _).trans ?_ | simp | split)
  · repeat' (first | (simp [Chip.run, Chip.draw256]; done) | intro _ | with_reducible refine (foldl_readData ?_ _ _).trans ?_ | simp | split)

@[simp] theorem Chip.dropGroups_keeps (c : Chip) (t : Fin 16) :
    (c.dropGroups t).drawn = c.drawn ∧ (c.dropGroups t).drone = c.drone ∧ (c.dropGroups t).power = c.power ∧
    (c.dropGroups t).pins = c.pins ∧ (c.dropGroups t).boot = c.boot ∧ (c.dropGroups t).driver = c.driver ∧
    (c.dropGroups t).pfn = c.pfn ∧ (c.dropGroups t).vfn = c.vfn ∧ (c.dropGroups t).tenants = c.tenants ∧
    (c.dropGroups t).nparts = c.nparts ∧ (c.dropGroups t).parts = c.parts ∧ (c.dropGroups t).partPending = c.partPending ∧
    (c.dropGroups t).placer = c.placer ∧ (c.dropGroups t).scan = c.scan ∧ (c.dropGroups t).sp = c.sp ∧
    (c.dropGroups t).memObj = c.memObj ∧ (c.dropGroups t).calPc = c.calPc ∧ (c.dropGroups t).calDqs = c.calDqs ∧
    (c.dropGroups t).calZq = c.calZq ∧ (c.dropGroups t).calIsl = c.calIsl ∧ (c.dropGroups t).limiter = c.limiter ∧
    (c.dropGroups t).intc = c.intc ∧ (c.dropGroups t).faults = c.faults ∧ (c.dropGroups t).attests = c.attests ∧
    (c.dropGroups t).mgmt = c.mgmt ∧ (c.dropGroups t).gate = c.gate ∧ (c.dropGroups t).hatband = c.hatband ∧
    (c.dropGroups t).mram = c.mram ∧ (c.dropGroups t).objs = c.objs ∧ (c.dropGroups t).readData = c.readData ∧
    (∀ pp : Fin 4, (c.dropGroups t).run pp = c.run pp) := by
  unfold Chip.dropGroups
  first
    | (simp [Chip.run]; done)
    | ((try dsimp only) <;> (repeat' split) <;> simp [Chip.run])

@[simp] theorem Chip.hbCommit_keeps (c : Chip) :
    (c.hbCommit).drawn = c.drawn ∧ (c.hbCommit).drone = c.drone ∧ (c.hbCommit).power = c.power ∧
    (c.hbCommit).pins = c.pins ∧ (c.hbCommit).boot = c.boot ∧ (c.hbCommit).driver = c.driver ∧
    (c.hbCommit).pfn = c.pfn ∧ (c.hbCommit).vfn = c.vfn ∧ (c.hbCommit).tenants = c.tenants ∧
    (c.hbCommit).nparts = c.nparts ∧ (c.hbCommit).parts = c.parts ∧ (c.hbCommit).partPending = c.partPending ∧
    (c.hbCommit).placer = c.placer ∧ (c.hbCommit).scan = c.scan ∧ (c.hbCommit).sp = c.sp ∧
    (c.hbCommit).memObj = c.memObj ∧ (c.hbCommit).calPc = c.calPc ∧ (c.hbCommit).calDqs = c.calDqs ∧
    (c.hbCommit).calZq = c.calZq ∧ (c.hbCommit).calIsl = c.calIsl ∧ (c.hbCommit).limiter = c.limiter ∧
    (c.hbCommit).intc = c.intc ∧ (c.hbCommit).faults = c.faults ∧ (c.hbCommit).ports = c.ports ∧
    (c.hbCommit).groups = c.groups ∧ (c.hbCommit).bore = c.bore ∧ (c.hbCommit).attests = c.attests ∧
    (c.hbCommit).mgmt = c.mgmt ∧ (c.hbCommit).gate = c.gate ∧ (c.hbCommit).objs = c.objs ∧
    (c.hbCommit).readData = c.readData ∧ (∀ pp : Fin 4, (c.hbCommit).run pp = c.run pp) := by
  unfold Chip.hbCommit
  first
    | (simp [Chip.run]; done)
    | ((try dsimp only) <;> (repeat' split) <;> simp [Chip.run])

@[simp] theorem Chip.hbCommitAll_keeps (c : Chip) :
    (c.hbCommitAll).drawn = c.drawn ∧ (c.hbCommitAll).drone = c.drone ∧ (c.hbCommitAll).power = c.power ∧
    (c.hbCommitAll).pins = c.pins ∧ (c.hbCommitAll).boot = c.boot ∧ (c.hbCommitAll).driver = c.driver ∧
    (c.hbCommitAll).pfn = c.pfn ∧ (c.hbCommitAll).vfn = c.vfn ∧ (c.hbCommitAll).tenants = c.tenants ∧
    (c.hbCommitAll).nparts = c.nparts ∧ (c.hbCommitAll).parts = c.parts ∧ (c.hbCommitAll).partPending = c.partPending ∧
    (c.hbCommitAll).placer = c.placer ∧ (c.hbCommitAll).scan = c.scan ∧ (c.hbCommitAll).sp = c.sp ∧
    (c.hbCommitAll).memObj = c.memObj ∧ (c.hbCommitAll).calPc = c.calPc ∧ (c.hbCommitAll).calDqs = c.calDqs ∧
    (c.hbCommitAll).calZq = c.calZq ∧ (c.hbCommitAll).calIsl = c.calIsl ∧ (c.hbCommitAll).limiter = c.limiter ∧
    (c.hbCommitAll).intc = c.intc ∧ (c.hbCommitAll).faults = c.faults ∧ (c.hbCommitAll).ports = c.ports ∧
    (c.hbCommitAll).groups = c.groups ∧ (c.hbCommitAll).bore = c.bore ∧ (c.hbCommitAll).attests = c.attests ∧
    (c.hbCommitAll).mgmt = c.mgmt ∧ (c.hbCommitAll).gate = c.gate ∧ (c.hbCommitAll).objs = c.objs ∧
    (c.hbCommitAll).readData = c.readData ∧ (∀ pp : Fin 4, (c.hbCommitAll).run pp = c.run pp) := by
  unfold Chip.hbCommitAll
  first
    | (simp [Chip.run]; done)
    | ((try dsimp only) <;> (repeat' split) <;> simp [Chip.run])

@[simp] theorem Chip.hbLose_keeps (c : Chip) :
    (c.hbLose).drone = c.drone ∧ (c.hbLose).power = c.power ∧ (c.hbLose).pins = c.pins ∧
    (c.hbLose).boot = c.boot ∧ (c.hbLose).driver = c.driver ∧ (c.hbLose).pfn = c.pfn ∧
    (c.hbLose).vfn = c.vfn ∧ (c.hbLose).tenants = c.tenants ∧ (c.hbLose).nparts = c.nparts ∧
    (c.hbLose).parts = c.parts ∧ (c.hbLose).partPending = c.partPending ∧ (c.hbLose).placer = c.placer ∧
    (c.hbLose).scan = c.scan ∧ (c.hbLose).sp = c.sp ∧ (c.hbLose).memObj = c.memObj ∧
    (c.hbLose).calPc = c.calPc ∧ (c.hbLose).calDqs = c.calDqs ∧ (c.hbLose).calZq = c.calZq ∧
    (c.hbLose).calIsl = c.calIsl ∧ (c.hbLose).limiter = c.limiter ∧ (c.hbLose).intc = c.intc ∧
    (c.hbLose).faults = c.faults ∧ (c.hbLose).ports = c.ports ∧ (c.hbLose).groups = c.groups ∧
    (c.hbLose).bore = c.bore ∧ (c.hbLose).attests = c.attests ∧ (c.hbLose).mgmt = c.mgmt ∧
    (c.hbLose).gate = c.gate ∧ (c.hbLose).mram = c.mram ∧ (c.hbLose).objs = c.objs ∧
    (c.hbLose).readData = c.readData ∧ (∀ pp : Fin 4, (c.hbLose).run pp = c.run pp) := by
  unfold Chip.hbLose
  first
    | (simp [Chip.run]; done)
    | ((try dsimp only) <;> (repeat' split) <;> simp [Chip.run])

@[simp] theorem Chip.heartbeat_keeps (c : Chip) (down : Bool) :
    (c.heartbeat down).drawn = c.drawn ∧ (c.heartbeat down).drone = c.drone ∧ (c.heartbeat down).power = c.power ∧
    (c.heartbeat down).pins = c.pins ∧ (c.heartbeat down).boot = c.boot ∧ (c.heartbeat down).driver = c.driver ∧
    (c.heartbeat down).pfn = c.pfn ∧ (c.heartbeat down).vfn = c.vfn ∧ (c.heartbeat down).tenants = c.tenants ∧
    (c.heartbeat down).nparts = c.nparts ∧ (c.heartbeat down).parts = c.parts ∧ (c.heartbeat down).partPending = c.partPending ∧
    (c.heartbeat down).placer = c.placer ∧ (c.heartbeat down).scan = c.scan ∧ (c.heartbeat down).sp = c.sp ∧
    (c.heartbeat down).memObj = c.memObj ∧ (c.heartbeat down).calPc = c.calPc ∧ (c.heartbeat down).calDqs = c.calDqs ∧
    (c.heartbeat down).calZq = c.calZq ∧ (c.heartbeat down).calIsl = c.calIsl ∧ (c.heartbeat down).limiter = c.limiter ∧
    (c.heartbeat down).intc = c.intc ∧ (c.heartbeat down).faults = c.faults ∧ (c.heartbeat down).ports = c.ports ∧
    (c.heartbeat down).groups = c.groups ∧ (c.heartbeat down).bore = c.bore ∧ (c.heartbeat down).attests = c.attests ∧
    (c.heartbeat down).gate = c.gate ∧ (c.heartbeat down).hatband = c.hatband ∧ (c.heartbeat down).mram = c.mram ∧
    (c.heartbeat down).objs = c.objs ∧ (c.heartbeat down).readData = c.readData ∧ (∀ pp : Fin 4, (c.heartbeat down).run pp = c.run pp) := by
  unfold Chip.heartbeat
  first
    | (simp [Chip.run]; done)
    | ((try dsimp only) <;> (repeat' split) <;> simp [Chip.run])

@[simp] theorem Chip.goDown_keeps (c : Chip) :
    (c.goDown).drawn = c.drawn ∧ (c.goDown).drone = c.drone ∧ (c.goDown).power = c.power ∧
    (c.goDown).boot = c.boot ∧ (c.goDown).driver = c.driver ∧ (c.goDown).pfn = c.pfn ∧
    (c.goDown).vfn = c.vfn ∧ (c.goDown).tenants = c.tenants ∧ (c.goDown).nparts = c.nparts ∧
    (c.goDown).parts = c.parts ∧ (c.goDown).partPending = c.partPending ∧ (c.goDown).placer = c.placer ∧
    (c.goDown).scan = c.scan ∧ (c.goDown).sp = c.sp ∧ (c.goDown).memObj = c.memObj ∧
    (c.goDown).calPc = c.calPc ∧ (c.goDown).calDqs = c.calDqs ∧ (c.goDown).calZq = c.calZq ∧
    (c.goDown).calIsl = c.calIsl ∧ (c.goDown).limiter = c.limiter ∧ (c.goDown).intc = c.intc ∧
    (c.goDown).faults = c.faults ∧ (c.goDown).groups = c.groups ∧ (c.goDown).bore = c.bore ∧
    (c.goDown).attests = c.attests ∧ (c.goDown).mgmt = c.mgmt ∧ (c.goDown).gate = c.gate ∧
    (c.goDown).hatband = c.hatband ∧ (c.goDown).mram = c.mram ∧ (c.goDown).objs = c.objs ∧
    (c.goDown).readData = c.readData ∧ (∀ pp : Fin 4, (c.goDown).run pp = c.run pp) := by
  unfold Chip.goDown
  first
    | (simp [Chip.run]; done)
    | ((try dsimp only) <;> (repeat' split) <;> simp [Chip.run])

@[simp] theorem Chip.keyrot_keeps (c : Chip) :
    (c.keyrot).drawn = c.drawn ∧ (c.keyrot).drone = c.drone ∧ (c.keyrot).power = c.power ∧
    (c.keyrot).pins = c.pins ∧ (c.keyrot).boot = c.boot ∧ (c.keyrot).driver = c.driver ∧
    (c.keyrot).pfn = c.pfn ∧ (c.keyrot).vfn = c.vfn ∧ (c.keyrot).tenants = c.tenants ∧
    (c.keyrot).nparts = c.nparts ∧ (c.keyrot).parts = c.parts ∧ (c.keyrot).partPending = c.partPending ∧
    (c.keyrot).placer = c.placer ∧ (c.keyrot).scan = c.scan ∧ (c.keyrot).sp = c.sp ∧
    (c.keyrot).memObj = c.memObj ∧ (c.keyrot).calPc = c.calPc ∧ (c.keyrot).calDqs = c.calDqs ∧
    (c.keyrot).calZq = c.calZq ∧ (c.keyrot).calIsl = c.calIsl ∧ (c.keyrot).limiter = c.limiter ∧
    (c.keyrot).intc = c.intc ∧ (c.keyrot).faults = c.faults ∧ (c.keyrot).ports = c.ports ∧
    (c.keyrot).groups = c.groups ∧ (c.keyrot).bore = c.bore ∧ (c.keyrot).attests = c.attests ∧
    (c.keyrot).mgmt = c.mgmt ∧ (c.keyrot).gate = c.gate ∧ (c.keyrot).objs = c.objs ∧
    (c.keyrot).readData = c.readData ∧ (∀ pp : Fin 4, (c.keyrot).run pp = c.run pp) := by
  unfold Chip.keyrot
  first
    | (simp [Chip.run]; done)
    | ((try dsimp only) <;> (repeat' split) <;> simp [Chip.run])

@[simp] theorem Chip.lockRec_keeps (c : Chip) (before : W16) :
    (c.lockRec before).drawn = c.drawn ∧ (c.lockRec before).drone = c.drone ∧ (c.lockRec before).power = c.power ∧
    (c.lockRec before).pins = c.pins ∧ (c.lockRec before).boot = c.boot ∧ (c.lockRec before).driver = c.driver ∧
    (c.lockRec before).pfn = c.pfn ∧ (c.lockRec before).vfn = c.vfn ∧ (c.lockRec before).tenants = c.tenants ∧
    (c.lockRec before).nparts = c.nparts ∧ (c.lockRec before).parts = c.parts ∧ (c.lockRec before).partPending = c.partPending ∧
    (c.lockRec before).placer = c.placer ∧ (c.lockRec before).scan = c.scan ∧ (c.lockRec before).sp = c.sp ∧
    (c.lockRec before).memObj = c.memObj ∧ (c.lockRec before).calPc = c.calPc ∧ (c.lockRec before).calDqs = c.calDqs ∧
    (c.lockRec before).calZq = c.calZq ∧ (c.lockRec before).calIsl = c.calIsl ∧ (c.lockRec before).limiter = c.limiter ∧
    (c.lockRec before).intc = c.intc ∧ (c.lockRec before).faults = c.faults ∧ (c.lockRec before).ports = c.ports ∧
    (c.lockRec before).groups = c.groups ∧ (c.lockRec before).bore = c.bore ∧ (c.lockRec before).attests = c.attests ∧
    (c.lockRec before).mgmt = c.mgmt ∧ (c.lockRec before).gate = c.gate ∧ (c.lockRec before).objs = c.objs ∧
    (c.lockRec before).readData = c.readData ∧ (∀ pp : Fin 4, (c.lockRec before).run pp = c.run pp) := by
  unfold Chip.lockRec
  first
    | (simp [Chip.run]; done)
    | ((try dsimp only) <;> (repeat' split) <;> simp [Chip.run])

@[simp] theorem Chip.gateChange_keeps (c : Chip) (f : Gate → Gate) :
    (c.gateChange f).drawn = c.drawn ∧ (c.gateChange f).drone = c.drone ∧ (c.gateChange f).power = c.power ∧
    (c.gateChange f).pins = c.pins ∧ (c.gateChange f).boot = c.boot ∧ (c.gateChange f).driver = c.driver ∧
    (c.gateChange f).pfn = c.pfn ∧ (c.gateChange f).vfn = c.vfn ∧ (c.gateChange f).tenants = c.tenants ∧
    (c.gateChange f).nparts = c.nparts ∧ (c.gateChange f).parts = c.parts ∧ (c.gateChange f).partPending = c.partPending ∧
    (c.gateChange f).placer = c.placer ∧ (c.gateChange f).scan = c.scan ∧ (c.gateChange f).sp = c.sp ∧
    (c.gateChange f).memObj = c.memObj ∧ (c.gateChange f).calPc = c.calPc ∧ (c.gateChange f).calDqs = c.calDqs ∧
    (c.gateChange f).calZq = c.calZq ∧ (c.gateChange f).calIsl = c.calIsl ∧ (c.gateChange f).limiter = c.limiter ∧
    (c.gateChange f).faults = c.faults ∧ (c.gateChange f).ports = c.ports ∧ (c.gateChange f).groups = c.groups ∧
    (c.gateChange f).bore = c.bore ∧ (c.gateChange f).attests = c.attests ∧ (c.gateChange f).mgmt = c.mgmt ∧
    (c.gateChange f).objs = c.objs ∧ (c.gateChange f).readData = c.readData ∧ (∀ pp : Fin 4, (c.gateChange f).run pp = c.run pp) := by
  unfold Chip.gateChange
  first
    | (simp [Chip.run]; done)
    | ((try dsimp only) <;> (repeat' split) <;> simp [Chip.run])

@[simp] theorem Chip.closeGate_keeps (c : Chip) :
    (c.closeGate).drawn = c.drawn ∧ (c.closeGate).drone = c.drone ∧ (c.closeGate).power = c.power ∧
    (c.closeGate).pins = c.pins ∧ (c.closeGate).driver = c.driver ∧ (c.closeGate).pfn = c.pfn ∧
    (c.closeGate).vfn = c.vfn ∧ (c.closeGate).tenants = c.tenants ∧ (c.closeGate).nparts = c.nparts ∧
    (c.closeGate).parts = c.parts ∧ (c.closeGate).partPending = c.partPending ∧ (c.closeGate).placer = c.placer ∧
    (c.closeGate).scan = c.scan ∧ (c.closeGate).sp = c.sp ∧ (c.closeGate).memObj = c.memObj ∧
    (c.closeGate).calPc = c.calPc ∧ (c.closeGate).calDqs = c.calDqs ∧ (c.closeGate).calZq = c.calZq ∧
    (c.closeGate).calIsl = c.calIsl ∧ (c.closeGate).limiter = c.limiter ∧ (c.closeGate).faults = c.faults ∧
    (c.closeGate).ports = c.ports ∧ (c.closeGate).groups = c.groups ∧ (c.closeGate).bore = c.bore ∧
    (c.closeGate).attests = c.attests ∧ (c.closeGate).mgmt = c.mgmt ∧ (c.closeGate).objs = c.objs ∧
    (c.closeGate).readData = c.readData ∧ (∀ pp : Fin 4, (c.closeGate).run pp = c.run pp) := by
  unfold Chip.closeGate
  first
    | (simp [Chip.run]; done)
    | ((try dsimp only) <;> (repeat' split) <;> simp [Chip.run])

@[simp] theorem Chip.announce_keeps (c : Chip) (cause : Nat) :
    (c.announce cause).drawn = c.drawn ∧ (c.announce cause).drone = c.drone ∧ (c.announce cause).power = c.power ∧
    (c.announce cause).driver = c.driver ∧ (c.announce cause).pfn = c.pfn ∧ (c.announce cause).vfn = c.vfn ∧
    (c.announce cause).tenants = c.tenants ∧ (c.announce cause).nparts = c.nparts ∧ (c.announce cause).parts = c.parts ∧
    (c.announce cause).partPending = c.partPending ∧ (c.announce cause).placer = c.placer ∧ (c.announce cause).scan = c.scan ∧
    (c.announce cause).sp = c.sp ∧ (c.announce cause).memObj = c.memObj ∧ (c.announce cause).calPc = c.calPc ∧
    (c.announce cause).calDqs = c.calDqs ∧ (c.announce cause).calZq = c.calZq ∧ (c.announce cause).calIsl = c.calIsl ∧
    (c.announce cause).limiter = c.limiter ∧ (c.announce cause).faults = c.faults ∧ (c.announce cause).groups = c.groups ∧
    (c.announce cause).bore = c.bore ∧ (c.announce cause).attests = c.attests ∧ (c.announce cause).objs = c.objs ∧
    (c.announce cause).readData = c.readData ∧ (∀ pp : Fin 4, (c.announce cause).run pp = c.run pp) := by
  unfold Chip.announce
  first
    | (simp [Chip.run]; done)
    | ((try dsimp only) <;> (repeat' split) <;> simp [Chip.run])

@[simp] theorem Chip.setBoot_keeps (c : Chip) (st : BootState) (status : W16) :
    (c.setBoot st status).drawn = c.drawn ∧ (c.setBoot st status).drone = c.drone ∧ (c.setBoot st status).power = c.power ∧
    (c.setBoot st status).pins = c.pins ∧ (c.setBoot st status).driver = c.driver ∧ (c.setBoot st status).tenants = c.tenants ∧
    (c.setBoot st status).nparts = c.nparts ∧ (c.setBoot st status).parts = c.parts ∧ (c.setBoot st status).partPending = c.partPending ∧
    (c.setBoot st status).placer = c.placer ∧ (c.setBoot st status).scan = c.scan ∧ (c.setBoot st status).sp = c.sp ∧
    (c.setBoot st status).memObj = c.memObj ∧ (c.setBoot st status).calPc = c.calPc ∧ (c.setBoot st status).calDqs = c.calDqs ∧
    (c.setBoot st status).calZq = c.calZq ∧ (c.setBoot st status).calIsl = c.calIsl ∧ (c.setBoot st status).limiter = c.limiter ∧
    (c.setBoot st status).intc = c.intc ∧ (c.setBoot st status).faults = c.faults ∧ (c.setBoot st status).ports = c.ports ∧
    (c.setBoot st status).groups = c.groups ∧ (c.setBoot st status).bore = c.bore ∧ (c.setBoot st status).attests = c.attests ∧
    (c.setBoot st status).mgmt = c.mgmt ∧ (c.setBoot st status).gate = c.gate ∧ (c.setBoot st status).hatband = c.hatband ∧
    (c.setBoot st status).mram = c.mram ∧ (c.setBoot st status).readData = c.readData ∧ (∀ pp : Fin 4, (c.setBoot st status).run pp = c.run pp) := by
  unfold Chip.setBoot
  first
    | (simp [Chip.run]; done)
    | ((try dsimp only) <;> (repeat' split) <;> simp [Chip.run])

@[simp] theorem Chip.bootRec_keeps (c : Chip) :
    (c.bootRec).drawn = c.drawn ∧ (c.bootRec).drone = c.drone ∧ (c.bootRec).power = c.power ∧
    (c.bootRec).pins = c.pins ∧ (c.bootRec).boot = c.boot ∧ (c.bootRec).driver = c.driver ∧
    (c.bootRec).pfn = c.pfn ∧ (c.bootRec).vfn = c.vfn ∧ (c.bootRec).tenants = c.tenants ∧
    (c.bootRec).nparts = c.nparts ∧ (c.bootRec).parts = c.parts ∧ (c.bootRec).partPending = c.partPending ∧
    (c.bootRec).placer = c.placer ∧ (c.bootRec).scan = c.scan ∧ (c.bootRec).sp = c.sp ∧
    (c.bootRec).memObj = c.memObj ∧ (c.bootRec).calPc = c.calPc ∧ (c.bootRec).calDqs = c.calDqs ∧
    (c.bootRec).calZq = c.calZq ∧ (c.bootRec).calIsl = c.calIsl ∧ (c.bootRec).limiter = c.limiter ∧
    (c.bootRec).intc = c.intc ∧ (c.bootRec).faults = c.faults ∧ (c.bootRec).ports = c.ports ∧
    (c.bootRec).groups = c.groups ∧ (c.bootRec).bore = c.bore ∧ (c.bootRec).attests = c.attests ∧
    (c.bootRec).mgmt = c.mgmt ∧ (c.bootRec).gate = c.gate ∧ (c.bootRec).objs = c.objs ∧
    (c.bootRec).readData = c.readData ∧ (∀ pp : Fin 4, (c.bootRec).run pp = c.run pp) := by
  unfold Chip.bootRec
  first
    | (simp [Chip.run]; done)
    | ((try dsimp only) <;> (repeat' split) <;> simp [Chip.run])

@[simp] theorem Chip.bootFail_keeps (c : Chip) (status : W16) :
    (c.bootFail status).drawn = c.drawn ∧ (c.bootFail status).drone = c.drone ∧ (c.bootFail status).power = c.power ∧
    (c.bootFail status).pins = c.pins ∧ (c.bootFail status).driver = c.driver ∧ (c.bootFail status).tenants = c.tenants ∧
    (c.bootFail status).nparts = c.nparts ∧ (c.bootFail status).parts = c.parts ∧ (c.bootFail status).partPending = c.partPending ∧
    (c.bootFail status).placer = c.placer ∧ (c.bootFail status).scan = c.scan ∧ (c.bootFail status).sp = c.sp ∧
    (c.bootFail status).memObj = c.memObj ∧ (c.bootFail status).calPc = c.calPc ∧ (c.bootFail status).calDqs = c.calDqs ∧
    (c.bootFail status).calZq = c.calZq ∧ (c.bootFail status).calIsl = c.calIsl ∧ (c.bootFail status).limiter = c.limiter ∧
    (c.bootFail status).intc = c.intc ∧ (c.bootFail status).faults = c.faults ∧ (c.bootFail status).ports = c.ports ∧
    (c.bootFail status).groups = c.groups ∧ (c.bootFail status).bore = c.bore ∧ (c.bootFail status).attests = c.attests ∧
    (c.bootFail status).mgmt = c.mgmt ∧ (c.bootFail status).gate = c.gate ∧ (c.bootFail status).readData = c.readData ∧
    (∀ pp : Fin 4, (c.bootFail status).run pp = c.run pp) := by
  unfold Chip.bootFail
  first
    | (simp [Chip.run]; done)
    | ((try dsimp only) <;> (repeat' split) <;> simp [Chip.run])

@[simp] theorem Chip.outOfReset_keeps (c : Chip) (holdupMj : W32) :
    (c.outOfReset holdupMj).drawn = c.drawn ∧ (c.outOfReset holdupMj).drone = c.drone ∧ (c.outOfReset holdupMj).driver = c.driver ∧
    (c.outOfReset holdupMj).tenants = c.tenants ∧ (c.outOfReset holdupMj).nparts = c.nparts ∧ (c.outOfReset holdupMj).parts = c.parts ∧
    (c.outOfReset holdupMj).partPending = c.partPending ∧ (c.outOfReset holdupMj).placer = c.placer ∧ (c.outOfReset holdupMj).scan = c.scan ∧
    (c.outOfReset holdupMj).sp = c.sp ∧ (c.outOfReset holdupMj).memObj = c.memObj ∧ (c.outOfReset holdupMj).calPc = c.calPc ∧
    (c.outOfReset holdupMj).calDqs = c.calDqs ∧ (c.outOfReset holdupMj).calZq = c.calZq ∧ (c.outOfReset holdupMj).calIsl = c.calIsl ∧
    (c.outOfReset holdupMj).intc = c.intc ∧ (c.outOfReset holdupMj).faults = c.faults ∧ (c.outOfReset holdupMj).ports = c.ports ∧
    (c.outOfReset holdupMj).groups = c.groups ∧ (c.outOfReset holdupMj).bore = c.bore ∧ (c.outOfReset holdupMj).attests = c.attests ∧
    (c.outOfReset holdupMj).mgmt = c.mgmt ∧ (c.outOfReset holdupMj).gate = c.gate ∧ (c.outOfReset holdupMj).readData = c.readData ∧
    (∀ pp : Fin 4, (c.outOfReset holdupMj).run pp = c.run pp) := by
  unfold Chip.outOfReset
  first
    | (simp [Chip.run]; done)
    | ((try dsimp only) <;> (repeat' split) <;> simp [Chip.run])

@[simp] theorem Chip.startBlock_keeps (c : Chip) (b : StartBlock) :
    (c.startBlock b).drawn = c.drawn ∧ (c.startBlock b).power = c.power ∧ (c.startBlock b).pins = c.pins ∧
    (c.startBlock b).driver = c.driver ∧ (c.startBlock b).tenants = c.tenants ∧ (c.startBlock b).nparts = c.nparts ∧
    (c.startBlock b).parts = c.parts ∧ (c.startBlock b).partPending = c.partPending ∧ (c.startBlock b).placer = c.placer ∧
    (c.startBlock b).scan = c.scan ∧ (c.startBlock b).sp = c.sp ∧ (c.startBlock b).memObj = c.memObj ∧
    (c.startBlock b).calPc = c.calPc ∧ (c.startBlock b).calDqs = c.calDqs ∧ (c.startBlock b).calZq = c.calZq ∧
    (c.startBlock b).calIsl = c.calIsl ∧ (c.startBlock b).limiter = c.limiter ∧ (c.startBlock b).intc = c.intc ∧
    (c.startBlock b).faults = c.faults ∧ (c.startBlock b).ports = c.ports ∧ (c.startBlock b).groups = c.groups ∧
    (c.startBlock b).bore = c.bore ∧ (c.startBlock b).attests = c.attests ∧ (c.startBlock b).mgmt = c.mgmt ∧
    (c.startBlock b).gate = c.gate ∧ (c.startBlock b).hatband = c.hatband ∧ (c.startBlock b).readData = c.readData ∧
    (∀ pp : Fin 4, (c.startBlock b).run pp = c.run pp) := by
  unfold Chip.startBlock
  first
    | (simp [Chip.run]; done)
    | ((try dsimp only) <;> (repeat' split) <;> simp [Chip.run])

@[simp] theorem Chip.startRec_keeps (c : Chip) :
    (c.startRec).drawn = c.drawn ∧ (c.startRec).drone = c.drone ∧ (c.startRec).power = c.power ∧
    (c.startRec).pins = c.pins ∧ (c.startRec).boot = c.boot ∧ (c.startRec).driver = c.driver ∧
    (c.startRec).pfn = c.pfn ∧ (c.startRec).vfn = c.vfn ∧ (c.startRec).tenants = c.tenants ∧
    (c.startRec).nparts = c.nparts ∧ (c.startRec).parts = c.parts ∧ (c.startRec).partPending = c.partPending ∧
    (c.startRec).placer = c.placer ∧ (c.startRec).scan = c.scan ∧ (c.startRec).sp = c.sp ∧
    (c.startRec).memObj = c.memObj ∧ (c.startRec).calPc = c.calPc ∧ (c.startRec).calDqs = c.calDqs ∧
    (c.startRec).calZq = c.calZq ∧ (c.startRec).calIsl = c.calIsl ∧ (c.startRec).limiter = c.limiter ∧
    (c.startRec).intc = c.intc ∧ (c.startRec).faults = c.faults ∧ (c.startRec).ports = c.ports ∧
    (c.startRec).groups = c.groups ∧ (c.startRec).bore = c.bore ∧ (c.startRec).attests = c.attests ∧
    (c.startRec).mgmt = c.mgmt ∧ (c.startRec).gate = c.gate ∧ (c.startRec).objs = c.objs ∧
    (c.startRec).readData = c.readData ∧ (∀ pp : Fin 4, (c.startRec).run pp = c.run pp) := by
  unfold Chip.startRec
  first
    | (simp [Chip.run]; done)
    | ((try dsimp only) <;> (repeat' split) <;> simp [Chip.run])

@[simp] theorem Chip.recheckRing_keeps (c : Chip) (t : Fin 16) :
    (c.recheckRing t).drawn = c.drawn ∧ (c.recheckRing t).drone = c.drone ∧ (c.recheckRing t).power = c.power ∧
    (c.recheckRing t).pins = c.pins ∧ (c.recheckRing t).boot = c.boot ∧ (c.recheckRing t).driver = c.driver ∧
    (c.recheckRing t).pfn = c.pfn ∧ (c.recheckRing t).vfn = c.vfn ∧ (c.recheckRing t).tenants = c.tenants ∧
    (c.recheckRing t).nparts = c.nparts ∧ (c.recheckRing t).partPending = c.partPending ∧ (c.recheckRing t).placer = c.placer ∧
    (c.recheckRing t).scan = c.scan ∧ (c.recheckRing t).sp = c.sp ∧ (c.recheckRing t).memObj = c.memObj ∧
    (c.recheckRing t).calPc = c.calPc ∧ (c.recheckRing t).calDqs = c.calDqs ∧ (c.recheckRing t).calZq = c.calZq ∧
    (c.recheckRing t).calIsl = c.calIsl ∧ (c.recheckRing t).limiter = c.limiter ∧ (c.recheckRing t).intc = c.intc ∧
    (c.recheckRing t).faults = c.faults ∧ (c.recheckRing t).ports = c.ports ∧ (c.recheckRing t).groups = c.groups ∧
    (c.recheckRing t).bore = c.bore ∧ (c.recheckRing t).attests = c.attests ∧ (c.recheckRing t).mgmt = c.mgmt ∧
    (c.recheckRing t).gate = c.gate ∧ (c.recheckRing t).hatband = c.hatband ∧ (c.recheckRing t).mram = c.mram ∧
    (c.recheckRing t).objs = c.objs ∧ (c.recheckRing t).readData = c.readData := by
  unfold Chip.recheckRing
  (try dsimp only [Chip.draw256]); and_intros
  · repeat' (first | (simp [Chip.run, Chip.draw256]; done) | intro _ | with_reducible refine (foldl_drawn ?_ _ _).trans ?_ | simp | split)
  · repeat' (first | (simp [Chip.run, Chip.draw256]; done) | intro _ | with_reducible refine (foldl_drone ?_ _ _).trans ?_ | simp | split)
  · repeat' (first | (simp [Chip.run, Chip.draw256]; done) | intro _ | with_reducible refine (foldl_power ?_ _ _).trans ?_ | simp | split)
  · repeat' (first | (simp [Chip.run, Chip.draw256]; done) | intro _ | with_reducible refine (foldl_pins ?_ _ _).trans ?_ | simp | split)
  · repeat' (first | (simp [Chip.run, Chip.draw256]; done) | intro _ | with_reducible refine (foldl_boot ?_ _ _).trans ?_ | simp | split)
  · repeat' (first | (simp [Chip.run, Chip.draw256]; done) | intro _ | with_reducible refine (foldl_driver ?_ _ _).trans ?_ | simp | split)
  · repeat' (first | (simp [Chip.run, Chip.draw256]; done) | intro _ | with_reducible refine (foldl_pfn ?_ _ _).trans ?_ | simp | split)
  · repeat' (first | (simp [Chip.run, Chip.draw256]; done) | intro _ | with_reducible refine (foldl_vfn ?_ _ _).trans ?_ | simp | split)
  · repeat' (first | (simp [Chip.run, Chip.draw256]; done) | intro _ | with_reducible refine (foldl_tenants ?_ _ _).trans ?_ | simp | split)
  · repeat' (first | (simp [Chip.run, Chip.draw256]; done) | intro _ | with_reducible refine (foldl_nparts ?_ _ _).trans ?_ | simp | split)
  · repeat' (first | (simp [Chip.run, Chip.draw256]; done) | intro _ | with_reducible refine (foldl_partPending ?_ _ _).trans ?_ | simp | split)
  · repeat' (first | (simp [Chip.run, Chip.draw256]; done) | intro _ | with_reducible refine (foldl_placer ?_ _ _).trans ?_ | simp | split)
  · repeat' (first | (simp [Chip.run, Chip.draw256]; done) | intro _ | with_reducible refine (foldl_scan ?_ _ _).trans ?_ | simp | split)
  · repeat' (first | (simp [Chip.run, Chip.draw256]; done) | intro _ | with_reducible refine (foldl_sp ?_ _ _).trans ?_ | simp | split)
  · repeat' (first | (simp [Chip.run, Chip.draw256]; done) | intro _ | with_reducible refine (foldl_memObj ?_ _ _).trans ?_ | simp | split)
  · repeat' (first | (simp [Chip.run, Chip.draw256]; done) | intro _ | with_reducible refine (foldl_calPc ?_ _ _).trans ?_ | simp | split)
  · repeat' (first | (simp [Chip.run, Chip.draw256]; done) | intro _ | with_reducible refine (foldl_calDqs ?_ _ _).trans ?_ | simp | split)
  · repeat' (first | (simp [Chip.run, Chip.draw256]; done) | intro _ | with_reducible refine (foldl_calZq ?_ _ _).trans ?_ | simp | split)
  · repeat' (first | (simp [Chip.run, Chip.draw256]; done) | intro _ | with_reducible refine (foldl_calIsl ?_ _ _).trans ?_ | simp | split)
  · repeat' (first | (simp [Chip.run, Chip.draw256]; done) | intro _ | with_reducible refine (foldl_limiter ?_ _ _).trans ?_ | simp | split)
  · repeat' (first | (simp [Chip.run, Chip.draw256]; done) | intro _ | with_reducible refine (foldl_intc ?_ _ _).trans ?_ | simp | split)
  · repeat' (first | (simp [Chip.run, Chip.draw256]; done) | intro _ | with_reducible refine (foldl_faults ?_ _ _).trans ?_ | simp | split)
  · repeat' (first | (simp [Chip.run, Chip.draw256]; done) | intro _ | with_reducible refine (foldl_ports ?_ _ _).trans ?_ | simp | split)
  · repeat' (first | (simp [Chip.run, Chip.draw256]; done) | intro _ | with_reducible refine (foldl_groups ?_ _ _).trans ?_ | simp | split)
  · repeat' (first | (simp [Chip.run, Chip.draw256]; done) | intro _ | with_reducible refine (foldl_bore ?_ _ _).trans ?_ | simp | split)
  · repeat' (first | (simp [Chip.run, Chip.draw256]; done) | intro _ | with_reducible refine (foldl_attests ?_ _ _).trans ?_ | simp | split)
  · repeat' (first | (simp [Chip.run, Chip.draw256]; done) | intro _ | with_reducible refine (foldl_mgmt ?_ _ _).trans ?_ | simp | split)
  · repeat' (first | (simp [Chip.run, Chip.draw256]; done) | intro _ | with_reducible refine (foldl_gate ?_ _ _).trans ?_ | simp | split)
  · repeat' (first | (simp [Chip.run, Chip.draw256]; done) | intro _ | with_reducible refine (foldl_hatband ?_ _ _).trans ?_ | simp | split)
  · repeat' (first | (simp [Chip.run, Chip.draw256]; done) | intro _ | with_reducible refine (foldl_mram ?_ _ _).trans ?_ | simp | split)
  · repeat' (first | (simp [Chip.run, Chip.draw256]; done) | intro _ | with_reducible refine (foldl_objs ?_ _ _).trans ?_ | simp | split)
  · repeat' (first | (simp [Chip.run, Chip.draw256]; done) | intro _ | with_reducible refine (foldl_readData ?_ _ _).trans ?_ | simp | split)

@[simp] theorem Chip.recheck_keeps (c : Chip) (f : Fn) :
    (c.recheck f).drawn = c.drawn ∧ (c.recheck f).drone = c.drone ∧ (c.recheck f).power = c.power ∧
    (c.recheck f).pins = c.pins ∧ (c.recheck f).boot = c.boot ∧ (c.recheck f).driver = c.driver ∧
    (c.recheck f).pfn = c.pfn ∧ (c.recheck f).vfn = c.vfn ∧ (c.recheck f).tenants = c.tenants ∧
    (c.recheck f).nparts = c.nparts ∧ (c.recheck f).partPending = c.partPending ∧ (c.recheck f).placer = c.placer ∧
    (c.recheck f).scan = c.scan ∧ (c.recheck f).sp = c.sp ∧ (c.recheck f).memObj = c.memObj ∧
    (c.recheck f).calPc = c.calPc ∧ (c.recheck f).calDqs = c.calDqs ∧ (c.recheck f).calZq = c.calZq ∧
    (c.recheck f).calIsl = c.calIsl ∧ (c.recheck f).limiter = c.limiter ∧ (c.recheck f).intc = c.intc ∧
    (c.recheck f).faults = c.faults ∧ (c.recheck f).ports = c.ports ∧ (c.recheck f).groups = c.groups ∧
    (c.recheck f).bore = c.bore ∧ (c.recheck f).attests = c.attests ∧ (c.recheck f).mgmt = c.mgmt ∧
    (c.recheck f).gate = c.gate ∧ (c.recheck f).hatband = c.hatband ∧ (c.recheck f).mram = c.mram ∧
    (c.recheck f).objs = c.objs ∧ (c.recheck f).readData = c.readData := by
  unfold Chip.recheck
  (try dsimp only [Chip.draw256]); and_intros
  · repeat' (first | (simp [Chip.run, Chip.draw256]; done) | intro _ | with_reducible refine (foldl_drawn ?_ _ _).trans ?_ | simp | split)
  · repeat' (first | (simp [Chip.run, Chip.draw256]; done) | intro _ | with_reducible refine (foldl_drone ?_ _ _).trans ?_ | simp | split)
  · repeat' (first | (simp [Chip.run, Chip.draw256]; done) | intro _ | with_reducible refine (foldl_power ?_ _ _).trans ?_ | simp | split)
  · repeat' (first | (simp [Chip.run, Chip.draw256]; done) | intro _ | with_reducible refine (foldl_pins ?_ _ _).trans ?_ | simp | split)
  · repeat' (first | (simp [Chip.run, Chip.draw256]; done) | intro _ | with_reducible refine (foldl_boot ?_ _ _).trans ?_ | simp | split)
  · repeat' (first | (simp [Chip.run, Chip.draw256]; done) | intro _ | with_reducible refine (foldl_driver ?_ _ _).trans ?_ | simp | split)
  · repeat' (first | (simp [Chip.run, Chip.draw256]; done) | intro _ | with_reducible refine (foldl_pfn ?_ _ _).trans ?_ | simp | split)
  · repeat' (first | (simp [Chip.run, Chip.draw256]; done) | intro _ | with_reducible refine (foldl_vfn ?_ _ _).trans ?_ | simp | split)
  · repeat' (first | (simp [Chip.run, Chip.draw256]; done) | intro _ | with_reducible refine (foldl_tenants ?_ _ _).trans ?_ | simp | split)
  · repeat' (first | (simp [Chip.run, Chip.draw256]; done) | intro _ | with_reducible refine (foldl_nparts ?_ _ _).trans ?_ | simp | split)
  · repeat' (first | (simp [Chip.run, Chip.draw256]; done) | intro _ | with_reducible refine (foldl_partPending ?_ _ _).trans ?_ | simp | split)
  · repeat' (first | (simp [Chip.run, Chip.draw256]; done) | intro _ | with_reducible refine (foldl_placer ?_ _ _).trans ?_ | simp | split)
  · repeat' (first | (simp [Chip.run, Chip.draw256]; done) | intro _ | with_reducible refine (foldl_scan ?_ _ _).trans ?_ | simp | split)
  · repeat' (first | (simp [Chip.run, Chip.draw256]; done) | intro _ | with_reducible refine (foldl_sp ?_ _ _).trans ?_ | simp | split)
  · repeat' (first | (simp [Chip.run, Chip.draw256]; done) | intro _ | with_reducible refine (foldl_memObj ?_ _ _).trans ?_ | simp | split)
  · repeat' (first | (simp [Chip.run, Chip.draw256]; done) | intro _ | with_reducible refine (foldl_calPc ?_ _ _).trans ?_ | simp | split)
  · repeat' (first | (simp [Chip.run, Chip.draw256]; done) | intro _ | with_reducible refine (foldl_calDqs ?_ _ _).trans ?_ | simp | split)
  · repeat' (first | (simp [Chip.run, Chip.draw256]; done) | intro _ | with_reducible refine (foldl_calZq ?_ _ _).trans ?_ | simp | split)
  · repeat' (first | (simp [Chip.run, Chip.draw256]; done) | intro _ | with_reducible refine (foldl_calIsl ?_ _ _).trans ?_ | simp | split)
  · repeat' (first | (simp [Chip.run, Chip.draw256]; done) | intro _ | with_reducible refine (foldl_limiter ?_ _ _).trans ?_ | simp | split)
  · repeat' (first | (simp [Chip.run, Chip.draw256]; done) | intro _ | with_reducible refine (foldl_intc ?_ _ _).trans ?_ | simp | split)
  · repeat' (first | (simp [Chip.run, Chip.draw256]; done) | intro _ | with_reducible refine (foldl_faults ?_ _ _).trans ?_ | simp | split)
  · repeat' (first | (simp [Chip.run, Chip.draw256]; done) | intro _ | with_reducible refine (foldl_ports ?_ _ _).trans ?_ | simp | split)
  · repeat' (first | (simp [Chip.run, Chip.draw256]; done) | intro _ | with_reducible refine (foldl_groups ?_ _ _).trans ?_ | simp | split)
  · repeat' (first | (simp [Chip.run, Chip.draw256]; done) | intro _ | with_reducible refine (foldl_bore ?_ _ _).trans ?_ | simp | split)
  · repeat' (first | (simp [Chip.run, Chip.draw256]; done) | intro _ | with_reducible refine (foldl_attests ?_ _ _).trans ?_ | simp | split)
  · repeat' (first | (simp [Chip.run, Chip.draw256]; done) | intro _ | with_reducible refine (foldl_mgmt ?_ _ _).trans ?_ | simp | split)
  · repeat' (first | (simp [Chip.run, Chip.draw256]; done) | intro _ | with_reducible refine (foldl_gate ?_ _ _).trans ?_ | simp | split)
  · repeat' (first | (simp [Chip.run, Chip.draw256]; done) | intro _ | with_reducible refine (foldl_hatband ?_ _ _).trans ?_ | simp | split)
  · repeat' (first | (simp [Chip.run, Chip.draw256]; done) | intro _ | with_reducible refine (foldl_mram ?_ _ _).trans ?_ | simp | split)
  · repeat' (first | (simp [Chip.run, Chip.draw256]; done) | intro _ | with_reducible refine (foldl_objs ?_ _ _).trans ?_ | simp | split)
  · repeat' (first | (simp [Chip.run, Chip.draw256]; done) | intro _ | with_reducible refine (foldl_readData ?_ _ _).trans ?_ | simp | split)

@[simp] theorem Chip.pauseAll_keeps (c : Chip) :
    (c.pauseAll).drawn = c.drawn ∧ (c.pauseAll).drone = c.drone ∧ (c.pauseAll).power = c.power ∧
    (c.pauseAll).pins = c.pins ∧ (c.pauseAll).boot = c.boot ∧ (c.pauseAll).nparts = c.nparts ∧
    (c.pauseAll).partPending = c.partPending ∧ (c.pauseAll).placer = c.placer ∧ (c.pauseAll).scan = c.scan ∧
    (c.pauseAll).sp = c.sp ∧ (c.pauseAll).memObj = c.memObj ∧ (c.pauseAll).calPc = c.calPc ∧
    (c.pauseAll).calDqs = c.calDqs ∧ (c.pauseAll).calZq = c.calZq ∧ (c.pauseAll).calIsl = c.calIsl ∧
    (c.pauseAll).limiter = c.limiter ∧ (c.pauseAll).intc = c.intc ∧ (c.pauseAll).faults = c.faults ∧
    (c.pauseAll).ports = c.ports ∧ (c.pauseAll).groups = c.groups ∧ (c.pauseAll).bore = c.bore ∧
    (c.pauseAll).attests = c.attests ∧ (c.pauseAll).mgmt = c.mgmt ∧ (c.pauseAll).gate = c.gate ∧
    (c.pauseAll).hatband = c.hatband ∧ (c.pauseAll).mram = c.mram ∧ (c.pauseAll).objs = c.objs ∧
    (c.pauseAll).readData = c.readData := by
  unfold Chip.pauseAll
  (try dsimp only [Chip.draw256]); and_intros
  · repeat' (first | (simp [Chip.run, Chip.draw256]; done) | intro _ | with_reducible refine (foldl_drawn ?_ _ _).trans ?_ | simp | split)
  · repeat' (first | (simp [Chip.run, Chip.draw256]; done) | intro _ | with_reducible refine (foldl_drone ?_ _ _).trans ?_ | simp | split)
  · repeat' (first | (simp [Chip.run, Chip.draw256]; done) | intro _ | with_reducible refine (foldl_power ?_ _ _).trans ?_ | simp | split)
  · repeat' (first | (simp [Chip.run, Chip.draw256]; done) | intro _ | with_reducible refine (foldl_pins ?_ _ _).trans ?_ | simp | split)
  · repeat' (first | (simp [Chip.run, Chip.draw256]; done) | intro _ | with_reducible refine (foldl_boot ?_ _ _).trans ?_ | simp | split)
  · repeat' (first | (simp [Chip.run, Chip.draw256]; done) | intro _ | with_reducible refine (foldl_nparts ?_ _ _).trans ?_ | simp | split)
  · repeat' (first | (simp [Chip.run, Chip.draw256]; done) | intro _ | with_reducible refine (foldl_partPending ?_ _ _).trans ?_ | simp | split)
  · repeat' (first | (simp [Chip.run, Chip.draw256]; done) | intro _ | with_reducible refine (foldl_placer ?_ _ _).trans ?_ | simp | split)
  · repeat' (first | (simp [Chip.run, Chip.draw256]; done) | intro _ | with_reducible refine (foldl_scan ?_ _ _).trans ?_ | simp | split)
  · repeat' (first | (simp [Chip.run, Chip.draw256]; done) | intro _ | with_reducible refine (foldl_sp ?_ _ _).trans ?_ | simp | split)
  · repeat' (first | (simp [Chip.run, Chip.draw256]; done) | intro _ | with_reducible refine (foldl_memObj ?_ _ _).trans ?_ | simp | split)
  · repeat' (first | (simp [Chip.run, Chip.draw256]; done) | intro _ | with_reducible refine (foldl_calPc ?_ _ _).trans ?_ | simp | split)
  · repeat' (first | (simp [Chip.run, Chip.draw256]; done) | intro _ | with_reducible refine (foldl_calDqs ?_ _ _).trans ?_ | simp | split)
  · repeat' (first | (simp [Chip.run, Chip.draw256]; done) | intro _ | with_reducible refine (foldl_calZq ?_ _ _).trans ?_ | simp | split)
  · repeat' (first | (simp [Chip.run, Chip.draw256]; done) | intro _ | with_reducible refine (foldl_calIsl ?_ _ _).trans ?_ | simp | split)
  · repeat' (first | (simp [Chip.run, Chip.draw256]; done) | intro _ | with_reducible refine (foldl_limiter ?_ _ _).trans ?_ | simp | split)
  · repeat' (first | (simp [Chip.run, Chip.draw256]; done) | intro _ | with_reducible refine (foldl_intc ?_ _ _).trans ?_ | simp | split)
  · repeat' (first | (simp [Chip.run, Chip.draw256]; done) | intro _ | with_reducible refine (foldl_faults ?_ _ _).trans ?_ | simp | split)
  · repeat' (first | (simp [Chip.run, Chip.draw256]; done) | intro _ | with_reducible refine (foldl_ports ?_ _ _).trans ?_ | simp | split)
  · repeat' (first | (simp [Chip.run, Chip.draw256]; done) | intro _ | with_reducible refine (foldl_groups ?_ _ _).trans ?_ | simp | split)
  · repeat' (first | (simp [Chip.run, Chip.draw256]; done) | intro _ | with_reducible refine (foldl_bore ?_ _ _).trans ?_ | simp | split)
  · repeat' (first | (simp [Chip.run, Chip.draw256]; done) | intro _ | with_reducible refine (foldl_attests ?_ _ _).trans ?_ | simp | split)
  · repeat' (first | (simp [Chip.run, Chip.draw256]; done) | intro _ | with_reducible refine (foldl_mgmt ?_ _ _).trans ?_ | simp | split)
  · repeat' (first | (simp [Chip.run, Chip.draw256]; done) | intro _ | with_reducible refine (foldl_gate ?_ _ _).trans ?_ | simp | split)
  · repeat' (first | (simp [Chip.run, Chip.draw256]; done) | intro _ | with_reducible refine (foldl_hatband ?_ _ _).trans ?_ | simp | split)
  · repeat' (first | (simp [Chip.run, Chip.draw256]; done) | intro _ | with_reducible refine (foldl_mram ?_ _ _).trans ?_ | simp | split)
  · repeat' (first | (simp [Chip.run, Chip.draw256]; done) | intro _ | with_reducible refine (foldl_objs ?_ _ _).trans ?_ | simp | split)
  · repeat' (first | (simp [Chip.run, Chip.draw256]; done) | intro _ | with_reducible refine (foldl_readData ?_ _ _).trans ?_ | simp | split)

@[simp] theorem Chip.driverGone_keeps (c : Chip) (st : DrvState) :
    (c.driverGone st).drawn = c.drawn ∧ (c.driverGone st).drone = c.drone ∧ (c.driverGone st).power = c.power ∧
    (c.driverGone st).pins = c.pins ∧ (c.driverGone st).boot = c.boot ∧ (c.driverGone st).nparts = c.nparts ∧
    (c.driverGone st).partPending = c.partPending ∧ (c.driverGone st).placer = c.placer ∧ (c.driverGone st).scan = c.scan ∧
    (c.driverGone st).sp = c.sp ∧ (c.driverGone st).memObj = c.memObj ∧ (c.driverGone st).calPc = c.calPc ∧
    (c.driverGone st).calDqs = c.calDqs ∧ (c.driverGone st).calZq = c.calZq ∧ (c.driverGone st).calIsl = c.calIsl ∧
    (c.driverGone st).limiter = c.limiter ∧ (c.driverGone st).intc = c.intc ∧ (c.driverGone st).faults = c.faults ∧
    (c.driverGone st).ports = c.ports ∧ (c.driverGone st).groups = c.groups ∧ (c.driverGone st).bore = c.bore ∧
    (c.driverGone st).attests = c.attests ∧ (c.driverGone st).mgmt = c.mgmt ∧ (c.driverGone st).gate = c.gate ∧
    (c.driverGone st).hatband = c.hatband ∧ (c.driverGone st).mram = c.mram ∧ (c.driverGone st).readData = c.readData := by
  unfold Chip.driverGone
  (try dsimp only [Chip.draw256]); and_intros
  · repeat' (first | (simp [Chip.run, Chip.draw256]; done) | intro _ | with_reducible refine (foldl_drawn ?_ _ _).trans ?_ | simp | split)
  · repeat' (first | (simp [Chip.run, Chip.draw256]; done) | intro _ | with_reducible refine (foldl_drone ?_ _ _).trans ?_ | simp | split)
  · repeat' (first | (simp [Chip.run, Chip.draw256]; done) | intro _ | with_reducible refine (foldl_power ?_ _ _).trans ?_ | simp | split)
  · repeat' (first | (simp [Chip.run, Chip.draw256]; done) | intro _ | with_reducible refine (foldl_pins ?_ _ _).trans ?_ | simp | split)
  · repeat' (first | (simp [Chip.run, Chip.draw256]; done) | intro _ | with_reducible refine (foldl_boot ?_ _ _).trans ?_ | simp | split)
  · repeat' (first | (simp [Chip.run, Chip.draw256]; done) | intro _ | with_reducible refine (foldl_nparts ?_ _ _).trans ?_ | simp | split)
  · repeat' (first | (simp [Chip.run, Chip.draw256]; done) | intro _ | with_reducible refine (foldl_partPending ?_ _ _).trans ?_ | simp | split)
  · repeat' (first | (simp [Chip.run, Chip.draw256]; done) | intro _ | with_reducible refine (foldl_placer ?_ _ _).trans ?_ | simp | split)
  · repeat' (first | (simp [Chip.run, Chip.draw256]; done) | intro _ | with_reducible refine (foldl_scan ?_ _ _).trans ?_ | simp | split)
  · repeat' (first | (simp [Chip.run, Chip.draw256]; done) | intro _ | with_reducible refine (foldl_sp ?_ _ _).trans ?_ | simp | split)
  · repeat' (first | (simp [Chip.run, Chip.draw256]; done) | intro _ | with_reducible refine (foldl_memObj ?_ _ _).trans ?_ | simp | split)
  · repeat' (first | (simp [Chip.run, Chip.draw256]; done) | intro _ | with_reducible refine (foldl_calPc ?_ _ _).trans ?_ | simp | split)
  · repeat' (first | (simp [Chip.run, Chip.draw256]; done) | intro _ | with_reducible refine (foldl_calDqs ?_ _ _).trans ?_ | simp | split)
  · repeat' (first | (simp [Chip.run, Chip.draw256]; done) | intro _ | with_reducible refine (foldl_calZq ?_ _ _).trans ?_ | simp | split)
  · repeat' (first | (simp [Chip.run, Chip.draw256]; done) | intro _ | with_reducible refine (foldl_calIsl ?_ _ _).trans ?_ | simp | split)
  · repeat' (first | (simp [Chip.run, Chip.draw256]; done) | intro _ | with_reducible refine (foldl_limiter ?_ _ _).trans ?_ | simp | split)
  · repeat' (first | (simp [Chip.run, Chip.draw256]; done) | intro _ | with_reducible refine (foldl_intc ?_ _ _).trans ?_ | simp | split)
  · repeat' (first | (simp [Chip.run, Chip.draw256]; done) | intro _ | with_reducible refine (foldl_faults ?_ _ _).trans ?_ | simp | split)
  · repeat' (first | (simp [Chip.run, Chip.draw256]; done) | intro _ | with_reducible refine (foldl_ports ?_ _ _).trans ?_ | simp | split)
  · repeat' (first | (simp [Chip.run, Chip.draw256]; done) | intro _ | with_reducible refine (foldl_groups ?_ _ _).trans ?_ | simp | split)
  · repeat' (first | (simp [Chip.run, Chip.draw256]; done) | intro _ | with_reducible refine (foldl_bore ?_ _ _).trans ?_ | simp | split)
  · repeat' (first | (simp [Chip.run, Chip.draw256]; done) | intro _ | with_reducible refine (foldl_attests ?_ _ _).trans ?_ | simp | split)
  · repeat' (first | (simp [Chip.run, Chip.draw256]; done) | intro _ | with_reducible refine (foldl_mgmt ?_ _ _).trans ?_ | simp | split)
  · repeat' (first | (simp [Chip.run, Chip.draw256]; done) | intro _ | with_reducible refine (foldl_gate ?_ _ _).trans ?_ | simp | split)
  · repeat' (first | (simp [Chip.run, Chip.draw256]; done) | intro _ | with_reducible refine (foldl_hatband ?_ _ _).trans ?_ | simp | split)
  · repeat' (first | (simp [Chip.run, Chip.draw256]; done) | intro _ | with_reducible refine (foldl_mram ?_ _ _).trans ?_ | simp | split)
  · repeat' (first | (simp [Chip.run, Chip.draw256]; done) | intro _ | with_reducible refine (foldl_readData ?_ _ _).trans ?_ | simp | split)

@[simp] theorem Chip.resumeTenant_keeps (c : Chip) (t : Fin 16) :
    (c.resumeTenant t).drawn = c.drawn ∧ (c.resumeTenant t).drone = c.drone ∧ (c.resumeTenant t).power = c.power ∧
    (c.resumeTenant t).pins = c.pins ∧ (c.resumeTenant t).boot = c.boot ∧ (c.resumeTenant t).driver = c.driver ∧
    (c.resumeTenant t).nparts = c.nparts ∧ (c.resumeTenant t).parts = c.parts ∧ (c.resumeTenant t).partPending = c.partPending ∧
    (c.resumeTenant t).placer = c.placer ∧ (c.resumeTenant t).scan = c.scan ∧ (c.resumeTenant t).sp = c.sp ∧
    (c.resumeTenant t).memObj = c.memObj ∧ (c.resumeTenant t).calPc = c.calPc ∧ (c.resumeTenant t).calDqs = c.calDqs ∧
    (c.resumeTenant t).calZq = c.calZq ∧ (c.resumeTenant t).calIsl = c.calIsl ∧ (c.resumeTenant t).limiter = c.limiter ∧
    (c.resumeTenant t).intc = c.intc ∧ (c.resumeTenant t).faults = c.faults ∧ (c.resumeTenant t).ports = c.ports ∧
    (c.resumeTenant t).groups = c.groups ∧ (c.resumeTenant t).bore = c.bore ∧ (c.resumeTenant t).attests = c.attests ∧
    (c.resumeTenant t).mgmt = c.mgmt ∧ (c.resumeTenant t).gate = c.gate ∧ (c.resumeTenant t).hatband = c.hatband ∧
    (c.resumeTenant t).mram = c.mram ∧ (c.resumeTenant t).readData = c.readData ∧ (∀ pp : Fin 4, (c.resumeTenant t).run pp = c.run pp) := by
  unfold Chip.resumeTenant
  first
    | (simp [Chip.run]; done)
    | ((try dsimp only) <;> (repeat' split) <;> simp [Chip.run])

@[simp] theorem Chip.resumePart_keeps (c : Chip) (p : Fin 4) :
    (c.resumePart p).drawn = c.drawn ∧ (c.resumePart p).drone = c.drone ∧ (c.resumePart p).power = c.power ∧
    (c.resumePart p).pins = c.pins ∧ (c.resumePart p).boot = c.boot ∧ (c.resumePart p).driver = c.driver ∧
    (c.resumePart p).tenants = c.tenants ∧ (c.resumePart p).nparts = c.nparts ∧ (c.resumePart p).partPending = c.partPending ∧
    (c.resumePart p).placer = c.placer ∧ (c.resumePart p).scan = c.scan ∧ (c.resumePart p).sp = c.sp ∧
    (c.resumePart p).memObj = c.memObj ∧ (c.resumePart p).calPc = c.calPc ∧ (c.resumePart p).calDqs = c.calDqs ∧
    (c.resumePart p).calZq = c.calZq ∧ (c.resumePart p).calIsl = c.calIsl ∧ (c.resumePart p).limiter = c.limiter ∧
    (c.resumePart p).intc = c.intc ∧ (c.resumePart p).faults = c.faults ∧ (c.resumePart p).ports = c.ports ∧
    (c.resumePart p).groups = c.groups ∧ (c.resumePart p).bore = c.bore ∧ (c.resumePart p).attests = c.attests ∧
    (c.resumePart p).mgmt = c.mgmt ∧ (c.resumePart p).gate = c.gate ∧ (c.resumePart p).hatband = c.hatband ∧
    (c.resumePart p).mram = c.mram ∧ (c.resumePart p).readData = c.readData := by
  unfold Chip.resumePart
  (try dsimp only [Chip.draw256]); and_intros
  · repeat' (first | (simp [Chip.run, Chip.draw256]; done) | intro _ | with_reducible refine (foldl_drawn ?_ _ _).trans ?_ | simp | split)
  · repeat' (first | (simp [Chip.run, Chip.draw256]; done) | intro _ | with_reducible refine (foldl_drone ?_ _ _).trans ?_ | simp | split)
  · repeat' (first | (simp [Chip.run, Chip.draw256]; done) | intro _ | with_reducible refine (foldl_power ?_ _ _).trans ?_ | simp | split)
  · repeat' (first | (simp [Chip.run, Chip.draw256]; done) | intro _ | with_reducible refine (foldl_pins ?_ _ _).trans ?_ | simp | split)
  · repeat' (first | (simp [Chip.run, Chip.draw256]; done) | intro _ | with_reducible refine (foldl_boot ?_ _ _).trans ?_ | simp | split)
  · repeat' (first | (simp [Chip.run, Chip.draw256]; done) | intro _ | with_reducible refine (foldl_driver ?_ _ _).trans ?_ | simp | split)
  · repeat' (first | (simp [Chip.run, Chip.draw256]; done) | intro _ | with_reducible refine (foldl_tenants ?_ _ _).trans ?_ | simp | split)
  · repeat' (first | (simp [Chip.run, Chip.draw256]; done) | intro _ | with_reducible refine (foldl_nparts ?_ _ _).trans ?_ | simp | split)
  · repeat' (first | (simp [Chip.run, Chip.draw256]; done) | intro _ | with_reducible refine (foldl_partPending ?_ _ _).trans ?_ | simp | split)
  · repeat' (first | (simp [Chip.run, Chip.draw256]; done) | intro _ | with_reducible refine (foldl_placer ?_ _ _).trans ?_ | simp | split)
  · repeat' (first | (simp [Chip.run, Chip.draw256]; done) | intro _ | with_reducible refine (foldl_scan ?_ _ _).trans ?_ | simp | split)
  · repeat' (first | (simp [Chip.run, Chip.draw256]; done) | intro _ | with_reducible refine (foldl_sp ?_ _ _).trans ?_ | simp | split)
  · repeat' (first | (simp [Chip.run, Chip.draw256]; done) | intro _ | with_reducible refine (foldl_memObj ?_ _ _).trans ?_ | simp | split)
  · repeat' (first | (simp [Chip.run, Chip.draw256]; done) | intro _ | with_reducible refine (foldl_calPc ?_ _ _).trans ?_ | simp | split)
  · repeat' (first | (simp [Chip.run, Chip.draw256]; done) | intro _ | with_reducible refine (foldl_calDqs ?_ _ _).trans ?_ | simp | split)
  · repeat' (first | (simp [Chip.run, Chip.draw256]; done) | intro _ | with_reducible refine (foldl_calZq ?_ _ _).trans ?_ | simp | split)
  · repeat' (first | (simp [Chip.run, Chip.draw256]; done) | intro _ | with_reducible refine (foldl_calIsl ?_ _ _).trans ?_ | simp | split)
  · repeat' (first | (simp [Chip.run, Chip.draw256]; done) | intro _ | with_reducible refine (foldl_limiter ?_ _ _).trans ?_ | simp | split)
  · repeat' (first | (simp [Chip.run, Chip.draw256]; done) | intro _ | with_reducible refine (foldl_intc ?_ _ _).trans ?_ | simp | split)
  · repeat' (first | (simp [Chip.run, Chip.draw256]; done) | intro _ | with_reducible refine (foldl_faults ?_ _ _).trans ?_ | simp | split)
  · repeat' (first | (simp [Chip.run, Chip.draw256]; done) | intro _ | with_reducible refine (foldl_ports ?_ _ _).trans ?_ | simp | split)
  · repeat' (first | (simp [Chip.run, Chip.draw256]; done) | intro _ | with_reducible refine (foldl_groups ?_ _ _).trans ?_ | simp | split)
  · repeat' (first | (simp [Chip.run, Chip.draw256]; done) | intro _ | with_reducible refine (foldl_bore ?_ _ _).trans ?_ | simp | split)
  · repeat' (first | (simp [Chip.run, Chip.draw256]; done) | intro _ | with_reducible refine (foldl_attests ?_ _ _).trans ?_ | simp | split)
  · repeat' (first | (simp [Chip.run, Chip.draw256]; done) | intro _ | with_reducible refine (foldl_mgmt ?_ _ _).trans ?_ | simp | split)
  · repeat' (first | (simp [Chip.run, Chip.draw256]; done) | intro _ | with_reducible refine (foldl_gate ?_ _ _).trans ?_ | simp | split)
  · repeat' (first | (simp [Chip.run, Chip.draw256]; done) | intro _ | with_reducible refine (foldl_hatband ?_ _ _).trans ?_ | simp | split)
  · repeat' (first | (simp [Chip.run, Chip.draw256]; done) | intro _ | with_reducible refine (foldl_mram ?_ _ _).trans ?_ | simp | split)
  · repeat' (first | (simp [Chip.run, Chip.draw256]; done) | intro _ | with_reducible refine (foldl_readData ?_ _ _).trans ?_ | simp | split)

@[simp] theorem Chip.attached_keeps (c : Chip) (src : CmdSrc) :
    (c.attached src).drawn = c.drawn ∧ (c.attached src).drone = c.drone ∧ (c.attached src).power = c.power ∧
    (c.attached src).pins = c.pins ∧ (c.attached src).boot = c.boot ∧ (c.attached src).tenants = c.tenants ∧
    (c.attached src).nparts = c.nparts ∧ (c.attached src).parts = c.parts ∧ (c.attached src).partPending = c.partPending ∧
    (c.attached src).placer = c.placer ∧ (c.attached src).scan = c.scan ∧ (c.attached src).sp = c.sp ∧
    (c.attached src).memObj = c.memObj ∧ (c.attached src).calPc = c.calPc ∧ (c.attached src).calDqs = c.calDqs ∧
    (c.attached src).calZq = c.calZq ∧ (c.attached src).calIsl = c.calIsl ∧ (c.attached src).limiter = c.limiter ∧
    (c.attached src).intc = c.intc ∧ (c.attached src).faults = c.faults ∧ (c.attached src).ports = c.ports ∧
    (c.attached src).groups = c.groups ∧ (c.attached src).bore = c.bore ∧ (c.attached src).attests = c.attests ∧
    (c.attached src).mgmt = c.mgmt ∧ (c.attached src).gate = c.gate ∧ (c.attached src).hatband = c.hatband ∧
    (c.attached src).mram = c.mram ∧ (c.attached src).readData = c.readData ∧ (∀ pp : Fin 4, (c.attached src).run pp = c.run pp) := by
  unfold Chip.attached
  first
    | (simp [Chip.run]; done)
    | ((try dsimp only) <;> (repeat' split) <;> simp [Chip.run])

@[simp] theorem Chip.wrongToken_keeps (c : Chip) (src : CmdSrc) :
    (c.wrongToken src).drawn = c.drawn ∧ (c.wrongToken src).drone = c.drone ∧ (c.wrongToken src).power = c.power ∧
    (c.wrongToken src).pins = c.pins ∧ (c.wrongToken src).boot = c.boot ∧ (c.wrongToken src).driver = c.driver ∧
    (c.wrongToken src).tenants = c.tenants ∧ (c.wrongToken src).nparts = c.nparts ∧ (c.wrongToken src).parts = c.parts ∧
    (c.wrongToken src).partPending = c.partPending ∧ (c.wrongToken src).placer = c.placer ∧ (c.wrongToken src).scan = c.scan ∧
    (c.wrongToken src).sp = c.sp ∧ (c.wrongToken src).memObj = c.memObj ∧ (c.wrongToken src).calPc = c.calPc ∧
    (c.wrongToken src).calDqs = c.calDqs ∧ (c.wrongToken src).calZq = c.calZq ∧ (c.wrongToken src).calIsl = c.calIsl ∧
    (c.wrongToken src).limiter = c.limiter ∧ (c.wrongToken src).faults = c.faults ∧ (c.wrongToken src).ports = c.ports ∧
    (c.wrongToken src).groups = c.groups ∧ (c.wrongToken src).bore = c.bore ∧ (c.wrongToken src).attests = c.attests ∧
    (c.wrongToken src).mgmt = c.mgmt ∧ (c.wrongToken src).gate = c.gate ∧ (c.wrongToken src).readData = c.readData ∧
    (∀ pp : Fin 4, (c.wrongToken src).run pp = c.run pp) := by
  unfold Chip.wrongToken
  first
    | (simp [Chip.run]; done)
    | ((try dsimp only) <;> (repeat' split) <;> simp [Chip.run])

@[simp] theorem Chip.queueRebind_keeps (c : Chip) (p : Fin 4) :
    (c.queueRebind p).drawn = c.drawn ∧ (c.queueRebind p).drone = c.drone ∧ (c.queueRebind p).power = c.power ∧
    (c.queueRebind p).pins = c.pins ∧ (c.queueRebind p).boot = c.boot ∧ (c.queueRebind p).driver = c.driver ∧
    (c.queueRebind p).pfn = c.pfn ∧ (c.queueRebind p).vfn = c.vfn ∧ (c.queueRebind p).tenants = c.tenants ∧
    (c.queueRebind p).nparts = c.nparts ∧ (c.queueRebind p).parts = c.parts ∧ (c.queueRebind p).partPending = c.partPending ∧
    (c.queueRebind p).scan = c.scan ∧ (c.queueRebind p).sp = c.sp ∧ (c.queueRebind p).memObj = c.memObj ∧
    (c.queueRebind p).calPc = c.calPc ∧ (c.queueRebind p).calDqs = c.calDqs ∧ (c.queueRebind p).calZq = c.calZq ∧
    (c.queueRebind p).calIsl = c.calIsl ∧ (c.queueRebind p).limiter = c.limiter ∧ (c.queueRebind p).intc = c.intc ∧
    (c.queueRebind p).faults = c.faults ∧ (c.queueRebind p).ports = c.ports ∧ (c.queueRebind p).groups = c.groups ∧
    (c.queueRebind p).bore = c.bore ∧ (c.queueRebind p).attests = c.attests ∧ (c.queueRebind p).mgmt = c.mgmt ∧
    (c.queueRebind p).gate = c.gate ∧ (c.queueRebind p).hatband = c.hatband ∧ (c.queueRebind p).mram = c.mram ∧
    (c.queueRebind p).objs = c.objs ∧ (c.queueRebind p).readData = c.readData ∧ (∀ pp : Fin 4, (c.queueRebind p).run pp = c.run pp) := by
  unfold Chip.queueRebind
  first
    | (simp [Chip.run]; done)
    | ((try dsimp only) <;> (repeat' split) <;> simp [Chip.run])

@[simp] theorem Chip.tileOut_keeps (c : Chip) (t : Fin 68) :
    (c.tileOut t).drawn = c.drawn ∧ (c.tileOut t).drone = c.drone ∧ (c.tileOut t).power = c.power ∧
    (c.tileOut t).pins = c.pins ∧ (c.tileOut t).boot = c.boot ∧ (c.tileOut t).driver = c.driver ∧
    (c.tileOut t).pfn = c.pfn ∧ (c.tileOut t).vfn = c.vfn ∧ (c.tileOut t).tenants = c.tenants ∧
    (c.tileOut t).nparts = c.nparts ∧ (c.tileOut t).partPending = c.partPending ∧ (c.tileOut t).scan = c.scan ∧
    (c.tileOut t).sp = c.sp ∧ (c.tileOut t).memObj = c.memObj ∧ (c.tileOut t).calPc = c.calPc ∧
    (c.tileOut t).calDqs = c.calDqs ∧ (c.tileOut t).calZq = c.calZq ∧ (c.tileOut t).calIsl = c.calIsl ∧
    (c.tileOut t).limiter = c.limiter ∧ (c.tileOut t).intc = c.intc ∧ (c.tileOut t).ports = c.ports ∧
    (c.tileOut t).groups = c.groups ∧ (c.tileOut t).bore = c.bore ∧ (c.tileOut t).attests = c.attests ∧
    (c.tileOut t).mgmt = c.mgmt ∧ (c.tileOut t).gate = c.gate ∧ (c.tileOut t).hatband = c.hatband ∧
    (c.tileOut t).mram = c.mram ∧ (c.tileOut t).objs = c.objs ∧ (c.tileOut t).readData = c.readData := by
  unfold Chip.tileOut
  (try dsimp only [Chip.draw256]); and_intros
  · repeat' (first | (simp [Chip.run, Chip.draw256]; done) | intro _ | with_reducible refine (foldl_drawn ?_ _ _).trans ?_ | simp | split)
  · repeat' (first | (simp [Chip.run, Chip.draw256]; done) | intro _ | with_reducible refine (foldl_drone ?_ _ _).trans ?_ | simp | split)
  · repeat' (first | (simp [Chip.run, Chip.draw256]; done) | intro _ | with_reducible refine (foldl_power ?_ _ _).trans ?_ | simp | split)
  · repeat' (first | (simp [Chip.run, Chip.draw256]; done) | intro _ | with_reducible refine (foldl_pins ?_ _ _).trans ?_ | simp | split)
  · repeat' (first | (simp [Chip.run, Chip.draw256]; done) | intro _ | with_reducible refine (foldl_boot ?_ _ _).trans ?_ | simp | split)
  · repeat' (first | (simp [Chip.run, Chip.draw256]; done) | intro _ | with_reducible refine (foldl_driver ?_ _ _).trans ?_ | simp | split)
  · repeat' (first | (simp [Chip.run, Chip.draw256]; done) | intro _ | with_reducible refine (foldl_pfn ?_ _ _).trans ?_ | simp | split)
  · repeat' (first | (simp [Chip.run, Chip.draw256]; done) | intro _ | with_reducible refine (foldl_vfn ?_ _ _).trans ?_ | simp | split)
  · repeat' (first | (simp [Chip.run, Chip.draw256]; done) | intro _ | with_reducible refine (foldl_tenants ?_ _ _).trans ?_ | simp | split)
  · repeat' (first | (simp [Chip.run, Chip.draw256]; done) | intro _ | with_reducible refine (foldl_nparts ?_ _ _).trans ?_ | simp | split)
  · repeat' (first | (simp [Chip.run, Chip.draw256]; done) | intro _ | with_reducible refine (foldl_partPending ?_ _ _).trans ?_ | simp | split)
  · repeat' (first | (simp [Chip.run, Chip.draw256]; done) | intro _ | with_reducible refine (foldl_scan ?_ _ _).trans ?_ | simp | split)
  · repeat' (first | (simp [Chip.run, Chip.draw256]; done) | intro _ | with_reducible refine (foldl_sp ?_ _ _).trans ?_ | simp | split)
  · repeat' (first | (simp [Chip.run, Chip.draw256]; done) | intro _ | with_reducible refine (foldl_memObj ?_ _ _).trans ?_ | simp | split)
  · repeat' (first | (simp [Chip.run, Chip.draw256]; done) | intro _ | with_reducible refine (foldl_calPc ?_ _ _).trans ?_ | simp | split)
  · repeat' (first | (simp [Chip.run, Chip.draw256]; done) | intro _ | with_reducible refine (foldl_calDqs ?_ _ _).trans ?_ | simp | split)
  · repeat' (first | (simp [Chip.run, Chip.draw256]; done) | intro _ | with_reducible refine (foldl_calZq ?_ _ _).trans ?_ | simp | split)
  · repeat' (first | (simp [Chip.run, Chip.draw256]; done) | intro _ | with_reducible refine (foldl_calIsl ?_ _ _).trans ?_ | simp | split)
  · repeat' (first | (simp [Chip.run, Chip.draw256]; done) | intro _ | with_reducible refine (foldl_limiter ?_ _ _).trans ?_ | simp | split)
  · repeat' (first | (simp [Chip.run, Chip.draw256]; done) | intro _ | with_reducible refine (foldl_intc ?_ _ _).trans ?_ | simp | split)
  · repeat' (first | (simp [Chip.run, Chip.draw256]; done) | intro _ | with_reducible refine (foldl_ports ?_ _ _).trans ?_ | simp | split)
  · repeat' (first | (simp [Chip.run, Chip.draw256]; done) | intro _ | with_reducible refine (foldl_groups ?_ _ _).trans ?_ | simp | split)
  · repeat' (first | (simp [Chip.run, Chip.draw256]; done) | intro _ | with_reducible refine (foldl_bore ?_ _ _).trans ?_ | simp | split)
  · repeat' (first | (simp [Chip.run, Chip.draw256]; done) | intro _ | with_reducible refine (foldl_attests ?_ _ _).trans ?_ | simp | split)
  · repeat' (first | (simp [Chip.run, Chip.draw256]; done) | intro _ | with_reducible refine (foldl_mgmt ?_ _ _).trans ?_ | simp | split)
  · repeat' (first | (simp [Chip.run, Chip.draw256]; done) | intro _ | with_reducible refine (foldl_gate ?_ _ _).trans ?_ | simp | split)
  · repeat' (first | (simp [Chip.run, Chip.draw256]; done) | intro _ | with_reducible refine (foldl_hatband ?_ _ _).trans ?_ | simp | split)
  · repeat' (first | (simp [Chip.run, Chip.draw256]; done) | intro _ | with_reducible refine (foldl_mram ?_ _ _).trans ?_ | simp | split)
  · repeat' (first | (simp [Chip.run, Chip.draw256]; done) | intro _ | with_reducible refine (foldl_objs ?_ _ _).trans ?_ | simp | split)
  · repeat' (first | (simp [Chip.run, Chip.draw256]; done) | intro _ | with_reducible refine (foldl_readData ?_ _ _).trans ?_ | simp | split)

@[simp] theorem Chip.tileEvent_keeps (c : Chip) (unit : W32) :
    (c.tileEvent unit).drawn = c.drawn ∧ (c.tileEvent unit).drone = c.drone ∧ (c.tileEvent unit).power = c.power ∧
    (c.tileEvent unit).pins = c.pins ∧ (c.tileEvent unit).boot = c.boot ∧ (c.tileEvent unit).driver = c.driver ∧
    (c.tileEvent unit).tenants = c.tenants ∧ (c.tileEvent unit).nparts = c.nparts ∧ (c.tileEvent unit).parts = c.parts ∧
    (c.tileEvent unit).partPending = c.partPending ∧ (c.tileEvent unit).placer = c.placer ∧ (c.tileEvent unit).scan = c.scan ∧
    (c.tileEvent unit).sp = c.sp ∧ (c.tileEvent unit).memObj = c.memObj ∧ (c.tileEvent unit).calPc = c.calPc ∧
    (c.tileEvent unit).calDqs = c.calDqs ∧ (c.tileEvent unit).calZq = c.calZq ∧ (c.tileEvent unit).calIsl = c.calIsl ∧
    (c.tileEvent unit).limiter = c.limiter ∧ (c.tileEvent unit).intc = c.intc ∧ (c.tileEvent unit).faults = c.faults ∧
    (c.tileEvent unit).ports = c.ports ∧ (c.tileEvent unit).groups = c.groups ∧ (c.tileEvent unit).bore = c.bore ∧
    (c.tileEvent unit).attests = c.attests ∧ (c.tileEvent unit).mgmt = c.mgmt ∧ (c.tileEvent unit).gate = c.gate ∧
    (c.tileEvent unit).hatband = c.hatband ∧ (c.tileEvent unit).mram = c.mram ∧ (c.tileEvent unit).readData = c.readData ∧
    (∀ pp : Fin 4, (c.tileEvent unit).run pp = c.run pp) := by
  unfold Chip.tileEvent
  first
    | (simp [Chip.run]; done)
    | ((try dsimp only) <;> (repeat' split) <;> simp [Chip.run])

@[simp] theorem Chip.refuseTurns_keeps (c : Chip) :
    (c.refuseTurns).drawn = c.drawn ∧ (c.refuseTurns).drone = c.drone ∧ (c.refuseTurns).power = c.power ∧
    (c.refuseTurns).pins = c.pins ∧ (c.refuseTurns).boot = c.boot ∧ (c.refuseTurns).driver = c.driver ∧
    (c.refuseTurns).tenants = c.tenants ∧ (c.refuseTurns).nparts = c.nparts ∧ (c.refuseTurns).partPending = c.partPending ∧
    (c.refuseTurns).placer = c.placer ∧ (c.refuseTurns).scan = c.scan ∧ (c.refuseTurns).sp = c.sp ∧
    (c.refuseTurns).memObj = c.memObj ∧ (c.refuseTurns).calPc = c.calPc ∧ (c.refuseTurns).calDqs = c.calDqs ∧
    (c.refuseTurns).calZq = c.calZq ∧ (c.refuseTurns).calIsl = c.calIsl ∧ (c.refuseTurns).limiter = c.limiter ∧
    (c.refuseTurns).intc = c.intc ∧ (c.refuseTurns).faults = c.faults ∧ (c.refuseTurns).ports = c.ports ∧
    (c.refuseTurns).groups = c.groups ∧ (c.refuseTurns).bore = c.bore ∧ (c.refuseTurns).attests = c.attests ∧
    (c.refuseTurns).mgmt = c.mgmt ∧ (c.refuseTurns).gate = c.gate ∧ (c.refuseTurns).hatband = c.hatband ∧
    (c.refuseTurns).mram = c.mram ∧ (c.refuseTurns).readData = c.readData := by
  unfold Chip.refuseTurns
  (try dsimp only [Chip.draw256]); and_intros
  · repeat' (first | (simp [Chip.run, Chip.draw256]; done) | intro _ | with_reducible refine (foldl_drawn ?_ _ _).trans ?_ | simp | split)
  · repeat' (first | (simp [Chip.run, Chip.draw256]; done) | intro _ | with_reducible refine (foldl_drone ?_ _ _).trans ?_ | simp | split)
  · repeat' (first | (simp [Chip.run, Chip.draw256]; done) | intro _ | with_reducible refine (foldl_power ?_ _ _).trans ?_ | simp | split)
  · repeat' (first | (simp [Chip.run, Chip.draw256]; done) | intro _ | with_reducible refine (foldl_pins ?_ _ _).trans ?_ | simp | split)
  · repeat' (first | (simp [Chip.run, Chip.draw256]; done) | intro _ | with_reducible refine (foldl_boot ?_ _ _).trans ?_ | simp | split)
  · repeat' (first | (simp [Chip.run, Chip.draw256]; done) | intro _ | with_reducible refine (foldl_driver ?_ _ _).trans ?_ | simp | split)
  · repeat' (first | (simp [Chip.run, Chip.draw256]; done) | intro _ | with_reducible refine (foldl_tenants ?_ _ _).trans ?_ | simp | split)
  · repeat' (first | (simp [Chip.run, Chip.draw256]; done) | intro _ | with_reducible refine (foldl_nparts ?_ _ _).trans ?_ | simp | split)
  · repeat' (first | (simp [Chip.run, Chip.draw256]; done) | intro _ | with_reducible refine (foldl_partPending ?_ _ _).trans ?_ | simp | split)
  · repeat' (first | (simp [Chip.run, Chip.draw256]; done) | intro _ | with_reducible refine (foldl_placer ?_ _ _).trans ?_ | simp | split)
  · repeat' (first | (simp [Chip.run, Chip.draw256]; done) | intro _ | with_reducible refine (foldl_scan ?_ _ _).trans ?_ | simp | split)
  · repeat' (first | (simp [Chip.run, Chip.draw256]; done) | intro _ | with_reducible refine (foldl_sp ?_ _ _).trans ?_ | simp | split)
  · repeat' (first | (simp [Chip.run, Chip.draw256]; done) | intro _ | with_reducible refine (foldl_memObj ?_ _ _).trans ?_ | simp | split)
  · repeat' (first | (simp [Chip.run, Chip.draw256]; done) | intro _ | with_reducible refine (foldl_calPc ?_ _ _).trans ?_ | simp | split)
  · repeat' (first | (simp [Chip.run, Chip.draw256]; done) | intro _ | with_reducible refine (foldl_calDqs ?_ _ _).trans ?_ | simp | split)
  · repeat' (first | (simp [Chip.run, Chip.draw256]; done) | intro _ | with_reducible refine (foldl_calZq ?_ _ _).trans ?_ | simp | split)
  · repeat' (first | (simp [Chip.run, Chip.draw256]; done) | intro _ | with_reducible refine (foldl_calIsl ?_ _ _).trans ?_ | simp | split)
  · repeat' (first | (simp [Chip.run, Chip.draw256]; done) | intro _ | with_reducible refine (foldl_limiter ?_ _ _).trans ?_ | simp | split)
  · repeat' (first | (simp [Chip.run, Chip.draw256]; done) | intro _ | with_reducible refine (foldl_intc ?_ _ _).trans ?_ | simp | split)
  · repeat' (first | (simp [Chip.run, Chip.draw256]; done) | intro _ | with_reducible refine (foldl_faults ?_ _ _).trans ?_ | simp | split)
  · repeat' (first | (simp [Chip.run, Chip.draw256]; done) | intro _ | with_reducible refine (foldl_ports ?_ _ _).trans ?_ | simp | split)
  · repeat' (first | (simp [Chip.run, Chip.draw256]; done) | intro _ | with_reducible refine (foldl_groups ?_ _ _).trans ?_ | simp | split)
  · repeat' (first | (simp [Chip.run, Chip.draw256]; done) | intro _ | with_reducible refine (foldl_bore ?_ _ _).trans ?_ | simp | split)
  · repeat' (first | (simp [Chip.run, Chip.draw256]; done) | intro _ | with_reducible refine (foldl_attests ?_ _ _).trans ?_ | simp | split)
  · repeat' (first | (simp [Chip.run, Chip.draw256]; done) | intro _ | with_reducible refine (foldl_mgmt ?_ _ _).trans ?_ | simp | split)
  · repeat' (first | (simp [Chip.run, Chip.draw256]; done) | intro _ | with_reducible refine (foldl_gate ?_ _ _).trans ?_ | simp | split)
  · repeat' (first | (simp [Chip.run, Chip.draw256]; done) | intro _ | with_reducible refine (foldl_hatband ?_ _ _).trans ?_ | simp | split)
  · repeat' (first | (simp [Chip.run, Chip.draw256]; done) | intro _ | with_reducible refine (foldl_mram ?_ _ _).trans ?_ | simp | split)
  · repeat' (first | (simp [Chip.run, Chip.draw256]; done) | intro _ | with_reducible refine (foldl_readData ?_ _ _).trans ?_ | simp | split)

@[simp] theorem Chip.resendFrames_keeps (c : Chip) (g : Group) (xs : List Retained) :
    (c.resendFrames g xs).drawn = c.drawn ∧ (c.resendFrames g xs).drone = c.drone ∧ (c.resendFrames g xs).power = c.power ∧
    (c.resendFrames g xs).pins = c.pins ∧ (c.resendFrames g xs).boot = c.boot ∧ (c.resendFrames g xs).driver = c.driver ∧
    (c.resendFrames g xs).pfn = c.pfn ∧ (c.resendFrames g xs).vfn = c.vfn ∧ (c.resendFrames g xs).tenants = c.tenants ∧
    (c.resendFrames g xs).nparts = c.nparts ∧ (c.resendFrames g xs).parts = c.parts ∧ (c.resendFrames g xs).partPending = c.partPending ∧
    (c.resendFrames g xs).placer = c.placer ∧ (c.resendFrames g xs).scan = c.scan ∧ (c.resendFrames g xs).sp = c.sp ∧
    (c.resendFrames g xs).memObj = c.memObj ∧ (c.resendFrames g xs).calPc = c.calPc ∧ (c.resendFrames g xs).calDqs = c.calDqs ∧
    (c.resendFrames g xs).calZq = c.calZq ∧ (c.resendFrames g xs).calIsl = c.calIsl ∧ (c.resendFrames g xs).limiter = c.limiter ∧
    (c.resendFrames g xs).intc = c.intc ∧ (c.resendFrames g xs).faults = c.faults ∧ (c.resendFrames g xs).groups = c.groups ∧
    (c.resendFrames g xs).bore = c.bore ∧ (c.resendFrames g xs).attests = c.attests ∧ (c.resendFrames g xs).mgmt = c.mgmt ∧
    (c.resendFrames g xs).gate = c.gate ∧ (c.resendFrames g xs).hatband = c.hatband ∧ (c.resendFrames g xs).mram = c.mram ∧
    (c.resendFrames g xs).objs = c.objs ∧ (c.resendFrames g xs).readData = c.readData ∧ (∀ pp : Fin 4, (c.resendFrames g xs).run pp = c.run pp) := by
  unfold Chip.resendFrames
  first
    | (simp [Chip.run]; done)
    | ((try dsimp only) <;> (repeat' split) <;> simp [Chip.run])

@[simp] theorem Chip.sendResume_keeps (c : Chip) (g : Group) (x : RxHop) :
    (c.sendResume g x).drawn = c.drawn ∧ (c.sendResume g x).drone = c.drone ∧ (c.sendResume g x).power = c.power ∧
    (c.sendResume g x).pins = c.pins ∧ (c.sendResume g x).boot = c.boot ∧ (c.sendResume g x).driver = c.driver ∧
    (c.sendResume g x).pfn = c.pfn ∧ (c.sendResume g x).vfn = c.vfn ∧ (c.sendResume g x).tenants = c.tenants ∧
    (c.sendResume g x).nparts = c.nparts ∧ (c.sendResume g x).parts = c.parts ∧ (c.sendResume g x).partPending = c.partPending ∧
    (c.sendResume g x).placer = c.placer ∧ (c.sendResume g x).scan = c.scan ∧ (c.sendResume g x).sp = c.sp ∧
    (c.sendResume g x).memObj = c.memObj ∧ (c.sendResume g x).calPc = c.calPc ∧ (c.sendResume g x).calDqs = c.calDqs ∧
    (c.sendResume g x).calZq = c.calZq ∧ (c.sendResume g x).calIsl = c.calIsl ∧ (c.sendResume g x).limiter = c.limiter ∧
    (c.sendResume g x).intc = c.intc ∧ (c.sendResume g x).faults = c.faults ∧ (c.sendResume g x).groups = c.groups ∧
    (c.sendResume g x).bore = c.bore ∧ (c.sendResume g x).attests = c.attests ∧ (c.sendResume g x).mgmt = c.mgmt ∧
    (c.sendResume g x).gate = c.gate ∧ (c.sendResume g x).hatband = c.hatband ∧ (c.sendResume g x).mram = c.mram ∧
    (c.sendResume g x).objs = c.objs ∧ (c.sendResume g x).readData = c.readData ∧ (∀ pp : Fin 4, (c.sendResume g x).run pp = c.run pp) := by
  unfold Chip.sendResume
  first
    | (simp [Chip.run]; done)
    | ((try dsimp only) <;> (repeat' split) <;> simp [Chip.run])

@[simp] theorem Chip.replayGroup_keeps (c : Chip) (g : Group) (k : CommitPt) :
    (c.replayGroup g k).drawn = c.drawn ∧ (c.replayGroup g k).drone = c.drone ∧ (c.replayGroup g k).power = c.power ∧
    (c.replayGroup g k).pins = c.pins ∧ (c.replayGroup g k).boot = c.boot ∧ (c.replayGroup g k).driver = c.driver ∧
    (c.replayGroup g k).pfn = c.pfn ∧ (c.replayGroup g k).vfn = c.vfn ∧ (c.replayGroup g k).tenants = c.tenants ∧
    (c.replayGroup g k).nparts = c.nparts ∧ (c.replayGroup g k).parts = c.parts ∧ (c.replayGroup g k).partPending = c.partPending ∧
    (c.replayGroup g k).placer = c.placer ∧ (c.replayGroup g k).scan = c.scan ∧ (c.replayGroup g k).sp = c.sp ∧
    (c.replayGroup g k).memObj = c.memObj ∧ (c.replayGroup g k).calPc = c.calPc ∧ (c.replayGroup g k).calDqs = c.calDqs ∧
    (c.replayGroup g k).calZq = c.calZq ∧ (c.replayGroup g k).calIsl = c.calIsl ∧ (c.replayGroup g k).limiter = c.limiter ∧
    (c.replayGroup g k).intc = c.intc ∧ (c.replayGroup g k).faults = c.faults ∧ (c.replayGroup g k).bore = c.bore ∧
    (c.replayGroup g k).attests = c.attests ∧ (c.replayGroup g k).mgmt = c.mgmt ∧ (c.replayGroup g k).gate = c.gate ∧
    (c.replayGroup g k).hatband = c.hatband ∧ (c.replayGroup g k).mram = c.mram ∧ (c.replayGroup g k).objs = c.objs ∧
    (c.replayGroup g k).readData = c.readData ∧ (∀ pp : Fin 4, (c.replayGroup g k).run pp = c.run pp) := by
  unfold Chip.replayGroup
  first
    | (simp [Chip.run]; done)
    | ((try dsimp only) <;> (repeat' split) <;> simp [Chip.run])

@[simp] theorem Chip.replayGroups_keeps (c : Chip) (t : Fin 16) (k : CommitPt) :
    (c.replayGroups t k).drawn = c.drawn ∧ (c.replayGroups t k).drone = c.drone ∧ (c.replayGroups t k).power = c.power ∧
    (c.replayGroups t k).pins = c.pins ∧ (c.replayGroups t k).boot = c.boot ∧ (c.replayGroups t k).driver = c.driver ∧
    (c.replayGroups t k).pfn = c.pfn ∧ (c.replayGroups t k).vfn = c.vfn ∧ (c.replayGroups t k).tenants = c.tenants ∧
    (c.replayGroups t k).nparts = c.nparts ∧ (c.replayGroups t k).parts = c.parts ∧ (c.replayGroups t k).partPending = c.partPending ∧
    (c.replayGroups t k).placer = c.placer ∧ (c.replayGroups t k).scan = c.scan ∧ (c.replayGroups t k).sp = c.sp ∧
    (c.replayGroups t k).memObj = c.memObj ∧ (c.replayGroups t k).calPc = c.calPc ∧ (c.replayGroups t k).calDqs = c.calDqs ∧
    (c.replayGroups t k).calZq = c.calZq ∧ (c.replayGroups t k).calIsl = c.calIsl ∧ (c.replayGroups t k).limiter = c.limiter ∧
    (c.replayGroups t k).intc = c.intc ∧ (c.replayGroups t k).faults = c.faults ∧ (c.replayGroups t k).bore = c.bore ∧
    (c.replayGroups t k).attests = c.attests ∧ (c.replayGroups t k).mgmt = c.mgmt ∧ (c.replayGroups t k).gate = c.gate ∧
    (c.replayGroups t k).hatband = c.hatband ∧ (c.replayGroups t k).mram = c.mram ∧ (c.replayGroups t k).objs = c.objs ∧
    (c.replayGroups t k).readData = c.readData ∧ (∀ pp : Fin 4, (c.replayGroups t k).run pp = c.run pp) := by
  unfold Chip.replayGroups
  first
    | (simp [Chip.run]; done)
    | ((try dsimp only) <;> (repeat' split) <;> simp [Chip.run])

@[simp] theorem Chip.resumeReports_keeps (c : Chip) (r : Running) (i : Interrupt) (commit : Stamp × W32) :
    (c.resumeReports r i commit).drawn = c.drawn ∧ (c.resumeReports r i commit).drone = c.drone ∧ (c.resumeReports r i commit).power = c.power ∧
    (c.resumeReports r i commit).pins = c.pins ∧ (c.resumeReports r i commit).boot = c.boot ∧ (c.resumeReports r i commit).driver = c.driver ∧
    (c.resumeReports r i commit).tenants = c.tenants ∧ (c.resumeReports r i commit).nparts = c.nparts ∧ (c.resumeReports r i commit).parts = c.parts ∧
    (c.resumeReports r i commit).partPending = c.partPending ∧ (c.resumeReports r i commit).placer = c.placer ∧ (c.resumeReports r i commit).scan = c.scan ∧
    (c.resumeReports r i commit).sp = c.sp ∧ (c.resumeReports r i commit).calPc = c.calPc ∧ (c.resumeReports r i commit).calDqs = c.calDqs ∧
    (c.resumeReports r i commit).calZq = c.calZq ∧ (c.resumeReports r i commit).calIsl = c.calIsl ∧ (c.resumeReports r i commit).limiter = c.limiter ∧
    (c.resumeReports r i commit).intc = c.intc ∧ (c.resumeReports r i commit).ports = c.ports ∧ (c.resumeReports r i commit).groups = c.groups ∧
    (c.resumeReports r i commit).bore = c.bore ∧ (c.resumeReports r i commit).attests = c.attests ∧ (c.resumeReports r i commit).mgmt = c.mgmt ∧
    (c.resumeReports r i commit).gate = c.gate ∧ (c.resumeReports r i commit).readData = c.readData ∧ (∀ pp : Fin 4, (c.resumeReports r i commit).run pp = c.run pp) := by
  unfold Chip.resumeReports
  first
    | (simp [Chip.run]; done)
    | ((try dsimp only) <;> (repeat' split) <;> simp [Chip.run])

@[simp] theorem Chip.limRec_keeps (c : Chip) (row unit : Nat) (value : W32) :
    (c.limRec row unit value).drawn = c.drawn ∧ (c.limRec row unit value).drone = c.drone ∧ (c.limRec row unit value).power = c.power ∧
    (c.limRec row unit value).pins = c.pins ∧ (c.limRec row unit value).boot = c.boot ∧ (c.limRec row unit value).driver = c.driver ∧
    (c.limRec row unit value).pfn = c.pfn ∧ (c.limRec row unit value).vfn = c.vfn ∧ (c.limRec row unit value).tenants = c.tenants ∧
    (c.limRec row unit value).nparts = c.nparts ∧ (c.limRec row unit value).parts = c.parts ∧ (c.limRec row unit value).partPending = c.partPending ∧
    (c.limRec row unit value).placer = c.placer ∧ (c.limRec row unit value).scan = c.scan ∧ (c.limRec row unit value).sp = c.sp ∧
    (c.limRec row unit value).memObj = c.memObj ∧ (c.limRec row unit value).calPc = c.calPc ∧ (c.limRec row unit value).calDqs = c.calDqs ∧
    (c.limRec row unit value).calZq = c.calZq ∧ (c.limRec row unit value).calIsl = c.calIsl ∧ (c.limRec row unit value).limiter = c.limiter ∧
    (c.limRec row unit value).intc = c.intc ∧ (c.limRec row unit value).faults = c.faults ∧ (c.limRec row unit value).ports = c.ports ∧
    (c.limRec row unit value).groups = c.groups ∧ (c.limRec row unit value).bore = c.bore ∧ (c.limRec row unit value).attests = c.attests ∧
    (c.limRec row unit value).mgmt = c.mgmt ∧ (c.limRec row unit value).gate = c.gate ∧ (c.limRec row unit value).objs = c.objs ∧
    (c.limRec row unit value).readData = c.readData ∧ (∀ pp : Fin 4, (c.limRec row unit value).run pp = c.run pp) := by
  unfold Chip.limRec
  first
    | (simp [Chip.run]; done)
    | ((try dsimp only) <;> (repeat' split) <;> simp [Chip.run])

@[simp] theorem Chip.enterEmergency_keeps (c : Chip) (row : LimRow) (unit : Nat) (value : W32) :
    (c.enterEmergency row unit value).drawn = c.drawn ∧ (c.enterEmergency row unit value).drone = c.drone ∧ (c.enterEmergency row unit value).power = c.power ∧
    (c.enterEmergency row unit value).driver = c.driver ∧ (c.enterEmergency row unit value).pfn = c.pfn ∧ (c.enterEmergency row unit value).vfn = c.vfn ∧
    (c.enterEmergency row unit value).tenants = c.tenants ∧ (c.enterEmergency row unit value).nparts = c.nparts ∧ (c.enterEmergency row unit value).parts = c.parts ∧
    (c.enterEmergency row unit value).partPending = c.partPending ∧ (c.enterEmergency row unit value).placer = c.placer ∧ (c.enterEmergency row unit value).scan = c.scan ∧
    (c.enterEmergency row unit value).sp = c.sp ∧ (c.enterEmergency row unit value).memObj = c.memObj ∧ (c.enterEmergency row unit value).calPc = c.calPc ∧
    (c.enterEmergency row unit value).calDqs = c.calDqs ∧ (c.enterEmergency row unit value).calZq = c.calZq ∧ (c.enterEmergency row unit value).calIsl = c.calIsl ∧
    (c.enterEmergency row unit value).faults = c.faults ∧ (c.enterEmergency row unit value).ports = c.ports ∧ (c.enterEmergency row unit value).groups = c.groups ∧
    (c.enterEmergency row unit value).bore = c.bore ∧ (c.enterEmergency row unit value).attests = c.attests ∧ (c.enterEmergency row unit value).mgmt = c.mgmt ∧
    (c.enterEmergency row unit value).gate = c.gate ∧ (c.enterEmergency row unit value).objs = c.objs ∧ (c.enterEmergency row unit value).readData = c.readData ∧
    (∀ pp : Fin 4, (c.enterEmergency row unit value).run pp = c.run pp) := by
  unfold Chip.enterEmergency
  first
    | (simp [Chip.run]; done)
    | ((try dsimp only) <;> (repeat' split) <;> simp [Chip.run])

@[simp] theorem Chip.tripsOut_keeps (c : Chip) (row : LimRow) (unit : Nat) (value : W32) :
    (c.tripsOut row unit value).drawn = c.drawn ∧ (c.tripsOut row unit value).drone = c.drone ∧ (c.tripsOut row unit value).power = c.power ∧
    (c.tripsOut row unit value).pins = c.pins ∧ (c.tripsOut row unit value).boot = c.boot ∧ (c.tripsOut row unit value).driver = c.driver ∧
    (c.tripsOut row unit value).pfn = c.pfn ∧ (c.tripsOut row unit value).vfn = c.vfn ∧ (c.tripsOut row unit value).tenants = c.tenants ∧
    (c.tripsOut row unit value).nparts = c.nparts ∧ (c.tripsOut row unit value).parts = c.parts ∧ (c.tripsOut row unit value).partPending = c.partPending ∧
    (c.tripsOut row unit value).placer = c.placer ∧ (c.tripsOut row unit value).scan = c.scan ∧ (c.tripsOut row unit value).sp = c.sp ∧
    (c.tripsOut row unit value).memObj = c.memObj ∧ (c.tripsOut row unit value).calPc = c.calPc ∧ (c.tripsOut row unit value).calDqs = c.calDqs ∧
    (c.tripsOut row unit value).calZq = c.calZq ∧ (c.tripsOut row unit value).calIsl = c.calIsl ∧ (c.tripsOut row unit value).faults = c.faults ∧
    (c.tripsOut row unit value).ports = c.ports ∧ (c.tripsOut row unit value).groups = c.groups ∧ (c.tripsOut row unit value).bore = c.bore ∧
    (c.tripsOut row unit value).attests = c.attests ∧ (c.tripsOut row unit value).mgmt = c.mgmt ∧ (c.tripsOut row unit value).gate = c.gate ∧
    (c.tripsOut row unit value).objs = c.objs ∧ (c.tripsOut row unit value).readData = c.readData ∧
    (∀ pp : Fin 4, (c.tripsOut row unit value).run pp = c.run pp) := by
  unfold Chip.tripsOut
  split <;> simp [Chip.run]

@[simp] theorem Chip.calEntry_keeps (c : Chip) (unit : W32) (guarded : Bool) :
    (c.calEntry unit guarded).drawn = c.drawn ∧ (c.calEntry unit guarded).drone = c.drone ∧ (c.calEntry unit guarded).power = c.power ∧
    (c.calEntry unit guarded).pins = c.pins ∧ (c.calEntry unit guarded).boot = c.boot ∧ (c.calEntry unit guarded).driver = c.driver ∧
    (c.calEntry unit guarded).tenants = c.tenants ∧ (c.calEntry unit guarded).nparts = c.nparts ∧ (c.calEntry unit guarded).parts = c.parts ∧
    (c.calEntry unit guarded).partPending = c.partPending ∧ (c.calEntry unit guarded).placer = c.placer ∧ (c.calEntry unit guarded).scan = c.scan ∧
    (c.calEntry unit guarded).sp = c.sp ∧ (c.calEntry unit guarded).memObj = c.memObj ∧ (c.calEntry unit guarded).calPc = c.calPc ∧
    (c.calEntry unit guarded).calDqs = c.calDqs ∧ (c.calEntry unit guarded).calZq = c.calZq ∧ (c.calEntry unit guarded).calIsl = c.calIsl ∧
    (c.calEntry unit guarded).limiter = c.limiter ∧ (c.calEntry unit guarded).faults = c.faults ∧ (c.calEntry unit guarded).ports = c.ports ∧
    (c.calEntry unit guarded).groups = c.groups ∧ (c.calEntry unit guarded).bore = c.bore ∧ (c.calEntry unit guarded).attests = c.attests ∧
    (c.calEntry unit guarded).mgmt = c.mgmt ∧ (c.calEntry unit guarded).gate = c.gate ∧ (c.calEntry unit guarded).hatband = c.hatband ∧
    (c.calEntry unit guarded).mram = c.mram ∧ (c.calEntry unit guarded).readData = c.readData ∧ (∀ pp : Fin 4, (c.calEntry unit guarded).run pp = c.run pp) := by
  unfold Chip.calEntry
  first
    | (simp [Chip.run]; done)
    | ((try dsimp only) <;> (repeat' split) <;> simp [Chip.run])

@[simp] theorem Chip.testPassed_keeps (c : Chip) (t : Fin 68) :
    (c.testPassed t).drawn = c.drawn ∧ (c.testPassed t).drone = c.drone ∧ (c.testPassed t).power = c.power ∧
    (c.testPassed t).pins = c.pins ∧ (c.testPassed t).boot = c.boot ∧ (c.testPassed t).driver = c.driver ∧
    (c.testPassed t).pfn = c.pfn ∧ (c.testPassed t).vfn = c.vfn ∧ (c.testPassed t).tenants = c.tenants ∧
    (c.testPassed t).nparts = c.nparts ∧ (c.testPassed t).parts = c.parts ∧ (c.testPassed t).partPending = c.partPending ∧
    (c.testPassed t).placer = c.placer ∧ (c.testPassed t).scan = c.scan ∧ (c.testPassed t).memObj = c.memObj ∧
    (c.testPassed t).calPc = c.calPc ∧ (c.testPassed t).calDqs = c.calDqs ∧ (c.testPassed t).calZq = c.calZq ∧
    (c.testPassed t).calIsl = c.calIsl ∧ (c.testPassed t).limiter = c.limiter ∧ (c.testPassed t).intc = c.intc ∧
    (c.testPassed t).faults = c.faults ∧ (c.testPassed t).ports = c.ports ∧ (c.testPassed t).groups = c.groups ∧
    (c.testPassed t).bore = c.bore ∧ (c.testPassed t).attests = c.attests ∧ (c.testPassed t).mgmt = c.mgmt ∧
    (c.testPassed t).gate = c.gate ∧ (c.testPassed t).hatband = c.hatband ∧ (c.testPassed t).mram = c.mram ∧
    (c.testPassed t).objs = c.objs ∧ (c.testPassed t).readData = c.readData ∧ (∀ pp : Fin 4, (c.testPassed t).run pp = c.run pp) := by
  unfold Chip.testPassed
  first
    | (simp [Chip.run]; done)
    | ((try dsimp only) <;> (repeat' split) <;> simp [Chip.run])

@[simp] theorem Chip.guarded_keeps (c : Chip) (unit : Nat) :
    (c.guarded unit).drawn = c.drawn ∧ (c.guarded unit).drone = c.drone ∧ (c.guarded unit).power = c.power ∧
    (c.guarded unit).pins = c.pins ∧ (c.guarded unit).boot = c.boot ∧ (c.guarded unit).driver = c.driver ∧
    (c.guarded unit).tenants = c.tenants ∧ (c.guarded unit).nparts = c.nparts ∧ (c.guarded unit).parts = c.parts ∧
    (c.guarded unit).partPending = c.partPending ∧ (c.guarded unit).placer = c.placer ∧ (c.guarded unit).calPc = c.calPc ∧
    (c.guarded unit).calDqs = c.calDqs ∧ (c.guarded unit).calZq = c.calZq ∧ (c.guarded unit).calIsl = c.calIsl ∧
    (c.guarded unit).limiter = c.limiter ∧ (c.guarded unit).faults = c.faults ∧ (c.guarded unit).ports = c.ports ∧
    (c.guarded unit).groups = c.groups ∧ (c.guarded unit).bore = c.bore ∧ (c.guarded unit).attests = c.attests ∧
    (c.guarded unit).mgmt = c.mgmt ∧ (c.guarded unit).gate = c.gate ∧ (c.guarded unit).hatband = c.hatband ∧
    (c.guarded unit).mram = c.mram ∧ (c.guarded unit).readData = c.readData ∧ (∀ pp : Fin 4, (c.guarded unit).run pp = c.run pp) := by
  unfold Chip.guarded
  first
    | (simp [Chip.run]; done)
    | ((try dsimp only) <;> (repeat' split) <;> simp [Chip.run])

@[simp] theorem Chip.sweepOn_keeps (c : Chip) (t1 : Bool) (u : Nat) :
    (c.sweepOn t1 u).drawn = c.drawn ∧ (c.sweepOn t1 u).drone = c.drone ∧ (c.sweepOn t1 u).power = c.power ∧
    (c.sweepOn t1 u).pins = c.pins ∧ (c.sweepOn t1 u).boot = c.boot ∧ (c.sweepOn t1 u).driver = c.driver ∧
    (c.sweepOn t1 u).pfn = c.pfn ∧ (c.sweepOn t1 u).vfn = c.vfn ∧ (c.sweepOn t1 u).tenants = c.tenants ∧
    (c.sweepOn t1 u).nparts = c.nparts ∧ (c.sweepOn t1 u).parts = c.parts ∧ (c.sweepOn t1 u).partPending = c.partPending ∧
    (c.sweepOn t1 u).placer = c.placer ∧ (c.sweepOn t1 u).scan = c.scan ∧ (c.sweepOn t1 u).sp = c.sp ∧
    (c.sweepOn t1 u).calPc = c.calPc ∧ (c.sweepOn t1 u).calDqs = c.calDqs ∧ (c.sweepOn t1 u).calZq = c.calZq ∧
    (c.sweepOn t1 u).calIsl = c.calIsl ∧ (c.sweepOn t1 u).limiter = c.limiter ∧ (c.sweepOn t1 u).intc = c.intc ∧
    (c.sweepOn t1 u).faults = c.faults ∧ (c.sweepOn t1 u).ports = c.ports ∧ (c.sweepOn t1 u).groups = c.groups ∧
    (c.sweepOn t1 u).bore = c.bore ∧ (c.sweepOn t1 u).attests = c.attests ∧ (c.sweepOn t1 u).mgmt = c.mgmt ∧
    (c.sweepOn t1 u).gate = c.gate ∧ (c.sweepOn t1 u).hatband = c.hatband ∧ (c.sweepOn t1 u).mram = c.mram ∧
    (c.sweepOn t1 u).objs = c.objs ∧ (c.sweepOn t1 u).readData = c.readData ∧ (∀ pp : Fin 4, (c.sweepOn t1 u).run pp = c.run pp) := by
  unfold Chip.sweepOn
  first
    | (simp [Chip.run]; done)
    | ((try dsimp only) <;> (repeat' split) <;> simp [Chip.run])

@[simp] theorem Chip.setPort_keeps (c : Chip) (p : Fin 16) (st : PortState) (status : W16) :
    (c.setPort p st status).drawn = c.drawn ∧ (c.setPort p st status).drone = c.drone ∧ (c.setPort p st status).power = c.power ∧
    (c.setPort p st status).pins = c.pins ∧ (c.setPort p st status).boot = c.boot ∧ (c.setPort p st status).driver = c.driver ∧
    (c.setPort p st status).tenants = c.tenants ∧ (c.setPort p st status).nparts = c.nparts ∧ (c.setPort p st status).parts = c.parts ∧
    (c.setPort p st status).partPending = c.partPending ∧ (c.setPort p st status).placer = c.placer ∧ (c.setPort p st status).scan = c.scan ∧
    (c.setPort p st status).sp = c.sp ∧ (c.setPort p st status).memObj = c.memObj ∧ (c.setPort p st status).calPc = c.calPc ∧
    (c.setPort p st status).calDqs = c.calDqs ∧ (c.setPort p st status).calZq = c.calZq ∧ (c.setPort p st status).calIsl = c.calIsl ∧
    (c.setPort p st status).limiter = c.limiter ∧ (c.setPort p st status).faults = c.faults ∧ (c.setPort p st status).groups = c.groups ∧
    (c.setPort p st status).bore = c.bore ∧ (c.setPort p st status).attests = c.attests ∧ (c.setPort p st status).mgmt = c.mgmt ∧
    (c.setPort p st status).gate = c.gate ∧ (c.setPort p st status).hatband = c.hatband ∧ (c.setPort p st status).mram = c.mram ∧
    (c.setPort p st status).readData = c.readData ∧ (∀ pp : Fin 4, (c.setPort p st status).run pp = c.run pp) := by
  unfold Chip.setPort
  first
    | (simp [Chip.run]; done)
    | ((try dsimp only) <;> (repeat' split) <;> simp [Chip.run])

@[simp] theorem Chip.unlink_keeps (c : Chip) (p : Fin 16) (st : PortState) (closed : Bool) :
    (c.unlink p st closed).drawn = c.drawn ∧ (c.unlink p st closed).power = c.power ∧ (c.unlink p st closed).pins = c.pins ∧
    (c.unlink p st closed).boot = c.boot ∧ (c.unlink p st closed).driver = c.driver ∧ (c.unlink p st closed).tenants = c.tenants ∧
    (c.unlink p st closed).nparts = c.nparts ∧ (c.unlink p st closed).parts = c.parts ∧ (c.unlink p st closed).partPending = c.partPending ∧
    (c.unlink p st closed).placer = c.placer ∧ (c.unlink p st closed).scan = c.scan ∧ (c.unlink p st closed).sp = c.sp ∧
    (c.unlink p st closed).memObj = c.memObj ∧ (c.unlink p st closed).calPc = c.calPc ∧ (c.unlink p st closed).calDqs = c.calDqs ∧
    (c.unlink p st closed).calZq = c.calZq ∧ (c.unlink p st closed).calIsl = c.calIsl ∧ (c.unlink p st closed).limiter = c.limiter ∧
    (c.unlink p st closed).faults = c.faults ∧ (c.unlink p st closed).groups = c.groups ∧ (c.unlink p st closed).bore = c.bore ∧
    (c.unlink p st closed).attests = c.attests ∧ (c.unlink p st closed).mgmt = c.mgmt ∧ (c.unlink p st closed).gate = c.gate ∧
    (c.unlink p st closed).hatband = c.hatband ∧ (c.unlink p st closed).mram = c.mram ∧ (c.unlink p st closed).readData = c.readData ∧
    (∀ pp : Fin 4, (c.unlink p st closed).run pp = c.run pp) := by
  unfold Chip.unlink
  first
    | (simp [Chip.run]; done)
    | ((try dsimp only) <;> (repeat' split) <;> simp [Chip.run])

@[simp] theorem Chip.moveFrames_keeps (c : Chip) (p : Fin 16) :
    (c.moveFrames p).drawn = c.drawn ∧ (c.moveFrames p).drone = c.drone ∧ (c.moveFrames p).power = c.power ∧
    (c.moveFrames p).pins = c.pins ∧ (c.moveFrames p).boot = c.boot ∧ (c.moveFrames p).driver = c.driver ∧
    (c.moveFrames p).pfn = c.pfn ∧ (c.moveFrames p).vfn = c.vfn ∧ (c.moveFrames p).tenants = c.tenants ∧
    (c.moveFrames p).nparts = c.nparts ∧ (c.moveFrames p).parts = c.parts ∧ (c.moveFrames p).partPending = c.partPending ∧
    (c.moveFrames p).placer = c.placer ∧ (c.moveFrames p).scan = c.scan ∧ (c.moveFrames p).sp = c.sp ∧
    (c.moveFrames p).memObj = c.memObj ∧ (c.moveFrames p).calPc = c.calPc ∧ (c.moveFrames p).calDqs = c.calDqs ∧
    (c.moveFrames p).calZq = c.calZq ∧ (c.moveFrames p).calIsl = c.calIsl ∧ (c.moveFrames p).limiter = c.limiter ∧
    (c.moveFrames p).intc = c.intc ∧ (c.moveFrames p).faults = c.faults ∧ (c.moveFrames p).groups = c.groups ∧
    (c.moveFrames p).bore = c.bore ∧ (c.moveFrames p).attests = c.attests ∧ (c.moveFrames p).mgmt = c.mgmt ∧
    (c.moveFrames p).gate = c.gate ∧ (c.moveFrames p).hatband = c.hatband ∧ (c.moveFrames p).mram = c.mram ∧
    (c.moveFrames p).objs = c.objs ∧ (c.moveFrames p).readData = c.readData ∧ (∀ pp : Fin 4, (c.moveFrames p).run pp = c.run pp) := by
  unfold Chip.moveFrames
  (try dsimp only [Chip.draw256]); and_intros
  · repeat' (first | (simp [Chip.run, Chip.draw256]; done) | intro _ | with_reducible refine (foldl_drawn ?_ _ _).trans ?_ | simp | split)
  · repeat' (first | (simp [Chip.run, Chip.draw256]; done) | intro _ | with_reducible refine (foldl_drone ?_ _ _).trans ?_ | simp | split)
  · repeat' (first | (simp [Chip.run, Chip.draw256]; done) | intro _ | with_reducible refine (foldl_power ?_ _ _).trans ?_ | simp | split)
  · repeat' (first | (simp [Chip.run, Chip.draw256]; done) | intro _ | with_reducible refine (foldl_pins ?_ _ _).trans ?_ | simp | split)
  · repeat' (first | (simp [Chip.run, Chip.draw256]; done) | intro _ | with_reducible refine (foldl_boot ?_ _ _).trans ?_ | simp | split)
  · repeat' (first | (simp [Chip.run, Chip.draw256]; done) | intro _ | with_reducible refine (foldl_driver ?_ _ _).trans ?_ | simp | split)
  · repeat' (first | (simp [Chip.run, Chip.draw256]; done) | intro _ | with_reducible refine (foldl_pfn ?_ _ _).trans ?_ | simp | split)
  · repeat' (first | (simp [Chip.run, Chip.draw256]; done) | intro _ | with_reducible refine (foldl_vfn ?_ _ _).trans ?_ | simp | split)
  · repeat' (first | (simp [Chip.run, Chip.draw256]; done) | intro _ | with_reducible refine (foldl_tenants ?_ _ _).trans ?_ | simp | split)
  · repeat' (first | (simp [Chip.run, Chip.draw256]; done) | intro _ | with_reducible refine (foldl_nparts ?_ _ _).trans ?_ | simp | split)
  · repeat' (first | (simp [Chip.run, Chip.draw256]; done) | intro _ | with_reducible refine (foldl_parts ?_ _ _).trans ?_ | simp | split)
  · repeat' (first | (simp [Chip.run, Chip.draw256]; done) | intro _ | with_reducible refine (foldl_partPending ?_ _ _).trans ?_ | simp | split)
  · repeat' (first | (simp [Chip.run, Chip.draw256]; done) | intro _ | with_reducible refine (foldl_placer ?_ _ _).trans ?_ | simp | split)
  · repeat' (first | (simp [Chip.run, Chip.draw256]; done) | intro _ | with_reducible refine (foldl_scan ?_ _ _).trans ?_ | simp | split)
  · repeat' (first | (simp [Chip.run, Chip.draw256]; done) | intro _ | with_reducible refine (foldl_sp ?_ _ _).trans ?_ | simp | split)
  · repeat' (first | (simp [Chip.run, Chip.draw256]; done) | intro _ | with_reducible refine (foldl_memObj ?_ _ _).trans ?_ | simp | split)
  · repeat' (first | (simp [Chip.run, Chip.draw256]; done) | intro _ | with_reducible refine (foldl_calPc ?_ _ _).trans ?_ | simp | split)
  · repeat' (first | (simp [Chip.run, Chip.draw256]; done) | intro _ | with_reducible refine (foldl_calDqs ?_ _ _).trans ?_ | simp | split)
  · repeat' (first | (simp [Chip.run, Chip.draw256]; done) | intro _ | with_reducible refine (foldl_calZq ?_ _ _).trans ?_ | simp | split)
  · repeat' (first | (simp [Chip.run, Chip.draw256]; done) | intro _ | with_reducible refine (foldl_calIsl ?_ _ _).trans ?_ | simp | split)
  · repeat' (first | (simp [Chip.run, Chip.draw256]; done) | intro _ | with_reducible refine (foldl_limiter ?_ _ _).trans ?_ | simp | split)
  · repeat' (first | (simp [Chip.run, Chip.draw256]; done) | intro _ | with_reducible refine (foldl_intc ?_ _ _).trans ?_ | simp | split)
  · repeat' (first | (simp [Chip.run, Chip.draw256]; done) | intro _ | with_reducible refine (foldl_faults ?_ _ _).trans ?_ | simp | split)
  · repeat' (first | (simp [Chip.run, Chip.draw256]; done) | intro _ | with_reducible refine (foldl_groups ?_ _ _).trans ?_ | simp | split)
  · repeat' (first | (simp [Chip.run, Chip.draw256]; done) | intro _ | with_reducible refine (foldl_bore ?_ _ _).trans ?_ | simp | split)
  · repeat' (first | (simp [Chip.run, Chip.draw256]; done) | intro _ | with_reducible refine (foldl_attests ?_ _ _).trans ?_ | simp | split)
  · repeat' (first | (simp [Chip.run, Chip.draw256]; done) | intro _ | with_reducible refine (foldl_mgmt ?_ _ _).trans ?_ | simp | split)
  · repeat' (first | (simp [Chip.run, Chip.draw256]; done) | intro _ | with_reducible refine (foldl_gate ?_ _ _).trans ?_ | simp | split)
  · repeat' (first | (simp [Chip.run, Chip.draw256]; done) | intro _ | with_reducible refine (foldl_hatband ?_ _ _).trans ?_ | simp | split)
  · repeat' (first | (simp [Chip.run, Chip.draw256]; done) | intro _ | with_reducible refine (foldl_mram ?_ _ _).trans ?_ | simp | split)
  · repeat' (first | (simp [Chip.run, Chip.draw256]; done) | intro _ | with_reducible refine (foldl_objs ?_ _ _).trans ?_ | simp | split)
  · repeat' (first | (simp [Chip.run, Chip.draw256]; done) | intro _ | with_reducible refine (foldl_readData ?_ _ _).trans ?_ | simp | split)
  · intro pp; refine congrArg (fun v : Vector Part 4 => v[pp].run) ?_; repeat' (first | (simp [Chip.run, Chip.draw256]; done) | intro _ | with_reducible refine (foldl_parts ?_ _ _).trans ?_ | simp | split)

@[simp] theorem Chip.dropDead_keeps (c : Chip) :
    (c.dropDead).drawn = c.drawn ∧ (c.dropDead).drone = c.drone ∧ (c.dropDead).power = c.power ∧
    (c.dropDead).pins = c.pins ∧ (c.dropDead).boot = c.boot ∧ (c.dropDead).driver = c.driver ∧
    (c.dropDead).pfn = c.pfn ∧ (c.dropDead).vfn = c.vfn ∧ (c.dropDead).tenants = c.tenants ∧
    (c.dropDead).nparts = c.nparts ∧ (c.dropDead).parts = c.parts ∧ (c.dropDead).partPending = c.partPending ∧
    (c.dropDead).placer = c.placer ∧ (c.dropDead).scan = c.scan ∧ (c.dropDead).sp = c.sp ∧
    (c.dropDead).memObj = c.memObj ∧ (c.dropDead).calPc = c.calPc ∧ (c.dropDead).calDqs = c.calDqs ∧
    (c.dropDead).calZq = c.calZq ∧ (c.dropDead).calIsl = c.calIsl ∧ (c.dropDead).limiter = c.limiter ∧
    (c.dropDead).intc = c.intc ∧ (c.dropDead).faults = c.faults ∧ (c.dropDead).groups = c.groups ∧
    (c.dropDead).bore = c.bore ∧ (c.dropDead).attests = c.attests ∧ (c.dropDead).mgmt = c.mgmt ∧
    (c.dropDead).gate = c.gate ∧ (c.dropDead).hatband = c.hatband ∧ (c.dropDead).mram = c.mram ∧
    (c.dropDead).objs = c.objs ∧ (c.dropDead).readData = c.readData ∧ (∀ pp : Fin 4, (c.dropDead).run pp = c.run pp) := by
  unfold Chip.dropDead
  first
    | (simp [Chip.run]; done)
    | ((try dsimp only) <;> (repeat' split) <;> simp [Chip.run])

@[simp] theorem Chip.portGone_keeps (c : Chip) (p : Fin 16) (closed : Bool) :
    (c.portGone p closed).drawn = c.drawn ∧ (c.portGone p closed).power = c.power ∧ (c.portGone p closed).pins = c.pins ∧
    (c.portGone p closed).boot = c.boot ∧ (c.portGone p closed).driver = c.driver ∧ (c.portGone p closed).tenants = c.tenants ∧
    (c.portGone p closed).nparts = c.nparts ∧ (c.portGone p closed).parts = c.parts ∧ (c.portGone p closed).partPending = c.partPending ∧
    (c.portGone p closed).placer = c.placer ∧ (c.portGone p closed).scan = c.scan ∧ (c.portGone p closed).sp = c.sp ∧
    (c.portGone p closed).memObj = c.memObj ∧ (c.portGone p closed).calPc = c.calPc ∧ (c.portGone p closed).calDqs = c.calDqs ∧
    (c.portGone p closed).calZq = c.calZq ∧ (c.portGone p closed).calIsl = c.calIsl ∧ (c.portGone p closed).limiter = c.limiter ∧
    (c.portGone p closed).faults = c.faults ∧ (c.portGone p closed).groups = c.groups ∧ (c.portGone p closed).bore = c.bore ∧
    (c.portGone p closed).attests = c.attests ∧ (c.portGone p closed).mgmt = c.mgmt ∧ (c.portGone p closed).gate = c.gate ∧
    (c.portGone p closed).hatband = c.hatband ∧ (c.portGone p closed).mram = c.mram ∧ (c.portGone p closed).readData = c.readData ∧
    (∀ pp : Fin 4, (c.portGone p closed).run pp = c.run pp) := by
  unfold Chip.portGone
  (try dsimp only [Chip.draw256]); and_intros
  · repeat' (first | (simp [Chip.run, Chip.draw256]; done) | intro _ | with_reducible refine (foldl_drawn ?_ _ _).trans ?_ | simp | split)
  · repeat' (first | (simp [Chip.run, Chip.draw256]; done) | intro _ | with_reducible refine (foldl_power ?_ _ _).trans ?_ | simp | split)
  · repeat' (first | (simp [Chip.run, Chip.draw256]; done) | intro _ | with_reducible refine (foldl_pins ?_ _ _).trans ?_ | simp | split)
  · repeat' (first | (simp [Chip.run, Chip.draw256]; done) | intro _ | with_reducible refine (foldl_boot ?_ _ _).trans ?_ | simp | split)
  · repeat' (first | (simp [Chip.run, Chip.draw256]; done) | intro _ | with_reducible refine (foldl_driver ?_ _ _).trans ?_ | simp | split)
  · repeat' (first | (simp [Chip.run, Chip.draw256]; done) | intro _ | with_reducible refine (foldl_tenants ?_ _ _).trans ?_ | simp | split)
  · repeat' (first | (simp [Chip.run, Chip.draw256]; done) | intro _ | with_reducible refine (foldl_nparts ?_ _ _).trans ?_ | simp | split)
  · repeat' (first | (simp [Chip.run, Chip.draw256]; done) | intro _ | with_reducible refine (foldl_parts ?_ _ _).trans ?_ | simp | split)
  · repeat' (first | (simp [Chip.run, Chip.draw256]; done) | intro _ | with_reducible refine (foldl_partPending ?_ _ _).trans ?_ | simp | split)
  · repeat' (first | (simp [Chip.run, Chip.draw256]; done) | intro _ | with_reducible refine (foldl_placer ?_ _ _).trans ?_ | simp | split)
  · repeat' (first | (simp [Chip.run, Chip.draw256]; done) | intro _ | with_reducible refine (foldl_scan ?_ _ _).trans ?_ | simp | split)
  · repeat' (first | (simp [Chip.run, Chip.draw256]; done) | intro _ | with_reducible refine (foldl_sp ?_ _ _).trans ?_ | simp | split)
  · repeat' (first | (simp [Chip.run, Chip.draw256]; done) | intro _ | with_reducible refine (foldl_memObj ?_ _ _).trans ?_ | simp | split)
  · repeat' (first | (simp [Chip.run, Chip.draw256]; done) | intro _ | with_reducible refine (foldl_calPc ?_ _ _).trans ?_ | simp | split)
  · repeat' (first | (simp [Chip.run, Chip.draw256]; done) | intro _ | with_reducible refine (foldl_calDqs ?_ _ _).trans ?_ | simp | split)
  · repeat' (first | (simp [Chip.run, Chip.draw256]; done) | intro _ | with_reducible refine (foldl_calZq ?_ _ _).trans ?_ | simp | split)
  · repeat' (first | (simp [Chip.run, Chip.draw256]; done) | intro _ | with_reducible refine (foldl_calIsl ?_ _ _).trans ?_ | simp | split)
  · repeat' (first | (simp [Chip.run, Chip.draw256]; done) | intro _ | with_reducible refine (foldl_limiter ?_ _ _).trans ?_ | simp | split)
  · repeat' (first | (simp [Chip.run, Chip.draw256]; done) | intro _ | with_reducible refine (foldl_faults ?_ _ _).trans ?_ | simp | split)
  · repeat' (first | (simp [Chip.run, Chip.draw256]; done) | intro _ | with_reducible refine (foldl_groups ?_ _ _).trans ?_ | simp | split)
  · repeat' (first | (simp [Chip.run, Chip.draw256]; done) | intro _ | with_reducible refine (foldl_bore ?_ _ _).trans ?_ | simp | split)
  · repeat' (first | (simp [Chip.run, Chip.draw256]; done) | intro _ | with_reducible refine (foldl_attests ?_ _ _).trans ?_ | simp | split)
  · repeat' (first | (simp [Chip.run, Chip.draw256]; done) | intro _ | with_reducible refine (foldl_mgmt ?_ _ _).trans ?_ | simp | split)
  · repeat' (first | (simp [Chip.run, Chip.draw256]; done) | intro _ | with_reducible refine (foldl_gate ?_ _ _).trans ?_ | simp | split)
  · repeat' (first | (simp [Chip.run, Chip.draw256]; done) | intro _ | with_reducible refine (foldl_hatband ?_ _ _).trans ?_ | simp | split)
  · repeat' (first | (simp [Chip.run, Chip.draw256]; done) | intro _ | with_reducible refine (foldl_mram ?_ _ _).trans ?_ | simp | split)
  · repeat' (first | (simp [Chip.run, Chip.draw256]; done) | intro _ | with_reducible refine (foldl_readData ?_ _ _).trans ?_ | simp | split)
  · intro pp; refine congrArg (fun v : Vector Part 4 => v[pp].run) ?_; repeat' (first | (simp [Chip.run, Chip.draw256]; done) | intro _ | with_reducible refine (foldl_parts ?_ _ _).trans ?_ | simp | split)

@[simp] theorem Chip.takeAck_keeps (c : Chip) (p : Fin 16) (h : BoreHdr) :
    (c.takeAck p h).drawn = c.drawn ∧ (c.takeAck p h).drone = c.drone ∧ (c.takeAck p h).power = c.power ∧
    (c.takeAck p h).pins = c.pins ∧ (c.takeAck p h).boot = c.boot ∧ (c.takeAck p h).driver = c.driver ∧
    (c.takeAck p h).pfn = c.pfn ∧ (c.takeAck p h).vfn = c.vfn ∧ (c.takeAck p h).tenants = c.tenants ∧
    (c.takeAck p h).nparts = c.nparts ∧ (c.takeAck p h).parts = c.parts ∧ (c.takeAck p h).partPending = c.partPending ∧
    (c.takeAck p h).placer = c.placer ∧ (c.takeAck p h).scan = c.scan ∧ (c.takeAck p h).sp = c.sp ∧
    (c.takeAck p h).memObj = c.memObj ∧ (c.takeAck p h).calPc = c.calPc ∧ (c.takeAck p h).calDqs = c.calDqs ∧
    (c.takeAck p h).calZq = c.calZq ∧ (c.takeAck p h).calIsl = c.calIsl ∧ (c.takeAck p h).limiter = c.limiter ∧
    (c.takeAck p h).intc = c.intc ∧ (c.takeAck p h).faults = c.faults ∧ (c.takeAck p h).groups = c.groups ∧
    (c.takeAck p h).bore = c.bore ∧ (c.takeAck p h).attests = c.attests ∧ (c.takeAck p h).mgmt = c.mgmt ∧
    (c.takeAck p h).gate = c.gate ∧ (c.takeAck p h).hatband = c.hatband ∧ (c.takeAck p h).mram = c.mram ∧
    (c.takeAck p h).objs = c.objs ∧ (c.takeAck p h).readData = c.readData ∧ (∀ pp : Fin 4, (c.takeAck p h).run pp = c.run pp) := by
  unfold Chip.takeAck
  first
    | (simp [Chip.run]; done)
    | ((try dsimp only) <;> (repeat' split) <;> simp [Chip.run])

@[simp] theorem Chip.takeData_keeps (c : Chip) (p : Fin 16) (f : DataFrame) :
    (c.takeData p f).drawn = c.drawn ∧ (c.takeData p f).drone = c.drone ∧ (c.takeData p f).power = c.power ∧
    (c.takeData p f).pins = c.pins ∧ (c.takeData p f).boot = c.boot ∧ (c.takeData p f).driver = c.driver ∧
    (c.takeData p f).pfn = c.pfn ∧ (c.takeData p f).vfn = c.vfn ∧ (c.takeData p f).tenants = c.tenants ∧
    (c.takeData p f).nparts = c.nparts ∧ (c.takeData p f).parts = c.parts ∧ (c.takeData p f).partPending = c.partPending ∧
    (c.takeData p f).placer = c.placer ∧ (c.takeData p f).scan = c.scan ∧ (c.takeData p f).sp = c.sp ∧
    (c.takeData p f).memObj = c.memObj ∧ (c.takeData p f).calPc = c.calPc ∧ (c.takeData p f).calDqs = c.calDqs ∧
    (c.takeData p f).calZq = c.calZq ∧ (c.takeData p f).calIsl = c.calIsl ∧ (c.takeData p f).limiter = c.limiter ∧
    (c.takeData p f).intc = c.intc ∧ (c.takeData p f).faults = c.faults ∧ (c.takeData p f).groups = c.groups ∧
    (c.takeData p f).bore = c.bore ∧ (c.takeData p f).attests = c.attests ∧ (c.takeData p f).mgmt = c.mgmt ∧
    (c.takeData p f).gate = c.gate ∧ (c.takeData p f).hatband = c.hatband ∧ (c.takeData p f).mram = c.mram ∧
    (c.takeData p f).objs = c.objs ∧ (c.takeData p f).readData = c.readData ∧ (∀ pp : Fin 4, (c.takeData p f).run pp = c.run pp) := by
  unfold Chip.takeData
  first
    | (simp [Chip.run]; done)
    | ((try dsimp only) <;> (repeat' split) <;> simp [Chip.run])

@[simp] theorem Chip.portEnable_keeps (c : Chip) (p : Fin 16) (en : Bool) :
    (c.portEnable p en).drawn = c.drawn ∧ (c.portEnable p en).power = c.power ∧ (c.portEnable p en).pins = c.pins ∧
    (c.portEnable p en).boot = c.boot ∧ (c.portEnable p en).driver = c.driver ∧ (c.portEnable p en).tenants = c.tenants ∧
    (c.portEnable p en).nparts = c.nparts ∧ (c.portEnable p en).parts = c.parts ∧ (c.portEnable p en).partPending = c.partPending ∧
    (c.portEnable p en).placer = c.placer ∧ (c.portEnable p en).scan = c.scan ∧ (c.portEnable p en).sp = c.sp ∧
    (c.portEnable p en).memObj = c.memObj ∧ (c.portEnable p en).calPc = c.calPc ∧ (c.portEnable p en).calDqs = c.calDqs ∧
    (c.portEnable p en).calZq = c.calZq ∧ (c.portEnable p en).calIsl = c.calIsl ∧ (c.portEnable p en).limiter = c.limiter ∧
    (c.portEnable p en).faults = c.faults ∧ (c.portEnable p en).groups = c.groups ∧ (c.portEnable p en).bore = c.bore ∧
    (c.portEnable p en).attests = c.attests ∧ (c.portEnable p en).mgmt = c.mgmt ∧ (c.portEnable p en).gate = c.gate ∧
    (c.portEnable p en).hatband = c.hatband ∧ (c.portEnable p en).mram = c.mram ∧ (c.portEnable p en).readData = c.readData ∧
    (∀ pp : Fin 4, (c.portEnable p en).run pp = c.run pp) := by
  unfold Chip.portEnable
  (try dsimp only [Chip.draw256]); and_intros
  · repeat' (first | (simp [Chip.run, Chip.draw256]; done) | intro _ | with_reducible refine (foldl_drawn ?_ _ _).trans ?_ | simp | split)
  · repeat' (first | (simp [Chip.run, Chip.draw256]; done) | intro _ | with_reducible refine (foldl_power ?_ _ _).trans ?_ | simp | split)
  · repeat' (first | (simp [Chip.run, Chip.draw256]; done) | intro _ | with_reducible refine (foldl_pins ?_ _ _).trans ?_ | simp | split)
  · repeat' (first | (simp [Chip.run, Chip.draw256]; done) | intro _ | with_reducible refine (foldl_boot ?_ _ _).trans ?_ | simp | split)
  · repeat' (first | (simp [Chip.run, Chip.draw256]; done) | intro _ | with_reducible refine (foldl_driver ?_ _ _).trans ?_ | simp | split)
  · repeat' (first | (simp [Chip.run, Chip.draw256]; done) | intro _ | with_reducible refine (foldl_tenants ?_ _ _).trans ?_ | simp | split)
  · repeat' (first | (simp [Chip.run, Chip.draw256]; done) | intro _ | with_reducible refine (foldl_nparts ?_ _ _).trans ?_ | simp | split)
  · repeat' (first | (simp [Chip.run, Chip.draw256]; done) | intro _ | with_reducible refine (foldl_parts ?_ _ _).trans ?_ | simp | split)
  · repeat' (first | (simp [Chip.run, Chip.draw256]; done) | intro _ | with_reducible refine (foldl_partPending ?_ _ _).trans ?_ | simp | split)
  · repeat' (first | (simp [Chip.run, Chip.draw256]; done) | intro _ | with_reducible refine (foldl_placer ?_ _ _).trans ?_ | simp | split)
  · repeat' (first | (simp [Chip.run, Chip.draw256]; done) | intro _ | with_reducible refine (foldl_scan ?_ _ _).trans ?_ | simp | split)
  · repeat' (first | (simp [Chip.run, Chip.draw256]; done) | intro _ | with_reducible refine (foldl_sp ?_ _ _).trans ?_ | simp | split)
  · repeat' (first | (simp [Chip.run, Chip.draw256]; done) | intro _ | with_reducible refine (foldl_memObj ?_ _ _).trans ?_ | simp | split)
  · repeat' (first | (simp [Chip.run, Chip.draw256]; done) | intro _ | with_reducible refine (foldl_calPc ?_ _ _).trans ?_ | simp | split)
  · repeat' (first | (simp [Chip.run, Chip.draw256]; done) | intro _ | with_reducible refine (foldl_calDqs ?_ _ _).trans ?_ | simp | split)
  · repeat' (first | (simp [Chip.run, Chip.draw256]; done) | intro _ | with_reducible refine (foldl_calZq ?_ _ _).trans ?_ | simp | split)
  · repeat' (first | (simp [Chip.run, Chip.draw256]; done) | intro _ | with_reducible refine (foldl_calIsl ?_ _ _).trans ?_ | simp | split)
  · repeat' (first | (simp [Chip.run, Chip.draw256]; done) | intro _ | with_reducible refine (foldl_limiter ?_ _ _).trans ?_ | simp | split)
  · repeat' (first | (simp [Chip.run, Chip.draw256]; done) | intro _ | with_reducible refine (foldl_faults ?_ _ _).trans ?_ | simp | split)
  · repeat' (first | (simp [Chip.run, Chip.draw256]; done) | intro _ | with_reducible refine (foldl_groups ?_ _ _).trans ?_ | simp | split)
  · repeat' (first | (simp [Chip.run, Chip.draw256]; done) | intro _ | with_reducible refine (foldl_bore ?_ _ _).trans ?_ | simp | split)
  · repeat' (first | (simp [Chip.run, Chip.draw256]; done) | intro _ | with_reducible refine (foldl_attests ?_ _ _).trans ?_ | simp | split)
  · repeat' (first | (simp [Chip.run, Chip.draw256]; done) | intro _ | with_reducible refine (foldl_mgmt ?_ _ _).trans ?_ | simp | split)
  · repeat' (first | (simp [Chip.run, Chip.draw256]; done) | intro _ | with_reducible refine (foldl_gate ?_ _ _).trans ?_ | simp | split)
  · repeat' (first | (simp [Chip.run, Chip.draw256]; done) | intro _ | with_reducible refine (foldl_hatband ?_ _ _).trans ?_ | simp | split)
  · repeat' (first | (simp [Chip.run, Chip.draw256]; done) | intro _ | with_reducible refine (foldl_mram ?_ _ _).trans ?_ | simp | split)
  · repeat' (first | (simp [Chip.run, Chip.draw256]; done) | intro _ | with_reducible refine (foldl_readData ?_ _ _).trans ?_ | simp | split)
  · intro pp; refine congrArg (fun v : Vector Part 4 => v[pp].run) ?_; repeat' (first | (simp [Chip.run, Chip.draw256]; done) | intro _ | with_reducible refine (foldl_parts ?_ _ _).trans ?_ | simp | split)

@[simp] theorem Chip.setPortEn_keeps (c : Chip) (v : W16) :
    (c.setPortEn v).drawn = c.drawn ∧ (c.setPortEn v).power = c.power ∧ (c.setPortEn v).pins = c.pins ∧
    (c.setPortEn v).boot = c.boot ∧ (c.setPortEn v).driver = c.driver ∧ (c.setPortEn v).tenants = c.tenants ∧
    (c.setPortEn v).nparts = c.nparts ∧ (c.setPortEn v).parts = c.parts ∧ (c.setPortEn v).partPending = c.partPending ∧
    (c.setPortEn v).placer = c.placer ∧ (c.setPortEn v).scan = c.scan ∧ (c.setPortEn v).sp = c.sp ∧
    (c.setPortEn v).memObj = c.memObj ∧ (c.setPortEn v).calPc = c.calPc ∧ (c.setPortEn v).calDqs = c.calDqs ∧
    (c.setPortEn v).calZq = c.calZq ∧ (c.setPortEn v).calIsl = c.calIsl ∧ (c.setPortEn v).limiter = c.limiter ∧
    (c.setPortEn v).faults = c.faults ∧ (c.setPortEn v).groups = c.groups ∧ (c.setPortEn v).bore = c.bore ∧
    (c.setPortEn v).attests = c.attests ∧ (c.setPortEn v).mgmt = c.mgmt ∧ (c.setPortEn v).gate = c.gate ∧
    (c.setPortEn v).hatband = c.hatband ∧ (c.setPortEn v).readData = c.readData ∧ (∀ pp : Fin 4, (c.setPortEn v).run pp = c.run pp) := by
  unfold Chip.setPortEn
  (try dsimp only [Chip.draw256]); and_intros
  · repeat' (first | (simp [Chip.run, Chip.draw256]; done) | intro _ | with_reducible refine (foldl_drawn ?_ _ _).trans ?_ | simp | split)
  · repeat' (first | (simp [Chip.run, Chip.draw256]; done) | intro _ | with_reducible refine (foldl_power ?_ _ _).trans ?_ | simp | split)
  · repeat' (first | (simp [Chip.run, Chip.draw256]; done) | intro _ | with_reducible refine (foldl_pins ?_ _ _).trans ?_ | simp | split)
  · repeat' (first | (simp [Chip.run, Chip.draw256]; done) | intro _ | with_reducible refine (foldl_boot ?_ _ _).trans ?_ | simp | split)
  · repeat' (first | (simp [Chip.run, Chip.draw256]; done) | intro _ | with_reducible refine (foldl_driver ?_ _ _).trans ?_ | simp | split)
  · repeat' (first | (simp [Chip.run, Chip.draw256]; done) | intro _ | with_reducible refine (foldl_tenants ?_ _ _).trans ?_ | simp | split)
  · repeat' (first | (simp [Chip.run, Chip.draw256]; done) | intro _ | with_reducible refine (foldl_nparts ?_ _ _).trans ?_ | simp | split)
  · repeat' (first | (simp [Chip.run, Chip.draw256]; done) | intro _ | with_reducible refine (foldl_parts ?_ _ _).trans ?_ | simp | split)
  · repeat' (first | (simp [Chip.run, Chip.draw256]; done) | intro _ | with_reducible refine (foldl_partPending ?_ _ _).trans ?_ | simp | split)
  · repeat' (first | (simp [Chip.run, Chip.draw256]; done) | intro _ | with_reducible refine (foldl_placer ?_ _ _).trans ?_ | simp | split)
  · repeat' (first | (simp [Chip.run, Chip.draw256]; done) | intro _ | with_reducible refine (foldl_scan ?_ _ _).trans ?_ | simp | split)
  · repeat' (first | (simp [Chip.run, Chip.draw256]; done) | intro _ | with_reducible refine (foldl_sp ?_ _ _).trans ?_ | simp | split)
  · repeat' (first | (simp [Chip.run, Chip.draw256]; done) | intro _ | with_reducible refine (foldl_memObj ?_ _ _).trans ?_ | simp | split)
  · repeat' (first | (simp [Chip.run, Chip.draw256]; done) | intro _ | with_reducible refine (foldl_calPc ?_ _ _).trans ?_ | simp | split)
  · repeat' (first | (simp [Chip.run, Chip.draw256]; done) | intro _ | with_reducible refine (foldl_calDqs ?_ _ _).trans ?_ | simp | split)
  · repeat' (first | (simp [Chip.run, Chip.draw256]; done) | intro _ | with_reducible refine (foldl_calZq ?_ _ _).trans ?_ | simp | split)
  · repeat' (first | (simp [Chip.run, Chip.draw256]; done) | intro _ | with_reducible refine (foldl_calIsl ?_ _ _).trans ?_ | simp | split)
  · repeat' (first | (simp [Chip.run, Chip.draw256]; done) | intro _ | with_reducible refine (foldl_limiter ?_ _ _).trans ?_ | simp | split)
  · repeat' (first | (simp [Chip.run, Chip.draw256]; done) | intro _ | with_reducible refine (foldl_faults ?_ _ _).trans ?_ | simp | split)
  · repeat' (first | (simp [Chip.run, Chip.draw256]; done) | intro _ | with_reducible refine (foldl_groups ?_ _ _).trans ?_ | simp | split)
  · repeat' (first | (simp [Chip.run, Chip.draw256]; done) | intro _ | with_reducible refine (foldl_bore ?_ _ _).trans ?_ | simp | split)
  · repeat' (first | (simp [Chip.run, Chip.draw256]; done) | intro _ | with_reducible refine (foldl_attests ?_ _ _).trans ?_ | simp | split)
  · repeat' (first | (simp [Chip.run, Chip.draw256]; done) | intro _ | with_reducible refine (foldl_mgmt ?_ _ _).trans ?_ | simp | split)
  · repeat' (first | (simp [Chip.run, Chip.draw256]; done) | intro _ | with_reducible refine (foldl_gate ?_ _ _).trans ?_ | simp | split)
  · repeat' (first | (simp [Chip.run, Chip.draw256]; done) | intro _ | with_reducible refine (foldl_hatband ?_ _ _).trans ?_ | simp | split)
  · repeat' (first | (simp [Chip.run, Chip.draw256]; done) | intro _ | with_reducible refine (foldl_readData ?_ _ _).trans ?_ | simp | split)
  · intro pp; refine congrArg (fun v : Vector Part 4 => v[pp].run) ?_; repeat' (first | (simp [Chip.run, Chip.draw256]; done) | intro _ | with_reducible refine (foldl_parts ?_ _ _).trans ?_ | simp | split)

@[simp] theorem Chip.setDrone_keeps (c : Chip) (st : DroneState) :
    (c.setDrone st).drawn = c.drawn ∧ (c.setDrone st).power = c.power ∧ (c.setDrone st).pins = c.pins ∧
    (c.setDrone st).boot = c.boot ∧ (c.setDrone st).driver = c.driver ∧ (c.setDrone st).tenants = c.tenants ∧
    (c.setDrone st).nparts = c.nparts ∧ (c.setDrone st).parts = c.parts ∧ (c.setDrone st).partPending = c.partPending ∧
    (c.setDrone st).placer = c.placer ∧ (c.setDrone st).scan = c.scan ∧ (c.setDrone st).sp = c.sp ∧
    (c.setDrone st).memObj = c.memObj ∧ (c.setDrone st).calPc = c.calPc ∧ (c.setDrone st).calDqs = c.calDqs ∧
    (c.setDrone st).calZq = c.calZq ∧ (c.setDrone st).calIsl = c.calIsl ∧ (c.setDrone st).limiter = c.limiter ∧
    (c.setDrone st).faults = c.faults ∧ (c.setDrone st).ports = c.ports ∧ (c.setDrone st).groups = c.groups ∧
    (c.setDrone st).bore = c.bore ∧ (c.setDrone st).attests = c.attests ∧ (c.setDrone st).mgmt = c.mgmt ∧
    (c.setDrone st).gate = c.gate ∧ (c.setDrone st).readData = c.readData ∧ (∀ pp : Fin 4, (c.setDrone st).run pp = c.run pp) := by
  unfold Chip.setDrone
  first
    | (simp [Chip.run]; done)
    | ((try dsimp only) <;> (repeat' split) <;> simp [Chip.run])

@[simp] theorem Chip.atSync_keeps (c : Chip) :
    (c.atSync).drawn = c.drawn ∧ (c.atSync).drone = c.drone ∧ (c.atSync).power = c.power ∧
    (c.atSync).pins = c.pins ∧ (c.atSync).boot = c.boot ∧ (c.atSync).driver = c.driver ∧
    (c.atSync).pfn = c.pfn ∧ (c.atSync).vfn = c.vfn ∧ (c.atSync).tenants = c.tenants ∧
    (c.atSync).nparts = c.nparts ∧ (c.atSync).parts = c.parts ∧ (c.atSync).partPending = c.partPending ∧
    (c.atSync).placer = c.placer ∧ (c.atSync).scan = c.scan ∧ (c.atSync).sp = c.sp ∧
    (c.atSync).memObj = c.memObj ∧ (c.atSync).calPc = c.calPc ∧ (c.atSync).calDqs = c.calDqs ∧
    (c.atSync).calZq = c.calZq ∧ (c.atSync).calIsl = c.calIsl ∧ (c.atSync).limiter = c.limiter ∧
    (c.atSync).intc = c.intc ∧ (c.atSync).faults = c.faults ∧ (c.atSync).ports = c.ports ∧
    (c.atSync).groups = c.groups ∧ (c.atSync).bore = c.bore ∧ (c.atSync).attests = c.attests ∧
    (c.atSync).mgmt = c.mgmt ∧ (c.atSync).gate = c.gate ∧ (c.atSync).hatband = c.hatband ∧
    (c.atSync).mram = c.mram ∧ (c.atSync).readData = c.readData ∧ (∀ pp : Fin 4, (c.atSync).run pp = c.run pp) := by
  unfold Chip.atSync
  first
    | (simp [Chip.run]; done)
    | ((try dsimp only) <;> (repeat' split) <;> simp [Chip.run])

@[simp] theorem Chip.judgeRun_keeps (c : Chip) :
    (c.judgeRun).drawn = c.drawn ∧ (c.judgeRun).power = c.power ∧ (c.judgeRun).pins = c.pins ∧
    (c.judgeRun).boot = c.boot ∧ (c.judgeRun).driver = c.driver ∧ (c.judgeRun).tenants = c.tenants ∧
    (c.judgeRun).nparts = c.nparts ∧ (c.judgeRun).parts = c.parts ∧ (c.judgeRun).partPending = c.partPending ∧
    (c.judgeRun).placer = c.placer ∧ (c.judgeRun).scan = c.scan ∧ (c.judgeRun).sp = c.sp ∧
    (c.judgeRun).memObj = c.memObj ∧ (c.judgeRun).calPc = c.calPc ∧ (c.judgeRun).calDqs = c.calDqs ∧
    (c.judgeRun).calZq = c.calZq ∧ (c.judgeRun).calIsl = c.calIsl ∧ (c.judgeRun).limiter = c.limiter ∧
    (c.judgeRun).faults = c.faults ∧ (c.judgeRun).ports = c.ports ∧ (c.judgeRun).groups = c.groups ∧
    (c.judgeRun).bore = c.bore ∧ (c.judgeRun).attests = c.attests ∧ (c.judgeRun).mgmt = c.mgmt ∧
    (c.judgeRun).gate = c.gate ∧ (c.judgeRun).readData = c.readData ∧ (∀ pp : Fin 4, (c.judgeRun).run pp = c.run pp) := by
  unfold Chip.judgeRun
  first
    | (simp [Chip.run]; done)
    | ((try dsimp only) <;> (repeat' split) <;> simp [Chip.run])

@[simp] theorem Chip.correct_keeps (c : Chip) (off : Int) :
    (c.correct off).power = c.power ∧ (c.correct off).pins = c.pins ∧ (c.correct off).boot = c.boot ∧
    (c.correct off).driver = c.driver ∧ (c.correct off).tenants = c.tenants ∧ (c.correct off).nparts = c.nparts ∧
    (c.correct off).parts = c.parts ∧ (c.correct off).partPending = c.partPending ∧ (c.correct off).placer = c.placer ∧
    (c.correct off).scan = c.scan ∧ (c.correct off).sp = c.sp ∧ (c.correct off).memObj = c.memObj ∧
    (c.correct off).calPc = c.calPc ∧ (c.correct off).calDqs = c.calDqs ∧ (c.correct off).calZq = c.calZq ∧
    (c.correct off).calIsl = c.calIsl ∧ (c.correct off).limiter = c.limiter ∧ (c.correct off).faults = c.faults ∧
    (c.correct off).ports = c.ports ∧ (c.correct off).groups = c.groups ∧ (c.correct off).bore = c.bore ∧
    (c.correct off).attests = c.attests ∧ (c.correct off).mgmt = c.mgmt ∧ (c.correct off).gate = c.gate ∧
    (c.correct off).readData = c.readData ∧ (∀ pp : Fin 4, (c.correct off).run pp = c.run pp) := by
  unfold Chip.correct
  first
    | (simp [Chip.run]; done)
    | ((try dsimp only) <;> (repeat' split) <;> simp [Chip.run])

@[simp] theorem Chip.selectMaster_keeps (c : Chip) :
    (c.selectMaster).drawn = c.drawn ∧ (c.selectMaster).power = c.power ∧ (c.selectMaster).pins = c.pins ∧
    (c.selectMaster).boot = c.boot ∧ (c.selectMaster).driver = c.driver ∧ (c.selectMaster).tenants = c.tenants ∧
    (c.selectMaster).nparts = c.nparts ∧ (c.selectMaster).parts = c.parts ∧ (c.selectMaster).partPending = c.partPending ∧
    (c.selectMaster).placer = c.placer ∧ (c.selectMaster).scan = c.scan ∧ (c.selectMaster).sp = c.sp ∧
    (c.selectMaster).memObj = c.memObj ∧ (c.selectMaster).calPc = c.calPc ∧ (c.selectMaster).calDqs = c.calDqs ∧
    (c.selectMaster).calZq = c.calZq ∧ (c.selectMaster).calIsl = c.calIsl ∧ (c.selectMaster).limiter = c.limiter ∧
    (c.selectMaster).faults = c.faults ∧ (c.selectMaster).groups = c.groups ∧ (c.selectMaster).bore = c.bore ∧
    (c.selectMaster).attests = c.attests ∧ (c.selectMaster).mgmt = c.mgmt ∧ (c.selectMaster).gate = c.gate ∧
    (c.selectMaster).readData = c.readData ∧ (∀ pp : Fin 4, (c.selectMaster).run pp = c.run pp) := by
  unfold Chip.selectMaster
  first
    | (simp [Chip.run]; done)
    | ((try dsimp only) <;> (repeat' split) <;> simp [Chip.run])

@[simp] theorem Chip.measure_keeps (c : Chip) (p : Fin 16) (sent : Int) (received : Stamp) :
    (c.measure p sent received).power = c.power ∧ (c.measure p sent received).pins = c.pins ∧ (c.measure p sent received).driver = c.driver ∧
    (c.measure p sent received).tenants = c.tenants ∧ (c.measure p sent received).nparts = c.nparts ∧ (c.measure p sent received).parts = c.parts ∧
    (c.measure p sent received).partPending = c.partPending ∧ (c.measure p sent received).placer = c.placer ∧ (c.measure p sent received).scan = c.scan ∧
    (c.measure p sent received).sp = c.sp ∧ (c.measure p sent received).memObj = c.memObj ∧ (c.measure p sent received).calPc = c.calPc ∧
    (c.measure p sent received).calDqs = c.calDqs ∧ (c.measure p sent received).calZq = c.calZq ∧ (c.measure p sent received).calIsl = c.calIsl ∧
    (c.measure p sent received).limiter = c.limiter ∧ (c.measure p sent received).faults = c.faults ∧ (c.measure p sent received).groups = c.groups ∧
    (c.measure p sent received).bore = c.bore ∧ (c.measure p sent received).attests = c.attests ∧ (c.measure p sent received).mgmt = c.mgmt ∧
    (c.measure p sent received).gate = c.gate ∧ (c.measure p sent received).readData = c.readData ∧ (∀ pp : Fin 4, (c.measure p sent received).run pp = c.run pp) := by
  unfold Chip.measure
  first
    | (simp [Chip.run]; done)
    | ((try dsimp only) <;> (repeat' split) <;> simp [Chip.run])

@[simp] theorem Chip.ptpSend_keeps (c : Chip) (p : Fin 16) (f : TxFrame) :
    (c.ptpSend p f).drawn = c.drawn ∧ (c.ptpSend p f).drone = c.drone ∧ (c.ptpSend p f).power = c.power ∧
    (c.ptpSend p f).pins = c.pins ∧ (c.ptpSend p f).boot = c.boot ∧ (c.ptpSend p f).driver = c.driver ∧
    (c.ptpSend p f).pfn = c.pfn ∧ (c.ptpSend p f).vfn = c.vfn ∧ (c.ptpSend p f).tenants = c.tenants ∧
    (c.ptpSend p f).nparts = c.nparts ∧ (c.ptpSend p f).parts = c.parts ∧ (c.ptpSend p f).partPending = c.partPending ∧
    (c.ptpSend p f).placer = c.placer ∧ (c.ptpSend p f).scan = c.scan ∧ (c.ptpSend p f).sp = c.sp ∧
    (c.ptpSend p f).memObj = c.memObj ∧ (c.ptpSend p f).calPc = c.calPc ∧ (c.ptpSend p f).calDqs = c.calDqs ∧
    (c.ptpSend p f).calZq = c.calZq ∧ (c.ptpSend p f).calIsl = c.calIsl ∧ (c.ptpSend p f).limiter = c.limiter ∧
    (c.ptpSend p f).intc = c.intc ∧ (c.ptpSend p f).faults = c.faults ∧ (c.ptpSend p f).groups = c.groups ∧
    (c.ptpSend p f).bore = c.bore ∧ (c.ptpSend p f).attests = c.attests ∧ (c.ptpSend p f).mgmt = c.mgmt ∧
    (c.ptpSend p f).gate = c.gate ∧ (c.ptpSend p f).hatband = c.hatband ∧ (c.ptpSend p f).mram = c.mram ∧
    (c.ptpSend p f).objs = c.objs ∧ (c.ptpSend p f).readData = c.readData ∧ (∀ pp : Fin 4, (c.ptpSend p f).run pp = c.run pp) := by
  unfold Chip.ptpSend
  first
    | (simp [Chip.run]; done)
    | ((try dsimp only) <;> (repeat' split) <;> simp [Chip.run])

@[simp] theorem Chip.objSet_keeps (c : Chip) (name : ObjName) (k v : Nat) :
    (c.objSet name k v).drawn = c.drawn ∧ (c.objSet name k v).drone = c.drone ∧ (c.objSet name k v).power = c.power ∧
    (c.objSet name k v).pins = c.pins ∧ (c.objSet name k v).boot = c.boot ∧ (c.objSet name k v).driver = c.driver ∧
    (c.objSet name k v).pfn = c.pfn ∧ (c.objSet name k v).vfn = c.vfn ∧ (c.objSet name k v).tenants = c.tenants ∧
    (c.objSet name k v).nparts = c.nparts ∧ (c.objSet name k v).parts = c.parts ∧ (c.objSet name k v).partPending = c.partPending ∧
    (c.objSet name k v).placer = c.placer ∧ (c.objSet name k v).scan = c.scan ∧ (c.objSet name k v).sp = c.sp ∧
    (c.objSet name k v).memObj = c.memObj ∧ (c.objSet name k v).calPc = c.calPc ∧ (c.objSet name k v).calDqs = c.calDqs ∧
    (c.objSet name k v).calZq = c.calZq ∧ (c.objSet name k v).calIsl = c.calIsl ∧ (c.objSet name k v).limiter = c.limiter ∧
    (c.objSet name k v).intc = c.intc ∧ (c.objSet name k v).faults = c.faults ∧ (c.objSet name k v).ports = c.ports ∧
    (c.objSet name k v).groups = c.groups ∧ (c.objSet name k v).attests = c.attests ∧ (c.objSet name k v).mgmt = c.mgmt ∧
    (c.objSet name k v).gate = c.gate ∧ (c.objSet name k v).hatband = c.hatband ∧ (c.objSet name k v).readData = c.readData ∧
    (∀ pp : Fin 4, (c.objSet name k v).run pp = c.run pp) := by
  unfold Chip.objSet
  first
    | (simp [Chip.run]; done)
    | ((try dsimp only) <;> (repeat' split) <;> simp [Chip.run])

@[simp] theorem Chip.openLevel_keeps (c : Chip) (n : Nat) (who : Requester) :
    (c.openLevel n who).drawn = c.drawn ∧ (c.openLevel n who).drone = c.drone ∧ (c.openLevel n who).power = c.power ∧
    (c.openLevel n who).pins = c.pins ∧ (c.openLevel n who).boot = c.boot ∧ (c.openLevel n who).driver = c.driver ∧
    (c.openLevel n who).pfn = c.pfn ∧ (c.openLevel n who).vfn = c.vfn ∧ (c.openLevel n who).tenants = c.tenants ∧
    (c.openLevel n who).nparts = c.nparts ∧ (c.openLevel n who).parts = c.parts ∧ (c.openLevel n who).partPending = c.partPending ∧
    (c.openLevel n who).placer = c.placer ∧ (c.openLevel n who).scan = c.scan ∧ (c.openLevel n who).sp = c.sp ∧
    (c.openLevel n who).memObj = c.memObj ∧ (c.openLevel n who).calPc = c.calPc ∧ (c.openLevel n who).calDqs = c.calDqs ∧
    (c.openLevel n who).calZq = c.calZq ∧ (c.openLevel n who).calIsl = c.calIsl ∧ (c.openLevel n who).limiter = c.limiter ∧
    (c.openLevel n who).faults = c.faults ∧ (c.openLevel n who).ports = c.ports ∧ (c.openLevel n who).groups = c.groups ∧
    (c.openLevel n who).bore = c.bore ∧ (c.openLevel n who).attests = c.attests ∧ (c.openLevel n who).mgmt = c.mgmt ∧
    (c.openLevel n who).objs = c.objs ∧ (c.openLevel n who).readData = c.readData ∧ (∀ pp : Fin 4, (c.openLevel n who).run pp = c.run pp) := by
  unfold Chip.openLevel
  first
    | (simp [Chip.run]; done)
    | ((try dsimp only) <;> (repeat' split) <;> simp [Chip.run])

@[simp] theorem Chip.closeFrom_keeps (c : Chip) (n : Nat) :
    (c.closeFrom n).drawn = c.drawn ∧ (c.closeFrom n).drone = c.drone ∧ (c.closeFrom n).power = c.power ∧
    (c.closeFrom n).pins = c.pins ∧ (c.closeFrom n).boot = c.boot ∧ (c.closeFrom n).driver = c.driver ∧
    (c.closeFrom n).pfn = c.pfn ∧ (c.closeFrom n).vfn = c.vfn ∧ (c.closeFrom n).tenants = c.tenants ∧
    (c.closeFrom n).nparts = c.nparts ∧ (c.closeFrom n).parts = c.parts ∧ (c.closeFrom n).partPending = c.partPending ∧
    (c.closeFrom n).placer = c.placer ∧ (c.closeFrom n).scan = c.scan ∧ (c.closeFrom n).sp = c.sp ∧
    (c.closeFrom n).memObj = c.memObj ∧ (c.closeFrom n).calPc = c.calPc ∧ (c.closeFrom n).calDqs = c.calDqs ∧
    (c.closeFrom n).calZq = c.calZq ∧ (c.closeFrom n).calIsl = c.calIsl ∧ (c.closeFrom n).limiter = c.limiter ∧
    (c.closeFrom n).faults = c.faults ∧ (c.closeFrom n).ports = c.ports ∧ (c.closeFrom n).groups = c.groups ∧
    (c.closeFrom n).bore = c.bore ∧ (c.closeFrom n).attests = c.attests ∧ (c.closeFrom n).mgmt = c.mgmt ∧
    (c.closeFrom n).objs = c.objs ∧ (c.closeFrom n).readData = c.readData ∧ (∀ pp : Fin 4, (c.closeFrom n).run pp = c.run pp) := by
  unfold Chip.closeFrom
  first
    | (simp [Chip.run]; done)
    | ((try dsimp only) <;> (repeat' split) <;> simp [Chip.run])

@[simp] theorem Chip.gateFailure_keeps (c : Chip) (obj : Nat) (who : Requester) :
    (c.gateFailure obj who).drawn = c.drawn ∧ (c.gateFailure obj who).drone = c.drone ∧ (c.gateFailure obj who).power = c.power ∧
    (c.gateFailure obj who).pins = c.pins ∧ (c.gateFailure obj who).boot = c.boot ∧ (c.gateFailure obj who).driver = c.driver ∧
    (c.gateFailure obj who).pfn = c.pfn ∧ (c.gateFailure obj who).vfn = c.vfn ∧ (c.gateFailure obj who).tenants = c.tenants ∧
    (c.gateFailure obj who).nparts = c.nparts ∧ (c.gateFailure obj who).parts = c.parts ∧ (c.gateFailure obj who).partPending = c.partPending ∧
    (c.gateFailure obj who).placer = c.placer ∧ (c.gateFailure obj who).scan = c.scan ∧ (c.gateFailure obj who).sp = c.sp ∧
    (c.gateFailure obj who).memObj = c.memObj ∧ (c.gateFailure obj who).calPc = c.calPc ∧ (c.gateFailure obj who).calDqs = c.calDqs ∧
    (c.gateFailure obj who).calZq = c.calZq ∧ (c.gateFailure obj who).calIsl = c.calIsl ∧ (c.gateFailure obj who).limiter = c.limiter ∧
    (c.gateFailure obj who).faults = c.faults ∧ (c.gateFailure obj who).ports = c.ports ∧ (c.gateFailure obj who).groups = c.groups ∧
    (c.gateFailure obj who).bore = c.bore ∧ (c.gateFailure obj who).attests = c.attests ∧ (c.gateFailure obj who).mgmt = c.mgmt ∧
    (c.gateFailure obj who).gate = c.gate ∧ (c.gateFailure obj who).objs = c.objs ∧ (c.gateFailure obj who).readData = c.readData ∧
    (∀ pp : Fin 4, (c.gateFailure obj who).run pp = c.run pp) := by
  unfold Chip.gateFailure
  first
    | (simp [Chip.run]; done)
    | ((try dsimp only) <;> (repeat' split) <;> simp [Chip.run])

@[simp] theorem Chip.gateSuccess_keeps (c : Chip) :
    (c.gateSuccess).drawn = c.drawn ∧ (c.gateSuccess).drone = c.drone ∧ (c.gateSuccess).power = c.power ∧
    (c.gateSuccess).pins = c.pins ∧ (c.gateSuccess).boot = c.boot ∧ (c.gateSuccess).driver = c.driver ∧
    (c.gateSuccess).pfn = c.pfn ∧ (c.gateSuccess).vfn = c.vfn ∧ (c.gateSuccess).tenants = c.tenants ∧
    (c.gateSuccess).nparts = c.nparts ∧ (c.gateSuccess).parts = c.parts ∧ (c.gateSuccess).partPending = c.partPending ∧
    (c.gateSuccess).placer = c.placer ∧ (c.gateSuccess).scan = c.scan ∧ (c.gateSuccess).sp = c.sp ∧
    (c.gateSuccess).memObj = c.memObj ∧ (c.gateSuccess).calPc = c.calPc ∧ (c.gateSuccess).calDqs = c.calDqs ∧
    (c.gateSuccess).calZq = c.calZq ∧ (c.gateSuccess).calIsl = c.calIsl ∧ (c.gateSuccess).limiter = c.limiter ∧
    (c.gateSuccess).intc = c.intc ∧ (c.gateSuccess).faults = c.faults ∧ (c.gateSuccess).ports = c.ports ∧
    (c.gateSuccess).groups = c.groups ∧ (c.gateSuccess).bore = c.bore ∧ (c.gateSuccess).attests = c.attests ∧
    (c.gateSuccess).mgmt = c.mgmt ∧ (c.gateSuccess).gate = c.gate ∧ (c.gateSuccess).hatband = c.hatband ∧
    (c.gateSuccess).objs = c.objs ∧ (c.gateSuccess).readData = c.readData ∧ (∀ pp : Fin 4, (c.gateSuccess).run pp = c.run pp) := by
  unfold Chip.gateSuccess
  first
    | (simp [Chip.run]; done)
    | ((try dsimp only) <;> (repeat' split) <;> simp [Chip.run])

@[simp] theorem Chip.setCap_keeps (c : Chip) (w : W16) :
    (c.setCap w).drawn = c.drawn ∧ (c.setCap w).drone = c.drone ∧ (c.setCap w).power = c.power ∧
    (c.setCap w).pins = c.pins ∧ (c.setCap w).boot = c.boot ∧ (c.setCap w).driver = c.driver ∧
    (c.setCap w).pfn = c.pfn ∧ (c.setCap w).vfn = c.vfn ∧ (c.setCap w).tenants = c.tenants ∧
    (c.setCap w).nparts = c.nparts ∧ (c.setCap w).parts = c.parts ∧ (c.setCap w).partPending = c.partPending ∧
    (c.setCap w).placer = c.placer ∧ (c.setCap w).scan = c.scan ∧ (c.setCap w).sp = c.sp ∧
    (c.setCap w).memObj = c.memObj ∧ (c.setCap w).calPc = c.calPc ∧ (c.setCap w).calDqs = c.calDqs ∧
    (c.setCap w).calZq = c.calZq ∧ (c.setCap w).calIsl = c.calIsl ∧ (c.setCap w).intc = c.intc ∧
    (c.setCap w).faults = c.faults ∧ (c.setCap w).ports = c.ports ∧ (c.setCap w).groups = c.groups ∧
    (c.setCap w).bore = c.bore ∧ (c.setCap w).attests = c.attests ∧ (c.setCap w).mgmt = c.mgmt ∧
    (c.setCap w).gate = c.gate ∧ (c.setCap w).hatband = c.hatband ∧ (c.setCap w).objs = c.objs ∧
    (c.setCap w).readData = c.readData ∧ (∀ pp : Fin 4, (c.setCap w).run pp = c.run pp) := by
  unfold Chip.setCap
  first
    | (simp [Chip.run]; done)
    | ((try dsimp only) <;> (repeat' split) <;> simp [Chip.run])

@[simp] theorem Chip.writeRec_keeps (c : Chip) (o : ObjId) (r : ObjRow) (who : Requester) (old new : List Byte) :
    (c.writeRec o r who old new).drawn = c.drawn ∧ (c.writeRec o r who old new).drone = c.drone ∧ (c.writeRec o r who old new).power = c.power ∧
    (c.writeRec o r who old new).pins = c.pins ∧ (c.writeRec o r who old new).boot = c.boot ∧ (c.writeRec o r who old new).driver = c.driver ∧
    (c.writeRec o r who old new).pfn = c.pfn ∧ (c.writeRec o r who old new).vfn = c.vfn ∧ (c.writeRec o r who old new).tenants = c.tenants ∧
    (c.writeRec o r who old new).nparts = c.nparts ∧ (c.writeRec o r who old new).parts = c.parts ∧ (c.writeRec o r who old new).partPending = c.partPending ∧
    (c.writeRec o r who old new).placer = c.placer ∧ (c.writeRec o r who old new).sp = c.sp ∧ (c.writeRec o r who old new).memObj = c.memObj ∧
    (c.writeRec o r who old new).calPc = c.calPc ∧ (c.writeRec o r who old new).calDqs = c.calDqs ∧ (c.writeRec o r who old new).calZq = c.calZq ∧
    (c.writeRec o r who old new).calIsl = c.calIsl ∧ (c.writeRec o r who old new).limiter = c.limiter ∧ (c.writeRec o r who old new).intc = c.intc ∧
    (c.writeRec o r who old new).faults = c.faults ∧ (c.writeRec o r who old new).ports = c.ports ∧ (c.writeRec o r who old new).groups = c.groups ∧
    (c.writeRec o r who old new).bore = c.bore ∧ (c.writeRec o r who old new).attests = c.attests ∧ (c.writeRec o r who old new).mgmt = c.mgmt ∧
    (c.writeRec o r who old new).gate = c.gate ∧ (c.writeRec o r who old new).objs = c.objs ∧ (c.writeRec o r who old new).readData = c.readData ∧
    (∀ pp : Fin 4, (c.writeRec o r who old new).run pp = c.run pp) := by
  unfold Chip.writeRec
  first
    | (simp [Chip.run]; done)
    | ((try dsimp only) <;> (repeat' split) <;> simp [Chip.run])

@[simp] theorem Chip.challenge_keeps (c : Chip) (level : Byte) :
    (c.challenge level).drone = c.drone ∧ (c.challenge level).power = c.power ∧ (c.challenge level).pins = c.pins ∧
    (c.challenge level).boot = c.boot ∧ (c.challenge level).driver = c.driver ∧ (c.challenge level).pfn = c.pfn ∧
    (c.challenge level).vfn = c.vfn ∧ (c.challenge level).tenants = c.tenants ∧ (c.challenge level).nparts = c.nparts ∧
    (c.challenge level).parts = c.parts ∧ (c.challenge level).partPending = c.partPending ∧ (c.challenge level).placer = c.placer ∧
    (c.challenge level).scan = c.scan ∧ (c.challenge level).sp = c.sp ∧ (c.challenge level).memObj = c.memObj ∧
    (c.challenge level).calPc = c.calPc ∧ (c.challenge level).calDqs = c.calDqs ∧ (c.challenge level).calZq = c.calZq ∧
    (c.challenge level).calIsl = c.calIsl ∧ (c.challenge level).limiter = c.limiter ∧ (c.challenge level).intc = c.intc ∧
    (c.challenge level).faults = c.faults ∧ (c.challenge level).ports = c.ports ∧ (c.challenge level).groups = c.groups ∧
    (c.challenge level).bore = c.bore ∧ (c.challenge level).attests = c.attests ∧ (c.challenge level).mgmt = c.mgmt ∧
    (c.challenge level).hatband = c.hatband ∧ (c.challenge level).mram = c.mram ∧ (c.challenge level).objs = c.objs ∧
    (c.challenge level).readData = c.readData ∧ (∀ pp : Fin 4, (c.challenge level).run pp = c.run pp) := by
  unfold Chip.challenge
  (try dsimp only [Chip.draw256]); and_intros
  · repeat' (first | (simp [Chip.run, Chip.draw256]; done) | intro _ | with_reducible refine (foldl_drone ?_ _ _).trans ?_ | simp | split)
  · repeat' (first | (simp [Chip.run, Chip.draw256]; done) | intro _ | with_reducible refine (foldl_power ?_ _ _).trans ?_ | simp | split)
  · repeat' (first | (simp [Chip.run, Chip.draw256]; done) | intro _ | with_reducible refine (foldl_pins ?_ _ _).trans ?_ | simp | split)
  · repeat' (first | (simp [Chip.run, Chip.draw256]; done) | intro _ | with_reducible refine (foldl_boot ?_ _ _).trans ?_ | simp | split)
  · repeat' (first | (simp [Chip.run, Chip.draw256]; done) | intro _ | with_reducible refine (foldl_driver ?_ _ _).trans ?_ | simp | split)
  · repeat' (first | (simp [Chip.run, Chip.draw256]; done) | intro _ | with_reducible refine (foldl_pfn ?_ _ _).trans ?_ | simp | split)
  · repeat' (first | (simp [Chip.run, Chip.draw256]; done) | intro _ | with_reducible refine (foldl_vfn ?_ _ _).trans ?_ | simp | split)
  · repeat' (first | (simp [Chip.run, Chip.draw256]; done) | intro _ | with_reducible refine (foldl_tenants ?_ _ _).trans ?_ | simp | split)
  · repeat' (first | (simp [Chip.run, Chip.draw256]; done) | intro _ | with_reducible refine (foldl_nparts ?_ _ _).trans ?_ | simp | split)
  · repeat' (first | (simp [Chip.run, Chip.draw256]; done) | intro _ | with_reducible refine (foldl_parts ?_ _ _).trans ?_ | simp | split)
  · repeat' (first | (simp [Chip.run, Chip.draw256]; done) | intro _ | with_reducible refine (foldl_partPending ?_ _ _).trans ?_ | simp | split)
  · repeat' (first | (simp [Chip.run, Chip.draw256]; done) | intro _ | with_reducible refine (foldl_placer ?_ _ _).trans ?_ | simp | split)
  · repeat' (first | (simp [Chip.run, Chip.draw256]; done) | intro _ | with_reducible refine (foldl_scan ?_ _ _).trans ?_ | simp | split)
  · repeat' (first | (simp [Chip.run, Chip.draw256]; done) | intro _ | with_reducible refine (foldl_sp ?_ _ _).trans ?_ | simp | split)
  · repeat' (first | (simp [Chip.run, Chip.draw256]; done) | intro _ | with_reducible refine (foldl_memObj ?_ _ _).trans ?_ | simp | split)
  · repeat' (first | (simp [Chip.run, Chip.draw256]; done) | intro _ | with_reducible refine (foldl_calPc ?_ _ _).trans ?_ | simp | split)
  · repeat' (first | (simp [Chip.run, Chip.draw256]; done) | intro _ | with_reducible refine (foldl_calDqs ?_ _ _).trans ?_ | simp | split)
  · repeat' (first | (simp [Chip.run, Chip.draw256]; done) | intro _ | with_reducible refine (foldl_calZq ?_ _ _).trans ?_ | simp | split)
  · repeat' (first | (simp [Chip.run, Chip.draw256]; done) | intro _ | with_reducible refine (foldl_calIsl ?_ _ _).trans ?_ | simp | split)
  · repeat' (first | (simp [Chip.run, Chip.draw256]; done) | intro _ | with_reducible refine (foldl_limiter ?_ _ _).trans ?_ | simp | split)
  · repeat' (first | (simp [Chip.run, Chip.draw256]; done) | intro _ | with_reducible refine (foldl_intc ?_ _ _).trans ?_ | simp | split)
  · repeat' (first | (simp [Chip.run, Chip.draw256]; done) | intro _ | with_reducible refine (foldl_faults ?_ _ _).trans ?_ | simp | split)
  · repeat' (first | (simp [Chip.run, Chip.draw256]; done) | intro _ | with_reducible refine (foldl_ports ?_ _ _).trans ?_ | simp | split)
  · repeat' (first | (simp [Chip.run, Chip.draw256]; done) | intro _ | with_reducible refine (foldl_groups ?_ _ _).trans ?_ | simp | split)
  · repeat' (first | (simp [Chip.run, Chip.draw256]; done) | intro _ | with_reducible refine (foldl_bore ?_ _ _).trans ?_ | simp | split)
  · repeat' (first | (simp [Chip.run, Chip.draw256]; done) | intro _ | with_reducible refine (foldl_attests ?_ _ _).trans ?_ | simp | split)
  · repeat' (first | (simp [Chip.run, Chip.draw256]; done) | intro _ | with_reducible refine (foldl_mgmt ?_ _ _).trans ?_ | simp | split)
  · repeat' (first | (simp [Chip.run, Chip.draw256]; done) | intro _ | with_reducible refine (foldl_hatband ?_ _ _).trans ?_ | simp | split)
  · repeat' (first | (simp [Chip.run, Chip.draw256]; done) | intro _ | with_reducible refine (foldl_mram ?_ _ _).trans ?_ | simp | split)
  · repeat' (first | (simp [Chip.run, Chip.draw256]; done) | intro _ | with_reducible refine (foldl_objs ?_ _ _).trans ?_ | simp | split)
  · repeat' (first | (simp [Chip.run, Chip.draw256]; done) | intro _ | with_reducible refine (foldl_readData ?_ _ _).trans ?_ | simp | split)
  · intro pp; refine congrArg (fun v : Vector Part 4 => v[pp].run) ?_; repeat' (first | (simp [Chip.run, Chip.draw256]; done) | intro _ | with_reducible refine (foldl_parts ?_ _ _).trans ?_ | simp | split)

@[simp] theorem Chip.debugOpen_keeps (c : Chip) (v : Nat) :
    (c.debugOpen v).drawn = c.drawn ∧ (c.debugOpen v).drone = c.drone ∧ (c.debugOpen v).power = c.power ∧
    (c.debugOpen v).pins = c.pins ∧ (c.debugOpen v).boot = c.boot ∧ (c.debugOpen v).driver = c.driver ∧
    (c.debugOpen v).pfn = c.pfn ∧ (c.debugOpen v).vfn = c.vfn ∧ (c.debugOpen v).nparts = c.nparts ∧
    (c.debugOpen v).parts = c.parts ∧ (c.debugOpen v).partPending = c.partPending ∧ (c.debugOpen v).placer = c.placer ∧
    (c.debugOpen v).scan = c.scan ∧ (c.debugOpen v).sp = c.sp ∧ (c.debugOpen v).memObj = c.memObj ∧
    (c.debugOpen v).calPc = c.calPc ∧ (c.debugOpen v).calDqs = c.calDqs ∧ (c.debugOpen v).calZq = c.calZq ∧
    (c.debugOpen v).calIsl = c.calIsl ∧ (c.debugOpen v).limiter = c.limiter ∧ (c.debugOpen v).faults = c.faults ∧
    (c.debugOpen v).ports = c.ports ∧ (c.debugOpen v).groups = c.groups ∧ (c.debugOpen v).bore = c.bore ∧
    (c.debugOpen v).attests = c.attests ∧ (c.debugOpen v).mgmt = c.mgmt ∧ (c.debugOpen v).objs = c.objs ∧
    (c.debugOpen v).readData = c.readData ∧ (∀ pp : Fin 4, (c.debugOpen v).run pp = c.run pp) := by
  unfold Chip.debugOpen
  first
    | (simp [Chip.run]; done)
    | ((try dsimp only) <;> (repeat' split) <;> simp [Chip.run])

@[simp] theorem Chip.sendResp_keeps (c : Chip) (dst : Requester) (x : Response) :
    (c.sendResp dst x).drawn = c.drawn ∧ (c.sendResp dst x).drone = c.drone ∧ (c.sendResp dst x).power = c.power ∧
    (c.sendResp dst x).pins = c.pins ∧ (c.sendResp dst x).boot = c.boot ∧ (c.sendResp dst x).driver = c.driver ∧
    (c.sendResp dst x).pfn = c.pfn ∧ (c.sendResp dst x).vfn = c.vfn ∧ (c.sendResp dst x).tenants = c.tenants ∧
    (c.sendResp dst x).nparts = c.nparts ∧ (c.sendResp dst x).parts = c.parts ∧ (c.sendResp dst x).partPending = c.partPending ∧
    (c.sendResp dst x).placer = c.placer ∧ (c.sendResp dst x).scan = c.scan ∧ (c.sendResp dst x).sp = c.sp ∧
    (c.sendResp dst x).memObj = c.memObj ∧ (c.sendResp dst x).calPc = c.calPc ∧ (c.sendResp dst x).calDqs = c.calDqs ∧
    (c.sendResp dst x).calZq = c.calZq ∧ (c.sendResp dst x).calIsl = c.calIsl ∧ (c.sendResp dst x).limiter = c.limiter ∧
    (c.sendResp dst x).intc = c.intc ∧ (c.sendResp dst x).faults = c.faults ∧ (c.sendResp dst x).ports = c.ports ∧
    (c.sendResp dst x).groups = c.groups ∧ (c.sendResp dst x).bore = c.bore ∧ (c.sendResp dst x).attests = c.attests ∧
    (c.sendResp dst x).gate = c.gate ∧ (c.sendResp dst x).hatband = c.hatband ∧ (c.sendResp dst x).mram = c.mram ∧
    (c.sendResp dst x).objs = c.objs ∧ (c.sendResp dst x).readData = c.readData ∧ (∀ pp : Fin 4, (c.sendResp dst x).run pp = c.run pp) := by
  unfold Chip.sendResp
  first
    | (simp [Chip.run]; done)
    | ((try dsimp only) <;> (repeat' split) <;> simp [Chip.run])

@[simp] theorem Chip.reply_keeps (c : Chip) (r : MReq) (op : Byte) (status : W16) (items : List RespItem) (recs : List HbStored) :
    (c.reply r op status items recs).drawn = c.drawn ∧ (c.reply r op status items recs).drone = c.drone ∧ (c.reply r op status items recs).power = c.power ∧
    (c.reply r op status items recs).pins = c.pins ∧ (c.reply r op status items recs).boot = c.boot ∧ (c.reply r op status items recs).driver = c.driver ∧
    (c.reply r op status items recs).pfn = c.pfn ∧ (c.reply r op status items recs).vfn = c.vfn ∧ (c.reply r op status items recs).tenants = c.tenants ∧
    (c.reply r op status items recs).nparts = c.nparts ∧ (c.reply r op status items recs).parts = c.parts ∧ (c.reply r op status items recs).partPending = c.partPending ∧
    (c.reply r op status items recs).placer = c.placer ∧ (c.reply r op status items recs).sp = c.sp ∧ (c.reply r op status items recs).memObj = c.memObj ∧
    (c.reply r op status items recs).calPc = c.calPc ∧ (c.reply r op status items recs).calDqs = c.calDqs ∧ (c.reply r op status items recs).calZq = c.calZq ∧
    (c.reply r op status items recs).calIsl = c.calIsl ∧ (c.reply r op status items recs).limiter = c.limiter ∧ (c.reply r op status items recs).intc = c.intc ∧
    (c.reply r op status items recs).faults = c.faults ∧ (c.reply r op status items recs).ports = c.ports ∧ (c.reply r op status items recs).groups = c.groups ∧
    (c.reply r op status items recs).bore = c.bore ∧ (c.reply r op status items recs).attests = c.attests ∧ (c.reply r op status items recs).gate = c.gate ∧
    (c.reply r op status items recs).hatband = c.hatband ∧ (c.reply r op status items recs).mram = c.mram ∧ (c.reply r op status items recs).objs = c.objs ∧
    (c.reply r op status items recs).readData = c.readData ∧ (∀ pp : Fin 4, (c.reply r op status items recs).run pp = c.run pp) := by
  unfold Chip.reply
  first
    | (simp [Chip.run]; done)
    | ((try dsimp only) <;> (repeat' split) <;> simp [Chip.run])

@[simp] theorem Chip.received73_keeps (c : Chip) :
    (c.received73).drawn = c.drawn ∧ (c.received73).drone = c.drone ∧ (c.received73).power = c.power ∧
    (c.received73).pins = c.pins ∧ (c.received73).boot = c.boot ∧ (c.received73).driver = c.driver ∧
    (c.received73).pfn = c.pfn ∧ (c.received73).vfn = c.vfn ∧ (c.received73).tenants = c.tenants ∧
    (c.received73).nparts = c.nparts ∧ (c.received73).parts = c.parts ∧ (c.received73).partPending = c.partPending ∧
    (c.received73).placer = c.placer ∧ (c.received73).scan = c.scan ∧ (c.received73).sp = c.sp ∧
    (c.received73).memObj = c.memObj ∧ (c.received73).calPc = c.calPc ∧ (c.received73).calDqs = c.calDqs ∧
    (c.received73).calZq = c.calZq ∧ (c.received73).calIsl = c.calIsl ∧ (c.received73).limiter = c.limiter ∧
    (c.received73).faults = c.faults ∧ (c.received73).ports = c.ports ∧ (c.received73).groups = c.groups ∧
    (c.received73).bore = c.bore ∧ (c.received73).attests = c.attests ∧ (c.received73).gate = c.gate ∧
    (c.received73).hatband = c.hatband ∧ (c.received73).mram = c.mram ∧ (c.received73).objs = c.objs ∧
    (c.received73).readData = c.readData ∧ (∀ pp : Fin 4, (c.received73).run pp = c.run pp) := by
  unfold Chip.received73
  first
    | (simp [Chip.run]; done)
    | ((try dsimp only) <;> (repeat' split) <;> simp [Chip.run])

@[simp] theorem Chip.addrDup_keeps (c : Chip) :
    (c.addrDup).drawn = c.drawn ∧ (c.addrDup).drone = c.drone ∧ (c.addrDup).power = c.power ∧
    (c.addrDup).pins = c.pins ∧ (c.addrDup).boot = c.boot ∧ (c.addrDup).driver = c.driver ∧
    (c.addrDup).pfn = c.pfn ∧ (c.addrDup).vfn = c.vfn ∧ (c.addrDup).tenants = c.tenants ∧
    (c.addrDup).nparts = c.nparts ∧ (c.addrDup).parts = c.parts ∧ (c.addrDup).partPending = c.partPending ∧
    (c.addrDup).placer = c.placer ∧ (c.addrDup).scan = c.scan ∧ (c.addrDup).sp = c.sp ∧
    (c.addrDup).memObj = c.memObj ∧ (c.addrDup).calPc = c.calPc ∧ (c.addrDup).calDqs = c.calDqs ∧
    (c.addrDup).calZq = c.calZq ∧ (c.addrDup).calIsl = c.calIsl ∧ (c.addrDup).limiter = c.limiter ∧
    (c.addrDup).intc = c.intc ∧ (c.addrDup).faults = c.faults ∧ (c.addrDup).ports = c.ports ∧
    (c.addrDup).groups = c.groups ∧ (c.addrDup).bore = c.bore ∧ (c.addrDup).attests = c.attests ∧
    (c.addrDup).gate = c.gate ∧ (c.addrDup).objs = c.objs ∧ (c.addrDup).readData = c.readData ∧
    (∀ pp : Fin 4, (c.addrDup).run pp = c.run pp) := by
  unfold Chip.addrDup
  first
    | (simp [Chip.run]; done)
    | ((try dsimp only) <;> (repeat' split) <;> simp [Chip.run])

@[simp] theorem Chip.trip_keeps (c : Chip) (row : LimRow) (unit : BitVec 12) (value : W32) :
    (c.trip row unit value).drawn = c.drawn ∧ (c.trip row unit value).drone = c.drone ∧ (c.trip row unit value).boot = c.boot ∧
    (c.trip row unit value).driver = c.driver ∧ (c.trip row unit value).pfn = c.pfn ∧ (c.trip row unit value).vfn = c.vfn ∧
    (c.trip row unit value).tenants = c.tenants ∧ (c.trip row unit value).nparts = c.nparts ∧ (c.trip row unit value).parts = c.parts ∧
    (c.trip row unit value).partPending = c.partPending ∧ (c.trip row unit value).placer = c.placer ∧ (c.trip row unit value).scan = c.scan ∧
    (c.trip row unit value).sp = c.sp ∧ (c.trip row unit value).memObj = c.memObj ∧ (c.trip row unit value).calPc = c.calPc ∧
    (c.trip row unit value).calDqs = c.calDqs ∧ (c.trip row unit value).calZq = c.calZq ∧ (c.trip row unit value).calIsl = c.calIsl ∧
    (c.trip row unit value).intc = c.intc ∧ (c.trip row unit value).faults = c.faults ∧ (c.trip row unit value).ports = c.ports ∧
    (c.trip row unit value).groups = c.groups ∧ (c.trip row unit value).bore = c.bore ∧ (c.trip row unit value).attests = c.attests ∧
    (c.trip row unit value).mgmt = c.mgmt ∧ (c.trip row unit value).gate = c.gate ∧ (c.trip row unit value).hatband = c.hatband ∧
    (c.trip row unit value).objs = c.objs ∧ (c.trip row unit value).readData = c.readData ∧ (∀ pp : Fin 4, (c.trip row unit value).run pp = c.run pp) := by
  unfold Chip.trip
  first
    | (simp [Chip.run]; done)
    | ((try dsimp only) <;> (repeat' split) <;> simp [Chip.run])

@[simp] theorem Chip.hubOff_keeps (c : Chip) (st : PowerState) :
    (c.hubOff st).drawn = c.drawn ∧ (c.hubOff st).boot = c.boot ∧ (c.hubOff st).driver = c.driver ∧
    (c.hubOff st).pfn = c.pfn ∧ (c.hubOff st).vfn = c.vfn ∧ (c.hubOff st).tenants = c.tenants ∧
    (c.hubOff st).nparts = c.nparts ∧ (c.hubOff st).parts = c.parts ∧ (c.hubOff st).partPending = c.partPending ∧
    (c.hubOff st).placer = c.placer ∧ (c.hubOff st).scan = c.scan ∧ (c.hubOff st).sp = c.sp ∧
    (c.hubOff st).memObj = c.memObj ∧ (c.hubOff st).calPc = c.calPc ∧ (c.hubOff st).calDqs = c.calDqs ∧
    (c.hubOff st).calZq = c.calZq ∧ (c.hubOff st).calIsl = c.calIsl ∧ (c.hubOff st).limiter = c.limiter ∧
    (c.hubOff st).intc = c.intc ∧ (c.hubOff st).faults = c.faults ∧ (c.hubOff st).ports = c.ports ∧
    (c.hubOff st).groups = c.groups ∧ (c.hubOff st).bore = c.bore ∧ (c.hubOff st).attests = c.attests ∧
    (c.hubOff st).mgmt = c.mgmt ∧ (c.hubOff st).gate = c.gate ∧ (c.hubOff st).hatband = c.hatband ∧
    (c.hubOff st).mram = c.mram ∧ (c.hubOff st).objs = c.objs ∧ (c.hubOff st).readData = c.readData ∧
    (∀ pp : Fin 4, (c.hubOff st).run pp = c.run pp) := by
  unfold Chip.hubOff
  first
    | (simp [Chip.run]; done)
    | ((try dsimp only) <;> (repeat' split) <;> simp [Chip.run])

@[simp] theorem Chip.supplyRec_keeps (c : Chip) (cause : SupplyCause) (vin : W32) :
    (c.supplyRec cause vin).drawn = c.drawn ∧ (c.supplyRec cause vin).drone = c.drone ∧ (c.supplyRec cause vin).power = c.power ∧
    (c.supplyRec cause vin).pins = c.pins ∧ (c.supplyRec cause vin).boot = c.boot ∧ (c.supplyRec cause vin).driver = c.driver ∧
    (c.supplyRec cause vin).pfn = c.pfn ∧ (c.supplyRec cause vin).vfn = c.vfn ∧ (c.supplyRec cause vin).tenants = c.tenants ∧
    (c.supplyRec cause vin).nparts = c.nparts ∧ (c.supplyRec cause vin).parts = c.parts ∧ (c.supplyRec cause vin).partPending = c.partPending ∧
    (c.supplyRec cause vin).placer = c.placer ∧ (c.supplyRec cause vin).scan = c.scan ∧ (c.supplyRec cause vin).sp = c.sp ∧
    (c.supplyRec cause vin).memObj = c.memObj ∧ (c.supplyRec cause vin).calPc = c.calPc ∧ (c.supplyRec cause vin).calDqs = c.calDqs ∧
    (c.supplyRec cause vin).calZq = c.calZq ∧ (c.supplyRec cause vin).calIsl = c.calIsl ∧ (c.supplyRec cause vin).limiter = c.limiter ∧
    (c.supplyRec cause vin).intc = c.intc ∧ (c.supplyRec cause vin).faults = c.faults ∧ (c.supplyRec cause vin).ports = c.ports ∧
    (c.supplyRec cause vin).groups = c.groups ∧ (c.supplyRec cause vin).bore = c.bore ∧ (c.supplyRec cause vin).attests = c.attests ∧
    (c.supplyRec cause vin).mgmt = c.mgmt ∧ (c.supplyRec cause vin).gate = c.gate ∧ (c.supplyRec cause vin).objs = c.objs ∧
    (c.supplyRec cause vin).readData = c.readData ∧ (∀ pp : Fin 4, (c.supplyRec cause vin).run pp = c.run pp) := by
  unfold Chip.supplyRec
  first
    | (simp [Chip.run]; done)
    | ((try dsimp only) <;> (repeat' split) <;> simp [Chip.run])

end Sys2Proof.Machine
end

