-- ==== Sys2Proof/Laws/StateFrames.lean ====
section
/-! SUPPORT. The queue, and for most of them memory, stand under the shared operations of the state. -/

set_option linter.unusedSimpArgs false

namespace Sys2Proof.Machine

theorem sfold_pending {α : Type} {f : State → α → State} (h : ∀ c x, (f c x).pending = c.pending) (l : List α) (c : State) :
    (l.foldl f c).pending = c.pending := by
  induction l generalizing c with
  | nil => rfl
  | cons x xs ih => rw [List.foldl_cons, ih, h]

theorem sfold_mem {α : Type} {f : State → α → State} (h : ∀ c x, (f c x).mem = c.mem) (l : List α) (c : State) :
    (l.foldl f c).mem = c.mem := by
  induction l generalizing c with
  | nil => rfl
  | cons x xs ih => rw [List.foldl_cons, ih, h]

theorem site_pending {p : Prop} [Decidable p] {a b : State} : (if p then a else b).pending = if p then a.pending else b.pending := by
  split <;> rfl
theorem site_mem {p : Prop} [Decidable p] {a b : State} : (if p then a else b).mem = if p then a.mem else b.mem := by
  split <;> rfl

@[simp] theorem State.restore_keeps (s : State) (p : Fin 4) : (s.restore p).pending = s.pending := by
  unfold State.restore; (try dsimp only); (repeat' split) <;> simp [sfold_pending, sfold_mem, site_pending, site_mem]

@[simp] theorem State.sendTransfers_keeps (s : State) (p : Plan) : (s.sendTransfers p).pending = s.pending ∧ (s.sendTransfers p).mem = s.mem := by
  unfold State.sendTransfers; (try dsimp only) <;> (try and_intros) <;> (repeat' (first | (simp; done) | intro _ | with_reducible refine (sfold_pending ?_ _ _).trans ?_ | with_reducible refine (sfold_mem ?_ _ _).trans ?_ | (simp) | split))

@[simp] theorem State.startWaiting_keeps (s : State) (p : Fin 4) : (s.startWaiting p).pending = s.pending ∧ (s.startWaiting p).mem = s.mem := by
  unfold State.startWaiting; (try dsimp only); (repeat' split) <;> simp [sfold_pending, sfold_mem, site_pending, site_mem]

@[simp] theorem State.freePart_keeps (s : State) (p : Fin 4) : (s.freePart p).pending = s.pending ∧ (s.freePart p).mem = s.mem := by
  unfold State.freePart; (try dsimp only); (repeat' split) <;> simp [sfold_pending, sfold_mem, site_pending, site_mem]

@[simp] theorem State.tenantFault_keeps (s : State) (p : Fin 4) (f : FaultInfo) (sound : Bool) : (s.tenantFault p f sound).pending = s.pending := by
  unfold State.tenantFault
  split
  · rfl
  · rename_i r _
    generalize (if r.livePrologue then 0 else r.liveStep.toNat + 1) = n
    generalize r.replayPoint = k
    have h : (if sound then (s.on fun c => c.abortBusy r f.status).restore p else s.on fun c => c.abortBusy r f.status).pending =
        s.pending := by split <;> simp
    dsimp only
    split
    · exact h
    · rw [(State.freePart_keeps _ p).1, State.on_pending]
      exact h

@[simp] theorem State.endPlan_keeps (s : State) (p : Fin 4) (r : Running) (firstLost : Nat) (reqStatus : W16) (out : StepOut) : (s.endPlan p r firstLost reqStatus out).pending = s.pending ∧ (s.endPlan p r firstLost reqStatus out).mem = s.mem := by
  unfold State.endPlan; (try dsimp only); (repeat' split) <;> simp [sfold_pending, sfold_mem, site_pending, site_mem]

@[simp] theorem State.failPlan_keeps (s : State) (p : Fin 4) (r : Running) (firstLost : Nat) (bidx : Nat) (slot reason : Byte) (out : StepOut) : (s.failPlan p r firstLost bidx slot reason out).pending = s.pending ∧ (s.failPlan p r firstLost bidx slot reason out).mem = s.mem := by
  unfold State.failPlan; (try dsimp only); (repeat' split) <;> simp [sfold_pending, sfold_mem, site_pending, site_mem]

@[simp] theorem State.boundaryWrite_keeps (s : State) (p : Fin 4) (ws : List MemWrite) : (s.boundaryWrite p ws).pending = s.pending := by
  rfl

@[simp] theorem State.writeBlock_keeps (s : State) (p : Fin 4) (r : Running) (bytes : List Byte) : (s.writeBlock p r bytes).pending = s.pending := by
  unfold State.writeBlock; (try dsimp only); (repeat' split) <;> simp [sfold_pending, sfold_mem, site_pending, site_mem]

@[simp] theorem State.monitorStep_keeps (s : State) (p : Fin 4) (r : Running) : (s.monitorStep p r).pending = s.pending := by
  unfold State.monitorStep
  dsimp only
  split
  · rfl
  · exact State.writeBlock_keeps ..

@[simp] theorem State.writePrompt_keeps (s : State) (p : Fin 4) (r : Running) (rt : ReqTable) (slot : Nat) (prompt : List W32) : (s.writePrompt p r rt slot prompt).pending = s.pending := by
  unfold State.writePrompt; (try dsimp only); (repeat' split) <;> simp [sfold_pending, sfold_mem, site_pending, site_mem]

theorem admitLoop_keeps (p : Fin 4) (r : Running) (rt : ReqTable) (n : Nat) (l : List PendAdm) (s : State) :
    (admitLoop p r rt n l s).1.pending = s.pending := by
  fun_induction admitLoop p r rt n l s <;> simp_all +zetaDelta

@[simp] theorem State.admitStep_keeps (s : State) (p : Fin 4) (r : Running) : (s.admitStep p r).pending = s.pending := by
  unfold State.admitStep
  split
  · rfl
  · split
    · rfl
    · exact admitLoop_keeps ..

@[simp] theorem State.intake_keeps (s : State) (p : Fin 4) (r : Running) : (s.intake p r).pending = s.pending := by
  unfold State.intake; simp

@[simp] theorem State.beginStep_keeps (s : State) (p : Fin 4) : (s.beginStep p).pending = s.pending := by
  unfold State.beginStep; (try dsimp only); (repeat' split) <;> simp [sfold_pending, sfold_mem, site_pending, site_mem]

@[simp] theorem State.enterStep_keeps (s : State) (p : Fin 4) (out : StepOut) : (s.enterStep p out).pending = s.pending := by
  unfold State.enterStep; (try dsimp only); (repeat' split) <;> simp [sfold_pending, sfold_mem, site_pending, site_mem]

@[simp] theorem State.recross_keeps (s : State) (p : Fin 4) (x : CommitPt) (rest : List CommitPt) : (s.recross p x rest).pending = s.pending := by
  rfl

@[simp] theorem State.boundary_keeps (s : State) (p : Fin 4) (last : Bool) : (s.boundary p last).pending = s.pending := by
  unfold State.boundary
  dsimp only
  split
  · rfl
  · split
    · simp
    · split
      · simp
      · split
        · split <;> simp
        · simp

@[simp] theorem State.detFault_keeps (s : State) (p : Fin 4) (status : W16) (det : Byte) (unit : W32) (sound : Bool) : (s.detFault p status det unit sound).pending = s.pending := by
  unfold State.detFault; (try dsimp only); (repeat' split) <;> simp [sfold_pending, sfold_mem, site_pending, site_mem]

@[simp] theorem State.ueFault_keeps (s : State) (p : Fin 4) (unit : W32) (sound : Bool) : (s.ueFault p unit sound).pending = s.pending := by
  unfold State.ueFault; (try dsimp only); (repeat' split) <;> simp [sfold_pending, sfold_mem, site_pending, site_mem]

@[simp] theorem State.dataFault_keeps (s : State) (p : Fin 4) (r : Running) (w : MemAt) (lost : Bool) : (s.dataFault p r w lost).pending = s.pending := by
  unfold State.dataFault; (try dsimp only); (repeat' split) <;> simp [sfold_pending, sfold_mem, site_pending, site_mem]

@[simp] theorem State.readsBad_keeps (s : State) (p : Fin 4) (r : Running) (k : PAddr) : (s.readsBad p r k).pending = s.pending := by
  unfold State.readsBad; (try dsimp only); (repeat' split) <;> simp [sfold_pending, sfold_mem, site_pending, site_mem]

@[simp] theorem State.slotFault_keeps (s : State) (p : Fin 4) (r : Running) (status : W16) (slot : Nat) (cause : W64) : (s.slotFault p r status slot cause).pending = s.pending := by
  unfold State.slotFault; (try dsimp only); (repeat' split) <;> simp [sfold_pending, sfold_mem, site_pending, site_mem]

@[simp] theorem State.slotFails_keeps (s : State) (p : Fin 4) (r : Running) (slot : Nat) (e : SlotFail) : (s.slotFails p r slot e).pending = s.pending := by
  unfold State.slotFails; (try dsimp only); (repeat' split) <;> simp [sfold_pending, sfold_mem, site_pending, site_mem]

@[simp] theorem State.retire_keeps (s : State) (p : Fin 4) (r : Running) (b : Build) : (s.retire p r b).pending = s.pending := by
  unfold State.retire
  dsimp only
  (repeat' split) <;> simp

@[simp] theorem State.collFails_keeps (s : State) (p : Fin 4) (g : Group) (skip : List (Fin 16)) (status : W16) : (s.collFails p g skip status).pending = s.pending := by
  unfold State.collFails; (try dsimp only); (repeat' split) <;> simp [sfold_pending, sfold_mem, site_pending, site_mem]

@[simp] theorem State.collStep_keeps (s : State) (p : Fin 4) : (s.collStep p).pending = s.pending := by
  unfold State.collStep; (try dsimp only); (repeat' split) <;> simp [sfold_pending, sfold_mem, site_pending, site_mem]

theorem State.takeColl_keeps {s s' : State} {p : Fin 4} {q : Fin 16} {g : Group} {f : DataFrame}
    (h : s.takeColl p q g f = some s') : s'.pending = s.pending := by
  unfold State.takeColl at h
  dsimp only at h
  (repeat' split at h) <;> first | (injection h with h; subst h; simp) | cases h

theorem State.takeTransfer_keeps {s s' : State} {q : Fin 16} {g : Group} {f : DataFrame}
    (h : s.takeTransfer q g f = some s') : s'.pending = s.pending := by
  unfold State.takeTransfer at h
  dsimp only at h
  (repeat' split at h) <;> first | (injection h with h; subst h; simp) | cases h

theorem State.takeHead_keeps {s s' : State} {q : Fin 16} (h : s.takeHead q = some s') : s'.pending = s.pending := by
  unfold State.takeHead at h
  (repeat' split at h) <;>
    first | (injection h with h; subst h; simp) | cases h | exact State.takeTransfer_keeps h | exact State.takeColl_keeps h

theorem State.takeAny_keeps {s s' : State} : ∀ {l : List (Fin 16)}, s.takeAny l = some s' → s'.pending = s.pending
  | [], h => by cases h
  | q :: qs, h => by
    unfold State.takeAny at h
    split at h
    · next h' => injection h with h; subst h; exact State.takeHead_keeps h'
    · exact State.takeAny_keeps h

@[simp] theorem State.consume_keeps (n : Nat) (s : State) : (s.consume n).pending = s.pending := by
  induction n generalizing s with
  | zero => rfl
  | succ n ih =>
    unfold State.consume
    split
    · next h => rw [ih, State.takeAny_keeps h]
    · rfl

@[simp] theorem State.consumeAll_keeps (s : State) : s.consumeAll.pending = s.pending := State.consume_keeps ..

@[simp] theorem State.beginColl_keeps (s : State) (p : Fin 4) (q : CollReq) (g : Group) (r : Running) (b : Build) : (s.beginColl p q g r b).pending = s.pending := by
  unfold State.beginColl; (try dsimp only); (repeat' split) <;> simp [sfold_pending, sfold_mem, site_pending, site_mem]

@[simp] theorem State.finishBundle_keeps (s : State) (p : Fin 4) (r : Running) (b : Build) : (s.finishBundle p r b).pending = s.pending := by
  unfold State.finishBundle; (try dsimp only); (repeat' split) <;> simp [sfold_pending, sfold_mem, site_pending, site_mem]

@[simp] theorem State.slotDone_keeps (s : State) (p : Fin 4) (r : Running) (more : Bool) (b : Build) : (s.slotDone p r more b).pending = s.pending := by
  unfold State.slotDone; (try dsimp only); (repeat' split) <;> simp [sfold_pending, sfold_mem, site_pending, site_mem]

theorem State.issue_keeps {s : State} {i : Instr} {sl : Slot} {pos : SlotPos} {body : View → Build → Except SlotFail Build} :
    (s.issue i sl pos body).pending = s.pending := by
  unfold State.issue
  dsimp only
  (repeat' split) <;> simp

@[simp] theorem State.issueColl_keeps (s : State) (sl : Slot) (o : MvOps) : (s.issueColl sl o).pending = s.pending := by
  exact State.issue_keeps

@[simp] theorem State.takeSubmit_keeps (s : State) (t : Fin 16) (rec : Option (List Byte)) (restore : Option Saved) (src : CmdSrc) : (s.takeSubmit t rec restore src).pending = s.pending ∧ (s.takeSubmit t rec restore src).mem = s.mem := by
  unfold State.takeSubmit; (try dsimp only); (repeat' split) <;> simp [sfold_pending, sfold_mem, site_pending, site_mem]

@[simp] theorem State.enterPlan_keeps (s : State) (p : Plan) : (s.enterPlan p).pending = s.pending := by
  unfold State.enterPlan; (try dsimp only); (repeat' split) <;> simp [sfold_pending, sfold_mem, site_pending, site_mem]

@[simp] theorem State.finishBind_keeps (s : State)  : (s.finishBind).pending = s.pending := by
  unfold State.finishBind; (try dsimp only); (repeat' split) <;> simp [sfold_pending, sfold_mem, site_pending, site_mem]

@[simp] theorem State.putElems_keeps (s : State) (q : Fin 4) (p : Plan) (tid : BitVec 20) (off : Nat) (xs : List W32) : (s.putElems q p tid off xs).pending = s.pending := by
  unfold State.putElems; (try dsimp only); (repeat' split) <;> simp [sfold_pending, sfold_mem, site_pending, site_mem]

@[simp] theorem State.putScales_keeps (s : State) (q : Fin 4) (p : Plan) (scales : List ((Nat × BitVec 20 × Nat) × Byte)) : (s.putScales q p scales).pending = s.pending := by
  unfold State.putScales; (try dsimp only) <;> (try and_intros) <;> (repeat' (first | (simp; done) | intro _ | with_reducible refine (sfold_pending ?_ _ _).trans ?_ | with_reducible refine (sfold_mem ?_ _ _).trans ?_ | (simp) | split))

@[simp] theorem State.putScaleState_keeps (s : State) (p : Plan) (off : Nat) (xs : List W32) : (s.putScaleState p off xs).pending = s.pending := by
  unfold State.putScaleState; (try dsimp only); (repeat' split) <;> simp [sfold_pending, sfold_mem, site_pending, site_mem]

@[simp] theorem State.moveEntry_keeps (s : State) (q : Fin 4) (p : Plan) (e : TurnEnt) (n : Nat) : (s.moveEntry q p e n).pending = s.pending := by
  unfold State.moveEntry; (try dsimp only); (repeat' split) <;> simp [sfold_pending, sfold_mem, site_pending, site_mem]

@[simp] theorem State.moveAll_keeps (s : State) (q : Fin 4) (p : Plan) : (s.moveAll q p).pending = s.pending := by
  unfold State.moveAll; (try dsimp only); (repeat' split) <;> simp [sfold_pending, sfold_mem, site_pending, site_mem]

@[simp] theorem State.resumeStep_keeps (s : State) (q : Fin 4) : (s.resumeStep q).pending = s.pending ∧ (s.resumeStep q).mem = s.mem := by
  unfold State.resumeStep; (try dsimp only); (repeat' split) <;> simp [sfold_pending, sfold_mem, site_pending, site_mem]

@[simp] theorem State.endPrologue_keeps (s : State) (q : Fin 4) (p : Plan) : (s.endPrologue q p).pending = s.pending := by
  unfold State.endPrologue
  dsimp only
  split
  · simp
  · split
    · simp
    · split <;> simp

@[simp] theorem State.reachPrologueEnd_keeps (s : State) (q : Fin 4) (r : Running) : (s.reachPrologueEnd q r).pending = s.pending := by
  unfold State.reachPrologueEnd; (try dsimp only); (repeat' split) <;> simp [sfold_pending, sfold_mem, site_pending, site_mem]

@[simp] theorem State.writeWin_keeps (s : State) (t : Fin 16) (w : Fin 16) (off : Nat) (bs : List Byte) : (s.writeWin t w off bs).pending = s.pending := by
  unfold State.writeWin; (try dsimp only) <;> (try and_intros) <;> (repeat' (first | (simp; done) | intro _ | with_reducible refine (sfold_pending ?_ _ _).trans ?_ | with_reducible refine (sfold_mem ?_ _ _).trans ?_ | (simp) | split))

@[simp] theorem State.inReset_keeps (s : State) (host : Bool) : (s.inReset host).pending = s.pending := by
  unfold State.inReset; (try dsimp only) <;> (try and_intros) <;> (repeat' (first | (simp; done) | intro _ | with_reducible refine (sfold_pending ?_ _ _).trans ?_ | with_reducible refine (sfold_mem ?_ _ _).trans ?_ | (simp) | split))

@[simp] theorem State.beginReset_keeps (s : State) (cause : Nat) (host : Bool) : (s.beginReset cause host).pending = s.pending := by
  unfold State.beginReset; (try dsimp only); (repeat' split) <;> simp [sfold_pending, sfold_mem, site_pending, site_mem]

@[simp] theorem State.reattach_keeps (s : State) (src : CmdSrc) : (s.reattach src).pending = s.pending ∧ (s.reattach src).mem = s.mem := by
  unfold State.reattach; (try dsimp only); (repeat' split) <;> simp [sfold_pending, sfold_mem, site_pending, site_mem]

@[simp] theorem State.faultTenants_keeps (s : State) (ts : List (Fin 16)) (unit : W32) (det : Byte) (flags : W64) (sound : Bool) : (s.faultTenants ts unit det flags sound).pending = s.pending := by
  unfold State.faultTenants
  refine sfold_pending (fun c t => ?_) _ _
  split
  · rfl
  · refine sfold_pending (fun c p => ?_) _ _
    split <;> simp

@[simp] theorem State.moduleFault_keeps (s : State) (unit : W32) (det : Byte) (sound : Bool) : (s.moduleFault unit det sound).pending = s.pending := by
  unfold State.moduleFault; (try dsimp only); (repeat' split) <;> simp [sfold_pending, sfold_mem, site_pending, site_mem]

@[simp] theorem State.cellFault_keeps (s : State) (t : Fin 68) : (s.cellFault t).pending = s.pending := by
  unfold State.cellFault; (try dsimp only); (repeat' split) <;> simp [sfold_pending, sfold_mem, site_pending, site_mem]

@[simp] theorem State.tileLoss_keeps (s : State) (t : Fin 68) (det : Byte) : (s.tileLoss t det).pending = s.pending := by
  unfold State.tileLoss; (try dsimp only); (repeat' split) <;> simp [sfold_pending, sfold_mem, site_pending, site_mem]

@[simp] theorem State.copyLost_keeps (s : State) (p : Fin 4) (i : Interrupt) (u : UeRead) : (s.copyLost p i u).pending = s.pending := by
  unfold State.copyLost; (try dsimp only); (repeat' split) <;> simp [sfold_pending, sfold_mem, site_pending, site_mem]

@[simp] theorem State.planRead_keeps (s : State) (p : Fin 4) (r : Running) (w : MemAt) (err : BitVec 288) (rest lost : Bool) : (s.planRead p r w err rest lost).pending = s.pending := by
  unfold State.planRead; (try dsimp only); (repeat' split) <;> simp [sfold_pending, sfold_mem, site_pending, site_mem]

@[simp] theorem State.laneInterrupt_keeps (s : State) (p : Fin 4) : (s.laneInterrupt p).pending = s.pending := by
  unfold State.laneInterrupt; (try dsimp only); (repeat' split) <;> simp [sfold_pending, sfold_mem, site_pending, site_mem]

@[simp] theorem State.lostFault_keeps (s : State) (p : Fin 4) (g : Group) (cause : W16) : (s.lostFault p g cause).pending = s.pending := by
  unfold State.lostFault; (try dsimp only); (repeat' split) <;> simp [sfold_pending, sfold_mem, site_pending, site_mem]

@[simp] theorem State.endLost_keeps (s : State) (g : Group) (skip : List (Fin 16)) (q : Option (Fin 16)) (cause : W16) : (s.endLost g skip q cause).pending = s.pending := by
  unfold State.endLost; (try dsimp only); (repeat' split) <;> simp [sfold_pending, sfold_mem, site_pending, site_mem]

@[simp] theorem State.peerLost_keeps (s : State) (ser : W64) (p : Fin 16) : (s.peerLost ser p).pending = s.pending := by
  unfold State.peerLost; (try dsimp only); (repeat' split) <;> simp [sfold_pending, sfold_mem, site_pending, site_mem]

@[simp] theorem State.losePort_keeps (s : State) (p : Fin 16) (how : Loss) : (s.losePort p how).pending = s.pending := by
  unfold State.losePort; (try dsimp only); (repeat' split) <;> simp [sfold_pending, sfold_mem, site_pending, site_mem]

@[simp] theorem State.resend_keeps (s : State) (p : Fin 16) : (s.resend p).pending = s.pending := by
  unfold State.resend; (try dsimp only); (repeat' split) <;> simp [sfold_pending, sfold_mem, site_pending, site_mem]

@[simp] theorem State.endAbsent_keeps (s : State) (p : Fin 16) : (s.endAbsent p).pending = s.pending := by
  unfold State.endAbsent; (try dsimp only); (repeat' split) <;> simp [sfold_pending, sfold_mem, site_pending, site_mem]

@[simp] theorem State.takeHeader_keeps (s : State) (p : Fin 16) (h : BoreHdr) : (s.takeHeader p h).pending = s.pending := by
  unfold State.takeHeader; (try dsimp only); (repeat' split) <;> simp [sfold_pending, sfold_mem, site_pending, site_mem]

@[simp] theorem State.writeOne_keeps (s : State) (r : MReq) (x : WItem) (n : ObjName) : (s.writeOne r x n).pending = s.pending ∧ (s.writeOne r x n).mem = s.mem := by
  unfold State.writeOne; (try dsimp only); (repeat' split) <;> simp [sfold_pending, sfold_mem, site_pending, site_mem]

end Sys2Proof.Machine
end

