-- ==== Sys2Proof/Tests/Slice0.lean ====
section
/-! SUPPORT. Tests: a witness of the hypotheses of each statement, terms that are not well formed, and the worked
examples of the manual. Expected values are those of the manual. -/

open Sys2Proof Sys2Proof.Machine

namespace Sys2Proof.Tests

-- One theorem at a time: each waits for the kernel, and many waiting at once would take a thread each.
set_option Elab.async false

/-! ### Small states -/

/-- A slot of partition 0 under P0, with more slots to come. -/
def slot0 : Slot := { part := 0, pneg := false, pred := 0, more := true, imm0 := 1, imm1 := 2 }

def mxO : MxOps :=
  { ac := 0, opr := 0, init := true, last := true, idx := false, tda := 1, tdb := 1, tdc := 1, tde := 1, tdx := 2
    epi := 0, ftq := false }

def vO : VOps :=
  { vb := false, d := 0, x := 1, y := 2, z := 3, rows := 1, cols := 2, ss := 1, ims := true, td := 1, fn := 0
    acs := 0, pd := 1 }

def mvO : MvOps :=
  { td := 1, v := 0, rowo := 0, colo := 0, rows := 1, cols := 2, td2 := 1, ix := 1, pd := 1, cfn := 0, grp := 5 }

def cfO : CfOps :=
  { fn := 0, sd := 1, sa := 2, sb := 3, imb := true, imsel := false, pd := 1, lc := 0, tgt := 1, td := 1 }

def syO : SyOps := { ac := 0, code := 7 }

/-- A descriptor of 2 x 2 elements from element 0 on, rows 2 apart (R32). -/
def desc22 (tid fmt : Nat) : Desc :=
  BitVec.ofNat 512 (tid * 2 ^ 492 + fmt * 2 ^ 488 + 2 * 2 ^ 481 + 2 * 2 ^ 360 + 2 * 2 ^ 336 + 2 ^ 200 + 2 * 2 ^ 160)

/-- A table entry of four elements in window 0. -/
def ent (tid fmt woff : Nat) (role : Role) (optrec : Nat) : TensorEnt :=
  { tid := BitVec.ofNat 20 tid, count := 16, fmt := BitVec.ofNat 4 fmt, tier := 1, win := 0, role := role
    optrec := BitVec.ofNat 20 optrec, sslot := 0, woff := BitVec.ofNat 48 woff }

/-- Three bundles whose one operation is CF.END; BF16 tensor 1, I32 tensor 2, weight tensor 3 with record 4. -/
def image0 : Image :=
  { hwgen := 1, nepoch := 1
    tensors := [ent 1 4 0 .ordinary 0, ent 2 6 256 .ordinary 0, ent 3 4 512 .weight 4, ent 4 5 768 .ordinary 0]
    descs := [0, desc22 1 4, desc22 2 6, desc22 3 4], bundles := List.replicate 3 (BitVec.ofNat 1024 (9 * 2 ^ 376)) }

def submit0 : SubmitRec :=
  { itid := 0, part := 0, switchAt0 := false, clearMon := false, fshare := 1, mond := 0, ioff := 0, tmtid := 0
    ntm := 0, brtid := 0, montid := 0, sttid := 0, storeC := 4, wepoch := 0, nslot := 0, admax := 0, pmax := 0
    ctx := 0, ptid := 0, sparam := Vector.replicate 16 0, astage := [] }

def report0 : BindReport :=
  { status := 0, plan := 0, whereAt := 0, slot := 0, reason := 0, part := 0, ncol := 0, bindUs := 0, nalt := 0
    nfold := 0, bpt := 0, proNs := 0, step0Ns := 0, stepMaxNs := 0, cmtMaxNs := 0, calNs := 0, peakW := 0
    avgW := 0, capW := 0, kgen := 0, t1Bytes := 0, t2Bytes := 0, cmtBytes := 0, fmax := 0, brecLen := 0 }

def src0 : CmdSrc := { fn := .vf 0, ring := 0, opc := 1, cid := 0, irq := false }

/-- Plan 9 of tenant 0. -/
def plan0 : Plan :=
  { id := 9, tenant := 0, part := some 0, image := image0, sub := submit0, turnMap := []
    slotTable := [⟨0, [4, 8]⟩], req := none, emax := 1, bpt := 2, versioned := [], rotate := false, kgen := 0
    report := report0, binding := ⟨[], []⟩, fig := default, passes := [], altsReady := true, restored := none, src := src0 }

/-- The plan in step 3, at its first bundle. -/
def run0 : Running :=
  { plan := plan0, inPrologue := false, step := 3, ctx := Ctx.initial image0.startDescs, build := none, holds := []
    counts := StepCounts.zero 0, toks := [], commits := [], coll := none, intr := none, turn := none, halt := none
    altsReady := true, spareLost := [], stepEpoch := 0, atBoundary := true, crossed := [], past := none, bwrites := []
    staging := [], seg := none, edge := [], edgeSent := [], chain := Plane.zero, staged := [], done := 0, replayTo := none
    owed := none, faultRec := none }

/-- The module with a plan running in partition 0, whose tenant has window 0: 4,096 bytes of tier 1. -/
def running (r : Running) : State := State.reset.on fun c =>
  (c.setRun 0 (some r)).modTenant 0 fun t =>
    { t with fstate := .running, windows := t.windows.set 0 { tier := some true, base := 0, limit := 4096, grant := 0, kgen := 0 } }

/-- The plan with its context changed. -/
def withCtx (f : Ctx → Ctx) : Running := { run0 with ctx := f run0.ctx }

def build0 (r : Running) : Build := Build.start r.ctx r.counts

/-- What a slot needs in order to act, as one evaluation. -/
theorem slot_acts {s : State} {i : Instr} {sl : Slot} {pos : SlotPos} {r : Running} {b : Build}
    (h : (s.slotOpen sl pos = some (r, b) ∧ (anyPred i = true ∨ (r.ctx.predOf sl).val = true) ∧
      slotCheck (s.view sl.part r) i = none) ∧ (s.view sl.part r).badRead i = none) : SlotActs s i sl pos r b :=
  ⟨h.1.1, h.1.2.1, h.1.2.2, h.2⟩

/-- The slot acts in the plan's first place. -/
def Acts (r : Running) (i : Instr) (pos : SlotPos) : Prop := SlotActs (running r) i slot0 pos r (build0 r)

/-! ### Witnesses of the slot statements -/

theorem witness_LaneArithmeticFillsRegion :
    Acts run0 (.vadd slot0 vO) .va ∧ Acts run0 (.vsub slot0 vO) .va ∧ Acts run0 (.vmul slot0 vO) .va ∧
    Acts run0 (.vfma slot0 vO) .va ∧ Acts run0 (.vscl slot0 vO) .va ∧ Acts run0 (.vmax slot0 vO) .va ∧
    Acts run0 (.vmin slot0 { vO with vb := true, rows := 4096, cols := 4096 }) .vb := by
  refine ⟨?_, ?_, ?_, ?_, ?_, ?_, ?_⟩ <;> exact slot_acts (by decide +kernel)

theorem witness_LaneSelectionFillsRegion :
    Acts run0 (.vfn slot0 { vO with fn := 8 }) .va ∧ Acts run0 (.vcmp slot0 { vO with fn := 5 }) .va ∧
    Acts run0 (.vsel slot0 vO) .va ∧ Acts run0 (.vput slot0 vO) .va := by
  refine ⟨?_, ?_, ?_, ?_⟩ <;> exact slot_acts (by decide +kernel)

theorem witness_ExpandAndCompressPlaceElements :
    Acts run0 (.vxpd slot0 vO) .va ∧ Acts run0 (.vcpr slot0 vO) .va ∧ vO.d ≠ vO.y := by
  refine ⟨?_, ?_, by decide⟩ <;> exact slot_acts (by decide +kernel)

theorem witness_ReductionWritesRowResult :
    Acts run0 (.vred slot0 vO) .va ∧ Acts run0 (.vred slot0 { vO with fn := 1 }) .va ∧
    Acts run0 (.vred slot0 { vO with fn := 3 }) .va := by
  refine ⟨?_, ?_, ?_⟩ <;> exact slot_acts (by decide +kernel)

theorem witness_BufferReadsAreDynamic : Acts run0 (.vget slot0 vO) .va ∧ Acts run0 (.vtst slot0 vO) .va := by
  refine ⟨?_, ?_⟩ <;> exact slot_acts (by decide +kernel)

theorem witness_ConversionAndDrawFillRegion :
    Acts run0 (.vrnd slot0 { vO with fn := 2 }) .va ∧ Acts run0 (.vcvt slot0 vO) .va ∧
    Desc.scaled (run0.ctx.desc 1) = false := by
  refine ⟨?_, ?_, by decide +kernel⟩ <;> exact slot_acts (by decide +kernel)

/-- Accumulator 0 in a state, of 2 x 2 elements. -/
def accIn (st : AccState) : Running :=
  withCtx fun c => { c with ac := c.ac.set 0 { Acc.initial with state := st, m := 2, n := 2 } }

theorem witness_ArrayResultsReachBuffers :
    (build0 (accIn .ready)).special = false ∧ Acts (accIn .ready) (.vacc slot0 vO) .va ∧
    (accIn .ready).ctx.ac[vO.acs].state = .ready ∧ vO.rows.toNat ≤ (accIn .ready).ctx.ac[vO.acs].m ∧
    vO.cols.toNat ≤ (accIn .ready).ctx.ac[vO.acs].n ∧ Acts run0 (.vftq slot0 vO) .va := by
  refine ⟨rfl, slot_acts (by decide +kernel), rfl, by decide, by decide, slot_acts (by decide +kernel)⟩

theorem witness_SamplingAndStopWriteTheirBuffer :
    Acts run0 (.vsamp slot0 { vO with fn := 2, ss := 0 }) .va ∧ Acts run0 (.vstop slot0 vO) .va ∧
    (sampParams fun c => Buf.get run0.ctx.v[vO.y] 0 c).ok = false := by
  refine ⟨?_, ?_, by decide +kernel⟩ <;> exact slot_acts (by decide +kernel)

theorem witness_OptimizerUpdatesItsBuffers :
    Acts run0 (.vopt slot0 { vO with td := 3 }) .va ∧ Acts run0 (.vopt slot0 { vO with td := 3, fn := 1 }) .va ∧
    vO.d ≠ vO.y ∧ vO.d ≠ vO.z ∧ vO.y ≠ vO.z := by
  refine ⟨?_, ?_, by decide, by decide, by decide⟩ <;> exact slot_acts (by decide +kernel)

/-- A FULL shadow plane of 2 x 2 elements. -/
def shadowFull : Running :=
  withCtx fun c => { c with shadow := some { Plane.zero with k := 2, n := 2, fmt := 4, anyFmt := false } }

theorem witness_PlaneLoadAndPassUpdateArray :
    Acts run0 (.pld slot0 mxO) .mx ∧ run0.ctx.shadow = none ∧ Acts shadowFull (.mm slot0 mxO) .mx ∧
    shadowFull.ctx.ac[(0 : Fin 2)].state = .free := by
  refine ⟨slot_acts (by decide +kernel), rfl, slot_acts (by decide +kernel), rfl⟩

/-- A pass that goes on where another of its shape left the accumulator, and one that finds another shape. -/
def goesOn (m : Nat) : Running :=
  { shadowFull with ctx := { shadowFull.ctx with ac := shadowFull.ctx.ac.set 0 { Acc.initial with state := .opened, m := m, n := 2 } } }

theorem witness_PlaneLoadAndPassUpdateArray_second :
    Acts (goesOn 2) (.mm slot0 { mxO with init := false }) .mx ∧ (goesOn 2).ctx.ac[(0 : Fin 2)].state = .opened ∧
    Desc.rows ((goesOn 2).ctx.desc 1) = 2 ∧ (passPlane (goesOn 2).ctx).n = 2 ∧
    (goesOn 2).ctx.ac[(0 : Fin 2)].opr = mxO.opr ∧ (goesOn 2).ctx.ac[(0 : Fin 2)].idx = mxO.idx := by
  refine ⟨slot_acts (by decide +kernel), ?_⟩
  decide +kernel

theorem witness_ProductAndReleaseUpdateAccumulator :
    Acts run0 (.ewm slot0 mxO) .mx ∧ run0.ctx.ac[(0 : Fin 2)].state = .free ∧
    Acts (accIn .ready) (.rel slot0 mxO) .mx ∧ (accIn .ready).ctx.ac[(0 : Fin 2)].state = .ready := by
  refine ⟨slot_acts (by decide +kernel), rfl, slot_acts (by decide +kernel), rfl⟩

theorem witness_DrainWritesDescriptorOrQueue :
    Acts (accIn .ready) (.drn slot0 mxO) .mx ∧ Acts (accIn .ready) (.drn slot0 { mxO with ftq := true }) .mx ∧
    Desc.rows ((accIn .ready).ctx.desc 1) = 2 ∧ Desc.cols ((accIn .ready).ctx.desc 1) = 2 := by
  refine ⟨slot_acts (by decide +kernel), slot_acts (by decide +kernel), by decide +kernel, by decide +kernel⟩

/-- An accumulator of winners, drained with an epilogue and an index descriptor. -/
def winners : Running :=
  withCtx fun c => { c with ac := c.ac.set 0 { Acc.initial with state := .ready, m := 2, n := 2, idx := true } }

theorem witness_DrainWritesDescriptorOrQueue_winners :
    Acts winners (.drn slot0 { mxO with idx := true }) .mx ∧ Acts (accIn .ready) (.drn slot0 { mxO with epi := 1 }) .mx ∧
    winners.plan.descOk (winners.ctx.desc 2) = true ∧
    (badTarget ((running winners).view 0 winners) (winners.ctx.desc 2)).1 = false ∧
    Desc.fmt (winners.ctx.desc 2) = some .i32 ∧ Desc.rows (winners.ctx.desc 2) = 2 ∧ Desc.cols (winners.ctx.desc 2) = 2 := by
  refine ⟨slot_acts (by decide +kernel), slot_acts (by decide +kernel), ?_⟩
  decide +kernel

theorem witness_LoadsFillBuffer : Acts run0 (.ldv slot0 mvO) .ld ∧ Acts run0 (.gath slot0 mvO) .ld := by
  refine ⟨?_, ?_⟩ <;> exact slot_acts (by decide +kernel)

theorem witness_StoresWriteOnlyNamedElements :
    Acts run0 (.copy slot0 mvO) .ld ∧ Acts run0 (.stv slot0 mvO) .st ∧ Acts run0 (.scat slot0 mvO) .st := by
  refine ⟨?_, ?_, ?_⟩ <;> exact slot_acts (by decide +kernel)

theorem witness_StoredElementReadsBack :
    let t := (running run0).chip.tenants[(0 : Fin 16)]
    (running run0).mem.sound = true ∧ (7 : W32).toNat < 2 ^ Fmt.fp4.bits ∧
    (∀ i, i < (Fmt.fp4.bits + 7) / 8 → (t.winAddr 0 (0 + 3 * Fmt.fp4.bits / 8 + i)).isSome = true) ∧
    (∀ i, i < (Fmt.fp32.bits + 7) / 8 → (t.winAddr 0 (0 + 1023 * Fmt.fp32.bits / 8 + i)).isSome = true) := by
  decide +kernel

/-- The plan serves requests: 4 slots. -/
def serving : Running :=
  { run0 with plan := { plan0 with req := some { nslot := 4, pmax := 16, ctx := 64, admax := 2, ptid := 2 } } }

def req0 : ReqSlot :=
  { tag := 5, row := Vector.replicate 64 0, fresh := true, plen := 3, admStep := 3, pin := false, wepoch := 0
    aid := 0xFFFF, aepoch := 0, abank := none, published := 0, finish := none, finalFormed := false }

def servingState : State := (running serving).on fun c => c.modTenant 0 fun t => { t with slots := [(0, req0)] }

/-- Slot numbers and tokens of an unwritten buffer are 0: the row's slot is 0. -/
theorem witness_EmitForwardsTokens :
    SlotActs servingState (.emit slot0 mvO) slot0 .st serving (build0 serving) ∧ mvO.rows = 1 ∧
    alGet servingState.chip.tenants[(0 : Fin 16)].slots 0 = some req0 ∧
    (servingState.view 0 serving).served req0 = true ∧ req0.finalFormed = false ∧
    Acts serving (.emit slot0 mvO) .st ∧ alGet (running serving).chip.tenants[(0 : Fin 16)].slots 0 = none := by
  refine ⟨slot_acts (by decide +kernel), rfl, rfl, by decide +kernel, rfl, slot_acts (by decide +kernel), rfl⟩

/-- Word (0, 0) of a buffer as it is given. -/
def withWord (k : Fin 4) (x : W32) (r : Running) : Running :=
  { r with ctx := { r.ctx with v := r.ctx.v.set k [(0, x)] } }

/-- The row's slot is −1, its token is −1, its request is finished, or pinned to an epoch that the step does not use. -/
def requestState (r : Running) (q : ReqSlot) : State := (running r).on fun c => c.modTenant 0 fun t => { t with slots := [(0, q)] }

theorem witness_EmitForwardsTokens_rows :
    let none_ := withWord 1 0xFFFFFFFF serving
    let dropped := withWord 0 0xFFFFFFFF serving
    let final := { req0 with finalFormed := true }
    let pinned := { req0 with pin := true, wepoch := 9 }
    let second := { serving with stepEpoch := 1 }
    SlotActs (requestState none_ req0) (.emit slot0 mvO) slot0 .st none_ (build0 none_) ∧
    SlotActs (requestState dropped req0) (.emit slot0 mvO) slot0 .st dropped (build0 dropped) ∧
    SlotActs (requestState serving final) (.emit slot0 mvO) slot0 .st serving (build0 serving) ∧
    SlotActs (requestState second pinned) (.emit slot0 mvO) slot0 .st second (build0 second) ∧
    (Buf.get none_.ctx.v[mvO.ix] 0 0).toInt < 0 ∧ (Buf.get dropped.ctx.v[mvO.v] 0 0).toInt < 0 ∧
    ((requestState serving final).view 0 serving).served final = true ∧
    ((requestState second pinned).view 0 second).served pinned = false := by
  refine ⟨slot_acts (by decide +kernel), slot_acts (by decide +kernel), slot_acts (by decide +kernel),
    slot_acts (by decide +kernel), ?_⟩
  decide +kernel

/-- The stop unit's rows: a request that is served, one that is finished, no request, slot −1, a negative token. -/
theorem witness_SamplingAndStopWriteTheirBuffer_requests :
    let none_ := withWord 2 0xFFFFFFFF serving
    let dropped := withWord 1 0xFFFFFFFF serving
    let done := { req0 with finish := some (4, 0) }
    SlotActs servingState (.vstop slot0 vO) slot0 .va serving (build0 serving) ∧
    SlotActs (requestState serving done) (.vstop slot0 vO) slot0 .va serving (build0 serving) ∧
    SlotActs (requestState none_ req0) (.vstop slot0 vO) slot0 .va none_ (build0 none_) ∧
    SlotActs (requestState dropped req0) (.vstop slot0 vO) slot0 .va dropped (build0 dropped) ∧
    Acts serving (.vstop slot0 vO) .va ∧ (build0 serving).slots = [] ∧ req0.finish = none ∧
    (servingState.view 0 serving).served req0 = true ∧ 0 ≤ (Buf.get serving.ctx.v[vO.x] 0 0).toInt ∧
    (Buf.get dropped.ctx.v[vO.x] 0 0).toInt < 0 ∧ (Buf.get none_.ctx.v[vO.y] 0 0).toInt < 0 := by
  refine ⟨slot_acts (by decide +kernel), slot_acts (by decide +kernel), slot_acts (by decide +kernel),
    slot_acts (by decide +kernel), slot_acts (by decide +kernel), ?_⟩
  decide +kernel

def soloGroup : Group :=
  { grp := 5, ten := 0, peers := [], g := 1, rank := 0, next := 0, prev := 0, sqn := 0, dead := false, rx := []
    retained := [], moved := 0 }

theorem witness_SoloCollectiveFormsNonfinite :
    let s := (running run0).on fun c => { c with groups := [soloGroup] }
    SlotActs s (.coll slot0 mvO) slot0 .st run0 (build0 run0) ∧ s.chip.group mvO.grp = some soloGroup ∧
    soloGroup.g = 1 ∧ soloGroup.ten = run0.plan.tenant ∧ soloGroup.dead = false ∧
    Desc.fmt (run0.ctx.desc mvO.td) = some .bf16 ∧
    SlotActs s (.coll slot0 { mvO with cfn := 1 }) slot0 .st run0 (build0 run0) := by
  refine ⟨slot_acts (by decide +kernel), rfl, rfl, rfl, rfl, by decide +kernel, slot_acts (by decide +kernel)⟩

theorem witness_ScalarSlotsWriteOneRegister :
    Acts run0 (.salu slot0 { cfO with fn := 11 }) .cf ∧ Acts run0 (.scmp slot0 { cfO with fn := 5 }) .cf ∧
    Acts run0 (.plog slot0 { cfO with fn := 4 }) .cf ∧ Acts run0 (.param slot0 { cfO with fn := 7 }) .cf ∧
    Acts run0 (.tdset slot0 { cfO with fn := 12 }) .cf := by
  refine ⟨?_, ?_, ?_, ?_, ?_⟩ <;> exact slot_acts (by decide +kernel)

/-- Inside a called routine. -/
def called : Running := withCtx fun c => { c with calls := [2] }

theorem witness_ControlSlotsSetFlow :
    Acts run0 (.loop slot0 cfO) .cf ∧ Acts run0 (.br slot0 cfO) .cf ∧ Acts run0 (.call slot0 cfO) .cf ∧
    Acts called (.ret slot0 cfO) .cf ∧ Acts run0 (.step slot0 cfO) .cf ∧ Acts run0 (.endp slot0 cfO) .cf := by
  refine ⟨?_, ?_, ?_, ?_, ?_, ?_⟩ <;> exact slot_acts (by decide +kernel)

/-- Inside the body of loop 0, which ends at bundle 4, with `n` trips left. -/
def looping (n : Nat) : Ctx :=
  { run0.ctx with loops := [0], lc := run0.ctx.lc.set 0 { active := true, index := 0, count := n, first := 1, last := 4 } }

theorem witness_ControlSlotsSetFlow_loops :
    run0.ctx.loops = [] ∧ (looping 2).loops = [0] ∧ (looping 2).lc[(0 : Fin 8)].last = 4 ∧ (4 : Nat) ≠ 3 ∧
    1 < (looping 2).lc[(0 : Fin 8)].count ∧ (looping 1).lc[(0 : Fin 8)].count ≤ 1 := by decide +kernel

theorem witness_SystemSlotsActOnBundle :
    Acts run0 (.await slot0 { syO with ac := 1 }) .sy ∧ Acts run0 (.trace slot0 syO) .sy ∧ Acts run0 (.event slot0 syO) .sy ∧
    Acts run0 (.layer slot0 syO) .sy ∧ Acts run0 (.seed slot0 syO) .sy ∧ Acts run0 (.cmt slot0 syO) .sy := by
  refine ⟨?_, ?_, ?_, ?_, ?_, ?_⟩ <;> exact slot_acts (by decide +kernel)

/-- P1 is false: the slot has no effect. -/
theorem witness_FalsePredicateHasNoEffect :
    let sl := { slot0 with pred := 1 }
    slotOf (.stv sl mvO) = some sl ∧ slotPosOf (.stv sl mvO) = some .st ∧
    (running run0).slotOpen sl .st = some (run0, build0 run0) ∧ anyPred (.stv sl mvO) = false ∧
    (run0.ctx.predOf sl).val = false ∧
    (running run0).slotOpen sl .va = some (run0, build0 run0) ∧ slotPosOf (.vopt sl { vO with td := 3 }) = some .va := by
  decide +kernel

theorem witness_BundleWritesTogether :
    (build0 run0).boundary = .none ∧ (build0 run0).cmt = false ∧
    (build0 run0).coll = none ∧ run0.replayTo = none ∧ (running run0).mem.sound = true ∧
    ((build0 run0).ctx.advance (build0 run0).flow).pc < run0.plan.image.bundles.length ∧
    ({ build0 run0 with sqns := [5] } : Build).sqns = [5] ∧
    ((running run0).on fun c => { c with groups := [soloGroup] }).chip.group 5 = some soloGroup ∧
    (1 : Fin 4) ≠ 0 := by decide +kernel

theorem witness_ArrayDisciplineIsEnforced :
    Acts shadowFull (.pld slot0 mxO) .mx ∧ shadowFull.ctx.shadow.isSome = true ∧
    Acts { shadowFull with ctx := { shadowFull.ctx with ac := (accIn .ready).ctx.ac } } (.mm slot0 mxO) .mx ∧
    Acts (accIn .opened) (.ewm slot0 mxO) .mx ∧ Acts run0 (.drn slot0 mxO) .mx ∧ Acts run0 (.rel slot0 mxO) .mx ∧
    run0.ctx.ac[(0 : Fin 2)].state ≠ .ready ∧
    Acts (goesOn 1) (.mm slot0 { mxO with init := false }) .mx ∧
    (goesOn 1).ctx.ac[(0 : Fin 2)].m ≠ Desc.rows ((goesOn 1).ctx.desc 1) ∧
    (running run0).chip.run 0 = some run0 ∧ run0.turn = none ∧ (running run0).chip.partPending = none ∧
    (∀ q : Fin 4, (running run0).chip.parts[q].waiting = none) ∧ run0.commits = [] := by
  refine ⟨slot_acts (by decide +kernel), rfl, slot_acts (by decide +kernel), slot_acts (by decide +kernel), slot_acts (by decide +kernel),
    slot_acts (by decide +kernel), by decide +kernel, slot_acts (by decide +kernel), ?_⟩
  decide +kernel

/-! ### Witnesses: queue, reset, rings -/

theorem witness_FrontCommandRuns :
    ({ State.reset with pending := [.coalescedRead, .attach] }).pending = Instr.coalescedRead :: [.attach] ∧
    State.reset.pending = [] := ⟨rfl, rfl⟩

theorem witness_MemoryStaysCanonical :
    let s := { running run0 with pending := [.bar2Write 0 2000 [7]] }
    MemSound s ∧ ∃ s', step s = .next s' ∧ s'.mem.byte (true, 2000) = 7 := ⟨rfl, _, rfl, by decide +kernel⟩

theorem witness_SlotCommandsKeepWindows :
    slotOf (.layer slot0 syO) = some slot0 ∧ ∃ t, exec (.layer slot0 syO) (running run0) = .next t := ⟨rfl, _, rfl⟩

/-- A function whose rings are all enabled, with 64 positions. -/
def openFunc : Func := { Func.reset with rings := Vector.replicate 12 { Ring.reset with log2 := 6, enable := true } }

/-- A firmware image whose checks pass. -/
def fw : FwImage :=
  { fwrel := 5, hwgen := 0, nepmin := 1, nepmax := 2, borever := 0x10001, bodylen := 4096, feat := 0, digest := 77
    digestOk := true, rsaOk := true, slhOk := true }

/-- The module in READY with the driver attached, every ring open and the plan running. -/
def hosted (r : Option Running) : State := State.reset.on fun c =>
  let c := { c with
    boot := { c.boot with state := .ready, img := some fw }, driver := { c.driver with state := .attached, token := 3 }
    pfn := openFunc, vfn := Vector.replicate 16 openFunc }
  (c.setRun 0 r).modTenant 0 fun t =>
    { t with fstate := .running, windows := t.windows.set 0 { tier := some true, base := 0, limit := 32768, grant := 0, kgen := 0 } }

/-- A ring entry from fields: byte offset and value (R299). -/
def entry (fs : List (Nat × Nat)) : Entry := BitVec.ofNat 512 (fs.foldl (fun n x => n + x.2 * 256 ^ x.1) 0)

/-- An entry at the head of a command ring. -/
def withEntry (f : Fn) (e : Entry) (s : State) : State :=
  s.on fun c => c.modRing f 0 fun r => { r with slots := [(0, e)], prod := 1 }

/-- The bytes of tier 1 that are not zero. -/
def withCells (cs : List (Nat × Byte)) (s : State) : State := { s with mem := { s.mem with tier1 := cs } }

/-- A command is at the head of ring 0, and what its taking gives meets `P`. -/
theorem taken {o : Option (Entry × CmdSrc × Chip)} {P : Entry → CmdSrc → Chip → Prop} [∀ e src c, Decidable (P e src c)]
    (h : (match o with
      | some (e, src, c) => decide (P e src c)
      | none => false) = true) : ∃ e src c, o = some (e, src, c) ∧ P e src c := by
  match o with
  | some (e, src, c) => exact ⟨e, src, c, rfl, of_decide_eq_true h⟩
  | none => simp at h

theorem witness_RingsGiveAndTake :
    let c := (withEntry (.vf 0) (entry [(0, 2)]) (hosted none)).chip
    (c.take (.vf 0) 0 1).isSome = true ∧ src0.fn = .vf 0 ∧ c.ringOpen (.vf 0) 8 = true ∧
    (c.func (.vf 0)).rings[8].owed = [] ∧ 1 ≤ (c.func (.vf 0)).rings[8].room ∧
    let d := c.modRing (.vf 0) 9 fun r => { r with prod := 64 }
    d.ringOpen (.vf 0) 9 = true ∧ (d.func (.vf 0)).rings[9].owed = [] ∧ (d.func (.vf 0)).rings[9].room = 0 := by
  decide +kernel

/-- The one ring with an entry, at its turn's begin and within its turn. -/
theorem witness_RingsGiveAndTake_turns :
    let c := (withEntry (.vf 0) (entry [(0, 2)]) (hosted none)).chip
    let d : Chip := { c with scan := ⟨1, 5⟩ }
    c.ringReady (.vf 0) 0 = true ∧ c.ringReady .pf 0 = false ∧
    (∀ (u : Fin 16) (j : Fin 8), (u, j) ≠ (0, 0) → c.ringReady (.vf u) j = false) ∧ (c.scanTurn (.vf 0) 0).isSome = true ∧
    d.ringReady (.vf 0) 0 = true ∧ d.scan.left ≠ 0 ∧ d.scan.at_.val = 1 + 8 * (0 : Fin 16).val + (0 : Fin 8).val := by
  decide +kernel

/-! ### Witnesses: plans -/

/-- A commit point of the plan in a stage. -/
def commit0 (st : CommitStage) : CommitPt :=
  { stage := st, stamp := 0, step := 3, ctx := run0.ctx, inPrologue := false, bound := true
    past := { slots := [], scale := scaleReset, layers := [], copies := [], mbatches := [], used := [] }, stepEpoch := 0
    build := none, coll := none, toks := [], counts := StepCounts.zero 0, groups := [], undo := [((true, 8), 1)], redo := []
    done := 0 }

/-- Drone at a stamp. -/
def atTime (n : Stamp) (s : State) : State := s.on fun c => { c with drone := { c.drone with now := n } }

/-- Bytes 30 and 31 of a codeword read as 0x5A for 0: the code cannot correct it (R238's example). -/
def twoBytes : BitVec 288 := 0x5A5A00000000

/-- Byte 30 alone: the code corrects it. -/
def oneByte : BitVec 288 := 0x5A0000000000

/-- A codeword of tier 1 that is uncorrectable. -/
def spoiled (k : Nat) (s : State) : State := { s with mem := { s.mem with flaw1 := [(k, twoBytes)] } }

/-- A turn-map entry of a kind whose source lies in codeword 1. -/
def turn0 (kind : Byte) : TurnEnt :=
  { dtid := 1, stid := 1, doff := 0, soff := 0, count := 16, kind := kind, sten := 0, grp := 5, rank := 1, convert := false
    src := .home 0 32, sfmt := 4 }

/-- The plan in its prologue, with a turn map. -/
def turning (m : List TurnEnt) (x : List CommitPt) : Running :=
  { run0 with inPrologue := true, plan := { plan0 with turnMap := m }, crossed := x }

/-- A receive that is missing; a source that is uncorrectable; a boundary that a replay has still to reach. -/
theorem witness_PrologueAndCommitPoints_turns :
    (running (turning [turn0 2] [])).chip.inPrologue 0 = some (turning [turn0 2] []) ∧
    (running (turning [turn0 2] [])).chip.mapReady (turning [turn0 2] []).plan = false ∧
    (running (turning [turn0 0] [])).chip.mapReady (turning [turn0 0] []).plan = true ∧
    (spoiled 1 (running (turning [turn0 0] []))).turnBad (turning [turn0 0] []).plan = some (true, 1) ∧
    (running (turning [turn0 0] [])).turnBad (turning [turn0 0] []).plan = none ∧
    (turning [] [commit0 .confirmed]).crossed = commit0 .confirmed :: [] := by decide +kernel

theorem witness_PrologueAndCommitPoints :
    let pro := { run0 with inPrologue := true }
    ((running pro).chip.inPrologue 0 = some pro ∧ (∀ p : Fin 16, (running pro).chip.ports[p].waiting = []) ∧
      (running pro).chip.mapReady pro.plan = true) ∧
    (running run0).chip.active 0 = some run0 ∧
    (let r := { run0 with commits := [commit0 .filling, commit0 .confirmed] }
     (running r).chip.active 0 = some r) ∧
    (let r := { run0 with commits := [commit0 (.complete 0)] }
     (atTime 60000 (running r)).chip.active 0 = some r ∧ 60000 ≤ ((atTime 60000 (running r)).chip.drone.now - 0).toNat) := by
  refine ⟨⟨rfl, by decide +kernel, by decide +kernel⟩, rfl, rfl, rfl, by decide +kernel⟩

/-- At byte 0 a submit record that names byte 256 of window 0 as its image; the image has one U8 tensor of 16 elements
and one bundle, CF.END (R54, R301). -/
def submitState : State :=
  withEntry (.vf 0) (entry [(0, 1), (16, 0xFFF10)]) (withCells
    [(0, 0x10), (1, 0xFF), (2, 0x0F), (9, 1), (256, 0x49), (257, 0x5A), (258, 0x4C), (259, 0x31), (260, 1), (263, 1),
     (264, 1), (272, 1), (384, 1), (388, 16), (396, 7), (397, 1), (559, 9)] (hosted none))

/-- What the placer begins with, and the job. -/
def start0 : BindStart := { versioned := [], rotate := false, kgen := 0, capW := 3600, imb := 0, since := 0 }

def job0 (start : Option BindStart) : BindJob :=
  { tenant := 0, sub := submit0, image := some image0, layoutFault := none, restore := none, start := start, src := src0 }

theorem witness_BindsRunInOrder :
    (∃ e src c, submitState.chip.takeOp (.vf 0) 0 0x01 3 = some (e, src, c) ∧ c.placer.jobs.length ≤ 32 ∧
      (submitState.cmdBytes 0 (BitVec.ofNat 20 (entryAt e 16 4)) (entryAt e 20 8 % 2 ^ 48) 256).any (fun b =>
        (State.imageBytes { submitState with chip := c } 0 (SubmitRec.read b)).any fun bytes =>
          c.headOk (ImageHead.read bytes) && match Image.parse c.tenants[(0 : Fin 16)] bytes with
            | .ok _ => true
            | .error _ => false) = true) ∧
    (let s := (hosted none).on fun c => { c with placer := { c.placer with jobs := [job0 (some start0)] } }
     s.chip.placer.rebinds = [] ∧ s.chip.placer.jobs = job0 (some start0) :: [] ∧
     (job0 (some start0)).start = some start0 ∧ (job0 (some start0)).restore = none) ∧
    (let s := (running run0).on fun c => { c with placer := { c.placer with rebinds := [0] } }
     s.chip.placer.rebinds = 0 :: [] ∧ s.chip.run 0 = some run0) ∧
    (let r := { run0 with altsReady := false }
     let s := (running r).on fun c => { c with placer := { c.placer with rebinds := [0] } }
     s.chip.placer.rebinds = 0 :: [] ∧ s.chip.run 0 = some r ∧ r.altsReady = false) := by
  exact ⟨taken (by decide +kernel), ⟨rfl, rfl, rfl, rfl⟩, ⟨rfl, rfl⟩, rfl, rfl, rfl⟩

/-- What the placer's schedule states in the witness below: it fits, and lists nothing. -/
def figFits : PlacerFig := { (default : PlacerFig) with fits := true }

/-- An image of one bundle, CF.END, with a U8 tensor of 4,096 elements for the binding record. -/
def image1 : Image :=
  { image0 with tensors := [{ ent 1 7 0 .ordinary 0 with count := 4096 }], descs := [0], bundles := image0.bundles.take 1 }

def job1 (part : Byte) : BindJob := { job0 (some start0) with image := some image1, sub := { submit0 with brtid := 1, part := part, storeC := 0 } }

def verdict (part : Byte) : Option Bool :=
  match (hosted none).judgeBind (job1 part) start0 with
  | .ok _ => some true
  | .error (st, _) => if st = 0x0022 then some false else none

/-- The bind of partition 9, which is no target, fails. What the placer's schedule states is free
(notes/assumptions/6.md): where it states that the plan fits, the bind of partition 0 finds nothing wrong. -/
theorem witness_BindsRunInOrder_verdicts :
    verdict 9 = some false ∧ ((∀ x, Config.placement x = figFits) → verdict 0 = some true) := by
  refine ⟨by decide +kernel, fun h => ?_⟩
  have hs : ∀ (c : Chip) (st : BindStart) (p : Plan) (d : DryAll), c.settlePlan st p d =
      { p with emax := d.emax, passes := d.passes, fig := figFits.legal st.capW } := fun c st p d => by
    simp only [Chip.settlePlan, Chip.schedule, h]
  unfold verdict State.judgeBind
  simp -zeta only [hs]
  decide +kernel

/-! ### Witnesses: the tenant's rings -/

/-- MBATCH of a step and a length. -/
def mbatchState (step len : Nat) : State := withEntry (.vf 0) (entry [(0, 2), (16, step), (20, len)]) (hosted (some run0))

def MbatchMeets (step len : Nat) : Prop :=
  ∃ e src c, (mbatchState step len).chip.takeOp (.vf 0) 0 0x02 1 = some (e, src, c) ∧
    c.batchPlan 0 = some (plan0, 3, true) ∧ entryAt e 16 4 = step ∧ entryAt e 20 4 = len

/-- The plan stands in step 3, which has begun: steps 3 and 8 are refused, lengths 0 and 2^20 + 1 at steps 4 and 7 are
out of range, length 4 fits slot 0 at step 4 and length 8 slot 1 at step 7. -/
theorem witness_MicroBatchesAreAdmitted :
    MbatchMeets 3 4 ∧ MbatchMeets 8 4 ∧ MbatchMeets 4 0 ∧ MbatchMeets 7 1048577 ∧ MbatchMeets 4 4 ∧ MbatchMeets 7 8 ∧
    plan0.buckets 4 = [4, 8] ∧ pickSlot [4, 8] [] 4 = some 0 ∧ pickSlot [4, 8] [] 8 = some 1 ∧
    pickSlot [4, 8] [0, 1] 4 = none ∧ (8 * plan0.bpt + 2097151) / 2097152 ≤ plan0.sub.storeC.toNat :=
  ⟨taken (by decide +kernel), taken (by decide +kernel), taken (by decide +kernel), taken (by decide +kernel),
    taken (by decide +kernel), taken (by decide +kernel), by decide +kernel⟩

def adm0 : PendAdm :=
  { tag := 0, row := Vector.replicate 64 0, prompt := [], aid := 0xFFFF, unpin := false, plan := 9, src := src0 }

/-- ADMIT of a prompt of `plen` tokens with adapter `aid`; the record's MAXNEW is 8, its deadline 0 (R217). -/
def admitState (plen aid now pending : Nat) (deadline : Byte) : State :=
  atTime (BitVec.ofNat 64 now) (withEntry (.vf 0)
    (entry [(0, 3), (16, 5), (24, 0xFFF10), (28, 1024), (36, 0xFFF10), (40, 2048), (48, plen), (52, aid)])
    (withCells (if deadline = 0 then [(1024 + 4 * 54, 8)] else [(1024 + 4 * 54, 8), (1024 + 4 * 55, deadline)])
      ((hosted (some serving)).on fun c => c.modTenant 0 fun t => { t with pendAdm := List.replicate pending adm0 })))

def servingTable : ReqTable := { nslot := 4, pmax := 16, ctx := 64, admax := 2, ptid := 2 }

def AdmitMeets (plen aid now : Nat) (deadline : Byte) (fits : Bool) : Prop :=
  let s := admitState plen aid now 0 deadline
  ∃ e src c, s.chip.takeOp (.vf 0) 0 0x03 1 = some (e, src, c) ∧
    c.servingPlan 0 = some serving.plan ∧ entryAt e 48 4 = plen ∧ entryAt e 52 2 = aid ∧
    c.tenants[(0 : Fin 16)].pendAdm = [] ∧ c.drone.now = BitVec.ofNat 64 now ∧ (c.tenants[(0 : Fin 16)].curAdapter 3).isNone = true ∧
    (State.planBytes { s with chip := c } 0 serving.plan (BitVec.ofNat 20 (entryAt e 24 4)) (entryAt e 28 8 % 2 ^ 48) 256).any
      (fun b =>
        let row := admitRow (wordsOf 64 b)
        admitFits servingTable plen row == fits && decide (row[55].toNat = deadline.toNat ∧ row[56].toNat = 0)) = true ∧
    (State.planBytes { s with chip := c } 0 serving.plan (BitVec.ofNat 20 (entryAt e 36 4)) (entryAt e 40 8 % 2 ^ 48)
      (4 * plen)).isSome = true

/-- Prompt lengths 0 and 17 fail, 1 and 16 pass; adapter 3 is not there; deadline 200 has passed at 200, not at 199; a
table of 4,096 pending admissions is full. -/
theorem witness_AdmissionsBecomePending :
    serving.plan.req = some servingTable ∧ AdmitMeets 0 0xFFFF 0 0 false ∧ AdmitMeets 17 0xFFFF 0 0 false ∧
    AdmitMeets 1 0xFFFF 0 0 true ∧ AdmitMeets 16 0xFFFF 199 200 true ∧ AdmitMeets 16 0xFFFF 200 200 true ∧
    AdmitMeets 1 3 0 0 true ∧ (admitState 1 0xFFFF 0 4096 0).chip.tenants[(0 : Fin 16)].pendAdm.length = 4096 :=
  ⟨rfl, taken (by decide +kernel), taken (by decide +kernel), taken (by decide +kernel), taken (by decide +kernel),
    taken (by decide +kernel), taken (by decide +kernel), by decide +kernel⟩

/-- A group of two ranks whose partner is behind port 1. -/
def pairGroup : Group :=
  { soloGroup with peers := [(0, 1), (1, 2)], g := 2, next := 2, prev := 2 }

def loadedKeys : Vector KeySlot 8 := (Vector.replicate 8 .empty).set 1 (.loaded 99)

/-- A FETCH of weight epoch 6, one U8 tensor of 4 elements into window 0, from rank 1 of group 5. -/
def fetchState (sws : Nat) : State :=
  withEntry (.vf 0) (entry [(0, 4), (16, 6), (21, 1), (23, sws), (24, 44), (28, 5), (30, 1), (32, 0xFFF10), (36, 1)])
    (withCells [(0, 1), (8, 4)] ((hosted (some run0)).on fun c =>
      { c with groups := [pairGroup] }.modTenant 0 fun t => { t with keys := loadedKeys }))

def FetchMeets (sws : Nat) : Prop :=
  ∃ e src c, (fetchState sws).chip.takeOp (.vf 0) 0 0x04 1 = some (e, src, c) ∧ epochSet e = some none ∧
    (State.fetchManifest { fetchState sws with chip := c } 0 e).any (fun ts =>
      c.tenants[(0 : Fin 16)].copyFits (Fin.ofNat 16 (entryAt e 22 1)) ts) = true ∧
    entryAt e 21 1 < 8 ∧ entryAt e 22 1 < 16 ∧ c.tenants[(0 : Fin 16)].keys[Fin.ofNat 8 (entryAt e 21 1)] = .loaded 99 ∧
    BitVec.ofNat 16 (entryAt e 16 2) ≠ 0 ∧ c.tenants[(0 : Fin 16)].heldEpochs none = [] ∧ c.copyRoom 0 none = true ∧
    c.serverThere 0 (BitVec.ofNat 12 (entryAt e 28 2)) (BitVec.ofNat 16 (entryAt e 30 2)) = true ∧
    entryAt e 23 1 % 2 = sws ∧ c.tenants[(0 : Fin 16)].switches = []

theorem witness_FetchBeginsItsCopy : FetchMeets 0 ∧ FetchMeets 1 := ⟨taken (by decide +kernel), taken (by decide +kernel)⟩

/-- A weight copy of epoch 6 with BF16 tensor 1 of 4 elements. -/
def copy0 (st : CopyState) : EpochCopy :=
  { adapter := none, epoch := 6, state := st, win := 0, tensors := [{ tid := 1, count := 4, fmt := 4, cells := [] }]
    retainedFor := 0 }

def fetch0 : Fetch :=
  { aid := none, epoch := 6, keySlot := 1, streamid := 44, grp := 5, rank := 1, segs := [], written := [], total := 4
    stream := [], src := src0 }

/-- A segment of `n` bytes: 8 carry the whole tensor, 4 a half. -/
def segment0 (n : Nat) : Segment :=
  { streamid := 44, seg := 0, epoch := 6, aid := 0, tid := 1, offset := 0, sflags := 0, cipher := List.replicate n 0, tag := 0 }

def fetching : State := (hosted (some run0)).on fun c =>
  { c with groups := [pairGroup] }.modTenant 0 fun t => { t with keys := loadedKeys, copies := [copy0 .filling], fetches := [fetch0] }

/-- Which bytes the cipher opens to is free (notes/assumptions/4.md); the manual's own checks pass for 4 and 8 bytes and
fail for 10 and for 3. The plan's share of slots is 1; with a share of 0 the fetch does not move. -/
theorem witness_SegmentsFillTheirCopy :
    fetching.chip.tenants[(0 : Fin 16)].fetches = fetch0 :: [] ∧
    fetching.chip.tenants[(0 : Fin 16)].copyOf fetch0.aid fetch0.epoch = some (copy0 .filling) ∧
    (copy0 .filling).state = .filling ∧ fetching.chip.serverThere 0 5 1 = true ∧
    fetch0.accepts (copy0 .filling) (segment0 8) = some (.bf16, 4) ∧
    fetch0.accepts (copy0 .filling) (segment0 4) = some (.bf16, 2) ∧
    fetch0.accepts (copy0 .filling) (segment0 10) = none ∧ fetch0.accepts (copy0 .filling) (segment0 3) = none ∧
    fetching.chip.fetchMoves 0 = true ∧
    (fetching.on fun c => c.setRun 0 (some { run0 with plan := { plan0 with sub := { submit0 with fshare := 0 } } })).chip.fetchMoves 0
      = false := by
  decide +kernel

def epochState (opc : Nat) (st : CopyState) : State :=
  withEntry (.vf 0) (entry [(0, opc), (16, 6)])
    ((hosted (some run0)).on fun c => c.modTenant 0 fun t => { t with copies := [copy0 st] })

def EpochMeets (opc : Nat) (st : CopyState) : Prop :=
  ∃ e src c, (epochState opc st).chip.takeOp (.vf 0) 0 opc 1 = some (e, src, c) ∧ epochSet e = some none ∧
    c.tenants[(0 : Fin 16)].copyOf none (BitVec.ofNat 16 (entryAt e 16 2)) = some (copy0 st) ∧
    c.tenants[(0 : Fin 16)].switches = [] ∧ c.tenants[(0 : Fin 16)].retires = []

/-- The same with a switch of the set pending, and with the fetch that fills the copy. -/
def pendingState (opc : Nat) (st : CopyState) : State :=
  (epochState opc st).on fun c => c.modTenant 0 fun t =>
    { t with fetches := [fetch0], switches := [{ aid := none, epoch := 7, src := none, replaced := [] }] }

def PendingMeets (opc : Nat) (st : CopyState) : Prop :=
  ∃ e src c, (pendingState opc st).chip.takeOp (.vf 0) 0 opc 1 = some (e, src, c) ∧ epochSet e = some none ∧
    c.tenants[(0 : Fin 16)].copyOf none (BitVec.ofNat 16 (entryAt e 16 2)) = some (copy0 st) ∧
    c.tenants[(0 : Fin 16)].fetchOf none (BitVec.ofNat 16 (entryAt e 16 2)) = some fetch0 ∧
    ∃ w ∈ c.tenants[(0 : Fin 16)].switches, w.aid = none

/-- A command whose set is none, or whose epoch has no copy. -/
def NoCopyMeets (opc set : Nat) : Prop :=
  ∃ e src c, (withEntry (.vf 0) (entry [(0, opc), (16, 6), (20, set)]) (hosted (some run0))).chip.takeOp (.vf 0) 0 opc 1 =
      some (e, src, c) ∧
    (epochSet e = none ∨ epochSet e = some none ∧ c.tenants[(0 : Fin 16)].copyOf none (BitVec.ofNat 16 (entryAt e 16 2)) = none)

theorem witness_SwitchAndRetireActOnCopies_others :
    PendingMeets 5 .current ∧ PendingMeets 6 .current ∧ PendingMeets 6 .filling ∧ NoCopyMeets 5 0 ∧ NoCopyMeets 5 255 ∧
    NoCopyMeets 6 0 ∧ NoCopyMeets 6 255 :=
  ⟨taken (by decide +kernel), taken (by decide +kernel), taken (by decide +kernel), taken (by decide +kernel),
    taken (by decide +kernel), taken (by decide +kernel), taken (by decide +kernel)⟩

theorem witness_SwitchAndRetireActOnCopies :
    EpochMeets 5 .filling ∧ EpochMeets 5 .staged ∧ EpochMeets 5 .current ∧ EpochMeets 5 .retained ∧
    EpochMeets 6 .staged ∧ EpochMeets 6 .current ∧ EpochMeets 6 .retained :=
  ⟨taken (by decide +kernel), taken (by decide +kernel), taken (by decide +kernel), taken (by decide +kernel),
    taken (by decide +kernel), taken (by decide +kernel), taken (by decide +kernel)⟩

/-- GROUP with a record of group 5, tenant 0, of `g` ranks, rank 0. -/
def groupState (g : Byte) : State :=
  withEntry (.vf 0) (entry [(0, 7), (16, 0xFFF10)]) (withCells (if g = 0 then [(0, 5)] else [(0, 5), (4, g)]) (hosted none))

/-- RELEASE of plan 9, which is bound. -/
def releaseState (id : Nat) : State :=
  withEntry (.vf 0) (entry [(0, 11), (16, id)])
    ((hosted none).on fun c => { c with placer := { c.placer with bound := [plan0] } })

def GroupMeets (g : Byte) (ok : Bool) : Prop :=
  ∃ e src c, (groupState g).chip.takeOp (.vf 0) 0 0x07 1 = some (e, src, c) ∧
    (State.cmdBytes { groupState g with chip := c } 0 (BitVec.ofNat 20 (entryAt e 16 4)) (entryAt e 20 8 % 2 ^ 48) 80).any
      (fun b => decide (leAt b 4 4 = g.toNat) && (c.groupOk 0 (GroupRec.read b) == ok)) = true

theorem witness_GroupAndReleaseAct :
    GroupMeets 0 false ∧ GroupMeets 1 true ∧
    (∃ e src c, (releaseState 9).chip.takeOp (.vf 0) 0 0x0B 1 = some (e, src, c) ∧
      (c.placer.bound.find? fun p => decide (p.id = BitVec.ofNat 16 (entryAt e 16 2)) && decide (p.tenant = 0)) = some plan0 ∧
      c.turnNames 9 = false ∧ plan0.req = none) ∧
    (∃ e src c, (releaseState 8).chip.takeOp (.vf 0) 0 0x0B 1 = some (e, src, c) ∧
      ∀ p ∈ c.placer.bound, p.id ≠ BitVec.ofNat 16 (entryAt e 16 2) ∨ p.tenant ≠ 0) ∧
    (∃ e src c, ((releaseState 9).on fun c => c.modPart 0 fun x => { x with waiting := some (9, src0) }).chip.takeOp (.vf 0) 0
        0x0B 1 = some (e, src, c) ∧
      (c.placer.bound.find? fun p => decide (p.id = BitVec.ofNat 16 (entryAt e 16 2)) && decide (p.tenant = 0)) = some plan0 ∧
      c.turnNames 9 = true) := by
  exact ⟨taken (by decide +kernel), taken (by decide +kernel), taken (by decide +kernel), taken (by decide +kernel),
    taken (by decide +kernel)⟩

/-- KEYLOAD of key slot 1 with OP `op`, its buffer at byte 0 of window 0. -/
def keyState (op : Nat) (k : KeySlot) (fs : List Fetch) : State :=
  withEntry (.vf 0) (entry [(0, 8), (16, op), (17, 1), (20, 0xFFF10)]) (withCells [(0, 1), (5, 1)]
    ((hosted none).on fun c => c.modTenant 0 fun t => { t with keys := t.keys.set 1 k, fetches := fs }))

/-- Whether a wrap opens is free (notes/assumptions/4.md); the manual's own checks pass for the wrap at byte 0. -/
theorem witness_KeySlotsFollowTheirCommands :
    (∃ e src c, (keyState 0 .empty []).chip.takeOp (.vf 0) 0 0x08 1 = some (e, src, c) ∧ entryAt e 17 1 < 8 ∧ entryAt e 16 1 = 0 ∧
      c.tenants[(0 : Fin 16)].keys[Fin.ofNat 8 (entryAt e 17 1)] = .empty ∧
      c.cmdRegion 0 (BitVec.ofNat 20 (entryAt e 20 4)) (entryAt e 24 8 % 281474976710656) 18864 = some (0, 0)) ∧
    (∃ e src c, (keyState 1 (.armed 4 5) []).chip.takeOp (.vf 0) 0 0x08 1 = some (e, src, c) ∧ entryAt e 17 1 < 8 ∧ entryAt e 16 1 = 1 ∧
      c.tenants[(0 : Fin 16)].keys[Fin.ofNat 8 (entryAt e 17 1)] = .armed 4 5 ∧
      (State.cmdBytes { keyState 1 (.armed 4 5) [] with chip := c } 0 (BitVec.ofNat 20 (entryAt e 20 4))
        (entryAt e 24 8 % 281474976710656) 2032).any (fun w => c.wrapFits 0 1 w) = true) ∧
    (∃ e src c, (keyState 1 .empty []).chip.takeOp (.vf 0) 0 0x08 1 = some (e, src, c) ∧ entryAt e 16 1 = 1 ∧
      c.tenants[(0 : Fin 16)].keys[Fin.ofNat 8 (entryAt e 17 1)] = .empty) ∧
    (∃ e src c, (keyState 2 (.loaded 9) []).chip.takeOp (.vf 0) 0 0x08 1 = some (e, src, c) ∧ entryAt e 16 1 = 2 ∧
      c.tenants[(0 : Fin 16)].fetches = []) ∧
    (∃ e src c, (keyState 2 (.loaded 9) [fetch0]).chip.takeOp (.vf 0) 0 0x08 1 = some (e, src, c) ∧ entryAt e 16 1 = 2 ∧
      ∃ f ∈ c.tenants[(0 : Fin 16)].fetches, f.keySlot = Fin.ofNat 8 (entryAt e 17 1)) ∧
    (let j : AttestJob := { tenant := 0, slot := 1, win := 0, off := 0, nonce := 6, src := src0 }
     let s := (hosted none).on fun c => { c with attests := [j] }
     s.chip.attests = j :: [] ∧ s.chip.tenants[j.tenant].keys[j.slot] = .empty) :=
  ⟨taken (by decide +kernel), taken (by decide +kernel), taken (by decide +kernel), taken (by decide +kernel),
    taken (by decide +kernel), rfl, rfl⟩

/-- Slot number 8 is no key slot; a LOADED slot takes no ATTEST; a report for a slot that is LOADED by then. -/
theorem witness_KeySlotsFollowTheirCommands_refused :
    (∃ e src c, (withEntry (.vf 0) (entry [(0, 8), (16, 2), (17, 8)]) (hosted none)).chip.takeOp (.vf 0) 0 0x08 1 =
      some (e, src, c) ∧ 8 ≤ entryAt e 17 1) ∧
    (∃ e src c, (keyState 0 (.loaded 9) []).chip.takeOp (.vf 0) 0 0x08 1 = some (e, src, c) ∧ entryAt e 17 1 < 8 ∧
      entryAt e 16 1 = 0 ∧ c.tenants[(0 : Fin 16)].keys[Fin.ofNat 8 (entryAt e 17 1)] = .loaded 9) ∧
    (let j : AttestJob := { tenant := 0, slot := 1, win := 0, off := 0, nonce := 6, src := src0 }
     let s := (keyState 0 (.loaded 9) []).on fun c => { c with attests := [j] }
     s.chip.attests = j :: [] ∧ s.chip.tenants[j.tenant].keys[j.slot] = .loaded 9) :=
  ⟨taken (by decide +kernel), taken (by decide +kernel), rfl, rfl⟩

def saved0 : Saved :=
  { tag := 0, hwgen := 0, nepoch := 1, image := image0, plan := 9, step := 3, ctx := run0.ctx, atBoundary := true
    stamp := 0, slots := [], layers := [], scale := scaleReset, copies := [], switches := [], groups := [] }

def saveEntry (opc : Nat) : Entry := entry [(0, opc), (16, 0xFFF10), (28, 4096)]

/-- The tenant in a state, with the context that a fault restored and with saves. -/
def saveState (opc : Nat) (st : FState) (x : Option Saved) : State :=
  withEntry (.vf 0) (saveEntry opc) ((hosted none).on fun c => c.modTenant 0 fun t => { t with fstate := st, faulted := x })

/-- A context image of `n` bytes to be written at byte 0 of window 0. -/
def save0 (n : Nat) : PendSave := { off := 0, win := 0, len := n, endPlan := false, src := src0, taken := some saved0 }

/-- The length of a context image is free (notes/assumptions/5.md): the last two clauses are met when it is at most
32,768 bytes, and when it is more than the 0 bytes offered. -/
theorem witness_SaveAndRestoreContexts :
    (∃ e src c, (saveState 9 .running none).chip.takeOp (.vf 0) 0 0x09 1 = some (e, src, c) ∧
      (c.cmdRef 0 (BitVec.ofNat 20 (entryAt e 16 4))).isSome = true ∧ c.tenants[(0 : Fin 16)].fstate = .running) ∧
    (∃ e src c, (saveState 9 .faulted (some saved0)).chip.takeOp (.vf 0) 0 0x09 1 = some (e, src, c) ∧
      (c.cmdRef 0 (BitVec.ofNat 20 (entryAt e 16 4))).isSome = true ∧ c.tenants[(0 : Fin 16)].fstate = .faulted ∧
      c.tenants[(0 : Fin 16)].faulted = some saved0) ∧
    (∃ e src c, (saveState 9 .idle none).chip.takeOp (.vf 0) 0 0x09 1 = some (e, src, c) ∧
      (c.cmdRef 0 (BitVec.ofNat 20 (entryAt e 16 4))).isSome = true ∧ c.tenants[(0 : Fin 16)].fstate = .idle) ∧
    (∃ e src c, (withEntry (.vf 0) (saveEntry 10) (hosted (some run0))).chip.takeOp (.vf 0) 0 0x0A 1 = some (e, src, c) ∧
      c.holdsPlan 0 none = true) ∧
    (∃ e src c, (saveState 10 .idle none).chip.takeOp (.vf 0) 0 0x0A 1 = some (e, src, c) ∧
      c.holdsPlan 0 none = false ∧ c.placer.jobs = []) ∧
    (∀ n, let s := (hosted none).on fun c => c.modTenant 0 fun t => { t with saves := [save0 n] }
      (s.chip.tenants[(0 : Fin 16)].saves.find? fun v => v.taken.isSome) = some (save0 n) ∧ (save0 n).taken = some saved0) ∧
    ((Config.contextBytes saved0.tag).length ≤ 32768 →
      (hosted none).chip.tenants[(0 : Fin 16)].inWin 0 0 (Config.contextBytes saved0.tag).length = true) := by
  refine ⟨taken (by decide +kernel), taken (by decide +kernel), taken (by decide +kernel), taken (by decide +kernel),
    taken (by decide +kernel), fun n => ⟨rfl, rfl⟩, fun h => ?_⟩
  have g : (hosted none).chip.tenants[(0 : Fin 16)].windows[(0 : Fin 16)].tier.isSome = true ∧
      (hosted none).chip.tenants[(0 : Fin 16)].windows[(0 : Fin 16)].limit.toNat -
        (hosted none).chip.tenants[(0 : Fin 16)].windows[(0 : Fin 16)].base.toNat = 32768 := by decide +kernel
  simp only [Tenant.inWin, g.1, g.2, Nat.zero_add, h, decide_true, Bool.and_self]

/-- A paused tenant; a faulted one that has no context; a SAVE to a tensor number that names nothing. -/
theorem witness_SaveAndRestoreContexts_none :
    (saveState 9 .paused none).chip.tenants[(0 : Fin 16)].fstate = .paused ∧
    (∃ e src c, (saveState 9 .faulted none).chip.takeOp (.vf 0) 0 0x09 1 = some (e, src, c) ∧
      (c.cmdRef 0 (BitVec.ofNat 20 (entryAt e 16 4))).isSome = true ∧ c.tenants[(0 : Fin 16)].fstate = .faulted ∧
      c.tenants[(0 : Fin 16)].faulted = none) ∧
    (∃ e src c, (withEntry (.vf 0) (entry [(0, 9), (16, 3)]) (hosted none)).chip.takeOp (.vf 0) 0 0x09 1 = some (e, src, c) ∧
      c.cmdRef 0 (BitVec.ofNat 20 (entryAt e 16 4)) = none) :=
  ⟨rfl, taken (by decide +kernel), taken (by decide +kernel)⟩

/-- What the free reading of a context's bytes answers is what RESTORE finds, where SAVE has written no image. -/
theorem witness_SaveAndRestoreContexts_restore (x : Saved)
    (h : ∀ bs, Config.contextOf bs = some x) : (hosted none).contextAt 0 0xFFF10 0 = some x := by
  have : (hosted none).contextAt 0 0xFFF10 0 = Config.contextOf ((hosted none).chip.tenants[(0 : Fin 16)].bytes Mem.reset 0 0 32768) := by
    rfl
  rw [this, h]

/-! ### Witnesses: the admin ring and the host's registers -/

/-- A command of PF ring 0, with the driver in a state. -/
def adminState (d : DrvState) (fs : List (Nat × Nat)) (r : Option Running) : State :=
  withEntry .pf (entry fs) ((hosted r).on fun c => { c with driver := { c.driver with state := d } })

def AdminMeets (d : DrvState) (opc : Nat) (fs : List (Nat × Nat)) (P : Entry → Chip → Bool) : Prop :=
  ∃ e src c, (adminState d ((0, opc) :: fs) none).chip.takeOp .pf 0 opc 1 = some (e, src, c) ∧ c.driver.state = d ∧ P e c = true

theorem witness_DriverPresenceIsTracked :
    AdminMeets .attached 0x81 [] (fun _ _ => true) ∧
    AdminMeets .never 0x81 [] (fun e _ => decide (BitVec.ofNat 128 (entryAt e 16 16) = 0)) ∧
    AdminMeets .absent 0x81 [(16, 3)] (fun e c => decide (BitVec.ofNat 128 (entryAt e 16 16) = c.driver.token) &&
      decide (∀ p : Fin 4, c.parts[p].waiting = none)) ∧
    AdminMeets .detached 0x81 [(16, 4)] (fun e c => decide (BitVec.ofNat 128 (entryAt e 16 16) ≠ c.driver.token)) ∧
    AdminMeets .attached 0x82 [] (fun _ _ => true) ∧
    (let s := atTime 1000000000 (hosted none)
     s.chip.power = .running ∧ s.chip.driver.state = .attached ∧
     s.chip.mram.hbTimeout.toNat * 1000000 ≤ (s.chip.drone.now - s.chip.driver.changed).toNat) :=
  ⟨taken (by decide +kernel), taken (by decide +kernel), taken (by decide +kernel), taken (by decide +kernel),
    taken (by decide +kernel), rfl, rfl, by decide +kernel⟩

/-- A verified release waits, or is queued, 2 s after the limiter's last change. -/
def activation0 (img : FwImage) : Activation := { img := img, src := { src0 with fn := .pf } }

theorem witness_ActivationsAreQueuedAndTaken :
    AdminMeets .attached 0x83 [] (fun e _ => decide (entryAt e 28 1 % 2 = 0)) ∧
    AdminMeets .attached 0x83 [(28, 1)] (fun e _ => decide (entryAt e 28 1 % 2 = 1)) ∧
    (let s := (hosted none).on fun c => { c with boot := { c.boot with verifying := [activation0 fw] } }
     s.chip.boot.verifying = activation0 fw :: [] ∧ fw.digestOk = true ∧ fw.rsaOk = true ∧ fw.slhOk = true ∧
     fw.hwgen = s.chip.mram.hwgen ∧ fw.bodylen.toNat ≤ 16777216 ∧ s.chip.releaseFits fw = true) ∧
    ({ fw with slhOk := false }).slhOk = false ∧
    (let s := atTime 2000000000 ((hosted none).on fun c => { c with boot := { c.boot with queued := some fw } })
     s.chip.boot.queued = some fw ∧ s.chip.power = .running ∧ s.chip.limiter.state = .normal ∧
     2000000000 ≤ (s.chip.drone.now - s.chip.limiter.since).toNat ∧ ∀ p : Fin 4, s.chip.run p = none) ∧
    (hosted (some run0)).chip.run 0 = some run0 ∧ run0.atBoundary = true :=
  ⟨taken (by decide +kernel), taken (by decide +kernel), by decide +kernel, rfl, by decide +kernel, rfl, rfl⟩

/-- The driver is away; the release is for another hardware; the limiter is not NORMAL; the placer's job is in progress. -/
theorem witness_ActivationsAreQueuedAndTaken_others :
    AdminMeets .absent 0x83 [] (fun e c => decide (entryAt e 28 1 % 2 = 0) && c.driverAway) ∧
    AdminMeets .detached 0x83 [(28, 1)] (fun e c => decide (entryAt e 28 1 % 2 = 1) && c.driverAway) ∧
    AdminMeets .attached 0x83 [(28, 1)] (fun _ c => !c.driverAway) ∧
    ({ fw with hwgen := 1 }).hwgen ≠ (hosted none).chip.mram.hwgen ∧ ({ fw with bodylen := 16777217 }).bodylen.toNat > 16777216 ∧
    (let s := (hosted none).on fun c => { c with
       boot := { c.boot with verifying := [activation0 fw] }, limiter := { c.limiter with state := .emergency } }
     s.chip.boot.verifying = activation0 fw :: [] ∧ s.chip.limiter.state ≠ .normal) ∧
    (let s := (hosted none).on fun c => { c with placer := { c.placer with jobs := [job0 (some start0)] } }
     s.chip.placer.jobs = job0 (some start0) :: []) :=
  ⟨taken (by decide +kernel), taken (by decide +kernel), taken (by decide +kernel), by decide +kernel, by decide +kernel,
    ⟨rfl, by decide +kernel⟩, rfl⟩

def noWin : WinRec := { base := 0, limit := 0, tier := 0, grant := 0, rsv := false }

/-- A record of one window: 2 MiB of tier 1 from 2 MiB on. -/
def wins0 : List WinRec := { base := 0x200000, limit := 0x400000, tier := 1, grant := 0, rsv := false } :: List.replicate 15 noWin

/-- A record that changes grants alone: window 0 as it stands, granted to tenant 1. -/
def wins1 : List WinRec := { base := 0, limit := 32768, tier := 1, grant := 2, rsv := false } :: List.replicate 15 noWin

/-- A grant to a tenant of a window that does not exist under the number. -/
def wins2 : List WinRec := { base := 0, limit := 32768, tier := 2, grant := 2, rsv := false } :: List.replicate 15 noWin

/-- CONFIGURE and DESTROY of a tenant with a plan, CONFIGURE with windows that stand for another tenant, GRANT of a window that
is not in force as the record says, and a record that is not there. -/
theorem witness_TenantsAreSetAndReset_refused :
    (∃ e src c, (adminState .attached [(0, 0x84), (16, 0), (24, 960000000000)] (some run0)).chip.takeOp .pf 0 0x84 1 =
        some (e, src, c) ∧ c.driverAway = false ∧ entryAt e 17 1 = 0 ∧ c.occupied 0 = true) ∧
    (∃ e src c, (adminState .attached [(0, 0x84), (16, 0), (17, 1)] (some run0)).chip.takeOp .pf 0 0x84 1 =
        some (e, src, c) ∧ c.driverAway = false ∧ entryAt e 17 1 = 1 ∧ c.occupied 0 = true) ∧
    AdminMeets .attached 0x84 [(16, 15), (24, 960000000000)] (fun _ c => !c.configOk 15
      ({ base := 0, limit := 0x200000, tier := 1, grant := 0, rsv := false } :: List.replicate 15 noWin)) ∧
    AdminMeets .attached 0x84 [(16, 0), (17, 2), (24, 960000000000)] (fun e c =>
      decide (wins2.length = 16) && c.recordThere e && (wins2[0]?).any fun w => !c.grantOk 0 0 w) ∧
    AdminMeets .attached 0x84 [(16, 0), (17, 2)] (fun e c => !c.recordThere e) ∧
    (∀ (p : Fin 4), (hosted (some run0)).chip.parts[p].waiting = none) ∧ run0.turn = none ∧
    (hosted (some run0)).chip.partPending = none :=
  ⟨taken (by decide +kernel), taken (by decide +kernel), taken (by decide +kernel), taken (by decide +kernel),
    taken (by decide +kernel), by decide +kernel, rfl, rfl⟩

theorem witness_TenantsAreSetAndReset :
    AdminMeets .attached 0x84 [(16, 15), (24, 960000000000)] (fun e c =>
      decide (entryAt e 16 1 = 15 ∧ entryAt e 18 6 = 0 ∧ entryAt e 32 32 = 0 ∧ entryAt e 17 1 = 0) && c.recordThere e &&
        !c.occupied 15 && c.configOk 15 wins0) ∧
    AdminMeets .attached 0x84 [(16, 1), (17, 1)] (fun e c =>
      decide (entryAt e 16 1 = 1 ∧ entryAt e 18 6 = 0 ∧ entryAt e 32 32 = 0 ∧ entryAt e 17 1 = 1) && !c.occupied 1) ∧
    AdminMeets .attached 0x84 [(16, 0), (17, 2), (24, 960000000000)] (fun e c =>
      decide (entryAt e 16 1 = 0 ∧ entryAt e 18 6 = 0 ∧ entryAt e 32 32 = 0 ∧ entryAt e 17 1 = 2 ∧ wins1.length = 16) &&
        c.recordThere e && decide (∀ i : Fin 16, (wins1[i.val]?).all fun w => c.grantOk 0 i w) &&
        (c.tenants[(0 : Fin 16)].windows[(0 : Fin 16)].tier).isSome) ∧
    (∀ (p : Fin 4) r, (hosted none).chip.run p = some r → r.plan.tenant ≠ 0) := by
  refine ⟨taken (by decide +kernel), taken (by decide +kernel), taken (by decide +kernel), fun p r h => ?_⟩
  have all : ∀ q : Fin 4, (hosted none).chip.run q = none := by decide +kernel
  simp [all p] at h

/-- Two partitions of four columns each (R77). -/
def setEntry : List (Nat × Nat) := [(16, 2), (17, 4), (18, 4)]

theorem witness_PartitionsAndTurnsAreSet :
    AdminMeets .attached 0x85 setEntry (fun e c => decide (partCols c.mram.mc64 e = some [4, 4]) &&
      decide (c.partPending = none ∧ c.placer.bound = []) && decide (∀ p : Fin 4, c.run p = none)) ∧
    (∃ e src c, (adminState .attached ((0, 0x85) :: setEntry) (some run0)).chip.takeOp .pf 0 0x85 1 = some (e, src, c) ∧
      partCols c.mram.mc64 e = some [4, 4] ∧ c.partPending = none ∧ c.placer.bound = [] ∧ ∃ p : Fin 4, c.run p ≠ none) ∧
    AdminMeets .attached 0x86 [(16, 0xFF), (18, 8)] (fun e c => (c.turnTarget (entryAt e 16 1)).any fun x =>
      !c.turnOk x.1 x.2 (BitVec.ofNat 16 (entryAt e 18 2))) ∧
    (let p := { plan0 with part := none }
     ∃ e src c, ((adminState .attached [(0, 0x86), (16, 0xFF), (18, 9)] none).on fun c =>
        { c with placer := { c.placer with bound := [p] } }).chip.takeOp .pf 0 0x86 1 = some (e, src, c) ∧
      (c.turnTarget (entryAt e 16 1)).any (fun x => c.turnOk x.1 x.2 9 && decide (c.run x.2 = none)) = true ∧
      (c.placer.bound.find? fun x => x.id = BitVec.ofNat 16 (entryAt e 18 2)) = some p ∧ p.restored = none) ∧
    (∃ e src c, (adminState .attached [(0, 0x7F)] none).chip.take .pf 0 1 = some (e, src, c) ∧ listed .pf e = false) :=
  ⟨taken (by decide +kernel), taken (by decide +kernel), taken (by decide +kernel), taken (by decide +kernel),
    taken (by decide +kernel)⟩

/-- A PART_SET of no set, one while one waits, a TURN of no target, one whose plan's alternates are not bound, one for a
target that runs a plan; the driver is there, and no partition waits. -/
theorem witness_PartitionsAndTurnsAreSet_others :
    AdminMeets .attached 0x85 [(16, 2), (17, 4)] (fun e c => decide (partCols c.mram.mc64 e = none) && !c.driverAway &&
      decide (∀ p : Fin 4, c.parts[p].waiting = none)) ∧
    (∃ e src c, ((adminState .attached ((0, 0x85) :: setEntry) none).on fun c =>
        { c with partPending := some ([8], src0) }).chip.takeOp .pf 0 0x85 1 = some (e, src, c) ∧
      partCols c.mram.mc64 e = some [4, 4] ∧ c.partPending = some ([8], src0)) ∧
    AdminMeets .attached 0x86 [(16, 7)] (fun e c => decide (c.turnTarget (entryAt e 16 1) = none)) ∧
    (let p := { plan0 with part := none, altsReady := false }
     ∃ e src c, ((adminState .attached [(0, 0x86), (16, 0xFF), (18, 9)] none).on fun c =>
        { c with placer := { c.placer with bound := [p] } }).chip.takeOp .pf 0 0x86 1 = some (e, src, c) ∧
      (c.turnTarget (entryAt e 16 1)).any (fun x => c.turnOk x.1 x.2 9 && decide (c.run x.2 = none)) = true ∧
      (c.placer.bound.find? fun x => x.id = BitVec.ofNat 16 (entryAt e 18 2)) = some p ∧ p.altsReady = false) ∧
    (let p := { plan0 with part := none }
     ∃ e src c, ((adminState .attached [(0, 0x86), (16, 0xFF), (18, 9)] (some { run0 with plan := { p with id := 8 } })).on fun c =>
        { c with placer := { c.placer with bound := [p] } }).chip.takeOp .pf 0 0x86 1 = some (e, src, c) ∧
      (c.turnTarget (entryAt e 16 1)).any (fun x => c.turnOk x.1 x.2 9 && (c.run x.2).isSome) = true) :=
  ⟨taken (by decide +kernel), taken (by decide +kernel), taken (by decide +kernel), taken (by decide +kernel),
    taken (by decide +kernel)⟩

theorem witness_RingRegistersActOnRings :
    (let s := hosted none
     s.chip.power = .running ∧ ringOf (.vf 3) 11 = true ∧ ringOf .pf 8 = true ∧ (s.chip.func (.vf 3)).rings[11].owed = [] ∧
     ((s.chip.func (.vf 3)).rings[11].prod - 0).toNat ≤ 2 ^ (s.chip.func (.vf 3)).rings[11].log2.toNat ∧
     s.chip.boot.state = .ready ∧ (s.chip.func (.vf 3)).rings[11].enable = true) ∧
    (let s := (hosted none).on fun c => { c with vfn := Vector.replicate 16 Func.reset }
     s.chip.boot.state = .ready ∧ (s.chip.func (.vf 3)).rings[11].enable = false ∧ (s.chip.func (.vf 3)).rings[11].log2.toNat < 6 ∧
     (∀ i : Fin 12, (s.chip.func (.vf 3)).rings[i].enable = false)) ∧
    6 ≤ (6 : Byte).toNat ∧ (16 : Byte).toNat ≤ 16 ∧ (5 : Byte).toNat < 6 := by decide +kernel

/-! ### Witnesses: starts, resets, the aperture, interrupts -/

def blk0 : StartBlock := { pver := 1, hostreg := 8, startTai := 50, drvrel := 7 }

def inBoot (st : BootState) : State := State.reset.on fun c => { c with boot := { c.boot with state := st, img := some fw } }

def powered (p : PowerState) : State := State.reset.on fun c => { c with power := p }

theorem witness_StartsAndResetsRun :
    State.reset.chip.power = .running ∧ State.reset.chip.mram.recordsOk = true ∧ State.reset.chip.boot.state = .loadWait ∧
    (inBoot .failed).chip.boot.state = .failed ∧ blk0.pver = 1 ∧ 1 ≤ blk0.hostreg.toNat ∧ blk0.hostreg.toNat ≤ 8 ∧
    BitVec.ofNat 64 (16000000000 * blk0.hostreg.toNat) ≠ State.reset.chip.mram.hostRegion ∧ (2 : W32) ≠ 1 ∧
    (inBoot .verify).chip.boot.img = some fw ∧ (inBoot .verify).chip.boot.state = .verify ∧
    fw.hwgen = (inBoot .verify).chip.mram.hwgen ∧ fw.bodylen.toNat ≤ 16777216 ∧
    ({ fw with hwgen := 1 }).hwgen ≠ (inBoot .verify).chip.mram.hwgen ∧ (inBoot .selftest).chip.boot.state = .selftest ∧
    (powered .inReset).chip.power = .inReset ∧ (powered .inReset).chip.pins.rstN = true ∧
    State.reset.chip.hatband.queue = [] ∧ State.reset.chip.hatband.dropsNow = none ∧ State.reset.chip.mram.staged = none := by
  decide +kernel

/-- Window 0 of tenant 0 is 32,768 bytes: offset 32,767 lies in it, 32,768 does not; codeword 1 is bad. -/
def badWord : State := spoiled 1 (hosted none)

theorem witness_ApertureReachesWindows :
    let s := hosted none
    let t := s.chip.tenants[(0 : Fin 16)]
    s.chip.power = .running ∧ t.windows[(0 : Fin 16)].tier = some true ∧
    32767 < t.windows[(0 : Fin 16)].limit.toNat - t.windows[(0 : Fin 16)].base.toNat ∧ 32767 < 2 ^ 40 ∧
    t.windows[(0 : Fin 16)].limit.toNat - t.windows[(0 : Fin 16)].base.toNat ≤ 32768 ∧
    t.aperture 32767 = some (true, 32767) ∧ t.aperture 32768 = none ∧ t.windows[(15 : Fin 16)].tier = none ∧
    s.mem.sound = true ∧ s.mem.bad (true, 1) = false ∧ badWord.chip.tenants[(0 : Fin 16)].aperture 32 = some (true, 32) ∧
    badWord.mem.bad (wordOf (true, 32)) = true ∧
    s.chip.away 0 (true, 32767) = false ∧ (running run0).chip.away 0 (true, 4) = true ∧
    (running run0).chip.tenants[(0 : Fin 16)].aperture 4 = some (true, 4) := by decide +kernel

/-- The interrupt controller with source 5 in a state and core 2 enabled for it. -/
def intcState (x : SrcState) : State := State.reset.on fun c => { c with
  intc := { c.intc with src := c.intc.src.set 5 x, cores := c.intc.cores.set 2 ⟨BitVec.ofNat 128 (2 ^ 5), 0, 0⟩ } }

theorem witness_InterruptSourcesMoveByRule :
    State.reset.chip.power = .running ∧ State.reset.chip.intc.src[(127 : Fin 128)] = .idle ∧
    (intcState .pending).chip.intc.src[(5 : Fin 128)] = .pending ∧ (intcState .pending).chip.intc.assigned 2 = some 5 ∧
    State.reset.chip.intc.assigned 2 = none ∧
    (intcState (.active 2)).chip.intc.src[(5 : Fin 128)] = .active 2 ∧
    (intcState (.activePending 2)).chip.intc.src[(5 : Fin 128)] = .activePending 2 ∧
    (∀ n : Fin 128, (intcState .pending).chip.intc.src[n] ≠ .active 2 ∧ (intcState .pending).chip.intc.src[n] ≠ .activePending 2) := by
  decide +kernel

/-! ### Witnesses: faults, calibration, scrub -/

/-- The plan bound to tiles 0 and 4, with die 0's spare, tile 16, idle. -/
def tiled : Running :=
  { run0 with plan := { plan0 with binding := ⟨[⟨0, [0, 4]⟩], [16]⟩ }, commits := [commit0 .confirmed] }

def interrupted : Running := { tiled with intr := some { tDet := 0, det := 1, unit := 0, bidx := 0, ue := none } }

/-- An uncorrectable read whose commit copy is uncorrectable too. -/
def lostRead : UeRead := { tier := 1, unit := 0, off := 0, inSet := true, lost := true }

def noCopy : Running := { tiled with intr := some { tDet := 0, det := 6, unit := 0, bidx := 0, ue := some lostRead } }

theorem nothing_waits {c : Chip} (h : c.partPending = none ∧ (∀ q : Fin 4, c.parts[q].waiting = none) ∧
    ∀ q : Fin 4, ((c.run q).all fun r => r.turn.isNone) = true) : NothingWaits c := by
  refine ⟨h.1, h.2.1, fun q r hr => ?_⟩
  have := h.2.2 q
  rw [hr] at this
  simpa using this

theorem witness_NothingWaits :
    NothingWaits State.reset.chip ∧ NothingWaits (running run0).chip ∧ NothingWaits (running tiled).chip ∧
    NothingWaits (running noCopy).chip :=
  ⟨nothing_waits (by decide +kernel), nothing_waits (by decide +kernel), nothing_waits (by decide +kernel),
    nothing_waits (by decide +kernel)⟩

/-- A tile of the binding with and without an alternate, a tile of none, and the idle spare. -/
theorem witness_LossesInterruptAndReplay :
    let s := running tiled
    s.chip.power = .running ∧ (0 : Fin 68) ∉ s.chip.faults.tilesOut ∧ (1 : Byte) ≠ 6 ∧
    (∀ (q : Fin 4), ((s.chip.run q).all fun x => !x.plan.binding.spares.contains 0) = true) ∧
    s.chip.tilePart 0 = some 0 ∧ s.chip.tilePart 67 = none ∧ s.chip.tilePart 16 = none ∧ s.chip.run 0 = some tiled ∧
    tiled.plan.binding.spares.contains 16 = true ∧ tiled.altsReady = true ∧ tiled.spareLost = [] ∧
    (tiled.plan.binding.without [0] 0).isSome = true ∧
    ((⟨[⟨0, [0, 4]⟩], []⟩ : Binding).without [0] 0) = none ∧ ({ tiled with altsReady := false }).altsReady = false ∧
    (running interrupted).chip.run 0 = some interrupted ∧ (replaySource interrupted.commits).isSome = true ∧
    (commit0 .confirmed).coll = none ∧ (∀ q : Fin 16, (running interrupted).chip.ports[q].waiting = []) ∧
    (running noCopy).chip.run 0 = some noCopy ∧ lostRead.lost = true := by decide +kernel

/-- A codeword of a link as it is, with one and with two wrong bytes; its fifth failure, with and without a spare lane. -/
theorem witness_LossesInterruptAndReplay_links :
    let zeros := List.replicate 35 (0 : Byte)
    linkVerdict zeros = .clean ∧ linkVerdict (zeros.set 30 0x5A) = .corrected (List.replicate 36 0) ∧
    linkVerdict ((zeros.set 30 0x5A).set 31 0x5A) = .uncorrectable ∧
    (running tiled).chip.faults.resends[(7 : Fin 8)] < 4 ∧
    (let s := (running tiled).on fun c => { c with faults := { c.faults with resends := Vector.replicate 8 4 } }
     4 ≤ s.chip.faults.resends[(0 : Fin 8)] ∧ s.chip.faults.spareUsed[(0 : Fin 8)] < 2 ∧ s.chip.run 0 = some tiled) ∧
    (let s := State.reset.on fun c => { c with faults := { c.faults with resends := Vector.replicate 8 4, spareUsed := Vector.replicate 8 2 } }
     4 ≤ s.chip.faults.resends[(0 : Fin 8)] ∧ 2 ≤ s.chip.faults.spareUsed[(0 : Fin 8)]) := by decide +kernel

theorem witness_UncorrectableReadsAndFaultsStopPlans :
    (running run0).chip.power = .running ∧ (running run0).chip.run 0 = some run0 ∧ run0.altsReady = true ∧
    run0.replayTo = none ∧ ({ run0 with altsReady := false }).altsReady = false ∧ (running run0).chip.faults.mfault = false ∧
    ((running run0).on fun c => { c with faults := { c.faults with mfault := true } }).chip.faults.mfault = true ∧
    errVerdict 0 = .clean ∧ errVerdict oneByte = .corrected ((List.replicate 36 0)) ∧
    errVerdict twoBytes = .uncorrectable ∧ (running run0).mem.flaw (true, 0) = 0 ∧
    absentAt (.t1 (BitVec.ofNat 48 575999999999)) = none ∧ (absentAt (.t1 (BitVec.ofNat 48 576000000000))).isSome = true ∧
    absentAt (.t2 (BitVec.ofNat 48 1023999999999)) = none ∧ (absentAt (.t2 (BitVec.ofNat 48 1024000000000))).isSome = true ∧
    (replaySource tiled.commits).isSome = true ∧ replaySource run0.commits = none := by
  decide +kernel

theorem witness_CalibrationWindowsTrim :
    State.reset.chip.deferred = false ∧ State.reset.chip.power = .running ∧ (67 : Fin 68) ∉ State.reset.chip.faults.tilesOut ∧
    State.reset.chip.tilePart 67 = none ∧ (running interrupted).chip.deferred = true ∧
    State.reset.chip.islandDeferred 67 = false ∧ State.reset.chip.islandDeferred 68 = false ∧
    (running interrupted).chip.islandDeferred 0 = true ∧ (running interrupted).chip.islandDeferred 5 = false ∧
    (running interrupted).chip.islandDeferred 76 = true ∧
    ((67 : Fin 68) ∈ (State.reset.on fun c => { c with faults := { c.faults with tilesOut := [67] } }).chip.faults.tilesOut) ∧
    (let s := atTime 1000000001 State.reset
     s.chip.calPc[(383 : Fin 384)].limited = false ∧ 1000000000 < (s.chip.drone.now - s.chip.calPc[(383 : Fin 384)].last).toNat ∧
     s.chip.calDqs[(15 : Fin 16)].limited = false ∧ 100000000 < (s.chip.drone.now - s.chip.calDqs[(15 : Fin 16)].last).toNat ∧
     s.chip.calZq[(15 : Fin 16)].limited = false ∧ 1000000000 < (s.chip.drone.now - s.chip.calZq[(15 : Fin 16)].last).toNat ∧
     s.chip.calIsl[(76 : Fin 77)].limited = false ∧ 1000000000 < (s.chip.drone.now - s.chip.calIsl[(76 : Fin 77)].last).toNat) := by
  decide +kernel

/-- The codeword of 32 zero data bytes, with byte 30 read as `x` and byte 31 as `y` (R238's example). -/
def readZeros (x y : Byte) : List Byte := ((eccEncode (List.replicate 32 0)).set 30 x).set 31 y

/-- R238: byte 30 read as 0x5A is restored; with byte 31 read as 0x5A too the word is uncorrectable. -/
theorem test_ecc_example :
    eccEncode (List.replicate 32 0) = List.replicate 36 0 ∧
    eccDecode (readZeros 0x5A 0) = .corrected (List.replicate 36 0) ∧ eccDecode (readZeros 0x5A 0x5A) = .uncorrectable := by
  decide +kernel

/-- The codeword at address 0 of tier 1 is the next of its unit in one state and not in another; SCRUB_EN is 1 by default. -/
theorem witness_ScrubRepairsCodewords :
    (List.replicate 32 (7 : Byte)).length = 32 ∧ State.reset.chip.power = .running ∧ State.reset.chip.mram.scrubEn = true ∧
    (let s := State.reset.on fun c => { c with mram := { c.mram with scrubEn := false } }
     s.chip.mram.scrubEn = false) ∧
    (let at_ := State.reset.chip.place true 0
     let s := State.reset.on fun c => { c with memObj := { c.memObj with sweepAt := [(ceKey true at_.1, at_.2 / 32)] } }
     s.chip.place true 0 = at_ ∧ s.chip.scrubNext true at_.1 at_.2 = true) ∧
    (let at_ := State.reset.chip.place true 0
     let s := State.reset.on fun c => { c with memObj := { c.memObj with sweepAt := [(ceKey true at_.1, at_.2 / 32 + 1)] } }
     s.chip.place true 0 = at_ ∧ s.chip.scrubNext true at_.1 at_.2 = false) ∧
    (let seen := fun (cells path : BitVec 288) =>
       eccDecode (xorBytes ((State.reset.mem.strike (true, 0) cells).stored (true, 0)) (errBytes path))
     seen 0 0 = .clean ∧ seen oneByte 0 = .corrected (List.replicate 36 0) ∧ seen 0 twoBytes = .uncorrectable) ∧
    (BitVec.ofNat 48 575999999999).toNat < 576000000000 ∧ 576000000000 ≤ (BitVec.ofNat 48 576000000000).toNat ∧
    (BitVec.ofNat 48 1023999999999).toNat < 1024000000000 ∧ 1024000000000 ≤ (BitVec.ofNat 48 1024000000000).toNat := by
  decide +kernel

/-! ### Witnesses: limiter, power, ports -/

/-- The limiter in EMERGENCY for the hub's temperature. -/
def hot : State := State.reset.on fun c => { c with limiter := { c.limiter with state := .emergency, causes := [(.hubTemp, 0)] } }

theorem witness_LimiterActsByRow :
    State.reset.chip.power = .running ∧ hasLimit .hubTemp = true ∧ hasLimit .vin = true ∧ hasLimit .hbmTemp = true ∧
    State.reset.chip.limiter.state = .normal ∧ hot.chip.limiter.state = .emergency ∧ (.hubTemp, 0) ∈ hot.chip.limiter.causes ∧
    isTemp .tileTemp = true ∧ hot.chip.power = .running ∧ (67 : Fin 77).val < 68 ∧ 68 ≤ (76 : Fin 77).val := by decide +kernel

theorem witness_TripsSuppliesAndPinsAct :
    hasTrip .hubTemp = true ∧ State.reset.chip.power = .running ∧ (powered .tripHold).chip.power = .tripHold ∧
    (powered (.holdup 7)).chip.power = .holdup 7 ∧ (powered .off).chip.power = .off ∧ 40000 ≤ (40000 : W32).toNat ∧
    (39999 : W32).toNat < 40000 ∧ State.reset.chip.pins.rstN = true ∧ State.reset.chip.pins.pg = true ∧
    (powered .inReset).chip.power = .inReset ∧ (powered .inReset).chip.mram.recordsOk = true := by decide +kernel

/-- A request of an open operator level, in a module whose management address is usable. -/
def request0 : MReq := { src := .debug, ver := 1, xid := 9 }

def gateState (levels : Nat) (fails : Byte) : State := State.reset.on fun c => { c with
  mgmt := { c.mgmt with addr := .usable }
  mram := { c.mram with failCount := fails }
  gate := { c.gate with
    debugPort := true
    operator := if 1 ≤ levels then some ⟨.debug, 0⟩ else none
    service := if 2 ≤ levels then some ⟨.debug, 0⟩ else none
    vendor := if 3 ≤ levels then some ⟨.debug, 0⟩ else none } }

theorem fresh_request (levels : Nat) (fails : Byte) : FreshRequest (gateState levels fails).chip request0 :=
  ⟨rfl, rfl, rfl, fun _ h => nomatch h⟩

/-- 1,200 W and 3,600 W are in range, 1,199 W and 3,601 W are not; a lower cap waits while a plan runs, to 2 ms. -/
theorem witness_PowerCapTakesEffect :
    FreshRequest (gateState 1 0).chip request0 ∧ (gateState 1 0).chip.gate.openTo 1 request0.src = true ∧
    FreshRequest (gateState 0 0).chip request0 ∧ (gateState 0 0).chip.gate.openTo 1 request0.src = false ∧
    (gateState 1 0).chip.limiter.capActive.toNat ≤ 3600 ∧ 1200 < (gateState 1 0).chip.limiter.capActive.toNat ∧
    ((gateState 1 0).on fun c => c.setRun 0 (some run0)).chip.run 0 = some run0 ∧
    (let s := atTime 2000000 (State.reset.on fun c => { c with limiter := { c.limiter with capJob := some (1200, 0, false) } })
     s.chip.limiter.capJob = some (1200, 0, false) ∧ 2000000 ≤ (s.chip.drone.now - 0).toNat) ∧
    (∀ p : Fin 4, (gateState 1 0).chip.run p = none) ∧ ((atTime 1999999 State.reset).chip.drone.now - 0).toNat < 2000000 :=
  ⟨fresh_request 1 0, rfl, fresh_request 0 0, rfl, by decide +kernel, by decide +kernel, rfl, ⟨rfl, by decide +kernel⟩,
    by decide +kernel, by decide +kernel⟩

/-- The segment of step 3 that the plan's trace holds: 1,200 MHz, beyond the clamp, for every island. -/
def seg0 : TraceSeg :=
  { step := 3, seg := 0, pwr := 900, idie := Vector.replicate 4 100, fset := Vector.replicate 77 1200 }

/-- Segment 0 of step 3 is held and segment 1 is not; the array is not partitioned, so every island is the plan's; where it
is, islands of another partition are not. -/
theorem witness_PowerCapTakesEffect_trace :
    let r := { run0 with plan := { plan0 with fig := { (default : PlacerFig) with trace := [seg0] } } }
    let s := running r
    s.chip.run 0 = some r ∧ r.plan.fig.segment r.step 0 = some seg0 ∧ r.plan.fig.segment r.step 1 = none ∧
    r.plan.fig.segment 0xFFFFFFFF 0 = none ∧ (76 : Fin 77) ∈ s.chip.planIslands 0 ∧ s.chip.limiter.lowered = none ∧
    (let u := s.on fun c => ({ c with nparts := 2 }.modPart 0 fun x => { x with cols := 4 }).modPart 1 fun x => { x with cols := 4 }
     (66 : Fin 77) ∉ u.chip.planIslands 0) := by decide +kernel

/-- Port 1 in a state, with the partner's HELLO. -/
def hello0 : Hello :=
  { serial := 8, modnum := 2, port := 1, acked := true, fwrel := 5, vmin := 1, vmax := 1, hwgen := 0, nepmax := 2, feat := 0
    tsend := 0, techo := 0, tdwell := 0 }

def portState (st : PortState) (f : Port → Port) : State := State.reset.on fun c =>
  { c with boot := { c.boot with img := some fw }, groups := [pairGroup] }.modPort 1 fun p =>
    f { p with state := st, cable := true, peer := some hello0, peerCredit := 4 }

def hdr0 : BoreHdr := { ver := 1, nak := false, hostAbsent := false, goingDown := false, portDown := false, ackn := 1, credit := 8 }

/-- VMIN and VMAX of the running image are 1; a partner of versions 2 to 3 has none in common. 50 µs pass. A HELLO and a LIVE
that are due, and not yet due. -/
theorem witness_PortsComeUpAndGo :
    (portState .hello id).chip.power = .running ∧ (portState .hello id).chip.ports[(1 : Fin 16)].state = .hello ∧
    (portState .mismatch id).chip.ports[(1 : Fin 16)].state = .mismatch ∧
    (portState .down id).chip.ports[(1 : Fin 16)].state = .down ∧ (portState .down id).chip.ports[(1 : Fin 16)].cable = true ∧
    (let c := (portState .hello id).chip
     c.vmin.toNat ≤ min c.vmax.toNat hello0.vmax.toNat ∧ hello0.vmin.toNat ≤ min c.vmax.toNat hello0.vmax.toNat ∧
     min c.vmax.toNat 3 < (2 : W16).toNat) ∧
    (portState .hello id).chip.ports[(1 : Fin 16)].helloDue.toNat ≤ (portState .hello id).chip.drone.now.toNat ∧
    (let c := (portState .hello fun p => { p with helloDue := 1 }).chip
     c.drone.now.toNat < c.ports[(1 : Fin 16)].helloDue.toNat) ∧
    (portState .up id).chip.ports[(1 : Fin 16)].state = .up ∧
    (portState .up id).chip.ports[(1 : Fin 16)].liveDue.toNat ≤ (portState .up id).chip.drone.now.toNat ∧
    (let c := (portState .up fun p => { p with liveDue := 1 }).chip
     c.drone.now.toNat < c.ports[(1 : Fin 16)].liveDue.toNat) ∧
    (let s := atTime 50000 ((portState .up id).on fun c => { c with groups := [] })
     s.chip.groups = [] ∧ 50000 ≤ (s.chip.drone.now - s.chip.ports[(1 : Fin 16)].lastLive).toNat) ∧
    ((atTime 49999 (portState .up id)).chip.drone.now - (portState .up id).chip.ports[(1 : Fin 16)].lastLive).toNat < 50000 := by
  decide +kernel

theorem witness_PortsComeUpAndGo_headers :
    plainHdr hdr0 ∧ FreshRequest (gateState 1 0).chip request0 ∧ (gateState 1 0).chip.gate.openTo 1 request0.src = true ∧
    (let h := { hdr0 with goingDown := true }
     h.nak = false ∧ h.hostAbsent = false ∧ h.goingDown = true) ∧
    ((2 : W16).getLsbD 1 = true ∧ (2 : W16).getLsbD 0 = false) ∧
    (portState .disabled id).chip.ports[(1 : Fin 16)].state = .disabled :=
  ⟨⟨rfl, rfl, rfl, rfl⟩, fresh_request 1 0, rfl, ⟨rfl, rfl, rfl⟩, ⟨rfl, rfl⟩, rfl⟩

/-- A DATA frame of PSN `n`. -/
def frame0 (n : W32) (ok : Bool) : DataFrame := DataFrame.seal
  { hdr := hdr0, psn := n, fcsOk := ok
    pkt := { stamp := 0, tid := 1, offset := 0, tenant := 0, wepoch := 0, nepoch := 1, plan := 9, step := 3, last := true
             switch := false, nonfinite := false, replay := false, latency := false, mixedOk := false }
    hchk := 0, stream := [], grp := 5, srank := 1, sqn := 0, kind := 0, phase := .direct, hop := 0, pfmt := 4, mismatch := false, elems := [1] }

def hop0 : HopRef := { grp := 5, sqn := 0, phase := .direct, hop := 0 }

def up (f : Port → Port) : State := portState .up f

def retainedGroup : Group := { pairGroup with retained := [{ hop := hop0, dst := 1, frame := frame0 0 true }] }

theorem witness_PortsDeliverInOrder :
    plainHdr (frame0 0 true).hdr ∧ (up id).chip.power = .running ∧ (up id).chip.ports[(1 : Fin 16)].state = .up ∧
    (frame0 0 false).sound = false ∧ ({ frame0 0 true with hchk := (frame0 0 true).hchk + 1 } : DataFrame).sound = false ∧
    (frame0 0 true).sound = true ∧ (frame0 0 true).psn = (up id).chip.ports[(1 : Fin 16)].ackn ∧
    (up id).chip.ports[(1 : Fin 16)].waiting.length < 64 ∧ (up id).chip.delivers 1 (frame0 0 true) = true ∧
    (up id).chip.delivers 1 { frame0 0 true with srank := 7 } = false ∧
    (frame0 1 true).psn ≠ (up id).chip.ports[(1 : Fin 16)].ackn ∧
    ((frame0 1 true).psn - (up id).chip.ports[(1 : Fin 16)].ackn).toNat < 2147483648 ∧
    (up id).chip.ports[(1 : Fin 16)].gap = false ∧ (∀ q : Fin 16, (up id).chip.ports[q].waiting = []) := by
  refine ⟨⟨rfl, rfl, rfl, rfl⟩, ?_⟩
  decide +kernel

/-- The first, and the 16th, sending of a frame; an acknowledgement owed. -/
theorem witness_PortsDeliverInOrder_resend :
    (let s := atTime 4000 (up fun p => { p with unacked := [(frame0 0 true, 1)], ackOwed := true })
     s.chip.ports[(1 : Fin 16)].unacked = [(frame0 0 true, 1)] ∧ hdr0.ackn = (frame0 0 true).psn + 1 ∧
     s.chip.ports[(1 : Fin 16)].ackOwed = true ∧ 1000 ≤ (s.chip.drone.now - s.chip.ports[(1 : Fin 16)].lastTx).toNat ∧
     1 ≤ s.chip.ports[(1 : Fin 16)].peerCredit.toNat ∧ 4000 ≤ (s.chip.drone.now - s.chip.ports[(1 : Fin 16)].ackMoved).toNat) ∧
    (let s := atTime 4000 ((up fun p => { p with unacked := [(frame0 0 true, 16)] }).on fun c => { c with groups := [] })
     s.chip.ports[(1 : Fin 16)].unacked = [(frame0 0 true, 16)] ∧ s.chip.groups = [] ∧ s.chip.ports[(1 : Fin 16)].state = .up ∧
     1 ≤ s.chip.ports[(1 : Fin 16)].peerCredit.toNat ∧ 4000 ≤ (s.chip.drone.now - s.chip.ports[(1 : Fin 16)].ackMoved).toNat) := by
  decide +kernel

theorem witness_PortsDeliverInOrder_groups :
    (let s := up id
     s.chip.group hop0.grp = some pairGroup ∧ pairGroup.dead = false ∧ (1 : Fin 16) ∈ pairGroup.allPorts ∧
     ((0 : W32) - pairGroup.sqn).toNat < 2147483648 ∧ (∀ q, s.chip.busyWith pairGroup q = false) ∧
     s.chip.tenants[pairGroup.ten].fetches = [] ∧ s.chip.stalled pairGroup = false) ∧
    (let s := (up id).on fun c => { c with groups := [retainedGroup] }
     s.chip.group hop0.grp = some retainedGroup ∧ retainedGroup.retained = [{ hop := hop0, dst := 1, frame := frame0 0 true }] ∧
     retainedGroup.lists 1 (1 : W16).toNat = true ∧ (frame0 0 true).kind ≠ 0x10 ∧ maskPorts retainedGroup.next = [1] ∧
     s.chip.ports[(1 : Fin 16)].state = .up) := by
  decide +kernel

/-- A collective of group 5 waits; nothing has moved for 10 s. -/
def stalledState : State := atTime 10000000000 ((up id).on fun c => c.setRun 0 (some { run0 with
  coll := some { grp := 5, sqn := 0, cfn := 0, td := 1, pd := 1, since := 0, mixedOk := false, own := [] } }))

theorem witness_LostPartnersEndGroups :
    (up id).chip.ports[(1 : Fin 16)].state = .up ∧ plainHdr hdr0 ∧ (up id).chip.group 5 = some pairGroup ∧ pairGroup.dead = false ∧
    (1 : Fin 16) ∈ pairGroup.allPorts ∧ ((2147483647 : W32) - pairGroup.sqn).toNat < 2147483648 ∧
    (stalledState.chip.group 5).any (fun g => stalledState.chip.stalled g && stalledState.chip.busyWith g 0) = true ∧
    NothingWaits stalledState.chip ∧ stalledState.chip.ports[(1 : Fin 16)].state = .up ∧ stalledState.chip.power = .running ∧
    (let s := atTime 50000 (up id)
     s.chip.ports[(1 : Fin 16)].peer = some hello0 ∧ 50000 ≤ (s.chip.drone.now - s.chip.ports[(1 : Fin 16)].lastLive).toNat ∧
     s.chip.group 5 = some pairGroup ∧
     (∀ q : Fin 16, q ≠ 1 → s.chip.leadsTo hello0.serial q = true → s.chip.ports[q].state ≠ .up)) := by
  refine ⟨by decide +kernel, ⟨rfl, rfl, rfl, rfl⟩, by decide +kernel, by decide +kernel, by decide +kernel, by decide +kernel,
    by decide +kernel, nothing_waits (by decide +kernel), ?_⟩
  decide +kernel

/-! ### Witnesses: time, management, gate -/

def sync0 (one : Bool) : PtpSync := { domain := 0, seqId := 4, oneStep := one, origin := 1000, correction := 5 }

def announce0 (prio : Byte) : PtpAnnounce :=
  { domain := 0, prio1 := prio, cclass := 6, accuracy := 33, variance := 20061, prio2 := 128, gm := 3, stepsRemoved := 1, sender := 9 }

/-- Drone follows port 1, which awaits the Follow_Up of Sync 4. -/
def droneState (st : DroneState) (locked : Bool) (ins outs : Nat) : State := (up fun p => { p with
    ptpRole := .slave, lastSync := some (4, 1000, 5), syncPair := some (900, 1000) }).on fun c => { c with drone := { c.drone with
  state := st, slavePort := some 1, everLocked := locked, inRun := ins, outRun := outs } }

theorem witness_DroneFollowsItsMaster :
    (let s := droneState .free false 0 0
     s.chip.ptpOn 1 = true ∧ s.chip.drone.slavePort = some 1 ∧ s.chip.drone.state = .free ∧ (sync0 false).oneStep = false ∧
     (sync0 false).domain = s.chip.objs.ptpDomainNow ∧ ({ sync0 true with domain := 1 } : PtpSync).domain ≠ s.chip.objs.ptpDomainNow) ∧
    (droneState .holdover true 0 0).chip.drone.state = .holdover ∧
    (let s := droneState .acquire true 15 0
     s.chip.ports[(1 : Fin 16)].lastSync = some (4, 1000, 5) ∧ s.chip.drone.state = .acquire ∧ 15 ≤ s.chip.drone.inRun) ∧
    (let s := droneState .locked true 0 15
     s.chip.drone.state = .locked ∧ 15 ≤ s.chip.drone.outRun) ∧
    (let s := droneState .locked true 0 0
     s.chip.ports[(1 : Fin 16)].peerDelay = false ∧ s.chip.ports[(1 : Fin 16)].delaySeq = 0 ∧
     s.chip.ports[(1 : Fin 16)].syncPair = some (900, 1000) ∧ s.chip.ports[(1 : Fin 16)].ptpRole = .slave ∧
     s.chip.ports[(1 : Fin 16)].delayReqDue.toNat ≤ s.chip.drone.now.toNat ∧ (announce0 1).domain = s.chip.objs.ptpDomainNow ∧
     ({ announce0 1 with domain := 7 } : PtpAnnounce).domain ≠ s.chip.objs.ptpDomainNow ∧
     ∀ q : Fin 16, q ≠ 1 → s.chip.ports[q].announce = none) ∧
    (let s := up fun p => { p with ptpRole := .master, peerDelay := true }
     s.chip.ptpOn 1 = true ∧ s.chip.ports[(1 : Fin 16)].ptpRole = .master ∧ s.chip.ports[(1 : Fin 16)].peerDelay = true ∧
     s.chip.ports[(1 : Fin 16)].syncDue.toNat ≤ s.chip.drone.now.toNat) ∧
    (let s := up fun p => { p with ptpRole := .master, syncDue := 1 }
     s.chip.drone.now.toNat < s.chip.ports[(1 : Fin 16)].syncDue.toNat) ∧
    (let s := (up id).on fun c => { c with boot := { c.boot with img := some fw } }.modPort 2 fun p =>
       { p with state := .up, cable := true, announce := some (announce0 5) }
     s.chip.ptpOn 1 = true ∧ s.chip.ptpOn 2 = true ∧ s.chip.ports[(2 : Fin 16)].announce = some (announce0 5) ∧
     keyLess (announceKey (announce0 4)) (announceKey (announce0 5)) = true ∧
     keyLess (announceKey (announce0 5)) (announceKey (announce0 6)) = true ∧
     ∀ o : Fin 16, o ≠ 1 → o ≠ 2 → s.chip.ports[o].announce = none) ∧
    (let s := atTime 500000000 (droneState .locked true 0 0)
     s.chip.ptpOn 1 = true ∧ 4 * s.chip.syncNs ≤ (s.chip.drone.now - s.chip.drone.lastSyncAt).toNat) := by decide +kernel

/-- A port's asymmetry is free (notes/assumptions/109.md): whatever it is, a master's correction field gives every offset,
one beyond 1 ms behind the master and those at the lock threshold of 20 ns among them. -/
theorem witness_DroneFollowsItsMaster_offsets (target : Int) :
    ∃ more : Int, ((1000 : Stamp).toNat : Int) - (((1000 : Stamp).toNat : Int) + 5 + more) -
      (droneState .acquire true 15 0).chip.ports[(1 : Fin 16)].pathDelay - Config.asymmetry 1 = target :=
  ⟨-5 - (droneState .acquire true 15 0).chip.ports[(1 : Fin 16)].pathDelay - Config.asymmetry 1 - target, by omega⟩

theorem witness_DroneFollowsItsMaster_threshold :
    (20 : Int).natAbs ≤ (droneState .acquire true 15 0).chip.objs.lockThrNow.toNat ∧
    (droneState .locked true 0 15).chip.objs.lockThrNow.toNat < (21 : Int).natAbs ∧ (-1000001 : Int) < -1000000 := by
  decide +kernel

theorem witness_RequestsAreServed :
    FreshRequest (gateState 1 0).chip request0 ∧ (gateState 1 0).chip.gate.openTo 1 request0.src = true ∧
    (gateState 0 0).chip.gate.openTo 1 request0.src = false ∧ objFind ⟨0x7777, 0⟩ = none ∧
    (objFind ⟨0x1000, 0⟩).isSome = true ∧ (gateState 0 0).chip.gateClosed = false ∧
    (gateState 0 0).chip.mgmt.stagingOf request0.src = none ∧
    (let s := (gateState 0 0).on fun c => { c with mram := { c.mram with idCert := [1, 2, 3] } }
     (0 : W32).toNat + (3 : W32).toNat ≤ s.chip.mram.idCert.length) ∧
    (∀ k ∈ [1, 2, 3, 4, 5, 6], (0 : Byte) ≠ BitVec.ofNat 8 k ∧ (7 : Byte) ≠ BitVec.ofNat 8 k) :=
  ⟨fresh_request 1 0, rfl, rfl, by decide +kernel, by decide +kernel, rfl, rfl, by decide +kernel, by decide +kernel⟩

/-- A read of a password and one of the identity certificate, which is longer than a response item; without the level;
a SEGWRITE of 1 and of 960 bytes; an HBREAD of areas 0 and 2. -/
theorem witness_RequestsAreServed_items :
    ((objFind ⟨0x8002, 0⟩).any fun x => decide (x.1.dir = .wo) && (gateState 0 0).chip.gate.openTo x.1.level request0.src) = true ∧
    (let s := (gateState 0 0).on fun c => { c with mram := { c.mram with idCert := List.replicate 65 7 } }
     ((objFind ⟨0x1010, 0⟩).any fun x => decide (x.1.dir ≠ .wo) && s.chip.gate.openTo x.1.level request0.src &&
       decide (64 < (s.chip.received73.objRead x.1 x.2).length)) = true) ∧
    ((objFind ⟨0x1000, 0⟩).any fun x => decide (x.1.dir ≠ .wo) && (gateState 0 0).chip.gate.openTo x.1.level request0.src &&
      decide (((gateState 0 0).chip.received73.objRead x.1 x.2).length ≤ 64)) = true ∧
    ((objFind ⟨0x8010, 1⟩).any fun x => !(gateState 0 0).chip.gate.openTo x.1.level request0.src) = true ∧
    1 ≤ ([7] : List Byte).length ∧ (List.replicate 960 (0 : Byte)).length ≤ 960 ∧ (2 : Byte).toNat ≤ 2 := by decide +kernel

def answer0 : Response := { op := 2, xid := 9, status := 0, items := [], recs := [], modnum := 0 }

def staging0 : Staging := { src := .debug, obj := ⟨0x8001, 2⟩, type := .blob, total := 16608, bytes := [], since := 0 }

/-- The agent 5 s and 10 s after a response and a staging. -/
def agentState (now : Stamp) (a : AddrState) : State := atTime now ((gateState 1 0).on fun c => { c with
  mgmt := { c.mgmt with addr := a, kept := [(.debug, answer0, 0)], staging := [staging0] } })

theorem witness_AgentAnswersTheSegment :
    (agentState 4999999999 .usable).chip.power = .running ∧ (agentState 4999999999 .usable).chip.hears .debug = true ∧
    (agentState 4999999999 .usable).chip.keptOf request0 = some answer0 ∧
    (agentState 0 .usable).chip.mgmt.stagingOf .debug = some staging0 ∧
    10000000000 ≤ ((agentState 10000000000 .usable).chip.drone.now - staging0.since).toNat ∧
    ((agentState 9999999999 .usable).chip.drone.now - staging0.since).toNat < 10000000000 ∧
    (agentState 0 .usable).chip.mgmt.plcaNode ≠ 0 ∧ (agentState 0 .usable).chip.mgmt.addr = .usable ∧
    (agentState 0 .usable).chip.mgmt.hbDue.toNat ≤ (agentState 0 .usable).chip.drone.now.toNat ∧
    (agentState 0 .tentative).chip.mgmt.addr = .tentative ∧ (agentState 0 .duplicate).chip.mgmt.addr ≠ .tentative := by
  decide +kernel

/-- The digest that a password has is free (notes/assumptions/4.md): a module that holds the digest of one password meets
the first clause with it, and a module that holds the digest's complement the second. -/
def rot0 : RotRecord :=
  { newIndex := 1, curOk := true, newOk := true, carriedOk := true, matchOk := true, cert := [1], records := [] }

/-- A rotation to key 1 and 3 from key 0; to key 0 and to key 4; one check that fails; a challenge within its 60 s. -/
theorem witness_GateOpensAndCloses_rotation :
    (gateState 3 0).chip.gate.openTo 3 request0.src = true ∧ (gateState 3 0).chip.mram.keyIndex.toNat < rot0.newIndex.toNat ∧
    ({ rot0 with newIndex := 3 }).newIndex.toNat ≤ 3 ∧ 3 < ({ rot0 with newIndex := 4 }).newIndex.toNat ∧
    ({ rot0 with newIndex := 0 }).newIndex.toNat ≤ (gateState 3 0).chip.mram.keyIndex.toNat ∧
    ({ rot0 with matchOk := false }).matchOk = false ∧
    (let s := atTime 59999999999 ((gateState 0 0).on fun c => { c with gate := { c.gate with chal := some (7, 3, 0) } })
     s.chip.gate.chal = some (7, 3, 0) ∧ (s.chip.drone.now - 0).toNat < 60000000000) ∧
    8 ≤ (List.replicate 8 (1 : Byte)).length ∧ (List.replicate 64 (1 : Byte)).length ≤ 64 := by decide +kernel

theorem witness_GateOpensAndCloses :
    FreshRequest (gateState 0 0).chip request0 ∧ (gateState 0 4).chip.mram.failCount.toNat < 5 ∧ (gateState 0 4).chip.mram.failCount = 4 ∧
    (∀ pw, let s := (gateState 0 0).on fun c => { c with mram := { c.mram with pwDigest := Config.pwDigest c.mram.serial pw } }
      Config.pwDigest s.chip.mram.serial pw = s.chip.mram.pwDigest) ∧
    (∀ pw, let s := (gateState 0 0).on fun c => { c with mram := { c.mram with pwDigest := ~~~Config.pwDigest c.mram.serial pw } }
      Config.pwDigest s.chip.mram.serial pw ≠ s.chip.mram.pwDigest) ∧
    (let s := atTime 60000000000 ((gateState 0 0).on fun c => { c with gate := { c.gate with chal := some (7, 3, 0) } })
     s.chip.gate.chal = some (7, 3, 0) ∧ 60000000000 ≤ (s.chip.drone.now - 0).toNat) ∧
    5 ≤ (gateState 0 5).chip.mram.failCount.toNat ∧ (gateState 0 5).chip.mram.lockoutNs = 0 ∧
    (gateState 1 0).chip.gate.openTo 1 request0.src = true ∧ (gateState 3 0).chip.gate.openTo 3 request0.src = true ∧
    (let s := (gateState 2 0).on fun c => { c with
        gate := { c.gate with debugPort := false, service := some ⟨.addr 5, 0⟩ }, mgmt := { c.mgmt with plcaNode := 1 } }
     FreshRequest s.chip ⟨.addr 5, 1, 9⟩ ∧ s.chip.gate.openTo 2 (.addr 5) = true ∧ s.chip.gate.debugPort = false) ∧
    (let s := atTime 900000000000 (gateState 2 0)
     s.chip.gate.service = some ⟨.debug, 0⟩ ∧ 900000000000 ≤ (s.chip.drone.now - 0).toNat) ∧
    (let x : HbRec := { stamp := 0, hseq := 1, boot := 0, type := 3, critical := true, origin := 0, payload := [] }
     let s := State.reset.on fun c => { c with hatband := { c.hatband with queue := [x] } }
     s.chip.hatband.queue = x :: [] ∧ s.chip.hatband.dropsNow = none) := by
  refine ⟨fresh_request 0 0, by decide +kernel, rfl, fun pw => rfl, fun pw => ?_, ⟨rfl, by decide +kernel⟩, by decide +kernel, rfl,
    rfl, rfl, ⟨⟨rfl, by decide +kernel, rfl, fun x h => nomatch h⟩, rfl, rfl⟩, ⟨rfl, by decide +kernel⟩, rfl, rfl⟩
  intro s h
  have := congrArg (fun x => x.getLsbD 0) h
  simp [s, State.on, gateState, State.reset, Chip.reset] at this

/-! ### Well-formed commands: a term that each check refuses -/

theorem test_wellFormed_regions :
    (Instr.vadd slot0 { vO with rows := 0 }).wellFormed = false ∧ (Instr.vput slot0 { vO with rows := 4097 }).wellFormed = false ∧
    (Instr.vred slot0 { vO with cols := 0 }).wellFormed = false ∧ (Instr.vsel slot0 { vO with cols := 4097 }).wellFormed = false ∧
    (Instr.vadd slot0 { vO with rows := 4096, cols := 1 }).wellFormed = true := by decide +kernel

theorem test_wellFormed_rings :
    (Instr.unknownOpcode .pf 1).wellFormed = false ∧ (Instr.commandDoorbell .pf 7 0 []).wellFormed = false ∧
    (Instr.consumerCountWrite .pf 11 0).wellFormed = false ∧ (Instr.consumerCountWrite (.vf 0) 7 0).wellFormed = false ∧
    (Instr.ringConfigWrite .pf 1 none none none).wellFormed = false ∧
    (Instr.ringConfigWrite (.vf 15) 7 none none none).wellFormed = true ∧ (Instr.consumerCountWrite (.vf 0) 11 0).wellFormed = true := by
  decide +kernel

theorem test_wellFormed_host :
    (Instr.weightSegmentReceive 0 ⟨segment0 0, true⟩).wellFormed = false ∧ (Instr.tenantSetConfigure []).wellFormed = false ∧
    (Instr.tenantSetGrant (noWin :: wins0)).wellFormed = false ∧ (Instr.bar2Read 0 0 0).wellFormed = false ∧
    (Instr.bar2Write 0 0 []).wellFormed = false ∧ (Instr.bar2Write 0 0 (List.replicate 65 0)).wellFormed = false ∧
    (Instr.tenantSetConfigure wins0).wellFormed = true := by decide +kernel

theorem test_wellFormed_hardware :
    (Instr.tileLossDetect [] 1).wellFormed = false ∧ (Instr.tileLossDetect [0] 0).wellFormed = false ∧
    (Instr.tileLossDetect [0] 7).wellFormed = false ∧ (Instr.guardedModeEnter (.island 0) true).wellFormed = false ∧
    (Instr.linkCodewordResend ⟨0, List.replicate 36 0⟩).wellFormed = false ∧ (Instr.limiterWarn .tileTemp 68).wellFormed = false ∧
    (Instr.limiterEmergencyEnter .hbmTemp 12 0).wellFormed = false ∧ (Instr.limiterStepDown .vin 1).wellFormed = false ∧
    (Instr.limiterTrip .dieCurrent 4 0).wellFormed = false ∧ (Instr.limiterWarn .lpddrTemp 15).wellFormed = true := by decide +kernel

def item (index : W16) (sub : Byte) : WItem := ⟨⟨index, sub⟩, .u8, [0]⟩

theorem test_wellFormed_objects :
    (Instr.capWWrite request0 (item 0x2000 1)).wellFormed = false ∧ (Instr.portEnWrite request0 (item 0x5201 0)).wellFormed = false ∧
    (Instr.password request0 (item 0x8002 1)).wellFormed = false ∧ (Instr.newPassword request0 (item 0x8002 0)).wellFormed = false ∧
    (Instr.chalLevel request0 (item 0x8001 1)).wellFormed = false ∧ (Instr.close request0 (item 0x8004 0)).wellFormed = false ∧
    (Instr.debugEn request0 (item 0x8003 0)).wellFormed = false ∧ (Instr.levelIdleTimeout 0).wellFormed = false ∧
    (Instr.capWWrite request0 (item 0x2000 0)).wellFormed = true := by decide +kernel

theorem test_wellFormed_network :
    (Instr.dataReceive 0 { frame0 0 true with kind := 5 }).wellFormed = false ∧
    (Instr.dataReceive 0 { frame0 0 true with elems := [] }).wellFormed = false ∧
    (Instr.read request0 []).wellFormed = false ∧ (Instr.write request0 (List.replicate 33 (item 0 0))).wellFormed = false ∧
    (Instr.segread request0 ⟨0, 0⟩ 0 961).wellFormed = false ∧ (Instr.segwrite request0 ⟨⟨0, 0⟩, .blob, []⟩ 0 0 true).wellFormed = false ∧
    (Instr.hbread request0 3 0).wellFormed = false ∧ (Instr.mgmtUnknownOp request0 6).wellFormed = false ∧
    (Instr.mgmtUnknownOp request0 7).wellFormed = true := by decide +kernel

/-! ### The manual's worked examples -/

/-- 06, under R131: the draw of seed 0, step 3, stream 7; elements 37 and 47 of its block. -/
theorem test_draw_example :
    drawWords (seedKey 0) 2 0x00070000 3 0 = ⟨0x9A94D3C5, 0x53F42610, 0x068B3E81, 0x19A85914⟩ ∧
    programSlice 0 3 7 37 24 = 0x53F426 ∧ programSlice 0 3 7 47 24 = 0xD3C519 := by decide +kernel

/-- 04, under R96 and R102: a block of 1,000.0 and 3.125 in FP8 E4M3: scale 0x81, elements 0x78 and 0x34; with the random
bits 0x9A_3C17 the second is 0x35. -/
theorem test_block_scale_example :
    (Fmt.e4m3.shape.map fun sh => sh.scaleByte [.fin false 1000 0, .fin false 25 (-3)]) = some 0x81 ∧
    (Fmt.e4m3.convertScaled 0x81 none (.fin false 1000 0)).1 = 0x78 ∧
    (Fmt.e4m3.convertScaled 0x81 none (.fin false 25 (-3))).1 = 0x34 ∧
    (Fmt.e4m3.convertScaled 0x81 (some 0x9A3C17) (.fin false 25 (-3))).1 = 0x35 := by decide +kernel

/-- 02, under R36: element (3, 10) of a 256 x 4,096 tensor lies at offset 12,298. -/
theorem test_offset_example :
    Desc.offset (BitVec.ofNat 512 (0x105 * 2 ^ 492 + 4 * 2 ^ 488 + 2 * 2 ^ 481 + 4096 * 2 ^ 360 + 256 * 2 ^ 336 + 2 ^ 200 + 4096 * 2 ^ 160))
      3 10 = 12298 := by decide +kernel

/-- 13, under R284: 16,777,216 + 1 rounds to 16,777,216 in FP32. -/
theorem test_ring_sum_example : toF32 ((Fp.fin false 16777216 0).add (.fin false 1 0)) = 0x4B800000 := by decide +kernel

/-- 09, under R200: with 0xFFFE current, 0x0003 may be staged and 0x8000 not. -/
theorem test_epoch_example : newer 0x0003 0xFFFE = true ∧ newer 0x8000 0xFFFE = false := by decide +kernel

/-- 07, under R157: buckets 1,024 (three) and 2,048 with 1 MiB per token. -/
theorem test_micro_batch_example :
    let bs := [1024, 1024, 1024, 2048]
    pickSlot bs [] 900 = some 0 ∧ pickSlot bs [0] 1900 = some 3 ∧ pickSlot bs [0, 3] 1000 = some 1 ∧
    pickSlot bs [0, 1, 3] 1500 = none ∧ pickSlot bs [0, 1, 3] 700 = some 2 ∧ extentOf 900 1048576 = 450 ∧
    extentOf 1900 1048576 = 950 := by decide +kernel

/-- The scores and the mask of 05's example under R117. -/
def scores : Running := withCtx fun c =>
  let x : Buf := [(0, 0x4000), (1, 0xBF80), (2, 0x3F00), (3, 0x4040), (4, 0xC000), (5, 0x3FC0), (7, 0x4080)]
  let z : Buf := [(0, 1), (2, 1), (3, 1), (5, 1), (7, 1)]
  { c with v := (c.v.set 0 x).set 1 z }

/-- Row 0 of a buffer after a slot, in partition 0. -/
def rowAfter (i : Instr) (r : Running) (v : Fin 4) (n : Nat) : List W32 :=
  match exec i (running r) with
  | .next u => match (u.chip.run 0).bind Running.build with
    | some b => (List.range n).map fun c => Buf.get b.ctx.v[v] 0 c
    | none => []
  | _ => []

def cprO : VOps := { vO with d := 2, x := 0, y := 3, z := 1, rows := 1, cols := 8 }

theorem test_compress_example :
    rowAfter (.vcpr slot0 cprO) scores 2 8 = [0x4000, 0x3F00, 0x4040, 0x3FC0, 0x4080, 0, 0, 0] ∧
    rowAfter (.vcpr slot0 cprO) scores 3 8 = [0, 2, 3, 5, 7, 0xFFFFFFFF, 0xFFFFFFFF, 0xFFFFFFFF] := by decide +kernel

/-- The compressed scores times 2, and their columns. -/
def compressed : Running := withCtx fun c =>
  let x : Buf := [(0, 0x4080), (1, 0x3F80), (2, 0x40C0), (3, 0x4040), (4, 0x4100)]
  let y : Buf := [(1, 2), (2, 3), (3, 5), (4, 7), (5, 0xFFFFFFFF), (6, 0xFFFFFFFF), (7, 0xFFFFFFFF)]
  { c with v := ((c.v.set 0 (scores.ctx.v[(0 : Fin 4)])).set 2 x).set 3 y }

/-- The packed scores, before the scaling. -/
def packed : Running := withCtx fun c =>
  let x : Buf := [(0, 0x4000), (1, 0x3F00), (2, 0x4040), (3, 0x3FC0), (4, 0x4080)]
  { c with v := c.v.set 2 x }

theorem test_expand_example :
    rowAfter (.vxpd slot0 { vO with d := 1, x := 2, y := 3, z := 0, rows := 1, cols := 8 }) compressed 1 8 =
      [0x4080, 0xBF80, 0x3F80, 0x40C0, 0xC000, 0x4040, 0, 0x4100] ∧
    rowAfter (.vscl { slot0 with imm0 := 0x4000 } { vO with d := 2, x := 2, rows := 1, cols := 8, ims := true }) packed 2 8 =
      [0x4080, 0x3F80, 0x40C0, 0x4040, 0x4100, 0, 0, 0] := by
  decide +kernel

/-- 14, under R315: source 1 is ACTIVE_PENDING at C0; a completion makes it PENDING, and C0 is assigned it again. -/
theorem test_interrupt_example :
    let s := State.reset.on fun c => { c with intc := { c.intc with
      src := c.intc.src.set 1 (.activePending 0), cores := (c.intc.cores.set 0 ⟨0xFFFF, 0, 0⟩).set 1 ⟨0xFFFF, 0, 0⟩ } }
    (match exec (.complete 0 1) s with
      | .next u => decide (u.chip.intc.src[(1 : Fin 128)] = .pending ∧ u.chip.intc.assigned 0 = some 1)
      | _ => false) = true := by decide +kernel

/-- An idle module's step is its tick; a command at the front runs. -/
theorem test_step :
    (match step State.reset with
      | .next u => decide (u.chip.drone.now = 1 ∧ u.pending = [])
      | _ => false) = true ∧
    (match step { State.reset with pending := [.swtrig 9, .coalescedRead] } with
      | .next u => decide (u.chip.intc.src[(9 : Fin 128)] = .pending ∧ u.pending = [.coalescedRead])
      | _ => false) = true := by decide +kernel

/-- The table gives its rows no bits: no word spells a command. -/
theorem test_no_word : decodeTableWord 8 1 = none ∧ State.reset.withFetchWord 8 1 = State.reset := ⟨rfl, rfl⟩

end Sys2Proof.Tests
end

section
/-! The module right after its reset, one lemma for each family of its state (functions, partitions, tenants, sources,
cores), and from them the values that the manual states. -/

namespace Sys2Proof.Machine

/-- The physical and the virtual functions alike are in the state of a function's own reset (R297, R298). -/
@[simp] theorem State.func_reset (f : Fn) : State.reset.chip.func f = Func.reset := by
  cases f with
  | pf => rfl
  | vf t => simp [State.reset, Chip.func, Chip.reset]

@[simp] theorem Func.rings_reset (r : Fin 12) : Func.reset.rings[r] = Ring.reset := by
  simp [Func.reset]

/-- Partition 0 holds the columns and the other three hold none (R77, R80); none has a plan, and none has a plan
that waits for it. -/
theorem partsReset_free (mc64 : Bool) (p : Fin 4) :
    (partsReset mc64)[p].run = none ∧ (partsReset mc64)[p].waiting = none := by
  by_cases hp : 0 = p.val <;> simp [partsReset, hp]

@[simp] theorem State.tenants_reset (t : Fin 16) : State.reset.chip.tenants[t] = Tenant.reset := by
  simp [State.reset, Chip.reset]

/-- Every source of an interrupt is idle (R315). -/
@[simp] theorem State.src_reset (n : Fin 128) : State.reset.chip.intc.src[n] = .idle := by
  simp [State.reset, Chip.reset, Intc.reset]

/-- A core enables no source, and its priority is the one at which it receives nothing (R314, R315). -/
@[simp] theorem State.cores_reset (k : Fin 6) : State.reset.chip.intc.cores[k] = ⟨0, 0xFF, 0⟩ := by
  simp [State.reset, Chip.reset, Intc.reset]

end Sys2Proof.Machine

open Sys2Proof.Machine

/-- Settles O25: the single values and the empty queues by the definition of the reset state, each family of rings,
partitions, tenants, cores and sources by its lemma. -/
theorem resetLeavesStatedValues : Obligations.ResetLeavesStatedValues := by
  unfold Obligations.ResetLeavesStatedValues
  dsimp only
  refine ⟨rfl, Mem.wf_reset, rfl, rfl, rfl, rfl, rfl, rfl, rfl, rfl, rfl, rfl, rfl, rfl,
    ?parts, ?rings, ?tenants, ?cores, ?sources, rfl, rfl, rfl, rfl⟩
  case parts => exact partsReset_free true
  case rings =>
    intro f r
    rw [State.func_reset, Func.rings_reset]
    exact ⟨rfl, rfl, rfl⟩
  case tenants =>
    intro t
    rw [State.tenants_reset]
    exact ⟨rfl, rfl, rfl, rfl, rfl⟩
  case cores =>
    intro k
    rw [State.cores_reset]
    exact ⟨rfl, rfl, rfl⟩
  case sources => exact State.src_reset

end

section
/-! The end of a prologue and the commit points. Where a running plan stands (`Chip.stand`) is followed through the
operations of a boundary; where the plan ends there, what its partition runs next is one of the bound plans
(`Chip.OnlyRuns`). -/

namespace Sys2Proof.Machine

/-! ### Waiting frames -/

/-- Nothing is taken from a port at which no frame waits (R275). -/
theorem State.takeHead_of_empty {s : State} {p : Fin 16} (h : s.chip.ports[p].waiting = []) : s.takeHead p = none := by
  unfold State.takeHead
  rw [h]

theorem State.takeAny_of_empty {s : State} (h : ∀ p : Fin 16, s.chip.ports[p].waiting = []) (ps : List (Fin 16)) :
    s.takeAny ps = none := by
  induction ps with
  | nil => rfl
  | cons p ps ih => rw [State.takeAny, State.takeHead_of_empty (h p)]; exact ih

theorem State.consumeAll_of_empty {s : State} (h : ∀ p : Fin 16, s.chip.ports[p].waiting = []) : s.consumeAll = s := by
  rw [State.consumeAll, State.consume, State.takeAny_of_empty h]

/-! ### Plans that run -/

theorem Chip.run_of_active {c : Chip} {q : Fin 4} {r : Running} (h : c.active q = some r) : c.run q = some r := by
  unfold Chip.active at h
  split at h
  · split at h <;> simp_all
  · cases h

theorem Chip.run_of_inPrologue {c : Chip} {q : Fin 4} {r : Running} (h : c.inPrologue q = some r) : c.run q = some r := by
  unfold Chip.inPrologue at h
  split at h
  · split at h <;> simp_all
  · cases h

/-! ### Commit points (R185, R186, R382) -/

@[simp] theorem CommitPt.fill_stage_ne (now : Stamp) (k : CommitPt) : (k.fill now).stage ≠ .filling := by
  unfold CommitPt.fill
  split <;> simp_all

theorem CommitPt.fill_of_filling {now : Stamp} {k : CommitPt} (h : k.stage = .filling) :
    k.fill now = { k with stage := .complete now } := by
  simp [CommitPt.fill, h]

theorem CommitPt.confirm_of_due {now t : Stamp} {k : CommitPt} (h : k.stage = .complete t) (hdue : 60000 ≤ (now - t).toNat) :
    k.confirm now = { k with stage := .confirmed } := by
  simp only [CommitPt.confirm, h, confirmNs]
  exact if_pos hdue

theorem CommitPt.confirm_stage_ne {now : Stamp} {k : CommitPt} (h : k.stage ≠ .filling) : (k.confirm now).stage ≠ .filling := by
  unfold CommitPt.confirm
  split
  · split
    · simp
    · exact h
  · exact h

/-- Confirming drops points and adds none (R382). -/
theorem trimCommits_subset (l : List CommitPt) : trimCommits l ⊆ l := by
  induction l with
  | nil => exact List.Subset.refl _
  | cons k ks ih =>
    unfold trimCommits
    split
    · simp
    · exact List.cons_subset_cons _ ih

theorem trimCommits_of_confirmed {k : CommitPt} (h : k.stage = .confirmed) (ks : List CommitPt) : trimCommits (k :: ks) = [k] := by
  simp [trimCommits, h]

/-- A commit point is put before the plan's older ones, which are complete or confirmed now (R186, R382). -/
theorem Chip.commitWith_run {c : Chip} {q : Fin 4} {r : Running} (h : c.run q = some r) (bound : Bool)
    (moved : List (Fin 384 × Nat)) :
    (c.commitWith q bound moved).run q = some { r with
      commits := c.applyCap.commitOf r bound ::
        (Running.settle { r with commits := r.commits.map (CommitPt.fill c.drone.now) } c.drone.now).commits
      bwrites := [] } := by
  simp [Chip.commitWith, h, Running.settle]

theorem Chip.commitWith_run_ne (c : Chip) {p q : Fin 4} (h : p ≠ q) (bound : Bool) (moved : List (Fin 384 × Nat)) :
    (c.commitWith q bound moved).run p = c.run p := by
  unfold Chip.commitWith
  dsimp only
  split
  · simp
  · rw [Chip.setRun_run_ne _ _ _ h]
    simp [Chip.run]

theorem settled_not_filling {r : Running} {now : Stamp} {x : CommitPt}
    (h : x ∈ (Running.settle { r with commits := r.commits.map (CommitPt.fill now) } now).commits) : x.stage ≠ .filling := by
  have hx := trimCommits_subset _ h
  simp only [List.map_map, List.mem_map, Function.comp_apply] at hx
  obtain ⟨k, -, rfl⟩ := hx
  exact CommitPt.confirm_stage_ne (CommitPt.fill_stage_ne now k)

/-- A commit point keeps the context of the moment and fills; no older one is still filling (R185, R186). -/
theorem execCommitPoint_takes {s : State} {q : Fin 4} {r : Running} (h : s.chip.active q = some r) (moved : List (Fin 384 × Nat)) :
    ∃ t r' k ks, exec (.commitPoint q moved) s = .next t ∧ t.chip.run q = some r' ∧
        r'.commits = k :: ks ∧ k.stage = .filling ∧ k.stamp = s.chip.drone.now ∧ k.step = r.step ∧ k.ctx = r.ctx ∧
        k.toks = r.toks ∧ k.past = (r.tenant s.chip.tenants[r.plan.tenant]).pastOf ∧ k.undo = [] ∧
        (∀ x ∈ ks, x.stage ≠ .filling) ∧
        r'.ctx = r.ctx ∧ r'.step = r.step ∧ r'.plan = r.plan ∧ t.mem = s.mem ∧ t.pending = s.pending ∧
        t.chip.tenants = s.chip.tenants ∧ ∀ p, p ≠ q → t.chip.run p = s.chip.run p := by
  have hexec : exec (.commitPoint q moved) s = .next (s.on fun c => c.commitWith q false moved) := by
    simp only [exec, execCommitPoint, h]
  refine ⟨_, _, _, _, hexec, Chip.commitWith_run (Chip.run_of_active h) false moved, rfl, rfl, ?_, rfl, rfl, rfl, ?_, rfl,
    fun x hx => settled_not_filling hx, rfl, rfl, rfl, rfl, rfl, ?_, fun p hp => Chip.commitWith_run_ne _ hp _ _⟩
  · simp [Chip.commitOf]
  · simp [Chip.commitOf]
  · simp

/-- A rising edge makes an idle source pending (R313). -/
theorem Intc.edge_of_idle {i : Intc} {n : Fin 128} (h : i.src[n] = .idle) (now : Stamp) : (i.edge n now).src[n] = .pending := by
  simp only [Fin.getElem_fin] at h
  simp [Intc.edge, h]

theorem Running.fillingPt_eq {r : Running} {k : CommitPt} {ks : List CommitPt} (h : r.commits = k :: ks) (hk : k.stage = .filling) :
    r.fillingPt = some k := by
  simp [Running.fillingPt, h, hk]

/-- The newest point is complete now, none is filling any more, and source 52 + p is raised (R186, R312). -/
theorem execCommitFillComplete_fills {s : State} {q : Fin 4} {r : Running} (h : s.chip.active q = some r) {k : CommitPt}
    {ks : List CommitPt} (hks : r.commits = k :: ks) (hk : k.stage = .filling) :
    ∃ t r', exec (.commitFillComplete q) s = .next t ∧ t.chip.run q = some r' ∧
      r' = { r with commits := r'.commits } ∧
      r'.commits.head? = some { k with stage := .complete s.chip.drone.now } ∧
      r'.commits.length = r.commits.length ∧ (∀ x ∈ r'.commits, x.stage ≠ .filling) ∧
      (s.chip.intc.src[52 + q.val] = .idle → t.chip.intc.src[52 + q.val] = .pending) ∧
      t.mem = s.mem ∧ t.pending = s.pending ∧ t.chip.tenants = s.chip.tenants := by
  have hexec : exec (.commitFillComplete q) s = .next (s.on fun c =>
      ((c.setRun q (some { r with commits := r.commits.map (CommitPt.fill c.drone.now) })).raise
        (Fin.ofNat 128 (52 + q.val))).ackCovered r.plan.tenant k) := by
    simp only [exec, execCommitFillComplete, h, Running.fillingPt_eq hks hk]
  have hsrc : Fin.ofNat 128 (52 + q.val) = ⟨52 + q.val, by omega⟩ := Fin.ext (Nat.mod_eq_of_lt (by omega))
  refine ⟨_, { r with commits := r.commits.map (CommitPt.fill s.chip.drone.now) }, hexec, ?run, rfl, ?head, ?length, ?stages,
    ?raised, rfl, rfl, ?tenants⟩
  case run => simp
  case head => simp [hks, CommitPt.fill_of_filling hk]
  case length => simp
  case stages => simp
  case raised =>
    intro hidle
    have hedge := Intc.edge_of_idle (n := ⟨52 + q.val, by omega⟩) hidle s.chip.drone.now
    simpa [-Fin.ofNat_eq_cast, hsrc] using hedge
  case tenants => simp

theorem Running.settle_of_due {r : Running} {k : CommitPt} {ks : List CommitPt} {now t : Stamp} (h : r.commits = k :: ks)
    (hk : k.stage = .complete t) (hdue : 60000 ≤ (now - t).toNat) :
    r.settle now = { r with commits := [{ k with stage := .confirmed }] } := by
  rw [Running.settle, h, List.map_cons, CommitPt.confirm_of_due hk hdue, trimCommits_of_confirmed rfl]

/-- A commit point that completed 60 µs ago is the replay source, and the older ones are dropped (R382). -/
theorem execCommitSetConfirmed_confirms {s : State} {q : Fin 4} {r : Running} (h : s.chip.active q = some r) {k : CommitPt}
    {ks : List CommitPt} {at_ : Stamp} (hks : r.commits = k :: ks) (hk : k.stage = .complete at_)
    (hdue : 60000 ≤ (s.chip.drone.now - at_).toNat) :
    ∃ t, exec (.commitSetConfirmed q) s = .next t ∧
      t.chip.run q = some { r with commits := [{ k with stage := .confirmed }] } ∧
      t.mem = s.mem ∧ t.pending = s.pending ∧ t.chip.tenants = s.chip.tenants := by
  have hexec : exec (.commitSetConfirmed q) s = .next (s.on fun c =>
      (c.setRun q (some { r with commits := [{ k with stage := .confirmed }] })).dropCovered r.plan.tenant
        { k with stage := .confirmed }) := by
    simp [exec, execCommitSetConfirmed, h, Running.settle_of_due hks hk hdue]
  exact ⟨_, hexec, by simp, rfl, rfl, by simp⟩

/-! ### Where a running plan stands -/

/-- Where a running plan stands: what a boundary, a hold or a commit point leaves of it as it was, and what the end of the
prologue sets. -/
structure Stand where
  plan : Plan
  inPrologue : Bool
  step : W32
  ctx : Ctx
  crossed : List CommitPt
  atBoundary : Bool

/-- Where a plan stands. -/
def Running.stand (r : Running) : Stand := ⟨r.plan, r.inPrologue, r.step, r.ctx, r.crossed, r.atBoundary⟩

/-- Where the plan of a partition stands. -/
def Chip.stand (c : Chip) (q : Fin 4) : Option Stand := (c.run q).map Running.stand

theorem Chip.stand_of_run {c c' : Chip} {q : Fin 4} (h : c'.run q = c.run q) : c'.stand q = c.stand q := by
  rw [Chip.stand, h, Chip.stand]

theorem Chip.stand_eq_some {c : Chip} {q : Fin 4} {x : Stand} (h : c.stand q = some x) : ∃ r, c.run q = some r ∧ r.stand = x :=
  Option.map_eq_some_iff.mp h

theorem Chip.stand_of_run_eq {c : Chip} {q : Fin 4} {r : Running} (h : c.run q = some r) : c.stand q = some r.stand := by
  rw [Chip.stand, h, Option.map_some]

theorem Chip.modRun_stand {f : Running → Running} (hf : ∀ r, (f r).stand = r.stand) (c : Chip) (p q : Fin 4) :
    (c.modRun p f).stand q = c.stand q := by
  by_cases hpq : q = p
  · subst hpq
    rw [Chip.stand, Chip.modRun_run, Option.map_map, Chip.stand]
    exact congrArg (fun g => Option.map g _) (funext hf)
  · exact Chip.stand_of_run (Chip.modRun_run_ne _ _ _ hpq)

theorem Chip.modRun_stand_map {f : Running → Running} {g : Stand → Stand} (hf : ∀ r, (f r).stand = g r.stand) (c : Chip)
    (p : Fin 4) : (c.modRun p f).stand p = (c.stand p).map g := by
  rw [Chip.stand, Chip.modRun_run, Option.map_map, Chip.stand, Option.map_map]
  exact congrArg (fun h => Option.map h _) (funext hf)

theorem Chip.setRun_stand {c : Chip} {p : Fin 4} {r r' : Running} (h : c.run p = some r) (hr : r'.stand = r.stand) (q : Fin 4) :
    (c.setRun p (some r')).stand q = c.stand q := by
  by_cases hpq : q = p
  · subst hpq
    simp [Chip.stand, h, hr]
  · exact Chip.stand_of_run (Chip.setRun_run_ne _ _ _ hpq)

@[simp] theorem Running.keepUndo_stand (r : Running) (u : List (PAddr × Byte)) : (r.keepUndo u).stand = r.stand := by
  unfold Running.keepUndo
  split <;> rfl

@[simp] theorem Chip.hold_stand (c : Chip) (p : Fin 4) (h : Hold) (q : Fin 4) : (c.hold p h).stand q = c.stand q :=
  Chip.modRun_stand (fun r => by split <;> rfl) c p q

@[simp] theorem Chip.event_stand (c : Chip) (f : Fn) (e : EvEntry) (q : Fin 4) : (c.event f e).stand q = c.stand q :=
  Chip.stand_of_run (by simp [Chip.run])

@[simp] theorem Chip.modTenant_stand (c : Chip) (t : Fin 16) (f : Tenant → Tenant) (q : Fin 4) : (c.modTenant t f).stand q = c.stand q :=
  rfl

@[simp] theorem Chip.ringHold_stand (c : Chip) (p q : Fin 4) : (c.ringHold p).stand q = c.stand q := by
  unfold Chip.ringHold
  split
  · rfl
  · split <;> simp

@[simp] theorem Chip.pauseHold_stand (c : Chip) (p q : Fin 4) : (c.pauseHold p).stand q = c.stand q := by
  unfold Chip.pauseHold
  split
  · rfl
  · split
    · rw [← Chip.hold_stand c p .paused q]
      exact Chip.stand_of_run (by simp)
    · rfl

@[simp] theorem Chip.commitWith_stand (c : Chip) (p : Fin 4) (bound : Bool) (moved : List (Fin 384 × Nat)) (q : Fin 4) :
    (c.commitWith p bound moved).stand q = c.stand q := by
  by_cases hq : q = p
  · subst hq
    cases h : c.run q with
    | none => exact Chip.stand_of_run (by simp [Chip.commitWith, h])
    | some r => rw [Chip.stand_of_run_eq (Chip.commitWith_run h ..), Chip.stand_of_run_eq h]; rfl
  · exact Chip.stand_of_run (Chip.commitWith_run_ne c hq bound moved)

@[simp] theorem Chip.replayOver_stand (c : Chip) (p q : Fin 4) : (c.replayOver p).stand q = c.stand q := by
  unfold Chip.replayOver
  split
  · rfl
  · rename_i r h
    dsimp only
    split
    · exact Chip.setRun_stand (r' := { r with replayTo := none, owed := none }) h rfl q
    · rw [Chip.event_stand]
      exact Chip.setRun_stand (r' := { r with replayTo := none, owed := none }) h rfl q

/-! ### The turn map (R173) -/

/-- What every step of a fold over states keeps, the fold keeps. -/
theorem State.foldl_keeps {α β : Type} {g : State → β} {f : State → α → State} (h : ∀ s x, g (f s x) = g s) (l : List α)
    (s : State) : g (l.foldl f s) = g s :=
  List.foldlRecOn (motive := fun u => g u = g s) l f rfl fun u hu x _ => (h u x).trans hu

@[simp] theorem State.putElems_stand (s : State) (p : Fin 4) (x : Plan) (tid : BitVec 20) (off : Nat) (xs : List W32) (q : Fin 4) :
    (s.putElems p x tid off xs).chip.stand q = s.chip.stand q := by
  unfold State.putElems
  dsimp only
  split
  · rfl
  · rfl
  · exact Chip.modRun_stand (fun r => Running.keepUndo_stand ..) _ _ _

@[simp] theorem State.putScales_stand (s : State) (p : Fin 4) (x : Plan) (k : List ((Nat × BitVec 20 × Nat) × Byte)) (q : Fin 4) :
    (s.putScales p x k).chip.stand q = s.chip.stand q :=
  State.foldl_keeps (g := fun s => s.chip.stand q) (fun _ _ => State.putElems_stand ..) k s

@[simp] theorem State.moveEntry_stand (s : State) (p : Fin 4) (x : Plan) (e : TurnEnt) (n : Nat) (q : Fin 4) :
    (s.moveEntry p x e n).chip.stand q = s.chip.stand q := by
  unfold State.moveEntry
  split
  · rfl
  · split
    · rfl
    · split
      · rfl
      · dsimp only
        split <;> simp

@[simp] theorem State.moveAll_stand (s : State) (p : Fin 4) (x : Plan) (q : Fin 4) :
    (s.moveAll p x).chip.stand q = s.chip.stand q :=
  State.foldl_keeps (g := fun s => s.chip.stand q) (fun _ _ => State.moveEntry_stand ..) _ s

theorem State.moveAll_stand_of_run {s : State} {q : Fin 4} {r : Running} (h : s.chip.run q = some r) (x : Plan) :
    (s.moveAll q x).chip.stand q = some r.stand := by
  rw [State.moveAll_stand, Chip.stand_of_run_eq h]

/-! ### A step begins (R207-R219, R226) -/

@[simp] theorem State.boundaryWrite_stand (s : State) (p : Fin 4) (ws : List MemWrite) (q : Fin 4) :
    (s.boundaryWrite p ws).chip.stand q = s.chip.stand q :=
  Chip.modRun_stand (f := fun r => { r.keepUndo (undoOf s.mem ws) with bwrites := r.bwrites ++ ws })
    (fun r => Running.keepUndo_stand r (undoOf s.mem ws)) s.chip p q

@[simp] theorem State.writePrompt_stand (s : State) (p : Fin 4) (r : Running) (rt : ReqTable) (i : Nat) (prompt : List W32)
    (q : Fin 4) : (s.writePrompt p r rt i prompt).chip.stand q = s.chip.stand q := by
  unfold State.writePrompt
  dsimp only
  split
  · rfl
  · exact State.boundaryWrite_stand ..

@[simp] theorem Chip.complete_stand (c : Chip) (src : CmdSrc) (st plan : W16) (v0 : W32) (v1 : W64) (q : Fin 4) :
    (c.complete src st plan v0 v1).stand q = c.stand q :=
  Chip.stand_of_run (by simp [Chip.run])

@[simp] theorem admitLoop_stand (p : Fin 4) (r : Running) (rt : ReqTable) (n : Nat) (l : List PendAdm) (s : State) (q : Fin 4) :
    (admitLoop p r rt n l s).1.chip.stand q = s.chip.stand q := by
  fun_induction admitLoop p r rt n l s <;> simp_all +zetaDelta

@[simp] theorem State.admitStep_stand (s : State) (p : Fin 4) (r : Running) (q : Fin 4) :
    (s.admitStep p r).chip.stand q = s.chip.stand q := by
  unfold State.admitStep
  split
  · rfl
  · split
    · rfl
    · exact admitLoop_stand ..

@[simp] theorem State.intake_stand (s : State) (p : Fin 4) (r : Running) (q : Fin 4) :
    (s.intake p r).chip.stand q = s.chip.stand q :=
  State.boundaryWrite_stand ..

/-- The step epoch is chosen as the plan comes to stand at its boundary (R209). -/
theorem Chip.chooseEpoch_stand (c : Chip) (p : Fin 4) (r : Running) :
    (c.chooseEpoch p r).stand p = (c.stand p).map fun x => { x with atBoundary := true } :=
  Chip.modRun_stand_map (fun _ => rfl) _ _

/-- A step begins at its first bundle, where the plan stands. -/
theorem State.beginStep_stand {s : State} {p : Fin 4} {x : Stand} (h : s.chip.stand p = some x) :
    (s.beginStep p).chip.stand p = some { x with atBoundary := true } := by
  obtain ⟨r, hr, -⟩ := Chip.stand_eq_some h
  unfold State.beginStep
  rw [hr]
  simp only [State.on_chip, Chip.commitAt, Chip.commitWith_stand, Chip.pauseHold_stand, Chip.ringHold_stand, State.intake_stand,
    Chip.chooseEpoch_stand, State.admitStep_stand]
  split <;> simp [h]

theorem Chip.takeSaves_stand (c : Chip) (p : Fin 4) (r : Running) (q : Fin 4) : (c.takeSaves p r).1.stand q = c.stand q := by
  unfold Chip.takeSaves
  dsimp only
  split
  · rfl
  · dsimp only
    split
    · rfl
    · exact Chip.hold_stand ..

theorem Chip.finishRequests_run (c : Chip) (p : Fin 4) (r : Running) (ended : Bool) (q : Fin 4) :
    (c.finishRequests p r ended).1.run q = c.run q := by
  unfold Chip.finishRequests
  dsimp only
  split <;> simp

/-! ### The bound plans under the operations of a boundary -/

@[simp] theorem State.putElems_placer (s : State) (p : Fin 4) (x : Plan) (tid : BitVec 20) (off : Nat) (xs : List W32) :
    (s.putElems p x tid off xs).chip.placer = s.chip.placer := by
  unfold State.putElems
  dsimp only
  split <;> rfl

@[simp] theorem State.moveEntry_placer (s : State) (p : Fin 4) (x : Plan) (e : TurnEnt) (n : Nat) :
    (s.moveEntry p x e n).chip.placer = s.chip.placer := by
  unfold State.moveEntry
  split
  · rfl
  · split
    · rfl
    · split
      · rfl
      · dsimp only
        split
        · rw [State.putElems_placer]
          exact State.foldl_keeps (g := fun s => s.chip.placer) (fun _ _ => State.putElems_placer ..) _ s
        · exact State.putElems_placer ..

@[simp] theorem State.moveAll_placer (s : State) (p : Fin 4) (x : Plan) : (s.moveAll p x).chip.placer = s.chip.placer :=
  State.foldl_keeps (g := fun s => s.chip.placer) (fun _ _ => State.moveEntry_placer ..) _ s

/-- The placer's job starts again; the bound plans stay (R311). -/
theorem Chip.restartJob_bound (c : Chip) : c.restartJob.placer.bound = c.placer.bound := by
  unfold Chip.restartJob
  split
  · rfl
  · unfold Chip.beginJob
    split
    · rfl
    · split <;> rfl

theorem Chip.activate_bound (c : Chip) : c.activate.placer.bound = c.placer.bound := by
  unfold Chip.activate
  split
  · rfl
  · split
    · simp [Chip.handover, Chip.restartJob_bound]
    · rfl

theorem Chip.boundaryEvents_bound (c : Chip) (p : Fin 4) (t : Fin 16) : (c.boundaryEvents p t).placer.bound = c.placer.bound := by
  unfold Chip.boundaryEvents
  simp [Chip.activate_bound]

theorem Chip.finishRequests_placer (c : Chip) (p : Fin 4) (r : Running) (ended : Bool) :
    (c.finishRequests p r ended).1.placer = c.placer := by
  unfold Chip.finishRequests
  dsimp only
  split <;> simp

theorem Chip.takeSaves_placer (c : Chip) (p : Fin 4) (r : Running) : (c.takeSaves p r).1.placer = c.placer := by
  unfold Chip.takeSaves
  dsimp only
  split
  · rfl
  · dsimp only
    split <;> simp

theorem Chip.endPlan_bound (c : Chip) (p : Fin 4) (r : Running) (n : Nat) (st : W16) (out : StepOut) :
    (c.endPlan p r n st out).placer.bound = c.placer.bound := by
  unfold Chip.endPlan Placer.dropRebind
  dsimp only
  split <;> split <;> simp

/-! ### The plans that may run next -/

/-- The plans that are bound, by their ID. -/
def Chip.boundIds (c : Chip) : List W16 := c.placer.bound.map Plan.id

/-- Only plans among `ids` are bound, or run in partition `q`. -/
structure Chip.OnlyRuns (c : Chip) (ids : List W16) (q : Fin 4) : Prop where
  bound : c.boundIds ⊆ ids
  run : ∀ x, c.stand q = some x → x.plan.id ∈ ids

theorem Chip.OnlyRuns.of_eq {c c' : Chip} {ids : List W16} {q : Fin 4} (h : c.OnlyRuns ids q) (hb : c'.placer = c.placer)
    (hr : c'.stand q = c.stand q) : c'.OnlyRuns ids q :=
  ⟨by rw [Chip.boundIds, hb]; exact h.bound, fun x hx => h.run x (hr ▸ hx)⟩

theorem Chip.modPart_run_of_keeps {f : Part → Part} (hf : ∀ x, (f x).run = x.run) (c : Chip) (p q : Fin 4) :
    (c.modPart p f).run q = c.run q := by
  by_cases hq : q = p
  · subst hq
    simp [Chip.run, hf]
  · simp [Chip.run, vecMod_ne _ _ hq]

theorem Chip.refuseTarget_run (c : Chip) (p q : Fin 4) : (c.refuseTarget p).run q = c.run q := by
  unfold Chip.refuseTarget
  split
  · split
    · split
      · rfl
      · simpa [Chip.run] using Chip.modPart_run_of_keeps (f := fun y => { y with waiting := none }) (fun _ => rfl) c p q
    · rfl
  · rfl

/-- A new partition set binds the plans anew under their IDs (R81). -/
theorem Chip.applyPartSet_boundIds (c : Chip) : c.applyPartSet.boundIds = c.boundIds := by
  unfold Chip.applyPartSet
  split
  · rfl
  · split
    · rw [Chip.boundIds, Chip.done_placer, foldl_placer fun c p => (by simp : (c.refuseTarget p).placer = c.placer), List.map_map]
      refine List.map_congr_left fun a _ => ?_
      dsimp only [Function.comp_apply]
      split <;> rfl
    · rfl

theorem Chip.applyPartSet_run (c : Chip) (q : Fin 4) : c.applyPartSet.run q = c.run q := by
  unfold Chip.applyPartSet
  split
  · rfl
  · split
    · dsimp only
      rw [Chip.run, Chip.done_parts]
      refine (foldl_keeps (g := fun c => c.run q) (fun c p => Chip.refuseTarget_run c p q) allParts _).trans ?_
      simp [Chip.run]
    · rfl

/-- A plan that starts was bound (R17). -/
theorem Chip.mayStart_mem_bound {c : Chip} {p : Fin 4} {x : Plan} {src : CmdSrc} (h : c.mayStart p = some (x, src)) :
    x ∈ c.placer.bound := by
  unfold Chip.mayStart at h
  split at h
  · split at h
    · cases h
    · split at h
      · rename_i y hy
        split at h
        · cases h
          exact List.mem_of_find?_eq_some hy
        · cases h
      · cases h
  · cases h

/-- Staging leaves the partitions and the bound plans (R205, R206). -/
theorem Chip.beginStaging_keeps (c : Chip) (x : Plan) :
    (c.beginStaging x).1.parts = c.parts ∧ (c.beginStaging x).1.placer = c.placer := by
  unfold Chip.beginStaging
  refine List.foldlRecOn (motive := fun y : Chip × _ => y.1.parts = c.parts ∧ y.1.placer = c.placer) _ _ ⟨rfl, rfl⟩ ?_
  intro y hy a _
  split
  · exact hy
  · exact hy

/-- A prologue's sends leave the partitions and the bound plans (R288). -/
theorem State.sendTransfers_keepsPlans (s : State) (x : Plan) :
    (s.sendTransfers x).chip.parts = s.chip.parts ∧ (s.sendTransfers x).chip.placer = s.chip.placer := by
  unfold State.sendTransfers
  refine List.foldlRecOn (motive := fun u : State => u.chip.parts = s.chip.parts ∧ u.chip.placer = s.chip.placer) _ _ ⟨rfl, rfl⟩ ?_
  intro u hu y _
  split
  · exact hu
  · split
    · simpa using hu
    · exact hu

@[simp] theorem Chip.firstCommit_stand (c : Chip) (p q : Fin 4) : (c.firstCommit p).stand q = c.stand q := by
  unfold Chip.firstCommit
  split
  · rfl
  · rename_i r h
    exact Chip.setRun_stand (r' := { r with commits := [{ c.commitOf r false with stage := .confirmed }] }) h rfl q

theorem Chip.OnlyRuns.of_parts {c c' : Chip} {ids : List W16} {q : Fin 4} (h : c.OnlyRuns ids q) (hp : c'.parts = c.parts)
    (hb : c'.placer = c.placer) : c'.OnlyRuns ids q :=
  h.of_eq hb (Chip.stand_of_run (by rw [Chip.run, hp, Chip.run]))

section
variable {c : Chip} {ids : List W16} {q : Fin 4} (h : c.OnlyRuns ids q)
include h

theorem Chip.OnlyRuns.modTenant (t : Fin 16) (f : Tenant → Tenant) : (c.modTenant t f).OnlyRuns ids q := h.of_parts rfl rfl

theorem Chip.OnlyRuns.complete (src : CmdSrc) (st plan : W16) (v0 : W32) (v1 : W64) :
    (c.complete src st plan v0 v1).OnlyRuns ids q := h.of_parts (by simp) (by simp)

theorem Chip.OnlyRuns.setFState (t : Fin 16) (st : FState) : (c.setFState t st).OnlyRuns ids q := h.of_parts (by simp) (by simp)

theorem Chip.OnlyRuns.settleAbsent : c.settleAbsent.OnlyRuns ids q := h.of_parts (by simp) (by simp)

theorem Chip.OnlyRuns.firstCommit (p : Fin 4) : (c.firstCommit p).OnlyRuns ids q := h.of_eq (by simp) (Chip.firstCommit_stand c p q)

theorem Chip.OnlyRuns.useTiles (x : Plan) (ts : List (Fin 68)) : (c.useTiles x ts).OnlyRuns ids q := h.of_parts (by simp) (by simp)

theorem Chip.OnlyRuns.touchAll (es : List TurnEnt) : (es.foldl (fun c e => c.touch e.grp) c).OnlyRuns ids q :=
  h.of_parts (by simp) (by simp)

theorem Chip.OnlyRuns.beginStaging (x : Plan) : (c.beginStaging x).1.OnlyRuns ids q :=
  h.of_parts (Chip.beginStaging_keeps c x).1 (Chip.beginStaging_keeps c x).2

theorem Chip.OnlyRuns.rotateKey : c.rotateKey.OnlyRuns ids q := h.of_parts (by simp) (by simp)

theorem Chip.OnlyRuns.applyPartSet : c.applyPartSet.OnlyRuns ids q :=
  ⟨by rw [Chip.applyPartSet_boundIds]; exact h.bound, fun x hx => h.run x (Chip.stand_of_run (Chip.applyPartSet_run c q) ▸ hx)⟩

/-- A plan that is taken out of the bound ones leaves the others (R300). -/
theorem Chip.OnlyRuns.unbind (f : Plan → Bool) :
    { c with placer := { c.placer with bound := c.placer.bound.filter f } }.OnlyRuns ids q :=
  ⟨fun _ hi => h.bound ((List.filter_sublist.map _).subset hi), h.run⟩

/-- One of the plans comes to run. -/
theorem Chip.OnlyRuns.start {r : Running} (hr : r.plan.id ∈ ids) (p : Fin 4) :
    (c.modPart p fun x => { x with run := some r, waiting := none }).OnlyRuns ids q := by
  refine ⟨h.bound, fun x hx => ?_⟩
  obtain ⟨r', hr', rfl⟩ := Chip.stand_eq_some hx
  by_cases hq : q = p
  · subst hq
    have hrun : r = r' := by simpa [Chip.run] using hr'
    exact hrun ▸ hr
  · refine h.run _ (Chip.stand_of_run_eq ?_)
    simpa [Chip.run, vecMod_ne _ _ hq] using hr'

end

/-- What starts in a free partition was bound, and no plan comes to be bound (R17, R300). -/
theorem State.startWaiting_onlyRuns {s : State} {ids : List W16} {q : Fin 4} (h : s.chip.OnlyRuns ids q) (p : Fin 4) :
    (s.startWaiting p).chip.OnlyRuns ids q := by
  unfold State.startWaiting
  split
  · exact h
  · rename_i x src hx
    have hid : x.id ∈ ids := h.bound (List.mem_map_of_mem (Chip.mayStart_mem_bound hx))
    refine Chip.OnlyRuns.of_parts ?_ (State.sendTransfers_keepsPlans _ x).1 (State.sendTransfers_keepsPlans _ x).2
    dsimp only [State.on_chip]
    refine .complete (.firstCommit (.setFState (.modTenant (.useTiles (.start (.touchAll (.beginStaging ?_ x) _) ?_ p) ..) ..) ..) p) ..
    · split
      · exact (h.unbind _).rotateKey
      · exact h.unbind _
    · exact hid

/-- Once a partition has lost its plan, only a plan that was bound can run in it (R17, R20). -/
theorem State.freePart_onlyRuns (s : State) (q : Fin 4) : (s.freePart q).chip.OnlyRuns s.chip.boundIds q := by
  unfold State.freePart
  refine List.foldlRecOn (motive := fun u : State => u.chip.OnlyRuns s.chip.boundIds q) _ _ ?_
    fun u hu p _ => State.startWaiting_onlyRuns hu p
  dsimp only [State.on_chip]
  refine .settleAbsent (.applyPartSet ⟨List.Subset.refl _, fun x hx => ?_⟩)
  simp [Chip.stand, Chip.run] at hx

theorem State.endPlan_onlyRuns (s : State) (q : Fin 4) (r : Running) (n : Nat) (st : W16) (out : StepOut) :
    (s.endPlan q r n st out).chip.OnlyRuns s.chip.boundIds q := by
  have h := (s.on fun c => c.endPlan q r n st out).freePart_onlyRuns q
  rwa [State.on_chip, Chip.boundIds, Chip.endPlan_bound] at h

theorem State.failPlan_onlyRuns (s : State) (q : Fin 4) (r : Running) (n bidx : Nat) (slot reason : Byte) (out : StepOut) :
    (s.failPlan q r n bidx slot reason out).chip.OnlyRuns s.chip.boundIds q := by
  have hids (a0 a3 : W64) : (s.chip.endEvent r 0x0022 a0 a3).boundIds = s.chip.boundIds := by simp [Chip.boundIds]
  rw [← hids]
  exact State.endPlan_onlyRuns (s.on fun c => c.endEvent r 0x0022 _ _) q r n 0x0022 out

/-! ### The end of the prologue -/

/-- The step that comes begins where the plan stands, or the plan has ended (R28). -/
theorem State.enterStep_stands {s : State} {q : Fin 4} {x : Stand} (h : s.chip.stand q = some x) (out : StepOut) :
    (s.enterStep q out).chip.stand q = some { x with atBoundary := true } ∨
      (s.enterStep q out).chip.OnlyRuns s.chip.boundIds q := by
  obtain ⟨r, hr, -⟩ := Chip.stand_eq_some h
  unfold State.enterStep
  rw [hr]
  dsimp only
  split
  · refine .inl (State.beginStep_stand ?_)
    rw [← h]
    exact Chip.stand_of_run (by simp)
  · exact .inr (State.failPlan_onlyRuns ..)

/-- A step restored part way goes on where it stood (R393). -/
theorem State.resumeStep_stand (s : State) (q : Fin 4) : (s.resumeStep q).chip.stand q = s.chip.stand q := by
  unfold State.resumeStep
  split
  · rfl
  · simp only [State.on_chip, Chip.commit, Chip.commitWith_stand, Chip.pauseHold_stand]
    refine (Chip.modRun_stand ?_ _ q q).trans (Chip.modTenant_stand ..)
    exact fun _ => rfl

/-- The chip as a prologue ends, before anything of the first step: a replay is over, the windows are rewritten, the copies
staged (R191, R205). -/
def Chip.leavePrologue (c : Chip) (q : Fin 4) (p : Plan) : Chip :=
  (((c.replayOver q).rewriteWindows q).modTenant p.tenant fun t =>
    t.endStaging p (((c.run q).map Running.staging).getD [])).modRun q fun r => { r with inPrologue := false }

theorem Chip.leavePrologue_stand {c : Chip} {q : Fin 4} {x : Stand} (h : c.stand q = some x) (p : Plan) :
    (c.leavePrologue q p).stand q = some { x with inPrologue := false } := by
  rw [Chip.leavePrologue, Chip.modRun_stand_map (g := fun x => { x with inPrologue := false }) (fun _ => rfl), Chip.modTenant_stand,
    Chip.stand_of_run (c := c.replayOver q) (by simp), Chip.replayOver_stand, h, Option.map_some]

theorem Chip.leavePrologue_placer (c : Chip) (q : Fin 4) (p : Plan) : (c.leavePrologue q p).placer = c.placer := by
  simp [Chip.leavePrologue]

/-- The chip at the boundary before the first step, its requests and saves judged (R16, R214, R391). -/
def Chip.firstBoundary (c : Chip) (q : Fin 4) (p : Plan) (r : Running) : Chip :=
  ((((c.leavePrologue q p).boundaryEvents q p.tenant).finishRequests q r false).1.takeSaves q r).1

theorem Chip.firstBoundary_stand {c : Chip} {q : Fin 4} {x : Stand} (h : c.stand q = some x) (p : Plan) (r : Running) :
    (c.firstBoundary q p r).stand q = some { x with inPrologue := false } := by
  rw [Chip.firstBoundary, Chip.takeSaves_stand, Chip.stand_of_run (Chip.finishRequests_run ..),
    Chip.stand_of_run (c := c.leavePrologue q p) (by simp), Chip.leavePrologue_stand h]

theorem Chip.firstBoundary_boundIds (c : Chip) (q : Fin 4) (p : Plan) (r : Running) :
    (c.firstBoundary q p r).boundIds = c.boundIds := by
  rw [Chip.boundIds, Chip.firstBoundary, Chip.takeSaves_placer, Chip.finishRequests_placer, Chip.boundaryEvents_bound,
    Chip.leavePrologue_placer, Chip.boundIds]

theorem State.endPrologue_of_midStep {p : Plan} (hp : p.midStep = true) (s : State) (q : Fin 4) :
    s.endPrologue q p = (s.on fun c => c.leavePrologue q p).resumeStep q := by
  unfold State.endPrologue
  exact if_pos hp

/-- Away from a step restored part way, the plan ends at the boundary before the first step, or that step is entered. -/
theorem State.endPrologue_cases {s : State} {q : Fin 4} {p : Plan} {r : Running} (hp : p.midStep = false)
    (hr : (s.chip.leavePrologue q p).run q = some r) :
    (∃ n st out, s.endPrologue q p = State.endPlan { s with chip := s.chip.firstBoundary q p r } q r n st out) ∨
      ∃ out, s.endPrologue q p = State.enterStep { s with chip := s.chip.firstBoundary q p r } q out := by
  have hr' : ((s.chip.leavePrologue q p).boundaryEvents q p.tenant).run q = some r := by simpa using hr
  rw [Chip.leavePrologue] at hr'
  simp only [State.endPrologue, hp, State.on_on, State.on_chip, State.on_pending, State.on_mem, hr', Bool.false_eq_true, if_false,
    Chip.firstBoundary, Chip.leavePrologue]
  generalize planEndOf _ _ _ _ _ _ _ = e
  cases e with
  | ends st => exact .inl ⟨_, _, _, rfl⟩
  | goesOn => exact .inr ⟨_, rfl⟩

/-- The plan stands at its first step's first bundle, or in the step that a saved context stands in; or it ended at that
boundary, and what runs now was bound (R16, R18, R20, R28). -/
theorem State.endPrologue_stands {s : State} {q : Fin 4} {x : Stand} (h : s.chip.stand q = some x) (p : Plan) :
    (s.endPrologue q p).chip.stand q = some { x with inPrologue := false, atBoundary := !p.midStep || x.atBoundary } ∨
      p.midStep = false ∧ (s.endPrologue q p).chip.OnlyRuns s.chip.boundIds q := by
  cases hp : p.midStep with
  | true =>
    rw [State.endPrologue_of_midStep hp, State.resumeStep_stand, State.on_chip, Chip.leavePrologue_stand h]
    exact .inl rfl
  | false =>
    obtain ⟨r, hr, -⟩ := Chip.stand_eq_some (Chip.leavePrologue_stand h p)
    have hids := Chip.firstBoundary_boundIds s.chip q p r
    obtain ⟨n, st, out, hend⟩ | ⟨out, henter⟩ := State.endPrologue_cases hp hr
    · rw [hend, ← hids]
      exact .inr ⟨rfl, State.endPlan_onlyRuns { s with chip := s.chip.firstBoundary q p r } q r n st out⟩
    · rw [henter, ← hids]
      exact (State.enterStep_stands (s := { s with chip := s.chip.firstBoundary q p r }) (Chip.firstBoundary_stand h p r) out).imp_right
        fun hruns => ⟨rfl, hruns⟩

/-- In a replay the plan stands at the boundary that had followed (R382). -/
theorem State.recross_stand {s : State} {q : Fin 4} {x : Stand} (h : s.chip.stand q = some x) (k : CommitPt) (rest : List CommitPt) :
    (s.recross q k rest).chip.stand q =
      some { x with inPrologue := false, step := k.step, ctx := k.ctx, crossed := rest, atBoundary := true } := by
  unfold State.recross
  simp only [State.on_chip, Chip.commitAt, Chip.commitWith_stand, Chip.pauseHold_stand]
  rw [Chip.stand_of_run (Chip.raise_run ..), Chip.modRun_stand_map (g := fun x =>
    { x with inPrologue := false, step := k.step, ctx := k.ctx, crossed := rest, atBoundary := true }), h, Option.map_some]
  intro r
  unfold Running.keepUndo
  split <;> rfl

/-! ### PROLOGUE_END (R18, R173, R240, R382) -/

section
variable {s : State} {q : Fin 4} {r : Running} (h : s.chip.inPrologue q = some r)
  (hports : ∀ p : Fin 16, s.chip.ports[p].waiting = [])
include h hports

theorem execPrologueEnd_waits (hready : s.chip.mapReady r.plan = false) : exec (.prologueEnd q) s = .next s := by
  simp [exec, execPrologueEnd, State.consumeAll_of_empty hports, h, hready]

theorem execPrologueEnd_readsBad {k : PAddr} (hready : s.chip.mapReady r.plan = true) (hbad : s.turnBad r.plan = some k) :
    exec (.prologueEnd q) s = .next (s.readsBad q r k) := by
  simp [exec, execPrologueEnd, State.consumeAll_of_empty hports, h, hready, hbad]

theorem execPrologueEnd_ends (hready : s.chip.mapReady r.plan = true) (hsound : s.turnBad r.plan = none) :
    exec (.prologueEnd q) s = .next ((s.moveAll q r.plan).reachPrologueEnd q r) := by
  simp [exec, execPrologueEnd, State.consumeAll_of_empty hports, h, hready, hsound]

/-- R18, R20: the prologue has ended, and the plan stands where its prologue had it, or it ended at that boundary. -/
theorem execPrologueEnd_reaches (hready : s.chip.mapReady r.plan = true) (hsound : s.turnBad r.plan = none) (hcrossed : r.crossed = []) :
    ∃ t, exec (.prologueEnd q) s = .next t ∧ t.pending = s.pending ∧
      ((∃ r', t.chip.run q = some r' ∧ r'.plan = r.plan ∧ r'.inPrologue = false ∧ r'.step = r.step ∧ r'.ctx = r.ctx ∧
          (r.plan.restored = none → r'.atBoundary = true)) ∨
        (r.plan.midStep = false ∧
          ∀ r', t.chip.run q = some r' → ∃ x ∈ s.chip.placer.bound, x.id = r'.plan.id)) := by
  have hreach : (s.moveAll q r.plan).reachPrologueEnd q r = (s.moveAll q r.plan).endPrologue q r.plan := by
    rw [State.reachPrologueEnd, hcrossed]
  have hstand := State.moveAll_stand_of_run (Chip.run_of_inPrologue h) r.plan
  refine ⟨_, hreach ▸ execPrologueEnd_ends h hports hready hsound, by simp, ?_⟩
  obtain hgoes | ⟨hmid, hends⟩ := State.endPrologue_stands hstand r.plan
  · left
    obtain ⟨r', hr', hx⟩ := Chip.stand_eq_some hgoes
    obtain ⟨hplan, hpro, hstep, hctx, -, hat⟩ := Stand.mk.inj hx
    refine ⟨r', hr', hplan, hpro, hstep, hctx, fun hfresh => ?_⟩
    rw [hat, Plan.midStep, hfresh]
    rfl
  · right
    refine ⟨hmid, fun r' hr' => ?_⟩
    have hid := hends.run _ (Chip.stand_of_run_eq hr')
    rw [Chip.boundIds, State.moveAll_placer] at hid
    exact List.mem_map.mp hid

/-- R382: in a replay the boundary that had followed the prologue is reached again. -/
theorem execPrologueEnd_recrosses (hready : s.chip.mapReady r.plan = true) (hsound : s.turnBad r.plan = none) {x : CommitPt}
    {rest : List CommitPt} (hcrossed : r.crossed = x :: rest) :
    ∃ t r', exec (.prologueEnd q) s = .next t ∧ t.pending = s.pending ∧ t.chip.run q = some r' ∧ r'.plan = r.plan ∧
      r'.inPrologue = false ∧ r'.step = x.step ∧ r'.ctx = x.ctx ∧ r'.crossed = rest ∧ r'.atBoundary = true := by
  have hreach : (s.moveAll q r.plan).reachPrologueEnd q r = (s.moveAll q r.plan).recross q x rest := by
    rw [State.reachPrologueEnd, hcrossed]
  have hstand := State.moveAll_stand_of_run (Chip.run_of_inPrologue h) r.plan
  obtain ⟨r', hr', hx⟩ := Chip.stand_eq_some (State.recross_stand hstand x rest)
  obtain ⟨hplan, hpro, hstep, hctx, hrest, hat⟩ := Stand.mk.inj hx
  exact ⟨_, r', hreach ▸ execPrologueEnd_ends h hports hready hsound, by simp, hr', hplan, hpro, hstep, hctx, hrest, hat⟩

end

end Sys2Proof.Machine

open Sys2Proof.Machine

/-- Settles O29: a prologue's end clause by clause, by where the plan stands after the boundary; then the three commands on
commit points, each by its lemma. -/
theorem prologueAndCommitPoints : Obligations.PrologueAndCommitPoints := by
  unfold Obligations.PrologueAndCommitPoints
  intro s q r
  refine ⟨fun hpro hports => ⟨?waits, ?bad, ?ends, ?recrosses⟩, fun hact => ⟨?point, ?fill, ?confirmed⟩⟩
  case waits => exact execPrologueEnd_waits hpro hports
  case bad => exact fun k hready hbad => execPrologueEnd_readsBad hpro hports hready hbad
  case ends => exact execPrologueEnd_reaches hpro hports
  case recrosses => exact fun x rest hready hsound hcrossed => execPrologueEnd_recrosses hpro hports hready hsound hcrossed
  case point => exact execCommitPoint_takes hact
  case fill => exact fun k ks hks hk => execCommitFillComplete_fills hact hks hk
  case confirmed => exact fun k ks at_ hks hk hdue => execCommitSetConfirmed_confirms hact hks hk hdue

end

section
/-! Both memory tiers stay in their canonical form (R414): whatever writes memory writes it by the operations of `Mem`, each of
which keeps that form, and a command changes memory by the shared operations of the state alone. -/

namespace Sys2Proof.Machine

/-! ### Chip, memory, folds -/

theorem MemSound.of_mem_eq {s t : State} (h : MemSound s) (hm : t.mem = s.mem) : MemSound t := by
  rw [MemSound, hm]
  exact h

theorem State.foldl_memSound {α : Type} {f : State → α → State} (hf : ∀ s x, MemSound s → MemSound (f s x)) (l : List α)
    {s : State} (h : MemSound s) : MemSound (l.foldl f s) :=
  List.foldlRecOn (motive := MemSound) l f h fun u hu x _ => hf u x hu

section
variable {s : State} (h : MemSound s)
include h

theorem MemSound.on (f : Chip → Chip) : MemSound (s.on f) := h

theorem MemSound.withChip (q : List Instr) (c : Chip) : MemSound { pending := q, mem := s.mem, chip := c } := h

/-- Bytes are written, whatever becomes of the chip. -/
theorem MemSound.applyAll (ws : List MemWrite) (c : Chip) : MemSound { s with mem := s.mem.applyAll ws, chip := c } :=
  Mem.wf_applyAll h

/-- An error comes to stand on a codeword (R241). -/
theorem MemSound.strike (k : PAddr) (e : BitVec 288) (c : Chip) : MemSound { s with mem := s.mem.strike k e, chip := c } :=
  Mem.wf_strike h

/-! ### Plans that end and start -/

/-- The bytes that a plan has overwritten since its commit point are put back (R382). -/
theorem MemSound.restore (p : Fin 4) : MemSound (s.restore p) := by
  unfold State.restore
  split
  · exact h
  · split
    · exact h
    · exact Mem.wf_heal (Mem.wf_putAll h)

theorem MemSound.startWaiting (p : Fin 4) : MemSound (s.startWaiting p) := h.of_mem_eq (State.startWaiting_keeps s p).2

theorem MemSound.freePart (p : Fin 4) : MemSound (s.freePart p) := h.of_mem_eq (State.freePart_keeps s p).2

theorem MemSound.endPlan (p : Fin 4) (r : Running) (n : Nat) (st : W16) (out : StepOut) : MemSound (s.endPlan p r n st out) :=
  h.of_mem_eq (State.endPlan_keeps s p r n st out).2

theorem MemSound.failPlan (p : Fin 4) (r : Running) (n b : Nat) (slot reason : Byte) (out : StepOut) :
    MemSound (s.failPlan p r n b slot reason out) :=
  h.of_mem_eq (State.failPlan_keeps s p r n b slot reason out).2

theorem MemSound.tenantFault (p : Fin 4) (f : FaultInfo) (sound : Bool) : MemSound (s.tenantFault p f sound) := by
  unfold State.tenantFault
  split
  · exact h
  · next r _ =>
    have hr : MemSound (if sound then (s.on fun c => c.abortBusy r f.status).restore p else s.on fun c => c.abortBusy r f.status) := by
      split
      · exact MemSound.restore (h.on _) p
      · exact h.on _
    dsimp only
    split
    · exact hr
    · exact MemSound.freePart (hr.on _) p

theorem MemSound.detFault (p : Fin 4) (st : W16) (det : Byte) (unit : W32) (sound : Bool) :
    MemSound (s.detFault p st det unit sound) := by
  unfold State.detFault
  split
  · exact h
  · exact h.tenantFault p _ sound

theorem MemSound.ueFault (p : Fin 4) (unit : W32) (sound : Bool) : MemSound (s.ueFault p unit sound) :=
  MemSound.detFault (h.on _) p 0x0030 0x10 unit sound

theorem MemSound.dataFault (p : Fin 4) (r : Running) (w : MemAt) (lost : Bool) : MemSound (s.dataFault p r w lost) := by
  unfold State.dataFault
  dsimp only
  split
  · exact MemSound.ueFault (h.on _) p _ _
  · exact MemSound.on (h.on _) _

theorem MemSound.readsBad (p : Fin 4) (r : Running) (k : PAddr) : MemSound (s.readsBad p r k) := h.dataFault p r _ false

theorem MemSound.slotFault (p : Fin 4) (r : Running) (st : W16) (slot : Nat) (cause : W64) :
    MemSound (s.slotFault p r st slot cause) :=
  h.tenantFault p _ true

theorem MemSound.slotFails (p : Fin 4) (r : Running) (slot : Nat) (e : SlotFail) : MemSound (s.slotFails p r slot e) := by
  cases e with
  | acc | mismatch | plane | fault => exact h.slotFault p r _ _ _
  | reject reason => exact h.failPlan p r _ _ _ reason _

/-! ### Step boundaries -/

theorem MemSound.boundaryWrite (p : Fin 4) (ws : List MemWrite) : MemSound (s.boundaryWrite p ws) := h.applyAll ws _

theorem MemSound.writeBlock (p : Fin 4) (r : Running) (bytes : List Byte) : MemSound (s.writeBlock p r bytes) := by
  unfold State.writeBlock
  dsimp only
  split
  · exact h
  · split
    · exact h.boundaryWrite p _
    · exact h

theorem MemSound.monitorStep (p : Fin 4) (r : Running) : MemSound (s.monitorStep p r) := by
  unfold State.monitorStep
  dsimp only
  split
  · exact h
  · refine MemSound.writeBlock ?_ p r _
    exact h

theorem MemSound.writePrompt (p : Fin 4) (r : Running) (rt : ReqTable) (slot : Nat) (prompt : List W32) :
    MemSound (s.writePrompt p r rt slot prompt) := by
  unfold State.writePrompt
  dsimp only
  split
  · exact h
  · exact h.boundaryWrite p _

omit h in
theorem admitLoop_memSound (p : Fin 4) (r : Running) (rt : ReqTable) (n : Nat) (l : List PendAdm) (s : State)
    (h : MemSound s) : MemSound (admitLoop p r rt n l s).1 := by
  fun_induction admitLoop p r rt n l s with
  | case1 => exact h
  | case2 _ _ _ _ _ _ _ heq ih => simpa [heq] using ih h
  | case3 _ _ _ _ _ _ ih => exact ih h
  | case4 _ _ _ _ _ _ _ _ _ ih => exact ih h
  | case5 a _ _ _ _ _ _ _ _ i _ _ _ ih => exact ih (MemSound.writePrompt h p r rt i a.prompt)
  | case6 _ _ _ _ _ _ _ _ _ _ _ heq _ ih => simpa [heq] using ih h

theorem MemSound.admitStep (p : Fin 4) (r : Running) : MemSound (s.admitStep p r) := by
  unfold State.admitStep
  split
  · exact h
  · split
    · exact h
    · exact admitLoop_memSound p r _ _ _ s h

theorem MemSound.intake (p : Fin 4) (r : Running) : MemSound (s.intake p r) := h.boundaryWrite p _

theorem MemSound.beginStep (p : Fin 4) : MemSound (s.beginStep p) := by
  unfold State.beginStep
  split
  · exact h
  · next r _ =>
    have hfollow : MemSound (if r.plan.req.isSome then
        s.on fun c => c.modTenant r.plan.tenant fun x => { x with slots := x.slots.map fun q => (q.1, q.2.follow x) }
      else s) := by
      split
      · exact h.on _
      · exact h
    exact MemSound.on (MemSound.intake (MemSound.on (hfollow.admitStep p r) _) p r) _

theorem MemSound.enterStep (p : Fin 4) (out : StepOut) : MemSound (s.enterStep p out) := by
  unfold State.enterStep
  split
  · exact h
  · split
    · exact MemSound.beginStep (h.on _) p
    · exact h.failPlan p _ _ _ _ _ out

theorem MemSound.recross (p : Fin 4) (x : CommitPt) (rest : List CommitPt) : MemSound (s.recross p x rest) := h.applyAll x.redo _

theorem MemSound.boundary (p : Fin 4) (last : Bool) : MemSound (s.boundary p last) := by
  unfold State.boundary
  split
  · exact h
  · next r _ =>
    split
    · exact h.recross p _ _
    · have hmon : MemSound ((s.on fun c => c.boundaryEvents p r.plan.tenant).monitorStep p r) := MemSound.monitorStep (h.on _) p r
      dsimp only
      split
      · exact hmon
      · split
        · exact MemSound.endPlan (by exact hmon.of_mem_eq rfl) _ _ _ _ _
        · exact MemSound.enterStep (by exact hmon.of_mem_eq rfl) _ _

/-! ### Bundles and collectives -/

theorem MemSound.retire (p : Fin 4) (r : Running) (b : Build) : MemSound (s.retire p r b) := by
  unfold State.retire
  dsimp only
  split
  · exact h.slotFault p r _ _ _
  · split
    · exact h.failPlan p r _ _ _ _ _
    · split
      · exact h.readsBad p r _
      · split
        · exact MemSound.boundary (h.applyAll b.mem _) p _
        · split
          · split
            · split
              · exact h.applyAll b.mem _
              · exact h.applyAll b.mem _
            · exact h.applyAll b.mem _
          · exact h.applyAll b.mem _

theorem MemSound.collFails (p : Fin 4) (g : Group) (skip : List (Fin 16)) (st : W16) : MemSound (s.collFails p g skip st) := by
  unfold State.collFails
  dsimp only
  split
  · exact h
  · exact MemSound.slotFault (h.on _) p _ _ _ _

theorem MemSound.collStep (p : Fin 4) : MemSound (s.collStep p) := by
  unfold State.collStep
  split
  · exact h
  · split
    · split
      · exact h
      · dsimp only
        split
        · split
          · exact MemSound.collFails (h.on _) p _ _ _
          · exact MemSound.retire (h.on _) p _ _
        · exact h
    · exact h

end

/-- A frame that is taken leaves memory as it was, but for what its collective, if it ends, lets the bundle write. -/
theorem State.takeColl_memSound {s t : State} (h : MemSound s) {p : Fin 4} {q : Fin 16} {g : Group} {f : DataFrame}
    (ht : s.takeColl p q g f = some t) : MemSound t := by
  unfold State.takeColl at ht
  dsimp only at ht
  split at ht
  · cases ht
  · split at ht
    · cases ht
    · split at ht
      · cases ht; exact h
      · split at ht
        · cases ht
        · split at ht
          · cases ht; exact MemSound.collFails (h.on _) p g _ _
          · split at ht
            · cases ht; exact h
            · split at ht
              · cases ht; exact MemSound.collFails (h.on _) p g _ _
              · cases ht; exact MemSound.collStep (h.on _) p

theorem State.takeTransfer_memSound {s t : State} (h : MemSound s) {q : Fin 16} {g : Group} {f : DataFrame}
    (ht : s.takeTransfer q g f = some t) : MemSound t := by
  unfold State.takeTransfer at ht
  dsimp only at ht
  split at ht
  · cases ht
  · split at ht
    · cases ht
    · split at ht
      · cases ht
      · split at ht
        · cases ht; exact h
        · split at ht
          · cases ht; exact MemSound.collFails (h.on _) _ g _ _
          · cases ht; exact h

theorem State.takeHead_memSound {s t : State} (h : MemSound s) {q : Fin 16} (ht : s.takeHead q = some t) : MemSound t := by
  unfold State.takeHead at ht
  split at ht
  · cases ht
  · split at ht
    · cases ht; exact h
    · split at ht
      · cases ht; exact h
      · split at ht
        · split at ht
          · cases ht
          · split at ht
            · split at ht
              · cases ht; exact h
              · cases ht
            · cases ht
        · split at ht
          · exact State.takeTransfer_memSound h ht
          · split at ht
            · exact State.takeColl_memSound h ht
            · cases ht

theorem State.takeAny_memSound {s t : State} (h : MemSound s) {l : List (Fin 16)} (ht : s.takeAny l = some t) : MemSound t := by
  induction l with
  | nil => cases ht
  | cons q qs ih =>
    unfold State.takeAny at ht
    split at ht
    · next htake => cases ht; exact State.takeHead_memSound h htake
    · exact ih ht

section
variable {s : State} (h : MemSound s)
include h

theorem MemSound.consume (n : Nat) : MemSound (s.consume n) := by
  induction n generalizing s with
  | zero => exact h
  | succ n ih =>
    unfold State.consume
    split
    · next htake => exact ih (State.takeAny_memSound h htake)
    · exact h

theorem MemSound.consumeAll : MemSound s.consumeAll := h.consume 1024

theorem MemSound.finishBundle (p : Fin 4) (r : Running) (b : Build) : MemSound (s.finishBundle p r b) := by
  unfold State.finishBundle
  split
  · exact h.slotFault p r _ _ _
  · split
    · exact h.retire p r b
    · split
      · exact h.slotFault p r _ _ _
      · split
        · exact h.slotFault p r _ _ _
        · split
          · exact MemSound.slotFault (h.on _) p r _ _ _
          · exact MemSound.consumeAll (MemSound.collStep (h.on _) p)

theorem MemSound.slotDone (p : Fin 4) (r : Running) (more : Bool) (b : Build) : MemSound (s.slotDone p r more b) := by
  unfold State.slotDone
  split
  · exact h
  · exact h.finishBundle p r b

theorem MemSound.issue (i : Instr) (sl : Slot) (pos : SlotPos) (body : View → Build → Except SlotFail Build) :
    MemSound (s.issue i sl pos body) := by
  unfold State.issue
  split
  · exact h
  · dsimp only
    split
    · split
      · exact h.slotFails _ _ _ _
      · split
        · exact h.readsBad _ _ _
        · split
          · exact h.slotFails _ _ _ _
          · exact MemSound.slotDone (h.on _) _ _ _ _
    · exact h.slotDone _ _ _ _

/-! ### Binding and the prologue -/

theorem MemSound.takeSubmit (t : Fin 16) (rec : Option (List Byte)) (x : Option Saved) (src : CmdSrc) :
    MemSound (s.takeSubmit t rec x src) :=
  h.of_mem_eq (State.takeSubmit_keeps s t rec x src).2

theorem MemSound.finishBind : MemSound s.finishBind := by
  unfold State.finishBind
  split
  · exact h
  · dsimp only
    refine MemSound.on ?_ _
    split
    · exact h
    · exact Mem.wf_applyAll h

theorem MemSound.putElems (q : Fin 4) (p : Plan) (tid : BitVec 20) (off : Nat) (xs : List W32) :
    MemSound (s.putElems q p tid off xs) := by
  unfold State.putElems
  dsimp only
  split
  · exact h
  · exact h
  · exact h.applyAll _ _

theorem MemSound.putScales (q : Fin 4) (p : Plan) (scales : List ((Nat × BitVec 20 × Nat) × Byte)) :
    MemSound (s.putScales q p scales) :=
  State.foldl_memSound (fun _ _ hs => hs.putElems q p _ _ _) scales h

theorem MemSound.moveEntry (q : Fin 4) (p : Plan) (e : TurnEnt) (n : Nat) : MemSound (s.moveEntry q p e n) := by
  unfold State.moveEntry
  split
  · exact h
  · split
    · exact h
    · split
      · exact h
      · dsimp only
        split
        · exact MemSound.putElems (h.putScales q p _) q p _ _ _
        · exact h.putElems q p _ _ _

theorem MemSound.moveAll (q : Fin 4) (p : Plan) : MemSound (s.moveAll q p) :=
  State.foldl_memSound (fun _ _ hs => hs.moveEntry q p _ _) _ h

theorem MemSound.endPrologue (q : Fin 4) (p : Plan) : MemSound (s.endPrologue q p) := by
  unfold State.endPrologue
  dsimp only
  split
  · exact MemSound.of_mem_eq (h.on _) (State.resumeStep_keeps _ q).2
  · split
    · exact MemSound.on (h.on _) _
    · split
      · exact MemSound.endPlan (MemSound.withChip (MemSound.on (h.on _) _) _ _) _ _ _ _ _
      · exact MemSound.enterStep (MemSound.withChip (MemSound.on (h.on _) _) _ _) _ _

theorem MemSound.reachPrologueEnd (q : Fin 4) (r : Running) : MemSound (s.reachPrologueEnd q r) := by
  unfold State.reachPrologueEnd
  split
  · exact h.recross q _ _
  · exact h.endPrologue q _

/-! ### Resets -/

/-- What memory holds after a reset is free, but it is written and struck as any other (R394). -/
theorem State.scrambled_wf (host : Bool) : (s.scrambled host).wf = true := by
  obtain ⟨-, htier2, -, hflaw2⟩ := Mem.wf_iff.mp h
  refine Mem.wf_foldl (fun _ _ hm => Mem.wf_strike hm) _ _ (Mem.wf_putAll ?_)
  exact Mem.wf_iff.mpr ⟨rfl, spWfFrom_filter htier2, rfl, spWfFrom_filter hflaw2⟩

theorem MemSound.inReset (host : Bool) : MemSound (s.inReset host) := State.scrambled_wf h host

theorem MemSound.beginReset (cause : Nat) (host : Bool) : MemSound (s.beginReset cause host) :=
  MemSound.inReset (h.on _) host

theorem MemSound.writeWin (t w : Fin 16) (off : Nat) (bs : List Byte) : MemSound (s.writeWin t w off bs) := h.applyAll _ _

theorem MemSound.reattach (src : CmdSrc) : MemSound (s.reattach src) := h.of_mem_eq (State.reattach_keeps s src).2

/-- New windows are cleared (R334). -/
theorem Mem.wf_clearNew (old new : Vector Window 16) : (s.mem.clearNew old new).wf = true := by
  obtain ⟨htier1, htier2, hflaw1, hflaw2⟩ := Mem.wf_iff.mp h
  exact Mem.wf_iff.mpr ⟨spWfFrom_filter htier1, spWfFrom_filter htier2, spWfFrom_filter hflaw1, spWfFrom_filter hflaw2⟩

/-! ### Faults of the module -/

theorem MemSound.faultTenants (ts : List (Fin 16)) (unit : W32) (det : Byte) (flags : W64) (sound : Bool) :
    MemSound (s.faultTenants ts unit det flags sound) := by
  unfold State.faultTenants
  refine State.foldl_memSound (fun s t hs => ?_) ts h
  split
  · exact hs.on _
  · refine State.foldl_memSound (fun u p hu => ?_) _ hs
    split
    · exact hu.tenantFault p _ sound
    · exact hu

theorem MemSound.moduleFault (unit : W32) (det : Byte) (sound : Bool) : MemSound (s.moduleFault unit det sound) := by
  unfold State.moduleFault
  split
  · exact h
  · exact MemSound.faultTenants (h.on _) _ _ _ _ _

theorem MemSound.cellFault (t : Fin 68) : MemSound (s.cellFault t) := MemSound.faultTenants (h.on _) _ _ _ _ _

theorem MemSound.tileLoss (t : Fin 68) (det : Byte) : MemSound (s.tileLoss t det) := by
  unfold State.tileLoss
  dsimp only
  split
  · exact h.on _
  · split
    · exact h.on _
    · split
      · split
        · exact MemSound.on (h.on _) _
        · exact MemSound.detFault (h.on _) _ _ _ _ _
      · exact MemSound.detFault (h.on _) _ _ _ _ _

theorem MemSound.copyLost (p : Fin 4) (i : Interrupt) (u : UeRead) : MemSound (s.copyLost p i u) :=
  MemSound.ueFault (h.on _) p _ _

theorem MemSound.planRead (p : Fin 4) (r : Running) (w : MemAt) (err : BitVec 288) (rest lost : Bool) :
    MemSound (s.planRead p r w err rest lost) := by
  have hmem : MemSound (match rest, wordAt w with
      | true, some k => { s with mem := s.mem.strike k err }
      | _, _ => s) := by
    split
    · exact h.strike _ err _
    · exact h
  unfold State.planRead
  dsimp only
  split
  · exact hmem
  · exact hmem.on _
  · exact hmem.dataFault p r w lost

theorem MemSound.laneInterrupt (p : Fin 4) : MemSound (s.laneInterrupt p) := by
  unfold State.laneInterrupt
  dsimp only
  split
  · exact h
  · split
    · exact h
    · exact h.detFault p _ _ _ _

/-! ### Ports -/

theorem MemSound.lostFault (p : Fin 4) (g : Group) (cause : W16) : MemSound (s.lostFault p g cause) := by
  unfold State.lostFault
  split
  · exact h
  · exact h.slotFault p _ _ _ _

theorem MemSound.endLost (g : Group) (skip : List (Fin 16)) (q : Option (Fin 16)) (cause : W16) :
    MemSound (s.endLost g skip q cause) := by
  unfold State.endLost
  split
  · exact h
  · exact MemSound.on (State.foldl_memSound (fun _ p hs => hs.lostFault p g cause) _ (h.on _)) _

theorem MemSound.peerLost (ser : W64) (p : Fin 16) : MemSound (s.peerLost ser p) :=
  MemSound.on (State.foldl_memSound (fun _ g hs => hs.endLost g _ _ _) _ (h.on _)) _

theorem MemSound.losePort (p : Fin 16) (how : Loss) : MemSound (s.losePort p how) := by
  unfold State.losePort
  split
  · exact h
  · split
    · exact h
    · dsimp only
      generalize (if how = .goingDown then _ else _) = ports
      split
      · exact MemSound.peerLost (h.on _) _ p
      · exact h

theorem MemSound.resend (p : Fin 16) : MemSound (s.resend p) := by
  unfold State.resend
  split
  · exact h.losePort p _
  · exact h

theorem MemSound.endAbsent (p : Fin 16) : MemSound (s.endAbsent p) :=
  State.foldl_memSound (fun _ g hs => hs.endLost g _ _ _) _ h

/-- What the header of a received frame brings about (R274, R276, R278). -/
theorem MemSound.takeHeader (p : Fin 16) (x : BoreHdr) : MemSound (s.takeHeader p x) := by
  have hnak : MemSound (if x.nak then (s.on fun c => c.takeAck p x).resend p else s.on fun c => c.takeAck p x) := by
    split
    · exact MemSound.resend (h.on _) p
    · exact h
  have habsent {u : State} (hu : MemSound u) : MemSound (if x.hostAbsent then u.endAbsent p else u) := by
    split
    · exact hu.endAbsent p
    · exact hu
  unfold State.takeHeader
  dsimp only
  split
  · exact (habsent hnak).losePort p _
  · split
    · exact (habsent hnak).losePort p _
    · exact habsent hnak

end

/-! ### Commands -/

/-- Where the command answers a next state, its memory is in canonical form. -/
structure OutcomeSound (o : Host.Outcome State Fault Refusal) : Prop where
  keeps : ∀ t, o = .next t → MemSound t

theorem OutcomeSound.next {t : State} (h : MemSound t) : OutcomeSound (.next t) where
  keeps u hu := by
    cases hu
    exact h

theorem OutcomeSound.fault (e : Fault) : OutcomeSound (.fault e) where
  keeps u hu := by cases hu

section
variable {s : State} (h : MemSound s)
include h

/-! #### Plans -/

theorem execPrologueEnd_memSound (q : Fin 4) : OutcomeSound (execPrologueEnd q s) := by
  unfold execPrologueEnd
  dsimp only
  split
  · exact .next h.consumeAll
  · refine .next ?_
    split
    · split
      · exact h.consumeAll.readsBad q _ _
      · exact (h.consumeAll.moveAll q _).reachPrologueEnd q _
    · exact h.consumeAll

theorem execCommitPoint_memSound (q : Fin 4) (moved : List (Fin 384 × Nat)) : OutcomeSound (execCommitPoint q moved s) := by
  unfold execCommitPoint
  split
  · exact .next h
  · exact .next (h.on _)

theorem execCommitFillComplete_memSound (q : Fin 4) : OutcomeSound (execCommitFillComplete q s) := by
  unfold execCommitFillComplete
  split
  · exact .next h
  · split
    · exact .next h
    · exact .next (h.on _)

theorem execCommitSetConfirmed_memSound (q : Fin 4) : OutcomeSound (execCommitSetConfirmed q s) := by
  unfold execCommitSetConfirmed
  split
  · exact .next h
  · exact .next (h.on _)

theorem execSubmit_memSound (t : Fin 16) (ring : Fin 8) : OutcomeSound (execSubmit t ring s) := by
  unfold execSubmit
  split
  · exact .next h
  · exact .next ((h.withChip _ _).takeSubmit t _ _ _)

theorem execBindComplete_memSound (t : Fin 16) : OutcomeSound (execBindComplete t s) := by
  unfold execBindComplete
  split
  · exact .next h.finishBind
  · exact .next h

theorem execAlternateRebindComplete_memSound (q : Fin 4) : OutcomeSound (execAlternateRebindComplete q s) := by
  unfold execAlternateRebindComplete
  refine .next ?_
  split
  · exact (h.on _).startWaiting q
  · exact h

theorem execSaveImageWritten_memSound (t : Fin 16) : OutcomeSound (execSaveImageWritten t s) := by
  unfold execSaveImageWritten
  split
  · exact .next h
  · split
    · exact .next h
    · dsimp only
      split
      · exact .next ((h.on _).on _)
      · exact .next (((h.on _).writeWin t _ _ _).on _)

/-! #### The tenant's rings -/

theorem execAdmitReq_memSound (t : Fin 16) (ring : Fin 8) : OutcomeSound (execAdmitReq t ring s) := by
  unfold execAdmitReq
  refine .next ?_
  split
  · exact h
  · dsimp only
    split
    · exact (h.withChip _ _).on _
    · exact (h.withChip _ _).on _

theorem execFetch_memSound (t : Fin 16) (ring : Fin 8) : OutcomeSound (execFetch t ring s) := by
  unfold execFetch
  refine .next ?_
  split
  · exact h
  · dsimp only
    split
    · exact (h.withChip _ _).on _
    · exact (h.withChip _ _).on _

theorem execGroup_memSound (t : Fin 16) (ring : Fin 8) : OutcomeSound (execGroup t ring s) := by
  unfold execGroup
  refine .next ?_
  split
  · exact h
  · dsimp only
    split
    · exact (h.withChip _ _).on _
    · split
      · exact (h.withChip _ _).on _
      · exact (h.withChip _ _).on _

theorem MemSound.keyOp (t : Fin 16) (ring : Fin 8) (fn : Nat) {k : Entry → CmdSrc → State → State}
    (hk : ∀ e src u, MemSound u → MemSound (k e src u)) : MemSound (s.keyOp t ring fn k) := by
  unfold State.keyOp
  split
  · exact h
  · split
    · exact hk _ _ _ (h.withChip _ _)
    · exact h

theorem execKeyloadAttest_memSound (t : Fin 16) (ring : Fin 8) : OutcomeSound (execKeyloadAttest t ring s) := by
  refine .next (h.keyOp t ring 0 fun e src u hu => ?_)
  split
  · exact hu.on _
  · dsimp only
    split
    · exact hu.on _
    · split
      · exact hu.on _
      · exact hu.on _

theorem execKeyloadLoad_memSound (t : Fin 16) (ring : Fin 8) : OutcomeSound (execKeyloadLoad t ring s) := by
  refine .next (h.keyOp t ring 1 fun e src u hu => ?_)
  split
  · exact hu.on _
  · dsimp only
    split
    · split
      · exact hu.on _
      · exact hu.on _
    · exact hu.on _

theorem execKeyloadClear_memSound (t : Fin 16) (ring : Fin 8) : OutcomeSound (execKeyloadClear t ring s) := by
  refine .next (h.keyOp t ring 2 fun e src u hu => ?_)
  split
  · exact hu.on _
  · dsimp only
    split
    · exact hu.on _
    · exact hu.on _

theorem execAttestReportWritten_memSound : OutcomeSound (execAttestReportWritten s) := by
  unfold execAttestReportWritten
  split
  · exact .next h
  · dsimp only
    split
    · exact .next ((h.on _).on _)
    · exact .next (((h.on _).writeWin _ _ _ _).on _)

theorem execRestore_memSound (t : Fin 16) (ring : Fin 8) : OutcomeSound (execRestore t ring s) := by
  unfold execRestore
  refine .next ?_
  split
  · exact h
  · dsimp only
    split
    · exact (h.withChip _ _).on _
    · split
      · exact (h.withChip _ _).on _
      · exact (h.withChip _ _).takeSubmit t _ _ _

theorem execTenantReset_memSound (t : Fin 16) : OutcomeSound (execTenantReset t s) :=
  .next (State.foldl_memSound (fun _ p hu => hu.freePart p) _ (h.on _))

/-! #### The host -/

theorem execAttach_memSound : OutcomeSound (execAttach s) := by
  unfold execAttach
  refine .next ?_
  split
  · exact h
  · dsimp only
    split
    · exact (h.withChip _ _).on _
    · split
      · exact (h.withChip _ _).on _
      · exact (h.withChip _ _).on _
    · split
      · exact (h.withChip _ _).reattach _
      · exact (h.withChip _ _).on _

theorem execTenantSetConfigure_memSound (wins : List WinRec) : OutcomeSound (execTenantSetConfigure wins s) := by
  unfold execTenantSetConfigure
  split
  · exact .next h
  · refine .next ?_
    split
    · exact Mem.wf_clearNew h _ _
    · exact h.on _

theorem execPartSet_memSound : OutcomeSound (execPartSet s) :=
  .next (State.foldl_memSound (fun _ p hu => hu.startWaiting p) _ (h.on _))

theorem execTurn_memSound : OutcomeSound (execTurn s) := by
  unfold execTurn
  refine .next ?_
  split
  · exact h
  · dsimp only
    split
    · exact (h.withChip _ _).on _
    · split
      · exact (h.withChip _ _).on _
      · split
        · exact (h.withChip _ _).on _
        · split
          · exact (h.withChip _ _).on _
          · exact ((h.withChip _ _).on _).startWaiting _

theorem execBar2Read_memSound (t : Fin 16) (off : BitVec 44) (len : Fin 65) : OutcomeSound (execBar2Read t off len s) := by
  unfold execBar2Read
  refine .next ?_
  split
  · exact h
  · dsimp only
    split
    · exact h.on _
    · exact h.on _

theorem execBar2Write_memSound (t : Fin 16) (off : BitVec 44) (bytes : List Byte) : OutcomeSound (execBar2Write t off bytes s) := by
  unfold execBar2Write
  refine .next ?_
  split
  · exact h
  · exact h.applyAll _ _

/-! #### Resets and power -/

theorem execModreset_memSound (value : W32) : OutcomeSound (execModreset value s) := by
  unfold execModreset
  refine .next ?_
  split
  · exact h.beginReset 2 false
  · exact h

theorem execPfFunctionLevelReset_memSound : OutcomeSound (execPfFunctionLevelReset s) := by
  unfold execPfFunctionLevelReset
  refine .next ?_
  split
  · exact h.beginReset 3 false
  · exact h

theorem execModuleResetComplete_memSound (holdupMj : W32) : OutcomeSound (execModuleResetComplete holdupMj s) := by
  unfold execModuleResetComplete
  refine .next ?_
  split
  · exact h.on _
  · exact h

theorem execTripHoldEnd_memSound : OutcomeSound (execTripHoldEnd s) := by
  unfold execTripHoldEnd
  refine .next ?_
  split
  · exact h.inReset true
  · exact h

theorem execPwrEnRise_memSound (vin : W32) (slotId : BitVec 4) (lowMs : Nat) : OutcomeSound (execPwrEnRise vin slotId lowMs s) := by
  unfold execPwrEnRise
  refine .next ?_
  split
  · exact (((h.on _).on _).inReset true).on _
  · exact h.on _

theorem execRstNAssert_memSound (us : Nat) : OutcomeSound (execRstNAssert us s) := by
  unfold execRstNAssert
  refine .next ?_
  split
  · exact h
  · dsimp only
    split
    · exact (h.beginReset 1 true).on _
    · exact h.on _

/-! #### Faults, errors at rest, calibration -/

theorem execTileLossDetect_memSound (tiles : List (Fin 68)) (det : Byte) : OutcomeSound (execTileLossDetect tiles det s) := by
  unfold execTileLossDetect
  refine .next ?_
  split
  · exact h
  · split
    · exact h
    · split
      · exact h.cellFault _
      · exact (h.on _).tileLoss _ _
    · exact (h.on _).moduleFault _ _ _

theorem execInterruptionResume_memSound (p : Fin 4) : OutcomeSound (execInterruptionResume p s) := by
  unfold execInterruptionResume
  refine .next ?_
  split
  · exact h
  · split
    · exact h
    · split
      · exact h
      · split
        · exact h.copyLost p _ _
        · exact (((h.restore p).on _).collStep p).consumeAll

theorem execUncorrectableRead_memSound (p : Fin 4) (rd : PlanRead) (copySound : Bool) :
    OutcomeSound (execUncorrectableRead p rd copySound s) := by
  unfold execUncorrectableRead
  split
  · exact .fault _
  · split
    · exact .next h
    · refine .next ?_
      split
      · exact h.planRead p _ _ _ _ _
      · exact h

theorem execHostUncorrectableRead_memSound (t1 : Bool) (rd : HostRead) : OutcomeSound (execHostUncorrectableRead t1 rd s) := by
  have hmem : MemSound (if rd.rest then { s with mem := s.mem.strike (wordOf (t1, rd.addr.toNat)) rd.err } else s) := by
    split
    · exact h.strike _ _ _
    · exact h
  unfold execHostUncorrectableRead
  split
  · exact .fault _
  · refine .next ?_
    split
    · dsimp only
      split
      · exact hmem
      · exact hmem.on _
      · exact hmem.on _
    · exact h

theorem execScrubRead_memSound (t1 : Bool) (addr : BitVec 48) (err : ScrubErr) : OutcomeSound (execScrubRead t1 addr err s) := by
  unfold execScrubRead
  split
  · exact .fault _
  · refine .next ?_
    split
    · exact h
    · dsimp only
      split
      · exact h.strike _ _ _
      · exact Mem.wf_putStored (Mem.wf_strike h)
      · exact (h.strike _ _ _).on _

theorem execLaneLoss_memSound (l : Fin 8) (part : Option (Fin 4)) : OutcomeSound (execLaneLoss l part s) := by
  unfold execLaneLoss
  refine .next ?_
  split
  · exact h
  · dsimp only
    split
    · split
      · exact ((h.on _).on _).laneInterrupt _
      · exact (h.on _).on _
    · exact ((h.on _).on _).moduleFault _ _ _

theorem execTenantFault_memSound (p : Fin 4) (cause : FaultCause) : OutcomeSound (execTenantFault p cause s) := by
  unfold execTenantFault
  refine .next ?_
  split
  · exact h
  · split
    · exact h
    · dsimp only
      split
      · exact (h.on _).tenantFault p _ _
      · exact h.tenantFault p _ _

theorem execModuleFault_memSound (unit : W16) (sound : Bool) : OutcomeSound (execModuleFault unit sound s) := by
  unfold execModuleFault
  refine .next ?_
  split
  · exact (h.on _).moduleFault _ _ _
  · exact h

theorem execIslandClockCalibration_memSound (i : Fin 77) (pass : Bool) : OutcomeSound (execIslandClockCalibration i pass s) := by
  unfold execIslandClockCalibration
  refine .next ?_
  split
  · exact h
  · split
    · exact h.on _
    · dsimp only
      split
      · split
        · exact (h.on _).on _
        · split
          · exact h.on _
          · exact (h.on _).cellFault _
      · exact h.on _

/-! #### Ports -/

theorem execCablePresentChange_memSound (p : Fin 16) (present : Bool) : OutcomeSound (execCablePresentChange p present s) := by
  unfold execCablePresentChange
  refine .next ?_
  split
  · exact h.on _
  · split
    · exact (h.on _).losePort p _
    · split
      · exact (h.on _).on _
      · exact h.on _

theorem execPhyLinkDown_memSound (p : Fin 16) : OutcomeSound (execPhyLinkDown p s) := by
  unfold execPhyLinkDown
  refine .next ?_
  split
  · exact h
  · split
    · exact h.losePort p _
    · split
      · exact h.on _
      · exact h

theorem execLiveSend_memSound (p : Fin 16) : OutcomeSound (execLiveSend p s) := by
  unfold execLiveSend
  refine .next ?_
  split
  · exact h.on _
  · exact h

theorem execLiveReceive_memSound (p : Fin 16) (x : BoreHdr) : OutcomeSound (execLiveReceive p x s) := by
  unfold execLiveReceive
  refine .next ?_
  split
  · exact (h.on _).takeHeader p x
  · exact h

theorem execLiveTimeout_memSound (p : Fin 16) : OutcomeSound (execLiveTimeout p s) := by
  unfold execLiveTimeout
  refine .next ?_
  split
  · exact h.losePort p _
  · exact h

theorem execDataReceive_memSound (p : Fin 16) (f : DataFrame) : OutcomeSound (execDataReceive p f s) := by
  unfold execDataReceive
  refine .next ?_
  split
  · exact h
  · split
    · exact h.on _
    · exact ((h.takeHeader p f.hdr).on _).consumeAll

theorem execAckReceive_memSound (p : Fin 16) (x : BoreHdr) (body : Option HopRef) : OutcomeSound (execAckReceive p x body s) := by
  unfold execAckReceive
  refine .next ?_
  split
  · exact h
  · dsimp only
    split
    · exact (h.takeHeader p x).on _
    · exact h.takeHeader p x

theorem execAckSend_memSound (p : Fin 16) : OutcomeSound (execAckSend p s) := by
  unfold execAckSend
  refine .next ?_
  split
  · exact h.on _
  · exact h

theorem execResendTimeout_memSound (p : Fin 16) : OutcomeSound (execResendTimeout p s) := by
  unfold execResendTimeout
  refine .next ?_
  split
  · exact h.resend p
  · exact h

theorem execAbortReceive_memSound (p : Fin 16) (x : BoreHdr) (body : AbortBody) : OutcomeSound (execAbortReceive p x body s) := by
  unfold execAbortReceive
  refine .next ?_
  split
  · exact h
  · dsimp only
    split
    · exact h.takeHeader p x
    · split
      · exact h.takeHeader p x
      · exact (State.foldl_memSound (fun _ q hu => hu.lostFault q _ _) _ ((h.takeHeader p x).on _)).on _

theorem execResumeReceive_memSound (p : Fin 16) (x : BoreHdr) (body : HopRef) : OutcomeSound (execResumeReceive p x body s) := by
  unfold execResumeReceive
  refine .next ?_
  split
  · exact h
  · dsimp only
    split
    · split
      · exact h.takeHeader p x
      · exact (h.takeHeader p x).on _
    · exact h.takeHeader p x

theorem execProgressTimeout_memSound (grp : BitVec 12) : OutcomeSound (execProgressTimeout grp s) := by
  unfold execProgressTimeout
  refine .next ?_
  split
  · exact h
  · split
    · exact h.endLost _ _ _ _
    · exact h

/-! #### Every command -/

/-- Whatever command runs: a slot by its issue, a command that acts on the chip alone at once, a write of one object by the
agent's answer, and each other by its own lemma. -/
theorem exec_memSound (i : Instr) : OutcomeSound (exec i s) := by
  cases i with
  | pld | mm | ewm | drn | rel | vadd | vsub | vmul | vfma | vmax | vmin | vscl | vfn | vred | vcmp | vsel | vcpr | vxpd
  | vcvt | vrnd | vacc | vftq | vsamp | vstop | vopt | vget | vtst | vput | ldv | gath | copy | stv | scat | emit | coll
  | salu | scmp | plog | loop | br | call | ret | step | endp | tdset | param | await | trace | event | layer | seed | cmt =>
    exact .next (h.issue _ _ _ _)
  | mbatch | weightSegmentReceive | switch | retire | save | release | detach | activate | activateCancel | firmwareHandover
  | tenantSetDestroy | tenantSetGrant | unknownOpcode | commandDoorbell | consumerCountWrite | ringConfigWrite | loadGo
  | imageVerifyComplete | selftestComplete | heartbeatWrite | heartbeatLoss | registerWrite | swtrig | claim | complete
  | coalescedRead | errClear | linkCodewordResend | hbmRetrainingWindow | dqsTrackingWindow | zqCalibrationWindow
  | guardedModeEnter | islandDerate | droop | limiterWarn | limiterEmergencyEnter | limiterStepDown | limiterEmergencyExit
  | limiterTrip | capSetPointsReady | capActiveUpdate | supplyFault | pwrEnFall | rstNRelease | phyLinkUp | helloSend
  | helloReceive | ptpSyncReceive | ptpDelayReqReceive | ptpDelayRespReceive | ptpSyncSend | ptpMasterLost | identify | read
  | write | segread | segwrite | hbread | mgmtUnknownOp | mgmtQueueFull | mgmtRetry | responseCacheExpiry
  | segwriteStagingExpiry | heartbeatSend | neighbourSolicitation | echoRequest | chalResp | challengeNonceExpiry
  | levelIdleTimeout | lockoutExpiry | rotate | hatbandCommit | activateVerifyComplete | warnThresholdClear
  | powerTraceSegment | ptpAnnounceReceive | ptpFollowUpReceive | ptpPdelayReqReceive | ptpPdelayRespReceive
  | ptpDelayReqSend | boreFrameDiscard | duplicateAddressDetection | neighbourAdvertisement | mgmtDatagramDiscard
  | plcaBeaconSeen | plcaBeaconLost | supplyLeavesRegulation => exact .next (h.on _)
  | capWWrite | portEnWrite | password | newPassword | chalLevel | close | debugEn => exact .next (h.of_mem_eq (State.writeOne_keeps ..).2)
  | prologueEnd => exact execPrologueEnd_memSound h ..
  | commitPoint => exact execCommitPoint_memSound h ..
  | commitFillComplete => exact execCommitFillComplete_memSound h ..
  | commitSetConfirmed => exact execCommitSetConfirmed_memSound h ..
  | submit => exact execSubmit_memSound h ..
  | bindComplete => exact execBindComplete_memSound h ..
  | alternateRebindComplete => exact execAlternateRebindComplete_memSound h ..
  | admitReq => exact execAdmitReq_memSound h ..
  | fetch => exact execFetch_memSound h ..
  | group => exact execGroup_memSound h ..
  | keyloadAttest => exact execKeyloadAttest_memSound h ..
  | keyloadLoad => exact execKeyloadLoad_memSound h ..
  | keyloadClear => exact execKeyloadClear_memSound h ..
  | restore => exact execRestore_memSound h ..
  | attach => exact execAttach_memSound h ..
  | tenantSetConfigure => exact execTenantSetConfigure_memSound h ..
  | partSet => exact execPartSet_memSound h ..
  | turn => exact execTurn_memSound h ..
  | modreset => exact execModreset_memSound h ..
  | pfFunctionLevelReset => exact execPfFunctionLevelReset_memSound h ..
  | tenantReset => exact execTenantReset_memSound h ..
  | bar2Read => exact execBar2Read_memSound h ..
  | bar2Write => exact execBar2Write_memSound h ..
  | tileLossDetect => exact execTileLossDetect_memSound h ..
  | interruptionResume => exact execInterruptionResume_memSound h ..
  | uncorrectableRead => exact execUncorrectableRead_memSound h ..
  | hostUncorrectableRead => exact execHostUncorrectableRead_memSound h ..
  | laneLoss => exact execLaneLoss_memSound h ..
  | tenantFault => exact execTenantFault_memSound h ..
  | moduleFault => exact execModuleFault_memSound h ..
  | islandClockCalibration => exact execIslandClockCalibration_memSound h ..
  | scrubRead => exact execScrubRead_memSound h ..
  | tripHoldEnd => exact execTripHoldEnd_memSound h ..
  | pwrEnRise => exact execPwrEnRise_memSound h ..
  | rstNAssert => exact execRstNAssert_memSound h ..
  | cablePresentChange => exact execCablePresentChange_memSound h ..
  | phyLinkDown => exact execPhyLinkDown_memSound h ..
  | liveSend => exact execLiveSend_memSound h ..
  | liveReceive => exact execLiveReceive_memSound h ..
  | liveTimeout => exact execLiveTimeout_memSound h ..
  | dataReceive => exact execDataReceive_memSound h ..
  | ackReceive => exact execAckReceive_memSound h ..
  | ackSend => exact execAckSend_memSound h ..
  | resendTimeout => exact execResendTimeout_memSound h ..
  | abortReceive => exact execAbortReceive_memSound h ..
  | resumeReceive => exact execResumeReceive_memSound h ..
  | progressTimeout => exact execProgressTimeout_memSound h ..
  | moduleResetComplete => exact execModuleResetComplete_memSound h ..
  | saveImageWritten => exact execSaveImageWritten_memSound h ..
  | attestReportWritten => exact execAttestReportWritten_memSound h ..
end

end Sys2Proof.Machine

open Sys2Proof.Machine

/-- Settles O26: with a command at the front of the queue by that command's lemma, on an empty queue since a tick leaves memory
alone. -/
theorem memoryStaysCanonical : Obligations.MemoryStaysCanonical := by
  unfold Obligations.MemoryStaysCanonical
  intro s t h hstep
  unfold step at hstep
  split at hstep
  · exact (OutcomeSound.next (h.on _)).keeps t hstep
  · exact (exec_memSound (h.withChip _ _) _).keeps t hstep

end

section
/-! What a slot's issue leaves of its bundle, said once for each shape of operation: a region of a buffer filled, a scalar or a
predicate written. Each opcode then gives the equation of its operation. -/

namespace Sys2Proof.Machine

/-! ### Checks of operands -/

theorem firstReason_eq_none {l : List (Bool × Byte)} : firstReason l = none ↔ ∀ x ∈ l, x.1 = false := by
  induction l with
  | nil => simp [firstReason]
  | cons x l ih => obtain ⟨bad, r⟩ := x; cases bad <;> simp [firstReason, ih]

theorem badSize_eq_false {n : BitVec 13} : (badSize n).1 = false ↔ 1 ≤ n.toNat ∧ n.toNat ≤ 4096 := by
  simp only [badSize, Bool.or_eq_false_iff, decide_eq_false_iff_not]
  omega

theorem VOps.sized_iff {o : VOps} :
    o.sized = true ↔ 1 ≤ o.rows.toNat ∧ o.rows.toNat ≤ 4096 ∧ 1 ≤ o.cols.toNat ∧ o.cols.toNat ≤ 4096 := by
  simp [VOps.sized]

/-- An operation that passes the rules for its region's size has a region of 1 to 4,096 rows and columns (R42). -/
theorem VOps.sized_of_rules {o : VOps} {l : List (Bool × Byte)} (h : firstReason l = none) (hl : sizeRules o ⊆ l) :
    o.sized = true := by
  have hall := firstReason_eq_none.mp h
  have hrows := badSize_eq_false.mp (hall (badSize o.rows) (hl (by simp [sizeRules])))
  have hcols := badSize_eq_false.mp (hall (badSize o.cols) (hl (by simp [sizeRules])))
  exact VOps.sized_iff.mpr ⟨hrows.1, hrows.2, hcols.1, hcols.2⟩

theorem VOps.sized_of_sizeRules {o : VOps} (h : firstReason (sizeRules o) = none) : o.sized = true :=
  VOps.sized_of_rules h (List.Subset.refl _)

theorem VOps.cols_le_of_sized {o : VOps} (h : o.sized = true) : o.cols.toNat ≤ 4096 := (VOps.sized_iff.mp h).2.2.2

@[simp] theorem Ctx.opS_val (c : Ctx) (sl : Slot) (o : VOps) :
    (c.opS sl o).val = if o.ims then sl.imm0 else c.s[o.ss].val := by
  unfold Ctx.opS
  split <;> rfl

/-! ### A bundle with an acting slot -/

section
variable {s : State} {i : Instr} {sl : Slot} {pos : SlotPos} {r : Running} {b : Build}
  {body : View → Build → Except SlotFail Build}

/-- An acting slot whose operation succeeds completes with the bundle as the operation leaves it. -/
theorem SlotActs.leaves {b' : Build} (h : SlotActs s i sl pos r b) (hexec : exec i s = .next (s.issue i sl pos body))
    (hbody : body (s.view sl.part r) { slotPlanned (s.view sl.part r) i b with pos := pos.num } = .ok b') : SlotLeaves s i sl r b' := by
  rw [SlotLeaves, hexec, State.issue_acts h hbody]

/-- An operation that fills D's region and does nothing else. -/
theorem FillsRegion.of_fillD {o : VOps} {f : Nat → Nat → W32} (hexec : exec i s = .next (s.issue i sl (vPos o) body))
    (hplanned : slotPlanned (s.view sl.part r) i b = b) (hsized : slotCheck (s.view sl.part r) i = none → o.sized = true)
    (hbody : SlotActs s i sl (vPos o) r b →
      body (s.view sl.part r) { b with pos := (vPos o).num } = .ok (Build.fillD { b with pos := (vPos o).num } o f)) :
    FillsRegion s i sl o r b f := by
  intro h
  refine ⟨Build.fillD { b with pos := (vPos o).num } o f, h.leaves hexec (hplanned.symm ▸ hbody h), fun row col hcol => ?_,
    fun j hj => ?_, rfl⟩
  · exact Build.get_fillBuf hcol (VOps.cols_le_of_sized (hsized h.valid))
  · exact Build.fillBuf_other hj

/-! ### Scalars and predicates (R21, R26) -/

theorem Ctx.setS_eq (c : Ctx) (d : Fin 64) (x : Scalar) : c.setS d x = { c with s := (c.setS d x).s } := by
  unfold Ctx.setS
  split <;> rfl

theorem Ctx.setP_eq (c : Ctx) (d : Fin 16) (x : PredReg) : c.setP d x = { c with p := (c.setP d x).p } := by
  unfold Ctx.setP
  split <;> rfl

/-- S0 keeps what it held whatever is written to it. -/
theorem Ctx.setS_stands (c : Ctx) {d j : Fin 64} (h : j ≠ d ∨ j = 0) (x : Scalar) : (c.setS d x).s[j] = c.s[j] := by
  by_cases hj : j = d
  · subst hj
    rw [Ctx.setS_get, if_pos (h.resolve_left fun hne => hne rfl)]
  · exact Ctx.setS_other hj

theorem Ctx.setP_stands (c : Ctx) {d j : Fin 16} (h : j ≠ d ∨ j = 0) (x : PredReg) : (c.setP d x).p[j] = c.p[j] := by
  by_cases hj : j = d
  · subst hj
    rw [Ctx.setP_get, if_pos (h.resolve_left fun hne => hne rfl)]
  · exact Ctx.setP_other hj

/-- Under a dynamic predicate a scalar may change its class, and no other scalar anything. -/
theorem taintS_stands (v : View) (sl : Slot) {d j : Fin 64} (h : j ≠ d ∨ j = 0) (b : Build) :
    (taintS v sl d b).ctx.s[j] = b.ctx.s[j] := by
  unfold taintS
  split
  · exact Ctx.setS_stands _ h _
  · rfl

theorem taintP_stands (v : View) (sl : Slot) {d j : Fin 16} (h : j ≠ d ∨ j = 0) (b : Build) :
    (taintP v sl d b).ctx.p[j] = b.ctx.p[j] := by
  unfold taintP
  split
  · exact Ctx.setP_stands _ h _
  · rfl

theorem taintS_eq (v : View) (sl : Slot) (d : Fin 64) (b : Build) :
    taintS v sl d b = { b with ctx := { b.ctx with s := (taintS v sl d b).ctx.s } } := by
  unfold taintS
  split
  · exact congrArg (fun c => { b with ctx := c }) (Ctx.setS_eq ..)
  · rfl

theorem taintP_eq (v : View) (sl : Slot) (d : Fin 16) (b : Build) :
    taintP v sl d b = { b with ctx := { b.ctx with p := (taintP v sl d b).ctx.p } } := by
  unfold taintP
  split
  · exact congrArg (fun c => { b with ctx := c }) (Ctx.setP_eq ..)
  · rfl

/-- An operation that writes one scalar and does nothing else. -/
theorem WritesScalar.of_writeS {d : Fin 64} {val : W64} {dyn : Bool} (hexec : exec i s = .next (s.issue i sl pos body))
    (hplanned : slotPlanned (s.view sl.part r) i b = taintS (s.view sl.part r) sl d b)
    (hbody : SlotActs s i sl pos r b → ∀ b0, body (s.view sl.part r) b0 = .ok (b0.writeS (s.view sl.part r) sl d val dyn)) :
    WritesScalar s i sl pos d r b val dyn := by
  intro h
  refine ⟨_, h.leaves hexec (hbody h _), fun hd => ?_, fun j hj => ?_, ?_⟩
  · simp only [Build.writeS, Ctx.setS_get, if_neg hd]
    rfl
  · rw [hplanned]
    exact (Ctx.setS_stands _ hj _).trans (taintS_stands _ sl hj b)
  · rw [hplanned, taintS_eq]
    exact congrArg (fun c => { b with pos := pos.num, ctx := c }) (Ctx.setS_eq ..)

/-- An operation that writes one predicate and does nothing else. -/
theorem WritesPred.of_writeP {d : Fin 16} {val dyn : Bool} (hexec : exec i s = .next (s.issue i sl pos body))
    (hplanned : slotPlanned (s.view sl.part r) i b = taintP (s.view sl.part r) sl d b)
    (hbody : SlotActs s i sl pos r b → ∀ b0, body (s.view sl.part r) b0 = .ok (b0.writeP (s.view sl.part r) sl d val dyn)) :
    WritesPred s i sl pos d r b val dyn := by
  intro h
  refine ⟨_, h.leaves hexec (hbody h _), fun hd => ?_, fun j hj => ?_, ?_⟩
  · simp only [Build.writeP, Ctx.setP_get, if_neg hd]
    rfl
  · rw [hplanned]
    exact (Ctx.setP_stands _ hj _).trans (taintP_stands _ sl hj b)
  · rw [hplanned, taintP_eq]
    exact congrArg (fun c => { b with pos := pos.num, ctx := c, latePreds := if 4 < pos.num then d :: b.latePreds else b.latePreds })
      (Ctx.setP_eq ..)

end

/-! ### Lanes (R113, R114) -/

theorem pickBf_eq (maxi : Bool) (x y : W32) : pickBf maxi x y =
    if (ofBf x).isNan ∨ (ofBf y).isNan then 0x7FC0
    else if (if maxi then below (ofBf x) (ofBf y) else below (ofBf y) (ofBf x)) then y &&& 0xFFFF else x &&& 0xFFFF := by
  simp [pickBf]

/-- VCMP's relation by the number of FN, where FN has one (R43). -/
theorem cmpHolds_of_le {fn : Fin 16} (h : fn.val ≤ 5) (x y : W32) : cmpHolds fn x y =
    if (ofBf x).isNan ∨ (ofBf y).isNan then Config.cmpNan fn.val (x.setWidth 16) (y.setWidth 16)
    else match fn.val with
      | 0 => (ofBf x).eq (ofBf y)
      | 1 => !(ofBf x).eq (ofBf y)
      | 2 => (ofBf x).lt (ofBf y)
      | 3 => (ofBf x).le (ofBf y)
      | 4 => (ofBf y).lt (ofBf x)
      | _ => (ofBf y).le (ofBf x) := by
  obtain ⟨n, hn⟩ := fn
  simp only [cmpHolds, Bool.or_eq_true]
  interval_cases n <;> rfl

end Sys2Proof.Machine

open Sys2Proof.Machine

/-- Settles O1: each operation fills its region, with the value of its own equation. -/
theorem laneArithmeticFillsRegion : Obligations.LaneArithmeticFillsRegion := by
  unfold Obligations.LaneArithmeticFillsRegion
  intro s sl o r b
  refine ⟨?vadd, ?vsub, ?vmul, ?vfma, ?vscl, ?vmax, ?vmin⟩
  case vadd | vsub | vmul | vfma =>
    exact .of_fillD rfl rfl VOps.sized_of_sizeRules fun _ => rfl
  case vscl =>
    refine .of_fillD rfl rfl VOps.sized_of_sizeRules fun _ => ?_
    simp only [vsclBody, Ctx.opS_val]
    rfl
  case vmax | vmin =>
    refine .of_fillD rfl rfl VOps.sized_of_sizeRules fun _ => ?_
    simp only [vmaxBody, vminBody, pickBf_eq]
    rfl

/-- Settles O2: as for the arithmetic; VCMP's relation has a number of FN once the slot's check has passed. -/
theorem laneSelectionFillsRegion : Obligations.LaneSelectionFillsRegion := by
  unfold Obligations.LaneSelectionFillsRegion
  intro s sl o r b
  refine ⟨?vfn, ?vcmp, ?vsel, ?vput⟩
  case vfn =>
    exact .of_fillD rfl rfl (fun h => VOps.sized_of_rules h (List.subset_cons_self _ _)) fun _ => rfl
  case vcmp =>
    refine .of_fillD rfl rfl (fun h => VOps.sized_of_rules h (List.subset_cons_self _ _)) fun h => ?_
    have hfn : o.fn.val ≤ 5 := by simpa using firstReason_eq_none.mp h.valid _ List.mem_cons_self
    simp only [vcmpBody, cmpHolds_of_le hfn]
    rfl
  case vsel => exact .of_fillD rfl rfl VOps.sized_of_sizeRules fun _ => rfl
  case vput =>
    refine .of_fillD rfl rfl VOps.sized_of_sizeRules fun _ => ?_
    simp only [vputBody, Ctx.opS_val]
    rfl

/-- Settles O5: VGET by the scalar that it writes, VTST by the predicate, whose value is that of an element found. -/
theorem bufferReadsAreDynamic : Obligations.BufferReadsAreDynamic := by
  unfold Obligations.BufferReadsAreDynamic
  intro s sl o r b
  refine ⟨.of_writeS rfl rfl fun _ _ => rfl, fun any hany => .of_writeP rfl rfl fun _ b0 => ?_⟩
  have hfound : ((region 0 0 o.rows.toNat o.cols.toNat).any fun p => decide ((s.view sl.part r).buf o.x p.1 p.2 ≠ 0)) = any := by
    rw [Bool.eq_iff_iff, hany, List.any_eq_true]
    constructor
    · rintro ⟨p, hp, hx⟩
      have hreg := mem_region.mp hp
      exact ⟨p.1, p.2, by omega, by omega, of_decide_eq_true hx⟩
    · rintro ⟨row, col, hrow, hcol, hx⟩
      exact ⟨(row, col), mem_region.mpr (by omega), decide_eq_true hx⟩
  rw [vtstBody, hfound]

end

section
/-! The vector operations that answer a row (VRED), convert and draw (VCVT, VRND), and read the array (VACC, VFTQ). -/

namespace Sys2Proof.Machine

/-! ### The order of exact values (R87, R90) -/

/-- A finite exact value as a rational. -/
def finRat (s : Bool) (m : Nat) (e : Int) : ℚ := signed s m * 2 ^ e

/-- The place of a value that is not NaN among the rationals and the two infinities. -/
def Fp.key : Fp → WithBot (WithTop ℚ)
  | .nan => ⊥
  | .inf true => ⊥
  | .inf false => ((⊤ : WithTop ℚ) : WithBot (WithTop ℚ))
  | .fin s m e => (finRat s m e : WithTop ℚ)

/-- A magnitude on a finer grid: the same value. -/
theorem signed_rescale (s : Bool) (m : Nat) {e d : Int} (h : d ≤ e) :
    ((signed s (m * 2 ^ (e - d).toNat) : Int) : ℚ) * 2 ^ d = (signed s m : ℚ) * 2 ^ e := by
  have hpow : (2 : ℚ) ^ e = 2 ^ (e - d).toNat * 2 ^ d := by
    rw [← zpow_natCast, ← zpow_add₀ two_ne_zero, Int.toNat_of_nonneg (by omega)]
    congr 1
    omega
  cases s <;> simp [signed, hpow] <;> ring

theorem Fp.cmp_fin_lt {sa sb : Bool} {ma mb : Nat} {ea eb : Int} :
    Fp.cmp (.fin sa ma ea) (.fin sb mb eb) = .lt ↔ finRat sa ma ea < finRat sb mb eb := by
  rw [Fp.cmp, finRat, finRat, compare_lt_iff_lt, ← signed_rescale sa ma (min_le_left ea eb),
    ← signed_rescale sb mb (min_le_right ea eb),
    mul_lt_mul_iff_left₀ (by positivity), Int.cast_lt]

/-- One value is below another where its place is (R87). -/
theorem Fp.lt_iff {a b : Fp} (ha : a.isNan = false) (hb : b.isNan = false) : a.lt b = true ↔ a.key < b.key := by
  rw [Fp.lt, ha, hb]
  cases a with
  | nan => cases ha
  | inf s =>
    cases b with
    | nan => cases hb
    | inf t => cases s <;> cases t <;> simp [Fp.cmp, Fp.key]
    | fin t m e => cases s <;> simp [Fp.cmp, Fp.key]
  | fin s m e =>
    cases b with
    | nan => cases hb
    | inf t =>
      cases t
      · simpa [Fp.cmp, Fp.key] using WithBot.coe_lt_coe.mpr (WithTop.coe_lt_top (finRat s m e))
      · simp [Fp.cmp, Fp.key]
    | fin t n f => simp [Fp.cmp_fin_lt, Fp.key, WithBot.coe_lt_coe, WithTop.coe_lt_coe]

/-! ### The winner of a row (R87, R115) -/

/-- One value stands above another in the search for the greatest, or below it in that for the smallest. -/
def beats (maxi : Bool) (x y : Fp) : Bool := if maxi then y.lt x else x.lt y

theorem beats_irrefl (maxi : Bool) {x : Fp} (hx : x.isNan = false) : beats maxi x x = false := by
  cases maxi <;> simp [beats, ← Bool.not_eq_true, Fp.lt_iff hx hx]

theorem beats_asymm {maxi : Bool} {x y : Fp} (hx : x.isNan = false) (hy : y.isNan = false) (h : beats maxi x y = true) :
    beats maxi y x = false := by
  cases maxi <;>
    simp only [beats, ← Bool.not_eq_true, Fp.lt_iff hx hy, Fp.lt_iff hy hx, if_true, Bool.false_eq_true, if_false] at h ⊢
  · exact lt_asymm h
  · exact lt_asymm h

/-- What beats a value beats all that does not beat that value. -/
theorem beats_of_not_beats {maxi : Bool} {x y w : Fp} (hx : x.isNan = false) (hy : y.isNan = false) (hw : w.isNan = false)
    (hyw : beats maxi y w = true) (hxw : beats maxi x w = false) : beats maxi y x = true := by
  cases maxi <;>
    simp only [beats, ← Bool.not_eq_true, Fp.lt_iff hx hw, Fp.lt_iff hw hx, Fp.lt_iff hy hw, Fp.lt_iff hw hy, Fp.lt_iff hx hy,
      Fp.lt_iff hy hx, not_lt, if_true, Bool.false_eq_true, if_false] at hyw hxw ⊢
  · exact lt_of_lt_of_le hyw hxw
  · exact lt_of_le_of_lt hxw hyw

/-- What the search of a row holds after some of its elements: one of them, with its place; where none is NaN, one that none
beats and that beats all before it. -/
structure RowBest (maxi : Bool) (xs : List Fp) (w : Fp × Nat) : Prop where
  held : xs[w.2]? = some w.1
  best : (∀ x ∈ xs, x.isNan = false) → ∀ k x, xs[k]? = some x → beats maxi x w.1 = false ∧ (k < w.2 → beats maxi w.1 x = true)

theorem rowBest_singleton (maxi : Bool) (x : Fp) : RowBest maxi [x] (x, 0) where
  held := rfl
  best hnan k y hy := by
    obtain ⟨rfl, rfl⟩ : k = 0 ∧ x = y := by
      cases k with
      | zero => simpa using hy
      | succ k => simp at hy
    exact ⟨beats_irrefl maxi (hnan x (by simp)), fun h => absurd h (Nat.lt_irrefl 0)⟩

/-- The next element takes over where it beats the one held, and where it is the first NaN. -/
theorem RowBest.next {maxi : Bool} {xs : List Fp} {w : Fp × Nat} (h : RowBest maxi xs w) (y : Fp) :
    RowBest maxi (xs ++ [y]) (if (y.isNan && !w.1.isNan) || beats maxi y w.1 then (y, xs.length) else w) := by
  have hmem : w.1 ∈ xs := List.mem_of_getElem? h.held
  have hlt : w.2 < xs.length := (List.getElem?_eq_some_iff.mp h.held).1
  split
  · next htakes =>
    refine ⟨by simp, fun hnan k x hx => ?_⟩
    have hy : y.isNan = false := hnan y (by simp)
    have hw : w.1.isNan = false := hnan w.1 (by simp [hmem])
    have hyw : beats maxi y w.1 = true := by simpa [hy] using htakes
    obtain hk | hk := Nat.lt_or_ge k xs.length
    · rw [List.getElem?_append_left hk] at hx
      have hxs : x ∈ xs := List.mem_of_getElem? hx
      have hxn : x.isNan = false := hnan x (by simp [hxs])
      obtain ⟨hxw, -⟩ := h.best (fun z hz => hnan z (by simp [hz])) k x hx
      have hyx := beats_of_not_beats hxn hy hw hyw hxw
      exact ⟨beats_asymm hy hxn hyx, fun _ => hyx⟩
    · obtain rfl : x = y := by
        rw [List.getElem?_append_right hk] at hx
        simpa using (List.mem_of_getElem? hx)
      exact ⟨beats_irrefl maxi hy, fun hlt => absurd hk (Nat.not_le.mpr hlt)⟩
  · next hstays =>
    refine ⟨by rw [List.getElem?_append_left hlt]; exact h.held, fun hnan k x hx => ?_⟩
    obtain hk | hk := Nat.lt_or_ge k xs.length
    · rw [List.getElem?_append_left hk] at hx
      exact h.best (fun z hz => hnan z (by simp [hz])) k x hx
    · obtain rfl : x = y := by
        rw [List.getElem?_append_right hk] at hx
        simpa using (List.mem_of_getElem? hx)
      simp only [Bool.or_eq_true, not_or, Bool.not_eq_true] at hstays
      exact ⟨hstays.2, fun hkw => absurd hlt (by omega)⟩

theorem rowWinner_best (maxi : Bool) (x : Fp) (xs : List Fp) : RowBest maxi (x :: xs) (rowWinner maxi (x :: xs)) := by
  induction xs using List.reverseRecOn with
  | nil => exact rowBest_singleton maxi x
  | append_singleton ys y ih =>
    have hlast := ih.next y
    rw [rowWinner, List.zipIdx_append, List.foldl_append]
    simpa [rowWinner, beats] using hlast

/-- The winner of a row that has an element: one of its elements, by its column. -/
theorem rowWinner_of_pos (maxi : Bool) {xs : List Fp} (h : xs ≠ []) : RowBest maxi xs (rowWinner maxi xs) := by
  obtain ⟨x, ys, rfl⟩ := List.exists_cons_of_ne_nil h
  exact rowWinner_best maxi x ys

/-! ### Reductions (R115) -/

/-- Elements of a buffer written with a function of their place. -/
theorem Build.get_putBuf {b : Build} {i : Fin 4} {l : List (Nat × Nat)} {f : Nat → Nat → W32} {r c : Nat} (hc : c < 4096)
    (hl : ∀ p ∈ l, p.2 < 4096) :
    Buf.get (b.putBuf i (l.map fun p => (p, f p.1 p.2))).ctx.v[i] r c = if (r, c) ∈ l then f r c else Buf.get b.ctx.v[i] r c := by
  have h := Buf.get_foldl_put (f := f) (r := r) hc b.ctx.v[i] l hl
  simpa [Build.putBuf] using h

theorem Build.putBuf_other {b : Build} {i j : Fin 4} {ws : List ((Nat × Nat) × W32)} (h : j ≠ i) :
    (b.putBuf i ws).ctx.v[j] = b.ctx.v[j] := by
  simp [Build.putBuf, vecMod_ne _ _ h]

/-- A row as VRED reads it. -/
def redRow (v : View) (o : VOps) (r : Nat) : List Fp := (List.range o.cols.toNat).map fun c => ofBf (v.buf o.x r c)

theorem redRow_getElem? {v : View} {o : VOps} {r k : Nat} {y : Fp} :
    (redRow v o r)[k]? = some y ↔ k < o.cols.toNat ∧ ofBf (v.buf o.x r k) = y := by
  simp only [redRow, List.getElem?_map, Option.map_eq_some_iff, List.getElem?_eq_some_iff, List.length_range, List.getElem_range]
  exact ⟨fun ⟨_, ⟨hk, hke⟩, hy⟩ => by subst hke; exact ⟨hk, hy⟩, fun ⟨hk, hy⟩ => ⟨k, ⟨hk, rfl⟩, hy⟩⟩

/-- The columns of D that VRED writes in each row: a sum takes one, a winner and its column two. -/
def redCols (o : VOps) : List Nat := if o.fn = 0 ∨ o.fn = 3 then [0] else [0, 1]

/-- What VRED leaves in a column of a row. -/
def redVal (v : View) (o : VOps) (r c : Nat) : W32 :=
  if o.fn = 0 then toF32 (joinAll v.gen [1, o.cols.toNat] o.cols.toNat (redRow v o r))
  else if o.fn = 3 then toF32 (joinAll v.gen [1, o.cols.toNat] o.cols.toNat ((redRow v o r).map fun x => x.mul x))
  else if c = 0 then toF32 (rowWinner (decide (o.fn = 1)) (redRow v o r)).1
  else BitVec.ofNat 32 (rowWinner (decide (o.fn = 1)) (redRow v o r)).2

theorem redVal_sum {v : View} {o : VOps} {r : Nat} (h : o.fn = 0) (c : Nat) :
    redVal v o r c = toF32 (joinAll v.gen [1, o.cols.toNat] o.cols.toNat (redRow v o r)) := if_pos h

theorem redVal_squares {v : View} {o : VOps} {r : Nat} (h : o.fn = 3) (c : Nat) : redVal v o r c =
    toF32 (joinAll v.gen [1, o.cols.toNat] o.cols.toNat ((redRow v o r).map fun x => x.mul x)) := by
  rw [redVal, if_neg (by simp [h]), if_pos h]

theorem redVal_winner {v : View} {o : VOps} {r : Nat} (h : o.fn ≠ 0 ∧ o.fn ≠ 3) :
    redVal v o r 0 = toF32 (rowWinner (decide (o.fn = 1)) (redRow v o r)).1 := by
  rw [redVal, if_neg h.1, if_neg h.2, if_pos rfl]

theorem redVal_column {v : View} {o : VOps} {r : Nat} (h : o.fn ≠ 0 ∧ o.fn ≠ 3) :
    redVal v o r 1 = BitVec.ofNat 32 (rowWinner (decide (o.fn = 1)) (redRow v o r)).2 := by
  rw [redVal, if_neg h.1, if_neg h.2, if_neg Nat.one_ne_zero]

theorem mem_redCols {o : VOps} {c : Nat} : c ∈ redCols o ↔ c = 0 ∨ c = 1 ∧ o.fn ≠ 0 ∧ o.fn ≠ 3 := by
  unfold redCols
  split
  · next h =>
    rw [List.mem_singleton]
    tauto
  · next h =>
    rw [List.mem_pair]
    tauto

/-- The places that VRED writes. -/
def redPlaces (o : VOps) : List (Nat × Nat) := (List.range o.rows.toNat).flatMap fun r => (redCols o).map fun c => (r, c)

theorem mem_redPlaces {o : VOps} {r c : Nat} : (r, c) ∈ redPlaces o ↔ r < o.rows.toNat ∧ c ∈ redCols o := by
  simp [redPlaces]

theorem vredBody_eq (v : View) (sl : Slot) (o : VOps) (b : Build) :
    vredBody v sl o b = .ok (b.putBuf o.d ((redPlaces o).map fun p => (p, redVal v o p.1 p.2))) := by
  unfold vredBody redPlaces
  refine congrArg (fun ws => Except.ok (b.putBuf o.d ws)) ?_
  rw [List.map_flatMap]
  refine congrArg (fun f => List.flatMap f _) (funext fun r => ?_)
  by_cases h0 : o.fn = 0
  · simp [redCols, redVal, redRow, h0]
  · by_cases h3 : o.fn = 3
    · simp [redCols, redVal, redRow, h3]
    · simp [redCols, redVal, redRow, h0, h3]

end Sys2Proof.Machine

open Sys2Proof.Machine

/-- Settles O4: what VRED writes is a function of row and column; a winner is the one that the search of its row holds at the
end. -/
theorem reductionWritesRowResult : Obligations.ReductionWritesRowResult := by
  unfold Obligations.ReductionWritesRowResult
  intro s sl o r b h x xs
  have hsized : o.sized = true := VOps.sized_of_rules h.valid (List.subset_cons_self _ _)
  obtain ⟨-, -, hcols, -⟩ := VOps.sized_iff.mp hsized
  have hplaces : ∀ p ∈ redPlaces o, p.2 < 4096 := by
    rintro ⟨row, col⟩ hp
    have hcol := mem_redCols.mp (mem_redPlaces.mp hp).2
    omega
  have hput : ∀ row col, row < o.rows.toNat → col ∈ redCols o → _ := fun row col hrow hcol =>
    (Build.get_putBuf (b := b) (i := o.d) (f := redVal (s.view sl.part r) o) (r := row) (c := col)
      (hplaces (row, col) (mem_redPlaces.mpr ⟨hrow, hcol⟩)) hplaces).trans (if_pos (mem_redPlaces.mpr ⟨hrow, hcol⟩))
  refine ⟨_, h.leaves rfl (vredBody_eq ..), rfl, fun j hj => Build.putBuf_other hj, fun row col hc hout => ?out,
    fun row hrow => ⟨fun hfn => ?sum, fun hfn => ?squares, fun hfn => ?winner⟩⟩
  case out =>
    refine (Build.get_putBuf hc hplaces).trans (if_neg fun hp => ?_)
    obtain ⟨hrow, hcol⟩ := mem_redPlaces.mp hp
    rcases mem_redCols.mp hcol with rfl | ⟨rfl, h0, h3⟩
    · omega
    · rcases hout with h | h | ⟨-, h | h⟩
      · omega
      · omega
      · exact h0 h
      · exact h3 h
  case sum => exact (hput row 0 hrow (mem_redCols.mpr (.inl rfl))).trans (redVal_sum hfn 0)
  case squares => exact (hput row 0 hrow (mem_redCols.mpr (.inl rfl))).trans (redVal_squares hfn 0)
  case winner =>
    have hne : redRow (s.view sl.part r) o row ≠ [] := by simp [redRow]; omega
    have hsearch : o.fn ≠ 0 ∧ o.fn ≠ 3 := by rcases hfn with h | h <;> simp [h]
    have hwin := rowWinner_of_pos (decide (o.fn = 1)) hne
    have hput0 := (hput row 0 hrow (mem_redCols.mpr (.inl rfl))).trans (redVal_winner hsearch)
    have hput1 := (hput row 1 hrow (mem_redCols.mpr (.inr ⟨rfl, hsearch⟩))).trans (redVal_column hsearch)
    generalize rowWinner (decide (o.fn = 1)) (redRow (s.view sl.part r) o row) = w at hwin hput0 hput1
    obtain ⟨hc, hval⟩ := redRow_getElem?.mp hwin.held
    have hval : x row w.2 = w.1 := hval
    refine ⟨w.2, hc, hput0.trans (congrArg toF32 hval.symm), hput1, fun hnan => ?_⟩
    have hbest : ∀ k, k < o.cols.toNat → _ := fun k hk =>
      hwin.best (fun y hy => ?_) k (x row k) (redRow_getElem?.mpr ⟨hk, rfl⟩)
    · refine ⟨fun h1 k hk => ?_, fun h2 k hk => ?_⟩
      · simpa [beats, h1, hval] using hbest k hk
      · simpa [beats, h2, hval] using hbest k hk
    · obtain ⟨k, hk⟩ := List.mem_iff_getElem?.mp hy
      obtain ⟨hlt, rfl⟩ := redRow_getElem?.mp hk
      exact hnan k hlt
end

section
namespace Sys2Proof.Machine

/-! ### Conversions counted (R159) -/

theorem Build.countConv_eq (b : Build) (layer : W16) (f : Fmt) (k : Fin 6) :
    b.countConv layer f k = { b with mon := (b.countConv layer f k).mon } := by
  unfold Build.countConv
  split <;> rfl

/-- Counting conversions changes nothing but the monitor. -/
theorem Build.foldl_countConv_eq {α : Type} (layer : W16) (f : Fmt) (cls : α → Fin 6) (l : List α) (b : Build) :
    l.foldl (fun b x => b.countConv layer f (cls x)) b =
      { b with mon := (l.foldl (fun b x => b.countConv layer f (cls x)) b).mon } := by
  induction l generalizing b with
  | nil => rfl
  | cons x l ih =>
    simp only [List.foldl_cons]
    rw [ih, Build.countConv_eq]

/-! ### Conversion and random values (R116, R131) -/

theorem sizeRules_subset_inner {o : VOps} {x : Bool × Byte} {l : List (Bool × Byte)} : sizeRules o ⊆ x :: sizeRules o ++ l :=
  List.subset_append_of_subset_left _ (List.subset_cons_self _ _)

/-- VRND's draw by the number of FN, where FN has one. -/
theorem vrnd_val {fn : Fin 16} (h : fn.val ≤ 2) (p : Fp) (slice : Nat → Nat) :
    (match fn with
      | 0 => BitVec.ofNat 32 (slice 32)
      | 1 => uniformBf (slice 24)
      | _ => keepMask p (slice 24)) =
    match fn.val with
      | 0 => BitVec.ofNat 32 (slice 32)
      | 1 => uniformBf (slice 24)
      | _ => keepMask p (slice 24) := by
  obtain ⟨n, hn⟩ := fn
  interval_cases n <;> rfl

theorem cvtSource_of_le {fn : Fin 16} (h : fn.val ≤ 2) : ∃ src, cvtSource fn = some src := by
  obtain ⟨n, hn⟩ := fn
  interval_cases n
  · exact ⟨.bf16, rfl⟩
  · exact ⟨.fp32, rfl⟩
  · exact ⟨.i32, rfl⟩

/-- A valid descriptor has a format (R36). -/
theorem Plan.fmt_of_descOk {p : Plan} {d : Desc} (h : p.descOk d = true) : ∃ f, Desc.fmt d = some f := by
  have hshape : Desc.shapeOk d = true := by
    simp only [Plan.descOk, Bool.and_eq_true] at h
    exact h.1.1.1
  unfold Desc.shapeOk at hshape
  cases hf : Desc.fmt d with
  | none => rw [hf] at hshape; cases hshape
  | some f => exact ⟨f, rfl⟩

/-- What VRND's check finds. -/
theorem vrndCheck_eq_none {v : View} {sl : Slot} {o : VOps} (h : vrndCheck v sl o = none) : o.fn.val ≤ 2 ∧ o.sized = true :=
  ⟨by simpa using firstReason_eq_none.mp h _ List.mem_cons_self, VOps.sized_of_rules h sizeRules_subset_inner⟩

/-- What VCVT's check finds. -/
theorem vcvtCheck_eq_none {v : View} {sl : Slot} {o : VOps} (h : vcvtCheck v sl o = none) :
    (∃ src, cvtSource o.fn = some src) ∧ (∃ f, Desc.fmt (v.desc o.td) = some f) ∧ o.sized = true := by
  have hall := firstReason_eq_none.mp h
  have hdesc : (badDesc v (v.desc o.td)).1 = false := hall _ (List.mem_append_right _ List.mem_cons_self)
  refine ⟨cvtSource_of_le (by simpa using hall _ List.mem_cons_self), ?_, VOps.sized_of_rules h sizeRules_subset_inner⟩
  exact Plan.fmt_of_descOk (p := v.plan) (by simpa [badDesc] using hdesc)

/-- What VCVT without block scales leaves in an element's place. -/
def cvtVal (v : View) (o : VOps) (src f : Fmt) (row col : Nat) : W32 :=
  (convertTo f (Desc.ovf (v.desc o.td))
    (if Desc.sre (v.desc o.td) && f.isFloat then some (v.sr (Desc.strm (v.desc o.td)) (Desc.offset (v.desc o.td) row col)) else none)
    (src.decode (v.buf o.x row col))).1

/-- VCVT without block scales: the region filled, and the monitor's counts. -/
theorem vcvtBody_eq {v : View} {sl : Slot} {o : VOps} {src f : Fmt} (hsrc : cvtSource o.fn = some src)
    (hf : Desc.fmt (v.desc o.td) = some f) (hscaled : Desc.scaled (v.desc o.td) = false) (b : Build) :
    ∃ mon, (narrows src f = false → mon = b.mon) ∧
      vcvtBody v sl o b = .ok { b.fillBuf o.d o.rows.toNat o.cols.toNat (cvtVal v o src f) with mon := mon } := by
  unfold vcvtBody
  simp only [hsrc, hf, hscaled, Bool.false_eq_true, if_false, List.foldl_nil, convElem, List.map_map]
  by_cases hn : narrows src f = true
  · rw [if_pos hn]
    exact ⟨_, fun h => absurd hn (by simp [h]), congrArg Except.ok (Build.foldl_countConv_eq ..)⟩
  · rw [if_neg hn]
    exact ⟨_, fun _ => rfl, rfl⟩

/-! ### Ways out of the array (R40, R118, R119) -/

/-- A bundle's first special operation acts (R44). -/
theorem special_of_false {b : Build} (h : b.special = false) (k : Build → Except SlotFail Build) :
    special b k = k { b with special := true } := by
  rw [special, h]
  rfl

/-- A READY accumulator that covers the region is read and stands as it is. -/
theorem vaccAcc_of_ready {o : VOps} {a : Acc} (h : a.state = .ready) (hm : o.rows.toNat ≤ a.m) (hn : o.cols.toNat ≤ a.n) :
    vaccAcc o a = .ok a := by
  obtain ⟨state, cells, winner, m, n, opr, idx, ks⟩ := a
  subst h
  simp [vaccAcc, AccState.next, Nat.not_lt.mpr hm, Nat.not_lt.mpr hn]

theorem narrowBf_fst (x : Fp) : (narrowBf x).1 = toBf x := by
  unfold narrowBf
  split
  · split <;> rfl
  · rfl

/-- VACC of a READY accumulator: the region filled, and the monitor's counts. -/
theorem vaccBody_eq {v : View} {sl : Slot} {o : VOps} {b : Build} (hb : b.special = false)
    (h : v.ctx.ac[o.acs].state = .ready) (hm : o.rows.toNat ≤ v.ctx.ac[o.acs].m) (hn : o.cols.toNat ≤ v.ctx.ac[o.acs].n) :
    ∃ mon, vaccBody v sl o b =
      .ok { b.fillBuf o.d o.rows.toNat o.cols.toNat fun r c => toBf (ofF32 (spGet 0 v.ctx.ac[o.acs].cells (4096 * r + c))) with
        special := true, mon := mon } := by
  rw [vaccBody, special_of_false hb, vaccAcc_of_ready h hm hn]
  simp only [List.map_map, Function.comp_def, narrowBf_fst]
  exact ⟨_, congrArg Except.ok (Build.foldl_countConv_eq ..)⟩

/-- What VFTQ leaves in an element's place. -/
def ftqVal (q : List FtqEntry) (r c : Nat) : W32 :=
  match q with
  | [] => 0
  | e :: _ => e.word r c

/-- VFTQ: the region filled, the queue without its oldest entry, and the counts. -/
theorem vftqBody_eq {v : View} {sl : Slot} {o : VOps} {b : Build} (hb : b.special = false) :
    ∃ counts, counts.ftqUnder = b.counts.ftqUnder + (if v.ctx.ftq = [] then 1 else 0) ∧
      vftqBody v sl o b = .ok { Build.fillBuf
        { b with ctx := { b.ctx with ftq := if v.ctx.ftq = [] then b.ctx.ftq else b.ctx.ftq.drop 1 } }
        o.d o.rows.toNat o.cols.toNat (ftqVal v.ctx.ftq) with special := true, counts := counts } := by
  rw [vftqBody, special_of_false hb]
  cases v.ctx.ftq with
  | nil => exact ⟨_, rfl, rfl⟩
  | cons q qs =>
    simp only [List.cons_ne_nil, if_false]
    by_cases hshape : q.rows = o.rows.toNat ∧ q.cols = o.cols.toNat
    · rw [if_pos hshape]
      exact ⟨_, rfl, rfl⟩
    · rw [if_neg hshape]
      exact ⟨{ b.counts with ftqShape := b.counts.ftqShape + 1 }, rfl, rfl⟩

/-- The static state's queue alone follows a VFTQ whatever its predicate (R120). -/
theorem ftqPop_eq (v : View) (sl : Slot) (b : Build) : ∃ all, ftqPop v sl b = { b with ctx := { b.ctx with ftqAll := all } } := by
  unfold ftqPop
  split
  · exact ⟨_, rfl⟩
  · exact ⟨_, rfl⟩

end Sys2Proof.Machine

open Sys2Proof.Machine

/-- Settles O6: VRND fills its region; so does VCVT, whose format and source reading its check has found. -/
theorem conversionAndDrawFillRegion : Obligations.ConversionAndDrawFillRegion := by
  unfold Obligations.ConversionAndDrawFillRegion
  intro s sl o r b d slice
  constructor
  · refine .of_fillD rfl rfl (fun h => (vrndCheck_eq_none (sl := sl) h).2) fun h => ?_
    have hval := vrnd_val (vrndCheck_eq_none (sl := sl) h.valid).1
    refine congrArg (fun f => Except.ok (Build.fillD _ o f)) (funext fun row => funext fun col => ?_)
    rw [← Ctx.opS_val]
    exact hval _ (slice row col)
  · intro h hscaled
    obtain ⟨⟨src, hsrc⟩, ⟨f, hf⟩, hsized⟩ := vcvtCheck_eq_none (sl := sl) h.valid
    obtain ⟨mon, hmon, hbody⟩ := vcvtBody_eq (v := s.view sl.part r) (sl := sl) hsrc hf hscaled { b with pos := (vPos o).num }
    have hcols := VOps.cols_le_of_sized hsized
    have hget : ∀ row col, row < o.rows.toNat → col < o.cols.toNat → _ := fun row col hrow hcol =>
      (Build.get_fillBuf (b := b) (i := o.d) (f := cvtVal (s.view sl.part r) o src f) (r := row)
        (Nat.lt_of_lt_of_le hcol hcols) hcols).trans (if_pos ⟨hrow, hcol⟩)
    have hother : ∀ j, j ≠ o.d → _ := fun j hj =>
      Build.fillBuf_other (b := b) (rows := o.rows.toNat) (cols := o.cols.toNat)
        (f := cvtVal (s.view sl.part r) o src f) hj
    exact ⟨src, f, _, hsrc, hf, h.leaves rfl hbody, hget, hother, hmon, rfl⟩

/-- Settles O7: each fills its region; VACC's narrowing and VFTQ's entry give the values. -/
theorem arrayResultsReachBuffers : Obligations.ArrayResultsReachBuffers := by
  unfold Obligations.ArrayResultsReachBuffers
  intro s sl o r b hspecial
  constructor
  · intro h hready hm hn
    have hcols := VOps.cols_le_of_sized (VOps.sized_of_sizeRules (o := o) h.valid)
    obtain ⟨mon, hbody⟩ := vaccBody_eq (v := s.view sl.part r) (sl := sl) (o := o) (b := { b with pos := (vPos o).num })
      hspecial hready hm hn
    have hget : ∀ row col, row < o.rows.toNat → col < o.cols.toNat → _ := fun row col hrow hcol =>
      (Build.get_fillBuf (b := b) (i := o.d) (r := row)
        (f := fun r' c => toBf (ofF32 (spGet 0 r.ctx.ac[o.acs].cells (4096 * r' + c))))
        (Nat.lt_of_lt_of_le hcol hcols) hcols).trans (if_pos ⟨hrow, hcol⟩)
    have hother : ∀ j, j ≠ o.d → _ := fun j hj =>
      Build.fillBuf_other (b := b) (rows := o.rows.toNat) (cols := o.cols.toNat)
        (f := fun r' c => toBf (ofF32 (spGet 0 r.ctx.ac[o.acs].cells (4096 * r' + c)))) hj
    exact ⟨_, h.leaves rfl hbody, hget, hother, rfl⟩
  · intro h
    have hcols := VOps.cols_le_of_sized (VOps.sized_of_sizeRules (o := o) h.valid)
    obtain ⟨all, hplan⟩ := ftqPop_eq (s.view sl.part r) sl b
    obtain ⟨counts, hunder, hbody⟩ := vftqBody_eq (v := s.view sl.part r) (sl := sl) (o := o)
      (b := { b with pos := (vPos o).num, ctx := { b.ctx with ftqAll := all } }) hspecial
    have hleaves := h.leaves rfl ((congrArg (fun b0 => vftqBody (s.view sl.part r) sl o { b0 with pos := (vPos o).num }) hplan).trans hbody)
    refine ⟨_, hleaves, rfl, fun row col hrow hcol => ?_, fun j hj => ?_, hunder, rfl, rfl, rfl, rfl, rfl⟩
    · exact (Build.get_fillBuf (b := b) (i := o.d) (f := ftqVal r.ctx.ftq) (r := row) (Nat.lt_of_lt_of_le hcol hcols) hcols).trans
        (if_pos ⟨hrow, hcol⟩)
    · exact Build.fillBuf_other (b := b) (rows := o.rows.toNat) (cols := o.cols.toNat) (f := ftqVal r.ctx.ftq) hj
end

section
/-! The control and system slots: scalars and predicates computed (R50, R26), descriptors' fields (R32), control (R50, R51), and
AWAIT, TRACE, EVENT, LAYER, SEED and CMT (R52). -/

namespace Sys2Proof.Machine

/-! ### SALU, SCMP, PLOG (R50) -/

theorem le_of_saluFn {fn : Fin 16} (h : (saluFn fn 0 0).isNone = false) : fn.val ≤ 11 := by
  revert fn
  decide

theorem le_of_scmpFn {fn : Fin 16} (h : (scmpFn fn 0 0).isNone = false) : fn.val ≤ 5 := by
  revert fn
  decide

theorem le_of_plogFn {fn : Fin 16} (h : (plogFn fn false false).isNone = false) : fn.val ≤ 4 := by
  revert fn
  decide

/-- SALU's function by the number of FN, where FN has one. -/
theorem saluFn_of_le {fn : Fin 16} (h : fn.val ≤ 11) (x y : W64) : saluFn fn x y = some (match fn.val with
    | 0 => x + y
    | 1 => x - y
    | 2 => x * y
    | 3 => x &&& y
    | 4 => x ||| y
    | 5 => x ^^^ y
    | 6 => x <<< (y.toNat % 64)
    | 7 => x >>> (y.toNat % 64)
    | 8 => x.sshiftRight (y.toNat % 64)
    | 9 => if x.toInt < y.toInt then x else y
    | 10 => if x.toInt < y.toInt then y else x
    | _ => y) := by
  have hslt : ∀ u w : W64, (if x.slt y then u else w) = if x.toInt < y.toInt then u else w := fun u w => by simp [BitVec.slt]
  obtain ⟨n, hn⟩ := fn
  simp only [saluFn, ← hslt]
  interval_cases n <;> rfl

/-- SCMP's relation by the number of FN, where FN has one. -/
theorem scmpFn_of_le {fn : Fin 16} (h : fn.val ≤ 5) (x y : W64) : scmpFn fn x y = some (match fn.val with
    | 0 => decide (x = y)
    | 1 => decide (x ≠ y)
    | 2 => decide (x.toInt < y.toInt)
    | 3 => decide (x.toInt ≤ y.toInt)
    | 4 => decide (x.toNat < y.toNat)
    | _ => decide (x.toNat ≤ y.toNat)) := by
  have hne : decide (x ≠ y) = (x != y) := by simp [bne, Bool.beq_eq_decide_eq]
  obtain ⟨n, hn⟩ := fn
  simp only [hne]
  interval_cases n <;> rfl

/-- PLOG's function by the number of FN, where FN has one. -/
theorem plogFn_of_le {fn : Fin 16} (h : fn.val ≤ 4) (p q : Bool) : plogFn fn p q = some (match fn.val with
    | 0 => p && q
    | 1 => p || q
    | 2 => p != q
    | 3 => p && !q
    | _ => !p) := by
  obtain ⟨n, hn⟩ := fn
  interval_cases n <;> rfl

/-- The class of a function's result: its second operand counts except for one FN (R26). -/
theorem dyn_or_ne (fn k : Fin 16) (x y : Bool) : (x || (decide (fn ≠ k) && y)) = if fn.val = k.val then x else x || y := by
  by_cases h : fn = k
  · simp [h]
  · simp [h, Fin.val_ne_of_ne h]

theorem saluBody_eq {v : View} {sl : Slot} {o : CfOps} {b : Build} {z : W64}
    (h : saluFn o.fn v.ctx.s[o.sa].val (v.ctx.opB sl o).val = some z) :
    saluBody v sl o b = .ok (b.writeS v sl o.sd z
      (if o.fn.val = 11 then (v.ctx.opB sl o).dyn else (v.ctx.opB sl o).dyn || v.ctx.s[o.sa].dyn)) := by
  simp only [saluBody, h, dyn_or_ne]
  rfl

theorem scmpBody_eq {v : View} {sl : Slot} {o : CfOps} {b : Build} {z : Bool}
    (h : scmpFn o.fn v.ctx.s[o.sa].val (v.ctx.opB sl o).val = some z) :
    scmpBody v sl o b = .ok (b.writeP v sl o.pd z (v.ctx.s[o.sa].dyn || (v.ctx.opB sl o).dyn)) := by
  simp only [scmpBody, h]

theorem plogBody_eq {v : View} {sl : Slot} {o : CfOps} {b : Build} {z : Bool}
    (h : plogFn o.fn v.ctx.p[predA o].val v.ctx.p[predB o].val = some z) :
    plogBody v sl o b = .ok (b.writeP v sl o.pd z
      (if o.fn.val = 4 then v.ctx.p[predA o].dyn else v.ctx.p[predA o].dyn || v.ctx.p[predB o].dyn)) := by
  simp only [plogBody, h, dyn_or_ne]
  rfl

/-! ### PARAM (R50) -/

theorem paramVal_val (v : View) (sl : Slot) (o : CfOps) : (paramVal v sl o).val =
    match o.fn.val with
    | 0 => v.run.step.setWidth 64
    | 1 => v.plan.id.setWidth 64
    | 2 => BitVec.ofNat 64 v.ten.val
    | 3 => v.run.stepEpoch.setWidth 64
    | 4 => v.plan.image.nepoch.setWidth 64
    | 5 => v.chip.drone.now
    | 6 => v.plan.sub.sparam[(v.ctx.opB sl o).val.toNat % 16]
    | _ => if v.ctx.lc[o.lc].active then v.ctx.lc[o.lc].index.setWidth 64 else 0 := by
  unfold paramVal
  generalize o.fn.val = n
  rcases n with _ | _ | _ | _ | _ | _ | _ | n <;> rfl

theorem paramVal_dyn (v : View) (sl : Slot) (o : CfOps) : (paramVal v sl o).dyn =
    match o.fn.val with
    | 3 => true
    | 5 => true
    | 6 => (v.ctx.opB sl o).dyn
    | _ => false := by
  unfold paramVal
  generalize o.fn.val = n
  rcases n with _ | _ | _ | _ | _ | _ | _ | n <;> rfl

theorem paramBody_eq (v : View) (sl : Slot) (o : CfOps) (b : Build) {val : W64} {dyn : Bool} (hval : (paramVal v sl o).val = val)
    (hdyn : (paramVal v sl o).dyn = dyn) : paramBody v sl o b = .ok (b.writeS v sl o.sd val dyn) := by
  subst hval hdyn
  rfl

/-! ### TDSET (R32, R50) -/

theorem tdField_eq {fn : Fin 16} (h : (tdField fn).isNone = false) :
    tdField fn = some (if fn.val = 0 then (392, 48) else if fn.val ≤ 6 then (360 - 24 * (fn.val - 1), 24)
      else (200 - 40 * (fn.val - 7), 40)) := by
  revert fn
  decide

theorem tdField_le (fn : Fin 16) : ∀ x ∈ tdField fn, x.1 + x.2 ≤ 512 := by
  revert fn
  decide

/-- A field of a descriptor replaced: its bits are the value's low bits, and all others stand. -/
theorem Desc.getLsbD_setField (d : Desc) {lo n : Nat} (x : W64) (hlo : lo + n ≤ 512) (k : Nat) :
    (Desc.setField d lo n x).getLsbD k = if lo ≤ k ∧ k < lo + n then x.getLsbD (k - lo) else d.getLsbD k := by
  simp only [Desc.setField, BitVec.getLsbD_or, BitVec.getLsbD_and, BitVec.getLsbD_not, BitVec.getLsbD_shiftLeft,
    BitVec.getLsbD_ofNat, BitVec.getLsbD_setWidth, Nat.testBit_two_pow_sub_one]
  by_cases h : lo ≤ k ∧ k < lo + n
  · have h1 : k < 512 := by omega
    have h2 : k - lo < n := by omega
    have h3 : ¬k < lo := by omega
    have h4 : k - lo < 512 := by omega
    simp [h, h1, h2, h3, h4]
  · rw [if_neg h]
    have hmask : (decide (k < 512) && !decide (k < lo) && (decide (k - lo < 512) && decide (k - lo < n))) = false := by simp; omega
    obtain hk | hk := Nat.lt_or_ge k 512
    · rw [hmask, decide_eq_true hk]
      simp only [Bool.not_false, Bool.and_true, Bool.and_false, Bool.or_false]
    · simp [hk, Nat.not_lt.mpr hk]

theorem tdsetBody_eq {v : View} {sl : Slot} {o : CfOps} {b : Build} {lo n : Nat} (h : tdField o.fn = some (lo, n)) :
    tdsetBody v sl o b = .ok { b with ctx := { b.ctx with
      td := spSet 0 o.td.val (Desc.setField (b.ctx.desc o.td) lo n v.ctx.s[o.sa].val) b.ctx.td } } := by
  simp only [tdsetBody, h]

theorem Ctx.desc_setTd (c : Ctx) (i j : Fin 256) (d : Desc) :
    Ctx.desc { c with td := spSet 0 i.val d c.td } j = if j = i then d else c.desc j := by
  unfold Ctx.desc
  split
  · next h => rw [h]; exact spGet_spSet_same
  · next h => exact spGet_spSet_ne fun e => h (Fin.ext e)

/-! ### AWAIT (R40, R52) -/

theorem awaitBody_of_draining {v : View} {sl : Slot} {o : SyOps} {b : Build} {i : Fin 2} (hi : o.ac.val = i.val)
    (h : v.ctx.ac[i].state = .draining) :
    awaitBody v sl o b = .ok { b with ctx := { b.ctx with ac := vecMod b.ctx.ac i fun a => { a with state := .free } } } := by
  have hlt : o.ac.val < 2 := hi ▸ i.isLt
  obtain rfl : (⟨o.ac.val, hlt⟩ : Fin 2) = i := Fin.ext hi
  rw [awaitBody, dif_pos hlt]
  simp only [h]

theorem awaitBody_of_ne {v : View} {sl : Slot} {o : SyOps} {b : Build} {i : Fin 2} (hi : o.ac.val = i.val)
    (h : v.ctx.ac[i].state ≠ .draining) : awaitBody v sl o b = .ok b := by
  have hlt : o.ac.val < 2 := hi ▸ i.isLt
  obtain rfl : (⟨o.ac.val, hlt⟩ : Fin 2) = i := Fin.ext hi
  rw [awaitBody, dif_pos hlt]
  dsimp only
  split
  · next hd => exact absurd hd h
  · rfl

/-! ### Control (R50, R51) -/

/-- Control inside the body of the innermost loop goes on at the next bundle. -/
theorem leaveBundle_inside {c : Ctx} {k : Nat} {l : Fin 8} (h : c.lc[l].last ≠ k) (ls : List (Fin 8)) :
    leaveBundle (l :: ls) c k = ({ c with loops := l :: ls }, k + 1) := if_neg h

/-- At the end of its body, with trips left, the innermost loop goes round again. -/
theorem leaveBundle_again {c : Ctx} {k : Nat} {l : Fin 8} (h : c.lc[l].last = k) (hcount : 1 < c.lc[l].count) (ls : List (Fin 8)) :
    leaveBundle (l :: ls) c k = ({ c with
      loops := l :: ls
      lc := vecMod c.lc l fun x => { x with index := x.index + 1, count := x.count - 1 } }, c.lc[l].first) :=
  (if_pos h).trans (if_pos hcount)

/-- At the end of its last trip the innermost loop ends. -/
theorem leaveBundle_ends {c : Ctx} {k : Nat} {l : Fin 8} (h : c.lc[l].last = k) (hcount : ¬1 < c.lc[l].count) (ls : List (Fin 8)) :
    leaveBundle (l :: ls) c k = leaveBundle ls { c with loops := ls, lc := c.lc.set l ⟨false, 0, 0, 0, 0⟩ } k :=
  (if_pos h).trans (if_neg hcount)

theorem Ctx.advance_fall {c c' : Ctx} {loops : List (Fin 8)} {k n : Nat} (hl : c.loops = loops)
    (h : leaveBundle loops c k = (c', n)) : c.advance (.fall k) = { c' with pc := n } := by
  rw [Ctx.advance, hl, h]

theorem loopBody_eq (v : View) (sl : Slot) (o : CfOps) (b : Build) : loopBody v sl o b = .ok
    (if (v.ctx.predOf sl).val = true ∧ (v.ctx.opB sl o).val.toNat ≠ 0 then
      { b with
        flow := .jump (v.ctx.pc + 1)
        ctx := { b.ctx with
          lc := b.ctx.lc.set o.lc
            { active := true, index := 0, count := (v.ctx.opB sl o).val.toNat, first := v.ctx.pc + 1, last := (v.target o).toNat }
          loops := o.lc :: b.ctx.loops } }
    else { b with flow := .fall (v.target o).toNat }) := by
  unfold loopBody
  by_cases h : (v.ctx.predOf sl).val = true ∧ (v.ctx.opB sl o).val.toNat ≠ 0
  · obtain ⟨hpred, hn⟩ := h
    simp [hpred, hn]
  · rw [if_neg h, if_pos (by simpa [Decidable.or_iff_not_imp_left] using h)]

/-- A RET that acts finds a call to end (R51). -/
theorem retBody_of_check {v : View} {sl : Slot} {o : CfOps} (hpred : (v.ctx.predOf sl).val = true) (h : retCheck v sl o = none) :
    ∃ c cs, v.ctx.calls = c :: cs ∧
      ∀ b, retBody v sl o b = .ok { b with ctx := { b.ctx with calls := cs }, flow := .fall (c - 1) } := by
  have hcalls : v.ctx.calls.isEmpty = false := by
    simpa [hpred] using firstReason_eq_none.mp h (_, 4) (List.mem_cons_of_mem _ List.mem_cons_self)
  obtain ⟨c, cs, hc⟩ := List.exists_cons_of_ne_nil (List.isEmpty_eq_false_iff.mp hcalls)
  exact ⟨c, cs, hc, fun b => by simp only [retBody, hc]⟩

end Sys2Proof.Machine
open Sys2Proof.Machine
/-- Settles O18: by the scalar or the predicate that each slot writes; TDSET by the bits of the field that it replaces. -/
theorem scalarSlotsWriteOneRegister : Obligations.ScalarSlotsWriteOneRegister := by
  unfold Obligations.ScalarSlotsWriteOneRegister
  intro s sl o r b x y p q
  refine ⟨.of_writeS rfl rfl fun h b0 => ?salu, .of_writeP rfl rfl fun h b0 => ?scmp, .of_writeP rfl rfl fun h b0 => ?plog,
    .of_writeS rfl rfl fun h b0 => ?param, fun h => ?tdset⟩
  case salu =>
    have hfn := saluFn_of_le (le_of_saluFn (firstReason_eq_none.mp h.valid _ List.mem_cons_self)) x.val y.val
    rw [Bool.or_comm x.dyn]
    exact saluBody_eq hfn
  case scmp =>
    have hfn := scmpFn_of_le (le_of_scmpFn (firstReason_eq_none.mp h.valid _ List.mem_cons_self)) x.val y.val
    exact scmpBody_eq hfn
  case plog =>
    have hfn := plogFn_of_le (le_of_plogFn (firstReason_eq_none.mp h.valid _ List.mem_cons_self)) p.val q.val
    exact plogBody_eq hfn
  case param =>
    exact paramBody_eq (s.view sl.part r) sl o b0 (paramVal_val ..) (paramVal_dyn ..)
  case tdset =>
    have hfield := tdField_eq (firstReason_eq_none.mp h.valid _ List.mem_cons_self)
    generalize hf : (if o.fn.val = 0 then (392, 48) else if o.fn.val ≤ 6 then (360 - 24 * (o.fn.val - 1), 24)
      else (200 - 40 * (o.fn.val - 7), 40)) = f at hfield
    obtain ⟨lo, n⟩ := f
    have hle : lo + n ≤ 512 := tdField_le o.fn _ hfield
    have hdesc := Ctx.desc_setTd b.ctx o.td
    refine ⟨_, lo, n, h.leaves rfl (tdsetBody_eq hfield), rfl, fun k hk => ?_, fun k hk => ?_, fun j hj => ?_, rfl⟩
    · refine (congrArg (BitVec.getLsbD · (lo + k)) ((hdesc o.td _).trans (if_pos rfl))).trans ?_
      rw [Desc.getLsbD_setField _ _ hle, if_pos (by omega), Nat.add_sub_cancel_left]
      rfl
    · refine (congrArg (BitVec.getLsbD · k) ((hdesc o.td _).trans (if_pos rfl))).trans ?_
      rw [Desc.getLsbD_setField _ _ hle, if_neg (by omega)]
      rfl
    · exact (hdesc j _).trans (if_neg hj)

/-- Settles O20: by the operation of each slot; AWAIT by the accumulator's state. -/
theorem systemSlotsActOnBundle : Obligations.SystemSlotsActOnBundle := by
  unfold Obligations.SystemSlotsActOnBundle
  intro s sl o r b
  refine ⟨fun i hi h => ?await, fun h => h.leaves rfl rfl, fun h => h.leaves rfl rfl, fun h => h.leaves rfl rfl,
    fun h => h.leaves rfl rfl, fun h => h.leaves rfl rfl⟩
  by_cases hdraining : r.ctx.ac[i].state = .draining
  · refine ⟨_, h.leaves rfl (awaitBody_of_draining hi hdraining), ?_, fun j hj => vecMod_ne _ _ hj, rfl⟩
    rw [if_pos hdraining]
    exact vecMod_same ..
  · refine ⟨_, h.leaves rfl (awaitBody_of_ne hi hdraining), ?_, fun _ _ => rfl, rfl⟩
    rw [if_neg hdraining]
    rfl

/-- Settles O19: control from the end of a bundle by the innermost loop's cases; each slot by its operation. -/
theorem controlSlotsSetFlow : Obligations.ControlSlotsSetFlow := by
  unfold Obligations.ControlSlotsSetFlow
  refine ⟨fun c k l ls => ⟨fun h => ?empty, fun h hlast => ?inside, fun h hlast hcount => ?again, fun h hlast hcount => ?ends⟩,
    fun s sl o r b => ⟨fun h => ?loop, fun h => h.leaves rfl rfl, fun h => h.leaves rfl rfl, fun h => ?ret,
      fun h => h.leaves rfl rfl, fun h => h.leaves rfl rfl⟩⟩
  case empty => rw [Ctx.advance_fall h rfl]
  case inside =>
    rw [Ctx.advance_fall h (leaveBundle_inside hlast ls)]
    exact ⟨rfl, rfl⟩
  case again =>
    rw [Ctx.advance_fall h (leaveBundle_again hlast hcount ls)]
    exact ⟨rfl, congrArg LoopCtr.index (vecMod_same ..), congrArg LoopCtr.count (vecMod_same ..), rfl, fun m hm => vecMod_ne _ _ hm⟩
  case ends =>
    rw [Ctx.advance_fall h ((leaveBundle_ends hlast (Nat.not_lt.mpr hcount) []).trans rfl)]
    exact ⟨rfl, rfl, by simp⟩
  case loop =>
    exact h.leaves rfl (loopBody_eq ..)
  case ret =>
    have hpred : (r.ctx.predOf sl).val = true := h.acts.resolve_left (by simp [anyPred])
    obtain ⟨c, cs, hc, hbody⟩ := retBody_of_check (v := s.view sl.part r) (o := o) hpred h.valid
    exact ⟨c, cs, hc, h.leaves rfl (hbody _)⟩
end

section
/-! The load slot: LDV and GATH (R46, R48). -/

namespace Sys2Proof.Machine

/-- The columns that a load moves are at most 4,096 (R48). -/
theorem MvOps.cols_le {o : MvOps} {l : List (Bool × Byte)} (h : firstReason l = none) (hl : badSize o.cols ∈ l) :
    o.cols.toNat ≤ 4096 := (badSize_eq_false.mp (firstReason_eq_none.mp h _ hl)).2

theorem ldvCheck_cols {v : View} {sl : Slot} {o : MvOps} (h : ldvCheck v sl o = none) : o.cols.toNat ≤ 4096 :=
  MvOps.cols_le h (.tail _ (.tail _ (.tail _ (.head _))))

theorem gathCheck_cols {v : View} {sl : Slot} {o : MvOps} (h : gathCheck v sl o = none) : o.cols.toNat ≤ 4096 :=
  MvOps.cols_le h (.tail _ (.tail _ (.head _)))

/-- A row index of the index buffer lies inside the view's rows, or names no row (R48). -/
theorem View.rowIndex_eq (v : View) (o : MvOps) (d : Desc) (i : Nat) : v.rowIndex o d i =
    if 0 ≤ (v.buf o.ix i 0).toInt ∧ (v.buf o.ix i 0).toInt < (Desc.rows d : Int) then some (v.buf o.ix i 0).toInt.toNat else none := by
  unfold View.rowIndex asI32
  generalize BitVec.toInt (v.buf o.ix i 0) = x
  by_cases h : 0 ≤ x ∧ x < (Desc.rows d : Int)
  · rw [if_pos h, if_pos (by omega)]
  · rw [if_neg h, if_neg (by omega)]

/-- What GATH leaves in an element's place. -/
def gathVal (v : View) (o : MvOps) (i j : Nat) : W32 :=
  if 0 ≤ (v.buf o.ix i 0).toInt ∧ (v.buf o.ix i 0).toInt < (Desc.rows (v.desc o.td) : Int) then
    v.loaded (v.desc o.td) (v.buf o.ix i 0).toInt.toNat (v.colO o + j)
  else 0

theorem gathBody_eq (v : View) (sl : Slot) (o : MvOps) (b : Build) :
    gathBody v sl o b = .ok ((b.fillBuf o.v o.rows.toNat o.cols.toNat (gathVal v o)).countOor (v.oorRows o (v.desc o.td))) := by
  have hval : (fun i j => match v.rowIndex o (v.desc o.td) i with
      | some r => v.loaded (v.desc o.td) r (v.colO o + j)
      | none => 0) = gathVal v o := by
    funext i j
    rw [View.rowIndex_eq]
    unfold gathVal
    by_cases h : 0 ≤ (v.buf o.ix i 0).toInt ∧ (v.buf o.ix i 0).toInt < (Desc.rows (v.desc o.td) : Int)
    · rw [if_pos h, if_pos h]
    · rw [if_neg h, if_neg h]
  exact congrArg (fun f => Except.ok ((b.fillBuf o.v o.rows.toNat o.cols.toNat f).countOor _)) hval

theorem View.oorRows_eq (v : View) (o : MvOps) (d : Desc) : v.oorRows o d = ((List.range o.rows.toNat).filter fun i =>
    !decide (0 ≤ (v.buf o.ix i 0).toInt ∧ (v.buf o.ix i 0).toInt < (Desc.rows d : Int))).length := by
  unfold View.oorRows
  congr 2
  funext i
  rw [View.rowIndex_eq]
  by_cases h : 0 ≤ (v.buf o.ix i 0).toInt ∧ (v.buf o.ix i 0).toInt < (Desc.rows d : Int)
  · rw [if_pos h, decide_eq_true h]
    rfl
  · rw [if_neg h, decide_eq_false h]
    rfl

end Sys2Proof.Machine

open Sys2Proof.Machine

/-- Settles O13: both fill their region; GATH's value of a row and its count go by the row index. -/
theorem loadsFillBuffer : Obligations.LoadsFillBuffer := by
  unfold Obligations.LoadsFillBuffer
  intro s sl o r b v d ro co ix
  refine ⟨fun h => ?ldv, fun h => ?gath⟩
  case ldv =>
    have hcols : o.cols.toNat ≤ 4096 := ldvCheck_cols (sl := sl) h.valid
    have hget : ∀ i j, j < 4096 → _ := fun i j hj =>
      Build.get_fillBuf (b := b) (i := o.v) (rows := o.rows.toNat) (f := fun i j => v.loaded d (ro + i) (co + j)) (r := i) hj hcols
    have hother : ∀ k, k ≠ o.v → _ := fun k hk =>
      Build.fillBuf_other (b := b) (rows := o.rows.toNat) (cols := o.cols.toNat) (f := fun i j => v.loaded d (ro + i) (co + j)) hk
    refine ⟨_, h.leaves rfl rfl, fun i j hi hj => ?_, fun i j hj hout => (hget i j hj).trans (if_neg hout), hother, rfl⟩
    exact (hget i j (by omega)).trans (if_pos ⟨hi, hj⟩)
  case gath =>
    have hcols : o.cols.toNat ≤ 4096 := gathCheck_cols (sl := sl) h.valid
    refine ⟨_, h.leaves rfl (gathBody_eq ..), fun i j hi hj => ?_, fun k hk => ?_, ?_, rfl⟩
    · exact (Build.get_fillBuf (b := b) (f := gathVal v o) (by omega) hcols).trans (if_pos ⟨hi, hj⟩)
    · exact Build.fillBuf_other (b := b) (rows := o.rows.toNat) (cols := o.cols.toNat) (f := gathVal v o) hk
    · exact congrArg (b.counts.oorRows + ·) (View.oorRows_eq v o d)
end

section
/-! The matrix slot: PLD, MM, EWM and REL (R38-R41, R92). -/

namespace Sys2Proof.Machine

/-! ### Cells written with a function of their place -/

theorem spGet_spSetAll_cells {α : Type} [DecidableEq α] {d : α} {f : Nat → Nat → α} {r c : Nat} (hc : c < 4096)
    (l : List (Nat × Nat)) (hl : ∀ p ∈ l, p.2 < 4096) :
    spGet d (spSetAll d [] (l.map fun p => (cellKey p.1 p.2, f p.1 p.2))) (cellKey r c) = if (r, c) ∈ l then f r c else d := by
  induction l using List.reverseRecOn with
  | nil => rfl
  | append_singleton l p ih =>
    obtain ⟨r', c'⟩ := p
    have ih := ih fun q hq => hl q (List.mem_append_left _ hq)
    have hc' : c' < 4096 := hl (r', c') (by simp)
    simp only [spSetAll, List.map_append, List.map_cons, List.map_nil, List.foldl_append, List.foldl_cons, List.foldl_nil] at ih ⊢
    by_cases h : (r, c) = (r', c')
    · obtain ⟨rfl, rfl⟩ := Prod.mk.injEq .. ▸ h
      rw [spGet_spSet_same, if_pos (by simp)]
    · rw [spGet_spSet_ne (fun he => h (Prod.ext_iff.mpr (cellKey_inj hc hc' he))), ih]
      simp only [List.mem_append, List.mem_singleton, h, or_false]

/-- The cells of a region of at most 4,096 columns. -/
theorem spGet_spSetAll_region {α : Type} [DecidableEq α] {d : α} {f : Nat → Nat → α} {rows cols r c : Nat} (hcols : cols ≤ 4096)
    (hr : r < rows) (hc : c < cols) :
    spGet d (spSetAll d [] ((region 0 0 rows cols).map fun p => (cellKey p.1 p.2, f p.1 p.2))) (cellKey r c) = f r c := by
  rw [spGet_spSetAll_cells (by omega) _ fun p hp => ?_, if_pos (mem_region.mpr (by omega))]
  have := mem_region.mp hp
  omega

/-! ### The accumulator named (R37) -/

theorem acOf_eq {ac : Fin 4} {i : Fin 2} (h : ac.val = i.val) : acOf ac = some i := by
  have hlt : ac.val < 2 := h ▸ i.isLt
  rw [acOf, dif_pos hlt]
  exact congrArg some (Fin.ext h)

@[simp] theorem Build.setAcc_same (b : Build) (i : Fin 2) (a : Acc) : (b.setAcc i a).ctx.ac[i] = a := by
  simp [Build.setAcc]

theorem Build.setAcc_other (b : Build) {i j : Fin 2} (a : Acc) (h : j ≠ i) : (b.setAcc i a).ctx.ac[j] = b.ctx.ac[j] := by
  have hne : i.val ≠ j.val := fun e => h (Fin.ext e.symm)
  simp [Build.setAcc, hne]

/-! ### EWM and REL (R38, R40, R92) -/

/-- The accumulator that EWM leaves. -/
def ewmResult (v : View) (o : MxOps) : Acc :=
  { Acc.initial with
    state := .ready, m := Desc.rows (v.desc o.tdb), n := Desc.cols (v.desc o.tdb)
    cells := spSetAll 0 [] ((region 0 0 (Desc.rows (v.desc o.tdb)) (Desc.cols (v.desc o.tdb))).map fun p =>
      (cellKey p.1 p.2, toF32 ((rne32 (v.value (v.desc o.tdb) p.1 p.2)).mul (rne32 (v.value (v.desc o.tde) p.1 p.2))))) }

theorem ewmBody_of_free {v : View} {sl : Slot} {o : MxOps} {b : Build} {i : Fin 2} (hi : o.ac.val = i.val)
    (h : v.ctx.ac[i].state = .free) : ewmBody v sl o b = .ok (b.setAcc i (ewmResult v o)) := by
  simp only [ewmBody, acOf_eq hi, ewmAcc, h, AccState.next]
  rfl

theorem ewmCheck_cols {v : View} {sl : Slot} {o : MxOps} (h : ewmCheck v sl o = none) : Desc.cols (v.desc o.tdb) ≤ 4096 := by
  have hsize := firstReason_eq_none.mp h (decide (4096 < Desc.rows (v.desc o.tdb)) || decide (4096 < Desc.cols (v.desc o.tdb)), 5)
    (.tail _ (.tail _ (.tail _ (.tail _ (.tail _ (.head _))))))
  simp at hsize
  omega

theorem relBody_of_ready {v : View} {sl : Slot} {o : MxOps} {b : Build} {i : Fin 2} (hi : o.ac.val = i.val)
    (h : v.ctx.ac[i].state = .ready) : relBody v sl o b = .ok (b.setAcc i { v.ctx.ac[i] with state := .free }) := by
  simp only [relBody, acOf_eq hi, relAcc, h, AccState.next]

/-! ### PLD (R38, R41) -/

theorem pldBody_of_empty {v : View} {sl : Slot} {o : MxOps} {b : Build} (h : v.ctx.shadow = none) :
    pldBody v sl o b = .ok { b with
      ctx := { b.ctx with shadow := some (loadPlane v (v.desc o.tda)) }, load := some (loadPlane v (v.desc o.tda)) } := by
  rw [pldBody, h]
  rfl

theorem pldCheck_cols {v : View} {sl : Slot} {o : MxOps} (h : pldCheck v sl o = none) : Desc.cols (v.desc o.tda) ≤ 4096 := by
  have hsize := firstReason_eq_none.mp h _ (.tail _ (.head _))
  simp at hsize
  omega

theorem loadPlane_at {v : View} {d : Desc} {k n : Nat} (hcols : Desc.cols d ≤ 4096) (hk : k < Desc.rows d) (hn : n < Desc.cols d) :
    (loadPlane v d).at k n = v.elem d k n := spGet_spSetAll_region (f := v.elem d) hcols hk hn

/-! ### MM (R38-R40) -/

/-- What MM's check finds of its operand's format. -/
theorem mmCheck_fmt {v : View} {sl : Slot} {o : MxOps} (h : mmCheck v sl o = none) : ∃ f, Desc.fmt (v.desc o.tdb) = some f := by
  have hdesc : (badDesc v (v.desc o.tdb)).1 = false :=
    firstReason_eq_none.mp h _ (List.mem_append_left _ (.tail _ (.tail _ (.head _))))
  exact Plan.fmt_of_descOk (p := v.plan) (by simpa [badDesc] using hdesc)

/-- The results of a pass by cell. -/
def passCells (v : View) (o : MxOps) (f : Fmt) (a : Acc) : List (Nat × W32 × Option Nat) :=
  (region 0 0 (Desc.rows (v.desc o.tdb)) (passPlane v.ctx).n).map fun x =>
    (cellKey x.1 x.2, passElem v (v.desc o.tdb) f (passPlane v.ctx) o a x.1 x.2)

/-- The accumulator that a pass leaves. -/
def passResult (v : View) (o : MxOps) (f : Fmt) (a : Acc) : Acc :=
  { state := if o.last then .ready else .opened
    cells := spSetAll 0 [] ((passCells v o f a).map fun x => (x.1, x.2.1))
    winner := if o.idx then
      spSetAll 0xFFFFFFFF [] ((passCells v o f a).filterMap fun x => x.2.2.map fun k => (x.1, BitVec.ofNat 32 k)) else []
    m := Desc.rows (v.desc o.tdb), n := (passPlane v.ctx).n, opr := o.opr, idx := o.idx
    ks := (if o.init then [] else a.ks) ++ [(passPlane v.ctx).k] }

/-- A pass of the accumulation's own shape, or its first one, finds its accumulator in order (R39, R40). -/
theorem mmAcc_eq {p : Plane} {d : Desc} {o : MxOps} {a : Acc} (hstate : a.state = if o.init then .free else .opened)
    (hshape : o.init = false → a.m = Desc.rows d ∧ a.n = p.n ∧ a.opr = o.opr ∧ a.idx = o.idx) :
    mmAcc p d o a = .ok
      { state := if o.last then .ready else .opened, cells := [], winner := [], m := Desc.rows d, n := p.n, opr := o.opr
        idx := o.idx, ks := (if o.init then [] else a.ks) ++ [p.k] } := by
  unfold mmAcc
  cases hinit : o.init with
  | true => simp [hstate, hinit, AccState.next]
  | false =>
    obtain ⟨hm, hn, hopr, hidx⟩ := hshape hinit
    simp [hstate, hinit, AccState.next, hm, hn, hopr, hidx]

theorem mmBody_eq {v : View} {sl : Slot} {o : MxOps} {b : Build} {i : Fin 2} {f : Fmt} (hi : o.ac.val = i.val)
    (hf : Desc.fmt (v.desc o.tdb) = some f) (hstate : v.ctx.ac[i].state = if o.init then .free else .opened)
    (hshape : o.init = false → v.ctx.ac[i].m = Desc.rows (v.desc o.tdb) ∧ v.ctx.ac[i].n = (passPlane v.ctx).n ∧
      v.ctx.ac[i].opr = o.opr ∧ v.ctx.ac[i].idx = o.idx) :
    mmBody v sl o b = .ok { b with
      ctx := { b.ctx with ac := b.ctx.ac.set i (passResult v o f v.ctx.ac[i]), active := passPlane v.ctx, shadow := none }
      pass := some (passOut (v.desc o.tdb) f (passPlane v.ctx) (Desc.rows (v.desc o.tdb))
        ((passCells v o f v.ctx.ac[i]).map fun x => (x.1, x.2.1)) v.ctx.shadow.isSome) } := by
  simp only [mmBody, acOf_eq hi, mmAcc_eq hstate hshape, hf]
  rfl

end Sys2Proof.Machine

open Sys2Proof.Machine

/-- Settles O11: by the accumulator that each leaves. -/
theorem productAndReleaseUpdateAccumulator : Obligations.ProductAndReleaseUpdateAccumulator := by
  unfold Obligations.ProductAndReleaseUpdateAccumulator
  intro s sl o r b i hi v x e
  refine ⟨fun h hfree => ?ewm, fun h hready => ?rel⟩
  case ewm =>
    have hcols := ewmCheck_cols (v := v) (sl := sl) (o := o) h.valid
    have hsame := Build.setAcc_same { b with pos := 0 } i (ewmResult v o)
    refine ⟨_, h.leaves rfl (ewmBody_of_free hi hfree), congrArg Acc.state hsame, congrArg Acc.m hsame, congrArg Acc.n hsame,
      fun m n hm hn => ?_, fun j hj => Build.setAcc_other { b with pos := 0 } (ewmResult v o) hj, rfl⟩
    refine (congrArg (fun a => spGet 0 a.cells (cellKey m n)) hsame).trans ?_
    exact spGet_spSetAll_region (f := fun m n => toF32 ((rne32 (v.value x m n)).mul (rne32 (v.value e m n)))) hcols hm hn
  case rel =>
    have hsame := Build.setAcc_same { b with pos := 0 } i { r.ctx.ac[i] with state := .free }
    have hother := fun j hj => Build.setAcc_other { b with pos := 0 } (i := i) (j := j) { r.ctx.ac[i] with state := .free } hj
    exact ⟨_, h.leaves rfl (relBody_of_ready hi hready), hsame, hother, rfl⟩

/-- Settles O10: by the plane that PLD loads and the accumulator that a pass leaves. -/
theorem planeLoadAndPassUpdateArray : Obligations.PlaneLoadAndPassUpdateArray := by
  unfold Obligations.PlaneLoadAndPassUpdateArray
  intro s sl o r b v
  refine ⟨fun h hempty => ?pld, fun i hi h hstate hshape => ?mm⟩
  case pld =>
    have hcols := pldCheck_cols (sl := sl) h.valid
    exact ⟨_, loadPlane v (v.desc o.tda), h.leaves rfl (pldBody_of_empty hempty), rfl, rfl, rfl, rfl,
      fun k n hk hn => loadPlane_at hcols hk hn, rfl⟩
  case mm =>
    obtain ⟨f, hf⟩ := mmCheck_fmt (sl := sl) h.valid
    have hsame := Build.setAcc_same { b with pos := 0 } i (passResult v o f r.ctx.ac[i])
    have hother := fun j hj => Build.setAcc_other { b with pos := 0 } (i := i) (j := j) (passResult v o f r.ctx.ac[i]) hj
    refine ⟨_, f, hf, h.leaves rfl (mmBody_eq hi hf hstate hshape), congrArg Acc.state hsame, congrArg Acc.m hsame,
      congrArg Acc.n hsame, congrArg Acc.opr hsame, congrArg Acc.idx hsame, congrArg Acc.ks hsame, fun hn4096 m n hm hn => ?_,
      hother, ⟨_, rfl, rfl, rfl, rfl⟩, rfl⟩
    refine (congrArg (fun a => spGet 0 a.cells (cellKey m n)) hsame).trans ?_
    rw [passResult, passCells, List.map_map]
    exact spGet_spSetAll_region (f := fun m n => (passElem v (v.desc o.tdb) f (passPlane v.ctx) o r.ctx.ac[i] m n).1) hn4096 hm hn
end

section
/-! What a slot with a false predicate leaves of its bundle (R24). -/

namespace Sys2Proof.Machine

/-- A slot's command issues its operation into the bundle (R22). -/
theorem exec_issues {i : Instr} {sl : Slot} {pos : SlotPos} (hsl : slotOf i = some sl) (hpos : slotPosOf i = some pos) (s : State) :
    ∃ body, exec i s = .next (s.issue i sl pos body) := by
  unfold slotOf at hsl
  split at hsl <;> cases hsl <;> cases hpos <;> exact ⟨_, rfl⟩

/-- A slot under a false predicate joins its bundle (R24). -/
theorem State.issue_skips {s : State} {i : Instr} {sl : Slot} {pos : SlotPos} {r : Running} {b : Build}
    (hopen : s.slotOpen sl pos = some (r, b)) (hany : anyPred i = false) (hpred : (r.ctx.predOf sl).val = false)
    (body : View → Build → Except SlotFail Build) : s.issue i sl pos body = s.slotDone sl.part r sl.more
      (skippedMark (s.view sl.part r) i { slotPlanned (s.view sl.part r) i b with pos := pos.num }) := by
  have hacts : (anyPred i || ((s.view sl.part r).ctx.predOf sl).val) = false := by rw [hany]; exact hpred
  simp only [State.issue, hopen, hacts, Bool.false_eq_true, if_false]

/-! ### What a slot plans whatever its predicate (R26, R120) -/

/-- A bundle that differs from another at most in the classes of scalars and predicates and in the queue's static shape. -/
def SamePlanned (b b' : Build) : Prop :=
  ∃ sc pr all, b' = { b with ctx := { b.ctx with s := sc, p := pr, ftqAll := all } } ∧
    (∀ k : Fin 64, sc[k].val = b.ctx.s[k].val) ∧ ∀ k : Fin 16, pr[k].val = b.ctx.p[k].val

theorem SamePlanned.rfl {b : Build} : SamePlanned b b := ⟨_, _, _, Eq.refl b, fun _ => Eq.refl _, fun _ => Eq.refl _⟩

theorem samePlanned_taintS (v : View) (sl : Slot) (d : Fin 64) (b : Build) : SamePlanned b (taintS v sl d b) := by
  refine ⟨_, b.ctx.p, b.ctx.ftqAll, taintS_eq v sl d b, fun k => ?_, fun _ => rfl⟩
  by_cases hk : k = d
  · subst hk
    unfold taintS
    split
    · rw [Ctx.setS_get]
      split <;> rfl
    · rfl
  · rw [taintS_stands v sl (.inl hk)]

theorem samePlanned_taintP (v : View) (sl : Slot) (d : Fin 16) (b : Build) : SamePlanned b (taintP v sl d b) := by
  refine ⟨b.ctx.s, _, b.ctx.ftqAll, taintP_eq v sl d b, fun _ => rfl, fun k => ?_⟩
  by_cases hk : k = d
  · subst hk
    unfold taintP
    split
    · rw [Ctx.setP_get]
      split <;> rfl
    · rfl
  · rw [taintP_stands v sl (.inl hk)]

theorem samePlanned_ftqPop (v : View) (sl : Slot) (b : Build) : SamePlanned b (ftqPop v sl b) := by
  obtain ⟨all, h⟩ := ftqPop_eq v sl b
  exact ⟨b.ctx.s, b.ctx.p, all, h, fun _ => rfl, fun _ => rfl⟩

theorem samePlanned_ftqPush (v : View) (sl : Slot) (o : MxOps) (b : Build) : SamePlanned b (ftqPush v sl o b) := by
  unfold ftqPush
  split
  · exact ⟨b.ctx.s, b.ctx.p, _, rfl, fun _ => rfl, fun _ => rfl⟩
  · exact .rfl

theorem slotPlanned_same (v : View) (i : Instr) (b : Build) : SamePlanned b (slotPlanned v i b) := by
  unfold slotPlanned
  split
  · exact samePlanned_ftqPush ..
  · exact samePlanned_ftqPop ..
  · exact samePlanned_taintS ..
  · exact samePlanned_taintP ..
  · exact samePlanned_taintS ..
  · exact samePlanned_taintS ..
  · exact samePlanned_taintP ..
  · exact samePlanned_taintP ..
  · exact .rfl

/-! ### The mark of a skipped VOPT (R166) -/

/-- A skipped slot adds to the monitor at most that it was a VOPT. -/
theorem skippedMark_eq {i : Instr} {sl : Slot} (hsl : slotOf i = some sl) (v : View) (b : Build) :
    ∃ mon, skippedMark v i b = { b with mon := mon } ∧ ((∀ o, i ≠ .vopt sl o) → mon = b.mon) ∧
      ∀ o, i = .vopt sl o → mon = b.mon ++ [.skipped v.ctx.layer] := by
  unfold skippedMark
  split
  · cases hsl
    exact ⟨_, rfl, fun h => absurd rfl (h _), fun _ _ => rfl⟩
  · next hne => exact ⟨_, rfl, fun _ => rfl, fun o h => absurd h (hne sl o)⟩

end Sys2Proof.Machine

open Sys2Proof.Machine

/-- Settles O21: the slot joins its bundle with what it plans whatever its predicate, and a VOPT with its mark. -/
theorem falsePredicateHasNoEffect : Obligations.FalsePredicateHasNoEffect := by
  unfold Obligations.FalsePredicateHasNoEffect
  intro s i sl pos r b hsl hpos hopen hany hpred
  obtain ⟨body, hexec⟩ := exec_issues hsl hpos s
  obtain ⟨sc, pr, all, hplanned, hs, hp⟩ := slotPlanned_same (s.view sl.part r) i b
  rw [hexec, State.issue_skips hopen hany hpred, hplanned]
  obtain ⟨mon, hmark, hne, hvopt⟩ := skippedMark_eq hsl (s.view sl.part r)
    { b with pos := pos.num, ctx := { b.ctx with s := sc, p := pr, ftqAll := all } }
  refine ⟨_, congrArg (fun b => Host.Outcome.next (s.slotDone sl.part r sl.more b)) hmark, hne, hvopt, ?_⟩
  exact ⟨rfl, rfl, rfl, rfl, rfl, rfl, rfl, rfl, rfl, rfl, rfl, rfl, rfl, rfl, rfl, rfl, rfl, rfl, hs, hp⟩
end

section
/-! What EMIT leaves of each of its rows (R47, R149, R416). -/

namespace Sys2Proof.Machine

/-! ### Lists by key -/

/-- A filter that keeps a key's entries keeps the value there. -/
theorem find?_filter_key {α : Type} {p : Nat × α → Bool} {j : Nat} (hp : ∀ y, p (j, y) = true) (m : List (Nat × α)) :
    (m.filter p).find? (fun e => e.1 = j) = m.find? fun e => e.1 = j := by
  rw [List.find?_filter]
  congr 1
  funext ⟨k, y⟩
  by_cases hk : k = j
  · subst hk
    simp [hp]
  · simp [hk]

theorem find?_filter_none {α : Type} {p : Nat × α → Bool} {j : Nat} (hp : ∀ y, p (j, y) = false) (m : List (Nat × α)) :
    (m.filter p).find? (fun e => e.1 = j) = none := by
  rw [List.find?_eq_none]
  rintro ⟨k, y⟩ he hk
  obtain rfl : k = j := by simpa using hk
  simp [hp] at he

theorem alGet_alPut_same {α : Type} (m : List (Nat × α)) (k : Nat) (x : α) : alGet (alPut m k x) k = some x := by
  rw [alGet, alPut, List.find?_append, find?_filter_none (by simp)]
  simp

theorem alGet_alPut_ne {α : Type} (m : List (Nat × α)) {j k : Nat} (h : j ≠ k) (x : α) : alGet (alPut m k x) j = alGet m j := by
  rw [alGet, alPut, List.find?_append, List.find?_cons_of_neg (by simpa using h.symm)]
  obtain hlt | hgt := Nat.lt_or_gt_of_ne h
  · rw [find?_filter_key fun _ => by simpa using hlt, find?_filter_none (by simp; omega), Option.or_none]
    rfl
  · rw [find?_filter_none (by simp; omega), find?_filter_key fun _ => by simpa using hgt, Option.none_or]
    rfl

/-- The entries at a key put there: the value put. -/
theorem eq_of_mem_alPut {α : Type} {m : List (Nat × α)} {k : Nat} {x y : α} (h : (k, y) ∈ alPut m k x) : y = x := by
  simpa [alPut] using h

theorem mem_alPut {α : Type} (m : List (Nat × α)) (k : Nat) (x : α) : (k, x) ∈ alPut m k x := by simp [alPut]

/-- Values put at keys, all of those at one key the same: that one stands there. -/
theorem alGet_foldl_alPut {α : Type} {k : Nat} {x : α} (l : List (Nat × α)) (hall : ∀ e ∈ l, e.1 = k → e.2 = x)
    (m : List (Nat × α)) (h : (k, x) ∈ l ∨ alGet m k = some x) : alGet (l.foldl (fun m e => alPut m e.1 e.2) m) k = some x := by
  induction l generalizing m with
  | nil => exact h.resolve_left (by simp)
  | cons e l ih =>
    refine ih (fun e' he' => hall e' (.tail _ he')) _ ?_
    by_cases hk : e.1 = k
    · refine .inr ?_
      rw [← hall e (.head _) hk, ← hk]
      exact alGet_alPut_same ..
    · exact h.imp (fun hmem => (List.mem_cons.mp hmem).resolve_left fun he => hk (congrArg Prod.fst he).symm)
        (alGet_alPut_ne m (Ne.symm hk) e.2).trans

/-! ### One row (R416) -/

section
variable (v : View) (o : MvOps) (i : Nat) (qs : List (Nat × ReqSlot))

/-- The slot that a row names, and its token. -/
def emitSlot : Int := (v.buf o.ix i 0).toInt
def emitTok : W32 := v.buf o.v i 0

/-- The log entry of a row that EMIT does not send (R416). -/
def emitLog (cause : Nat) : Effect :=
  .log 0x0060 3 (BitVec.ofNat 64 (v.ctx.pc * 2 ^ 32 + i)) (BitVec.ofInt 64 (emitSlot v o i))
    (BitVec.ofNat 64 ((emitTok v o i).toNat * 2 ^ 32 + (v.buf o.v i 1).toNat)) (BitVec.ofNat 64 cause)

/-- The token entry of a row. -/
def emitEntry (q : ReqSlot) : ResEntry :=
  tokenEntry v q (emitSlot v o i).toNat (emitTok v o i) (v.buf o.v i 1) ((v.buf o.v i 2).setWidth 8)

/-- The rows of EMIT one by one. -/
theorem emitRows_cons (is : List Nat) : emitRows v o (i :: is) qs =
    ((emitRows v o is (emitRows v o [i] qs).1).1, (emitRows v o [i] qs).2 ++ (emitRows v o is (emitRows v o [i] qs).1).2) := by
  simp only [emitRows]
  split
  · rfl
  · split <;> rfl

variable {v o i qs}

theorem emitRows_negative (h : emitSlot v o i < 0) : emitRows v o [i] qs = (qs, []) := if_pos h

theorem emitRows_logged {cause : Nat} (h : 0 ≤ emitSlot v o i)
    (hout : emitOut v (alGet qs (emitSlot v o i).toNat) (emitTok v o i) = .logged cause) :
    emitRows v o [i] qs = (qs, [emitLog v o i cause]) := by
  unfold emitSlot emitTok at *
  simp only [emitRows, asI32, Int.not_lt.mpr h, if_false, hout]
  rfl

theorem emitRows_nothing (h : 0 ≤ emitSlot v o i)
    (hout : emitOut v (alGet qs (emitSlot v o i).toNat) (emitTok v o i) = .nothing) : emitRows v o [i] qs = (qs, []) := by
  unfold emitSlot emitTok at *
  simp only [emitRows, asI32, Int.not_lt.mpr h, if_false, hout]

theorem emitRows_token {q : ReqSlot} (h : 0 ≤ emitSlot v o i) (hq : alGet qs (emitSlot v o i).toNat = some q)
    (hout : emitOut v (some q) (emitTok v o i) = .token) :
    emitRows v o [i] qs = (if q.finish.isSome then alPut qs (emitSlot v o i).toNat { q with finalFormed := true } else qs,
      [.token (emitEntry v o i q)]) := by
  unfold emitSlot emitTok at *
  simp only [emitRows, asI32, Int.not_lt.mpr h, if_false, hq, hout]
  rfl

end

/-! ### R416's table -/

theorem emitOut_served {v : View} {q : ReqSlot} {tok : W32} (h : v.served q = true) : emitOut v (some q) tok =
    if tok.toInt < 0 then .nothing else if q.finalFormed then .logged 2 else .token := by
  unfold emitOut
  dsimp only
  rw [h]
  rfl

theorem emitOut_unserved {v : View} {q : ReqSlot} {tok : W32} (h : v.served q = false) : emitOut v (some q) tok = .logged 1 := by
  simp [emitOut, h]

/-- A token is sent for a request that the step serves, and is not negative. -/
theorem of_emitOut_token {v : View} {q : Option ReqSlot} {tok : W32} (h : emitOut v q tok = .token) :
    ∃ q', q = some q' ∧ v.served q' = true ∧ 0 ≤ tok.toInt := by
  cases q with
  | none => cases h
  | some q =>
    cases hs : v.served q with
    | false => rw [emitOut_unserved hs] at h; cases h
    | true =>
      rw [emitOut_served hs] at h
      split at h
      · cases h
      · next htok => exact ⟨q, rfl, hs, Int.not_lt.mp htok⟩

/-- The effects of one row: none, a log entry, or the token of a request that the step serves. -/
theorem emitRows_row_effects (v : View) (o : MvOps) (i : Nat) (qs : List (Nat × ReqSlot)) :
    (emitRows v o [i] qs).2 = [] ∨ (∃ cause, (emitRows v o [i] qs).2 = [emitLog v o i cause]) ∨
      ∃ q, 0 ≤ emitSlot v o i ∧ v.served q = true ∧ 0 ≤ (emitTok v o i).toInt ∧
        (emitRows v o [i] qs).2 = [.token (emitEntry v o i q)] := by
  obtain hneg | hpos := Int.lt_or_le (emitSlot v o i) 0
  · exact .inl (by rw [emitRows_negative hneg])
  · cases hout : emitOut v (alGet qs (emitSlot v o i).toNat) (emitTok v o i) with
    | nothing => exact .inl (by rw [emitRows_nothing hpos hout])
    | logged cause => exact .inr (.inl ⟨cause, by rw [emitRows_logged hpos hout]⟩)
    | token =>
      obtain ⟨q, hq, hserved, htok⟩ := of_emitOut_token hout
      exact .inr (.inr ⟨q, hpos, hserved, htok, by rw [emitRows_token hpos hq (hq ▸ hout)]⟩)

/-- The effects of several rows: at most one each, and of tokens only those of requests that the step serves. -/
theorem emitRows_effects (v : View) (o : MvOps) (is : List Nat) (qs : List (Nat × ReqSlot)) :
    (emitRows v o is qs).2.length ≤ is.length ∧
      ∀ e, Effect.token e ∈ (emitRows v o is qs).2 → ∃ i q, i ∈ is ∧ 0 ≤ emitSlot v o i ∧ v.served q = true ∧
        0 ≤ (emitTok v o i).toInt ∧ e = emitEntry v o i q := by
  induction is generalizing qs with
  | nil => exact ⟨Nat.le_refl 0, fun e he => by cases he⟩
  | cons i is ih =>
    obtain ⟨hlen, htokens⟩ := ih (emitRows v o [i] qs).1
    rw [emitRows_cons]
    have hrest : ∀ e, Effect.token e ∈ (emitRows v o is (emitRows v o [i] qs).1).2 → ∃ j q, j ∈ i :: is ∧ 0 ≤ emitSlot v o j ∧
        v.served q = true ∧ 0 ≤ (emitTok v o j).toInt ∧ e = emitEntry v o j q := fun e he =>
      have ⟨j, q, hj, h⟩ := htokens e he
      ⟨j, q, .tail _ hj, h⟩
    rcases emitRows_row_effects v o i qs with h | ⟨cause, h⟩ | ⟨q, hpos, hserved, htok, h⟩
    · rw [h]
      exact ⟨Nat.le_succ_of_le hlen, hrest⟩
    · rw [h]
      refine ⟨Nat.succ_le_succ hlen, fun e he => ?_⟩
      cases he with
      | tail _ he => exact hrest e he
    · rw [h]
      refine ⟨Nat.succ_le_succ hlen, fun e he => ?_⟩
      cases he with
      | head => exact ⟨i, q, .head _, hpos, hserved, htok, rfl⟩
      | tail _ he => exact hrest e he

/-! ### The requests as the bundle leaves them -/

/-- A request with its final entry formed stands so as the bundle retires. -/
theorem requests_formed {b : Build} {v : View} {k : Nat} {q : ReqSlot} (hq : alGet (b.requests v) k = some q)
    (hformed : q.finalFormed = false) :
    alGet (Build.requests { b with
      slots := b.slots ++ (alPut (b.requests v) k { q with finalFormed := true }).filter fun x =>
        decide (alGet (b.requests v) x.1 ≠ some x.2) } v) k = some { q with finalFormed := true } := by
  have hne : some q ≠ some { q with finalFormed := true } := fun h => by
    rw [Option.some.inj h] at hformed
    cases hformed
  rw [Build.requests, List.foldl_append]
  refine alGet_foldl_alPut _ (fun e he hk => ?_) _ (.inl (List.mem_filter.mpr ⟨mem_alPut .., ?_⟩))
  · subst hk
    exact eq_of_mem_alPut (List.mem_of_mem_filter he)
  · exact decide_eq_true (hq ▸ hne)

theorem range_rows_one {n : BitVec 13} (h : n = 1) : List.range n.toNat = [0] := by
  rw [h]
  rfl

theorem emitEntry_slot {v : View} {o : MvOps} {i : Nat} (h : 0 ≤ emitSlot v o i) (q : ReqSlot) :
    (emitEntry v o i q).slot = BitVec.ofInt 16 (emitSlot v o i) := by
  obtain ⟨n, hn⟩ := Int.eq_ofNat_of_zero_le h
  rw [emitEntry, hn]
  exact (BitVec.ofInt_natCast 16 n).symm

theorem emitLog_zero (v : View) (o : MvOps) (cause : Nat) : emitLog v o 0 cause = .log 0x0060 3 (BitVec.ofNat 64 (v.ctx.pc * 2 ^ 32))
    (BitVec.ofInt 64 (emitSlot v o 0)) (BitVec.ofNat 64 ((emitTok v o 0).toNat * 2 ^ 32 + (v.buf o.v 0 1).toNat))
    (BitVec.ofNat 64 cause) := by
  rw [emitLog, Nat.add_zero]

theorem emitEntry_unfinished {v : View} {o : MvOps} {i : Nat} {q : ReqSlot} (h : q.finish = none) :
    (emitEntry v o i q).stop = 0 ∧ (emitEntry v o i q).rflags = 0 := by
  simp [emitEntry, tokenEntry, h]

theorem emitEntry_finished {v : View} {o : MvOps} {i : Nat} {q : ReqSlot} {why d : Nat} (h : q.finish = some (why, d)) :
    (emitEntry v o i q).stop = BitVec.ofNat 8 (16 * why + d) ∧ (emitEntry v o i q).rflags = 1 := by
  simp [emitEntry, tokenEntry, h]

end Sys2Proof.Machine

open Sys2Proof.Machine

/-- Settles O16: the effects of all rows by those of each; one row by R416's table. -/
theorem emitForwardsTokens : Obligations.EmitForwardsTokens := by
  unfold Obligations.EmitForwardsTokens
  intro s sl o r b h v slots slot tok
  have hbody : emitBody v sl o { b with pos := 4 } = .ok { b with
      pos := 4
      slots := b.slots ++ (emitRows v o (List.range o.rows.toNat) slots).1.filter fun x => decide (alGet slots x.1 ≠ some x.2)
      effects := b.effects ++ (emitRows v o (List.range o.rows.toNat) slots).2 } := rfl
  obtain ⟨hlen, htokens⟩ := emitRows_effects v o (List.range o.rows.toNat) slots
  refine ⟨_, _, h.leaves rfl hbody, rfl, by simpa using hlen, fun e he => ?tokens, fun hrows hneg => ?negative,
    fun hrows hpos => ?one⟩
  case tokens =>
    obtain ⟨i, q, hi, hpos, hserved, htok, rfl⟩ := htokens e he
    exact ⟨i, q, List.mem_range.mp hi, hpos, emitEntry_slot hpos q, rfl, htok, rfl, hserved⟩
  case negative =>
    rw [range_rows_one hrows, emitRows_negative (v := v) (o := o) (i := 0) hneg]
  case one =>
    intro logged
    have hlogged : ∀ cause, emitOut v (alGet slots (slot 0).toNat) (tok 0) = .logged cause →
        logged (BitVec.ofNat 64 cause) := fun cause hout => by
      refine Eq.trans ?_ (congrArg (fun e => [e]) (emitLog_zero v o cause))
      rw [range_rows_one hrows, emitRows_logged (v := v) (o := o) (i := 0) hpos hout]
    refine ⟨fun hfree => hlogged 3 (by rw [hfree]; rfl), fun q hq => ⟨fun hserved => ?_, fun hserved htok => ?_,
      fun hserved htok hformed => ?_, fun hserved htok hformed => ?_⟩⟩
    · exact hlogged 1 (by rw [hq, emitOut_unserved hserved])
    · have hout : emitOut v (alGet slots (slot 0).toNat) (tok 0) = .nothing := by
        rw [hq, emitOut_served hserved, if_pos htok]
      rw [range_rows_one hrows, emitRows_nothing (v := v) (o := o) (i := 0) hpos hout]
    · exact hlogged 2 (by rw [hq, emitOut_served hserved, if_neg (Int.not_lt.mpr htok), if_pos hformed])
    · have hout : emitOut v (some q) (tok 0) = .token := by
        rw [emitOut_served hserved, if_neg (Int.not_lt.mpr htok), hformed]
        rfl
      have hrow := emitRows_token (v := v) (o := o) (i := 0) hpos hq hout
      have hslot := emitEntry_slot (v := v) (o := o) (i := 0) hpos q
      rw [range_rows_one hrows, hrow]
      refine ⟨⟨emitEntry v o 0 q, rfl, rfl, rfl, rfl, rfl, rfl, rfl, rfl, hslot, rfl, rfl, rfl, emitEntry_unfinished,
        fun why d hq => emitEntry_finished hq⟩, fun hfinish => ?_⟩
      rw [if_pos (Option.isSome_iff_ne_none.mpr hfinish)]
      exact requests_formed (b := b) hq hformed
end

section
/-! An element stored in a tenant's window and read back (R414). -/

namespace Sys2Proof.Machine

/-! ### Writes to sound memory -/

theorem Mem.byte_apply_same (m : Mem) (w : MemWrite) : (m.apply w).byte w.addr = (m.byte w.addr &&& ~~~w.mask) ||| (w.val &&& w.mask) :=
  Mem.byte_put_same

theorem Mem.byte_apply_whole (m : Mem) (a : PAddr) (x : Byte) : (m.apply ⟨a, 0xFF, x⟩).byte a = x := by
  have hmask : (0xFF : Byte) = BitVec.allOnes 8 := rfl
  rw [Mem.byte_apply_same, hmask]
  simp only [BitVec.not_allOnes, BitVec.and_zero, BitVec.zero_or, BitVec.and_allOnes]

/-- Whole bytes written at consecutive addresses stand there. -/
theorem Mem.byte_foldl_apply_range {t1 : Bool} {a : Nat} {f : Nat → Byte} {n i : Nat} (hi : i < n) (m : Mem) :
    (((List.range n).map fun k => (⟨(t1, a + k), 0xFF, f k⟩ : MemWrite)).foldl Mem.apply m).byte (t1, a + i) = f i := by
  induction n with
  | zero => omega
  | succ n ih =>
    rw [List.range_succ, List.map_append, List.foldl_append]
    simp only [List.map_cons, List.map_nil, List.foldl_cons, List.foldl_nil]
    by_cases h : i = n
    · subst h
      exact Mem.byte_apply_whole ..
    · rw [Mem.apply, Mem.byte_put_ne (by simp [h]), ih (by omega)]

/-- The low bytes of a number spell its remainder. -/
theorem leNat_range (n x : Nat) : leNat ((List.range n).map fun i => BitVec.ofNat 8 (x / 256 ^ i)) = x % 256 ^ n := by
  induction n generalizing x with
  | zero => simp [leNat, Nat.mod_one]
  | succ n ih =>
    have hrest : (fun i => BitVec.ofNat 8 (x / 256 ^ (i + 1))) = fun i => BitVec.ofNat 8 (x / 256 / 256 ^ i) := by
      funext i
      rw [Nat.pow_succ', Nat.div_div_eq_div_mul]
    rw [List.range_succ_eq_map, List.map_cons, List.map_map, leNat]
    simp only [Function.comp_def, Nat.succ_eq_add_one, hrest, ih, BitVec.toNat_ofNat, pow_zero, Nat.div_one]
    have hpow : 256 ^ (n + 1) = 256 * 256 ^ n := Nat.pow_succ'
    rw [hpow, Nat.mod_mul]

/-! ### Bytes of a window (R333) -/

/-- The addresses of consecutive bytes of a window are consecutive, in one tier. -/
theorem Tenant.winAddr_range {t : Tenant} {w : Fin 16} {k n : Nat} (hn : 0 < n)
    (h : ∀ i, i < n → (t.winAddr w (k + i)).isSome = true) : ∃ t1 a, ∀ i, i < n → t.winAddr w (k + i) = some (t1, a + i) := by
  unfold Tenant.winAddr at h ⊢
  cases htier : t.windows[w].tier with
  | none =>
    have h0 := h 0 hn
    rw [htier] at h0
    cases h0
  | some t1 =>
    refine ⟨t1, t.windows[w].base.toNat + k, fun i hi => ?_⟩
    have hin := h i hi
    simp only [htier] at hin ⊢
    split at hin
    · next hlt => rw [if_pos hlt, Nat.add_assoc]
    · cases hin

/-! ### Elements of whole bytes -/

theorem Tenant.elemWrites_bytes {t : Tenant} {w : Fin 16} {woff off : Nat} {f : Fmt} (hf : f ≠ .fp4) {t1 : Bool} {a : Nat}
    (h : ∀ i, i < f.bits / 8 → t.winAddr w (woff + f.bits / 8 * off + i) = some (t1, a + i)) (x : W32) :
    t.elemWrites w woff f off x =
      (List.range (f.bits / 8)).map fun i => ⟨(t1, a + i), 0xFF, BitVec.ofNat 8 (x.toNat / 256 ^ i)⟩ := by
  have hwrites : t.elemWrites w woff f off x = (List.range (f.bits / 8)).filterMap fun i =>
      (t.winAddr w (woff + f.bits / 8 * off + i)).map fun a => ⟨a, 0xFF, BitVec.ofNat 8 (x.toNat / 256 ^ i)⟩ := by
    cases f with
    | fp4 => exact absurd rfl hf
    | _ => rfl
  rw [hwrites, ← List.filterMap_eq_map]
  refine List.filterMap_congr fun i hi => ?_
  rw [h i (List.mem_range.mp hi)]
  rfl

theorem Tenant.elemBits_bytes {t : Tenant} {w : Fin 16} {woff off : Nat} {f : Fmt} (hf : f ≠ .fp4) {t1 : Bool} {a : Nat}
    (h : t.winAddr w (woff + f.bits / 8 * off + (f.bits / 8 - 1)) = some (t1, a)) (m : Mem) :
    t.elemBits m w woff f off = BitVec.ofNat 32 (leNat (m.read (t1, a + 1 - f.bits / 8) (f.bits / 8))) := by
  cases f with
  | fp4 => exact absurd rfl hf
  | _ => simp only [Tenant.elemBits, h]

theorem Fmt.bits_bytes {f : Fmt} (hf : f ≠ .fp4) : 0 < f.bits / 8 ∧ f.bits = 8 * (f.bits / 8) := by
  revert hf
  cases f <;> decide

/-- An element of whole bytes reads back. -/
theorem Tenant.elemBits_elemWrites_bytes {t : Tenant} {w : Fin 16} {woff off : Nat} {f : Fmt} (hf : f ≠ .fp4) {x : W32}
    (hx : x.toNat < 2 ^ f.bits) (h : ∀ i, i < f.bits / 8 → (t.winAddr w (woff + f.bits / 8 * off + i)).isSome = true) (m : Mem) :
    t.elemBits ((t.elemWrites w woff f off x).foldl Mem.apply m) w woff f off = x := by
  obtain ⟨hpos, hbits⟩ := Fmt.bits_bytes hf
  obtain ⟨t1, a, haddr⟩ := Tenant.winAddr_range hpos h
  rw [Tenant.elemWrites_bytes hf haddr, Tenant.elemBits_bytes hf (haddr _ (by omega))]
  have hstart : a + (f.bits / 8 - 1) + 1 - f.bits / 8 = a := by omega
  have hread : ∀ m' : Mem, (∀ i, i < f.bits / 8 → m'.byte (t1, a + i) = BitVec.ofNat 8 (x.toNat / 256 ^ i)) →
      m'.read (t1, a) (f.bits / 8) = (List.range (f.bits / 8)).map fun i => BitVec.ofNat 8 (x.toNat / 256 ^ i) :=
    fun m' hm => List.map_congr_left fun i hi => hm i (List.mem_range.mp hi)
  have hpow : 256 ^ (f.bits / 8) = 2 ^ f.bits := by
    conv_rhs => rw [hbits, Nat.pow_mul]
  rw [hstart, hread _ fun i hi => Mem.byte_foldl_apply_range hi m, leNat_range, hpow, Nat.mod_eq_of_lt hx]
  exact BitVec.ofNat_toNat ..

/-! ### FP4 elements: two to a byte -/

theorem nibble_low (b : Byte) {x : Nat} (hx : x < 16) :
    ((b &&& ~~~(0x0F : Byte)) ||| (BitVec.ofNat 8 (x % 16) &&& 0x0F)).toNat % 16 = x := by
  have hmask : (~~~(0x0F : Byte)).toNat % 2 ^ 4 = 0 := rfl
  have hx8 : (BitVec.ofNat 8 (x % 16)).toNat = x := by rw [BitVec.toNat_ofNat]; omega
  have hlow : x &&& 15 = x := (Nat.and_two_pow_sub_one_eq_mod x 4).trans (Nat.mod_eq_of_lt hx)
  rw [BitVec.toNat_or, BitVec.toNat_and, BitVec.toNat_and, hx8]
  refine (Nat.or_mod_two_pow (n := 4)).trans ?_
  rw [Nat.and_mod_two_pow, hmask, Nat.and_zero, Nat.zero_or, Nat.and_mod_two_pow, Nat.mod_eq_of_lt hx]
  exact hlow

theorem nibble_high (b : Byte) {x : Nat} (hx : x < 16) :
    ((b &&& ~~~(0xF0 : Byte)) ||| (BitVec.ofNat 8 (x % 16 * 16) &&& 0xF0)).toNat / 16 % 16 = x := by
  have hmask : (~~~(0xF0 : Byte)).toNat / 2 ^ 4 = 0 := rfl
  have hx8 : (BitVec.ofNat 8 (x % 16 * 16)).toNat = x * 16 := by rw [BitVec.toNat_ofNat]; omega
  have hlow : x &&& 15 = x := (Nat.and_two_pow_sub_one_eq_mod x 4).trans (Nat.mod_eq_of_lt hx)
  rw [BitVec.toNat_or, BitVec.toNat_and, BitVec.toNat_and, hx8]
  have hdiv : ((b.toNat &&& (~~~(0xF0 : Byte)).toNat) ||| (x * 16 &&& (0xF0 : Byte).toNat)) / 2 ^ 4 = x := by
    rw [Nat.or_div_two_pow, Nat.and_div_two_pow, hmask, Nat.and_zero, Nat.zero_or, Nat.and_div_two_pow,
      Nat.mul_div_cancel x (by decide)]
    exact hlow
  exact (congrArg (· % 16) hdiv).trans (Nat.mod_eq_of_lt hx)

theorem Tenant.elemBits_elemWrites_fp4 {t : Tenant} {w : Fin 16} {woff off : Nat} {x : W32} (hx : x.toNat < 16)
    (h : (t.winAddr w (woff + off / 2)).isSome = true) (m : Mem) :
    t.elemBits ((t.elemWrites w woff .fp4 off x).foldl Mem.apply m) w woff .fp4 off = x := by
  obtain ⟨a, ha⟩ := Option.isSome_iff_exists.mp h
  have hround : BitVec.ofNat 32 x.toNat = x := BitVec.ofNat_toNat ..
  simp only [Tenant.elemBits, Tenant.elemWrites, ha]
  obtain hoff | hoff := Nat.mod_two_eq_zero_or_one off
  · rw [if_pos hoff, hoff, List.foldl_cons, List.foldl_nil, Mem.byte_apply_same, pow_zero, Nat.div_one, nibble_low _ hx, hround]
  · rw [if_neg (by omega), hoff, List.foldl_cons, List.foldl_nil, Mem.byte_apply_same, pow_one, nibble_high _ hx, hround]

end Sys2Proof.Machine

open Sys2Proof.Machine

/-- Settles O15: elements of whole bytes by the bytes that spell them, FP4 elements by their half of a byte. -/
theorem storedElementReadsBack : Obligations.StoredElementReadsBack := by
  unfold Obligations.StoredElementReadsBack
  intro t m w woff off f x hsound hx h
  rw [Mem.applyAll, if_pos hsound]
  by_cases hf : f = .fp4
  · subst hf
    have hoff : off * Fmt.bits .fp4 / 8 = off / 2 := by simp only [Fmt.bits]; omega
    have haddr := h 0 (by decide)
    rw [hoff] at haddr
    exact Tenant.elemBits_elemWrites_fp4 hx haddr m
  · obtain ⟨hpos, hbits⟩ := Fmt.bits_bytes hf
    have hoff : off * f.bits / 8 = f.bits / 8 * off := by
      conv_lhs => rw [hbits]
      rw [Nat.mul_left_comm, Nat.mul_div_cancel_left _ (by decide), Nat.mul_comm]
    refine Tenant.elemBits_elemWrites_bytes hf hx (fun i hi => ?_) m
    rw [← hoff]
    exact h i (by omega)
end

section
/-! How a bundle that ends no step retires (R22). -/

namespace Sys2Proof.Machine

/-! ### What the parts of a retirement leave as it was -/

theorem Running.array_keeps (r : Running) (b : Build) (now : Stamp) :
    (r.array b now).replayTo = r.replayTo ∧ (r.array b now).step = r.step ∧ (r.array b now).plan = r.plan := by
  unfold Running.array
  dsimp only
  split <;> split <;> exact ⟨rfl, rfl, rfl⟩

theorem Running.keepUndo_keeps (r : Running) (u : List (PAddr × Byte)) :
    (r.keepUndo u).replayTo = r.replayTo ∧ (r.keepUndo u).step = r.step ∧ (r.keepUndo u).plan = r.plan := by
  unfold Running.keepUndo
  split <;> exact ⟨rfl, rfl, rfl⟩

theorem Running.retire_keeps (r : Running) (b : Build) (ctx : Ctx) (undo : List (PAddr × Byte)) (now : Stamp) :
    (r.retire b ctx undo now).replayTo = r.replayTo ∧ (r.retire b ctx undo now).step = r.step ∧
      (r.retire b ctx undo now).plan = r.plan := by
  obtain ⟨hreplay, hstep, hplan⟩ := r.array_keeps b now
  obtain ⟨hreplay', hstep', hplan'⟩ := (r.array b now).keepUndo_keeps undo
  exact ⟨hreplay'.trans hreplay, hstep'.trans hstep, hplan'.trans hplan⟩

/-- The group of a number once what belongs to it has changed. -/
theorem Chip.group_modGroup {g : BitVec 12} {f : Group → Group} (hf : ∀ x, (f x).grp = x.grp) (c : Chip) :
    (c.modGroup g f).group g = (c.group g).map f := by
  unfold Chip.modGroup Chip.group
  dsimp only
  induction c.groups with
  | nil => rfl
  | cons x l ih =>
    by_cases h : x.grp = g
    · simp [h, hf]
    · simp [h, ih]

/-! ### The chip after a retirement -/

/-- The chip once a bundle's effects and those on its groups have come to stand. -/
def retireChip (c : Chip) (p : Fin 4) (r r' : Running) (b : Build) : Chip :=
  b.effects.foldl (fun c e => c.effect r e)
    (b.sqns.foldl (fun c g => c.modGroup g fun y => { y with sqn := y.sqn + 1 })
      ((c.setRun p (some r')).modTenant r.plan.tenant fun t => t.retire r b))

section
variable {β : Type} (c : Chip) (p : Fin 4) (r r' : Running) (b : Build)

/-- What effects and changes of groups keep, a retirement keeps but for its run and its tenant. -/
theorem retireChip_of_keeps (g : Chip → β) (heffect : ∀ c e, g (Chip.effect c r e) = g c)
    (hgroup : ∀ (c : Chip) (n : BitVec 12) f, g (c.modGroup n f) = g c) :
    g (retireChip c p r r' b) = g ((c.setRun p (some r')).modTenant r.plan.tenant fun t => t.retire r b) :=
  (foldl_keeps heffect _ _).trans (foldl_keeps (fun c n => hgroup c n _) _ _)

theorem retireChip_parts : (retireChip c p r r' b).parts = (c.setRun p (some r')).parts :=
  retireChip_of_keeps c p r r' b Chip.parts (by simp) (by simp)

theorem retireChip_tenants : (retireChip c p r r' b).tenants = vecMod c.tenants r.plan.tenant fun t => t.retire r b :=
  retireChip_of_keeps c p r r' b Chip.tenants (by simp) (by simp)

theorem retireChip_intc : (retireChip c p r r' b).intc = c.intc :=
  retireChip_of_keeps c p r r' b Chip.intc (by simp) (by simp)

theorem retireChip_mram : (retireChip c p r r' b).mram = c.mram :=
  retireChip_of_keeps c p r r' b Chip.mram (by simp) (by simp)

theorem retireChip_run : (retireChip c p r r' b).run p = some r' := by
  rw [Chip.run, retireChip_parts]
  exact Chip.setRun_run ..

theorem retireChip_run_ne {q : Fin 4} (h : q ≠ p) : (retireChip c p r r' b).run q = c.run q := by
  rw [Chip.run, retireChip_parts]
  exact Chip.setRun_run_ne _ _ _ h

/-- The groups are those whose SQN the bundle's collectives raise. -/
theorem retireChip_groups : (retireChip c p r r' b).groups =
    (b.sqns.foldl (fun c g => c.modGroup g fun y => { y with sqn := y.sqn + 1 })
      ((c.setRun p (some r')).modTenant r.plan.tenant fun t => t.retire r b)).groups :=
  foldl_keeps (g := Chip.groups) (by simp) _ _

end

/-- A plan that comes back from no replay ends none as it retires a bundle. -/
theorem Chip.replayCheck_of_none {c : Chip} {p : Fin 4} {r : Running} (hrun : c.run p = some r) (h : r.replayTo = none) :
    c.replayCheck p = c := by
  simp only [Chip.replayCheck, hrun, h]

/-- A bundle that ends no step, asks for no commit point and stays inside the program retires: memory and chip (R22). -/
theorem State.retire_plain {s : State} {p : Fin 4} {r : Running} {b : Build} (hbound : b.boundary = .none) (hcmt : b.cmt = false)
    (hreplay : r.replayTo = none) (hsound : s.mem.sound = true) (hpc : (b.ctx.advance b.flow).pc < r.plan.image.bundles.length) :
    s.retire p r b = { s with
      mem := s.mem.applyAll b.mem
      chip := retireChip s.chip p r (r.retire b (b.ctx.advance b.flow) (undoOf s.mem b.mem) s.chip.drone.now) b } := by
  have hb : b.bound = false := by rw [Build.bound, hbound]
  have hends : b.boundary.ends r.step = false := by rw [hbound]; rfl
  have hin : decide (r.plan.image.bundles.length ≤ (b.ctx.advance b.flow).pc) = false := decide_eq_false (Nat.not_le.mpr hpc)
  have hnow : (r.retire b (b.ctx.advance b.flow) (undoOf s.mem b.mem) s.chip.drone.now).replayTo = none :=
    (r.retire_keeps ..).1.trans hreplay
  unfold State.retire
  simp only [hb, hends, hin, hcmt, Bool.false_and, Bool.not_false, Bool.and_false, Bool.false_eq_true, if_false,
    Mem.stuck_sound hsound, Mem.merged_sound hsound]
  refine congrArg (fun c => ({ s with mem := s.mem.applyAll b.mem, chip := c } : State)) ?_
  exact Chip.replayCheck_of_none (retireChip_run ..) hnow

theorem State.slotDone_plain {s : State} {p : Fin 4} {r : Running} {b : Build} (hbound : b.boundary = .none) (hcoll : b.coll = none) :
    s.slotDone p r false b = s.retire p r b := by
  have hb : b.bound = false := by rw [Build.bound, hbound]
  simp only [State.slotDone, State.finishBundle, hb, hcoll, Bool.false_and, Bool.false_eq_true, if_false]

end Sys2Proof.Machine

open Sys2Proof.Machine

/-- Settles O22: by the memory and the chip that a bundle which ends no step retires to. -/
theorem bundleWritesTogether : Obligations.BundleWritesTogether := by
  unfold Obligations.BundleWritesTogether
  refine fun s p r b => ⟨rfl, fun hbound hcmt hcoll hreplay hsound hpc => ?_⟩
  rw [State.slotDone_plain hbound hcoll, State.retire_plain hbound hcmt hreplay hsound hpc]
  obtain ⟨-, hstep, hplan⟩ := r.retire_keeps b (b.ctx.advance b.flow) (undoOf s.mem b.mem) s.chip.drone.now
  refine ⟨_, retireChip_run .., rfl, rfl, rfl, hstep, hplan, rfl, fun a ha => Mem.byte_applyAll_outside ha, rfl,
    retireChip_intc .., retireChip_mram .., fun grp g hsqns hgroup => ?sqn, fun hsqns => ?groups,
    fun q hq => retireChip_run_ne _ _ _ _ _ hq, fun t ht => ?tenants⟩
  case sqn =>
    rw [Chip.group, retireChip_groups, hsqns]
    exact (Chip.group_modGroup (f := fun y => { y with sqn := y.sqn + 1 }) (fun _ => rfl) _).trans (congrArg (Option.map _) hgroup)
  case groups => rw [retireChip_groups, hsqns]; rfl
  case tenants =>
    dsimp only
    rw [retireChip_tenants]
    exact vecMod_ne _ _ ht
end

section
/-! What a tenant fault of a slot brings about where nothing waits for its partition (R388), and the slots that cause one (R39-R41). -/

namespace Sys2Proof.Machine

/-! ### A partition that loses its plan while nothing waits -/

theorem State.startWaiting_of_none {s : State} {p : Fin 4} (h : s.chip.parts[p].waiting = none) : s.startWaiting p = s := by
  simp only [State.startWaiting, Chip.mayStart, h]

theorem State.startAll_of_none {s : State} (h : ∀ q : Fin 4, s.chip.parts[q].waiting = none) (ps : List (Fin 4)) :
    ps.foldl State.startWaiting s = s := by
  induction ps with
  | nil => rfl
  | cons p ps ih => rw [List.foldl_cons, State.startWaiting_of_none (h p), ih]

theorem Chip.setRun_waiting (c : Chip) (p q : Fin 4) (r : Option Running) : (c.setRun p r).parts[q].waiting = c.parts[q].waiting := by
  by_cases h : q = p
  · subst h
    exact (congrArg Part.waiting (vecMod_same c.parts q fun x => { x with run := r })).trans rfl
  · exact congrArg Part.waiting (vecMod_ne _ _ h)

/-- The partition is free and nothing starts. -/
theorem State.freePart_of_none {s : State} {p : Fin 4} (hturn : (s.chip.run p).bind Running.turn = none)
    (hpending : s.chip.partPending = none) (hwaiting : ∀ q : Fin 4, s.chip.parts[q].waiting = none) :
    s.freePart p = s.on fun c => (c.setRun p none).settleAbsent := by
  have hfree : ((s.chip.modPart p fun x =>
      { x with run := none, waiting := if ((s.chip.run p).bind Running.turn).isSome then (s.chip.run p).bind Running.turn
        else x.waiting }).applyPartSet).settleAbsent = (s.chip.setRun p none).settleAbsent := by
    rw [hturn]
    simp [Chip.applyPartSet, Chip.setRun, hpending]
  unfold State.freePart
  refine (congrArg (fun c => allParts.foldl State.startWaiting { s with chip := c }) hfree).trans ?_
  refine State.startAll_of_none (fun q => ?_) _
  have hparts : (s.chip.setRun p none).settleAbsent.parts = (s.chip.setRun p none).parts := by simp
  dsimp only
  rw [hparts, Chip.setRun_waiting]
  exact hwaiting q

/-! ### The restore (R388) -/

theorem State.restore_of_none {s : State} {p : Fin 4} {r : Running} (h : s.chip.run p = some r) (hsrc : replaySource r.commits = none) :
    s.restore p = s := by
  simp only [State.restore, h, hsrc]

/-- The chip set back to a commit point. -/
def restoreChip (c : Chip) (p : Fin 4) (r : Running) (x : ReplaySrc) : Chip :=
  x.pt.groups.foldl (fun c y => c.modGroup y.grp fun g => { g with sqn := y.sqn })
    ((c.setRun p (some (r.rewind x))).modTenant r.plan.tenant fun t => t.rewind r.plan.req.isSome (x.live r))

theorem State.restore_of_some {s : State} {p : Fin 4} {r : Running} {x : ReplaySrc} (h : s.chip.run p = some r)
    (hsrc : replaySource r.commits = some x) : s.restore p = { s with
      mem := (s.mem.putAll x.undo).heal (x.undo.map fun u => wordOf u.1), chip := restoreChip s.chip p r x } := by
  simp only [State.restore, h, hsrc]
  rfl

theorem restoreChip_parts (c : Chip) (p : Fin 4) (r : Running) (x : ReplaySrc) :
    (restoreChip c p r x).parts = (c.setRun p (some (r.rewind x))).parts := foldl_keeps (g := Chip.parts) (by simp) _ _

theorem restoreChip_partPending (c : Chip) (p : Fin 4) (r : Running) (x : ReplaySrc) :
    (restoreChip c p r x).partPending = c.partPending := foldl_keeps (g := Chip.partPending) (by simp) _ _

/-- What a restore leaves: the run with its plan and its turn, nothing more waiting, and the memory of its commit point. -/
theorem State.restore_spec {s : State} {p : Fin 4} {r : Running} (h : s.chip.run p = some r) :
    (∃ r', (s.restore p).chip.run p = some r' ∧ r'.plan = r.plan ∧ r'.turn = r.turn) ∧
      (s.restore p).chip.partPending = s.chip.partPending ∧
      (∀ q : Fin 4, (s.restore p).chip.parts[q].waiting = s.chip.parts[q].waiting) ∧
      (r.commits = [] → (s.restore p).mem = s.mem) ∧
      ∀ x, replaySource r.commits = some x → (s.restore p).mem = (s.mem.putAll x.undo).heal (x.undo.map fun u => wordOf u.1) := by
  cases hsrc : replaySource r.commits with
  | none =>
    rw [State.restore_of_none h hsrc]
    exact ⟨⟨r, h, rfl, rfl⟩, rfl, fun _ => rfl, fun _ => rfl, fun x hx => by cases hx⟩
  | some x =>
    rw [State.restore_of_some h hsrc]
    refine ⟨⟨r.rewind x, ?_, rfl, rfl⟩, restoreChip_partPending .., fun q => ?_, fun hnil => ?_, fun y hy => ?_⟩
    · dsimp only
      rw [Chip.run, restoreChip_parts]
      exact Chip.setRun_run ..
    · dsimp only
      rw [restoreChip_parts]
      exact Chip.setRun_waiting ..
    · rw [hnil] at hsrc
      cases hsrc
    · obtain rfl := Option.some.inj hy
      rfl

/-! ### The tenant of a fault (R388) -/

/-- A tenant's fault and state. -/
def Chip.standing (c : Chip) (t : Fin 16) : Bool × FState := (c.tenants[t].fault, c.tenants[t].fstate)

theorem Chip.standing_of_tenants {c d : Chip} (h : d.tenants = c.tenants) (t : Fin 16) : d.standing t = c.standing t := by
  rw [Chip.standing, h]
  rfl

theorem Chip.modTenant_standing {f : Tenant → Tenant} (hf : ∀ x, ((f x).fault, (f x).fstate) = (x.fault, x.fstate)) (c : Chip)
    (t u : Fin 16) : (c.modTenant u f).standing t = c.standing t := by
  by_cases h : t = u
  · subst h
    refine Eq.trans ?_ (hf c.tenants[t])
    exact congrArg (fun x => (Tenant.fault x, Tenant.fstate x)) (vecMod_same ..)
  · exact congrArg (fun x => (Tenant.fault x, Tenant.fstate x)) (vecMod_ne _ _ h)

theorem Chip.setFState_standing (c : Chip) (t : Fin 16) (st : FState) : (c.setFState t st).standing t = (c.tenants[t].fault, st) := by
  unfold Chip.setFState
  split
  · next h => rw [Chip.standing, h]
  · refine (Chip.standing_of_tenants (c := c.modTenant t fun x => { x with fstate := st }) (by simp) t).trans ?_
    exact congrArg (fun x => (Tenant.fault x, Tenant.fstate x)) (vecMod_same ..)

@[simp] theorem Chip.publish_standing (c : Chip) (u t : Fin 16) (es : List ResEntry) : (c.publish u es).standing t = c.standing t :=
  Chip.standing_of_tenants (by simp) t

@[simp] theorem Chip.freeRetained_standing (c : Chip) (p : Fin 4) (u t : Fin 16) : (c.freeRetained p u).standing t = c.standing t :=
  Chip.modTenant_standing (f := fun x => x.freeRetained (c.busyEpochs p u)) (fun _ => rfl) c t u

/-- Steps that keep every tenant keep the tenants' standing. -/
theorem foldl_standing {α : Type} {f : Chip → α → Chip} (h : ∀ c x, (f c x).tenants = c.tenants) (l : List α) (c : Chip)
    (t : Fin 16) :
    (l.foldl f c).standing t = c.standing t :=
  foldl_keeps (g := fun c => c.standing t) (fun c x => Chip.standing_of_tenants (h c x) t) l c

@[simp] theorem Chip.failAdmissions_standing (c : Chip) (u t : Fin 16) (st : W16) : (c.failAdmissions u st).standing t = c.standing t := by
  refine (foldl_standing ?_ _ _ t).trans (Chip.modTenant_standing ?_ c t u)
  · exact fun c a => Chip.complete_tenants ..
  · exact fun _ => rfl

@[simp] theorem Chip.settleRetires_standing (c : Chip) (u t : Fin 16) : (c.settleRetires u).standing t = c.standing t := by
  refine (foldl_standing ?_ _ _ t).trans (Chip.modTenant_standing ?_ c t u)
  · exact fun c x => Chip.complete_tenants ..
  · exact fun _ => rfl

@[simp] theorem Chip.loseBatches_standing (c : Chip) (u t : Fin 16) (plan : W16) (n : Nat) (st : W16) :
    (c.loseBatches u plan n st).standing t = c.standing t := by
  refine (Chip.modTenant_standing ?_ _ t u).trans (foldl_standing ?_ _ c t)
  · exact fun _ => rfl
  · exact fun c b => Chip.event_tenants ..

/-- The tenant of a faulted plan is FAULTED. -/
theorem Chip.faultOut_standing (c : Chip) (p : Fin 4) (r : Running) (n : Nat) (commit : Stamp × W32) (f : FaultInfo) :
    (c.faultOut p r n commit f).standing r.plan.tenant = (true, .faulted) := by
  unfold Chip.faultOut
  extract_lets t saved faulted drawn stated finals published slotless settled lost entry event report
  have hreport : report.tenants = event.tenants := Chip.hbForm_tenants ..
  have hevent : event.tenants = lost.tenants := Chip.event_tenants ..
  have hstated : stated.tenants = (drawn.setFState t .faulted).tenants := by simp [stated]
  have hlost : lost.standing t = slotless.standing t :=
    (Chip.loseBatches_standing ..).trans ((Chip.settleRetires_standing ..).trans (Chip.failAdmissions_standing ..))
  have hslotless : slotless.standing t = published.standing t :=
    (Chip.freeRetained_standing ..).trans (Chip.modTenant_standing (f := fun x => { x with slots := [] }) (fun _ => rfl) published t t)
  have hfault : drawn.tenants[t].fault = true := congrArg Tenant.fault (vecMod_same ..)
  refine (Chip.standing_of_tenants (c := lost) ?_ t).trans ?_
  · dsimp only
    exact hreport.trans hevent
  · rw [hlost, hslotless, Chip.publish_standing, Chip.standing_of_tenants hstated, Chip.setFState_standing, hfault]

/-! ### The fault of a plan (R388) -/

/-- A tenant fault of a running plan while nothing waits for its partition. -/
theorem State.tenantFault_spec {s : State} {p : Fin 4} {r : Running} (h : s.chip.run p = some r) (hturn : r.turn = none)
    (hpending : s.chip.partPending = none) (hwaiting : ∀ q : Fin 4, s.chip.parts[q].waiting = none) (f : FaultInfo) :
    (r.commits = [] → (s.tenantFault p f true).mem = s.mem) ∧
      (∀ x, replaySource r.commits = some x →
        (s.tenantFault p f true).mem = (s.mem.putAll x.undo).heal (x.undo.map fun u => wordOf u.1)) ∧
      (s.tenantFault p f true).chip.run p = none ∧
      (s.tenantFault p f true).chip.standing r.plan.tenant = (true, .faulted) := by
  have haborted : (s.on fun c => c.abortBusy r f.status).chip.run p = some r := by simp [State.on, h]
  obtain ⟨⟨r', hrun, hplan, hturn'⟩, hpending', hwaiting', hnil, hsome⟩ := State.restore_spec haborted
  have hfault : s.tenantFault p f true = (((s.on fun c => c.abortBusy r f.status).restore p).on fun c =>
      c.faultOut p r' (if r.livePrologue then 0 else r.liveStep.toNat + 1) r.replayPoint f).freePart p := by
    simp only [State.tenantFault, h, if_true, hrun]
  have habort : (s.chip.abortBusy r f.status).partPending = s.chip.partPending ∧
      (s.chip.abortBusy r f.status).parts = s.chip.parts := by simp
  replace hpending' := hpending'.trans (habort.1.trans hpending)
  replace hwaiting' := fun q : Fin 4 => (hwaiting' q).trans ((congrArg (fun x => x[q].waiting) habort.2).trans (hwaiting q))
  rw [hfault]
  generalize (s.on fun c => c.abortBusy r f.status).restore p = u at *
  generalize (if r.livePrologue then 0 else r.liveStep.toNat + 1) = n
  generalize r.replayPoint = commit
  obtain ⟨hfrun, hfpending, hfparts⟩ : (u.chip.faultOut p r' n commit f).run p = u.chip.run p ∧
      (u.chip.faultOut p r' n commit f).partPending = u.chip.partPending ∧
      (u.chip.faultOut p r' n commit f).parts = u.chip.parts := by simp
  rw [State.freePart_of_none]
  · dsimp only [State.on]
    refine ⟨hnil, hsome, ?_, ?_⟩
    · refine Eq.trans ?_ (Chip.setRun_run (u.chip.faultOut p r' n commit f) p none)
      simp
    · refine (Chip.standing_of_tenants (c := u.chip.faultOut p r' n commit f) ?_ _).trans ?_
      · simp
      · rw [← hplan]
        exact Chip.faultOut_standing ..
  · refine (congrArg (fun x => Option.bind x Running.turn) (hfrun.trans hrun)).trans ?_
    exact hturn'.trans hturn
  · exact hfpending.trans hpending'
  · exact fun q => (congrArg (fun x => x[q].waiting) hfparts).trans (hwaiting' q)

/-! ### Slots that find the array in a wrong state (R39-R41) -/

/-- An acting slot whose operation fails. -/
theorem SlotActs.fails {s : State} {i : Instr} {sl : Slot} {pos : SlotPos} {r : Running} {b : Build} {e : SlotFail}
    {body : View → Build → Except SlotFail Build} (h : SlotActs s i sl pos r b) (hexec : exec i s = .next (s.issue i sl pos body))
    (hbody : ∀ b0, body (s.view sl.part r) b0 = .error e) : exec i s = .next (s.slotFails sl.part r pos.num e) := by
  rw [hexec, State.issue_fails h (hbody _)]

/-- A pass, a drain and a release each need one state of their accumulator (R40). -/
theorem AccState.next_pass_eq_none {first last : Bool} {st : AccState} (h : st ≠ if first then .free else .opened) :
    AccState.next (.pass first last) st = none := by
  cases first with
  | true =>
    cases st with
    | free => exact absurd rfl h
    | _ => rfl
  | false =>
    cases st with
    | opened => exact absurd rfl h
    | _ => rfl

theorem AccState.next_drain_eq_none {st : AccState} (h : st ≠ .ready) : AccState.next .drain st = none := by
  cases st with
  | ready => exact absurd rfl h
  | _ => rfl

theorem AccState.next_release_eq_none {st : AccState} (h : st ≠ .ready) : AccState.next .release st = none := by
  cases st with
  | ready => exact absurd rfl h
  | _ => rfl

section
variable {v : View} {sl : Slot} {o : MxOps} {i : Fin 2} (hi : o.ac.val = i.val) (b : Build)

theorem pldBody_of_full (h : v.ctx.shadow.isSome = true) : pldBody v sl o b = .error .plane := if_pos h

include hi

theorem mmBody_of_error {e : SlotFail} (h : mmAcc (passPlane v.ctx) (v.desc o.tdb) o v.ctx.ac[i] = .error e) :
    mmBody v sl o b = .error e := by
  simp only [mmBody, acOf_eq hi, h]

theorem ewmBody_of_ne (h : v.ctx.ac[i].state ≠ .free) : ewmBody v sl o b = .error .acc := by
  simp only [ewmBody, acOf_eq hi, ewmAcc, AccState.next_pass_eq_none (first := true) h]

theorem drnBody_of_ne (h : v.ctx.ac[i].state ≠ .ready) : drnBody v sl o b = .error .acc := by
  simp only [drnBody, acOf_eq hi, drnAcc, AccState.next_drain_eq_none h]

theorem relBody_of_ne (h : v.ctx.ac[i].state ≠ .ready) : relBody v sl o b = .error .acc := by
  simp only [relBody, acOf_eq hi, relAcc, AccState.next_release_eq_none h]

end

theorem mmAcc_of_ne {p : Plane} {d : Desc} {o : MxOps} {a : Acc} (h : a.state ≠ if o.init then .free else .opened) :
    mmAcc p d o a = .error .acc := by
  simp only [mmAcc, AccState.next_pass_eq_none h]

/-- A pass of another shape than the accumulation's (R39). -/
theorem mmAcc_of_mismatch {p : Plane} {d : Desc} {o : MxOps} {a : Acc} (hinit : o.init = false) (hstate : a.state = .opened)
    (h : a.m ≠ Desc.rows d ∨ a.n ≠ p.n ∨ a.opr ≠ o.opr ∨ a.idx ≠ o.idx) : mmAcc p d o a = .error .mismatch := by
  have hshape : (!o.init &&
      (decide (a.m ≠ Desc.rows d) || decide (a.n ≠ p.n) || decide (a.opr ≠ o.opr) || decide (a.idx ≠ o.idx))) = true := by
    simpa [hinit, or_assoc] using h
  unfold mmAcc
  rw [hinit, hstate]
  dsimp only [AccState.next]
  rw [← hinit, if_pos hshape]

end Sys2Proof.Machine

open Sys2Proof.Machine

/-- Settles O23: the fault by what the restore and the free partition leave, each slot by the state that its operation finds. -/
theorem arrayDisciplineIsEnforced : Obligations.ArrayDisciplineIsEnforced := by
  unfold Obligations.ArrayDisciplineIsEnforced
  refine ⟨fun s p r0 r status slot cause hrun hturn hpending hwaiting => ?fault, fun s sl o r b i hi => ?slots⟩
  case fault =>
    intro t
    obtain ⟨hnil, hsome, hgone, hstanding⟩ := State.tenantFault_spec hrun hturn hpending hwaiting
      { status := status, det := 0x20, unit := s.chip.hubSrc 0, bidx := BitVec.ofNat 32 r.ctx.pc
        slot := BitVec.ofNat 8 slot, cause := cause, tDet := s.chip.drone.now }
    exact ⟨hnil, hsome, hgone, congrArg Prod.fst hstanding, congrArg Prod.snd hstanding⟩
  case slots =>
    intro a
    exact ⟨fun h hfull => h.fails rfl fun b0 => pldBody_of_full b0 hfull,
      fun h hne => h.fails rfl fun b0 => mmBody_of_error hi b0 (mmAcc_of_ne hne),
      fun h hinit hopened hshape => h.fails rfl fun b0 => mmBody_of_error hi b0 (mmAcc_of_mismatch hinit hopened hshape),
      fun h hne => h.fails rfl fun b0 => ewmBody_of_ne hi b0 hne, fun h hne => h.fails rfl fun b0 => drnBody_of_ne hi b0 hne,
      fun h hne => h.fails rfl fun b0 => relBody_of_ne hi b0 hne⟩
end

section
/-! Partition sets, turns and opcodes that no command has (R77, R80, R81, R300), for a driver that is present. -/

namespace Sys2Proof.Machine

/-! ### Partition sets (R77, R80, R81) -/

/-- The columns and spares of a set in force. -/
def Chip.withSet (c : Chip) (cols : List Nat) : Chip := { c with
  partPending := none, nparts := cols.length
  parts := Vector.ofFn fun i : Fin 4 => { c.parts[i] with
    cols := cols.getD i.val 0, spares := sparesOf cols (physCols c.mram.mc64 c.mram.cfgOut) i.val } }

/-- A bound plan under the set in force: bound anew where the set has its target. -/
def Chip.planAnew (c : Chip) (p : Plan) : Plan := if c.hasTarget p then c.rebind p else p

/-- The bound plans bound anew for the set in force. -/
def Chip.bindAnew (c : Chip) : Chip := { c with placer := { c.placer with bound := c.placer.bound.map c.planAnew } }

theorem Chip.withSet_parts (c : Chip) (cols : List Nat) (i : Fin 4) : (c.withSet cols).parts[i] = { c.parts[i] with
    cols := cols.getD i.val 0, spares := sparesOf cols (physCols c.mram.mc64 c.mram.cfgOut) i.val } := by
  simp [Chip.withSet]

theorem Chip.planAnew_keeps (c : Chip) (p : Plan) :
    (c.planAnew p).id = p.id ∧ (c.planAnew p).image = p.image ∧ (c.planAnew p).sub = p.sub := by
  unfold Chip.planAnew
  split
  · exact ⟨rfl, rfl, rfl⟩
  · exact ⟨rfl, rfl, rfl⟩

/-- A plan for the whole array has no target in a set of several partitions. -/
theorem Chip.planAnew_of_not_whole {c : Chip} {p : Plan} (hpart : p.part = none) (hparts : c.nparts ≠ 1) : c.planAnew p = p := by
  have htarget : c.hasTarget p = false := by simp [Chip.hasTarget, hpart, hparts]
  simp [Chip.planAnew, htarget]

theorem Chip.refuseTarget_of_none {c : Chip} {p : Fin 4} (h : c.parts[p].waiting = none) : c.refuseTarget p = c := by
  simp only [Chip.refuseTarget, h]

theorem mem_allParts : ∀ p : Fin 4, p ∈ allParts := by decide

/-- A set waits for the plans that run (R81). -/
theorem Chip.applyPartSet_of_run {c : Chip} {x : List Nat × CmdSrc} (hpending : c.partPending = some x)
    (hrun : ∃ p : Fin 4, c.run p ≠ none) : c.applyPartSet = c := by
  obtain ⟨p, hp⟩ := hrun
  have hbusy : (allParts.all fun p => (c.run p).isNone) = false :=
    List.all_eq_false.mpr ⟨p, mem_allParts p, by simpa using hp⟩
  simp [Chip.applyPartSet, hpending, hbusy]

/-- A set takes effect where no plan runs (R80, R81). -/
theorem Chip.applyPartSet_of_free {c : Chip} {cols : List Nat} {src : CmdSrc} (hpending : c.partPending = some (cols, src))
    (hrun : ∀ p : Fin 4, c.run p = none) (hwaiting : ∀ p : Fin 4, c.parts[p].waiting = none) :
    c.applyPartSet = (c.withSet cols).bindAnew.done src 0 := by
  have hfree : (allParts.all fun p => (c.run p).isNone) = true := List.all_eq_true.mpr fun p _ => by simp [hrun p]
  have hnone : ∀ p : Fin 4, (c.withSet cols).bindAnew.refuseTarget p = (c.withSet cols).bindAnew := fun p =>
    Chip.refuseTarget_of_none ((congrArg Part.waiting (c.withSet_parts cols p)).trans (hwaiting p))
  simp only [Chip.applyPartSet, hpending, hfree, if_true]
  exact congrArg (fun x => Chip.done x src 0) (List.foldl_fixed' hnone allParts)

/-! ### PART_SET (R300) -/

theorem Chip.pfOp_of_takeOp {c c' : Chip} {opc : Nat} {e : Entry} {src : CmdSrc} (h : c.takeOp .pf 0 opc 1 = some (e, src, c'))
    (hdriver : c'.driverAway = false) (k : Entry → CmdSrc → Chip → Chip) : c.pfOp opc k = k e src c' := by
  simp [Chip.pfOp, h, hdriver]

section
variable {s : State} {e : Entry} {src : CmdSrc} {c : Chip} (htake : s.chip.takeOp .pf 0 0x85 1 = some (e, src, c))
  (hdriver : c.driverAway = false)
include htake hdriver

/-- A set that is accepted takes effect once no plan runs (R81). -/
theorem exec_partSet_of_set {cols : List Nat} (hcols : partCols c.mram.mc64 e = some cols) (hpending : c.partPending = none)
    (happly : ∀ p : Fin 4, { c with partPending := some (cols, src) }.applyPartSet.parts[p].waiting = none) :
    exec .partSet s = .next { s with chip := { c with partPending := some (cols, src) }.applyPartSet } := by
  simp only [exec, execPartSet, State.on, Chip.pfOp_of_takeOp htake hdriver, hcols, hpending, Option.isSome_none,
    Bool.false_eq_true, if_false]
  rw [State.startAll_of_none happly]

variable (hwaiting : ∀ p : Fin 4, c.parts[p].waiting = none)
include hwaiting

/-- Columns that make no set (R77). -/
theorem exec_partSet_of_no_set (hcols : partCols c.mram.mc64 e = none) :
    exec .partSet s = .next { s with chip := c.done src 0x0002 } := by
  simp only [exec, execPartSet, State.on, Chip.pfOp_of_takeOp htake hdriver, hcols]
  rw [State.startAll_of_none (by simpa using hwaiting)]

variable {cols : List Nat} (hcols : partCols c.mram.mc64 e = some cols)
include hcols

/-- Another set waits. -/
theorem exec_partSet_of_pending (hpending : c.partPending ≠ none) :
    exec .partSet s = .next { s with chip := c.done src 0x0002 } := by
  simp only [exec, execPartSet, State.on, Chip.pfOp_of_takeOp htake hdriver, hcols,
    Option.isSome_iff_ne_none.mpr hpending, if_true]
  rw [State.startAll_of_none (by simpa using hwaiting)]

/-- The set waits for the plans that run (R81). -/
theorem exec_partSet_of_run (hpending : c.partPending = none) (hrun : ∃ p : Fin 4, c.run p ≠ none) :
    exec .partSet s = .next { s with chip := { c with partPending := some (cols, src) } } := by
  have happly : { c with partPending := some (cols, src) }.applyPartSet = { c with partPending := some (cols, src) } :=
    Chip.applyPartSet_of_run rfl hrun
  rw [exec_partSet_of_set htake hdriver hcols hpending (by rw [happly]; exact hwaiting), happly]

/-- The set takes effect at once (R80, R81). -/
theorem exec_partSet_of_free (hpending : c.partPending = none) (hrun : ∀ p : Fin 4, c.run p = none) :
    exec .partSet s = .next { s with chip := (c.withSet cols).bindAnew.done src 0 } := by
  have happly : { c with partPending := some (cols, src) }.applyPartSet = (c.withSet cols).bindAnew.done src 0 :=
    Chip.applyPartSet_of_free rfl hrun hwaiting
  rw [exec_partSet_of_set htake hdriver hcols hpending, happly]
  intro p
  rw [happly, Chip.done_parts]
  exact (congrArg Part.waiting (c.withSet_parts cols p)).trans (hwaiting p)

end

/-! ### Plans that start (R18, R300) -/

/-- A TURN waits in a partition. -/
def Chip.turnWaits (c : Chip) (q : Fin 4) (id : W16) (src : CmdSrc) : Chip :=
  c.modPart q fun x => { x with waiting := some (id, src) }

theorem Chip.turnWaits_run (c : Chip) (q : Fin 4) (id : W16) (src : CmdSrc) (p : Fin 4) :
    (c.turnWaits q id src).run p = c.run p :=
  Chip.modPart_run_of_keeps (f := fun x => { x with waiting := some (id, src) }) (fun _ => rfl) c q p

section
variable {c : Chip} {q : Fin 4} {id : W16} {src : CmdSrc} {p : Plan} (hplan : (c.placer.bound.find? fun x => x.id = id) = some p)
include hplan

/-- What a TURN of a free partition waits for (R18, R81, R307, R389). -/
theorem Chip.mayStart_turnWaits (hrun : c.run q = none) : (c.turnWaits q id src).mayStart q =
    if c.driverAway || c.faults.mfault || c.partPending.isSome || !p.altsReady then none else some (p, src) := by
  have hwaits : (c.turnWaits q id src).parts[q].waiting = some (id, src) := congrArg Part.waiting (vecMod_same ..)
  have hbound : (c.turnWaits q id src).placer.plan id = some p := hplan
  have haway : (c.turnWaits q id src).driverAway = c.driverAway := rfl
  simp only [Chip.mayStart, hwaits, Chip.turnWaits_run, hrun, hbound, haway]
  cases p.altsReady <;> simp [Chip.turnWaits]

/-- The plan's alternates are not all bound, or a set waits (R18, R81). -/
theorem Chip.mayStart_turnWaits_of_held (h : p.altsReady = false ∨ c.partPending ≠ none) :
    (c.turnWaits q id src).mayStart q = none := by
  cases hrun : c.run q with
  | some r => simp [Chip.mayStart, Chip.turnWaits_run, hrun]
  | none =>
    rw [Chip.mayStart_turnWaits hplan hrun]
    rcases h with halts | hpending
    · simp [halts]
    · simp [Option.isSome_iff_ne_none.mpr hpending]

end

/-- A plan is no longer bound, and the key has rotated if the plan asks for it (R191, R300). -/
def Chip.unbind (c : Chip) (x : Plan) : Chip :=
  let unbound := { c with placer := { c.placer with bound := c.placer.bound.filter fun y => y.id ≠ x.id } }
  if x.rotate ∧ c.memObj.kgen ≠ x.kgen then unbound.rotateKey else unbound

/-- The chip as a plan is about to begin its prologue: its staging begins, and its groups are in use (R205, R288). -/
def Chip.readied (c : Chip) (x : Plan) : Chip :=
  (x.turnMap.filter fun e => e.kind = 2 || e.kind = 3).foldl (fun c e => c.touch e.grp) ((c.unbind x).beginStaging x).1

/-- The run with which a plan begins its prologue (R18, R21). -/
def Chip.firstRun (c : Chip) (x : Plan) : Running :=
  { x.run (c.readied x).drone.now false with staging := ((c.unbind x).beginStaging x).2 }

/-- The chip as a plan begins its prologue in a partition (R18). -/
def Chip.begun (c : Chip) (q : Fin 4) (x : Plan) : Chip :=
  (((((c.readied x).modPart q fun y => { y with run := some (c.firstRun x), waiting := none }).useTiles x x.binding.tiles).modTenant
    x.tenant fun t => { t with faulted := none, fault := false }).setFState x.tenant .running).firstCommit q

theorem State.startWaiting_of_not_mayStart {s : State} {q : Fin 4} (h : s.chip.mayStart q = none) : s.startWaiting q = s := by
  simp only [State.startWaiting, h]

theorem State.startWaiting_of_mayStart {s : State} {q : Fin 4} {x : Plan} {src : CmdSrc} (h : s.chip.mayStart q = some (x, src)) :
    s.startWaiting q = (s.on fun c => (c.begun q x).complete src 0 x.id 0 (c.begun q x).drone.now).sendTransfers x := by
  simp only [State.startWaiting, h]
  rfl

theorem Chip.unbind_bound (c : Chip) (x : Plan) : (c.unbind x).placer.bound = c.placer.bound.filter fun y => y.id ≠ x.id := by
  unfold Chip.unbind
  dsimp only
  split
  · simp
  · rfl

theorem Chip.readied_bound (c : Chip) (x : Plan) : (c.readied x).placer.bound = c.placer.bound.filter fun y => y.id ≠ x.id := by
  rw [← Chip.unbind_bound, ← (Chip.beginStaging_keeps (c.unbind x) x).2]
  simp [Chip.readied]

/-- A plan runs from the start of its prologue (R18, R21). -/
theorem Chip.begun_stand (c : Chip) (q : Fin 4) (x : Plan) : (c.begun q x).stand q = some (x.run 0 false).stand := by
  rw [Chip.begun, Chip.firstCommit_stand]
  have hrun : ((c.readied x).modPart q fun y => { y with run := some (c.firstRun x), waiting := none }).run q =
      some (c.firstRun x) := congrArg Part.run (vecMod_same ..)
  have hstand : (c.firstRun x).stand = (x.run 0 false).stand := rfl
  rw [← hstand, ← Chip.stand_of_run_eq hrun]
  exact Chip.stand_of_run (by simp [Chip.run])

theorem Chip.begun_bound (c : Chip) (q : Fin 4) (x : Plan) :
    (c.begun q x).placer.bound = c.placer.bound.filter fun y => y.id ≠ x.id := by
  rw [← Chip.readied_bound]
  simp [Chip.begun]

/-- A plan bound from its image starts with step 0 and the initial context (R18, R21). -/
theorem Plan.run_stand_of_not_restored {x : Plan} (h : x.restored = none) (now : Stamp) (hold : Bool) :
    (x.run now hold).stand = ⟨x, true, 0, Ctx.initial x.image.startDescs, [], false⟩ := by
  simp [Running.stand, Plan.run, h]

/-- Where a plan stands as its prologue begins, and the plans that stay bound. -/
theorem State.startWaiting_begins {s : State} {q : Fin 4} {x : Plan} {src : CmdSrc} (h : s.chip.mayStart q = some (x, src)) :
    (s.startWaiting q).chip.stand q = some (x.run 0 false).stand ∧
      (s.startWaiting q).chip.placer.bound = s.chip.placer.bound.filter fun y => y.id ≠ x.id := by
  rw [State.startWaiting_of_mayStart h]
  obtain ⟨hparts, hplacer⟩ := State.sendTransfers_keepsPlans
    (s.on fun c => (c.begun q x).complete src 0 x.id 0 (c.begun q x).drone.now) x
  rw [hplacer, State.on_chip, Chip.complete_placer, Chip.begun_bound]
  refine ⟨(Chip.stand_of_run ?_).trans (Chip.begun_stand s.chip q x), rfl⟩
  rw [Chip.run, hparts, State.on_chip, Chip.complete_parts, Chip.run]

/-! ### TURN (R300) -/

theorem Chip.mfault_of_turnOk {c : Chip} {target : Option (Fin 4)} {q : Fin 4} {id : W16} (h : c.turnOk target q id = true) :
    c.faults.mfault = false := by
  simp only [Chip.turnOk, Bool.and_eq_true, Bool.not_eq_true'] at h
  exact h.2

theorem Chip.modRun_of_run {c : Chip} {q : Fin 4} {r : Running} (h : c.run q = some r) (f : Running → Running) :
    c.modRun q f = c.setRun q (some (f r)) := by
  have hpart : c.parts[q].run.map f = some (f r) := congrArg (Option.map f) h
  simp [Chip.modRun, Chip.setRun, Chip.modPart, vecMod, ← hpart]

section
variable {s : State} {e : Entry} {src : CmdSrc} {c : Chip} (htake : s.chip.takeOp .pf 0 0x86 1 = some (e, src, c))
  (hdriver : c.driverAway = false)
include htake hdriver

/-- No target of the set in force. -/
theorem exec_turn_of_no_target (htarget : c.turnTarget (entryAt e 16 1) = none) :
    exec .turn s = .next { s with chip := c.complete src 0x0002 (BitVec.ofNat 16 (entryAt e 18 2)) 0 0 } := by
  simp only [exec, execTurn, State.on, htake, hdriver, htarget, Bool.false_eq_true, if_false]

variable {target : Option (Fin 4)} {q : Fin 4} (htarget : c.turnTarget (entryAt e 16 1) = some (target, q))
include htarget

theorem exec_turn_of_not_ok (hok : c.turnOk target q (BitVec.ofNat 16 (entryAt e 18 2)) = false) :
    exec .turn s = .next { s with chip := c.complete src 0x0002 (BitVec.ofNat 16 (entryAt e 18 2)) 0 0 } := by
  simp [exec, execTurn, State.on, htake, hdriver, htarget, hok]

variable (hok : c.turnOk target q (BitVec.ofNat 16 (entryAt e 18 2)) = true)
include hok

/-- The target's plan ends at its next boundary (R20). -/
theorem exec_turn_of_run {r : Running} (hrun : c.run q = some r) : exec .turn s =
    .next { s with chip := c.setRun q (some { r with turn := some (BitVec.ofNat 16 (entryAt e 18 2), src) }) } := by
  simp [exec, execTurn, State.on, htake, hdriver, htarget, hok, hrun, Chip.modRun_of_run hrun]

/-- The target is free. -/
theorem exec_turn_of_free (hrun : c.run q = none) : exec .turn s =
    .next ({ s with chip := c.turnWaits q (BitVec.ofNat 16 (entryAt e 18 2)) src }.startWaiting q) := by
  simp only [exec, execTurn, State.on, htake, hdriver, htarget, hok, hrun, Bool.false_eq_true, Bool.not_true, if_false]
  rfl

end

/-! ### Opcodes that no command has (R300) -/

theorem exec_unknownOpcode_of_not_listed {s : State} {f : Fn} {ring : Fin 8} {e : Entry} {src : CmdSrc} {c : Chip}
    (htake : s.chip.take f ring 1 = some (e, src, c)) (hdriver : c.driverAway = false) (hlisted : listed f e = false) :
    exec (.unknownOpcode f ring) s = .next { s with chip := c.done src 0x0002 } := by
  simp [exec, execUnknownOpcode, State.on, htake, hdriver, hlisted]

end Sys2Proof.Machine

open Sys2Proof.Machine

/-- Settles O42: each command by the one effect that its operands and the running plans leave it. -/
theorem partitionsAndTurnsAreSet : Obligations.PartitionsAndTurnsAreSet := by
  unfold Obligations.PartitionsAndTurnsAreSet
  refine fun s e src c hdriver => ⟨fun htake hwaiting => ⟨?noSet, fun cols hcols => ⟨?pending, ?running, ?free⟩⟩,
    fun htake => ?turn, fun f ring htake hlisted => exec_unknownOpcode_of_not_listed htake hdriver hlisted⟩
  case noSet => exact exec_partSet_of_no_set htake hdriver hwaiting
  case pending => exact exec_partSet_of_pending htake hdriver hwaiting hcols
  case running => exact exec_partSet_of_run htake hdriver hwaiting hcols
  case free =>
    intro hpending hrun
    refine ⟨_, _, exec_partSet_of_free htake hdriver hwaiting hcols hpending hrun, rfl, rfl, rfl, Chip.done_tenants ..,
      Chip.done_nparts .., Chip.done_partPending .., fun i => ?_, (c.withSet cols).planAnew,
      congrArg Placer.bound (Chip.done_placer ..), fun p _ => ?_⟩
    · dsimp only
      rw [Chip.done_parts]
      exact c.withSet_parts cols i
    · obtain ⟨hid, himage, hsub⟩ := (c.withSet cols).planAnew_keeps p
      exact ⟨hid, himage, hsub, fun hpart hparts => Chip.planAnew_of_not_whole hpart hparts⟩
  case turn =>
    intro id
    refine ⟨exec_turn_of_no_target htake hdriver, fun target q htarget => ⟨exec_turn_of_not_ok htake hdriver htarget,
      fun hok => ⟨fun r => exec_turn_of_run htake hdriver htarget hok, fun hrun p hplan => ?_⟩⟩⟩
    have hexec := exec_turn_of_free htake hdriver htarget hok hrun
    refine ⟨fun hheld => ?held, fun halts hpending hfresh => ?starts⟩
    case held =>
      rw [hexec, State.startWaiting_of_not_mayStart (Chip.mayStart_turnWaits_of_held hplan hheld)]
      rfl
    case starts =>
      have hstart : (c.turnWaits q id src).mayStart q = some (p, src) := by
        simp [Chip.mayStart_turnWaits hplan hrun, hdriver, Chip.mfault_of_turnOk hok, halts, hpending]
      obtain ⟨hstand, hbound⟩ := State.startWaiting_begins (s := { s with chip := c.turnWaits q id src }) hstart
      rw [Plan.run_stand_of_not_restored hfresh] at hstand
      obtain ⟨r, hr, hplace⟩ := Chip.stand_eq_some hstand
      obtain ⟨hpend, hmem⟩ := State.startWaiting_keeps { s with chip := c.turnWaits q id src } q
      have hid : p.id = id := by simpa using List.find?_some hplan
      exact ⟨_, r, hexec, hpend, hmem, hr, congrArg Stand.plan hplace, congrArg Stand.inPrologue hplace,
        congrArg Stand.step hplace, congrArg Stand.ctx hplace, hid ▸ hbound⟩
end

section
/-! Where VXPD and VCPR place the elements of a row (R117). -/

namespace Sys2Proof.Machine

/-! ### Rows and regions -/

/-- A search from the end of a row finds the greatest place that it looks for. -/
theorem find?_reverse_range_of_greatest {p : Nat → Bool} {n i : Nat} (hi : i < n) (hp : p i = true)
    (hgreatest : ∀ k, i < k → k < n → p k = false) : (List.range n).reverse.find? p = some i := by
  induction n with
  | zero => omega
  | succ n ih =>
    rw [List.range_succ, List.reverse_concat]
    rcases Nat.lt_succ_iff_lt_or_eq.mp hi with hlt | rfl
    · rw [List.find?_cons_of_neg (by simp [hgreatest n hlt (Nat.lt_succ_self n)])]
      exact ih hlt fun k hik hk => hgreatest k hik (Nat.lt_succ_of_lt hk)
    · exact List.find?_cons_of_pos hp

/-- A place that a row's filter keeps stands in the filtered row at the count of those kept before it. -/
theorem getElem?_filter_range {p : Nat → Bool} {n i : Nat} (hi : i < n) (hp : p i = true) :
    ((List.range n).filter p)[((List.range i).filter p).length]? = some i := by
  obtain ⟨k, rfl⟩ := Nat.exists_eq_add_of_lt hi
  rw [show i + k + 1 = i + (k + 1) by omega, List.range_add, List.filter_append, List.getElem?_append_right le_rfl, Nat.sub_self,
    List.range_succ_eq_map, List.map_cons, Nat.add_zero, List.filter_cons_of_pos hp]
  rfl

/-- An element of the region of ROWS x COLS after it is filled (R42). -/
theorem Build.get_fillBuf_region {b : Build} {o : VOps} {i : Fin 4} {f : Nat → Nat → W32} {row col : Nat}
    (hsized : o.sized = true) (hrow : row < o.rows.toNat) (hcol : col < o.cols.toNat) :
    Buf.get (b.fillBuf i o.rows.toNat o.cols.toNat f).ctx.v[i] row col = f row col := by
  have hcols := VOps.cols_le_of_sized hsized
  rw [Build.get_fillBuf (hcol.trans_le hcols) hcols, if_pos ⟨hrow, hcol⟩]

/-! ### VXPD -/

/-- What VXPD leaves in an element's place. -/
def xpdVal (v : View) (o : VOps) (r c : Nat) : W32 :=
  match (List.range o.cols.toNat).reverse.find? fun i => decide ((v.buf o.y r i).toInt = (c : Int)) with
  | some i => v.buf o.x r i
  | none => v.buf o.z r c

theorem xpdVal_of_target {v : View} {o : VOps} {r c i : Nat} (hi : i < o.cols.toNat) (htarget : (v.buf o.y r i).toInt = (c : Int))
    (hgreatest : ∀ k, i < k → k < o.cols.toNat → (v.buf o.y r k).toInt ≠ (c : Int)) : xpdVal v o r c = v.buf o.x r i := by
  unfold xpdVal
  rw [find?_reverse_range_of_greatest (p := fun k => decide ((v.buf o.y r k).toInt = (c : Int))) hi (decide_eq_true htarget)
    fun k hik hk => decide_eq_false (hgreatest k hik hk)]

theorem xpdVal_of_no_target {v : View} {o : VOps} {r c : Nat}
    (hnone : ∀ i, i < o.cols.toNat → (v.buf o.y r i).toInt ≠ (c : Int)) : xpdVal v o r c = v.buf o.z r c := by
  unfold xpdVal
  rw [List.find?_eq_none.mpr fun i hi => mt of_decide_eq_true (hnone i (by simpa using hi))]

theorem vxpd_fillsRegion (s : State) (sl : Slot) (o : VOps) (r : Running) (b : Build) :
    FillsRegion s (.vxpd sl o) sl o r b (xpdVal (s.view sl.part r) o) :=
  .of_fillD rfl rfl (fun h => VOps.sized_of_rules h (List.subset_cons_self _ _)) fun _ => rfl

/-! ### VCPR -/

/-- The element that VCPR leaves in an element's place of D. -/
def cprElem (v : View) (o : VOps) (r c : Nat) : W32 :=
  match (setCols v o r)[c]? with
  | some k => v.buf o.x r k
  | none => 0

/-- The column that VCPR leaves in an element's place of Y. -/
def cprCol (v : View) (o : VOps) (r c : Nat) : W32 :=
  match (setCols v o r)[c]? with
  | some k => BitVec.ofNat 32 k
  | none => 0xFFFFFFFF

/-- The `c`-th set column is packed at column `c`. -/
theorem cpr_of_set {v : View} {o : VOps} {r c i : Nat} (hi : i < o.cols.toNat) (hset : decide (v.buf o.z r i ≠ 0) = true)
    (hc : ((List.range i).filter fun k => decide (v.buf o.z r k ≠ 0)).length = c) :
    cprElem v o r c = v.buf o.x r i ∧ cprCol v o r c = BitVec.ofNat 32 i := by
  have hcol : (setCols v o r)[c]? = some i := hc ▸ getElem?_filter_range (p := fun k => decide (v.buf o.z r k ≠ 0)) hi hset
  simp only [cprElem, cprCol, hcol, and_self]

/-- Past the last set column stand zero and −1. -/
theorem cpr_of_past {v : View} {o : VOps} {r c : Nat} (hpast : (setCols v o r).length ≤ c) :
    cprElem v o r c = 0 ∧ cprCol v o r c = 0xFFFFFFFF := by
  simp only [cprElem, cprCol, List.getElem?_eq_none hpast, and_self]

theorem vcprBody_of_same {v : View} {sl : Slot} {o : VOps} (h : o.d = o.y) (b : Build) : vcprBody v sl o b =
    .ok (b.fillBuf o.d o.rows.toNat o.cols.toNat fun r c => Config.unstated 0x0C (cprElem v o r c) (cprCol v o r c)) :=
  if_pos h

theorem vcprBody_of_ne {v : View} {sl : Slot} {o : VOps} (h : o.d ≠ o.y) (b : Build) : vcprBody v sl o b =
    .ok ((b.fillBuf o.d o.rows.toNat o.cols.toNat (cprElem v o)).fillBuf o.y o.rows.toNat o.cols.toNat (cprCol v o)) :=
  if_neg h

end Sys2Proof.Machine

open Sys2Proof.Machine

/-- Settles O3: VXPD fills its region by a search from the row's end; VCPR fills D and Y by the list of set columns. -/
theorem expandAndCompressPlaceElements : Obligations.ExpandAndCompressPlaceElements := by
  unfold Obligations.ExpandAndCompressPlaceElements
  refine ⟨fun s sl o r b h => ?vxpd, fun s sl o r b h => ?vcpr⟩
  case vxpd =>
    have hcols := VOps.cols_le_of_sized (VOps.sized_of_rules (o := o) h.valid (List.subset_cons_self _ _))
    obtain ⟨b', hleaves, hget, hother, hb'⟩ := vxpd_fillsRegion s sl o r b h
    refine ⟨b', hleaves, hb', hother, fun row col hrow hcol => ?_⟩
    have hval := (hget row col (hcol.trans_le hcols)).trans (if_pos ⟨hrow, hcol⟩)
    exact ⟨fun i hi htarget hgreatest => hval.trans (xpdVal_of_target hi htarget hgreatest),
      fun hnone => hval.trans (xpdVal_of_no_target hnone)⟩
  case vcpr =>
    have hsized := VOps.sized_of_sizeRules (o := o) h.valid
    by_cases hdy : o.d = o.y
    · exact ⟨_, h.leaves rfl (vcprBody_of_same hdy _), rfl, fun j hd _ => Build.fillBuf_other hd,
        fun _ _ _ _ hne => absurd hdy hne⟩
    · refine ⟨_, h.leaves rfl (vcprBody_of_ne hdy _), rfl,
        fun j hd hy => (Build.fillBuf_other hy).trans (Build.fillBuf_other hd), fun row col hrow hcol _ => ?_⟩
      rw [Build.fillBuf_other hdy, Build.get_fillBuf_region hsized hrow hcol, Build.get_fillBuf_region hsized hrow hcol]
      exact ⟨fun i hi hset hbefore => cpr_of_set hi hset hbefore, fun hpast => cpr_of_past hpast⟩
end

section
/-! What VOPT leaves in its buffers and in the monitor (R121-R124). -/

namespace Sys2Proof.Machine

/-! ### Conversions to BF16 counted (R159) -/

theorem Build.foldl_countConv_bf16 {α : Type} (layer : W16) (cls : α → List (Fin 6)) (l : List α) (b : Build) :
    l.foldl (fun b x => (cls x).foldl (fun b k => b.countConv layer .bf16 k) b) b =
      { b with mon := b.mon ++ (l.flatMap cls).map fun k => .conv layer Fmt.bf16.code k 1 } := by
  rw [← List.foldl_flatMap]
  induction l.flatMap cls generalizing b with
  | nil => simp
  | cons k ks ih =>
    rw [List.foldl_cons, ih, List.map_cons]
    simp [Build.countConv]

/-! ### The buffers (R122) -/

/-- The results of all elements stored, in VOPT's order: Y, for FN 1 Z, then D. -/
def Build.storeOpt (b : Build) (o : VOps) (q : Nat → Nat → OptOut) : Build :=
  let b := b.fillBuf o.y o.rows.toNat o.cols.toNat fun r c => ((q r c).stored o).1
  let b := if o.fn = 1 then b.fillBuf o.z o.rows.toNat o.cols.toNat fun r c => ((q r c).stored o).2.1 else b
  b.fillBuf o.d o.rows.toNat o.cols.toNat fun r c => ((q r c).stored o).2.2

section
variable (b : Build) {o : VOps} (q : Nat → Nat → OptOut)

/-- Nothing of the bundle but its buffers changes. -/
theorem Build.storeOpt_eq : b.storeOpt o q = { b with ctx := { b.ctx with v := (b.storeOpt o q).ctx.v } } := by
  unfold Build.storeOpt
  split <;> rfl

theorem Build.storeOpt_mon : (b.storeOpt o q).mon = b.mon := by rw [Build.storeOpt_eq]

/-- A buffer that VOPT names neither for the weights nor for the moment, and for FN 1 not for the second moment, stands. -/
theorem Build.storeOpt_other {j : Fin 4} (hd : j ≠ o.d) (hy : j ≠ o.y) (hz : o.fn = 1 → j ≠ o.z) :
    (b.storeOpt o q).ctx.v[j] = b.ctx.v[j] := by
  unfold Build.storeOpt
  rw [Build.fillBuf_other hd]
  split
  · next hfn => rw [Build.fillBuf_other (hz hfn), Build.fillBuf_other hy]
  · rw [Build.fillBuf_other hy]

variable {row col : Nat} (hsized : o.sized = true) (hrow : row < o.rows.toNat) (hcol : col < o.cols.toNat)
include hsized hrow hcol

theorem Build.get_storeOpt_d : Buf.get (b.storeOpt o q).ctx.v[o.d] row col = ((q row col).stored o).2.2 :=
  Build.get_fillBuf_region hsized hrow hcol

theorem Build.get_storeOpt_y (hdy : o.d ≠ o.y) (hyz : o.fn = 1 → o.y ≠ o.z) :
    Buf.get (b.storeOpt o q).ctx.v[o.y] row col = ((q row col).stored o).1 := by
  unfold Build.storeOpt
  rw [Build.fillBuf_other hdy.symm]
  split
  · next hfn => rw [Build.fillBuf_other (hyz hfn), Build.get_fillBuf_region hsized hrow hcol]
  · rw [Build.get_fillBuf_region hsized hrow hcol]

theorem Build.get_storeOpt_z (hfn : o.fn = 1) (hdz : o.d ≠ o.z) :
    Buf.get (b.storeOpt o q).ctx.v[o.z] row col = ((q row col).stored o).2.1 := by
  unfold Build.storeOpt
  rw [Build.fillBuf_other hdz.symm, if_pos hfn, Build.get_fillBuf_region hsized hrow hcol]

end

/-- Where VOPT's results go to buffers of their own, each stands as computed. -/
theorem OptOut.stored_of_ne {o : VOps} (hdy : o.d ≠ o.y) (hz : o.fn = 1 → o.d ≠ o.z ∧ o.y ≠ o.z) (q : OptOut) :
    (q.stored o).1 = q.m ∧ (o.fn = 1 → (q.stored o).2.1 = q.v) ∧ (q.stored o).2.2 = q.w := by
  by_cases hfn : o.fn = 1
  · obtain ⟨hdz, hyz⟩ := hz hfn
    simp [OptOut.stored, hdy, hdz, hyz]
  · simp [OptOut.stored, hdy, hfn]

/-! ### The operation -/

/-- VOPT's results for one element, from the record at `rt` and what the buffers held. -/
def optAt (v : View) (o : VOps) (rt : BitVec 20) (row col : Nat) : OptOut :=
  let d := v.desc o.td
  optElem v.hwgen v.nepoch (Desc.ovf d) o.fn (fun i => ofF32 (v.bits rt i)) (decide ((v.bits rt 10).toNat % 2 = 1))
    (fun i => v.sr (Desc.strm d + BitVec.ofNat 16 i) (Desc.offset d row col))
    (v.buf o.x row col) (v.buf o.d row col) (v.buf o.y row col) (v.buf o.z row col)

/-- The monitor's entries of VOPT's conversions (R159). -/
def optConvs (v : View) (o : VOps) (rt : BitVec 20) : List MonDelta :=
  ((region 0 0 o.rows.toNat o.cols.toNat).flatMap fun p => (optAt v o rt p.1 p.2).cls).map fun k =>
    .conv v.ctx.layer Fmt.bf16.code k 1

/-- VOPT's entry of its layer: of each element the squares of the weight's change and of the weight (R124, R161). -/
def optEntry (v : View) (o : VOps) (rt : BitVec 20) : MonDelta :=
  let sq := fun (y : Fp) => y.mul y
  let pos := region 0 0 o.rows.toNat o.cols.toNat
  .vopt v.ctx.layer (pos.map fun p => sq ((ofBf (optAt v o rt p.1 p.2).w).sub (ofBf (v.buf o.d p.1 p.2))))
    (pos.map fun p => sq (ofBf (v.buf o.d p.1 p.2))) (o.rows.toNat, o.cols.toNat) (ofF32 (v.bits rt 1))

/-- A bundle's first VOPT stores its results and adds its entry to the monitor after its conversions. -/
theorem voptBody_eq {v : View} {sl : Slot} {o : VOps} {b : Build} {rt : BitVec 20} (hb : b.special = false)
    (hrt : v.optrec (v.desc o.td) = some rt) : voptBody v sl o b =
      .ok { Build.storeOpt { b with special := true } o (optAt v o rt) with
        mon := b.mon ++ optConvs v o rt ++ [optEntry v o rt] } := by
  have hcounted := Build.foldl_countConv_bf16 v.ctx.layer (fun p : Nat × Nat => (optAt v o rt p.1 p.2).cls)
    (region 0 0 o.rows.toNat o.cols.toNat) (Build.storeOpt { b with special := true } o (optAt v o rt))
  rw [Build.storeOpt_mon] at hcounted
  rw [voptBody, special_of_false hb]
  simp only [hrt, List.map_map, List.foldl_map]
  exact congrArg (fun b' : Build => Except.ok { b' with mon := b'.mon ++ [optEntry v o rt] }) hcounted

/-- What VOPT's check finds. -/
theorem voptCheck_eq_none {v : View} {sl : Slot} {o : VOps} (h : voptCheck v sl o = none) :
    (∃ rt, v.optrec (v.desc o.td) = some rt) ∧ o.sized = true := by
  have hrec : (v.optrec (v.desc o.td)).isNone = false :=
    firstReason_eq_none.mp h (_, 2) (List.mem_append_right _ (List.mem_cons_of_mem _ List.mem_cons_self))
  exact ⟨Option.isSome_iff_exists.mp (by simpa using hrec), VOps.sized_of_rules h sizeRules_subset_inner⟩

end Sys2Proof.Machine

open Sys2Proof.Machine

/-- Settles O9: by the results that VOPT stores, of each element, and the monitor's entries. -/
theorem optimizerUpdatesItsBuffers : Obligations.OptimizerUpdatesItsBuffers := by
  unfold Obligations.OptimizerUpdatesItsBuffers
  intro s sl o r b hspecial h v d
  obtain ⟨⟨rt, hrt⟩, hsized⟩ := voptCheck_eq_none (sl := sl) h.valid
  have hbody := voptBody_eq (sl := sl) (b := { b with pos := (vPos o).num }) hspecial hrt
  refine ⟨rt, _, hrt, h.leaves rfl hbody, fun hdy hz row col hrow hcol => ?values, fun hfn hzd hzy => ?first,
    fun j hd hy hz => Build.storeOpt_other _ _ hd hy fun _ => hz, ⟨optConvs v o rt, _, _, rfl⟩, ?frame⟩
  case values =>
    obtain ⟨hm, hv, hw⟩ := OptOut.stored_of_ne hdy hz (optAt v o rt row col)
    exact ⟨(Build.get_storeOpt_d _ _ hsized hrow hcol).trans hw,
      (Build.get_storeOpt_y _ _ hsized hrow hcol hdy fun hfn => (hz hfn).2).trans hm,
      fun hfn => (Build.get_storeOpt_z _ _ hsized hrow hcol hfn (hz hfn).1).trans (hv hfn)⟩
  case first => exact Build.storeOpt_other _ _ hzd hzy fun h1 => absurd (hfn.symm.trans h1) (by decide)
  case frame => rw [Build.storeOpt_eq]
end

section
/-! What VSAMP and VSTOP leave in their buffer, and what VSTOP leaves of the requests (R135-R147). -/

namespace Sys2Proof.Machine

/-! ### Columns of a row written in order -/

/-- The word that writes into columns leave at a column: that of the last write there. -/
def lastWord (l : List (Nat × W32)) (c : Nat) : Option W32 := alGet l.reverse c

theorem alGet_append {α : Type} (l m : List (Nat × α)) (k : Nat) : alGet (l ++ m) k = (alGet l k).or (alGet m k) := by
  simp [alGet, List.find?_append, Option.map_or]

theorem lastWord_append (l m : List (Nat × W32)) (c : Nat) : lastWord (l ++ m) c = (lastWord m c).or (lastWord l c) := by
  rw [lastWord, List.reverse_append, alGet_append]
  rfl

theorem lastWord_singleton (x : Nat × W32) (c : Nat) : lastWord [x] c = if x.1 = c then some x.2 else none := by
  by_cases h : x.1 = c <;> simp [lastWord, alGet, h]

theorem lastWord_eq_none {l : List (Nat × W32)} {c : Nat} (h : ∀ x ∈ l, x.1 ≠ c) : lastWord l c = none := by
  simpa [lastWord, alGet] using h

/-- Words written into consecutive columns from column `n` on. -/
theorem lastWord_mapIdx {α : Type} (l : List α) (f : α → W32) (n c : Nat) :
    lastWord (l.mapIdx fun i x => (n + i, f x)) c = if n ≤ c then l[c - n]?.map f else none := by
  induction l using List.reverseRecOn with
  | nil => simp [lastWord, alGet]
  | append_singleton l x ih =>
    rw [List.mapIdx_concat, lastWord_append, lastWord_singleton, ih]
    by_cases hc : n + l.length = c
    · subst hc
      simp
    · by_cases hn : n ≤ c
      · rw [if_pos hn, if_pos hn, if_neg hc, Option.none_or, List.getElem?_append]
        split
        · rfl
        · rw [List.getElem?_eq_none (by omega), List.getElem?_eq_none (by simp; omega)]
      · simp [hc, hn]

/-- Writes into one row: each of its columns holds the last word written there, or what it held. -/
theorem Buf.get_foldl_put_row {row r c : Nat} (hc : c < 4096) (b : Buf) {l : List (Nat × W32)} (hl : ∀ x ∈ l, x.1 < 4096) :
    Buf.get ((l.map fun x => ((r, x.1), x.2)).foldl (fun (x : Buf) w => x.put w.1.1 w.1.2 w.2) b) row c =
      if row = r then (lastWord l c).getD (b.get row c) else b.get row c := by
  induction l using List.reverseRecOn with
  | nil => simp [lastWord, alGet]
  | append_singleton l x ih =>
    have ih := ih fun y hy => hl y (List.mem_append_left _ hy)
    rw [List.map_append, List.foldl_append, lastWord_append, lastWord_singleton]
    simp only [List.map_cons, List.map_nil, List.foldl_cons, List.foldl_nil]
    by_cases h : (row, c) = (r, x.1)
    · obtain ⟨rfl, rfl⟩ := Prod.mk.inj h
      simp [Buf.get_put_same]
    · rw [Buf.get_put_ne hc (hl x (by simp)) h, ih]
      by_cases hr : row = r
      · have hx : x.1 ≠ c := fun e => h (by rw [hr, e])
        simp [hr, hx]
      · simp [hr]

/-- Rows written one after another, each by its own list of columns and words. -/
theorem Build.get_putBuf_rows {b : Build} {i : Fin 4} {f : Nat → List (Nat × W32)} {n row c : Nat} (hc : c < 4096)
    (hf : ∀ r, ∀ x ∈ f r, x.1 < 4096) :
    Buf.get (b.putBuf i ((List.range n).flatMap fun r => (f r).map fun x => ((r, x.1), x.2))).ctx.v[i] row c =
      if row < n then (lastWord (f row) c).getD (Buf.get b.ctx.v[i] row c) else Buf.get b.ctx.v[i] row c := by
  have hrows : ∀ b0 : Buf, Buf.get (((List.range n).flatMap fun r => (f r).map fun x => ((r, x.1), x.2)).foldl
      (fun (x : Buf) w => x.put w.1.1 w.1.2 w.2) b0) row c =
      if row < n then (lastWord (f row) c).getD (b0.get row c) else b0.get row c := fun b0 => by
    induction n with
    | zero => simp
    | succ n ih =>
      rw [List.range_succ, List.flatMap_append, List.foldl_append, List.flatMap_singleton, Buf.get_foldl_put_row hc _ (hf n), ih]
      by_cases hrow : row = n
      · subst hrow
        simp
      · have hlt : row < n + 1 ↔ row < n := by omega
        simp [hrow, hlt]
  simpa [Build.putBuf] using hrows b.ctx.v[i]

/-! ### The candidates of a row (R138) -/

theorem length_insertCand_le (cs : List (Fp × Nat)) (x : Fp × Nat) : (insertCand cs x).length ≤ 256 :=
  List.length_take_le ..

theorem length_foldl_insertCand_le (xs : List (Fp × Nat)) {cs : List (Fp × Nat)} (h : cs.length ≤ 256) :
    (xs.foldl insertCand cs).length ≤ 256 := by
  induction xs generalizing cs with
  | nil => exact h
  | cons x xs ih => exact ih (length_insertCand_le cs x)

@[simp] theorem SampState.best_cand (s : SampState) (v : View) (p : SampParams) (y : Fp) (idx : Nat) :
    (s.best v p y idx).cand = s.cand := by
  unfold SampState.best
  exact (apply_ite SampState.cand _ _ _).trans (ite_self _)

theorem SampState.foldl_best_cand (v : View) (p : SampParams) (xs : List (Fp × Nat)) (s : SampState) :
    (xs.foldl (fun s x => s.best v p x.1 x.2) s).cand = s.cand := by
  induction xs generalizing s with
  | nil => rfl
  | cons x xs ih => rw [List.foldl_cons, ih, SampState.best_cand]

/-- A chunk leaves at most 256 candidates. -/
theorem SampState.length_fold_cand_le {s : SampState} (h : s.cand.length ≤ 256) (v : View) (p : SampParams) (cols : Nat)
    (es : List Entry1) : (s.fold v p cols es).cand.length ≤ 256 := by
  unfold SampState.fold
  dsimp only
  split
  · exact h
  · split
    · rw [SampState.foldl_best_cand]
      split <;> exact length_foldl_insertCand_le _ h
    · split <;> exact length_foldl_insertCand_le _ h

theorem SampState.length_read_cand_le (word : Nat → W32) : (SampState.read word).cand.length ≤ 256 := by
  simp [SampState.read]

/-! ### The words of a state (R137) -/

/-- The words of a state in columns 0 to 6. -/
def SampState.heads (s : SampState) : List (Nat × W32) :=
  [(0, toF32 s.m), (1, toF32 s.sum), (2, toF32 s.bkey), (3, s.bidx), (4, BitVec.ofNat 32 s.cand.length), (5, s.flag),
    (6, toF32 s.by_)]

/-- A state's word at a column: the index of a candidate, the score of one, or one of the first words. -/
theorem SampState.lastWord_words (s : SampState) (c : Nat) : lastWord s.words c =
    ((if 264 ≤ c then s.cand[c - 264]?.map fun x => BitVec.ofNat 32 x.2 else none).or
      ((if 8 ≤ c then s.cand[c - 8]?.map fun x => toF32 x.1 else none).or (lastWord s.heads c))) := by
  rw [SampState.words, lastWord_append, lastWord_append, lastWord_mapIdx, lastWord_mapIdx]
  rfl

theorem SampState.lastWord_words_head (s : SampState) {c : Nat} (h : c < 8) : lastWord s.words c = lastWord s.heads c := by
  rw [SampState.lastWord_words, if_neg (by omega), if_neg (by omega), Option.none_or, Option.none_or]

theorem SampState.lastWord_words_index {s : SampState} {i : Nat} {x : Fp × Nat} (h : s.cand[i]? = some x) :
    lastWord s.words (264 + i) = some (BitVec.ofNat 32 x.2) := by
  rw [SampState.lastWord_words, if_pos (by omega), Nat.add_sub_cancel_left, h]
  rfl

theorem SampState.lastWord_words_score {s : SampState} (hlen : s.cand.length ≤ 256) {i : Nat} {x : Fp × Nat}
    (h : s.cand[i]? = some x) : lastWord s.words (8 + i) = some (toF32 x.1) := by
  have hi : i < s.cand.length := (List.getElem?_eq_some_iff.mp h).1
  rw [SampState.lastWord_words, if_neg (by omega), if_pos (by omega), Nat.add_sub_cancel_left, h]
  rfl

/-- The columns that a state's words take. -/
theorem SampState.column_of_mem_words {s : SampState} {x : Nat × W32} (h : x ∈ s.words) :
    x.1 < 7 ∨ 8 ≤ x.1 ∧ x.1 < 264 + s.cand.length := by
  simp only [SampState.words, List.mem_append, List.mem_mapIdx] at h
  rcases h with (h | ⟨i, hi, rfl⟩) | ⟨i, hi, rfl⟩
  · left
    simp only [List.mem_cons, List.not_mem_nil, or_false] at h
    rcases h with rfl | rfl | rfl | rfl | rfl | rfl | rfl <;> simp
  · omega
  · omega

/-! ### One row of VSAMP (R136-R142) -/

/-- The state that VSAMP takes a row's chunk to: a new one, or D's (R137). -/
def sampStart (v : View) (o : VOps) (r : Nat) : SampState :=
  if o.fn.val % 4 = 0 ∨ o.fn.val % 4 = 3 then SampState.init else SampState.read fun c => v.buf o.d r c

/-- The entries of a row's chunk (R138, R142). -/
def sampEntries (v : View) (o : VOps) (r : Nat) : List Entry1 :=
  (List.range o.cols.toNat).map fun i =>
    if o.fn.val < 4 then sampEntry (sampParams (v.buf o.y r)) (ofBf (v.buf o.x r i)) ((v.ctx.s[o.ss].val.toNat : Int) + i)
    else if v.buf o.z r i = 0xFFFFFFFF then .skip
    else sampEntry (sampParams (v.buf o.y r)) (ofBf (v.buf o.x r i)) ((v.ctx.s[o.ss].val.toNat : Int) + (v.buf o.z r i).toInt)

/-- The state after a row's chunk. -/
def sampNext (v : View) (o : VOps) (r : Nat) : SampState :=
  if (sampParams (v.buf o.y r)).ok then
    (sampStart v o r).fold v (sampParams (v.buf o.y r)) o.cols.toNat (sampEntries v o r)
  else { sampStart v o r with flag := (sampStart v o r).flag ||| 4 }

theorem length_sampNext_cand_le (v : View) (o : VOps) (r : Nat) : (sampNext v o r).cand.length ≤ 256 := by
  have hstart : (sampStart v o r).cand.length ≤ 256 := by
    unfold sampStart
    split
    · exact Nat.zero_le _
    · exact SampState.length_read_cand_le _
  unfold sampNext
  split
  · exact SampState.length_fold_cand_le hstart ..
  · exact hstart

/-- The selection of a row's last chunk: none where INVT is not above 0 (R138, R139). -/
def sampResult (v : View) (o : VOps) (r : Nat) : SampResult :=
  if (sampParams (v.buf o.y r)).ok then (sampNext v o r).select v (sampParams (v.buf o.y r))
  else { token := 0xFFFFFFFF, logp := 0x7FC00000, flags := (sampNext v o r).flag ||| 2, count := 0 }

theorem sampResult_of_ok {v : View} {o : VOps} {r : Nat} (h : (sampParams (v.buf o.y r)).ok = true) :
    sampResult v o r = (sampNext v o r).select v (sampParams (v.buf o.y r)) := if_pos h

theorem sampResult_of_not_ok {v : View} {o : VOps} {r : Nat} (h : (sampParams (v.buf o.y r)).ok = false) :
    sampResult v o r = { token := 0xFFFFFFFF, logp := 0x7FC00000, flags := (sampNext v o r).flag ||| 2, count := 0 } :=
  if_neg (by simp [h])

/-- The columns that a selection takes (R137). -/
def SampResult.words (q : SampResult) : List (Nat × W32) :=
  [(0, q.token), (1, q.logp), (2, q.flags), (3, BitVec.ofNat 32 q.count)]

/-- What VSAMP writes into a row, column by column. -/
def sampWords (v : View) (o : VOps) (r : Nat) : List (Nat × W32) :=
  if o.fn.val % 4 = 2 ∨ o.fn.val % 4 = 3 then (sampNext v o r).words ++ (sampResult v o r).words
  else (sampNext v o r).words

theorem sampRow_eq (v : View) (o : VOps) (r : Nat) : sampRow v o r = (sampWords v o r).map fun x => ((r, x.1), x.2) := rfl

theorem sampWords_of_running {v : View} {o : VOps} (h : o.fn.val % 4 = 0 ∨ o.fn.val % 4 = 1) (r : Nat) :
    sampWords v o r = (sampNext v o r).words := if_neg (by omega)

/-- On a last chunk the selection's words stand over those of the state. -/
theorem lastWord_sampWords_of_last {v : View} {o : VOps} {r c : Nat} {w : W32} (h : o.fn.val % 4 = 2 ∨ o.fn.val % 4 = 3)
    (hw : lastWord (sampResult v o r).words c = some w) : lastWord (sampWords v o r) c = some w := by
  rw [sampWords, if_pos h, lastWord_append, hw]
  rfl

/-- Columns 4 and above hold words of the state whether or not the chunk is the last. -/
theorem lastWord_sampWords_of_ge (v : View) (o : VOps) (r : Nat) {c : Nat} (h : 4 ≤ c) :
    lastWord (sampWords v o r) c = lastWord (sampNext v o r).words c := by
  unfold sampWords
  split
  · rw [lastWord_append, lastWord_eq_none (by simp [SampResult.words]; omega), Option.none_or]
  · rfl

/-- VSAMP writes nothing into column 7 nor past the candidates. -/
theorem lastWord_sampWords_outside (v : View) (o : VOps) (r : Nat) {c : Nat} (h : c = 7 ∨ 520 ≤ c) :
    lastWord (sampWords v o r) c = none := by
  have hlen := length_sampNext_cand_le v o r
  rw [lastWord_sampWords_of_ge v o r (by omega)]
  exact lastWord_eq_none fun x hx => by
    have := SampState.column_of_mem_words hx
    omega

section
variable {v : View} {o : VOps} {r : Nat} {D : Nat → W32}
  (hD : ∀ c w, c < 4096 → lastWord (sampWords v o r) c = some w → D c = w)
include hD

/-- A row of D with VSAMP's words holds in columns 4 and above the words of the state. -/
theorem eq_of_lastWord_sampNext {c : Nat} {w : W32} (h4 : 4 ≤ c) (hc : c < 4096)
    (hw : lastWord (sampNext v o r).words c = some w) : D c = w :=
  hD c w hc ((lastWord_sampWords_of_ge v o r h4).trans hw)

theorem sampWords_candidate {i : Nat} {x : Fp × Nat} (hx : (sampNext v o r).cand[i]? = some x) :
    D (8 + i) = toF32 x.1 ∧ D (264 + i) = BitVec.ofNat 32 x.2 := by
  have hlen := length_sampNext_cand_le v o r
  have hi : i < (sampNext v o r).cand.length := (List.getElem?_eq_some_iff.mp hx).1
  exact ⟨eq_of_lastWord_sampNext hD (by omega) (by omega) (SampState.lastWord_words_score hlen hx),
    eq_of_lastWord_sampNext hD (by omega) (by omega) (SampState.lastWord_words_index hx)⟩

theorem sampWords_heads : D 4 = BitVec.ofNat 32 (sampNext v o r).cand.length ∧ D 5 = (sampNext v o r).flag ∧
    D 6 = toF32 (sampNext v o r).by_ := by
  have hhead : ∀ c w, 4 ≤ c → c < 8 → lastWord (sampNext v o r).heads c = some w → D c = w := fun c w h4 h8 hw =>
    eq_of_lastWord_sampNext hD h4 (by omega) ((SampState.lastWord_words_head _ h8).trans hw)
  exact ⟨hhead 4 _ (by omega) (by omega) rfl, hhead 5 _ (by omega) (by omega) rfl, hhead 6 _ (by omega) (by omega) rfl⟩

theorem sampWords_running (hkind : o.fn.val % 4 = 0 ∨ o.fn.val % 4 = 1) : D 0 = toF32 (sampNext v o r).m ∧
    D 1 = toF32 (sampNext v o r).sum ∧ D 2 = toF32 (sampNext v o r).bkey ∧ D 3 = (sampNext v o r).bidx := by
  have hhead : ∀ c w, c < 4 → lastWord (sampNext v o r).heads c = some w → D c = w := fun c w hc hw =>
    hD c w (by omega) (by rw [sampWords_of_running hkind, SampState.lastWord_words_head _ (by omega), hw])
  exact ⟨hhead 0 _ (by omega) rfl, hhead 1 _ (by omega) rfl, hhead 2 _ (by omega) rfl, hhead 3 _ (by omega) rfl⟩

theorem sampWords_selection (hkind : o.fn.val % 4 = 2 ∨ o.fn.val % 4 = 3) {q : SampResult} (hq : sampResult v o r = q) :
    D 0 = q.token ∧ D 1 = q.logp ∧ D 2 = q.flags ∧ D 3 = BitVec.ofNat 32 q.count := by
  have hresult : ∀ c w, c < 4 → lastWord q.words c = some w → D c = w := fun c w hc hw =>
    hD c w (by omega) (lastWord_sampWords_of_last hkind (hq ▸ hw))
  exact ⟨hresult 0 _ (by omega) rfl, hresult 1 _ (by omega) rfl, hresult 2 _ (by omega) rfl, hresult 3 _ (by omega) rfl⟩

end

theorem vsampBody_eq {v : View} {sl : Slot} {o : VOps} {b : Build} (hb : b.special = false) : vsampBody v sl o b =
    .ok (Build.putBuf { b with special := true } o.d
      ((List.range o.rows.toNat).flatMap fun r => (sampWords v o r).map fun x => ((r, x.1), x.2))) :=
  special_of_false hb _

theorem sampWords_column_lt {v : View} {o : VOps} {r : Nat} : ∀ x ∈ sampWords v o r, x.1 < 4096 := by
  have hlen := length_sampNext_cand_le v o r
  have hstate : ∀ x ∈ (sampNext v o r).words, x.1 < 4096 := fun x hx => by
    have := SampState.column_of_mem_words hx
    omega
  unfold sampWords
  split
  · intro x hx
    refine (List.mem_append.mp hx).elim (hstate x) fun hx => ?_
    simp only [SampResult.words, List.mem_cons, List.not_mem_nil, or_false] at hx
    rcases hx with rfl | rfl | rfl | rfl <;> simp
  · exact hstate

/-! ### Why a token finishes its request (R146, R147) -/

section
variable {q : ReqSlot} {t : W32} {tidx j : Nat}

/-- Sequence `j` ends with the tokens accepted last. -/
def ReqSlot.endsWith (q : ReqSlot) (t : W32) (tidx j : Nat) : Prop :=
  (q.word (18 + j)).toNat ≤ tidx ∧ ((q.recent t).take (q.word (18 + j)).toNat).reverse = q.stopSeq j

theorem ReqSlot.stopReason_of_id (hj : j < min (q.word 8).toNat 8) (ht : q.word (9 + j) = t)
    (hfirst : ∀ k, k < j → q.word (9 + k) ≠ t) : q.stopReason t tidx = some (1, j) := by
  have hfind : ((List.range (min (q.word 8).toNat 8)).find? fun j => decide (q.word (9 + j) = t)) = some j :=
    List.find?_range_eq_some.mpr ⟨decide_eq_true ht, List.mem_range.mpr hj, fun k hk => by simpa using hfirst k hk⟩
  rw [ReqSlot.stopReason, hfind]

/-- No stop token is `t`. -/
theorem ReqSlot.find_stopId_none (h : ∀ k, k < min (q.word 8).toNat 8 → q.word (9 + k) ≠ t) :
    ((List.range (min (q.word 8).toNat 8)).find? fun j => decide (q.word (9 + j) = t)) = none :=
  List.find?_range_eq_none.mpr fun k hk => by simpa using h k hk

theorem ReqSlot.stopReason_of_sequence (hids : ∀ k, k < min (q.word 8).toNat 8 → q.word (9 + k) ≠ t)
    (hj : j < min (q.word 17).toNat 4) (hends : q.endsWith t tidx j) (hfirst : ∀ k, k < j → ¬ q.endsWith t tidx k) :
    q.stopReason t tidx = some (2, j) := by
  have hfind : ((List.range (min (q.word 17).toNat 4)).find? fun j => decide ((q.word (18 + j)).toNat ≤ tidx) &&
      decide (((q.recent t).take (q.word (18 + j)).toNat).reverse = q.stopSeq j)) = some j :=
    List.find?_range_eq_some.mpr ⟨by simpa [ReqSlot.endsWith] using hends, List.mem_range.mpr hj, fun k hk => by
      simpa [ReqSlot.endsWith, or_iff_not_imp_left] using hfirst k hk⟩
  rw [ReqSlot.stopReason, ReqSlot.find_stopId_none hids, hfind]

theorem ReqSlot.stopReason_of_count {n : W32} (hids : ∀ k, k < min (q.word 8).toNat 8 → q.word (9 + k) ≠ t)
    (hseqs : ∀ k, k < min (q.word 17).toNat 4 → ¬ q.endsWith t n.toNat k) :
    q.stopReason t n.toNat = if q.word 54 ≠ 0 ∧ q.word 54 = n then some (3, 0) else none := by
  have hfind : ((List.range (min (q.word 17).toNat 4)).find? fun j => decide ((q.word (18 + j)).toNat ≤ n.toNat) &&
      decide (((q.recent t).take (q.word (18 + j)).toNat).reverse = q.stopSeq j)) = none :=
    List.find?_range_eq_none.mpr fun k hk => by simpa [ReqSlot.endsWith, or_iff_not_imp_left] using hseqs k hk
  rw [ReqSlot.stopReason, ReqSlot.find_stopId_none hids, hfind]
  simp only [BitVec.toNat_inj, eq_comm (a := n)]

end

/-! ### The request after a token (R146) -/

section
variable {q : ReqSlot} {t : W32}

theorem ReqSlot.accept_of_negative (h : t.toInt < 0) : q.accept t = { q with finish := some (4, 0) } := if_pos h

variable (h : 0 ≤ t.toInt)
include h

/-- Of a request only its row and its end change. -/
theorem ReqSlot.accept_eq : q.accept t = { q with row := (q.accept t).row, finish := (q.accept t).finish } := by
  rw [ReqSlot.accept, asI32, if_neg (Int.not_lt.mpr h)]

theorem ReqSlot.accept_finish : (q.accept t).finish = q.stopReason t (q.word 5 + 1).toNat := by
  rw [ReqSlot.accept, asI32, if_neg (Int.not_lt.mpr h)]

theorem ReqSlot.accept_word {i : Nat} (hi : i < 64) : (q.accept t).word i =
    if i = 5 then q.word 5 + 1 else if i = 57 then t else if 58 ≤ i then q.word (i - 1) else q.word i := by
  have hword : q.word i = q.row[i] := by simp [ReqSlot.word, hi]
  rw [hword, ReqSlot.accept, asI32, if_neg (Int.not_lt.mpr h)]
  simp [ReqSlot.word, hi]

theorem ReqSlot.accept_word_tidx : (q.accept t).word 5 = q.word 5 + 1 := ReqSlot.accept_word h (by decide)

theorem ReqSlot.accept_word_newest : (q.accept t).word 57 = t := ReqSlot.accept_word h (by decide)

/-- Each accepted token moves one place on in HIST. -/
theorem ReqSlot.accept_word_older {i : Nat} (hlo : 57 ≤ i) (hhi : i < 63) : (q.accept t).word (i + 1) = q.word i := by
  rw [ReqSlot.accept_word h (by omega), if_neg (by omega), if_neg (by omega), if_pos (by omega), Nat.add_sub_cancel]

theorem ReqSlot.accept_word_other {i : Nat} (hi : i < 57) (h5 : i ≠ 5) : (q.accept t).word i = q.word i := by
  rw [ReqSlot.accept_word h (by omega), if_neg h5, if_neg (by omega), if_neg (by omega)]

end

/-! ### The rows of VSTOP (R145-R147) -/

section
variable (v : View) (o : VOps) (r : Nat) (qs : List (Nat × ReqSlot))

/-- The slot that a row names. -/
def stopSlot : Int := asI32 (v.buf o.y r 0)

/-- The active request that a row names, as the stop unit comes to the row. -/
def stopActive : Option ReqSlot :=
  match if stopSlot v o r < 0 then none else alGet qs (stopSlot v o r).toNat with
  | some q => if q.finish.isNone && v.served q then some q else none
  | none => none

/-- The requests as a row leaves them. -/
def stopNext : List (Nat × ReqSlot) :=
  match stopActive v o r qs with
  | none => qs
  | some q => alPut qs (stopSlot v o r).toNat (q.accept (v.buf o.x r 0))

/-- What a row leaves in column 0 of D. -/
def stopWord : W32 :=
  match stopActive v o r qs with
  | none => 0
  | some q => if (q.accept (v.buf o.x r 0)).finish.isSome then 1 else 0

theorem stopRows_cons (rs : List Nat) : stopRows v o (r :: rs) qs =
    ((stopRows v o rs (stopNext v o r qs)).1, ((r, 0), stopWord v o r qs) :: (stopRows v o rs (stopNext v o r qs)).2) := by
  have hrow : stopRows v o (r :: rs) qs = match stopActive v o r qs with
      | none => ((stopRows v o rs qs).1, ((r, 0), 0) :: (stopRows v o rs qs).2)
      | some q =>
        let q' := q.accept (v.buf o.x r 0)
        let rest := stopRows v o rs (alPut qs (stopSlot v o r).toNat q')
        (rest.1, ((r, 0), if q'.finish.isSome then 1 else 0) :: rest.2) := rfl
  rw [hrow, stopNext, stopWord]
  cases stopActive v o r qs <;> rfl

/-- The requests as the stop unit comes to row `r`. -/
def stopBefore : Nat → List (Nat × ReqSlot)
  | 0 => v.tenant.slots
  | r + 1 => stopNext v o r (stopBefore r)

end

theorem stopRows_range' (v : View) (o : VOps) (k n : Nat) : stopRows v o (List.range' k n) (stopBefore v o k) =
    (stopBefore v o (k + n), (List.range' k n).map fun r => ((r, 0), stopWord v o r (stopBefore v o r))) := by
  induction n generalizing k with
  | zero => rfl
  | succ n ih =>
    have hrest := ih (k + 1)
    rw [stopBefore] at hrest
    rw [List.range'_succ, stopRows_cons, hrest, List.map_cons, Nat.add_right_comm, Nat.add_assoc]

/-- All rows of VSTOP: the requests after the last, and one word of D for each. -/
theorem stopRows_range (v : View) (o : VOps) (n : Nat) : stopRows v o (List.range n) v.tenant.slots =
    (stopBefore v o n, (List.range n).map fun r => ((r, 0), stopWord v o r (stopBefore v o r))) := by
  have h := stopRows_range' v o 0 n
  rwa [Nat.zero_add, ← List.range_eq_range'] at h

/-! ### The requests row by row -/

section
variable {v : View} {o : VOps} {r n k : Nat} {q : ReqSlot} {qs : List (Nat × ReqSlot)}

theorem stopActive_eq_some : stopActive v o r qs = some q ↔
    0 ≤ stopSlot v o r ∧ alGet qs (stopSlot v o r).toNat = some q ∧ q.finish = none ∧ v.served q = true := by
  unfold stopActive
  by_cases hneg : stopSlot v o r < 0
  · simp [hneg]
  · rw [if_neg hneg]
    cases alGet qs (stopSlot v o r).toNat with
    | none => simp
    | some q0 =>
      simp only [Option.ite_none_right_eq_some, Bool.and_eq_true, Option.isNone_iff_eq_none, Option.some.injEq]
      constructor
      · rintro ⟨⟨hfin, hserved⟩, rfl⟩
        exact ⟨Int.not_lt.mp hneg, rfl, hfin, hserved⟩
      · rintro ⟨-, rfl, hfin, hserved⟩
        exact ⟨⟨hfin, hserved⟩, rfl⟩

theorem stopNext_of_active (h : stopActive v o r qs = some q) :
    stopNext v o r qs = alPut qs (stopSlot v o r).toNat (q.accept (v.buf o.x r 0)) := by
  rw [stopNext, h]

theorem stopNext_of_none (h : stopActive v o r qs = none) : stopNext v o r qs = qs := by
  rw [stopNext, h]

theorem stopWord_of_active (h : stopActive v o r qs = some q) :
    stopWord v o r qs = if (q.accept (v.buf o.x r 0)).finish = none then 0 else 1 := by
  rw [stopWord, h]
  dsimp only
  cases (q.accept (v.buf o.x r 0)).finish <;> rfl

theorem stopWord_of_none (h : stopActive v o r qs = none) : stopWord v o r qs = 0 := by
  rw [stopWord, h]

/-- A row leaves every request alone but the active one that it names. -/
theorem alGet_stopNext_of_ne (h : ∀ q, stopActive v o r qs = some q → stopSlot v o r ≠ k) :
    alGet (stopNext v o r qs) k = alGet qs k := by
  cases hact : stopActive v o r qs with
  | none => rw [stopNext_of_none hact]
  | some q =>
    have hpos := (stopActive_eq_some.mp hact).1
    have hne := h q hact
    rw [stopNext_of_active hact, alGet_alPut_ne _ (by omega)]

/-- A request that no earlier row names stands as before the bundle. -/
theorem alGet_stopBefore_of_unnamed (h : ∀ j, j < n → stopSlot v o j ≠ k) :
    alGet (stopBefore v o n) k = alGet v.tenant.slots k := by
  induction n with
  | zero => rfl
  | succ n ih =>
    rw [stopBefore, alGet_stopNext_of_ne fun _ _ => h n (Nat.lt_succ_self n)]
    exact ih fun j hj => h j (Nat.lt_succ_of_lt hj)

/-- A request that is not active before the bundle stands through all rows. -/
theorem alGet_stopBefore_of_inactive
    (h : ∀ q, alGet v.tenant.slots k = some q → q.finish ≠ none ∨ v.served q = false) :
    alGet (stopBefore v o n) k = alGet v.tenant.slots k := by
  induction n with
  | zero => rfl
  | succ n ih =>
    rw [stopBefore, alGet_stopNext_of_ne fun q hact hslot => ?_, ih]
    obtain ⟨-, hq, hfin, hserved⟩ := stopActive_eq_some.mp hact
    rw [hslot, Int.toNat_natCast, ih] at hq
    simpa [hfin, hserved] using h q hq

/-- A row that names no active request leaves zero. -/
theorem stopWord_of_inactive (h : 0 ≤ stopSlot v o r → ∀ q, alGet v.tenant.slots (stopSlot v o r).toNat = some q →
    q.finish ≠ none ∨ v.served q = false) : stopWord v o r (stopBefore v o r) = 0 := by
  refine stopWord_of_none (Option.eq_none_iff_forall_ne_some.mpr fun q hact => ?_)
  obtain ⟨hpos, hq, hfin, hserved⟩ := stopActive_eq_some.mp hact
  rw [alGet_stopBefore_of_inactive (h hpos)] at hq
  simpa [hfin, hserved] using h hpos q hq

/-- The first row that names an active request finds it as before the bundle. -/
theorem stopActive_of_first (hpos : 0 ≤ stopSlot v o r) (hq : alGet v.tenant.slots (stopSlot v o r).toNat = some q)
    (hfin : q.finish = none) (hserved : v.served q = true) (hfirst : ∀ j, j < r → stopSlot v o j ≠ stopSlot v o r) :
    stopActive v o r (stopBefore v o r) = some q := by
  refine stopActive_eq_some.mpr ⟨hpos, ?_, hfin, hserved⟩
  rwa [alGet_stopBefore_of_unnamed fun j hj => by rw [Int.toNat_of_nonneg hpos]; exact hfirst j hj]

theorem mem_alPut_iff {α : Type} {m : List (Nat × α)} {k : Nat} {x : α} {e : Nat × α} :
    e ∈ alPut m k x ↔ e = (k, x) ∨ e ∈ m ∧ e.1 ≠ k := by
  simp only [alPut, List.mem_append, List.mem_cons, List.mem_filter, decide_eq_true_eq, ne_iff_lt_or_gt]
  tauto

/-- Once a row has put its request, that one alone stands at its slot, as long as no later row names the slot. -/
theorem mem_stopBefore_of_active (hact : stopActive v o r (stopBefore v o r) = some q) (hn : r < n)
    (hlast : ∀ j, r < j → j < n → stopSlot v o j ≠ stopSlot v o r) (x : ReqSlot) :
    ((stopSlot v o r).toNat, x) ∈ stopBefore v o n ↔ x = q.accept (v.buf o.x r 0) := by
  induction n, hn using Nat.le_induction with
  | base =>
    rw [stopBefore, stopNext_of_active hact, mem_alPut_iff]
    simp
  | succ n hn ih =>
    have ih := ih fun j hj hjn => hlast j hj (Nat.lt_succ_of_lt hjn)
    have hne := hlast n hn (Nat.lt_succ_self n)
    have hpos := (stopActive_eq_some.mp hact).1
    rw [stopBefore]
    cases hnext : stopActive v o n (stopBefore v o n) with
    | none => rw [stopNext_of_none hnext, ih]
    | some q' =>
      have hpos' := (stopActive_eq_some.mp hnext).1
      have hkey : (stopSlot v o r).toNat ≠ (stopSlot v o n).toNat := by omega
      rw [stopNext_of_active hnext, mem_alPut_iff]
      simp [hkey, ih]

/-- Where the bundle's requests are those that the stop unit has changed, one that stands alone at its slot stands there as the
bundle retires. -/
theorem alGet_requests_changed {b : Build}
    (hslots : b.slots = qs.filter fun e => decide (alGet v.tenant.slots e.1 ≠ some e.2)) (hmem : ∀ x, (k, x) ∈ qs ↔ x = q) :
    alGet (b.requests v) k = some q := by
  rw [Build.requests, hslots]
  refine alGet_foldl_alPut _ (fun e he hk => ?_) _ ?_
  · subst hk
    exact (hmem e.2).mp (List.mem_of_mem_filter he)
  · by_cases hsame : alGet v.tenant.slots k = some q
    · exact .inr hsame
    · exact .inl (List.mem_filter.mpr ⟨(hmem q).mpr rfl, decide_eq_true hsame⟩)

/-- A bundle's first VSTOP writes a word for each row into column 0 of D and adds the requests that it has changed. -/
theorem vstopBody_eq {sl : Slot} {b : Build} (hb : b.special = false) : vstopBody v sl o b =
    .ok { b.putBuf o.d (((List.range o.rows.toNat).map fun r => (r, 0)).map fun p =>
        (p, stopWord v o p.1 (stopBefore v o p.1))) with
      special := true
      slots := b.slots ++ (stopBefore v o o.rows.toNat).filter fun e => decide (alGet v.tenant.slots e.1 ≠ some e.2) } := by
  rw [vstopBody, special_of_false hb, stopRows_range, List.map_map]
  rfl

end

end Sys2Proof.Machine

open Sys2Proof.Machine

/-- Settles O8: VSAMP by the words that it writes into each row, VSTOP by the requests as the stop unit comes to each row. -/
theorem samplingAndStopWriteTheirBuffer : Obligations.SamplingAndStopWriteTheirBuffer := by
  unfold Obligations.SamplingAndStopWriteTheirBuffer
  intro s sl o r b hspecial v X Y
  refine ⟨?vsamp, ?vstop⟩
  case vsamp =>
    intro h base par entries old new
    have hnew : new = sampNext v o := rfl
    clear_value new
    subst hnew
    have hget : ∀ row c, c < 4096 → _ := fun row c hc =>
      Build.get_putBuf_rows (b := { b with pos := (vPos o).num, special := true }) (i := o.d) (n := o.rows.toNat) (row := row)
        hc fun r => sampWords_column_lt (v := v) (o := o) (r := r)
    refine ⟨_, h.leaves rfl (vsampBody_eq (b := { b with pos := (vPos o).num }) hspecial), fun j hj => Build.putBuf_other hj,
      fun row col hcol hout => ?frame, fun row hrow => ?row, rfl⟩
    case frame =>
      refine (hget row col hcol).trans ?_
      split
      · next hrow =>
        rw [lastWord_sampWords_outside v o row (hout.resolve_left (by omega))]
        rfl
      · rfl
    case row =>
      intro D
      have hD : ∀ c w, c < 4096 → lastWord (sampWords v o row) c = some w → D c = w := fun c w hc hw =>
        (hget row c hc).trans (by rw [if_pos hrow, hw]; rfl)
      obtain ⟨h4, h5, h6⟩ := sampWords_heads hD
      exact ⟨h4, h5, h6, fun i x => sampWords_candidate hD, sampWords_running hD, fun hkind =>
        ⟨fun hok => sampWords_selection hD hkind (sampResult_of_ok hok),
          fun hok => sampWords_selection hD hkind (sampResult_of_not_ok hok)⟩⟩
  case vstop =>
    intro h
    have hget : ∀ row c, c < 4096 → _ := fun row c hc =>
      Build.get_putBuf (b := b) (i := o.d) (l := (List.range o.rows.toNat).map fun r => (r, 0)) (r := row)
        (f := fun r _ => stopWord v o r (stopBefore v o r)) hc (by simp)
    refine ⟨_, h.leaves rfl (vstopBody_eq (b := { b with pos := (vPos o).num }) hspecial), fun j hj => Build.putBuf_other hj,
      fun row col hcol hout => ?frame, fun row hrow => ?row, rfl⟩
    case frame =>
      refine (hget row col hcol).trans (if_neg fun hmem => ?_)
      have hplace : row < o.rows.toNat ∧ 0 = col := by simpa using hmem
      omega
    case row =>
      intro slot t D
      have hD : D = stopWord v o row (stopBefore v o row) := (hget row 0 (by omega)).trans (if_pos (by simpa using hrow))
      have hslots : ∀ j, Y j 0 ≠ Y row 0 → stopSlot v o j ≠ stopSlot v o row := fun j hne => mt BitVec.toInt_inj.mp hne
      refine ⟨fun hnone => ?none, fun q hpos hq => ⟨fun hdone => ?inactive, fun hfin hserved hfirst => ?active⟩⟩
      case none =>
        refine hD.trans (stopWord_of_inactive fun hpos q hq => ?_)
        have hfree := hnone.resolve_left (Int.not_lt.mpr hpos)
        exact nomatch hfree.symm.trans hq
      case inactive =>
        refine hD.trans (stopWord_of_inactive fun _ q' hq' => ?_)
        obtain rfl : q = q' := Option.some.inj (hq.symm.trans hq')
        exact hdone
      case active =>
        have hact : stopActive v o row (stopBefore v o row) = some q :=
          stopActive_of_first hpos hq hfin hserved fun j hj => hslots j (hfirst j hj)
        refine ⟨q.accept t, hD.trans (stopWord_of_active hact), fun hlast hb => ?retired, ReqSlot.accept_of_negative,
          fun ht => ?accepted⟩
        case retired =>
          exact alGet_requests_changed (congrArg (· ++ _) hb)
            (mem_stopBefore_of_active hact hrow fun j hj hn => hslots j (hlast j hj hn))
        case accepted =>
          have hfinish := ReqSlot.accept_finish (q := q) ht
          exact ⟨ReqSlot.accept_eq ht, ReqSlot.accept_word_tidx ht, ReqSlot.accept_word_newest ht,
            fun i => ReqSlot.accept_word_older ht, fun i => ReqSlot.accept_word_other ht,
            fun j hj hid hbefore => hfinish.trans (ReqSlot.stopReason_of_id hj hid hbefore), fun hids =>
            ⟨fun j hj hends hbefore => hfinish.trans (ReqSlot.stopReason_of_sequence hids hj hends hbefore),
              fun hseqs => hfinish.trans (ReqSlot.stopReason_of_count hids hseqs)⟩⟩
end

section
/-! ST.COLL over a group of one (R47, R168, R285). -/

namespace Sys2Proof.Machine

/-- Elements written one after another add to the bundle's writes of memory and of the scale state, and change nothing else. -/
theorem foldl_putBits {α : Type} (v : View) (tid : BitVec 20) (off : α → Nat) (bits : α → W32) (l : List α) (b : Build) :
    l.foldl (fun b x => b.putBits v tid (off x) (bits x)) b = { b with
      mem := b.mem ++ l.flatMap fun x => (v.bitWrites tid (off x) (bits x)).1
      scale := b.scale ++ l.flatMap fun x => (v.bitWrites tid (off x) (bits x)).2 } := by
  induction l generalizing b with
  | nil => simp
  | cons x l ih =>
    rw [List.foldl_cons, ih]
    simp [Build.putBits]

theorem Ctx.setP_keeps (c : Ctx) (d : Fin 16) (x : PredReg) : (c.setP d x).s = c.s ∧ (c.setP d x).v = c.v := by
  rw [Ctx.setP_eq]
  exact ⟨rfl, rfl⟩

section
variable {v : View} {o : MvOps} {f : Fmt}

/-- The rank's own contribution carries NONFINITE where an element of the descriptor's view is no finite value (R91, R285). -/
theorem soloView_ownNonfinite : (soloView v o f).ownNonfinite = true ↔
    ∃ i j, i < Desc.rows (v.desc o.td) ∧ j < Desc.cols (v.desc o.td) ∧
      (f.decode (v.bits (Desc.tid (v.desc o.td)) (Desc.offset (v.desc o.td) i j))).isFinite = false := by
  simp only [CollView.ownNonfinite, soloView, List.any_map, List.any_eq_true, Function.comp, Fp.nonfinite, Bool.not_eq_true']
  constructor
  · rintro ⟨p, hp, hbits⟩
    have hregion := mem_region.mp hp
    exact ⟨p.1, p.2, by omega, by omega, hbits⟩
  · rintro ⟨i, j, hi, hj, hbits⟩
    exact ⟨(i, j), mem_region.mpr (by omega), hbits⟩

variable {sl : Slot} {b : Build}

theorem soloBody_of_other (h0 : o.cfn ≠ 0) (h2 : o.cfn ≠ 2) : soloBody v sl o b f = b := by
  simp [soloBody, h0, h2]

/-- A sum leaves its NONFINITE in PD and marks the step; beside that it writes memory and the scale state alone. -/
theorem soloBody_of_sum (h : o.cfn = 0 ∨ o.cfn = 2) : ∃ mem scale late, soloBody v sl o b f = { b with
    mem := mem, scale := scale, latePreds := late
    ctx := b.ctx.setP o.pd ⟨(soloView v o f).ownNonfinite, true⟩
    counts := { b.counts with gradient := true, nonfinite := b.counts.nonfinite || (soloView v o f).ownNonfinite } } := by
  rw [soloBody]
  simp only [if_pos h, foldl_putBits]
  exact ⟨_, _, _, rfl⟩

end

/-- ST.COLL of a live group of its own tenant with one rank acts at once; the group's SQN rises as the bundle retires (R281). -/
theorem collBody_of_solo {c : Chip} {v : View} {sl : Slot} {o : MvOps} {b : Build} {g : Group} {f : Fmt}
    (hgroup : c.group o.grp = some g) (hone : g.g = 1) (hten : g.ten = v.ten) (hlive : g.dead = false)
    (hfmt : Desc.fmt (v.desc o.td) = some f) :
    collBody c v sl o b = .ok { soloBody v sl o b f with sqns := b.sqns ++ [o.grp] } := by
  simp [collBody, hgroup, hfmt, hten, hlive, hone]

end Sys2Proof.Machine

open Sys2Proof.Machine

/-- Settles O17: a sum by what it leaves beside its writes, any other function by the unchanged bundle. -/
theorem soloCollectiveFormsNonfinite : Obligations.SoloCollectiveFormsNonfinite := by
  unfold Obligations.SoloCollectiveFormsNonfinite
  intro s sl o r b g f hacts hgroup hone hten hlive hfmt v d
  have hbody : collBody s.chip v sl o { b with pos := 4 } = _ := collBody_of_solo hgroup hone hten hlive hfmt
  refine ⟨_, hacts.leaves rfl hbody, rfl, ?_⟩
  by_cases hsum : o.cfn = 0 ∨ o.cfn = 2
  · obtain ⟨mem, scale, late, hsolo⟩ := soloBody_of_sum (v := v) (f := f) (sl := sl) (b := { b with pos := 4 }) hsum
    rw [hsolo]
    obtain ⟨hscalars, hbuffers⟩ := Ctx.setP_keeps b.ctx o.pd ⟨(soloView v o f).ownNonfinite, true⟩
    refine ⟨rfl, fun h0 h2 => absurd hsum (not_or_intro h0 h2), fun _ => ⟨rfl, fun hpd => ?_, hscalars, hbuffers, rfl⟩⟩
    dsimp only
    rw [Ctx.setP_get, if_neg hpd]
    exact ⟨rfl, soloView_ownNonfinite⟩
  · obtain ⟨h0, h2⟩ := not_or.mp hsum
    rw [soloBody_of_other h0 h2]
    exact ⟨rfl, fun _ _ => rfl, fun h => absurd h hsum⟩
end

section
/-! MBATCH: the slot that a micro-batch takes, and R154's checks in their order. -/

namespace Sys2Proof.Machine

/-! ### The smallest free bucket (R154) -/

/-- In a list in order, of two elements the one that is found first stands before the other. -/
theorem eq_or_rel_of_idxOf_le {α : Type} [DecidableEq α] {R : α → α → Prop} {l : List α} (hl : l.Pairwise R) {a b : α}
    (ha : a ∈ l) (hb : b ∈ l) (h : l.idxOf a ≤ l.idxOf b) : a = b ∨ R a b := by
  obtain hlt | heq := h.lt_or_eq
  · have hrel := List.pairwise_iff_getElem.mp hl _ _ (List.idxOf_lt_length_iff.mpr ha) (List.idxOf_lt_length_iff.mpr hb) hlt
    rw [List.getElem_idxOf, List.getElem_idxOf] at hrel
    exact .inr hrel
  · exact .inl ((List.idxOf_inj ha).mp heq)

/-- The free slots whose bucket holds a length: bucket and slot number, in slot order. -/
def freeSlots (buckets taken : List Nat) (len : Nat) : List (Nat × Nat) :=
  buckets.zipIdx.filter fun x => decide (len ≤ x.1) && !taken.contains x.2

theorem mem_freeSlots {buckets taken : List Nat} {len b j : Nat} :
    (b, j) ∈ freeSlots buckets taken len ↔ buckets[j]? = some b ∧ len ≤ b ∧ j ∉ taken := by
  simp [freeSlots, List.mk_mem_zipIdx_iff_getElem?]

theorem freeSlots_ordered (buckets taken : List Nat) (len : Nat) : (freeSlots buckets taken len).Pairwise fun x y => x.2 < y.2 := by
  refine List.Pairwise.filter _ (List.pairwise_map.mp ?_)
  rw [List.zipIdx_map_snd]
  exact List.pairwise_lt_range'

theorem pickSlot_eq_argmin (buckets taken : List Nat) (len : Nat) :
    pickSlot buckets taken len = ((freeSlots buckets taken len).argmin Prod.fst).map Prod.snd := by
  refine congrArg (fun pick => ((freeSlots buckets taken len).foldl pick none).map Prod.snd) (funext fun best => funext fun x => ?_)
  cases best <;> rfl

/-- The slot picked is free, its bucket is the smallest that holds the length, and of equal buckets it is the first. -/
theorem pickSlot_eq_some {buckets taken : List Nat} {len j : Nat} (h : pickSlot buckets taken len = some j) :
    ∃ b, buckets[j]? = some b ∧ len ≤ b ∧ j ∉ taken ∧
      ∀ k x, buckets[k]? = some x → len ≤ x → k ∉ taken → b ≤ x ∧ (x = b → j ≤ k) := by
  rw [pickSlot_eq_argmin, Option.map_eq_some_iff] at h
  obtain ⟨⟨b, j⟩, hmin, rfl⟩ := h
  obtain ⟨hslot, hlen, hfree⟩ := mem_freeSlots.mp (List.argmin_mem hmin)
  refine ⟨b, hslot, hlen, hfree, fun k x hk hx hkfree => ?_⟩
  have hmem : (x, k) ∈ freeSlots buckets taken len := mem_freeSlots.mpr ⟨hk, hx, hkfree⟩
  refine ⟨List.le_of_mem_argmin hmem hmin, fun hsame => ?_⟩
  obtain heq | hlt := eq_or_rel_of_idxOf_le (freeSlots_ordered ..) (List.argmin_mem hmin) hmem
    (List.index_of_argmin hmin hmem hsame.le)
  · exact (congrArg Prod.snd heq).le
  · exact Nat.le_of_lt hlt

theorem pickSlot_eq_none {buckets taken : List Nat} {len : Nat} (h : pickSlot buckets taken len = none) {k x : Nat}
    (hk : buckets[k]? = some x) (hx : len ≤ x) : k ∈ taken := by
  rw [pickSlot_eq_argmin, Option.map_eq_none_iff, List.argmin_eq_none] at h
  by_contra hfree
  exact List.not_mem_nil (h ▸ mem_freeSlots.mpr ⟨hk, hx, hfree⟩)

/-! ### The checks (R154, R157) -/

theorem extentOf_eq (len bpt : Nat) : extentOf len bpt = (len * bpt + 2097151) / 2097152 := by
  unfold extentOf
  omega

/-- Check 1: the step has not begun and is at most 4 after the current one. -/
def batchStepOk (cur : Nat) (begun : Bool) (step : Nat) : Prop :=
  cur ≤ step ∧ (begun = true → step ≠ cur) ∧ step ≤ cur + 4

/-- Check 2: the length is in range and no greater than the largest bucket. -/
def batchLenOk (buckets : List Nat) (len : Nat) : Prop := 1 ≤ len ∧ len ≤ 1048576 ∧ len ≤ buckets.foldl max 0

theorem not_batchStepOk {cur step : Nat} {begun : Bool} :
    ¬ batchStepOk cur begun step ↔ step < cur ∨ (begun ∧ step = cur) ∨ cur + 4 < step := by
  unfold batchStepOk
  cases begun <;> simp <;> omega

theorem not_batchLenOk {buckets : List Nat} {len : Nat} :
    ¬ batchLenOk buckets len ↔ len < 1 ∨ 1048576 < len ∨ buckets.foldl max 0 < len := by
  unfold batchLenOk
  omega

section
variable (t : Tenant) (p : Plan) (step len : Nat)

/-- Check 3: the slot that the micro-batch takes. -/
def Tenant.batchSlot : Option Nat :=
  pickSlot (p.buckets (BitVec.ofNat 32 step)) ((t.batchesAt p.id step).map fun b => b.slot.val) len

/-- Check 4: the granules of the step's activation store, with the extent of the micro-batch. -/
def Tenant.storeWith : Nat := ((t.batchesAt p.id step).map MBatch.ext).sum + extentOf len p.bpt

end

section
variable {t : Tenant} {p : Plan} {cur step len : Nat} {begun : Bool}

theorem Tenant.judgeBatch_of_step (h : ¬ batchStepOk cur begun step) : t.judgeBatch p cur begun step len = .error 0x0002 :=
  if_pos (not_batchStepOk.mp h)

variable (hstep : batchStepOk cur begun step)
include hstep

theorem Tenant.judgeBatch_of_length (h : ¬ batchLenOk (p.buckets (BitVec.ofNat 32 step)) len) :
    t.judgeBatch p cur begun step len = .error 0x0010 :=
  (if_neg (mt not_batchStepOk.mpr (not_not_intro hstep))).trans (if_pos (not_batchLenOk.mp h))

variable (hlen : batchLenOk (p.buckets (BitVec.ofNat 32 step)) len)
include hlen

/-- A micro-batch that passes checks 1 and 2 is judged by checks 3 and 4. -/
theorem Tenant.judgeBatch_of_ranges : t.judgeBatch p cur begun step len = match t.batchSlot p step len with
    | none => .error 0x0002
    | some j => if p.sub.storeC.toNat < t.storeWith p step len then .error 0x0011 else .ok j :=
  (if_neg (mt not_batchStepOk.mpr (not_not_intro hstep))).trans (if_neg (mt not_batchLenOk.mpr (not_not_intro hlen)))

theorem Tenant.judgeBatch_of_full (h : t.batchSlot p step len = none) : t.judgeBatch p cur begun step len = .error 0x0002 := by
  rw [Tenant.judgeBatch_of_ranges hstep hlen, h]

variable {j : Nat} (hslot : t.batchSlot p step len = some j)
include hslot

theorem Tenant.judgeBatch_of_store (h : p.sub.storeC.toNat < t.storeWith p step len) :
    t.judgeBatch p cur begun step len = .error 0x0011 := by
  rw [Tenant.judgeBatch_of_ranges hstep hlen, hslot]
  exact if_pos h

theorem Tenant.judgeBatch_of_fits (h : t.storeWith p step len ≤ p.sub.storeC.toNat) :
    t.judgeBatch p cur begun step len = .ok j := by
  rw [Tenant.judgeBatch_of_ranges hstep hlen, hslot]
  exact if_neg (Nat.not_lt.mpr h)

end

/-! ### MBATCH (R154, R157) -/

theorem Chip.vfOp_of_takeOp {c c' : Chip} {t : Fin 16} {ring : Fin 8} {opc n : Nat} {e : Entry} {src : CmdSrc}
    (h : c.takeOp (.vf t) ring opc n = some (e, src, c')) (k : Entry → CmdSrc → Chip → Chip) :
    c.vfOp t ring opc n k = k e src c' := by
  simp only [Chip.vfOp, h]

/-- The micro-batch that an entry brings to slot `j` (R154). -/
def Tenant.newBatch (t : Tenant) (p : Plan) (e : Entry) (src : CmdSrc) (j : Nat) : MBatch :=
  let source := t.batchSource p (BitVec.ofNat 20 (entryAt e 24 4)) (entryAt e 28 8 % 2 ^ 48)
  { plan := p.id, step := BitVec.ofNat 32 (entryAt e 16 4), slot := Fin.ofNat 64 j, len := entryAt e 20 4
    ext := extentOf (entryAt e 20 4) p.bpt, win := source.1, off := source.2.1, bits := source.2.2, src := src }

section
variable {s : State} {t : Fin 16} {ring : Fin 8} {e : Entry} {src : CmdSrc} {c : Chip}
  (htake : s.chip.takeOp (.vf t) ring 0x02 1 = some (e, src, c))
include htake

theorem exec_mbatch_of_no_plan (hplan : c.batchPlan t = none) :
    exec (.mbatch t ring) s = .next { s with chip := c.done src 0x0002 } := by
  simp only [exec, execMbatch, State.on, Chip.vfOp_of_takeOp htake, hplan]

variable {p : Plan} {cur : Nat} {begun : Bool} (hplan : c.batchPlan t = some (p, cur, begun))
include hplan

theorem exec_mbatch_of_error {st : W16} (h : c.tenants[t].judgeBatch p cur begun (entryAt e 16 4) (entryAt e 20 4) = .error st) :
    exec (.mbatch t ring) s = .next { s with chip := c.complete src st p.id 0 0 } := by
  simp only [exec, execMbatch, State.on, Chip.vfOp_of_takeOp htake, hplan, h]

theorem exec_mbatch_of_ok {j : Nat} (h : c.tenants[t].judgeBatch p cur begun (entryAt e 16 4) (entryAt e 20 4) = .ok j) :
    exec (.mbatch t ring) s = .next { s with
      chip := (c.modTenant t fun x => { x with mbatches := x.mbatches ++ [c.tenants[t].newBatch p e src j] }).complete
        src 0 p.id (BitVec.ofNat 32 j) 0 } := by
  simp only [exec, execMbatch, State.on, Chip.vfOp_of_takeOp htake, hplan, h]
  rfl

end

end Sys2Proof.Machine

open Sys2Proof.Machine

/-- Settles O31: the slot as the first free one with the least bucket, and MBATCH by the first check that fails. -/
theorem microBatchesAreAdmitted : Obligations.MicroBatchesAreAdmitted := by
  unfold Obligations.MicroBatchesAreAdmitted
  refine ⟨fun buckets taken len => ⟨fun j => pickSlot_eq_some, fun h k x => pickSlot_eq_none h⟩, ?mbatch⟩
  case mbatch =>
    intro s t ring e src c htake step len ten
    refine ⟨exec_mbatch_of_no_plan htake, ?_⟩
    intro p cur begun hplan there buckets slot ext held inStep inLen answer
    have hext : ext = extentOf len p.bpt := (extentOf_eq ..).symm
    clear_value ext
    subst hext
    have hrefuse : ∀ st, ten.judgeBatch p cur begun step len = .error st → answer st := fun st =>
      exec_mbatch_of_error htake hplan
    refine ⟨fun hstep => ?step, fun hstep hlen => ?length, fun hstep hlen hfull => ?full, fun j hstep hlen hslot hstore => ?store,
      fun j hstep hlen hslot hroom => ?fits⟩
    case step => exact hrefuse _ (Tenant.judgeBatch_of_step hstep)
    case length => exact hrefuse _ (Tenant.judgeBatch_of_length hstep hlen)
    case full => exact hrefuse _ (Tenant.judgeBatch_of_full hstep hlen hfull)
    case store => exact hrefuse _ (Tenant.judgeBatch_of_store hstep hlen hslot hstore)
    case fits =>
      exact ⟨ten.newBatch p e src j, exec_mbatch_of_ok htake hplan (Tenant.judgeBatch_of_fits hstep hlen hslot hroom),
        rfl, rfl, rfl, rfl, rfl, rfl, rfl⟩
end

section
/-! GROUP and RELEASE of a tenant's ring (R158, R281, R300). -/

namespace Sys2Proof.Machine

/-! ### GROUP (R281) -/

/-- Ranks that R281 allows: 1 to 65,536 of them, this module's own among them, with neighbours where there are several. -/
theorem GroupRec.ranks_of_groupOk {c : Chip} {t : Fin 16} {r : GroupRec} (h : c.groupOk t r = true) :
    1 ≤ r.g ∧ r.g ≤ 65536 ∧ r.rank < r.g ∧ (r.g = 1 ∨ r.next ≠ 0 ∧ r.prev ≠ 0) := by
  simp only [Chip.groupOk, Bool.and_eq_true, Bool.or_eq_true, decide_eq_true_eq] at h
  obtain ⟨⟨⟨⟨⟨⟨-, -⟩, hmin⟩, hmax⟩, hrank⟩, hports⟩, -⟩ := h
  exact ⟨hmin, hmax, hrank, hports.imp_right fun ⟨⟨⟨⟨hnext, hprev⟩, _⟩, _⟩, _⟩ => ⟨hnext, hprev⟩⟩

section
variable {s : State} {t : Fin 16} {ring : Fin 8} {e : Entry} {src : CmdSrc} {c : Chip} {b : List Byte}
  (htake : s.chip.takeOp (.vf t) ring 0x07 1 = some (e, src, c))
  (hread : State.cmdBytes { s with chip := c } t (BitVec.ofNat 20 (entryAt e 16 4)) (entryAt e 20 8 % 2 ^ 48) 80 = some b)
include htake hread

theorem exec_group_of_ok (hok : c.groupOk t (GroupRec.read b) = true) : exec (.group t ring) s =
    .next { s with
      chip := ({ c with
        groups := (c.groups.filter fun (x : Group) => decide (x.grp ≠ (GroupRec.read b).grp)) ++
          [(GroupRec.read b).group t] }).complete src 0 0 ((GroupRec.read b).grp.setWidth 32) 0 } := by
  simp only [exec, execGroup, htake, hread, hok, if_true, State.on]

theorem exec_group_of_not_ok (hok : c.groupOk t (GroupRec.read b) = false) : exec (.group t ring) s =
    .next { s with chip := c.complete src 0x0002 0 ((GroupRec.read b).grp.setWidth 32) 0 } := by
  simp only [exec, execGroup, htake, hread, hok, Bool.false_eq_true, if_false, State.on]

end

/-! ### RELEASE (R158, R300) -/

section
variable {s : State} {t : Fin 16} {ring : Fin 8} {e : Entry} {src : CmdSrc} {c : Chip}
  (htake : s.chip.takeOp (.vf t) ring 0x0B 1 = some (e, src, c))
include htake

theorem exec_release_of_unbound
    (hplan : (c.placer.bound.find? fun p => decide (p.id = BitVec.ofNat 16 (entryAt e 16 2)) && decide (p.tenant = t)) = none) :
    exec (.release t ring) s = .next { s with chip := c.complete src 0x0002 (BitVec.ofNat 16 (entryAt e 16 2)) 0 0 } := by
  simp only [exec, execRelease, State.on, Chip.vfOp_of_takeOp htake, hplan]

variable {p : Plan}
  (hplan : (c.placer.bound.find? fun p => decide (p.id = BitVec.ofNat 16 (entryAt e 16 2)) && decide (p.tenant = t)) = some p)
include hplan

theorem exec_release_of_turn (hturn : c.turnNames (BitVec.ofNat 16 (entryAt e 16 2)) = true) :
    exec (.release t ring) s = .next { s with chip := c.complete src 0x0002 (BitVec.ofNat 16 (entryAt e 16 2)) 0 0 } := by
  simp only [exec, execRelease, State.on, Chip.vfOp_of_takeOp htake, hplan, hturn, if_true]

theorem exec_release_of_bound (hturn : c.turnNames (BitVec.ofNat 16 (entryAt e 16 2)) = false) : exec (.release t ring) s =
    .next { s with chip := (c.dropBound p).complete src 0 (BitVec.ofNat 16 (entryAt e 16 2)) 0 0 } := by
  simp only [exec, execRelease, State.on, Chip.vfOp_of_takeOp htake, hplan, hturn, Bool.false_eq_true, if_false]

end

end Sys2Proof.Machine

open Sys2Proof.Machine

/-- Settles O36: GROUP by whether its record passes R281, RELEASE by whether its plan is bound and named by a TURN. -/
theorem groupAndReleaseAct : Obligations.GroupAndReleaseAct := by
  unfold Obligations.GroupAndReleaseAct
  refine ⟨fun s t ring e src c b htake hread => ?group, fun s t ring e src c htake => ?release⟩
  case group =>
    refine ⟨fun hok => ?_, fun hbroken => ?_, exec_group_of_not_ok htake hread⟩
    · exact ⟨(GroupRec.read b).group t, exec_group_of_ok htake hread hok, rfl, rfl, rfl, rfl, rfl, rfl, rfl, rfl, rfl, rfl⟩
    · refine Bool.eq_false_iff.mpr fun hok => ?_
      obtain ⟨hmin, hmax, hrank, hports⟩ := GroupRec.ranks_of_groupOk hok
      obtain hlow | hhigh | hout | ⟨hseveral, hport⟩ := hbroken
      · exact absurd hmin (Nat.not_le.mpr hlow)
      · exact absurd hmax (Nat.not_le.mpr hhigh)
      · exact absurd hrank (Nat.not_lt.mpr hout)
      · obtain ⟨hnext, hprev⟩ := hports.resolve_left hseveral
        exact hport.elim hnext hprev
  case release =>
    intro id
    refine ⟨fun p hplan => ?_, fun hunbound => ?_⟩
    · intro c1
      refine ⟨fun hturn => (exec_release_of_bound htake hplan hturn).trans ?_, exec_release_of_turn htake hplan⟩
      obtain ⟨hid, hten⟩ : p.id = id ∧ p.tenant = t := by simpa using List.find?_some hplan
      rw [Chip.dropBound, hid, hten]
    · refine exec_release_of_unbound htake (List.find?_eq_none.mpr fun p hp hfound => ?_)
      obtain ⟨hid, hten⟩ : p.id = id ∧ p.tenant = t := by simpa using hfound
      exact (hunbound p hp).elim (fun hne => hne hid) fun hne => hne hten
end

section
/-! The power cap and the power trace (R195, R196, R318, R326, R327): a request of the management network that the agent serves,
a write of CAP_W, the caps that wait, and the set points of a trace segment. -/

namespace Sys2Proof.Machine

/-! ### Numbers in bytes -/

theorem length_leBytes (n v : Nat) : (leBytes n v).length = n := by
  induction n generalizing v with
  | zero => rfl
  | succ n ih => rw [leBytes, List.length_cons, ih]

theorem leNat_leBytes (n v : Nat) : leNat (leBytes n v) = v % 256 ^ n := by
  induction n generalizing v with
  | zero => simp [leBytes, leNat, Nat.mod_one]
  | succ n ih => 
    have hbyte : (BitVec.ofNat 8 v).toNat = v % 256 := BitVec.toNat_ofNat ..
    rw [leBytes, leNat, ih, hbyte, pow_succ', Nat.mod_mul]

/-! ### A module that runs -/

theorem Chip.up_of_running {c : Chip} (h : c.power = .running) : c.up = true := decide_eq_true h

theorem Chip.hubPower_of_running {c : Chip} (h : c.power = .running) : c.hubPower = true := by
  simp [Chip.hubPower, h]

/-! ### Requests that the agent serves (R356-R363) -/

theorem Chip.keptOf_of_fresh {c : Chip} {r : MReq} (h : FreshRequest c r) : c.received73.keptOf r = none := by
  have hmiss : ∀ x ∈ c.mgmt.kept, ¬ (decide (x.1 = r.src) && decide (x.2.1.xid = r.xid) && decide (c.since x.2.2 < keptNs)) = true := by
    intro x hx hkept
    obtain ⟨⟨hsrc, hxid⟩, hsince⟩ : (x.1 = r.src ∧ x.2.1.xid = r.xid) ∧ c.since x.2.2 < keptNs := by simpa using hkept
    exact absurd hsince (Nat.not_lt.mpr (h.fresh x hx hsrc hxid))
  exact congrArg (Option.map _) (List.find?_eq_none.mpr hmiss)

/-- A request that the agent serves is counted and answered with what its operation gives. -/
theorem Chip.serve_of_fresh {c : Chip} {r : MReq} (h : FreshRequest c r) (op : Byte)
    (f : Chip → Chip × W16 × List RespItem × List HbStored) {c' : Chip} {st : W16} {xs : List RespItem} {recs : List HbStored}
    (hf : f c.received73 = (c', st, xs, recs)) : c.serve r op f = c'.reply r op st xs recs := by
  simp [Chip.serve, h.heard, Chip.keptOf_of_fresh h, h.version, hf]

/-- A response sent once the request is counted, where what it brings about sends nothing and leaves the count. -/
theorem replies_of_reply {s u : State} {r : MReq} {op : Byte} {st : W16} {xs : List RespItem} {recs : List HbStored} {c : Chip}
    (hu : u.chip = c.reply r op st xs recs) (htx : c.mgmt.tx = s.chip.mgmt.tx) (hrx : c.mgmt.rx = s.chip.mgmt.rx + 1) :
    Replies s u r op st xs recs := by
  rw [Replies, hu]
  exact ⟨by simp [Chip.reply, Chip.sendResp, htx], hrx⟩

/-! ### A write of CAP_W (R326, R327, R361, R369) -/

/-- CAP_W's place among the objects. -/
def capObj : ObjId := ⟨0x2000, 0⟩

/-- The row of CAP_W (R326). -/
def capRow : ObjRow := oper .capW 0x2000 0 1 .u16 false

@[simp] theorem capRow_name : capRow.name = .capW := rfl
@[simp] theorem capRow_type : capRow.type = .u16 := rfl
@[simp] theorem capRow_level : capRow.level = 1 := rfl
@[simp] theorem capRow_dir : capRow.dir = .rw := rfl
@[simp] theorem capRow_fw : capRow.fw = false := rfl
@[simp] theorem objFind_capObj : objFind capObj = some (capRow, 0) := by decide

/-- A write of CAP_W. -/
def capItem (v : Nat) : WItem := ⟨capObj, .u16, leBytes 2 v⟩

/-- The level check of an object at operator level by a requester that has the level (R361, R368). -/
def Chip.qualified (c : Chip) (who : Requester) : Chip := { c with gate := c.gate.qualify 1 who c.drone.now }

theorem Chip.access_capObj {c : Chip} {who : Requester} (h : c.gate.openTo 1 who = true) :
    c.access who true capObj = (c.qualified who, .ok (capRow, 0)) := by
  simp [Chip.access, h, opensLevel, Chip.qualified]

theorem Chip.writeItem_capItem_locked {c : Chip} {who : Requester} (h : c.gate.openTo 1 who = false) (v : Nat) :
    c.writeItem who (capItem v) = c.itemOf capObj (some lockedItem) [] := by
  simp [Chip.writeItem, Chip.access, capItem, h]

theorem Chip.writeItem_capItem_open {c : Chip} {who : Requester} (h : c.gate.openTo 1 who = true) (v : Nat) :
    c.writeItem who (capItem v) =
      (((c.qualified who).commitWrite who capObj capRow 0 (leBytes 2 v)).1.itemOf capObj
        ((c.qualified who).commitWrite who capObj capRow 0 (leBytes 2 v)).2 []) := by
  simp [Chip.writeItem, capItem, Chip.access_capObj h, longWrite, typeFits, typeSize, length_leBytes]

theorem leNat_capW {v : Nat} (h : v < 65536) : leNat (leBytes 2 v) = v := (leNat_leBytes 2 v).trans (Nat.mod_eq_of_lt h)

theorem valueFits_capRow {v : Nat} (h : v < 65536) : valueFits capRow (leBytes 2 v) = true ↔ 1200 ≤ v ∧ v ≤ 3600 := by
  simp [valueFits, typeSize, leNat_capW h, objRange]

theorem Chip.notServed_capRow {c : Chip} (h : c.power = .running) : c.notServed capRow = false := by
  simp [Chip.notServed, h]

theorem Chip.commitWrite_capW_outside {c : Chip} {who : Requester} {v : Nat} (hv : v < 65536) (h : v < 1200 ∨ 3600 < v) :
    c.commitWrite who capObj capRow 0 (leBytes 2 v) = (c, some (busyFor 3)) := by
  have hfits : valueFits capRow (leBytes 2 v) = false := by
    rw [Bool.eq_false_iff, ne_eq, valueFits_capRow hv]
    omega
  simp [Chip.commitWrite, hfits]

theorem Chip.commitWrite_capW_inside {c : Chip} {who : Requester} {v : Nat} (hrun : c.power = .running) (hlo : 1200 ≤ v)
    (hhi : v ≤ 3600) : c.commitWrite who capObj capRow 0 (leBytes 2 v) =
      ((c.setCap (BitVec.ofNat 16 v)).writeRec capObj capRow who (c.objRead capRow 0) (leBytes 2 v), none) := by
  have hv : v < 65536 := by omega
  simp [Chip.commitWrite, (valueFits_capRow hv).mpr ⟨hlo, hhi⟩, Chip.notServed_capRow hrun, Chip.perform, leNat_capW hv]

/-- A critical record is always kept (R375). -/
theorem Chip.hbForm_critical (c : Chip) (ty : W16) (o : W32) (pl : List Byte) :
    (c.hbForm ty true o pl).mram = c.mram ∧ (c.hbForm ty true o pl).hatband.queue.length = c.hatband.queue.length + 1 := by
  simp [Chip.hbForm]

theorem Chip.writeRec_kept (c : Chip) (o : ObjId) (row : ObjRow) (who : Requester) (old new : List Byte) :
    (c.writeRec o row who old new).mram = c.mram ∧
      (c.writeRec o row who old new).hatband.queue.length = c.hatband.queue.length + 1 :=
  Chip.hbForm_critical ..

/-- A WRITE of CAP_W alone is counted, and answered with what the item gives (R358, R362). -/
theorem exec_capWWrite {s : State} {r : MReq} (h : FreshRequest s.chip r) {v : Nat} {c : Chip} {x : RespItem}
    (hitem : s.chip.received73.writeItem r.src (capItem v) = (c, x)) :
    exec (.capWWrite r (capItem v)) s = .next (s.on fun _ => c.reply r 3 0 [x] []) := by
  have hserve : s.chip.serveWrite r [capItem v] = c.reply r 3 0 [x] [] :=
    Chip.serve_of_fresh h 3 _ (by simp [Chip.items, hitem])
  have hobj : (capItem v).obj = capObj := rfl
  simp [exec, execCapWWrite, State.writeOne, hobj, State.on, hserve]

theorem Chip.noPlan_iff {c : Chip} : c.noPlan = true ↔ ∀ p : Fin 4, c.run p = none := by
  simp only [Chip.noPlan, List.all_eq_true, Option.isNone_iff_eq_none]
  exact ⟨fun h p => h p (mem_allParts p), fun h p _ => h p⟩

/-! ### The limiter under a cap (R327) -/

theorem Chip.setCap_mram (c : Chip) (w : W16) : (c.setCap w).mram = { c.mram with capW := w } := by
  unfold Chip.setCap
  dsimp only
  split
  · rfl
  · split <;> rfl

theorem Chip.setCap_raised {c : Chip} {w : W16} (h : c.limiter.capActive.toNat ≤ w.toNat) :
    (c.setCap w).limiter.capActive = w ∧ (c.setCap w).limiter.capJob = none ∧ (c.setCap w).limiter.capPending = false := by
  simp [Chip.setCap, h]

theorem Chip.setCap_lowered_free {c : Chip} {w : W16} (h : w.toNat < c.limiter.capActive.toNat) (hfree : ∀ p : Fin 4, c.run p = none) :
    (c.setCap w).limiter = { c.limiter with capJob := some (w, c.drone.now, true), capPending := false, capApplied := c.drone.now } := by
  have hno : ({ c with mram := { c.mram with capW := w } } : Chip).noPlan = true := Chip.noPlan_iff.mpr hfree
  simp [Chip.setCap, Nat.not_le.mpr h, hno]

theorem Chip.setCap_lowered_busy {c : Chip} {w : W16} (h : w.toNat < c.limiter.capActive.toNat) (hrun : ∃ p : Fin 4, c.run p ≠ none) :
    (c.setCap w).limiter = { c.limiter with capJob := some (w, c.drone.now, false), capPending := true } := by
  have hno : ({ c with mram := { c.mram with capW := w } } : Chip).noPlan = false := by
    obtain ⟨p, hp⟩ := hrun
    exact Bool.eq_false_iff.mpr fun hno => hp (Chip.noPlan_iff.mp hno p)
  simp [Chip.setCap, Nat.not_le.mpr h, hno]

theorem Chip.setCap_traceSet (c : Chip) (w : W16) : (c.setCap w).limiter.traceSet = c.limiter.traceSet := by
  unfold Chip.setCap
  dsimp only
  split
  · rfl
  · split <;> rfl

/-! ### The answers to a write of CAP_W -/

/-- A refused item is answered with its status and reason, and counted (R361). -/
theorem exec_capWWrite_refused {s : State} {r : MReq} (h : FreshRequest s.chip r) {v : Nat} {e : Refused} {c : Chip}
    (hitem : s.chip.received73.writeItem r.src (capItem v) = c.itemOf capObj (some e) [])
    (hmram : c.mram = s.chip.mram) (hlim : c.limiter = s.chip.limiter) (hmgmt : c.mgmt = s.chip.received73.mgmt) :
    ∃ u x, exec (.capWWrite r (capItem v)) s = .next u ∧ Replies s u r 3 0 [x] [] ∧ x.status = e.status ∧
      x.reason = e.reason ∧ u.chip.mram = s.chip.mram ∧ u.chip.limiter = s.chip.limiter := by
  refine ⟨_, _, exec_capWWrite h hitem, replies_of_reply rfl ?tx ?rx, rfl, rfl, ?mram, ?limiter⟩
  case tx =>
    show c.mgmt.tx = _
    rw [hmgmt]
    rfl
  case rx =>
    show c.mgmt.rx = _
    rw [hmgmt]
    rfl
  case mram => simpa using hmram
  case limiter => simpa using hlim

/-- A cap in range is taken, and the write recorded (R326, R369). -/
theorem exec_capWWrite_taken {s : State} {r : MReq} (h : FreshRequest s.chip r) (hopen : s.chip.gate.openTo 1 r.src = true) {v : Nat}
    (hlo : 1200 ≤ v) (hhi : v ≤ 3600) :
    ∃ u x, exec (.capWWrite r (capItem v)) s = .next u ∧ Replies s u r 3 0 [x] [] ∧ x.status = 0 ∧
      u.chip.mram = { s.chip.mram with capW := BitVec.ofNat 16 v } ∧
      u.chip.hatband.queue.length = s.chip.hatband.queue.length + 1 ∧
      u.chip.limiter = ((s.chip.received73.qualified r.src).setCap (BitVec.ofNat 16 v)).limiter ∧
      u.mem = s.mem ∧ u.pending = s.pending ∧ u.chip.parts = s.chip.parts ∧ u.chip.tenants = s.chip.tenants := by
  have hwrite := Chip.writeItem_capItem_open (c := s.chip.received73) hopen v
  rw [Chip.commitWrite_capW_inside (c := s.chip.received73.qualified r.src) h.running hlo hhi] at hwrite
  refine ⟨_, _, exec_capWWrite h hwrite, replies_of_reply rfl ?tx ?rx, rfl, ?mram, ?queue, ?limiter, rfl, rfl, ?parts, ?tenants⟩
  case tx => simp [Chip.qualified, Chip.received73]
  case rx => simp [Chip.qualified, Chip.received73]
  case mram => simp [Chip.writeRec_kept, Chip.setCap_mram, Chip.qualified]
  case queue => simp [Chip.writeRec_kept, Chip.qualified]
  case limiter => simp
  case parts => simp [Chip.qualified]
  case tenants => simp [Chip.qualified]

/-! ### Set points of a segment (R195, R196, R318) -/

theorem Limiter.target_le (l : Limiter) (p : Plan) (x : TraceSeg) (i : Fin 77) : l.target p x i ≤ x.fset[i].toNat := by
  unfold Limiter.target
  split
  · split
    · exact min_le_left ..
    · exact le_refl _
  · exact le_refl _

theorem Limiter.target_of_none {l : Limiter} (h : l.lowered = none) (p : Plan) (x : TraceSeg) (i : Fin 77) :
    l.target p x i = x.fset[i].toNat := by
  simp only [Limiter.target, h]

/-- The set point of an island in a segment is at most the segment's and at most 1.1 GHz, and just the lesser of the two for a
hub region where no cap is lowered. -/
def SetFor (l : Limiter) (x : TraceSeg) (i : Fin 77) : Prop :=
  l.traceSet[i] ≤ x.fset[i].toNat ∧ l.traceSet[i] ≤ 1100 ∧ (68 ≤ i.val → l.lowered = none → l.traceSet[i] = min x.fset[i].toNat 1100)

@[simp] theorem Chip.setPoint_lowered (c : Chip) (i : Fin 77) (mhz : Nat) :
    (c.setPoint i mhz).limiter.lowered = c.limiter.lowered := rfl

theorem Chip.setPoint_other (c : Chip) {i j : Fin 77} (mhz : Nat) (h : j ≠ i) :
    (c.setPoint i mhz).limiter.traceSet[j] = c.limiter.traceSet[j] := by
  have : i.val ≠ j.val := fun e => h (Fin.ext e.symm)
  simp [Chip.setPoint, this]

theorem Chip.setPoint_setFor (c : Chip) (p : Plan) (x : TraceSeg) (i : Fin 77) :
    SetFor (c.setPoint i (c.limiter.target p x i)).limiter x i := by
  have hle := c.limiter.target_le p x i
  refine ⟨?_, ?_, fun hhub hnone => ?_⟩
  · simp only [Chip.setPoint, Fin.getElem_fin, Vector.getElem_set_self]
    exact (min_le_left ..).trans hle
  · simp only [Chip.setPoint, Fin.getElem_fin, Vector.getElem_set_self]
    split <;> omega
  · rw [← Limiter.target_of_none (l := c.limiter) hnone p x i]
    simp [Chip.setPoint, Nat.not_lt.mpr hhub]

/-- The islands set one after the other. -/
theorem foldl_setPoint (p : Plan) (x : TraceSeg) (is : List (Fin 77)) (c : Chip) :
    let c' := is.foldl (fun c i => c.setPoint i (c.limiter.target p x i)) c
    c'.limiter.lowered = c.limiter.lowered ∧ (∀ i ∈ is, SetFor c'.limiter x i) ∧
      ∀ i, i ∉ is → c'.limiter.traceSet[i] = c.limiter.traceSet[i] := by
  induction is using List.reverseRecOn with
  | nil => exact ⟨rfl, fun _ hi => absurd hi List.not_mem_nil, fun _ _ => rfl⟩
  | append_singleton is j ih =>
    obtain ⟨hlow, hset, hstand⟩ := ih
    rw [List.foldl_append]
    refine ⟨hlow, fun i hi => ?_, fun i hi => ?_⟩
    · by_cases hij : i = j
      · subst hij
        exact Chip.setPoint_setFor ..
      · have hmem : i ∈ is := (List.mem_append.mp hi).resolve_right fun hlast => hij (List.mem_singleton.mp hlast)
        unfold SetFor
        simp only [List.foldl_cons, List.foldl_nil, Chip.setPoint_other _ _ hij]
        exact hset i hmem
    · obtain ⟨hmem, hij⟩ : i ∉ is ∧ i ≠ j := by simpa using hi
      simp only [List.foldl_cons, List.foldl_nil, Chip.setPoint_other _ _ hij]
      exact hstand i hmem

@[simp] theorem Chip.setRun_setCols (c : Chip) (p : Fin 4) (r : Option Running) : (c.setRun p r).setCols = c.setCols := by
  have hcols : c.parts[p.val].cols = (c.parts.toList.map Part.cols)[p.val]'(by simp) := by simp
  have hset : (c.setRun p r).parts.toList.map Part.cols = c.parts.toList.map Part.cols := by
    simp only [Chip.setRun, Chip.modPart_parts, vecMod, Vector.toList_set, List.map_set, Fin.getElem_fin]
    exact (congrArg _ hcols).trans (List.set_getElem_self _)
  simp only [Chip.setCols, List.map_take, hset, Chip.setRun_nparts]

/-- What runs in a partition does not move its islands. -/
theorem Chip.setRun_planIslands (c : Chip) (p : Fin 4) (r : Option Running) : (c.setRun p r).planIslands p = c.planIslands p := by
  have hspares : (c.setRun p r).parts[p].spares = c.parts[p].spares :=
    (congrArg Part.spares (vecMod_same c.parts p fun x => { x with run := r })).trans rfl
  simp only [Chip.planIslands, Chip.partCols, Chip.setRun_setCols, hspares, Chip.setRun_nparts, Chip.setRun_mram]
  rfl

/-! ### The commands (R195, R327) -/

theorem exec_capSetPointsReady {s : State} (hrun : s.chip.power = .running) {w : W16} {t : Stamp}
    (hjob : s.chip.limiter.capJob = some (w, t, false)) : exec .capSetPointsReady s =
      .next { s with chip := { s.chip with limiter := { s.chip.limiter with capJob := some (w, t, true) } } } := by
  simp only [exec, execCapSetPointsReady, State.on, hjob, Chip.up_of_running hrun, if_true]

section
variable {s : State} {w : W16} {t : Stamp} {ready : Bool} (hjob : s.chip.limiter.capJob = some (w, t, ready))
include hjob

theorem exec_capActiveUpdate_of_due (hrun : s.chip.power = .running) (hdue : 2000000 ≤ (s.chip.drone.now - t).toNat) : exec .capActiveUpdate s =
    .next { s with chip := { s.chip with limiter := { s.chip.limiter with
      capActive := w, capJob := if s.chip.limiter.capPending then some (w, t, ready) else none } } } := by
  have hsince : 2000000 ≤ s.chip.since t := hdue
  simp only [exec, execCapActiveUpdate, State.on, hjob, Chip.hubPower_of_running hrun, hsince, and_self, if_true]

theorem exec_capActiveUpdate_of_early (hearly : (s.chip.drone.now - t).toNat < 2000000) : exec .capActiveUpdate s = .next s := by
  have hsince : ¬ 2000000 ≤ s.chip.since t := Nat.not_le.mpr hearly
  simp only [exec, execCapActiveUpdate, State.on, hjob, hsince, and_false, if_false]

end

section
variable {s : State} (hrun : s.chip.power = .running) {p : Fin 4} {r : Running} {seg : W32} (hr : s.chip.run p = some r)
include hrun hr

theorem exec_powerTraceSegment_of_none (h : r.plan.fig.segment (if r.inPrologue then 0xFFFFFFFF else r.step) seg = none) :
    exec (.powerTraceSegment p seg) s = .next s := by
  simp only [exec, execPowerTraceSegment, State.on, hr, Chip.up_of_running hrun, Bool.not_true, Bool.false_eq_true, if_false, h]

theorem exec_powerTraceSegment_of_some {x : TraceSeg}
    (h : r.plan.fig.segment (if r.inPrologue then 0xFFFFFFFF else r.step) seg = some x) : exec (.powerTraceSegment p seg) s =
      .next (s.on fun c => (c.setRun p (some { r with seg := some x })).setSegment p r.plan x) := by
  simp only [exec, execPowerTraceSegment, State.on, hr, Chip.up_of_running hrun, Bool.not_true, Bool.false_eq_true, if_false, h]

end

end Sys2Proof.Machine

open Sys2Proof.Machine

/-- Settles O53: a write of CAP_W by the judgement of its item (R361) and the three cases of R327, the caps that wait by the time
since acceptance, and a segment by setting its islands one after the other. -/
theorem powerCapTakesEffect : Obligations.PowerCapTakesEffect := by
  unfold Obligations.PowerCapTakesEffect
  intro s hrun
  refine ⟨fun r v hfresh hv => ⟨fun hopen hlo hhi => ?inside, fun hopen hout => ?outside, fun hlocked => ?locked⟩,
    fun w t hjob => exec_capSetPointsReady hrun hjob,
    fun w t ready hjob => ⟨fun hdue => ⟨_, exec_capActiveUpdate_of_due hjob hrun hdue, rfl, rfl, rfl, rfl⟩,
      exec_capActiveUpdate_of_early hjob⟩,
    fun p seg r hr => ⟨exec_powerTraceSegment_of_none hrun hr, fun x hx => ?segment⟩⟩
  case inside =>
    obtain ⟨u, x, hexec, hreply, hstatus, hmram, hqueue, hlim, hrest⟩ := exec_capWWrite_taken hfresh hopen hlo hhi
    have hw : (BitVec.ofNat 16 v).toNat = v := (BitVec.toNat_ofNat ..).trans (Nat.mod_eq_of_lt hv)
    refine ⟨u, x, hexec, hreply, hstatus, hmram, hqueue, ?_⟩
    rw [hlim]
    refine ⟨fun hle => Chip.setCap_raised ?_, fun hlt hfree => Chip.setCap_lowered_free ?_ hfree,
      fun hlt hbusy => Chip.setCap_lowered_busy ?_ hbusy, Chip.setCap_traceSet .., hrest⟩
    · rw [hw]
      exact hle
    · rw [hw]
      exact hlt
    · rw [hw]
      exact hlt
  case outside =>
    refine exec_capWWrite_refused (v := v) (e := busyFor 3) (c := s.chip.received73.qualified r.src) hfresh
      ((Chip.writeItem_capItem_open (c := s.chip.received73) hopen v).trans ?_) rfl rfl rfl
    rw [Chip.commitWrite_capW_outside hv hout]
  case locked =>
    obtain ⟨u, x, hexec, hreply, hstatus, -, hmram, hlim⟩ := exec_capWWrite_refused (c := s.chip.received73) hfresh
      (Chip.writeItem_capItem_locked (c := s.chip.received73) hlocked v) rfl rfl rfl
    exact ⟨u, x, hexec, hreply, hstatus, hmram, hlim⟩
  case segment =>
    obtain ⟨hlow, hset, hstand⟩ := foldl_setPoint r.plan x (s.chip.planIslands p) (s.chip.setRun p (some { r with seg := some x }))
    rw [← Chip.setRun_planIslands s.chip p (some { r with seg := some x })] at hlow hset hstand ⊢
    refine ⟨_, exec_powerTraceSegment_of_some hrun hr hx, ?run, fun q hq => ?others, fun i hi => ?inside, hstand, rfl, rfl, ?tenants⟩
    case run => simp
    case others => simp [Chip.setRun_run_ne _ _ _ hq]
    case inside =>
      obtain ⟨hle, htop, hhub⟩ := hset i hi
      exact ⟨hle, htop, fun h68 hnone => hhub h68 (hlow.trans hnone)⟩
    case tenants => simp
end

section
/-! Faults of tenants and of the module (R383, R388, R389): what they leave of the tiles out of service and of the module's own
fault, and, where nothing waits for a partition, of the other plans and tenants. -/

namespace Sys2Proof.Machine

/-! ### Tiles out of service and the module's fault -/

theorem Chip.beginStaging_faults (c : Chip) (x : Plan) : (c.beginStaging x).1.faults = c.faults := by
  unfold Chip.beginStaging
  refine List.foldlRecOn (motive := fun y : Chip × _ => y.1.faults = c.faults) _ _ rfl fun y hy a _ => ?_
  split
  · exact hy
  · exact hy

theorem State.sendTransfers_faults (s : State) (x : Plan) : (s.sendTransfers x).chip.faults = s.chip.faults := by
  unfold State.sendTransfers
  refine List.foldlRecOn (motive := fun u : State => u.chip.faults = s.chip.faults) _ _ rfl fun u hu y _ => ?_
  split
  · exact hu
  · split
    · simpa using hu
    · exact hu

theorem State.startWaiting_faults (s : State) (p : Fin 4) : (s.startWaiting p).chip.faults = s.chip.faults := by
  unfold State.startWaiting
  split
  · rfl
  · refine (State.sendTransfers_faults ..).trans ?_
    simp only [State.on_chip, Chip.complete_faults, Chip.firstCommit_keeps, Chip.setFState_keeps, Chip.modTenant_faults,
      Chip.useTiles_keeps, Chip.modPart_faults]
    refine (foldl_faults (fun c e => by simp) _ _).trans ?_
    refine (Chip.beginStaging_faults ..).trans ?_
    split
    · simp
    · rfl

theorem State.freePart_faults (s : State) (p : Fin 4) : (s.freePart p).chip.faults = s.chip.faults := by
  unfold State.freePart
  refine (State.foldl_keeps (g := fun u => u.chip.faults) State.startWaiting_faults _ _).trans ?_
  simp

theorem State.restore_faults (s : State) (p : Fin 4) : (s.restore p).chip.faults = s.chip.faults := by
  unfold State.restore
  split
  · rfl
  · split
    · rfl
    · simp

theorem Chip.faultOut_faults (c : Chip) (p : Fin 4) (r : Running) (n : Nat) (commit : Stamp × W32) (f : FaultInfo) :
    (c.faultOut p r n commit f).faults = { c.faults with tfaultCount := c.faults.tfaultCount + 1 } := by
  unfold Chip.faultOut
  simp

theorem Chip.idleFault_faults (c : Chip) (t : Fin 16) (unit : W32) (det : Byte) (cause : W64) :
    (c.idleFault t unit det cause).faults = { c.faults with tfaultCount := c.faults.tfaultCount + 1 } := by
  unfold Chip.idleFault
  simp

/-- The tiles out of service, and whether the module has faulted. -/
def Chip.losses (c : Chip) : List (Fin 68) × Bool := (c.faults.tilesOut, c.faults.mfault)

theorem Chip.losses_of_faults {c d : Chip} (h : d.faults = c.faults) : d.losses = c.losses := by
  rw [Chip.losses, h, Chip.losses]

/-- A tenant fault repairs no tile and no module (R388). -/
theorem State.tenantFault_losses (s : State) (p : Fin 4) (f : FaultInfo) (sound : Bool) :
    (s.tenantFault p f sound).chip.losses = s.chip.losses := by
  unfold State.tenantFault
  split
  · rfl
  · rename_i r _
    have habort : (s.on fun c => c.abortBusy r f.status).chip.losses = s.chip.losses := Chip.losses_of_faults (by simp)
    have hrestore : (if sound then (s.on fun c => c.abortBusy r f.status).restore p else s.on fun c => c.abortBusy r f.status).chip.losses =
        s.chip.losses := by
      split
      · exact (Chip.losses_of_faults (State.restore_faults ..)).trans habort
      · exact habort
    dsimp only
    split
    · exact hrestore
    · refine (Chip.losses_of_faults (State.freePart_faults ..)).trans (Eq.trans ?_ hrestore)
      simp only [State.on_chip, Chip.losses, Chip.faultOut_faults]

theorem State.detFault_losses (s : State) (p : Fin 4) (st : W16) (det : Byte) (unit : W32) (sound : Bool) :
    (s.detFault p st det unit sound).chip.losses = s.chip.losses := by
  unfold State.detFault
  split
  · rfl
  · exact State.tenantFault_losses ..

theorem State.faultTenants_losses (s : State) (ts : List (Fin 16)) (unit : W32) (det : Byte) (flags : W64) (sound : Bool) :
    (s.faultTenants ts unit det flags sound).chip.losses = s.chip.losses := by
  unfold State.faultTenants
  refine State.foldl_keeps (g := fun u => u.chip.losses) (fun s t => ?_) _ _
  split
  · simp only [State.on_chip, Chip.losses, Chip.idleFault_faults]
  · refine State.foldl_keeps (g := fun u => u.chip.losses) (fun u p => ?_) _ _
    split
    · exact State.tenantFault_losses ..
    · rfl

theorem State.faultTenants_mfault (s : State) (ts : List (Fin 16)) (unit : W32) (det : Byte) (flags : W64) (sound : Bool) :
    (s.faultTenants ts unit det flags sound).chip.faults.mfault = s.chip.faults.mfault :=
  congrArg Prod.snd (s.faultTenants_losses ts unit det flags sound)

theorem State.faultTenants_tilesOut (s : State) (ts : List (Fin 16)) (unit : W32) (det : Byte) (flags : W64) (sound : Bool) :
    (s.faultTenants ts unit det flags sound).chip.faults.tilesOut = s.chip.faults.tilesOut :=
  congrArg Prod.fst (s.faultTenants_losses ts unit det flags sound)

/-- After a module fault the module has faulted (R389). -/
theorem State.moduleFault_mfault (s : State) (unit : W32) (det : Byte) (sound : Bool) :
    (s.moduleFault unit det sound).chip.faults.mfault = true := by
  unfold State.moduleFault
  split
  · assumption
  · have hkept : ∀ c : Chip, (c.refuseTurns.tileEvent unit).faults = c.faults := fun c => by simp
    simp only [State.faultTenants_mfault, State.on_chip, Chip.hbForm_faults, hkept]

/-! ### The other tenants of a fault (R388) -/

theorem Chip.fault_of_standing {c d : Chip} {t u : Fin 16} (h : c.standing t = d.standing u) : c.tenants[t].fault = d.tenants[u].fault :=
  congrArg Prod.fst h

theorem Chip.faulted_of_standing {c : Chip} {t : Fin 16} {st : FState} (h : c.standing t = (true, st)) : c.tenants[t].fault = true :=
  congrArg Prod.fst h

theorem Chip.setFState_standing_ne (c : Chip) {t u : Fin 16} (h : u ≠ t) (st : FState) : (c.setFState t st).standing u = c.standing u := by
  unfold Chip.setFState
  split
  · rfl
  · refine (Chip.standing_of_tenants (c := c.modTenant t fun x => { x with fstate := st }) (by simp) u).trans ?_
    exact congrArg (fun x => (Tenant.fault x, Tenant.fstate x)) (vecMod_ne _ _ h)

/-- The fault of one tenant leaves the standing of every other. -/
theorem Chip.faultOut_standing_ne (c : Chip) (p : Fin 4) (r : Running) (n : Nat) (commit : Stamp × W32) (f : FaultInfo) {t : Fin 16}
    (ht : t ≠ r.plan.tenant) : (c.faultOut p r n commit f).standing t = c.standing t := by
  have hmod : ∀ (d : Chip) (g : Tenant → Tenant), (d.modTenant r.plan.tenant g).standing t = d.standing t := fun d g =>
    congrArg (fun x => (Tenant.fault x, Tenant.fstate x)) (vecMod_ne _ _ ht)
  unfold Chip.faultOut
  extract_lets u saved faulted drawn stated finals published slotless settled lost entry event report
  have hreport : report.tenants = lost.tenants := (Chip.hbForm_tenants ..).trans (Chip.event_tenants ..)
  have hlost : lost.standing t = published.standing t :=
    calc lost.standing t = slotless.standing t :=
          (Chip.loseBatches_standing ..).trans ((Chip.settleRetires_standing ..).trans (Chip.failAdmissions_standing ..))
      _ = published.standing t := (Chip.freeRetained_standing ..).trans (hmod ..)
  have hstated : stated.standing t = faulted.standing t := by
    exact (Chip.standing_of_tenants (c := drawn.setFState u .faulted) (by simp [stated]) t).trans (Chip.setFState_standing_ne _ ht _)
  refine (Chip.standing_of_tenants (c := lost) ?_ t).trans ?_
  · dsimp only
    exact hreport
  rw [hlost, Chip.publish_standing, hstated]
  exact hmod ..

theorem Chip.faultOut_lastUe (c : Chip) (p : Fin 4) (r : Running) (n : Nat) (commit : Stamp × W32) (f : FaultInfo) :
    (c.faultOut p r n commit f).memObj.lastUeOutcome = c.memObj.lastUeOutcome := by
  unfold Chip.faultOut
  dsimp only
  split <;> simp

/-! ### Where nothing waits -/

/-- Nothing comes to wait where the runs' TURNs, the partitions and the pending set stand. -/
theorem nothingWaits_of_kept {c d : Chip} (h : NothingWaits c) (hpending : d.partPending = c.partPending)
    (hwaiting : ∀ q : Fin 4, d.parts[q].waiting = c.parts[q].waiting)
    (hturn : ∀ q r, d.run q = some r → ∃ r', c.run q = some r' ∧ r'.turn = r.turn) : NothingWaits d := by
  obtain ⟨hp, hw, ht⟩ := h
  refine ⟨hpending.trans hp, fun q => (hwaiting q).trans (hw q), fun q r hr => ?_⟩
  obtain ⟨r', hr', hsame⟩ := hturn q r hr
  exact hsame.symm.trans (ht q r' hr')

theorem nothingWaits_of_parts {c d : Chip} (h : NothingWaits c) (hpending : d.partPending = c.partPending)
    (hparts : d.parts = c.parts) : NothingWaits d :=
  nothingWaits_of_kept h hpending (fun q => by rw [hparts]) fun q r hr => ⟨r, by rwa [Chip.run, hparts] at hr, rfl⟩

theorem restoreChip_tenants (c : Chip) (p : Fin 4) (r : Running) (x : ReplaySrc) : (restoreChip c p r x).tenants =
    (c.modTenant r.plan.tenant fun t => t.rewind r.plan.req.isSome (x.live r)).tenants :=
  foldl_keeps (g := Chip.tenants) (by simp) _ _

/-- A restore leaves the other plans, what waits, and the tenants' standing. -/
theorem State.restore_frame (s : State) (p : Fin 4) :
    (s.restore p).chip.partPending = s.chip.partPending ∧
      (∀ q : Fin 4, (s.restore p).chip.parts[q].waiting = s.chip.parts[q].waiting) ∧
      (∀ q, q ≠ p → (s.restore p).chip.run q = s.chip.run q) ∧
      (∀ t, (s.restore p).chip.standing t = s.chip.standing t) ∧
      (s.restore p).chip.memObj = s.chip.memObj := by
  cases hrun : s.chip.run p with
  | none => simp [State.restore, hrun]
  | some r =>
    cases hsrc : replaySource r.commits with
    | none =>
      rw [State.restore_of_none hrun hsrc]
      exact ⟨rfl, fun _ => rfl, fun _ _ => rfl, fun _ => rfl, rfl⟩
    | some x =>
      rw [State.restore_of_some hrun hsrc]
      refine ⟨restoreChip_partPending .., fun q => ?_, fun q hq => ?_, fun t => ?_, ?_⟩
      · dsimp only
        rw [restoreChip_parts]
        exact Chip.setRun_waiting ..
      · dsimp only
        rw [Chip.run, restoreChip_parts]
        exact Chip.setRun_run_ne _ _ _ hq
      · refine (Chip.standing_of_tenants (restoreChip_tenants ..) t).trans ?_
        exact Chip.modTenant_standing (f := fun t => t.rewind r.plan.req.isSome (x.live r)) (fun _ => rfl) s.chip t _
      · exact Sys2Proof.Machine.foldl_keeps (g := Chip.memObj) (by simp) _ _

/-- A state in which the same plans run, the same things wait and the same tenants stand: but for the plan of partition `p`, whose
plan and TURN alone are kept. -/
structure StandsBut (p : Fin 4) (s u : State) : Prop where
  pending : u.chip.partPending = s.chip.partPending
  waiting : ∀ q : Fin 4, u.chip.parts[q].waiting = s.chip.parts[q].waiting
  runs : ∀ q, q ≠ p → u.chip.run q = s.chip.run q
  standing : ∀ t, u.chip.standing t = s.chip.standing t
  memObj : u.chip.memObj = s.chip.memObj
  plan : ∀ r, s.chip.run p = some r → ∃ r', u.chip.run p = some r' ∧ r'.plan = r.plan ∧ r'.turn = r.turn

theorem StandsBut.trans {p : Fin 4} {s u v : State} (h : StandsBut p s u) (h' : StandsBut p u v) : StandsBut p s v where
  pending := h'.pending.trans h.pending
  waiting q := (h'.waiting q).trans (h.waiting q)
  runs q hq := (h'.runs q hq).trans (h.runs q hq)
  standing t := (h'.standing t).trans (h.standing t)
  memObj := h'.memObj.trans h.memObj
  plan r hr := by
    obtain ⟨r', hr', hplan, hturn⟩ := h.plan r hr
    obtain ⟨r'', hr'', hplan', hturn'⟩ := h'.plan r' hr'
    exact ⟨r'', hr'', hplan'.trans hplan, hturn'.trans hturn⟩

theorem StandsBut.waits {p : Fin 4} {s u : State} (h : StandsBut p s u) {r : Running} (hr : s.chip.run p = some r)
    (hwait : NothingWaits s.chip) : NothingWaits u.chip := by
  refine nothingWaits_of_kept hwait h.pending h.waiting fun q x hx => ?_
  by_cases hq : q = p
  · subst hq
    obtain ⟨r', hr', -, hturn⟩ := h.plan r hr
    obtain rfl : r' = x := Option.some.inj (hr'.symm.trans hx)
    exact ⟨r, hr, hturn.symm⟩
  · exact ⟨x, (h.runs q hq).symm.trans hx, rfl⟩

theorem State.abortBusy_standsBut (s : State) (p : Fin 4) (r : Running) (cause : W16) :
    StandsBut p s (s.on fun c => c.abortBusy r cause) where
  pending := by simp
  waiting q := by simp
  runs q _ := by simp
  standing t := Chip.standing_of_tenants (by simp) t
  memObj := by simp
  plan r hr := ⟨r, by simpa using hr, rfl, rfl⟩

theorem State.restore_standsBut (s : State) (p : Fin 4) : StandsBut p s (s.restore p) := by
  obtain ⟨hpending, hwaiting, hruns, hstanding, hmem⟩ := State.restore_frame s p
  exact ⟨hpending, hwaiting, hruns, hstanding, hmem, fun r hr => (State.restore_spec hr).1⟩

/-- A partition that loses its plan while nothing waits: the plan is gone, and nothing starts. -/
theorem State.freePart_alone {u : State} (hwait : NothingWaits u.chip) (p : Fin 4) :
    NothingWaits (u.freePart p).chip ∧ (u.freePart p).chip.run p = none ∧
      (∀ q, q ≠ p → (u.freePart p).chip.run q = u.chip.run q) ∧ (u.freePart p).chip.tenants = u.chip.tenants ∧
      (u.freePart p).chip.memObj = u.chip.memObj := by
  obtain ⟨hpending, hwaiting, hturn⟩ := id hwait
  have hfree : (u.chip.run p).bind Running.turn = none := by
    cases hr : u.chip.run p with
    | none => rfl
    | some r => exact hturn p r hr
  have hrun (q : Fin 4) : ((u.chip.setRun p none).settleAbsent).run q = (u.chip.setRun p none).run q := by simp
  rw [State.freePart_of_none hfree hpending hwaiting]
  dsimp only [State.on_chip]
  refine ⟨nothingWaits_of_kept hwait (by simp) (fun q => ?_) fun q x hx => ?_, ?_, fun q hq => ?_, by simp, by simp⟩
  · have hparts : (u.chip.setRun p none).settleAbsent.parts = (u.chip.setRun p none).parts := by simp
    rw [hparts]
    exact Chip.setRun_waiting ..
  · rw [hrun] at hx
    by_cases hq : q = p
    · subst hq
      rw [Chip.setRun_run] at hx
      cases hx
    · exact ⟨x, (Chip.setRun_run_ne _ _ _ hq).symm.trans hx, rfl⟩
  · rw [hrun, Chip.setRun_run]
  · rw [hrun, Chip.setRun_run_ne _ _ _ hq]

/-- The plan is gone and its tenant has faulted (R388). -/
theorem State.faultOut_alone {u : State} {p : Fin 4} {r : Running} (hwait : NothingWaits u.chip) (n : Nat)
    (commit : Stamp × W32) (f : FaultInfo) {v : State} (hv : v = (u.on fun c => c.faultOut p r n commit f).freePart p) :
    NothingWaits v.chip ∧ v.chip.run p = none ∧ (∀ q, q ≠ p → v.chip.run q = u.chip.run q) ∧
      v.chip.standing r.plan.tenant = (true, .faulted) ∧
      (∀ t, t ≠ r.plan.tenant → v.chip.standing t = u.chip.standing t) ∧
      v.chip.memObj.lastUeOutcome = u.chip.memObj.lastUeOutcome := by
  have hout : NothingWaits (u.on fun c => c.faultOut p r n commit f).chip := nothingWaits_of_parts hwait (by simp) (by simp)
  have hrun (q : Fin 4) : (u.on fun c => c.faultOut p r n commit f).chip.run q = u.chip.run q := by simp
  obtain ⟨hwaits, hgone, hruns, htenants, hmem⟩ := State.freePart_alone hout p
  rw [← hv] at hwaits hgone hruns htenants hmem
  exact ⟨hwaits, hgone, fun q hq => (hruns q hq).trans (hrun q),
    (Chip.standing_of_tenants htenants _).trans (u.chip.faultOut_standing p r n commit f),
    fun t ht => (Chip.standing_of_tenants htenants t).trans (u.chip.faultOut_standing_ne p r n commit f ht),
    (congrArg MemObj.lastUeOutcome hmem).trans (u.chip.faultOut_lastUe p r n commit f)⟩

/-- What a tenant fault brings about where nothing waits for the partition: its plan is gone and its tenant has faulted; the
other plans run on and the other tenants stand. -/
theorem State.tenantFault_alone {s : State} {p : Fin 4} {r : Running} (h : s.chip.run p = some r) (hwait : NothingWaits s.chip)
    (f : FaultInfo) (sound : Bool) {v : State} (hv : v = s.tenantFault p f sound) :
    NothingWaits v.chip ∧ v.chip.run p = none ∧ (∀ q, q ≠ p → v.chip.run q = s.chip.run q) ∧
      v.chip.standing r.plan.tenant = (true, .faulted) ∧
      (∀ t, t ≠ r.plan.tenant → v.chip.standing t = s.chip.standing t) ∧
      v.chip.memObj.lastUeOutcome = s.chip.memObj.lastUeOutcome := by
  obtain ⟨u, hu, hstands⟩ : ∃ u, u = (if sound then (s.on fun c => c.abortBusy r f.status).restore p else
      s.on fun c => c.abortBusy r f.status) ∧ StandsBut p s u := by
    cases sound with
    | true => exact ⟨_, rfl, (State.abortBusy_standsBut ..).trans (State.restore_standsBut ..)⟩
    | false => exact ⟨_, rfl, State.abortBusy_standsBut ..⟩
  obtain ⟨r', hr', hplan, -⟩ := hstands.plan r h
  simp only [State.tenantFault, h, ← hu, hr'] at hv
  obtain ⟨hwaits, hgone, hruns, hstanding, hothers, hlast⟩ := State.faultOut_alone (hstands.waits h hwait) _ _ f hv
  rw [hplan] at hstanding hothers
  exact ⟨hwaits, hgone, fun q hq => (hruns q hq).trans (hstands.runs q hq), hstanding,
    fun t ht => (hothers t ht).trans (hstands.standing t), hlast.trans (congrArg MemObj.lastUeOutcome hstands.memObj)⟩

/-! ### Tenants that take a fault together (R383, R389) -/

/-- Nothing has come to wait, and every tenant that had faulted has. -/
structure FaultsStay (s u : State) : Prop where
  waits : NothingWaits u.chip
  stay : ∀ t : Fin 16, s.chip.tenants[t].fault = true → u.chip.tenants[t].fault = true

theorem FaultsStay.trans {s u v : State} (h : FaultsStay s u) (h' : FaultsStay u v) : FaultsStay s v where
  waits := h'.waits
  stay t ht := h'.stay t (h.stay t ht)

/-- Steps that keep the faulted tenants keep them all together. -/
theorem FaultsStay.foldl {α : Type} {f : State → α → State} (hf : ∀ u x, NothingWaits u.chip → FaultsStay u (f u x)) (l : List α)
    {s : State} (hwait : NothingWaits s.chip) : FaultsStay s (l.foldl f s) := by
  induction l generalizing s with
  | nil => exact ⟨hwait, fun _ ht => ht⟩
  | cons x l ih => exact (hf s x hwait).trans (ih (hf s x hwait).waits)

theorem State.tenantFault_faultsStay {s : State} {p : Fin 4} {r : Running} (h : s.chip.run p = some r) (hwait : NothingWaits s.chip)
    (f : FaultInfo) (sound : Bool) :
    FaultsStay s (s.tenantFault p f sound) ∧ (s.tenantFault p f sound).chip.tenants[r.plan.tenant].fault = true := by
  obtain ⟨hwaits, -, -, hstanding, hothers, -⟩ := State.tenantFault_alone h hwait f sound rfl
  have hfault := Chip.faulted_of_standing hstanding
  refine ⟨⟨hwaits, fun t ht => ?_⟩, hfault⟩
  by_cases hten : t = r.plan.tenant
  · rw [hten]
    exact hfault
  · exact (Chip.fault_of_standing (hothers t hten)).trans ht

/-- A tenant fault without a plan: the tenant has faulted, the others stand. -/
theorem State.idleFault_faultsStay {s : State} (hwait : NothingWaits s.chip) (t : Fin 16) (unit : W32) (det : Byte) (cause : W64) :
    FaultsStay s (s.on fun c => c.idleFault t unit det cause) ∧
      (s.on fun c => c.idleFault t unit det cause).chip.tenants[t].fault = true := by
  have hset : (s.chip.idleFault t unit det cause).tenants =
      ((s.chip.modTenant t fun x => { x with fault := true }).setFState t .faulted).tenants := by
    unfold Chip.idleFault
    simp
  have hown : (s.chip.idleFault t unit det cause).standing t = (true, .faulted) := by
    rw [Chip.standing_of_tenants hset, Chip.setFState_standing]
    exact congrArg (fun x => (Tenant.fault x, FState.faulted)) (vecMod_same ..)
  have hfault : (s.chip.idleFault t unit det cause).tenants[t].fault = true := Chip.faulted_of_standing hown
  have hpending : (s.chip.idleFault t unit det cause).partPending = s.chip.partPending := by simp
  have hparts : (s.chip.idleFault t unit det cause).parts = s.chip.parts := by simp
  refine ⟨⟨nothingWaits_of_parts hwait hpending hparts, fun u hu => ?_⟩, hfault⟩
  by_cases hut : u = t
  · rw [hut]
    exact hfault
  · have hother : (s.chip.idleFault t unit det cause).standing u = s.chip.standing u := by
      rw [Chip.standing_of_tenants hset, Chip.setFState_standing_ne _ hut]
      exact congrArg (fun x => (Tenant.fault x, Tenant.fstate x)) (vecMod_ne _ _ hut)
    exact (Chip.fault_of_standing hother).trans hu

/-- One tenant takes a fault: with every plan of its own, or without one. -/
theorem State.faultTenants_one {s : State} (hwait : NothingWaits s.chip) (t : Fin 16) (unit : W32) (det : Byte) (flags : W64)
    (sound : Bool) :
    FaultsStay s (s.faultTenants [t] unit det flags sound) ∧ (s.faultTenants [t] unit det flags sound).chip.tenants[t].fault = true := by
  obtain ⟨ps, hps⟩ : ∃ ps, s.chip.partsOf t = ps := ⟨_, rfl⟩
  unfold State.faultTenants
  cases ps with
  | nil =>
    simp only [List.foldl_cons, List.foldl_nil, hps]
    exact State.idleFault_faultsStay hwait ..
  | cons p rest =>
    obtain ⟨r, hr, hten⟩ : ∃ r, s.chip.run p = some r ∧ r.plan.tenant = t := by
      have hmem : p ∈ s.chip.partsOf t := hps ▸ List.mem_cons_self
      cases hr : s.chip.run p with
      | none => simp [Chip.partsOf, hr] at hmem
      | some r =>
        have hboth : p ∈ allParts ∧ r.plan.tenant = t := by simpa [Chip.partsOf, hr] using hmem
        exact ⟨r, rfl, hboth.2⟩
    simp only [List.foldl_cons, List.foldl_nil, hps, hr]
    subst hten
    have hfirst := State.tenantFault_faultsStay hr hwait
      ⟨0x0031, det, unit, BitVec.ofNat 32 r.ctx.pc, 0xFF, det.setWidth 64 ||| flags, s.chip.drone.now⟩ sound
    have hrest := FaultsStay.foldl (f := fun s p => match s.chip.run p with
      | some r => s.tenantFault p
          ⟨0x0031, det, unit, BitVec.ofNat 32 r.ctx.pc, 0xFF, det.setWidth 64 ||| flags, s.chip.drone.now⟩ sound
      | none => s) (fun u q hu => ?_) rest hfirst.1.waits
    · exact ⟨hfirst.1.trans hrest, hrest.stay _ hfirst.2⟩
    · split
      · next hq => exact (State.tenantFault_faultsStay hq hu _ _).1
      · exact ⟨hu, fun _ ht => ht⟩

/-- Every tenant named has faulted, and none has recovered (R383, R389). -/
theorem State.faultTenants_all {s : State} (hwait : NothingWaits s.chip) (ts : List (Fin 16)) (unit : W32) (det : Byte) (flags : W64)
    (sound : Bool) :
    FaultsStay s (s.faultTenants ts unit det flags sound) ∧
      ∀ t ∈ ts, (s.faultTenants ts unit det flags sound).chip.tenants[t].fault = true := by
  induction ts generalizing s with
  | nil => exact ⟨⟨hwait, fun _ ht => ht⟩, fun _ ht => absurd ht List.not_mem_nil⟩
  | cons t ts ih =>
    obtain ⟨hfirst, hfault⟩ := State.faultTenants_one hwait t unit det flags sound
    obtain ⟨hrest, hall⟩ := ih hfirst.waits
    have hcons : s.faultTenants (t :: ts) unit det flags sound =
        (s.faultTenants [t] unit det flags sound).faultTenants ts unit det flags sound := rfl
    rw [hcons]
    refine ⟨hfirst.trans hrest, fun u hu => ?_⟩
    obtain rfl | hmem := List.mem_cons.mp hu
    · exact hrest.stay u hfault
    · exact hall u hmem

end Sys2Proof.Machine
end

section
/-! A tile out of service (R184): what is recorded, which idle spares and rebindings it concerns. -/

namespace Sys2Proof.Machine

theorem Chip.queueRebind_mem (c : Chip) (p : Fin 4) : p ∈ (c.queueRebind p).placer.rebinds := by
  unfold Chip.queueRebind
  split
  · next h => exact List.contains_iff_mem.mp h
  · simp

theorem Chip.queueRebind_sub (c : Chip) (p : Fin 4) {q : Fin 4} (h : q ∈ c.placer.rebinds) : q ∈ (c.queueRebind p).placer.rebinds := by
  unfold Chip.queueRebind
  split
  · exact h
  · exact List.mem_append_left _ h

/-- A partition's part in a tile's loss: its plan loses the idle spare. -/
def Chip.loseSpareOf (t : Fin 68) (c : Chip) (p : Fin 4) : Chip :=
  match c.run p with
  | some r => if r.plan.binding.spares.contains t then (c.setRun p (some (r.loseSpare t))).queueRebind p else c
  | none => c

/-- A run after a tile's loss. -/
def Running.afterOut (t : Fin 68) (r : Running) : Running :=
  if r.plan.binding.spares.contains t then r.loseSpare t else r

theorem Running.afterOut_turn (t : Fin 68) (r : Running) : (r.afterOut t).turn = r.turn := by
  unfold Running.afterOut
  split <;> rfl

theorem Chip.loseSpareOf_run (t : Fin 68) (c : Chip) (p : Fin 4) : (c.loseSpareOf t p).run p = (c.run p).map (Running.afterOut t) := by
  unfold Chip.loseSpareOf Running.afterOut
  cases h : c.run p with
  | none => simpa using h
  | some r =>
    dsimp only [Option.map_some]
    split
    · simp
    · exact h

theorem Chip.loseSpareOf_run_ne (t : Fin 68) (c : Chip) {p q : Fin 4} (h : q ≠ p) : (c.loseSpareOf t p).run q = c.run q := by
  unfold Chip.loseSpareOf
  split
  · split
    · simp [Chip.setRun_run_ne _ _ _ h]
    · rfl
  · rfl

theorem Chip.loseSpareOf_faults (t : Fin 68) (c : Chip) (p : Fin 4) : (c.loseSpareOf t p).faults = c.faults := by
  unfold Chip.loseSpareOf
  split
  · split
    · simp
    · rfl
  · rfl

theorem Chip.loseSpareOf_waiting (t : Fin 68) (c : Chip) (p q : Fin 4) :
    (c.loseSpareOf t p).parts[q].waiting = c.parts[q].waiting := by
  unfold Chip.loseSpareOf
  split
  · split
    · simp only [Chip.queueRebind_keeps, Chip.setRun_waiting]
    · rfl
  · rfl

theorem Chip.loseSpareOf_rebinds_sub (t : Fin 68) (c : Chip) (p : Fin 4) {q : Fin 4} (h : q ∈ c.placer.rebinds) :
    q ∈ (c.loseSpareOf t p).placer.rebinds := by
  unfold Chip.loseSpareOf
  split
  · split
    · exact Chip.queueRebind_sub _ _ h
    · exact h
  · exact h

/-- Each partition's plan loses the spare once. -/
theorem foldl_loseSpareOf_run (t : Fin 68) (q : Fin 4) {l : List (Fin 4)} (hl : l.Nodup) (c : Chip) :
    (l.foldl (Chip.loseSpareOf t) c).run q = if q ∈ l then (c.run q).map (Running.afterOut t) else c.run q := by
  induction l generalizing c with
  | nil => rfl
  | cons p l ih =>
    obtain ⟨hp, hl⟩ := List.nodup_cons.mp hl
    rw [List.foldl_cons, ih hl]
    by_cases hq : q = p
    · subst hq
      simp [hp, Chip.loseSpareOf_run]
    · simp [hq, Chip.loseSpareOf_run_ne]

theorem foldl_loseSpareOf_rebinds_sub (t : Fin 68) {q : Fin 4} (l : List (Fin 4)) {c : Chip} (h : q ∈ c.placer.rebinds) :
    q ∈ (l.foldl (Chip.loseSpareOf t) c).placer.rebinds :=
  List.foldlRecOn (motive := fun d : Chip => q ∈ d.placer.rebinds) l _ h fun _ hd p _ => Chip.loseSpareOf_rebinds_sub t _ p hd

/-- A partition whose plan holds the tile as an idle spare is bound anew. -/
theorem foldl_loseSpareOf_rebinds (t : Fin 68) {q : Fin 4} {r : Running} (ht : r.plan.binding.spares.contains t = true)
    {l : List (Fin 4)} (hq : q ∈ l) {c : Chip} (hr : c.run q = some r) : q ∈ (l.foldl (Chip.loseSpareOf t) c).placer.rebinds := by
  induction l generalizing c with
  | nil => exact absurd hq List.not_mem_nil
  | cons p l ih =>
    rw [List.foldl_cons]
    by_cases hqp : q = p
    · subst hqp
      have hself : q ∈ (c.loseSpareOf t q).placer.rebinds := by
        simp only [Chip.loseSpareOf, hr, ht, if_true]
        exact Chip.queueRebind_mem ..
      exact foldl_loseSpareOf_rebinds_sub t l hself
    · exact ih ((List.mem_cons.mp hq).resolve_left hqp) ((Chip.loseSpareOf_run_ne t c hqp).trans hr)

/-- The first part of a tile's loss: the record of it, and the bound plans that go without it. -/
def Chip.outOf (c : Chip) (t : Fin 68) : Chip :=
  (c.placer.bound.filter fun p => p.binding.names t).foldl (fun c p => c.queueRebind (p.part.getD 0))
    { c with
      faults := { c.faults with tilesOut := t :: c.faults.tilesOut }
      placer := { c.placer with bound := c.placer.bound.map fun p => p.without (t :: c.faults.tilesOut) t } }

theorem Chip.tileOut_eq (c : Chip) (t : Fin 68) : c.tileOut t = allParts.foldl (Chip.loseSpareOf t) (c.outOf t) := rfl

theorem Chip.outOf_keeps (c : Chip) (t : Fin 68) :
    (c.outOf t).parts = c.parts ∧ (c.outOf t).faults = { c.faults with tilesOut := t :: c.faults.tilesOut } := by
  unfold Chip.outOf
  constructor
  · exact foldl_keeps (g := Chip.parts) (fun c p => by simp) _ _
  · exact foldl_keeps (g := Chip.faults) (fun c p => by simp) _ _

theorem Chip.tileOut_faults (c : Chip) (t : Fin 68) :
    (c.tileOut t).faults = { c.faults with tilesOut := t :: c.faults.tilesOut } := by
  rw [Chip.tileOut_eq]
  exact (foldl_keeps (g := Chip.faults) (Chip.loseSpareOf_faults t) _ _).trans (Chip.outOf_keeps c t).2

theorem Chip.tileOut_run (c : Chip) (t : Fin 68) (q : Fin 4) : (c.tileOut t).run q = (c.run q).map (Running.afterOut t) := by
  have hrun : (c.outOf t).run q = c.run q := by rw [Chip.run, Chip.run, (Chip.outOf_keeps c t).1]
  rw [Chip.tileOut_eq, foldl_loseSpareOf_run t q (by decide), if_pos (mem_allParts q), hrun]

theorem Chip.tileOut_waiting (c : Chip) (t : Fin 68) (q : Fin 4) : (c.tileOut t).parts[q].waiting = c.parts[q].waiting := by
  rw [Chip.tileOut_eq]
  refine (foldl_keeps (g := fun d : Chip => d.parts[q].waiting) (fun d p => Chip.loseSpareOf_waiting t d p q) _ _).trans ?_
  rw [(Chip.outOf_keeps c t).1]

theorem Chip.tileOut_rebinds {c : Chip} {t : Fin 68} {q : Fin 4} {r : Running} (hr : c.run q = some r)
    (ht : r.plan.binding.spares.contains t = true) : q ∈ (c.tileOut t).placer.rebinds := by
  have hrun : (c.outOf t).run q = c.run q := by rw [Chip.run, Chip.run, (Chip.outOf_keeps c t).1]
  rw [Chip.tileOut_eq]
  exact foldl_loseSpareOf_rebinds t ht (mem_allParts q) (hrun.trans hr)

/-- A tile's loss alone lets nothing come to wait. -/
theorem Chip.tileOut_waits {c : Chip} (h : NothingWaits c) (t : Fin 68) : NothingWaits (c.tileOut t) := by
  refine nothingWaits_of_kept h (by simp) (fun q => c.tileOut_waiting t q) fun q r hr => ?_
  rw [Chip.tileOut_run] at hr
  obtain ⟨r', hr', rfl⟩ := Option.map_eq_some_iff.mp hr
  exact ⟨r', hr', (r'.afterOut_turn t).symm⟩

end Sys2Proof.Machine
end

section
/-! Calibration windows, guarded and derated units (R192, R194, R245, R246, R250, R383). -/

namespace Sys2Proof.Machine

/-! ### The deferred window's entry (R194) -/

theorem Chip.pumpRing_islCaldef (c : Chip) (f : Fn) (r : Fin 12) : (c.pumpRing f r).objs.islCaldef = c.objs.islCaldef := by
  unfold Chip.pumpRing
  split
  · dsimp only
    split
    · simp
    · simp
  · rfl

theorem Chip.log_islCaldef (c : Chip) (f : Fn) (e : EvEntry) : (c.log f e).objs.islCaldef = c.objs.islCaldef := by
  unfold Chip.log
  split
  · exact (Chip.pumpRing_islCaldef ..).trans (by simp)
  · rfl

theorem Chip.calEntry_islCaldef (c : Chip) (unit : W32) (guarded : Bool) :
    (c.calEntry unit guarded).objs.islCaldef = c.objs.islCaldef :=
  Chip.log_islCaldef ..

/-- Source 11 is pending after the entry, where it was idle. -/
theorem Chip.calEntry_src11 {c : Chip} {unit : W32} {guarded : Bool} (h : c.intc.src[11] = .idle) :
    (c.calEntry unit guarded).intc.src[11] = .pending := by
  unfold Chip.calEntry
  rw [Chip.raise_intc]
  exact Intc.edge_of_idle (n := 11) (by simpa using h) _

/-! ### Windows of the memory units -/

section Windows
variable {s : State} (hrun : s.chip.power = .running)
include hrun

theorem exec_hbmRetrainingWindow_of_honoured (h : s.chip.deferred = false) (k : Fin 384) :
    exec (.hbmRetrainingWindow k) s =
      .next (s.on fun c => { c with calPc := c.calPc.set k (c.calPc[k].pass c.drone.now) }) := by
  simp only [exec, execHbmRetrainingWindow, State.on, Chip.up_of_running hrun, h]
  rfl

theorem exec_dqsTrackingWindow_of_honoured (h : s.chip.deferred = false) (k : Fin 16) :
    exec (.dqsTrackingWindow k) s =
      .next (s.on fun c => { c with calDqs := c.calDqs.set k (c.calDqs[k].pass c.drone.now) }) := by
  simp only [exec, execDqsTrackingWindow, State.on, Chip.up_of_running hrun, h]
  rfl

theorem exec_zqCalibrationWindow_of_honoured (h : s.chip.deferred = false) (k : Fin 16) :
    exec (.zqCalibrationWindow k) s =
      .next (s.on fun c => { c with calZq := c.calZq.set k (c.calZq[k].pass c.drone.now) }) := by
  simp only [exec, execZqCalibrationWindow, State.on, Chip.up_of_running hrun, h]
  rfl

theorem exec_hbmRetrainingWindow_of_deferred (h : s.chip.deferred = true) (k : Fin 384) :
    exec (.hbmRetrainingWindow k) s = .next (s.on fun c =>
      { c with memObj := { c.memObj with caldefT1 := c.memObj.caldefT1 + 1 } }.calEntry (c.srcId 4 k.val) false) := by
  simp only [exec, execHbmRetrainingWindow, State.on, Chip.up_of_running hrun, h]
  rfl

theorem exec_dqsTrackingWindow_of_deferred (h : s.chip.deferred = true) (k : Fin 16) :
    exec (.dqsTrackingWindow k) s = .next (s.on fun c =>
      { c with memObj := { c.memObj with caldefDqs := c.memObj.caldefDqs + 1 } }.calEntry (c.srcId 4 (0x400 + 4 * k.val)) false) := by
  simp only [exec, execDqsTrackingWindow, State.on, Chip.up_of_running hrun, h]
  rfl

theorem exec_zqCalibrationWindow_of_deferred (h : s.chip.deferred = true) (k : Fin 16) :
    exec (.zqCalibrationWindow k) s = .next (s.on fun c =>
      { c with memObj := { c.memObj with caldefZq := c.memObj.caldefZq + 1 } }.calEntry (c.srcId 4 (0x400 + 4 * k.val)) false) := by
  simp only [exec, execZqCalibrationWindow, State.on, Chip.up_of_running hrun, h]
  rfl

/-! ### Windows of the islands -/

theorem exec_islandClockCalibration_of_deferred {i : Fin 77} (h : s.chip.islandDeferred i = true) (pass : Bool) :
    exec (.islandClockCalibration i pass) s = .next (s.on fun c =>
      { c with objs := { c.objs with islCaldef := c.objs.islCaldef + 1 } }.calEntry (c.islandSrc i) false) := by
  simp only [exec, execIslandClockCalibration, Chip.up_of_running hrun, h]
  rfl

/-- The island's trim alone. -/
def State.trimmed (s : State) (i : Fin 77) : State :=
  s.on fun c => { c with calIsl := c.calIsl.set i (c.calIsl[i].pass c.drone.now) }

theorem exec_islandClockCalibration_hub {i : Fin 77} (h : s.chip.islandDeferred i = false) (hi : 68 ≤ i.val) (pass : Bool) :
    exec (.islandClockCalibration i pass) s = .next (s.trimmed i) := by
  simp only [exec, execIslandClockCalibration, Chip.up_of_running hrun, h, islandTile, dif_neg (Nat.not_lt.mpr hi)]
  rfl

theorem exec_islandClockCalibration_tile {i : Fin 77} (h : s.chip.islandDeferred i = false) {t : Fin 68} (ht : t.val = i.val)
    (pass : Bool) :
    exec (.islandClockCalibration i pass) s = .next (if pass then (s.trimmed i).on fun c => c.testPassed t
      else if s.chip.faults.tilesOut.contains t then s.trimmed i else (s.trimmed i).cellFault t) := by
  have htile : islandTile i = some t := by
    unfold islandTile
    rw [dif_pos (ht ▸ t.isLt)]
    exact congrArg some (Fin.ext ht.symm)
  simp only [exec, execIslandClockCalibration, Chip.up_of_running hrun, h, htile]
  rfl

end Windows

/-! ### Failed cells (R383) -/

theorem State.cellFault_tilesOut (s : State) (t : Fin 68) : t ∈ (s.cellFault t).chip.faults.tilesOut := by
  unfold State.cellFault
  simp only [State.faultTenants_tilesOut, State.on_chip, Chip.hbForm_faults, Chip.tileOut_faults]
  exact List.mem_cons_self

/-- Every tenant whose plan used the tile since its cells last passed has faulted. -/
theorem State.cellFault_users {s : State} (hwait : NothingWaits s.chip) (t : Fin 68) :
    ∀ x ∈ s.chip.sp[t].users, (s.cellFault t).chip.tenants[x].fault = true := by
  have hraised : NothingWaits (s.chip.raise 2) := hwait
  have hout := Chip.tileOut_waits hraised t
  unfold State.cellFault
  refine (State.faultTenants_all ?_ ..).2
  exact nothingWaits_of_parts hout (by simp) (by simp)

/-! ### Guarded and derated units (R246, R250) -/

theorem Chip.lapsed_of {c : Chip} {x : CalState} {ms : Nat} {moved : Bool} (hlim : x.limited = false)
    (h : moved = true ∨ ms * 1000000 < (c.drone.now - x.last).toNat) : c.lapsed x ms moved = true := by
  simp only [Chip.lapsed, Chip.since, hlim, Bool.not_false, Bool.true_and, Bool.or_eq_true]
  exact h.imp_right fun hlate => decide_eq_true hlate

section Guarded
variable {s : State} (hrun : s.chip.power = .running)
include hrun

theorem exec_guardedModeEnter_hbmPc {k : Fin 384} {moved : Bool} (h : s.chip.lapsed s.chip.calPc[k] 1000 moved = true) :
    exec (.guardedModeEnter (.hbmPc k) moved) s = .next (s.on fun c =>
      { c with calPc := c.calPc.set k { c.calPc[k] with limited := true } }.guarded k.val) := by
  simp only [exec, execGuardedModeEnter, State.on, Chip.up_of_running hrun, h]
  rfl

theorem exec_guardedModeEnter_dqs {k : Fin 16} {moved : Bool} (h : s.chip.lapsed s.chip.calDqs[k] 100 moved = true) :
    exec (.guardedModeEnter (.dqs k) moved) s = .next (s.on fun c =>
      { c with calDqs := c.calDqs.set k { c.calDqs[k] with limited := true } }.guarded (0x400 + 4 * k.val)) := by
  simp only [exec, execGuardedModeEnter, State.on, Chip.up_of_running hrun, h]
  rfl

theorem exec_guardedModeEnter_zq {k : Fin 16} {moved : Bool} (h : s.chip.lapsed s.chip.calZq[k] 1000 moved = true) :
    exec (.guardedModeEnter (.zq k) moved) s = .next (s.on fun c =>
      { c with calZq := c.calZq.set k { c.calZq[k] with limited := true } }.guarded (0x400 + 4 * k.val)) := by
  simp only [exec, execGuardedModeEnter, State.on, Chip.up_of_running hrun, h]
  rfl

theorem exec_islandDerate_of_lapsed {i : Fin 77} (h : s.chip.lapsed s.chip.calIsl[i] 1000 false = true) :
    exec (.islandDerate i) s = .next (s.on fun c => { c with calIsl := c.calIsl.set i { c.calIsl[i] with limited := true } }) := by
  simp only [exec, execIslandDerate, State.on, Chip.up_of_running hrun, h]
  rfl

end Guarded

theorem Chip.guarded_guardCount (c : Chip) (unit : Nat) : (c.guarded unit).memObj.guardCount = c.memObj.guardCount + 1 := by
  unfold Chip.guarded
  simp

/-- A derated island runs 1 % lower. -/
theorem Chip.mhz_derated {c : Chip} {i : Fin 77} (h : c.calIsl[i].limited = false) :
    Chip.mhz { c with calIsl := c.calIsl.set i { c.calIsl[i] with limited := true } } i = c.mhz i * 99 / 100 := by
  rw [Fin.getElem_fin] at h
  simp [Chip.mhz, h]

end Sys2Proof.Machine

open Sys2Proof.Machine

/-- Settles O49: a window is either the trim or the deferred entry, failed cells end in the tenants' faults, and a unit outside
its margin is marked. -/
theorem calibrationWindowsTrim : Obligations.CalibrationWindowsTrim := by
  intro s hrun
  refine ⟨fun h => ⟨fun k => ?_, fun k => ?_, fun k => ?_⟩, fun i h => ⟨fun hi pass => ?_, fun t ht => ⟨?_, fun hout => ?_, fun hin => ?_⟩⟩,
    fun h k p => ?_, fun i pass h => ?_, fun k moved hlim hlate => ?_, fun p moved hlim hlate => ?_, fun p moved hlim hlate => ?_,
    fun i hlim hlate => ?_⟩
  · exact exec_hbmRetrainingWindow_of_honoured hrun h k
  · exact exec_dqsTrackingWindow_of_honoured hrun h k
  · exact exec_zqCalibrationWindow_of_honoured hrun h k
  · exact exec_islandClockCalibration_hub hrun h hi pass
  · exact exec_islandClockCalibration_tile hrun h ht true
  · rw [exec_islandClockCalibration_tile hrun h ht false, if_neg Bool.false_ne_true, if_pos (List.contains_iff_mem.mpr hout)]
    rfl
  · rw [exec_islandClockCalibration_tile hrun h ht false, if_neg Bool.false_ne_true,
      if_neg (fun hmem => hin (List.contains_iff_mem.mp hmem))]
    exact ⟨_, rfl, State.cellFault_tilesOut .., State.cellFault_keeps .., fun hwait => State.cellFault_users (s := s.trimmed i) hwait t⟩
  · refine ⟨_, _, _, exec_hbmRetrainingWindow_of_deferred hrun h k, exec_dqsTrackingWindow_of_deferred hrun h p,
      exec_zqCalibrationWindow_of_deferred hrun h p, ?_⟩
    simp only [State.on_chip, Chip.calEntry_keeps, List.forall_mem_cons, State.on_mem, State.on_pending, true_and]
    exact ⟨fun hidle => Chip.calEntry_src11 hidle, fun hidle => Chip.calEntry_src11 hidle,
      fun hidle => Chip.calEntry_src11 hidle, fun _ hu => absurd hu List.not_mem_nil⟩
  · refine ⟨_, exec_islandClockCalibration_of_deferred hrun h pass, ?_⟩
    simp only [State.on_chip, Chip.calEntry_keeps, Chip.calEntry_islCaldef, State.on_mem, State.on_pending, true_and]
    exact fun hidle => Chip.calEntry_src11 hidle
  · refine ⟨_, exec_guardedModeEnter_hbmPc hrun (Chip.lapsed_of hlim hlate), ?_⟩
    simp [Chip.guarded_guardCount]
  · refine ⟨_, exec_guardedModeEnter_dqs hrun (Chip.lapsed_of hlim hlate), ?_⟩
    simp [Chip.guarded_guardCount]
  · refine ⟨_, exec_guardedModeEnter_zq hrun (Chip.lapsed_of hlim hlate), ?_⟩
    simp [Chip.guarded_guardCount]
  · exact ⟨_, exec_islandDerate_of_lapsed hrun (Chip.lapsed_of hlim (.inr hlate)), rfl, Chip.mhz_derated hlim⟩

end

section
/-! Lost tiles and lanes (R182-R184, R239, R379, R384, R385, R389): what TILE_LOSS_DETECT and LANE_LOSS do by case. -/

namespace Sys2Proof.Machine

/-- A detector's tenant fault where nothing waits: its plan is gone, its tenant has faulted, and LAST_UE stands. -/
theorem State.detFault_alone {s : State} {p : Fin 4} {r : Running} (h : s.chip.run p = some r) (hwait : NothingWaits s.chip)
    (status : W16) (det : Byte) (unit : W32) (sound : Bool) :
    (s.detFault p status det unit sound).chip.run p = none ∧
      (s.detFault p status det unit sound).chip.tenants[r.plan.tenant].fault = true ∧
      (s.detFault p status det unit sound).chip.memObj.lastUeOutcome = s.chip.memObj.lastUeOutcome := by
  unfold State.detFault
  simp only [h]
  obtain ⟨-, hgone, -, hstanding, -, hlast⟩ := State.tenantFault_alone h hwait
    ⟨status, det, unit, BitVec.ofNat 32 r.ctx.pc, 0xFF, det.setWidth 64, s.chip.drone.now⟩ sound rfl
  exact ⟨hgone, Chip.faulted_of_standing hstanding, hlast⟩

theorem State.detFault_tilesOut (s : State) (p : Fin 4) (status : W16) (det : Byte) (unit : W32) (sound : Bool) :
    (s.detFault p status det unit sound).chip.faults.tilesOut = s.chip.faults.tilesOut :=
  congrArg Prod.fst (s.detFault_losses p status det unit sound)

/-! ### One tile lost (R184, R384, R385) -/

/-- What every tile's loss does to the chip: source 2, and the tile out of service. -/
def Chip.lostTile (c : Chip) (t : Fin 68) : Chip := (c.raise 2).tileOut t

theorem Chip.lostTile_run (c : Chip) (t : Fin 68) (q : Fin 4) : (c.lostTile t).run q = (c.run q).map (Running.afterOut t) :=
  Chip.tileOut_run ..

theorem Chip.lostTile_tilesOut (c : Chip) (t : Fin 68) : (c.lostTile t).faults.tilesOut = t :: c.faults.tilesOut :=
  congrArg Faults.tilesOut (Chip.tileOut_faults (c.raise 2) t)

theorem Chip.lostTile_tenants (c : Chip) (t : Fin 68) : (c.lostTile t).tenants = c.tenants := by
  unfold Chip.lostTile
  simp

theorem Chip.lostTile_now (c : Chip) (t : Fin 68) : (c.lostTile t).drone = c.drone := by
  unfold Chip.lostTile
  simp

theorem Chip.lostTile_src2 {c : Chip} (h : c.intc.src[2] = .idle) (t : Fin 68) : (c.lostTile t).intc.src[2] = .pending := by
  have hraised : (c.lostTile t).intc = c.intc.edge 2 c.drone.now := by
    unfold Chip.lostTile
    simp
  rw [hraised]
  exact Intc.edge_of_idle (n := 2) h _

theorem Chip.lostTile_waits {c : Chip} (h : NothingWaits c) (t : Fin 68) : NothingWaits (c.lostTile t) :=
  Chip.tileOut_waits (c := c.raise 2) h t

/-- A plan that does not hold the tile as an idle spare runs on as it is. -/
theorem Chip.lostTile_run_same {c : Chip} {t : Fin 68} {q : Fin 4} (h : ∀ r, c.run q = some r → t ∉ r.plan.binding.spares) :
    (c.lostTile t).run q = c.run q := by
  rw [Chip.lostTile_run]
  cases hr : c.run q with
  | none => rfl
  | some r =>
    have hnot : ¬ r.plan.binding.spares.contains t = true := fun hmem => h r hr (List.contains_iff_mem.mp hmem)
    exact congrArg some (if_neg hnot)

theorem exec_tileLossDetect_one {s : State} (hrun : s.chip.power = .running) {t : Fin 68} (ht : t ∉ s.chip.faults.tilesOut) {det : Byte}
    (hdet : det ≠ 6) : exec (.tileLossDetect [t] det) s = .next ((s.on fun c => c.raise 2).tileLoss t det) := by
  have hlost : ([t].eraseDups.filter fun t => !s.chip.faults.tilesOut.contains t) = [t] := by
    rw [show [t].eraseDups = [t] from rfl]
    simp [ht]
  simp only [exec, execTileLossDetect, Chip.up_of_running hrun, hlost, if_neg hdet, Bool.not_true, Bool.false_eq_true, if_false]

/-- The loss of a tile that no plan uses. -/
theorem State.tileLoss_unused {s : State} {t : Fin 68} (h : s.chip.tilePart t = none) (det : Byte) :
    (s.on fun c => c.raise 2).tileLoss t det = s.on fun c => c.lostTile t := by
  have hpart : (s.on fun c => c.raise 2).chip.tilePart t = none := h
  simp only [State.tileLoss, hpart]
  rfl

/-- The alternates of a plan for the loss of a tile are bound: no spare of the tile's die has been lost before. -/
def Running.bound (r : Running) (t : Fin 68) : Bool := r.altsReady && !r.spareLost.any fun x => decide (dieOf x = dieOf t)

theorem Running.bound_iff (r : Running) (t : Fin 68) :
    r.bound t = true ↔ r.altsReady = true ∧ ∀ x ∈ r.spareLost, dieOf x ≠ dieOf t := by
  simp [Running.bound]

/-- The switch of a plan to its alternate. -/
def Chip.switchRun (c : Chip) (p : Fin 4) (r : Running) (t : Fin 68) (det : Byte) (unit : W32) (b : Binding) : Chip :=
  (((c.setRun p (some ((r.interrupt c.drone.now det unit none).switchTo t b))).useTiles r.plan
    (b.tiles.filter fun x => !r.plan.binding.uses x)).tileEvent unit).queueRebind p

theorem Chip.lostTile_run_used {c : Chip} {t : Fin 68} {p : Fin 4} {r : Running} (hr : c.run p = some r)
    (hspare : t ∉ r.plan.binding.spares) : (c.lostTile t).run p = some r :=
  (Chip.lostTile_run_same fun x hx => by rwa [Option.some.inj (hx.symm.trans hr)]).trans hr

section Used
variable {s : State} {t : Fin 68} {p : Fin 4} {r : Running} (h : s.chip.tilePart t = some p) (hr : s.chip.run p = some r)
  (hspare : t ∉ r.plan.binding.spares) (det : Byte)
include h hr hspare

/-- A bound alternate takes the place of the plan's binding. -/
theorem State.tileLoss_switch {b : Binding} (hb : r.plan.binding.without (t :: s.chip.faults.tilesOut) t = some b)
    (hbound : r.bound t = true) : (s.on fun c => c.raise 2).tileLoss t det =
      s.on fun c => (c.lostTile t).switchRun p r t det (s.chip.tileSrc t.val) b := by
  have hpart : (s.chip.raise 2).tilePart t = some p := h
  have hsrc : (s.chip.raise 2).tileSrc t.val = s.chip.tileSrc t.val := rfl
  have hrun := Chip.lostTile_run_used hr hspare
  have hout := Chip.lostTile_tilesOut s.chip t
  unfold Chip.lostTile at hrun hout
  unfold Running.bound at hbound
  simp only [State.tileLoss, State.on_chip, State.on_on, hpart, hsrc, hrun, hout, hb, hbound, if_true, Chip.switchRun, Chip.lostTile]

/-- A plan without a bound alternate takes a tenant fault. -/
theorem State.tileLoss_fault (hnone : r.bound t = false ∨ r.plan.binding.without (t :: s.chip.faults.tilesOut) t = none) :
    (s.on fun c => c.raise 2).tileLoss t det =
      (s.on fun c => c.lostTile t).detFault p 0x0031 det (s.chip.tileSrc t.val) true := by
  have hpart : (s.chip.raise 2).tilePart t = some p := h
  have hsrc : (s.chip.raise 2).tileSrc t.val = s.chip.tileSrc t.val := rfl
  have hrun := Chip.lostTile_run_used hr hspare
  have hout := Chip.lostTile_tilesOut s.chip t
  unfold Chip.lostTile at hrun hout
  cases hb : r.plan.binding.without (t :: s.chip.faults.tilesOut) t with
  | none => simp only [State.tileLoss, State.on_chip, State.on_on, hpart, hsrc, hrun, hout, hb, Chip.lostTile]
  | some b =>
    have hunbound : r.bound t = false := hnone.resolve_right (by simp [hb])
    unfold Running.bound at hunbound
    simp only [State.tileLoss, State.on_chip, State.on_on, hpart, hsrc, hrun, hout, hb, hunbound, Bool.false_eq_true, if_false,
      Chip.lostTile]

end Used

theorem Chip.switchRun_spec (c : Chip) (p : Fin 4) (r : Running) (t : Fin 68) (det : Byte) (unit : W32) (b : Binding) :
    (c.switchRun p r t det unit b).run p = some ((r.interrupt c.drone.now det unit none).switchTo t b) ∧
      p ∈ (c.switchRun p r t det unit b).placer.rebinds ∧
      (c.switchRun p r t det unit b).faults = c.faults ∧ (c.switchRun p r t det unit b).tenants = c.tenants ∧
      (c.switchRun p r t det unit b).intc = c.intc ∧ ∀ q, q ≠ p → (c.switchRun p r t det unit b).run q = c.run q := by
  unfold Chip.switchRun
  refine ⟨by simp, Chip.queueRebind_mem .., by simp, by simp, by simp, fun q hq => ?_⟩
  simp [Chip.setRun_run_ne _ _ _ hq]

/-- A switch after a tile's loss, where no plan holds the tile as an idle spare. -/
theorem Chip.switchRun_lostTile {c d : Chip} {t : Fin 68} (hspare : ∀ (q : Fin 4) x, c.run q = some x → t ∉ x.plan.binding.spares)
    {p : Fin 4} {r : Running} {det : Byte} {unit : W32} {b : Binding} (hd : d = (c.lostTile t).switchRun p r t det unit b) :
    d.run p = some ((r.interrupt c.drone.now det unit none).switchTo t b) ∧ p ∈ d.placer.rebinds ∧
      d.faults.tilesOut = t :: c.faults.tilesOut ∧ d.tenants = c.tenants ∧
      (c.intc.src[2] = .idle → d.intc.src[2] = .pending) ∧ ∀ q, q ≠ p → d.run q = c.run q := by
  obtain ⟨hown, hrebind, hfaults, htenants, hintc, hothers⟩ := (c.lostTile t).switchRun_spec p r t det unit b
  rw [← hd] at hown hrebind hfaults htenants hintc hothers
  rw [Chip.lostTile_now] at hown
  refine ⟨hown, hrebind, ?_, htenants.trans (Chip.lostTile_tenants ..), fun hidle => ?_, fun q hq => ?_⟩
  · rw [hfaults, Chip.lostTile_tilesOut]
  · rw [hintc]
    exact Chip.lostTile_src2 hidle t
  · exact (hothers q hq).trans (Chip.lostTile_run_same (hspare q))

/-! ### More than one tile (R389) -/

theorem exec_tileLossDetect_two {s : State} (hrun : s.chip.power = .running) {t t' : Fin 68} (hne : t ≠ t')
    (ht : t ∉ s.chip.faults.tilesOut) (ht' : t' ∉ s.chip.faults.tilesOut) (det : Byte) :
    exec (.tileLossDetect [t, t'] det) s = .next ((s.on fun c => [t, t'].foldl Chip.tileOut (c.raise 2)).moduleFault
      ((s.on fun c => [t, t'].foldl Chip.tileOut (c.raise 2)).chip.tileSrc t.val) det true) := by
  have hlost : ([t, t'].eraseDups.filter fun t => !s.chip.faults.tilesOut.contains t) = [t, t'] := by
    have hdups : [t, t'].eraseDups = [t, t'] := by simp [List.eraseDups_cons, hne.symm]
    rw [hdups]
    simp [ht, ht']
  simp only [exec, execTileLossDetect, Chip.up_of_running hrun, hlost, Bool.not_true, Bool.false_eq_true, if_false]

/-! ### Codewords and lanes of a link (R239, R379) -/

section Codeword
variable {s : State} (hrun : s.chip.power = .running) (l : Fin 8) {raw : List Byte}
include hrun

theorem exec_linkCodewordResend_clean (h : linkVerdict raw = .clean) : exec (.linkCodewordResend ⟨l, raw⟩) s =
    .next (s.on fun c => { c with faults := { c.faults with resends := c.faults.resends.set l 0 } }) := by
  simp only [exec, execLinkCodewordResend, State.on, Chip.up_of_running hrun, h, Bool.not_true, Bool.false_eq_true,
    if_false]

theorem exec_linkCodewordResend_corrected {x : List Byte} (h : linkVerdict raw = .corrected x) :
    exec (.linkCodewordResend ⟨l, raw⟩) s = .next (s.on fun c => { c with
      faults := { c.faults with resends := c.faults.resends.set l 0 }
      memObj := { c.memObj with ceLink := c.memObj.ceLink + 1 }
      mram := { c.mram with ceLifetime := c.mram.ceLifetime + 1 } }) := by
  simp only [exec, execLinkCodewordResend, State.on, Chip.up_of_running hrun, h, Bool.not_true, Bool.false_eq_true,
    if_false]

theorem exec_linkCodewordResend_again (h : linkVerdict raw = .uncorrectable) (hagain : s.chip.faults.resends[l] < 4) :
    exec (.linkCodewordResend ⟨l, raw⟩) s = .next (s.on fun c => { c with
      faults := { c.faults with resends := c.faults.resends.set l (c.faults.resends[l] + 1) }
      memObj := { c.memObj with resendLink := c.memObj.resendLink + 1 } }) := by
  simp only [exec, execLinkCodewordResend, State.on, vecMod, Chip.up_of_running hrun, h, if_pos hagain, Bool.not_true, Bool.false_eq_true,
    if_false]

theorem exec_linkCodewordResend_failed (h : linkVerdict raw = .uncorrectable) (hfail : 4 ≤ s.chip.faults.resends[l]) :
    exec (.linkCodewordResend ⟨l, raw⟩) s = .next s := by
  simp only [exec, execLinkCodewordResend, State.on, Chip.up_of_running hrun, h, if_neg (Nat.not_lt.mpr hfail), Bool.not_true, Bool.false_eq_true,
    if_false]

end Codeword

/-- A lane's loss as the link records it: source 3, the codeword's failures over, a spare lane taken. -/
def Chip.spareLane (c : Chip) (l : Fin 8) : Chip :=
  let d := Chip.raise { c with faults := { c.faults with resends := c.faults.resends.set l 0 } } 3
  { d with faults := { d.faults with spareUsed := d.faults.spareUsed.set l (d.faults.spareUsed[l] + 1) } }

theorem exec_laneLoss_of_resends {s : State} {l : Fin 8} (h : s.chip.faults.resends[l] < 4) (q : Option (Fin 4)) :
    exec (.laneLoss l q) s = .next s := by
  simp only [exec, execLaneLoss, h, decide_true, Bool.or_true, if_true]

section Lane
variable {s : State} (hrun : s.chip.power = .running) {l : Fin 8} (hfail : 4 ≤ s.chip.faults.resends[l])
include hrun hfail

/-- A spare lane takes the traffic, and the plan that it carries is interrupted. -/
theorem exec_laneLoss_spare (hspare : s.chip.faults.spareUsed[l] < 2) (q : Option (Fin 4)) :
    exec (.laneLoss l q) s = .next (match q with
      | some p => (s.on fun c => c.spareLane l).laneInterrupt p
      | none => s.on fun c => c.spareLane l) := by
  have hfailed : ¬ s.chip.faults.resends[l] < 4 := Nat.not_lt.mpr hfail
  simp only [exec, execLaneLoss, Chip.up_of_running hrun, decide_eq_false hfailed, Bool.not_true, Bool.or_self,
    Bool.false_eq_true, if_false]
  exact congrArg Host.Outcome.next (if_pos hspare)

theorem exec_laneLoss_without (hspare : 2 ≤ s.chip.faults.spareUsed[l]) (q : Option (Fin 4)) :
    ∃ u : State, exec (.laneLoss l q) s = .next u ∧ u.chip.faults.mfault = true := by
  have hfailed : ¬ s.chip.faults.resends[l] < 4 := Nat.not_lt.mpr hfail
  simp only [exec, execLaneLoss, Chip.up_of_running hrun, decide_eq_false hfailed, Bool.not_true, Bool.or_self,
    Bool.false_eq_true, if_false]
  exact ⟨_, congrArg Host.Outcome.next (if_neg (Nat.not_lt.mpr hspare)), State.moduleFault_mfault ..⟩

end Lane

theorem Chip.spareLane_faults (c : Chip) (l : Fin 8) : (c.spareLane l).faults =
    { c.faults with resends := c.faults.resends.set l 0, spareUsed := c.faults.spareUsed.set l (c.faults.spareUsed[l] + 1) } := rfl

theorem Chip.spareLane_src3 {c : Chip} (h : c.intc.src[3] = .idle) (l : Fin 8) : (c.spareLane l).intc.src[3] = .pending :=
  Intc.edge_of_idle (n := 3) h c.drone.now

/-- The plan on the lost lane is interrupted where its alternates are bound. -/
theorem State.laneInterrupt_of_ready {s : State} {p : Fin 4} {r : Running} (h : s.chip.run p = some r) (hready : r.altsReady = true) :
    s.laneInterrupt p = s.on fun c => (c.setRun p (some (r.interrupt c.drone.now 0x11 (c.hubSrc 0) none))).tileEvent (c.hubSrc 0) := by
  simp only [State.laneInterrupt, h, hready, if_true, State.on]

end Sys2Proof.Machine
end

section
/-! The resume of an interruption (R240, R241, R289, R384, R386): the replay's commit set, and a lost copy. -/

namespace Sys2Proof.Machine

/-! ### A replay's frames leave what has been received (R289) -/

theorem Chip.modPort_waiting (c : Chip) (p q : Fin 16) {f : Port → Port} (hf : ∀ x, (f x).waiting = x.waiting) :
    (c.modPort p f).ports[q].waiting = c.ports[q].waiting := by
  by_cases h : q = p
  · subst h
    exact (congrArg Port.waiting (vecMod_same c.ports q f)).trans (hf _)
  · exact congrArg Port.waiting (vecMod_ne _ _ h)

theorem Chip.transmit_waiting (c : Chip) (p : Fin 16) (mk : BoreHdr → TxFrame) (q : Fin 16) :
    (c.transmit p mk).ports[q].waiting = c.ports[q].waiting := by
  unfold Chip.transmit
  split
  · exact Chip.modPort_waiting _ _ _ fun _ => rfl
  · rfl

theorem Chip.pumpPort_waiting (c : Chip) (p q : Fin 16) : (c.pumpPort p).ports[q].waiting = c.ports[q].waiting := by
  unfold Chip.pumpPort
  dsimp only
  split
  · exact Chip.modPort_waiting _ _ _ fun _ => rfl
  · rfl

theorem Chip.sendData_waiting (c : Chip) (p : Fin 16) (f : DataFrame) (q : Fin 16) :
    (c.sendData p f).ports[q].waiting = c.ports[q].waiting := by
  unfold Chip.sendData
  exact (Chip.pumpPort_waiting ..).trans (Chip.modPort_waiting _ _ _ fun _ => rfl)

theorem Chip.sendHop_waiting (c : Chip) (ps : List (Fin 16)) (k : Nat) (fs : List DataFrame) (q : Fin 16) :
    (c.sendHop ps k fs).ports[q].waiting = c.ports[q].waiting := by
  unfold Chip.sendHop
  dsimp only
  split
  · exact foldl_keeps (g := fun d : Chip => d.ports[q].waiting) (fun d f => Chip.sendData_waiting d _ f q) _ _
  · rfl

theorem Chip.resendFrames_waiting (c : Chip) (g : Group) (xs : List Retained) (q : Fin 16) :
    (c.resendFrames g xs).ports[q].waiting = c.ports[q].waiting :=
  foldl_keeps (g := fun d : Chip => d.ports[q].waiting) (fun _ _ => Chip.sendHop_waiting ..) _ _

theorem Chip.sendResume_waiting (c : Chip) (g : Group) (x : RxHop) (q : Fin 16) :
    (c.sendResume g x).ports[q].waiting = c.ports[q].waiting := by
  unfold Chip.sendResume
  split
  · exact Chip.transmit_waiting ..
  · rfl

theorem Chip.replayGroup_waiting (c : Chip) (g : Group) (k : CommitPt) (q : Fin 16) :
    (c.replayGroup g k).ports[q].waiting = c.ports[q].waiting := by
  have hsent : ((c.resendFrames g (g.retained.filter fun x => k.after g x)).modGroup g.grp fun y =>
      { y with rx := y.rx.filter fun x => k.covers g x }).ports[q].waiting = c.ports[q].waiting := by
    simp only [Chip.modGroup_keeps]
    exact Chip.resendFrames_waiting ..
  unfold Chip.replayGroup
  dsimp only
  split
  · exact hsent
  · exact (Chip.sendResume_waiting ..).trans hsent

theorem Chip.replayGroups_waiting (c : Chip) (t : Fin 16) (k : CommitPt) (q : Fin 16) :
    (c.replayGroups t k).ports[q].waiting = c.ports[q].waiting :=
  foldl_keeps (g := fun d : Chip => d.ports[q].waiting) (fun _ _ => Chip.replayGroup_waiting ..) _ _

/-! ### The plan that resumes -/

/-- The run `y` at the commit point as it resumes; `r`: as it was interrupted. -/
def Running.resumes (r : Running) (i : Interrupt) (now : Stamp) (y : Running) : Running :=
  { y.markReplayed.beginReplay i r.done with
    intr := none
    faultRec := if i.det.toNat ≤ 5 ∧ !r.altsReady then some (r.resumeRec i r.replayPoint now) else y.faultRec
    coll := y.coll.map fun k => { k with since := now } }

theorem Running.resumes_keeps (r : Running) (i : Interrupt) (now : Stamp) (y : Running) :
    (r.resumes i now y).ctx = y.ctx ∧ (r.resumes i now y).step = y.step ∧ (r.resumes i now y).inPrologue = y.inPrologue ∧
      (r.resumes i now y).build = y.build ∧ (r.resumes i now y).plan = y.plan ∧ (r.resumes i now y).commits = y.commits := by
  unfold Running.resumes Running.beginReplay Running.markReplayed
  split <;> simp

/-- The replay's part of the chip: hops sent again, the plan resumed and the interruption reported. -/
def Chip.replayed (c : Chip) (p : Fin 4) (r : Running) (i : Interrupt) (k : CommitPt) : Chip :=
  let c := c.replayGroups r.plan.tenant k
  let c := c.modRun p (r.resumes i c.drone.now)
  match c.run p with
  | some x => c.resumeReports x i r.replayPoint
  | none => c

theorem Chip.resumeReports_intrCount (c : Chip) (r : Running) (i : Interrupt) (commit : Stamp × W32) :
    (c.resumeReports r i commit).faults.intrCount = c.faults.intrCount + 1 := by
  unfold Chip.resumeReports
  dsimp only
  split <;> simp

theorem Chip.replayed_spec {c : Chip} {p : Fin 4} {y : Running} (h : c.run p = some y) (r : Running) (i : Interrupt) (k : CommitPt) :
    (c.replayed p r i k).run p = some (r.resumes i c.drone.now y) ∧
      (∀ q : Fin 16, (c.replayed p r i k).ports[q].waiting = c.ports[q].waiting) ∧ (c.replayed p r i k).tenants = c.tenants ∧
      (c.replayed p r i k).faults.intrCount = c.faults.intrCount + 1 := by
  have hrun : ((c.replayGroups r.plan.tenant k).modRun p (r.resumes i (c.replayGroups r.plan.tenant k).drone.now)).run p =
      some (r.resumes i c.drone.now y) := by simp [h]
  unfold Chip.replayed
  dsimp only
  simp only [hrun]
  refine ⟨by simp [h], fun q => ?_, by simp, ?_⟩
  · simp only [Chip.resumeReports_keeps]
    exact Chip.replayGroups_waiting ..
  · rw [Chip.resumeReports_intrCount]
    simp

theorem State.collStep_of_none {s : State} {p : Fin 4} {r : Running} (h : s.chip.run p = some r) (hcoll : r.coll = none) :
    s.collStep p = s := by
  simp only [State.collStep, h, hcoll]

theorem State.restore_run {s : State} {p : Fin 4} {r : Running} {x : ReplaySrc} (h : s.chip.run p = some r)
    (hsrc : replaySource r.commits = some x) : (s.restore p).chip.run p = some (r.rewind x) := by
  rw [State.restore_of_some h hsrc]
  dsimp only
  rw [Chip.run, restoreChip_parts]
  exact Chip.setRun_run ..

theorem State.restore_ports (s : State) (p : Fin 4) : (s.restore p).chip.ports = s.chip.ports := by
  unfold State.restore
  split
  · rfl
  · split
    · rfl
    · simp

theorem State.restore_tenant {s : State} {p : Fin 4} {r : Running} {x : ReplaySrc} (h : s.chip.run p = some r)
    (hsrc : replaySource r.commits = some x) :
    (s.restore p).chip.tenants[r.plan.tenant] = s.chip.tenants[r.plan.tenant].rewind r.plan.req.isSome (x.live r) := by
  rw [State.restore_of_some h hsrc]
  dsimp only
  rw [restoreChip_tenants]
  exact vecMod_same ..

section Resume
variable {s : State} (hrun : s.chip.power = .running) {p : Fin 4} {r : Running} {i : Interrupt} (h : s.chip.run p = some r)
  (hintr : r.intr = some i)
include hrun h hintr

theorem exec_interruptionResume_of_sound (hue : i.ue.filter UeRead.lost = none) {x : ReplaySrc} (hsrc : replaySource r.commits = some x) :
    exec (.interruptionResume p) s =
      .next ((((s.restore p).on fun c => c.replayed p r i x.pt).collStep p).consumeAll) := by
  have hpoint : r.replayed = some x.pt := by rw [Running.replayed, hsrc]; rfl
  simp only [exec, execInterruptionResume, h, hintr, Chip.up_of_running hrun, hue, hpoint, Bool.not_true, Bool.false_eq_true, if_false]
  rfl

/-- With nothing received and no collective in progress, the plan goes on from its commit point. -/
theorem exec_interruptionResume_alone (hue : i.ue.filter UeRead.lost = none) {x : ReplaySrc} (hsrc : replaySource r.commits = some x)
    (hcoll : x.pt.coll = none) (hempty : ∀ q : Fin 16, s.chip.ports[q].waiting = []) :
    exec (.interruptionResume p) s = .next ((s.restore p).on fun c => c.replayed p r i x.pt) := by
  have hback := Chip.replayed_spec (State.restore_run h hsrc) r i x.pt
  have hidle : ((s.restore p).on fun c => c.replayed p r i x.pt).collStep p = (s.restore p).on fun c => c.replayed p r i x.pt := by
    refine State.collStep_of_none hback.1 ?_
    rw [Running.resumes, Running.rewind, hcoll]
    rfl
  rw [exec_interruptionResume_of_sound hrun h hintr hue hsrc, hidle, State.consumeAll_of_empty fun q => ?_]
  rw [State.on_chip, hback.2.1 q, State.restore_ports]
  exact hempty q

/-- The commit copy is lost: LAST_UE names it, and the plan ends. -/
theorem exec_interruptionResume_of_lost {u : UeRead} (hue : i.ue = some u) (hlost : u.lost = true) :
    exec (.interruptionResume p) s = .next (s.copyLost p i u) := by
  have hfilter : i.ue.filter UeRead.lost = some u := by rw [hue, Option.filter_some, if_pos hlost]
  simp only [exec, execInterruptionResume, h, hintr, Chip.up_of_running hrun, hfilter, Bool.not_true, Bool.false_eq_true, if_false]

end Resume

theorem State.copyLost_alone {s : State} {p : Fin 4} {r : Running} (h : s.chip.run p = some r) (hwait : NothingWaits s.chip)
    (i : Interrupt) (u : UeRead) :
    (s.copyLost p i u).chip.run p = none ∧ (s.copyLost p i u).chip.tenants[r.plan.tenant].fault = true ∧
      (s.copyLost p i u).chip.memObj.lastUeOutcome = 0x0030 := by
  unfold State.copyLost State.ueFault
  obtain ⟨tier, unit, off⟩ := s.chip.copyPlace p u
  dsimp only [State.on_on]
  obtain ⟨hgone, hfault, hlast⟩ := State.detFault_alone
    (s := s.on fun c => { ((c.raise 1).countUe tier).lastUe tier unit off 0x0030 with
      memObj := { (((c.raise 1).countUe tier).lastUe tier unit off 0x0030).memObj with lastUeOutcome := 0x0030 } })
    (p := p) (r := r) (by simpa [Chip.run] using h)
    (nothingWaits_of_parts hwait (by simp) (by simp)) 0x0030 0x10 i.unit false
  exact ⟨hgone, hfault, hlast⟩

end Sys2Proof.Machine

open Sys2Proof.Machine

/-- Settles O47: by the cases of the losses' definitions; a plan's fault is followed with `State.tenantFault_alone`. -/
theorem lossesInterruptAndReplay : Obligations.LossesInterruptAndReplay := by
  intro s hrun
  refine ⟨fun t det ht hdet => ⟨fun hpart => ?_, fun p r hpart hr hspare => ⟨fun b hbound hb => ?_, fun hwait hnone => ?_⟩⟩,
    fun p r i hr hintr => ⟨fun x hue hsrc hcoll hempty => ?_, fun x hue hlost hwait => ?_⟩,
    fun l raw => ⟨fun hclean => ?_, fun x hcorr => ?_, fun hbad hagain => ?_, fun hbad hfail => ?_⟩,
    fun l => ⟨fun hresends q => ?_, fun hfail => ⟨fun hlane => ?_, fun p r hlane hr hready => ?_, fun hlane q => ?_⟩⟩,
    fun t t' det hne ht ht' => ?_⟩
  · have hexec : exec (.tileLossDetect [t] det) s = .next (s.on fun c => c.lostTile t) := by
      rw [exec_tileLossDetect_one hrun ht hdet, State.tileLoss_unused hpart]
    refine ⟨_, hexec, State.on_mem .., State.on_pending .., ?_⟩
    rw [State.on_chip]
    exact ⟨s.chip.lostTile_tilesOut t, s.chip.lostTile_tenants t, s.chip.lostTile_run t,
      fun p r hr hmem => Chip.tileOut_rebinds (c := s.chip.raise 2) hr hmem, fun hidle => Chip.lostTile_src2 hidle t⟩
  · have hexec : exec (.tileLossDetect [t] det) s =
        .next (s.on fun c => (c.lostTile t).switchRun p r t det (s.chip.tileSrc t.val) b) := by
      rw [exec_tileLossDetect_one hrun ht hdet, State.tileLoss_switch hpart hr (hspare p r hr) det hb ((r.bound_iff t).mpr hbound)]
    obtain ⟨hown, hrebind, hout, htenants, hraised, hothers⟩ :=
      Chip.switchRun_lostTile hspare (d := (s.chip.lostTile t).switchRun p r t det (s.chip.tileSrc t.val) b) rfl
    refine ⟨_, hexec, ?_⟩
    rw [State.on_chip]
    exact ⟨hown, State.on_mem .., State.on_pending .., hrebind, hout, htenants, hraised, hothers⟩
  · have hunbound : r.bound t = false ∨ r.plan.binding.without (t :: s.chip.faults.tilesOut) t = none :=
      hnone.imp_left fun hnot => Bool.eq_false_iff.mpr fun hb => hnot ((r.bound_iff t).mp hb)
    have hexec : exec (.tileLossDetect [t] det) s =
        .next ((s.on fun c => c.lostTile t).detFault p 0x0031 det (s.chip.tileSrc t.val) true) := by
      rw [exec_tileLossDetect_one hrun ht hdet, State.tileLoss_fault hpart hr (hspare p r hr) det hunbound]
    have hkept : (s.on fun c => c.lostTile t).chip.run p = some r := by
      rw [State.on_chip, Chip.lostTile_run_used hr (hspare p r hr)]
    have hwaits : NothingWaits (s.on fun c => c.lostTile t).chip := by
      rw [State.on_chip]
      exact Chip.lostTile_waits hwait t
    obtain ⟨hgone, hten, -⟩ := State.detFault_alone hkept hwaits 0x0031 det (s.chip.tileSrc t.val) true
    refine ⟨_, hexec, State.detFault_keeps .., hgone, hten, ?_⟩
    exact (State.detFault_tilesOut ..).trans (Chip.lostTile_tilesOut ..)
  · obtain ⟨hback, -, htenants, hcount⟩ := Chip.replayed_spec (State.restore_run hr hsrc) r i x.pt
    obtain ⟨hctx, hstep, hpro, hbuild, hplan, hcommits⟩ := r.resumes_keeps i (s.restore p).chip.drone.now (r.rewind x)
    refine ⟨_, _, exec_interruptionResume_alone hrun hr hintr hue hsrc hcoll hempty, hback, rfl, hctx, hstep, hpro, hbuild, hplan,
      hcommits, ?_, ?_, ?_, ?_⟩
    · rw [State.on_mem, State.restore_of_some hr hsrc]
    · rw [State.on_pending, State.restore_of_some hr hsrc]
    · rw [State.on_chip, htenants, State.restore_tenant hr hsrc]
    · rw [State.on_chip, hcount, State.restore_faults]
  · obtain ⟨hgone, hfault, hlast⟩ := State.copyLost_alone hr hwait i x
    exact ⟨_, exec_interruptionResume_of_lost hrun hr hintr hue hlost, State.copyLost_keeps .., hgone, hfault, hlast⟩
  · exact exec_linkCodewordResend_clean hrun l hclean
  · exact exec_linkCodewordResend_corrected hrun l hcorr
  · exact exec_linkCodewordResend_again hrun l hbad hagain
  · exact exec_linkCodewordResend_failed hrun l hbad hfail
  · exact exec_laneLoss_of_resends hresends q
  · refine ⟨_, exec_laneLoss_spare hrun hfail hlane none, ?_, ?_, fun hidle => Chip.spareLane_src3 hidle l, rfl, rfl, rfl, rfl⟩
    · simp [Chip.spareLane_faults]
    · simp [Chip.spareLane_faults]
  · refine ⟨_, r.interrupt s.chip.drone.now 0x11 (s.chip.hubSrc 0) none, (exec_laneLoss_spare hrun hfail hlane (some p)).trans
      (congrArg _ (State.laneInterrupt_of_ready (s := s.on fun c => c.spareLane l) hr hready)), ?_, rfl, rfl, ?_, ?_, rfl, rfl⟩
    · simp only [State.on_chip, Chip.tileEvent_keeps, Chip.setRun_run]
      rfl
    · simp [Chip.spareLane_faults]
    · simp [Chip.spareLane_faults]
  · exact exec_laneLoss_without hrun hfail hlane q
  · exact ⟨_, exec_tileLossDetect_two hrun hne ht ht' det, State.moduleFault_mfault ..⟩

end

section
/-! The placer's queue (R175, R176, R181, R301): a SUBMIT queued, a bind that ends, and a rebinding of alternates (R182,
R387). -/

namespace Sys2Proof.Machine

/-! ### The job at the front begins -/

theorem Chip.beginJob_bound (c : Chip) : c.beginJob.placer.bound = c.placer.bound ∧ c.beginJob.placer.nextId = c.placer.nextId := by
  unfold Chip.beginJob
  split
  · exact ⟨rfl, rfl⟩
  · split <;> exact ⟨rfl, rfl⟩

theorem Chip.beginJob_srcs (c : Chip) : c.beginJob.placer.jobs.map BindJob.src = c.placer.jobs.map BindJob.src := by
  unfold Chip.beginJob
  split
  · rfl
  · next j js hjobs =>
    split
    · rfl
    · rw [hjobs]
      rfl

/-! ### SUBMIT (R181, R301) -/

/-- A submit whose header stands becomes the last job. -/
theorem State.takeSubmit_queued {s : State} {t : Fin 16} {b bytes : List Byte} {img : Image} (hroom : s.chip.placer.jobs.length ≤ 32)
    (hbytes : s.imageBytes t (SubmitRec.read b) = some bytes) (hhead : s.chip.headOk (ImageHead.read bytes) = true)
    (hparse : Image.parse s.chip.tenants[t] bytes = .ok img) (src : CmdSrc) :
    s.takeSubmit t (some b) none src = s.on fun c => c.queueJob
      { tenant := t, sub := SubmitRec.read b, image := some img, layoutFault := none, restore := none, start := none, src := src } := by
  have hfree : s.chip.placerFull = false := decide_eq_false (by omega)
  simp only [State.takeSubmit, hfree, hbytes, hhead, hparse, Option.all_none, Bool.not_true, Bool.false_eq_true, if_false, if_true]

/-! ### BIND_COMPLETE (R175, R176, R181) -/

section Bind
variable {s : State} {j : BindJob} {js : List BindJob} {st : BindStart} (hrebinds : s.chip.placer.rebinds = [])
  (hjobs : s.chip.placer.jobs = j :: js)

include hjobs in
theorem exec_bindComplete_other {t : Fin 16} (ht : t ≠ j.tenant) : exec (.bindComplete t) s = .next s := by
  have hbinds : s.chip.placer.binds t = false := by
    refine decide_eq_false ?_
    simpa [hjobs] using ht.symm
  simp only [exec, execBindComplete, hbinds, Bool.and_false, Bool.false_eq_true, if_false]

include hrebinds hjobs in
theorem exec_bindComplete_front : exec (.bindComplete j.tenant) s = .next s.finishBind := by
  have hbinds : s.chip.placer.binds j.tenant = true := decide_eq_true (by rw [hjobs]; rfl)
  simp only [exec, execBindComplete, hrebinds, hbinds, List.isEmpty_nil, Bool.and_self, if_true]

variable (hstart : j.start = some st) (hrestore : j.restore = none)
include hjobs hstart hrestore

/-- A bind that finds nothing wrong. -/
theorem State.finishBind_ok {s0 : State} (hs0 : s0 = s.on fun c => { c with placer := { c.placer with jobs := js } })
    {p p' : Plan} (hp : s0.judgeBind j st = .ok p)
    (hp' : p' = { p with report := s0.chip.bindReport p st (s0.chip.bindingBytes p).length }) :
    s.finishBind = (s0.enterPlan p').on fun c => ((c.bindDone j.src p'.report).raise 74).beginJob := by
  subst hs0 hp'
  simp only [State.finishBind, hjobs, hrestore, Chip.loadSaved, hstart, Option.getD_some, hp, State.on_on]

/-- A bind that finds something. -/
theorem State.finishBind_error {s0 : State} (hs0 : s0 = s.on fun c => { c with placer := { c.placer with jobs := js } })
    {status : W16} {err : BindErr} (herr : s0.judgeBind j st = .error (status, err)) :
    s.finishBind = s0.on fun c => ((c.bindDone j.src (failReport status err j.sub.part st.capW)).raise 74).beginJob := by
  subst hs0
  simp only [State.finishBind, hjobs, hrestore, Chip.loadSaved, hstart, Option.getD_some, herr, State.on_on]

end Bind

/-- The placer after a successful bind. -/
theorem State.enterPlan_placer (s : State) (p : Plan) :
    (s.enterPlan p).chip.placer = { s.chip.placer with bound := s.chip.placer.bound ++ [p], nextId := p.id + 1 } := rfl

/-! ### ALTERNATE_REBIND_COMPLETE (R182, R184, R387) -/

theorem exec_bindComplete_of_rebinds {s : State} {q : Fin 4} {qs : List (Fin 4)} (h : s.chip.placer.rebinds = q :: qs) (t : Fin 16) :
    exec (.bindComplete t) s = .next s := by
  simp only [exec, execBindComplete, h, List.isEmpty_cons, Bool.false_and, Bool.false_eq_true, if_false]

theorem exec_alternateRebindComplete_other {s : State} {p q : Fin 4} {qs : List (Fin 4)} (h : s.chip.placer.rebinds = q :: qs)
    (hp : p ≠ q) : exec (.alternateRebindComplete p) s = .next s := by
  have hnot : ¬ s.chip.placer.rebinds.head? = some p := by simpa [h] using hp.symm
  simp only [exec, execAlternateRebindComplete, if_neg hnot]

theorem exec_alternateRebindComplete_front {s : State} {q : Fin 4} {qs : List (Fin 4)} (h : s.chip.placer.rebinds = q :: qs) :
    exec (.alternateRebindComplete q) s = .next ((s.on fun c => c.rebound q).startWaiting q) := by
  have hfront : s.chip.placer.rebinds.head? = some q := by rw [h]; rfl
  simp only [exec, execAlternateRebindComplete, if_pos hfront]

/-- Nothing starts on a partition that runs a plan. -/
theorem State.startWaiting_of_run {s : State} {p : Fin 4} {r : Running} (h : s.chip.run p = some r) : s.startWaiting p = s := by
  have hmay : s.chip.mayStart p = none := by
    unfold Chip.mayStart
    rw [h]
    split
    · next hnone => cases hnone
    · rfl
  simp only [State.startWaiting, hmay]

/-- The placer's part of a rebinding: the next one, and the bound plans' alternates. -/
def Chip.rebindBound (c : Chip) (q : Fin 4) : Chip :=
  { c with placer := { c.placer with
    rebinds := c.placer.rebinds.drop 1
    bound := c.placer.bound.map fun (p : Plan) => if p.part.getD 0 = q ∧ !p.altsReady then c.rebindAlts p else p } }

/-- A running plan with its alternates bound anew. -/
def Running.reboundAs (r : Running) (x : Plan) : Running :=
  { r with plan := x, altsReady := true, spareLost := [], faultRec := none }

/-- Whether a running plan has alternates to bind anew. -/
def Running.settled (r : Running) : Bool := r.altsReady && r.spareLost.isEmpty

theorem Chip.rebound_settled {c : Chip} {q : Fin 4} {r : Running} (h : c.run q = some r) (hs : r.settled = true) :
    c.rebound q = (c.rebindBound q).raise 74 := by
  have hrun : (c.rebindBound q).run q = some r := h
  unfold Running.settled at hs
  unfold Chip.rebindBound at hrun ⊢
  simp only [Chip.rebound, hrun, hs, if_true]

theorem Chip.rebound_unsettled {c : Chip} {q : Fin 4} {r : Running} (h : c.run q = some r) (hs : r.settled = false) :
    c.rebound q = (((c.rebindBound q).setRun q (some (r.reboundAs ((c.rebindBound q).rebindAlts r.plan)))).reboundRec r).raise 74 := by
  have hrun : (c.rebindBound q).run q = some r := h
  unfold Running.settled at hs
  unfold Chip.rebindBound at hrun ⊢
  simp only [Chip.rebound, hrun, hs, Bool.false_eq_true, if_false, Running.reboundAs]

/-- What a rebinding makes of the running plan. -/
def Chip.reboundRun (c : Chip) (q : Fin 4) (r : Running) : Running :=
  if r.settled then r else r.reboundAs ((c.rebindBound q).rebindAlts r.plan)

theorem Chip.rebound_spec {c : Chip} {q : Fin 4} {r : Running} (h : c.run q = some r) :
    (c.rebound q).run q = some (c.reboundRun q r) ∧ (c.rebound q).placer = (c.rebindBound q).placer ∧
      (c.rebound q).intc = c.intc.edge 74 c.drone.now ∧ ∀ p, p ≠ q → (c.rebound q).run p = c.run p := by
  unfold Chip.reboundRun
  cases hs : r.settled with
  | true =>
    rw [Chip.rebound_settled h hs, if_pos rfl]
    exact ⟨h, rfl, rfl, fun _ _ => rfl⟩
  | false =>
    rw [Chip.rebound_unsettled h hs, if_neg Bool.false_ne_true]
    refine ⟨by simp, by simp, ?_, fun p hp => ?_⟩
    · simp only [Chip.raise_intc, Chip.reboundRec_keeps, Chip.setRun_intc, Chip.setRun_drone]
      rfl
    · simp only [Chip.raise_run, Chip.reboundRec_keeps, Chip.setRun_run_ne _ _ _ hp]
      rfl

/-- The plan keeps all but its alternates. -/
theorem Chip.reboundRun_spec (c : Chip) (q : Fin 4) (r : Running) :
    (c.reboundRun q r).altsReady = true ∧ (c.reboundRun q r).spareLost = [] ∧ (c.reboundRun q r).ctx = r.ctx ∧
      (c.reboundRun q r).step = r.step ∧ (c.reboundRun q r).commits = r.commits ∧
      (c.reboundRun q r).plan = { r.plan with fig := (c.reboundRun q r).plan.fig, altsReady := (c.reboundRun q r).plan.altsReady } ∧
      (r.altsReady = false → (c.reboundRun q r).plan.altsReady = r.plan.binding.altsOk c.faults.tilesOut) := by
  unfold Chip.reboundRun
  split
  · next hs =>
    obtain ⟨hready, hspare⟩ : r.altsReady = true ∧ r.spareLost.isEmpty = true := by simpa [Running.settled] using hs
    exact ⟨hready, List.isEmpty_iff.mp hspare, rfl, rfl, rfl, rfl, fun hnot => absurd (hready.symm.trans hnot) (by decide)⟩
  · exact ⟨rfl, rfl, rfl, rfl, rfl, rfl, fun _ => rfl⟩

/-- The plans bound for the partition have their alternates bound anew. -/
theorem Chip.rebindBound_bound (c : Chip) (q : Fin 4) :
    (c.rebindBound q).placer.bound = c.placer.bound.map fun (p : Plan) =>
      if p.part.getD 0 = q ∧ p.altsReady = false then
        { p with fig := (c.rebindAlts p).fig, altsReady := p.binding.altsOk c.faults.tilesOut } else p := by
  refine List.map_congr_left fun p _ => ?_
  simp only [Bool.not_eq_true']
  rfl

end Sys2Proof.Machine

open Sys2Proof.Machine

/-- Settles O30: each command is followed to the chip that it leaves, through the placer's own functions. -/
theorem bindsRunInOrder : Obligations.BindsRunInOrder := by
  refine ⟨fun s t ring e src c b bytes img htake hroom hrec hbytes hhead hparse => ?_,
    fun s j js st hrebinds hjobs hstart hrestore => ⟨fun t ht => ?_, fun p hp => ?_, fun status err herr => ?_⟩,
    fun s q qs hq => ⟨fun t => ?_, fun p hp => ?_, ?_, fun r hr => ?_⟩⟩
  · have hqueued := State.takeSubmit_queued (s := { s with chip := c }) hroom hbytes hhead hparse src
    refine ⟨⟨t, SubmitRec.read b, some img, none, none, none, src⟩, ?_, rfl, rfl, rfl, rfl, rfl, rfl, rfl⟩
    simp only [exec, execSubmit, htake, hrec, hqueued]
    rfl
  · exact exec_bindComplete_other hjobs ht
  · have hfinish := State.finishBind_ok hjobs hstart hrestore rfl hp rfl
    refine ⟨_, _, (exec_bindComplete_front hrebinds hjobs).trans (congrArg _ hfinish), rfl, ?_, ?_, ?_, ?_, rfl⟩
    · simp [Chip.beginJob_bound, State.enterPlan_placer]
    · simp [Chip.beginJob_bound, State.enterPlan_placer]
    · simp [Chip.beginJob_srcs, State.enterPlan_placer]
    · simp
  · exact (exec_bindComplete_front hrebinds hjobs).trans (congrArg _ (State.finishBind_error hjobs hstart hrestore rfl herr))
  · exact exec_bindComplete_of_rebinds hq t
  · exact exec_alternateRebindComplete_other hq hp
  · exact exec_alternateRebindComplete_front hq
  · obtain ⟨hown, hplacer, hintc, hothers⟩ := Chip.rebound_spec hr
    obtain ⟨hready, hspare, hctx, hstep, hcommits, hplan, halts⟩ := s.chip.reboundRun_spec q r
    have hexec : exec (.alternateRebindComplete q) s = .next (s.on fun c => c.rebound q) := by
      rw [exec_alternateRebindComplete_front hq, State.startWaiting_of_run (s := s.on fun c => c.rebound q) hown]
    refine ⟨_, _, hexec, ?_, hown, hready, hspare, hctx, hstep, hcommits, hplan, halts, ⟨fun p => (s.chip.rebindAlts p).fig, ?_⟩,
      State.on_mem .., State.on_pending .., ?_, fun hidle => ?_, hothers⟩
    · rw [State.on_chip, hplacer, Chip.rebindBound, hq]
      rfl
    · rw [State.on_chip, hplacer, Chip.rebindBound_bound]
    · simp
    · rw [State.on_chip, hintc]
      exact Intc.edge_of_idle (n := 74) hidle _

end

section
/-! Weight and adapter epochs as commands (R198-R213): fetches and their segments, SWITCH and RETIRE. -/

namespace Sys2Proof.Machine

/-! ### A tenant changed -/

theorem vecMod_congr {α : Type} {n : Nat} {v : Vector α n} {i : Fin n} {f g : α → α} (h : f v[i] = g v[i]) :
    vecMod v i f = vecMod v i g := by rw [vecMod, vecMod, h]

/-- Two changes of one element are one. -/
theorem vecMod_vecMod {α : Type} {n : Nat} (v : Vector α n) (i : Fin n) (f g : α → α) :
    vecMod (vecMod v i f) i g = vecMod v i fun x => g (f x) := by simp [vecMod]

/-- A change that finds nothing to change. -/
theorem vecMod_self {α : Type} {n : Nat} {v : Vector α n} {i : Fin n} {f : α → α} (h : f v[i] = v[i]) : vecMod v i f = v := by
  rw [vecMod, h]
  exact Vector.set_getElem_self i.isLt

section
variable {c d : Chip} {t : Fin 16} {f : Tenant → Tenant} (h : d.tenants = vecMod c.tenants t f)
include h

theorem Chip.tenant_of_mod : d.tenants[t] = f c.tenants[t] :=
  (congrArg (fun v : Vector Tenant 16 => v[t]) h).trans (vecMod_same ..)

theorem Chip.tenant_of_mod_ne {y : Fin 16} (hy : y ≠ t) : d.tenants[y] = c.tenants[y] :=
  (congrArg (fun v : Vector Tenant 16 => v[y]) h).trans (vecMod_ne _ _ hy)

end

/-- Changes that agree on the tenant as it stands. -/
theorem Chip.modTenant_congr {c : Chip} {t : Fin 16} {f g : Tenant → Tenant} (h : f c.tenants[t] = g c.tenants[t]) :
    c.modTenant t f = c.modTenant t g := by rw [Chip.modTenant, Chip.modTenant, vecMod_congr h]

/-! ### Pending switches (R207) -/

section
variable {t : Tenant} {aid : Option W16} (h : ∀ w ∈ t.switches, w.aid ≠ aid)
include h

theorem Tenant.find?_switches_of_new : (t.switches.find? fun x => x.aid = aid) = none := by
  simpa [List.find?_eq_none] using h

theorem Tenant.switchBlocks_of_new (epoch : W16) : t.switchBlocks aid epoch = false := by
  rw [Tenant.switchBlocks, Tenant.find?_switches_of_new h]

theorem Tenant.addSwitch_of_new {w : PendSwitch} (hw : w.aid = aid) : t.addSwitch w = { t with switches := t.switches ++ [w] } := by
  rw [Tenant.addSwitch, hw, Tenant.find?_switches_of_new h]

theorem Tenant.any_switches_of_new : (t.switches.any fun w => w.aid = aid) = false := by
  simpa [List.any_eq_false] using h

end

theorem Tenant.any_switches_of_pending {t : Tenant} {aid : Option W16} (h : ∃ w ∈ t.switches, w.aid = aid) :
    (t.switches.any fun w => w.aid = aid) = true := by
  simpa using h

/-- A switch that becomes pending leaves all but the pending switches. -/
theorem Tenant.addSwitch_keeps (t : Tenant) (w : PendSwitch) : t.addSwitch w = { t with switches := (t.addSwitch w).switches } := by
  unfold Tenant.addSwitch
  split <;> rfl

/-! ### The copy of an epoch (R206) -/

/-- Copies changed where they stand: the copy found is the changed one. -/
theorem Tenant.copyOf_map {t u : Tenant} {g : EpochCopy → EpochCopy} (hu : u.copies = t.copies.map g)
    (hg : ∀ k, (g k).aid = k.aid ∧ (g k).epoch = k.epoch) (aid : Option W16) (epoch : W16) :
    u.copyOf aid epoch = (t.copyOf aid epoch).map g := by
  rw [Tenant.copyOf, Tenant.copyOf, hu, List.find?_map]
  congr 2
  funext k
  obtain ⟨haid, hepoch⟩ := hg k
  rw [Function.comp_apply, haid, hepoch]

theorem Tenant.copyOf_of_dropped {t u : Tenant} {aid : Option W16} {epoch : W16} (hu : u.copies = (t.dropCopy aid epoch).copies) :
    u.copyOf aid epoch = none := by
  rw [Tenant.copyOf, hu, List.find?_eq_none]
  intro k hk
  simpa [imp_iff_not_or] using (List.mem_filter.mp hk).2

theorem Tenant.copyOf_eq_some {t : Tenant} {aid : Option W16} {epoch : W16} {k : EpochCopy} (h : t.copyOf aid epoch = some k) :
    k.aid = aid ∧ k.epoch = epoch := by
  simpa using List.find?_some h

/-! ### Elements of a copy (R198, R202) -/

/-- Writes that give one value at a key: that value is read there. -/
theorem spGet_spSetAll {α : Type} [DecidableEq α] {d v : α} {j : Nat} {ws : List (Nat × α)}
    (hall : ∀ w ∈ ws, w.1 = j → w.2 = v) (m : List (Nat × α)) (h : (j, v) ∈ ws ∨ spGet d m j = v) :
    spGet d (spSetAll d m ws) j = v := by
  induction ws generalizing m with
  | nil => exact h.resolve_left (by simp)
  | cons w ws ih =>
    refine ih (fun x hx => hall x (.tail _ hx)) (spSet d w.1 w.2 m) ?_
    by_cases hw : w.1 = j
    · refine .inr ?_
      rw [← hall w (.head _) hw, ← hw]
      exact spGet_spSet_same
    · exact h.imp (fun hmem => (List.mem_cons.mp hmem).resolve_left fun he => hw (congrArg Prod.fst he).symm)
        (spGet_spSet_ne (Ne.symm hw)).trans

/-- Consecutive elements written: each is read where it was written. -/
theorem spGet_spSetAll_zipIdx {α : Type} [DecidableEq α] {d y : α} {xs : List α} {i : Nat} (hi : xs[i]? = some y)
    (m : List (Nat × α)) (off : Nat) : spGet d (spSetAll d m (xs.zipIdx.map fun x => (off + x.2, x.1))) (off + i) = y := by
  refine spGet_spSetAll (fun w hw hkey => ?_) m (.inl ?_)
  · obtain ⟨⟨z, j⟩, hz, rfl⟩ := List.mem_map.mp hw
    obtain rfl : j = i := Nat.add_left_cancel hkey
    exact Option.some.inj ((List.mem_zipIdx_iff_getElem?.mp hz).symm.trans hi)
  · exact List.mem_map.mpr ⟨(y, i), List.mem_zipIdx_iff_getElem?.mpr hi, rfl⟩

theorem EpochCopy.find?_putAll (k : EpochCopy) (tid tid' : BitVec 20) (ws : List (Nat × W32)) :
    ((k.putAll tid ws).tensors.find? fun x => x.tid = tid') =
      (k.tensors.find? fun x => x.tid = tid').map fun x =>
        if x.tid = tid then { x with cells := spSetAll 0 x.cells ws } else x := by
  rw [EpochCopy.putAll, List.find?_map]
  congr 2
  funext x
  rw [Function.comp_apply]
  split <;> rfl

/-- A write to one tensor leaves the elements of the others. -/
theorem EpochCopy.elem_putAll_ne (k : EpochCopy) {tid tid' : BitVec 20} (h : tid' ≠ tid) (ws : List (Nat × W32)) (j : Nat) :
    (k.putAll tid ws).elem tid' j = k.elem tid' j := by
  rw [EpochCopy.elem, EpochCopy.elem, EpochCopy.find?_putAll]
  cases hfind : k.tensors.find? fun x => x.tid = tid' with
  | none => rfl
  | some x =>
    have hx : x.tid = tid' := by simpa using List.find?_some hfind
    simp only [Option.map_some, hx, if_neg h]

/-- Consecutive elements written to a tensor that the copy holds. -/
theorem EpochCopy.elem_putAll_zipIdx {k : EpochCopy} {tid : BitVec 20} {x : CopyTensor}
    (hfind : (k.tensors.find? fun x => x.tid = tid) = some x) {ys : List W32} {i : Nat} {y : W32} (hi : ys[i]? = some y)
    (off : Nat) :
    (k.putAll tid (ys.zipIdx.map fun y => (off + y.2, y.1))).elem tid (off + i) = y := by
  have hx : x.tid = tid := by simpa using List.find?_some hfind
  rw [EpochCopy.elem, EpochCopy.find?_putAll, hfind]
  simp only [Option.map_some, if_pos hx]
  exact spGet_spSetAll_zipIdx hi x.cells off

/-! ### What the end of a fetch changes of its tenant (R204) -/

/-- A copy's lost switch changes its tenant's pending commands alone. -/
theorem Chip.loseSwitch_tenants (c : Chip) (t : Fin 16) (aid : Option W16) (epoch : W16) : ∃ sw rt,
    (c.loseSwitch t aid epoch).tenants = vecMod c.tenants t fun x => { x with switches := sw, retires := rt } := by
  unfold Chip.loseSwitch
  split
  · exact ⟨c.tenants[t].switches, c.tenants[t].retires, (vecMod_self rfl).symm⟩
  · refine ⟨c.tenants[t].switches.filter fun y => y.aid ≠ aid,
      c.tenants[t].retires.filter fun y => !(decide (y.aid = aid) && y.held),
      (foldl_tenants (fun c x => Chip.complete_tenants ..) ..).trans ?_⟩
    rw [Chip.completeFor_tenants, foldl_tenants fun c x => Chip.completeFor_tenants .., Chip.modTenant_tenants]
    exact vecMod_congr rfl

/-- No switch of the set is pending: none is lost. -/
theorem Chip.loseSwitch_of_new {c : Chip} {t : Fin 16} {aid : Option W16} (h : ∀ w ∈ c.tenants[t].switches, w.aid ≠ aid)
    (epoch : W16) : c.loseSwitch t aid epoch = c := by
  have hnone : (c.tenants[t].switches.find? fun w => decide (w.aid = aid) && decide (w.epoch = epoch)) = none := by
    rw [List.find?_eq_none]
    intro w hw
    simp [h w hw]
  rw [Chip.loseSwitch, hnone]

theorem Chip.settleRetires_tenants (c : Chip) (t : Fin 16) : ∃ rt,
    (c.settleRetires t).tenants = vecMod c.tenants t fun x => { x with retires := rt } :=
  ⟨c.tenants[t].retires.filter fun y => !(c.tenants[t].copyOf y.aid y.epoch).isNone,
    (foldl_tenants (fun c x => Chip.complete_tenants ..) ..).trans ((Chip.modTenant_tenants ..).trans (vecMod_congr rfl))⟩

/-- No RETIRE waits: none completes. -/
theorem Chip.settleRetires_of_nil {c : Chip} {t : Fin 16} (h : c.tenants[t].retires = []) : c.settleRetires t = c := by
  have hsame : c.modTenant t (fun x => { x with
      retires := x.retires.filter fun y => !(c.tenants[t].copyOf y.aid y.epoch).isNone }) = c := by
    refine congrArg (fun v => { c with tenants := v }) (vecMod_self ?_)
    rw [h, List.filter_nil, ← h]
  unfold Chip.settleRetires
  dsimp only
  rw [hsame, h, List.filter_nil, List.foldl_nil]

/-- A copy that turns FREE goes from its tenant. -/
theorem Chip.freeCopy_tenants (c : Chip) (t : Fin 16) (aid : Option W16) (epoch : W16) : ∃ sw rt,
    (c.freeCopy t aid epoch).tenants =
      vecMod c.tenants t fun x => { x.dropCopy aid epoch with switches := sw, retires := rt } := by
  obtain ⟨sw, rt, hlost⟩ := (c.modTenant t fun x => x.dropCopy aid epoch).loseSwitch_tenants t aid epoch
  obtain ⟨rt', hsettled⟩ := ((c.modTenant t fun x => x.dropCopy aid epoch).loseSwitch t aid epoch).settleRetires_tenants t
  refine ⟨sw, rt', hsettled.trans ?_⟩
  rw [hlost, Chip.modTenant_tenants, vecMod_vecMod, vecMod_vecMod]

/-- The tenant without the fetch of a copy. -/
def Tenant.dropFetch (t : Tenant) (f : Fetch) : Tenant :=
  { t with fetches := t.fetches.filter fun y => !(decide (y.aid = f.aid) && decide (y.epoch = f.epoch)) }

theorem Chip.endFetch_tenants (c : Chip) (t : Fin 16) (f : Fetch) (st : W16) :
    (c.endFetch t f st).tenants = vecMod c.tenants t fun x => x.dropFetch f := by
  have hended : ((c.modTenant t fun x => x.dropFetch f).complete f.src st 0 (f.epoch.setWidth 32) 0).tenants =
      vecMod c.tenants t fun x => x.dropFetch f := by rw [Chip.complete_tenants, Chip.modTenant_tenants]
  unfold Chip.endFetch
  dsimp only
  split
  · exact (Chip.touch_keeps ..).2.2.2.2.2.2.2.2.1.trans hended
  · exact hended

/-- A failed fetch: the fetch and its copy go from its tenant. -/
theorem Chip.failFetch_tenants (c : Chip) (t : Fin 16) (f : Fetch) (st : W16) : ∃ sw rt,
    (c.failFetch t f st).tenants =
      vecMod c.tenants t fun x => { (x.dropFetch f).dropCopy f.aid f.epoch with switches := sw, retires := rt } := by
  obtain ⟨sw, rt, hfreed⟩ := (c.endFetch t f st).freeCopy_tenants t f.aid f.epoch
  refine ⟨sw, rt, hfreed.trans ?_⟩
  rw [Chip.endFetch_tenants, vecMod_vecMod]

/-- The fetch at the front goes; those of other copies stand. -/
theorem Tenant.dropFetch_front {t : Tenant} {f f' : Fetch} {fs : List Fetch} (hfs : t.fetches = f' :: fs)
    (hkey : f'.aid = f.aid ∧ f'.epoch = f.epoch) (hothers : ∀ g ∈ fs, ¬ (g.aid = f.aid ∧ g.epoch = f.epoch)) :
    (t.dropFetch f).fetches = fs := by
  obtain ⟨haid, hepoch⟩ := hkey
  have hkeep : fs.filter (fun y => !(decide (y.aid = f.aid) && decide (y.epoch = f.epoch))) = fs :=
    List.filter_eq_self.mpr fun g hg => by simpa [imp_iff_not_or] using hothers g hg
  rw [Tenant.dropFetch, hfs, List.filter_cons_of_neg (by simp [haid, hepoch]), hkeep]

/-! ### Servers of fetches (R279, R288) -/

theorem Chip.serverThere_of_groups {c d : Chip} (h : d.groups = c.groups) (t : Fin 16) (grp : BitVec 12) (rank : W16) :
    d.serverThere t grp rank = c.serverThere t grp rank := by
  rw [Chip.serverThere, Chip.serverThere, Chip.group, Chip.group, h]

/-- A group that moves stays where it is. -/
theorem Chip.touch_serverThere (c : Chip) (g : BitVec 12) (t : Fin 16) (grp : BitVec 12) (rank : W16) :
    (c.touch g).serverThere t grp rank = c.serverThere t grp rank := by
  have hgroup : (c.touch g).group grp =
      (c.group grp).map fun x => if x.grp = g then { x with moved := c.drone.now } else x := by
    refine (List.find?_map ..).trans (congrArg (Option.map _ <| List.find? · c.groups) (funext fun x => ?_))
    rw [Function.comp_apply]
    split <;> rfl
  rw [Chip.serverThere, Chip.serverThere, hgroup]
  cases c.group grp with
  | none => rfl
  | some x =>
    rw [Option.map_some]
    dsimp only
    split <;> rfl

theorem Chip.endFetch_serverThere (c : Chip) (t : Fin 16) (f : Fetch) (st : W16) (grp : BitVec 12) (rank : W16) :
    (c.endFetch t f st).serverThere t grp rank = c.serverThere t grp rank := by
  have hended : ((c.modTenant t fun x => x.dropFetch f).complete f.src st 0 (f.epoch.setWidth 32) 0).serverThere t grp rank =
      c.serverThere t grp rank := Chip.serverThere_of_groups (Chip.complete_groups ..) ..
  unfold Chip.endFetch
  dsimp only
  split
  · exact (Chip.touch_serverThere ..).trans hended
  · exact hended

theorem Chip.failFetch_serverThere (c : Chip) (t : Fin 16) (f : Fetch) (st : W16) (grp : BitVec 12) (rank : W16) :
    (c.failFetch t f st).serverThere t grp rank = c.serverThere t grp rank :=
  (Chip.serverThere_of_groups (c := c.endFetch t f st) (by simp [Chip.failFetch]) ..).trans (Chip.endFetch_serverThere ..)

/-- Fetches whose servers are there go on. -/
theorem Chip.settleFetches_of_served {c : Chip} {t : Fin 16}
    (h : ∀ g ∈ c.tenants[t].fetches, c.serverThere t g.grp g.rank = true) (n : Nat) : c.settleFetches t n = c := by
  cases n with
  | zero => rfl
  | succ n =>
    unfold Chip.settleFetches
    split
    · rfl
    · next g gs hgs => rw [if_pos (h g (hgs ▸ List.mem_cons_self))]

/-- What a failed fetch at the front leaves: the fetches behind it, and no copy of its epoch. -/
theorem Chip.failFetch_front {c : Chip} {t : Fin 16} {f f' : Fetch} {fs : List Fetch} (hfs : c.tenants[t].fetches = f' :: fs)
    (hkey : f'.aid = f.aid ∧ f'.epoch = f.epoch) (hothers : ∀ g ∈ fs, ¬ (g.aid = f.aid ∧ g.epoch = f.epoch)) (st : W16) :
    (c.failFetch t f st).tenants[t].copyOf f.aid f.epoch = none ∧ (c.failFetch t f st).tenants[t].fetches = fs ∧
      ∀ y, y ≠ t → (c.failFetch t f st).tenants[y] = c.tenants[y] := by
  obtain ⟨sw, rt, hten⟩ := c.failFetch_tenants t f st
  have hown := Chip.tenant_of_mod hten
  refine ⟨Tenant.copyOf_of_dropped (t := c.tenants[t].dropFetch f) (by rw [hown]),
    (congrArg Tenant.fetches hown).trans (Tenant.dropFetch_front hfs hkey hothers),
    fun y hy => Chip.tenant_of_mod_ne hten hy⟩

/-! ### FETCH (R199-R201, R204, R206, R207) -/

/-- The copy that a FETCH begins (R201, R206). -/
def Tenant.begunCopy (t : Tenant) (e : Entry) (aid : Option W16) (ts : List CopyTensor) : EpochCopy :=
  { adapter := aid.map fun a => (a, (t.freeBank).getD 0), epoch := epochField e, state := .filling
    win := Fin.ofNat 16 (entryAt e 22 1), tensors := ts, retainedFor := 0 }

theorem Tenant.begunCopy_aid (t : Tenant) (e : Entry) (aid : Option W16) (ts : List CopyTensor) :
    (t.begunCopy e aid ts).aid = aid := by
  cases aid <;> rfl

/-- The record of a FETCH that waits for its turn (R201, R204). -/
def begunFetch (e : Entry) (src : CmdSrc) (aid : Option W16) (ts : List CopyTensor) : Fetch :=
  { aid := aid, epoch := epochField e, keySlot := Fin.ofNat 8 (entryAt e 21 1), streamid := BitVec.ofNat 32 (entryAt e 24 4)
    grp := BitVec.ofNat 12 (entryAt e 28 2), rank := BitVec.ofNat 16 (entryAt e 30 2), segs := [], written := []
    total := (ts.map CopyTensor.count).sum, stream := [], src := src }

/-- The tenant with a FETCH queued behind those before it. -/
def Tenant.queueFetch (t : Tenant) (e : Entry) (src : CmdSrc) (aid : Option W16) (ts : List CopyTensor) : Tenant :=
  { t with copies := t.begunCopy e aid ts :: t.copies, fetches := t.fetches ++ [begunFetch e src aid ts] }

section
variable (t : Tenant) (e : Entry) (src : CmdSrc) (aid : Option W16) (ts : List CopyTensor)

/-- A FETCH accepted queues its fetch; beyond that it changes the pending switches alone. -/
theorem Tenant.beginFetch_eq :
    t.beginFetch e src aid ts = { t.queueFetch e src aid ts with switches := (t.beginFetch e src aid ts).switches } := by
  unfold Tenant.beginFetch
  dsimp only
  split
  · exact Tenant.addSwitch_keeps ..
  · rfl

theorem Tenant.beginFetch_switches_of_plain (h : entryAt e 23 1 % 2 = 0) : (t.beginFetch e src aid ts).switches = t.switches := by
  unfold Tenant.beginFetch
  rw [if_neg fun hsws => by omega]

/-- SWITCH_WHEN_STAGED, no switch of the set pending (R207). -/
theorem Tenant.beginFetch_switches_of_flag (h : entryAt e 23 1 % 2 = 1) (hnew : ∀ w ∈ t.switches, w.aid ≠ aid) :
    (t.beginFetch e src aid ts).switches =
      t.switches ++ [{ aid := aid, epoch := epochField e, src := none, replaced := [] }] := by
  have hfree : (t.queueFetch e src aid ts).switchBlocks aid (epochField e) = false := Tenant.switchBlocks_of_new hnew _
  have hadded := Tenant.addSwitch_of_new (t := t.queueFetch e src aid ts) (aid := aid) hnew
    (w := { aid := aid, epoch := epochField e, src := none, replaced := [] }) rfl
  unfold Tenant.beginFetch
  rw [if_pos ⟨h, by rw [Bool.not_eq_true']; exact hfree⟩]
  exact congrArg Tenant.switches hadded

end

/-- A FETCH that meets R199 and R200, whose key slot is loaded and whose server is there. -/
theorem State.judgeFetch_eq_zero {s : State} {t : Fin 16} {e : Entry} {aid : Option W16} {ts : List CopyTensor} {key : BitVec 256}
    (hset : epochSet e = some aid) (hmanifest : s.fetchManifest t e = some ts) (hslot : entryAt e 21 1 < 8)
    (hwin : entryAt e 22 1 < 16) (hkey : s.chip.tenants[t].keys[Fin.ofNat 8 (entryAt e 21 1)] = .loaded key)
    (hepoch : epochOk (s.chip.tenants[t].heldEpochs aid) (epochField e) = true) (hroom : s.chip.copyRoom t aid = true)
    (hfits : s.chip.tenants[t].copyFits (Fin.ofNat 16 (entryAt e 22 1)) ts = true)
    (hserver : s.chip.serverThere t (BitVec.ofNat 12 (entryAt e 28 2)) (BitVec.ofNat 16 (entryAt e 30 2)) = true) :
    s.judgeFetch t e = 0 := by
  have hfields : ¬ (8 ≤ entryAt e 21 1 ∨ 16 ≤ entryAt e 22 1) := by omega
  simp only [State.judgeFetch, hset, hmanifest, if_neg hfields, hkey, hepoch, hroom, hfits, hserver, Bool.not_true, Bool.or_self,
    Bool.false_eq_true, if_false]

theorem exec_fetch_of_accepted {s : State} {t : Fin 16} {ring : Fin 8} {e : Entry} {src : CmdSrc} {c : Chip} {aid : Option W16}
    {ts : List CopyTensor} (htake : s.chip.takeOp (.vf t) ring 0x04 1 = some (e, src, c)) (hset : epochSet e = some aid)
    (hmanifest : State.fetchManifest { s with chip := c } t e = some ts) (hjudge : State.judgeFetch { s with chip := c } t e = 0) :
    exec (.fetch t ring) s = .next { s with
      chip := (c.modTenant t fun x => x.beginFetch e src aid ts).touch (BitVec.ofNat 12 (entryAt e 28 2)) } := by
  simp only [exec, execFetch, htake, hset, hmanifest, hjudge, ne_eq, not_true_eq_false, if_false, Option.getD_some, State.on]

/-! ### A segment taken (R202, R204) -/

/-- A fetch with a segment of `n` elements taken. -/
def Fetch.took (f : Fetch) (x : Segment) (n : Nat) : Fetch :=
  { f with segs := x.seg :: f.segs, written := (x.tid, x.offset.toNat, n) :: f.written, stream := streamAfter f.stream x }

theorem Fetch.whole_took (f : Fetch) (x : Segment) (n : Nat) :
    (f.took x n).whole = decide (n + (f.written.map fun w => w.2.2).sum = f.total) := by
  simp [Fetch.whole, Fetch.took]

/-- A segment accepted names a tensor of the copy. -/
theorem Fetch.tensor_of_accepts {f : Fetch} {k : EpochCopy} {x : Segment} {y : Fmt × Nat} (h : f.accepts k x = some y) :
    ∃ z, (k.tensors.find? fun z => z.tid = x.tid) = some z := by
  unfold Fetch.accepts at h
  split at h
  · cases h
  · next z hz => exact ⟨z, hz⟩

/-- The copy with a segment's elements written. -/
def EpochCopy.withSegment (k : EpochCopy) (x : Segment) (fmt : Fmt) (n : Nat) (plain : List Byte) : EpochCopy :=
  k.putAll x.tid (((plainElems fmt plain).take n).zipIdx.map fun y => (x.offset.toNat + y.2, y.1))

section
variable {t : Tenant} {f : Fetch} {fs : List Fetch} {x : Segment} {k : EpochCopy} {fmt : Fmt} {n : Nat} {plain : List Byte}

theorem Tenant.takeSegment_fetches (hfs : t.fetches = f :: fs) (hothers : ∀ g ∈ fs, ¬ (g.aid = f.aid ∧ g.epoch = f.epoch)) :
    (t.takeSegment f x fmt n plain).fetches = f.took x n :: fs := by
  unfold Tenant.takeSegment
  dsimp only
  rw [hfs, List.map_cons, if_pos ⟨rfl, rfl⟩]
  refine congrArg (f.took x n :: ·) ((List.map_congr_left fun g hg => ?_).trans (List.map_id fs))
  exact if_neg (hothers g hg)

theorem Tenant.takeSegment_copyOf (hcopy : t.copyOf f.aid f.epoch = some k) :
    (t.takeSegment f x fmt n plain).copyOf f.aid f.epoch = some (k.withSegment x fmt n plain) := by
  rw [Tenant.copyOf_map (t := t) (u := t.takeSegment f x fmt n plain) (g := fun k =>
    if k.aid = f.aid ∧ k.epoch = f.epoch then k.withSegment x fmt n plain else k) rfl (fun k => ?_), hcopy, Option.map_some,
    if_pos (Tenant.copyOf_eq_some hcopy)]
  split <;> exact ⟨rfl, rfl⟩

/-- A FILLING copy turns STAGED (R206). -/
theorem Tenant.stageCopy_copyOf {aid : Option W16} {epoch : W16} (hcopy : t.copyOf aid epoch = some k)
    (hfill : k.state = .filling) :
    (t.stageCopy aid epoch).copyOf aid epoch = some { k with state := .staged } := by
  obtain ⟨haid, hepoch⟩ := Tenant.copyOf_eq_some hcopy
  rw [Tenant.copyOf_map (t := t) (u := t.stageCopy aid epoch) (g := fun k =>
    if k.aid = aid ∧ k.epoch = epoch ∧ k.state = .filling then { k with state := .staged } else k) rfl (fun k => ?_), hcopy,
    Option.map_some, if_pos ⟨haid, hepoch, hfill⟩]
  split <;> exact ⟨rfl, rfl⟩

/-- The elements of a segment stand in the copy, the other tensors as they were. -/
theorem EpochCopy.elem_withSegment (hacc : f.accepts k x = some (fmt, n)) :
    (∀ i y, i < n → (plainElems fmt plain)[i]? = some y →
        (k.withSegment x fmt n plain).elem x.tid (x.offset.toNat + i) = y) ∧
      ∀ tid, tid ≠ x.tid → ∀ j, (k.withSegment x fmt n plain).elem tid j = k.elem tid j := by
  obtain ⟨z, hz⟩ := Fetch.tensor_of_accepts hacc
  refine ⟨fun i y hi hy => EpochCopy.elem_putAll_zipIdx hz ?_ _, fun tid htid j => EpochCopy.elem_putAll_ne k htid _ j⟩
  rw [List.getElem?_take_of_lt hi, hy]

end

/-! ### WEIGHT_SEGMENT_RECEIVE (R202, R204) -/

/-- The chip with a verified segment written. -/
def Chip.withSegment (c : Chip) (t : Fin 16) (f : Fetch) (x : Segment) (fmt : Fmt) (n : Nat) (plain : List Byte) : Chip :=
  (c.modTenant t fun y => y.takeSegment f x fmt n plain).touch f.grp

theorem Chip.withSegment_tenants (c : Chip) (t : Fin 16) (f : Fetch) (x : Segment) (fmt : Fmt) (n : Nat) (plain : List Byte) :
    (c.withSegment t f x fmt n plain).tenants = vecMod c.tenants t fun y => y.takeSegment f x fmt n plain := by
  simp [Chip.withSegment]

/-- The chip after the last segment of a fetch: the copy is STAGED and the fetch is over (R204, R206). -/
def Chip.withLastSegment (c : Chip) (t : Fin 16) (f : Fetch) (x : Segment) (fmt : Fmt) (n : Nat) (plain : List Byte) : Chip :=
  ((c.withSegment t f x fmt n plain).modTenant t fun y => y.stageCopy f.aid f.epoch).endFetch t (f.took x n) 0

theorem Chip.withLastSegment_tenants (c : Chip) (t : Fin 16) (f : Fetch) (x : Segment) (fmt : Fmt) (n : Nat) (plain : List Byte) :
    (c.withLastSegment t f x fmt n plain).tenants = vecMod c.tenants t fun y =>
      ((y.takeSegment f x fmt n plain).stageCopy f.aid f.epoch).dropFetch (f.took x n) := by
  rw [Chip.withLastSegment, Chip.endFetch_tenants, Chip.modTenant_tenants, Chip.withSegment_tenants, vecMod_vecMod, vecMod_vecMod]

/-- A segment leaves the groups where they are. -/
theorem Chip.segment_serverThere (c : Chip) (t : Fin 16) (f : Fetch) (x : Segment) (sound : Bool) (grp : BitVec 12) (rank : W16) :
    (c.segment t f x sound).serverThere t grp rank = c.serverThere t grp rank := by
  have hbad : ((c.authFailed 1 t.val f.keySlot.val []).failFetch t f 0x0071).serverThere t grp rank = c.serverThere t grp rank :=
    (Chip.failFetch_serverThere ..).trans (Chip.serverThere_of_groups (by simp) ..)
  have htaken : ∀ fmt n plain, (c.withSegment t f x fmt n plain).serverThere t grp rank = c.serverThere t grp rank :=
    fun fmt n plain => (Chip.touch_serverThere ..).trans (Chip.serverThere_of_groups (Chip.modTenant_groups ..) ..)
  unfold Chip.segment
  dsimp only
  split
  · rfl
  · split
    · split
      · exact (Chip.failFetch_serverThere ..).trans (htaken ..)
      · split
        · split
          · exact (Chip.endFetch_serverThere ..).trans
              ((Chip.serverThere_of_groups (Chip.modTenant_groups ..) ..).trans (htaken ..))
          · exact htaken ..
        · exact htaken ..
    · exact hbad

section
variable {c : Chip} {t : Fin 16} {f : Fetch} {fs : List Fetch} {x : Segment} {k : EpochCopy}
  (hcopy : c.tenants[t].copyOf f.aid f.epoch = some k)
include hcopy

theorem Chip.segment_of_bad (hbad : f.accepts k x = none ∨ c.tenants[t].openSegment f x = none) (sound : Bool) :
    c.segment t f x sound = (c.authFailed 1 t.val f.keySlot.val []).failFetch t f 0x0071 := by
  unfold Chip.segment
  simp only [hcopy]
  obtain hnone | hnone := hbad
  · rw [hnone]
  · rw [hnone]
    cases f.accepts k x <;> rfl

variable {fmt : Fmt} {n : Nat} {plain : List Byte} (hacc : f.accepts k x = some (fmt, n))
  (hopen : c.tenants[t].openSegment f x = some plain)
include hacc hopen

theorem Chip.segment_of_unsound :
    c.segment t f x false = (c.withSegment t f x fmt n plain).failFetch t f 0x0030 := by
  simp only [Chip.segment, hcopy, hacc, hopen, Bool.not_false, if_true]
  rfl

theorem Chip.segment_of_sound (hfs : c.tenants[t].fetches = f :: fs)
    (hothers : ∀ g ∈ fs, ¬ (g.aid = f.aid ∧ g.epoch = f.epoch)) :
    c.segment t f x true =
      if n + (f.written.map fun w => w.2.2).sum = f.total then c.withLastSegment t f x fmt n plain
      else c.withSegment t f x fmt n plain := by
  have htaken : ((c.modTenant t fun y => y.takeSegment f x fmt n plain).touch f.grp).tenants[t].fetches = f.took x n :: fs :=
    (congrArg Tenant.fetches (Chip.tenant_of_mod (c.withSegment_tenants ..))).trans
      (Tenant.takeSegment_fetches hfs hothers)
  simp only [Chip.segment, hcopy, hacc, hopen, Bool.not_true, Bool.false_eq_true, if_false, htaken, Fetch.whole_took,
    decide_eq_true_eq]
  rfl

end

section
variable {s : State} {t : Fin 16} {f : Fetch} {fs : List Fetch} (hfs : s.chip.tenants[t].fetches = f :: fs)
include hfs

theorem exec_weightSegmentReceive_of_still (hstill : s.chip.fetchMoves t = false) (g : SegIn) :
    exec (.weightSegmentReceive t g) s = .next s := by
  simp only [exec, execWeightSegmentReceive, State.on, hfs, hstill, Bool.false_eq_true, if_false]

/-- The servers of the fetches left are there, so that none of these ends. -/
theorem exec_weightSegmentReceive_of_moves (hmoves : s.chip.fetchMoves t = true) {x : Segment} {sound : Bool} {d : Chip}
    {gs : List Fetch} (hd : s.chip.segment t f x sound = d) (hgs : d.tenants[t].fetches = gs)
    (hserved : ∀ g ∈ gs, s.chip.serverThere t g.grp g.rank = true) :
    exec (.weightSegmentReceive t ⟨x, sound⟩) s = .next { s with chip := d } := by
  subst hd hgs
  have hsettled : (s.chip.segment t f x sound).settleFetches t 256 = s.chip.segment t f x sound :=
    Chip.settleFetches_of_served (fun g hg => (Chip.segment_serverThere ..).trans (hserved g hg)) 256
  simp only [exec, execWeightSegmentReceive, State.on, hfs, hmoves, if_true, hsettled]

end

/-! ### SWITCH (R207) -/

section
variable {s : State} {t : Fin 16} {ring : Fin 8} {e : Entry} {src : CmdSrc} {c : Chip}
  (htake : s.chip.takeOp (.vf t) ring 0x05 1 = some (e, src, c))
include htake

theorem exec_switch_of_no_set (hset : epochSet e = none) :
    exec (.switch t ring) s = .next { s with chip := c.complete src 0x0002 0 ((epochField e).setWidth 32) 0 } := by
  simp only [exec, execSwitch, State.on, Chip.vfOp_of_takeOp htake, hset]

variable {aid : Option W16} (hset : epochSet e = some aid)
include hset

theorem exec_switch_of_no_copy (hcopy : c.tenants[t].copyOf aid (epochField e) = none) :
    exec (.switch t ring) s = .next { s with chip := c.complete src 0x0013 0 ((epochField e).setWidth 32) 0 } := by
  simp only [exec, execSwitch, State.on, Chip.vfOp_of_takeOp htake, hset, hcopy]

variable {k : EpochCopy} (hcopy : c.tenants[t].copyOf aid (epochField e) = some k)
include hcopy

theorem exec_switch_of_coming (hstate : k.state = .staged ∨ k.state = .filling)
    (hnew : ∀ w ∈ c.tenants[t].switches, w.aid ≠ aid) :
    exec (.switch t ring) s = .next { s with chip := c.modTenant t fun x =>
      { x with switches := x.switches ++ [{ aid := aid, epoch := epochField e, src := some src, replaced := [] }] } } := by
  have hadded : (c.modTenant t fun x => x.addSwitch { aid := aid, epoch := epochField e, src := some src, replaced := [] }) =
      c.modTenant t fun x =>
        { x with switches := x.switches ++ [{ aid := aid, epoch := epochField e, src := some src, replaced := [] }] } :=
    Chip.modTenant_congr (Tenant.addSwitch_of_new hnew rfl)
  obtain hstate | hstate := hstate <;>
    simp only [exec, execSwitch, State.on, Chip.vfOp_of_takeOp htake, hset, hcopy, hstate, Tenant.switchBlocks_of_new hnew,
      Bool.false_eq_true, if_false, hadded]

theorem exec_switch_of_current (hstate : k.state = .current) (hnew : ∀ w ∈ c.tenants[t].switches, w.aid ≠ aid) :
    exec (.switch t ring) s = .next { s with chip := c.complete src 0 0 ((epochField e).setWidth 32) 0 } := by
  simp only [exec, execSwitch, State.on, Chip.vfOp_of_takeOp htake, hset, hcopy, hstate, Tenant.any_switches_of_new hnew,
    Bool.false_eq_true, if_false]

/-- SWITCH back to the CURRENT copy while a switch away from it is pending (notes/assumptions/36.md). -/
theorem exec_switch_of_leaving (hstate : k.state = .current) (hswitch : ∃ w ∈ c.tenants[t].switches, w.aid = aid) :
    exec (.switch t ring) s = .next { s with chip := c.complete src 0x0043 0 ((epochField e).setWidth 32) 0 } := by
  simp only [exec, execSwitch, State.on, Chip.vfOp_of_takeOp htake, hset, hcopy, hstate, Tenant.any_switches_of_pending hswitch,
    if_true]

theorem exec_switch_of_retained (hstate : k.state = .retained) :
    exec (.switch t ring) s = .next { s with chip := c.complete src 0x0043 0 ((epochField e).setWidth 32) 0 } := by
  simp only [exec, execSwitch, State.on, Chip.vfOp_of_takeOp htake, hset, hcopy, hstate]

end

/-! ### RETIRE (R204, R213) -/

section
variable {s : State} {t : Fin 16} {ring : Fin 8} {e : Entry} {src : CmdSrc} {c : Chip}
  (htake : s.chip.takeOp (.vf t) ring 0x06 1 = some (e, src, c))
include htake

theorem exec_retire_of_no_set (hset : epochSet e = none) :
    exec (.retire t ring) s = .next { s with chip := c.complete src 0x0002 0 ((epochField e).setWidth 32) 0 } := by
  simp only [exec, execRetire, State.on, Chip.vfOp_of_takeOp htake, hset]

variable {aid : Option W16} (hset : epochSet e = some aid)
include hset

theorem exec_retire_of_no_copy (hcopy : c.tenants[t].copyOf aid (epochField e) = none) :
    exec (.retire t ring) s = .next { s with chip := c.complete src 0x0013 0 ((epochField e).setWidth 32) 0 } := by
  simp only [exec, execRetire, State.on, Chip.vfOp_of_takeOp htake, hset, hcopy]

variable {k : EpochCopy} (hcopy : c.tenants[t].copyOf aid (epochField e) = some k)
include hcopy

theorem exec_retire_of_staged (hstate : k.state = .staged) :
    exec (.retire t ring) s =
      .next { s with chip := (c.freeCopy t aid (epochField e)).complete src 0 0 ((epochField e).setWidth 32) 0 } := by
  simp only [exec, execRetire, State.on, Chip.vfOp_of_takeOp htake, hset, hcopy, hstate]

theorem exec_retire_of_filling (hstate : k.state = .filling) {f : Fetch}
    (hfetch : c.tenants[t].fetchOf aid (epochField e) = some f) :
    exec (.retire t ring) s = .next { s with
      chip := ((c.failFetch t f 0x0013).settleFetches t 256).complete src 0 0 ((epochField e).setWidth 32) 0 } := by
  simp only [exec, execRetire, State.on, Chip.vfOp_of_takeOp htake, hset, hcopy, hstate, hfetch]

theorem exec_retire_of_retained (hstate : k.state = .retained) :
    exec (.retire t ring) s = .next { s with chip := c.modTenant t fun x =>
      { x with retires := x.retires ++ [{ aid := aid, epoch := epochField e, src := src, held := false }] } } := by
  simp only [exec, execRetire, State.on, Chip.vfOp_of_takeOp htake, hset, hcopy, hstate]

/-- A switch of the set is pending: the RETIRE waits for it. -/
theorem exec_retire_of_leaving (hstate : k.state = .current) (hswitch : ∃ w ∈ c.tenants[t].switches, w.aid = aid) :
    exec (.retire t ring) s = .next { s with chip := c.modTenant t fun x =>
      { x with retires := x.retires ++ [{ aid := aid, epoch := epochField e, src := src, held := true }] } } := by
  simp only [exec, execRetire, State.on, Chip.vfOp_of_takeOp htake, hset, hcopy, hstate, Tenant.any_switches_of_pending hswitch,
    if_true]

theorem exec_retire_of_current (hstate : k.state = .current) (hnew : ∀ w ∈ c.tenants[t].switches, w.aid ≠ aid) :
    exec (.retire t ring) s = .next { s with chip := c.complete src 0x0002 0 ((epochField e).setWidth 32) 0 } := by
  simp only [exec, execRetire, State.on, Chip.vfOp_of_takeOp htake, hset, hcopy, hstate, Tenant.any_switches_of_new hnew,
    Bool.false_eq_true, if_false]

end

/-- A copy that nothing waits for turns FREE. -/
theorem Chip.freeCopy_alone {c : Chip} {t : Fin 16} {aid : Option W16} (hretires : c.tenants[t].retires = [])
    (hnew : ∀ w ∈ c.tenants[t].switches, w.aid ≠ aid) (epoch : W16) :
    c.freeCopy t aid epoch = c.modTenant t fun x => x.dropCopy aid epoch := by
  have hown := Chip.tenant_of_mod (c.modTenant_tenants t fun x => x.dropCopy aid epoch)
  have hswitches : (c.modTenant t fun x => x.dropCopy aid epoch).tenants[t].switches = c.tenants[t].switches := by rw [hown]; rfl
  have hnone : (c.modTenant t fun x => x.dropCopy aid epoch).tenants[t].retires = [] := by rw [hown]; exact hretires
  rw [Chip.freeCopy, Chip.loseSwitch_of_new (hswitches ▸ hnew), Chip.settleRetires_of_nil hnone]

end Sys2Proof.Machine

open Sys2Proof.Machine

/-- Settles O33: the FETCH is judged 0, and its tenant is the one with the fetch queued. -/
theorem fetchBeginsItsCopy : Obligations.FetchBeginsItsCopy := by
  intro s t ring e src c aid ts key htake s0 epoch hset hmanifest hslot hwin hkey hzero hnewer hroom hfits hserver
  have hepoch : epochOk (c.tenants[t].heldEpochs aid) epoch = true := by
    simpa only [epochOk, Bool.and_eq_true, decide_eq_true_eq, List.all_eq_true] using And.intro hzero hnewer
  have hexec := exec_fetch_of_accepted htake hset hmanifest
    (State.judgeFetch_eq_zero hset hmanifest hslot hwin hkey hepoch hroom hfits hserver)
  have htenants : ((c.modTenant t fun x => x.beginFetch e src aid ts).touch (BitVec.ofNat 12 (entryAt e 28 2))).tenants =
      vecMod c.tenants t fun x => x.beginFetch e src aid ts := by simp
  have hbegun := Chip.tenant_of_mod htenants
  have hqueued := hbegun.trans (Tenant.beginFetch_eq ..)
  refine ⟨_, c.tenants[t].begunCopy e aid ts, begunFetch e src aid ts, hexec, congrArg Tenant.copies hqueued,
    Tenant.begunCopy_aid .., rfl, rfl, rfl, rfl, congrArg Tenant.fetches hqueued, rfl, rfl, rfl, rfl, rfl, rfl, rfl, rfl,
    fun hplain => ?_, fun hflag hnew => ?_, rfl, rfl, (congrArg Tenant.windows hqueued).trans rfl,
    (congrArg Tenant.keys hqueued).trans rfl, fun x hx => Chip.tenant_of_mod_ne htenants hx, rfl⟩
  · exact (congrArg Tenant.switches hbegun).trans (Tenant.beginFetch_switches_of_plain _ e src aid ts hplain)
  · exact (congrArg Tenant.switches hbegun).trans (Tenant.beginFetch_switches_of_flag _ e src aid ts hflag hnew)

/-- Settles O34: by what becomes of the segment; the servers of the fetches behind are there, so that none of these ends. -/
theorem segmentsFillTheirCopy : Obligations.SegmentsFillTheirCopy := by
  intro s t x f fs k hfs hcopy hfill hserved hothers ended
  have hbehind : ∀ g ∈ fs, s.chip.serverThere t g.grp g.rank = true := fun g hg => hserved g (.tail _ hg)
  refine ⟨fun hstill sound => exec_weightSegmentReceive_of_still hfs hstill _,
    fun hmoves fmt n plain hacc hopen => And.intro ?sound ?unsound, fun hmoves hbad sound => ?bad⟩
  case sound =>
    have hsegment := Chip.segment_of_sound hcopy hacc hopen hfs hothers
    obtain ⟨helems, hother⟩ := EpochCopy.elem_withSegment (plain := plain) hacc
    have hfetches := Tenant.takeSegment_fetches (x := x) (fmt := fmt) (n := n) (plain := plain) hfs hothers
    have hcopied := Tenant.takeSegment_copyOf (x := x) (fmt := fmt) (n := n) (plain := plain) hcopy
    by_cases hwhole : n + (f.written.map fun w => w.2.2).sum = f.total
    · have htenants := s.chip.withLastSegment_tenants t f x fmt n plain
      have hown := Chip.tenant_of_mod htenants
      have hleft := (congrArg Tenant.fetches hown).trans (Tenant.dropFetch_front hfetches ⟨rfl, rfl⟩ hothers)
      refine ⟨_, { k.withSegment x fmt n plain with state := .staged },
        exec_weightSegmentReceive_of_moves hfs hmoves (hsegment.trans (if_pos hwhole)) hleft hbehind, ?_, helems, hother,
        (if_pos hwhole).symm, hleft.trans (if_pos hwhole).symm, rfl, rfl, (congrArg Tenant.windows hown).trans rfl,
        (congrArg Tenant.keys hown).trans rfl, fun y hy => Chip.tenant_of_mod_ne htenants hy⟩
      exact (congrArg (Tenant.copyOf · f.aid f.epoch) hown).trans (Tenant.stageCopy_copyOf hcopied hfill)
    · have htenants := s.chip.withSegment_tenants t f x fmt n plain
      have hown := Chip.tenant_of_mod htenants
      have hleft := (congrArg Tenant.fetches hown).trans hfetches
      exact ⟨_, k.withSegment x fmt n plain, exec_weightSegmentReceive_of_moves hfs hmoves (hsegment.trans (if_neg hwhole)) hleft
          (List.forall_mem_cons.mpr ⟨hserved f (.head _), hbehind⟩),
        (congrArg (Tenant.copyOf · f.aid f.epoch) hown).trans hcopied, helems, hother, hfill.trans (if_neg hwhole).symm,
        hleft.trans (if_neg hwhole).symm, rfl, rfl, (congrArg Tenant.windows hown).trans rfl,
        (congrArg Tenant.keys hown).trans rfl, fun y hy => Chip.tenant_of_mod_ne htenants hy⟩
  case unsound =>
    have htenants := s.chip.withSegment_tenants t f x fmt n plain
    have htaken := (congrArg Tenant.fetches (Chip.tenant_of_mod htenants)).trans (Tenant.takeSegment_fetches hfs hothers)
    obtain ⟨hfree, hleft, hkept⟩ := Chip.failFetch_front (f := f) htaken ⟨rfl, rfl⟩ hothers 0x0030
    generalize hd : (s.chip.withSegment t f x fmt n plain).failFetch t f 0x0030 = d at hfree hleft hkept
    have hexec := exec_weightSegmentReceive_of_moves hfs hmoves ((Chip.segment_of_unsound hcopy hacc hopen).trans hd) hleft
      hbehind
    exact ⟨_, hexec, ⟨hfree, hleft, rfl, rfl, fun y hy => (hkept y hy).trans (Chip.tenant_of_mod_ne htenants hy)⟩, hd.symm⟩
  case bad =>
    have htenants : (s.chip.authFailed 1 t.val f.keySlot.val []).tenants = s.chip.tenants := by simp
    have hintc : ((s.chip.authFailed 1 t.val f.keySlot.val []).failFetch t f 0x0071).intc =
        s.chip.intc.edge 12 s.chip.drone.now := by simp [Chip.authFailed, Chip.hbAuth]
    obtain ⟨hfree, hleft, hkept⟩ := Chip.failFetch_front (c := s.chip.authFailed 1 t.val f.keySlot.val []) (f := f) (fs := fs)
      (by rw [htenants]; exact hfs) ⟨rfl, rfl⟩ hothers 0x0071
    generalize hd : (s.chip.authFailed 1 t.val f.keySlot.val []).failFetch t f 0x0071 = d at hfree hleft hkept hintc
    have hexec := exec_weightSegmentReceive_of_moves hfs hmoves ((Chip.segment_of_bad hcopy hbad sound).trans hd) hleft hbehind
    refine ⟨_, hexec, ⟨hfree, hleft, rfl, rfl, fun y hy => (hkept y hy).trans (by rw [htenants])⟩, rfl, fun hidle => ?_⟩
    rw [hintc]
    exact Intc.edge_of_idle (n := 12) hidle _

/-- Settles O35: each command by the set that it names, the copy of its epoch, and the state of that copy. -/
theorem switchAndRetireActOnCopies : Obligations.SwitchAndRetireActOnCopies := by
  intro s t ring e src c epoch ten fin
  refine ⟨fun htake => ⟨exec_switch_of_no_set htake, fun aid hset => ⟨exec_switch_of_no_copy htake hset, ?switch⟩⟩,
    fun htake => ⟨exec_retire_of_no_set htake, fun aid hset => ⟨exec_retire_of_no_copy htake hset, ?retire⟩⟩⟩
  case switch =>
    intro k hcopy
    exact ⟨exec_switch_of_coming htake hset hcopy, exec_switch_of_current htake hset hcopy,
      exec_switch_of_leaving htake hset hcopy, exec_switch_of_retained htake hset hcopy⟩
  case retire =>
    intro k hcopy wait
    refine ⟨fun hstate hretires hnew => ?_, fun f hstate => exec_retire_of_filling htake hset hcopy hstate,
      exec_retire_of_retained htake hset hcopy, exec_retire_of_leaving htake hset hcopy,
      exec_retire_of_current htake hset hcopy⟩
    refine (exec_retire_of_staged htake hset hcopy hstate).trans ?_
    rw [Chip.freeCopy_alone hretires hnew]
    rfl
end

section
/-! ADMIT: R218's checks in their order, and the admission that passes them. -/

namespace Sys2Proof.Machine

/-! ### Check 3: prompt and stop parameters (R218) -/

theorem admitFits_iff (q : ReqTable) (plen : Nat) (row : Vector W32 64) :
    admitFits q plen row = true ↔
      1 ≤ plen ∧ plen ≤ q.pmax ∧ row[8].toNat ≤ 8 ∧ row[17].toNat ≤ 4 ∧
      (∀ j, j < row[17].toNat → 1 ≤ (row.toList.getD (18 + j) 0).toNat ∧ (row.toList.getD (18 + j) 0).toNat ≤ 8) ∧
      (q.ctx = 0 ∨ (row[54].toNat ≠ 0 ∧ plen + row[54].toNat ≤ q.ctx)) := by
  simp only [admitFits, Bool.and_eq_true, Bool.or_eq_true, decide_eq_true_eq, List.all_eq_true, List.mem_range, and_assoc]

/-! ### What an ADMIT entry names (R217) -/

section
variable (s : State) (t : Fin 16) (p : Plan) (e : Entry)

/-- The request record, where RTID and ROFF place it. -/
def State.admitRecord : Option (List Byte) :=
  s.planBytes t p (BitVec.ofNat 20 (entryAt e 24 4)) (entryAt e 28 8 % 2 ^ 48) 256

/-- The prompt's PLEN tokens, where PSRC and POFF place them. -/
def State.admitPrompt : Option (List Byte) :=
  s.planBytes t p (BitVec.ofNat 20 (entryAt e 36 4)) (entryAt e 40 8 % 2 ^ 48) (4 * entryAt e 48 4)

end

def admitAid (e : Entry) : W16 := BitVec.ofNat 16 (entryAt e 52 2)

/-- DEADLINE, columns 55 and 56 of the record. -/
def admitDeadline (b : List Byte) : Nat :=
  let row := admitRow (wordsOf 64 b)
  row[55].toNat + row[56].toNat * 2 ^ 32

/-- The admission that an entry with its record and its prompt makes pending. -/
def newAdmission (p : Plan) (e : Entry) (src : CmdSrc) (b prompt : List Byte) : PendAdm :=
  { tag := BitVec.ofNat 64 (entryAt e 16 8), row := admitRow (wordsOf 64 b), prompt := wordsOf (entryAt e 48 4) prompt
    aid := admitAid e, unpin := entryAt e 54 1 % 2 = 1, plan := p.id, src := src }

/-! ### The checks in their order (R218) -/

section
variable {s : State} {t : Fin 16} {e : Entry} {src : CmdSrc}

theorem State.judgeAdmit_of_no_plan (h : s.chip.servingPlan t = none) : s.judgeAdmit t e src = .error 0x0002 := by
  rw [State.judgeAdmit, h]

variable {p : Plan} {q : ReqTable} (hplan : s.chip.servingPlan t = some p) (hreq : p.req = some q)
include hplan hreq

/-- With a plan that serves: the checks of the pending admissions, the record, its parameters, the prompt, the adapter and
the deadline. -/
theorem State.judgeAdmit_of_plan : s.judgeAdmit t e src =
    if 4096 ≤ s.chip.tenants[t].pendAdm.length then .error 0x0002 else
    match s.admitRecord t p e with
    | none => .error 0x0071
    | some b =>
      if !admitFits q (entryAt e 48 4) (admitRow (wordsOf 64 b)) then .error 0x0010 else
      match s.admitPrompt t p e with
      | none => .error 0x0071
      | some prompt =>
        if admitAid e ≠ 0xFFFF ∧ (s.chip.tenants[t].curAdapter (admitAid e)).isNone then .error 0x0013
        else if admitDeadline b ≠ 0 ∧ admitDeadline b ≤ s.chip.drone.now.toNat then .error 0x0012
        else .ok (newAdmission p e src b prompt) := by
  simp only [State.judgeAdmit, hplan, hreq]
  rfl

theorem State.judgeAdmit_of_full (h : 4096 ≤ s.chip.tenants[t].pendAdm.length) : s.judgeAdmit t e src = .error 0x0002 :=
  (State.judgeAdmit_of_plan hplan hreq).trans (if_pos h)

variable (hroom : s.chip.tenants[t].pendAdm.length < 4096)
include hroom

theorem State.judgeAdmit_of_no_record (h : s.admitRecord t p e = none) : s.judgeAdmit t e src = .error 0x0071 := by
  rw [State.judgeAdmit_of_plan hplan hreq, if_neg (Nat.not_le.mpr hroom), h]

variable {b : List Byte} (hrecord : s.admitRecord t p e = some b)
include hrecord

theorem State.judgeAdmit_of_misfit (h : admitFits q (entryAt e 48 4) (admitRow (wordsOf 64 b)) = false) :
    s.judgeAdmit t e src = .error 0x0010 := by
  rw [State.judgeAdmit_of_plan hplan hreq, if_neg (Nat.not_le.mpr hroom), hrecord]
  exact if_pos (Bool.not_eq_true' _ ▸ h)

variable (hfits : admitFits q (entryAt e 48 4) (admitRow (wordsOf 64 b)) = true)
include hfits

/-- A record that passes checks 1 to 3 is judged by checks 4 to 6. -/
theorem State.judgeAdmit_of_fits : s.judgeAdmit t e src =
    match s.admitPrompt t p e with
    | none => .error 0x0071
    | some prompt =>
      if admitAid e ≠ 0xFFFF ∧ (s.chip.tenants[t].curAdapter (admitAid e)).isNone then .error 0x0013
      else if admitDeadline b ≠ 0 ∧ admitDeadline b ≤ s.chip.drone.now.toNat then .error 0x0012
      else .ok (newAdmission p e src b prompt) := by
  rw [State.judgeAdmit_of_plan hplan hreq, if_neg (Nat.not_le.mpr hroom), hrecord]
  simp only [hfits]
  rfl

theorem State.judgeAdmit_of_no_prompt (h : s.admitPrompt t p e = none) : s.judgeAdmit t e src = .error 0x0071 := by
  rw [State.judgeAdmit_of_fits hplan hreq hroom hrecord hfits, h]

variable {prompt : List Byte} (hprompt : s.admitPrompt t p e = some prompt)
include hprompt

theorem State.judgeAdmit_of_no_adapter (haid : admitAid e ≠ 0xFFFF) (h : s.chip.tenants[t].curAdapter (admitAid e) = none) :
    s.judgeAdmit t e src = .error 0x0013 := by
  rw [State.judgeAdmit_of_fits hplan hreq hroom hrecord hfits, hprompt]
  exact if_pos ⟨haid, Option.isNone_iff_eq_none.mpr h⟩

variable (hadapter : admitAid e = 0xFFFF ∨ s.chip.tenants[t].curAdapter (admitAid e) ≠ none)
include hadapter

/-- An admission that passes checks 1 to 5 is judged by its deadline. -/
theorem State.judgeAdmit_of_adapter : s.judgeAdmit t e src =
    if admitDeadline b ≠ 0 ∧ admitDeadline b ≤ s.chip.drone.now.toNat then .error 0x0012
    else .ok (newAdmission p e src b prompt) := by
  rw [State.judgeAdmit_of_fits hplan hreq hroom hrecord hfits, hprompt]
  exact if_neg fun ⟨haid, hnone⟩ => hadapter.elim haid fun h => h (Option.isNone_iff_eq_none.mp hnone)

theorem State.judgeAdmit_of_late (h : admitDeadline b ≠ 0 ∧ admitDeadline b ≤ s.chip.drone.now.toNat) :
    s.judgeAdmit t e src = .error 0x0012 :=
  (State.judgeAdmit_of_adapter hplan hreq hroom hrecord hfits hprompt hadapter).trans (if_pos h)

theorem State.judgeAdmit_of_passes (h : admitDeadline b = 0 ∨ s.chip.drone.now.toNat < admitDeadline b) :
    s.judgeAdmit t e src = .ok (newAdmission p e src b prompt) :=
  (State.judgeAdmit_of_adapter hplan hreq hroom hrecord hfits hprompt hadapter).trans
    (if_neg fun ⟨hset, hlate⟩ => h.elim hset (Nat.not_lt.mpr hlate))

end

/-! ### ADMIT (R217, R218) -/

section
variable {s : State} {t : Fin 16} {ring : Fin 8} {e : Entry} {src : CmdSrc} {c : Chip}
  (htake : s.chip.takeOp (.vf t) ring 0x03 1 = some (e, src, c))
include htake

theorem exec_admitReq_of_error {st : W16} (h : State.judgeAdmit { s with chip := c } t e src = .error st) :
    exec (.admitReq t ring) s = .next { s with chip := c.done src st } := by
  simp only [exec, execAdmitReq, State.on, htake, h]

theorem exec_admitReq_of_ok {a : PendAdm} (h : State.judgeAdmit { s with chip := c } t e src = .ok a) :
    exec (.admitReq t ring) s =
      .next { s with chip := c.modTenant t fun x => { x with pendAdm := x.pendAdm ++ [a] } } := by
  simp only [exec, execAdmitReq, State.on, htake, h]

end

end Sys2Proof.Machine

open Sys2Proof.Machine

/-- Settles O32: check 3 as R218 states it, and ADMIT by the first check that fails. -/
theorem admissionsBecomePending : Obligations.AdmissionsBecomePending := by
  refine ⟨admitFits_iff, ?checks⟩
  case checks =>
    intro s t ring e src c htake s0 plen aid answer
    have hrefuse : ∀ {st}, s0.judgeAdmit t e src = .error st → answer st := exec_admitReq_of_error htake
    refine ⟨fun hnone => hrefuse (State.judgeAdmit_of_no_plan hnone), fun p q hplan hreq =>
      ⟨fun hfull => hrefuse (State.judgeAdmit_of_full hplan hreq hfull), fun hroom => ⟨fun hnone => ?record, ?_⟩⟩⟩
    case record => exact hrefuse (State.judgeAdmit_of_no_record hplan hreq hroom hnone)
    intro b hrecord row deadline read
    refine ⟨fun hmisfit => ?parameters, fun hfits hnone => ?prompt, fun hfits prompt hprompt =>
      ⟨fun ⟨haid, hnone⟩ => ?adapter, fun hadapter => ⟨fun hlate => ?deadline, fun hopen => ?passes⟩⟩⟩
    case parameters => exact hrefuse (State.judgeAdmit_of_misfit hplan hreq hroom hrecord hmisfit)
    case prompt => exact hrefuse (State.judgeAdmit_of_no_prompt hplan hreq hroom hrecord hfits hnone)
    case adapter => exact hrefuse (State.judgeAdmit_of_no_adapter hplan hreq hroom hrecord hfits hprompt haid hnone)
    case deadline => exact hrefuse (State.judgeAdmit_of_late hplan hreq hroom hrecord hfits hprompt hadapter hlate)
    case passes =>
      have hpasses := State.judgeAdmit_of_passes (src := src) hplan hreq hroom hrecord hfits hprompt hadapter hopen
      exact ⟨_, exec_admitReq_of_ok htake hpasses, rfl, rfl, rfl, rfl, rfl, rfl, decide_eq_true_iff⟩
end

section
/-! The stored codeword (R237, R238) and what a scrub leaves of memory (R244): the code's linearity, the bytes that the cells of a
codeword hold, corrected and uncorrectable codewords as they are counted (R243, R247), and SCRUB_READ by case. -/

namespace Sys2Proof.Machine

/-! ### The field and the check bytes (R238) -/

theorem gfDouble_xor (x y : Byte) : gfDouble (x ^^^ y) = gfDouble x ^^^ gfDouble y := by
  have hbit : (x ^^^ y).getLsbD 7 = (x.getLsbD 7 ^^ y.getLsbD 7) := BitVec.getLsbD_xor
  have hself : ∀ a b : Byte, a ^^^ 0x1D ^^^ (b ^^^ 0x1D) = a ^^^ b := fun a b => by
    rw [BitVec.xor_assoc, BitVec.xor_comm b, ← BitVec.xor_assoc 0x1D, BitVec.xor_self, BitVec.zero_xor]
  unfold gfDouble
  rw [hbit, BitVec.shiftLeft_xor_distrib]
  cases x.getLsbD 7 <;> cases y.getLsbD 7
  · rfl
  · exact BitVec.xor_assoc ..
  · simp only [Bool.xor_false, if_true, Bool.false_eq_true, if_false]
    ac_rfl
  · exact (hself ..).symm

theorem gfScale_xor (x y : Byte) (n : Nat) : gfScale (x ^^^ y) n = gfScale x n ^^^ gfScale y n := by
  induction n generalizing x y with
  | zero => rfl
  | succ n ih => rw [gfScale, gfDouble_xor, ih, gfScale, gfScale]

theorem syndrome_concat (p : Nat) (bs : List Byte) (b : Byte) : syndrome p (bs ++ [b]) = gfScale (syndrome p bs) p ^^^ b := by
  simp [syndrome]

theorem xorAll_concat (bs : List Byte) (b : Byte) : xorAll (bs ++ [b]) = xorAll bs ^^^ b := by
  simp [xorAll]

theorem rsCheck_concat (data : List Byte) (d : Byte) : rsCheck (data ++ [d]) =
    ((rsCheck data).2 ^^^ gfMul ((rsCheck data).1 ^^^ d) 0x06, gfMul ((rsCheck data).1 ^^^ d) 0x08) := by
  simp [rsCheck]

/-- α^p is a root of x^2 + 6x + 8. -/
def IsRoot (p : Nat) : Prop := ∀ x : Byte, gfScale (gfScale x p) p = gfScale (gfMul x 0x06) p ^^^ gfMul x 0x08

theorem isRoot_one : IsRoot 1 := by
  unfold IsRoot
  decide +kernel

theorem isRoot_two : IsRoot 2 := by
  unfold IsRoot
  decide +kernel

/-- The data with their check bytes are a multiple of the generator: every root's syndrome is zero. -/
theorem syndrome_code {p : Nat} (hroot : IsRoot p) (data : List Byte) :
    gfScale (gfScale (syndrome p data) p ^^^ (rsCheck data).1) p ^^^ (rsCheck data).2 = 0 := by
  induction data using List.reverseRecOn with
  | nil =>
    have hzero : ∀ n, gfScale 0 n = 0 := fun n => by
      have hdouble := gfScale_xor 0 0 n
      rwa [BitVec.xor_self, BitVec.xor_self] at hdouble
    change gfScale (gfScale 0 p ^^^ 0#8) p ^^^ 0#8 = 0#8
    rw [BitVec.xor_zero, BitVec.xor_zero]
    exact (congrArg (gfScale · p) (hzero p)).trans (hzero p)
  | append_singleton data d ih =>
    rw [syndrome_concat, rsCheck_concat]
    generalize rsCheck data = r at ih
    generalize syndrome p data = s at ih
    have hr : r.2 = gfScale (gfScale s p ^^^ r.1) p := (BitVec.xor_eq_zero_iff.mp ih).symm
    have htop := hroot (r.1 ^^^ d)
    apply BitVec.xor_eq_zero_iff.mpr
    calc gfScale (gfScale (gfScale s p ^^^ d) p ^^^ (r.2 ^^^ gfMul (r.1 ^^^ d) 0x06)) p
        = gfScale (gfScale (r.1 ^^^ d) p) p ^^^ gfScale (gfMul (r.1 ^^^ d) 0x06) p := by
          have hd : gfScale s p ^^^ d = (gfScale s p ^^^ r.1) ^^^ (r.1 ^^^ d) := by
            rw [BitVec.xor_assoc, ← BitVec.xor_assoc r.1, BitVec.xor_self, BitVec.zero_xor]
          rw [hd, gfScale_xor _ (r.1 ^^^ d), ← hr, ← gfScale_xor]
          congr 1
          rw [BitVec.xor_comm r.2, BitVec.xor_assoc, ← BitVec.xor_assoc r.2, BitVec.xor_self, BitVec.zero_xor]
      _ = gfMul (r.1 ^^^ d) 0x08 := by
          rw [htop, BitVec.xor_comm, ← BitVec.xor_assoc, BitVec.xor_self, BitVec.zero_xor]

/-- A codeword as it is encoded decodes as clean (R238). -/
theorem eccDecode_eccEncode {data : List Byte} (h : data.length = 32) : eccDecode (eccEncode data) = .clean := by
  obtain ⟨r, hr⟩ : ∃ r, r = rsCheck data := ⟨_, rfl⟩
  obtain ⟨code, hcode⟩ : ∃ code, code = data ++ [r.1, r.2] := ⟨_, rfl⟩
  have hlen : code.length = 34 := by simp [hcode, h]
  have henc : eccEncode data = code ++ [xorAll code, 0] := by simp [eccEncode, hcode, hr]
  have hroot : ∀ {p}, IsRoot p → syndrome p code = 0 := fun {p} hp => by
    rw [hcode, show data ++ [r.1, r.2] = data ++ [r.1] ++ [r.2] by simp, syndrome_concat, syndrome_concat, hr]
    exact syndrome_code hp data
  have hcheck : (eccEncode data).take 34 = code := by rw [henc, ← hlen, List.take_left]
  have hparity : (eccEncode data).take 35 = code ++ [xorAll code] := by
    rw [henc, show code ++ [xorAll code, 0] = (code ++ [xorAll code]) ++ [0] by simp]
    exact List.take_left' (by simp [hlen])
  simp only [eccDecode, hcheck, hparity, xorAll_concat, BitVec.xor_self, hroot isRoot_one, hroot isRoot_two]
  rfl

/-! ### The cells of a codeword (R237, R241) -/

/-- The bytes that a codeword's data come to be. -/
def wordWrites (k : PAddr) (bs : List Byte) : List (PAddr × Byte) :=
  (bs.take 32).zipIdx.map fun x => ((k.1, 32 * k.2 + x.2), x.1)

theorem wordOf_of_mem_wordWrites {k : PAddr} {bs : List Byte} {w : PAddr × Byte} (h : w ∈ wordWrites k bs) : wordOf w.1 = k := by
  obtain ⟨⟨b, i⟩, hmem, rfl⟩ := List.mem_map.mp h
  obtain ⟨hi, -⟩ := List.mem_zipIdx' hmem
  have hlt : i < 32 := hi.trans_le (List.length_take_le ..)
  have hdiv : (32 * k.2 + i) / 32 = k.2 := by omega
  exact Prod.ext rfl hdiv

theorem Mem.byte_putAll_outside {m : Mem} {ws : List (PAddr × Byte)} {a : PAddr} (h : ∀ w ∈ ws, w.1 ≠ a) :
    (m.putAll ws).byte a = m.byte a := by
  induction ws generalizing m with
  | nil => rfl
  | cons w ws ih =>
    have hrest : ((m.put w.1 w.2).putAll ws).byte a = (m.put w.1 w.2).byte a := ih fun x hx => h x (List.mem_cons_of_mem _ hx)
    exact hrest.trans (Mem.byte_put_ne (h w List.mem_cons_self).symm)

theorem Mem.byte_putAll_zipIdx {t1 : Bool} {a n i : Nat} {b : Byte} {bs : List Byte} (h : bs[i]? = some b) (m : Mem) :
    (m.putAll ((bs.zipIdx n).map fun x => ((t1, a + x.2), x.1))).byte (t1, a + (n + i)) = b := by
  induction bs generalizing m n i with
  | nil => exact nomatch h
  | cons c bs ih =>
    rw [List.zipIdx_cons, List.map_cons]
    change ((m.put (t1, a + n) c).putAll ((bs.zipIdx (n + 1)).map fun x => ((t1, a + x.2), x.1))).byte (t1, a + (n + i)) = b
    cases i with
    | zero =>
      obtain rfl : c = b := Option.some.inj h
      refine (Mem.byte_putAll_outside fun w hw => ?_).trans Mem.byte_put_same
      obtain ⟨⟨x, j⟩, hmem, rfl⟩ := List.mem_map.mp hw
      have hj : n + 1 ≤ j := (List.mem_zipIdx hmem).1
      exact fun hsame => absurd (congrArg Prod.snd hsame) (by dsimp only; omega)
    | succ i =>
      rw [show n + (i + 1) = n + 1 + i by omega]
      exact ih h _

/-- The cells of a codeword written anew leave every byte of the others. -/
theorem Mem.byte_putStored_outside {m : Mem} {k : PAddr} {raw : List Byte} {a : PAddr} (h : wordOf a ≠ k) :
    (m.putStored k raw).byte a = m.byte a := by
  have hwrites : ∀ bs, (m.putAll (wordWrites k bs)).byte a = m.byte a := fun bs =>
    Mem.byte_putAll_outside fun w hw hsame => h (hsame ▸ wordOf_of_mem_wordWrites hw)
  unfold Mem.putStored
  split
  · exact Mem.byte_setFlaw
  · exact Mem.byte_setFlaw.trans (hwrites raw)
  · exact Mem.byte_setFlaw.trans (hwrites _)

theorem Mem.byte_strike_outside {m : Mem} {k : PAddr} {e : BitVec 288} {a : PAddr} (h : wordOf a ≠ k) :
    (m.strike k e).byte a = m.byte a := by
  unfold Mem.strike
  split
  · rfl
  · exact Mem.byte_putStored_outside h

/-- Cells written with a sound codeword hold no error, and its data. -/
theorem Mem.putStored_of_clean {m : Mem} {k : PAddr} {raw : List Byte} (h : eccDecode raw = .clean) :
    (m.putStored k raw).flaw k = 0 ∧
      ∀ i b, i < 32 → raw[i]? = some b → (m.putStored k raw).byte (k.1, 32 * k.2 + i) = b := by
  have hput : m.putStored k raw = (m.putAll (wordWrites k raw)).setFlaw k 0 := by
    simp only [Mem.putStored, h]
    rfl
  rw [hput]
  refine ⟨Mem.flaw_setFlaw_same, fun i b hi hb => Mem.byte_setFlaw.trans ?_⟩
  have htake : (raw.take 32)[i]? = some b := by rw [List.getElem?_take_of_lt hi, hb]
  have hbyte := Mem.byte_putAll_zipIdx (t1 := k.1) (a := 32 * k.2) (n := 0) htake m
  rwa [Nat.zero_add] at hbyte

/-! ### Codewords counted (R243, R247) -/

theorem Chip.countCe_ceLifetime (c : Chip) (t1 : Bool) (a : Nat) :
    (c.countCe t1 a).mram.ceLifetime = c.mram.ceLifetime + 1 := by
  unfold Chip.countCe
  dsimp only
  split <;> simp

theorem Chip.foundBad_ueLifetime (c : Chip) (t1 : Bool) (a : Nat) :
    (c.foundBad t1 a).mram.ueLifetime = c.mram.ueLifetime + 1 := by
  simp [Chip.foundBad, Chip.lastUe]

theorem Chip.foundBad_ueScrub (c : Chip) (t1 : Bool) (a : Nat) : (c.foundBad t1 a).memObj.ueScrub = c.memObj.ueScrub := by
  simp [Chip.foundBad, Chip.lastUe]

theorem Chip.foundBad_src1 {c : Chip} (h : c.intc.src[1] = .idle) (t1 : Bool) (a : Nat) :
    (c.foundBad t1 a).intc.src[1] = .pending := by
  have hedge : (c.foundBad t1 a).intc = c.intc.edge 1 c.drone.now := by simp [Chip.foundBad]
  rw [hedge]
  exact Intc.edge_of_idle (n := 1) h c.drone.now

theorem Chip.sweepOn_ueScrub (c : Chip) (t1 : Bool) (u : Nat) : (c.sweepOn t1 u).memObj.ueScrub = c.memObj.ueScrub := by
  unfold Chip.sweepOn
  dsimp only
  split <;> rfl

/-! ### Addresses of a tier (R230) -/

theorem absentAt_tier (t1 : Bool) (addr : BitVec 48) : absentAt (if t1 then .t1 addr else .t2 addr) =
    if addr.toNat < (if t1 then 576000000000 else 1024000000000) then none else some (if t1 then .t1 else .t2, addr.toNat) := by
  cases t1 with
  | true =>
    rw [if_pos rfl, if_pos rfl]
    rfl
  | false =>
    rw [if_neg Bool.false_ne_true, if_neg Bool.false_ne_true]
    rfl

theorem absentAt_of_lt {t1 : Bool} {addr : BitVec 48} (h : addr.toNat < if t1 then 576000000000 else 1024000000000) :
    absentAt (if t1 then .t1 addr else .t2 addr) = none := (absentAt_tier t1 addr).trans (if_pos h)

theorem absentAt_of_le {t1 : Bool} {addr : BitVec 48} (h : (if t1 then 576000000000 else 1024000000000) ≤ addr.toNat) :
    absentAt (if t1 then .t1 addr else .t2 addr) = some (if t1 then .t1 else .t2, addr.toNat) :=
  (absentAt_tier t1 addr).trans (if_neg (Nat.not_lt.mpr h))

/-! ### SCRUB_READ (R238, R244) -/

/-- An uncorrectable codeword that the scrub has found, counted. -/
def Chip.scrubBad (c : Chip) (t1 : Bool) (a : Nat) : Chip :=
  { c with memObj := { c.memObj with ueScrub := c.memObj.ueScrub + 1 } }.foundBad t1 a

/-- The state after the scrub of a codeword that the decoder has found `seen`; `mem`: with what has come to stand on its cells,
`c`: the chip with the sweep read on. -/
def State.scrubbed (s : State) (t1 : Bool) (k : PAddr) (mem : Mem) (c : Chip) (seen : EccResult) : State :=
  match seen with
  | .clean => { s with mem := mem, chip := c }
  | .corrected bytes => { s with mem := mem.putStored k bytes, chip := c.countCe t1 (32 * k.2) }
  | .uncorrectable => { s with mem := mem, chip := c.scrubBad t1 (32 * k.2) }

theorem exec_scrubRead_absent {t1 : Bool} {addr : BitVec 48} (h : (if t1 then 576000000000 else 1024000000000) ≤ addr.toNat)
    (err : ScrubErr) (s : State) :
    exec (.scrubRead t1 addr err) s = .fault (.noSuchAddress (if t1 then .t1 else .t2) addr.toNat) := by
  simp only [exec, execScrubRead, absentAt_of_le h]

section
variable {s : State} {t1 : Bool} {addr : BitVec 48} (haddr : addr.toNat < if t1 then 576000000000 else 1024000000000)
  (err : ScrubErr) {k : PAddr} (hk : k = wordOf (t1, addr.toNat)) {unit : Nat × Nat} (hunit : unit = s.chip.place t1 (32 * k.2))
include haddr hk hunit

/-- A codeword that the scrub does not read next. -/
theorem exec_scrubRead_skipped (h : s.chip.mram.scrubEn = false ∨ s.chip.scrubNext t1 unit.1 unit.2 = false) :
    exec (.scrubRead t1 addr err) s = .next s := by
  have hskip : (!s.chip.up || !s.chip.mram.scrubEn || !s.chip.scrubNext t1 unit.1 unit.2) = true := by
    rcases h with h | h <;> simp [h]
  subst hk hunit
  simp only [exec, execScrubRead, absentAt_of_lt haddr]
  exact congrArg Host.Outcome.next (if_pos hskip)

variable (hrun : s.chip.power = .running) (hen : s.chip.mram.scrubEn = true) (hnext : s.chip.scrubNext t1 unit.1 unit.2 = true)
include hrun hen hnext

/-- The codeword that the scrub reads next. -/
theorem exec_scrubRead_next {mem : Mem} (hmem : mem = s.mem.strike k err.cells) {c : Chip} (hc : c = s.chip.sweepOn t1 unit.1)
    {seen : EccResult} (hseen : eccDecode (xorBytes (mem.stored k) (errBytes err.path)) = seen) :
    exec (.scrubRead t1 addr err) s = .next (s.scrubbed t1 k mem c seen) := by
  have hgo : ¬ (!s.chip.up || !s.chip.mram.scrubEn || !s.chip.scrubNext t1 unit.1 unit.2) = true := by
    simp [Chip.up_of_running hrun, hen, hnext]
  subst hk hunit hmem hc hseen
  simp only [exec, execScrubRead, absentAt_of_lt haddr]
  exact congrArg Host.Outcome.next (if_neg hgo)

end

/-- A scrub leaves every byte of the other codewords. -/
theorem State.scrubbed_byte_outside (s : State) (t1 : Bool) {k : PAddr} (mem : Mem) (c : Chip) (seen : EccResult) {a : PAddr}
    (h : wordOf a ≠ k) : (s.scrubbed t1 k mem c seen).mem.byte a = mem.byte a := by
  cases seen with
  | corrected bytes => exact Mem.byte_putStored_outside h
  | _ => rfl

/-- A scrub leaves the commands that wait, the plans and the tenants. -/
theorem State.scrubbed_keeps (s : State) (t1 : Bool) (k : PAddr) (mem : Mem) (c : Chip) (seen : EccResult) :
    (s.scrubbed t1 k mem c seen).pending = s.pending ∧ (s.scrubbed t1 k mem c seen).chip.parts = c.parts ∧
      (s.scrubbed t1 k mem c seen).chip.tenants = c.tenants := by
  cases seen <;> simp [State.scrubbed, Chip.scrubBad]

end Sys2Proof.Machine

open Sys2Proof.Machine

/-- Settles O50: the code by its linearity, and SCRUB_READ by what the decoder finds of the codeword. -/
theorem scrubRepairsCodewords : Obligations.ScrubRepairsCodewords := by
  refine ⟨fun data h => eccDecode_eccEncode h, fun s t1 addr cells path =>
    ⟨fun habsent => exec_scrubRead_absent habsent _ s, fun haddr hrun => ?_⟩⟩
  intro k unit mem seen
  refine ⟨fun hskip => exec_scrubRead_skipped haddr _ rfl rfl hskip, fun hen hnext => ?_⟩
  obtain ⟨c, hc⟩ : ∃ c, c = s.chip.sweepOn t1 unit.1 := ⟨_, rfl⟩
  have hexec := exec_scrubRead_next haddr ⟨cells, path⟩ rfl rfl hrun hen hnext rfl hc (seen := seen) rfl
  obtain ⟨hpending, hparts, htenants⟩ := s.scrubbed_keeps t1 k mem c seen
  have hswept : c.parts = s.chip.parts ∧ c.tenants = s.chip.tenants ∧ c.mram = s.chip.mram ∧ c.intc = s.chip.intc := by simp [hc]
  obtain ⟨hcparts, hctenants, hcmram, hcintc⟩ := hswept
  refine ⟨_, hexec, hpending, hparts.trans hcparts, htenants.trans hctenants,
    fun a ha => (s.scrubbed_byte_outside t1 mem c seen ha).trans (Mem.byte_strike_outside ha),
    fun hclean => ?clean, fun bytes hcorrected => ?corrected, fun hbad => ?uncorrectable⟩
  case clean =>
    rw [hclean]
    exact ⟨rfl, congrArg Mram.ceLifetime hcmram⟩
  case corrected =>
    rw [hcorrected]
    exact ⟨(Chip.countCe_ceLifetime ..).trans (congrArg (fun m : Mram => m.ceLifetime + 1) hcmram), rfl, Mem.putStored_of_clean⟩
  case uncorrectable =>
    rw [hbad]
    refine ⟨rfl, (Chip.foundBad_ueScrub ..).trans ?_, fun hidle => Chip.foundBad_src1 ?_ ..⟩
    · rw [hc]
      exact congrArg (· + 1) (Chip.sweepOn_ueScrub ..)
    · exact (congrArg (fun i : Intc => i.src[1]) hcintc).trans hidle
end

section
/-! What a fault of a plan leaves of its tenant and of the others (R388), and a module fault, after which no plan starts (R389). -/

namespace Sys2Proof.Machine

/-! ### What the end of a plan leaves of the tenants (R388) -/

/-- The tenants but `t` stand, and `t` keeps its request slots and what a fault has saved of it. -/
structure StandsApart (t : Fin 16) (c d : Chip) : Prop where
  others : ∀ u, u ≠ t → d.tenants[u] = c.tenants[u]
  slots : d.tenants[t].slots = c.tenants[t].slots
  faulted : d.tenants[t].faulted = c.tenants[t].faulted

theorem StandsApart.trans {t : Fin 16} {c d e : Chip} (h : StandsApart t c d) (h' : StandsApart t d e) : StandsApart t c e where
  others u hu := (h'.others u hu).trans (h.others u hu)
  slots := h'.slots.trans h.slots
  faulted := h'.faulted.trans h.faulted

theorem StandsApart.of_tenants {t : Fin 16} {c d : Chip} (h : d.tenants = c.tenants) : StandsApart t c d :=
  ⟨fun _ _ => by rw [h], by rw [h], by rw [h]⟩

theorem StandsApart.modTenant (c : Chip) (t : Fin 16) {f : Tenant → Tenant} (hslots : ∀ x, (f x).slots = x.slots)
    (hfaulted : ∀ x, (f x).faulted = x.faulted) : StandsApart t c (c.modTenant t f) where
  others _ hu := Chip.tenant_of_mod_ne (c := c) rfl hu
  slots := (congrArg Tenant.slots (Chip.tenant_of_mod (c := c) rfl)).trans (hslots _)
  faulted := (congrArg Tenant.faulted (Chip.tenant_of_mod (c := c) rfl)).trans (hfaulted _)

theorem StandsApart.foldl {α : Type} {f : Chip → α → Chip} (h : ∀ c x, (f c x).tenants = c.tenants) (l : List α) (c : Chip)
    (t : Fin 16) : StandsApart t c (l.foldl f c) := .of_tenants (foldl_tenants h l c)

theorem Chip.setFState_standsApart (c : Chip) (t : Fin 16) (st : FState) : StandsApart t c (c.setFState t st) := by
  unfold Chip.setFState
  split
  · exact .of_tenants rfl
  · exact (StandsApart.modTenant c t (f := fun x => { x with fstate := st }) (fun _ => rfl) fun _ => rfl).trans
      (.of_tenants (by simp))

theorem Chip.failAdmissions_standsApart (c : Chip) (t : Fin 16) (st : W16) : StandsApart t c (c.failAdmissions t st) :=
  (StandsApart.modTenant c t (f := fun x => { x with pendAdm := [] }) (fun _ => rfl) fun _ => rfl).trans
    (.foldl (fun _ _ => Chip.complete_tenants ..) _ _ t)

theorem Chip.settleRetires_standsApart (c : Chip) (t : Fin 16) : StandsApart t c (c.settleRetires t) :=
  (StandsApart.modTenant c t (f := fun x => { x with
    retires := x.retires.filter fun y => !(c.tenants[t].copyOf y.aid y.epoch).isNone }) (fun _ => rfl) fun _ => rfl).trans
    (.foldl (fun _ _ => Chip.complete_tenants ..) _ _ t)

theorem Chip.loseBatches_standsApart (c : Chip) (t : Fin 16) (plan : W16) (n : Nat) (st : W16) :
    StandsApart t c (c.loseBatches t plan n st) := by
  unfold Chip.loseBatches
  exact (StandsApart.foldl (fun _ _ => Chip.event_tenants ..) _ _ t).trans (.modTenant _ t (fun _ => rfl) fun _ => rfl)

theorem Chip.freeRetained_standsApart (c : Chip) (p : Fin 4) (t : Fin 16) : StandsApart t c (c.freeRetained p t) :=
  .modTenant c t (f := fun x => x.freeRetained (c.busyEpochs p t)) (fun _ => rfl) fun _ => rfl

/-- A plan that goes leaves its tenant without requests and with its context saved; the other tenants stand. -/
theorem Chip.faultOut_tenants (c : Chip) (p : Fin 4) {r : Running} {t : Fin 16} (ht : r.plan.tenant = t) (n : Nat)
    (commit : Stamp × W32) (f : FaultInfo) :
    (∀ u, u ≠ t → (c.faultOut p r n commit f).tenants[u] = c.tenants[u]) ∧
      (c.faultOut p r n commit f).tenants[t].slots = [] ∧ (c.faultOut p r n commit f).tenants[t].faulted.isSome = true := by
  subst ht
  unfold Chip.faultOut
  extract_lets t saved faulted drawn stated finals published slotless settled lost entry event report
  have hdrawn : StandsApart t faulted drawn := .of_tenants rfl
  have hstated : StandsApart t drawn stated := (drawn.setFState_standsApart t .faulted).trans (.of_tenants (by simp [stated]))
  have hpublished : StandsApart t faulted published :=
    (hdrawn.trans hstated).trans (.of_tenants (by simp [published]))
  obtain ⟨cleared, hcleared⟩ : ∃ d, d = published.modTenant t fun x => { x with slots := [] } := ⟨_, rfl⟩
  have hslotless : StandsApart t cleared slotless := hcleared ▸ Chip.freeRetained_standsApart _ p t
  have hlost : StandsApart t slotless lost :=
    ((slotless.failAdmissions_standsApart t f.status).trans (Chip.settleRetires_standsApart _ t)).trans
      (settled.loseBatches_standsApart t r.plan.id n f.status)
  have hformed : report.tenants = event.tenants := Chip.hbForm_tenants ..
  have hevent : event.tenants = lost.tenants := Chip.event_tenants ..
  have hreport : StandsApart t cleared report := (hslotless.trans hlost).trans (.of_tenants (hformed.trans hevent))
  have hmod : cleared.tenants = vecMod published.tenants t fun x => { x with slots := [] } := hcleared ▸ rfl
  have hclear := Chip.tenant_of_mod hmod
  obtain ⟨g, hg, hsave⟩ : ∃ g, faulted.tenants = vecMod c.tenants t g ∧ ∀ x, (g x).faulted = some saved :=
    ⟨_, Chip.modTenant_tenants .., fun _ => rfl⟩
  have hfault := Chip.tenant_of_mod hg
  have hothers : ∀ u, u ≠ t → report.tenants[u] = c.tenants[u] := fun u hu =>
    (hreport.others u hu).trans
      ((Chip.tenant_of_mod_ne hmod hu).trans ((hpublished.others u hu).trans (Chip.tenant_of_mod_ne hg hu)))
  have hslots : report.tenants[t].slots = [] := by rw [hreport.slots, hclear]
  have hsaved : report.tenants[t].faulted.isSome = true := by
    rw [hreport.faulted, hclear, hpublished.faulted, hfault, hsave, Option.isSome_some]
  dsimp only
  exact ⟨hothers, hslots, hsaved⟩

theorem Chip.faultOut_intc (c : Chip) (p : Fin 4) (r : Running) (n : Nat) (commit : Stamp × W32) (f : FaultInfo) :
    (c.faultOut p r n commit f).intc = c.intc.edge (Fin.ofNat 128 (32 + r.plan.tenant.val)) c.drone.now := by
  unfold Chip.faultOut
  simp

/-- The state of a plan that ends, as far as the restore of its commit set (R388). -/
def State.putBack (s : State) (p : Fin 4) (r : Running) (status : W16) (sound : Bool) : State :=
  if sound then (s.on fun c => c.abortBusy r status).restore p else s.on fun c => c.abortBusy r status

theorem State.putBack_standsBut (s : State) (p : Fin 4) (r : Running) (status : W16) (sound : Bool) :
    StandsBut p s (s.putBack p r status sound) := by
  cases sound with
  | true => exact (State.abortBusy_standsBut ..).trans (State.restore_standsBut ..)
  | false => exact State.abortBusy_standsBut ..

theorem State.restore_intc (s : State) (p : Fin 4) : (s.restore p).chip.intc = s.chip.intc := by
  unfold State.restore
  split
  · rfl
  · split
    · rfl
    · simp

theorem State.restore_tenant_ne {s : State} {p : Fin 4} {r : Running} (h : s.chip.run p = some r) {t : Fin 16}
    (ht : t ≠ r.plan.tenant) : (s.restore p).chip.tenants[t] = s.chip.tenants[t] := by
  cases hsrc : replaySource r.commits with
  | none => rw [State.restore_of_none h hsrc]
  | some x =>
    rw [State.restore_of_some h hsrc]
    dsimp only
    rw [restoreChip_tenants]
    exact vecMod_ne _ _ ht

/-- The restore leaves the interrupts, the faults and every other tenant. -/
theorem State.putBack_keeps {s : State} {p : Fin 4} {r : Running} (h : s.chip.run p = some r) (status : W16) (sound : Bool) :
    (s.putBack p r status sound).chip.intc = s.chip.intc ∧ (s.putBack p r status sound).chip.faults = s.chip.faults ∧
      ∀ t, t ≠ r.plan.tenant → (s.putBack p r status sound).chip.tenants[t] = s.chip.tenants[t] := by
  have haborted : (s.on fun c => c.abortBusy r status).chip.run p = some r := by simpa using h
  cases sound with
  | true =>
    refine ⟨(State.restore_intc ..).trans (by simp), (State.restore_faults ..).trans (by simp), fun t ht => ?_⟩
    exact (State.restore_tenant_ne haborted ht).trans (by simp)
  | false => simp [State.putBack]

/-- A tenant fault of a running plan: put back, reported, and the partition freed. -/
theorem State.tenantFault_eq {s : State} {p : Fin 4} {r : Running} (h : s.chip.run p = some r) (f : FaultInfo) (sound : Bool) :
    ∃ r' n commit, (s.putBack p r f.status sound).chip.run p = some r' ∧ r'.plan = r.plan ∧
      s.tenantFault p f sound =
        ((s.putBack p r f.status sound).on fun c => c.faultOut p r' n commit f).freePart p := by
  obtain ⟨r', hr', hplan, -⟩ := (s.putBack_standsBut p r f.status sound).plan r h
  refine ⟨r', if r.livePrologue then 0 else r.liveStep.toNat + 1, r.replayPoint, hr', hplan, ?_⟩
  unfold State.putBack at hr' ⊢
  simp only [State.tenantFault, h, hr']

theorem Intc.edge_of_pending {i : Intc} {n : Fin 128} (h : i.src[n] = .pending) (m : Fin 128) (now : Stamp) :
    (i.edge m now).src[n] = .pending := by
  by_cases hm : m = n
  · subst hm
    simp only [Intc.edge, h]
  · have hne : m.val ≠ n.val := fun hv => hm (Fin.ext hv)
    unfold Intc.edge
    split
    · exact (Vector.getElem_set_ne m.isLt n.isLt hne).trans h
    · exact (Vector.getElem_set_ne m.isLt n.isLt hne).trans h
    · exact h
    · exact h

/-- The source of a tenant's faults (R312). -/
theorem Intc.edge_tenant {i : Intc} {t : Fin 16} (h : i.src[32 + t.val] = .idle) (now : Stamp) :
    (i.edge (Fin.ofNat 128 (32 + t.val)) now).src[32 + t.val] = .pending := by
  have hval : Fin.ofNat 128 (32 + t.val) = ⟨32 + t.val, by omega⟩ := Fin.ext (Nat.mod_eq_of_lt (by omega))
  rw [hval]
  exact Intc.edge_of_idle (n := ⟨32 + t.val, by omega⟩) h now

/-- The end of a plan that nothing waits for raises no interrupt. -/
theorem State.freePart_intc {u : State} (hwait : NothingWaits u.chip) (p : Fin 4) : (u.freePart p).chip.intc = u.chip.intc := by
  obtain ⟨hpending, hwaiting, hturn⟩ := hwait
  have hfree : (u.chip.run p).bind Running.turn = none := by
    cases hr : u.chip.run p with
    | none => rfl
    | some r => exact hturn p r hr
  rw [State.freePart_of_none hfree hpending hwaiting]
  simp

/-- A tenant fault where nothing waits: the tenant's requests are over, its context is saved and its source raised; the fault is
counted and the other tenants stand. -/
theorem State.tenantFault_report {s : State} {p : Fin 4} {r : Running} (h : s.chip.run p = some r) (hwait : NothingWaits s.chip)
    (f : FaultInfo) (sound : Bool) {v : State} (hv : v = s.tenantFault p f sound) :
    v.chip.tenants[r.plan.tenant].slots = [] ∧ v.chip.tenants[r.plan.tenant].faulted.isSome = true ∧
      v.chip.faults.tfaultCount = s.chip.faults.tfaultCount + 1 ∧
      (s.chip.intc.src[32 + r.plan.tenant.val] = .idle → v.chip.intc.src[32 + r.plan.tenant.val] = .pending) ∧
      ∀ t, t ≠ r.plan.tenant → v.chip.tenants[t] = s.chip.tenants[t] := by
  obtain ⟨r', n, commit, hr', hplan, heq⟩ := State.tenantFault_eq h f sound
  obtain ⟨hintc, hfaults, hothers⟩ := State.putBack_keeps h f.status sound
  have hwaits := (s.putBack_standsBut p r f.status sound).waits h hwait
  rw [heq] at hv
  generalize s.putBack p r f.status sound = u at *
  have hout : NothingWaits (u.on fun c => c.faultOut p r' n commit f).chip := nothingWaits_of_parts hwaits (by simp) (by simp)
  obtain ⟨-, -, -, htenants, -⟩ := State.freePart_alone hout p
  have hvintc := State.freePart_intc hout p
  have hvfaults := State.freePart_faults (u.on fun c => c.faultOut p r' n commit f) p
  obtain ⟨hstand, hslots, hsaved⟩ := u.chip.faultOut_tenants p (congrArg Plan.tenant hplan) n commit f
  rw [← hv] at htenants hvintc hvfaults
  rw [State.on_chip, Chip.faultOut_intc, hplan, hintc] at hvintc
  rw [State.on_chip, Chip.faultOut_faults, hfaults] at hvfaults
  rw [htenants, hvintc, hvfaults]
  exact ⟨hslots, hsaved, rfl, fun hidle => Intc.edge_tenant hidle _, fun t ht => (hstand t ht).trans (hothers t ht)⟩

/-! ### A module fault (R389) -/

/-- The tenant whose plan a partition runs. -/
def Chip.tenantAt (c : Chip) (q : Fin 4) : Option (Fin 16) := (c.run q).map fun r => r.plan.tenant

theorem Chip.tenantAt_of_run {c : Chip} {q : Fin 4} {r : Running} (h : c.run q = some r) : c.tenantAt q = some r.plan.tenant := by
  rw [Chip.tenantAt, h, Option.map_some]

theorem Chip.tenantAt_eq_none {c : Chip} {q : Fin 4} : c.tenantAt q = none ↔ c.run q = none := Option.map_eq_none_iff

theorem Chip.tenantAt_of_stand {c d : Chip} {q : Fin 4} (h : d.stand q = c.stand q) : d.tenantAt q = c.tenantAt q := by
  have htenant : ∀ c : Chip, c.tenantAt q = (c.stand q).map fun x => x.plan.tenant := fun c => by
    rw [Chip.tenantAt, Chip.stand, Option.map_map]
    rfl
  rw [htenant, h, ← htenant]

theorem Chip.mem_partsOf {c : Chip} {t : Fin 16} {p : Fin 4} : p ∈ c.partsOf t ↔ c.tenantAt p = some t := by
  rw [Chip.partsOf, List.mem_filter, Chip.tenantAt]
  cases hr : c.run p with
  | none => simp
  | some r => simp [mem_allParts p]

/-- A function is a tenant by its windows or by the plan that it runs. -/
theorem Chip.isTenant_iff {c : Chip} {t : Fin 16} :
    c.isTenant t = true ↔ (c.tenants[t].windows.toList.any fun w => w.tier.isSome) = true ∨ ∃ p, c.tenantAt p = some t := by
  have hpart : (c.partOf t).isSome = true ↔ ∃ p, c.tenantAt p = some t := by
    rw [Chip.partOf, List.find?_isSome]
    refine ⟨fun ⟨p, _, hp⟩ => ⟨p, ?_⟩, fun ⟨p, hp⟩ => ⟨p, mem_allParts p, ?_⟩⟩
    · cases hr : c.run p with
      | none => simp [hr] at hp
      | some r => simpa [Chip.tenantAt, hr] using hp
    · obtain ⟨r, hr, hten⟩ := Option.map_eq_some_iff.mp hp
      simpa [hr] using hten
  rw [Chip.isTenant, Bool.or_eq_true, hpart]

theorem mem_allTenants : ∀ t : Fin 16, t ∈ allTenants := by decide

/-- What a fault leaves of a state in which the module has faulted: no plan has started, no fault has ended and no interrupt is
lost. -/
structure FaultsOn (s u : State) : Prop where
  mfault : u.chip.faults.mfault = true
  runs : ∀ q, u.chip.tenantAt q = none ∨ u.chip.tenantAt q = s.chip.tenantAt q
  stay : ∀ t : Fin 16, s.chip.tenants[t].fault = true → u.chip.tenants[t].fault = true
  raised : ∀ n : Fin 128, s.chip.intc.src[n] = .pending → u.chip.intc.src[n] = .pending

theorem FaultsOn.refl {s : State} (h : s.chip.faults.mfault = true) : FaultsOn s s :=
  ⟨h, fun _ => .inr rfl, fun _ ht => ht, fun _ hn => hn⟩

theorem FaultsOn.trans {s u v : State} (h : FaultsOn s u) (h' : FaultsOn u v) : FaultsOn s v where
  mfault := h'.mfault
  runs q := (h'.runs q).elim .inl fun hq => hq ▸ h.runs q
  stay t ht := h'.stay t (h.stay t ht)
  raised n hn := h'.raised n (h.raised n hn)

theorem FaultsOn.gone {s u : State} (h : FaultsOn s u) {q : Fin 4} (hq : s.chip.tenantAt q = none) : u.chip.tenantAt q = none :=
  (h.runs q).elim id fun hsame => hsame.trans hq

theorem State.startWaiting_of_mfault {s : State} (h : s.chip.faults.mfault = true) (p : Fin 4) : s.startWaiting p = s := by
  refine State.startWaiting_of_not_mayStart ?_
  unfold Chip.mayStart
  split
  · rw [h, Bool.or_true, Bool.true_or, if_pos rfl]
  · rfl

/-- A partition that has lost its plan; `turn`: the TURN that the plan held. -/
def Part.freed (x : Part) (turn : Option (W16 × CmdSrc)) : Part :=
  { x with run := none, waiting := if turn.isSome then turn else x.waiting }

/-- After a module fault a partition that is freed stays free: a PART_SET that waits may take effect, but no plan starts. -/
theorem State.freePart_of_mfault {s : State} (h : s.chip.faults.mfault = true) (p : Fin 4) : s.freePart p =
    s.on fun c => ((c.modPart p fun x => x.freed ((c.run p).bind Running.turn)).applyPartSet).settleAbsent := by
  obtain ⟨u, hu⟩ : ∃ u : State, u = s.on fun c =>
    ((c.modPart p fun x => x.freed ((c.run p).bind Running.turn)).applyPartSet).settleAbsent := ⟨_, rfl⟩
  have hfault : u.chip.faults.mfault = true := by simpa [hu] using h
  have hfold : allParts.foldl State.startWaiting u = u :=
    List.foldlRecOn (motive := fun v => v = u) _ _ rfl fun v hv q _ => by rw [hv, State.startWaiting_of_mfault hfault]
  rw [← hu, ← hfold, hu]
  rfl

theorem State.freePart_of_mfault_keeps {s : State} (h : s.chip.faults.mfault = true) (p : Fin 4) :
    (s.freePart p).chip.faults = s.chip.faults ∧ (s.freePart p).chip.tenants = s.chip.tenants ∧
      (s.freePart p).chip.intc = s.chip.intc ∧ (s.freePart p).chip.tenantAt p = none ∧
      ∀ q, q ≠ p → (s.freePart p).chip.tenantAt q = s.chip.tenantAt q := by
  have hrun (f : Part → Part) (q : Fin 4) : ((s.chip.modPart p f).applyPartSet.settleAbsent).run q = (s.chip.modPart p f).run q := by
    simp [Chip.applyPartSet_run]
  rw [State.freePart_of_mfault h]
  refine ⟨by simp, by simp, by simp, ?_, fun q hq => ?_⟩
  · rw [Chip.tenantAt_eq_none, State.on_chip, hrun]
    exact congrArg Part.run (vecMod_same ..)
  · rw [Chip.tenantAt, State.on_chip, hrun]
    exact congrArg (fun x => (Part.run x).map _) (vecMod_ne _ _ hq)

/-- A plan that a module fault ends: it is gone, and its tenant has faulted. -/
theorem State.tenantFault_faultsOn {s : State} {p : Fin 4} {r : Running} (h : s.chip.run p = some r)
    (hfault : s.chip.faults.mfault = true) (f : FaultInfo) (sound : Bool) :
    FaultsOn s (s.tenantFault p f sound) ∧ (s.tenantFault p f sound).chip.tenantAt p = none ∧
      (s.tenantFault p f sound).chip.tenants[r.plan.tenant].fault = true := by
  obtain ⟨r', n, commit, hr', hplan, heq⟩ := State.tenantFault_eq h f sound
  obtain ⟨hintc, hfaults, hothers⟩ := State.putBack_keeps h f.status sound
  have hstands := s.putBack_standsBut p r f.status sound
  rw [heq]
  generalize s.putBack p r f.status sound = u at *
  have hout : (u.on fun c => c.faultOut p r' n commit f).chip.faults.mfault = true := by
    rw [State.on_chip, Chip.faultOut_faults, hfaults]
    exact hfault
  obtain ⟨hvfaults, hvtenants, hvintc, hgone, hruns⟩ := State.freePart_of_mfault_keeps hout p
  have hown := u.chip.faultOut_standing p r' n commit f
  rw [hplan] at hown
  have hten : ((u.on fun c => c.faultOut p r' n commit f).freePart p).chip.tenants[r.plan.tenant].fault = true := by
    rw [hvtenants]
    exact Chip.faulted_of_standing hown
  refine ⟨⟨by rw [hvfaults]; exact hout, fun q => ?_, fun t ht => ?_, fun m hm => ?_⟩, hgone, hten⟩
  · by_cases hq : q = p
    · rw [hq]
      exact .inl hgone
    · refine .inr ((hruns q hq).trans ?_)
      have hrun : (u.chip.faultOut p r' n commit f).run q = s.chip.run q := by simpa using hstands.runs q hq
      rw [State.on_chip, Chip.tenantAt, hrun, ← Chip.tenantAt]
  · by_cases htr : t = r.plan.tenant
    · rw [htr]
      exact hten
    · rw [hvtenants]
      have hstand := (u.chip.faultOut_tenants p (congrArg Plan.tenant hplan) n commit f).1 t htr
      exact (congrArg Tenant.fault (hstand.trans (hothers t htr))).trans ht
  · rw [hvintc, State.on_chip, Chip.faultOut_intc, hintc]
    exact Intc.edge_of_pending hm _ _

/-- A tenant without a plan that a module fault concerns. -/
theorem State.idleFault_faultsOn {s : State} (hfault : s.chip.faults.mfault = true) (t : Fin 16) (unit : W32) (det : Byte) (cause : W64) :
    FaultsOn s (s.on fun c => c.idleFault t unit det cause) ∧
      (s.on fun c => c.idleFault t unit det cause).chip.tenants[t].fault = true := by
  obtain ⟨d, hd⟩ : ∃ d, d = (s.chip.modTenant t fun x => { x with fault := true }).setFState t .faulted := ⟨_, rfl⟩
  have htenants : (s.chip.idleFault t unit det cause).tenants = d.tenants := by
    rw [hd]
    unfold Chip.idleFault
    simp
  have hintc : (s.chip.idleFault t unit det cause).intc = s.chip.intc.edge (Fin.ofNat 128 (32 + t.val)) s.chip.drone.now := by
    unfold Chip.idleFault
    simp
  have hown : d.tenants[t].fault = true := by
    refine Chip.faulted_of_standing (st := .faulted) ?_
    rw [hd, Chip.setFState_standing]
    exact congrArg (fun x => (Tenant.fault x, FState.faulted)) (vecMod_same ..)
  have hrun : ∀ q, (s.chip.idleFault t unit det cause).tenantAt q = s.chip.tenantAt q := fun q => by simp [Chip.tenantAt]
  refine ⟨⟨?_, fun q => .inr (hrun q), fun u hu => ?_, fun n hn => ?_⟩, ?_⟩
  · rw [State.on_chip, Chip.idleFault_faults]
    exact hfault
  · rw [State.on_chip, htenants]
    by_cases hut : u = t
    · rw [hut]
      exact hown
    · rw [hd, ((Chip.setFState_standsApart _ t .faulted).others u hut)]
      exact (congrArg Tenant.fault (vecMod_ne _ _ hut)).trans hu
  · rw [State.on_chip, hintc]
    exact Intc.edge_of_pending hn _ _
  · rw [State.on_chip, htenants]
    exact hown

end Sys2Proof.Machine
end

section
/-! A module fault, which stops every plan (R389), and the tenant fault as a command (R388). -/

namespace Sys2Proof.Machine

/-! ### Every tenant of a module fault (R389) -/

/-- The plan of a partition ends with TILE_FAULT, where one runs. -/
def State.tileFaultAt (unit : W32) (det : Byte) (flags : W64) (sound : Bool) (s : State) (p : Fin 4) : State :=
  match s.chip.run p with
  | some r => s.tenantFault p
      ⟨0x0031, det, unit, BitVec.ofNat 32 r.ctx.pc, 0xFF, det.setWidth 64 ||| flags, s.chip.drone.now⟩ sound
  | none => s

section
variable {s : State} (hfault : s.chip.faults.mfault = true) (unit : W32) (det : Byte) (flags : W64) (sound : Bool)

theorem State.faultTenants_idle {t : Fin 16} (h : s.chip.partsOf t = []) :
    s.faultTenants [t] unit det flags sound = s.on fun c => c.idleFault t unit det (det.setWidth 64 ||| flags) := by
  simp only [State.faultTenants, List.foldl_cons, List.foldl_nil, h]

theorem State.faultTenants_plans {t : Fin 16} (h : s.chip.partsOf t ≠ []) :
    s.faultTenants [t] unit det flags sound = (s.chip.partsOf t).foldl (State.tileFaultAt unit det flags sound) s := by
  obtain ⟨ps, hps⟩ : ∃ ps, s.chip.partsOf t = ps := ⟨_, rfl⟩
  cases ps with
  | nil => exact absurd hps h
  | cons p ps =>
    simp only [State.faultTenants, List.foldl_cons, List.foldl_nil, hps]
    rfl

include hfault

theorem State.tileFaultAt_faultsOn (p : Fin 4) :
    FaultsOn s (s.tileFaultAt unit det flags sound p) ∧ (s.tileFaultAt unit det flags sound p).chip.tenantAt p = none ∧
      ∀ t, s.chip.tenantAt p = some t → (s.tileFaultAt unit det flags sound p).chip.tenants[t].fault = true := by
  unfold State.tileFaultAt
  cases h : s.chip.run p with
  | none =>
    have hnone := Chip.tenantAt_eq_none.mpr h
    exact ⟨.refl hfault, hnone, fun t ht => by rw [hnone] at ht; cases ht⟩
  | some r =>
    obtain ⟨hstep, hgone, hten⟩ := State.tenantFault_faultsOn h hfault
      ⟨0x0031, det, unit, BitVec.ofNat 32 r.ctx.pc, 0xFF, det.setWidth 64 ||| flags, s.chip.drone.now⟩ sound
    refine ⟨hstep, hgone, fun t ht => ?_⟩
    obtain rfl : r.plan.tenant = t := Option.some.inj ((Chip.tenantAt_of_run h).symm.trans ht)
    exact hten

end

/-- Every partition named has lost its plan, and the plans' tenants have faulted. -/
theorem State.foldl_tileFaultAt (unit : W32) (det : Byte) (flags : W64) (sound : Bool) {t : Fin 16} (ps : List (Fin 4)) {s : State}
    (hfault : s.chip.faults.mfault = true) (hps : ∀ p ∈ ps, s.chip.tenantAt p = some t ∨ s.chip.tenants[t].fault = true) :
    FaultsOn s (ps.foldl (State.tileFaultAt unit det flags sound) s) ∧
      (∀ p ∈ ps, (ps.foldl (State.tileFaultAt unit det flags sound) s).chip.tenantAt p = none) ∧
      (ps ≠ [] → (ps.foldl (State.tileFaultAt unit det flags sound) s).chip.tenants[t].fault = true) := by
  induction ps generalizing s with
  | nil => exact ⟨.refl hfault, fun p hp => absurd hp List.not_mem_nil, fun h => absurd rfl h⟩
  | cons p ps ih =>
    obtain ⟨hstep, hgone, hten⟩ := State.tileFaultAt_faultsOn hfault unit det flags sound p
    have hfirst : (s.tileFaultAt unit det flags sound p).chip.tenants[t].fault = true :=
      (hps p List.mem_cons_self).elim (hten t) (hstep.stay t)
    obtain ⟨hrest, hall, -⟩ := ih hstep.mfault fun _ _ => .inr hfirst
    rw [List.foldl_cons]
    refine ⟨hstep.trans hrest, fun q hq => ?_, fun _ => hrest.stay t hfirst⟩
    obtain rfl | hmem := List.mem_cons.mp hq
    · exact hrest.gone hgone
    · exact hall q hmem

/-- One tenant takes a fault: no plan of its own runs on. -/
theorem State.faultTenants_faultsOn_one {s : State} (hfault : s.chip.faults.mfault = true) (t : Fin 16) (unit : W32) (det : Byte)
    (flags : W64) (sound : Bool) {u : State} (hu : u = s.faultTenants [t] unit det flags sound) :
    FaultsOn s u ∧ u.chip.tenants[t].fault = true ∧ ∀ q, u.chip.tenantAt q ≠ some t := by
  by_cases hps : s.chip.partsOf t = []
  · rw [State.faultTenants_idle unit det flags sound hps] at hu
    obtain ⟨hstep, hten⟩ := State.idleFault_faultsOn hfault t unit det (det.setWidth 64 ||| flags)
    rw [← hu] at hstep hten
    refine ⟨hstep, hten, fun q hq => ?_⟩
    have hsame : s.chip.tenantAt q = some t := (hstep.runs q).elim (fun hnone => by rw [hnone] at hq; cases hq) fun h => h ▸ hq
    have hmem := Chip.mem_partsOf.mpr hsame
    rw [hps] at hmem
    exact absurd hmem List.not_mem_nil
  · rw [State.faultTenants_plans unit det flags sound hps] at hu
    obtain ⟨hstep, hgone, hten⟩ := State.foldl_tileFaultAt unit det flags sound (t := t) (s.chip.partsOf t) hfault
      fun p hp => .inl (Chip.mem_partsOf.mp hp)
    rw [← hu] at hstep hgone hten
    refine ⟨hstep, hten hps, fun q hq => ?_⟩
    have hsame : s.chip.tenantAt q = some t := (hstep.runs q).elim (fun hnone => by rw [hnone] at hq; cases hq) fun h => h ▸ hq
    rw [hgone q (Chip.mem_partsOf.mpr hsame)] at hq
    cases hq

/-- Every tenant named has faulted, and no plan of theirs runs on. -/
theorem State.faultTenants_faultsOn {s : State} (hfault : s.chip.faults.mfault = true) (ts : List (Fin 16)) (unit : W32) (det : Byte)
    (flags : W64) (sound : Bool) :
    FaultsOn s (s.faultTenants ts unit det flags sound) ∧
      ∀ t ∈ ts, (s.faultTenants ts unit det flags sound).chip.tenants[t].fault = true ∧
        ∀ q, (s.faultTenants ts unit det flags sound).chip.tenantAt q ≠ some t := by
  induction ts generalizing s with
  | nil => exact ⟨.refl hfault, fun t ht => absurd ht List.not_mem_nil⟩
  | cons t ts ih =>
    obtain ⟨hfirst, hten, hgone⟩ := State.faultTenants_faultsOn_one hfault t unit det flags sound rfl
    obtain ⟨hrest, hall⟩ := ih hfirst.mfault
    have hcons : s.faultTenants (t :: ts) unit det flags sound =
        (s.faultTenants [t] unit det flags sound).faultTenants ts unit det flags sound := rfl
    rw [hcons]
    refine ⟨hfirst.trans hrest, fun x hx => ?_⟩
    obtain rfl | hmem := List.mem_cons.mp hx
    · refine ⟨hrest.stay x hten, fun q hq => ?_⟩
      exact (hrest.runs q).elim (fun hnone => by rw [hnone] at hq; cases hq) fun hsame => hgone q (hsame ▸ hq)
    · exact hall x hmem

/-! ### The module fault (R389) -/

/-- TURNs that are dropped leave the plans that run where they stand. -/
theorem Chip.dropTurns_stand (c : Chip) (ids : List W16) (q : Fin 4) : (c.dropTurns ids).stand q = c.stand q := by
  unfold Chip.dropTurns
  refine foldl_keeps (g := fun d : Chip => d.stand q) (fun c p => ?_) allParts c
  have hwaiting (src : CmdSrc) (st pl : W16) (v0 : W32) (v1 : W64) :
      ((c.modPart p fun x => { x with waiting := none }).complete src st pl v0 v1).stand q = c.stand q :=
    (Chip.complete_stand ..).trans
      (Chip.stand_of_run (Chip.modPart_run_of_keeps (f := fun x => { x with waiting := none }) (fun _ => rfl) c p q))
  have hturn (d : Chip) (src : CmdSrc) (st pl : W16) (v0 : W32) (v1 : W64) :
      ((d.modRun p fun r => { r with turn := none }).complete src st pl v0 v1).stand q = d.stand q :=
    (Chip.complete_stand ..).trans (Chip.modRun_stand (f := fun r => { r with turn := none }) (fun _ => rfl) d p q)
  dsimp only
  split <;> split
  · rw [hturn, hwaiting]
  · rw [hturn]
  · rw [hwaiting]
  · rfl

/-- The module has faulted, and TURNs that wait are refused. -/
def Chip.refuseStarts (c : Chip) : Chip := { c with faults := { c.faults with mfault := true } }.refuseTurns

theorem Chip.refuseStarts_keeps (c : Chip) :
    c.refuseStarts.faults = { c.faults with mfault := true } ∧ c.refuseStarts.tenants = c.tenants ∧
      c.refuseStarts.intc = c.intc ∧ ∀ q, c.refuseStarts.tenantAt q = c.tenantAt q := by
  unfold Chip.refuseStarts
  exact ⟨by simp, by simp, by simp, fun q => Chip.tenantAt_of_stand (Chip.dropTurns_stand _ _ q)⟩

/-- The fault of the module is reported. -/
def Chip.moduleFaulted (c : Chip) (unit : W32) (det : Byte) : Chip :=
  let c := c.refuseStarts.tileEvent unit
  c.hbForm 0x0060 false (c.hubSrc 0)
    (FaultRec.bytes
      { kind := 3, status := 0x0031, part := 0xFF, ten := 0xFF, plan := 0, step := 0, unit := unit, det := det
        bidx := 0, tDet := c.drone.now, tSwitch := 0, tResume := 0, tCommit := 0, tRebound := 0 })

theorem Chip.moduleFaulted_keeps (c : Chip) (unit : W32) (det : Byte) :
    (c.moduleFaulted unit det).faults = { c.faults with mfault := true } ∧ (c.moduleFaulted unit det).tenants = c.tenants ∧
      (c.moduleFaulted unit det).intc = c.intc ∧ ∀ q, (c.moduleFaulted unit det).tenantAt q = c.tenantAt q := by
  obtain ⟨hfaults, htenants, hintc, hruns⟩ := c.refuseStarts_keeps
  have hrun (q : Fin 4) : (c.moduleFaulted unit det).run q = c.refuseStarts.run q := by simp [Chip.moduleFaulted, Chip.run]
  refine ⟨Eq.trans ?_ hfaults, Eq.trans ?_ htenants, Eq.trans ?_ hintc, fun q => Eq.trans ?_ (hruns q)⟩
  · simp [Chip.moduleFaulted]
  · simp [Chip.moduleFaulted]
  · simp [Chip.moduleFaulted]
  · rw [Chip.tenantAt, hrun, ← Chip.tenantAt]

theorem State.moduleFault_eq {s : State} (h : s.chip.faults.mfault = false) (unit : W32) (det : Byte) (sound : Bool) :
    s.moduleFault unit det sound = (s.on fun c => c.moduleFaulted unit det).faultTenants
      (allTenants.filter fun t => (s.chip.moduleFaulted unit det).isTenant t) unit det (if sound then 0 else 0x80000000) sound := by
  simp only [State.moduleFault, Chip.moduleFaulted, Chip.refuseStarts, State.on, h, Bool.false_eq_true, if_false]

/-- After a module fault no plan runs, and every tenant has faulted; no interrupt is lost. -/
theorem State.moduleFault_stops {s : State} (h : s.chip.faults.mfault = false) (unit : W32) (det : Byte) (sound : Bool) {u : State}
    (hu : u = s.moduleFault unit det sound) :
    (∀ p : Fin 4, u.chip.run p = none) ∧ (∀ t : Fin 16, s.chip.isTenant t = true → u.chip.tenants[t].fault = true) ∧
      ∀ n : Fin 128, s.chip.intc.src[n] = .pending → u.chip.intc.src[n] = .pending := by
  obtain ⟨hfaults, htenants, hintc, hruns⟩ := s.chip.moduleFaulted_keeps unit det
  rw [State.moduleFault_eq h] at hu
  have hfault : (s.on fun c => c.moduleFaulted unit det).chip.faults.mfault = true := by rw [State.on_chip, hfaults]
  obtain ⟨hstep, hall⟩ := State.faultTenants_faultsOn hfault
    (allTenants.filter fun t => (s.chip.moduleFaulted unit det).isTenant t) unit det (if sound then 0 else 0x80000000) sound
  rw [← hu] at hstep hall
  have hnamed {t : Fin 16} (ht : (s.chip.moduleFaulted unit det).isTenant t = true) :
      t ∈ allTenants.filter fun t => (s.chip.moduleFaulted unit det).isTenant t := List.mem_filter.mpr ⟨mem_allTenants t, ht⟩
  have hsame (t : Fin 16) : s.chip.isTenant t = true → (s.chip.moduleFaulted unit det).isTenant t = true := by
    rw [Chip.isTenant_iff, Chip.isTenant_iff, htenants]
    exact Or.imp_right fun ⟨p, hp⟩ => ⟨p, (hruns p).trans hp⟩
  refine ⟨fun p => Chip.tenantAt_eq_none.mp ?_, fun t ht => (hall t (hnamed (hsame t ht))).1, fun n hn => hstep.raised n ?_⟩
  · cases hp : u.chip.tenantAt p with
    | none => rfl
    | some t =>
      have hten : (s.chip.moduleFaulted unit det).tenantAt p = some t := by
        have hrun := hstep.runs p
        rw [hp, State.on_chip] at hrun
        exact (hrun.resolve_left (Option.some_ne_none t)).symm
      exact absurd hp ((hall t (hnamed (Chip.isTenant_iff.mpr (.inr ⟨p, hten⟩)))).2 p)
  · rw [State.on_chip, hintc]
    exact hn

theorem exec_moduleFault_of_running {s : State} (hrun : s.chip.power = .running) (unit : W16) (sound : Bool) :
    exec (.moduleFault unit sound) s = .next ((s.on fun c => c.raise 2).moduleFault (s.chip.modNum ++ unit) 0 sound) := by
  simp only [exec, execModuleFault, Chip.up_of_running hrun, if_true]

/-! ### A tenant fault as a command (R388) -/

/-- The memory set back to the commit point from which a plan would replay. -/
def Mem.putBack (m : Mem) (commits : List CommitPt) : Mem :=
  match replaySource commits with
  | some x => (m.putAll x.undo).heal (x.undo.map fun u => wordOf u.1)
  | none => m

theorem State.tenantFault_mem {s : State} {p : Fin 4} {r : Running} (h : s.chip.run p = some r) (f : FaultInfo) :
    (s.tenantFault p f true).mem = s.mem.putBack r.commits := by
  obtain ⟨r', n, commit, -, -, heq⟩ := State.tenantFault_eq h f true
  have haborted : (s.on fun c => c.abortBusy r f.status).chip.run p = some r := by simpa using h
  have hback : (s.putBack p r f.status true).mem = s.mem.putBack r.commits := by
    have hput : s.putBack p r f.status true = (s.on fun c => c.abortBusy r f.status).restore p := rfl
    rw [hput]
    unfold Mem.putBack
    cases hsrc : replaySource r.commits with
    | none => rw [State.restore_of_none haborted hsrc, State.on_mem]
    | some x => rw [State.restore_of_some haborted hsrc, State.on_mem]
  rw [heq, (State.freePart_keeps ..).2, State.on_mem, hback]

/-- An attempt to break isolation is recorded before the fault (R338, R374). -/
def Chip.recordCause (c : Chip) (cause : FaultCause) (t : Fin 16) : Chip :=
  if cause = .isolation then c.hbAuth 5 t.val 0 [] else c

theorem Chip.recordCause_keeps (c : Chip) (cause : FaultCause) (t : Fin 16) :
    (c.recordCause cause t).parts = c.parts ∧ (c.recordCause cause t).partPending = c.partPending ∧
      (c.recordCause cause t).tenants = c.tenants ∧ (c.recordCause cause t).intc = c.intc ∧
      (c.recordCause cause t).faults = c.faults := by
  unfold Chip.recordCause
  split <;> simp

/-- What the fault of a plan from outside its program reports. -/
def State.commandFault (s : State) (r : Running) (cause : FaultCause) : FaultInfo :=
  ⟨(faultOf cause).1, 0x20, s.chip.hubSrc 0, BitVec.ofNat 32 r.ctx.pc, 0xFF, (faultOf cause).2, s.chip.drone.now⟩

theorem exec_tenantFault_of_run {s u : State} (hrun : s.chip.power = .running) {p : Fin 4} {r : Running} (h : s.chip.run p = some r)
    {cause : FaultCause} (hu : u = s.on fun c => c.recordCause cause r.plan.tenant) :
    exec (.tenantFault p cause) s = .next (u.tenantFault p (u.commandFault r cause) true) := by
  have hrecord : (if cause = .isolation then s.on fun c => c.hbAuth 5 r.plan.tenant.val 0 [] else s) = u := by
    rw [hu]
    unfold Chip.recordCause
    split <;> rfl
  simp only [exec, execTenantFault, h, Chip.up_of_running hrun, hrecord, Bool.not_true, Bool.false_eq_true, if_false,
    State.commandFault]

end Sys2Proof.Machine
end

section
/-! Uncorrectable data as plans and hosts read them (R238, R240, R243). -/

namespace Sys2Proof.Machine

/-! ### What a read meets and leaves on the cells (R238, R241) -/

/-- The error that the decoder meets. -/
def Mem.metAt (m : Mem) (w : MemAt) (err : BitVec 288) : BitVec 288 :=
  match wordAt w with
  | some k => m.flaw k ^^^ err
  | none => err

/-- The memory after an error that stands on the cells. -/
def Mem.struckAt (m : Mem) (w : MemAt) (err : BitVec 288) (rest : Bool) : Mem :=
  match rest, wordAt w with
  | true, some k => m.strike k err
  | _, _ => m

/-- A corrected codeword counted, of a tier or of a scratchpad (R247). -/
def Chip.countCeAt (c : Chip) (w : MemAt) : Chip :=
  match wordAt w with
  | some k => c.countCe k.1 (32 * k.2)
  | none => c.countCeSp

theorem Chip.countCeAt_keeps (c : Chip) (w : MemAt) :
    (c.countCeAt w).parts = c.parts ∧ (c.countCeAt w).tenants = c.tenants ∧
      (c.countCeAt w).mram.ceLifetime = c.mram.ceLifetime + 1 := by
  unfold Chip.countCeAt
  split
  · exact ⟨by simp, by simp, Chip.countCe_ceLifetime ..⟩
  · exact ⟨by simp, by simp, rfl⟩

/-- What a plan's read brings about, by what the decoder finds; `mem`: with what has come to stand on the cells. -/
def State.readSeen (s : State) (p : Fin 4) (r : Running) (w : MemAt) (lost : Bool) (mem : Mem) (seen : EccResult) : State :=
  match seen with
  | .clean => { s with mem := mem }
  | .corrected _ => { s with mem := mem, chip := s.chip.countCeAt w }
  | .uncorrectable => { s with mem := mem }.dataFault p r w lost

theorem State.planRead_eq (s : State) (p : Fin 4) (r : Running) (w : MemAt) (err : BitVec 288) (rest lost : Bool) :
    s.planRead p r w err rest lost =
      s.readSeen p r w lost (s.mem.struckAt w err rest) (errVerdict (s.mem.metAt w err)) := by
  unfold Mem.metAt Mem.struckAt State.planRead State.readSeen Chip.countCeAt
  cases wordAt w <;> cases rest <;> rfl

theorem exec_uncorrectableRead_absent {w : MemAt} {x : Tier × Nat} (h : absentAt w = some x) (s : State) (p : Fin 4)
    (err : BitVec 288) (rest sound : Bool) :
    exec (.uncorrectableRead p ⟨w, err, rest⟩ sound) s = .fault (.noSuchAddress x.1 x.2) := by
  simp only [exec, execUncorrectableRead, h]

theorem exec_uncorrectableRead_of_run {s : State} (hrun : s.chip.power = .running) {w : MemAt} (hw : absentAt w = none) {p : Fin 4}
    {r : Running} (hr : s.chip.run p = some r) (err : BitVec 288) (rest sound : Bool) :
    exec (.uncorrectableRead p ⟨w, err, rest⟩ sound) s = .next (s.planRead p r w err rest !sound) := by
  simp only [exec, execUncorrectableRead, hw, hr, Chip.up_of_running hrun, if_true]

/-! ### Uncorrectable data of a plan (R240) -/

/-- An uncorrectable read raises source 1 and is counted, and LAST_UE names it (R243, R247). -/
def Chip.recordUe (c : Chip) (w : MemAt) : Chip :=
  ((c.raise 1).countUe (c.ueAt w).1).lastUe (c.ueAt w).1 (c.ueAt w).2.1 (c.ueAt w).2.2.1 c.memObj.lastUeOutcome

theorem Chip.countUe_ueLifetime (c : Chip) (tier : Nat) : (c.countUe tier).mram.ueLifetime = c.mram.ueLifetime + 1 := rfl

theorem Chip.recordUe_keeps (c : Chip) (w : MemAt) :
    (c.recordUe w).parts = c.parts ∧ (c.recordUe w).partPending = c.partPending ∧ (c.recordUe w).tenants = c.tenants ∧
      (c.recordUe w).drone = c.drone ∧ (c.recordUe w).intc = c.intc.edge 1 c.drone.now ∧
      (c.recordUe w).mram.ueLifetime = c.mram.ueLifetime + 1 := by
  unfold Chip.recordUe
  generalize c.ueAt w = x
  exact ⟨by simp, by simp, by simp, by simp, by simp, by simp [Chip.countUe_ueLifetime]⟩

theorem Chip.recordUe_src1 {c : Chip} (h : c.intc.src[1] = .idle) (w : MemAt) : (c.recordUe w).intc.src[1] = .pending := by
  obtain ⟨-, -, -, -, hintc, -⟩ := c.recordUe_keeps w
  rw [hintc]
  exact Intc.edge_of_idle (n := 1) h _

section
variable (s : State) (p : Fin 4) {r : Running} (w : MemAt) (lost : Bool)

/-- The read that an interruption of the plan names. -/
def Running.ueRead (r : Running) (c : Chip) (w : MemAt) (lost : Bool) : UeRead :=
  ⟨(c.ueAt w).1, (c.ueAt w).2.1, (c.ueAt w).2.2.1, r.inSet w, r.inSet w && lost⟩

/-- The plan is interrupted, to replay. -/
theorem State.dataFault_interrupts (hready : r.altsReady = true) (hreplay : r.replayTo = none) :
    s.dataFault p r w lost = s.on fun c => (c.recordUe w).setRun p
      (some (r.interrupt (c.recordUe w).drone.now 0x10 (c.ueAt w).2.2.2 (some (r.ueRead c w lost)))) := by
  have hgo : ¬ (!r.altsReady || (r.replayTo.isSome && !r.inSet w)) = true := by simp [hready, hreplay]
  unfold State.dataFault Running.ueRead Chip.recordUe
  dsimp only [State.on]
  generalize s.chip.ueAt w = x
  exact if_neg hgo

/-- The plan ends: its alternates are being rebound. -/
theorem State.dataFault_ends (hready : r.altsReady = false) : s.dataFault p r w lost =
    (s.on fun c => c.recordUe w).ueFault p (s.chip.ueAt w).2.2.2 !(r.inSet w && lost) := by
  have hend : (!r.altsReady || (r.replayTo.isSome && !r.inSet w)) = true := by simp [hready]
  unfold State.dataFault Chip.recordUe
  dsimp only [State.on]
  generalize s.chip.ueAt w = x
  exact if_pos hend

end

/-- Uncorrectable data that no replay can put right: the plan is gone, its tenant has faulted, and LAST_UE says so. -/
theorem State.ueFault_alone {s : State} {p : Fin 4} {r : Running} (h : s.chip.run p = some r) (hwait : NothingWaits s.chip)
    (unit : W32) (sound : Bool) :
    (s.ueFault p unit sound).chip.run p = none ∧ (s.ueFault p unit sound).chip.tenants[r.plan.tenant].fault = true ∧
      (s.ueFault p unit sound).chip.memObj.lastUeOutcome = 0x0030 := by
  unfold State.ueFault
  have hwaits : NothingWaits (s.on fun c => { c with memObj := { c.memObj with lastUeOutcome := 0x0030 } }).chip :=
    nothingWaits_of_parts hwait rfl rfl
  obtain ⟨hgone, hfault, hlast⟩ := State.detFault_alone (s := s.on fun c => { c with memObj := { c.memObj with
    lastUeOutcome := 0x0030 } }) (p := p) (r := r) h hwaits 0x0030 0x10 unit sound
  exact ⟨hgone, hfault, hlast⟩

/-! ### Reads of a host (R243) -/

/-- What a host's read brings about, by what the decoder finds. -/
def State.hostRead (s : State) (t1 : Bool) (a : Nat) (mem : Mem) (seen : EccResult) : State :=
  match seen with
  | .clean => { s with mem := mem }
  | .corrected _ => { s with mem := mem, chip := s.chip.countCe t1 a }
  | .uncorrectable => { s with mem := mem, chip := { s.chip.foundBad t1 a with readData := [] } }

section
variable {s : State} {t1 : Bool} {addr : BitVec 48}

theorem exec_hostUncorrectableRead_absent (h : (if t1 then 576000000000 else 1024000000000) ≤ addr.toNat) (err : BitVec 288)
    (rest : Bool) : exec (.hostUncorrectableRead t1 ⟨addr, err, rest⟩) s =
      .fault (.noSuchAddress (if t1 then .t1 else .t2) addr.toNat) := by
  simp only [exec, execHostUncorrectableRead, absentAt_of_le h]

theorem exec_hostUncorrectableRead_of_lt (hrun : s.chip.power = .running)
    (h : addr.toNat < if t1 then 576000000000 else 1024000000000) (err : BitVec 288) (rest : Bool) {k : PAddr}
    (hk : k = wordOf (t1, addr.toNat)) {seen : EccResult} (hseen : errVerdict (s.mem.flaw k ^^^ err) = seen) :
    exec (.hostUncorrectableRead t1 ⟨addr, err, rest⟩) s =
      .next (s.hostRead t1 addr.toNat (if rest then s.mem.strike k err else s.mem) seen) := by
  subst hk hseen
  simp only [exec, execHostUncorrectableRead, absentAt_of_lt h, Chip.up_of_running hrun, if_true]
  cases rest <;> rfl

end

end Sys2Proof.Machine

open Sys2Proof.Machine

/-- Settles O48: reads by what the decoder finds, a tenant's fault where nothing waits, and a module fault, after which no plan
starts. -/
theorem uncorrectableReadsAndFaultsStopPlans : Obligations.UncorrectableReadsAndFaultsStopPlans := by
  intro s
  refine ⟨fun p w err rest sound => ?planRead, fun t1 addr err rest => ?hostRead,
    fun p cause r hrun hr hwait => ?tenantFault, fun unit sound hrun => ?moduleFault⟩
  case planRead =>
    intro run met mem
    refine ⟨fun x hx => exec_uncorrectableRead_absent hx s p err rest sound, fun r hrun hw hr => ?_⟩
    have hexec : ∀ {seen}, errVerdict met = seen → run = .next (s.readSeen p r w (!sound) (s.mem.struckAt w err rest) seen) :=
      fun hseen => (exec_uncorrectableRead_of_run hrun hw hr err rest sound).trans
        (congrArg Host.Outcome.next (hseen ▸ s.planRead_eq p r w err rest !sound))
    have hkept : (s.chip.recordUe w).run p = some r := by
      obtain ⟨hparts, -⟩ := s.chip.recordUe_keeps w
      rw [Chip.run, hparts]
      exact hr
    refine ⟨fun hclean => hexec hclean, fun x hcorr => ?corrected, fun hbad hready hreplay => ?interrupted,
      fun hbad hready hwait => ?ended⟩
    case corrected =>
      obtain ⟨hparts, htenants, hcount⟩ := s.chip.countCeAt_keeps w
      exact ⟨_, hexec hcorr, rfl, rfl, hparts, htenants, hcount⟩
    case interrupted =>
      obtain ⟨hparts, -, htenants, -, -, hcount⟩ := s.chip.recordUe_keeps w
      refine ⟨_, _, (hexec hbad).trans (congrArg Host.Outcome.next (State.dataFault_interrupts _ p w _ hready hreplay)),
        Chip.setRun_run .., rfl, rfl, rfl, rfl, fun hidle => Chip.recordUe_src1 hidle w, hcount, htenants, fun q hq => ?_⟩
      refine (Chip.setRun_run_ne _ _ _ hq).trans ?_
      rw [Chip.run, hparts]
      rfl
    case ended =>
      obtain ⟨hparts, hpending, -⟩ := s.chip.recordUe_keeps w
      obtain ⟨hgone, hfault, hlast⟩ := State.ueFault_alone
        (s := { s with mem := s.mem.struckAt w err rest }.on fun c => c.recordUe w) hkept
        (nothingWaits_of_parts hwait hpending hparts) (s.chip.ueAt w).2.2.2 !(r.inSet w && !sound)
      exact ⟨_, (hexec hbad).trans (congrArg Host.Outcome.next (State.dataFault_ends _ p w _ hready)), hgone,
        State.ueFault_keeps .., hfault, hlast⟩
  case hostRead =>
    intro run k mem
    refine ⟨fun haddr hrun => ?_, fun habsent => exec_hostUncorrectableRead_absent habsent err rest⟩
    have hexec : ∀ {seen}, errVerdict (s.mem.flaw k ^^^ err) = seen → run = .next (s.hostRead t1 addr.toNat mem seen) :=
      fun hseen => exec_hostUncorrectableRead_of_lt hrun haddr err rest rfl hseen
    refine ⟨fun hclean => hexec hclean, fun x hcorr => ?corrected, fun hbad => ?uncorrectable⟩
    case corrected =>
      refine ⟨_, hexec hcorr, rfl, rfl, Chip.countCe_ceLifetime .., ?_, ?_⟩
      · simp [State.hostRead]
      · simp [State.hostRead]
    case uncorrectable =>
      refine ⟨_, hexec hbad, rfl, rfl, rfl, fun hidle => Chip.foundBad_src1 hidle t1 addr.toNat, Chip.foundBad_ueLifetime .., ?_, ?_⟩
      · simp [State.hostRead]
      · simp [State.hostRead]
  case tenantFault =>
    obtain ⟨hparts, hpending, htenants, hintc, hfaults⟩ := s.chip.recordCause_keeps cause r.plan.tenant
    obtain ⟨u, hu⟩ : ∃ u, u = s.on fun c => c.recordCause cause r.plan.tenant := ⟨_, rfl⟩
    have hexec := exec_tenantFault_of_run hrun hr hu
    have hur : u.chip.run p = some r := by
      rw [hu, State.on_chip, Chip.run, hparts]
      exact hr
    have huwait : NothingWaits u.chip := hu ▸ nothingWaits_of_parts hwait hpending hparts
    obtain ⟨-, hgone, hruns, hstanding, -, -⟩ := State.tenantFault_alone hur huwait (u.commandFault r cause) true rfl
    obtain ⟨hslots, hsaved, hcount, hraised, hothers⟩ := State.tenantFault_report hur huwait (u.commandFault r cause) true rfl
    have hmem := State.tenantFault_mem hur (u.commandFault r cause)
    refine ⟨_, hexec, hgone, (State.tenantFault_keeps ..).trans (by rw [hu]; rfl), hmem.trans (by rw [hu]; rfl),
      congrArg Prod.snd hstanding, hsaved, Chip.faulted_of_standing hstanding, hslots, hcount.trans ?_, fun hidle => hraised ?_,
      fun q hq => (hruns q hq).trans ?_, fun t ht => (hothers t ht).trans ?_⟩
    · rw [hu, State.on_chip, hfaults]
    · rw [hu, State.on_chip, hintc]
      exact hidle
    · rw [hu, State.on_chip, Chip.run, hparts]
      rfl
    · rw [hu, State.on_chip, htenants]
  case moduleFault =>
    have hexec := exec_moduleFault_of_running hrun unit sound
    refine ⟨fun hfault => hexec.trans (congrArg Host.Outcome.next (if_pos hfault)), fun hfault => ?_⟩
    obtain ⟨hgone, htenants, hraised⟩ := State.moduleFault_stops (s := s.on fun c => c.raise 2) hfault
      (s.chip.modNum ++ unit) 0 sound rfl
    exact ⟨_, hexec, State.moduleFault_mfault .., hgone, State.moduleFault_keeps .., fun t ht => htenants t ht,
      fun hidle => hraised 2 (Intc.edge_of_idle (n := 2) hidle _)⟩
end

section
/-! The command at the front of the queue, and the interrupt controller: what a routing cycle assigns (R314) and how the sources
move (R313, R315). -/

namespace Sys2Proof.Machine

/-! ### Assignment (R314) -/

theorem Intc.lowest_mem {i : Intc} {ks : List (Fin 6)} {k : Fin 6} (h : i.lowest ks = some k) : k ∈ ks := by
  suffices hfold : ∀ best, ks.foldl (fun best k => match best with
      | none => some k
      | some b => if i.cores[k].cpri.toNat < i.cores[b].cpri.toNat then some k else some b) best = some k →
      k ∈ ks ∨ best = some k from (hfold none h).resolve_right nofun
  clear h
  induction ks with
  | nil => exact fun best h => .inr h
  | cons x xs ih =>
    intro best h
    rw [List.foldl_cons] at h
    rcases ih _ h with hmem | hnext
    · exact .inl (List.mem_cons_of_mem _ hmem)
    · cases best with
      | none => exact .inl (by simp_all)
      | some b =>
        dsimp only at hnext
        split at hnext
        · exact .inl (by simp_all)
        · exact .inr hnext

/-- A core may be given a source: the source is PENDING and the core takes it. -/
def Intc.MayTake (i : Intc) (a : Fin 6 × Fin 128) : Prop := i.src[a.2] = .pending ∧ i.eligible a.1 a.2 = true

theorem Intc.route_mayTake (i : Intc) : ∀ a ∈ i.route, i.MayTake a := by
  suffices hfold : ∀ (ns : List (Fin 128)) (asg : List (Fin 6 × Fin 128)), (∀ n ∈ ns, i.src[n] = .pending) →
      (∀ a ∈ asg, i.MayTake a) → ∀ a ∈ ns.foldl (fun asg n =>
        match i.lowest (allCores.filter fun k => i.eligible k n && asg.all fun a => a.1 ≠ k) with
        | some k => asg ++ [(k, n)]
        | none => asg) asg, i.MayTake a from
    hfold _ [] (fun n hn => of_decide_eq_true (List.mem_filter.mp hn).2) fun _ ha => absurd ha List.not_mem_nil
  intro ns
  induction ns with
  | nil => exact fun asg _ hasg => hasg
  | cons n ns ih =>
    intro asg hns hasg
    refine ih _ (fun m hm => hns m (List.mem_cons_of_mem _ hm)) ?_
    dsimp only
    split
    next k hk =>
      intro a ha
      rcases List.mem_append.mp ha with hold | hnew
      · exact hasg a hold
      · obtain rfl := List.mem_singleton.mp hnew
        obtain ⟨-, htakes⟩ := List.mem_filter.mp (Intc.lowest_mem hk)
        exact ⟨hns n List.mem_cons_self, (Bool.and_eq_true_iff.mp htakes).1⟩
    next => exact hasg

theorem Intc.mayTake_of_assigned {i : Intc} {k : Fin 6} {n : Fin 128} (h : i.assigned k = some n) : i.MayTake (k, n) := by
  obtain ⟨a, ha, rfl⟩ := Option.map_eq_some_iff.mp h
  have hcore : a.1 = k := by simpa using List.find?_some ha
  exact hcore ▸ i.route_mayTake a (List.mem_of_find?_eq_some ha)

/-! ### The source that a core holds (R313) -/

theorem Intc.held_isSome {i : Intc} {k : Fin 6} {n : Fin 128} (h : i.src[n] = .active k ∨ i.src[n] = .activePending k) :
    (i.held k).isSome = true := by
  refine List.find?_isSome.mpr ⟨n, List.mem_finRange n, ?_⟩
  rcases h with h | h <;> simp only [h, decide_true]

theorem Intc.held_eq_none {i : Intc} {k : Fin 6} (h : ∀ n : Fin 128, i.src[n] ≠ .active k ∧ i.src[n] ≠ .activePending k) :
    i.held k = none := by
  refine List.find?_eq_none.mpr fun n _ => ?_
  obtain ⟨hactive, hpending⟩ := h n
  split
  next c hc => simpa using fun heq : c = k => hactive (heq ▸ hc)
  next c hc => simpa using fun heq : c = k => hpending (heq ▸ hc)
  next => exact Bool.false_ne_true

/-! ### The commands (R315) -/

section
variable {s : State} (hrun : s.chip.power = .running)
include hrun

theorem exec_swtrig (n : Fin 128) : exec (.swtrig n) s = .next (s.on fun c => c.raise n) := by
  simp [exec, execSwtrig, State.on, Chip.up_of_running hrun]

theorem exec_claim_of_held {k : Fin 6} (h : (s.chip.intc.held k).isSome = true) : exec (.claim k) s =
    .next (s.on fun c => { c with intc := c.intc.setErr k 2, readData := [0x80] }) := by
  simp [exec, execClaim, State.on, Chip.up_of_running hrun, h]

theorem exec_claim_of_assigned {k : Fin 6} (h : s.chip.intc.held k = none) {n : Fin 128} (hn : s.chip.intc.assigned k = some n) :
    exec (.claim k) s = .next (s.on fun c =>
      { c with intc := { c.intc with src := c.intc.src.set n (.active k) }, readData := [BitVec.ofNat 8 n.val] }) := by
  simp [exec, execClaim, State.on, Chip.up_of_running hrun, h, hn]

theorem exec_claim_of_none {k : Fin 6} (h : s.chip.intc.held k = none) (hn : s.chip.intc.assigned k = none) :
    exec (.claim k) s = .next (s.on fun c => { c with readData := [0x80] }) := by
  simp [exec, execClaim, State.on, Chip.up_of_running hrun, h, hn]

theorem exec_complete_of_active {k : Fin 6} {n : Fin 128} (h : s.chip.intc.src[n] = .active k) : exec (.complete k n) s =
    .next (s.on fun c => { c with intc := { c.intc with src := c.intc.src.set n .idle } }) := by
  simp only [exec, execComplete, State.on, Chip.up_of_running hrun, h, Bool.not_true, Bool.false_eq_true, if_false, if_true]

theorem exec_complete_of_activePending {k : Fin 6} {n : Fin 128} (h : s.chip.intc.src[n] = .activePending k) :
    exec (.complete k n) s = .next (s.on fun c => { c with intc := { c.intc with src := c.intc.src.set n .pending } }) := by
  simp only [exec, execComplete, State.on, Chip.up_of_running hrun, h, Bool.not_true, Bool.false_eq_true, if_false, if_true,
    reduceCtorEq]

theorem exec_complete_of_other {k : Fin 6} {n : Fin 128} (h : s.chip.intc.src[n] ≠ .active k)
    (hpending : s.chip.intc.src[n] ≠ .activePending k) :
    exec (.complete k n) s = .next (s.on fun c => { c with intc := c.intc.setErr k 1 }) := by
  simp only [exec, execComplete, State.on, Chip.up_of_running hrun, h, hpending, Bool.not_true, Bool.false_eq_true, if_false]

theorem exec_coalescedRead : exec .coalescedRead s = .next (s.on fun c =>
    { c with intc := { c.intc with coalesced := 0 }, readData := leBytes 4 c.intc.coalesced.toNat }) := by
  simp [exec, execCoalescedRead, State.on, Chip.up_of_running hrun]

theorem exec_errClear (k : Fin 6) (m : BitVec 2) : exec (.errClear k m) s = .next (s.on fun c =>
    { c with intc := { c.intc with cores := vecMod c.intc.cores k fun b => { b with err := b.err &&& ~~~m } } }) := by
  simp [exec, execErrClear, State.on, Chip.up_of_running hrun]

end

@[simp] theorem Intc.setErr_err (i : Intc) (k : Fin 6) (bit : BitVec 2) :
    (i.setErr k bit).cores[k].err = i.cores[k].err ||| bit := by
  simp [Intc.setErr]

end Sys2Proof.Machine

open Sys2Proof.Machine

/-- Settles O24: both cases of the queue. -/
theorem frontCommandRuns : Obligations.FrontCommandRuns := by
  unfold Obligations.FrontCommandRuns
  intro s c rest
  refine ⟨fun hqueue => ?_, fun hqueue => ⟨s.on Chip.tick, ?_, hqueue, rfl⟩⟩
  · simp only [step, hqueue]
  · simp only [step, hqueue]

/-- Settles O46: a trigger by the state of its source, CLAIM by what the core holds and what the routing cycle assigns to it, and
COMPLETE by the holder of the source. -/
theorem interruptSourcesMoveByRule : Obligations.InterruptSourcesMoveByRule := by
  unfold Obligations.InterruptSourcesMoveByRule
  intro s hrun
  refine ⟨fun n => ?trigger, fun k => ⟨fun n hheld => ?held, fun hfree => ?claim, fun n hn => ?assigned, fun n => ?complete,
    fun m => ?clear⟩, exec_coalescedRead hrun⟩
  case trigger =>
    rw [exec_swtrig hrun]
    refine ⟨fun h => ?_, fun h => ?_, fun k => ⟨fun h => ?_, fun h => ?_⟩⟩ <;> simp only [State.on, Chip.raise, Intc.edge, h]
  case held =>
    exact ⟨_, exec_claim_of_held hrun (Intc.held_isSome hheld), rfl, rfl, Intc.setErr_err .., rfl, rfl⟩
  case claim =>
    have hnone := Intc.held_eq_none hfree
    exact ⟨fun n hn => exec_claim_of_assigned hrun hnone hn, exec_claim_of_none hrun hnone⟩
  case assigned =>
    obtain ⟨hpending, htakes⟩ := Intc.mayTake_of_assigned hn
    simp only [Intc.eligible, Bool.and_eq_true, decide_eq_true_eq] at htakes
    exact ⟨hpending, htakes.1.1, htakes.1.2⟩
  case complete =>
    exact ⟨exec_complete_of_active hrun, exec_complete_of_activePending hrun, fun h hpending =>
      ⟨_, exec_complete_of_other hrun h hpending, rfl, Intc.setErr_err ..⟩⟩
  case clear =>
    exact ⟨_, exec_errClear hrun k m, vecMod_same .., rfl, fun j hj => vecMod_ne _ _ hj⟩
end

section
/-! The limiter (R249, R322-R325): the emergency set points of a row, the steps below them, the exit, the warnings and the
droops. -/

namespace Sys2Proof.Machine

/-! ### Islands changed one after the other -/

theorem foldl_vecMod {α : Type} {n : Nat} (f : α → α) {is : List (Fin n)} (hdistinct : is.Nodup) (v : Vector α n) (j : Fin n) :
    (is.foldl (fun v i => vecMod v i f) v)[j] = if j ∈ is then f v[j] else v[j] := by
  induction is generalizing v with
  | nil => simp
  | cons i is ih =>
    obtain ⟨hi, hrest⟩ := List.nodup_cons.mp hdistinct
    rw [List.foldl_cons, ih hrest]
    by_cases hj : j = i
    · subst hj
      simp [hi]
    · simp only [List.mem_cons, hj, false_or, Fin.getElem_fin, vecMod_ne v f hj]

theorem mem_tileIslands {i : Fin 77} : i ∈ tileIslands ↔ i.val < 68 := by
  refine ⟨fun h => ?_, fun h => List.mem_map.mpr ⟨⟨i.val, h⟩, List.mem_finRange _, rfl⟩⟩
  obtain ⟨t, -, rfl⟩ := List.mem_map.mp h
  exact t.isLt

theorem tileIslands_nodup : tileIslands.Nodup :=
  (List.nodup_finRange 68).map (Fin.castLE_injective _)

theorem dieIslands_eq (d : Nat) : dieIslands d = tileIslands.filter fun i => i.val / 17 = d := rfl

/-! ### The action of a row (R323) -/

theorem Limiter.scale_emergPct (l : Limiter) {is : List (Fin 77)} (hdistinct : is.Nodup) (p : Nat) (i : Fin 77) :
    (l.scale is p).emergPct[i] = if i ∈ is then min l.emergPct[i] p else l.emergPct[i] :=
  foldl_vecMod (fun x => min x p) hdistinct l.emergPct i

/-- Some of the tile islands held to a percentage. -/
theorem Limiter.scale_tileIslands (l : Limiter) (q : Fin 77 → Bool) (p : Nat) (i : Fin 77) :
    (l.scale (tileIslands.filter q) p).emergPct[i] =
      if i.val < 68 ∧ q i = true then min l.emergPct[i] p else l.emergPct[i] := by
  rw [Limiter.scale_emergPct l (tileIslands_nodup.filter q)]
  simp only [List.mem_filter, mem_tileIslands]

theorem Limiter.scale_all (l : Limiter) (p : Nat) (i : Fin 77) :
    (l.scale tileIslands p).emergPct[i] = if i.val < 68 then min l.emergPct[i] p else l.emergPct[i] := by
  rw [Limiter.scale_emergPct l tileIslands_nodup]
  simp only [mem_tileIslands]

/-- The percentage to which a row holds a tile island, if it holds it (R323). -/
def Limiter.heldTo (l : Limiter) (row : LimRow) (unit : Nat) (value : W32) (i : Fin 77) : Option Nat :=
  match row with
  | .tileTemp => if i.val = unit then some 60 else none
  | .hubTemp => some 60
  | .dieCurrent | .vislDroop => if i.val / 17 = unit then some 75 else none
  | .inPower1ms => some (capPct l.capActive.toNat value.toNat)
  | .inPower100us => some (capPct 3600 value.toNat)
  | .inCurrent | .vin => some 50
  | .hbmTemp | .lpddrTemp | .hostTemp | .vislOver => none

theorem Limiter.act_emergPct (l : Limiter) (row : LimRow) (unit : Nat) (value : W32) (i : Fin 77) :
    (l.act row unit value).emergPct[i] =
      if i.val < 68 then ((l.heldTo row unit value i).map (min l.emergPct[i])).getD l.emergPct[i] else l.emergPct[i] := by
  have hsome : ∀ q : Fin 77 → Prop, ∀ [DecidablePred q], ∀ p : Nat,
      (if i.val < 68 ∧ decide (q i) = true then min l.emergPct[i] p else l.emergPct[i]) =
        if i.val < 68 then ((if q i then some p else none).map (min l.emergPct[i])).getD l.emergPct[i] else l.emergPct[i] := by
    intro q _ p
    by_cases hq : q i <;> simp [hq]
  cases row
  case tileTemp => exact (Limiter.scale_tileIslands ..).trans (hsome (fun i => i.val = unit) 60)
  case dieCurrent => exact (Limiter.scale_tileIslands ..).trans (hsome (fun i => i.val / 17 = unit) 75)
  case vislDroop => exact (Limiter.scale_tileIslands ..).trans (hsome (fun i => i.val / 17 = unit) 75)
  case hubTemp => exact Limiter.scale_all ..
  case inPower1ms => exact Limiter.scale_all ..
  case inPower100us => exact Limiter.scale_all ..
  case inCurrent => exact Limiter.scale_all ..
  case vin => exact Limiter.scale_all ..
  case hbmTemp => 
    simp only [Limiter.act, Limiter.heldTo]
    split <;> simp
  case lpddrTemp =>
    simp only [Limiter.act, Limiter.heldTo]
    split <;> simp
  case hostTemp => simp [Limiter.act, Limiter.heldTo]
  case vislOver => simp [Limiter.act, Limiter.heldTo]

/-- A row's action leaves what the limiter's state consists of. -/
theorem Limiter.act_keeps (l : Limiter) (row : LimRow) (unit : Nat) (value : W32) :
    (l.act row unit value).state = l.state ∧ (l.act row unit value).emergCount = l.emergCount ∧
      (l.act row unit value).since = l.since := by
  cases row
  case hbmTemp =>
    simp only [Limiter.act]
    split <;> exact ⟨rfl, rfl, rfl⟩
  case lpddrTemp =>
    simp only [Limiter.act]
    split <;> exact ⟨rfl, rfl, rfl⟩
  all_goals simp [Limiter.act, Limiter.scale]

theorem Limiter.act_halfHbm (l : Limiter) (unit : Nat) (value : W32) : unit ∈ (l.act .hbmTemp unit value).halfHbm := by
  by_cases h : unit ∈ l.halfHbm <;> simp [Limiter.act, h]

theorem Limiter.act_halfLpddr (l : Limiter) (unit : Nat) (value : W32) : unit ∈ (l.act .lpddrTemp unit value).halfLpddr := by
  by_cases h : unit ∈ l.halfLpddr <;> simp [Limiter.act, h]

/-! ### Entering EMERGENCY (R322) -/

/-- The limiter with a row's action in force and its quantity among the causes. -/
def Limiter.taken (l : Limiter) (row : LimRow) (unit : Nat) (value : W32) : Limiter :=
  { l.act row unit value with causes := if l.causes.contains (row, unit) then l.causes else (row, unit) :: l.causes }

theorem Limiter.mem_taken_causes (l : Limiter) (row : LimRow) (unit : Nat) (value : W32) :
    (row, unit) ∈ (l.taken row unit value).causes := by
  by_cases h : (row, unit) ∈ l.causes <;> simp [Limiter.taken, h]

/-- The chip as the first cause leaves it, before its interrupt and its record. -/
def Chip.emergency (c : Chip) (row : LimRow) (unit : Nat) (value : W32) : Chip :=
  { c with
    limiter := { c.limiter.taken row unit value with
      state := .emergency, since := c.drone.now, emergCount := (c.limiter.act row unit value).emergCount + 1 }
    pins := { c.pins with thermAlertN := false }
    boot := { c.boot with queueRefused := c.boot.queueRefused || c.boot.queued.isSome } }

theorem Chip.enterEmergency_first {c : Chip} (h : c.limiter.state = .normal) (row : LimRow) (unit : Nat) (value : W32) :
    c.enterEmergency row unit value = ((c.emergency row unit value).raise 6).limRec (limRowNum row) unit value := by
  have hstate : (c.limiter.act row unit value).state = .normal := (Limiter.act_keeps ..).1.trans h
  simp only [Chip.enterEmergency, hstate]
  rfl

theorem Chip.enterEmergency_further {c : Chip} (h : c.limiter.state = .emergency) (row : LimRow) (unit : Nat) (value : W32) :
    c.enterEmergency row unit value = { c with limiter := c.limiter.taken row unit value } := by
  have hstate : (c.limiter.act row unit value).state = .emergency := (Limiter.act_keeps ..).1.trans h
  unfold Chip.enterEmergency
  dsimp only
  split
  next hnormal => exact absurd (hstate.symm.trans hnormal) nofun
  next => rfl

/-- What a row at its limit leaves of the limiter, whether or not it is the first. -/
theorem Chip.enterEmergency_limiter {c : Chip} (h : c.limiter.state ≠ .tripped) (row : LimRow) (unit : Nat) (value : W32) :
    let l := (c.enterEmergency row unit value).limiter
    l.state = .emergency ∧ l = { c.limiter.taken row unit value with
      state := .emergency, since := l.since, emergCount := l.emergCount } := by
  cases hstate : c.limiter.state with
  | normal =>
    rw [Chip.enterEmergency_first hstate]
    exact ⟨by simp [Chip.emergency], by simp [Chip.emergency]⟩
  | emergency =>
    rw [Chip.enterEmergency_further hstate]
    have htaken : (c.limiter.taken row unit value).state = .emergency := (Limiter.act_keeps ..).1.trans hstate
    exact ⟨htaken, by rw [← htaken]⟩
  | tripped => exact absurd hstate h

theorem Chip.enterEmergency_counts {c : Chip} (h : c.limiter.state = .normal) (row : LimRow) (unit : Nat) (value : W32) :
    let c' := c.enterEmergency row unit value
    c'.limiter.emergCount = c.limiter.emergCount + 1 ∧ c'.limiter.since = c.drone.now ∧ c'.pins.thermAlertN = false ∧
      (c.intc.src[6] = .idle → c'.intc.src[6] = .pending) := by
  obtain ⟨-, hcount, -⟩ := Limiter.act_keeps c.limiter row unit value
  rw [Chip.enterEmergency_first h]
  refine ⟨by simp [Chip.emergency, hcount], by simp [Chip.emergency], by simp [Chip.emergency], fun hidle => ?_⟩
  simp only [Chip.limRec_keeps, Chip.raise_intc]
  exact Intc.edge_of_idle (n := 6) hidle c.drone.now

/-! ### Steps below the emergency set points (R323) -/

theorem Limiter.lower_emergDown (l : Limiter) {is : List (Fin 77)} (hdistinct : is.Nodup) (i : Fin 77) :
    (l.lower is).emergDown[i] = if i ∈ is then min 825 (l.emergDown[i] + 110) else l.emergDown[i] :=
  foldl_vecMod (fun x => min 825 (x + 110)) hdistinct l.emergDown i

theorem stepIslands_nodup (row : LimRow) (unit : Nat) : (stepIslands row unit).Nodup := by
  cases row
  case tileTemp => exact List.Nodup.filter (fun i => decide (i.val = unit)) tileIslands_nodup
  case hubTemp => exact tileIslands_nodup
  case dieCurrent => exact List.Nodup.filter (fun i => decide (i.val / 17 = unit)) tileIslands_nodup
  all_goals exact List.nodup_nil

theorem mem_stepIslands {row : LimRow} {unit : Nat} {i : Fin 77} : i ∈ stepIslands row unit ↔
    i.val < 68 ∧ (row = .hubTemp ∨ row = .tileTemp ∧ i.val = unit ∨ row = .dieCurrent ∧ i.val / 17 = unit) := by
  cases row <;> simp [stepIslands, dieIslands_eq, List.mem_filter, mem_tileIslands]

/-! ### The commands -/

section
variable {s : State} (hrun : s.chip.power = .running)
include hrun

theorem exec_limiterEmergencyEnter {row : LimRow} (hlimit : hasLimit row = true) (h : s.chip.limiter.state ≠ .tripped) (unit : Nat)
    (value : W32) : exec (.limiterEmergencyEnter row unit value) s = .next (s.on fun c => c.enterEmergency row unit value) := by
  simp [exec, execLimiterEmergencyEnter, State.on, Chip.hubPower_of_running hrun, hlimit, h]

theorem exec_limiterWarn {row : LimRow} (htemp : isTemp row = true) (unit : Nat) : ∃ e, exec (.limiterWarn row unit) s =
    .next (s.on fun c => Chip.log { c with
      limiter := { c.limiter with
        warns := if c.limiter.warns.contains (row, unit) then c.limiter.warns else (row, unit) :: c.limiter.warns }
      pins := { c.pins with thermAlertN := false } } .pf e) := by
  simp only [exec, execLimiterWarn, State.on, Chip.hubPower_of_running hrun, htemp, Bool.and_true, Bool.not_true, Bool.false_eq_true,
    if_false]
  exact ⟨_, rfl⟩

theorem exec_warnThresholdClear : exec .warnThresholdClear s = .next (s.on fun c => { c with
    limiter := { c.limiter with warns := [] }
    pins := { c.pins with thermAlertN := c.pins.thermAlertN || decide (c.limiter.state ≠ .emergency) } }) := by
  simp [exec, execWarnThresholdClear, State.on, Chip.hubPower_of_running hrun]

/-- A droop of a hub region, or one that its detector corrects, is counted alone. -/
theorem exec_droop_counted {i : Fin 77} {beyond : Bool} (h : beyond = false ∨ 68 ≤ i.val) :
    exec (.droop i beyond) s = .next (s.on fun c => { c with objs := c.objs.countDroop i }) := by
  unfold exec execDroop islandTile
  rcases h with rfl | h
  · by_cases hi : i.val < 68 <;> simp [State.on, Chip.up_of_running hrun, hi]
  · simp [State.on, Chip.up_of_running hrun, Nat.not_lt.mpr h]

theorem exec_droop_beyond {i : Fin 77} (h : i.val < 68) : exec (.droop i true) s =
    .next (s.on fun c => Chip.enterEmergency { c with objs := c.objs.countDroop i } .vislDroop (i.val / 17) 0) := by
  simp [exec, execDroop, islandTile, dieOf, State.on, Chip.up_of_running hrun, h]

end

theorem exec_limiterStepDown {s : State} {row : LimRow} {unit : Nat} (h : s.chip.limiter.state = .emergency)
    (hcause : (row, unit) ∈ s.chip.limiter.causes) : exec (.limiterStepDown row unit) s =
    .next (s.on fun c => { c with limiter := c.limiter.lower (stepIslands row unit) }) := by
  simp [exec, execLimiterStepDown, State.on, h, hcause]

theorem exec_limiterEmergencyExit {s : State} (h : s.chip.limiter.state = .emergency) : exec .limiterEmergencyExit s =
    .next (s.on fun c => (Chip.raise { c with
      limiter := c.limiter.calm (c.since c.limiter.since) .normal c.drone.now
      pins := { c.pins with thermAlertN := c.limiter.warns.isEmpty } } 6).limRec 0xFFFF 0 0) := by
  simp [exec, execLimiterEmergencyExit, State.on, h]

/-! ### Droops counted (R249) -/

theorem Objs.countDroop_tile (o : Objs) {i : Fin 77} (h : i.val < 68) :
    spGet 0 (o.countDroop i).droopTile i.val = spGet 0 o.droopTile i.val + 1 := by
  simp [Objs.countDroop, h, spGet_spSet_same]

theorem Objs.countDroop_hub (o : Objs) {i : Fin 77} (h : 68 ≤ i.val) :
    spGet 0 (o.countDroop i).droopHub (i.val - 68) = spGet 0 o.droopHub (i.val - 68) + 1 := by
  simp [Objs.countDroop, Nat.not_lt.mpr h, spGet_spSet_same]

end Sys2Proof.Machine

open Sys2Proof.Machine

/-- Settles O51: an entry by the action of its row and by whether it is the first, a step by the islands of its row, a droop by
whether its detector corrects it. -/
theorem limiterActsByRow : Obligations.LimiterActsByRow := by
  unfold Obligations.LimiterActsByRow
  intro s hrun
  refine ⟨fun row unit value hlimit hstate => ?enter, fun row unit hstate hcause => ?step, fun hstate => ?exit,
    fun row unit htemp => ?warn, ?clear, fun i beyond => ?droop⟩
  case enter =>
    refine ⟨_, exec_limiterEmergencyEnter hrun hlimit hstate unit value, ?_⟩
    obtain ⟨hin, hlim⟩ := Chip.enterEmergency_limiter hstate row unit value
    have hpct : ∀ i : Fin 77, (s.chip.enterEmergency row unit value).limiter.emergPct[i] =
        (s.chip.limiter.act row unit value).emergPct[i] := by
      rw [hlim]
      exact fun _ => rfl
    refine ⟨hin, ?causes, fun hnormal => Chip.enterEmergency_counts hnormal row unit value, fun hfurther => ?further, fun i hi => ?hub,
      fun i hi => ?tile, fun hrow => ?hbm, fun hrow => ?lpddr, fun hrow => ?host, rfl, rfl, by simp, by simp⟩
    case causes =>
      rw [State.on_chip, hlim]
      exact Limiter.mem_taken_causes s.chip.limiter row unit value
    case further =>
      obtain ⟨-, hcount, hsince⟩ := Limiter.act_keeps s.chip.limiter row unit value
      rw [State.on_chip, Chip.enterEmergency_further hfurther]
      exact ⟨hcount, hsince⟩
    case hub => exact (hpct i).trans ((Limiter.act_emergPct ..).trans (if_neg (Nat.not_lt.mpr hi)))
    case tile =>
      refine (hpct i).trans ((Limiter.act_emergPct ..).trans ((if_pos hi).trans ?_))
      cases row
      case tileTemp => by_cases hunit : i.val = unit <;> simp [Limiter.heldTo, hunit]
      case dieCurrent => by_cases hunit : i.val / 17 = unit <;> simp [Limiter.heldTo, hunit]
      case vislDroop => by_cases hunit : i.val / 17 = unit <;> simp [Limiter.heldTo, hunit]
      all_goals rfl
    case hbm =>
      subst hrow
      rw [State.on_chip, hlim]
      exact Limiter.act_halfHbm ..
    case lpddr =>
      subst hrow
      rw [State.on_chip, hlim]
      exact Limiter.act_halfLpddr ..
    case host =>
      subst hrow
      rw [State.on_chip, hlim]
      rfl
  case step =>
    refine ⟨_, exec_limiterStepDown hstate hcause, rfl, rfl, rfl, fun i => ?_⟩
    refine (Limiter.lower_emergDown _ (stepIslands_nodup row unit) i).trans ?_
    simp only [mem_stepIslands]
  case exit =>
    refine ⟨_, exec_limiterEmergencyExit hstate, ?_⟩
    simp only [State.on_chip, Chip.limRec_keeps, Chip.raise_limiter, Chip.raise_pins, Chip.raise_parts, Chip.raise_intc, State.on_mem]
    exact ⟨rfl, rfl, rfl, rfl, rfl, rfl, rfl, rfl, rfl, fun hidle => Intc.edge_of_idle (n := 6) hidle _, List.isEmpty_iff, trivial, trivial⟩
  case warn =>
    obtain ⟨e, hexec⟩ := exec_limiterWarn hrun htemp unit
    refine ⟨_, hexec, ?_, by simp, by simp, rfl, by simp⟩
    by_cases hthere : (row, unit) ∈ s.chip.limiter.warns <;> simp [hthere]
  case clear =>
    refine ⟨_, exec_warnThresholdClear hrun, rfl, fun hstate => ?_, fun hstate => ?_, rfl⟩ <;> simp [hstate]
  case droop =>
    by_cases hcounted : beyond = false ∨ 68 ≤ i.val
    · refine ⟨_, exec_droop_counted hrun hcounted, rfl, rfl, Objs.countDroop_tile _, Objs.countDroop_hub _, fun _ => rfl,
        fun hbeyond hi => ?_⟩
      rcases hcounted with hfalse | hhub
      · exact absurd (hfalse.symm.trans hbeyond) Bool.false_ne_true
      · omega
    · obtain ⟨rfl, hi⟩ : beyond = true ∧ i.val < 68 := by simpa using hcounted
      refine ⟨_, exec_droop_beyond hrun hi, rfl, rfl, fun _ => ?_, fun hhub => absurd hi (Nat.not_lt.mpr hhub),
        fun h => absurd h hcounted, fun _ _ hnormal => ?_⟩
      · simpa using Objs.countDroop_tile _ hi
      · have hne : s.chip.limiter.state ≠ .tripped := by simp [hnormal]
        exact (Chip.enterEmergency_limiter (c := { s.chip with objs := s.chip.objs.countDroop i }) hne .vislDroop (i.val / 17) 0).1
end

section
/-! Resets, trips, supplies and pins (R294-R298, R328-R331, R340, R376, R394, R402-R412): Hatband's queue committed, what precedes
a reset, the module in reset, and the end of a reset. -/

namespace Sys2Proof.Machine

/-! ### Hatband's queue committed (R372, R375, R376) -/

theorem Chip.hbForm_critical_eq (c : Chip) (ty : W16) (o : W32) (pl : List Byte) : c.hbForm ty true o pl =
    { c with hatband := { c.hatband with
        queue := c.hatband.queue ++ [{ stamp := c.drone.now, hseq := c.hatband.nextSeq, boot := c.mram.bootCount
                                       type := ty, critical := true, origin := o, payload := pl }]
        nextSeq := c.hatband.nextSeq + 1 } } := by
  simp [Chip.hbForm]

theorem getLast?_newestOf {α : Type} {n : Nat} (hn : 0 < n) (l : List α) (x : α) : (newestOf n (l ++ [x])).getLast? = some x := by
  have hdrop : (l ++ [x]).length - n ≤ l.length := by
    rw [List.length_append, List.length_singleton]
    omega
  rw [newestOf, List.drop_append_of_le_length hdrop, List.getLast?_concat]

theorem Hatband.store_queue (h : Hatband) (x : HbStored) : (h.store x).queue = h.queue ∧ (h.store x).dropsNow = h.dropsNow := by
  unfold Hatband.store
  split <;> exact ⟨rfl, rfl⟩

theorem Hatband.store_critical {x : HbStored} (hx : x.hb.critical = true) (h : Hatband) :
    (h.store x).crit.getLast? = some x ∧ (h.store x).gen = h.gen := by
  simp [Hatband.store, hx, getLast?_newestOf]

theorem Hatband.store_general {x : HbStored} (hx : x.hb.critical = false) (h : Hatband) :
    (h.store x).gen.getLast? = some x ∧ (h.store x).crit = h.crit := by
  simp [Hatband.store, hx, getLast?_newestOf]

theorem Chip.hbCommit_of_nil {c : Chip} (h : c.hatband.queue = []) : c.hbCommit = c := by
  simp only [Chip.hbCommit, h]

/-- Where no record has been dropped, a commit moves the oldest queued record alone. -/
theorem Chip.hbCommit_of_cons {c : Chip} {x : HbRec} {rest : List HbRec} (h : c.hatband.queue = x :: rest)
    (hdrops : c.hatband.dropsNow = none) :
    c.hbCommit = { c with hatband := Hatband.store { c.hatband with queue := rest } ⟨x, false, false⟩ } := by
  simp only [Chip.hbCommit, h, Hatband.store_queue, hdrops]

theorem foldl_hbCommit_of_nil (l : List Nat) {c : Chip} (h : c.hatband.queue = []) : l.foldl (fun c _ => c.hbCommit) c = c := by
  induction l with
  | nil => rfl
  | cons _ _ ih => rw [List.foldl_cons, Chip.hbCommit_of_nil h, ih]

/-- The newest critical record of a queue that is committed whole is the newest of its area. -/
theorem foldl_hbCommit_newest (l : List Nat) {c : Chip} {q : List HbRec} {x : HbRec} (hlen : q.length < l.length)
    (h : c.hatband.queue = q ++ [x]) (hdrops : c.hatband.dropsNow = none) (hx : x.critical = true) :
    (l.foldl (fun c _ => c.hbCommit) c).hatband.crit.getLast? = some ⟨x, false, false⟩ := by
  induction l generalizing c q with
  | nil => exact absurd hlen (Nat.not_lt_zero _)
  | cons _ l ih =>
    rw [List.foldl_cons]
    cases q with
    | nil =>
      rw [Chip.hbCommit_of_cons (rest := []) h hdrops, foldl_hbCommit_of_nil l (Hatband.store_queue ..).1]
      exact (Hatband.store_critical (x := ⟨x, false, false⟩) hx _).1
    | cons y q =>
      rw [Chip.hbCommit_of_cons (rest := q ++ [x]) h hdrops]
      exact ih (Nat.lt_of_succ_lt_succ hlen) (Hatband.store_queue ..).1 ((Hatband.store_queue ..).2.trans hdrops)

theorem Chip.hbCommit_mram (c : Chip) : c.hbCommit.mram = c.mram := by
  unfold Chip.hbCommit
  split
  · rfl
  · dsimp only
    split
    · split
      · exact (Chip.hbForm_critical ..).1
      · rfl
    · rfl

@[simp] theorem Chip.hbCommitAll_mram (c : Chip) : c.hbCommitAll.mram = c.mram :=
  foldl_keeps (g := Chip.mram) (fun c _ => c.hbCommit_mram) _ c

/-! ### What precedes a reset (R277, R351, R376) -/

theorem Intc.edge_ne {i : Intc} {m n : Fin 128} (h : m ≠ n) (now : Stamp) : (i.edge m now).src[n] = i.src[n] := by
  have hval : m.val ≠ n.val := fun hv => h (Fin.ext hv)
  unfold Intc.edge
  split
  · exact Vector.getElem_set_ne m.isLt n.isLt hval
  · exact Vector.getElem_set_ne m.isLt n.isLt hval
  · rfl
  · rfl

/-- A change of levels (R351). -/
theorem Chip.gateChange_eq (c : Chip) (f : Gate → Gate) : (c.gateChange f).gate = f c.gate ∧
    (c.gateChange f).intc = c.intc.edge 12 c.drone.now ∧ (c.gateChange f).mram = c.mram ∧
    (c.gateChange f).hatband.queue.length = c.hatband.queue.length + 1 ∧
    (c.gateChange f).hatband.dropsNow = c.hatband.dropsNow := by
  simp only [Chip.gateChange, Chip.lockRec, Chip.hbForm_critical_eq, List.length_append, List.length_singleton]
  exact ⟨rfl, rfl, rfl, rfl, rfl⟩

theorem Chip.closeGate_cases (c : Chip) : c.closeGate = c ∨
    c.closeGate = c.gateChange fun g => { g with operator := none, service := none, vendor := none, debugPort := false } := by
  unfold Chip.closeGate
  split
  · exact .inr rfl
  · exact .inl rfl

theorem Chip.closeGate_spec (c : Chip) : c.closeGate.mram = c.mram ∧ c.closeGate.hatband.dropsNow = c.hatband.dropsNow ∧
    ∀ n : Fin 128, n ≠ 12 → c.closeGate.intc.src[n] = c.intc.src[n] := by
  rcases c.closeGate_cases with h | h
  · rw [h]
    exact ⟨rfl, rfl, fun _ _ => rfl⟩
  · rw [h]
    obtain ⟨-, hintc, hmram, -, hdrops⟩ := c.gateChange_eq fun g =>
      { g with operator := none, service := none, vendor := none, debugPort := false }
    exact ⟨hmram, hdrops, fun n hn => by rw [hintc, Intc.edge_ne hn.symm]⟩

/-- The chip whose queue a reset commits. -/
def Chip.announced (c : Chip) (cause : Nat) : Chip :=
  (c.closeGate.hbForm 0x0003 true (c.hubSrc 8) (leBytes 2 cause ++ leBytes 8 c.drone.now.toNat)).goDown.heartbeat true

theorem Chip.announce_eq (c : Chip) (cause : Nat) : c.announce cause = (c.announced cause).hbCommitAll := rfl

theorem Chip.announce_spec (c : Chip) (cause : Nat) : (c.announce cause).mram = c.mram ∧ (c.announce cause).pins.alive = false ∧
    ∀ n : Fin 128, n ≠ 12 → (c.announce cause).intc.src[n] = c.intc.src[n] := by
  obtain ⟨hmram, -, hsrc⟩ := c.closeGate_spec
  have hpins : (c.announce cause).pins.alive = false := by simp [Chip.announce, Chip.goDown]
  exact ⟨by simp [Chip.announce, Chip.hbForm_critical, hmram], hpins, fun n hn => by simpa [Chip.announce] using hsrc n hn⟩

/-- The RESET record is the newest of the critical area (R374, R376). -/
theorem Chip.announce_record {c : Chip} (hdrops : c.hatband.dropsNow = none) (cause : Nat) :
    ∃ x, (c.announce cause).hatband.crit.getLast? = some x ∧ x.hb.type = 0x0003 ∧ x.hb.stamp = c.drone.now := by
  obtain ⟨x, hx, hcrit, htype, hstamp⟩ : ∃ x : HbRec, (c.announced cause).hatband.queue = c.closeGate.hatband.queue ++ [x] ∧
      x.critical = true ∧ x.type = 0x0003 ∧ x.stamp = c.drone.now := by
    simp only [Chip.announced, Chip.heartbeat_keeps, Chip.goDown_keeps, Chip.hbForm_critical_eq]
    exact ⟨_, rfl, rfl, rfl, by simp⟩
  have hnone : (c.announced cause).hatband.dropsNow = none := by
    simp only [Chip.announced, Chip.heartbeat_keeps, Chip.goDown_keeps, Chip.hbForm_critical_eq]
    exact c.closeGate_spec.2.1.trans hdrops
  refine ⟨⟨x, false, false⟩, ?_, htype, hstamp⟩
  rw [Chip.announce_eq]
  refine foldl_hbCommit_newest _ ?_ hx hnone hcrit
  rw [List.length_range, hx, List.length_append, List.length_singleton]
  omega

/-! ### The module in reset (R394) -/

@[simp] theorem Chip.keyrot_mram (c : Chip) : c.keyrot.mram = c.mram := by
  unfold Chip.keyrot
  split
  · simp [Chip.hbForm_critical]
  · rfl

theorem Chip.keyrot_of_none {c : Chip} (h : c.mram.staged = none) : c.keyrot = c := by
  simp only [Chip.keyrot, h]

/-- The module that runs on keeps its host region (R296). -/
theorem Mram.atReset_hostRegion (m : Mram) : (m.atReset false).hostRegion = m.hostRegion := by
  unfold Mram.atReset
  cases m.staged <;> simp

theorem Chip.inReset_run (c : Chip) (host : Bool) (p : Fin 4) : (c.inReset host).run p = none := by
  have hfree : ∀ (b : Bool) (p : Fin 4), (partsReset b)[p].run = none := by decide
  exact hfree _ p

/-- What any reset leaves: nothing runs, and nobody holds anything. -/
theorem Chip.inReset_volatile (c : Chip) (host : Bool) : (c.inReset host).power = .inReset ∧ (c.inReset host).pins.alive = false ∧
    (c.inReset host).tenants = Vector.replicate 16 Tenant.reset ∧ (c.inReset host).vfn = Vector.replicate 16 Func.reset ∧
    (c.inReset host).pfn = Func.reset ∧ (c.inReset host).placer.bound = [] ∧ (c.inReset host).placer.jobs = [] ∧
    (∀ p : Fin 4, (c.inReset host).run p = none) ∧ (c.inReset host).driver.state = .never ∧
    (c.inReset host).faults.tilesOut = [] ∧ (c.inReset host).memObj.kgen = 0 :=
  ⟨rfl, rfl, rfl, rfl, rfl, rfl, rfl, c.inReset_run host, rfl, rfl, rfl⟩

/-- The host region outlives a reset of a host die that runs on (R296, R394). -/
theorem State.scrambled_host {s : State} {a : Nat} (h : s.chip.hostBase ≤ a) :
    (s.scrambled false).byte (false, a) = s.mem.byte (false, a) := by
  have hstrike : ∀ (fs : List (PAddr × BitVec 288)) (m : Mem),
      (∀ f ∈ fs, wordOf (false, a) ≠ f.1) → (fs.foldl (fun m f => m.strike f.1 f.2) m).byte (false, a) = m.byte (false, a) := by
    intro fs
    induction fs with
    | nil => exact fun _ _ => rfl
    | cons f fs ih =>
      intro m hne
      rw [List.foldl_cons, ih _ fun g hg => hne g (List.mem_cons_of_mem _ hg)]
      exact Mem.byte_strike_outside (hne f List.mem_cons_self)
  unfold State.scrambled
  dsimp only
  rw [hstrike, Mem.byte_putAll_outside]
  · exact spGet_filter (fun v => by simpa using h)
  · intro w hw hsame
    obtain ⟨-, hw⟩ := List.mem_filter.mp hw
    simp [hsame, h] at hw
  · intro f hf hsame
    obtain ⟨-, hf⟩ := List.mem_filter.mp hf
    have htier : f.1.1 = false := congrArg Prod.fst hsame.symm
    have hword : a / 32 = f.1.2 := congrArg Prod.snd hsame
    have hbelow : 32 * f.1.2 + 31 < s.chip.hostBase := by simpa [htier] using (Bool.and_eq_true_iff.mp hf).2
    omega

/-- A reset that the module announces (R394). -/
theorem State.beginReset_chip (s : State) (cause : Nat) (host : Bool) :
    (s.beginReset cause host).chip = (s.chip.announce cause).inReset host := rfl

/-- The module's own resets, which leave the host die running (R296, R298, R394). -/
theorem State.beginReset_spec (s : State) (cause : Nat) :
    let u := s.beginReset cause false
    u.pending = s.pending ∧ u.chip.mram.hostRegion = s.chip.mram.hostRegion ∧
      (∀ a, s.chip.hostBase ≤ a → u.mem.byte (false, a) = s.mem.byte (false, a)) ∧
      (s.chip.hatband.dropsNow = none → s.chip.mram.staged = none →
        ∃ x, u.chip.hatband.crit.getLast? = some x ∧ x.hb.type = 0x0003 ∧ x.hb.stamp = s.chip.drone.now) := by
  obtain ⟨hmram, -, -⟩ := s.chip.announce_spec cause
  refine ⟨rfl, ?_, fun a ha => ?_, fun hdrops hstaged => ?_⟩
  · refine (Mram.atReset_hostRegion _).trans ?_
    rw [Chip.keyrot_mram, State.on_chip, hmram]
  · refine State.scrambled_host (s := s.on fun c => c.announce cause) ?_
    rw [Chip.hostBase, State.on_chip, hmram]
    exact ha
  · have hkept : (s.chip.announce cause).keyrot = s.chip.announce cause := Chip.keyrot_of_none (hmram ▸ hstaged)
    obtain ⟨x, hx, htype⟩ := Chip.announce_record hdrops cause
    refine ⟨x, ?_, htype⟩
    rw [State.beginReset_chip]
    show (s.chip.announce cause).keyrot.hatband.crit.getLast? = some x
    rw [hkept, hx]

/-! ### The end of a reset (R328, R330, R412) -/

@[simp] theorem Chip.setBoot_boot (c : Chip) (st : BootState) (x : W16) :
    (c.setBoot st x).boot = { c.boot with state := st, status := x } := by
  simp [Chip.setBoot]

@[simp] theorem Chip.bootFail_boot (c : Chip) (x : W16) : (c.bootFail x).boot = { c.boot with state := .failed, status := x } := by
  simp [Chip.bootFail]

theorem Chip.bootFail_mram (c : Chip) (x : W16) : (c.bootFail x).mram = c.mram :=
  (Chip.hbForm_critical ..).1.trans (by simp)

theorem Chip.outOfReset_spec (c : Chip) (mj : W32) : (c.outOfReset mj).power = .running ∧ (c.outOfReset mj).pins.alive = true ∧
    (c.outOfReset mj).pins.rstN = true ∧ (c.outOfReset mj).boot.holdupMj = mj ∧
    (c.outOfReset mj).boot.state = if c.mram.recordsOk then .loadWait else .failed := by
  cases hok : c.mram.recordsOk <;> by_cases hlow : mj.toNat < 250 <;>
    simp [Chip.outOfReset, hok, hlow, Chip.hbForm_critical]

/-! ### The start (R294-R296, R341) -/

/-- What the start-up block brings (R261, R295, R296). -/
theorem Chip.startBlock_spec (c : Chip) (b : StartBlock) : let c' := c.startBlock b
    c'.boot.state = c.boot.state ∧ c'.boot.img = c.boot.img ∧ c'.boot.status = c.boot.status ∧
      c'.mram.hostRegion = c.mram.hostRegion ∧
      (b.pver = 1 → c'.boot.drvRel = b.drvrel ∧
        c'.drone.now = (if c.drone.now.toNat < b.startTai.toNat then b.startTai else c.drone.now) ∧
        (1 ≤ b.hostreg.toNat → b.hostreg.toNat ≤ 8 → BitVec.ofNat 64 (16000000000 * b.hostreg.toNat) ≠ c.mram.hostRegion →
          c'.mram.hostNext = BitVec.ofNat 64 (16000000000 * b.hostreg.toNat))) := by
  by_cases hver : b.pver = 1
  · unfold Chip.startBlock
    rw [if_neg (not_not.mpr hver)]
    dsimp only
    by_cases hregion : 1 ≤ b.hostreg.toNat ∧ b.hostreg.toNat ≤ 8
    · rw [if_pos hregion]
      by_cases hsame : BitVec.ofNat 64 (16000000000 * b.hostreg.toNat) = c.mram.hostRegion
      · rw [if_pos hsame]
        split <;> simp_all
      · rw [if_neg hsame]
        split <;> simp_all
    · rw [if_neg hregion]
      have hout : 1 ≤ b.hostreg.toNat → ¬ b.hostreg.toNat ≤ 8 := fun hlo hhi => hregion ⟨hlo, hhi⟩
      split <;> simp_all
  · rw [show c.startBlock b = c from if_pos hver]
    exact ⟨rfl, rfl, rfl, rfl, fun h => absurd h hver⟩

theorem Chip.judgeImage_unsigned (c : Chip) {i : FwImage} (h : i.digestOk = false ∨ i.rsaOk = false ∨ i.slhOk = false) :
    c.judgeImage i = 0x0071 := by
  rcases h with h | h | h <;> simp [Chip.judgeImage, h]

theorem Chip.judgeImage_misfit {c : Chip} {i : FwImage} (hdigest : i.digestOk = true) (hrsa : i.rsaOk = true) (hslh : i.slhOk = true)
    (h : i.hwgen ≠ c.mram.hwgen ∨ 16777216 < i.bodylen.toNat) : c.judgeImage i = 0x0043 := by
  simp [Chip.judgeImage, hdigest, hrsa, hslh, h]

theorem Chip.judgeImage_fits {c : Chip} {i : FwImage} (hdigest : i.digestOk = true) (hrsa : i.rsaOk = true) (hslh : i.slhOk = true)
    (hgen : i.hwgen = c.mram.hwgen) (hlen : i.bodylen.toNat ≤ 16777216) : c.judgeImage i = 0 := by
  simp [Chip.judgeImage, hdigest, hrsa, hslh, hgen, hlen]

theorem exec_loadGo {s : State} (hrun : s.chip.power = .running) (hrecords : s.chip.mram.recordsOk = true)
    (hstate : s.chip.boot.state = .loadWait ∨ s.chip.boot.state = .failed) (img : FwImage) (blk : StartBlock) :
    exec (.loadGo 1 img blk) s = .next (s.on fun c =>
      ((Chip.setBoot { c with boot := { c.boot with img := some img } } .verify 0).bootRec).startBlock blk) := by
  simp [exec, execLoadGo, State.on, Chip.up_of_running hrun, hrecords, hstate]

theorem exec_loadGo_ignored {s : State} {v : W32} (h : v ≠ 1 ∨ s.chip.power ≠ .running ∨ s.chip.mram.recordsOk = false ∨
    (s.chip.boot.state ≠ .loadWait ∧ s.chip.boot.state ≠ .failed)) (img : FwImage) (blk : StartBlock) :
    exec (.loadGo v img blk) s = .next s := by
  have hno : ¬ (v = 1 ∧ s.chip.up ∧ s.chip.mram.recordsOk ∧ (s.chip.boot.state = .loadWait ∨ s.chip.boot.state = .failed)) := by
    rintro ⟨hv, hup, hrecords, hstate⟩
    have hrun : s.chip.power = .running := of_decide_eq_true hup
    rcases h with h | h | h | ⟨hwait, hfailed⟩
    · exact h hv
    · exact h hrun
    · exact absurd (h.symm.trans hrecords) Bool.false_ne_true
    · exact hstate.elim hwait hfailed
  simp only [exec, execLoadGo, State.on, if_neg hno]

/-- The chip that a verified image leaves (R292, R294, R341). -/
def Chip.verified (c : Chip) (i : FwImage) : Chip :=
  (Chip.setBoot { c.raise 13 with
    boot := { c.boot with fwRel := i.fwrel, fwDig := i.digest }
    mram := { c.mram with bootCount := c.mram.bootCount + 1 }
    intc := (c.raise 13).intc.roles } .selftest 0).startRec

section
variable {s : State} {i : FwImage} (himg : s.chip.boot.img = some i) (hrun : s.chip.power = .running)
  (hstate : s.chip.boot.state = .verify)
include himg hrun hstate

theorem exec_imageVerifyComplete_refused (h : s.chip.judgeImage i ≠ 0) :
    exec .imageVerifyComplete s = .next (s.on fun c => (c.raise 13).bootFail (c.judgeImage i)) := by
  have hraised : (s.chip.raise 13).judgeImage i ≠ 0 := h
  simp only [exec, execImageVerifyComplete, State.on, himg, Chip.up_of_running hrun, hstate, and_self, if_true, if_pos hraised]
  rfl

theorem exec_imageVerifyComplete_taken (h : s.chip.judgeImage i = 0) :
    exec .imageVerifyComplete s = .next (s.on fun c => c.verified i) := by
  have hraised : (s.chip.raise 13).judgeImage i = 0 := h
  simp only [exec, execImageVerifyComplete, State.on, himg, Chip.up_of_running hrun, hstate, and_self, if_true, hraised, ne_eq,
    not_true_eq_false, if_false]
  rfl

end

theorem Chip.verified_spec (c : Chip) (i : FwImage) : (c.verified i).boot.state = .selftest ∧
    (c.verified i).boot.fwRel = i.fwrel ∧ (c.verified i).boot.fwDig = i.digest ∧
    (c.verified i).mram.bootCount = c.mram.bootCount + 1 ∧ (c.verified i).intc = (c.raise 13).intc.roles := by
  simp [Chip.verified, Chip.startRec, Chip.hbForm_critical]

theorem exec_selftestComplete {s : State} (hrun : s.chip.power = .running) (hstate : s.chip.boot.state = .selftest)
    (bad : List (Fin 68)) : exec (.selftestComplete bad) s = .next (s.on fun c =>
      Chip.setBoot { c with faults := { c.faults with tilesOut := (c.mram.cfgOut ++ bad).eraseDups } } .ready 0) := by
  simp [exec, execSelftestComplete, State.on, Chip.up_of_running hrun, hstate]

/-! ### The commands -/

theorem exec_moduleResetComplete {s : State} (h : s.chip.power = .inReset) (hrst : s.chip.pins.rstN = true) (mj : W32) :
    exec (.moduleResetComplete mj) s = .next (s.on fun c => c.outOfReset mj) := by
  simp [exec, execModuleResetComplete, h, hrst]

theorem exec_moduleResetComplete_waits {s : State} (hrst : s.chip.pins.rstN = false) (mj : W32) :
    exec (.moduleResetComplete mj) s = .next s := by
  simp [exec, execModuleResetComplete, hrst]

theorem exec_reset {s : State} (hrun : s.chip.power = .running) :
    exec (.modreset 0x5A5A) s = .next (s.beginReset 2 false) ∧ exec .pfFunctionLevelReset s = .next (s.beginReset 3 false) := by
  simp [exec, execModreset, execPfFunctionLevelReset, Chip.up_of_running hrun]

theorem exec_modreset_ignored {s : State} {v : W32} (h : v ≠ 0x5A5A ∨ s.chip.power ≠ .running) : exec (.modreset v) s = .next s := by
  have hno : ¬ (v = 0x5A5A ∧ s.chip.up) := by
    simpa [Chip.up, imp_iff_not_or] using h
  simp only [exec, execModreset, if_neg hno]

/-! ### Trips (R323, R328) -/

theorem Chip.tripsOut_spec (c : Chip) (row : LimRow) (unit : Nat) (value : W32) : (c.tripsOut row unit value).mram = c.mram ∧
    ∀ n : Fin 128, n ≠ 6 → (c.tripsOut row unit value).intc.src[n] = c.intc.src[n] := by
  unfold Chip.tripsOut
  split
  · refine ⟨(Chip.hbForm_critical ..).1, fun n hn => ?_⟩
    simpa using Intc.edge_ne (i := c.intc) hn.symm c.drone.now
  · exact ⟨rfl, fun _ _ => rfl⟩

/-- The chip as a trip finds it: its record formed, everything committed, source 0 raised. -/
def Chip.tripAnnounced (c : Chip) (row : LimRow) (unit : BitVec 12) (value : W32) : Chip :=
  (((c.tripsOut row unit.toNat value).hbForm 0x0021 true (c.hubSrc 1)
    (leBytes 2 (limRowNum row) ++ leBytes 2 unit.toNat ++ leBytes 4 value.toNat)).announce 4).raise 0

theorem Chip.tripAnnounced_spec (c : Chip) (row : LimRow) (unit : BitVec 12) (value : W32) :
    let c' := c.tripAnnounced row unit value
    c'.mram = c.mram ∧ c'.pins.alive = false ∧ c'.drone = c.drone ∧ (c.intc.src[0] = .idle → c'.intc.src[0] = .pending) := by
  obtain ⟨hmram, halive, hsrc⟩ := ((c.tripsOut row unit.toNat value).hbForm 0x0021 true (c.hubSrc 1)
    (leBytes 2 (limRowNum row) ++ leBytes 2 unit.toNat ++ leBytes 4 value.toNat)).announce_spec 4
  obtain ⟨hout, hkept⟩ := c.tripsOut_spec row unit.toNat value
  refine ⟨hmram.trans ((Chip.hbForm_critical ..).1.trans hout), halive, by simp [Chip.tripAnnounced], fun hidle => ?_⟩
  refine Intc.edge_of_idle (n := 0) ((hsrc 0 (by decide)).trans ?_) _
  rw [Chip.hbForm_intc]
  exact (hkept 0 (by decide)).trans hidle

theorem exec_limiterTrip {s : State} {row : LimRow} (htrip : hasTrip row = true) (hpower : s.chip.power = .running ∨ s.chip.power = .inReset)
    (unit : BitVec 12) (value : W32) :
    exec (.limiterTrip row unit value) s = .next (s.on fun c => (c.tripAnnounced row unit value).trip row unit value) := by
  have hheld : (hasTrip row && (s.chip.up || decide (s.chip.power = .inReset))) = true := by
    rcases hpower with h | h <;> simp [htrip, Chip.up, h]
  simp only [exec, execLimiterTrip, State.on, hheld, Bool.not_true, Bool.false_eq_true, if_false]
  rfl

/-! ### Supplies and pins (R329, R402, R405-R410) -/

theorem Chip.supplyRec_mram (c : Chip) (cause : SupplyCause) (vin : W32) : (c.supplyRec cause vin).mram = c.mram :=
  (Chip.hbForm_critical ..).1

/-- The chip on hold-up (R329). -/
def Chip.onHoldup (c : Chip) : Chip := { c with
  power := .holdup c.drone.now
  pins := { c.pins with holdupN := false, pg := false, alive := false, hpePerstN := false }
  mram := { c.mram with supplyFaults := c.mram.supplyFaults + 1 } }

theorem Chip.onHoldup_pins (c : Chip) : c.onHoldup.pins.holdupN = false ∧ c.onHoldup.pins.pg = false ∧ c.onHoldup.pins.alive = false ∧
    c.onHoldup.mram.supplyFaults = c.mram.supplyFaults + 1 ∧ c.onHoldup.power = .holdup c.drone.now ∧ c.onHoldup.intc = c.intc :=
  ⟨rfl, rfl, rfl, rfl, rfl, rfl⟩

theorem exec_supplyFault {s : State} (hrun : s.chip.power = .running) (cause : SupplyCause) (vin : W32) :
    exec (.supplyFault cause vin) s =
      .next (s.on fun c => ((((c.announce 5).supplyRec cause vin).hbCommitAll.raise 7)).onHoldup) := by
  simp only [exec, execSupplyFault, State.on, Chip.up_of_running hrun, Bool.true_or, Bool.not_true, Bool.false_eq_true, if_false,
    if_true]
  rfl

theorem exec_supplyLeavesRegulation_powered {s : State} (h : s.chip.power = .running ∨ s.chip.power = .inReset) (good : Bool) :
    exec (.supplyLeavesRegulation good) s = .next { s with chip := { s.chip with pins := { s.chip.pins with pg := good } } } := by
  rcases h with h | h <;> simp only [exec, execSupplyLeavesRegulation, State.on, h]

theorem exec_supplyLeavesRegulation_holdup {s : State} {t : Stamp} (h : s.chip.power = .holdup t) :
    exec (.supplyLeavesRegulation true) s = .next s ∧
      exec (.supplyLeavesRegulation false) s = .next (s.on fun c => c.hubOff .locked) := by
  simp [exec, execSupplyLeavesRegulation, State.on, h]

theorem exec_pwrEnRise_of_may {s : State} {vin : W32} {low : Nat} (h : s.chip.mayPower vin low = true) (slot : BitVec 4) :
    exec (.pwrEnRise vin slot low) s =
      .next (((s.on fun c => { c with pins := { c.pins with pwrEn := true, slotId := slot } }).inReset true).on fun c => { c with
        limiter := Limiter.reset c.mram.capW
        pins := { c.pins with pg := true, rstN := false, thermAlertN := true, holdupN := true, hpePerstN := false } }) := by
  simp only [exec, execPwrEnRise, h, if_true]
  rfl

theorem exec_pwrEnRise_of_not {s : State} {vin : W32} {low : Nat} (h : s.chip.mayPower vin low = false) (slot : BitVec 4) :
    exec (.pwrEnRise vin slot low) s = .next { s with chip := { s.chip with pins := { s.chip.pins with pwrEn := true } } } := by
  simp only [exec, execPwrEnRise, h, Bool.false_eq_true, if_false]
  rfl

theorem exec_pwrEnFall {s : State} (hrun : s.chip.power = .running) : exec .pwrEnFall s =
    .next (s.on fun c => (Chip.hbLose { c with pins := { c.pins with pwrEn := false } }).hubOff .off) := by
  simp only [exec, execPwrEnFall, State.on, hrun]

theorem Chip.hbLose_queue (c : Chip) : c.hbLose.hatband.queue = [] := by
  unfold Chip.hbLose
  dsimp only
  split
  · rfl
  · split
    · rfl
    · exact (Hatband.store_queue ..).1

theorem exec_rstNAssert {s : State} {us : Nat} (hus : 0 < us) (hrst : s.chip.pins.rstN = true) (hpg : s.chip.pins.pg = true)
    (hrun : s.chip.power = .running) :
    exec (.rstNAssert us) s = .next ((s.beginReset 1 true).on fun c => { c with pins := { c.pins with rstN := false } }) := by
  simp [exec, execRstNAssert, hrst, hpg, Chip.up_of_running hrun, Nat.pos_iff_ne_zero.mp hus]

theorem exec_rstNRelease {s : State} (h : s.chip.power = .inReset) (mj : W32) : exec (.rstNRelease mj) s =
    .next (s.on fun c => Chip.outOfReset { c with pins := { c.pins with rstN := true } } mj) := by
  simp [exec, execRstNRelease, State.on, h]

end Sys2Proof.Machine

open Sys2Proof.Machine

/-- Settles O52: each command by the chip that it leaves, a reset by what every reset loses. -/
theorem tripsSuppliesAndPinsAct : Obligations.TripsSuppliesAndPinsAct := by
  unfold Obligations.TripsSuppliesAndPinsAct
  intro s
  refine ⟨fun row unit value htrip hpower => ?trip, fun hhold => ?holdEnd, fun cause vin hrun => ?supply,
    fun good hpower => exec_supplyLeavesRegulation_powered hpower good, fun t hholdup => ?regulation, fun vin slot low hvin hmay => ?rise,
    fun vin slot low hvin => ?low, fun hrun => ?fall, fun us hus hrst hpg hrun => ?assert, rfl, fun mj hreset => ?release⟩
  case trip =>
    obtain ⟨hmram, halive, hdrone, hsrc⟩ := s.chip.tripAnnounced_spec row unit value
    refine ⟨_, exec_limiterTrip htrip hpower unit value, rfl, rfl, rfl, halive, ?_, ?_, hsrc, rfl, rfl⟩
    · exact congrArg (fun m : Mram => m.tripCount + 1) hmram
    · exact congrArg Drone.now hdrone
  case holdEnd =>
    have hexec : exec .tripHoldEnd s = .next (s.inReset true) := congrArg Host.Outcome.next (if_pos hhold)
    refine ⟨_, hexec, rfl, rfl, fun htripped => ?_, rfl, s.chip.inReset_run true⟩
    have hlim : s.chip.keyrot.limiter.state = .tripped := by simpa using htripped
    exact if_pos hlim
  case supply =>
    obtain ⟨hmram, -, hsrc⟩ := s.chip.announce_spec 5
    obtain ⟨hholdup, hpg, halive, hcount, hpower, hintc⟩ :=
      ((((s.chip.announce 5).supplyRec cause vin).hbCommitAll.raise 7)).onHoldup_pins
    refine ⟨_, exec_supplyFault hrun cause vin, hpower.trans ?_, hholdup, hpg, halive, hcount.trans ?_, State.on_mem .., fun hidle => ?_,
      State.on_pending ..⟩
    · simp
    · simp [Chip.supplyRec_mram, hmram]
    · rw [State.on_chip, hintc]
      refine Intc.edge_of_idle (n := 7) ?_ _
      simpa using (hsrc 7 (by decide)).trans hidle
  case regulation =>
    obtain ⟨hgood, hbad⟩ := exec_supplyLeavesRegulation_holdup hholdup
    exact ⟨hgood, _, hbad, rfl, rfl, rfl, rfl⟩
  case rise =>
    have hgo : s.chip.mayPower vin low = true := by
      rcases hmay with hoff | ⟨hlocked, htop, hlow⟩
      · simp [Chip.mayPower, hvin, hoff]
      · simp [Chip.mayPower, hvin, hlocked, htop, hlow]
    refine ⟨_, exec_pwrEnRise_of_may hgo slot, rfl, ?_, rfl, rfl, ?_, rfl, rfl⟩ <;> simp [State.inReset, Chip.inReset]
  case low =>
    have hstay : s.chip.mayPower vin low = false := by simp [Chip.mayPower, Nat.not_le.mpr hvin]
    exact exec_pwrEnRise_of_not hstay slot
  case fall =>
    refine ⟨_, exec_pwrEnFall hrun, rfl, ?_, rfl, rfl, Chip.hbLose_queue _, rfl⟩
    simp [Chip.hubOff, Pins.released]
  case assert => exact ⟨_, exec_rstNAssert hus hrst hpg hrun, rfl, rfl, rfl, rfl, rfl⟩
  case release =>
    obtain ⟨hpower, halive, hrst, -, hstate⟩ := Chip.outOfReset_spec { s.chip with pins := { s.chip.pins with rstN := true } } mj
    exact ⟨_, exec_rstNRelease hreset mj, hpower, hrst, halive, hstate, rfl, rfl⟩

/-- Settles O44: the start by the states of R294, a reset by what every reset loses and what precedes it, its end by the
configuration records. -/
theorem startsAndResetsRun : Obligations.StartsAndResetsRun := by
  unfold Obligations.StartsAndResetsRun
  intro s
  refine ⟨fun img blk hrun hrecords hstate => ?load, fun v img blk h => exec_loadGo_ignored h img blk, fun i himg hrun hstate => ?image,
    fun bad hrun hstate => ?selftest, fun mj hreset => ⟨fun hrst => exec_moduleResetComplete_waits hrst mj, fun hrst => ?ends⟩,
    fun hrun c hc => ?reset, fun v h => exec_modreset_ignored h⟩
  case load =>
    have hkept : ∀ c' : Chip, c' = (Chip.setBoot { s.chip with boot := { s.chip.boot with img := some img } } .verify 0).bootRec →
        c'.boot.state = .verify ∧ c'.boot.img = some img ∧ c'.boot.status = 0 ∧ c'.mram = s.chip.mram ∧
          c'.drone = s.chip.drone ∧ c'.tenants = s.chip.tenants := by
      rintro c' rfl
      simp [Chip.bootRec, Chip.hbForm_critical]
    obtain ⟨hverify, himg, hstatus, hmram, hdrone, htenants⟩ := hkept _ rfl
    obtain ⟨hbstate, hbimg, hbstatus, hregion, hblock⟩ := Chip.startBlock_spec
      (Chip.setBoot { s.chip with boot := { s.chip.boot with img := some img } } .verify 0).bootRec blk
    rw [hmram, hdrone] at hblock
    exact ⟨_, exec_loadGo hrun hrecords hstate img blk, hbstate.trans hverify, hbimg.trans himg, hbstatus.trans hstatus, hblock,
      hregion.trans (congrArg Mram.hostRegion hmram), rfl, rfl, by simp⟩
  case image =>
    have hraised := fun hidle => Intc.edge_of_idle (i := s.chip.intc) (n := 13) hidle s.chip.drone.now
    by_cases hjudge : s.chip.judgeImage i = 0
    · obtain ⟨hselftest, hrel, hdig, hcount, hintc⟩ := s.chip.verified_spec i
      refine ⟨_, exec_imageVerifyComplete_taken himg hrun hstate hjudge, rfl, rfl, fun hidle => ?_, fun hsigned => ?_,
        fun hdigest hrsa hslh hmisfit => ?_, fun _ _ _ _ _ => ⟨hselftest, hrel, hdig, hcount⟩⟩
      · simp only [State.on_chip, hintc]
        exact hraised hidle
      · exact absurd ((s.chip.judgeImage_unsigned hsigned).symm.trans hjudge) (by decide)
      · exact absurd ((Chip.judgeImage_misfit hdigest hrsa hslh hmisfit).symm.trans hjudge) (by decide)
    · refine ⟨_, exec_imageVerifyComplete_refused himg hrun hstate hjudge, rfl, rfl, fun hidle => ?_, fun hsigned => ?_,
        fun hdigest hrsa hslh hmisfit => ?_, fun hdigest hrsa hslh hgen hlen => ?_⟩
      · simpa using hraised hidle
      · simp [Chip.judgeImage_unsigned _ hsigned, Chip.bootFail_mram]
      · simp [Chip.judgeImage_misfit hdigest hrsa hslh hmisfit, Chip.bootFail_mram]
      · exact absurd (Chip.judgeImage_fits hdigest hrsa hslh hgen hlen) hjudge
  case selftest =>
    refine ⟨_, exec_selftestComplete hrun hstate bad, Chip.setBoot_boot .., rfl, rfl, fun t => ?_⟩
    simp
  case ends =>
    obtain ⟨hpower, halive, -, hmj, hboot⟩ := s.chip.outOfReset_spec mj
    exact ⟨_, exec_moduleResetComplete hreset hrst mj, hpower, halive, hmj, hboot, rfl, rfl⟩
  case reset =>
    obtain ⟨cause, hexec⟩ : ∃ cause, exec c s = .next (s.beginReset cause false) := by
      obtain ⟨hmodreset, hflr⟩ := exec_reset hrun
      rcases hc with rfl | rfl
      · exact ⟨2, hmodreset⟩
      · exact ⟨3, hflr⟩
    obtain ⟨hpower, halive, htenants, hvfn, hpfn, hbound, hjobs, hfree, hdriver, htiles, hkgen⟩ :=
      (s.chip.announce cause).inReset_volatile false
    obtain ⟨hpending, hregion, hhost, hrecord⟩ := s.beginReset_spec cause
    exact ⟨_, hexec, hpower, halive, hpending, htenants, hvfn, hpfn, hbound, hjobs, hfree, hdriver, htiles, hkgen, hregion, hhost,
      fun _ => hrecord⟩
end

section
/-! Rings: what the host's registers do to them (R297-R299, R303), when Chanter takes a head entry (R299, R302, R303), and how
device entries are written (R302, R304). -/

namespace Sys2Proof.Machine

/-! ### A ring of a function -/

theorem Chip.modRing_func (c : Chip) (f : Fn) (r : Fin 12) (g : Ring → Ring) :
    (c.modRing f r g).func f = { c.func f with rings := vecMod (c.func f).rings r g } := by
  simp [Chip.modRing]

theorem Chip.recheck_func (c : Chip) (f g : Fn) : (c.recheck f).func g = c.func g := by
  cases g <;> simp [Chip.func]

theorem Ring.pump_of_empty (r : Ring) (h : r.owed = []) : r.pump r.owed = (r, []) := by
  rw [h, Ring.pump, ← h]

/-- A ring that owes nothing is left as it is. -/
theorem Chip.pumpRing_func_of_empty {c : Chip} {f : Fn} {r : Fin 12} (h : (c.func f).rings[r].owed = []) :
    (c.pumpRing f r).func f = c.func f := by
  have hset : (c.func f).rings.set r.val (c.func f).rings[r.val] = (c.func f).rings := Vector.set_getElem_self _
  cases hopen : c.ringOpen f r with
  | false => simp [Chip.pumpRing, hopen]
  | true =>
    simp only [Chip.pumpRing, hopen, if_true, Ring.pump_of_empty _ h]
    split <;> cases f <;> simp_all [Chip.func, Chip.modFunc]

/-! ### Doorbells and consumer counts (R299, R303) -/

/-- The source that a doorbell of a function raises (R312). -/
def doorbellSource : Fn → Fin 128
  | .pf => 72
  | .vf t => Fin.ofNat 128 (16 + t.val)

theorem doorbellSource_val (f : Fn) : (doorbellSource f).val = (match f with
    | .pf => 72
    | .vf t => 16 + t.val) := by
  cases f with
  | pf => rfl
  | vf t => exact Nat.mod_eq_of_lt (by omega)

theorem exec_commandDoorbell {s : State} (hup : s.chip.up = true) {f : Fn} {k : Fin 8} (hring : ringOf f k.val = true) (prod : W32)
    (e : Entry) : exec (.commandDoorbell f k prod [e]) s = .next { s with chip :=
      (s.chip.modRing f (k.castLE (by decide)) fun r => { r with
        slots := spSet 0 (r.prod.toNat % 2 ^ r.log2.toNat) e r.slots, prod := prod }).raise (doorbellSource f) } := by
  simp only [exec, execCommandDoorbell, State.on, hup, hring, and_self, if_true]
  cases f <;> rfl

theorem exec_consumerCountWrite {s : State} (hup : s.chip.up = true) {f : Fn} {j : Fin 12} (hj : 8 ≤ j.val)
    (hring : ringOf f j.val = true) (count : W32) : exec (.consumerCountWrite f j count) s =
      .next { s with chip := ((s.chip.modRing f j fun r => r.consume count).pumpRing f j).recheck f } := by
  simp only [exec, execConsumerCountWrite, State.on, hup, hring, hj, and_self, if_true]

theorem Ring.consume_owed (r : Ring) (count : W32) : (r.consume count).owed = r.owed := by
  unfold Ring.consume
  dsimp only
  split <;> rfl

theorem Ring.consume_of_behind {r : Ring} {count : W32} (h : (r.prod - count).toNat ≤ 2 ^ r.log2.toNat) : r.consume count =
    { r with cons := count, out := r.out.filter fun x => decide ((r.prod - x.1).toNat < (r.prod - count).toNat) } := by
  simp only [Ring.consume, h, if_true]

/-- The function whose consumer count was written, where its ring owes nothing. -/
theorem Chip.consumed_func {c : Chip} {f : Fn} {j : Fin 12} (howed : (c.func f).rings[j].owed = []) (count : W32) :
    (((c.modRing f j fun r => r.consume count).pumpRing f j).recheck f).func f =
      { c.func f with rings := vecMod (c.func f).rings j fun r => r.consume count } := by
  rw [Chip.recheck_func, Chip.pumpRing_func_of_empty, Chip.modRing_func]
  rw [Chip.modRing_func]
  simpa [Ring.consume_owed] using howed

/-! ### Ring set-up (R297-R299) -/

/-- A function whose ring is configured, with FEAT_AGREED computed where a ring is enabled first. -/
def Chip.configured (c : Chip) (f : Fn) (i : Fin 12) (base : Option W64) (log2 : Option Byte) (enable : Option Bool) : Chip :=
  (c.modRing f i fun r => r.config (decide (c.boot.state = .ready)) base log2 enable).modFunc f fun x => x.agree
    (c.modRing f i fun r => r.config (decide (c.boot.state = .ready)) base log2 enable).featDev

theorem exec_ringConfigWrite {s : State} (hup : s.chip.up = true) {f : Fn} {i : Fin 12} (hring : ringOf f i.val = true)
    (base : Option W64) (log2 : Option Byte) (enable : Option Bool) :
    exec (.ringConfigWrite f i base log2 enable) s = .next (s.on fun c =>
      if 8 ≤ i.val then ((c.configured f i base log2 enable).pumpRing f i).recheck f
      else c.configured f i base log2 enable) := by
  simp only [exec, execRingConfigWrite, State.on, hup, hring, and_self, if_true]
  rfl

theorem Func.agree_rings (x : Func) (dev : BitVec 256) : (x.agree dev).rings = x.rings := by
  unfold Func.agree
  split <;> rfl

theorem Func.agree_featAgreed {x : Func} {i : Fin 12} (h : x.rings[i].enable = true) (dev : BitVec 256) :
    (x.agree dev).featAgreed.isSome = true := by
  have hany : (x.rings.toList.any Ring.enable) = true :=
    List.any_eq_true.mpr ⟨x.rings[i], by simp [Vector.toList], h⟩
  unfold Func.agree
  cases hfeat : x.featAgreed <;> simp [hfeat, hany]

theorem Ring.config_owed (r : Ring) (may : Bool) (base : Option W64) (log2 : Option Byte) (enable : Option Bool) :
    (r.config may base log2 enable).owed = r.owed := rfl

theorem Chip.configured_rings (c : Chip) (f : Fn) (i : Fin 12) (base : Option W64) (log2 : Option Byte) (enable : Option Bool) :
    ((c.configured f i base log2 enable).func f).rings =
      vecMod (c.func f).rings i fun r => r.config (decide (c.boot.state = .ready)) base log2 enable := by
  simp [Chip.configured, Func.agree_rings, Chip.modRing_func]

section
variable {s : State} (hup : s.chip.up = true) {f : Fn} {i : Fin 12} (hring : ringOf f i.val = true)
  (howed : (s.chip.func f).rings[i].owed = [])
include hup hring howed

/-- What a write of a ring's configuration leaves, where the ring owes nothing. -/
theorem exec_ringConfigWrite_func (base : Option W64) (log2 : Option Byte) (enable : Option Bool) :
    ∃ u, exec (.ringConfigWrite f i base log2 enable) s = .next u ∧
      u.chip.func f = (s.chip.configured f i base log2 enable).func f ∧
      (u.chip.func f).rings[i] = (s.chip.func f).rings[i].config (decide (s.chip.boot.state = .ready)) base log2 enable ∧
      u.mem = s.mem ∧ u.pending = s.pending ∧ u.chip.tenants = s.chip.tenants := by
  have hempty : ((s.chip.configured f i base log2 enable).func f).rings[i].owed = [] := by
    simpa [Chip.configured_rings, Ring.config_owed] using howed
  have hfunc : (if 8 ≤ i.val then ((s.chip.configured f i base log2 enable).pumpRing f i).recheck f
      else s.chip.configured f i base log2 enable).func f = (s.chip.configured f i base log2 enable).func f := by
    split
    · rw [Chip.recheck_func, Chip.pumpRing_func_of_empty hempty]
    · rfl
  refine ⟨_, exec_ringConfigWrite hup hring base log2 enable, hfunc, ?_, rfl, rfl, ?_⟩
  · dsimp only [State.on]
    rw [hfunc, Chip.configured_rings]
    simp
  · dsimp only [State.on]
    split <;> simp [Chip.configured]

end

theorem Ring.config_of_enabled {r : Ring} (h : r.enable = true) (may : Bool) (base : Option W64) (log2 : Option Byte) :
    r.config may base log2 none = r := by
  obtain ⟨_, _, en, _, _, _, _, _, _⟩ := r
  cases base <;> cases log2 <;> simp_all [Ring.config]

theorem Ring.config_of_sized {r : Ring} (h : r.enable = false) {n : Byte} (hlo : 6 ≤ n.toNat) (hhi : n.toNat ≤ 16) (base : W64) :
    r.config true (some base) (some n) (some true) = { r with base := base &&& ~~~0x3F, log2 := n, enable := true } := by
  simp [Ring.config, h, hlo, hhi]

theorem Ring.config_of_small {r : Ring} (h : r.enable = false) {n : Byte} (hn : n.toNat < 6) (hr : r.log2.toNat < 6) (may : Bool)
    (base : Option W64) : (r.config may base (some n) (some true)).enable = false := by
  have hn' : ¬ 6 ≤ n.toNat := by omega
  have hr' : ¬ 6 ≤ r.log2.toNat := by omega
  simp [Ring.config, h, hn', hr']

/-! ### Plain registers (R297, R298, R315) -/

theorem exec_featDrv {s : State} (hup : s.chip.up = true) (f : Fn) (v : BitVec 256) :
    exec (.registerWrite (.featDrv f) v) s =
      .next (s.on fun c => c.modFunc f fun x => if x.rings.toList.any Ring.enable then x else { x with featDrv := v }) := by
  simp only [exec, execRegisterWrite, State.on, hup, if_true]

theorem exec_cpri {s : State} (hup : s.chip.up = true) (k : Fin 6) (v : BitVec 256) :
    exec (.registerWrite (.cpri k) v) s = .next { s with chip := { s.chip with intc := { s.chip.intc with
      cores := vecMod s.chip.intc.cores k fun b => { b with cpri := v.setWidth 8 } } } } := by
  simp only [exec, execRegisterWrite, State.on, hup, if_true]

theorem exec_enable {s : State} (hup : s.chip.up = true) (k : Fin 6) (v : BitVec 256) :
    exec (.registerWrite (.enable k) v) s = .next { s with chip := { s.chip with intc := { s.chip.intc with
      cores := vecMod s.chip.intc.cores k fun b => { b with enable := v.setWidth 128 } } } } := by
  simp only [exec, execRegisterWrite, State.on, hup, if_true]

theorem any_enable_iff (x : Func) : x.rings.toList.any Ring.enable = true ↔ ∃ i : Fin 12, x.rings[i].enable = true := by
  rw [List.any_eq_true]
  constructor
  · rintro ⟨r, hr, hen⟩
    obtain ⟨i, hi, rfl⟩ := Vector.getElem_of_mem (Vector.mem_toList_iff.mp hr)
    exact ⟨⟨i, hi⟩, hen⟩
  · rintro ⟨i, hen⟩
    exact ⟨x.rings[i], Vector.mem_toList_iff.mpr (Vector.getElem_mem i.isLt), hen⟩

end Sys2Proof.Machine

open Sys2Proof.Machine

/-- Settles O43: a doorbell and a consumer count change the one ring they name, and pumping it writes nothing where it owes
nothing; a configuration acts on a disabled ring alone; a plain register takes what is written. -/
theorem ringRegistersActOnRings : Obligations.RingRegistersActOnRings := by
  intro s hpower
  have hup := Chip.up_of_running hpower
  refine ⟨fun f k prod e => ⟨fun hring => ?_, fun hring => ?_⟩, fun f j count hj hring howed hbehind => ?_,
    fun f i base n hready hring => ?_, fun v => ⟨?_, ?_, ?_, fun off => ?_, fun f => ?_, fun k => ⟨?_, ?_⟩⟩⟩
  · simp only [exec, execCommandDoorbell, State.on, hring, Bool.false_eq_true, and_false, if_false]
  · refine ⟨_, exec_commandDoorbell hup hring prod e, ?_, fun i hi => ?_, ?_, fun n hn hidle => ?_, rfl, rfl, ?_, fun j hj => ?_⟩
    · simp only [Chip.raise_func, Chip.modRing_func, Fin.getElem_fin, vecMod_same]
      exact spGet_spSet_same
    · simp only [Chip.raise_func, Chip.modRing_func, Fin.getElem_fin, vecMod_same]
      exact spGet_spSet_ne hi
    · simp only [Chip.raise_func, Chip.modRing_func, Fin.getElem_fin, vecMod_same]
    · obtain rfl : n = doorbellSource f := Fin.ext (hn.trans (doorbellSource_val f).symm)
      simpa [Chip.raise] using Intc.edge_of_idle hidle s.chip.drone.now
    · simp
    · simp only [Chip.raise_func, Chip.modRing_func, Fin.getElem_fin]
      exact vecMod_ne _ _ hj
  · have hfunc := Chip.consumed_func howed count
    refine ⟨_, exec_consumerCountWrite hup hj hring count, ?_, rfl, rfl, by simp, fun i hi => ?_⟩
    · dsimp only
      rw [hfunc]
      simpa using Ring.consume_of_behind hbehind
    · dsimp only
      rw [hfunc]
      exact vecMod_ne _ _ hi
  · intro r howed
    refine ⟨fun hoff hlo hhi => ?_, fun hoff hn hr => ?_, fun hon => ?_⟩
    · obtain ⟨u, hu, hfunc, hr', hmem, hpend, hten⟩ := exec_ringConfigWrite_func hup hring howed (some base) (some n) (some true)
      rw [decide_eq_true hready, Ring.config_of_sized hoff hlo hhi] at hr'
      refine ⟨u, hu, hr', ?_, hmem, hpend, hten⟩
      have hen : (u.chip.func f).rings[i].enable = true := by rw [hr']
      rw [hfunc, Chip.configured, Chip.modFunc_func]
      refine Func.agree_featAgreed (i := i) ?_ _
      rw [hfunc, Chip.configured, Chip.modFunc_func, Func.agree_rings] at hen
      exact hen
    · obtain ⟨u, hu, -, hr', -⟩ := exec_ringConfigWrite_func hup hring howed none (some n) (some true)
      exact ⟨u, hu, hr' ▸ Ring.config_of_small hoff hn hr _ _⟩
    · obtain ⟨u, hu, -, hr', -⟩ := exec_ringConfigWrite_func hup hring howed (some base) (some n) none
      exact ⟨u, hu, hr'.trans (Ring.config_of_enabled hon _ _ _)⟩
  · simp only [exec, execRegisterWrite, State.on, hup, if_true]
  · simp only [exec, execRegisterWrite, State.on, hup, if_true]
  · simp only [exec, execRegisterWrite, State.on, hup, if_true]
  · simp only [exec, execRegisterWrite, State.on, hup, if_true]
  · refine ⟨_, exec_featDrv hup f v, fun hall => ?_, fun hany => ?_, rfl, rfl, by simp⟩
    · have hnone : ¬ ((s.chip.func f).rings.toList.any Ring.enable) = true :=
        fun h => by obtain ⟨i, hi⟩ := (any_enable_iff _).mp h; exact Bool.false_ne_true ((hall i).symm.trans hi)
      exact (Chip.modFunc_func ..).trans (if_neg hnone)
    · exact (Chip.modFunc_func ..).trans (if_pos ((any_enable_iff _).mpr hany))
  · exact ⟨_, exec_cpri hup k v, by simp, rfl, fun j hj => vecMod_ne _ _ hj⟩
  · exact ⟨_, exec_enable hup k v, by simp, rfl, fun j hj => vecMod_ne _ _ hj⟩

end

section
/-! Chanter's scan of the command rings (R303), the taking of a head entry (R299, R302), and the writing of completions and
events (R302, R304). -/

namespace Sys2Proof.Machine

/-! ### Places of the scan (R303) -/

theorem ringKey_vf (t : Fin 16) (k : Fin 8) : ringKey (.vf t) k = 1 + 8 * t.val + k.val := rfl

theorem ringKey_vf_lt (t : Fin 16) (k : Fin 8) : ringKey (.vf t) k < 129 := by
  rw [ringKey_vf]
  omega

theorem ringAt_zero : ringAt 0 = (.pf, 0) := rfl

theorem ringAt_ringKey (t : Fin 16) (k : Fin 8) : ringAt (ringKey (.vf t) k) = (.vf t, k) := by
  have hne : ringKey (.vf t) k ≠ 0 := by rw [ringKey_vf]; omega
  have hdiv : (ringKey (.vf t) k - 1) / 8 = t.val := by rw [ringKey_vf]; omega
  have hmod : (ringKey (.vf t) k - 1) % 8 = k.val := by rw [ringKey_vf]; omega
  simp [ringAt, hne, hdiv, hmod]

/-- A place other than the PF's is that of a VF's ring. -/
theorem exists_ringKey {n : Nat} (hn : n < 129) (h0 : n ≠ 0) : ∃ t k, n = ringKey (.vf t) k :=
  ⟨⟨(n - 1) / 8, by omega⟩, ⟨(n - 1) % 8, by omega⟩, by rw [ringKey_vf]; dsimp only; omega⟩

theorem ringKey_vf_inj {t u : Fin 16} {k j : Fin 8} (h : ringKey (.vf u) j = ringKey (.vf t) k) : (u, j) = (t, k) := by
  have heq := congrArg ringAt h
  rw [ringAt_ringKey, ringAt_ringKey] at heq
  simpa using heq

/-! ### Whose turn it is (R303) -/

/-- The place of the scan is that of a ring from which an entry can be taken. -/
def Chip.readyAt (c : Chip) (n : Nat) : Bool := c.ringReady (ringAt n).1 (ringAt n).2

theorem Chip.readyAt_ringKey (c : Chip) (t : Fin 16) (k : Fin 8) : c.readyAt (ringKey (.vf t) k) = c.ringReady (.vf t) k := by
  rw [Chip.readyAt, ringAt_ringKey]

theorem Chip.nextRing_eq (c : Chip) :
    c.nextRing = ((List.range 129).map fun i => (c.scan.at_.val + 1 + i) % 129).find? c.readyAt := rfl

theorem Chip.nextRing_some {c : Chip} {n : Nat} (h : c.nextRing = some n) : n < 129 ∧ c.readyAt n = true := by
  rw [Chip.nextRing_eq] at h
  refine ⟨?_, by simpa using List.find?_some h⟩
  obtain ⟨i, -, rfl⟩ := List.mem_map.mp (List.mem_of_find?_eq_some h)
  exact Nat.mod_lt _ (by decide)

/-- The scan's order has every place. -/
theorem Chip.nextRing_isSome {c : Chip} {n : Nat} (hn : n < 129) (hready : c.readyAt n = true) : c.nextRing.isSome = true := by
  rw [Chip.nextRing_eq, List.find?_isSome]
  have hat := c.scan.at_.isLt
  refine ⟨n, List.mem_map.mpr ⟨(n + 129 * 2 - c.scan.at_.val - 1) % 129, List.mem_range.mpr (Nat.mod_lt _ (by decide)), ?_⟩, hready⟩
  omega

theorem Chip.readyAt_unique {c : Chip} {t : Fin 16} {k : Fin 8} (hpf : c.ringReady .pf 0 = false)
    (hvf : ∀ u j, (u, j) ≠ (t, k) → c.ringReady (.vf u) j = false) {n : Nat} (hn : n < 129) (h : c.readyAt n = true) :
    n = ringKey (.vf t) k := by
  by_cases h0 : n = 0
  · rw [h0, Chip.readyAt, ringAt_zero, hpf] at h
    exact absurd h Bool.false_ne_true
  · obtain ⟨u, j, rfl⟩ := exists_ringKey hn h0
    rw [Chip.readyAt_ringKey] at h
    by_contra hne
    rw [hvf u j fun e => hne (by cases e; rfl)] at h
    exact absurd h Bool.false_ne_true

theorem Chip.scanTurn_of_begun {c : Chip} {f : Fn} {k : Fin 8} (hleft : c.scan.left ≠ 0) (hready : c.readyAt c.scan.at_.val = true) :
    c.scanTurn f k = if c.scan.at_.val = ringKey f k then some { c.scan with left := c.scan.left - 1 } else none :=
  if_pos ⟨hleft, hready⟩

theorem Chip.scanTurn_of_next {c : Chip} {f : Fn} {k : Fin 8} (h : ¬ (c.scan.left ≠ 0 ∧ c.readyAt c.scan.at_.val = true)) :
    c.scanTurn f k = if c.nextRing = some (ringKey f k) then
      some { at_ := Fin.ofNat 129 (ringKey f k)
             left := Fin.ofNat 64 (min 64 ((c.func f).rings[(k.castLE (by decide) : Fin 12)].prod -
               (c.func f).rings[(k.castLE (by decide) : Fin 12)].cons).toNat - 1) } else none :=
  if_neg h

/-- The only ring that has an entry to take has its turn. -/
theorem Chip.scanTurn_of_only {c : Chip} {t : Fin 16} {k : Fin 8} (hready : c.ringReady (.vf t) k = true)
    (hpf : c.ringReady .pf 0 = false) (hvf : ∀ u j, (u, j) ≠ (t, k) → c.ringReady (.vf u) j = false) :
    (c.scanTurn (.vf t) k).isSome = true := by
  have honly := fun n hn h => Chip.readyAt_unique hpf hvf (n := n) hn h
  by_cases hcur : c.scan.left ≠ 0 ∧ c.readyAt c.scan.at_.val = true
  · rw [Chip.scanTurn_of_begun hcur.1 hcur.2, if_pos (honly _ c.scan.at_.isLt hcur.2)]
    rfl
  · obtain ⟨n, hn⟩ := Option.isSome_iff_exists.mp
      (Chip.nextRing_isSome (ringKey_vf_lt t k) ((c.readyAt_ringKey t k).trans hready))
    rw [Chip.scanTurn_of_next hcur, if_pos (hn.trans (congrArg some (honly n (Chip.nextRing_some hn).1 (Chip.nextRing_some hn).2)))]
    rfl

theorem Chip.covered_of_ready {c : Chip} {f : Fn} {k : Fin 8} (h : c.ringReady f k = true) :
    1 ≤ ((c.func f).rings[(k.castLE (by decide) : Fin 12)].prod - (c.func f).rings[(k.castLE (by decide) : Fin 12)].cons).toNat := by
  have hcov : (c.func f).rings[(k.castLE (by decide) : Fin 12)].covered = true := by
    simp only [Chip.ringReady, Bool.and_eq_true] at h
    exact h.1.1.2
  have hne : (c.func f).rings[(k.castLE (by decide) : Fin 12)].prod ≠ (c.func f).rings[(k.castLE (by decide) : Fin 12)].cons :=
    bne_iff_ne.mp hcov
  bv_omega

/-! ### Taking the head entry (R299, R302) -/

theorem Chip.take_isSome {c : Chip} {f : Fn} {k : Fin 8} {n : Nat} : (c.take f k n).isSome = true ↔
    (c.scanTurn f k).isSome = true ∧ c.power = .running ∧ c.boot.state = .ready ∧
      (c.func f).rings[(k.castLE (by decide) : Fin 12)].enable = true ∧
      (c.func f).rings[(k.castLE (by decide) : Fin 12)].covered = true ∧ c.compRoom f n = true ∧ c.ringHeld f k = false := by
  unfold Chip.take
  cases c.scanTurn f k with
  | none => simp
  | some sc =>
    dsimp only
    split
    · simp_all
    · simp_all

theorem Chip.func_scan (c : Chip) (x : Scan) (f : Fn) : Chip.func { c with scan := x } f = c.func f := by
  cases f <;> rfl

/-- What the taking of an entry leaves. -/
theorem Chip.take_some {c c' : Chip} {f : Fn} {k : Fin 8} {n : Nat} {e : Entry} {src : CmdSrc} (h : c.take f k n = some (e, src, c')) :
    ∃ sc, c.scanTurn f k = some sc ∧ e = (c.func f).rings[(k.castLE (by decide) : Fin 12)].head ∧ src = cmdSrc f k e ∧
      c' = { c with scan := sc }.modFunc f fun fn => { fn with
        rings := fn.rings.set k.val { (c.func f).rings[(k.castLE (by decide) : Fin 12)] with
          cons := (c.func f).rings[(k.castLE (by decide) : Fin 12)].cons + 1 }
        owes := fn.owes + n } := by
  unfold Chip.take at h
  cases hturn : c.scanTurn f k with
  | none => simp [hturn] at h
  | some sc =>
    simp only [hturn] at h
    split at h
    · simp only [Option.some.injEq, Prod.mk.injEq] at h
      obtain ⟨rfl, rfl, rfl⟩ := h
      exact ⟨sc, rfl, rfl, rfl, rfl⟩
    · exact absurd h (by simp)

/-! ### Device entries (R302, R304) -/

/-- An entry posted to an open ring that owes nothing and has room for it is written at once. -/
theorem Ring.pump_of_room {r : Ring} {e : DevEntry} (h : e.size ≤ r.room) : r.pump [e] = ({ r.write e with owed := [] }, [e]) := by
  simp [Ring.pump, h]

/-- An event that finds the ring full is dropped and counted. -/
theorem Ring.pump_of_full {r : Ring} {e : EvEntry} (h : r.room = 0) :
    r.pump [.ev e] = ({ r with lost := r.lost + 1, owed := [] }, []) := by
  simp [Ring.pump, h, DevEntry.size, DevEntry.droppable]

theorem Chip.func_objs (c : Chip) (o : Objs) (f : Fn) : Chip.func { c with objs := o } f = c.func f := by
  cases f <;> rfl

/-- A function whose open ring is written as far as it goes. -/
theorem Chip.pumpRing_func {c : Chip} {f : Fn} {r : Fin 12} (hopen : c.ringOpen f r = true) {new : Ring} {w : List DevEntry}
    (hpump : (c.func f).rings[r].pump (c.func f).rings[r].owed = (new, w)) :
    (c.pumpRing f r).func f = { c.func f with
      rings := (c.func f).rings.set r new
      owes := if r = 8 then (c.func f).owes - (w.map DevEntry.size).sum else (c.func f).owes
      msix := (w.filterMap (DevEntry.vector (r = 10))).reverse ++ (c.func f).msix } := by
  simp only [Chip.pumpRing, if_pos hopen, hpump]
  split
  · rw [Chip.func_objs, Chip.modFunc_func]
  · rw [Chip.modFunc_func]

theorem Chip.post_func {c : Chip} {f : Fn} {r : Fin 12} {e : DevEntry} (hopen : c.ringOpen f r = true)
    (howed : (c.func f).rings[r].owed = []) {new : Ring} {w : List DevEntry}
    (hpump : { (c.func f).rings[r] with owed := [e] }.pump [e] = (new, w)) :
    (c.post f r e).func f = { c.func f with
      rings := (c.func f).rings.set r new
      owes := if r = 8 then (c.func f).owes - (w.map DevEntry.size).sum else (c.func f).owes
      msix := (w.filterMap (DevEntry.vector (r = 10))).reverse ++ (c.func f).msix } := by
  have hfunc : (c.modRing f r fun x => { x with owed := x.owed ++ [e] }).func f =
      { c.func f with rings := vecMod (c.func f).rings r fun x => { x with owed := x.owed ++ [e] } } := Chip.modRing_func ..
  have hopen' : (c.modRing f r fun x => { x with owed := x.owed ++ [e] }).ringOpen f r = true := by
    simp only [Chip.ringOpen, hfunc, Fin.getElem_fin, vecMod_same] at hopen ⊢
    simpa using hopen
  have hring : ((c.modRing f r fun x => { x with owed := x.owed ++ [e] }).func f).rings[r] =
      { (c.func f).rings[r] with owed := [e] } := by
    simp only [Fin.getElem_fin] at howed ⊢
    rw [hfunc]
    simp [howed]
  rw [Chip.post, Chip.pumpRing_func hopen' (new := new) (w := w) (by rw [hring]; exact hpump), hfunc]
  simp [vecMod]

end Sys2Proof.Machine

open Sys2Proof.Machine

/-- Settles O28: the scan finds every place from which an entry can be taken, so the only ready ring has its turn, and a turn
that has begun goes on; what is posted to an open ring is written at once where there is room, and an event dropped where there
is none. -/
theorem ringsGiveAndTake : Obligations.RingsGiveAndTake := by
  refine ⟨fun c t k n => ?_, fun c t k hready => ⟨Chip.scanTurn_of_only hready, fun hleft hat => ?_⟩, fun c t k x hx => ?_,
    fun c c' f k n e src h => ?_, fun c src st plan v0 v1 hopen howed hroom => ?_, fun c f e hopen howed hroom => ?_⟩
  · intro r
    rw [Chip.take_isSome]
    have hcov : r.covered = true ↔ r.prod ≠ r.cons := bne_iff_ne
    have hheld : c.ringHeld (.vf t) k = false ↔ c.tenants[t].fstate ≠ .paused := decide_eq_false_iff_not
    have hcomp : c.compRoom (.vf t) n = true ↔ (c.func (.vf t)).owes + n ≤ (c.func (.vf t)).rings[8].room := decide_eq_true_iff
    rw [← hcov, ← hheld, ← hcomp]
    tauto
  · have hcur : c.readyAt c.scan.at_.val = true := by rw [hat, ← ringKey_vf, Chip.readyAt_ringKey, hready]
    rw [← ringKey_vf] at hat
    refine ⟨(Chip.scanTurn_of_begun hleft hcur).trans (if_pos hat), (Chip.scanTurn_of_begun hleft hcur).trans (if_neg ?_),
      fun u j hne => (Chip.scanTurn_of_begun hleft hcur).trans (if_neg fun h => hne (ringKey_vf_inj (h.symm.trans hat)))⟩
    rw [hat, ringKey_vf]
    exact fun h => absurd (show 1 + 8 * t.val + k.val = 0 from h) (by omega)
  · by_cases hcur : c.scan.left ≠ 0 ∧ c.readyAt c.scan.at_.val = true
    · rw [Chip.scanTurn_of_begun hcur.1 hcur.2] at hx
      split at hx
      · next hat =>
        obtain rfl := Option.some.inj hx
        exact ⟨hat, fun h0 => absurd h0 hcur.1⟩
      · exact absurd hx (by simp)
    · rw [Chip.scanTurn_of_next hcur] at hx
      split at hx
      · next hnext =>
        obtain rfl := Option.some.inj hx
        have hcov := Chip.covered_of_ready ((c.readyAt_ringKey t k).symm.trans (Chip.nextRing_some hnext).2)
        refine ⟨Nat.mod_eq_of_lt (ringKey_vf_lt t k), fun _ => ?_⟩
        simp only [Fin.ofNat]
        omega
      · exact absurd hx (by simp)
  · obtain ⟨sc, hturn, rfl, rfl, rfl⟩ := Chip.take_some h
    refine ⟨rfl, rfl, rfl, rfl, ?_, ?_, ?_, ?_, ?_, ?_⟩
    · simp [Chip.func_scan]
    · simp [Chip.func_scan]
    · simp
    · simp
    · simp
    · simp [hturn]
  · have hsize : (DevEntry.comp { stamp := c.drone.now, src := src, status := st, plan := plan, val0 := v0
                                  val1 := v1, report := none, token := none }).size = 1 := rfl
    rw [Chip.complete, Chip.post_func hopen howed (Ring.pump_of_room (by rw [hsize]; exact hroom))]
    cases hirq : src.irq <;> simp [Ring.write, Ring.stampLost, hsize, DevEntry.vector, hirq]
  · rw [Chip.event, Chip.post_func hopen howed (Ring.pump_of_full hroom)]
    simp [← howed]

end

section
/-! The driver's presence (R305-R308): what a plan that starts leaves of the tenants, what a pause pauses and an attachment
resumes; and the activation of a release (R309-R311). -/

namespace Sys2Proof.Machine

/-! ### What a plan that starts leaves of the tenants (R18, R205) -/

theorem Tenant.stage_copies {t t' : Tenant} {x : Plan} {a : Option W16 × W16} (h : t.stage x a = some t') :
    ∃ ks, t' = { t with copies := ks } := by
  unfold Tenant.stage at h
  split at h
  · cases h
  · split at h
    · split at h
      · cases h
      · exact ⟨_, (Option.some.inj h).symm⟩
    · obtain ⟨b, -, hb⟩ := Option.map_eq_some_iff.mp h
      exact ⟨_, hb.symm⟩

/-- Staging changes the copies of the plan's tenant alone. -/
theorem Chip.beginStaging_tenants (c : Chip) (x : Plan) :
    ∃ ks, (c.beginStaging x).1.tenants = vecMod c.tenants x.tenant fun t => { t with copies := ks } := by
  unfold Chip.beginStaging
  refine List.foldlRecOn (motive := fun y : Chip × _ => ∃ ks, y.1.tenants = vecMod c.tenants x.tenant fun t => { t with copies := ks })
    _ _ ⟨c.tenants[x.tenant].copies, (vecMod_self rfl).symm⟩ ?_
  rintro y ⟨ks, hy⟩ a _
  split
  · next t ht =>
    obtain ⟨ks', rfl⟩ := Tenant.stage_copies ht
    refine ⟨ks', ?_⟩
    have hmod : (y.1.modTenant x.tenant fun _ => { y.1.tenants[x.tenant] with copies := ks' }) =
        y.1.modTenant x.tenant fun t => { t with copies := ks' } := Chip.modTenant_congr rfl
    dsimp only
    rw [hmod, Chip.modTenant_tenants, hy, vecMod_vecMod]
  · exact ⟨ks, hy⟩

theorem Chip.beginStaging_driver (c : Chip) (x : Plan) : (c.beginStaging x).1.driver = c.driver := by
  unfold Chip.beginStaging
  refine List.foldlRecOn (motive := fun y : Chip × _ => y.1.driver = c.driver) _ _ rfl fun y hy a _ => ?_
  split
  · exact hy
  · exact hy

theorem Chip.setFState_tenants (c : Chip) (t : Fin 16) (st : FState) :
    (c.setFState t st).tenants = vecMod c.tenants t fun x => { x with fstate := st } := by
  unfold Chip.setFState
  split
  · next h => exact (vecMod_self (by simp [← h])).symm
  · simp

theorem Chip.unbind_tenants (c : Chip) (x : Plan) : (c.unbind x).tenants = c.tenants := by
  unfold Chip.unbind
  dsimp only
  split
  · simp
  · rfl

theorem Chip.unbind_driver (c : Chip) (x : Plan) : (c.unbind x).driver = c.driver := by
  unfold Chip.unbind
  dsimp only
  split
  · simp
  · rfl

/-- A plan that begins makes its tenant RUNNING and clears its fault; its staging changes the tenant's copies. -/
theorem Chip.begun_tenants (c : Chip) (q : Fin 4) (x : Plan) : ∃ ks, (c.begun q x).tenants =
    vecMod c.tenants x.tenant fun t => { t with copies := ks, faulted := none, fault := false, fstate := .running } := by
  obtain ⟨ks, hks⟩ := (c.unbind x).beginStaging_tenants x
  have hready : (c.readied x).tenants = vecMod c.tenants x.tenant fun t => { t with copies := ks } := by
    rw [← c.unbind_tenants x, ← hks]
    exact foldl_tenants (fun c e => by simp) _ _
  refine ⟨ks, ?_⟩
  simp only [Chip.begun, Chip.firstCommit_keeps, Chip.setFState_tenants, Chip.modTenant_tenants, Chip.useTiles_keeps,
    Chip.modPart_tenants, hready, vecMod_vecMod]

theorem Chip.begun_driver (c : Chip) (q : Fin 4) (x : Plan) : (c.begun q x).driver = c.driver := by
  have hready : (c.readied x).driver = c.driver :=
    (foldl_driver (fun c e => by simp) _ _).trans (((c.unbind x).beginStaging_driver x).trans (c.unbind_driver x))
  simp [Chip.begun, hready]

theorem State.sendTransfers_tenants (s : State) (x : Plan) : (s.sendTransfers x).chip.tenants = s.chip.tenants := by
  unfold State.sendTransfers
  refine List.foldlRecOn (motive := fun u : State => u.chip.tenants = s.chip.tenants) _ _ rfl fun u hu y _ => ?_
  split
  · exact hu
  · split
    · simpa using hu
    · exact hu

theorem State.sendTransfers_driver (s : State) (x : Plan) : (s.sendTransfers x).chip.driver = s.chip.driver := by
  unfold State.sendTransfers
  refine List.foldlRecOn (motive := fun u : State => u.chip.driver = s.chip.driver) _ _ rfl fun u hu y _ => ?_
  split
  · exact hu
  · split
    · simpa using hu
    · exact hu

theorem State.startWaiting_driver (s : State) (p : Fin 4) : (s.startWaiting p).chip.driver = s.chip.driver := by
  cases h : s.chip.mayStart p with
  | none => rw [State.startWaiting_of_not_mayStart h]
  | some y =>
    rw [State.startWaiting_of_mayStart h, State.sendTransfers_driver, State.on_chip, Chip.complete_driver, Chip.begun_driver]

/-- What a plan that starts leaves of the tenants. -/
theorem State.startWaiting_tenants {s : State} {p : Fin 4} {x : Plan} {src : CmdSrc} (h : s.chip.mayStart p = some (x, src)) :
    ∃ ks, (s.startWaiting p).chip.tenants =
      vecMod s.chip.tenants x.tenant fun t => { t with copies := ks, faulted := none, fault := false, fstate := .running } := by
  obtain ⟨ks, hks⟩ := s.chip.begun_tenants p x
  refine ⟨ks, ?_⟩
  rw [State.startWaiting_of_mayStart h, State.sendTransfers_tenants, State.on_chip, Chip.complete_tenants, hks]

theorem Chip.firstCommit_run_ne (c : Chip) {p q : Fin 4} (h : q ≠ p) : (c.firstCommit p).run q = c.run q := by
  unfold Chip.firstCommit
  split
  · rfl
  · exact Chip.setRun_run_ne _ _ _ h

theorem Chip.readied_parts (c : Chip) (x : Plan) : (c.readied x).parts = c.parts := by
  have hunbind : (c.unbind x).parts = c.parts := by
    unfold Chip.unbind
    dsimp only
    split
    · simp
    · rfl
  exact (foldl_parts (fun c e => by simp) _ _).trans ((Chip.beginStaging_keeps _ x).1.trans hunbind)

/-- A plan that begins leaves the plans of the other partitions. -/
theorem Chip.begun_run_ne (c : Chip) {p q : Fin 4} (h : p ≠ q) (x : Plan) : (c.begun q x).run p = c.run p := by
  rw [Chip.begun, Chip.firstCommit_run_ne _ h, Chip.run]
  simp only [Chip.setFState_keeps, Chip.modTenant_parts, Chip.useTiles_keeps, Chip.modPart_parts, Chip.readied_parts]
  exact congrArg Part.run (vecMod_ne _ _ h)

/-- A plan that begins is held by nothing. -/
theorem Chip.begun_run (c : Chip) (q : Fin 4) (x : Plan) :
    ∃ r, (c.begun q x).run q = some r ∧ r.plan = x ∧ r.holds = [] ∧ r.turn = none := by
  obtain ⟨d, hd⟩ : ∃ d, d = ((((c.readied x).modPart q fun y => { y with run := some (c.firstRun x), waiting := none }).useTiles x
    x.binding.tiles).modTenant x.tenant fun t => { t with faulted := none, fault := false }).setFState x.tenant .running := ⟨_, rfl⟩
  have hrun : d.run q = some (c.firstRun x) := by
    rw [hd, Chip.run]
    simp only [Chip.setFState_keeps, Chip.modTenant_parts, Chip.useTiles_keeps, Chip.modPart_parts]
    exact congrArg Part.run (vecMod_same ..)
  refine ⟨{ c.firstRun x with commits := [{ d.commitOf (c.firstRun x) false with stage := .confirmed }] }, ?_, rfl, rfl, rfl⟩
  rw [Chip.begun, ← hd]
  simp only [Chip.firstCommit, hrun]
  exact Chip.setRun_run ..

/-! ### Steps of a fold -/

/-- A fold whose steps each bring about the fact of their own item and keep those of the others brings them all about. -/
theorem foldl_establishes {α β : Type} {f : β → α → β} {P : α → β → Prop} (hset : ∀ c x, P x (f c x))
    (hkeep : ∀ c x y, P y c → P y (f c x)) (l : List α) (c : β) : ∀ x ∈ l, P x (l.foldl f c) := by
  induction l generalizing c with
  | nil => exact fun x hx => absurd hx List.not_mem_nil
  | cons y l ih =>
    intro x hx
    rw [List.foldl_cons]
    rcases List.mem_cons.mp hx with rfl | hx
    · exact List.foldlRecOn (motive := P x) l f (hset c x) fun d hd z _ => hkeep d z x hd
    · exact ih _ x hx

/-! ### The pause (R307) -/

theorem Chip.setFState_fstate (c : Chip) (t : Fin 16) (st : FState) : (c.setFState t st).tenants[t].fstate = st :=
  congrArg Tenant.fstate (Chip.tenant_of_mod (Chip.setFState_tenants c t st))

theorem Chip.setFState_tenant_ne (c : Chip) {t u : Fin 16} (h : u ≠ t) (st : FState) :
    (c.setFState t st).tenants[u] = c.tenants[u] :=
  Chip.tenant_of_mod_ne (Chip.setFState_tenants c t st) h

/-- A tenant that is PAUSED stays so while others are paused. -/
theorem Chip.setFState_paused {c : Chip} {u : Fin 16} (h : c.tenants[u].fstate = .paused) (t : Fin 16) :
    (c.setFState t .paused).tenants[u].fstate = .paused := by
  by_cases hu : u = t
  · rw [hu, Chip.setFState_fstate]
  · rw [Chip.setFState_tenant_ne _ hu, h]

theorem Chip.pauseHold_paused {c : Chip} {u : Fin 16} (h : c.tenants[u].fstate = .paused) (p : Fin 4) :
    (c.pauseHold p).tenants[u].fstate = .paused := by
  unfold Chip.pauseHold
  split
  · exact h
  · split
    · simp only [Chip.settleAbsent_keeps]
      exact Chip.setFState_paused (by simpa [Chip.hold] using h) _
    · exact h

theorem Chip.partOf_of_parts {c d : Chip} (h : d.parts = c.parts) (t : Fin 16) : d.partOf t = c.partOf t := by
  simp only [Chip.partOf, Chip.run, h]

/-- A tenant without a running plan is paused. -/
def Chip.pauseFree (c : Chip) (t : Fin 16) : Chip := if (c.partOf t).isNone then c.setFState t .paused else c

/-- A plan that a hold keeps at its boundary is paused. -/
def Chip.pauseHeld (c : Chip) (p : Fin 4) : Chip :=
  match c.run p with
  | some r => if r.holds.isEmpty then c else c.pauseHold p
  | none => c

theorem Chip.pauseAll_eq (c : Chip) : c.pauseAll = (allParts.foldl Chip.pauseHeld (allTenants.foldl Chip.pauseFree c)).settleAbsent := rfl

theorem Chip.pauseFree_parts (c : Chip) (t : Fin 16) : (c.pauseFree t).parts = c.parts := by
  unfold Chip.pauseFree
  split
  · simp
  · rfl

theorem Chip.pauseFree_driver (c : Chip) (t : Fin 16) : (c.pauseFree t).driver = c.driver := by
  unfold Chip.pauseFree
  split
  · simp
  · rfl

theorem Chip.pauseFree_fstate {c : Chip} {t : Fin 16} (h : (c.pauseFree t).partOf t = none) :
    (c.pauseFree t).tenants[t].fstate = .paused := by
  rw [Chip.partOf_of_parts (c.pauseFree_parts t)] at h
  simp only [Chip.pauseFree, h, Option.isNone_none, if_true]
  exact Chip.setFState_fstate ..

theorem Chip.pauseFree_paused {c : Chip} {u : Fin 16} (h : c.tenants[u].fstate = .paused) (t : Fin 16) :
    (c.pauseFree t).tenants[u].fstate = .paused := by
  unfold Chip.pauseFree
  split
  · exact Chip.setFState_paused h t
  · exact h

theorem Chip.pauseHeld_paused {c : Chip} {u : Fin 16} (h : c.tenants[u].fstate = .paused) (p : Fin 4) :
    (c.pauseHeld p).tenants[u].fstate = .paused := by
  unfold Chip.pauseHeld
  split
  · split
    · exact h
    · exact Chip.pauseHold_paused h p
  · exact h

/-- The loss of the driver pauses every tenant without a running plan at once. -/
theorem Chip.pauseAll_fstate {c : Chip} {t : Fin 16} (h : c.partOf t = none) : c.pauseAll.tenants[t].fstate = .paused := by
  have hall := foldl_establishes (f := Chip.pauseFree) (P := fun t d => d.partOf t = none → d.tenants[t].fstate = .paused)
    (fun c x hx => Chip.pauseFree_fstate hx)
    (fun c x y hy hnone => Chip.pauseFree_paused (hy ((Chip.partOf_of_parts (c.pauseFree_parts x) y).symm.trans hnone)) x)
    allTenants c t (mem_allTenants t)
  have hfree : (allTenants.foldl Chip.pauseFree c).partOf t = none :=
    (Chip.partOf_of_parts (foldl_keeps (g := Chip.parts) Chip.pauseFree_parts allTenants c) t).trans h
  rw [Chip.pauseAll_eq]
  simp only [Chip.settleAbsent_keeps]
  exact List.foldlRecOn (motive := fun d : Chip => d.tenants[t].fstate = .paused) _ _ (hall hfree)
    fun d hd p _ => Chip.pauseHeld_paused hd p

/-- The driver stands, but for HOST_ABSENT. -/
def Driver.StandsAs (d e : Driver) : Prop := ∃ b, d = { e with hostAbsent := b }

theorem Driver.StandsAs.refl (d : Driver) : d.StandsAs d := ⟨d.hostAbsent, rfl⟩

theorem Driver.StandsAs.trans {d e f : Driver} (h : d.StandsAs e) (h' : e.StandsAs f) : d.StandsAs f := by
  obtain ⟨b, rfl⟩ := h
  obtain ⟨b', rfl⟩ := h'
  exact ⟨b, rfl⟩

theorem Chip.settleAbsent_standsAs (c : Chip) : c.settleAbsent.driver.StandsAs c.driver := by
  unfold Chip.settleAbsent
  split
  · exact ⟨true, rfl⟩
  · exact .refl _

theorem Chip.pauseHeld_standsAs (c : Chip) (p : Fin 4) : (c.pauseHeld p).driver.StandsAs c.driver := by
  unfold Chip.pauseHeld Chip.pauseHold
  split
  · split
    · exact .refl _
    · split
      · exact .refl _
      · split
        · refine (Chip.settleAbsent_standsAs _).trans ?_
          rw [(by simp [Chip.hold] : ∀ r : Running, ((c.hold p .paused).setFState r.plan.tenant .paused).driver = c.driver)]
          exact .refl _
        · exact .refl _
  · exact .refl _

theorem Chip.pauseAll_standsAs (c : Chip) : c.pauseAll.driver.StandsAs c.driver := by
  rw [Chip.pauseAll_eq]
  refine (Chip.settleAbsent_standsAs _).trans ?_
  refine List.foldlRecOn (motive := fun d : Chip => d.driver.StandsAs c.driver) _ _ ?_ fun d hd p _ =>
    (d.pauseHeld_standsAs p).trans hd
  rw [foldl_keeps (g := Chip.driver) Chip.pauseFree_driver]
  exact .refl _

/-- What the driver's loss or leaving brings about: its state, and the pause of the tenants without a running plan. -/
theorem Chip.driverGone_spec (c : Chip) (st : DrvState) : (c.driverGone st).driver.StandsAs { c.driver with state := st } ∧
    ∀ t : Fin 16, c.partOf t = none → (c.driverGone st).tenants[t].fstate = .paused := by
  unfold Chip.driverGone
  refine ⟨(Chip.pauseAll_standsAs _).trans ?_, fun t ht => Chip.pauseAll_fstate ?_⟩
  · simp only [Chip.tracePoint_keeps]
    exact .refl _
  · exact (Chip.partOf_of_parts (by simp) t).trans ht

theorem Driver.StandsAs.fields {d e : Driver} (h : d.StandsAs e) :
    d.state = e.state ∧ d.token = e.token ∧ d.lossCount = e.lossCount ∧ d.lastLoss = e.lastLoss := by
  obtain ⟨b, rfl⟩ := h
  exact ⟨rfl, rfl, rfl, rfl⟩

/-! ### The end of the pause (R308) -/

theorem Chip.resumed_ne_paused (c : Chip) (t : Fin 16) : c.resumed t ≠ .paused := by
  unfold Chip.resumed
  split
  · decide
  · split <;> decide

theorem Chip.resumeTenant_tenants (c : Chip) (t : Fin 16) : (c.resumeTenant t).tenants =
    if c.tenants[t].fstate = .paused then vecMod c.tenants t fun x => { x with fstate := c.resumed t } else c.tenants := by
  unfold Chip.resumeTenant
  dsimp only
  simp only [Chip.pumpRing_tenants]
  split
  · exact Chip.setFState_tenants ..
  · rfl

theorem Chip.resumeTenant_fstate (c : Chip) (t : Fin 16) : (c.resumeTenant t).tenants[t].fstate ≠ .paused := by
  have htenants := c.resumeTenant_tenants t
  split at htenants
  · rw [Chip.tenant_of_mod htenants]
    exact c.resumed_ne_paused t
  · next h => rwa [htenants]

theorem Chip.resumeTenant_not_paused {c : Chip} {u : Fin 16} (h : c.tenants[u].fstate ≠ .paused) (t : Fin 16) :
    (c.resumeTenant t).tenants[u].fstate ≠ .paused := by
  by_cases hu : u = t
  · rw [hu]
    exact c.resumeTenant_fstate t
  · have htenants := c.resumeTenant_tenants t
    split at htenants
    · rwa [Chip.tenant_of_mod_ne htenants hu]
    · rwa [htenants]

/-- The plan of a partition is not held for the absent driver. -/
def Chip.Unheld (c : Chip) (q : Fin 4) : Prop := ∀ r, c.run q = some r → Hold.paused ∉ r.holds

theorem Chip.Unheld.of_run {c d : Chip} {q : Fin 4} (h : c.Unheld q) (hrun : d.run q = c.run q) : d.Unheld q :=
  fun r hr => h r (hrun.symm.trans hr)

theorem Chip.Unheld.modRun {c : Chip} {q : Fin 4} (h : c.Unheld q) (p : Fin 4) {f : Running → Running}
    (hf : ∀ r, Hold.paused ∉ r.holds → Hold.paused ∉ (f r).holds) : (c.modRun p f).Unheld q := by
  by_cases hq : q = p
  · subst hq
    intro r hr
    obtain ⟨r', hr', rfl⟩ := Option.map_eq_some_iff.mp ((Chip.modRun_run ..).symm.trans hr)
    exact hf r' (h r' hr')
  · exact h.of_run (Chip.modRun_run_ne _ _ _ hq)

/-- What a hold that is lifted leaves of the holds. -/
theorem Chip.unhold_holds (c : Chip) (p : Fin 4) (x : Hold) : ∃ f : Running → Running, c.unhold p x = c.modRun p f ∧
    ∀ r, ∀ y ∈ (f r).holds, y ∈ r.holds ∧ y ≠ x := by
  refine ⟨_, rfl, fun r y hy => ?_⟩
  dsimp only at hy
  split at hy
  · simpa using hy
  · exact absurd hy List.not_mem_nil

theorem Chip.Unheld.unhold {c : Chip} {q : Fin 4} (h : c.Unheld q) (p : Fin 4) (x : Hold) : (c.unhold p x).Unheld q := by
  obtain ⟨f, hf, hsub⟩ := c.unhold_holds p x
  rw [hf]
  exact h.modRun p fun r hr hmem => hr (hsub r _ hmem).1

theorem Chip.unhold_unheld (c : Chip) (p : Fin 4) : (c.unhold p .paused).Unheld p := by
  obtain ⟨f, hf, hsub⟩ := c.unhold_holds p .paused
  intro r hr
  rw [hf, Chip.modRun_run] at hr
  obtain ⟨r', -, rfl⟩ := Option.map_eq_some_iff.mp hr
  exact fun hmem => (hsub r' _ hmem).2 rfl

theorem Chip.Unheld.ringHold {c : Chip} {q : Fin 4} (h : c.Unheld q) (p : Fin 4) : (c.ringHold p).Unheld q := by
  unfold Chip.ringHold
  split
  · exact h
  · split
    · refine (h.modRun p (f := fun r => if r.holds.contains .ringFull then r else { r with holds := .ringFull :: r.holds })
        fun r hr => ?_).of_run (by simp [Chip.run, Chip.hold])
      split
      · exact hr
      · simpa using hr
    · exact h

theorem Chip.Unheld.recheckRing {c : Chip} {q : Fin 4} (h : c.Unheld q) (t : Fin 16) : (c.recheckRing t).Unheld q := by
  unfold Chip.recheckRing
  refine List.foldlRecOn (motive := fun d : Chip => d.Unheld q) _ _ h fun d hd p _ => ?_
  split
  · split
    · exact hd.unhold p .ringFull
    · exact hd
  · exact hd

theorem Chip.Unheld.resumePart {c : Chip} {q : Fin 4} (h : c.Unheld q) (p : Fin 4) : (c.resumePart p).Unheld q := by
  unfold Chip.resumePart
  split
  · split
    · exact Chip.Unheld.unhold ((h.ringHold p).recheckRing _) p .paused
    · exact h
  · exact h

theorem Chip.resumePart_unheld (c : Chip) (p : Fin 4) : (c.resumePart p).Unheld p := by
  unfold Chip.resumePart
  split
  · next r hr =>
    split
    · exact Chip.unhold_unheld _ p
    · next h =>
      intro r' hr'
      obtain rfl : r = r' := Option.some.inj (hr.symm.trans hr')
      simpa using h
  · next hnone => exact fun r hr => absurd (hnone.symm.trans hr) (by simp)

/-- No tenant is paused and no plan is held for the absent driver. -/
structure Chip.Resumed (c : Chip) : Prop where
  tenants : ∀ t : Fin 16, c.tenants[t].fstate ≠ .paused
  runs : ∀ q, c.Unheld q

/-- A plan that starts is not paused. -/
theorem State.startWaiting_resumed {s : State} (h : s.chip.Resumed) (p : Fin 4) : (s.startWaiting p).chip.Resumed := by
  cases hstart : s.chip.mayStart p with
  | none => rwa [State.startWaiting_of_not_mayStart hstart]
  | some y =>
    obtain ⟨x, src⟩ := y
    obtain ⟨ks, hks⟩ := State.startWaiting_tenants hstart
    refine ⟨fun t => ?_, fun q => ?_⟩
    · by_cases ht : t = x.tenant
      · rw [ht, Chip.tenant_of_mod hks]
        exact FState.noConfusion
      · rw [Chip.tenant_of_mod_ne hks ht]
        exact h.tenants t
    · have hrun : (s.startWaiting p).chip.run q = (s.chip.begun p x).run q := by
        rw [State.startWaiting_of_mayStart hstart, Chip.run, (State.sendTransfers_keepsPlans _ x).1, State.on_chip,
          Chip.complete_parts, Chip.run]
      by_cases hq : q = p
      · subst hq
        obtain ⟨r, hr, -, hholds, -⟩ := s.chip.begun_run q x
        intro r' hr'
        obtain rfl : r = r' := Option.some.inj ((hrun.trans hr).symm.trans hr')
        simp [hholds]
      · exact (h.runs q).of_run (hrun.trans (Chip.begun_run_ne _ hq x))

/-- The end of every pause (R308). -/
def Chip.resumeAll (c : Chip) : Chip := allParts.foldl Chip.resumePart (allTenants.foldl Chip.resumeTenant c)

theorem Chip.resumeAll_resumed (c : Chip) : c.resumeAll.Resumed := by
  refine ⟨fun t => ?_, fun q => ?_⟩
  · rw [Chip.resumeAll, foldl_tenants fun c p => by simp]
    exact foldl_establishes (P := fun t (d : Chip) => d.tenants[t].fstate ≠ .paused) Chip.resumeTenant_fstate
      (fun c x y hy => Chip.resumeTenant_not_paused hy x) allTenants c t (mem_allTenants t)
  · exact foldl_establishes (P := fun q (d : Chip) => d.Unheld q) Chip.resumePart_unheld
      (fun c x y hy => hy.resumePart x) allParts _ q (mem_allParts q)

theorem Chip.resumeAll_driver (c : Chip) : c.resumeAll.driver = c.driver := by
  rw [Chip.resumeAll, foldl_driver fun c p => by simp, foldl_driver fun c t => by simp]

/-- The chip of a reattachment, before waiting plans start. -/
def Chip.reattached (c : Chip) (src : CmdSrc) : Chip :=
  Chip.resumeAll { ((c.attached src).tracePoint 0x0051 0 0 0) with
    driver := { ((c.attached src).tracePoint 0x0051 0 0 0).driver with hostAbsent := false } }

theorem State.reattach_eq (s : State) (src : CmdSrc) :
    s.reattach src = allParts.foldl State.startWaiting (s.on fun c => c.reattached src) := by
  unfold State.reattach
  dsimp only
  refine congrArg (fun f => allParts.foldl State.startWaiting (s.on f)) (funext fun c => ?_)
  unfold Chip.reattached Chip.resumeAll
  rfl

theorem Chip.attached_driver (c : Chip) (src : CmdSrc) : (c.attached src).driver =
    { c.driver with state := .attached, attachStamp := c.drone.now, changed := c.drone.now } := by
  simp [Chip.attached]

theorem State.reattach_spec (s : State) (src : CmdSrc) : (s.reattach src).chip.Resumed ∧ (s.reattach src).chip.driver =
    { s.chip.driver with
      state := .attached, attachStamp := s.chip.drone.now, changed := s.chip.drone.now, hostAbsent := false } := by
  rw [State.reattach_eq]
  have hresumed : (s.on fun c => c.reattached src).chip.Resumed := by
    dsimp only [State.on_chip]
    unfold Chip.reattached
    exact Chip.resumeAll_resumed _
  refine ⟨List.foldlRecOn (motive := fun u : State => u.chip.Resumed) _ _ hresumed fun u hu p _ =>
    State.startWaiting_resumed hu p, ?_⟩
  rw [State.foldl_keeps (g := fun u => u.chip.driver) State.startWaiting_driver]
  simp only [State.on_chip, Chip.reattached, Chip.resumeAll_driver, Chip.tracePoint_keeps, Chip.attached_driver]

/-! ### ATTACH and DETACH (R305-R308) -/

/-- The chip with a session's token drawn. -/
def Chip.sessionBegun (c : Chip) : Chip :=
  { c with drawn := c.drawn + 1, driver := { c.driver with token := (Config.random c.drawn).setWidth 128 } }

section
variable {s : State} {e : Entry} {src : CmdSrc} {c : Chip} (htake : s.chip.takeOp .pf 0 0x81 1 = some (e, src, c))
include htake

theorem exec_attach_of_attached (h : c.driver.state = .attached) : exec .attach s = .next { s with chip := c.done src 0x0002 } := by
  simp only [exec, execAttach, htake, h, State.on]

/-- The first ATTACH. -/
theorem exec_attach_of_first (h : c.driver.state = .never) (htoken : BitVec.ofNat 128 (entryAt e 16 16) = 0) :
    exec .attach s = .next { s with chip := c.sessionBegun.attached src } := by
  simp only [exec, execAttach, htake, h, htoken, State.on]
  rfl

theorem exec_attach_of_token (h : c.driver.state = .absent ∨ c.driver.state = .detached)
    (htoken : BitVec.ofNat 128 (entryAt e 16 16) = c.driver.token) :
    exec .attach s = .next (State.reattach { s with chip := c } src) := by
  rcases h with h | h <;> simp [exec, execAttach, htake, h, htoken]

theorem exec_attach_of_wrong (h : c.driver.state = .never ∧ BitVec.ofNat 128 (entryAt e 16 16) ≠ 0 ∨
      (c.driver.state = .absent ∨ c.driver.state = .detached) ∧ BitVec.ofNat 128 (entryAt e 16 16) ≠ c.driver.token) :
    exec .attach s = .next { s with chip := c.wrongToken src } := by
  rcases h with ⟨h, htoken⟩ | ⟨h | h, htoken⟩
  · simp only [exec, execAttach, htake, h, State.on, ne_eq, htoken, not_false_eq_true, if_true]
  · simp only [exec, execAttach, htake, h, State.on, htoken, if_false]
  · simp only [exec, execAttach, htake, h, State.on, htoken, if_false]

end

section
variable {s : State} {e : Entry} {src : CmdSrc} {c : Chip} (htake : s.chip.takeOp .pf 0 0x82 1 = some (e, src, c))
include htake

theorem exec_detach_of_attached (h : c.driver.state = .attached) :
    exec .detach s = .next { s with chip := (c.done src 0).driverGone .detached } := by
  simp only [exec, execDetach, htake, h, State.on, if_true]

theorem exec_detach_of_not_attached (h : c.driver.state ≠ .attached) : exec .detach s = .next { s with chip := c.done src 0 } := by
  simp only [exec, execDetach, htake, h, State.on, if_false]

end

/-! ### HEARTBEAT (R306) -/

/-- The chip as the loss of the heartbeat is counted and raised. -/
def Chip.lossCounted (c : Chip) : Chip :=
  { c with driver := { c.driver with lossCount := c.driver.lossCount + 1, lastLoss := c.drone.now } }.raise 4

theorem exec_heartbeatLoss {s : State} (hup : s.chip.up = true) (hattached : s.chip.driver.state = .attached)
    (hdue : s.chip.mram.hbTimeout.toNat * 1000000 ≤ (s.chip.drone.now - s.chip.driver.changed).toNat) :
    exec .heartbeatLoss s = .next { s with chip := s.chip.lossCounted.driverGone .absent } := by
  have hsince : s.chip.mram.hbTimeout.toNat * 1000000 ≤ s.chip.since s.chip.driver.changed := hdue
  simp only [exec, execHeartbeatLoss, State.on, hup, hattached, hsince, and_self, if_true]
  rfl

end Sys2Proof.Machine

open Sys2Proof.Machine

/-- Settles O39: an ATTACH goes by the driver's state and its token; a loss pauses the tenants one by one, and an attachment
resumes every tenant and every plan, after which a plan that starts is held by nothing. -/
theorem driverPresenceIsTracked : Obligations.DriverPresenceIsTracked := by
  intro s e src c
  refine ⟨fun htake => ⟨exec_attach_of_attached htake, fun hnever htoken => ?_, fun haway htoken => ?_, fun hwrong => ?_⟩,
    fun htake => ⟨fun hattached => ?_, exec_detach_of_not_attached htake⟩, fun hpower => ⟨fun v => ?_, fun hattached hdue => ?_⟩⟩
  · refine ⟨_, exec_attach_of_first htake hnever htoken, Chip.attached_driver .., ?_, rfl, rfl, ?_, ?_⟩
    · simp [Chip.sessionBegun]
    · simp [Chip.sessionBegun]
    · simp [Chip.sessionBegun]
  · obtain ⟨hresumed, hdriver⟩ := State.reattach_spec { s with chip := c } src
    exact ⟨_, exec_attach_of_token htake haway htoken, hdriver, hresumed.tenants, by simp, by simp, hresumed.runs⟩
  · refine ⟨_, exec_attach_of_wrong htake hwrong, rfl, by simp, rfl, rfl, by simp, by simp, fun hidle => ?_⟩
    simpa [Chip.wrongToken, Chip.authFailed, Chip.raise] using Intc.edge_of_idle (n := 12) (i := c.intc) hidle _
  · obtain ⟨hdriver, hpaused⟩ := (c.done src 0).driverGone_spec .detached
    obtain ⟨hstate, htoken, -, -⟩ := hdriver.fields
    refine ⟨_, exec_detach_of_attached htake hattached, ?_, ?_, rfl, rfl, fun t ht => hpaused t ?_⟩
    · dsimp only
      rw [hstate]
    · dsimp only
      rw [htoken]
      simp
    · exact (Chip.partOf_of_parts (by simp) t).trans ht
  · simp only [exec, execHeartbeatWrite, State.on, Chip.up_of_running hpower, if_true]
  · obtain ⟨hdriver, hpaused⟩ := s.chip.lossCounted.driverGone_spec .absent
    obtain ⟨hstate, -, hcount, hlast⟩ := hdriver.fields
    refine ⟨_, exec_heartbeatLoss (Chip.up_of_running hpower) hattached hdue, ?_, ?_, ?_, fun hidle => ?_,
      fun t ht => hpaused t ht, rfl, rfl⟩
    · dsimp only
      rw [hstate]
    · dsimp only
      rw [hcount]
      rfl
    · dsimp only
      rw [hlast]
      rfl
    simpa [Chip.driverGone, Chip.lossCounted, Chip.raise] using Intc.edge_of_idle (n := 4) (i := s.chip.intc) hidle _

end

section
/-! The activation of a release (R309-R311, R341): its verification, its queue and its handover. -/

namespace Sys2Proof.Machine

/-! ### ACTIVATE (R307, R309) -/

section
variable {s : State} {e : Entry} {src : CmdSrc} {c : Chip} (htake : s.chip.takeOp .pf 0 0x83 1 = some (e, src, c))
include htake

theorem exec_activate_of_present (hflag : entryAt e 28 1 % 2 = 0) (hdriver : c.driverAway = false) (img : FwImage) :
    exec (.activate img) s =
      .next { s with chip := { c with boot := { c.boot with verifying := c.boot.verifying ++ [⟨img, src⟩] } } } := by
  simp [exec, execActivate, State.on, htake, hflag, hdriver]

theorem exec_activate_of_away (hflag : entryAt e 28 1 % 2 = 0) (hdriver : c.driverAway = true) (img : FwImage) :
    exec (.activate img) s = .next { s with chip := c.done src 0x0041 } := by
  simp [exec, execActivate, State.on, htake, hflag, hdriver]

theorem exec_activateCancel_of_present (hflag : entryAt e 28 1 % 2 = 1) (hdriver : c.driverAway = false) :
    exec .activateCancel s =
      .next { s with chip := ({ c with boot := { c.boot with queued := none, queueRefused := false } }).done src 0 } := by
  simp [exec, execActivateCancel, State.on, htake, hflag, hdriver]

theorem exec_activateCancel_of_away (hflag : entryAt e 28 1 % 2 = 1) (hdriver : c.driverAway = true) :
    exec .activateCancel s = .next { s with chip := c.done src 0x0041 } := by
  simp [exec, execActivateCancel, State.on, htake, hflag, hdriver]

end

/-! ### Its verification (R309, R312) -/

/-- The chip whose oldest verification is over. -/
def Chip.verifiedOne (c : Chip) (rest : List Activation) : Chip :=
  { c with boot := { c.boot with verifying := rest } }.raise 13

/-- The chip with a release queued, whose ACTIVATE completes. -/
def Chip.releaseQueued (c : Chip) (i : FwImage) : Chip :=
  { c with boot := { c.boot with queued := some i, queueRefused := false } }.tracePoint 0x0040
    (if c.limiter.state = LimState.normal then 0 else 0x0003) (i.fwrel.setWidth 64) 0

theorem Chip.verifiedOne_fits (c : Chip) (rest : List Activation) (i : FwImage) :
    (c.verifiedOne rest).releaseFits i = c.releaseFits i := by
  have hfunc : ∀ f, (c.verifiedOne rest).func f = c.func f := fun f => by cases f <;> rfl
  simp only [Chip.releaseFits, hfunc]
  rfl

section
variable {s : State} {a : Activation} {rest : List Activation} (h : s.chip.boot.verifying = a :: rest)
include h

/-- An image that one of the checks refuses. -/
theorem exec_activateVerifyComplete_of_judged {st : W16} (hst : s.chip.judgeImage a.img = st) (hne : st ≠ 0) :
    exec .activateVerifyComplete s = .next { s with chip := (s.chip.verifiedOne rest).done a.src st } := by
  subst hst
  have hraised : (s.chip.verifiedOne rest).judgeImage a.img ≠ 0 := hne
  unfold Chip.verifiedOne at hraised
  simp only [exec, execActivateVerifyComplete, State.on, h, hraised, ne_eq, not_false_eq_true, if_true]
  rfl

section
variable (hst : s.chip.judgeImage a.img = 0)
include hst

/-- A release that does not fit what runs. -/
theorem exec_activateVerifyComplete_of_misfit (hfits : s.chip.releaseFits a.img = false) :
    exec .activateVerifyComplete s = .next { s with chip := (s.chip.verifiedOne rest).done a.src 0x0043 } := by
  have hraised : (s.chip.verifiedOne rest).judgeImage a.img = 0 := hst
  have hmisfit : (s.chip.verifiedOne rest).releaseFits a.img = false := (Chip.verifiedOne_fits ..).trans hfits
  unfold Chip.verifiedOne at hraised hmisfit
  simp only [exec, execActivateVerifyComplete, State.on, h, hraised, hmisfit, ne_eq, not_true_eq_false, Bool.not_false, if_true,
    if_false]
  rfl

/-- A release that fits. -/
theorem exec_activateVerifyComplete_of_fits (hfits : s.chip.releaseFits a.img = true) :
    exec .activateVerifyComplete s = .next (s.on fun c => ((c.verifiedOne rest).releaseQueued a.img).done a.src
      (if c.limiter.state = .normal then 0 else 0x0003)) := by
  have hraised : (s.chip.verifiedOne rest).judgeImage a.img = 0 := hst
  have hfits' : (s.chip.verifiedOne rest).releaseFits a.img = true := (Chip.verifiedOne_fits ..).trans hfits
  unfold Chip.verifiedOne at hraised hfits'
  simp only [exec, execActivateVerifyComplete, State.on, h, hraised, hfits', ne_eq, not_true_eq_false, Bool.not_true, if_false,
    Bool.false_eq_true]
  rfl

end

end

/-! ### The handover (R310, R311, R341) -/

/-- A release that has come into force, with its event, its record and its trace point. -/
def Chip.released (c : Chip) (i : FwImage) : Chip :=
  let taken := { c with boot := { c.boot with
    img := some i, fwRel := i.fwrel, fwDig := i.digest, queued := none, queueRefused := false, lastAct := c.drone.now } }
  let told := taken.event .pf { taken.entry (taken.coreSrc 0) with arg0 := i.fwrel.setWidth 64 }
  (told.hbForm 0x0040 true (told.coreSrc 0) (leBytes 4 c.boot.fwRel.toNat ++ leBytes 4 i.fwrel.toNat)).tracePoint 0x0040 0
    (i.fwrel.setWidth 64) 1

theorem Chip.handover_eq (c : Chip) (i : FwImage) : c.handover i = (c.released i).restartJob := rfl

theorem Chip.released_spec (c : Chip) (i : FwImage) :
    (c.released i).boot = { c.boot with
      img := some i, fwRel := i.fwrel, fwDig := i.digest, queued := none, queueRefused := false, lastAct := c.drone.now } ∧
    (c.released i).hatband.queue.length = c.hatband.queue.length + 1 ∧ (c.released i).tenants = c.tenants ∧
    (c.released i).placer = c.placer ∧ (c.released i).drone = c.drone := by
  unfold Chip.released
  dsimp only
  simp [Chip.hbForm_critical_eq]

theorem Chip.restartJob_tenants (c : Chip) : c.restartJob.tenants = c.tenants := by
  unfold Chip.restartJob Chip.beginJob
  split
  · rfl
  · simp

/-- The placer's job in progress begins again now. -/
theorem Chip.restartJob_jobs {c : Chip} {j : BindJob} {js : List BindJob} (h : c.placer.jobs = j :: js) :
    ∃ st : BindStart, st.since = c.drone.now ∧ c.restartJob.placer.jobs = { j with start := some st } :: js := by
  simp only [Chip.restartJob, Chip.beginJob, h, Option.isSome_none, Bool.false_eq_true, if_false]
  refine ⟨_, ?_, rfl⟩
  simp [Chip.bindStart]

theorem Chip.atSomeBoundary_of {c : Chip}
    (h : (∀ p : Fin 4, c.run p = none) ∨ ∃ (p : Fin 4) (r : Running), c.run p = some r ∧ r.atBoundary = true) :
    c.atSomeBoundary = true := by
  rcases h with hnone | ⟨p, r, hr, hat⟩
  · simp [Chip.atSomeBoundary, hnone]
  · refine Bool.or_eq_true_iff.mpr (.inr (List.any_eq_true.mpr ⟨p, mem_allParts p, ?_⟩))
    simp [hr, hat]

theorem exec_firmwareHandover {s : State} {i : FwImage} (hqueued : s.chip.boot.queued = some i) (hup : s.chip.up = true)
    (hnormal : s.chip.limiter.state = .normal) (hsince : 2000000000 ≤ (s.chip.drone.now - s.chip.limiter.since).toNat)
    (hboundary : s.chip.atSomeBoundary = true) : exec .firmwareHandover s = .next { s with chip := s.chip.handover i } := by
  have hdue : 2000000000 ≤ s.chip.since s.chip.limiter.since := hsince
  simp only [exec, execFirmwareHandover, State.on, hup, hboundary, Chip.activate, hqueued, hnormal, hdue, Bool.and_self, and_self,
    if_true]

end Sys2Proof.Machine

open Sys2Proof.Machine

/-- Settles O40: ACTIVATE and CANCEL go by the driver's presence, a verification by what the checks find and by the release's
fit, and the handover begins the placer's job in progress again. -/
theorem activationsAreQueuedAndTaken : Obligations.ActivationsAreQueuedAndTaken := by
  intro s e src c
  refine ⟨fun htake => ⟨fun hflag img => ⟨fun hdriver => ?_, fun hdriver => ?_⟩, fun hflag => ⟨?_, ?_⟩⟩, fun a rest hverify => ?_,
    fun i hqueued hpower hnormal hsince hboundary => ?_⟩
  · exact exec_activate_of_present htake hflag hdriver img
  · exact exec_activate_of_away htake hflag hdriver img
  · exact exec_activateCancel_of_present htake hflag
  · exact exec_activateCancel_of_away htake hflag
  · intro c0 signed fits
    refine ⟨fun hunsigned => ?_, fun hsigned hmisfit => ?_, fun hsigned hfits => ?_⟩
    · have hany : a.img.digestOk = false ∨ a.img.rsaOk = false ∨ a.img.slhOk = false := by
        simpa [signed, imp_iff_not_or] using hunsigned
      exact exec_activateVerifyComplete_of_judged hverify (Chip.judgeImage_unsigned _ hany) (by decide)
    · obtain ⟨hdigest, hrsa, hslh⟩ := hsigned
      by_cases hjudge : a.img.hwgen = s.chip.mram.hwgen ∧ a.img.bodylen.toNat ≤ 16777216
      · have hno : s.chip.releaseFits a.img = false := by
          rw [← Bool.not_eq_true]
          exact fun h => hmisfit ⟨hjudge.1, hjudge.2, h⟩
        exact exec_activateVerifyComplete_of_misfit hverify (Chip.judgeImage_fits hdigest hrsa hslh hjudge.1 hjudge.2) hno
      · refine exec_activateVerifyComplete_of_judged hverify (Chip.judgeImage_misfit hdigest hrsa hslh ?_) (by decide)
        rw [not_and_or, Nat.not_le] at hjudge
        exact hjudge
    · obtain ⟨hdigest, hrsa, hslh⟩ := hsigned
      obtain ⟨hgen, hlen, hfit⟩ := hfits
      refine ⟨_, (s.chip.verifiedOne rest).releaseQueued a.img, exec_activateVerifyComplete_of_fits hverify
        (Chip.judgeImage_fits hdigest hrsa hslh hgen hlen) hfit, rfl, ?_, fun hidle => ?_, rfl, rfl, ?_, ?_⟩
      · simp [Chip.releaseQueued, Chip.verifiedOne]
      · simpa [Chip.releaseQueued, Chip.verifiedOne, Chip.raise] using Intc.edge_of_idle (n := 13) (i := s.chip.intc) hidle _
      · simp [Chip.releaseQueued, Chip.verifiedOne]
      · simp [Chip.releaseQueued, Chip.verifiedOne]
  · obtain ⟨hboot, hqueue, htenants, hplacer, hdrone⟩ := s.chip.released_spec i
    refine ⟨_, exec_firmwareHandover hqueued (Chip.up_of_running hpower) hnormal hsince (Chip.atSomeBoundary_of hboundary), rfl, ?_,
      fun j js hjobs => ?_, ?_, rfl, rfl, ?_, by simp⟩
    · simp only [Chip.handover_eq, Chip.restartJob_keeps, hboot]
    · rw [← hplacer] at hjobs
      rw [← hdrone]
      exact Chip.restartJob_jobs hjobs
    · simp only [Chip.handover_eq, Chip.restartJob_keeps, hqueue]
    · simp only [Chip.handover_eq, Chip.restartJob_tenants, htenants]

end

section
/-! A tenant's key slots (R343-R347) and its saved contexts (R390-R393). -/

namespace Sys2Proof.Machine

/-! ### KEYLOAD (R343, R344, R347) -/

theorem State.keyOp_of_takeOp {s : State} {t : Fin 16} {ring : Fin 8} {e : Entry} {src : CmdSrc} {c : Chip} {fn : Nat}
    (htake : s.chip.takeOp (.vf t) ring 0x08 1 = some (e, src, c)) (hfn : entryAt e 16 1 = fn)
    (k : Entry → CmdSrc → State → State) : s.keyOp t ring fn k = k e src { s with chip := c } := by
  simp only [State.keyOp, htake, hfn, if_true]

/-- The slot that a KEYLOAD names. -/
def keySlotOf (e : Entry) : Fin 8 := Fin.ofNat 8 (entryAt e 17 1)

/-- A tenant's key slot set. -/
def Chip.setKey (c : Chip) (t : Fin 16) (i : Fin 8) (k : KeySlot) : Chip := c.modTenant t fun x => { x with keys := x.keys.set i k }

section
variable {s : State} {t : Fin 16} {ring : Fin 8} {e : Entry} {src : CmdSrc} {c : Chip}
  (htake : s.chip.takeOp (.vf t) ring 0x08 1 = some (e, src, c))
include htake

/-- A slot number over 7. -/
theorem exec_keyload_of_over (hslot : 8 ≤ entryAt e 17 1) :
    (entryAt e 16 1 = 0 → exec (.keyloadAttest t ring) s = .next { s with chip := c.done src 0x0002 }) ∧
      (entryAt e 16 1 = 1 → exec (.keyloadLoad t ring) s = .next { s with chip := c.done src 0x0002 }) ∧
      (entryAt e 16 1 = 2 → exec (.keyloadClear t ring) s = .next { s with chip := c.done src 0x0002 }) := by
  refine ⟨fun hfn => ?_, fun hfn => ?_, fun hfn => ?_⟩
  · simp only [exec, execKeyloadAttest, State.keyOp_of_takeOp htake hfn, hslot, if_true, State.on]
  · simp only [exec, execKeyloadLoad, State.keyOp_of_takeOp htake hfn, hslot, if_true, State.on]
  · simp only [exec, execKeyloadClear, State.keyOp_of_takeOp htake hfn, hslot, if_true, State.on]

variable (hslot : entryAt e 17 1 < 8)
include hslot

section
variable (hfn : entryAt e 16 1 = 0)
include hfn

/-- ATTEST of a slot that holds a key. -/
theorem exec_keyloadAttest_of_loaded {key : BitVec 256} (hkey : c.tenants[t].keys[keySlotOf e] = .loaded key) :
    exec (.keyloadAttest t ring) s = .next { s with chip := c.done src 0x0002 } := by
  unfold keySlotOf at hkey
  simp only [exec, execKeyloadAttest, State.keyOp_of_takeOp htake hfn, Nat.not_le.mpr hslot, if_false, hkey, State.on]

variable (hkey : ∀ key, c.tenants[t].keys[keySlotOf e] ≠ .loaded key)
include hkey

/-- ATTEST without a region for its report. -/
theorem exec_keyloadAttest_of_no_region (hregion : c.cmdRegion t (keyTid e) (keyOff e) reportLen = none) :
    exec (.keyloadAttest t ring) s = .next { s with chip := c.done src 0x0071 } := by
  unfold keySlotOf at hkey
  simp only [exec, execKeyloadAttest, State.keyOp_of_takeOp htake hfn, Nat.not_le.mpr hslot, if_false, hregion, State.on]

/-- ATTEST waits its turn. -/
theorem exec_keyloadAttest_of_region {w : Fin 16} {o : Nat} (hregion : c.cmdRegion t (keyTid e) (keyOff e) reportLen = some (w, o)) :
    exec (.keyloadAttest t ring) s = .next { s with chip := { c with
      attests := c.attests ++ [{ tenant := t, slot := keySlotOf e, win := w, off := o, nonce := BitVec.ofNat 256 (entryAt e 32 32)
                                 src := src }] } } := by
  unfold keySlotOf at hkey ⊢
  simp only [exec, execKeyloadAttest, State.keyOp_of_takeOp htake hfn, Nat.not_le.mpr hslot, if_false, hregion, State.on]

end

section
variable (hfn : entryAt e 16 1 = 1)
include hfn

section
variable {pair : Nat} {nonce : BitVec 256} {w : List Byte} (hkey : c.tenants[t].keys[keySlotOf e] = .armed pair nonce)
  (hbytes : State.cmdBytes { s with chip := c } t (keyTid e) (keyOff e) 2032 = some w)
include hkey hbytes

/-- LOAD of a wrap that opens. -/
theorem exec_keyloadLoad_of_key {key : BitVec 256} (hfits : c.wrapFits t (keySlotOf e).val w = true)
    (hopen : unwrapKey pair nonce w = some key) :
    exec (.keyloadLoad t ring) s = .next { s with chip := (c.setKey t (keySlotOf e) (.loaded key)).done src 0 } := by
  unfold keySlotOf at hkey hfits ⊢
  simp only [exec, execKeyloadLoad, State.keyOp_of_takeOp htake hfn, Nat.not_le.mpr hslot, if_false, hkey, hbytes, hfits, hopen,
    if_true, State.on]
  rfl

/-- LOAD of a wrap that does not open. -/
theorem exec_keyloadLoad_of_closed (hclosed : c.wrapFits t (keySlotOf e).val w = false ∨ unwrapKey pair nonce w = none) :
    exec (.keyloadLoad t ring) s = .next { s with chip :=
      ((c.setKey t (keySlotOf e) .empty).authFailed 3 t.val (keySlotOf e).val []).done src 0x0071 } := by
  have hnone : (if c.wrapFits t (keySlotOf e).val w then unwrapKey pair nonce w else none) = none := by
    rcases hclosed with h | h <;> simp [h]
  unfold keySlotOf at hkey hnone ⊢
  simp only [exec, execKeyloadLoad, State.keyOp_of_takeOp htake hfn, Nat.not_le.mpr hslot, if_false, hkey, hbytes, hnone, State.on]
  rfl

end

/-- LOAD of a slot that is not armed, or of a wrap that cannot be read. -/
theorem exec_keyloadLoad_of_not_armed (hno : (∀ pair nonce, c.tenants[t].keys[keySlotOf e] ≠ .armed pair nonce) ∨
      State.cmdBytes { s with chip := c } t (keyTid e) (keyOff e) 2032 = none) :
    exec (.keyloadLoad t ring) s = .next { s with chip := c.done src 0x0071 } := by
  unfold keySlotOf at hno
  simp only [exec, execKeyloadLoad, State.keyOp_of_takeOp htake hfn, Nat.not_le.mpr hslot, if_false]
  split
  · next pair nonce w hkey hbytes =>
    rcases hno with h | h
    · exact absurd hkey (h pair nonce)
    · rw [h] at hbytes
      cases hbytes
  · rfl

end

section
variable (hfn : entryAt e 16 1 = 2)
include hfn

/-- CLEAR of a slot that no fetch uses. -/
theorem exec_keyloadClear_of_unused (hunused : ∀ f ∈ c.tenants[t].fetches, f.keySlot ≠ keySlotOf e) :
    exec (.keyloadClear t ring) s = .next { s with chip := (c.setKey t (keySlotOf e) .empty).done src 0 } := by
  have hany : (c.tenants[t].fetches.any fun f => decide (f.keySlot = keySlotOf e)) = false := by
    simpa [List.any_eq_false] using hunused
  unfold keySlotOf at hany ⊢
  simp only [exec, execKeyloadClear, State.keyOp_of_takeOp htake hfn, Nat.not_le.mpr hslot, hany, if_false, Bool.false_eq_true,
    State.on]
  rfl

/-- CLEAR of a slot that a fetch uses. -/
theorem exec_keyloadClear_of_used (hused : ∃ f ∈ c.tenants[t].fetches, f.keySlot = keySlotOf e) :
    exec (.keyloadClear t ring) s = .next { s with chip := c.done src 0x0002 } := by
  have hany : (c.tenants[t].fetches.any fun f => decide (f.keySlot = keySlotOf e)) = true := by simpa [List.any_eq_true] using hused
  unfold keySlotOf at hany
  simp only [exec, execKeyloadClear, State.keyOp_of_takeOp htake hfn, Nat.not_le.mpr hslot, hany, if_false, if_true, State.on]

end

end

/-! ### Attestation (R344, R345) -/

/-- The chip once the front ATTEST has its report: its transport pair is drawn and its slot armed. -/
def Chip.attested (c : Chip) (j : AttestJob) (js : List AttestJob) : Chip :=
  { c with attests := js, drawn := c.drawn + 1 }.setKey j.tenant j.slot (.armed c.drawn j.nonce)

section
variable {s : State} {j : AttestJob} {js : List AttestJob} (hfront : s.chip.attests = j :: js)
include hfront

theorem exec_attestReportWritten_of_loaded {key : BitVec 256} (hkey : s.chip.tenants[j.tenant].keys[j.slot] = .loaded key) :
    exec .attestReportWritten s = .next { s with chip := { s.chip with attests := js }.done j.src 0x0002 } := by
  simp only [exec, execAttestReportWritten, hfront, State.on, hkey]

theorem exec_attestReportWritten_of_not_loaded (hkey : ∀ key, s.chip.tenants[j.tenant].keys[j.slot] ≠ .loaded key) :
    exec .attestReportWritten s = .next { s with
      mem := s.mem.applyAll (s.chip.tenants[j.tenant].byteWrites j.win j.off (s.chip.reportBytes j s.chip.drawn))
      chip := (s.chip.attested j js).done j.src 0 } := by
  simp only [exec, execAttestReportWritten, hfront, State.on]
  rfl

end

/-! ### SAVE (R307, R390, R391) -/

theorem Chip.take_of_paused {c : Chip} {t : Fin 16} (h : c.tenants[t].fstate = .paused) (ring : Fin 8) (n : Nat) :
    c.take (.vf t) ring n = none := by
  have hheld : c.ringHeld (.vf t) ring = true := decide_eq_true h
  rw [← Option.not_isSome_iff_eq_none, Chip.take_isSome]
  simp [hheld]

theorem Chip.takeOp_of_paused {c : Chip} {t : Fin 16} (h : c.tenants[t].fstate = .paused) (ring : Fin 8) (opc n : Nat) :
    c.takeOp (.vf t) ring opc n = none := by
  simp only [Chip.takeOp, Chip.take_of_paused h]

/-- What a SAVE keeps until its image is written. -/
def saveAt (e : Entry) (src : CmdSrc) (r : Ref) (taken : Option Saved) : PendSave :=
  { off := r.byteAt (entryAt e 20 8 % 2 ^ 48), win := r.win
    len := min (entryAt e 28 8) (r.fmt.bytes r.count - entryAt e 20 8 % 2 ^ 48 * r.fmt.bits / 8)
    endPlan := entryAt e 48 1 % 2 = 1, src := src, taken := taken }

section
variable {s : State} {t : Fin 16} {ring : Fin 8} {e : Entry} {src : CmdSrc} {c : Chip}
  (htake : s.chip.takeOp (.vf t) ring 0x09 1 = some (e, src, c))
include htake

theorem exec_save_of_no_ref (href : c.cmdRef t (BitVec.ofNat 20 (entryAt e 16 4)) = none) :
    exec (.save t ring) s = .next { s with chip := c.done src 0x0002 } := by
  simp only [exec, execSave, State.on, Chip.vfOp_of_takeOp htake, href]

variable {r : Ref} (href : c.cmdRef t (BitVec.ofNat 20 (entryAt e 16 4)) = some r)
include href

/-- A SAVE that has a context to take, or waits for the plan's next boundary. -/
theorem exec_save_of_context {x : Option Saved} (hx : c.tenants[t].fstate = .running ∧ x = none ∨
      c.tenants[t].fstate = .faulted ∧ c.tenants[t].faulted = x ∧ x.isSome = true) :
    exec (.save t ring) s =
      .next { s with chip := c.modTenant t fun y => { y with saves := y.saves ++ [saveAt e src r x] } } := by
  rcases hx with ⟨hstate, rfl⟩ | ⟨hstate, hfaulted, hsome⟩
  · simp only [exec, execSave, State.on, Chip.vfOp_of_takeOp htake, href, hstate]
    rfl
  · obtain ⟨y, rfl⟩ := Option.isSome_iff_exists.mp hsome
    simp only [exec, execSave, State.on, Chip.vfOp_of_takeOp htake, href, hstate, hfaulted]
    rfl

theorem exec_save_of_none (hx : c.tenants[t].fstate = .idle ∨ c.tenants[t].fstate = .faulted ∧ c.tenants[t].faulted = none) :
    exec (.save t ring) s = .next { s with chip := c.done src 0x0002 } := by
  rcases hx with hstate | ⟨hstate, hfaulted⟩
  · simp only [exec, execSave, State.on, Chip.vfOp_of_takeOp htake, href, hstate]
  · simp only [exec, execSave, State.on, Chip.vfOp_of_takeOp htake, href, hstate, hfaulted]

end

/-! ### The image of a SAVE (R391, R392) -/

theorem Chip.saveOver_tenants (c : Chip) (t : Fin 16) : (c.saveOver t).tenants = c.tenants := by simp

/-- The chip once a SAVE's image has been judged: the SAVE goes, and what was written is known as an image. -/
def Chip.saveDone (c : Chip) (t : Fin 16) (v : PendSave) (x : Saved) (fits : Bool) : Chip :=
  (c.modTenant t fun y => { y with
    saves := y.saves.erase v
    images := if fits then (v.win, v.off, x) :: y.images.filter fun z => !(decide (z.1 = v.win) && decide (z.2.1 = v.off))
      else y.images }).saveOver t

section
variable {s : State} {t : Fin 16} {v : PendSave} {x : Saved} (hfind : (s.chip.tenants[t].saves.find? fun v => v.taken.isSome) = some v)
  (htaken : v.taken = some x)
include hfind htaken

/-- An image that the SAVE's place does not take. -/
theorem exec_saveImageWritten_of_misfit (hfits : ¬ ((Config.contextBytes x.tag).length ≤ v.len ∧
      s.chip.tenants[t].inWin v.win v.off (Config.contextBytes x.tag).length = true)) :
    exec (.saveImageWritten t) s = .next (s.on fun c => (c.saveDone t v x false).complete v.src 0x0002 x.plan x.step
      (BitVec.ofNat 64 (Config.contextBytes x.tag).length)) := by
  have hwin : ((s.chip.modTenant t fun y => { y with saves := y.saves.erase v }).tenants[t].inWin v.win v.off
      (Config.contextBytes x.tag).length) = s.chip.tenants[t].inWin v.win v.off (Config.contextBytes x.tag).length := by
    have hten : (s.chip.modTenant t fun y => { y with saves := y.saves.erase v }).tenants[t] =
        { s.chip.tenants[t] with saves := s.chip.tenants[t].saves.erase v } := by simp
    rw [hten]
    rfl
  have hmiss : v.len < (Config.contextBytes x.tag).length ∨
      (!s.chip.tenants[t].inWin v.win v.off (Config.contextBytes x.tag).length) = true := by
    by_contra hno
    rw [not_or, Nat.not_lt, Bool.not_eq_true, Bool.not_eq_false'] at hno
    exact hfits hno
  simp only [exec, execSaveImageWritten, hfind, htaken, State.on, hwin, hmiss, if_true]
  rfl

/-- An image written where the SAVE names. -/
theorem exec_saveImageWritten_of_fits (hlen : (Config.contextBytes x.tag).length ≤ v.len)
    (hin : s.chip.tenants[t].inWin v.win v.off (Config.contextBytes x.tag).length = true) :
    exec (.saveImageWritten t) s = .next { s with
      mem := s.mem.applyAll (s.chip.tenants[t].byteWrites v.win v.off (Config.contextBytes x.tag))
      chip := (s.chip.saveDone t v x true).complete v.src 0 x.plan x.step
        (BitVec.ofNat 64 (Config.contextBytes x.tag).length) } := by
  have hten : (s.chip.modTenant t fun y => { y with saves := y.saves.erase v }).tenants[t] =
      { s.chip.tenants[t] with saves := s.chip.tenants[t].saves.erase v } := by simp
  have hno : ¬ (v.len < (Config.contextBytes x.tag).length ∨
      (!({ s.chip.tenants[t] with saves := s.chip.tenants[t].saves.erase v } : Tenant).inWin v.win v.off
        (Config.contextBytes x.tag).length) = true) := by
    rw [not_or, Nat.not_lt, Bool.not_eq_true, Bool.not_eq_false']
    exact ⟨hlen, hin⟩
  simp only [exec, execSaveImageWritten, hfind, htaken, State.on, State.writeWin, hten, hno, if_false]
  congr 2
  simp only [Chip.saveDone, Chip.modTenant, vecMod_vecMod, if_true]

end

/-! ### RESTORE (R390, R393) -/

/-- A restore whose submit stands becomes the last job. -/
theorem State.takeSubmit_restored {s : State} {t : Fin 16} {b bytes : List Byte} {img : Image} {x : Saved}
    (hroom : s.chip.placer.jobs.length ≤ 32) (hbytes : s.imageBytes t (SubmitRec.read b) = some bytes)
    (hhead : s.chip.headOk (ImageHead.read bytes) = true) (hparse : Image.parse s.chip.tenants[t] bytes = .ok img)
    (hfits : x.fits s.chip.tenants[t] s.chip.mram.hwgen img = true) (src : CmdSrc) :
    s.takeSubmit t (some b) (some x) src = s.on fun c => c.queueJob
      { tenant := t, sub := SubmitRec.read b, image := some img, layoutFault := none, restore := some x, start := none, src := src } := by
  have hfree : s.chip.placerFull = false := decide_eq_false (by omega)
  simp only [State.takeSubmit, hfree, hbytes, hhead, hparse, Option.all_some, hfits, Bool.not_true, Bool.false_eq_true, if_false,
    if_true]

section
variable {s : State} {t : Fin 16} {ring : Fin 8} {e : Entry} {src : CmdSrc} {c : Chip}
  (htake : s.chip.takeOp (.vf t) ring 0x0A 1 = some (e, src, c))
include htake

theorem exec_restore_of_holding (h : c.holdsPlan t none = true ∨ ∃ j ∈ c.placer.jobs, j.tenant = t) :
    exec (.restore t ring) s = .next { s with chip := c.done src 0x0002 } := by
  have hbusy : (c.holdsPlan t none || c.placer.jobs.any fun j => decide (j.tenant = t)) = true := by
    simpa [List.any_eq_true] using h
  simp only [exec, execRestore, htake, hbusy, if_true, State.on]

variable (hplan : c.holdsPlan t none = false) (hjobs : ∀ j ∈ c.placer.jobs, j.tenant ≠ t)
include hplan hjobs

theorem exec_restore_of_no_context
    (hfound : State.contextAt { s with chip := c } t (BitVec.ofNat 20 (entryAt e 16 4)) (entryAt e 20 8 % 2 ^ 48) = none) :
    exec (.restore t ring) s = .next { s with chip := c.done src 0x0043 } := by
  have hfree : (c.holdsPlan t none || c.placer.jobs.any fun j => decide (j.tenant = t)) = false := by
    simpa [hplan] using hjobs
  simp only [exec, execRestore, htake, hfree, Bool.false_eq_true, if_false, hfound, State.on]

theorem exec_restore_of_context {x : Saved}
    (hfound : State.contextAt { s with chip := c } t (BitVec.ofNat 20 (entryAt e 16 4)) (entryAt e 20 8 % 2 ^ 48) = some x) :
    exec (.restore t ring) s = .next (State.takeSubmit { s with chip := c } t (State.cmdBytes { s with chip := c } t
      (BitVec.ofNat 20 (entryAt e 36 4)) (entryAt e 40 8 % 2 ^ 48) 256) (some x.loaded) src) := by
  have hfree : (c.holdsPlan t none || c.placer.jobs.any fun j => decide (j.tenant = t)) = false := by
    simpa [hplan] using hjobs
  simp only [exec, execRestore, htake, hfree, Bool.false_eq_true, if_false, hfound]

end

end Sys2Proof.Machine

open Sys2Proof.Machine

/-- Settles O37: each KEYLOAD goes by its function and by what its slot holds. -/
theorem keySlotsFollowTheirCommands : Obligations.KeySlotsFollowTheirCommands := by
  intro s t ring e src c slot tid off set answer
  refine ⟨fun htake => ⟨fun hover => exec_keyload_of_over htake hover, fun hslot => ⟨fun hfn => ⟨fun key hkey => ?_, fun hkey =>
    ⟨fun hregion => ?_, fun w o hregion => ?_⟩⟩, fun pair nonce w hfn hkey hbytes => ⟨fun key hfits hopen => ?_, fun hclosed => ?_⟩,
    fun hfn hno => ?_, fun hfn hunused => ?_, fun hfn hused => ?_⟩⟩, fun j js hfront => ⟨fun ⟨key, hkey⟩ => ?_, fun hkey => ?_⟩⟩
  · exact exec_keyloadAttest_of_loaded htake hslot hfn hkey
  · exact exec_keyloadAttest_of_no_region htake hslot hfn hkey hregion
  · exact exec_keyloadAttest_of_region htake hslot hfn hkey hregion
  · exact exec_keyloadLoad_of_key htake hslot hfn hkey hbytes hfits hopen
  · refine ⟨_, exec_keyloadLoad_of_closed htake hslot hfn hkey hbytes hclosed, ?_, rfl, rfl, rfl, fun hidle => ?_, ?_⟩
    · simp [Chip.setKey, slot, keySlotOf]
    · simpa [Chip.setKey, Chip.authFailed, Chip.raise] using Intc.edge_of_idle (n := 12) (i := c.intc) hidle _
    · simp [Chip.setKey, Chip.authFailed, Chip.hbAuth, Chip.hbForm_critical_eq]
  · exact exec_keyloadLoad_of_not_armed htake hslot hfn hno
  · exact exec_keyloadClear_of_unused htake hslot hfn hunused
  · exact exec_keyloadClear_of_used htake hslot hfn hused
  · exact exec_attestReportWritten_of_loaded hfront hkey
  · refine ⟨_, s.chip.attested j js, exec_attestReportWritten_of_not_loaded hfront hkey, rfl, ?_, ?_, ?_, fun y hy => ?_, rfl, rfl⟩
    · simp [Chip.attested, Chip.setKey]
    · simp [Chip.attested, Chip.setKey]
    · simp [Chip.attested, Chip.setKey]
    · simp only [Chip.attested, Chip.setKey, Chip.done_tenants, Chip.modTenant_tenants]
      exact vecMod_ne _ _ hy

/-- Settles O38: a SAVE goes by its tenant's state, its image by the place that the SAVE names, and a RESTORE by what the tenant
holds and by the context that it finds. -/
theorem saveAndRestoreContexts : Obligations.SaveAndRestoreContexts := by
  intro s t ring e src c
  refine ⟨fun htake => ⟨exec_save_of_no_ref htake, fun r href => ⟨fun x hx => ?_, exec_save_of_none htake href⟩⟩,
    fun hpaused => ⟨?_, ?_⟩, fun v x hfind htaken => ?_, fun htake => ⟨exec_restore_of_holding htake, fun hplan hjobs => ?_⟩⟩
  · exact ⟨saveAt e src r x, exec_save_of_context htake href hx, rfl, rfl, rfl, rfl, min_le_left _ _, by simp [saveAt]⟩
  · simp only [exec, execSave, State.on, Chip.vfOp, Chip.takeOp_of_paused hpaused]
  · simp only [exec, execRestore, Chip.takeOp_of_paused hpaused]
  · intro bytes fits
    by_cases hfits : fits
    · refine ⟨_, s.chip.saveDone t v x true, exec_saveImageWritten_of_fits hfind htaken hfits.1 hfits.2, rfl, ?_, ?_, ?_, fun _ => ?_,
        fun hno => absurd hfits hno, ?_, fun y hy => ?_⟩
      · rw [if_pos hfits]
      · rw [if_pos hfits]
      · simp [Chip.saveDone]
      · simp [Chip.saveDone]
      · simp [Chip.saveDone]
      · simp only [Chip.complete_tenants, Chip.saveDone, Chip.saveOver_tenants, Chip.modTenant_tenants]
        exact vecMod_ne _ _ hy
    · refine ⟨_, s.chip.saveDone t v x false, exec_saveImageWritten_of_misfit hfind htaken hfits, rfl, ?_, ?_, ?_,
        fun hyes => absurd hyes hfits, fun _ => ?_, ?_, fun y hy => ?_⟩
      · rw [if_neg hfits]
        rfl
      · rw [if_neg hfits]
        rfl
      · simp [Chip.saveDone]
      · simp [Chip.saveDone]
      · simp [Chip.saveDone]
      · simp only [State.on_chip, Chip.complete_tenants, Chip.saveDone, Chip.saveOver_tenants, Chip.modTenant_tenants]
        exact vecMod_ne _ _ hy
  · intro s0 found
    refine ⟨fun hnone => exec_restore_of_no_context htake hplan hjobs hnone,
      fun x b bytes img hfound hroom hrec hbytes hhead hparse hfits => ?_⟩
    have hqueued := State.takeSubmit_restored (s := { s with chip := c }) hroom hbytes hhead hparse hfits src
    refine ⟨⟨t, SubmitRec.read b, some img, none, some x.loaded, none, src⟩, ?_, rfl, rfl, rfl, rfl, rfl⟩
    rw [exec_restore_of_context htake hplan hjobs hfound, hrec, hqueued]
    rfl

end

section
/-! What a program's operations leave of every tenant: its windows and its key slots (R332-R334). Each function that a slot's
command can come to is shown to leave them. -/

namespace Sys2Proof.Machine

/-! ### What a tenant holds -/

/-- The windows and the key slots of every tenant. -/
def holdings (v : Vector Tenant 16) : Vector (Vector Window 16 × Vector KeySlot 8) 16 := v.map fun t => (t.windows, t.keys)

theorem holdings_get {v w : Vector Tenant 16} (h : holdings v = holdings w) (n : Fin 16) :
    v[n].windows = w[n].windows ∧ v[n].keys = w[n].keys := by
  have hn := congrArg (fun x => x[n]) h
  simpa [holdings] using hn

@[simp] theorem holdings_vecMod {v : Vector Tenant 16} {t : Fin 16} {f : Tenant → Tenant} (hw : ∀ x, (f x).windows = x.windows)
    (hk : ∀ x, (f x).keys = x.keys) : holdings (vecMod v t f) = holdings v := by
  ext i hi
  · by_cases h : i = t.val
    · subst h
      simp [holdings, hw]
    · have hne : (⟨i, hi⟩ : Fin 16) ≠ t := fun e => h (congrArg Fin.val e)
      simp [holdings, vecMod_ne v f hne]
  · by_cases h : i = t.val
    · subst h
      simp [holdings, hk]
    · have hne : (⟨i, hi⟩ : Fin 16) ≠ t := fun e => h (congrArg Fin.val e)
      simp [holdings, vecMod_ne v f hne]

/-- Steps that leave the holdings leave them together. -/
theorem foldl_holdings {α : Type} {f : Chip → α → Chip} (h : ∀ c x, holdings (f c x).tenants = holdings c.tenants) (l : List α)
    (c : Chip) : holdings (l.foldl f c).tenants = holdings c.tenants :=
  foldl_keeps (g := fun c => holdings c.tenants) h l c

theorem State.foldl_holdings {α : Type} {f : State → α → State} (h : ∀ s x, holdings (f s x).chip.tenants = holdings s.chip.tenants)
    (l : List α) (s : State) : holdings (l.foldl f s).chip.tenants = holdings s.chip.tenants :=
  State.foldl_keeps (g := fun s => holdings s.chip.tenants) h l s

/-! ### A tenant's own functions -/

@[simp] theorem Tenant.takeStream_windows (t : Tenant) (bs : List Byte) : (t.takeStream bs).windows = t.windows := by
  unfold Tenant.takeStream
  split <;> rfl

@[simp] theorem Tenant.takeStream_keys (t : Tenant) (bs : List Byte) : (t.takeStream bs).keys = t.keys := by
  unfold Tenant.takeStream
  split <;> rfl

@[simp] theorem Tenant.retire_windows (t : Tenant) (r : Running) (b : Build) : (t.retire r b).windows = t.windows := by
  unfold Tenant.retire
  split <;> rfl

@[simp] theorem Tenant.retire_keys (t : Tenant) (r : Running) (b : Build) : (t.retire r b).keys = t.keys := by
  unfold Tenant.retire
  split <;> rfl

@[simp] theorem Tenant.rewind_windows (t : Tenant) (serves : Bool) (x : Past) : (t.rewind serves x).windows = t.windows := by
  unfold Tenant.rewind
  split <;> rfl

@[simp] theorem Tenant.rewind_keys (t : Tenant) (serves : Bool) (x : Past) : (t.rewind serves x).keys = t.keys := by
  unfold Tenant.rewind
  split <;> rfl

/-! ### The chip's functions -/

@[simp] theorem Chip.setFState_holdings (c : Chip) (t : Fin 16) (st : FState) :
    holdings (c.setFState t st).tenants = holdings c.tenants := by simp [Chip.setFState_tenants]

@[simp] theorem Chip.failAdmissions_holdings (c : Chip) (t : Fin 16) (st : W16) :
    holdings (c.failAdmissions t st).tenants = holdings c.tenants := by simp [Chip.failAdmissions]

@[simp] theorem Chip.loseBatches_holdings (c : Chip) (t : Fin 16) (plan : W16) (n : Nat) (st : W16) :
    holdings (c.loseBatches t plan n st).tenants = holdings c.tenants := by simp [Chip.loseBatches]

@[simp] theorem Chip.freeRetained_holdings (c : Chip) (p : Fin 4) (t : Fin 16) :
    holdings (c.freeRetained p t).tenants = holdings c.tenants := holdings_vecMod (fun _ => rfl) fun _ => rfl

@[simp] theorem Chip.settleRetires_holdings (c : Chip) (t : Fin 16) :
    holdings (c.settleRetires t).tenants = holdings c.tenants := by simp [Chip.settleRetires]

@[simp] theorem Chip.faultOut_holdings (c : Chip) (p : Fin 4) (r : Running) (n : Nat) (commit : Stamp × W32) (f : FaultInfo) :
    holdings (c.faultOut p r n commit f).tenants = holdings c.tenants := by simp [Chip.faultOut]

@[simp] theorem Chip.endPlan_holdings (c : Chip) (p : Fin 4) (r : Running) (n : Nat) (st : W16) (out : StepOut) :
    holdings (c.endPlan p r n st out).tenants = holdings c.tenants := by
  unfold Chip.endPlan
  dsimp only
  split <;> split <;> simp

@[simp] theorem Chip.takeSwitch_holdings (c : Chip) (t : Fin 16) (w : PendSwitch) :
    holdings (c.takeSwitch t w).tenants = holdings c.tenants := by
  have hmod : holdings (c.modTenant t fun x => x.takeSwitch w).tenants = holdings c.tenants :=
    holdings_vecMod (fun _ => rfl) fun _ => rfl
  simp [Chip.takeSwitch, ← hmod]

@[simp] theorem Chip.switchStep_holdings (c : Chip) (t : Fin 16) :
    holdings (c.switchStep t).tenants = holdings c.tenants := by
  simp [Chip.switchStep, foldl_holdings fun c w => Chip.takeSwitch_holdings c t w]

@[simp] theorem Chip.ageRetained_holdings (c : Chip) (t : Fin 16) :
    holdings (c.ageRetained t).tenants = holdings c.tenants := by simp [Chip.ageRetained]

@[simp] theorem Chip.activate_tenants (c : Chip) : c.activate.tenants = c.tenants := by
  unfold Chip.activate
  split
  · rfl
  · split
    · rw [Chip.handover_eq, Chip.restartJob_tenants, (c.released_spec _).2.2.1]
    · rfl

@[simp] theorem Chip.closeStep_holdings (c : Chip) (p : Fin 4) (t : Fin 16) (stay : List (Nat × ReqSlot)) (gone : List EpochCopy) :
    holdings (c.closeStep p t stay gone).tenants = holdings c.tenants := by simp [Chip.closeStep]

@[simp] theorem Chip.finishRequests_holdings (c : Chip) (p : Fin 4) (r : Running) (ended : Bool) :
    holdings (c.finishRequests p r ended).1.tenants = holdings c.tenants := by
  unfold Chip.finishRequests
  dsimp only
  split <;> simp

@[simp] theorem Chip.pauseHold_holdings (c : Chip) (p : Fin 4) : holdings (c.pauseHold p).tenants = holdings c.tenants := by
  unfold Chip.pauseHold
  split
  · rfl
  · split <;> simp [Chip.hold]

@[simp] theorem Chip.chooseEpoch_holdings (c : Chip) (p : Fin 4) (r : Running) :
    holdings (c.chooseEpoch p r).tenants = holdings c.tenants := by
  have hmod : holdings (vecMod c.tenants r.plan.tenant fun x => if r.plan.req.isSome then { x with
      prevEpoch := if r.plan.req.isSome then c.tenants[r.plan.tenant].nextEpoch c.tenants[r.plan.tenant].prevEpoch
        else c.tenants[r.plan.tenant].curEpoch.getD 0 } else x) = holdings c.tenants :=
    holdings_vecMod (fun x => by split <;> rfl) fun x => by split <;> rfl
  exact hmod

@[simp] theorem Chip.takeSaves_holdings (c : Chip) (p : Fin 4) (r : Running) :
    holdings (c.takeSaves p r).1.tenants = holdings c.tenants := by
  unfold Chip.takeSaves
  dsimp only
  split
  · rfl
  · dsimp only
    split <;> simp [Chip.hold]

@[simp] theorem Chip.boundaryEvents_holdings (c : Chip) (p : Fin 4) (t : Fin 16) :
    holdings (c.boundaryEvents p t).tenants = holdings c.tenants := by simp [Chip.boundaryEvents]

/-! ### The ends and starts of plans -/

@[simp] theorem State.startWaiting_holdings (s : State) (p : Fin 4) :
    holdings (s.startWaiting p).chip.tenants = holdings s.chip.tenants := by
  cases h : s.chip.mayStart p with
  | none => rw [State.startWaiting_of_not_mayStart h]
  | some y =>
    obtain ⟨ks, hks⟩ := State.startWaiting_tenants h
    simp [hks]

@[simp] theorem State.freePart_holdings (s : State) (p : Fin 4) :
    holdings (s.freePart p).chip.tenants = holdings s.chip.tenants := by
  simp [State.freePart, State.foldl_holdings State.startWaiting_holdings]

@[simp] theorem State.restore_holdings (s : State) (p : Fin 4) : holdings (s.restore p).chip.tenants = holdings s.chip.tenants := by
  cases hrun : s.chip.run p with
  | none => simp [State.restore, hrun]
  | some r =>
    cases hsrc : replaySource r.commits with
    | none => rw [State.restore_of_none hrun hsrc]
    | some x =>
      rw [State.restore_of_some hrun hsrc]
      simp [restoreChip_tenants]

@[simp] theorem State.tenantFault_holdings (s : State) (p : Fin 4) (f : FaultInfo) (sound : Bool) :
    holdings (s.tenantFault p f sound).chip.tenants = holdings s.chip.tenants := by
  unfold State.tenantFault
  split
  · rfl
  · rename_i r _
    have h : holdings (if sound then (s.on fun c => c.abortBusy r f.status).restore p
        else s.on fun c => c.abortBusy r f.status).chip.tenants = holdings s.chip.tenants := by
      split <;> simp
    dsimp only
    split
    · exact h
    · rw [State.freePart_holdings, State.on_chip, Chip.faultOut_holdings]
      exact h

@[simp] theorem State.endPlan_holdings (s : State) (p : Fin 4) (r : Running) (n : Nat) (st : W16) (out : StepOut) :
    holdings (s.endPlan p r n st out).chip.tenants = holdings s.chip.tenants := by simp [State.endPlan]

@[simp] theorem State.failPlan_holdings (s : State) (p : Fin 4) (r : Running) (n bidx : Nat) (slot reason : Byte) (out : StepOut) :
    holdings (s.failPlan p r n bidx slot reason out).chip.tenants = holdings s.chip.tenants := by simp [State.failPlan]

@[simp] theorem State.detFault_holdings (s : State) (p : Fin 4) (st : W16) (det : Byte) (unit : W32) (sound : Bool) :
    holdings (s.detFault p st det unit sound).chip.tenants = holdings s.chip.tenants := by
  unfold State.detFault
  split <;> simp

@[simp] theorem State.ueFault_holdings (s : State) (p : Fin 4) (unit : W32) (sound : Bool) :
    holdings (s.ueFault p unit sound).chip.tenants = holdings s.chip.tenants := by simp [State.ueFault]

@[simp] theorem State.readsBad_holdings (s : State) (p : Fin 4) (r : Running) (k : PAddr) :
    holdings (s.readsBad p r k).chip.tenants = holdings s.chip.tenants := by
  unfold State.readsBad State.dataFault
  dsimp only
  split <;> simp

@[simp] theorem State.slotFault_holdings (s : State) (p : Fin 4) (r : Running) (st : W16) (slot : Nat) (cause : W64) :
    holdings (s.slotFault p r st slot cause).chip.tenants = holdings s.chip.tenants := State.tenantFault_holdings ..

@[simp] theorem State.slotFails_holdings (s : State) (p : Fin 4) (r : Running) (slot : Nat) (e : SlotFail) :
    holdings (s.slotFails p r slot e).chip.tenants = holdings s.chip.tenants := by
  unfold State.slotFails
  split <;> simp

/-! ### The boundary -/

@[simp] theorem State.writeBlock_holdings (s : State) (p : Fin 4) (r : Running) (bytes : List Byte) :
    holdings (s.writeBlock p r bytes).chip.tenants = holdings s.chip.tenants := by
  unfold State.writeBlock
  dsimp only
  split
  · rfl
  · split
    · simp [State.boundaryWrite]
    · rfl

@[simp] theorem Chip.reportNonfinite_ite_tenants (c : Chip) (r : Running) (b : Bool) :
    (if b = true then c.reportNonfinite r else c).tenants = c.tenants := by split <;> simp

@[simp] theorem State.monitorStep_holdings (s : State) (p : Fin 4) (r : Running) :
    holdings (s.monitorStep p r).chip.tenants = holdings s.chip.tenants := by
  unfold State.monitorStep
  dsimp only
  split <;> simp

@[simp] theorem State.writePrompt_holdings (s : State) (p : Fin 4) (r : Running) (rt : ReqTable) (slot : Nat) (prompt : List W32) :
    holdings (s.writePrompt p r rt slot prompt).chip.tenants = holdings s.chip.tenants := by
  unfold State.writePrompt
  dsimp only
  split <;> rfl

@[simp] theorem admitLoop_holdings (p : Fin 4) (r : Running) (rt : ReqTable) (n : Nat) (l : List PendAdm) (s : State) :
    holdings (admitLoop p r rt n l s).1.chip.tenants = holdings s.chip.tenants := by
  fun_induction admitLoop p r rt n l s <;> simp_all +zetaDelta

@[simp] theorem State.admitStep_holdings (s : State) (p : Fin 4) (r : Running) :
    holdings (s.admitStep p r).chip.tenants = holdings s.chip.tenants := by
  unfold State.admitStep
  split
  · rfl
  · split
    · rfl
    · simp

@[simp] theorem State.intake_holdings (s : State) (p : Fin 4) (r : Running) :
    holdings (s.intake p r).chip.tenants = holdings s.chip.tenants := rfl

@[simp] theorem State.beginStep_holdings (s : State) (p : Fin 4) :
    holdings (s.beginStep p).chip.tenants = holdings s.chip.tenants := by
  unfold State.beginStep
  split
  · rfl
  · dsimp only
    split <;> simp

@[simp] theorem State.enterStep_holdings (s : State) (p : Fin 4) (out : StepOut) :
    holdings (s.enterStep p out).chip.tenants = holdings s.chip.tenants := by
  unfold State.enterStep
  split
  · rfl
  · split <;> simp

@[simp] theorem State.recross_holdings (s : State) (p : Fin 4) (x : CommitPt) (rest : List CommitPt) :
    holdings (s.recross p x rest).chip.tenants = holdings s.chip.tenants := by simp [State.recross]

@[simp] theorem State.boundary_holdings (s : State) (p : Fin 4) (last : Bool) :
    holdings (s.boundary p last).chip.tenants = holdings s.chip.tenants := by
  unfold State.boundary
  dsimp only
  split
  · rfl
  · split
    · simp
    · split
      · simp
      · split
        · split <;> simp
        · simp

/-! ### Retirement and collectives -/

@[simp] theorem State.retire_holdings (s : State) (p : Fin 4) (r : Running) (b : Build) :
    holdings (s.retire p r b).chip.tenants = holdings s.chip.tenants := by
  unfold State.retire
  dsimp only
  (repeat' split) <;> simp

@[simp] theorem State.collFails_holdings (s : State) (p : Fin 4) (g : Group) (skip : List (Fin 16)) (st : W16) :
    holdings (s.collFails p g skip st).chip.tenants = holdings s.chip.tenants := by
  unfold State.collFails
  dsimp only
  split <;> split <;> simp

@[simp] theorem State.collStep_holdings (s : State) (p : Fin 4) :
    holdings (s.collStep p).chip.tenants = holdings s.chip.tenants := by
  unfold State.collStep
  dsimp only
  (repeat' split) <;> simp

theorem State.takeColl_holdings {s s' : State} {p : Fin 4} {q : Fin 16} {g : Group} {f : DataFrame}
    (h : s.takeColl p q g f = some s') : holdings s'.chip.tenants = holdings s.chip.tenants := by
  unfold State.takeColl at h
  dsimp only at h
  (repeat' split at h) <;> cases h <;> simp

theorem State.takeTransfer_holdings {s s' : State} {q : Fin 16} {g : Group} {f : DataFrame}
    (h : s.takeTransfer q g f = some s') : holdings s'.chip.tenants = holdings s.chip.tenants := by
  unfold State.takeTransfer at h
  dsimp only at h
  (repeat' split at h) <;> cases h <;> simp

theorem State.takeHead_holdings {s s' : State} {q : Fin 16} (h : s.takeHead q = some s') :
    holdings s'.chip.tenants = holdings s.chip.tenants := by
  unfold State.takeHead at h
  (repeat' split at h) <;>
    first | exact State.takeTransfer_holdings h | exact State.takeColl_holdings h | (cases h; done) | (cases h; simp)

theorem State.takeAny_holdings {s s' : State} {l : List (Fin 16)} (h : s.takeAny l = some s') :
    holdings s'.chip.tenants = holdings s.chip.tenants := by
  induction l with
  | nil => cases h
  | cons q qs ih =>
    rw [State.takeAny] at h
    split at h
    · next hq =>
      cases h
      exact State.takeHead_holdings hq
    · exact ih h

@[simp] theorem State.consumeAll_holdings (s : State) : holdings s.consumeAll.chip.tenants = holdings s.chip.tenants := by
  rw [State.consumeAll]
  generalize 1024 = n
  induction n generalizing s with
  | zero => rfl
  | succ n ih =>
    rw [State.consume]
    split
    · next h => rw [ih, State.takeAny_holdings h]
    · rfl

@[simp] theorem State.beginColl_holdings (s : State) (p : Fin 4) (q : CollReq) (g : Group) (r : Running) (b : Build) :
    holdings (s.beginColl p q g r b).chip.tenants = holdings s.chip.tenants := by simp [State.beginColl]

@[simp] theorem State.finishBundle_holdings (s : State) (p : Fin 4) (r : Running) (b : Build) :
    holdings (s.finishBundle p r b).chip.tenants = holdings s.chip.tenants := by
  unfold State.finishBundle
  (repeat' split) <;> simp

@[simp] theorem State.slotDone_holdings (s : State) (p : Fin 4) (r : Running) (more : Bool) (b : Build) :
    holdings (s.slotDone p r more b).chip.tenants = holdings s.chip.tenants := by
  unfold State.slotDone
  split <;> simp

theorem State.issue_holdings (s : State) (i : Instr) (sl : Slot) (pos : SlotPos) (body : View → Build → Except SlotFail Build) :
    holdings (s.issue i sl pos body).chip.tenants = holdings s.chip.tenants := by
  unfold State.issue
  dsimp only
  (repeat' split) <;> simp

/-- Every slot operation stands at a place of the bundle. -/
theorem slotPosOf_of_slotOf {i : Instr} {sl : Slot} (h : slotOf i = some sl) : ∃ pos, slotPosOf i = some pos := by
  unfold slotOf at h
  split at h <;> cases h <;> exact ⟨_, rfl⟩

end Sys2Proof.Machine

open Sys2Proof.Machine

/-- Settles O27: a slot's command issues its operation, and nothing that an issue can come to changes a window or a key slot. -/
theorem slotCommandsKeepWindows : Obligations.SlotCommandsKeepWindows := by
  intro s t i sl hsl hexec n
  obtain ⟨pos, hpos⟩ := slotPosOf_of_slotOf hsl
  obtain ⟨body, hbody⟩ := exec_issues hsl hpos s
  rw [hbody] at hexec
  cases hexec
  exact holdings_get (s.issue_holdings i sl pos body) n

end

section
/-! BAR2 (R241, R243, R335, R414): where an offset of the aperture lies, and what a read and a write of it do. -/

namespace Sys2Proof.Machine

/-! ### The aperture -/

/-- An offset below 2^40 past a window's place names that byte of the window. -/
theorem apertureAt_window (w : Fin 16) {o : Nat} (ho : o < 2 ^ 40) : apertureAt (w.val * 2 ^ 40 + o) = (w, o) := by
  have hw : (w.val * 2 ^ 40 + o) / 2 ^ 40 = w.val := by omega
  have ho' : (w.val * 2 ^ 40 + o) % 2 ^ 40 = o := by omega
  unfold apertureAt
  rw [hw, ho']
  simp

theorem Tenant.aperture_window (t : Tenant) (w : Fin 16) {o : Nat} (ho : o < 2 ^ 40) :
    t.aperture (w.val * 2 ^ 40 + o) = t.winAddr w o := by
  unfold Tenant.aperture
  rw [apertureAt_window w ho]

theorem Tenant.winAddr_of_lt {t : Tenant} {w : Fin 16} {t1 : Bool} {o : Nat} (ht : t.windows[w].tier = some t1)
    (ho : o < t.windows[w].limit.toNat - t.windows[w].base.toNat) :
    t.winAddr w o = some (t1, t.windows[w].base.toNat + o) := by
  simp only [Tenant.winAddr, ht, if_pos ho]

theorem Tenant.winAddr_of_outside {t : Tenant} {w : Fin 16} {o : Nat}
    (h : t.windows[w].tier = none ∨ t.windows[w].limit.toNat - t.windows[w].base.toNat ≤ o) : t.winAddr w o = none := by
  unfold Tenant.winAddr
  cases ht : t.windows[w].tier with
  | none => rfl
  | some t1 =>
    have hle := h.resolve_left fun hn => nomatch hn.symm.trans ht
    exact if_neg (by omega)

/-! ### What a corrected codeword leaves -/

@[simp] theorem Chip.countCe_gate (c : Chip) (t1 : Bool) (a : Nat) : (c.countCe t1 a).gate = c.gate := by
  unfold Chip.countCe
  split
  dsimp only
  split <;> simp

@[simp] theorem Chip.countCes_gate (c : Chip) (ks : List PAddr) : (c.countCes ks).gate = c.gate :=
  foldl_gate (fun _ _ => Chip.countCe_gate ..) ks c

theorem Mem.correctedAt_sound {m : Mem} (h : m.sound = true) (as : List (Option PAddr)) : m.correctedAt as = [] := if_pos h

/-! ### Reads -/

/-- The bytes that a read of the aperture names, in order. -/
def Tenant.apertures (t : Tenant) (off len : Nat) : List (Option PAddr) := (List.range len).map fun i => t.aperture (off + i)

theorem Tenant.mem_apertures {t : Tenant} {off len : Nat} {x : Option PAddr} :
    x ∈ t.apertures off len ↔ ∃ i, i < len ∧ t.aperture (off + i) = x := by
  simp [Tenant.apertures]

/-- The first byte of those named that lies in an uncorrectable codeword. -/
def Mem.firstBad (m : Mem) (as : List (Option PAddr)) : Option PAddr :=
  as.findSome? fun a => a.bind fun x => if m.bad (wordOf x) then some x else none

theorem Mem.firstBad_eq_none {m : Mem} {as : List (Option PAddr)} (h : ∀ a, some a ∈ as → m.bad (wordOf a) = false) :
    m.firstBad as = none := by
  refine List.findSome?_eq_none_iff.mpr fun x hx => ?_
  cases x with
  | none => rfl
  | some a => simp [h a hx]

theorem Mem.firstBad_of_mem {m : Mem} {as : List (Option PAddr)} {a : PAddr} (h : some a ∈ as) (hbad : m.bad (wordOf a) = true) :
    ∃ x, m.firstBad as = some x := by
  cases hfirst : m.firstBad as with
  | some x => exact ⟨x, rfl⟩
  | none =>
    have hnone := List.findSome?_eq_none_iff.mp hfirst (some a) h
    simp [hbad] at hnone

theorem execBar2Read_of_bad {s : State} {t : Fin 16} {off : BitVec 44} {len : Fin 65} {x : PAddr} (hpow : s.chip.power = .running)
    (h : s.mem.firstBad (s.chip.tenants[t].apertures off.toNat len.val) = some x) :
    exec (.bar2Read t off len) s = .next (s.on fun c => { c.foundBad x.1 x.2 with readData := [] }) := by
  change execBar2Read t off len s = _
  unfold Mem.firstBad Tenant.apertures at h
  simp only [execBar2Read, Chip.up_of_running hpow, Bool.not_true, Bool.false_eq_true, if_false, h]

/-- A read of the aperture that finds an uncorrectable codeword carries no data and raises source 1. -/
theorem bar2Read_of_bad {s : State} {t : Fin 16} {off : BitVec 44} {len : Fin 65} {x : PAddr} (hpow : s.chip.power = .running)
    (h : s.mem.firstBad (s.chip.tenants[t].apertures off.toNat len.val) = some x) :
    ∃ u, exec (.bar2Read t off len) s = .next u ∧ u.chip.readData = [] ∧ u.mem = s.mem ∧ u.pending = s.pending ∧
      (s.chip.intc.src[1] = .idle → u.chip.intc.src[1] = .pending) := by
  have hsrc : ({ s.chip.foundBad x.1 x.2 with readData := [] } : Chip).intc = (s.chip.foundBad x.1 x.2).intc := rfl
  refine ⟨_, execBar2Read_of_bad hpow h, State.on_chip .. ▸ rfl, State.on_mem .., State.on_pending .., fun hidle => ?_⟩
  rw [State.on_chip, hsrc]
  exact Chip.foundBad_src1 hidle x.1 x.2

/-- The chip after a read of the aperture that finds no uncorrectable codeword. -/
def State.bar2Chip (s : State) (t : Fin 16) (as : List (Option PAddr)) : Chip :=
  { s.chip.countCes (s.mem.correctedAt as) with
    readData := as.map fun a => match a with
      | some x => s.hostByte t x
      | none => 0xFF
    drawn := if as.any fun a => a.any (s.chip.away t) then s.chip.drawn + 1 else s.chip.drawn }

theorem execBar2Read_of_sound {s : State} {t : Fin 16} {off : BitVec 44} {len : Fin 65} (hpow : s.chip.power = .running)
    (h : s.mem.firstBad (s.chip.tenants[t].apertures off.toNat len.val) = none) :
    exec (.bar2Read t off len) s = .next { s with chip := s.bar2Chip t (s.chip.tenants[t].apertures off.toNat len.val) } := by
  change execBar2Read t off len s = _
  unfold Mem.firstBad at h
  unfold Tenant.apertures at h ⊢
  simp only [execBar2Read, Chip.up_of_running hpow, Bool.not_true, Bool.false_eq_true, if_false, h]
  rfl

theorem State.bar2Chip_readData {s : State} {t : Fin 16} {off len i : Nat} (hi : i < len) :
    (s.bar2Chip t (s.chip.tenants[t].apertures off len)).readData[i]? =
      some (match s.chip.tenants[t].aperture (off + i) with
        | some x => s.hostByte t x
        | none => 0xFF) := by
  simp only [State.bar2Chip, Tenant.apertures, List.getElem?_map, List.getElem?_range hi, Option.map_some]

theorem State.bar2Chip_of_sound {s : State} {t : Fin 16} {as : List (Option PAddr)} (hsound : s.mem.sound = true)
    (haway : ∀ a, some a ∈ as → s.chip.away t a = false) :
    s.bar2Chip t as = { s.chip with readData := (s.bar2Chip t as).readData } := by
  have hany : (as.any fun a => a.any (s.chip.away t)) = false := by
    refine List.any_eq_false.mpr fun x hx => ?_
    cases x with
    | none => simp
    | some a => simp [haway a hx]
  unfold State.bar2Chip
  rw [Mem.correctedAt_sound hsound, hany]
  rfl

/-! ### Writes -/

/-- The bytes of a write to the aperture with the places where they lie. -/
def Tenant.apertureBytes (t : Tenant) (off : Nat) (bytes : List Byte) : List (Option PAddr × Byte) :=
  bytes.zipIdx.map fun x => (t.aperture (off + x.2), x.1)

theorem Tenant.mem_apertureBytes {t : Tenant} {off : Nat} {bytes : List Byte} {x : Option PAddr × Byte} :
    x ∈ t.apertureBytes off bytes ↔ ∃ i, bytes[i]? = some x.2 ∧ t.aperture (off + i) = x.1 := by
  obtain ⟨a, b⟩ := x
  simp only [Tenant.apertureBytes, List.mem_map, Prod.mk.injEq, Prod.exists, List.mem_zipIdx_iff_getElem?]
  exact ⟨fun ⟨y, i, hy, ha, hb⟩ => ⟨i, hb ▸ hy, ha⟩, fun ⟨i, hb, ha⟩ => ⟨b, i, hb, ha, rfl⟩⟩

/-- The writes that reach memory: those of bytes of the windows that no working copy stands for. -/
def Chip.bar2Writes (c : Chip) (t : Fin 16) (xs : List (Option PAddr × Byte)) : List MemWrite :=
  xs.filterMap fun x => (x.1.filter fun a => !c.away t a).map fun a => ⟨a, 0xFF, x.2⟩

theorem Chip.mem_bar2Writes {c : Chip} {t : Fin 16} {xs : List (Option PAddr × Byte)} {w : MemWrite} :
    w ∈ c.bar2Writes t xs ↔ ∃ a b, (some a, b) ∈ xs ∧ c.away t a = false ∧ w = ⟨a, 0xFF, b⟩ := by
  simp only [Chip.bar2Writes, List.mem_filterMap]
  constructor
  · rintro ⟨⟨a, b⟩, hx, hw⟩
    cases a with
    | none => simp at hw
    | some a =>
      cases haway : c.away t a with
      | true =>
        simp only [Option.filter_some, haway, Bool.not_true, Bool.false_eq_true, if_false, Option.map_none, reduceCtorEq] at hw
      | false =>
        simp only [Option.filter_some, haway, Bool.not_false, if_true, Option.map_some, Option.some.injEq] at hw
        exact ⟨a, b, hx, haway, hw.symm⟩
  · rintro ⟨a, b, hx, haway, rfl⟩
    exact ⟨(some a, b), hx, by simp only [Option.filter_some, haway, Bool.not_false, if_true, Option.map_some]⟩

/-- Whole bytes written to distinct places stand there. -/
theorem Mem.byte_foldl_apply_of_mem {ws : List MemWrite} {w : MemWrite} (hmem : w ∈ ws) (hwhole : w.mask = 0xFF)
    (huniq : ∀ v ∈ ws, v.addr = w.addr → v = w) (m : Mem) : (ws.foldl Mem.apply m).byte w.addr = w.val := by
  induction ws generalizing m with
  | nil => cases hmem
  | cons v vs ih =>
    by_cases hin : w ∈ vs
    · exact ih hin (fun x hx => huniq x (.tail _ hx)) _
    · have hvw : v = w := ((List.mem_cons.mp hmem).resolve_right hin).symm
      have hlater : ∀ x ∈ vs, x.addr ≠ w.addr := fun x hx heq => hin (huniq x (.tail _ hx) heq ▸ hx)
      subst hvw
      rw [List.foldl_cons, Mem.byte_foldl_apply vs _ hlater]
      obtain ⟨a, mask, b⟩ := v
      subst hwhole
      exact Mem.byte_apply_whole m a b

/-- What a write to the aperture makes of the chip's counts of bad and corrected codewords. -/
def State.bar2Checked (s : State) (ws : List MemWrite) : Chip :=
  match s.mem.stuck ws with
  | some w => s.chip.foundBad w.addr.1 w.addr.2
  | none => s.chip.countCes (s.mem.merged ws)

theorem State.bar2Checked_keeps (s : State) (ws : List MemWrite) :
    (s.bar2Checked ws).tenants = s.chip.tenants ∧ (s.bar2Checked ws).parts = s.chip.parts ∧
    (s.bar2Checked ws).gate = s.chip.gate := by
  unfold State.bar2Checked
  split <;> simp

theorem State.bar2Checked_of_sound {s : State} (h : s.mem.sound = true) (ws : List MemWrite) : s.bar2Checked ws = s.chip := by
  unfold State.bar2Checked
  rw [Mem.stuck_sound h, Mem.merged_sound h]
  rfl

/-- A write to the aperture is counted where one of its bytes lies outside every window. -/
def Chip.countMiss (c : Chip) (missed : Bool) : Chip :=
  if missed then { c with gate := { c.gate with bar2Miss := c.gate.bar2Miss + 1 } } else c

theorem Chip.countMiss_spec (c : Chip) (missed : Bool) :
    (c.countMiss missed).gate.bar2Miss = (if missed then c.gate.bar2Miss + 1 else c.gate.bar2Miss) ∧
    (c.countMiss missed).tenants = c.tenants ∧ (c.countMiss missed).parts = c.parts ∧
    c.countMiss missed = { c with gate := { c.gate with bar2Miss := (c.countMiss missed).gate.bar2Miss } } := by
  cases missed <;> exact ⟨rfl, rfl, rfl, rfl⟩

theorem execBar2Write_eq {s : State} {t : Fin 16} {off : BitVec 44} {bytes : List Byte} (hpow : s.chip.power = .running) :
    exec (.bar2Write t off bytes) s =
      let xs := s.chip.tenants[t].apertureBytes off.toNat bytes
      .next { s with
        mem := s.mem.applyAll (s.chip.bar2Writes t xs)
        chip := (s.bar2Checked (s.chip.bar2Writes t xs)).countMiss (xs.any fun x => x.1.isNone) } := by
  change execBar2Write t off bytes s = _
  simp only [execBar2Write, Chip.up_of_running hpow, Bool.not_true, Bool.false_eq_true, if_false]
  rfl

/-- A byte of a write lies outside every window exactly where its place in the aperture names none. -/
theorem Tenant.apertureBytes_misses {t : Tenant} {off : Nat} {bytes : List Byte} :
    ((t.apertureBytes off bytes).any fun x => x.1.isNone) = true ↔ ∃ i, i < bytes.length ∧ t.aperture (off + i) = none := by
  rw [List.any_eq_true]
  constructor
  · rintro ⟨x, hx, hnone⟩
    obtain ⟨i, hi, ha⟩ := Tenant.mem_apertureBytes.mp hx
    exact ⟨i, (List.getElem?_eq_some_iff.mp hi).1, ha.trans (Option.isNone_iff_eq_none.mp hnone)⟩
  · rintro ⟨i, hi, ha⟩
    exact ⟨(none, bytes[i]), Tenant.mem_apertureBytes.mpr ⟨i, List.getElem?_eq_getElem hi, ha⟩, rfl⟩

/-- What a write to the aperture leaves of sound memory. -/
theorem bar2Write_bytes {s : State} {t : Fin 16} {off : Nat} {bytes : List Byte} (hsound : s.mem.sound = true) :
    let at_ := fun i => s.chip.tenants[t].aperture (off + i)
    let m := s.mem.applyAll (s.chip.bar2Writes t (s.chip.tenants[t].apertureBytes off bytes))
    (∀ a, (∀ i, i < bytes.length → at_ i ≠ some a) → m.byte a = s.mem.byte a) ∧
    (∀ a, s.chip.away t a = true → m.byte a = s.mem.byte a) ∧
    ((∀ i j a, i < bytes.length → j < bytes.length → at_ i = some a → at_ j = some a → i = j) →
      ∀ i b a, bytes[i]? = some b → at_ i = some a → s.chip.away t a = false → m.byte a = b) := by
  intro at_ m
  have hwrites : ∀ w, w ∈ s.chip.bar2Writes t (s.chip.tenants[t].apertureBytes off bytes) ↔
      ∃ i a b, bytes[i]? = some b ∧ at_ i = some a ∧ s.chip.away t a = false ∧ w = ⟨a, 0xFF, b⟩ := by
    intro w
    simp only [Chip.mem_bar2Writes, Tenant.mem_apertureBytes]
    exact ⟨fun ⟨a, b, ⟨i, hb, ha⟩, hrest⟩ => ⟨i, a, b, hb, ha, hrest⟩, fun ⟨i, a, b, hb, ha, hrest⟩ => ⟨a, b, ⟨i, hb, ha⟩, hrest⟩⟩
  refine ⟨fun a ha => Mem.byte_applyAll_outside fun w hw heq => ?_, fun a haway => Mem.byte_applyAll_outside fun w hw heq => ?_,
    fun huniq i b a hb ha haway => ?_⟩
  · obtain ⟨i, a', b, hb, ha', -, rfl⟩ := (hwrites w).mp hw
    exact ha i (List.getElem?_eq_some_iff.mp hb).1 (ha'.trans (congrArg some heq))
  · obtain ⟨i, a', b, -, -, haway', rfl⟩ := (hwrites w).mp hw
    rw [← heq, haway'] at haway
    cases haway
  · have hm : m = (s.chip.bar2Writes t (s.chip.tenants[t].apertureBytes off bytes)).foldl Mem.apply s.mem := if_pos hsound
    rw [hm]
    refine Mem.byte_foldl_apply_of_mem (w := ⟨a, 0xFF, b⟩) ((hwrites _).mpr ⟨i, a, b, hb, ha, haway, rfl⟩) rfl ?_ s.mem
    intro v hv hva
    obtain ⟨j, a', b', hb', ha', -, rfl⟩ := (hwrites v).mp hv
    have hva' : a' = a := hva
    subst hva'
    have hij : i = j := huniq i j a' (List.getElem?_eq_some_iff.mp hb).1 (List.getElem?_eq_some_iff.mp hb').1 ha ha'
    subst hij
    rw [Option.some.inj (hb.symm.trans hb')]

end Sys2Proof.Machine

open Sys2Proof.Machine

/-- Settles O45: reads and writes of the aperture by the windows that its offsets name. -/
theorem apertureReachesWindows : Obligations.ApertureReachesWindows := by
  unfold Obligations.ApertureReachesWindows
  intro s t off hpow ten at_
  refine ⟨fun w t1 o htier hin ho => ?_, fun w o ho hout => ?_, fun len hgood => ?_, fun len i a hi ha hbad => ?_, fun bytes => ?_⟩
  · exact (Tenant.aperture_window ten w ho).trans (Tenant.winAddr_of_lt htier hin)
  · exact (Tenant.aperture_window ten w ho).trans (Tenant.winAddr_of_outside hout)
  · have hnone : s.mem.firstBad (ten.apertures off.toNat len.val) = none := by
      refine Mem.firstBad_eq_none fun a ha => ?_
      obtain ⟨i, hi, hat⟩ := Tenant.mem_apertures.mp ha
      exact hgood i a hi hat
    refine ⟨_, execBar2Read_of_sound hpow hnone, ?_, rfl, rfl, ?_, ?_, fun i hi hat => ?_, fun i a hi hat haway => ?_,
      fun hsound hhome => ?_⟩
    · simp [State.bar2Chip, Tenant.apertures]
    · simp [State.bar2Chip]
    · simp [State.bar2Chip]
    · refine (State.bar2Chip_readData hi).trans ?_
      rw [show s.chip.tenants[t].aperture (off.toNat + i) = none from hat]
    · refine (State.bar2Chip_readData hi).trans ?_
      rw [show s.chip.tenants[t].aperture (off.toNat + i) = some a from hat]
      simp [State.hostByte, haway]
    · refine State.bar2Chip_of_sound hsound fun a ha => ?_
      obtain ⟨i, hi, hat⟩ := Tenant.mem_apertures.mp ha
      exact hhome i a hi hat
  · obtain ⟨x, hx⟩ := Mem.firstBad_of_mem (Tenant.mem_apertures.mpr ⟨i, hi, ha⟩) hbad
    exact bar2Read_of_bad hpow hx
  · obtain ⟨hten, hparts, hgate⟩ := s.bar2Checked_keeps (s.chip.bar2Writes t (ten.apertureBytes off.toNat bytes))
    obtain ⟨hmiss, hten', hparts', heq⟩ := Chip.countMiss_spec
      (s.bar2Checked (s.chip.bar2Writes t (ten.apertureBytes off.toNat bytes)))
      ((ten.apertureBytes off.toNat bytes).any fun x => x.1.isNone)
    refine ⟨_, execBar2Write_eq hpow, rfl, hten'.trans hten, hparts'.trans hparts, ?_, fun hsound => ?_⟩
    · refine hmiss.trans ?_
      rw [hgate]
      exact if_congr Tenant.apertureBytes_misses rfl rfl
    · obtain ⟨hout, haway, hin⟩ := bar2Write_bytes (t := t) (off := off.toNat) (bytes := bytes) hsound
      refine ⟨hout, haway, hin, ?_⟩
      rw [State.bar2Checked_of_sound hsound] at heq
      dsimp only
      rw [State.bar2Checked_of_sound hsound]
      exact heq
end

section
/-! What the groups of a chip keep while plans begin: their numbers and tenants, and an ended group stays ended (R279-R281). -/

namespace Sys2Proof.Machine

/-- The groups of one chip are those of another, each under its number and of its tenant, and ended where it was. -/
def GroupsFollow (gs gs' : List Group) : Prop :=
  ∃ f : Group → Group, gs' = gs.map f ∧ ∀ g, (f g).grp = g.grp ∧ (f g).ten = g.ten ∧ (g.dead = true → (f g).dead = true)

theorem GroupsFollow.refl (gs : List Group) : GroupsFollow gs gs := ⟨id, (List.map_id gs).symm, fun _ => ⟨rfl, rfl, id⟩⟩

theorem GroupsFollow.of_eq {gs gs' : List Group} (h : gs' = gs) : GroupsFollow gs gs' := h ▸ .refl gs

theorem GroupsFollow.trans {a b c : List Group} (h : GroupsFollow a b) (h' : GroupsFollow b c) : GroupsFollow a c := by
  obtain ⟨f, rfl, hf⟩ := h
  obtain ⟨f', rfl, hf'⟩ := h'
  refine ⟨f' ∘ f, List.map_map, fun g => ?_⟩
  obtain ⟨hgrp, hten, hdead⟩ := hf g
  obtain ⟨hgrp', hten', hdead'⟩ := hf' (f g)
  exact ⟨hgrp'.trans hgrp, hten'.trans hten, fun h => hdead' (hdead h)⟩

/-- A group changed in place follows. -/
theorem GroupsFollow.modGroup {f : Group → Group} (hf : ∀ g, (f g).grp = g.grp ∧ (f g).ten = g.ten ∧ (g.dead = true → (f g).dead = true))
    (c : Chip) (n : BitVec 12) : GroupsFollow c.groups (c.modGroup n f).groups := by
  refine ⟨fun x => if x.grp = n then f x else x, rfl, fun g => ?_⟩
  dsimp only
  split
  · exact hf g
  · exact ⟨rfl, rfl, id⟩

theorem GroupsFollow.touch (c : Chip) (n : BitVec 12) : GroupsFollow c.groups (c.touch n).groups :=
  .modGroup (f := fun x => { x with moved := c.drone.now }) (fun _ => ⟨rfl, rfl, id⟩) c n

theorem GroupsFollow.foldl {α : Type} {f : Chip → α → Chip} (hf : ∀ c x, GroupsFollow c.groups (f c x).groups) (l : List α) (c : Chip) :
    GroupsFollow c.groups (l.foldl f c).groups :=
  List.foldlRecOn (motive := fun d : Chip => GroupsFollow c.groups d.groups) l f (.refl _) fun d hd x _ => hd.trans (hf d x)

/-- No group of a tenant comes to be among groups that follow. -/
theorem GroupsFollow.ten_ne {gs gs' : List Group} (h : GroupsFollow gs gs') {t : Fin 16} (hgs : ∀ g ∈ gs, g.ten ≠ t) :
    ∀ g ∈ gs', g.ten ≠ t := by
  obtain ⟨f, rfl, hf⟩ := h
  intro g hg
  obtain ⟨x, hx, rfl⟩ := List.mem_map.mp hg
  rw [(hf x).2.1]
  exact hgs x hx

/-- A group of a number stays, and stays ended, among groups that follow. -/
theorem GroupsFollow.stays {c d : Chip} (h : GroupsFollow c.groups d.groups) {n : BitVec 12} {g : Group} (hg : c.group n = some g) :
    ∃ g', d.group n = some g' ∧ (g.dead = true → g'.dead = true) := by
  obtain ⟨f, hd, hf⟩ := h
  refine ⟨f g, ?_, (hf g).2.2⟩
  have hcomp : ((fun x : Group => decide (x.grp = n)) ∘ f) = fun x => decide (x.grp = n) := by
    funext x
    simp only [Function.comp_apply, (hf x).1]
  rw [Chip.group, hd, List.find?_map, hcomp]
  exact congrArg (Option.map f) hg

/-- A group that is marked as ended stays so among groups that follow. -/
theorem GroupsFollow.dead {c d : Chip} (h : GroupsFollow c.groups d.groups) {n : BitVec 12} {g : Group} (hg : c.group n = some g)
    (hdead : g.dead = true) : ∃ g', d.group n = some g' ∧ g'.dead = true := by
  obtain ⟨g', hg', hstays⟩ := h.stays hg
  exact ⟨g', hg', hstays hdead⟩

/-! ### The start of a plan -/

theorem Chip.beginStaging_groups (c : Chip) (x : Plan) : (c.beginStaging x).1.groups = c.groups := by
  unfold Chip.beginStaging
  refine List.foldlRecOn (motive := fun y : Chip × _ => y.1.groups = c.groups) _ _ rfl fun y hy a _ => ?_
  split
  · exact hy
  · exact hy

theorem Chip.unbind_groups (c : Chip) (x : Plan) : (c.unbind x).groups = c.groups := by
  unfold Chip.unbind
  dsimp only
  split
  · simp
  · rfl

theorem GroupsFollow.begun (c : Chip) (q : Fin 4) (x : Plan) : GroupsFollow c.groups (c.begun q x).groups := by
  have hready : GroupsFollow c.groups (c.readied x).groups :=
    .trans (.of_eq ((Chip.beginStaging_groups ..).trans (c.unbind_groups x)))
      (.foldl (f := fun c (e : TurnEnt) => c.touch e.grp) (fun d e => .touch d e.grp) _ _)
  exact hready.trans (.of_eq (by simp [Chip.begun]))

theorem Chip.sendHop_groups (c : Chip) (ps : List (Fin 16)) (k : Nat) (fs : List DataFrame) : (c.sendHop ps k fs).groups = c.groups := by
  simp

theorem GroupsFollow.sendTransfers (s : State) (x : Plan) : GroupsFollow s.chip.groups (s.sendTransfers x).chip.groups := by
  unfold State.sendTransfers
  refine List.foldlRecOn (motive := fun u : State => GroupsFollow s.chip.groups u.chip.groups) _ _ (.refl _) fun u hu y _ => ?_
  split
  · exact hu
  · next g hg =>
    split
    · rw [State.on_chip]
      refine hu.trans (.trans (.of_eq (Chip.sendHop_groups ..)) (.modGroup ?_ _ g.grp))
      exact fun _ => ⟨rfl, rfl, id⟩
    · exact hu

theorem GroupsFollow.startWaiting (s : State) (p : Fin 4) : GroupsFollow s.chip.groups (s.startWaiting p).chip.groups := by
  cases h : s.chip.mayStart p with
  | none => exact .of_eq (congrArg (fun u : State => u.chip.groups) (State.startWaiting_of_not_mayStart h))
  | some x =>
    rw [State.startWaiting_of_mayStart h]
    refine .trans ?_ (.sendTransfers ..)
    exact (GroupsFollow.begun s.chip p x.1).trans (.of_eq (by rw [State.on_chip]; simp))

theorem GroupsFollow.freePart (s : State) (p : Fin 4) : GroupsFollow s.chip.groups (s.freePart p).chip.groups := by
  unfold State.freePart
  refine List.foldlRecOn (motive := fun u : State => GroupsFollow s.chip.groups u.chip.groups) _ _ (.of_eq ?_)
    fun u hu q _ => hu.trans (.startWaiting u q)
  rw [State.on_chip]
  simp

end Sys2Proof.Machine
end

section
/-! The tenant's reset (R337): no plan of the tenant runs or begins as its partitions are freed, and what the reset left of
the tenant stands meanwhile. -/

namespace Sys2Proof.Machine

/-! ### A chip rid of a tenant's plans -/

/-- Tenant `t` stands as `x`, no plan of it is bound and no group is of it, and a plan of it runs in the partitions `ps` alone. -/
structure Chip.Rid (c : Chip) (t : Fin 16) (x : Tenant) (ps : List (Fin 4)) : Prop where
  tenant : c.tenants[t] = x
  bound : ∀ p ∈ c.placer.bound, p.tenant ≠ t
  groups : ∀ g ∈ c.groups, g.ten ≠ t
  runs : ∀ (q : Fin 4) r, c.run q = some r → r.plan.tenant = t → q ∈ ps

/-- A plan that starts elsewhere leaves a partition's plan (R18). -/
theorem State.startWaiting_run_ne {s : State} {p q : Fin 4} (hq : q ≠ p) : (s.startWaiting p).chip.run q = s.chip.run q := by
  cases h : s.chip.mayStart p with
  | none => rw [State.startWaiting_of_not_mayStart h]
  | some x =>
    rw [State.startWaiting_of_mayStart h, Chip.run, (State.sendTransfers_keepsPlans ..).1, State.on_chip, Chip.complete_parts]
    exact Chip.begun_run_ne _ hq _

theorem Chip.Rid.startWaiting {s : State} {t : Fin 16} {x : Tenant} {ps : List (Fin 4)} (h : s.chip.Rid t x ps) (p : Fin 4) :
    (s.startWaiting p).chip.Rid t x ps := by
  cases hstart : s.chip.mayStart p with
  | none => rwa [State.startWaiting_of_not_mayStart hstart]
  | some y =>
    obtain ⟨plan, src⟩ := y
    have hten : plan.tenant ≠ t := h.bound plan (Chip.mayStart_mem_bound hstart)
    obtain ⟨ks, htenants⟩ := State.startWaiting_tenants hstart
    obtain ⟨hstand, hbound⟩ := State.startWaiting_begins hstart
    refine ⟨?_, fun a ha => ?_, (GroupsFollow.startWaiting s p).ten_ne h.groups, fun q r hr hrt => ?_⟩
    · rw [htenants]
      exact (vecMod_ne _ _ hten.symm).trans h.tenant
    · rw [hbound] at ha
      exact h.bound a (List.mem_filter.mp ha).1
    · by_cases hq : q = p
      · subst hq
        have hplan : r.plan = plan :=
          congrArg Stand.plan (Option.some.inj ((Chip.stand_of_run_eq hr).symm.trans hstand))
        exact absurd (hplan ▸ hrt) hten
      · exact h.runs q r ((State.startWaiting_run_ne hq).symm.trans hr) hrt

/-- Plans bound anew for the partitions set are the tenant's that they were (R81). -/
theorem Chip.applyPartSet_bound_tenant {c : Chip} {x : Plan} (h : x ∈ c.applyPartSet.placer.bound) :
    ∃ y ∈ c.placer.bound, x.tenant = y.tenant := by
  unfold Chip.applyPartSet at h
  split at h
  · exact ⟨x, h, rfl⟩
  · split at h
    · dsimp only at h
      rw [Chip.done_placer, foldl_placer fun c p => (by simp : (c.refuseTarget p).placer = c.placer)] at h
      obtain ⟨y, hy, rfl⟩ := List.mem_map.mp h
      refine ⟨y, hy, ?_⟩
      split <;> rfl
    · exact ⟨x, h, rfl⟩

theorem Chip.Rid.freePart {s : State} {t : Fin 16} {x : Tenant} {p : Fin 4} {ps : List (Fin 4)} (h : s.chip.Rid t x (p :: ps)) :
    (s.freePart p).chip.Rid t x ps := by
  unfold State.freePart
  refine List.foldlRecOn (motive := fun u : State => u.chip.Rid t x ps) _ _ ?_ fun u hu q _ => hu.startWaiting q
  rw [State.on_chip]
  refine ⟨?_, fun a ha => ?_, fun g hg => ?_, fun q r hr hrt => ?_⟩
  · simpa using h.tenant
  · simp only [Chip.settleAbsent_keeps] at ha
    obtain ⟨b, hb, heq⟩ := Chip.applyPartSet_bound_tenant ha
    exact heq ▸ h.bound b hb
  · simp only [Chip.settleAbsent_keeps, Chip.applyPartSet_keeps] at hg
    exact h.groups g hg
  · simp only [Chip.settleAbsent_keeps, Chip.applyPartSet_run] at hr
    by_cases hq : q = p
    · subst hq
      cases (congrArg Part.run (vecMod_same ..)).symm.trans hr
    · exact (List.mem_cons.mp (h.runs q r ((congrArg Part.run (vecMod_ne _ _ hq)).symm.trans hr) hrt)).resolve_left hq

theorem Chip.Rid.freeAll {s : State} {t : Fin 16} {x : Tenant} {ps : List (Fin 4)} (h : s.chip.Rid t x ps) :
    (ps.foldl State.freePart s).chip.Rid t x [] := by
  induction ps generalizing s with
  | nil => exact h
  | cons p ps ih => exact ih h.freePart

/-! ### The chip as a tenant's reset leaves it -/

/-- The state of a tenant after its reset. -/
def Tenant.afterReset (x : Tenant) (away : Bool) : Tenant :=
  { Tenant.reset with windows := x.windows, images := x.images, used := x.used, fstate := if away then .paused else .idle }

/-- The TURNs that name a plan of a tenant go. -/
def Chip.dropTurnsOf (c : Chip) (t : Fin 16) : Chip := c.dropTurns ((c.placer.bound.filter fun p => p.tenant = t).map Plan.id)

/-- The bound plans, jobs, reports and rings of a tenant go, and its state but for its windows. -/
def Chip.clearTenant (c : Chip) (t : Fin 16) (ps : List (Fin 4)) : Chip :=
  let c := { c with
    placer := { c.placer with
      bound := c.placer.bound.filter fun p => p.tenant ≠ t
      jobs := c.placer.jobs.filter fun j => j.tenant ≠ t
      rebinds := c.placer.rebinds.filter fun p => !ps.contains p }
    attests := c.attests.filter fun j => j.tenant ≠ t }
  let c := c.modTenant t fun x => x.afterReset c.driverAway
  (c.modFunc (.vf t) fun _ => Func.reset).beginJob

/-- The chip of a tenant's reset before its partitions are freed (R337). -/
def Chip.withoutTenant (c : Chip) (t : Fin 16) : Chip := ((c.dropGroups t).dropTurnsOf t).clearTenant t (c.partsOf t)

theorem exec_tenantReset (t : Fin 16) (s : State) :
    exec (.tenantReset t) s = .next ((s.chip.partsOf t).foldl State.freePart (s.on fun c => c.withoutTenant t)) := by
  change execTenantReset t s = _
  unfold execTenantReset Chip.withoutTenant Chip.clearTenant Chip.dropTurnsOf Tenant.afterReset
  simp only [State.on]

theorem Chip.beginJob_stands (c : Chip) : c.beginJob.tenants = c.tenants ∧ c.beginJob.groups = c.groups := by
  unfold Chip.beginJob
  split
  · exact ⟨rfl, rfl⟩
  · split <;> exact ⟨rfl, rfl⟩

theorem Chip.clearTenant_tenants (c : Chip) (t : Fin 16) (ps : List (Fin 4)) :
    (c.clearTenant t ps).tenants = vecMod c.tenants t fun x => x.afterReset c.driverAway := by
  unfold Chip.clearTenant
  dsimp only
  rw [(Chip.beginJob_stands _).1]
  simp [Chip.driverAway]

theorem Chip.clearTenant_stands (c : Chip) (t : Fin 16) (ps : List (Fin 4)) :
    (c.clearTenant t ps).placer.bound = (c.placer.bound.filter fun p => p.tenant ≠ t) ∧
    (c.clearTenant t ps).groups = c.groups ∧ (c.clearTenant t ps).parts = c.parts ∧
    (c.clearTenant t ps).partPending = c.partPending ∧ (c.clearTenant t ps).vfn[t] = Func.reset := by
  unfold Chip.clearTenant
  dsimp only
  rw [(Chip.beginJob_stands _).2, (Chip.beginJob_bound _).1]
  simp [Chip.modFunc]

theorem Chip.dropTurnsOf_stands (c : Chip) (t : Fin 16) : (c.dropTurnsOf t).tenants = c.tenants ∧
    (c.dropTurnsOf t).groups = c.groups ∧ (c.dropTurnsOf t).driver = c.driver ∧
    (c.dropTurnsOf t).partPending = c.partPending ∧ ∀ q, (c.dropTurnsOf t).stand q = c.stand q := by
  unfold Chip.dropTurnsOf
  simp [Chip.dropTurns_stand]

theorem Chip.dropGroups_stands (c : Chip) (t : Fin 16) : (c.dropGroups t).tenants = c.tenants ∧ (c.dropGroups t).parts = c.parts ∧
    (c.dropGroups t).driver = c.driver ∧ (c.dropGroups t).partPending = c.partPending := by
  simp

theorem Chip.dropWaiting_groups (c : Chip) (n : BitVec 12) : (c.dropWaiting n).groups = c.groups := by simp

theorem Chip.dropGroups_groups (c : Chip) (t : Fin 16) : ∀ g ∈ (c.dropGroups t).groups, g.ten ≠ t := by
  unfold Chip.dropGroups
  dsimp only
  rw [foldl_groups Chip.dropWaiting_groups]
  exact fun g hg => by simpa using (List.mem_filter.mp hg).2

theorem Chip.withoutTenant_tenants (c : Chip) (t : Fin 16) :
    (c.withoutTenant t).tenants = vecMod c.tenants t fun x => x.afterReset c.driverAway := by
  obtain ⟨hten, -, hdriver, -⟩ := c.dropGroups_stands t
  obtain ⟨hten', -, hdriver', -⟩ := (c.dropGroups t).dropTurnsOf_stands t
  rw [Chip.withoutTenant, Chip.clearTenant_tenants, Chip.driverAway, hdriver', hten', hdriver, hten, Chip.driverAway]

/-- TURNs that nothing waits for are none to drop. -/
theorem Chip.dropTurns_of_nothingWaits {c : Chip} (h : NothingWaits c) (ids : List W16) : c.dropTurns ids = c := by
  obtain ⟨-, hwaiting, hturn⟩ := h
  unfold Chip.dropTurns
  refine List.foldlRecOn (motive := fun d : Chip => d = c) _ _ rfl fun d hd p _ => ?_
  subst hd
  dsimp only
  rw [hwaiting p]
  cases hr : d.run p with
  | none => rfl
  | some r =>
    dsimp only [Option.bind_some]
    rw [hturn p r hr]

theorem Chip.partsOf_iff {c : Chip} {t : Fin 16} {p : Fin 4} : p ∈ c.partsOf t ↔ ∃ r, c.run p = some r ∧ r.plan.tenant = t := by
  simp only [Chip.partsOf, List.mem_filter, mem_allParts, true_and]
  cases c.run p <;> simp

/-- The chip is rid of the tenant's plans but for those that run, which are freed next. -/
theorem Chip.withoutTenant_rid (c : Chip) (t : Fin 16) :
    (c.withoutTenant t).Rid t (c.tenants[t].afterReset c.driverAway) (c.partsOf t) := by
  obtain ⟨hbound, hgroups, hparts, -, -⟩ := ((c.dropGroups t).dropTurnsOf t).clearTenant_stands t (c.partsOf t)
  obtain ⟨-, hgroups', -, -, hstand⟩ := (c.dropGroups t).dropTurnsOf_stands t
  refine ⟨?_, fun p hp => ?_, fun g hg => ?_, fun q r hr hrt => ?_⟩
  · rw [Chip.withoutTenant_tenants]
    exact vecMod_same ..
  · rw [Chip.withoutTenant, hbound] at hp
    simpa using (List.mem_filter.mp hp).2
  · rw [Chip.withoutTenant, hgroups, hgroups'] at hg
    exact c.dropGroups_groups t g hg
  · have hrun : ((c.dropGroups t).dropTurnsOf t).run q = some r := by
      rw [Chip.run, ← hparts]
      exact hr
    have hsame : (c.dropGroups t).stand q = c.stand q := by
      rw [Chip.stand, Chip.run, (c.dropGroups_stands t).2.1, Chip.stand, Chip.run]
    obtain ⟨r', hr', heq⟩ := Chip.stand_eq_some ((hsame.symm.trans (hstand q).symm).trans (Chip.stand_of_run_eq hrun))
    exact Chip.partsOf_iff.mpr ⟨r', hr', (congrArg (fun x : Stand => x.plan.tenant) heq).trans hrt⟩

theorem Chip.withoutTenant_nothingWaits {c : Chip} (h : NothingWaits c) (t : Fin 16) : NothingWaits (c.withoutTenant t) := by
  obtain ⟨-, hparts, -, hpending⟩ := c.dropGroups_stands t
  obtain ⟨-, -, hparts', hpending', -⟩ := ((c.dropGroups t).dropTurnsOf t).clearTenant_stands t (c.partsOf t)
  have hdrop : NothingWaits (c.dropGroups t) := nothingWaits_of_parts h hpending hparts
  have hturns : (c.dropGroups t).dropTurnsOf t = c.dropGroups t := Chip.dropTurns_of_nothingWaits hdrop _
  rw [hturns] at hparts' hpending'
  rw [Chip.withoutTenant, hturns]
  exact nothingWaits_of_parts hdrop hpending' hparts'

theorem Chip.withoutTenant_vfn (c : Chip) (t : Fin 16) : (c.withoutTenant t).vfn[t] = Func.reset := by
  obtain ⟨-, -, -, -, hvfn⟩ := ((c.dropGroups t).dropTurnsOf t).clearTenant_stands t (c.partsOf t)
  exact hvfn

theorem State.freePart_vfn {s : State} (h : NothingWaits s.chip) (p : Fin 4) : (s.freePart p).chip.vfn = s.chip.vfn := by
  obtain ⟨hpending, hwaiting, hturn⟩ := h
  have hnone : (s.chip.run p).bind Running.turn = none := by
    cases hr : s.chip.run p with
    | none => rfl
    | some r => exact hturn p r hr
  rw [State.freePart_of_none hnone hpending hwaiting, State.on_chip]
  simp

/-- Partitions freed while nothing waits leave the tenants and the functions' rings (R20). -/
theorem State.freeAll_of_nothingWaits {s : State} (h : NothingWaits s.chip) (ps : List (Fin 4)) :
    (ps.foldl State.freePart s).chip.tenants = s.chip.tenants ∧ (ps.foldl State.freePart s).chip.vfn = s.chip.vfn := by
  induction ps generalizing s with
  | nil => exact ⟨rfl, rfl⟩
  | cons p ps ih =>
    obtain ⟨hstill, -, -, htenants, -⟩ := State.freePart_alone h p
    obtain ⟨htenants', hvfn⟩ := ih hstill
    rw [List.foldl_cons, htenants', hvfn]
    exact ⟨htenants, State.freePart_vfn h p⟩

/-- What a tenant's reset leaves of the tenant (R337). -/
theorem tenantReset_spec (t : Fin 16) (s : State) : ∃ u, exec (.tenantReset t) s = .next u ∧ u.pending = s.pending ∧ u.mem = s.mem ∧
    u.chip.Rid t (s.chip.tenants[t].afterReset s.chip.driverAway) [] ∧
    ((s.chip.partsOf t = [] ∨ NothingWaits s.chip) →
      u.chip.vfn[t] = Func.reset ∧ ∀ x, x ≠ t → u.chip.tenants[x] = s.chip.tenants[x]) := by
  obtain ⟨v, hv, hmem, hpending, hchip⟩ : ∃ v : State, v = (s.on fun c => c.withoutTenant t) ∧ v.mem = s.mem ∧
      v.pending = s.pending ∧ v.chip = s.chip.withoutTenant t := ⟨_, rfl, State.on_mem .., State.on_pending .., State.on_chip ..⟩
  have hrid : v.chip.Rid t (s.chip.tenants[t].afterReset s.chip.driverAway) (s.chip.partsOf t) := by
    rw [hchip]
    exact s.chip.withoutTenant_rid t
  refine ⟨_, (exec_tenantReset t s).trans (by rw [← hv]), ?_, ?_, hrid.freeAll, fun hquiet => ?_⟩
  · exact (sfold_pending (fun u p => (u.freePart_keeps p).1) _ _).trans hpending
  · exact (sfold_mem (fun u p => (u.freePart_keeps p).2) _ _).trans hmem
  · have hkept : ((s.chip.partsOf t).foldl State.freePart v).chip.tenants = v.chip.tenants ∧
        ((s.chip.partsOf t).foldl State.freePart v).chip.vfn = v.chip.vfn := by
      rcases hquiet with hnone | hwait
      · rw [hnone]
        exact ⟨rfl, rfl⟩
      · refine State.freeAll_of_nothingWaits ?_ _
        rw [hchip]
        exact Chip.withoutTenant_nothingWaits hwait t
    obtain ⟨htenants, hvfn⟩ := hkept
    rw [htenants, hvfn, hchip, Chip.withoutTenant_tenants]
    exact ⟨s.chip.withoutTenant_vfn t, fun x hx => vecMod_ne _ _ hx⟩

end Sys2Proof.Machine
end

section
/-! TENANT_SET (R333, R334, R336): what CONFIGURE, DESTROY and GRANT answer and leave. -/

namespace Sys2Proof.Machine

/-! ### Memory under new windows -/

theorem spGet_filter_of_false {α : Type} {d : α} {k : Nat} {f : Nat × α → Bool} (hf : ∀ v, f (k, v) = false) :
    ∀ m : List (Nat × α), spGet d (m.filter f) k = d
  | [] => rfl
  | (j, v) :: m => by
    by_cases hj : j = k
    · subst hj
      simp [hf, spGet_filter_of_false hf m]
    · by_cases h : f (j, v) = true <;> simp [h, spGet, hj, spGet_filter_of_false hf m]

/-- Some window covers a byte. -/
theorem coversAny_iff {v : Vector Window 16} {a : PAddr} :
    (v.toList.any fun w => w.covers a.1 a.2) = true ↔ ∃ i : Fin 16, v[i].covers a.1 a.2 = true := by
  simp only [List.any_eq_true, Vector.mem_toList_iff, Vector.mem_iff_getElem]
  exact ⟨fun ⟨_, ⟨i, hi, hw⟩, h⟩ => ⟨⟨i, hi⟩, hw ▸ h⟩, fun ⟨i, h⟩ => ⟨_, ⟨i.val, i.isLt, rfl⟩, h⟩⟩

theorem coversAny_eq_false {v : Vector Window 16} {a : PAddr} (h : ∀ i : Fin 16, v[i].covers a.1 a.2 = false) :
    (v.toList.any fun w => w.covers a.1 a.2) = false := by
  refine Bool.eq_false_iff.mpr fun hany => ?_
  obtain ⟨i, hi⟩ := coversAny_iff.mp hany
  exact Bool.false_ne_true ((h i).symm.trans hi)

/-- A byte that a window covered before, or that none covers now, stands; any other is zero. -/
theorem Mem.byte_clearNew (m : Mem) (old new : Vector Window 16) (a : PAddr) : (m.clearNew old new).byte a =
    if (old.toList.any fun w => w.covers a.1 a.2) || !(new.toList.any fun w => w.covers a.1 a.2) then m.byte a else 0 := by
  obtain ⟨t1, k⟩ := a
  cases hkeep : (old.toList.any fun w => w.covers t1 k) || !(new.toList.any fun w => w.covers t1 k) with
  | true => cases t1 <;> exact spGet_filter fun _ => hkeep
  | false => cases t1 <;> exact spGet_filter_of_false (fun _ => hkeep) _

/-- Memory that the new windows bring in is zero, and all other memory stands (R334). -/
theorem Mem.clearNew_spec (m : Mem) (old new : Vector Window 16) :
    (∀ a, (∃ i : Fin 16, new[i].covers a.1 a.2 = true) → (∀ i : Fin 16, old[i].covers a.1 a.2 = false) →
      (m.clearNew old new).byte a = 0) ∧
    (∀ a, (∀ i : Fin 16, new[i].covers a.1 a.2 = false) → (m.clearNew old new).byte a = m.byte a) ∧
    ∀ a, (∃ i : Fin 16, old[i].covers a.1 a.2 = true) → (m.clearNew old new).byte a = m.byte a := by
  refine ⟨fun a hnew hold => ?_, fun a hnone => ?_, fun a hold => ?_⟩
  · rw [Mem.byte_clearNew, coversAny_eq_false hold, coversAny_iff.mpr hnew]
    rfl
  · rw [Mem.byte_clearNew, coversAny_eq_false hnone, Bool.not_false, Bool.or_true, if_pos rfl]
  · rw [Mem.byte_clearNew, coversAny_iff.mpr hold]
    rfl

/-- The windows of a tenant with the grants of a record. -/
def Tenant.granted (x : Tenant) (wins : List WinRec) : Tenant :=
  { x with
    windows := Vector.ofFn fun i : Fin 16 => match x.windows[i].tier, wins[i.val]? with
      | some _, some w => { x.windows[i] with grant := w.grant }
      | _, _ => x.windows[i] }

/-! ### The command's entry -/

/-- A command of the PF's ring 0 leaves its entry taken and the rest as it was (R299). -/
theorem Chip.takeOp_pf {c c' : Chip} {k : Fin 8} {opc n : Nat} {e : Entry} {src : CmdSrc}
    (h : c.takeOp .pf k opc n = some (e, src, c')) : ∃ sc fn, c' = { c with scan := sc, pfn := fn } := by
  unfold Chip.takeOp at h
  split at h
  · next e' src' d htake =>
    split at h
    · cases h
      obtain ⟨sc, -, -, -, rfl⟩ := Chip.take_some htake
      exact ⟨sc, _, rfl⟩
    · cases h
  · cases h

/-- The chip after a CONFIGURE that is taken. -/
def Chip.windowsSet (c : Chip) (src : CmdSrc) (t : Fin 16) (wins : List WinRec) : Chip :=
  (c.modTenant t fun x => { x with windows := c.makeWins t wins }).done src 0

/-- The chip after a DESTROY that is taken. -/
def Chip.windowsGone (c : Chip) (src : CmdSrc) (t : Fin 16) : Chip :=
  ((c.modTenant t fun x => { x with
    windows := Vector.replicate 16 Window.unused, layers := [], scale := scaleReset, images := [] }).setFState t .idle).done src 0

/-- A GRANT's record lies in the host region and each of its entries matches its window. -/
def Chip.grantsFit (c : Chip) (e : Entry) (wins : List WinRec) : Bool :=
  c.recordThere e && decide (wins.length = 16) && wins.zipIdx.all fun x => c.grantOk (opTenant e) (Fin.ofNat 16 x.2) x.1

/-- The chip after a GRANT that is taken. -/
def Chip.grantsSet (c : Chip) (src : CmdSrc) (t : Fin 16) (wins : List WinRec) : Chip :=
  (c.modTenant t fun x => x.granted wins).done src 0

section
variable {s : State} {e : Entry} {src : CmdSrc} {c : Chip} (htake : s.chip.takeOp .pf 0 0x84 1 = some (e, src, c))
include htake

/-- What CONFIGURE judges by is the same before its entry is taken and after. -/
theorem tenantSet_judged : c.tenants = s.chip.tenants ∧ s.chip.recordThere e = c.recordThere e ∧
    (∀ t, s.chip.occupied t = c.occupied t) ∧ (∀ t wins, s.chip.configOk t wins = c.configOk t wins) ∧
    (∀ t wins, s.chip.makeWins t wins = c.makeWins t wins) ∧ s.chip.driverAway = c.driverAway := by
  obtain ⟨sc, fn, rfl⟩ := Chip.takeOp_pf htake
  exact ⟨rfl, rfl, fun _ => rfl, fun _ _ => rfl, fun _ _ => rfl, rfl⟩

variable (hdriver : c.driverAway = false) (hten : entryAt e 16 1 < 16) (hres : entryAt e 18 6 = 0) (hres' : entryAt e 32 32 = 0)
include hdriver hten hres hres'

theorem Chip.tenantOp_of_takeOp (k : Entry → CmdSrc → Chip → Chip) : s.chip.tenantOp (entryAt e 17 1) k = k e src c := by
  have hok : ¬(16 ≤ entryAt e 16 1 ∨ entryAt e 18 6 ≠ 0 ∨ entryAt e 32 32 ≠ 0) := by omega
  simp only [Chip.tenantOp, htake, ne_eq, not_true_eq_false, if_false, hdriver, Bool.false_eq_true, if_neg hok]

/-- CONFIGURE of what it may not set is BUSY (R334). -/
theorem exec_configure_busy (hop : entryAt e 17 1 = 0) {wins : List WinRec}
    (hbad : (c.recordThere e && !c.occupied (opTenant e) && c.configOk (opTenant e) wins) = false) :
    exec (.tenantSetConfigure wins) s = .next { s with chip := c.done src 0x0002 } := by
  obtain ⟨-, hrec, hocc, hconf, -, -⟩ := tenantSet_judged htake
  have hchip (k : Entry → CmdSrc → Chip → Chip) : s.chip.tenantOp 0 k = k e src c :=
    hop ▸ Chip.tenantOp_of_takeOp htake hdriver hten hres hres' k
  change execTenantSetConfigure wins s = _
  simp only [execTenantSetConfigure, htake, hrec, hocc, hconf, hbad, Bool.and_false, Bool.false_eq_true, if_false, State.on, hchip]

/-- CONFIGURE puts its windows in force and clears the memory that is new to them (R334). -/
theorem exec_configure_ok (hop : entryAt e 17 1 = 0) {wins : List WinRec}
    (hgood : (c.recordThere e && !c.occupied (opTenant e) && c.configOk (opTenant e) wins) = true) :
    exec (.tenantSetConfigure wins) s = .next { s with
      chip := c.windowsSet src (opTenant e) wins
      mem := s.mem.clearNew c.tenants[opTenant e].windows (c.makeWins (opTenant e) wins) } := by
  obtain ⟨htenants, hrec, hocc, hconf, hmake, haway⟩ := tenantSet_judged htake
  have hchip (k : Entry → CmdSrc → Chip → Chip) : s.chip.tenantOp 0 k = k e src c :=
    hop ▸ Chip.tenantOp_of_takeOp htake hdriver hten hres hres' k
  change execTenantSetConfigure wins s = _
  simp only [execTenantSetConfigure, htake, hrec, hocc, hconf, hmake, hgood, haway, hdriver, hop, hten, hres, hres', htenants,
    decide_true, Bool.not_false, Bool.and_self, if_true, State.on, hchip, Chip.windowsSet]

theorem exec_destroy_busy (hop : entryAt e 17 1 = 1) (hocc : c.occupied (opTenant e) = true) :
    exec .tenantSetDestroy s = .next { s with chip := c.done src 0x0002 } := by
  have hchip (k : Entry → CmdSrc → Chip → Chip) : s.chip.tenantOp 1 k = k e src c :=
    hop ▸ Chip.tenantOp_of_takeOp htake hdriver hten hres hres' k
  change execTenantSetDestroy s = _
  simp only [execTenantSetDestroy, State.on, hchip, hocc, if_true]

theorem exec_destroy_ok (hop : entryAt e 17 1 = 1) (hocc : c.occupied (opTenant e) = false) :
    exec .tenantSetDestroy s = .next { s with chip := c.windowsGone src (opTenant e) } := by
  have hchip (k : Entry → CmdSrc → Chip → Chip) : s.chip.tenantOp 1 k = k e src c :=
    hop ▸ Chip.tenantOp_of_takeOp htake hdriver hten hres hres' k
  change execTenantSetDestroy s = _
  simp only [execTenantSetDestroy, State.on, hchip, hocc, Bool.false_eq_true, if_false, Chip.windowsGone]

theorem exec_grant_busy (hop : entryAt e 17 1 = 2) {wins : List WinRec} (hbad : c.grantsFit e wins = false) :
    exec (.tenantSetGrant wins) s = .next { s with chip := c.done src 0x0002 } := by
  have hchip (k : Entry → CmdSrc → Chip → Chip) : s.chip.tenantOp 2 k = k e src c :=
    hop ▸ Chip.tenantOp_of_takeOp htake hdriver hten hres hres' k
  unfold Chip.grantsFit at hbad
  change execTenantSetGrant wins s = _
  simp only [execTenantSetGrant, State.on, hchip, hbad, Bool.false_eq_true, if_false]

theorem exec_grant_ok (hop : entryAt e 17 1 = 2) {wins : List WinRec} (hgood : c.grantsFit e wins = true) :
    exec (.tenantSetGrant wins) s = .next { s with chip := c.grantsSet src (opTenant e) wins } := by
  have hchip (k : Entry → CmdSrc → Chip → Chip) : s.chip.tenantOp 2 k = k e src c :=
    hop ▸ Chip.tenantOp_of_takeOp htake hdriver hten hres hres' k
  unfold Chip.grantsFit at hgood
  change execTenantSetGrant wins s = _
  simp only [execTenantSetGrant, State.on, hchip, hgood, if_true]
  rfl

end

/-! ### What CONFIGURE, DESTROY and GRANT leave -/

theorem Chip.makeWins_get {c : Chip} {t : Fin 16} {wins : List WinRec} {i : Fin 16} {w : WinRec} (h : wins[i.val]? = some w) :
    (c.makeWins t wins)[i] = c.makeWin c.tenants[t].windows[i] w := by
  simp [Chip.makeWins, h]

theorem Chip.makeWin_spec (c : Chip) (old : Window) (w : WinRec) :
    (w.tier = 0 → c.makeWin old w = Window.unused) ∧
    (w.tier ≠ 0 → (c.makeWin old w).tier = some (decide (w.tier = 1)) ∧ (c.makeWin old w).base = w.base ∧
      (c.makeWin old w).limit = w.limit ∧ (c.makeWin old w).grant = w.grant) := by
  refine ⟨fun h => if_pos h, fun h => ?_⟩
  unfold Chip.makeWin
  rw [if_neg h]
  exact ⟨rfl, rfl, rfl, rfl⟩

theorem Chip.grantsFit_iff {c : Chip} {e : Entry} {wins : List WinRec} (hlen : wins.length = 16) :
    c.grantsFit e wins = true ↔ c.recordThere e = true ∧ ∀ (i : Fin 16) w, wins[i.val]? = some w → c.grantOk (opTenant e) i w = true := by
  have hfits : c.grantsFit e wins =
      (c.recordThere e && wins.zipIdx.all fun x => c.grantOk (opTenant e) (Fin.ofNat 16 x.2) x.1) := by
    rw [Chip.grantsFit, decide_eq_true hlen, Bool.and_true]
  rw [hfits, Bool.and_eq_true, List.all_eq_true]
  refine and_congr_right fun _ => ⟨fun h i w hw => ?_, ?_⟩
  · simpa using h (w, i.val) (List.mem_zipIdx_iff_getElem?.mpr hw)
  · rintro h ⟨w, i⟩ hw
    have hget := List.mem_zipIdx_iff_getElem?.mp hw
    have hi : i < 16 := hlen ▸ (List.getElem?_eq_some_iff.mp hget).1
    have hfin : Fin.ofNat 16 i = ⟨i, hi⟩ := Fin.ext (Nat.mod_eq_of_lt hi)
    dsimp only
    rw [hfin]
    exact h ⟨i, hi⟩ w hget

theorem Chip.windowsSet_spec (c : Chip) (src : CmdSrc) (t : Fin 16) (wins : List WinRec) :
    (c.windowsSet src t wins).tenants[t].windows = c.makeWins t wins ∧
      ∀ x, x ≠ t → (c.windowsSet src t wins).tenants[x] = c.tenants[x] := by
  have htenants : (c.windowsSet src t wins).tenants = vecMod c.tenants t fun x => { x with windows := c.makeWins t wins } := by
    simp [Chip.windowsSet]
  rw [htenants]
  exact ⟨congrArg Tenant.windows (vecMod_same ..), fun x hx => vecMod_ne _ _ hx⟩

theorem Chip.windowsGone_spec (c : Chip) (src : CmdSrc) (t : Fin 16) :
    (c.windowsGone src t).tenants[t].windows = Vector.replicate 16 Window.unused ∧
    (c.windowsGone src t).tenants[t].fstate = .idle ∧ (c.windowsGone src t).tenants[t].layers = [] ∧
    ∀ x, x ≠ t → (c.windowsGone src t).tenants[x] = c.tenants[x] := by
  have htenants : (c.windowsGone src t).tenants = vecMod c.tenants t fun x => { x with
      windows := Vector.replicate 16 Window.unused, layers := [], scale := scaleReset, images := [], fstate := .idle } := by
    simp only [Chip.windowsGone, Chip.done_tenants, Chip.setFState_tenants, Chip.modTenant_tenants, vecMod_vecMod]
  have hsame := vecMod_same c.tenants t fun x => { x with
      windows := Vector.replicate 16 Window.unused, layers := [], scale := scaleReset, images := [], fstate := FState.idle }
  rw [htenants]
  exact ⟨congrArg Tenant.windows hsame, congrArg Tenant.fstate hsame, congrArg Tenant.layers hsame, fun x hx => vecMod_ne _ _ hx⟩

theorem Tenant.granted_window {x : Tenant} {wins : List WinRec} {i : Fin 16} {w : WinRec} (h : wins[i.val]? = some w) :
    (x.granted wins).windows[i] = if x.windows[i].tier = none then x.windows[i] else { x.windows[i] with grant := w.grant } := by
  simp only [Tenant.granted, Fin.getElem_fin, Vector.getElem_ofFn, h]
  cases x.windows[i.val].tier <;> rfl

theorem Chip.grantsSet_spec (c : Chip) (src : CmdSrc) (t : Fin 16) (wins : List WinRec) :
    (c.grantsSet src t wins).tenants[t] = c.tenants[t].granted wins ∧
    ∀ x, x ≠ t → (c.grantsSet src t wins).tenants[x] = c.tenants[x] := by
  have htenants : (c.grantsSet src t wins).tenants = vecMod c.tenants t fun x => x.granted wins := by simp [Chip.grantsSet]
  rw [htenants]
  exact ⟨vecMod_same .., fun x hx => vecMod_ne _ _ hx⟩

end Sys2Proof.Machine

open Sys2Proof.Machine

/-- Settles O41: TENANT_SET by its three operations, and the tenant's reset by what no partition that it frees brings back. -/
theorem tenantsAreSetAndReset : Obligations.TenantsAreSetAndReset := by
  intro s
  refine ⟨fun e src c htake hdriver hten hres hres' => ?_, fun t => ?_⟩
  · intro t busy
    refine ⟨fun wins hop hbad => ?_, fun wins hop hrec hocc hconf => ?_, fun hop hocc => ?_, fun hop hocc => ?_,
      fun wins hop hlen => ⟨fun hbad => ?_, fun hrec hgrants => ?_⟩⟩
    · refine exec_configure_busy htake hdriver hten hres hres' hop ?_
      change (c.recordThere e && !c.occupied t && c.configOk t wins) = false
      rcases hbad with h | h | h <;> simp [h]
    · obtain ⟨hwins, hothers⟩ := c.windowsSet_spec src t wins
      have hgood : (c.recordThere e && !c.occupied (opTenant e) && c.configOk (opTenant e) wins) = true := by
        change (c.recordThere e && !c.occupied t && c.configOk t wins) = true
        simp [hrec, hocc, hconf]
      obtain ⟨hzero, hnone, hkept⟩ := s.mem.clearNew_spec c.tenants[t].windows (c.makeWins t wins)
      refine ⟨_, exec_configure_ok htake hdriver hten hres hres' hop hgood, rfl, fun i w hw => ?_,
        fun a h => hzero a (hwins ▸ h), fun a h => hnone a (hwins ▸ h), hkept, hothers⟩
      have hwin : (c.windowsSet src t wins).tenants[t].windows[i] = c.makeWin c.tenants[t].windows[i] w :=
        (congrArg (fun v : Vector Window 16 => v[i]) hwins).trans (Chip.makeWins_get hw)
      exact hwin ▸ c.makeWin_spec ..
    · exact exec_destroy_busy htake hdriver hten hres hres' hop hocc
    · obtain ⟨hwins, hfstate, hlayers, hothers⟩ := c.windowsGone_spec src t
      exact ⟨_, exec_destroy_ok htake hdriver hten hres hres' hop hocc, rfl, rfl, hwins, hfstate, hlayers, hothers⟩
    · refine exec_grant_busy htake hdriver hten hres hres' hop (Bool.eq_false_iff.mpr fun hfit => ?_)
      obtain ⟨hrec, hall⟩ := (Chip.grantsFit_iff hlen).mp hfit
      rcases hbad with h | ⟨i, w, hw, h⟩
      · exact Bool.false_ne_true (h.symm.trans hrec)
      · exact Bool.false_ne_true (h.symm.trans (hall i w hw))
    · obtain ⟨hsame, hothers⟩ := c.grantsSet_spec src t wins
      exact ⟨_, exec_grant_ok htake hdriver hten hres hres' hop ((Chip.grantsFit_iff hlen).mpr ⟨hrec, hgrants⟩), rfl, rfl,
        fun i w hw => (congrArg (fun x : Tenant => x.windows[i]) hsame).trans (Tenant.granted_window hw), hothers⟩
  · obtain ⟨u, hexec, hpending, hmem, ⟨htenant, hbound, hgroups, hruns⟩, hquiet⟩ := tenantReset_spec t s
    refine ⟨u, hexec, hpending, hmem, fun p r hr hrt => List.not_mem_nil (hruns p r hr hrt), (congrArg Tenant.windows htenant).trans rfl,
      congrArg Tenant.keys htenant, congrArg Tenant.copies htenant, congrArg Tenant.fetches htenant, congrArg Tenant.slots htenant,
      congrArg Tenant.pendAdm htenant, congrArg Tenant.mbatches htenant, congrArg Tenant.layers htenant,
      congrArg Tenant.scale htenant, hbound, hgroups, fun hnone => hquiet (.inl ?_),
      fun hturn hwaiting hpend => hquiet (.inr ⟨hpend, hwaiting, hturn⟩)⟩
    refine List.eq_nil_iff_forall_not_mem.mpr fun p hp => ?_
    obtain ⟨r, hr, hrt⟩ := Chip.partsOf_iff.mp hp
    exact hnone p r hr hrt
end

section
/-! The management agent (R354-R371): what a served request comes to, and the segment's other frames. -/

namespace Sys2Proof.Machine

/-! ### A request that the agent serves (R356-R363) -/

/-- The request is answered, the module otherwise stands as its operation left it, and nothing of memory or queue changes. -/
structure Answered (s u : State) (c : Chip) (r : MReq) (op : Byte) (status : W16) (xs : List RespItem) (recs : List HbStored) :
    Prop where
  replies : Replies s u r op status xs recs
  mem : u.mem = s.mem
  pending : u.pending = s.pending
  chip : u.chip = { c with mgmt := u.chip.mgmt }
  staging : u.chip.mgmt.staging = c.mgmt.staging

/-- An operation sends nothing itself and leaves the count of requests. -/
def Chip.QuietAs (c d : Chip) : Prop := c.mgmt.tx = d.mgmt.tx ∧ c.mgmt.rx = d.mgmt.rx

theorem Chip.QuietAs.of_mgmt {c d : Chip} (h : c.mgmt = d.mgmt) : c.QuietAs d := ⟨by rw [h], by rw [h]⟩

theorem Chip.QuietAs.trans {c d e : Chip} (h : c.QuietAs d) (h' : d.QuietAs e) : c.QuietAs e := ⟨h.1.trans h'.1, h.2.trans h'.2⟩

/-- A reply after the request is counted. -/
theorem answered_of_reply {s : State} {r : MReq} {op : Byte} {st : W16} {xs : List RespItem} {recs : List HbStored} {c : Chip}
    (hquiet : c.QuietAs s.chip.received73) : Answered s { s with chip := c.reply r op st xs recs } c r op st xs recs where
  replies := replies_of_reply rfl hquiet.1 hquiet.2
  mem := rfl
  pending := rfl
  chip := rfl
  staging := rfl

/-- What a request that the agent serves comes to. -/
theorem serve_answered {s : State} {r : MReq} (h : FreshRequest s.chip r) (op : Byte)
    (f : Chip → Chip × W16 × List RespItem × List HbStored) {c : Chip} {st : W16} {xs : List RespItem} {recs : List HbStored}
    (hf : f s.chip.received73 = (c, st, xs, recs)) (hquiet : c.QuietAs s.chip.received73) :
    ∃ u, Host.Outcome.next (s.on fun c => c.serve r op f) = (.next u : Host.Outcome State Fault Refusal) ∧
      Answered s u c r op st xs recs := by
  refine ⟨_, rfl, ?_⟩
  rw [State.on, Chip.serve_of_fresh h op f hf]
  exact answered_of_reply hquiet

/-! ### Items (R359-R361) -/

/-- An item as it is answered. -/
def Chip.answerItem (c : Chip) (o : ObjId) (e : Option Refused) (value : List Byte) : RespItem := (c.itemOf o e value).2

theorem Chip.itemOf_spec (c : Chip) (o : ObjId) (e : Option Refused) (value : List Byte) :
    (c.itemOf o e value).1 = { c with mgmt := (c.itemOf o e value).1.mgmt } ∧
    (c.itemOf o e value).1.mgmt.staging = c.mgmt.staging ∧ (c.itemOf o e value).1.QuietAs c := by
  unfold Chip.itemOf
  cases e <;> exact ⟨rfl, rfl, rfl, rfl⟩

/-- A request of one item. -/
theorem serve_item_answered {s : State} {r : MReq} (h : FreshRequest s.chip r) (op : Byte)
    (f : Chip → Chip × W16 × List RespItem × List HbStored) {c : Chip} {o : ObjId} {e : Option Refused} {v : List Byte}
    (hf : f s.chip.received73 = ((c.itemOf o e v).1, 0, [(c.itemOf o e v).2], [])) (hquiet : c.QuietAs s.chip.received73) :
    ∃ u, Host.Outcome.next (s.on fun c => c.serve r op f) = (.next u : Host.Outcome State Fault Refusal) ∧
      Answered s u c r op 0 [c.answerItem o e v] [] := by
  obtain ⟨hchip, hstaging, hitem⟩ := c.itemOf_spec o e v
  obtain ⟨u, hexec, hreplies, hmem, hpending, hu, hst⟩ := serve_answered h op f hf (hitem.trans hquiet)
  refine ⟨u, hexec, hreplies, hmem, hpending, ?_, hst.trans hstaging⟩
  rw [hu, hchip]

/-- A WRITE of one item that names its object. -/
theorem writeOne_answered {s : State} {r : MReq} (h : FreshRequest s.chip r) {x : WItem} {row : ObjRow} {k : Nat}
    (hobj : objFind x.obj = some (row, k)) {c : Chip} {e : Option Refused} {v : List Byte}
    (hitem : s.chip.received73.writeItem r.src x = c.itemOf x.obj e v) (hquiet : c.QuietAs s.chip.received73) :
    ∃ u, Host.Outcome.next (s.writeOne r x row.name) = (.next u : Host.Outcome State Fault Refusal) ∧
      Answered s u c r 3 0 [c.answerItem x.obj e v] [] := by
  have hwrite : s.writeOne r x row.name = s.on fun c => c.serveWrite r [x] := by
    simp only [State.writeOne, hobj, if_true]
  rw [hwrite]
  exact serve_item_answered h 3 _ (by simp [Chip.items, hitem]) hquiet

/-! ### The segment (R354-R356, R366, R367) -/

theorem Chip.onSegment_of {c : Chip} (hpow : c.power = .running) (hnode : c.mgmt.plcaNode ≠ 0) : c.onSegment = true := by
  rw [Chip.onSegment, Chip.hubPower_of_running hpow, decide_eq_true hnode, Bool.and_self]

theorem Mgmt.know_spec (m : Mgmt) (a : BitVec 128) :
    a ∈ (m.know a).neighbours ∧ (m.know a).tx = m.tx ∧ (m.know a).addr = m.addr := by
  unfold Mgmt.know
  split
  · next h => exact ⟨List.contains_iff_mem.mp h, rfl, rfl⟩
  · exact ⟨List.mem_cons_self, rfl, rfl⟩

theorem Mgmt.stagingOf_dropStaging (m : Mgmt) (who : Requester) : (m.dropStaging who).stagingOf who = none := by
  refine List.find?_eq_none.mpr fun x hx => ?_
  have hne : x.src ≠ who := by simpa using (List.mem_filter.mp hx).2
  simpa using hne

theorem Chip.addrDup_spec (c : Chip) : c.addrDup.mgmt = { c.mgmt with addr := .duplicate } := by
  simp [Chip.addrDup]

/-- A heartbeat is sent where the address is usable (R367). -/
theorem Chip.heartbeat_spec {c : Chip} (haddr : c.mgmt.addr = .usable) (hnode : c.mgmt.plcaNode ≠ 0) (down : Bool) :
    ∃ h, c.heartbeat down = { c with mgmt := { c.mgmt with
      tx := c.mgmt.tx ++ [h], hbseq := c.mgmt.hbseq + 1
      hbDue := c.drone.now + BitVec.ofNat 64 (c.mram.hbMs.toNat * 1000000) } } := by
  unfold Chip.heartbeat
  rw [if_pos ⟨haddr, hnode⟩]
  exact ⟨_, rfl⟩

/-- A request that finds the queue full is answered and does nothing (R362). -/
theorem exec_queueFull {s : State} {r : MReq} (hears : s.chip.hears r.src = true) :
    exec (.mgmtQueueFull r) s = .next { s with chip := s.chip.received73.reply r 0 0x0002 [] [] } := by
  change execMgmtQueueFull r s = _
  simp only [execMgmtQueueFull, State.on, hears, if_true]

/-- A repeated request is answered as before (R363). -/
theorem exec_retry {s : State} {r : MReq} (hears : s.chip.hears r.src = true) {x : Response} (hkept : s.chip.keptOf r = some x) :
    exec (.mgmtRetry r) s = .next { s with chip := s.chip.received73.sendResp r.src x } := by
  change execMgmtRetry r s = _
  simp only [execMgmtRetry, State.on, hears, Bool.not_true, Bool.false_eq_true, if_false, hkept]

section
variable {s : State} (hpow : s.chip.power = .running)
include hpow

theorem exec_heartbeatSend (hdue : s.chip.mgmt.hbDue.toNat ≤ s.chip.drone.now.toNat) :
    exec .heartbeatSend s = .next { s with chip := s.chip.heartbeat false } := by
  have h : (s.chip.hubPower && s.chip.due s.chip.mgmt.hbDue) = true := by
    rw [Chip.hubPower_of_running hpow, Chip.due, decide_eq_true hdue, Bool.and_self]
  change execHeartbeatSend s = _
  simp only [execHeartbeatSend, State.on, h, if_true]

variable (hnode : s.chip.mgmt.plcaNode ≠ 0)
include hnode

theorem exec_echoRequest (haddr : s.chip.mgmt.addr = .usable) (src : BitVec 128) (ident seq : W16) (data : List Byte) :
    exec (.echoRequest src ident seq data) s = .next { s with chip := { s.chip with
      mgmt := { s.chip.mgmt with tx := s.chip.mgmt.tx ++ [.echoReply src ident seq data] } } } := by
  change execEchoRequest src ident seq data s = _
  simp only [execEchoRequest, State.on, Chip.onSegment_of hpow hnode, haddr, decide_true, Bool.and_self, if_true]

theorem exec_discard_unreachable (haddr : s.chip.mgmt.addr = .usable) (src : BitVec 128) :
    exec (.mgmtDatagramDiscard src true) s = .next { s with chip := { s.chip with
      mgmt := { s.chip.mgmt with tx := s.chip.mgmt.tx ++ [.unreachable src] } } } := by
  change execMgmtDatagramDiscard src true s = _
  simp only [execMgmtDatagramDiscard, State.on, Chip.onSegment_of hpow hnode, haddr, Bool.not_true, Bool.false_eq_true, if_false, if_true]

theorem exec_discard_counted (src : BitVec 128) :
    exec (.mgmtDatagramDiscard src false) s = .next { s with chip := { s.chip with
      mgmt := { s.chip.mgmt with rxDrop := s.chip.mgmt.rxDrop + 1 } } } := by
  change execMgmtDatagramDiscard src false s = _
  simp only [execMgmtDatagramDiscard, State.on, Chip.onSegment_of hpow hnode, Bool.not_true, Bool.false_eq_true, if_false]

/-- A solicitation of the module's own address is answered unless the address is still tentative (R356). -/
theorem exec_solicitation (haddr : s.chip.mgmt.addr ≠ .tentative) (src : BitVec 128) :
    exec (.neighbourSolicitation src s.chip.mgmtAddr) s = .next { s with chip := { s.chip with
      mgmt := { s.chip.mgmt.know src with tx := s.chip.mgmt.tx ++ [.advert src s.chip.mgmtAddr] } } } := by
  change execNeighbourSolicitation src s.chip.mgmtAddr s = _
  simp only [execNeighbourSolicitation, State.on, Chip.onSegment_of hpow hnode, haddr, ne_eq, not_false_eq_true, decide_true,
    Bool.and_self, if_true]

theorem exec_advertisement_duplicate (haddr : s.chip.mgmt.addr = .tentative) (src : BitVec 128) :
    exec (.neighbourAdvertisement src s.chip.mgmtAddr) s = .next { s with chip := s.chip.addrDup } := by
  change execNeighbourAdvertisement src s.chip.mgmtAddr s = _
  simp only [execNeighbourAdvertisement, State.on, Chip.onSegment_of hpow hnode, haddr, Bool.not_true, Bool.false_eq_true, if_false,
    and_self, if_true]

theorem exec_advertisement_usable (haddr : s.chip.mgmt.addr = .usable) (src target : BitVec 128) :
    exec (.neighbourAdvertisement src target) s = .next { s with chip := { s.chip with mgmt := s.chip.mgmt.know src } } := by
  change execNeighbourAdvertisement src target s = _
  simp only [execNeighbourAdvertisement, State.on, Chip.onSegment_of hpow hnode, haddr, Bool.not_true, Bool.false_eq_true, if_false,
    reduceCtorEq, false_and]

/-- The duplicate test that finds no other node ends with the address usable and a heartbeat (R356, R405). -/
theorem exec_duplicateTest_alone (haddr : s.chip.mgmt.addr = .tentative) : exec (.duplicateAddressDetection false) s =
    .next (s.on fun c => Chip.heartbeat { c with mgmt := { c.mgmt with addr := .usable } } false) := by
  change execDuplicateAddressDetection false s = _
  simp only [execDuplicateAddressDetection, State.on, Chip.onSegment_of hpow hnode, haddr, decide_true, Bool.and_self, Bool.not_true,
    Bool.false_eq_true, if_false]

theorem exec_duplicateTest_found (haddr : s.chip.mgmt.addr = .tentative) : exec (.duplicateAddressDetection true) s =
    .next { s with chip := s.chip.addrDup } := by
  change execDuplicateAddressDetection true s = _
  simp only [execDuplicateAddressDetection, State.on, Chip.onSegment_of hpow hnode, haddr, decide_true, Bool.and_self, Bool.not_true,
    Bool.false_eq_true, if_false, if_true]

theorem exec_beaconSeen : exec .plcaBeaconSeen s =
    .next { s with chip := { s.chip with mgmt := { s.chip.mgmt with plcaState := true } } } := by
  change execPlcaBeaconSeen s = _
  simp only [execPlcaBeaconSeen, State.on, Chip.onSegment_of hpow hnode, if_true]

theorem exec_beaconLost : exec .plcaBeaconLost s =
    .next { s with chip := { s.chip with mgmt := { s.chip.mgmt with plcaState := false } } } := by
  change execPlcaBeaconLost s = _
  simp only [execPlcaBeaconLost, State.on, Chip.onSegment_of hpow hnode, if_true]

end

/-! ### What the agent keeps (R363, R366) -/

section
variable {s : State} {who : Requester} {st : Staging} (hst : s.chip.mgmt.stagingOf who = some st)
include hst

theorem exec_stagingExpiry_of_due (hdue : 10000000000 ≤ (s.chip.drone.now - st.since).toNat) :
    exec (.segwriteStagingExpiry who) s = .next { s with chip := { s.chip with mgmt := s.chip.mgmt.dropStaging who } } := by
  have hsince : 10000000000 ≤ s.chip.since st.since := hdue
  change execSegwriteStagingExpiry who s = _
  simp only [execSegwriteStagingExpiry, State.on, hst, hsince, if_true]

theorem exec_stagingExpiry_of_early (hearly : (s.chip.drone.now - st.since).toNat < 10000000000) :
    exec (.segwriteStagingExpiry who) s = .next s := by
  have hsince : ¬ 10000000000 ≤ s.chip.since st.since := Nat.not_le.mpr hearly
  change execSegwriteStagingExpiry who s = _
  simp only [execSegwriteStagingExpiry, State.on, hst, hsince, if_false]

end

end Sys2Proof.Machine

open Sys2Proof.Machine

/-- Settles O59: the agent's frames by what each sends, and its kept responses and stagings by their ages. -/
theorem agentAnswersTheSegment : Obligations.AgentAnswersTheSegment := by
  unfold Obligations.AgentAnswersTheSegment
  intro s hpow
  refine ⟨fun r hears => ⟨?full, fun x hkept => ?retry⟩, ?kept, fun who st hst => ⟨fun hdue => ?expired, fun hearly =>
    exec_stagingExpiry_of_early hst hearly⟩, fun hnode => ⟨fun haddr hdue => ?heartbeat,
    fun haddr => exec_echoRequest hpow hnode haddr, fun haddr => exec_discard_unreachable hpow hnode haddr,
    exec_discard_counted hpow hnode, fun haddr src => ?solicited, fun haddr => ⟨?usable, ?duplicate, fun src => ?advertised⟩,
    fun haddr src target => ?known, exec_beaconSeen hpow hnode, exec_beaconLost hpow hnode⟩⟩
  case full =>
    obtain ⟨hreplies, hmem, hpending, hchip, -⟩ := answered_of_reply (s := s) (r := r) (op := 0) (st := 0x0002) (xs := []) (recs := [])
      (.of_mgmt (rfl : s.chip.received73.mgmt = s.chip.received73.mgmt))
    exact ⟨_, exec_queueFull hears, hreplies, rfl, rfl, rfl, rfl⟩
  case retry => exact ⟨_, exec_retry hears hkept, rfl, rfl, rfl, rfl, rfl⟩
  case kept =>
    refine ⟨_, rfl, rfl, rfl, rfl, fun x => ?_⟩
    refine List.mem_filter.trans (and_congr_right fun _ => ?_)
    exact decide_eq_true_iff
  case expired =>
    exact ⟨_, exec_stagingExpiry_of_due hst hdue, Mgmt.stagingOf_dropStaging .., rfl, rfl⟩
  case heartbeat =>
    obtain ⟨h, hchip⟩ := Chip.heartbeat_spec haddr hnode false
    refine ⟨_, h, exec_heartbeatSend hpow hdue, ?_⟩
    rw [hchip]
    exact ⟨rfl, rfl, rfl, rfl, rfl, rfl⟩
  case solicited => exact ⟨_, exec_solicitation hpow hnode haddr src, rfl, (Mgmt.know_spec ..).1, rfl, rfl⟩
  case usable =>
    obtain ⟨h, hchip⟩ := Chip.heartbeat_spec (c := { s.chip with mgmt := { s.chip.mgmt with addr := .usable } }) rfl hnode false
    refine ⟨_, exec_duplicateTest_alone hpow hnode haddr, ?_⟩
    rw [State.on_chip, hchip]
    exact ⟨rfl, rfl, rfl, rfl⟩
  case duplicate =>
    refine ⟨_, exec_duplicateTest_found hpow hnode haddr, ?_⟩
    rw [Chip.addrDup_spec]
    exact ⟨rfl, rfl, rfl⟩
  case advertised =>
    refine ⟨_, exec_advertisement_duplicate hpow hnode haddr src, ?_, rfl⟩
    rw [Chip.addrDup_spec]
  case known =>
    obtain ⟨hmem, -, hstill⟩ := s.chip.mgmt.know_spec src
    exact ⟨_, exec_advertisement_usable hpow hnode haddr src target, hmem, hstill.trans haddr, rfl⟩
end

section
/-! Items of the management network's requests (R348-R361, R368, R369): the access checks, a write of a whole value, and the
committing segment of a long one. -/

namespace Sys2Proof.Machine

/-! ### Access levels (R348, R351, R368) -/

theorem Gate.openTo_zero (g : Gate) (who : Requester) : g.openTo 0 who = true := rfl

/-- What an item that names an object leaves of the gate: levels stay open or closed, and all but their times stands. -/
structure Gate.OpenAs (g g' : Gate) : Prop where
  operator : g'.operator.isSome = g.operator.isSome
  service : g'.service.isSome = g.service.isSome
  vendor : g'.vendor.isSome = g.vendor.isSome
  debugPort : g'.debugPort = g.debugPort
  chal : g'.chal = g.chal
  chalNonce : g'.chalNonce = g.chalNonce
  bar2Miss : g'.bar2Miss = g.bar2Miss

theorem Gate.OpenAs.refl (g : Gate) : g.OpenAs g := ⟨rfl, rfl, rfl, rfl, rfl, rfl, rfl⟩

theorem Gate.OpenAs.trans {a b c : Gate} (h : a.OpenAs b) (h' : b.OpenAs c) : a.OpenAs c :=
  ⟨h'.operator.trans h.operator, h'.service.trans h.service, h'.vendor.trans h.vendor, h'.debugPort.trans h.debugPort,
    h'.chal.trans h.chal, h'.chalNonce.trans h.chalNonce, h'.bar2Miss.trans h.bar2Miss⟩

/-- An open level that is set stays open. -/
theorem Gate.OpenAs.setLevel {g : Gate} {k : Nat} {x : OpenLevel} (h : g.level k = some x) (y : OpenLevel) :
    g.OpenAs (g.setLevel k (some y)) := by
  unfold Gate.level at h
  split at h
  · exact ⟨by rw [h]; rfl, rfl, rfl, rfl, rfl, rfl, rfl⟩
  · exact ⟨rfl, by rw [h]; rfl, rfl, rfl, rfl, rfl, rfl⟩
  · exact ⟨rfl, rfl, by rw [h]; rfl, rfl, rfl, rfl, rfl⟩
  · cases h

theorem Gate.qualify_openAs (g : Gate) (n : Nat) (who : Requester) (now : Stamp) : g.OpenAs (g.qualify n who now) := by
  unfold Gate.qualify
  refine List.foldlRecOn (motive := fun g' : Gate => g.OpenAs g') _ _ (.refl g) fun g' hg k _ => ?_
  split
  · next x hx =>
    split
    · exact hg.trans (.setLevel hx _)
    · exact hg
  · exact hg

/-- An item that names a public object restarts no level's time. -/
theorem Gate.qualify_zero (g : Gate) (who : Requester) (now : Stamp) : g.qualify 0 who now = g := by
  unfold Gate.qualify
  refine List.foldlRecOn (motive := fun g' : Gate => g' = g) _ _ rfl fun g' hg k hk => ?_
  have hpos : ¬ k ≤ 0 := by
    simp only [List.mem_cons, List.not_mem_nil, or_false] at hk
    omega
  rw [← hg]
  split
  · exact if_neg fun h => hpos h.1
  · rfl

/-- The chip once an item that names an object of a level has qualified (R351, R368). -/
def Chip.qualifiedAt (c : Chip) (n : Nat) (who : Requester) : Chip := { c with gate := c.gate.qualify n who c.drone.now }

theorem Chip.qualifiedAt_zero (c : Chip) (who : Requester) : c.qualifiedAt 0 who = c := by
  rw [Chip.qualifiedAt, Gate.qualify_zero]

/-! ### Grounds of refusal (R361) -/

section
variable {c : Chip} {who : Requester} {o : ObjId} {row : ObjRow} {k : Nat} {write : Bool}

theorem Chip.access_of_unknown (h : objFind o = none) : c.access who write o = (c, .error (busyFor 1)) := by
  simp only [Chip.access, h]

variable (hobj : objFind o = some (row, k))
include hobj

theorem Chip.access_of_locked (h : c.gate.openTo row.level who = false) : c.access who write o = (c, .error lockedItem) := by
  simp only [Chip.access, hobj, h, Bool.not_false, if_true]

/-- An attempt to open a level at a closed gate is recorded and refused (R350). -/
theorem Chip.access_of_closed (hopen : c.gate.openTo row.level who = true) (hopens : opensLevel row.name = true)
    (hclosed : c.gateClosed = true) : c.access who true o = (c.lockRec c.lstate, .error lockedItem) := by
  simp only [Chip.access, hobj, hopen, hopens, hclosed, Bool.not_true, Bool.false_eq_true, if_false, Bool.and_self, if_true]

variable (hopen : c.gate.openTo row.level who = true)
include hopen

theorem Chip.access_write (hgate : opensLevel row.name = true → c.gateClosed = false) (hdir : row.dir ≠ .ro) :
    c.access who true o = (c.qualifiedAt row.level who, .ok (row, k)) := by
  have hclosed : (true && opensLevel row.name && c.gateClosed) = false := by
    cases h : opensLevel row.name with
    | false => rfl
    | true => rw [hgate h]; rfl
  simp only [Chip.access, hobj, hopen, Bool.not_true, Bool.false_eq_true, if_false, hclosed, hdir, decide_false, Bool.and_false,
    Bool.false_and, Bool.or_self]
  rfl

theorem Chip.access_read (hdir : row.dir ≠ .wo) : c.access who false o = (c.qualifiedAt row.level who, .ok (row, k)) := by
  simp only [Chip.access, hobj, hopen, Bool.not_true, Bool.false_eq_true, if_false, Bool.false_and, hdir, decide_false, Bool.and_false,
    Bool.or_self]
  rfl

theorem Chip.access_read_wo (hdir : row.dir = .wo) : c.access who false o = (c.qualifiedAt row.level who, .error (busyFor 4)) := by
  simp only [Chip.access, hobj, hopen, Bool.not_true, Bool.false_eq_true, if_false, Bool.false_and, hdir, decide_true, Bool.not_false,
    Bool.and_self, Bool.or_true, if_true]
  rfl

end

/-! ### A whole value written (R358-R361, R369) -/

section
variable {c d : Chip} {who : Requester} {x : WItem} {row : ObjRow} {k : Nat}

theorem Chip.writeItem_of_refused {e : Refused} (h : c.access who true x.obj = (d, .error e)) :
    c.writeItem who x = d.itemOf x.obj (some e) [] := by
  simp only [Chip.writeItem, h]

theorem Chip.writeItem_of_access (h : c.access who true x.obj = (d, .ok (row, k))) (hlong : longWrite row.name = none)
    (htype : typeFits row x.type x.value.length = true) : c.writeItem who x =
      (d.commitWrite who x.obj row k x.value).1.itemOf x.obj (d.commitWrite who x.obj row k x.value).2 [] := by
  simp only [Chip.writeItem, h, hlong, htype, Bool.not_true, Bool.false_eq_true, if_false]

end

theorem Chip.notServed_of_running {c : Chip} {row : ObjRow} (h : c.power = .running) (hfw : row.fw = false) :
    c.notServed row = false := by
  simp [Chip.notServed, h, hfw]

section
variable {c c' : Chip} {who : Requester} {o : ObjId} {row : ObjRow} {k : Nat} {value : List Byte}
  (hfits : valueFits row value = true) (hserved : c.notServed row = false)
include hfits hserved

theorem Chip.commitWrite_public (hlevel : row.level = 0) {e : Option Refused} (h : c.perform who row k value = (c', e)) :
    c.commitWrite who o row k value = (c', e) := by
  simp only [Chip.commitWrite, hfits, hserved, h, hlevel, Bool.not_true, Bool.false_eq_true, if_false, if_true]
  cases e <;> rfl

/-- A write of an object at operator level or above is recorded (R369). -/
theorem Chip.commitWrite_recorded (hlevel : row.level ≠ 0) (h : c.perform who row k value = (c', none)) :
    c.commitWrite who o row k value = (c'.writeRec o row who (c.objRead row k) value, none) := by
  simp only [Chip.commitWrite, hfits, hserved, h, hlevel, Bool.not_true, Bool.false_eq_true, if_false]

end

theorem Chip.writeRec_eq (c : Chip) (o : ObjId) (row : ObjRow) (who : Requester) (old new : List Byte) :
    c.writeRec o row who old new = { c with hatband := (c.writeRec o row who old new).hatband } := by
  unfold Chip.writeRec
  rw [Chip.hbForm_critical_eq]

/-- What a requester has staged is given up (R366). -/
def Chip.unstaged (c : Chip) (who : Requester) : Chip := { c with mgmt := c.mgmt.dropStaging who }

theorem Chip.unstaged_quietAs (c : Chip) (who : Requester) : (c.unstaged who).QuietAs c := ⟨rfl, rfl⟩

/-! ### Requests of one object -/

section
variable {s : State} {r : MReq} (h : FreshRequest s.chip r) {o : ObjId} {row : ObjRow} {type : OType} {value : List Byte}
  (hobj : objFind o = some (row, 0)) (hopen : s.chip.gate.openTo row.level r.src = true)
include h hobj hopen

/-- A write of a whole value by a requester that has the object's level comes to what committing it comes to. -/
theorem write_answered (hgate : opensLevel row.name = true → s.chip.gateClosed = false) (hdir : row.dir ≠ .ro)
    (hlong : longWrite row.name = none) (htype : typeFits row type value.length = true) {c : Chip} {e : Option Refused}
    (hcommit : (s.chip.received73.qualifiedAt row.level r.src).commitWrite r.src o row 0 value = (c, e))
    (hquiet : c.QuietAs s.chip.received73) :
    ∃ u, Host.Outcome.next (s.writeOne r ⟨o, type, value⟩ row.name) = (.next u : Host.Outcome State Fault Refusal) ∧
      Answered s u c r 3 0 [c.answerItem o e []] [] := by
  have hitem : s.chip.received73.writeItem r.src ⟨o, type, value⟩ = c.itemOf o e [] := by
    rw [Chip.writeItem_of_access (x := ⟨o, type, value⟩) (Chip.access_write (c := s.chip.received73) hobj hopen hgate hdir) hlong htype]
    dsimp only
    rw [hcommit]
  exact writeOne_answered (x := ⟨o, type, value⟩) h hobj hitem hquiet

omit hopen in
/-- A write of a public object. -/
theorem write_public_answered (hlevel : row.level = 0) (hgate : opensLevel row.name = true → s.chip.gateClosed = false)
    (hdir : row.dir ≠ .ro) (hlong : longWrite row.name = none) (htype : typeFits row type value.length = true)
    (hfits : valueFits row value = true) (hfw : row.fw = false) {c : Chip} {e : Option Refused}
    (hperform : s.chip.received73.perform r.src row 0 value = (c, e)) (hquiet : c.QuietAs s.chip.received73) :
    ∃ u, Host.Outcome.next (s.writeOne r ⟨o, type, value⟩ row.name) = (.next u : Host.Outcome State Fault Refusal) ∧
      Answered s u c r 3 0 [c.answerItem o e []] [] := by
  refine write_answered h hobj (hlevel ▸ Gate.openTo_zero ..) hgate hdir hlong htype ?_ hquiet
  rw [hlevel, Chip.qualifiedAt_zero]
  exact Chip.commitWrite_public (c := s.chip.received73) hfits (Chip.notServed_of_running h.running hfw) hlevel hperform

/-- A write of an object at a level that the requester has: it is recorded. -/
theorem write_recorded_answered (hlevel : row.level ≠ 0) (hgate : opensLevel row.name = false) (hdir : row.dir ≠ .ro)
    (hlong : longWrite row.name = none) (htype : typeFits row type value.length = true) (hfits : valueFits row value = true)
    (hfw : row.fw = false) {c : Chip}
    (hperform : (s.chip.received73.qualifiedAt row.level r.src).perform r.src row 0 value = (c, none))
    (hquiet : c.QuietAs s.chip.received73) :
    ∃ u old, Host.Outcome.next (s.writeOne r ⟨o, type, value⟩ row.name) = (.next u : Host.Outcome State Fault Refusal) ∧
      Answered s u (c.writeRec o row r.src old value) r 3 0 [(c.writeRec o row r.src old value).answerItem o none []] [] := by
  have hserved : (s.chip.received73.qualifiedAt row.level r.src).notServed row = false := Chip.notServed_of_running h.running hfw
  obtain ⟨u, hexec, hanswer⟩ := write_answered h hobj hopen (fun hopens => absurd hopens (by rw [hgate]; decide)) hdir hlong htype
    (Chip.commitWrite_recorded hfits hserved hlevel hperform)
    (.trans (.of_mgmt (by rw [Chip.writeRec_eq])) hquiet)
  exact ⟨u, _, hexec, hanswer⟩

/-- The committing segment of a long object, once its bytes are judged (R340, R349, R361). -/
theorem judged_answered (hgate : opensLevel row.name = true → s.chip.gateClosed = false) (hdir : row.dir ≠ .ro)
    (hfw : row.fw = false) {f : Chip → ObjRow → Chip × Option Refused} {c : Chip} {e : Option Refused}
    (hf : f ((s.chip.received73.qualifiedAt row.level r.src).unstaged r.src) row = (c, e))
    (hquiet : c.QuietAs s.chip.received73) :
    ∃ u, Host.Outcome.next (s.on fun c => c.serve r 5 fun c =>
        let (c, y) := c.judgedItem r.src o f
        (c, 0, [y], [])) = (.next u : Host.Outcome State Fault Refusal) ∧
      Answered s u c r 5 0 [c.answerItem o e []] [] := by
  have hserved : (s.chip.received73.qualifiedAt row.level r.src).notServed row = false := Chip.notServed_of_running h.running hfw
  have hitem : s.chip.received73.judgedItem r.src o f = c.itemOf o e [] := by
    rw [Chip.judgedItem, Chip.access_write (c := s.chip.received73) hobj hopen hgate hdir]
    dsimp only
    rw [hserved]
    simp only [Bool.false_eq_true, if_false]
    exact congrArg (fun y : Chip × Option Refused => y.1.itemOf o y.2 []) hf
  exact serve_item_answered h 5 _ (by rw [hitem]) hquiet

end

end Sys2Proof.Machine
end

section
/-! The field gate (R340, R348-R352): what opens and closes its levels, and what a failure, a challenge and a rotation leave. -/

namespace Sys2Proof.Machine

/-! ### What an answered request leaves -/

section
variable {s u : State} {c : Chip} {r : MReq} {op : Byte} {status : W16} {xs : List RespItem} {recs : List HbStored}
  (h : Answered s u c r op status xs recs)
include h

theorem Answered.gate : u.chip.gate = c.gate := by rw [h.chip]

theorem Answered.mram : u.chip.mram = c.mram := by rw [h.chip]

theorem Answered.intc : u.chip.intc = c.intc := by rw [h.chip]

theorem Answered.tenants : u.chip.tenants = c.tenants := by rw [h.chip]

theorem Answered.objs : u.chip.objs = c.objs := by rw [h.chip]

theorem Answered.hatband : u.chip.hatband = c.hatband := by rw [h.chip]

end

/-! ### Levels opened and closed -/

theorem Chip.gateChange_full (c : Chip) (f : Gate → Gate) : c.gateChange f =
    { c with gate := f c.gate, intc := c.intc.edge 12 c.drone.now, hatband := (c.gateChange f).hatband } := by
  simp only [Chip.gateChange, Chip.lockRec, Chip.hbForm_critical_eq]
  rfl

/-- A request counted, source 12 still waits for its edge. -/
theorem received73_src12 {c : Chip} (h : c.intc.src[12] = .idle) (now : Stamp) :
    (c.received73.intc.edge 12 now).src[12] = .pending :=
  Intc.edge_of_idle ((Intc.edge_ne (by decide) _).trans h) now

/-- The gate with a level and those below it open to a requester. -/
def Gate.opened (g : Gate) (n : Nat) (who : Requester) (now : Stamp) : Gate :=
  [1, 2, 3].foldl (fun g k => if k ≤ n then g.setLevel k (some ⟨who, now⟩) else g) g

/-- The chip after a password or a response that is right (R348, R350). -/
def Chip.gateOpened (c : Chip) (n : Nat) (who : Requester) : Chip := c.gateSuccess.openLevel n who

theorem Chip.gateOpened_eq (c : Chip) (n : Nat) (who : Requester) : c.gateOpened n who =
    { c with
      mram := { c.mram with failCount := 0 }, gate := c.gate.opened n who c.drone.now
      intc := c.intc.edge 12 c.drone.now, hatband := (c.gateOpened n who).hatband } :=
  c.gateSuccess.gateChange_full fun g => g.opened n who c.drone.now

/-- The chip after a wrong one: counted and recorded, and the fifth closes the gate (R350). -/
theorem Chip.gateFailure_eq (c : Chip) (obj : Nat) (who : Requester) : c.gateFailure obj who =
    { c with
      mram := { c.mram with
        failCount := c.mram.failCount + 1
        lockoutNs := if (c.mram.failCount + 1).toNat = 5 then 3600000000000 else c.mram.lockoutNs }
      intc := c.intc.edge 12 c.drone.now, hatband := (c.gateFailure obj who).hatband } := by
  simp only [Chip.gateFailure, Chip.authFailed, Chip.hbAuth, Chip.hbForm_critical_eq]
  rfl

theorem Chip.gateClosed_of_lt {c : Chip} (h : c.mram.failCount.toNat < 5) : c.gateClosed = false :=
  decide_eq_false (Nat.not_le.mpr h)

/-- The fifth failure in a row closes the gate for an hour (R350). -/
theorem Chip.gateFailure_fifth {c : Chip} (h : c.mram.failCount = 4) (obj : Nat) (who : Requester) :
    (c.gateFailure obj who).gateClosed = true ∧ (c.gateFailure obj who).mram.lockoutNs = 3600000000000 := by
  unfold Chip.gateClosed
  rw [Chip.gateFailure_eq]
  dsimp only
  rw [h]
  exact ⟨rfl, rfl⟩

theorem Chip.quietAs_gateOpened {c d : Chip} (h : c.mgmt = d.mgmt) (n : Nat) (who : Requester) : (c.gateOpened n who).QuietAs d :=
  .of_mgmt ((congrArg Chip.mgmt (c.gateOpened_eq n who)).trans h)

theorem Chip.quietAs_gateFailure {c d : Chip} (h : c.mgmt = d.mgmt) (obj : Nat) (who : Requester) : (c.gateFailure obj who).QuietAs d :=
  .of_mgmt ((congrArg Chip.mgmt (c.gateFailure_eq obj who)).trans h)

/-- CLOSE of level 0 closes every level (R351). -/
theorem Chip.closeFrom_zero (c : Chip) : (c.closeFrom 0).gate.operator = none ∧ (c.closeFrom 0).gate.service = none ∧
    (c.closeFrom 0).gate.vendor = none ∧ (c.closeFrom 0).mgmt = c.mgmt := by
  unfold Chip.closeFrom
  split
  · rw [Chip.gateChange_full]
    exact ⟨rfl, rfl, rfl, rfl⟩
  · next hnone =>
    have hshut : ∀ k ∈ [1, 2, 3], (c.gate.level k).isSome = false := by simpa using hnone
    exact ⟨by simpa [Gate.level] using hshut 1 (by decide), by simpa [Gate.level] using hshut 2 (by decide),
      by simpa [Gate.level] using hshut 3 (by decide), rfl⟩

/-- DEBUG_EN clears every key slot (R351). -/
theorem Chip.debugOpen_spec {c : Chip} (h : c.gate.debugPort = false) : (c.debugOpen 1).gate.debugPort = true ∧
    (c.debugOpen 1).tenants = (c.tenants.map fun t => { t with keys := Vector.replicate 8 KeySlot.empty }) ∧
    (c.debugOpen 1).mgmt = c.mgmt := by
  unfold Chip.debugOpen
  rw [if_pos ⟨rfl, by rw [h]; rfl⟩, Chip.gateChange_full]
  exact ⟨rfl, rfl, rfl⟩

/-- The nonce of a challenge is used up. -/
def Chip.nonceUsed (c : Chip) : Chip := { c with gate := { c.gate with chal := none } }

/-- A response uses up the nonce, and counts within 60 s alone (R349, R350). -/
theorem Chip.respond_eq {c : Chip} {n : BitVec 256} {level : Byte} {t : Stamp} (h : c.gate.chal = some (n, level, t)) (who : Requester)
    (ok : Bool) : c.respond who (fun _ _ => ok) =
      if c.since t < 60000000000 ∧ ok = true then (c.nonceUsed.gateOpened level.toNat who, none)
      else (c.nonceUsed.gateFailure 0x800102 who, some authRefused) := by
  unfold Chip.respond
  rw [h]
  rfl

/-! ### The gate's objects (R348-R352) -/

/-- The row of PASSWORD. -/
def passwordRow : ObjRow := ⟨.password, 0x8002, 0, 1, .blob, 0, .wo, false⟩

/-- The row of NEW_PASSWORD. -/
def newPasswordRow : ObjRow := ⟨.newPassword, 0x8002, 1, 1, .blob, 1, .wo, false⟩

/-- The row of CHAL_LEVEL. -/
def chalLevelRow : ObjRow := ⟨.chalLevel, 0x8001, 0, 1, .u8, 0, .wo, false⟩

/-- The row of CHAL_RESP. -/
def chalRespRow : ObjRow := ⟨.chalResp, 0x8001, 2, 1, .blob, 0, .wo, false⟩

/-- The row of CLOSE. -/
def closeRow : ObjRow := ⟨.close, 0x8003, 0, 1, .u8, 0, .wo, false⟩

/-- The row of DEBUG_EN. -/
def debugEnRow : ObjRow := ⟨.debugEn, 0x8004, 0, 1, .bool, 2, .rw, false⟩

/-- The row of ROTATE. -/
def rotateRow : ObjRow := ⟨.rotate, 0x8010, 1, 1, .blob, 3, .wo, false⟩

theorem objFind_password : objFind ⟨0x8002, 0⟩ = some (passwordRow, 0) := by decide
theorem objFind_newPassword : objFind ⟨0x8002, 1⟩ = some (newPasswordRow, 0) := by decide
theorem objFind_chalLevel : objFind ⟨0x8001, 0⟩ = some (chalLevelRow, 0) := by decide
theorem objFind_chalResp : objFind ⟨0x8001, 2⟩ = some (chalRespRow, 0) := by decide
theorem objFind_close : objFind ⟨0x8003, 0⟩ = some (closeRow, 0) := by decide
theorem objFind_debugEn : objFind ⟨0x8004, 0⟩ = some (debugEnRow, 0) := by decide
theorem objFind_rotate : objFind ⟨0x8010, 1⟩ = some (rotateRow, 0) := by decide

/-! ### Passwords (R348, R350, R352) -/

section
variable {s : State} {r : MReq} (h : FreshRequest s.chip r)
include h

/-- A password at an open gate is tried. -/
theorem password_answered (hfail : s.chip.mram.failCount.toNat < 5) {pw : List Byte} {c : Chip} {e : Option Refused}
    (htry : s.chip.received73.tryPassword r.src pw = (c, e)) (hquiet : c.QuietAs s.chip.received73) :
    ∃ u, exec (.password r ⟨⟨0x8002, 0⟩, .blob, pw⟩) s = .next u ∧
      Answered s u c r 3 0 [c.answerItem ⟨0x8002, 0⟩ e []] [] :=
  write_public_answered h objFind_password rfl (fun _ => Chip.gateClosed_of_lt hfail) (by decide) rfl rfl rfl rfl htry hquiet

/-- A password at a closed gate is refused, and the attempt recorded (R350). -/
theorem password_refused (hfail : 5 ≤ s.chip.mram.failCount.toNat) (pw : List Byte) :
    ∃ u c, exec (.password r ⟨⟨0x8002, 0⟩, .blob, pw⟩) s = .next u ∧
      Answered s u c r 3 0 [c.answerItem ⟨0x8002, 0⟩ (some lockedItem) []] [] ∧ c.gate = s.chip.gate ∧ c.mram = s.chip.mram := by
  have hlock (c : Chip) : (c.lockRec c.lstate).mgmt = c.mgmt ∧ (c.lockRec c.lstate).gate = c.gate ∧ (c.lockRec c.lstate).mram = c.mram := by
    rw [Chip.lockRec, Chip.hbForm_critical_eq]
    exact ⟨rfl, rfl, rfl⟩
  obtain ⟨hmgmt, hgate, hmram⟩ := hlock s.chip.received73
  have haccess := Chip.access_of_closed (c := s.chip.received73) (who := r.src) objFind_password (Gate.openTo_zero ..) rfl
    (decide_eq_true hfail)
  obtain ⟨u, hexec, hanswer⟩ := writeOne_answered (x := ⟨⟨0x8002, 0⟩, .blob, pw⟩) h objFind_password
    (Chip.writeItem_of_refused haccess) (.of_mgmt hmgmt)
  exact ⟨u, _, hexec, hanswer, hgate, hmram⟩

theorem newPassword_answered (hopen : s.chip.gate.openTo 1 r.src = true) {pw : List Byte} (hlo : 8 ≤ pw.length) (hhi : pw.length ≤ 64) :
    ∃ u c x, exec (.newPassword r ⟨⟨0x8002, 1⟩, .blob, pw⟩) s = .next u ∧ Answered s u c r 3 0 [x] [] ∧ x.status = 0 ∧
      c.mram = { s.chip.mram with pwDigest := Config.pwDigest s.chip.mram.serial pw } := by
  have hfits : valueFits newPasswordRow pw = true := by simp [valueFits, newPasswordRow, typeSize, hlo, hhi]
  obtain ⟨u, old, hexec, hanswer⟩ := write_recorded_answered h objFind_newPassword hopen (type := .blob) (by decide) rfl (by decide) rfl rfl
    hfits rfl rfl (.of_mgmt rfl)
  refine ⟨u, _, _, hexec, hanswer, rfl, ?_⟩
  rw [Chip.writeRec_eq]
  rfl

/-! ### Challenges, CLOSE, DEBUG_EN, ROTATE (R340, R349, R351) -/

theorem chalLevel_answered (hfail : s.chip.mram.failCount.toNat < 5) {level : Byte} (hlevel : level = 2 ∨ level = 3) :
    ∃ u c x, exec (.chalLevel r ⟨⟨0x8001, 0⟩, .u8, [level]⟩) s = .next u ∧ Answered s u c r 3 0 [x] [] ∧ x.status = 0 ∧
      c.gate.chal = some (Config.random s.chip.drawn, level, s.chip.drone.now) ∧ c.mram = s.chip.mram := by
  have hbyte : BitVec.ofNat 8 (leNat [level]) = level := by
    rcases hlevel with rfl | rfl <;> rfl
  have hfits : valueFits chalLevelRow [level] = true := by
    rcases hlevel with rfl | rfl <;> rfl
  obtain ⟨u, hexec, hanswer⟩ := write_public_answered h objFind_chalLevel (type := .u8) (value := [level]) rfl
    (fun _ => Chip.gateClosed_of_lt hfail) (by decide) rfl rfl hfits rfl rfl (.of_mgmt rfl)
  exact ⟨u, _, _, hexec, hanswer, rfl, congrArg (fun l => some (Config.random s.chip.drawn, l, s.chip.drone.now)) hbyte, rfl⟩

/-- A response at an open gate is judged. -/
theorem chalResp_answered (hfail : s.chip.mram.failCount.toNat < 5) {v : ChalVerdict} {c : Chip} {e : Option Refused}
    (hrespond : (s.chip.received73.unstaged r.src).respond r.src (fun _ _ => v.rsaOk && v.slhOk) = (c, e))
    (hquiet : c.QuietAs s.chip.received73) :
    ∃ u, exec (.chalResp r v) s = .next u ∧ Answered s u c r 5 0 [c.answerItem ⟨0x8001, 2⟩ e []] [] := by
  refine judged_answered h objFind_chalResp (Gate.openTo_zero ..) (fun _ => Chip.gateClosed_of_lt hfail) (by decide) rfl
    (f := fun c _ => c.respond r.src fun _ _ => v.rsaOk && v.slhOk) ?_ hquiet
  rw [show chalRespRow.level = 0 from rfl, Chip.qualifiedAt_zero]
  exact hrespond

theorem close_answered : ∃ u c x, exec (.close r ⟨⟨0x8003, 0⟩, .u8, [0]⟩) s = .next u ∧ Answered s u c r 3 0 [x] [] ∧ x.status = 0 ∧
    c.gate.operator = none ∧ c.gate.service = none ∧ c.gate.vendor = none := by
  obtain ⟨hoperator, hservice, hvendor, hmgmt⟩ := s.chip.received73.closeFrom_zero
  obtain ⟨u, hexec, hanswer⟩ := write_public_answered h objFind_close (type := .u8) (value := [0]) rfl
    (fun hopens => absurd hopens (by decide)) (by decide) rfl rfl rfl rfl rfl (.of_mgmt hmgmt)
  exact ⟨u, _, _, hexec, hanswer, rfl, hoperator, hservice, hvendor⟩

theorem debugEn_answered (hopen : s.chip.gate.openTo 2 r.src = true) (hshut : s.chip.gate.debugPort = false) :
    ∃ u c x, exec (.debugEn r ⟨⟨0x8004, 0⟩, .bool, [1]⟩) s = .next u ∧ Answered s u c r 3 0 [x] [] ∧ x.status = 0 ∧
      c.gate.debugPort = true ∧ c.tenants = s.chip.tenants.map fun t => { t with keys := Vector.replicate 8 KeySlot.empty } := by
  have hport : (s.chip.received73.qualifiedAt 2 r.src).gate.debugPort = false :=
    (Gate.qualify_openAs s.chip.gate 2 r.src s.chip.drone.now).debugPort.trans hshut
  obtain ⟨hopened, htenants, hmgmt⟩ := Chip.debugOpen_spec hport
  obtain ⟨u, old, hexec, hanswer⟩ := write_recorded_answered h objFind_debugEn hopen (type := .bool) (value := [1]) (by decide) rfl
    (by decide) rfl rfl rfl rfl rfl (.of_mgmt hmgmt)
  refine ⟨u, _, _, hexec, hanswer, rfl, ?_, ?_⟩
  · rw [Chip.writeRec_eq]
    exact hopened
  · rw [Chip.writeRec_eq]
    exact htenants

/-- What a rotation record is judged by (R340). -/
def rotationSound (rec : RotRecord) : Bool := rec.curOk && rec.newOk && rec.carriedOk && rec.matchOk

/-- A rotation record is staged and recorded, or refused (R340). -/
def Chip.rotateBy (rec : RotRecord) (who : Requester) (c : Chip) (row : ObjRow) : Chip × Option Refused :=
  match c.stageRotation (rec.newIndex, rec.cert, rec.records) (rotationSound rec) with
  | (c, none) => (c.writeRec ⟨0x8010, 1⟩ row who [] [], none)
  | (c, some e) => (c, some e)

omit h in
theorem Chip.stageRotation_of_sound {c : Chip} {rec : RotRecord} (hsound : rotationSound rec = true)
    (hlo : c.mram.keyIndex.toNat < rec.newIndex.toNat) (hhi : rec.newIndex.toNat ≤ 3) :
    c.stageRotation (rec.newIndex, rec.cert, rec.records) (rotationSound rec) =
      ({ c with mram := { c.mram with staged := some (rec.newIndex, rec.cert, rec.records) } }, none) :=
  if_pos ⟨hsound, hlo, hhi⟩

omit h in
theorem Chip.stageRotation_of_unsound {c : Chip} {rec : RotRecord}
    (hbad : rotationSound rec = false ∨ rec.newIndex.toNat ≤ c.mram.keyIndex.toNat ∨ 3 < rec.newIndex.toNat) :
    c.stageRotation (rec.newIndex, rec.cert, rec.records) (rotationSound rec) = (c, some authRefused) := by
  refine if_neg fun ⟨hsound, hlo, hhi⟩ => ?_
  dsimp only at hlo hhi
  rcases hbad with h | h | h
  · exact Bool.false_ne_true (h.symm.trans hsound)
  · omega
  · omega

section
variable {rec : RotRecord} (hopen : s.chip.gate.openTo 3 r.src = true)
include hopen

theorem rotate_taken (hsound : rotationSound rec = true) (hlo : s.chip.mram.keyIndex.toNat < rec.newIndex.toNat) (hhi : rec.newIndex.toNat ≤ 3) :
    ∃ u c x, exec (.rotate r rec) s = .next u ∧ Answered s u c r 5 0 [x] [] ∧ x.status = 0 ∧
      c.mram = { s.chip.mram with staged := some (rec.newIndex, rec.cert, rec.records) } := by
  obtain ⟨d, hd⟩ : ∃ d, d = (s.chip.received73.qualifiedAt rotateRow.level r.src).unstaged r.src := ⟨_, rfl⟩
  have hstage : d.stageRotation (rec.newIndex, rec.cert, rec.records) (rotationSound rec) =
      ({ d with mram := { d.mram with staged := some (rec.newIndex, rec.cert, rec.records) } }, none) :=
    Chip.stageRotation_of_sound hsound (by rw [hd]; exact hlo) hhi
  obtain ⟨u, hexec, hanswer⟩ := judged_answered h objFind_rotate hopen (fun hopens => absurd hopens (by decide)) (by decide) rfl
    (f := Chip.rotateBy rec r.src)
    (c := { d with mram := { d.mram with staged := some (rec.newIndex, rec.cert, rec.records) } }.writeRec ⟨0x8010, 1⟩ rotateRow r.src [] [])
    (e := none) (by rw [Chip.rotateBy, ← hd, hstage]) (by rw [Chip.writeRec_eq, hd]; exact ⟨rfl, rfl⟩)
  refine ⟨u, _, _, hexec, hanswer, rfl, ?_⟩
  rw [Chip.writeRec_eq, hd]
  rfl

theorem rotate_refused (hbad : rotationSound rec = false ∨ rec.newIndex.toNat ≤ s.chip.mram.keyIndex.toNat ∨ 3 < rec.newIndex.toNat) :
    ∃ u c x, exec (.rotate r rec) s = .next u ∧ Answered s u c r 5 0 [x] [] ∧ x.status = 0x0071 ∧ c.mram = s.chip.mram := by
  obtain ⟨d, hd⟩ : ∃ d, d = (s.chip.received73.qualifiedAt rotateRow.level r.src).unstaged r.src := ⟨_, rfl⟩
  have hstage : d.stageRotation (rec.newIndex, rec.cert, rec.records) (rotationSound rec) = (d, some authRefused) :=
    Chip.stageRotation_of_unsound (by rw [hd]; exact hbad)
  obtain ⟨u, hexec, hanswer⟩ := judged_answered h objFind_rotate hopen (fun hopens => absurd hopens (by decide)) (by decide) rfl
    (f := Chip.rotateBy rec r.src)
    (c := d) (e := some authRefused) (by rw [Chip.rotateBy, ← hd, hstage]) (by rw [hd]; exact ⟨rfl, rfl⟩)
  exact ⟨u, _, _, hexec, hanswer, rfl, by rw [hd]; rfl⟩

end

end

/-! ### What a password and a response come to (R348-R350) -/

section
variable {s : State} {r : MReq} (h : FreshRequest s.chip r) (hfail : s.chip.mram.failCount.toNat < 5)
include h hfail

theorem password_right {pw : List Byte} (hpw : Config.pwDigest s.chip.mram.serial pw = s.chip.mram.pwDigest) :
    ∃ u x, exec (.password r ⟨⟨0x8002, 0⟩, .blob, pw⟩) s = .next u ∧
      Answered s u (s.chip.received73.gateOpened 1 r.src) r 3 0 [x] [] ∧ x.status = 0 := by
  have htry : s.chip.received73.tryPassword r.src pw = (s.chip.received73.gateOpened 1 r.src, none) := if_pos hpw
  obtain ⟨u, hexec, hanswer⟩ := password_answered h hfail htry (Chip.quietAs_gateOpened rfl ..)
  exact ⟨u, _, hexec, hanswer, rfl⟩

theorem password_wrong {pw : List Byte} (hpw : Config.pwDigest s.chip.mram.serial pw ≠ s.chip.mram.pwDigest) :
    ∃ u x, exec (.password r ⟨⟨0x8002, 0⟩, .blob, pw⟩) s = .next u ∧
      Answered s u (s.chip.received73.gateFailure 0x800200 r.src) r 3 0 [x] [] ∧ x.status = 0x0071 := by
  have htry : s.chip.received73.tryPassword r.src pw = (s.chip.received73.gateFailure 0x800200 r.src, some authRefused) := if_neg hpw
  obtain ⟨u, hexec, hanswer⟩ := password_answered h hfail htry (Chip.quietAs_gateFailure rfl ..)
  exact ⟨u, _, hexec, hanswer, rfl⟩

variable {n : BitVec 256} {level : Byte} {t : Stamp} (hchal : s.chip.gate.chal = some (n, level, t))
include hchal

theorem chalResp_right {v : ChalVerdict} (hin : (s.chip.drone.now - t).toNat < 60000000000) (hrsa : v.rsaOk = true) (hslh : v.slhOk = true) :
    ∃ u c x, exec (.chalResp r v) s = .next u ∧ Answered s u (Chip.gateOpened c level.toNat r.src) r 5 0 [x] [] ∧ x.status = 0 ∧
      c.gate = { s.chip.gate with chal := none } ∧ c.drone = s.chip.drone := by
  have hrespond := Chip.respond_eq (c := s.chip.received73.unstaged r.src) hchal r.src (v.rsaOk && v.slhOk)
  rw [if_pos ⟨hin, by rw [hrsa, hslh]; rfl⟩] at hrespond
  obtain ⟨u, hexec, hanswer⟩ := chalResp_answered h hfail hrespond
    (.trans (Chip.quietAs_gateOpened rfl ..) (Chip.unstaged_quietAs ..))
  exact ⟨u, _, _, hexec, hanswer, rfl, rfl, rfl⟩

theorem chalResp_wrong {v : ChalVerdict} (hbad : 60000000000 ≤ (s.chip.drone.now - t).toNat ∨ v.rsaOk = false ∨ v.slhOk = false) :
    ∃ u c x, exec (.chalResp r v) s = .next u ∧ Answered s u (Chip.gateFailure c 0x800102 r.src) r 5 0 [x] [] ∧ x.status = 0x0071 ∧
      c.gate = { s.chip.gate with chal := none } ∧ c.mram = s.chip.mram := by
  have hrespond := Chip.respond_eq (c := s.chip.received73.unstaged r.src) hchal r.src (v.rsaOk && v.slhOk)
  have hno : ¬ ((s.chip.received73.unstaged r.src).since t < 60000000000 ∧ (v.rsaOk && v.slhOk) = true) := by
    rintro ⟨hin, hok⟩
    obtain ⟨hrsa, hslh⟩ := Bool.and_eq_true_iff.mp hok
    rcases hbad with hlate | hno | hno
    · exact absurd hin (Nat.not_lt.mpr hlate)
    · exact Bool.false_ne_true (hno.symm.trans hrsa)
    · exact Bool.false_ne_true (hno.symm.trans hslh)
  rw [if_neg hno] at hrespond
  obtain ⟨u, hexec, hanswer⟩ := chalResp_answered h hfail hrespond
    (.trans (Chip.quietAs_gateFailure rfl ..) (Chip.unstaged_quietAs ..))
  exact ⟨u, _, _, hexec, hanswer, rfl, rfl, rfl⟩

end

/-! ### What time closes (R349-R351, R375) -/

theorem exec_nonceExpiry {s : State} {n : BitVec 256} {level : Byte} {t : Stamp} (hchal : s.chip.gate.chal = some (n, level, t))
    (hdue : 60000000000 ≤ (s.chip.drone.now - t).toNat) :
    exec .challengeNonceExpiry s = .next { s with chip := { s.chip with gate := { s.chip.gate with chal := none } } } := by
  have hsince : 60000000000 ≤ s.chip.since t := hdue
  change execChallengeNonceExpiry s = _
  simp only [execChallengeNonceExpiry, State.on, hchal, hsince, if_true]

theorem exec_serviceIdle {s : State} {x : OpenLevel} (hservice : s.chip.gate.service = some x)
    (hdue : 900000000000 ≤ (s.chip.drone.now - x.last).toNat) :
    exec (.levelIdleTimeout 2) s = .next (s.on fun c => c.gateChange fun g => { g with service := none }) := by
  have hsince : 900000000000 ≤ s.chip.since x.last := hdue
  have hlevel : s.chip.gate.level (2 : Fin 4).val = some x := hservice
  change execLevelIdleTimeout 2 s = _
  simp only [execLevelIdleTimeout, State.on, hlevel, hsince, if_true]
  rfl

theorem exec_lockoutExpiry {s : State} (hclosed : 5 ≤ s.chip.mram.failCount.toNat) (hover : s.chip.mram.lockoutNs = 0) :
    exec .lockoutExpiry s = .next { s with chip := { s.chip with mram := { s.chip.mram with failCount := 0 } } } := by
  have h : (s.chip.gateClosed && decide (s.chip.mram.lockoutNs = 0)) = true := by
    rw [Chip.gateClosed, decide_eq_true hclosed, decide_eq_true hover, Bool.and_self]
  change execLockoutExpiry s = _
  simp only [execLockoutExpiry, State.on, h, if_true]

theorem exec_hatbandCommit {s : State} (hpow : s.chip.power = .running) {x : HbRec} {rest : List HbRec}
    (hqueue : s.chip.hatband.queue = x :: rest) (hdrops : s.chip.hatband.dropsNow = none) :
    exec .hatbandCommit s = .next { s with chip := { s.chip with
      hatband := Hatband.store { s.chip.hatband with queue := rest } ⟨x, false, false⟩ } } := by
  change execHatbandCommit s = _
  simp only [execHatbandCommit, State.on, Chip.hubPower_of_running hpow, if_true, Chip.hbCommit_of_cons hqueue hdrops]

end Sys2Proof.Machine

open Sys2Proof.Machine

/-- Settles O60: the gate's objects by the judgement of their items (R361), and what time closes by its stamps. -/
theorem gateOpensAndCloses : Obligations.GateOpensAndCloses := by
  unfold Obligations.GateOpensAndCloses
  intro s hpow
  refine ⟨fun r h => ⟨fun hfail => ⟨fun pw hpw => ?right, fun pw hpw => ?wrong, fun level hlevel => ?challenge,
    fun n level t v hchal hlevel => ?response⟩, fun hfail pw => ?closed, fun pw hopen hlo hhi => ?newPassword, ?close,
    fun hopen hshut => ?debug, fun rec hopen => ⟨fun hcur hnew hcarried hmatch hlo hhi => ?rotated, fun hbad => ?unrotated⟩⟩,
    fun n level t hchal hdue => exec_nonceExpiry hchal hdue, fun x hservice hdue => ?idle, exec_lockoutExpiry,
    fun x rest hqueue hdrops => ?commit⟩
  case right =>
    obtain ⟨u, x, hexec, ha, hstatus⟩ := password_right h hfail hpw
    refine ⟨u, x, hexec, ha.replies, hstatus, ?_, ?_, fun hidle => ?_, ha.mem, ha.pending⟩
    · rw [ha.gate, Chip.gateOpened_eq]
      rfl
    · rw [ha.mram, Chip.gateOpened_eq]
    · rw [ha.intc, Chip.gateOpened_eq]
      exact received73_src12 hidle _
  case wrong =>
    obtain ⟨u, x, hexec, ha, hstatus⟩ := password_wrong h hfail hpw
    refine ⟨u, x, hexec, ha.replies, hstatus, ?_, fun hfour => ?_, ?_, ha.mem, ha.pending⟩
    · rw [ha.mram, Chip.gateFailure_eq]
      rfl
    · obtain ⟨hclosed, hlockout⟩ := Chip.gateFailure_fifth (c := s.chip.received73) hfour 0x800200 r.src
      rw [Chip.gateClosed] at hclosed ⊢
      rw [ha.mram]
      exact ⟨hclosed, hlockout⟩
    · rw [ha.gate, Chip.gateFailure_eq]
      rfl
  case challenge =>
    obtain ⟨u, c, x, hexec, ha, hstatus, hchal, hmram⟩ := chalLevel_answered h hfail hlevel
    exact ⟨u, x, hexec, ha.replies, hstatus, ha.gate ▸ hchal, ha.mem, ha.pending, ha.mram.trans hmram⟩
  case response =>
    by_cases hok : (s.chip.drone.now - t).toNat < 60000000000 ∧ v.rsaOk = true ∧ v.slhOk = true
    · obtain ⟨hin, hrsa, hslh⟩ := hok
      obtain ⟨u, c, x, hexec, ha, hstatus, hgate, hdrone⟩ := chalResp_right h hfail hchal hin hrsa hslh
      have hu : u.chip.gate = ({ s.chip.gate with chal := none } : Gate).opened level.toNat r.src s.chip.drone.now := by
        rw [ha.gate, Chip.gateOpened_eq]
        dsimp only
        rw [hgate, hdrone]
      have hfails : u.chip.mram.failCount = 0 := by rw [ha.mram, Chip.gateOpened_eq]
      refine ⟨u, x, hexec, ha.replies, ?_, ha.mem, ha.pending, fun _ _ _ => ⟨hstatus, ?_, hfails, fun h3 => ?_⟩, fun hbad => ?_⟩
      · rw [hu]
        rcases hlevel with rfl | rfl <;> rfl
      · rw [hu]
        rcases hlevel with rfl | rfl <;> rfl
      · rw [hu, h3]
        rfl
      · rcases hbad with hlate | hno | hno
        · exact absurd hin (Nat.not_lt.mpr hlate)
        · exact absurd (hno.symm.trans hrsa) Bool.false_ne_true
        · exact absurd (hno.symm.trans hslh) Bool.false_ne_true
    · have hbad : 60000000000 ≤ (s.chip.drone.now - t).toNat ∨ v.rsaOk = false ∨ v.slhOk = false := by
        simpa only [not_and_or, Nat.not_lt, Bool.not_eq_true] using hok
      obtain ⟨u, c, x, hexec, ha, hstatus, hgate, hmram⟩ := chalResp_wrong h hfail hchal hbad
      refine ⟨u, x, hexec, ha.replies, ?_, ha.mem, ha.pending, fun hin hrsa hslh => absurd ⟨hin, hrsa, hslh⟩ hok,
        fun _ => ⟨hstatus, ?_⟩⟩
      · rw [ha.gate, Chip.gateFailure_eq, hgate]
      · rw [ha.mram, Chip.gateFailure_eq, hmram]
  case closed =>
    obtain ⟨u, c, hexec, ha, hgate, hmram⟩ := password_refused h hfail pw
    exact ⟨u, _, hexec, ha.replies, rfl, ha.gate.trans hgate, ha.mram.trans hmram⟩
  case newPassword =>
    obtain ⟨u, c, x, hexec, ha, hstatus, hmram⟩ := newPassword_answered h hopen hlo hhi
    exact ⟨u, x, hexec, ha.replies, hstatus, ha.mram.trans hmram, ha.mem, ha.pending⟩
  case close =>
    obtain ⟨u, c, x, hexec, ha, hstatus, hoperator, hservice, hvendor⟩ := close_answered h
    rw [← ha.gate] at hoperator hservice hvendor
    exact ⟨u, x, hexec, ha.replies, hstatus, hoperator, hservice, hvendor, ha.mem, ha.pending⟩
  case debug =>
    obtain ⟨u, c, x, hexec, ha, hstatus, hport, htenants⟩ := debugEn_answered h hopen hshut
    refine ⟨u, x, hexec, ha.replies, hstatus, ha.gate ▸ hport, fun t => ?_, ha.mem, ha.pending⟩
    rw [ha.tenants, htenants, Fin.getElem_fin, Vector.getElem_map]
    exact ⟨rfl, rfl⟩
  case rotated =>
    have hsound : rotationSound rec = true := by rw [rotationSound, hcur, hnew, hcarried, hmatch]; rfl
    obtain ⟨u, c, x, hexec, ha, hstatus, hmram⟩ := rotate_taken h hopen hsound hlo hhi
    exact ⟨u, x, hexec, ha.replies, hstatus, ha.mram.trans hmram, ha.mem, ha.pending⟩
  case unrotated =>
    have hunsound : rotationSound rec = false ∨ rec.newIndex.toNat ≤ s.chip.mram.keyIndex.toNat ∨ 3 < rec.newIndex.toNat := by
      simp only [rotationSound, Bool.and_eq_false_iff]
      tauto
    obtain ⟨u, c, x, hexec, ha, hstatus, hmram⟩ := rotate_refused h hopen hunsound
    exact ⟨u, x, hexec, ha.replies, hstatus, ha.mram.trans hmram⟩
  case idle =>
    obtain ⟨hgate, hintc, -, -, -⟩ := s.chip.gateChange_eq fun g => { g with service := none }
    refine ⟨_, exec_serviceIdle hservice hdue, hgate, fun hidle => ?_, rfl, rfl⟩
    rw [State.on_chip, hintc]
    exact Intc.edge_of_idle hidle _
  case commit =>
    exact ⟨_, exec_hatbandCommit hpow hqueue hdrops, (Hatband.store_queue ..).1, rfl, rfl, rfl,
      fun hcritical => Hatband.store_critical hcritical _, fun hgeneral => Hatband.store_general hgeneral _⟩
end

section
/-! The management requests (R357-R371, R377): what IDENTIFY, READ, WRITE, SEGREAD, SEGWRITE, HBREAD and an unknown OP answer. -/

namespace Sys2Proof.Machine

/-! ### A value read after its item has qualified -/

theorem Chip.qualifiedAt_lstate (c : Chip) (n : Nat) (who : Requester) : (c.qualifiedAt n who).lstate = c.lstate := by
  have hgate : c.gate.OpenAs (c.qualifiedAt n who).gate := c.gate.qualify_openAs n who c.drone.now
  obtain ⟨hoperator, hservice, hvendor, hport, -, -, -⟩ := hgate
  have hmram : (c.qualifiedAt n who).mram = c.mram := rfl
  simp only [Chip.lstate, hoperator, hservice, hvendor, hport, hmram]

theorem Chip.qualifiedAt_objVal (c : Chip) (n : Nat) (who : Requester) (name : ObjName) (k : Nat) :
    (c.qualifiedAt n who).objVal name k = c.objVal name k := by
  obtain ⟨-, -, -, hport, -, -, hmiss⟩ := c.gate.qualify_openAs n who c.drone.now
  cases name
  case lstate => exact congrArg BitVec.toNat (c.qualifiedAt_lstate n who)
  case bar2Miss => exact congrArg BitVec.toNat hmiss
  case debugEn => exact congrArg boolNat hport
  all_goals rfl

theorem Chip.qualifiedAt_objBlob (c : Chip) (n : Nat) (who : Requester) (name : ObjName) :
    (c.qualifiedAt n who).objBlob name = c.objBlob name := by
  obtain ⟨-, -, -, -, -, hnonce, -⟩ := c.gate.qualify_openAs n who c.drone.now
  cases name
  case chalNonce => exact congrArg (fun x : BitVec 256 => leBytes 32 x.toNat) hnonce
  all_goals rfl

/-- No value that a read gives changes as the time of a level restarts (R351). -/
theorem Chip.qualifiedAt_objRead (c : Chip) (n : Nat) (who : Requester) (row : ObjRow) (k : Nat) :
    (c.qualifiedAt n who).objRead row k = c.objRead row k := by
  unfold Chip.objRead
  simp only [Chip.qualifiedAt_objVal, Chip.qualifiedAt_objBlob]
  rfl

/-! ### IDENTIFY (R358, R371) -/

/-- The item of an object that is there is its value. -/
theorem Chip.identifyItem_of_find {c : Chip} {o : ObjId} {row : ObjRow} {k : Nat} (h : objFind o = some (row, k)) :
    c.identifyItem o = (c, c.answerItem o none (c.objRead row k)) := by
  simp only [Chip.identifyItem, h]
  rfl

/-- Items that leave the chip are answered each by itself. -/
theorem Chip.items_of_same {α : Type} {c : Chip} {f : Chip → α → Chip × RespItem} {g : α → RespItem} :
    ∀ {l : List α}, (∀ x ∈ l, f c x = (c, g x)) → c.items f l = (c, l.map g)
  | [], _ => rfl
  | x :: xs, h => by
    have hx := h x List.mem_cons_self
    have hxs := Chip.items_of_same fun y hy => h y (List.mem_cons_of_mem _ hy)
    simp only [Chip.items, hx, hxs, List.map_cons]

/-- The value of an object by its number; nothing where there is none. -/
def Chip.objValue (c : Chip) (o : ObjId) : List Byte :=
  match objFind o with
  | some (row, k) => c.objRead row k
  | none => []

theorem identify_answered {s : State} {r : MReq} (h : FreshRequest s.chip r) : ∃ u, exec (.identify r) s = .next u ∧
    Answered s u s.chip.received73 r 1 0
      (identifyObjs.map fun o => s.chip.received73.answerItem o none (s.chip.received73.objValue o)) [] := by
  have hthere : ∀ o ∈ identifyObjs, (objFind o).isSome = true := by decide
  have hitems : s.chip.received73.items (fun c o => c.identifyItem o) identifyObjs = (s.chip.received73,
      identifyObjs.map fun o => s.chip.received73.answerItem o none (s.chip.received73.objValue o)) := by
    refine Chip.items_of_same fun o ho => ?_
    obtain ⟨⟨row, k⟩, hrow⟩ := Option.isSome_iff_exists.mp (hthere o ho)
    rw [Chip.identifyItem_of_find hrow, Chip.objValue, hrow]
  exact serve_answered h 1 _ (by rw [hitems]) (.of_mgmt rfl)

/-! ### READ (R358-R362) -/

/-- A READ of one item. -/
theorem read_answered {s : State} {r : MReq} (h : FreshRequest s.chip r) {o : ObjId} {c : Chip} {e : Option Refused} {v : List Byte}
    (hitem : s.chip.received73.readItem r.src o = c.itemOf o e v) (hquiet : c.QuietAs s.chip.received73) :
    ∃ u, exec (.read r [o]) s = .next u ∧ Answered s u c r 2 0 [c.answerItem o e v] [] :=
  serve_item_answered h 2 _ (by simp [Chip.items, hitem]) hquiet

/-- What a READ of one object answers: its value, or the first ground of refusal. -/
def Chip.readVerdict (c : Chip) (who : Requester) (o : ObjId) : Option Refused × List Byte :=
  match objFind o with
  | none => (some (busyFor 1), [])
  | some (row, k) =>
    if c.gate.openTo row.level who = false then (some lockedItem, [])
    else if row.dir = .wo then (some (busyFor 4), [])
    else if 64 < (c.objRead row k).length then (some ⟨0x0002, 5, (c.objRead row k).length⟩, [])
    else (none, c.objRead row k)

theorem Chip.readItem_eq (c : Chip) (who : Requester) (o : ObjId) :
    ∃ n, c.readItem who o = (c.qualifiedAt n who).itemOf o (c.readVerdict who o).1 (c.readVerdict who o).2 := by
  unfold Chip.readVerdict
  cases hobj : objFind o with
  | none => exact ⟨0, by rw [Chip.readItem, Chip.access_of_unknown hobj, Chip.qualifiedAt_zero]⟩
  | some x =>
    obtain ⟨row, k⟩ := x
    dsimp only
    cases hopen : c.gate.openTo row.level who with
    | false => exact ⟨0, by rw [Chip.readItem, Chip.access_of_locked hobj hopen, Chip.qualifiedAt_zero, if_pos rfl]⟩
    | true =>
      refine ⟨row.level, ?_⟩
      rw [if_neg (by decide)]
      by_cases hdir : row.dir = .wo
      · rw [Chip.readItem, Chip.access_read_wo hobj hopen hdir, if_pos hdir]
      · rw [Chip.readItem, Chip.access_read hobj hopen hdir, if_neg hdir]
        dsimp only
        rw [Chip.qualifiedAt_objRead]
        split <;> rfl

/-! ### Segments (R366) -/

/-- A segment's bytes stand at their places. -/
theorem Staging.alGet_place {x : Staging} {bs : List Byte} {i : Nat} {b : Byte} (h : bs[i]? = some b) :
    alGet (x.place 0 bs).bytes i = some b := by
  have hplace : (x.place 0 bs).bytes = (bs.zipIdx.map fun b => (b.2, b.1)).foldl (fun m e => alPut m e.1 e.2) x.bytes := by
    rw [List.foldl_map]
    simp [Staging.place]
  rw [hplace]
  refine alGet_foldl_alPut _ (fun e he hei => ?_) _ (.inl (List.mem_map.mpr ⟨(b, i), List.mem_zipIdx_iff_getElem?.mpr h, rfl⟩))
  obtain ⟨⟨b', j⟩, hmem, rfl⟩ := List.mem_map.mp he
  have hb' : bs[j]? = some b' := List.mem_zipIdx_iff_getElem?.mp hmem
  have hij : j = i := hei
  rw [hij, h] at hb'
  exact (Option.some.inj hb').symm

theorem Mgmt.stagingOf_putStaging (m : Mgmt) (x : Staging) : (m.putStaging x).stagingOf x.src = some x := by
  simp [Mgmt.putStaging, Mgmt.stagingOf]

/-- A requester's staging put in place. -/
def Chip.withStaging (c : Chip) (st : Staging) : Chip := { c with mgmt := c.mgmt.putStaging st }

/-- A first segment of CHAL_RESP is staged (R349, R366). -/
theorem Chip.segItem_chalResp {c : Chip} {who : Requester} {bs : List Byte} (hrun : c.power = .running) (hgate : c.gateClosed = false)
    (hnone : c.mgmt.stagingOf who = none) (hlo : 1 ≤ bs.length) (hhi : bs.length ≤ 960) :
    ∃ st : Staging, st.src = who ∧ st.total = 16608 ∧ (∀ i b, bs[i]? = some b → alGet st.bytes i = some b) ∧
      c.segItem who ⟨⟨0x8001, 2⟩, .blob, bs⟩ 0 16608 false = (c.withStaging st).itemOf ⟨0x8001, 2⟩ none [] := by
  obtain ⟨fresh, hfresh⟩ : ∃ x : Staging, x =
    { src := who, obj := ⟨0x8001, 2⟩, type := .blob, total := 16608, bytes := [], since := c.drone.now } := ⟨_, rfl⟩
  have hstaging : c.stagingFor who ⟨⟨0x8001, 2⟩, .blob, bs⟩ 16608 = fresh := by
    simp only [Chip.stagingFor, hnone, hfresh]
  have htotal : fresh.total = 16608 := by rw [hfresh]
  have hfits : totalFits chalRespRow 16608 = true := rfl
  have hok : ¬ (bs.length = 0 ∨ 960 < bs.length ∨ 16608 < 0 + bs.length ∨ fresh.total ≠ 16608 ∨ (!totalFits chalRespRow 16608) = true) := by
    rw [hfits, htotal]
    simp only [Bool.not_true, Bool.false_eq_true, or_false, ne_eq, not_true_eq_false]
    omega
  refine ⟨{ fresh.place 0 bs with since := c.drone.now }, by rw [hfresh]; rfl, htotal, fun i b hb => Staging.alGet_place hb, ?_⟩
  have haccess := Chip.access_write (c := c) (who := who) objFind_chalResp (Gate.openTo_zero ..) (fun _ => hgate) (by decide)
  rw [show chalRespRow.level = 0 from rfl, Chip.qualifiedAt_zero] at haccess
  have htype : OType.blob = chalRespRow.type := rfl
  simp only [Chip.segItem, haccess, hstaging, if_neg hok, Chip.notServed_of_running (row := chalRespRow) hrun rfl, ne_eq, ← htype,
    not_true_eq_false, if_false, Bool.not_false, if_true, Bool.false_eq_true]
  rfl

/-- The row of ID_CERT (R371). -/
def idCertRow : ObjRow := pub .idCert 0x1010 0 1 .blob

theorem objFind_idCert : objFind ⟨0x1010, 0⟩ = some (idCertRow, 0) := by decide

/-- A part of ID_CERT (R366). -/
theorem Chip.segReadItem_idCert {c : Chip} {who : Requester} {off len : Nat} (hlo : 1 ≤ len) (hhi : len ≤ 960)
    (hin : off + len ≤ c.mram.idCert.length) :
    c.segReadItem who ⟨0x1010, 0⟩ off len = c.itemOf ⟨0x1010, 0⟩ none ((c.mram.idCert.drop off).take len) := by
  have haccess := Chip.access_read (c := c) (who := who) objFind_idCert (Gate.openTo_zero ..) (by decide)
  rw [show idCertRow.level = 0 from rfl, Chip.qualifiedAt_zero] at haccess
  have hread : c.objRead idCertRow 0 = c.mram.idCert := by
    simp [Chip.objRead, idCertRow, pub, typeSize, Chip.objBlob]
  have hok : ¬ (len = 0 ∨ 960 < len ∨ c.mram.idCert.length < off + len) := by omega
  simp only [Chip.segReadItem, haccess, hread, if_neg hok]

/-! ### MODULE_NUM (R369) -/

/-- The row of MODULE_NUM (R265). -/
def moduleNumRow : ObjRow := oper .moduleNum 0x5401 0 1 .u16 false

theorem objFind_moduleNum : objFind ⟨0x5401, 0⟩ = some (moduleNumRow, 0) := by decide

/-- A write of MODULE_NUM is put into MRAM (R369). -/
theorem Chip.perform_moduleNum (c : Chip) (who : Requester) (v : W16) :
    c.perform who moduleNumRow 0 (leBytes 2 v.toNat) = ({ c with mram := { c.mram with moduleNum := v } }, none) := by
  have hv : BitVec.ofNat 16 (leNat (leBytes 2 v.toNat)) = v := by
    rw [leNat_leBytes, Nat.mod_eq_of_lt (show v.toNat < 256 ^ 2 from v.isLt), BitVec.ofNat_toNat, BitVec.setWidth_eq]
  have hset : c.perform who moduleNumRow 0 (leBytes 2 v.toNat) =
    ({ c with mram := { c.mram with moduleNum := BitVec.ofNat 16 (leNat (leBytes 2 v.toNat)) } }, none) := rfl
  rw [hset, hv]

/-- A WRITE of one item names its object itself. -/
theorem exec_write_one {s : State} {r : MReq} {x : WItem} {row : ObjRow} {k : Nat} (hobj : objFind x.obj = some (row, k)) :
    exec (.write r [x]) s = .next (s.writeOne r x row.name) := by
  simp only [State.writeOne, hobj, if_true]
  rfl

/-! ### HBREAD (R368, R377) -/

theorem mem_mergeSeq {x : HbStored} : ∀ {n : Nat} {xs ys : List HbStored}, x ∈ mergeSeq n xs ys → x ∈ xs ∨ x ∈ ys
  | 0, _, _, h => nomatch h
  | _ + 1, [], ys, h => .inr h
  | _ + 1, _ :: _, [], h => .inl h
  | n + 1, y :: ys, z :: zs, h => by
    rw [mergeSeq] at h
    split at h
    · rcases List.mem_cons.mp h with rfl | hrest
      · exact .inl List.mem_cons_self
      · exact (mem_mergeSeq hrest).imp (List.mem_cons_of_mem _) id
    · rcases List.mem_cons.mp h with rfl | hrest
      · exact .inr List.mem_cons_self
      · exact (mem_mergeSeq hrest).imp id (List.mem_cons_of_mem _)

/-- An HBREAD returns at most three records of the areas that it names, from the HSEQ that it names on (R377). -/
theorem Hatband.read_spec (h : Hatband) (area : Byte) (since : Nat) : (h.read area.toNat since).length ≤ 3 ∧
    ∀ x ∈ h.read area.toNat since, since ≤ x.hb.hseq.toNat ∧ ((area ≠ 1 ∧ x ∈ h.gen) ∨ (area ≠ 0 ∧ x ∈ h.crit)) := by
  have hkeep {l : List HbStored} {x : HbStored} (hx : x ∈ (l.filter fun y => decide (since ≤ y.hb.hseq.toNat)).take 3) :
      since ≤ x.hb.hseq.toNat ∧ x ∈ l := by
    obtain ⟨hl, hseq⟩ := List.mem_filter.mp (List.mem_of_mem_take hx)
    exact ⟨of_decide_eq_true hseq, hl⟩
  by_cases h0 : area = 0
  · subst h0
    exact ⟨List.length_take_le .., fun x hx => ⟨(hkeep hx).1, .inl ⟨by decide, (hkeep hx).2⟩⟩⟩
  · by_cases h1 : area = 1
    · subst h1
      exact ⟨List.length_take_le .., fun x hx => ⟨(hkeep hx).1, .inr ⟨by decide, (hkeep hx).2⟩⟩⟩
    · have h0' : area.toNat ≠ 0 := fun hz => h0 (BitVec.eq_of_toNat_eq hz)
      have h1' : area.toNat ≠ 1 := fun hz => h1 (BitVec.eq_of_toNat_eq hz)
      have hboth : h.read area.toNat since = (mergeSeq 4 ((h.gen.filter fun y => decide (since ≤ y.hb.hseq.toNat)).take 3)
          ((h.crit.filter fun y => decide (since ≤ y.hb.hseq.toNat)).take 3)).take 3 := by
        unfold Hatband.read
        split
        · next hz => exact absurd hz h0'
        · next hz => exact absurd hz h1'
        · rfl
      rw [hboth]
      refine ⟨List.length_take_le .., fun x hx => ?_⟩
      rcases mem_mergeSeq (List.mem_of_mem_take hx) with hgen | hcrit
      · exact ⟨(hkeep hgen).1, .inl ⟨h1, (hkeep hgen).2⟩⟩
      · exact ⟨(hkeep hcrit).1, .inr ⟨h0, (hkeep hcrit).2⟩⟩

section
variable {s : State} {r : MReq} (h : FreshRequest s.chip r)
include h

theorem hbread_refused (hshut : s.chip.gate.openTo 1 r.src = false) (area : Byte) (since : W64) :
    ∃ u, exec (.hbread r area since) s = .next u ∧ Answered s u s.chip.received73 r 6 0x0070 [] [] := by
  have hshut' : s.chip.received73.gate.openTo 1 r.src = false := hshut
  exact serve_answered h 6 _ (by rw [hshut']; rfl) (.of_mgmt rfl)

theorem hbread_answered (hopen : s.chip.gate.openTo 1 r.src = true) {area : Byte} (harea : area.toNat ≤ 2) (since : W64) :
    ∃ u, exec (.hbread r area since) s = .next u ∧ Answered s u (s.chip.received73.qualifiedAt 1 r.src) r 6 0 []
      (s.chip.hatband.read area.toNat since.toNat) := by
  have hopen' : s.chip.received73.gate.openTo 1 r.src = true := hopen
  exact serve_answered h 6 _ (by rw [hopen']; exact if_neg (Nat.not_lt.mpr harea)) (.of_mgmt rfl)

end

end Sys2Proof.Machine

open Sys2Proof.Machine

/-- Settles O58: each request by the answer of its operation to a request that the agent serves. -/
theorem requestsAreServed : Obligations.RequestsAreServed := by
  unfold Obligations.RequestsAreServed
  intro s r h counted
  refine ⟨?identify, fun o => ?read, fun v hopen => ?write, fun off len hlo hhi hin => ?segread,
    fun bs hlo hhi hgate hnone => ?segwrite, fun area since => ⟨fun hshut => ?refused, fun hopen harea => ?hbread⟩, fun op _ => ?unknown⟩
  case identify =>
    obtain ⟨u, hexec, ha⟩ := identify_answered h
    refine ⟨u, _, hexec, ha.replies, rfl, fun x hx => ?_, ?_, ha.mem, ha.pending, ha.mram⟩
    · obtain ⟨o, -, rfl⟩ := List.mem_map.mp hx
      rfl
    · rw [List.map_map, List.map_map]
      rfl
  case read =>
    obtain ⟨n, hitem⟩ := counted.readItem_eq r.src o
    obtain ⟨u, hexec, ha⟩ := read_answered h hitem (.of_mgmt rfl)
    refine ⟨u, _, hexec, ha.replies, rfl, ha.mem, ha.pending, ha.mram, ha.tenants, fun hnone => ?_, fun row k hrow => ⟨fun hshut => ?_,
      fun hopen => ⟨fun hwo => ?_, fun hdir hshort => ?_, fun hdir hlong => ?_⟩⟩⟩
    · have hverdict : counted.readVerdict r.src o = (some (busyFor 1), []) := by rw [Chip.readVerdict, hnone]
      rw [hverdict]
      exact ⟨rfl, rfl⟩
    · have hverdict : counted.readVerdict r.src o = (some lockedItem, []) := by
        rw [Chip.readVerdict, hrow]
        exact if_pos hshut
      rw [hverdict]
      rfl
    · have hverdict : counted.readVerdict r.src o = (some (busyFor 4), []) := by
        rw [Chip.readVerdict, hrow]
        exact (if_neg (ne_of_eq_of_ne hopen (by decide))).trans (if_pos hwo)
      rw [hverdict]
      exact ⟨rfl, rfl⟩
    · have hverdict : counted.readVerdict r.src o = (none, counted.objRead row k) := by
        rw [Chip.readVerdict, hrow]
        exact (if_neg (ne_of_eq_of_ne hopen (by decide))).trans ((if_neg hdir).trans (if_neg (Nat.not_lt.mpr hshort)))
      rw [hverdict]
      exact ⟨rfl, rfl⟩
    · have hverdict : counted.readVerdict r.src o = (some ⟨0x0002, 5, (counted.objRead row k).length⟩, []) := by
        rw [Chip.readVerdict, hrow]
        exact (if_neg (ne_of_eq_of_ne hopen (by decide))).trans ((if_neg hdir).trans (if_pos hlong))
      rw [hverdict]
      exact ⟨rfl, rfl, rfl⟩
  case write =>
    have hfits : valueFits moduleNumRow (leBytes 2 v.toNat) = true := rfl
    have htype : typeFits moduleNumRow .u16 (leBytes 2 v.toNat).length = true := by rw [length_leBytes]; rfl
    obtain ⟨u, old, hexec, ha⟩ := write_recorded_answered h objFind_moduleNum hopen (by decide) rfl (by decide) rfl htype hfits rfl
      (Chip.perform_moduleNum _ r.src v) (.of_mgmt rfl)
    refine ⟨u, _, (exec_write_one objFind_moduleNum).trans hexec, ha.replies, rfl, ?_, ?_, ?_, ha.mem, ha.pending⟩
    · rw [ha.mram, Chip.writeRec_eq]
      rfl
    · rw [ha.objs, Chip.writeRec_eq]
      rfl
    · rw [ha.hatband]
      exact (Chip.writeRec_kept ..).2
  case segread =>
    obtain ⟨u, hexec, ha⟩ := serve_item_answered h 4 (f := fun c =>
      let (c, y) := c.segReadItem r.src ⟨0x1010, 0⟩ off.toNat len.toNat
      (c, 0, [y], [])) (by rw [Chip.segReadItem_idCert (c := s.chip.received73) hlo hhi hin]) (.of_mgmt rfl)
    exact ⟨u, _, hexec, ha.replies, rfl, rfl, ha.mem, ha.pending⟩
  case segwrite =>
    obtain ⟨st, hsrc, htotal, hbytes, hitem⟩ := Chip.segItem_chalResp (c := counted) h.running hgate hnone hlo hhi
    obtain ⟨u, hexec, ha⟩ := serve_item_answered h 5 (f := fun c =>
      let (c, y) := c.segItem r.src ⟨⟨0x8001, 2⟩, .blob, bs⟩ 0 16608 false
      (c, 0, [y], [])) (c := counted.withStaging st) (by rw [hitem]) ⟨rfl, rfl⟩
    refine ⟨u, _, st, hexec, ha.replies, rfl, ?_, htotal, hbytes, ha.mem, ha.pending, ha.mram⟩
    rw [Mgmt.stagingOf, ha.staging, ← hsrc]
    exact Mgmt.stagingOf_putStaging ..
  case refused =>
    obtain ⟨u, hexec, ha⟩ := hbread_refused h hshut area since
    exact ⟨u, hexec, ha.replies⟩
  case hbread =>
    obtain ⟨u, hexec, ha⟩ := hbread_answered h hopen harea since
    obtain ⟨hlen, hrecs⟩ := s.chip.hatband.read_spec area since.toNat
    exact ⟨u, _, hexec, ha.replies, hlen, hrecs, ha.hatband, ha.mem, ha.pending⟩
  case unknown =>
    obtain ⟨u, hexec, ha⟩ := serve_answered h op (fun c => (c, 0x0002, [], [])) rfl (.of_mgmt rfl)
    exact ⟨u, hexec, ha.replies, ha.mem, ha.pending, ha.mram⟩
end

section
/-! Drone under PTP (R260-R265): Drone's states, a correction, the best Announce, and each PTP message. -/

namespace Sys2Proof.Machine

/-! ### What a trace point leaves of the objects -/

/-- The objects in force of LOG_SYNC and LOCK_THR (R265). -/
def Chip.syncObjs (c : Chip) : W32 × W32 := (c.objs.logSyncNow, c.objs.lockThrNow)

theorem Chip.pumpRing_syncObjs (c : Chip) (f : Fn) (r : Fin 12) : (c.pumpRing f r).syncObjs = c.syncObjs := by
  unfold Chip.pumpRing Chip.syncObjs
  split
  · dsimp only
    split
    · simp
    · simp
  · rfl

theorem Chip.log_syncObjs (c : Chip) (f : Fn) (e : EvEntry) : (c.log f e).syncObjs = c.syncObjs := by
  unfold Chip.log
  split
  · exact (Chip.pumpRing_syncObjs ..).trans (by simp [Chip.syncObjs])
  · rfl

/-! ### Drone's states (R261) -/

theorem Chip.setDrone_of_eq {c : Chip} {st : DroneState} (h : c.drone.state = st) : c.setDrone st = c := by
  unfold Chip.setDrone
  exact if_pos h

/-- Drone in a state that it enters. -/
def Drone.enter (d : Drone) (st : DroneState) : Drone :=
  { d with
    state := st, inRun := 0, outRun := 0, everLocked := d.everLocked || decide (st = DroneState.locked)
    holdoverSince := if st = DroneState.holdover then d.now else 0 }

section
variable {c : Chip} {st : DroneState} (h : c.drone.state ≠ st)
include h

theorem Chip.setDrone_drone : (c.setDrone st).drone = c.drone.enter st := by
  unfold Chip.setDrone
  simp [h, Drone.enter]

theorem Chip.setDrone_intc : (c.setDrone st).intc = c.intc.edge 10 c.drone.now := by
  unfold Chip.setDrone
  simp [h]

end

theorem Chip.setDrone_state (c : Chip) (st : DroneState) : (c.setDrone st).drone.state = st := by
  by_cases h : c.drone.state = st
  · rw [Chip.setDrone_of_eq h, h]
  · rw [Chip.setDrone_drone h]
    rfl

theorem Chip.setDrone_syncObjs (c : Chip) (st : DroneState) : (c.setDrone st).syncObjs = c.syncObjs := by
  by_cases h : c.drone.state = st
  · rw [Chip.setDrone_of_eq h]
  · unfold Chip.setDrone
    simp only [h, if_false, Chip.syncObjs, Chip.raise_objs, Chip.hbForm_objs]
    exact Chip.log_syncObjs ..

/-- What a change of Drone's state leaves of Drone: its count, its corrections and its master. -/
structure Drone.SameClock (d e : Drone) : Prop where
  now : e.now = d.now
  offset : e.offset = d.offset
  freqAdj : e.freqAdj = d.freqAdj
  slavePort : e.slavePort = d.slavePort
  gmId : e.gmId = d.gmId
  lastStep : e.lastStep = d.lastStep
  stepNs : e.stepNs = d.stepNs
  lastSyncAt : e.lastSyncAt = d.lastSyncAt

theorem Drone.SameClock.refl (d : Drone) : d.SameClock d := ⟨rfl, rfl, rfl, rfl, rfl, rfl, rfl, rfl⟩

theorem Chip.setDrone_sameClock (c : Chip) (st : DroneState) : c.drone.SameClock (c.setDrone st).drone := by
  by_cases h : c.drone.state = st
  · rw [Chip.setDrone_of_eq h]
    exact .refl _
  · rw [Chip.setDrone_drone h]
    exact ⟨rfl, rfl, rfl, rfl, rfl, rfl, rfl, rfl⟩

theorem Chip.setDrone_everLocked {c : Chip} {st : DroneState} (hst : st ≠ .locked) :
    (c.setDrone st).drone.everLocked = c.drone.everLocked := by
  by_cases h : c.drone.state = st
  · rw [Chip.setDrone_of_eq h]
  · rw [Chip.setDrone_drone h]
    simp [Drone.enter, hst]

theorem Chip.judgeRun_sameClock (c : Chip) : c.drone.SameClock c.judgeRun.drone := by
  unfold Chip.judgeRun
  split
  · exact c.setDrone_sameClock _
  · split
    · exact c.setDrone_sameClock _
    · exact .refl _

theorem Chip.judgeRun_locked {c : Chip} (h : c.drone.state = .acquire) (hrun : 16 ≤ c.drone.inRun) :
    c.judgeRun.drone.state = .locked := by
  unfold Chip.judgeRun
  rw [if_pos ⟨h, hrun⟩, Chip.setDrone_state]

theorem Chip.judgeRun_acquire {c : Chip} (h : c.drone.state = .locked) (hrun : 16 ≤ c.drone.outRun) :
    c.judgeRun.drone.state = .acquire := by
  unfold Chip.judgeRun
  rw [if_neg (by simp [h]), if_pos ⟨h, hrun⟩, Chip.setDrone_state]

/-! ### A correction (R262) -/

/-- The module before the run of Syncs is judged. -/
def Chip.slewed (c : Chip) (off : Int) : Chip :=
  let d := { c.drone.count (c.inThr off) with offset := off }
  if !d.everLocked && decide (off < -1000000) then
    let now := d.now + BitVec.ofNat 64 off.natAbs
    { c with drone := { d with now := now, lastStep := now, stepNs := BitVec.ofNat 64 off.natAbs } }
  else { c with drone := { d with freqAdj := slewOf off c.drawn }, drawn := c.drawn + 1 }

theorem Chip.correct_eq (c : Chip) (off : Int) : c.correct off = (c.slewed off).judgeRun := rfl

theorem Drone.count_everLocked (d : Drone) (inside : Bool) : (d.count inside).everLocked = d.everLocked := by
  cases inside <;> rfl

theorem Drone.count_now (d : Drone) (inside : Bool) : (d.count inside).now = d.now := by cases inside <;> rfl

theorem Drone.count_stepNs (d : Drone) (inside : Bool) : (d.count inside).stepNs = d.stepNs := by cases inside <;> rfl

theorem Drone.count_state (d : Drone) (inside : Bool) : (d.count inside).state = d.state := by cases inside <;> rfl

theorem slewOf_bounds (off : Int) (n : Nat) : -500000000 ≤ slewOf off n ∧ slewOf off n ≤ 500000000 := by
  unfold slewOf
  omega

theorem Chip.slewed_offset (c : Chip) (off : Int) : (c.slewed off).drone.offset = off := by
  unfold Chip.slewed
  dsimp only
  split <;> rfl

theorem Chip.slewed_runs (c : Chip) (off : Int) : (c.slewed off).drone.state = c.drone.state ∧
    (c.slewed off).drone.inRun = (c.drone.count (c.inThr off)).inRun ∧
    (c.slewed off).drone.outRun = (c.drone.count (c.inThr off)).outRun := by
  unfold Chip.slewed
  dsimp only
  split
  · exact ⟨Drone.count_state .., rfl, rfl⟩
  · exact ⟨Drone.count_state .., rfl, rfl⟩

/-- One forward step where Drone was never locked and is more than 1 ms behind. -/
theorem Chip.slewed_step {c : Chip} {off : Int} (h : c.drone.everLocked = false ∧ off < -1000000) :
    (c.slewed off).drone.now = c.drone.now + BitVec.ofNat 64 off.natAbs ∧
    (c.slewed off).drone.lastStep = (c.slewed off).drone.now ∧
    (c.slewed off).drone.stepNs = BitVec.ofNat 64 off.natAbs := by
  unfold Chip.slewed
  simp [Drone.count_everLocked, Drone.count_now, h.1, h.2]

theorem Chip.slewed_slew {c : Chip} {off : Int} (h : ¬ (c.drone.everLocked = false ∧ off < -1000000)) :
    (c.slewed off).drone.now = c.drone.now ∧ (c.slewed off).drone.stepNs = c.drone.stepNs ∧
    -500000000 ≤ (c.slewed off).drone.freqAdj ∧ (c.slewed off).drone.freqAdj ≤ 500000000 := by
  unfold Chip.slewed
  have hif : (!(c.drone.count (c.inThr off)).everLocked && decide (off < -1000000)) = false := by
    simpa [Drone.count_everLocked] using h
  simp only [hif]
  exact ⟨Drone.count_now .., Drone.count_stepNs .., slewOf_bounds ..⟩

/-- Drone `e` is Drone `d` corrected by an offset: a forward step, recorded, or a slew of at most 500 ppm (R262). -/
structure Drone.Corrected (d : Drone) (off : Int) (e : Drone) : Prop where
  offset : e.offset = off
  step : d.everLocked = false ∧ off < -1000000 → e.now = d.now + BitVec.ofNat 64 off.natAbs ∧ e.lastStep = e.now ∧
    e.stepNs = BitVec.ofNat 64 off.natAbs
  slew : ¬ (d.everLocked = false ∧ off < -1000000) → e.now = d.now ∧ e.stepNs = d.stepNs ∧
    -500000000 ≤ e.freqAdj ∧ e.freqAdj ≤ 500000000

theorem Chip.correct_corrected (c : Chip) (off : Int) : c.drone.Corrected off (c.correct off).drone := by
  rw [Chip.correct_eq]
  obtain ⟨hnow, hoffset, hfreq, -, -, hlast, hstep, -⟩ := (c.slewed off).judgeRun_sameClock
  refine ⟨hoffset.trans (c.slewed_offset off), fun h => ?_, fun h => ?_⟩
  · rw [hnow, hlast, hstep]
    exact Chip.slewed_step h
  · rw [hnow, hstep, hfreq]
    exact Chip.slewed_slew h

/-- The 16th Sync in a row within LOCK_THR locks. -/
theorem Chip.correct_locked {c : Chip} {off : Int} (h : c.drone.state = .acquire)
    (hin : off.natAbs ≤ c.objs.lockThrNow.toNat) (hrun : 15 ≤ c.drone.inRun) : (c.correct off).drone.state = .locked := by
  obtain ⟨hstate, hcount, -⟩ := c.slewed_runs off
  rw [Chip.correct_eq]
  refine Chip.judgeRun_locked (hstate.trans h) ?_
  rw [hcount, show c.inThr off = true from decide_eq_true hin]
  exact Nat.succ_le_succ hrun

/-- The 16th Sync in a row beyond LOCK_THR leaves LOCKED. -/
theorem Chip.correct_acquire {c : Chip} {off : Int} (h : c.drone.state = .locked)
    (hout : c.objs.lockThrNow.toNat < off.natAbs) (hrun : 15 ≤ c.drone.outRun) : (c.correct off).drone.state = .acquire := by
  obtain ⟨hstate, -, hcount⟩ := c.slewed_runs off
  rw [Chip.correct_eq]
  refine Chip.judgeRun_acquire (hstate.trans h) ?_
  rw [hcount, show c.inThr off = false from decide_eq_false (by omega)]
  exact Nat.succ_le_succ hrun

/-! ### A port changed -/

theorem Chip.modPort_same (c : Chip) (p : Fin 16) (f : Port → Port) : (c.modPort p f).ports[p] = f c.ports[p] :=
  vecMod_same ..

theorem Chip.modPort_ne (c : Chip) {p q : Fin 16} (f : Port → Port) (h : q ≠ p) : (c.modPort p f).ports[q] = c.ports[q] :=
  vecMod_ne _ _ h

theorem Chip.port_congr {c d : Chip} (h : d.ports = c.ports) (q : Fin 16) : d.ports[q] = c.ports[q] :=
  congrArg (fun v : Vector Port 16 => v[q]) h

theorem Chip.modPort_modPort (c : Chip) (p : Fin 16) (f g : Port → Port) :
    (c.modPort p f).modPort p g = c.modPort p fun x => g (f x) := by
  unfold Chip.modPort
  rw [vecMod_vecMod]

/-- What a change leaves of its port it leaves of every port. -/
theorem Chip.modPort_field {α : Type} {g : Port → α} {f : Port → Port} (hf : ∀ x, g (f x) = g x) (c : Chip) (p q : Fin 16) :
    g (c.modPort p f).ports[q] = g c.ports[q] := by
  by_cases h : q = p
  · subst h
    rw [Chip.modPort_same, hf]
  · rw [Chip.modPort_ne c f h]

/-- PTP runs on the same ports of two modules that agree on their ports' states. -/
theorem Chip.ptpOn_congr {c d : Chip} (hup : d.up = c.up) (hobjs : d.objs.ptpPortsNow = c.objs.ptpPortsNow) {q : Fin 16}
    (hstate : d.ports[q].state = c.ports[q].state) : d.ptpOn q = c.ptpOn q := by
  unfold Chip.ptpOn Chip.linked
  rw [hup, hobjs, hstate]

/-! ### The best Announce (R260) -/

theorem keyLess_asymm : ∀ {as bs : List Nat}, keyLess as bs = true → keyLess bs as = false
  | [], _, h => by simp [keyLess] at h
  | _ :: _, [], h => by simp [keyLess] at h
  | a :: as, b :: bs, h => by
    simp only [keyLess, Bool.or_eq_true, Bool.and_eq_true, decide_eq_true_eq] at h
    have hrest : a = b → keyLess as bs = true := fun hab => h.resolve_left (by omega) |>.2
    by_cases hab : a = b
    · simp [keyLess, hab, keyLess_asymm (hrest hab)]
    · have hlt : a < b := h.resolve_right fun hb => hab hb.1
      simp [keyLess, Ne.symm hab, Nat.le_of_lt hlt]

theorem keyLess_irrefl (as : List Nat) : keyLess as as = false := by
  cases h : keyLess as as
  · rfl
  · exact h.symm.trans (keyLess_asymm h)

/-- A port's Announce against the best so far. -/
def Chip.better (c : Chip) (best : Option (Fin 16 × PtpAnnounce)) (p : Fin 16) : Option (Fin 16 × PtpAnnounce) :=
  match c.ports[p].announce with
  | none => best
  | some a => if !c.ptpOn p then best
    else match best with
      | none => some (p, a)
      | some b => if keyLess (announceKey a) (announceKey b.2) then some (p, a) else best

theorem Chip.bestPort_eq (c : Chip) : c.bestPort = allPorts.foldl c.better none := rfl

theorem mem_allPorts : ∀ p : Fin 16, p ∈ allPorts := by decide

theorem Chip.bestPort_none {c : Chip} (h : ∀ q : Fin 16, c.ports[q].announce = none) : c.bestPort = none := by
  rw [Chip.bestPort_eq]
  have hstep : ∀ q, c.better none q = none := fun q => by rw [Chip.better, h q]
  induction allPorts with
  | nil => rfl
  | cons q l ih => rw [List.foldl_cons, hstep, ih]

section
variable {c : Chip} {w : Fin 16} {a : PtpAnnounce} (hw : c.ports[w].announce = some a) (hon : c.ptpOn w = true)
  (hbest : ∀ q b, q ≠ w → c.ptpOn q = true → c.ports[q].announce = some b → keyLess (announceKey a) (announceKey b) = true)
include hw hon hbest

/-- The best so far is the winner, or worse than it. -/
def Worse (w : Fin 16) (a : PtpAnnounce) (best : Option (Fin 16 × PtpAnnounce)) : Prop :=
  ∀ x, best = some x → x = (w, a) ∨ keyLess (announceKey a) (announceKey x.2) = true

omit hbest in
theorem Chip.better_winner {best : Option (Fin 16 × PtpAnnounce)} (hworse : Worse w a best) :
    c.better best w = some (w, a) := by
  unfold Chip.better
  rw [hw, hon]
  match best with
  | none => rfl
  | some x =>
    rcases hworse x rfl with rfl | hless
    · simp [keyLess_irrefl]
    · simp [hless]

omit hw hon in
theorem Chip.better_other {q : Fin 16} (hq : q ≠ w) {best : Option (Fin 16 × PtpAnnounce)} (hworse : Worse w a best) :
    Worse w a (c.better best q) ∧ (best = some (w, a) → c.better best q = some (w, a)) := by
  unfold Chip.better
  split
  case h_1 => exact ⟨hworse, id⟩
  case h_2 b hb =>
    split
    case isTrue => exact ⟨hworse, id⟩
    case isFalse hqon =>
      have hless := hbest q b hq (by simpa using hqon) hb
      have hthis : Worse w a (some (q, b)) := fun x hx => .inr (Option.some.inj hx ▸ hless)
      match best with
      | none => exact ⟨hthis, nofun⟩
      | some x =>
        dsimp only
        split
        · rename_i hbx
          refine ⟨hthis, fun hx => ?_⟩
          rw [Option.some.inj hx, keyLess_asymm hless] at hbx
          exact absurd hbx (by simp)
        · exact ⟨hworse, id⟩

theorem Chip.foldl_better (l : List (Fin 16)) : ∀ best, Worse w a best → (w ∈ l ∨ best = some (w, a)) →
    l.foldl c.better best = some (w, a) := by
  induction l with
  | nil => exact fun best _ h => h.resolve_left (by simp)
  | cons q l ih =>
    intro best hworse h
    rw [List.foldl_cons]
    by_cases hq : q = w
    · subst hq
      rw [Chip.better_winner hw hon hworse]
      exact ih _ (fun x hx => .inl (Option.some.inj hx).symm) (.inr rfl)
    · obtain ⟨hworse', hkeeps⟩ := Chip.better_other hbest hq hworse
      refine ih _ hworse' (h.imp (fun hmem => ?_) hkeeps)
      exact (List.mem_cons.mp hmem).resolve_left (Ne.symm hq)

/-- The port with the best Announce is the one whose Announce is less than every other. -/
theorem Chip.bestPort_of_least : c.bestPort = some (w, a) :=
  Chip.foldl_better hw hon hbest allPorts none nofun (.inl (mem_allPorts w))

end

/-- The role that a port takes when the masters have been compared. -/
def Chip.roleOf (c : Chip) (p : Fin 16) : PtpRole :=
  match c.bestPort with
  | none => .listening
  | some b => if p = b.1 then .slave else if c.ptpOn p then .master else .listening

/-- The module with the selected master's roles and port. -/
def Chip.selected (c : Chip) : Chip :=
  let ps : Vector Port 16 := Vector.ofFn fun p : Fin 16 => { c.ports[p] with ptpRole := c.roleOf p }
  let d : Drone :=
    { c.drone with slavePort := c.bestPort.map Prod.fst, gmId := (c.bestPort.map fun b => b.2.gm).getD 0 }
  { c with ports := ps, drone := d }

theorem Chip.selectMaster_eq (c : Chip) : c.selectMaster =
    if c.selected.drone.state = .holdover ∧ c.bestPort.isSome then c.selected.setDrone .acquire else c.selected := rfl

theorem Chip.selected_ports (c : Chip) (q : Fin 16) : c.selected.ports[q] = { c.ports[q] with ptpRole := c.roleOf q } := by
  simp [Chip.selected]

theorem Chip.selectMaster_ports (c : Chip) (q : Fin 16) :
    c.selectMaster.ports[q] = { c.ports[q] with ptpRole := c.roleOf q } := by
  rw [Chip.selectMaster_eq]
  split
  · exact (Chip.port_congr (by simp) q).trans (c.selected_ports q)
  · exact c.selected_ports q

theorem Chip.selectMaster_sameClock (c : Chip) : c.selected.drone.SameClock c.selectMaster.drone := by
  rw [Chip.selectMaster_eq]
  split
  · exact c.selected.setDrone_sameClock _
  · exact .refl _

theorem Chip.selectMaster_slavePort (c : Chip) : c.selectMaster.drone.slavePort = c.bestPort.map Prod.fst :=
  c.selectMaster_sameClock.slavePort

theorem Chip.selectMaster_gmId (c : Chip) : c.selectMaster.drone.gmId = (c.bestPort.map fun b => b.2.gm).getD 0 :=
  c.selectMaster_sameClock.gmId

theorem Chip.selectMaster_acquire {c : Chip} (h : c.drone.state = .holdover) (hbest : c.bestPort.isSome = true) :
    c.selectMaster.drone.state = .acquire := by
  rw [Chip.selectMaster_eq, if_pos ⟨h, hbest⟩, Chip.setDrone_state]

theorem Chip.selectMaster_of_none {c : Chip} (h : c.bestPort = none) : c.selectMaster = c.selected := by
  rw [Chip.selectMaster_eq, if_neg (by simp [h])]

end Sys2Proof.Machine
end

section
/-! O57: Drone follows its selected master. -/

namespace Sys2Proof.Machine

/-! ### A message on a port that runs PTP (R260) -/

theorem Chip.ptpTakes_of_on {c : Chip} {p : Fin 16} (hon : c.ptpOn p = true) : c.ptpTakes p c.objs.ptpDomainNow = true := by
  simp [Chip.ptpTakes, hon]

theorem Chip.ptpTakes_of_ne {c : Chip} (p : Fin 16) {d : Byte} (h : d ≠ c.objs.ptpDomainNow) : c.ptpTakes p d = false := by
  simp [Chip.ptpTakes, h]

theorem Chip.slaveOn_of_on {c : Chip} {p : Fin 16} (hon : c.ptpOn p = true) (hslave : c.drone.slavePort = some p) :
    c.slaveOn p c.objs.ptpDomainNow = true := by
  simp [Chip.slaveOn, Chip.ptpTakes_of_on hon, hslave]

/-! ### Syncs (R260-R262) -/

/-- The module that a Sync of the selected master has reached. -/
def Chip.synced (c : Chip) : Chip :=
  let c := c.atSync
  let c := { c with drone := { c.drone with lastSyncAt := c.drone.now } }
  if c.drone.state = .free ∨ c.drone.state = .holdover then c.setDrone .acquire else c

/-- The module whose Sync's stamp is noted, before Drone's state changes. -/
def Chip.stamped (c : Chip) : Chip :=
  { c with
    objs := { c.objs with logSyncNow := c.mram.logSync, lockThrNow := c.mram.lockThr }
    drone := { c.drone with lastSyncAt := c.drone.now } }

theorem Chip.synced_eq (c : Chip) : c.synced =
    if c.drone.state = .free ∨ c.drone.state = .holdover then c.stamped.setDrone .acquire else c.stamped := rfl

theorem Chip.synced_acquire {c : Chip} (h : c.drone.state = .free ∨ c.drone.state = .holdover) :
    c.synced.drone.state = .acquire := by
  rw [Chip.synced_eq, if_pos h, Chip.setDrone_state]

theorem Chip.synced_src {c : Chip} (h : c.drone.state = .free ∨ c.drone.state = .holdover)
    (hidle : c.intc.src[10] = .idle) : c.synced.intc.src[10] = .pending := by
  have hne : c.stamped.drone.state ≠ .acquire := fun hst => by
    have hst' : c.drone.state = .acquire := hst
    simp [hst'] at h
  rw [Chip.synced_eq, if_pos h, Chip.setDrone_intc hne]
  exact Intc.edge_of_idle hidle _

theorem Chip.synced_state {c : Chip} (h : c.drone.state = .acquire ∨ c.drone.state = .locked) :
    c.synced.drone.state = c.drone.state := by
  rw [Chip.synced_eq, if_neg (by rcases h with h | h <;> simp [h])]
  rfl

theorem Chip.synced_sameClock (c : Chip) : c.stamped.drone.SameClock c.synced.drone := by
  rw [Chip.synced_eq]
  split
  · exact c.stamped.setDrone_sameClock _
  · exact .refl _

theorem Chip.synced_everLocked (c : Chip) : c.synced.drone.everLocked = c.drone.everLocked := by
  rw [Chip.synced_eq]
  split
  · exact Chip.setDrone_everLocked (by decide)
  · rfl

theorem Chip.synced_syncObjs (c : Chip) : c.synced.syncObjs = (c.mram.logSync, c.mram.lockThr) := by
  rw [Chip.synced_eq]
  split
  · exact c.stamped.setDrone_syncObjs _
  · rfl

theorem Chip.synced_ports (c : Chip) : c.synced.ports = c.ports := by
  rw [Chip.synced_eq]
  split
  · exact (show (c.stamped.setDrone .acquire).ports = c.stamped.ports by simp)
  · rfl

theorem Chip.synced_parts (c : Chip) : c.synced.parts = c.parts := by
  rw [Chip.synced_eq]
  split
  · exact (show (c.stamped.setDrone .acquire).parts = c.stamped.parts by simp)
  · rfl

section
variable {s : State} {p : Fin 16} (hon : s.chip.ptpOn p = true) (hslave : s.chip.drone.slavePort = some p)
include hon hslave

/-- A two-step Sync waits for its Follow_Up. -/
theorem exec_ptpSyncReceive_two {m : PtpSync} (hdom : m.domain = s.chip.objs.ptpDomainNow) (hstep : m.oneStep = false) :
    exec (.ptpSyncReceive p m) s = .next (s.on fun c =>
      c.synced.modPort p fun x => { x with lastSync := some (m.seqId, c.synced.drone.now, m.correction) }) := by
  have hon' := Chip.slaveOn_of_on hon hslave
  change execPtpSyncReceive p m s = _
  simp only [execPtpSyncReceive, State.on, hdom, hon', hstep]
  rfl

/-- A one-step Sync carries its time of sending. -/
theorem exec_ptpSyncReceive_one {m : PtpSync} (hdom : m.domain = s.chip.objs.ptpDomainNow) (hstep : m.oneStep = true) :
    exec (.ptpSyncReceive p m) s = .next (s.on fun c =>
      c.synced.measure p (m.origin.toNat + m.correction) c.synced.drone.now) := by
  have hon' := Chip.slaveOn_of_on hon hslave
  change execPtpSyncReceive p m s = _
  simp only [execPtpSyncReceive, State.on, hdom, hon', hstep]
  rfl

theorem exec_ptpFollowUpReceive {seq : W16} {received : Stamp} {corr : Int} (origin : PtpTime)
    (hlast : s.chip.ports[p].lastSync = some (seq, received, corr)) :
    exec (.ptpFollowUpReceive p ⟨s.chip.objs.ptpDomainNow, seq⟩ origin) s = .next (s.on fun c =>
      c.measure p (origin.stamp.toNat + corr + origin.correction) received) := by
  have hon' := Chip.slaveOn_of_on hon hslave
  change execPtpFollowUpReceive p ⟨s.chip.objs.ptpDomainNow, seq⟩ origin s = _
  simp only [execPtpFollowUpReceive, State.on, hon', hlast]
  simp

theorem exec_ptpDelayRespReceive {seq : W16} (received : Stamp) (corr : Int) (hpeer : s.chip.ports[p].peerDelay = false)
    (hseq : s.chip.ports[p].delaySeq = seq) {sent : Int} {at_ : Stamp} (hpair : s.chip.ports[p].syncPair = some (sent, at_)) :
    exec (.ptpDelayRespReceive p ⟨s.chip.objs.ptpDomainNow, seq⟩ ⟨received, corr⟩) s =
      .next { s with chip := s.chip.modPort p fun y => { y with
        pathDelay := (((at_.toNat : Int) - sent) +
          ((received.toNat : Int) - corr - s.chip.ports[p].delayAt.toNat)) / 2 } } := by
  have hon' := Chip.slaveOn_of_on hon hslave
  change execPtpDelayRespReceive p ⟨s.chip.objs.ptpDomainNow, seq⟩ ⟨received, corr⟩ s = _
  simp only [execPtpDelayRespReceive, State.on, hon', hpeer, hseq, hpair]
  simp

omit hon hslave in
theorem exec_ptpDelayRespReceive_early {seq : W16} (received : PtpTime) (hpair : s.chip.ports[p].syncPair = none) :
    exec (.ptpDelayRespReceive p ⟨s.chip.objs.ptpDomainNow, seq⟩ received) s = .next s := by
  change execPtpDelayRespReceive p ⟨s.chip.objs.ptpDomainNow, seq⟩ received s = _
  simp only [execPtpDelayRespReceive, State.on, hpair, ite_self]

end

theorem exec_ptpSyncReceive_ne {s : State} {p : Fin 16} {m : PtpSync} (h : m.domain ≠ s.chip.objs.ptpDomainNow) :
    exec (.ptpSyncReceive p m) s = .next s := by
  change execPtpSyncReceive p m s = _
  simp [execPtpSyncReceive, State.on, Chip.slaveOn, Chip.ptpTakes_of_ne p h]

/-! ### A measured offset -/

/-- The offset that a Sync of a port measures (R260). -/
def Chip.offsetOf (c : Chip) (p : Fin 16) (sent : Int) (received : Stamp) : Int :=
  (received.toNat : Int) - sent - c.ports[p].pathDelay - Config.asymmetry p

/-- The port with the Sync's two stamps. -/
def Chip.paired (c : Chip) (p : Fin 16) (sent : Int) (received : Stamp) : Chip :=
  c.modPort p fun x => { x with lastSync := none, syncPair := some (sent, received) }

theorem Chip.measure_eq (c : Chip) (p : Fin 16) (sent : Int) (received : Stamp) :
    c.measure p sent received = (c.paired p sent received).correct (c.offsetOf p sent received) := rfl

theorem Chip.measure_port (c : Chip) (p : Fin 16) (sent : Int) (received : Stamp) :
    (c.measure p sent received).ports[p] = { c.ports[p] with lastSync := none, syncPair := some (sent, received) } := by
  rw [Chip.measure_eq]
  have hports : ((c.paired p sent received).correct (c.offsetOf p sent received)).ports =
      (c.paired p sent received).ports := by simp
  exact (Chip.port_congr hports p).trans (c.modPort_same p _)

theorem Chip.measure_corrected (c : Chip) (p : Fin 16) (sent : Int) (received : Stamp) :
    c.drone.Corrected (c.offsetOf p sent received) (c.measure p sent received).drone :=
  (c.paired p sent received).correct_corrected _

/-- What a correction does depends on Drone's count, its last step and whether it was ever locked. -/
theorem Drone.Corrected.congr {d d' e : Drone} {off : Int} (h : d.Corrected off e) (hnow : d.now = d'.now)
    (hstep : d.stepNs = d'.stepNs) (hever : d.everLocked = d'.everLocked) : d'.Corrected off e :=
  ⟨h.offset, hnow ▸ hever ▸ h.step, hnow ▸ hstep ▸ hever ▸ h.slew⟩

/-! ### Masters (R260, R261) -/

/-- A port's Announce taken. -/
def Chip.heard (c : Chip) (p : Fin 16) (a : PtpAnnounce) : Chip := c.modPort p fun x => { x with announce := some a }

theorem Chip.heard_ptpOn (c : Chip) (p : Fin 16) (a : PtpAnnounce) (q : Fin 16) :
    (c.heard p a).ptpOn q = c.ptpOn q :=
  Chip.ptpOn_congr (c := c) (d := c.heard p a) rfl rfl
    (Chip.modPort_field (g := Port.state) (f := fun x => { x with announce := some a }) (fun _ => rfl) c p q)

theorem Chip.heard_same (c : Chip) (p : Fin 16) (a : PtpAnnounce) : (c.heard p a).ports[p].announce = some a :=
  congrArg Port.announce (c.modPort_same p _)

theorem Chip.heard_ne (c : Chip) {p q : Fin 16} (a : PtpAnnounce) (h : q ≠ p) :
    (c.heard p a).ports[q] = c.ports[q] := c.modPort_ne _ h

theorem exec_ptpAnnounceReceive {s : State} {p : Fin 16} (hon : s.chip.ptpOn p = true) {a : PtpAnnounce}
    (hdom : a.domain = s.chip.objs.ptpDomainNow) :
    exec (.ptpAnnounceReceive p a) s = .next (s.on fun c => (c.heard p a).selectMaster) := by
  have htakes := Chip.ptpTakes_of_on hon
  change execPtpAnnounceReceive p a s = _
  simp only [execPtpAnnounceReceive, State.on, hdom, htakes, if_true]
  rfl

theorem exec_ptpAnnounceReceive_ne {s : State} {p : Fin 16} {a : PtpAnnounce} (h : a.domain ≠ s.chip.objs.ptpDomainNow) :
    exec (.ptpAnnounceReceive p a) s = .next s := by
  change execPtpAnnounceReceive p a s = _
  simp [execPtpAnnounceReceive, State.on, Chip.ptpTakes_of_ne p h]

section
variable {c : Chip} {p : Fin 16} (hon : c.ptpOn p = true) (a : PtpAnnounce)
include hon

/-- An Announce less than every other selects its port. -/
theorem Chip.heard_best (h : ∀ q b, q ≠ p → c.ports[q].announce = some b →
    keyLess (announceKey a) (announceKey b) = true) : (c.heard p a).bestPort = some (p, a) := by
  refine Chip.bestPort_of_least (c.heard_same p a) ((c.heard_ptpOn p a p).trans hon) fun q b hq _ hb => ?_
  exact h q b hq ((congrArg Port.announce (c.heard_ne a hq)).symm.trans hb)

omit hon in
/-- An Announce that is not less than another port's leaves that port the best of the two. -/
theorem Chip.heard_other {q : Fin 16} {b : PtpAnnounce} (hq : q ≠ p) (hqon : c.ptpOn q = true)
    (hb : c.ports[q].announce = some b) (hothers : ∀ o, o ≠ p → o ≠ q → c.ports[o].announce = none)
    (hless : keyLess (announceKey b) (announceKey a) = true) : (c.heard p a).bestPort = some (q, b) := by
  refine Chip.bestPort_of_least ((congrArg Port.announce (c.heard_ne a hq)).trans hb)
    ((c.heard_ptpOn p a q).trans hqon) fun o x ho _ hx => ?_
  by_cases hop : o = p
  · subst hop
    rw [c.heard_same] at hx
    exact Option.some.inj hx ▸ hless
  · rw [c.heard_ne a hop, hothers o hop ho] at hx
    exact absurd hx (by simp)

end

/-- The module as it has lost every master, before its masters are compared. -/
def Chip.unannounced (c : Chip) : Chip :=
  { c with ports := c.ports.map fun x => { x with announce := none, lastSync := none } }

theorem Chip.unannounced_best (c : Chip) : c.unannounced.bestPort = none :=
  Chip.bestPort_none fun q => by simp [Chip.unannounced]

/-- Drone's state once every master is lost. -/
def Chip.heldOver (c : Chip) : Chip :=
  let d := c.unannounced.selected
  if d.drone.state = .locked ∨ (d.drone.state = .acquire ∧ d.drone.everLocked) then d.setDrone .holdover else d

theorem exec_ptpMasterLost {s : State} (hup : s.chip.up = true)
    (hdue : 4 * s.chip.syncNs ≤ s.chip.since s.chip.drone.lastSyncAt) :
    exec .ptpMasterLost s = .next (s.on Chip.heldOver) := by
  change execPtpMasterLost s = _
  simp only [execPtpMasterLost, State.on, hup, decide_eq_true hdue]
  simp only [Chip.heldOver, ← Chip.selectMaster_of_none s.chip.unannounced_best]
  rfl

theorem Chip.heldOver_sameClock (c : Chip) : c.unannounced.selected.drone.SameClock c.heldOver.drone := by
  unfold Chip.heldOver
  dsimp only
  split
  · exact Chip.setDrone_sameClock ..
  · exact .refl _

theorem Chip.heldOver_ports (c : Chip) : c.heldOver.ports = c.unannounced.selected.ports := by
  unfold Chip.heldOver
  dsimp only
  split
  · simp
  · rfl

theorem Chip.heldOver_slavePort (c : Chip) : c.heldOver.drone.slavePort = none := by
  rw [c.heldOver_sameClock.slavePort]
  exact congrArg (Option.map Prod.fst) c.unannounced_best

theorem Chip.heldOver_role (c : Chip) (q : Fin 16) : c.heldOver.ports[q].ptpRole = .listening := by
  rw [Chip.port_congr c.heldOver_ports q, Chip.selected_ports, Chip.roleOf, c.unannounced_best]

theorem Chip.heldOver_holdover {c : Chip} (h : c.drone.state = .locked) :
    c.heldOver.drone.state = .holdover ∧ c.heldOver.drone.holdoverSince = c.drone.now := by
  have hstate : c.unannounced.selected.drone.state = .locked := h
  unfold Chip.heldOver
  rw [if_pos (.inl hstate), Chip.setDrone_drone (by simp [hstate])]
  exact ⟨rfl, rfl⟩

theorem Chip.heldOver_free {c : Chip} (h : c.drone.state = .free) : c.heldOver.drone.state = .free := by
  have hstate : c.unannounced.selected.drone.state = .free := h
  unfold Chip.heldOver
  rw [if_neg (by simp [hstate])]
  exact hstate

/-! ### What is sent, and the delays (R260) -/

/-- The module that sends a Sync, with the best Announce there is. -/
def Chip.announcing (c : Chip) (p : Fin 16) : Chip :=
  match c.atSync.announces with
  | some a => c.atSync.ptpSend p (.ptpAnnounce a)
  | none => c.atSync

theorem Chip.announcing_port (c : Chip) (p : Fin 16) : (c.announcing p).ports[p] =
    { c.ports[p] with tx := c.ports[p].tx ++ (c.announces.map TxFrame.ptpAnnounce).toList } := by
  unfold Chip.announcing
  rw [show c.atSync.announces = c.announces from rfl]
  cases c.announces with
  | none => simp [Chip.atSync]
  | some a => exact c.atSync.modPort_same p _

theorem Chip.announcing_ne (c : Chip) {p q : Fin 16} (h : q ≠ p) : (c.announcing p).ports[q] = c.ports[q] := by
  unfold Chip.announcing
  split
  · exact c.atSync.modPort_ne _ h
  · rfl

theorem Chip.announcing_now (c : Chip) (p : Fin 16) : (c.announcing p).drone.now = c.drone.now := by
  unfold Chip.announcing
  split <;> rfl

/-- The module that has sent a Sync and its Follow_Up. -/
def Chip.syncSent (c : Chip) (p : Fin 16) : Chip :=
  let d := c.announcing p
  d.modPort p fun x =>
    { x with
      tx := x.tx ++ [.ptpSync c.ports[p].ptpSeq d.drone.now, .ptpFollowUp c.ports[p].ptpSeq d.drone.now]
      ptpSeq := c.ports[p].ptpSeq + 1, syncDue := d.drone.now + BitVec.ofNat 64 d.syncNs }

section
variable {s : State} {p : Fin 16} (hon : s.chip.ptpOn p = true)
include hon

theorem exec_ptpSyncSend (hrole : s.chip.ports[p].ptpRole = .master)
    (hdue : s.chip.ports[p].syncDue.toNat ≤ s.chip.drone.now.toNat) :
    exec (.ptpSyncSend p) s = .next (s.on fun c => c.syncSent p) := by
  have hdue' : s.chip.due s.chip.ports[p].syncDue = true := decide_eq_true hdue
  change execPtpSyncSend p s = _
  simp only [execPtpSyncSend, State.on, hon, hrole, hdue', Chip.ptpSend, Chip.modPort_modPort]
  simp only [Chip.syncSent, List.append_assoc, List.cons_append, List.nil_append]
  rfl

omit hon in
theorem exec_ptpSyncSend_early (hdue : s.chip.drone.now.toNat < s.chip.ports[p].syncDue.toNat) :
    exec (.ptpSyncSend p) s = .next s := by
  have hdue' : s.chip.due s.chip.ports[p].syncDue = false := decide_eq_false (by omega)
  change execPtpSyncSend p s = _
  simp only [execPtpSyncSend, State.on, hdue', Bool.and_false]
  rfl

theorem exec_ptpDelayReqReceive (hrole : s.chip.ports[p].ptpRole = .master) (seq : W16) (src : W64) :
    exec (.ptpDelayReqReceive p ⟨s.chip.objs.ptpDomainNow, seq⟩ src) s =
      .next { s with chip := s.chip.ptpSend p (.ptpDelayResp seq src s.chip.drone.now) } := by
  have htakes := Chip.ptpTakes_of_on hon
  change execPtpDelayReqReceive p ⟨s.chip.objs.ptpDomainNow, seq⟩ src s = _
  simp only [execPtpDelayReqReceive, State.on, htakes, hrole]
  rfl

theorem exec_ptpPdelayReqReceive (seq : W16) (src : W64) :
    exec (.ptpPdelayReqReceive p ⟨s.chip.objs.ptpDomainNow, seq⟩ src) s =
      .next { s with chip := s.chip.modPort p fun y =>
        { y with peerDelay := true, tx := y.tx ++ [.ptpPdelayResp seq src s.chip.drone.now] } } := by
  have htakes := Chip.ptpTakes_of_on hon
  change execPtpPdelayReqReceive p ⟨s.chip.objs.ptpDomainNow, seq⟩ src s = _
  simp only [execPtpPdelayReqReceive, State.on, htakes, if_true, Chip.ptpSend, Chip.modPort_modPort]

theorem exec_ptpPdelayRespReceive {seq : W16} (turn : Int) (hpeer : s.chip.ports[p].peerDelay = true)
    (hseq : s.chip.ports[p].delaySeq = seq) :
    exec (.ptpPdelayRespReceive p ⟨s.chip.objs.ptpDomainNow, seq⟩ turn) s =
      .next { s with chip := s.chip.modPort p fun y =>
        { y with pathDelay := (((s.chip.drone.now - s.chip.ports[p].delayAt).toNat : Int) - turn) / 2 } } := by
  have htakes := Chip.ptpTakes_of_on hon
  change execPtpPdelayRespReceive p ⟨s.chip.objs.ptpDomainNow, seq⟩ turn s = _
  simp only [execPtpPdelayRespReceive, State.on, htakes, hpeer, hseq]
  simp [Chip.since]

/-- The request that a port sends for its path delay. -/
def Chip.delayReq (c : Chip) (p : Fin 16) : TxFrame :=
  if c.ports[p].peerDelay then .ptpPdelayReq (c.ports[p].delaySeq + 1) c.drone.now
  else .ptpDelayReq (c.ports[p].delaySeq + 1) c.drone.now

theorem exec_ptpDelayReqSend (hwho : s.chip.ports[p].ptpRole = .slave ∨ s.chip.ports[p].peerDelay = true)
    (hdue : s.chip.ports[p].delayReqDue.toNat ≤ s.chip.drone.now.toNat) :
    exec (.ptpDelayReqSend p) s = .next (s.on fun c => c.modPort p fun x =>
      { x with
        tx := x.tx ++ [c.delayReq p], delaySeq := c.ports[p].delaySeq + 1, delayAt := c.drone.now
        delayReqDue := c.drone.now + BitVec.ofNat 64 c.syncNs }) := by
  have hdue' : s.chip.due s.chip.ports[p].delayReqDue = true := decide_eq_true hdue
  have hwho' : (s.chip.ports[p].peerDelay || decide (s.chip.ports[p].ptpRole = .slave)) = true := by
    simpa [or_comm] using hwho
  change execPtpDelayReqSend p s = _
  simp only [execPtpDelayReqSend, State.on, hon, hwho', hdue', Chip.ptpSend, Chip.modPort_modPort]
  rfl

end

/-! ### O57's clauses -/

/-- A Drone whose relation to an offset is O57's. -/
theorem corrected_of {s u : State} {off : Int} (h : s.chip.drone.Corrected off u.chip.drone) (hmem : u.mem = s.mem)
    (hpending : u.pending = s.pending) (hparts : u.chip.parts = s.chip.parts) :
    u.chip.drone.offset = off ∧ u.mem = s.mem ∧ u.pending = s.pending ∧ u.chip.parts = s.chip.parts ∧
    (s.chip.drone.everLocked = false ∧ off < -1000000 → u.chip.drone.now = s.chip.drone.now + BitVec.ofNat 64 off.natAbs ∧
      u.chip.drone.lastStep = u.chip.drone.now ∧ u.chip.drone.stepNs = BitVec.ofNat 64 off.natAbs) ∧
    (¬ (s.chip.drone.everLocked = false ∧ off < -1000000) → u.chip.drone.now = s.chip.drone.now ∧
      u.chip.drone.stepNs = s.chip.drone.stepNs ∧ -500000000 ≤ u.chip.drone.freqAdj ∧ u.chip.drone.freqAdj ≤ 500000000) :=
  ⟨h.offset, hmem, hpending, hparts, h.step, h.slew⟩

theorem Chip.synced_measure_corrected (c : Chip) (p : Fin 16) (sent : Int) (received : Stamp) :
    c.drone.Corrected (c.offsetOf p sent received) (c.synced.measure p sent received).drone := by
  have hoff : c.synced.offsetOf p sent received = c.offsetOf p sent received := by
    unfold Chip.offsetOf
    rw [Chip.port_congr c.synced_ports p]
  exact (hoff ▸ c.synced.measure_corrected p sent received).congr c.synced_sameClock.now c.synced_sameClock.stepNs
    c.synced_everLocked

section
variable {s : State} {p : Fin 16} (hon : s.chip.ptpOn p = true)
include hon

theorem exec_ptpSyncReceive_twoStep (hslave : s.chip.drone.slavePort = some p) {m : PtpSync}
    (hdom : m.domain = s.chip.objs.ptpDomainNow) (hstep : m.oneStep = false) :
    ∃ u, exec (.ptpSyncReceive p m) s = .next u ∧
      (s.chip.drone.state = .free ∨ s.chip.drone.state = .holdover → u.chip.drone.state = .acquire ∧
        (s.chip.intc.src[10] = .idle → u.chip.intc.src[10] = .pending)) ∧
      (s.chip.drone.state = .acquire ∨ s.chip.drone.state = .locked → u.chip.drone.state = s.chip.drone.state) ∧
      u.chip.ports[p].lastSync = some (m.seqId, s.chip.drone.now, m.correction) ∧
      u.chip.drone.lastSyncAt = s.chip.drone.now ∧
      u.chip.objs.lockThrNow = s.chip.mram.lockThr ∧ u.chip.objs.logSyncNow = s.chip.mram.logSync ∧
      u.chip.drone.now = s.chip.drone.now ∧ u.mem = s.mem ∧ u.pending = s.pending := by
  have hsame := s.chip.synced_sameClock
  have hnow : s.chip.synced.drone.now = s.chip.drone.now := hsame.now
  refine ⟨_, exec_ptpSyncReceive_two hon hslave hdom hstep, fun h => ⟨?_, fun hidle => ?_⟩, fun h => ?_, ?_,
    hsame.lastSyncAt, congrArg Prod.snd s.chip.synced_syncObjs, congrArg Prod.fst s.chip.synced_syncObjs, hnow, rfl, rfl⟩
  · exact Chip.synced_acquire h
  · exact Chip.synced_src h hidle
  · exact Chip.synced_state h
  · refine (congrArg Port.lastSync (s.chip.synced.modPort_same p _)).trans ?_
    rw [hnow]

theorem exec_ptpSyncReceive_oneStep (hslave : s.chip.drone.slavePort = some p) {m : PtpSync}
    (hdom : m.domain = s.chip.objs.ptpDomainNow) (hstep : m.oneStep = true) :
    ∃ u, exec (.ptpSyncReceive p m) s = .next u ∧
      s.chip.drone.Corrected (s.chip.offsetOf p (m.origin.toNat + m.correction) s.chip.drone.now) u.chip.drone ∧
      u.mem = s.mem ∧ u.pending = s.pending ∧ u.chip.parts = s.chip.parts ∧ u.chip.ports[p].lastSync = none := by
  have hnow : s.chip.synced.drone.now = s.chip.drone.now := s.chip.synced_sameClock.now
  refine ⟨_, exec_ptpSyncReceive_one hon hslave hdom hstep, ?_, rfl, rfl, ?_, ?_⟩
  · rw [State.on_chip, hnow]
    exact s.chip.synced_measure_corrected ..
  · rw [State.on_chip, show (s.chip.synced.measure p (m.origin.toNat + m.correction) s.chip.synced.drone.now).parts =
      s.chip.synced.parts by simp]
    exact s.chip.synced_parts
  · exact congrArg Port.lastSync (s.chip.synced.measure_port ..)

theorem exec_ptpFollowUpReceive_measured (hslave : s.chip.drone.slavePort = some p) {seq : W16} {received : Stamp}
    {corr : Int} (origin : Stamp) (more : Int) (hlast : s.chip.ports[p].lastSync = some (seq, received, corr)) :
    let o := s.chip.offsetOf p (origin.toNat + corr + more) received
    ∃ u, exec (.ptpFollowUpReceive p ⟨s.chip.objs.ptpDomainNow, seq⟩ ⟨origin, more⟩) s = .next u ∧
      s.chip.drone.Corrected o u.chip.drone ∧ u.mem = s.mem ∧ u.pending = s.pending ∧ u.chip.parts = s.chip.parts ∧
      u.chip.ports[p].lastSync = none ∧ u.chip.ports[p].syncPair = some (origin.toNat + corr + more, received) ∧
      (s.chip.drone.state = .acquire → o.natAbs ≤ s.chip.objs.lockThrNow.toNat → 15 ≤ s.chip.drone.inRun →
        u.chip.drone.state = .locked) ∧
      (s.chip.drone.state = .locked → s.chip.objs.lockThrNow.toNat < o.natAbs → 15 ≤ s.chip.drone.outRun →
        u.chip.drone.state = .acquire) := by
  have hport := s.chip.measure_port p (origin.toNat + corr + more) received
  refine ⟨_, exec_ptpFollowUpReceive hon hslave ⟨origin, more⟩ hlast, s.chip.measure_corrected .., rfl, rfl, ?_,
    congrArg Port.lastSync hport, congrArg Port.syncPair hport, fun h hin hrun => ?_, fun h hout hrun => ?_⟩
  · simp
  · exact Chip.correct_locked (c := s.chip.paired p _ received) h hin hrun
  · exact Chip.correct_acquire (c := s.chip.paired p _ received) h hout hrun

theorem exec_ptpSyncSend_sent (hrole : s.chip.ports[p].ptpRole = .master)
    (hdue : s.chip.ports[p].syncDue.toNat ≤ s.chip.drone.now.toNat) : ∃ u, exec (.ptpSyncSend p) s = .next u ∧
      u.chip.ports[p].tx = s.chip.ports[p].tx ++ (s.chip.announces.map TxFrame.ptpAnnounce).toList ++
        [.ptpSync s.chip.ports[p].ptpSeq s.chip.drone.now, .ptpFollowUp s.chip.ports[p].ptpSeq s.chip.drone.now] ∧
      u.chip.ports[p].ptpSeq = s.chip.ports[p].ptpSeq + 1 ∧ u.mem = s.mem ∧ u.pending = s.pending ∧
      ∀ q, q ≠ p → u.chip.ports[q] = s.chip.ports[q] := by
  have hport := (s.chip.announcing p).modPort_same p fun x =>
    { x with
      tx := x.tx ++ [.ptpSync s.chip.ports[p].ptpSeq (s.chip.announcing p).drone.now,
        .ptpFollowUp s.chip.ports[p].ptpSeq (s.chip.announcing p).drone.now]
      ptpSeq := s.chip.ports[p].ptpSeq + 1
      syncDue := (s.chip.announcing p).drone.now + BitVec.ofNat 64 (s.chip.announcing p).syncNs }
  refine ⟨_, exec_ptpSyncSend hon hrole hdue, (congrArg Port.tx hport).trans ?_, congrArg Port.ptpSeq hport, rfl, rfl,
    fun q hq => ((s.chip.announcing p).modPort_ne _ hq).trans (s.chip.announcing_ne hq)⟩
  rw [s.chip.announcing_now p, congrArg Port.tx (s.chip.announcing_port p)]

theorem exec_ptpAnnounceReceive_best {a : PtpAnnounce} (hdom : a.domain = s.chip.objs.ptpDomainNow)
    (hnone : ∀ q, q ≠ p → s.chip.ports[q].announce = none) : ∃ u, exec (.ptpAnnounceReceive p a) s = .next u ∧
      u.chip.drone.slavePort = some p ∧ u.chip.drone.gmId = a.gm ∧ u.chip.ports[p].ptpRole = .slave ∧
      u.chip.ports[p].announce = some a ∧ (s.chip.drone.state = .holdover → u.chip.drone.state = .acquire) ∧
      (∀ q, q ≠ p → s.chip.ptpOn q = true → u.chip.ports[q].ptpRole = .master) ∧ u.mem = s.mem ∧ u.pending = s.pending := by
  have hbest : (s.chip.heard p a).bestPort = some (p, a) :=
    Chip.heard_best hon a fun q b hq hb => absurd ((hnone q hq).symm.trans hb) nofun
  have hports := (s.chip.heard p a).selectMaster_ports
  refine ⟨_, exec_ptpAnnounceReceive hon hdom, ?_, ?_, (congrArg Port.ptpRole (hports p)).trans ?_,
    (congrArg Port.announce (hports p)).trans (s.chip.heard_same p a), fun h => ?_, fun q hq hqon => ?_, rfl, rfl⟩
  · exact (Chip.selectMaster_slavePort _).trans (congrArg _ hbest)
  · rw [State.on_chip, Chip.selectMaster_gmId, hbest]
    rfl
  · simp [Chip.roleOf, hbest]
  · exact Chip.selectMaster_acquire h (by rw [hbest]; rfl)
  · refine (congrArg Port.ptpRole (hports q)).trans ?_
    simp [Chip.roleOf, hbest, hq, Chip.heard_ptpOn, hqon]

/-- Of two Announces the lesser selects its port. -/
theorem exec_ptpAnnounceReceive_pair {a b : PtpAnnounce} {q : Fin 16} (hdom : a.domain = s.chip.objs.ptpDomainNow)
    (hq : q ≠ p) (hqon : s.chip.ptpOn q = true) (hb : s.chip.ports[q].announce = some b)
    (hnone : ∀ o, o ≠ p → o ≠ q → s.chip.ports[o].announce = none) : ∃ u, exec (.ptpAnnounceReceive p a) s = .next u ∧
      (keyLess (announceKey a) (announceKey b) = true → u.chip.drone.slavePort = some p) ∧
      (keyLess (announceKey b) (announceKey a) = true → u.chip.drone.slavePort = some q) := by
  refine ⟨_, exec_ptpAnnounceReceive hon hdom, fun hless => ?_, fun hless => ?_⟩
  · have hbest : (s.chip.heard p a).bestPort = some (p, a) := Chip.heard_best hon a fun o x ho hx => by
      by_cases hoq : o = q
      · subst hoq
        exact Option.some.inj (hb.symm.trans hx) ▸ hless
      · exact absurd ((hnone o ho hoq).symm.trans hx) nofun
    exact (Chip.selectMaster_slavePort _).trans (congrArg _ hbest)
  · exact (Chip.selectMaster_slavePort _).trans (congrArg _ (Chip.heard_other a hq hqon hb hnone hless))

end

theorem exec_ptpMasterLost_held {s : State} (hup : s.chip.up = true)
    (hdue : 4 * s.chip.syncNs ≤ (s.chip.drone.now - s.chip.drone.lastSyncAt).toNat) :
    ∃ u, exec .ptpMasterLost s = .next u ∧ u.chip.drone.slavePort = none ∧
      (∀ q : Fin 16, u.chip.ports[q].ptpRole = .listening) ∧
      (s.chip.drone.state = .locked → u.chip.drone.state = .holdover ∧ u.chip.drone.holdoverSince = s.chip.drone.now) ∧
      (s.chip.drone.state = .free → u.chip.drone.state = .free) ∧ u.mem = s.mem ∧ u.pending = s.pending :=
  ⟨_, exec_ptpMasterLost hup hdue, s.chip.heldOver_slavePort, s.chip.heldOver_role, Chip.heldOver_holdover,
    Chip.heldOver_free, rfl, rfl⟩

end Sys2Proof.Machine

open Sys2Proof.Machine

/-- Settles O57: each message by its equation, a correction by `Chip.correct_corrected`, the selected port as the one of
the least Announce (`Chip.bestPort_of_least`). -/
theorem droneFollowsItsMaster : Obligations.DroneFollowsItsMaster := by
  unfold Obligations.DroneFollowsItsMaster
  intro s p hon x now d dom off steps corrected
  have hup : s.chip.up = true := by
    simp only [Chip.ptpOn, Bool.and_eq_true] at hon
    exact hon.1.1
  refine ⟨fun hslave => ⟨fun m hdom => ⟨fun hstep => exec_ptpSyncReceive_twoStep hon hslave hdom hstep, fun hstep => ?_⟩,
      fun m hdom => exec_ptpSyncReceive_ne hdom, fun seq received corr origin more hlast => ?_,
      fun seq received corr hpeer hseq => ⟨fun sent at_ hpair => ?_, fun hpair => ?_⟩⟩,
    fun hrole => ⟨fun seq src => exec_ptpDelayReqReceive hon hrole seq src, exec_ptpSyncSend_sent hon hrole,
      exec_ptpSyncSend_early⟩, fun hwho hdue => ?_, exec_ptpPdelayReqReceive hon,
    fun seq turn hpeer hseq => exec_ptpPdelayRespReceive hon turn hpeer hseq, fun a => exec_ptpAnnounceReceive_ne,
    fun a hdom => ⟨exec_ptpAnnounceReceive_best hon hdom, fun q b => exec_ptpAnnounceReceive_pair hon hdom⟩,
    exec_ptpMasterLost_held hup⟩
  · obtain ⟨u, hu, hcorrected, hmem, hpending, hparts, hlast⟩ := exec_ptpSyncReceive_oneStep hon hslave hdom hstep
    exact ⟨u, hu, corrected_of hcorrected hmem hpending hparts, hlast⟩
  · obtain ⟨u, hu, hcorrected, hmem, hpending, hparts, hrest⟩ :=
      exec_ptpFollowUpReceive_measured hon hslave origin more hlast
    exact ⟨u, hu, corrected_of hcorrected hmem hpending hparts, hrest⟩
  · exact exec_ptpDelayRespReceive hon hslave received corr hpeer hseq hpair
  · exact exec_ptpDelayRespReceive_early ⟨received, corr⟩ hpair
  · have hport := s.chip.modPort_same p fun x =>
      { x with
        tx := x.tx ++ [s.chip.delayReq p], delaySeq := s.chip.ports[p].delaySeq + 1, delayAt := s.chip.drone.now
        delayReqDue := s.chip.drone.now + BitVec.ofNat 64 s.chip.syncNs }
    exact ⟨_, exec_ptpDelayReqSend hon hwho hdue, congrArg Port.tx hport, congrArg Port.delaySeq hport,
      congrArg Port.delayAt hport, rfl, rfl⟩

end

section
/-! Bore ports: what sending leaves of a port, and the states DOWN, HELLO, UP, MISMATCH and DISABLED (R268-R278). -/

namespace Sys2Proof.Machine

/-! ### Sending (R274) -/

/-- A port with the counts, queues and debts of sending of another. -/
def Port.sentAs (x y : Port) : Port :=
  { x with
    psn := y.psn, unacked := y.unacked, tx := y.tx, nakOwed := y.nakOwed, ackOwed := y.ackOwed, lastTx := y.lastTx
    ackMoved := y.ackMoved }

/-- Port `y` is port `x` after frames were queued, sent or taken from its queue. -/
def Port.SendsAs (x y : Port) : Prop := y = x.sentAs y

theorem Port.SendsAs.refl (x : Port) : x.SendsAs x := rfl

theorem Port.SendsAs.trans {x y z : Port} (h : x.SendsAs y) (h' : y.SendsAs z) : x.SendsAs z :=
  Eq.trans h' (congrArg (fun w : Port => w.sentAs z) h : y.sentAs z = (x.sentAs y).sentAs z)

theorem Port.SendsAs.field {α : Type} {x y : Port} (h : x.SendsAs y) {g : Port → α} (hg : ∀ z w : Port, g (z.sentAs w) = g z) :
    g y = g x := (congrArg g h).trans (hg x y)

section
variable {x y : Port} (h : x.SendsAs y)
include h

theorem Port.SendsAs.state : y.state = x.state := h.field fun _ _ => rfl
theorem Port.SendsAs.peer : y.peer = x.peer := h.field fun _ _ => rfl
theorem Port.SendsAs.ver : y.ver = x.ver := h.field fun _ _ => rfl
theorem Port.SendsAs.ackn : y.ackn = x.ackn := h.field fun _ _ => rfl
theorem Port.SendsAs.gap : y.gap = x.gap := h.field fun _ _ => rfl
theorem Port.SendsAs.peerCredit : y.peerCredit = x.peerCredit := h.field fun _ _ => rfl
theorem Port.SendsAs.peerAbsent : y.peerAbsent = x.peerAbsent := h.field fun _ _ => rfl
theorem Port.SendsAs.lastLive : y.lastLive = x.lastLive := h.field fun _ _ => rfl
theorem Port.SendsAs.waiting : y.waiting = x.waiting := h.field fun _ _ => rfl
theorem Port.SendsAs.discard : y.discard = x.discard := h.field fun _ _ => rfl
theorem Port.SendsAs.loss : y.loss = x.loss := h.field fun _ _ => rfl

end

/-- No port of the second module differs from the first's by more than frames sent. -/
def Chip.PortsSend (c d : Chip) : Prop := ∀ q : Fin 16, c.ports[q].SendsAs d.ports[q]

theorem Chip.PortsSend.refl (c : Chip) : c.PortsSend c := fun _ => .refl _

theorem Chip.PortsSend.trans {c d e : Chip} (h : c.PortsSend d) (h' : d.PortsSend e) : c.PortsSend e :=
  fun q => (h q).trans (h' q)

theorem Chip.PortsSend.of_eq {c d : Chip} (h : d.ports = c.ports) : c.PortsSend d := fun q => by
  rw [Chip.port_congr h q]
  exact .refl _

theorem Chip.PortsSend.foldl {α : Type} {f : Chip → α → Chip} (h : ∀ (c : Chip) x, c.PortsSend (f c x)) :
    ∀ (l : List α) (c : Chip), c.PortsSend (l.foldl f c)
  | [], c => .refl c
  | x :: l, c => (h c x).trans (Chip.PortsSend.foldl h l (f c x))

theorem Chip.modPort_portsSend (c : Chip) (p : Fin 16) {f : Port → Port} (hf : ∀ x : Port, x.SendsAs (f x)) :
    c.PortsSend (c.modPort p f) := fun q => by
  by_cases h : q = p
  · subst h
    rw [Chip.modPort_same]
    exact hf _
  · rw [Chip.modPort_ne c f h]
    exact .refl _

theorem Chip.pumpPort_portsSend (c : Chip) (p : Fin 16) : c.PortsSend (c.pumpPort p) := by
  unfold Chip.pumpPort
  dsimp only
  split
  · exact c.modPort_portsSend p fun _ => rfl
  · exact .refl c

theorem Chip.pumpPort_ne (c : Chip) {p q : Fin 16} (h : q ≠ p) : (c.pumpPort p).ports[q] = c.ports[q] := by
  unfold Chip.pumpPort
  dsimp only
  split
  · exact c.modPort_ne _ h
  · rfl

theorem Chip.sendData_portsSend (c : Chip) (p : Fin 16) (f : DataFrame) : c.PortsSend (c.sendData p f) :=
  (c.modPort_portsSend p (f := fun x =>
    { x with unacked := x.unacked ++ [({ f with psn := x.psn }, 0)], psn := x.psn + 1 }) fun _ => rfl).trans
    (Chip.pumpPort_portsSend _ p)

theorem Chip.transmit_portsSend (c : Chip) (p : Fin 16) (mk : BoreHdr → TxFrame) : c.PortsSend (c.transmit p mk) := by
  unfold Chip.transmit
  split
  · exact c.modPort_portsSend p fun _ => rfl
  · exact .refl c

theorem Chip.transmit_of_up {c : Chip} {p : Fin 16} (h : c.ports[p].state = .up) (mk : BoreHdr → TxFrame) :
    c.transmit p mk = c.modPort p fun x => x.sent c.drone.now (mk (c.header p false false)) := by
  unfold Chip.transmit
  exact if_pos h

theorem Chip.moveFrames_portsSend (c : Chip) (p : Fin 16) : c.PortsSend (c.moveFrames p) := by
  unfold Chip.moveFrames
  refine (c.modPort_portsSend p (f := fun x => { x with unacked := [] }) fun _ => rfl).trans
    (Chip.PortsSend.foldl (fun d f => ?_) _ _)
  split
  · exact d.sendData_portsSend _ _
  · exact d.modPort_portsSend p fun _ => rfl

theorem Chip.dropDead_portsSend (c : Chip) : c.PortsSend c.dropDead := fun q => by
  unfold Chip.dropDead
  simp only [Fin.getElem_fin, Vector.getElem_map]
  rfl

/-! ### States (R268) -/

theorem Chip.setPort_ports (c : Chip) (p : Fin 16) (st : PortState) (status : W16) :
    (c.setPort p st status).ports = vecMod c.ports p fun x => { x with state := st } := by
  unfold Chip.setPort
  split
  · rename_i h
    exact (vecMod_self (by rw [← h])).symm
  · simp [Chip.modPort]

theorem Chip.setPort_same (c : Chip) (p : Fin 16) (st : PortState) (status : W16) :
    (c.setPort p st status).ports[p] = { c.ports[p] with state := st } :=
  (Chip.port_congr (c := c.modPort p fun x => { x with state := st }) (c.setPort_ports p st status) p).trans
    (c.modPort_same p _)

theorem Chip.setPort_ne (c : Chip) {p q : Fin 16} (st : PortState) (status : W16) (h : q ≠ p) :
    (c.setPort p st status).ports[q] = c.ports[q] :=
  (Chip.port_congr (c := c.modPort p fun x => { x with state := st }) (c.setPort_ports p st status) q).trans
    (c.modPort_ne _ h)

/-- The source of a port's state is pending after a change, where it was idle. -/
theorem Chip.setPort_src {c : Chip} {p : Fin 16} {st : PortState} (h : c.ports[p].state ≠ st) (status : W16)
    (hidle : c.intc.src[56 + p.val] = .idle) : (c.setPort p st status).intc.src[56 + p.val] = .pending := by
  have hval : (Fin.ofNat 128 (56 + p.val)).val = 56 + p.val := Nat.mod_eq_of_lt (by omega)
  have hintc : (c.setPort p st status).intc = c.intc.edge (Fin.ofNat 128 (56 + p.val)) c.drone.now := by
    unfold Chip.setPort
    rw [if_neg h]
    simp
  have hpending := Intc.edge_of_idle (i := c.intc) (n := Fin.ofNat 128 (56 + p.val))
    (by simpa only [Fin.getElem_fin, hval] using hidle) c.drone.now
  simpa only [hintc, Fin.getElem_fin, hval] using hpending

theorem Chip.unlink_ports (c : Chip) (p : Fin 16) (st : PortState) (closed : Bool) :
    (c.unlink p st closed).ports = ((c.modPort p fun x => x.unlinked closed).setPort p st 0).ports := by
  unfold Chip.unlink
  dsimp only
  split <;> rfl

theorem Chip.unlink_same (c : Chip) (p : Fin 16) (st : PortState) (closed : Bool) :
    (c.unlink p st closed).ports[p] = { c.ports[p].unlinked closed with state := st } := by
  rw [Chip.port_congr (c.unlink_ports p st closed) p, Chip.setPort_same, Chip.modPort_same]

theorem Chip.unlink_ne (c : Chip) {p q : Fin 16} (st : PortState) (closed : Bool) (h : q ≠ p) :
    (c.unlink p st closed).ports[q] = c.ports[q] := by
  rw [Chip.port_congr (c.unlink_ports p st closed) q, Chip.setPort_ne _ _ _ h, Chip.modPort_ne _ _ h]

/-! ### A port that goes (R276) -/

/-- A port that has been lost. -/
def Port.gone (x : Port) (closed : Bool) : Port := { ({ x with loss := x.loss + 1 } : Port).unlinked closed with state := .down }

theorem Chip.portGone_same (c : Chip) (p : Fin 16) (closed : Bool) :
    (c.ports[p].gone closed).SendsAs (c.portGone p closed).ports[p] := by
  have h := Chip.moveFrames_portsSend ((c.modPort p fun x => { x with loss := x.loss + 1 }).unlink p .down closed) p p
  rw [Chip.unlink_same, Chip.modPort_same] at h
  exact h

theorem Chip.portGone_ne (c : Chip) {p q : Fin 16} (closed : Bool) (hq : q ≠ p) :
    c.ports[q].SendsAs (c.portGone p closed).ports[q] := by
  have h := Chip.moveFrames_portsSend ((c.modPort p fun x => { x with loss := x.loss + 1 }).unlink p .down closed) p q
  rw [Chip.unlink_ne _ _ _ hq, Chip.modPort_ne _ _ hq] at h
  exact h

/-- Once lost, a port is DOWN whatever other ports go with it. -/
theorem foldl_portGone_down (closed : Bool) (p : Fin 16) (l : List (Fin 16)) : ∀ c : Chip,
    (p ∈ l ∨ c.ports[p].state = .down) → (l.foldl (fun c q => c.portGone q closed) c).ports[p].state = .down := by
  induction l with
  | nil => exact fun c h => h.resolve_left (by simp)
  | cons q l ih =>
    intro c h
    refine ih _ ?_
    by_cases hq : p = q
    · subst hq
      exact .inr (c.portGone_same p closed).state
    · refine h.imp (fun hmem => (List.mem_cons.mp hmem).resolve_left hq) fun hdown => ?_
      rw [(c.portGone_ne closed hq).state, hdown]

theorem foldl_portGone_groups (closed : Bool) (l : List (Fin 16)) (c : Chip) :
    (l.foldl (fun c q => c.portGone q closed) c).groups = c.groups :=
  foldl_keeps (g := Chip.groups) (fun _ _ => by simp) l c

/-- With no group set, the loss of a partner leaves the ports as they are but for frames no longer sent. -/
theorem State.peerLost_portsSend {s : State} (h : s.chip.groups = []) (ser : W64) (p : Fin 16) :
    s.chip.PortsSend (s.peerLost ser p).chip := by
  have heq : s.peerLost ser p = (s.on fun c => c.raise 5).on Chip.dropDead := by
    simp only [State.peerLost]
    rw [show (s.on fun c => c.raise 5).chip.groups = [] from h]
    rfl
  rw [heq]
  exact (s.chip.raise 5).dropDead_portsSend

/-- The ports that a lost port takes with it. -/
def Chip.alsoLost (c : Chip) (p : Fin 16) (ser : W64) (how : Loss) : List (Fin 16) :=
  if how = .goingDown then allPorts.filter fun q => c.leadsTo ser q && decide (c.ports[q].state = .up) else [p]

theorem Chip.mem_alsoLost {c : Chip} {p : Fin 16} {x : Hello} (hup : c.ports[p].state = .up)
    (hpeer : c.ports[p].peer = some x) (how : Loss) : p ∈ c.alsoLost p x.serial how := by
  unfold Chip.alsoLost
  split
  · simp only [List.mem_filter, mem_allPorts, true_and, Bool.and_eq_true, decide_eq_true_eq]
    exact ⟨by rw [Chip.leadsTo, hpeer]; exact decide_eq_true rfl, hup⟩
  · exact List.mem_singleton.mpr rfl

/-- The module as the ports have gone. -/
def Chip.goneWith (c : Chip) (p : Fin 16) (ser : W64) (how : Loss) : Chip :=
  (c.alsoLost p ser how).foldl (fun c q => c.portGone q (decide (how = .portDown))) c

section
variable {s : State} {p : Fin 16} (hup : s.chip.ports[p].state = .up)
include hup

theorem State.losePort_alone (hpeer : s.chip.ports[p].peer = none) (how : Loss) :
    s.losePort p how = s.on fun c => c.portGone p false := by
  unfold State.losePort
  rw [if_neg (not_not_intro hup), hpeer]

theorem State.losePort_partner {x : Hello} (hpeer : s.chip.ports[p].peer = some x) (how : Loss) :
    s.losePort p how = if (s.chip.goneWith p x.serial how).partnerGone x.serial how
      then (s.on fun c => c.goneWith p x.serial how).peerLost x.serial p else s.on fun c => c.goneWith p x.serial how := by
  unfold State.losePort
  rw [if_neg (not_not_intro hup), hpeer]
  rfl

/-- With no group set, a port that is lost is DOWN. -/
theorem State.losePort_down (hgroups : s.chip.groups = []) (how : Loss) :
    (s.losePort p how).chip.ports[p].state = .down := by
  cases hpeer : s.chip.ports[p].peer with
  | none =>
    rw [State.losePort_alone hup hpeer]
    exact (s.chip.portGone_same p false).state
  | some x =>
    have hdown : (s.chip.goneWith p x.serial how).ports[p].state = .down :=
      foldl_portGone_down _ p _ s.chip (.inl (Chip.mem_alsoLost hup hpeer how))
    have hnone : (s.chip.goneWith p x.serial how).groups = [] := (foldl_portGone_groups ..).trans hgroups
    rw [State.losePort_partner hup hpeer]
    split
    · exact (State.peerLost_portsSend (s := s.on fun c => c.goneWith p x.serial how) hnone x.serial p p).state.trans hdown
    · exact hdown

/-- With no group set, a silent port is counted lost once. -/
theorem State.losePort_loss (hgroups : s.chip.groups = []) :
    (s.losePort p .silent).chip.ports[p].loss = s.chip.ports[p].loss + 1 := by
  cases hpeer : s.chip.ports[p].peer with
  | none =>
    rw [State.losePort_alone hup hpeer]
    exact (s.chip.portGone_same p false).loss
  | some x =>
    have hloss : (s.chip.goneWith p x.serial .silent).ports[p].loss = s.chip.ports[p].loss + 1 :=
      (s.chip.portGone_same p false).loss
    have hnone : (s.chip.goneWith p x.serial .silent).groups = [] := (foldl_portGone_groups ..).trans hgroups
    rw [State.losePort_partner hup hpeer]
    split
    · exact (State.peerLost_portsSend (s := s.on fun c => c.goneWith p x.serial .silent) hnone x.serial p p).loss.trans hloss
    · exact hloss

end

/-! ### Headers (R272, R274) -/

/-- A port that has taken a header's acknowledgement and credit. -/
def Port.acked (x : Port) (h : BoreHdr) (now : Stamp) : Port :=
  { x with
    unacked := x.unacked.dropWhile (ackedBy h.ackn), peerCredit := h.credit, peerAbsent := h.hostAbsent
    ackMoved := if (x.unacked.dropWhile (ackedBy h.ackn)).length < x.unacked.length then now else x.ackMoved }

theorem Chip.takeAck_eq (c : Chip) (p : Fin 16) (h : BoreHdr) :
    c.takeAck p h = (c.modPort p fun x => x.acked h c.drone.now).pumpPort p := by
  have hport : vecMod c.ports p (fun x =>
      { x with
        unacked := c.ports[p].unacked.dropWhile (ackedBy h.ackn), peerCredit := h.credit, peerAbsent := h.hostAbsent
        ackMoved := if (c.ports[p].unacked.dropWhile (ackedBy h.ackn)).length < x.unacked.length then c.drone.now
          else x.ackMoved }) = vecMod c.ports p fun x => x.acked h c.drone.now := vecMod_congr rfl
  unfold Chip.takeAck Chip.modPort
  rw [← hport]

theorem Chip.takeAck_same (c : Chip) (p : Fin 16) (h : BoreHdr) :
    (c.ports[p].acked h c.drone.now).SendsAs (c.takeAck p h).ports[p] := by
  have hsent := Chip.pumpPort_portsSend (c.modPort p fun x => x.acked h c.drone.now) p p
  rw [Chip.modPort_same] at hsent
  rw [Chip.takeAck_eq]
  exact hsent

theorem Chip.takeAck_ne (c : Chip) {p q : Fin 16} (h : BoreHdr) (hq : q ≠ p) :
    (c.takeAck p h).ports[q] = c.ports[q] := by
  rw [Chip.takeAck_eq, Chip.pumpPort_ne _ hq, Chip.modPort_ne _ _ hq]

/-- A header with acknowledgement and credit alone. -/
theorem State.takeHeader_plain (s : State) (p : Fin 16) {h : BoreHdr} (hplain : plainHdr h) :
    s.takeHeader p h = s.on fun c => c.takeAck p h := by
  obtain ⟨hnak, habsent, hgoing, hdown⟩ := hplain
  unfold State.takeHeader
  simp only [hnak, habsent, hgoing, hdown]
  rfl

theorem State.takeHeader_goingDown (s : State) (p : Fin 16) {h : BoreHdr} (hnak : h.nak = false)
    (habsent : h.hostAbsent = false) (hgoing : h.goingDown = true) :
    s.takeHeader p h = (s.on fun c => c.takeAck p h).losePort p .goingDown := by
  unfold State.takeHeader
  simp only [hnak, habsent, hgoing]
  rfl

theorem State.portUp_of {s : State} {p : Fin 16} (hrun : s.chip.power = .running) (h : s.chip.ports[p].state = .up) :
    s.portUp p = true := by
  unfold State.portUp
  rw [Chip.up_of_running hrun, decide_eq_true h]
  rfl

end Sys2Proof.Machine
end

section
/-! O54: a bore port comes up and goes. -/

namespace Sys2Proof.Machine

/-! ### Links (R268) -/

theorem Chip.linked_not_up {c : Chip} {p : Fin 16} (h : c.ports[p].state = .hello ∨ c.ports[p].state = .mismatch) :
    c.ports[p].state ≠ .up ∧ c.linked p = true := by
  unfold Chip.linked
  rcases h with h | h <;> exact ⟨by rw [h]; decide, by rw [h]; decide⟩

/-- A port whose cable is pulled. -/
def Chip.uncabled (c : Chip) (p : Fin 16) : Chip := c.modPort p fun x => { x with cable := false }

theorem Chip.uncabled_same (c : Chip) (p : Fin 16) : (c.uncabled p).ports[p] = { c.ports[p] with cable := false } :=
  c.modPort_same p _

/-- The port that starts its bring-up. -/
def Chip.freshHello (c : Chip) (p : Fin 16) : Chip :=
  (c.modPort p fun x => { x with peer := none, ackedSeen := false, helloAt := 0, helloDue := 0 }).setPort p .hello 0

/-- The port with a partner's HELLO. -/
def Chip.greeted (c : Chip) (p : Fin 16) (h : Hello) : Chip :=
  c.modPort p fun x => { x with peer := some h, helloAt := c.drone.now }

/-- The version that two partners agree on. -/
def Chip.agreed (c : Chip) (h : Hello) : W16 := BitVec.ofNat 16 (min c.vmax.toNat h.vmax.toNat)

theorem Chip.agreed_toNat (c : Chip) (h : Hello) : (c.agreed h).toNat = min c.vmax.toNat h.vmax.toNat :=
  Nat.mod_eq_of_lt (Nat.lt_of_le_of_lt (Nat.min_le_left ..) c.vmax.isLt)

/-- The port that finds no common version. -/
def Chip.mismatched (c : Chip) (p : Fin 16) (h : Hello) : Chip :=
  ((c.greeted p h).setPort p .mismatch 0x0043).log .pf
    { (c.greeted p h).entry ((c.greeted p h).portSrc p.val) with
      level := Sys2Proof.Machine.openLevel 3, status := 0x0043, arg0 := BitVec.ofNat 64 p.val }

/-- The port that enters UP. -/
def Chip.upWith (c : Chip) (p : Fin 16) (hdr : BoreHdr) (h : Hello) : Chip :=
  (((c.greeted p h).modPort p fun y => y.enterUp c.drone.now hdr (c.agreed h) (c.lambdaOf h) (0 &&& h.feat)).setPort p
    .up 0).pumpPort p

theorem Chip.mismatched_same (c : Chip) (p : Fin 16) (h : Hello) : (c.mismatched p h).ports[p] =
    { c.ports[p] with peer := some h, helloAt := c.drone.now, state := .mismatch } := by
  unfold Chip.mismatched
  rw [Chip.port_congr (Chip.log_ports ..) p, Chip.setPort_same, Chip.greeted, Chip.modPort_same]

theorem Chip.mismatched_ne (c : Chip) {p q : Fin 16} (h : Hello) (hq : q ≠ p) :
    (c.mismatched p h).ports[q] = c.ports[q] := by
  unfold Chip.mismatched
  rw [Chip.port_congr (Chip.log_ports ..) q, Chip.setPort_ne _ _ _ hq, Chip.greeted, Chip.modPort_ne _ _ hq]

theorem Chip.upWith_same (c : Chip) (p : Fin 16) (hdr : BoreHdr) (h : Hello) :
    Port.SendsAs { ({ c.ports[p] with peer := some h, helloAt := c.drone.now } : Port).enterUp c.drone.now hdr (c.agreed h)
      (c.lambdaOf h) (0 &&& h.feat) with state := .up } (c.upWith p hdr h).ports[p] := by
  have hsent := Chip.pumpPort_portsSend (((c.greeted p h).modPort p fun y =>
    y.enterUp c.drone.now hdr (c.agreed h) (c.lambdaOf h) (0 &&& h.feat)).setPort p .up 0) p p
  rw [Chip.setPort_same, Chip.modPort_same, Chip.greeted, Chip.modPort_same] at hsent
  exact hsent

theorem Chip.upWith_ne (c : Chip) {p q : Fin 16} (hdr : BoreHdr) (h : Hello) (hq : q ≠ p) :
    (c.upWith p hdr h).ports[q] = c.ports[q] := by
  unfold Chip.upWith
  rw [Chip.pumpPort_ne _ hq, Chip.setPort_ne _ _ _ hq, Chip.modPort_ne _ _ hq, Chip.greeted, Chip.modPort_ne _ _ hq]

section
variable {s : State} {p : Fin 16} (hrun : s.chip.power = .running)

theorem exec_cablePresentChange_true (s : State) (p : Fin 16) :
    exec (.cablePresentChange p true) s = .next { s with chip := s.chip.modPort p fun y => { y with cable := true } } := rfl

include hrun

section
variable (hlink : s.chip.ports[p].state = .hello ∨ s.chip.ports[p].state = .mismatch)
include hlink

theorem exec_phyLinkDown_linked : exec (.phyLinkDown p) s = .next (s.on fun c => c.unlink p .down false) := by
  obtain ⟨hup, hlinked⟩ := Chip.linked_not_up hlink
  change execPhyLinkDown p s = _
  simp only [execPhyLinkDown, Chip.up_of_running hrun, hup, hlinked]
  rfl

theorem exec_cablePresentChange_false : exec (.cablePresentChange p false) s =
    .next (s.on fun c => (c.uncabled p).unlink p .down false) := by
  have hlink' : (s.chip.uncabled p).ports[p].state = .hello ∨ (s.chip.uncabled p).ports[p].state = .mismatch := by
    rw [Chip.uncabled_same]
    exact hlink
  have hsame : exec (.cablePresentChange p false) s = exec (.phyLinkDown p) (s.on fun c => c.uncabled p) := rfl
  rw [hsame]
  exact exec_phyLinkDown_linked (s := s.on fun c => c.uncabled p) hrun hlink'

/-- The end of a link takes its port to DOWN. -/
theorem link_ends : ∃ u v, exec (.cablePresentChange p false) s = .next u ∧ exec (.phyLinkDown p) s = .next v ∧
    u.chip.ports[p].state = .down ∧ u.chip.ports[p].cable = false ∧ v.chip.ports[p].state = .down ∧
    v.chip.ports[p].cable = s.chip.ports[p].cable ∧ u.mem = s.mem ∧ v.mem = s.mem ∧
    (∀ q, q ≠ p → u.chip.ports[q] = s.chip.ports[q] ∧ v.chip.ports[q] = s.chip.ports[q]) := by
  have hpulled := (s.chip.uncabled p).unlink_same p .down false
  rw [Chip.uncabled_same] at hpulled
  have hended := s.chip.unlink_same p .down false
  have hcable : (s.chip.unlink p .down false).ports[p].cable = s.chip.ports[p].cable :=
    (congrArg Port.cable hended).trans rfl
  refine ⟨_, _, exec_cablePresentChange_false hrun hlink, exec_phyLinkDown_linked hrun hlink, congrArg Port.state hpulled,
    congrArg Port.cable hpulled, congrArg Port.state hended, hcable, rfl, rfl, fun q hq => ⟨?_, ?_⟩⟩
  · exact (Chip.unlink_ne _ _ _ hq).trans (s.chip.modPort_ne _ hq)
  · exact s.chip.unlink_ne _ _ hq

end

/-- A link takes an idle port with a cable to HELLO. -/
theorem link_starts (hdown : s.chip.ports[p].state = .down) (hcable : s.chip.ports[p].cable = true) :
    ∃ u, exec (.phyLinkUp p) s = .next u ∧ u.chip.ports[p].state = .hello ∧ u.chip.ports[p].peer = none ∧
      u.mem = s.mem ∧ u.pending = s.pending ∧
      (s.chip.intc.src[56 + p.val] = .idle → u.chip.intc.src[56 + p.val] = .pending) ∧
      ∀ q, q ≠ p → u.chip.ports[q] = s.chip.ports[q] := by
  have hexec : exec (.phyLinkUp p) s = .next (s.on fun c => c.freshHello p) := by
    have hidle : s.chip.portIdle p = true := by
      unfold Chip.portIdle
      rw [hdown]
      rfl
    change execPhyLinkUp p s = _
    simp only [execPhyLinkUp, State.on, Chip.up_of_running hrun, hidle, hcable]
    rfl
  have hsame := s.chip.modPort_same p fun x => { x with peer := none, ackedSeen := false, helloAt := 0, helloDue := 0 }
  have hport : (s.chip.freshHello p).ports[p] =
      { s.chip.ports[p] with peer := none, ackedSeen := false, helloAt := 0, helloDue := 0, state := .hello } := by
    rw [Chip.freshHello, Chip.setPort_same, hsame]
  refine ⟨_, hexec, congrArg Port.state hport, congrArg Port.peer hport, rfl, rfl, fun hidle => ?_, fun q hq => ?_⟩
  · refine Chip.setPort_src ?_ 0 hidle
    rw [congrArg Port.state hsame, hdown]
    decide
  · exact (Chip.setPort_ne _ _ _ hq).trans (s.chip.modPort_ne _ hq)

/-! ### HELLO (R269, R270) -/

section
variable (hstate : s.chip.ports[p].state = .hello)
include hstate

theorem exec_helloSend_due (hdue : s.chip.ports[p].helloDue.toNat ≤ s.chip.drone.now.toNat) :
    exec (.helloSend p) s = .next { s with chip := (s.chip.modPort p fun y =>
      { y with
        tx := y.tx ++ [.hello { s.chip.header p false false with ver := 0 } (s.chip.hello p)]
        helloDue := s.chip.drone.now + 100000, lastTx := s.chip.drone.now }) } := by
  have hdue' : s.chip.due s.chip.ports[p].helloDue = true := decide_eq_true hdue
  change execHelloSend p s = _
  simp only [execHelloSend, State.on, Chip.up_of_running hrun, hstate, hdue']
  rfl

omit hrun hstate in
theorem exec_helloSend_early (hdue : s.chip.drone.now.toNat < s.chip.ports[p].helloDue.toNat) :
    exec (.helloSend p) s = .next s := by
  have hdue' : s.chip.due s.chip.ports[p].helloDue = false := decide_eq_false (by omega)
  change execHelloSend p s = _
  simp only [execHelloSend, State.on, hdue', Bool.and_false]
  rfl

/-- A HELLO is sent when it is due. -/
theorem hello_sent : (s.chip.ports[p].helloDue.toNat ≤ s.chip.drone.now.toNat → ∃ hdr h, exec (.helloSend p) s =
      .next { s with chip := (s.chip.modPort p fun y =>
        { y with tx := y.tx ++ [.hello hdr h], helloDue := s.chip.drone.now + 100000, lastTx := s.chip.drone.now }) } ∧
      hdr.ver = 0 ∧ hdr.hostAbsent = s.chip.driver.hostAbsent ∧ hdr.goingDown = false ∧ hdr.portDown = false ∧
      h.serial = s.chip.mram.serial ∧ h.modnum = s.chip.modNum ∧ h.port.toNat = p.val ∧
      h.acked = s.chip.ports[p].peer.isSome ∧
      h.vmin = s.chip.vmin ∧ h.vmax = s.chip.vmax ∧ h.hwgen = s.chip.mram.hwgen ∧ h.tsend = s.chip.drone.now) :=
  fun hdue => ⟨_, _, exec_helloSend_due hrun hstate hdue, rfl, rfl, rfl, rfl, rfl, rfl,
    Nat.mod_eq_of_lt (by show p.val < 256; omega), rfl, rfl, rfl, rfl, rfl⟩

end

section
variable (hstate : s.chip.ports[p].state = .hello) (hdr : BoreHdr) (h : Hello)
include hstate

theorem exec_helloReceive : exec (.helloReceive p ⟨hdr, h⟩) s = .next (s.on fun c =>
    if (c.agreed h).toNat < c.vmin.toNat ∨ (c.agreed h).toNat < h.vmin.toNat then c.mismatched p h
    else if h.acked then c.upWith p hdr h else c.greeted p h) := by
  change execHelloReceive p ⟨hdr, h⟩ s = _
  simp only [execHelloReceive, State.on, Chip.up_of_running hrun, hstate]
  rfl

/-- A HELLO received: MISMATCH, UP or HELLO as it agrees on a version and is ACKED. -/
theorem hello_received : ∃ u, exec (.helloReceive p ⟨hdr, h⟩) s = .next u ∧ u.chip.ports[p].peer = some h ∧
    (∀ ver, ver = min s.chip.vmax.toNat h.vmax.toNat →
      (ver < s.chip.vmin.toNat ∨ ver < h.vmin.toNat → u.chip.ports[p].state = .mismatch) ∧
      (s.chip.vmin.toNat ≤ ver → h.vmin.toNat ≤ ver →
        (h.acked = true → u.chip.ports[p].state = .up ∧ u.chip.ports[p].ver = BitVec.ofNat 16 ver ∧
          u.chip.ports[p].ackn = 0 ∧ u.chip.ports[p].peerCredit = hdr.credit ∧
          u.chip.ports[p].peerAbsent = hdr.hostAbsent ∧ u.chip.ports[p].lastLive = s.chip.drone.now) ∧
        (h.acked = false → u.chip.ports[p].state = .hello))) ∧
    u.mem = s.mem ∧ u.pending = s.pending ∧ ∀ q, q ≠ p → u.chip.ports[q] = s.chip.ports[q] := by
  have hexec := exec_helloReceive hrun hstate hdr h
  by_cases hlow : (s.chip.agreed h).toNat < s.chip.vmin.toNat ∨ (s.chip.agreed h).toNat < h.vmin.toNat
  case pos =>
    have hport := s.chip.mismatched_same p h
    simp only [State.on, hlow, if_true] at hexec
    refine ⟨_, hexec, congrArg Port.peer hport, ?_, rfl, rfl, fun q hq => s.chip.mismatched_ne h hq⟩
    rintro _ rfl
    rw [Chip.agreed_toNat] at hlow
    exact ⟨fun _ => congrArg Port.state hport, fun hmin hmin' => absurd hlow (by omega)⟩
  case neg =>
    simp only [State.on, hlow, if_false] at hexec
    cases hacked : h.acked
    case true =>
      have hport := s.chip.upWith_same p hdr h
      simp only [hacked, if_true] at hexec
      refine ⟨_, hexec, hport.peer, ?_, rfl, rfl, fun q hq => s.chip.upWith_ne hdr h hq⟩
      rintro _ rfl
      rw [Chip.agreed_toNat] at hlow
      exact ⟨fun hlow' => absurd hlow' hlow, fun _ _ => ⟨fun _ => ⟨hport.state, hport.ver, hport.ackn, hport.peerCredit,
        hport.peerAbsent, hport.lastLive⟩, nofun⟩⟩
    case false =>
      have hport := s.chip.modPort_same p fun x => { x with peer := some h, helloAt := s.chip.drone.now }
      simp only [hacked, Bool.false_eq_true, if_false] at hexec
      refine ⟨_, hexec, congrArg Port.peer hport, ?_, rfl, rfl, fun q hq => s.chip.modPort_ne _ hq⟩
      rintro _ rfl
      rw [Chip.agreed_toNat] at hlow
      exact ⟨fun hlow' => absurd hlow' hlow, fun _ _ => ⟨nofun, fun _ => (congrArg Port.state hport).trans hstate⟩⟩

end

/-! ### LIVE (R276) -/

section
variable (hstate : s.chip.ports[p].state = .up)
include hstate

theorem exec_liveSend_due (hdue : s.chip.ports[p].liveDue.toNat ≤ s.chip.drone.now.toNat) :
    exec (.liveSend p) s = .next { s with chip := (s.chip.modPort p fun y =>
      { y with
        tx := y.tx ++ [.live (s.chip.header p false false) s.chip.modNum (BitVec.ofNat 8 p.val) s.chip.drone.now]
        nakOwed := false, ackOwed := false, lastTx := s.chip.drone.now, liveDue := s.chip.drone.now + 10000 }) } := by
  have hdue' : s.chip.due s.chip.ports[p].liveDue = true := decide_eq_true hdue
  change execLiveSend p s = _
  simp only [execLiveSend, State.on, State.portUp_of hrun hstate, hdue', Chip.transmit_of_up hstate, Chip.modPort_modPort]
  rfl

omit hrun hstate in
theorem exec_liveSend_early (hdue : s.chip.drone.now.toNat < s.chip.ports[p].liveDue.toNat) :
    exec (.liveSend p) s = .next s := by
  have hdue' : s.chip.due s.chip.ports[p].liveDue = false := decide_eq_false (by omega)
  change execLiveSend p s = _
  simp only [execLiveSend, hdue', Bool.and_false]
  rfl

theorem exec_liveReceive (h : BoreHdr) : exec (.liveReceive p h) s =
    .next ((s.on fun c => c.modPort p fun x => { x with lastLive := c.drone.now }).takeHeader p h) := by
  change execLiveReceive p h s = _
  simp only [execLiveReceive, State.portUp_of hrun hstate, if_true]

/-- A LIVE keeps its port UP. -/
theorem live_received {h : BoreHdr} (hplain : plainHdr h) : ∃ u, exec (.liveReceive p h) s = .next u ∧
    u.chip.ports[p].state = .up ∧ u.chip.ports[p].lastLive = s.chip.drone.now ∧ u.chip.ports[p].peerCredit = h.credit ∧
    u.mem = s.mem ∧ u.pending = s.pending ∧ ∀ q, q ≠ p → u.chip.ports[q] = s.chip.ports[q] := by
  have hport := (s.chip.modPort p fun x => { x with lastLive := s.chip.drone.now }).takeAck_same p h
  rw [Chip.modPort_same] at hport
  have hexec := exec_liveReceive hrun hstate h
  rw [State.takeHeader_plain _ p hplain] at hexec
  exact ⟨_, hexec, hport.state.trans hstate, hport.lastLive, hport.peerCredit, rfl, rfl,
    fun q hq => (Chip.takeAck_ne _ h hq).trans (s.chip.modPort_ne _ hq)⟩

/-- GOING_DOWN takes its port DOWN. -/
theorem live_goingDown {h : BoreHdr} (hnak : h.nak = false) (habsent : h.hostAbsent = false) (hgoing : h.goingDown = true)
    (hgroups : s.chip.groups = []) :
    ∃ u, exec (.liveReceive p h) s = .next u ∧ u.chip.ports[p].state = .down ∧ u.pending = s.pending := by
  have hport := (s.chip.modPort p fun x => { x with lastLive := s.chip.drone.now }).takeAck_same p h
  rw [Chip.modPort_same] at hport
  have hexec := exec_liveReceive hrun hstate h
  rw [State.takeHeader_goingDown _ p hnak habsent hgoing] at hexec
  refine ⟨_, hexec, State.losePort_down (hport.state.trans hstate) ?_ _, by simp⟩
  rw [State.on_chip, show ∀ c : Chip, (c.takeAck p h).groups = c.groups from fun c => by simp]
  exact hgroups

theorem exec_liveTimeout_late (hlate : 50000 ≤ (s.chip.drone.now - s.chip.ports[p].lastLive).toNat) :
    exec (.liveTimeout p) s = .next (s.losePort p .silent) := by
  have hlate' : decide (50000 ≤ s.chip.since s.chip.ports[p].lastLive) = true := decide_eq_true hlate
  change execLiveTimeout p s = _
  simp only [execLiveTimeout, State.portUp_of hrun hstate, hlate']
  rfl

omit hrun hstate in
theorem exec_liveTimeout_early (hlate : (s.chip.drone.now - s.chip.ports[p].lastLive).toNat < 50000) :
    exec (.liveTimeout p) s = .next s := by
  have hlate' : decide (50000 ≤ s.chip.since s.chip.ports[p].lastLive) = false := decide_eq_false (Nat.not_le.mpr hlate)
  change execLiveTimeout p s = _
  simp only [execLiveTimeout, hlate', Bool.and_false]
  rfl

end

end

/-! ### PORT_EN (R268, R277) -/

/-- The state of a port whose PORT_EN bit is written. -/
def PortState.enabled (en : Bool) (st : PortState) : PortState :=
  if en then (if st = .disabled then .down else st) else .disabled

theorem Chip.moveFrames_state (c : Chip) (p q : Fin 16) : (c.moveFrames p).ports[q].state = c.ports[q].state :=
  (c.moveFrames_portsSend p q).state

theorem Chip.portEnable_same (c : Chip) (p : Fin 16) (en : Bool) :
    (c.portEnable p en).ports[p].state = c.ports[p].state.enabled en := by
  unfold Chip.portEnable PortState.enabled
  dsimp only
  cases en
  case true =>
    simp only [if_true]
    split
    · exact congrArg Port.state (c.setPort_same p .down 0)
    · rfl
  case false =>
    simp only [Bool.false_eq_true, if_false]
    split
    · assumption
    · exact (Chip.moveFrames_state ..).trans (congrArg Port.state (Chip.unlink_same ..))

theorem Chip.portEnable_ne (c : Chip) {p q : Fin 16} (en : Bool) (hq : q ≠ p) :
    (c.portEnable p en).ports[q].state = c.ports[q].state := by
  unfold Chip.portEnable
  dsimp only
  split
  · split
    · exact congrArg Port.state (c.setPort_ne _ _ hq)
    · rfl
  · split
    · rfl
    · rw [Chip.moveFrames_state, Chip.unlink_ne _ _ _ hq]
      split
      · exact congrArg Port.state (c.modPort_ne _ hq)
      · rfl

theorem foldl_portEnable_other (en : Fin 16 → Bool) (q : Fin 16) (l : List (Fin 16)) : ∀ c : Chip, q ∉ l →
    (l.foldl (fun c p => c.portEnable p (en p)) c).ports[q].state = c.ports[q].state := by
  induction l with
  | nil => exact fun _ _ => rfl
  | cons p l ih =>
    intro c hq
    obtain ⟨hne, hrest⟩ := not_or.mp (mt List.mem_cons.mpr hq)
    exact (ih _ hrest).trans (c.portEnable_ne _ hne)

theorem foldl_portEnable (en : Fin 16 → Bool) (q : Fin 16) (l : List (Fin 16)) : ∀ c : Chip, l.Nodup → q ∈ l →
    (l.foldl (fun c p => c.portEnable p (en p)) c).ports[q].state = c.ports[q].state.enabled (en q) := by
  induction l with
  | nil => exact fun _ _ h => absurd h (by simp)
  | cons p l ih =>
    intro c hnodup hq
    obtain ⟨hp, hnodup'⟩ := List.nodup_cons.mp hnodup
    by_cases h : q = p
    · subst h
      exact (foldl_portEnable_other en q l _ hp).trans (c.portEnable_same q _)
    · refine (ih _ hnodup' ((List.mem_cons.mp hq).resolve_left h)).trans ?_
      rw [c.portEnable_ne _ h]

theorem nodup_allPorts : allPorts.Nodup := by decide

theorem Chip.setPortEn_state {c : Chip} (hup : c.up = true) (v : W16) (q : Fin 16) :
    (c.setPortEn v).ports[q].state = c.ports[q].state.enabled (v.getLsbD q.val) := by
  have heq : c.setPortEn v =
      allPorts.foldl (fun c p => c.portEnable p (v.getLsbD p.val)) { c with mram := { c.mram with portEn := v } } :=
    if_pos hup
  rw [heq]
  exact foldl_portEnable (fun p => v.getLsbD p.val) q allPorts { c with mram := { c.mram with portEn := v } } nodup_allPorts
    (mem_allPorts q)

theorem Chip.setPortEn_mram {c : Chip} (hup : c.up = true) (v : W16) :
    (c.setPortEn v).mram = { c.mram with portEn := v } := by
  have heq : c.setPortEn v =
      allPorts.foldl (fun c p => c.portEnable p (v.getLsbD p.val)) { c with mram := { c.mram with portEn := v } } :=
    if_pos hup
  rw [heq]
  exact foldl_keeps (g := Chip.mram) (fun _ _ => by simp) _ _

def portEnRow : ObjRow := oper .portEn 0x5200 0 1 .u16 false

theorem objFind_portEn : objFind ⟨0x5200, 0⟩ = some (portEnRow, 0) := by decide

theorem Chip.perform_portEn (c : Chip) (who : Requester) (v : W16) :
    c.perform who portEnRow 0 (leBytes 2 v.toNat) = (c.setPortEn v, none) := by
  have hv : BitVec.ofNat 16 (leNat (leBytes 2 v.toNat)) = v := by
    rw [leNat_leBytes, Nat.mod_eq_of_lt (show v.toNat < 256 ^ 2 from v.isLt), BitVec.ofNat_toNat, BitVec.setWidth_eq]
  have hset : c.perform who portEnRow 0 (leBytes 2 v.toNat) =
    (c.setPortEn (BitVec.ofNat 16 (leNat (leBytes 2 v.toNat))), none) := rfl
  rw [hset, hv]

/-- A write of PORT_EN enables and disables at once. -/
theorem portEn_written {s : State} {r : MReq} (v : W16) (h : FreshRequest s.chip r)
    (hopen : s.chip.gate.openTo 1 r.src = true) :
    ∃ u y, exec (.portEnWrite r ⟨⟨0x5200, 0⟩, .u16, leBytes 2 v.toNat⟩) s = .next u ∧ Replies s u r 3 0 [y] [] ∧
      y.status = 0 ∧ u.chip.mram.portEn = v ∧ u.mem = s.mem ∧ u.pending = s.pending ∧
      ∀ q : Fin 16, u.chip.ports[q].state = s.chip.ports[q].state.enabled (v.getLsbD q.val) := by
  have hup : (s.chip.received73.qualifiedAt portEnRow.level r.src).up = true := Chip.up_of_running (c := s.chip) h.running
  obtain ⟨u, old, hexec, ha⟩ := write_recorded_answered (type := .u16) (value := leBytes 2 v.toNat) h objFind_portEn hopen
    (by decide) (by decide) (by decide) (by decide) (by rw [length_leBytes]; decide) rfl rfl (Chip.perform_portEn ..)
    (.of_mgmt (by simp only [Chip.setPortEn_keeps]; rfl))
  refine ⟨u, _, hexec, ha.replies, rfl, ?_, ha.mem, ha.pending, fun q => ?_⟩
  · rw [ha.mram, (Chip.writeRec_kept ..).1, Chip.setPortEn_mram hup]
  · have hports : u.chip.ports =
        ((s.chip.received73.qualifiedAt portEnRow.level r.src).setPortEn v).ports := by
      rw [ha.chip, Chip.writeRec_eq]
    exact (congrArg Port.state (Chip.port_congr hports q)).trans (Chip.setPortEn_state hup v q)

theorem PortState.enabled_false (st : PortState) : st.enabled false = .disabled := rfl

theorem PortState.enabled_disabled : PortState.enabled true .disabled = .down := rfl

theorem PortState.enabled_other {st : PortState} (h : st ≠ .disabled) : st.enabled true = st := by
  simp [PortState.enabled, h]

end Sys2Proof.Machine

open Sys2Proof.Machine

/-- Settles O54: each event by its equation; PORT_EN by the fold over the ports (`foldl_portEnable`). -/
theorem portsComeUpAndGo : Obligations.PortsComeUpAndGo := by
  unfold Obligations.PortsComeUpAndGo
  intro s p hrun x now
  refine ⟨exec_cablePresentChange_true s p, link_ends hrun, link_starts hrun,
    fun hstate => ⟨hello_sent hrun hstate, exec_helloSend_early, hello_received hrun hstate⟩,
    fun hstate => ⟨fun hdue => ⟨_, exec_liveSend_due hrun hstate hdue, rfl, rfl, rfl, rfl, rfl, rfl⟩,
      exec_liveSend_early, fun h hplain => live_received hrun hstate hplain,
      fun h hnak habsent hgoing hgroups => live_goingDown hrun hstate hnak habsent hgoing hgroups,
      fun hlate hgroups => ⟨_, exec_liveTimeout_late hrun hstate hlate, State.losePort_down hstate hgroups _,
        State.losePort_loss hstate hgroups, by simp⟩,
      exec_liveTimeout_early⟩,
    fun r v h hopen => ?_⟩
  obtain ⟨u, y, hexec, hreplies, hstatus, hmram, hmem, hpending, hports⟩ := portEn_written v h hopen
  refine ⟨u, y, hexec, hreplies, hstatus, hmram, hmem, hpending, fun q => ⟨fun hbit => ?_, fun hbit hst => ?_, fun hbit hst => ?_⟩⟩
  · rw [hports q, hbit, PortState.enabled_false]
  · rw [hports q, hbit, hst, PortState.enabled_disabled]
  · rw [hports q, hbit, PortState.enabled_other hst]

end

section
/-! O55: a bore port delivers in order, acknowledges and sends again (R273-R275, R279, R289, R291). -/

namespace Sys2Proof.Machine

/-! ### The check sums (R273) -/

theorem DataFrame.sound_iff (f : DataFrame) : f.sound = true ↔ f.fcsOk = true ∧ f.hchk = crc32c f.pkt.front := by
  unfold DataFrame.sound
  rw [Bool.and_eq_true]
  exact and_congr_right' decide_eq_true_iff

/-! ### The queue (R274) -/

/-- What sending leaves of a queued frame. -/
def frameBody (f : DataFrame) : Bool × List W32 := (f.pkt.replay, f.elems)

/-- A frame as it is sent for the first time. -/
def sentFrame (f : DataFrame) (hdr : BoreHdr) (now : Stamp) : DataFrame :=
  DataFrame.seal { f with hdr := hdr, pkt := { f.pkt with stamp := now } }

theorem frameBody_sentFrame (f : DataFrame) (hdr : BoreHdr) (now : Stamp) : frameBody (sentFrame f hdr now) = frameBody f := rfl

theorem sendQueued_fresh (hdr : BoreHdr) (now : Stamp) (k : Nat) (f : DataFrame) (fs : List (DataFrame × Nat)) :
    (sendQueued hdr now (k + 1) ((f, 0) :: fs)).1 = (sentFrame f hdr now, 1) :: (sendQueued (nextHdr hdr) now k fs).1 := by
  rw [sendQueued, if_pos rfl]
  rfl

theorem sendQueued_sent (hdr : BoreHdr) (now : Stamp) (k : Nat) (f : DataFrame) (n : Nat) (fs : List (DataFrame × Nat)) :
    (sendQueued hdr now (k + 1) ((f, n + 1) :: fs)).1 = (f, n + 1) :: (sendQueued hdr now k fs).1 := by
  rw [sendQueued, if_neg (Nat.succ_ne_zero n)]

theorem sendQueued_body (now : Stamp) : ∀ (fs : List (DataFrame × Nat)) (hdr : BoreHdr) (k : Nat),
    (sendQueued hdr now k fs).1.map (fun f => frameBody f.1) = fs.map fun f => frameBody f.1
  | [], _, 0 | [], _, _ + 1 => rfl
  | _ :: _, _, 0 => rfl
  | (f, 0) :: fs, hdr, k + 1 => by
    rw [sendQueued_fresh, List.map_cons, List.map_cons, sendQueued_body now fs, frameBody_sentFrame]
  | (f, n + 1) :: fs, hdr, k + 1 => by
    rw [sendQueued_sent, List.map_cons, List.map_cons, sendQueued_body now fs]

section
variable {c : Chip} {p : Fin 16} (h : c.ports[p].state = .up)
include h

theorem Chip.pumpPort_unacked : (c.pumpPort p).ports[p].unacked =
    (sendQueued (c.header p false false) c.drone.now c.ports[p].peerCredit.toNat c.ports[p].unacked).1 := by
  unfold Chip.pumpPort
  dsimp only
  rw [if_pos h]
  exact congrArg Port.unacked (c.modPort_same p _)

theorem Chip.pumpPort_empty (hempty : c.ports[p].unacked = []) : (c.pumpPort p).ports[p].unacked = [] := by
  rw [Chip.pumpPort_unacked h, hempty]
  cases c.ports[p].peerCredit.toNat <;> rfl

/-- A frame queued on an UP port is its last one. -/
theorem Chip.sendData_last (f : DataFrame) :
    ∃ x, (c.sendData p f).ports[p].unacked.getLast? = some x ∧ frameBody x.1 = frameBody f := by
  have hport := c.modPort_same p fun x =>
    { x with unacked := x.unacked ++ [({ f with psn := x.psn }, 0)], psn := x.psn + 1 }
  have hbody := congrArg List.getLast? (sendQueued_body
    (c.modPort p fun x => { x with unacked := x.unacked ++ [({ f with psn := x.psn }, 0)], psn := x.psn + 1 }).drone.now
    (c.ports[p].unacked ++ [({ f with psn := c.ports[p].psn }, 0)])
    ((c.modPort p fun x => { x with unacked := x.unacked ++ [({ f with psn := x.psn }, 0)], psn := x.psn + 1 }).header p false
      false) c.ports[p].peerCredit.toNat)
  rw [List.getLast?_map, List.getLast?_map, List.getLast?_concat] at hbody
  obtain ⟨x, hx, hxbody⟩ := Option.map_eq_some_iff.mp hbody
  refine ⟨x, ?_, hxbody⟩
  unfold Chip.sendData
  rw [Chip.pumpPort_unacked ((congrArg Port.state hport).trans h), congrArg Port.peerCredit hport, congrArg Port.unacked hport]
  exact hx

end

/-! ### A header's acknowledgement -/

section
variable {c : Chip} {p : Fin 16} (h : BoreHdr)

theorem Chip.takeAck_groups : (c.takeAck p h).groups = c.groups := by simp

theorem Chip.takeAck_parts : (c.takeAck p h).parts = c.parts := by simp

theorem Chip.takeAck_state (q : Fin 16) : (c.takeAck p h).ports[q].state = c.ports[q].state := by
  by_cases hq : q = p
  · subst hq
    exact (c.takeAck_same q h).state
  · rw [c.takeAck_ne h hq]

theorem Chip.takeAck_group (g : BitVec 12) : (c.takeAck p h).group g = c.group g := by
  unfold Chip.group
  rw [Chip.takeAck_groups]

/-- An acknowledgement of the one frame that is not acknowledged empties the queue. -/
theorem Chip.takeAck_empty {h : BoreHdr} (hup : c.ports[p].state = .up) {f : DataFrame} (hunacked : c.ports[p].unacked = [(f, 1)])
    (hackn : h.ackn = f.psn + 1) : (c.takeAck p h).ports[p].unacked = [] := by
  have hport := c.modPort_same p fun x => x.acked h c.drone.now
  have hacked : ackedBy h.ackn (f, 1) = true := by
    have hone : f.psn + 1 - f.psn = 1 := by bv_omega
    unfold ackedBy
    rw [hackn, hone]
    rfl
  rw [Chip.takeAck_eq]
  refine Chip.pumpPort_empty ((congrArg Port.state hport).trans hup) ((congrArg Port.unacked hport).trans ?_)
  unfold Port.acked
  rw [hunacked]
  exact List.dropWhile_cons_of_pos hacked

end

/-! ### DATA (R274, R275, R338) -/

theorem Chip.delivers_congr {c d : Chip} (h : d.groups = c.groups) (p : Fin 16) (f : DataFrame) :
    d.delivers p f = c.delivers p f := by
  unfold Chip.delivers Chip.group
  rw [h]

/-- A port that has accepted a frame's PSN. -/
def Port.accepts (x : Port) : Port := { x with ackn := x.ackn + 1, gap := false, ackOwed := true }

section
variable {c : Chip} {p : Fin 16} {f : DataFrame}

theorem Chip.takeData_accepted (hpsn : f.psn = c.ports[p].ackn) (hroom : c.ports[p].waiting.length < 64) :
    (c.takeData p f).ports[p] =
      if c.delivers p f then { c.ports[p].accepts with waiting := c.ports[p].waiting ++ [f] }
      else c.ports[p].accepts.discarded := by
  unfold Chip.takeData
  rw [Chip.modPort_same, if_pos hpsn, if_pos hroom]
  rfl

theorem Chip.takeData_gap (hpsn : f.psn ≠ c.ports[p].ackn) (hlate : (f.psn - c.ports[p].ackn).toNat < 2147483648)
    (hgap : c.ports[p].gap = false) : (c.takeData p f).ports[p] = { c.ports[p] with gap := true, nakOwed := true } := by
  unfold Chip.takeData
  rw [Chip.modPort_same, if_neg hpsn, if_pos (show (f.psn - c.ports[p].ackn).toNat < 2 ^ 31 from hlate), hgap]
  rfl

theorem Chip.takeData_ne {q : Fin 16} (hq : q ≠ p) : (c.takeData p f).ports[q] = c.ports[q] := c.modPort_ne _ hq

end

section
variable {s : State} {p : Fin 16} (hrun : s.chip.power = .running) (hup : s.chip.ports[p].state = .up)
include hrun hup

theorem exec_dataReceive_unsound {f : DataFrame} (h : f.sound = false) : exec (.dataReceive p f) s =
    .next { s with chip := s.chip.modPort p fun y => { y with discard := y.discard + 1 } } := by
  change execDataReceive p f s = _
  simp only [execDataReceive, State.portUp_of hrun hup, h]
  rfl

/-- The module that has taken a DATA frame, before its collective consumes it. -/
def Chip.dataTaken (c : Chip) (p : Fin 16) (f : DataFrame) : Chip := (c.takeAck p f.hdr).takeData p f

theorem exec_dataReceive_sound {f : DataFrame} (h : f.sound = true) (hplain : plainHdr f.hdr) :
    exec (.dataReceive p f) s = .next (s.on fun c => c.dataTaken p f).consumeAll := by
  have hstill : (s.chip.takeAck p f.hdr).ports[p].state = .up := (Chip.takeAck_state f.hdr p).trans hup
  change execDataReceive p f s = _
  simp only [execDataReceive, State.portUp_of hrun hup, h, State.takeHeader_plain s p hplain, State.on, hstill, if_true]
  rfl

theorem data_accepted {f : DataFrame} (h : f.sound = true) (hplain : plainHdr f.hdr) (hpsn : f.psn = s.chip.ports[p].ackn)
    (hroom : s.chip.ports[p].waiting.length < 64) : ∃ s1 : State, exec (.dataReceive p f) s = .next s1.consumeAll ∧
      s1.chip.ports[p].ackn = s.chip.ports[p].ackn + 1 ∧ s1.chip.ports[p].ackOwed = true ∧ s1.mem = s.mem ∧
      s1.pending = s.pending ∧
      (s.chip.delivers p f = true → s1.chip.ports[p].waiting = s.chip.ports[p].waiting ++ [f]) ∧
      (s.chip.delivers p f = false → s1.chip.ports[p].waiting = s.chip.ports[p].waiting ∧
        s1.chip.ports[p].discard = s.chip.ports[p].discard + 1) ∧
      ∀ q, q ≠ p → s1.chip.ports[q] = s.chip.ports[q] := by
  have hack := s.chip.takeAck_same p f.hdr
  have hport := Chip.takeData_accepted (c := s.chip.takeAck p f.hdr) (hpsn.trans hack.ackn.symm) (hack.waiting ▸ hroom)
  rw [Chip.delivers_congr (Chip.takeAck_groups f.hdr)] at hport
  refine ⟨_, exec_dataReceive_sound hrun hup h hplain, ?_, ?_, rfl, rfl, fun hdelivers => ?_, fun hdelivers => ?_,
    fun q hq => (Chip.takeData_ne hq).trans (s.chip.takeAck_ne f.hdr hq)⟩
  · rw [State.on_chip, Chip.dataTaken, hport]
    split <;> exact congrArg (· + 1) hack.ackn
  · rw [State.on_chip, Chip.dataTaken, hport]
    split <;> rfl
  · rw [State.on_chip, Chip.dataTaken, hport, if_pos hdelivers]
    exact congrArg (· ++ [f]) hack.waiting
  · rw [State.on_chip, Chip.dataTaken, hport, if_neg (by simp [hdelivers])]
    exact ⟨hack.waiting, congrArg (· + 1) hack.discard⟩

theorem data_behind_gap {f : DataFrame} (h : f.sound = true) (hplain : plainHdr f.hdr) (hpsn : f.psn ≠ s.chip.ports[p].ackn)
    (hlate : (f.psn - s.chip.ports[p].ackn).toNat < 2147483648) (hgap : s.chip.ports[p].gap = false)
    (hempty : ∀ q : Fin 16, s.chip.ports[q].waiting = []) : ∃ u, exec (.dataReceive p f) s = .next u ∧
      u.chip.ports[p].ackn = s.chip.ports[p].ackn ∧ u.chip.ports[p].nakOwed = true ∧ u.chip.ports[p].gap = true ∧
      u.mem = s.mem ∧ u.pending = s.pending ∧ ∀ q, q ≠ p → u.chip.ports[q] = s.chip.ports[q] := by
  have hack := s.chip.takeAck_same p f.hdr
  have hackn : (s.chip.takeAck p f.hdr).ports[p].ackn = s.chip.ports[p].ackn := hack.ackn
  have hport : (s.chip.dataTaken p f).ports[p] = _ := Chip.takeData_gap (c := s.chip.takeAck p f.hdr) (hackn ▸ hpsn)
    (hackn ▸ hlate) (hack.gap.trans hgap)
  have hne : ∀ q, q ≠ p → (s.chip.dataTaken p f).ports[q] = s.chip.ports[q] := fun q hq =>
    (Chip.takeData_ne hq).trans (s.chip.takeAck_ne f.hdr hq)
  have hnone : (s.on fun c => c.dataTaken p f).consumeAll = s.on fun c => c.dataTaken p f :=
    State.consumeAll_of_empty fun q => by
      by_cases hq : q = p
      · subst hq
        exact ((congrArg Port.waiting hport).trans hack.waiting).trans (hempty q)
      · exact (congrArg Port.waiting (hne q hq)).trans (hempty q)
  exact ⟨_, (exec_dataReceive_sound hrun hup h hplain).trans (congrArg _ hnone), (congrArg Port.ackn hport).trans hackn,
    congrArg Port.nakOwed hport, congrArg Port.gap hport, rfl, rfl, hne⟩

/-! ### ACK (R274, R289) -/

theorem exec_ackReceive_hop {h : BoreHdr} (hplain : plainHdr h) (b : HopRef) : exec (.ackReceive p h (some b)) s =
    .next (s.on fun c => (c.takeAck p h).modGroup b.grp fun g => g.release p b) := by
  change execAckReceive p h (some b) s = _
  simp only [execAckReceive, State.portUp_of hrun hup, State.takeHeader_plain s p hplain]
  rfl

theorem exec_ackReceive_none {h : BoreHdr} (hplain : plainHdr h) :
    exec (.ackReceive p h none) s = .next (s.on fun c => c.takeAck p h) := by
  change execAckReceive p h none s = _
  simp only [execAckReceive, State.portUp_of hrun hup, State.takeHeader_plain s p hplain]
  rfl

theorem ack_releases {h : BoreHdr} (hplain : plainHdr h) (b : HopRef) : ∃ u, exec (.ackReceive p h (some b)) s = .next u ∧
    u.mem = s.mem ∧ u.pending = s.pending ∧ u.chip.ports[p].peerCredit = h.credit ∧
    u.chip.groups = s.chip.groups.map (fun g => if g.grp = b.grp then
      { g with retained := g.retained.filter fun y => !(decide (y.hop = b) && g.lists p y.dst.toNat) } else g) ∧
    ∀ q, q ≠ p → u.chip.ports[q] = s.chip.ports[q] := by
  refine ⟨_, exec_ackReceive_hop hrun hup hplain b, rfl, rfl, (s.chip.takeAck_same p h).peerCredit, ?_,
    fun q hq => s.chip.takeAck_ne h hq⟩
  exact congrArg (List.map fun g : Group => if g.grp = b.grp then g.release p b else g) (Chip.takeAck_groups (c := s.chip) h)

theorem exec_ackSend_due (howed : s.chip.ports[p].ackOwed = true ∨ s.chip.ports[p].nakOwed = true)
    (hquiet : 1000 ≤ (s.chip.drone.now - s.chip.ports[p].lastTx).toNat) : exec (.ackSend p) s =
      .next { s with chip := (s.chip.modPort p fun y =>
        { y with
          tx := y.tx ++ [.ack (s.chip.header p false false) none], nakOwed := false, ackOwed := false
          lastTx := s.chip.drone.now }) } := by
  have howed' : (s.chip.ports[p].ackOwed || s.chip.ports[p].nakOwed) = true := by rwa [Bool.or_eq_true]
  have hquiet' : decide (1000 ≤ s.chip.since s.chip.ports[p].lastTx) = true := decide_eq_true hquiet
  change execAckSend p s = _
  simp only [execAckSend, State.on, State.portUp_of hrun hup, howed', hquiet', Chip.transmit_of_up hup]
  rfl

/-! ### What is sent again (R274) -/

theorem exec_resendTimeout_late {f : DataFrame} {n : Nat} (hunacked : s.chip.ports[p].unacked = [(f, n)]) (hsent : 1 ≤ n)
    (hlate : 4000 ≤ (s.chip.drone.now - s.chip.ports[p].ackMoved).toNat) :
    exec (.resendTimeout p) s = .next (s.resend p) := by
  have hany : (s.chip.ports[p].unacked.any fun f => decide (f.2 ≠ 0)) = true := by
    rw [hunacked]
    simp only [List.any_cons, List.any_nil, Bool.or_false, decide_eq_true_eq]
    omega
  have hlate' : decide (4000 ≤ s.chip.since s.chip.ports[p].ackMoved) = true := decide_eq_true hlate
  change execResendTimeout p s = _
  simp only [execResendTimeout, State.portUp_of hrun hup, hany, hlate']
  rfl

end

section
variable {s : State} {p : Fin 16} {f : DataFrame} {n : Nat} (hunacked : s.chip.ports[p].unacked = [(f, n)])
include hunacked

theorem State.resend_again (hn : n < 16) : s.resend p = s.on fun c => c.resendPort p := by
  unfold State.resend
  rw [hunacked, if_neg (by simp [hn])]

theorem State.resend_lost (hn : 16 ≤ n) : s.resend p = s.losePort p .silent := by
  unfold State.resend
  rw [hunacked, if_pos (by simp [hn])]

theorem Chip.resendPort_one (hsent : 1 ≤ n) (hcredit : 1 ≤ s.chip.ports[p].peerCredit.toNat) :
    (s.chip.resendPort p).ports[p].unacked = [(f, n + 1)] ∧
    (s.chip.resendPort p).ports[p].resend = s.chip.ports[p].resend + 1 ∧
    (s.chip.resendPort p).ports[p].tx.length = s.chip.ports[p].tx.length + 1 := by
  have hagain : ((s.chip.ports[p].unacked.take s.chip.ports[p].peerCredit.toNat).filter fun f => decide (f.2 ≠ 0)) = [(f, n)] := by
    rw [hunacked, List.take_of_length_le (by simpa using hcredit)]
    simp [Nat.ne_of_gt hsent]
  have hcount : 0 < s.chip.ports[p].peerCredit.toNat ∧ n ≠ 0 := ⟨hcredit, by omega⟩
  unfold Chip.resendPort
  dsimp only
  rw [Chip.modPort_same, hagain]
  refine ⟨?_, rfl, by simp⟩
  rw [hunacked, List.mapIdx_cons, List.mapIdx_nil]
  exact congrArg (fun x => [x]) (if_pos hcount)

end

theorem Chip.resendPort_ne (c : Chip) {p q : Fin 16} (hq : q ≠ p) : (c.resendPort p).ports[q] = c.ports[q] :=
  c.modPort_ne _ hq

/-! ### ABORT (R279, R280) -/

theorem Chip.busyWith_congr {c d : Chip} (hparts : d.parts = c.parts) (hgroups : d.groups = c.groups) (g : Group) (q : Fin 4) :
    d.busyWith g q = c.busyWith g q := by
  unfold Chip.busyWith Chip.busyGroups Chip.run
  rw [hparts, hgroups]

theorem Chip.grp_of_group {c : Chip} {n : BitVec 12} {g : Group} (h : c.group n = some g) : g.grp = n :=
  of_decide_eq_true (List.find?_some h :)

/-- The module whose group an ABORT has ended. -/
def Chip.abortTaken (c : Chip) (g : Group) (p : Fin 16) (cause : W16) : Chip :=
  ((c.endGroup g (allPorts.filter fun q => (g.maskOf p).contains q || !g.ring.contains q) 0x0040 cause).dropWaiting
    g.grp).countLost (some p) cause

/-- A group that has ended. -/
def Group.ended (g : Group) : Group := { g with dead := true, rx := [], retained := [] }

theorem Chip.sendAbort_group (c : Chip) (ps : List (Fin 16)) (grp : BitVec 12) (sqn : W32) (status cause : W16) (n : BitVec 12) :
    (c.sendAbort ps grp sqn status cause).group n = c.group n := by
  unfold Chip.group
  simp

theorem Chip.endGroup_group {c : Chip} {n : BitVec 12} {g : Group} (h : c.group n = some g) (skip : List (Fin 16))
    (status cause : W16) : (c.endGroup g skip status cause).group n = some g.ended := by
  unfold Chip.endGroup
  dsimp only
  rw [Chip.grp_of_group h]
  refine (Chip.group_modGroup (f := Group.ended) (fun _ => rfl) _).trans ?_
  rw [Chip.sendAbort_group, h]
  rfl

theorem Chip.abortTaken_group {c : Chip} {n : BitVec 12} {g : Group} (h : c.group n = some g) (p : Fin 16) (cause : W16) :
    (c.abortTaken g p cause).group n = some g.ended := by
  refine Eq.trans ?_ (Chip.endGroup_group h (allPorts.filter fun q => (g.maskOf p).contains q || !g.ring.contains q) 0x0040
    cause)
  unfold Chip.abortTaken Chip.group
  simp [Chip.countLost]

section
variable {s : State} {p : Fin 16} (hrun : s.chip.power = .running) (hup : s.chip.ports[p].state = .up)
include hrun hup

/-- An ABORT of a group that has not ended: the partitions that are busy with it take their faults, then the fetches settle. -/
theorem exec_abortReceive_open {h : BoreHdr} (hplain : plainHdr h) {b : AbortBody} {g : Group}
    (hgroup : s.chip.group b.grp = some g) (hlive : g.dead = false) (hport : p ∈ g.allPorts)
    (hopen : (b.sqn - g.sqn).toNat < 2147483648) : exec (.abortReceive p h b) s =
      .next (((allParts.filter (s.chip.busyWith g)).foldl (fun s q => s.lostFault q g b.cause)
        (s.on fun c => (c.takeAck p h).abortTaken g p b.cause)).on fun c => c.settleFetches g.ten 256) := by
  have hgroup' : (s.chip.takeAck p h).group b.grp = some g := (Chip.takeAck_group h _).trans hgroup
  have hopen' : g.open_ b.sqn = true := decide_eq_true hopen
  have hcond : (g.dead || !g.allPorts.contains p || !g.open_ b.sqn) = false := by
    rw [hlive, hopen', List.contains_iff_mem.mpr hport]
    rfl
  have hbusy : allParts.filter ((s.chip.takeAck p h).busyWith g) = allParts.filter (s.chip.busyWith g) :=
    List.filter_congr fun q _ => Chip.busyWith_congr (Chip.takeAck_parts h) (Chip.takeAck_groups h) g q
  change execAbortReceive p h b s = _
  simp only [execAbortReceive, State.portUp_of hrun hup, State.takeHeader_plain s p hplain, State.on_chip, hgroup', hcond, hbusy]
  rfl

theorem abort_idle {h : BoreHdr} (hplain : plainHdr h) {b : AbortBody} {g : Group} (hgroup : s.chip.group b.grp = some g)
    (hlive : g.dead = false) (hport : p ∈ g.allPorts) (hopen : (b.sqn - g.sqn).toNat < 2147483648)
    (hidle : ∀ q, s.chip.busyWith g q = false) (hfetches : s.chip.tenants[g.ten].fetches = []) :
    ∃ u g', exec (.abortReceive p h b) s = .next u ∧ u.chip.group b.grp = some g' ∧ g'.dead = true ∧ u.mem = s.mem ∧
      u.pending = s.pending ∧ u.chip.parts = s.chip.parts ∧ u.chip.bore.peerLost = s.chip.bore.peerLost + 1 := by
  have hnobody : allParts.filter (s.chip.busyWith g) = [] := by simp [hidle]
  have htenants : ((s.chip.takeAck p h).abortTaken g p b.cause).tenants = s.chip.tenants := by
    simp [Chip.abortTaken, Chip.countLost]
  have hsettled : ((s.chip.takeAck p h).abortTaken g p b.cause).settleFetches g.ten 256 =
      (s.chip.takeAck p h).abortTaken g p b.cause :=
    Chip.settleFetches_of_served (by rw [htenants, hfetches]; simp) 256
  have hexec := exec_abortReceive_open hrun hup hplain hgroup hlive hport hopen
  rw [hnobody] at hexec
  refine ⟨_, g.ended, hexec, ?_, rfl, rfl, rfl, ?_, ?_⟩
  · rw [List.foldl_nil, State.on_on, State.on_chip, hsettled]
    exact Chip.abortTaken_group ((Chip.takeAck_group h _).trans hgroup) p b.cause
  · rw [List.foldl_nil, State.on_on, State.on_chip, hsettled]
    simp [Chip.abortTaken, Chip.countLost]
  · rw [List.foldl_nil, State.on_on, State.on_chip, hsettled]
    simp [Chip.abortTaken, Chip.countLost]

/-! ### RESUME (R289) -/

theorem exec_resumeReceive_live {h : BoreHdr} (hplain : plainHdr h) {b : HopRef} {g : Group}
    (hgroup : s.chip.group b.grp = some g) (hlive : g.dead = false) : exec (.resumeReceive p h b) s =
      .next (s.on fun c => (c.takeAck p h).resendFrames g (g.from_ p b)) := by
  have hgroup' : (s.chip.takeAck p h).group b.grp = some g := (Chip.takeAck_group h _).trans hgroup
  change execResumeReceive p h b s = _
  simp only [execResumeReceive, State.portUp_of hrun hup, State.takeHeader_plain s p hplain, State.on_chip, hgroup', hlive]
  rfl

theorem resume_resends {h : BoreHdr} (hplain : plainHdr h) {b : HopRef} {g : Group} {y : Retained} {q : Fin 16}
    (hgroup : s.chip.group b.grp = some g) (hlive : g.dead = false) (hretained : g.retained = [y]) (hhop : y.hop = b)
    (hlists : g.lists p y.dst.toNat = true)
    (hports : (if y.frame.kind = 0x10 then g.portsTo y.dst.toNat else maskPorts g.next) = [q])
    (hq : s.chip.ports[q].state = .up) : ∃ u f, exec (.resumeReceive p h b) s = .next u ∧
      u.chip.ports[q].unacked.getLast? = some f ∧ f.1.pkt.replay = true ∧ f.1.elems = y.frame.elems ∧ u.mem = s.mem ∧
      u.pending = s.pending ∧ u.chip.groups = s.chip.groups := by
  have hfrom : g.from_ p b = [y] := by simp [Group.from_, hretained, hlists, hhop]
  have hq' : (s.chip.takeAck p h).ports[q].state = .up := (Chip.takeAck_state h q).trans hq
  have hsend : (s.chip.takeAck p h).resendFrames g (g.from_ p b) =
      (s.chip.takeAck p h).sendData q { y.frame with pkt := { y.frame.pkt with replay := true } } := by
    have hone : [q].filter (fun r => decide ((s.chip.takeAck p h).ports[r].state = .up)) = [q] :=
      List.filter_eq_self.mpr fun r hr => decide_eq_true (List.mem_singleton.mp hr ▸ hq')
    rw [hfrom, Chip.resendFrames, List.foldl_cons, List.foldl_nil]
    simp only [hports, Chip.sendHop, hone, List.length_singleton, Nat.mod_one]
    rfl
  obtain ⟨x, hx, hbody⟩ := Chip.sendData_last hq' { y.frame with pkt := { y.frame.pkt with replay := true } }
  obtain ⟨hreplay, helems⟩ := Prod.mk.inj hbody
  refine ⟨_, x, exec_resumeReceive_live hrun hup hplain hgroup hlive, ?_, hreplay, helems, rfl, rfl, ?_⟩
  · rw [State.on_chip, hsend]
    exact hx
  · rw [State.on_chip, hsend]
    simp

/-! ### Frames discarded (R266, R291) -/

theorem exec_boreFrameDiscard (e : W16) (k : Bool) (fec : Nat × Nat) : exec (.boreFrameDiscard p e ⟨k, fec⟩) s =
    .next (s.on fun c => c.modPort p fun x =>
      { x with
        fecCorr := satAdd x.fecCorr fec.1, fecUncorr := satAdd x.fecUncorr fec.2
        discard := if (e = c.objs.ethertypeNow ∨ e = 0x88F7) ∧ k = true then x.discard else x.discard + 1 }) := by
  have hlinked : s.chip.linked p = true := by
    unfold Chip.linked
    rw [hup]
    rfl
  have hetype : ((s.chip.modPort p fun x =>
      { x with fecCorr := satAdd x.fecCorr fec.1, fecUncorr := satAdd x.fecUncorr fec.2 }).etypeOk e && k) = true ↔
      (e = s.chip.objs.ethertypeNow ∨ e = 0x88F7) ∧ k = true := by simp [Chip.etypeOk]
  change execBoreFrameDiscard p e ⟨k, fec⟩ s = _
  simp only [execBoreFrameDiscard, State.on, Chip.up_of_running hrun, hlinked, Chip.modPort_modPort, hetype]
  by_cases hok : (e = s.chip.objs.ethertypeNow ∨ e = 0x88F7) ∧ k = true
  · simp only [hok]
    rfl
  · simp only [hok, if_false]
    rfl

end

theorem exec_progressTimeout_early {s : State} {grp : BitVec 12} {g : Group} (hgroup : s.chip.group grp = some g)
    (h : s.chip.stalled g = false) : exec (.progressTimeout grp) s = .next s := by
  change execProgressTimeout grp s = _
  simp only [execProgressTimeout, hgroup, h, Bool.and_false]
  rfl

end Sys2Proof.Machine

open Sys2Proof.Machine

/-- Settles O55: each event by its equation; what a header brings by `Chip.takeAck_same`, a loss as in O54. -/
theorem portsDeliverInOrder : Obligations.PortsDeliverInOrder := by
  unfold Obligations.PortsDeliverInOrder
  intro s p hrun hup x now
  refine ⟨DataFrame.sound_iff, fun f => exec_dataReceive_unsound hrun hup,
    fun f hsound hplain => ⟨data_accepted hrun hup hsound hplain, data_behind_gap hrun hup hsound hplain⟩,
    fun h hplain b => ack_releases hrun hup hplain b, fun h f hplain hunacked hackn => ?_,
    fun howed hquiet => ⟨_, exec_ackSend_due hrun hup howed hquiet, rfl, rfl⟩,
    fun f n hunacked hsent hcredit hlate => ⟨fun hn => ?_, fun hn hgroups => ?_⟩,
    fun h b g hplain hgroup hlive hport hopen hidle hfetches => abort_idle hrun hup hplain hgroup hlive hport hopen hidle hfetches,
    fun h b g y q hplain hgroup hlive hretained hhop hlists hports hq =>
      resume_resends hrun hup hplain hgroup hlive hretained hhop hlists hports hq,
    fun grp g hgroup h => exec_progressTimeout_early hgroup h,
    fun e k fec => ⟨_, exec_boreFrameDiscard hrun hup e k fec, s.chip.modPort_same p _, fun q hq => s.chip.modPort_ne _ hq, rfl, rfl⟩⟩
  case refine_1 =>
    exact ⟨_, exec_ackReceive_none hrun hup hplain, Chip.takeAck_empty hup hunacked hackn, rfl, Chip.takeAck_groups h⟩
  case refine_2 =>
    obtain ⟨hqueue, hcount, htx⟩ := Chip.resendPort_one hunacked hsent hcredit
    have hexec := (exec_resendTimeout_late hrun hup hunacked hsent hlate).trans (congrArg _ (State.resend_again hunacked hn))
    exact ⟨_, hexec, hqueue, hcount, htx, rfl, rfl, fun q hq => s.chip.resendPort_ne hq⟩
  case refine_3 =>
    have hexec := (exec_resendTimeout_late hrun hup hunacked hsent hlate).trans (congrArg _ (State.resend_lost hunacked hn))
    exact ⟨_, hexec, State.losePort_down hup hgroups _, State.losePort_loss hup hgroups, by simp⟩

end

section
/-! O56: what ends with a lost partner (R276, R279, R280): the groups stay ended and the ports in their states through every fault
that follows. -/

namespace Sys2Proof.Machine

/-! ### Groups and port states through a fault -/

/-- The groups follow (`GroupsFollow`), and every port is in the state in which it was. -/
structure BoreFollows (c d : Chip) : Prop where
  groups : GroupsFollow c.groups d.groups
  states : ∀ q : Fin 16, d.ports[q].state = c.ports[q].state

theorem BoreFollows.of_eq {c d : Chip} (hgroups : d.groups = c.groups) (hports : d.ports = c.ports) : BoreFollows c d :=
  ⟨.of_eq hgroups, fun q => congrArg Port.state (Chip.port_congr hports q)⟩

theorem BoreFollows.refl (c : Chip) : BoreFollows c c := .of_eq rfl rfl

theorem BoreFollows.trans {c d e : Chip} (h : BoreFollows c d) (h' : BoreFollows d e) : BoreFollows c e :=
  ⟨h.groups.trans h'.groups, fun q => (h'.states q).trans (h.states q)⟩

/-- Frames sent change no state. -/
theorem BoreFollows.of_sent {c d : Chip} (hgroups : d.groups = c.groups) (h : c.PortsSend d) : BoreFollows c d :=
  ⟨.of_eq hgroups, fun q => (h q).state⟩

theorem BoreFollows.foldl {α : Type} {f : Chip → α → Chip} (hf : ∀ c x, BoreFollows c (f c x)) (l : List α) (c : Chip) :
    BoreFollows c (l.foldl f c) :=
  List.foldlRecOn (motive := fun d : Chip => BoreFollows c d) l f (.refl _) fun d hd x _ => hd.trans (hf d x)

theorem BoreFollows.sfoldl {α : Type} {f : State → α → State} (hf : ∀ s x, BoreFollows s.chip (f s x).chip) (l : List α)
    (s : State) : BoreFollows s.chip (l.foldl f s).chip :=
  List.foldlRecOn (motive := fun u : State => BoreFollows s.chip u.chip) l f (.refl _) fun u hu x _ => hu.trans (hf u x)

theorem BoreFollows.modGroup {f : Group → Group} (hf : ∀ g, (f g).grp = g.grp ∧ (f g).ten = g.ten ∧ (g.dead = true → (f g).dead = true))
    (c : Chip) (n : BitVec 12) : BoreFollows c (c.modGroup n f) :=
  ⟨.modGroup hf c n, fun _ => rfl⟩

theorem BoreFollows.sendHop (c : Chip) (ps : List (Fin 16)) (k : Nat) (fs : List DataFrame) :
    BoreFollows c (c.sendHop ps k fs) := by
  refine .of_sent (Chip.sendHop_groups ..) ?_
  unfold Chip.sendHop
  dsimp only
  split
  · exact .foldl (fun d f => d.sendData_portsSend _ f) _ _
  · exact .refl _

theorem BoreFollows.sendAbort (c : Chip) (ps : List (Fin 16)) (grp : BitVec 12) (sqn : W32) (status cause : W16) :
    BoreFollows c (c.sendAbort ps grp sqn status cause) :=
  .of_sent (by simp) (.foldl (fun d p => d.transmit_portsSend p _) ps c)

theorem BoreFollows.endGroup (c : Chip) (g : Group) (skip : List (Fin 16)) (status cause : W16) :
    BoreFollows c (c.endGroup g skip status cause) :=
  .trans (.sendAbort c _ g.grp g.sqn status cause) (.modGroup (f := Group.ended) (fun _ => ⟨rfl, rfl, fun _ => rfl⟩) _ _)

theorem BoreFollows.countLost (c : Chip) (q : Option (Fin 16)) (cause : W16) : BoreFollows c (c.countLost q cause) :=
  .of_eq rfl rfl

theorem BoreFollows.dropWaiting (c : Chip) (n : BitVec 12) : BoreFollows c (c.dropWaiting n) :=
  ⟨.of_eq rfl, fun q => by simp [Chip.dropWaiting]⟩

theorem BoreFollows.dropDead (c : Chip) : BoreFollows c c.dropDead := .of_sent rfl c.dropDead_portsSend

theorem BoreFollows.abortBusy (c : Chip) (r : Running) (cause : W16) : BoreFollows c (c.abortBusy r cause) :=
  .foldl (fun d g => .trans (.endGroup d g [] 0x0040 cause) (.countLost _ none 0)) _ c

theorem BoreFollows.restore (s : State) (p : Fin 4) : BoreFollows s.chip (s.restore p).chip := by
  cases hrun : s.chip.run p with
  | none => exact .of_eq (by simp [State.restore, hrun]) (by simp [State.restore, hrun])
  | some r =>
    cases hsrc : replaySource r.commits with
    | none =>
      rw [State.restore_of_none hrun hsrc]
      exact .refl _
    | some x =>
      rw [State.restore_of_some hrun hsrc]
      refine .trans (.of_eq ?_ ?_) (.foldl (f := fun c (y : GroupPt) => c.modGroup y.grp fun g => { g with sqn := y.sqn })
        (fun d y => .modGroup (f := fun g => { g with sqn := y.sqn }) (fun _ => ⟨rfl, rfl, id⟩) d y.grp) x.pt.groups _)
      · rfl
      · rfl

/-! ### The start of a plan -/

theorem Chip.beginStaging_ports (c : Chip) (x : Plan) : (c.beginStaging x).1.ports = c.ports := by
  unfold Chip.beginStaging
  refine List.foldlRecOn (motive := fun y : Chip × _ => y.1.ports = c.ports) _ _ rfl fun y hy a _ => ?_
  split
  · exact hy
  · exact hy

theorem Chip.unbind_ports (c : Chip) (x : Plan) : (c.unbind x).ports = c.ports := by
  unfold Chip.unbind
  dsimp only
  split
  · simp
  · rfl

theorem Chip.begun_ports (c : Chip) (q : Fin 4) (x : Plan) : (c.begun q x).ports = c.ports := by
  have hready : (c.readied x).ports = c.ports :=
    (foldl_keeps (g := Chip.ports) (f := fun (c : Chip) (e : TurnEnt) => c.touch e.grp) (fun _ _ => rfl) _ _).trans ((c.unbind x).beginStaging_ports x |>.trans (c.unbind_ports x))
  exact Eq.trans (by simp [Chip.begun]) hready

theorem BoreFollows.sendTransfers (s : State) (x : Plan) : BoreFollows s.chip (s.sendTransfers x).chip := by
  unfold State.sendTransfers
  refine .sfoldl (fun u y => ?_) _ s
  split
  · exact .refl _
  · next g hg =>
    split
    · rw [State.on_chip]
      refine .trans (.sendHop u.chip _ _ _) (.modGroup ?_ _ g.grp)
      exact fun _ => ⟨rfl, rfl, id⟩
    · exact .refl _

theorem BoreFollows.startWaiting (s : State) (p : Fin 4) : BoreFollows s.chip (s.startWaiting p).chip := by
  cases h : s.chip.mayStart p with
  | none =>
    rw [State.startWaiting_of_not_mayStart h]
    exact .refl _
  | some x =>
    rw [State.startWaiting_of_mayStart h]
    refine .trans ⟨?_, fun q => ?_⟩ (.sendTransfers ..)
    · exact (GroupsFollow.begun s.chip p x.1).trans (.of_eq (by rw [State.on_chip]; simp))
    · exact congrArg Port.state (Chip.port_congr ((Chip.complete_ports ..).trans (Chip.begun_ports ..)) q)

theorem BoreFollows.freePart (s : State) (p : Fin 4) : BoreFollows s.chip (s.freePart p).chip := by
  unfold State.freePart
  refine .trans (.of_eq ?_ ?_) (.sfoldl (fun u q => .startWaiting u q) _ _)
  · simp
  · simp

/-! ### Faults -/

theorem BoreFollows.faultOut (c : Chip) (p : Fin 4) (r : Running) (n : Nat) (commit : Stamp × W32) (f : FaultInfo) :
    BoreFollows c (c.faultOut p r n commit f) := .of_eq (by simp) (by simp)

theorem BoreFollows.tenantFault (s : State) (p : Fin 4) (f : FaultInfo) (sound : Bool) :
    BoreFollows s.chip (s.tenantFault p f sound).chip := by
  cases h : s.chip.run p with
  | none =>
    simp only [State.tenantFault, h]
    exact .refl _
  | some r =>
    have habort : BoreFollows s.chip (s.on fun c => c.abortBusy r f.status).chip := .abortBusy ..
    obtain ⟨u, hu, hset⟩ : ∃ u, u = (if sound then (s.on fun c => c.abortBusy r f.status).restore p else
        s.on fun c => c.abortBusy r f.status) ∧ BoreFollows s.chip u.chip := by
      cases sound with
      | true => exact ⟨_, rfl, habort.trans (.restore ..)⟩
      | false => exact ⟨_, rfl, habort⟩
    simp only [State.tenantFault, h, ← hu]
    cases u.chip.run p with
    | none => exact hset
    | some r' => exact hset.trans (.trans (.faultOut u.chip p r' _ _ f) (.freePart (u.on fun c => c.faultOut p r' _ _ f) p))

theorem BoreFollows.lostFault (s : State) (p : Fin 4) (g : Group) (cause : W16) :
    BoreFollows s.chip (s.lostFault p g cause).chip := by
  unfold State.lostFault
  split
  · exact .refl _
  · exact .tenantFault ..

theorem BoreFollows.failFetch (c : Chip) (t : Fin 16) (f : Fetch) (st : W16) : BoreFollows c (c.failFetch t f st) := by
  refine ⟨?_, fun q => congrArg Port.state (Chip.port_congr (by simp) q)⟩
  have hend : GroupsFollow c.groups (c.endFetch t f st).groups := by
    unfold Chip.endFetch
    dsimp only
    split
    · exact .trans (.of_eq (by simp)) (.touch ..)
    · exact .of_eq (by simp)
  exact hend.trans (.of_eq (by simp [Chip.failFetch]))

theorem BoreFollows.settleFetches (t : Fin 16) : ∀ (n : Nat) (c : Chip), BoreFollows c (c.settleFetches t n)
  | 0, c => .refl c
  | n + 1, c => by
    unfold Chip.settleFetches
    split
    · exact .refl c
    · split
      · exact .refl c
      · exact .trans (.failFetch ..) (.settleFetches t n _)

/-- Fetches that end fault no tenant and end no plan. -/
theorem Chip.settleFetches_runs (t : Fin 16) : ∀ (n : Nat) (c : Chip), (∀ q, (c.settleFetches t n).run q = c.run q) ∧
    ∀ y : Fin 16, (c.settleFetches t n).tenants[y].fault = c.tenants[y].fault
  | 0, c => ⟨fun _ => rfl, fun _ => rfl⟩
  | n + 1, c => by
    cases hfs : c.tenants[t].fetches with
    | nil =>
      rw [show c.settleFetches t (n + 1) = c by simp only [Chip.settleFetches, hfs]]
      exact ⟨fun _ => rfl, fun _ => rfl⟩
    | cons f fs =>
      by_cases hserved : c.serverThere t f.grp f.rank = true
      · rw [show c.settleFetches t (n + 1) = c by simp only [Chip.settleFetches, hfs, hserved, if_true]]
        exact ⟨fun _ => rfl, fun _ => rfl⟩
      · rw [show c.settleFetches t (n + 1) = (c.failFetch t f 0x0040).settleFetches t n by
          simp only [Chip.settleFetches, hfs, hserved]; rfl]
        obtain ⟨hruns, hfaults⟩ := Chip.settleFetches_runs t n (c.failFetch t f 0x0040)
        obtain ⟨sw, rt, hten⟩ := c.failFetch_tenants t f 0x0040
        refine ⟨fun q => (hruns q).trans (by simp), fun y => (hfaults y).trans ?_⟩
        refine (congrArg (fun v : Vector Tenant 16 => v[y].fault) hten).trans ?_
        by_cases hy : y = t
        · subst hy
          exact (congrArg Tenant.fault (vecMod_same ..)).trans rfl
        · exact congrArg Tenant.fault (vecMod_ne _ _ hy)

/-- The partition of a lost collective, where it runs a plan, takes a tenant fault. -/
theorem State.lostFault_of_run {s : State} {p : Fin 4} {r : Running} (h : s.chip.run p = some r) (g : Group) (cause : W16) :
    ∃ f, s.lostFault p g cause = s.tenantFault p f true := by
  unfold State.lostFault
  rw [h]
  exact ⟨_, rfl⟩

theorem State.lostFault_of_none {s : State} {p : Fin 4} (h : s.chip.run p = none) (g : Group) (cause : W16) :
    s.lostFault p g cause = s := by
  unfold State.lostFault
  rw [h]

/-- A fault of one partition: nothing comes to wait, faulted tenants stay so, and the other plans run on. -/
theorem State.lostFault_alone {s : State} (hwait : NothingWaits s.chip) (p : Fin 4) (g : Group) (cause : W16) :
    FaultsStay s (s.lostFault p g cause) ∧ (s.lostFault p g cause).chip.run p = none ∧
      ∀ q, q ≠ p → (s.lostFault p g cause).chip.run q = s.chip.run q := by
  cases h : s.chip.run p with
  | none =>
    rw [State.lostFault_of_none h]
    exact ⟨⟨hwait, fun _ ht => ht⟩, h, fun _ _ => rfl⟩
  | some r =>
    obtain ⟨f, hf⟩ := State.lostFault_of_run h g cause
    obtain ⟨-, hgone, hruns, -, -, -⟩ := State.tenantFault_alone h hwait f true rfl
    rw [hf]
    exact ⟨(State.tenantFault_faultsStay h hwait f true).1, hgone, hruns⟩

/-- Once a partition has no plan, the faults of others leave it so. -/
theorem foldl_lostFault_none (g : Group) (cause : W16) {q : Fin 4} (l : List (Fin 4)) : ∀ {s : State}, NothingWaits s.chip →
    s.chip.run q = none → (l.foldl (fun s q => s.lostFault q g cause) s).chip.run q = none := by
  induction l with
  | nil => exact fun _ h => h
  | cons p l ih =>
    intro s hwait hnone
    obtain ⟨hstay, hgone, hruns⟩ := State.lostFault_alone hwait p g cause
    refine ih hstay.waits ?_
    by_cases hq : q = p
    · rw [hq]
      exact hgone
    · rw [hruns q hq, hnone]

/-- Every partition of a list takes its fault. -/
theorem foldl_lostFault (g : Group) (cause : W16) {q : Fin 4} {r : Running} (l : List (Fin 4)) : ∀ {s : State},
    NothingWaits s.chip → q ∈ l → s.chip.run q = some r →
    (l.foldl (fun s q => s.lostFault q g cause) s).chip.run q = none ∧
      (l.foldl (fun s q => s.lostFault q g cause) s).chip.tenants[r.plan.tenant].fault = true := by
  induction l with
  | nil => exact fun _ h => absurd h (by simp)
  | cons p l ih =>
    intro s hwait hmem hrun
    obtain ⟨hstay, hgone, hruns⟩ := State.lostFault_alone hwait p g cause
    by_cases hq : q = p
    · subst hq
      obtain ⟨f, hf⟩ := State.lostFault_of_run hrun g cause
      have hfault : (s.lostFault q g cause).chip.tenants[r.plan.tenant].fault = true := by
        rw [hf]
        exact (State.tenantFault_faultsStay hrun hwait f true).2
      have hrest : FaultsStay (s.lostFault q g cause) (l.foldl (fun s q => s.lostFault q g cause) (s.lostFault q g cause)) :=
        .foldl (fun u x hu => (State.lostFault_alone hu x g cause).1) l hstay.waits
      exact ⟨foldl_lostFault_none g cause l hstay.waits hgone, hrest.stay _ hfault⟩
    · exact ih hstay.waits ((List.mem_cons.mp hmem).resolve_left hq) ((hruns q hq).trans hrun)

/-! ### A group that ends -/

/-- The faults of the partitions that are busy with a group that has ended, and the end of its tenant's fetches. -/
def State.settleLost (s : State) (l : List (Fin 4)) (g : Group) (cause : W16) : State :=
  (l.foldl (fun s q => s.lostFault q g cause) s).on fun c => c.settleFetches g.ten 256

theorem BoreFollows.settleLost (s : State) (l : List (Fin 4)) (g : Group) (cause : W16) :
    BoreFollows s.chip (s.settleLost l g cause).chip :=
  .trans (.sfoldl (fun u q => .lostFault u q g cause) l s) (.settleFetches ..)

theorem State.settleLost_faults {s : State} (hwait : NothingWaits s.chip) {l : List (Fin 4)} (g : Group) (cause : W16)
    {q : Fin 4} {r : Running} (hmem : q ∈ l) (hrun : s.chip.run q = some r) :
    (s.settleLost l g cause).chip.run q = none ∧ (s.settleLost l g cause).chip.tenants[r.plan.tenant].fault = true := by
  obtain ⟨hgone, hfault⟩ := foldl_lostFault g cause l hwait hmem hrun
  obtain ⟨hruns, hfaults⟩ := Chip.settleFetches_runs g.ten 256 (l.foldl (fun s q => s.lostFault q g cause) s).chip
  exact ⟨(hruns q).trans hgone, (hfaults _).trans hfault⟩

/-- The chip on which a lost group is marked as ended. -/
def Chip.markLost (c : Chip) (g : Group) (skip : List (Fin 16)) (q : Option (Fin 16)) (cause : W16) : Chip :=
  if !(allParts.filter (c.busyWith g)).isEmpty || c.fetchOver g then
    ((c.endGroup g (allPorts.filter fun p => skip.contains p || !g.ring.contains p) 0x0040 cause).dropWaiting g.grp).countLost
      q cause
  else (c.modGroup g.grp Group.ended).dropWaiting g.grp

theorem State.endLost_of_live {g : Group} (h : g.dead = false) (s : State) (skip : List (Fin 16)) (q : Option (Fin 16))
    (cause : W16) : s.endLost g skip q cause =
      (s.on fun c => c.markLost g skip q cause).settleLost (allParts.filter (s.chip.busyWith g)) g cause := by
  unfold State.endLost
  rw [h]
  rfl

theorem State.endLost_of_dead {g : Group} (h : g.dead = true) (s : State) (skip : List (Fin 16)) (q : Option (Fin 16))
    (cause : W16) : s.endLost g skip q cause = s := by
  unfold State.endLost
  rw [h]
  rfl

theorem BoreFollows.markLost (c : Chip) (g : Group) (skip : List (Fin 16)) (q : Option (Fin 16)) (cause : W16) :
    BoreFollows c (c.markLost g skip q cause) := by
  unfold Chip.markLost
  split
  · exact .trans (.trans (.endGroup ..) (.dropWaiting ..)) (.countLost ..)
  · exact .trans (.modGroup (f := Group.ended) (fun _ => ⟨rfl, rfl, fun _ => rfl⟩) c g.grp) (.dropWaiting ..)

theorem BoreFollows.endLost (s : State) (g : Group) (skip : List (Fin 16)) (q : Option (Fin 16)) (cause : W16) :
    BoreFollows s.chip (s.endLost g skip q cause).chip := by
  cases h : g.dead with
  | true =>
    rw [State.endLost_of_dead h]
    exact .refl _
  | false =>
    rw [State.endLost_of_live h]
    exact BoreFollows.trans (.markLost s.chip g skip q cause)
      (.settleLost (s.on fun c => c.markLost g skip q cause) (allParts.filter (s.chip.busyWith g)) g cause)

theorem Chip.modGroup_ended {c : Chip} {n : BitVec 12} {g : Group} (h : c.group n = some g) :
    (c.modGroup n Group.ended).group n = some g.ended := by
  refine (Chip.group_modGroup (g := n) (f := Group.ended) (fun _ => rfl) c).trans ?_
  rw [h]
  rfl

theorem Chip.markLost_group {c : Chip} {g g' : Group} (h : c.group g.grp = some g') (skip : List (Fin 16))
    (q : Option (Fin 16)) (cause : W16) : (c.markLost g skip q cause).group g.grp = some g'.ended := by
  unfold Chip.markLost
  split
  · refine Eq.trans ?_ (Chip.modGroup_ended (c := c.sendAbort (g.allPorts.filter fun p =>
      !(allPorts.filter fun p => skip.contains p || !g.ring.contains p).contains p) g.grp g.sqn 0x0040 cause)
      ((Chip.sendAbort_group ..).trans h))
    rfl
  · exact Chip.modGroup_ended h

theorem Chip.markLost_parts (c : Chip) (g : Group) (skip : List (Fin 16)) (q : Option (Fin 16)) (cause : W16) :
    (c.markLost g skip q cause).partPending = c.partPending ∧ (c.markLost g skip q cause).parts = c.parts := by
  unfold Chip.markLost
  split <;> simp

/-- A lost group is marked as ended. -/
theorem State.endLost_ended {s : State} {g g' : Group} (h : s.chip.group g.grp = some g') (hdead : g.dead = true → g'.dead = true)
    (skip : List (Fin 16)) (q : Option (Fin 16)) (cause : W16) :
    ∃ x, (s.endLost g skip q cause).chip.group g.grp = some x ∧ x.dead = true := by
  cases hg : g.dead with
  | true =>
    rw [State.endLost_of_dead hg]
    exact ⟨g', h, hdead hg⟩
  | false =>
    rw [State.endLost_of_live hg]
    exact (BoreFollows.settleLost ..).groups.dead (c := (s.on fun c => c.markLost g skip q cause).chip)
      (s.chip.markLost_group h skip q cause) rfl

/-- Each group of a list is marked as ended. -/
theorem foldl_endLost_ended {g : Group} (skip : List (Fin 16)) (q : Option (Fin 16)) (cause : W16) (l : List Group) :
    ∀ {s : State} {g' : Group}, g ∈ l → s.chip.group g.grp = some g' → (g.dead = true → g'.dead = true) →
    ∃ x, (l.foldl (fun s g => s.endLost g skip q cause) s).chip.group g.grp = some x ∧ x.dead = true := by
  induction l with
  | nil => exact fun h => absurd h (by simp)
  | cons y l ih =>
    intro s g' hmem h hdead
    rw [List.foldl_cons]
    by_cases hy : g = y
    · subst hy
      obtain ⟨x, hx, hxdead⟩ := State.endLost_ended h hdead skip q cause
      exact (BoreFollows.sfoldl (fun u y => .endLost u y skip q cause) l _).groups.dead hx hxdead
    · obtain ⟨x, hx, hxdead⟩ := (BoreFollows.endLost s y skip q cause).groups.stays h
      exact ih ((List.mem_cons.mp hmem).resolve_left hy) hx fun hg => hxdead (hdead hg)

/-! ### A lost partner (R276) -/

/-- The groups that use a port toward a lost partner end, and the ports stay in their states. -/
theorem State.peerLost_ended {s : State} {p : Fin 16} {ser : W64} (hleads : s.chip.leadsTo ser p = true) {n : BitVec 12} {g : Group}
    (hgroup : s.chip.group n = some g) (hport : p ∈ g.allPorts) :
    (∃ x, (s.peerLost ser p).chip.group n = some x ∧ x.dead = true) ∧
      ∀ q : Fin 16, (s.peerLost ser p).chip.ports[q].state = s.chip.ports[q].state := by
  have hmem : g ∈ s.chip.groups.filter fun (g : Group) =>
      g.allPorts.any fun q => (allPorts.filter (s.chip.leadsTo ser)).contains q := by
    refine List.mem_filter.mpr ⟨List.mem_of_find?_eq_some hgroup, List.any_eq_true.mpr ⟨p, hport, ?_⟩⟩
    exact List.contains_iff_mem.mpr (List.mem_filter.mpr ⟨mem_allPorts p, hleads⟩)
  obtain rfl : g.grp = n := Chip.grp_of_group hgroup
  unfold State.peerLost
  dsimp only
  refine ⟨?_, ?_⟩
  · obtain ⟨x, hx, hdead⟩ := foldl_endLost_ended (allPorts.filter (s.chip.leadsTo ser)) (some p) 0x0040 _
      (s := s.on fun c => c.raise 5) hmem hgroup id
    exact (BoreFollows.dropDead _).groups.dead hx hdead
  · exact (BoreFollows.trans (BoreFollows.sfoldl (fun u (y : Group) =>
      .endLost u y (allPorts.filter (s.chip.leadsTo ser)) (some p) 0x0040) _ (s.on fun c => c.raise 5)) (.dropDead _)).states

theorem Chip.leadsTo_congr {c d : Chip} {q : Fin 16} (h : d.ports[q].peer = c.ports[q].peer) (ser : W64) :
    d.leadsTo ser q = c.leadsTo ser q := by
  unfold Chip.leadsTo
  rw [h]

/-- A silent port that was the last one UP toward its partner: the partner is lost with it. -/
theorem Chip.portGone_partnerGone {c : Chip} {p : Fin 16} {ser : W64} (closed : Bool)
    (hlast : ∀ q, q ≠ p → c.leadsTo ser q = true → c.ports[q].state ≠ .up) :
    (c.portGone p closed).partnerGone ser .silent = true := by
  unfold Chip.partnerGone
  refine List.all_eq_true.mpr fun q hq => decide_eq_true ?_
  by_cases hqp : q = p
  · subst hqp
    rw [(c.portGone_same q closed).state]
    show PortState.down ≠ .up
    decide
  · have hsame := c.portGone_ne closed hqp
    rw [hsame.state]
    exact hlast q hqp ((Chip.leadsTo_congr hsame.peer ser).symm.trans (List.mem_filter.mp hq).2)

/-- The loss of the last UP port toward a partner ends every group that uses the port. -/
theorem State.losePort_ended {s : State} {p : Fin 16} {h : Hello} (hup : s.chip.ports[p].state = .up)
    (hpeer : s.chip.ports[p].peer = some h) {n : BitVec 12} {g : Group} (hgroup : s.chip.group n = some g) (hport : p ∈ g.allPorts)
    (hlast : ∀ q, q ≠ p → s.chip.leadsTo h.serial q = true → s.chip.ports[q].state ≠ .up) :
    (∃ x, (s.losePort p .silent).chip.group n = some x ∧ x.dead = true) ∧
      (s.losePort p .silent).chip.ports[p].state = .down := by
  obtain ⟨c, hc⟩ : ∃ c, c = s.chip.portGone p false := ⟨_, rfl⟩
  have hgone : s.chip.goneWith p h.serial .silent = c := hc.symm
  have hsame := s.chip.portGone_same p false
  have hleads : c.leadsTo h.serial p = true := by
    rw [hc, Chip.leadsTo, hsame.peer]
    exact (congrArg (fun x : Option Hello => (match x with
      | some y => decide (y.serial = h.serial)
      | none => false)) hpeer).trans (decide_eq_true rfl)
  have hgroups : c.group n = some g := by
    rw [hc, Chip.group, show (s.chip.portGone p false).groups = s.chip.groups by simp]
    exact hgroup
  have hlost : c.partnerGone h.serial .silent = true := hc ▸ Chip.portGone_partnerGone false hlast
  obtain ⟨hended, hstates⟩ := State.peerLost_ended (s := s.on fun _ => c) hleads hgroups hport
  have heq : s.losePort p .silent = (s.on fun _ => c).peerLost h.serial p := by
    rw [State.losePort_partner hup hpeer, hgone, if_pos hlost]
    exact congrArg (fun u : State => u.peerLost h.serial p) (congrArg (fun c => { s with chip := c }) hgone)
  rw [heq]
  exact ⟨hended, (hstates p).trans ((congrArg (fun c : Chip => c.ports[p].state) hc).trans hsame.state)⟩

/-! ### The events -/

theorem Chip.abortTaken_parts (c : Chip) (g : Group) (p : Fin 16) (cause : W16) :
    (c.abortTaken g p cause).partPending = c.partPending ∧ (c.abortTaken g p cause).parts = c.parts := by
  unfold Chip.abortTaken
  simp

theorem abort_ends {s : State} {p : Fin 16} (hrun : s.chip.power = .running) (hup : s.chip.ports[p].state = .up) {h : BoreHdr}
    (hplain : plainHdr h) {b : AbortBody} {g : Group} (hgroup : s.chip.group b.grp = some g) (hlive : g.dead = false)
    (hport : p ∈ g.allPorts) (hopen : (b.sqn - g.sqn).toNat < 2147483648) :
    ∃ u, exec (.abortReceive p h b) s = .next u ∧ (∃ g', u.chip.group b.grp = some g' ∧ g'.dead = true) ∧
      (NothingWaits s.chip → ∀ q r, s.chip.run q = some r → s.chip.busyWith g q = true →
        u.chip.run q = none ∧ u.chip.tenants[r.plan.tenant].fault = true) ∧ u.pending = s.pending := by
  obtain ⟨c, hc⟩ : ∃ c, c = (s.chip.takeAck p h).abortTaken g p b.cause := ⟨_, rfl⟩
  have hexec : exec (.abortReceive p h b) s =
      .next ((s.on fun _ => c).settleLost (allParts.filter (s.chip.busyWith g)) g b.cause) := by
    rw [hc]
    exact exec_abortReceive_open hrun hup hplain hgroup hlive hport hopen
  have hended : c.group b.grp = some g.ended := by
    rw [hc]
    exact Chip.abortTaken_group ((Chip.takeAck_group h _).trans hgroup) p b.cause
  have hparts : c.partPending = s.chip.partPending ∧ c.parts = s.chip.parts := by
    rw [hc, (Chip.abortTaken_parts ..).1, (Chip.abortTaken_parts ..).2]
    exact ⟨by simp, Chip.takeAck_parts h⟩
  refine ⟨_, hexec, ?_, fun hwait q r hr hbusy => ?_, ?_⟩
  · exact (BoreFollows.settleLost (s.on fun _ => c) _ g b.cause).groups.dead hended rfl
  · refine State.settleLost_faults (s := s.on fun _ => c) (nothingWaits_of_parts hwait hparts.1 hparts.2) g b.cause
      (List.mem_filter.mpr ⟨mem_allParts q, hbusy⟩) ?_
    exact (congrArg (fun v : Vector Part 4 => v[q].run) hparts.2).trans hr
  · exact sfold_pending (fun u q => by simp) _ _

theorem exec_progressTimeout_stalled {s : State} {grp : BitVec 12} {g : Group} (hrun : s.chip.power = .running)
    (hgroup : s.chip.group grp = some g) (h : s.chip.stalled g = true) :
    exec (.progressTimeout grp) s = .next (s.endLost g [] none 0x0040) := by
  change execProgressTimeout grp s = _
  simp only [execProgressTimeout, hgroup, h, Chip.up_of_running hrun]
  rfl

theorem State.endLost_faults {s : State} {g : Group} (hlive : g.dead = false) (skip : List (Fin 16)) (x : Option (Fin 16))
    (cause : W16) (hwait : NothingWaits s.chip) {q : Fin 4} {r : Running} (hr : s.chip.run q = some r)
    (hbusy : s.chip.busyWith g q = true) : (s.endLost g skip x cause).chip.run q = none ∧
      (s.endLost g skip x cause).chip.tenants[r.plan.tenant].fault = true := by
  obtain ⟨hpending, hparts⟩ := s.chip.markLost_parts g skip x cause
  rw [State.endLost_of_live hlive]
  refine State.settleLost_faults (nothingWaits_of_parts hwait hpending hparts) g cause
    (List.mem_filter.mpr ⟨mem_allParts q, hbusy⟩) ?_
  exact (congrArg (fun v : Vector Part 4 => v[q].run) hparts).trans hr

end Sys2Proof.Machine

open Sys2Proof.Machine

/-- Settles O56: a group that has ended stays so through the faults that follow (`BoreFollows`), and every partition that was
busy with it takes its fault (`foldl_lostFault`). -/
theorem lostPartnersEndGroups : Obligations.LostPartnersEndGroups := by
  unfold Obligations.LostPartnersEndGroups
  intro s hrun ended faulted
  refine ⟨fun p h b g hup hplain hgroup hlive hport hopen => abort_ends hrun hup hplain hgroup hlive hport hopen,
    fun grp g hgroup hstalled => ?_, fun p h grp g hup hpeer hlate hgroup hport hlast => ?_⟩
  · obtain rfl : g.grp = grp := Chip.grp_of_group hgroup
    exact ⟨_, exec_progressTimeout_stalled hrun hgroup hstalled, State.endLost_ended hgroup id [] none 0x0040,
      fun hlive hwait q r hr hbusy => State.endLost_faults hlive [] none 0x0040 hwait hr hbusy, by simp⟩
  · obtain ⟨hended, hdown⟩ := State.losePort_ended hup hpeer hgroup hport hlast
    exact ⟨_, exec_liveTimeout_late hrun hup hlate, hended, hdown, by simp⟩

end
